-- ==== Sys2Proof/Word.lean ====
section
/-! DEFINITION. The byte type and the byte-string type that every other file uses (00_scope.md R9). -/

namespace Sys2Proof

/-- Eight bits, the smallest unit a port, a buffer or a dictionary entry holds. -/
abbrev Byte := BitVec 8

/-- A run of bytes, lowest address first (R9: multi-byte values are little-endian). -/
abbrev Bytes := List Byte

end Sys2Proof
end

