-- ==== Sys2Proof/Syntax.lean ====
section
/-! DEFINITION. The commands the block takes: one constructor of `Instr` per row of
spec/opcode_table.json, with the operands that the environment brings (a written value, a master,
a response, what a die answered). -/

namespace Sys2Proof

/-- The three supplies (02_ports.md R101). -/
inductive Rail where
  | vdd | vddp | vccq
  deriving DecidableEq, Repr

/-- The flit classes of a port (R44). -/
inductive YppClass where
  | req | rsp | dat | msg
  deriving DecidableEq, Repr

/-- A `REQ` or `MSG` header as it arrives (R51), with the inline data of a `MSG_WRITE`. -/
structure ReqHdr where
  cls : YppClass
  op : Nat
  addr : Nat
  len : Nat
  txid : Nat
  mid : Nat
  msz : Bool
  data : Nat
  deriving DecidableEq, Repr

/-- An `RSP` header with the bytes of its transfer, whether any of its flits is poisoned, and the number of its `DAT`
flits up to the one with `i_last` (R53, R54, R55). -/
structure RspHdr where
  op : Nat
  status : Nat
  txid : Nat
  lenM1 : Nat
  data : Bytes
  poison : Bool
  flits : Nat
  deriving DecidableEq, Repr

/-- The port whose window carried a request and the transaction to answer (R51, R62); for a write of `ODW_CMD`, whether
the MU has still to end the command when the next command of the queue comes (`state` is then `BUSY`, R132), and
whether argument and data part are those written to `ODW_ARG` and `ODW_BUF` before (R133). -/
structure Via where
  p : Nat
  txid : Nat
  later : Bool
  regs : Bool
  deriving DecidableEq, Repr

/-- A write of `ODW_CMD` that a row of its own stands for: the window, and the command word's tag and seq (R112). -/
structure Win where
  via : Via
  tag : Nat
  seq : Nat
  deriving DecidableEq, Repr

/-- A transfer-protocol command: the master, the window that carried it (none: I3C), the command
word's tag, seq, index and sub-index (R112). -/
structure OdCmd where
  m : Nat
  via : Option Via
  tag : Nat
  seq : Nat
  idx : Nat
  sub : Nat
  deriving DecidableEq, Repr

/-- The forms of a write of an entry: EXP_WRITE, SEG_WRITE, BLK_WRITE_INIT (R114). -/
inductive WrForm where
  | exp (len arg : Nat)
  | seg (data : Bytes)
  | init (total : Nat)
  deriving DecidableEq, Repr

/-- A write of the same entry by another master in the same arbitration window (R129, R130). -/
structure Rival where
  m : Nat
  via : Option Via
  tag : Nat
  seq : Nat
  form : WrForm
  deriving DecidableEq, Repr

/-- What a write that may have a rival brings: its data part or total size, and the rival (R129). -/
structure Contested (α : Type) where
  val : α
  rival : Option Rival
  deriving DecidableEq, Repr

/-- A doorbell for the same ring that another port brings in the same cycle: its sq_tail and cq_head halves, as far as
it writes them (R61, R147). -/
structure SameDb where
  p : Nat
  txid : Nat
  sq : Option (BitVec 32)
  cq : Option (BitVec 32)
  deriving DecidableEq, Repr

/-- How a doorbell comes: its transfer's ID, and the others that come in the same cycle. -/
structure DbCycle where
  txid : Nat
  same : List SameDb
  deriving DecidableEq, Repr

/-- A message target's slot: the target, and the level of bl_awake as it is sampled (R99, R509). -/
structure SlotAt where
  t : Nat
  awake : Bool
  deriving DecidableEq, Repr

/-- What a plain write names: an entry, ODW_ARG, or size bytes of ODW_BUF (R122, R131). -/
inductive WriteTarget where
  | entry (idx sub : Nat)
  | arg
  | buf (off size : Nat)
  deriving DecidableEq, Repr

/-- The addressing of an MCTP control request (R136). -/
structure MctpCtl where
  src : Nat
  dst : Nat
  tag : Nat
  deriving DecidableEq, Repr

/-- One journal record as the media holds it (11_clasp_commit_power_loss.md R408). -/
structure JRec where
  typ : Nat
  flags : Nat
  grp : Nat
  aux : Nat
  a : Nat
  b : Nat
  c : Nat
  deriving DecidableEq, Repr

/-- A journal sector as replay reads it: both copies failing gives `ok = false` (R406, R435). -/
structure JSector where
  jsn : Nat
  last : Bool
  epoch : Nat
  ok : Bool
  recs : List JRec
  deriving DecidableEq, Repr

/-- A checkpoint as replay reads it (R417, R434): its number, the JSN of its CKPT_BEGIN, whether its
CKPT_END is in the journal and every sector passes, and its header and arrays. -/
structure CkptImage where
  num : Nat
  beginJsn : Nat
  ok : Bool
  regions : List Nat
  cap : Nat
  stripeN : Nat
  ssetCrc : Nat
  bitBlocks : Nat
  map : List (Nat × Nat)
  blocks : List (Nat × Nat)
  bands : List (Nat × List Nat)
  cells : List (Nat × Nat)
  deriving DecidableEq, Repr

/-- What closing a band found (R437): a granule to be placed again, with its sectors' data and a mask of those
that could not be rebuilt, or a member cut at a row. -/
inductive CloseFinding where
  | repair (granule : Nat) (data : List Bytes) (bad : Nat)
  | cut (set bidx mpos row : Nat)
  deriving DecidableEq, Repr

/-- A unit of a relocation's destination: job, map index, the unit's m_gen, its address and the source address (R439). -/
structure RelUnit where
  job : Nat
  granule : Nat
  gen : Nat
  addr : Nat
  src : Nat
  deriving DecidableEq, Repr

/-- A salvaged granule found in a flush block (R440): its index, sequence number, stream, ring set and data. -/
structure SalvUnit where
  granule : Nat
  wseq : Nat
  stream : Nat
  rset : Nat
  data : List Bytes
  deriving DecidableEq, Repr

/-- A region-0 block as the census finds it (R434 step 1): 0 erased, 1 journal, 2 checkpoint, 3 flush,
4 unreadable; and the newest journal or checkpoint number in it. -/
structure CensusBlk where
  die : Nat
  block : Nat
  plane : Nat
  cls : Nat
  last : Nat
  deriving DecidableEq, Repr

/-- The counts of an erase-state probe: bits read as 0 in page 0 and in the other probed pages (R438). -/
structure ProbeRead where
  die : Nat
  block : Nat
  page0 : Nat
  others : List Nat
  deriving DecidableEq, Repr

/-- What replay finds on the dies, and the milliseconds it took (R434 to R442). -/
structure Media where
  census : List CensusBlk
  ckpts : List CkptImage
  journal : List JSector
  tail : List JSector
  accs : Nat
  index : Bool
  closes : List CloseFinding
  relUnits : List RelUnit
  salvage : List SalvUnit
  probes : List ProbeRead
  millis : Nat
  deriving DecidableEq, Repr

/-- What a finished bus burst brought: a status byte, whether a strobe was seen, the raw codewords of a
data-out in slot order, feature, ID or parameter bytes, and the microseconds the operation took. -/
structure BurstResult where
  status : Byte
  dqs : Bool
  cws : List Bytes
  bytes : Bytes
  micros : Nat
  deriving DecidableEq, Repr

/-- Where a raw operation comes from: the OD through a master, or the ring command of a tag. -/
inductive RawSrc where
  | od (m : Nat)
  | ring (tag : Nat)
  deriving DecidableEq, Repr

/-- A raw operation's address and command fields (06_die_scheduling.md R272, R273); `rsvd` says whether a
reserved bit of either word is not 0. -/
structure RawReq where
  src : RawSrc
  addr : Nat
  rlen : Nat
  rfa : Nat
  noecc : Bool
  norand : Bool
  slc : Bool
  rsvd : Bool
  deriving DecidableEq, Repr

/-- The signature a target's Read ID returned (07_nand_interface.md R288). -/
inductive IdSig where
  | none | onfi | jedec
  deriving DecidableEq, Repr

/-- The fields identification takes from a parameter page, and its bytes (R289, R316). -/
structure ParamPage where
  dataBytes : Nat
  spare : Nat
  pages : Nat
  blocksPerLun : Nat
  luns : Nat
  planes : Nat
  ifaces : Nat
  rse : Bool
  unsupported : Bool
  cacheProg : Bool
  cacheRead : Bool
  raw : Bytes
  deriving DecidableEq, Repr

/-- One target's answers at identification: step 1 ended and an ID came; the signature; the first valid
copy of the parameter page; the LUNs whose Read Status Enhanced showed RDY. -/
structure TargetAnswer where
  answers : Bool
  sig : IdSig
  page : Option ParamPage
  rdy : List Bool
  deriving DecidableEq, Repr

/-- A shadow-set write that takes effect in the cycle in which a swap starts (R300). -/
structure ShadowWrite where
  sub : Nat
  v : Nat
  deriving DecidableEq, Repr

/-- One training's measurements (R306, R307, R310). -/
structure TrainResult where
  rdEye : Nat
  wrEye : Nat
  lanesOk : Bool
  vrefEnd : Bool
  gate : Nat
  wl : Nat
  vref : Nat
  rdDly : List Nat
  wrDly : List Nat
  deriving DecidableEq, Repr

/-- What a mode-changing swap met: LUNs whose Set Features failed, and a shadow write in the swap's cycle. -/
structure SwapResult where
  failed : List Nat
  shadow : Option ShadowWrite
  deriving DecidableEq, Repr

/-- A control-store word's fields (08_microcode.md R318), the check bits apart. -/
structure UWord where
  nx : BitVec 3
  nxa : BitVec 12
  cc : BitVec 6
  ccn : Bool
  sp : Bool
  dsel : BitVec 3
  bop : BitVec 4
  bimm : Byte
  bsrc : BitVec 4
  aop : BitVec 4
  ra : BitVec 4
  rb : BitVec 4
  imm : BitVec 32
  emv : Byte
  emw : Bool
  tsel : BitVec 4
  top : BitVec 2
  post : BitVec 4
  deriving DecidableEq, Repr

/-- The error state of a fetched patch RAM word (R319). -/
inductive EccState where
  | ok | single | double
  deriving DecidableEq, Repr

/-- What the sequencer sees of its surroundings in the word's cycles: pin, timer, stream and buffer
conditions, the bytes a STAT or DBI reads, the error state of the fetched word, the cycles its bus
cycle holds, and the events that occur (R320, R322, R328). -/
structure UEnv where
  rb : Bool
  timer : Bool
  xfer : Bool
  dqs : Bool
  rawRoom : Bool
  stat : Byte
  data : Byte
  ecc : EccState
  hold : Nat
  events : Byte
  deriving DecidableEq, Repr

/-- What a decoder engine arrived at (09_codes_and_randomizer.md R369): the outcome of an algorithm whose
matrices the spec does not print. -/
structure DecRes where
  converged : Bool
  iters : Nat
  n01 : Nat
  n10 : Nat
  synd : Nat
  payload : Bytes
  deriving DecidableEq, Repr

/-- The commands: one constructor per row of spec/opcode_table.json. Rows of the I3C target without operands stand last,
so that each constructor with operands is among the first 244, which Lean's compiled code needs. -/
inductive Instr where
  /-- POWER_ON_RESET (R570). A fall and rise of por_n resets the whole block at once, cuts die operations short and leaves every entry at its default in START. -/
  | powerOnReset
  /-- MU_READY (R572). When the MU becomes ready after a power-on reset, Keeper queues the default ON requests and starts the first pwr_stagger wakes. -/
  | muReady
  /-- SUPPLY_OUT_OF_RANGE (R102). A supply leaving its range forces the NAND pads to their safe levels and drops YPP valid, credit, link_up and xoff outputs. -/
  | supplyOutOfRange (rail : Rail)
  /-- WRST (R573). wrst_n held low for at least 100 ns starts a block reset with rst_cause WRST. -/
  | wrst
  /-- WRST_GLITCH (R556). A wrst_n low shorter than 100 ns is discarded and counted. -/
  | wrstGlitch
  /-- RST_BLOCK (R573). A write of 0xB10C to rst_block starts a block reset that acts at each channel's next safe point. -/
  | rstBlock (m : Nat) (v : Nat)
  /-- RST_SOFT (R576). A write of 0x50F7 to rst_soft starts a soft reset that keeps PHYs, identification and the Locket copy. -/
  | rstSoft (m : Nat) (v : Nat)
  /-- RST_CHANNEL (R577). Writing a bit of rst_channel resets that excluded channel's four domains, reidentifies its dies and restores its wp_map words. -/
  | rstChannel (m : Nat) (v : Nat)
  /-- RESET_DRAINED (R575). Once die operations have ended, a block or soft reset drops every port's link and resets the islands in ON. -/
  | resetDrained
  /-- RESET_DONE (R575). After the 2 µs island reset, the service state becomes START, links come up again and the reset is counted. -/
  | resetDone
  /-- SVC_REQ (R581). A write of svc_req changes the service state as the transition table allows, or is aborted STATE. -/
  | svcReq (m : Nat) (v : Nat)
  /-- INBOUND_WRITE_REFUSED (R64). An inbound WRITE on the target side is answered UNSUPPORTED and its data flits are discarded with their credits returned. -/
  | inboundWriteRefused (p : Nat) (h : ReqHdr)
  /-- INBOUND_BAD_HEADER (R69). An inbound header with a reserved opcode or an opcode in the wrong class is answered UNSUPPORTED, or discarded if it is an RSP, and counted. -/
  | inboundBadHeader (p : Nat) (cls : YppClass) (op : Nat) (txid : Nat)
  /-- TARGET_DECODE_ERROR (R62). A target-side request to an unlisted window offset, or of the wrong kind, is answered DECODE or UNSUPPORTED and counted. -/
  | targetDecodeError (p : Nat) (h : ReqHdr)
  /-- INBOUND_RESPONSE (R68). A response to one of the FX32's own READs or WRITEs is taken, and a non-OK status or poison fails the issuing unit's transfer. -/
  | inboundResponse (p : Nat) (r : RspHdr)
  /-- INIT_TIMEOUT (R70). An initiator request that has not been answered within init_timeout_us fails its transfer and its txid is quarantined. -/
  | initTimeout (p : Nat) (txid : Nat)
  /-- CREDIT_RETURN (R46). A credit-return pulse from the fabric adds one credit of its class to the FX32's outbound counter. -/
  | creditReturn (p : Nat) (cls : YppClass)
  /-- FRAMING_VIOLATION (R72). A framing violation drops link_up for 64 port cycles, fails outstanding initiator transactions and discards queued target requests. -/
  | framingViolation (p : Nat)
  /-- FRAMING_RESTORE (R72). After 64 port cycles down, the port brings its link up again and grants its inbound credits. -/
  | framingRestore (p : Nat)
  /-- UNDERCREDIT (R75). If the minimum outbound credits are still missing 10 µs after link-up, link_state becomes UNDERCREDIT and a PORT fault is raised. -/
  | undercredit (p : Nat)
  /-- HOLDUP_REPORT (R86). A hold-up report taken on hu_valid is discarded as a duplicate, flagged out of range, or made the new budget. -/
  | holdupReport (energy : Nat) (seq : Nat)
  /-- HOLDUP_STALE (R86). A budget with no new report for 2 ms becomes stale and invalid. -/
  | holdupStale
  /-- VBUS_ABOVE_CEILING (R87). Three consecutive hu_vbus_mv samples above the ceiling, or above 30,000 mV, make the bus count as above the ceiling and invalidate the budget. -/
  | vbusAboveCeiling (mvs : List Nat)
  /-- VBUS_BELOW_CEILING (R87). Three consecutive samples at or below the ceiling make the bus count as back below it. -/
  | vbusBelowCeiling (mvs : List Nat)
  /-- PF_WARN (R88). pf_warn_n low for 200 consecutive samples asserts and latches the power-fail warning. -/
  | pfWarn
  /-- PF_GLITCH (R88). A pf_warn_n low shorter than 2 µs is discarded and counted as a glitch. -/
  | pfGlitch
  /-- SENSOR_REPORT (R89). A SoC sensor report is taken on ts_valid and discarded and counted if outside −55 °C to +150 °C. -/
  | sensorReport (id : Nat) (temp : Int)
  /-- SENSOR_STALE (R89). A sensor with no report for 250 ms becomes stale and untrusted and is counted. -/
  | sensorStale (id : Nat)
  /-- TB_SYNC (R91). A tb_sync pulse sets the timestamp clock, or is held as a pending step, applied as a confirmed step, or rejected. -/
  | tbSync (count : Nat)
  /-- TB_CLOCK_LOSS (R92). No tb_clk edge for 1 µs puts the time base in HOLDOVER, free-running on ao_clk. -/
  | tbClockLoss
  /-- TB_SYNC_TIMEOUT (R92). No sync accepted for 2 s puts the time base in HOLDOVER. -/
  | tbSyncTimeout
  /-- PG_FALL (R531). A fall of pc_pg with no transition in flight puts an ON domain in FAILED, or a RET domain in OFF, and raises a POWER fault. -/
  | pgFall (d : Nat)
  /-- PC_GLITCH (R556). A pc_pg or pc_ckrdy level shorter than 40 ns is counted and has no other effect. -/
  | pcGlitch (d : Nat)
  /-- RB_RISE (R258). A filtered rise of a target's R/B_n makes a status read of each still-busy LUN of that target ready. -/
  | rbRise (ch : Nat) (tgt : Nat)
  /-- RB_GLITCH (R556). An R/B_n level shorter than 20 ns is counted and has no other effect. -/
  | rbGlitch (ch : Nat) (tgt : Nat)
  /-- KEY_WORD_ACK (R97). The key store acknowledges a key-port word, which the loader latches, or which fails the Locket load if lk_err is high. -/
  | keyWordAck (data : BitVec 64) (err : Bool)
  /-- KEY_WORD_TIMEOUT (R98). A key-port word not acknowledged within 1 ms fails the Locket load with cause KEY_PORT. -/
  | keyWordTimeout
  /-- EXP_READ (R115). The MU returns the value of a fixed-size entry, or of a short STR, in the result. -/
  | expRead (c : OdCmd)
  /-- EXP_WRITE (R115). The MU writes a value from the argument to an entry after its access, ownership, length and range checks. -/
  | expWrite (c : OdCmd) (len : Nat) (arg : Nat) (rival : Option Rival)
  /-- SEG_READ (R116). The MU returns a STR or DOMAIN value of at most 4,096 bytes in the data part. -/
  | segRead (c : OdCmd)
  /-- SEG_WRITE (R116). The MU replaces a whole STR or DOMAIN value from the data part. -/
  | segWrite (c : OdCmd) (data : Contested Bytes)
  /-- BLK_READ_INIT (R117). The MU opens a block read and returns the total size. -/
  | blkReadInit (c : OdCmd)
  /-- BLK_WRITE_INIT (R118). The MU opens a block write of a declared total size. -/
  | blkWriteInit (c : OdCmd) (total : Contested Nat)
  /-- BLK_READ_NEXT (R117). The MU returns the next block of an open block read, checking seq. -/
  | blkReadNext (c : OdCmd) (seq : Nat)
  /-- BLK_WRITE_NEXT (R118). The MU takes the next block of an open block write, checking seq and length. -/
  | blkWriteNext (c : OdCmd) (seq : Nat) (data : Bytes)
  /-- BLK_END (R118). The MU closes a block transfer, returning the CRC of a read or checking length and CRC and replacing the value of a write. -/
  | blkEnd (c : OdCmd) (crc : Nat)
  /-- XFER_ABORT (R120). The MU closes the master's open transfer without counting it. -/
  | xferAbort (c : OdCmd)
  /-- INFO (R114). The MU returns the type, access code, size and group of an entry. -/
  | info (c : OdCmd)
  /-- UNKNOWN_CMD (R114). A command word with an undefined cmd is aborted UNKNOWN_CMD. -/
  | unknownCmd (c : OdCmd) (code : Nat)
  /-- XFER_TIMEOUT (R121). A transfer left idle for xfer_timeout_ms is closed, and held DOMAIN updates are applied. -/
  | xferTimeout (m : Nat)
  /-- OD_ENTRY_WRITE (R122). A write to an OD entry or window register that has no behaviour of its own stores the value in one MU cycle. -/
  | odEntryWrite (m : Nat) (via : Option Win) (t : WriteTarget) (v : Nat)
  /-- COUNTER_CLEAR (R109). A write of 0 to an event or error counter clears its value and SAT bit, and removes it from sat_list. -/
  | counterClear (m : Nat) (key : Nat) (v : Nat)
  /-- MASTER_ENABLE (R128). A write of master_enable that clears a master's bit closes that master's transfer and releases its groups. -/
  | masterEnable (m : Nat) (v : Nat)
  /-- GRP_OWNER (R127). A write of grp_owner claims or releases an entry group, and a release also clears grp_exclusive. -/
  | grpOwner (m : Nat) (g : Nat) (v : Nat)
  /-- I3C_ENABLE (R141). A write of i3c_enable makes the I3C target take part on the bus, or leave it. -/
  | i3cEnable (m : Nat) (v : Nat)
  /-- I3C_PRIVATE_WRITE (R136). An I3C private write carries one MCTP packet, which is checked and assembled into a message that is served when complete. -/
  | i3cPrivateWrite (pkt : Bytes) (pec : Byte)
  /-- IBI_RETRY (R138). An IBI not accepted is repeated every ibi_retry_us. -/
  | ibiRetry (accepted : Bool)
  /-- SET_ENDPOINT_ID (R136). The MCTP control message Set Endpoint ID assigns the FX32's EID. -/
  | setEndpointId (c : MctpCtl) (op : Nat) (eid : Nat)
  /-- GET_ENDPOINT_ID (R136). The MCTP control message Get Endpoint ID returns the FX32's EID. -/
  | getEndpointId (c : MctpCtl)
  /-- GET_MCTP_VERSION_SUPPORT (R136). The MCTP control message Get MCTP Version Support returns the supported versions. -/
  | getMctpVersionSupport (c : MctpCtl) (mtype : Nat)
  /-- GET_MESSAGE_TYPE_SUPPORT (R136). The MCTP control message Get Message Type Support returns types 0x00 and 0x7F. -/
  | getMessageTypeSupport (c : MctpCtl)
  /-- GET_VENDOR_DEFINED_MESSAGE_SUPPORT (R136). The MCTP control message returns vendor ID 0x0000_F1B1, version 0x0001. -/
  | getVendorDefinedMessageSupport (c : MctpCtl) (sel : Nat)
  /-- MCTP_UNSUPPORTED_CMD (R136). Any other MCTP control command is answered with ERROR_UNSUPPORTED_CMD. -/
  | mctpUnsupportedCmd (c : MctpCtl) (code : Nat)
  /-- ENEC (R135). The ENEC CCC enables the IBI. -/
  | enec (events : Byte)
  /-- DISEC (R135). The DISEC CCC disables the IBI. -/
  | disec (events : Byte)
  /-- ENTDAA (R135). The ENTDAA CCC makes the target take part in dynamic address assignment. -/
  | entdaa (addr : Nat)
  /-- SETMWL (R135). The SETMWL CCC stores a maximum write length of 69 or more, and ignores and counts a smaller one. -/
  | setmwl (v : Nat)
  /-- SETMRL (R135). The SETMRL CCC stores a maximum read length of 69 or more, and ignores and counts a smaller one. -/
  | setmrl (v : Nat)
  /-- SETDASA (R135). The SETDASA CCC sets the dynamic address from the static address. -/
  | setdasa (static : Nat) (addr : Nat)
  /-- SETNEWDA (R135). The SETNEWDA CCC sets a new dynamic address. -/
  | setnewda (addr : Nat)
  /-- RSTACT (R135). The RSTACT CCC with a non-zero defining byte resets the I3C and MCTP logic only. -/
  | rstact (defByte : Byte)
  /-- DB_SQ (R148). A DB_SQ doorbell is checked and sets a ring's new sq_tail, and on v1 also its cq_head. -/
  | dbSq (p : Nat) (r : Nat) (v : BitVec 32) (cyc : DbCycle)
  /-- DB_CQ (R148). A DB_CQ doorbell is checked and sets a ring's new cq_head. -/
  | dbCq (p : Nat) (r : Nat) (v : BitVec 32) (cyc : DbCycle)
  /-- DB_BOTH (R147). An 8-byte doorbell is applied as DB_SQ and then DB_CQ, with each half checked separately. -/
  | dbBoth (p : Nat) (r : Nat) (sq : BitVec 32) (cq : BitVec 32) (cyc : DbCycle)
  /-- SQ_FETCH (R150). The WRU issues a fetch READ of up to fetch_burst SQ entries for a ring with pending entries and a free tag, by priority. -/
  | sqFetch (p : Nat)
  /-- FETCH_STARVATION (R150). A ring whose pending entries have waited 100 µs without a fetch is served next. -/
  | fetchStarvation (r : Nat)
  /-- SQ_FETCH_COMPLETE (R152). Fetched entries reach the WRU slice, are checked and passed to Lantern in fetch order, or a failed fetch frees their tags. -/
  | sqFetchComplete (r : Nat)
  /-- WRITE (R159). The WRITE command stores nsec sectors from the host buffer, placed by its stream hint. -/
  | write (tag : Nat)
  /-- READ (R160). The READ command returns nsec sectors to the host buffer. -/
  | read (tag : Nat)
  /-- TRIM (R162). The TRIM command unmaps every granule wholly inside its range. -/
  | trim (tag : Nat)
  /-- FLUSH (R163). The FLUSH command completes once every earlier WRITE, TRIM and COPY in its scope is complete and durable. -/
  | flush (tag : Nat)
  /-- COMMIT (R166). The COMMIT command closes its group and has Clasp commit the group's records as one. -/
  | commit (tag : Nat)
  /-- COPY (R169). The COPY command copies nsec sectors from slba to dslba inside the FX32. -/
  | copy (tag : Nat)
  /-- SCAN (R170). The SCAN command tests fields of the mapped sectors of a range and writes a record for each match. -/
  | scan (tag : Nat)
  /-- HASH (R172). The HASH command writes a CRC-64 or SHA-256 digest for each extent of its range. -/
  | hash (tag : Nat)
  /-- DESTAGE_VIEW (R173). The DESTAGE-VIEW command writes one record per run of a zone family's mapped sectors. -/
  | destageView (tag : Nat)
  /-- RAW (R175). The RAW command performs one raw NAND operation through the maintenance path. -/
  | raw (tag : Nat)
  /-- COMPLETION_POST (R184). When a command's completion condition is met and the CQ has room, the WRU writes its CQ entry and frees its tag. -/
  | completionPost (tag : Nat)
  /-- COMPLETION_BELL (R187). Once the completion WRITE has landed or departed, by bell_order, the WRU sends the ring's Bell doorbell. -/
  | completionBell (r : Nat)
  /-- RING_ENABLE (R189). A write of ring_enable activates a disabled ring or starts draining an active one. -/
  | ringEnable (m : Nat) (r : Nat) (v : Nat)
  /-- RING_DRAINED (R189). When the last in-flight completion of a draining ring is posted, the ring becomes DISABLED, or ACTIVE if enable was written meanwhile. -/
  | ringDrained (r : Nat)
  /-- MAP_INIT (R583). A write of 1 to map_init applies the configuration, unmaps everything and queues every non-retired block for erase. -/
  | mapInit (m : Nat) (v : Nat) (media : Media)
  /-- LT_QUIESCE (R239). A write of lt_quiesce makes Lantern start quiescing, or return to SERVICE. -/
  | ltQuiesce (m : Nat) (v : Nat)
  /-- LANTERN_QUIESCED (R239). Once commands in flight have finished and the map cache is written back, Lantern enters QUIESCED. -/
  | lanternQuiesced
  /-- PLACE_WRITE (R220). Lantern chooses the place of a granule and reserves units, a Buoy slot and SB space, opening or closing bands as needed. -/
  | placeWrite (job : Nat)
  /-- MERGE (R222). A WRITE of part of a granule reads the granule's other sectors and merges them in SB before placement. -/
  | merge (job : Nat)
  /-- SPACE_WAIT_TIMEOUT (R227). A write waiting for a free band for space_wait_ms completes NO_SPACE. -/
  | spaceWaitTimeout (job : Nat)
  /-- ROW_TIMEOUT (R205). An open row that holds a placed unit and receives none for row_timeout_ms is padded and its parity programmed. -/
  | rowTimeout (band : Nat) (row : Nat)
  /-- MEMBER_SLOT_TIMEOUT (R206). A partly filled member slot whose first unit was placed row_timeout_ms ago is padded and programmed. -/
  | memberSlotTimeout (band : Nat) (row : Nat) (j : Nat)
  /-- PLACE_READ (R230). Lantern looks up the map and serves each page unit from SB, joins, issues, waits, suspends or reads around it. -/
  | placeRead (job : Nat)
  /-- MAP_FILL_COMPLETE (R216). A map-cache miss fill returns from map DRAM and the waiting lookups continue. -/
  | mapFillComplete (slot : Nat)
  /-- RELOCATION_START (R223). Lantern chooses a victim band by the relocation priorities and starts relocating it with a relocation-intent record. -/
  | relocationStart
  /-- RELOC_SWITCH (R210). After RELOC_DONE is committed, Lantern switches each entry whose generation and address still name the source. -/
  | relocSwitch (job : Nat)
  /-- DECODER_DISPATCH (R233). The codec sends a raw codeword and its job header to the decoder chosen by cost, once a credit is free. -/
  | decoderDispatch (ch : Nat) (cw : Nat)
  /-- EX_DIE (R236). A write of ex_die excludes dies from placement and closes their open bands. -/
  | exDie (m : Nat) (mask : Bytes)
  /-- EX_CHANNEL (R236). A write of ex_channel excludes every die of the channels named. -/
  | exChannel (m : Nat) (v : Nat)
  /-- EX_DECODER (R236). A write of ex_decoder stops new codewords going to the decoders named. -/
  | exDecoder (m : Nat) (v : Nat)
  /-- EX_SB_BANK (R236). A write of ex_sb_bank stops new reservations in the banks named. -/
  | exSbBank (m : Nat) (v : Nat)
  /-- EX_MAPC_WAY (R236). A write of ex_mapc_way writes back and invalidates the ways named and fills no line into them. -/
  | exMapcWay (m : Nat) (v : Nat)
  /-- BUS_BURST_END (R253). At the end of a bus burst the sequencer takes its result and picks and starts the next burst by class. -/
  | busBurstEnd (ch : Nat) (r : BurstResult)
  /-- STATUS_POLL (R258). The poll_us interval of a busy LUN expires and a Read Status Enhanced of it becomes ready. -/
  | statusPoll (ch : Nat) (die : Nat)
  /-- DIE_OP_TIMEOUT (R260). A die operation that has not become ready within its timeout sends the die to RESET and takes its row's outcome. -/
  | dieOpTimeout (ch : Nat) (die : Nat)
  /-- SUSPEND_TIMEOUT (R260). A suspend not seen ready within to_susp_us returns the die to ERASE without a reset. -/
  | suspendTimeout (ch : Nat) (die : Nat)
  /-- SUSPEND_GAP_ELAPSED (R265). An erase that has run susp_gap_us since its start or last resume lets a held suspend request be sent. -/
  | suspendGapElapsed (ch : Nat) (die : Nat)
  /-- SUSPEND_HOLD_EXPIRED (R252). A suspension that has lasted susp_hold_us makes the die's next choice a resume. -/
  | suspendHoldExpired (ch : Nat) (die : Nat)
  /-- DIE_REVIVE (R262). A write of die_revive resets a FAILED die and returns it to IDLE if the reset ends in time. -/
  | dieRevive (m : Nat) (ch : Nat) (k : Nat)
  /-- SNAP_REQ (R279). A write of 1 to snap_req refreshes the Buoy snapshot. -/
  | snapReq (m : Nat) (ch : Nat) (v : Nat)
  /-- RAW_UNLOCK (R269). A write of raw_unlock moves the raw path between LOCKED, KEY1 and OPEN. -/
  | rawUnlock (m : Nat) (v : Nat)
  /-- RAW_KEY1_TIMEOUT (R269). KEY1 returns to LOCKED after 1,000 ms without a second key. -/
  | rawKey1Timeout
  /-- RAW_IDLE_TIMEOUT (R269). An OPEN raw path with no operation started for raw_idle_ms returns to LOCKED. -/
  | rawIdleTimeout
  /-- READ_PAGE (R273). The raw READ_PAGE operation reads decoded sectors or raw bytes of a page. -/
  | readPage (r : RawReq)
  /-- PROGRAM_PAGE (R273). The raw PROGRAM_PAGE operation programs four sectors or raw bytes of a page. -/
  | programPage (r : RawReq)
  /-- ERASE_BLOCK (R273). The raw ERASE_BLOCK operation erases a block. -/
  | eraseBlock (r : RawReq)
  /-- READ_STATUS (R273). The raw READ_STATUS operation reads a die's status byte. -/
  | readStatus (r : RawReq)
  /-- GET_FEATURES (R273). The raw GET_FEATURES operation reads 4 parameter bytes of a feature. -/
  | getFeatures (r : RawReq)
  /-- SET_FEATURES (R273). The raw SET_FEATURES operation writes 4 parameter bytes of a feature. -/
  | setFeatures (r : RawReq)
  /-- RESET_LUN (R273). The raw RESET_LUN operation resets one die. -/
  | resetLun (r : RawReq)
  /-- READ_ID (R273). The raw READ_ID operation reads the ID bytes of a die. -/
  | readId (r : RawReq)
  /-- READ_PARAM (R273). The raw READ_PARAM operation reads the parameter page bytes of a die. -/
  | readParam (r : RawReq)
  /-- WP_LOCK (R278). A write of 1 to wp_lock locks wp_map and itself until the next reset. -/
  | wpLock (m : Nat) (v : Nat)
  /-- CHANNEL_IDENTIFY (R288). When a channel's sequencer domain enters ON after a reset, it identifies each target's dies in the power-up timing set. -/
  | channelIdentify (ch : Nat) (answers : List TargetAnswer)
  /-- REFERENCE_GEOMETRY_SET (R289). When every channel of the first round has ended step 6, the lowest waiting die sets the reference geometry and mismatching dies are rejected. -/
  | referenceGeometrySet
  /-- ID_RERUN (R293). A write of 1 to id_rerun repeats identification on an empty channel. -/
  | idRerun (m : Nat) (ch : Nat) (v : Nat)
  /-- TS_ARM (R296). A write of 1 to ts_arm checks the shadow timing set and arms a swap. -/
  | tsArm (m : Nat) (ch : Nat) (v : Nat)
  /-- TIMING_SWAP (R299). At the first quiet boundary after the arm, a timing-only swap loads the shadow set and holds the bus 16 cycles. -/
  | timingSwap (ch : Nat) (shadowWrite : Option ShadowWrite)
  /-- MODE_CHANGE_SWAP (R302). A mode-changing swap sends Set Features, loads the set, runs ZQ and trains every target in SWAP_HOLD. -/
  | modeChangeSwap (ch : Nat) (r : SwapResult)
  /-- SWAP_HOLD_TIMEOUT (R301). With no quiet boundary 100 µs after the arm, the channel enters SWAP_HOLD to force the swap. -/
  | swapHoldTimeout (ch : Nat)
  /-- SWAP_MISS (R301). A burst still running 20 µs into the hold releases it, keeps the swap armed and counts a miss. -/
  | swapMiss (ch : Nat)
  /-- TRAINING (R306). When every LUN of a target is idle, its training runs as one burst and its result is judged PASS, MARGINAL or FAIL. -/
  | training (ch : Nat) (tgt : Nat) (r : TrainResult)
  /-- TRAIN_REQ (R308). A write of train_req requests retraining of the targets named. -/
  | trainReq (m : Nat) (ch : Nat) (v : Nat)
  /-- RETRAIN_AGE (R308). rt_period_s having passed since a target's training requests its retraining. -/
  | retrainAge (ch : Nat) (tgt : Nat)
  /-- MARGINAL_RETRAIN (R307). 10 s after a MARGINAL result, a retraining of the target is requested. -/
  | marginalRetrain (ch : Nat) (tgt : Nat)
  /-- DRIFT_TRACK (R312). After each 64 data-outs of a target, the PHY moves its gate and read delays one step toward the measured centre. -/
  | driftTrack (ch : Nat) (tgt : Nat) (centre : Int)
  /-- ZQ_CALIBRATION (R314). Every zq_period_ms the PHY calibrates driver and termination against the ZQ resistor. -/
  | zqCalibration (ch : Nat) (code : Nat) (atEnd : Bool)
  /-- ZQ_CODE_APPLY (R314). A new ZQ code is applied at the next quiet boundary unless it is at a range end. -/
  | zqCodeApply (ch : Nat)
  /-- NEXT (R321). The microcode word continues at the next address. -/
  | next (ch : Nat) (w : UWord) (e : UEnv)
  /-- BRANCH (R321). The microcode word jumps to nxa if its condition holds. -/
  | branch (ch : Nat) (w : UWord) (e : UEnv)
  /-- CALL (R321). The microcode word pushes the return address and event mask and jumps to nxa. -/
  | call (ch : Nat) (w : UWord) (e : UEnv)
  /-- RET (R321). The microcode word pops the return address and restores the event mask. -/
  | ret (ch : Nat) (w : UWord) (e : UEnv)
  /-- DISPATCH (R324). The microcode word jumps through dispatch table dsel at an index from a register. -/
  | dispatch (ch : Nat) (w : UWord) (e : UEnv)
  /-- WAIT (R321). The microcode word repeats until its condition holds. -/
  | wait (ch : Nat) (w : UWord) (e : UEnv)
  /-- END (R321). The microcode word ends the burst, clears the micro-stack and returns to the scheduler. -/
  | endWord (ch : Nat) (w : UWord) (e : UEnv)
  /-- CMD (R322). The bus operation drives one command cycle with the selected byte. -/
  | cmd (ch : Nat) (w : UWord) (e : UEnv)
  /-- ADDR (R322). The bus operation drives one address cycle. -/
  | addr (ch : Nat) (w : UWord) (e : UEnv)
  /-- DIN (R322). The bus operation starts a data-in of g9 bytes from SB. -/
  | din (ch : Nat) (w : UWord) (e : UEnv)
  /-- DOUT (R322). The bus operation starts a data-out of g9 bytes into the codec raw buffer. -/
  | dout (ch : Nat) (w : UWord) (e : UEnv)
  /-- STAT (R322). The bus operation reads one status byte into g0. -/
  | stat (ch : Nat) (w : UWord) (e : UEnv)
  /-- CEON (R322). The bus operation asserts a target's CE_n and selects a LUN. -/
  | ceon (ch : Nat) (w : UWord) (e : UEnv)
  /-- CEOFF (R322). The bus operation releases CE_n. -/
  | ceoff (ch : Nat) (w : UWord) (e : UEnv)
  /-- DBO (R322). The bus operation drives one data byte out. -/
  | dbo (ch : Nat) (w : UWord) (e : UEnv)
  /-- DBI (R322). The bus operation reads one data byte into a register. -/
  | dbi (ch : Nat) (w : UWord) (e : UEnv)
  /-- TRAIN (R322). The bus operation runs a PHY training primitive. -/
  | train (ch : Nat) (w : UWord) (e : UEnv)
  /-- MOVI (R322). The register operation loads the immediate into a register. -/
  | movi (ch : Nat) (w : UWord) (e : UEnv)
  /-- MOV (R322). The register operation copies one register to another. -/
  | mov (ch : Nat) (w : UWord) (e : UEnv)
  /-- ADD (R322). The register operation adds the immediate and sets the flags. -/
  | add (ch : Nat) (w : UWord) (e : UEnv)
  /-- SUB (R322). The register operation subtracts the immediate and sets the flags. -/
  | sub (ch : Nat) (w : UWord) (e : UEnv)
  /-- AND (R322). The register operation ANDs with the immediate and sets the flags. -/
  | and (ch : Nat) (w : UWord) (e : UEnv)
  /-- OR (R322). The register operation ORs with the immediate and sets the flags. -/
  | or (ch : Nat) (w : UWord) (e : UEnv)
  /-- XOR (R322). The register operation XORs with the immediate and sets the flags. -/
  | xor (ch : Nat) (w : UWord) (e : UEnv)
  /-- SHL (R322). The register operation shifts left and sets the flags. -/
  | shl (ch : Nat) (w : UWord) (e : UEnv)
  /-- SHR (R322). The register operation shifts right and sets the flags. -/
  | shr (ch : Nat) (w : UWord) (e : UEnv)
  /-- CMP (R322). The register operation sets the flags from a register minus the immediate. -/
  | cmp (ch : Nat) (w : UWord) (e : UEnv)
  /-- LDF (R322). The register operation loads a hardware field into a register. -/
  | ldf (ch : Nat) (w : UWord) (e : UEnv)
  /-- STF (R322). The register operation stores a register into a hardware field. -/
  | stf (ch : Nat) (w : UWord) (e : UEnv)
  /-- TIMER_LOAD (R318). The timer operation loads the timer from the selected timing-set parameter. -/
  | timerLoad (ch : Nat) (w : UWord) (e : UEnv)
  /-- TIMER_LOAD_IMM (R318). The timer operation loads the timer from the immediate in ns. -/
  | timerLoadImm (ch : Nat) (w : UWord) (e : UEnv)
  /-- TIMER_STOP (R318). The timer operation stops the timer. -/
  | timerStop (ch : Nat) (w : UWord) (e : UEnv)
  /-- PATCH_WORD_REWRITE (R319). At the channel's next quiet boundary, the loader rewrites a patch RAM word that had an ECC error. -/
  | patchWordRewrite (ch : Nat)
  /-- PATCH_REMOVE (R332). At its next quiet boundary after fallback or revert, a channel leaves its patches and reloads its dispatch tables. -/
  | patchRemove (ch : Nat)
  /-- LKT_LOAD (R340). A write of 1 to lkt_load checks, verifies and decrypts the Locket in lkt_image and accepts or fails it. -/
  | lktLoad (m : Nat) (v : Nat)
  /-- LOCKET_INSTALL (R341). At each ON channel's next quiet boundary, an accepted Locket's words, regions and dispatch entries take effect together. -/
  | locketInstall (ch : Nat)
  /-- MC_REVERT (R344). A write of 1 to mc_revert empties every Locket slot and returns every channel to the ROM image. -/
  | mcRevert (m : Nat) (v : Nat)
  /-- DECODE_JOB (R368). A decoder engine takes a job header and its codeword and decodes in the requested mode. -/
  | decodeJob (k : Nat)
  /-- DECODE_RESULT (R369). When an engine stops, it sends result flits and, if converged, the metadata and decoded data. -/
  | decodeResult (k : Nat) (r : DecRes)
  /-- INLINE_CHECK (R352). The inline engine checks m_crc and m_lsec of a decoded codeword and writes it to SB or sends it up the ladder. -/
  | inlineCheck (ch : Nat) (cw : Nat)
  /-- LM_UPDATE (R394). Lantern applies one waiting read-level model update per cycle to its cell. -/
  | lmUpdate
  /-- LM_MODE (R395). A write of lm_mode switches the model between LEARN, FROZEN and OFF from the next Lantern cycle. -/
  | lmMode (m : Nat) (v : Nat)
  /-- JCOMMIT_AGE (R412). A waiting journal record reaching jcommit_us of age calls for a commit. -/
  | jcommitAge
  /-- COMMIT_START (R424). Clasp starts a commit once its budget test passes, pricing it and writing its journal sectors to a pair. -/
  | commitStart
  /-- COMMIT_DONE (R410). When both copies of a commit's sectors pass and earlier commits are committed, its records become durable and their waits are released. -/
  | commitDone
  /-- NO_ENERGY_TIMEOUT (R425). A command whose commit has not started within commit_wait_ms completes NO_ENERGY. -/
  | noEnergyTimeout (tag : Nat)
  /-- CKPT_NOW (R418). A write of 1 to ckpt_now starts a checkpoint. -/
  | ckptNow (m : Nat) (v : Nat)
  /-- CKPT_PERIOD (R418). ckpt_period_s having passed starts a checkpoint. -/
  | ckptPeriod
  /-- CHECKPOINT_START (R417). Clasp appends CKPT_BEGIN and copies the configuration, arrays and model cells to checkpoint blocks. -/
  | checkpointStart
  /-- CHECKPOINT_END (R417). Once every checkpoint sector has passed, Clasp appends CKPT_END. -/
  | checkpointEnd
  /-- CALIBRATION_TICK (R421). Once per second in RUN, Clasp moves its energy and time table toward the measured values. -/
  | calibrationTick
  /-- FLUSH_NOW (R427). A write of 1 to flush_now starts the emergency flush in SERVICE or TEST. -/
  | flushNow (m : Nat) (v : Nat)
  /-- EMERGENCY_FLUSH (R428). On the warning Clasp stops fetching and placing, lets programs end, chooses the scope and writes flush headers. -/
  | emergencyFlush
  /-- FLUSH_WAVE (R430). Each die whose operations have ended writes its next single-plane flush unit, journal tail first once step 2 has ended everywhere. -/
  | flushWave (die : Nat) (ok : Bool)
  /-- FLUSHED (R428). Once the flush index has passed, Clasp enters FLUSHED. -/
  | flushed
  /-- REPLAY_GO (R434). A write of 1 to replay_go in RECOVERY runs replay to rebuild Lantern's structures from checkpoint, journal and flush. -/
  | replayGo (m : Nat) (v : Nat) (media : Media)
  /-- TENDER_JOB (R447). Lantern hands a command's transfer job to the command channel with the fewest queued jobs. -/
  | tenderJob (tag : Nat)
  /-- CH_START (R462). A write of 1 to ch_start starts a programmed channel's descriptor chain. -/
  | chStart (m : Nat) (n : Nat) (v : Nat)
  /-- CH_STOP (R463). A write of 1 to ch_stop stops a programmed channel at its next beat. -/
  | chStop (m : Nat) (n : Nat) (v : Nat)
  /-- DESCRIPTOR_FETCHED (R454). A fetched descriptor is loaded and enters WAIT_TRIG or RUN. -/
  | descriptorFetched (n : Nat)
  /-- DESCRIPTOR_COPY (R453). The COPY descriptor operation moves bytes from source to destination along both patterns. -/
  | descriptorCopy (n : Nat)
  /-- FILL (R453). The FILL descriptor operation writes a repeated 64-bit constant to the destination. -/
  | fill (n : Nat)
  /-- COMPARE (R453). The COMPARE descriptor operation compares two buffers and stops at the first mismatch. -/
  | compare (n : Nat)
  /-- DESCRIPTOR_COMPLETE (R459). On departure or landing, a descriptor advances ch_done_seq, writes its record, rings Bell and proceeds. -/
  | descriptorComplete (n : Nat)
  /-- TMR_ENABLE (R455). A write of tmr_enable starts or stops a Tender timer and resets its sequence. -/
  | tmrEnable (m : Nat) (k : Nat) (v : Nat)
  /-- TIMER_TICK (R455). A Tender timer tick advances tmr_seq and releases descriptors waiting on it. -/
  | timerTick (k : Nat)
  /-- Q_CLEAR (R500). A write of 1 to q_clear clears every queue's corrected count, flags and peak. -/
  | qClear (m : Nat) (v : Nat)
  /-- BL_DB (R503). An external doorbell is checked and rings its source. -/
  | blDb (p : Nat) (v : BitVec 32) (txid : Nat)
  /-- INTERNAL_DOORBELL (R504). An internal unit's doorbell rings its source, which becomes PENDING or counts one more event. -/
  | internalDoorbell
  /-- BL_EOI (R514). An external completion pops the target's stack top, or freezes the stack if out of order. -/
  | blEoi (p : Nat) (v : BitVec 32) (txid : Nat)
  /-- TGT_EOI (R514). A write of tgt_eoi completes a source at a target as BL_EOI does. -/
  | tgtEoi (m : Nat) (t : Nat) (v : Nat)
  /-- DELIVERY_RUN_START (R507). Bell chooses the highest-priority eligible source of a target and starts a delivery run. -/
  | deliveryRunStart (slot : SlotAt)
  /-- ATTEMPT_SLOT (R509). A 2 µs delivery slot begins and its attempt acts once bl_awake is high, or the slot ends failed. -/
  | attemptSlot (slot : SlotAt)
  /-- BELL_AWAKE_RISE (R509). A rise of bl_awake lets a waiting delivery attempt act within its slot. -/
  | bellAwakeRise (t : Nat)
  /-- DELIVERY_RESPONSE (R509). A MSG_RSP to a delivery accepts it onto the stack if OK and in time, or is discarded and counted if late. -/
  | deliveryResponse (p : Nat) (txid : Nat) (status : Nat)
  /-- FALLBACK (R510). At the end of the 25th slot a run ends and every eligible source of the target inverts s_redir. -/
  | fallback (t : Nat)
  /-- TGT_UNFREEZE (R515). A write of 1 to tgt_unfreeze empties a frozen stack and returns its sources to PENDING. -/
  | tgtUnfreeze (m : Nat) (t : Nat) (v : Nat)
  /-- SRC_CFG (R508). A write of src_cfg reconfigures a source from the next attempt and clears s_redir. -/
  | srcCfg (m : Nat) (src : Nat) (v : Nat)
  /-- SRC_STATE (R504). A write of 0 to src_state clears the source's s_ovf. -/
  | srcState (m : Nat) (src : Nat) (v : Nat)
  /-- DOM_REQ (R524). A write of dom_req is judged, merged, pended or refused, and may start a domain transition. -/
  | domReq (m : Nat) (via : Option Win) (d : Nat) (v : Nat)
  /-- DRAIN_COMPLETE (R530). When a draining domain's links are idle, it isolates and drives pc_req to the target state. -/
  | drainComplete (d : Nat)
  /-- DOMAIN_DOWN_ACK (R530). pc_ckrdy low, and pc_pg low for OFF, completes a transition to RET or OFF. -/
  | domainDownAck (d : Nat)
  /-- DOWN_LATE (R530). A down acknowledgement missing after 200 µs completes the transition anyway and is counted. -/
  | downLate (d : Nat)
  /-- DOMAIN_WAKE_ACK (R530). pc_pg and pc_ckrdy high release reset and isolation, reset the links and bring the domain to ON. -/
  | domainWakeAck (d : Nat)
  /-- WAKE_TIMEOUT (R530). A wake not acknowledged within 200 µs enters WAKE_RETRY, or FAILED on the second attempt. -/
  | wakeTimeout (d : Nat)
  /-- WAKE_RETRY_END (R530). After 1,000 µs in WAKE_RETRY, the domain drives pc_req ON again. -/
  | wakeRetryEnd (d : Nat)
  /-- WAKE_SOURCE_ASSERT (R529). The first assertion of an enabled wake source of a domain not in ON sets kp_wake_pending and rings Bell. -/
  | wakeSourceAssert (d : Nat) (bit : Nat)
  /-- MODEL_STEP (R539). Every 1 ms, the TMU advances each node's temperature from its charged energy and judges its level. -/
  | modelStep
  /-- CU_ENERGY_REPORT (R538). A CU's activity estimators report the energy of its islands to the TMU once per ms. -/
  | cuEnergyReport (ch : Nat) (uj : Nat)
  /-- CORRECTION_LOOP (R540). Every 100 ms, the TMU corrects estimates and gains from trusted readings, cross-checks sensors and queues die temperature reads. -/
  | correctionLoop
  /-- DIE_TEMP_READING (R542). A die temperature Get Features ends and its reading is range-checked and kept for the next correction. -/
  | dieTempReading (die : Nat) (r : Option Byte)
  /-- TS_UNSUSPECT (R544). A write of ts_unsuspect clears the suspect state of the sensors named. -/
  | tsUnsuspect (m : Nat) (v : Nat)
  /-- THROTTLE_SPACING (R546). throttle_idle_us having passed since a throttled die's last array operation releases its held program. -/
  | throttleSpacing (die : Nat)
  /-- COLD_DEFER_EXPIRY (R547). A program held for cold_defer_ms is released with the cold trim and counted. -/
  | coldDeferExpiry (die : Nat)
  /-- FLT_ACK (R563). A write of flt_ack clears the fault class bits named. -/
  | fltAck (m : Nat) (v : Nat)
  /-- CU_THROTTLE_DUTY (R546). Under CU THROTTLE or SHUTDOWN, once the last data burst's time has fallen to cu_duty_pct of the time since it began, the sequencer may start its next burst. -/
  | cuThrottleDuty (ch : Nat)
  /-- SUPPLY_IN_RANGE (R102). A supply returning within range ends the forced pad levels and the forced-low YPP valid, credit, link_up and xoff outputs. -/
  | supplyInRange (rail : Rail)
  /-- LK_ACK_FALL (R97). The key store lowers lk_ack, completing the 4-phase handshake of a key-port word so that the loader can request the next word. -/
  | lkAckFall
  /-- I3C_PRIVATE_READ (R138). An I3C private read returns one packet of the pending response, or is not acknowledged if none is pending. -/
  | i3cPrivateRead
  /-- RESPONSE_TIMEOUT (R138). A response not read within xfer_timeout_ms is discarded and counted. -/
  | responseTimeout
  /-- MCTP_ASSEMBLY_TIMEOUT (R140). A message with no EOM within 100 ms of SOM is discarded and counted. -/
  | mctpAssemblyTimeout
  /-- SCL_STALL (R140). SCL held still for 1 ms within a transfer releases SDA and discards the packet. -/
  | sclStall
  /-- RSTDAA (R135). The RSTDAA CCC drops the dynamic address. -/
  | rstdaa
  /-- GETMWL (R135). The GETMWL CCC returns 69. -/
  | getmwl
  /-- GETMRL (R135). The GETMRL CCC returns 69 and an IBI payload size of 1. -/
  | getmrl
  /-- GETPID (R135). The GETPID CCC returns the Provisional ID. -/
  | getpid
  /-- GETBCR (R135). The GETBCR CCC returns BCR 0x06. -/
  | getbcr
  /-- GETDCR (R135). The GETDCR CCC returns i3c_dcr. -/
  | getdcr
  /-- GETSTATUS (R135). The GETSTATUS CCC reports whether a response is pending. -/
  | getstatus
  /-- ENTHDR (R134). An ENTHDRx CCC makes the target ignore the bus until the HDR exit pattern. -/
  | enthdr
  /-- HDR_EXIT (R134). The HDR exit pattern returns the target to SDR operation. -/
  | hdrExit
  /-- I3C_TARGET_RESET (R135). The I3C target reset pattern resets the I3C and MCTP logic only. -/
  | i3cTargetReset
  deriving DecidableEq, Repr

end Sys2Proof
end

