-- ==== Sys2Proof/Machine/Tab.lean ====
section
/-! DEFINITION. Finite tables: sorted lists of (key, value) with no entry equal to the default, so that
equal tables are equal data. -/

namespace Sys2Proof.Machine

/-- A sparse table by key. What an unlisted key reads as is the default given at each access. -/
abbrev Tab (α : Type) := List (Nat × α)

/-- The value at a key, the default where the key is not listed. -/
def tabGet {α : Type} (dflt : α) : Tab α → Nat → α
  | [], _ => dflt
  | (j, v) :: t, k => if j = k then v else tabGet dflt t k

/-- The table without a key. -/
def tabErase {α : Type} : Tab α → Nat → Tab α
  | [], _ => []
  | (j, v) :: t, k => if j = k then tabErase t k else (j, v) :: tabErase t k

/-- A new key put in its place by order. -/
def tabInsert {α : Type} : Tab α → Nat → α → Tab α
  | [], k, v => [(k, v)]
  | (j, w) :: t, k, v => if k < j then (k, v) :: (j, w) :: t else (j, w) :: tabInsert t k v

/-- Writing a value: writing the default removes the entry. -/
def tabSet {α : Type} [DecidableEq α] (dflt : α) (t : Tab α) (k : Nat) (v : α) : Tab α :=
  if v = dflt then tabErase t k else tabInsert (tabErase t k) k v

/-- Keys strictly rising. -/
def tabSorted {α : Type} : Tab α → Bool
  | [] => true
  | [_] => true
  | (j, _) :: (k, w) :: t => decide (j < k) && tabSorted ((k, w) :: t)

/-- The canonical form: keys strictly rising and no entry equal to the default of its key. -/
def tabWf {α : Type} [DecidableEq α] (dflt : Nat → α) (t : Tab α) : Bool :=
  tabSorted t && t.all (fun p => decide (p.2 ≠ dflt p.1))

/-- The first element that meets a test, with its position. -/
def findPos {α : Type} (f : α → Bool) : List α → Option (Nat × α)
  | [] => none
  | x :: t => if f x then some (0, x) else (findPos f t).map (fun q => (q.1 + 1, q.2))

/-- Changes the elements that meet a test. -/
def updWhere {α : Type} (p : α → Bool) (f : α → α) (l : List α) : List α :=
  l.map (fun x => if p x then f x else x)

/-- The part of a table whose keys lie in a range. -/
def tabPart {α : Type} (t : Tab α) (a n : Nat) : Tab α := t.filter (fun p => decide (a ≤ p.1) && decide (p.1 < a + n))

/-- Bytes from a table of bytes: n of them from an address. -/
def tabBytes (dflt : Nat → Byte) (t : Tab Byte) (a n : Nat) : Bytes :=
  let u := tabPart t a n
  (List.range n).map (fun i => tabGet (dflt (a + i)) u (a + i))

/-- Bytes as table entries from an address on; a byte equal to the default is not listed. -/
def byteEntries (dflt : Nat → Byte) (a : Nat) : Bytes → Tab Byte
  | [] => []
  | b :: bs => if b = dflt a then byteEntries dflt (a + 1) bs else (a, b) :: byteEntries dflt (a + 1) bs

/-- Bytes written into a table of bytes from an address on. -/
def tabWriteBytes (dflt : Nat → Byte) (t : Tab Byte) (a : Nat) (bs : Bytes) : Tab Byte :=
  t.filter (fun p => decide (p.1 < a)) ++ byteEntries dflt a bs ++ t.filter (fun p => decide (a + bs.length ≤ p.1))

end Sys2Proof.Machine
end

