-- ==== Sys2Proof/Machine/Bits.lean ====
section
/-! DEFINITION. Bit fields, byte order, sign extension, saturation and the checksums the formats use. -/

namespace Sys2Proof.Machine

/-- Bits [lo + n - 1 : lo] of a number. -/
def bits (v lo n : Nat) : Nat := v / 2 ^ lo % 2 ^ n

/-- Bit i of a number. -/
def bit (v i : Nat) : Bool := v / 2 ^ i % 2 == 1

/-- A field put at bit lo. -/
def fld (v lo n : Nat) : Nat := (v % 2 ^ n) * 2 ^ lo

/-- A Bool as one bit. -/
def b2n (b : Bool) : Nat := if b then 1 else 0

/-- Bit i of v set or cleared. -/
def setBit (v i : Nat) (b : Bool) : Nat :=
  if bit v i then (if b then v else v - 2 ^ i) else (if b then v + 2 ^ i else v)

/-- Bitwise and of two masks. -/
def nAnd (a b : Nat) : Nat := a &&& b

/-- The bits of a that b does not have. -/
def nAndNot (a b : Nat) : Nat := a ^^^ (a &&& b)

/-- Bitwise or of two masks. -/
def nOr (a b : Nat) : Nat := a ||| b

/-- Bitwise exclusive or. -/
def nXor (a b : Nat) : Nat := a ^^^ b

/-- The numbers below n whose bit is set. -/
def setBits (v n : Nat) : List Nat := (List.range n).filter (bit v)

/-- Two's complement of an n-bit number. -/
def sext (v n : Nat) : Int := if bit v (n - 1) then (v % 2 ^ n : Int) - 2 ^ n else (v % 2 ^ n : Int)

/-- An integer as an n-bit two's complement number. -/
def ofInt (i : Int) (n : Nat) : Nat := (i % (2 ^ n : Int)).toNat

/-- Clipping to a range. -/
def clip (x lo hi : Int) : Int := if x < lo then lo else if hi < x then hi else x

/-- Division that truncates toward zero (R220, R392, R539). -/
def tdiv (a b : Int) : Int := Int.tdiv a b

/-- a / 2^k rounded to nearest, halves away from zero (R385, R539). -/
def roundDiv (a : Int) (d : Nat) : Int :=
  if a < 0 then - (((- a) * 2 + d) / (2 * d) : Int) else ((a * 2 + d) / (2 * d) : Int)

/-- Ceiling division. -/
def cdiv (a b : Nat) : Nat := (a + b - 1) / b

/-- Saturating at a largest value. -/
def satTo (v mx : Nat) : Nat := if v ≤ mx then v else mx

/-- The n little-endian bytes of a number (R9). -/
def leBytes : Nat → Nat → Bytes
  | 0, _ => []
  | n + 1, v => BitVec.ofNat 8 (v % 256) :: leBytes n (v / 256)

/-- The number little-endian bytes spell (R9). -/
def leNat : Bytes → Nat
  | [] => 0
  | b :: t => b.toNat + 256 * leNat t

/-- The number big-endian bytes spell. -/
def beNat (bs : Bytes) : Nat := bs.foldl (fun a b => a * 256 + b.toNat) 0

/-- The n big-endian bytes of a number. -/
def beBytes (n v : Nat) : Bytes := (leBytes n v).reverse

/-- n bytes of a string from offset o, as a little-endian number. -/
def leAt (bs : Bytes) (o n : Nat) : Nat := leNat ((bs.drop o).take n)

/-- n zero bytes. -/
def zeros (n : Nat) : Bytes := List.replicate n 0

/-- A byte string cut or filled with zeros to a length. -/
def fit (n : Nat) (bs : Bytes) : Bytes := (bs ++ zeros (n - bs.length)).take n

/-- XOR of two byte strings; the shorter counts as filled with zeros. -/
def xorBytes : Bytes → Bytes → Bytes
  | [], b => b
  | a, [] => a
  | x :: a, y :: b => (x ^^^ y) :: xorBytes a b

/-- Replaces the bytes at an offset. -/
def patchBytes (bs : Bytes) (o : Nat) (new : Bytes) : Bytes :=
  fit o bs ++ new ++ bs.drop (o + new.length)

/-- One bit of a reflected CRC register. -/
def crcBit {w : Nat} (poly : BitVec w) (c : BitVec w) : BitVec w :=
  if c.getLsbD 0 then (c >>> 1) ^^^ poly else c >>> 1

/-- One byte through a reflected CRC register. -/
def crcByte {w : Nat} (poly : BitVec w) (c : BitVec w) (b : Byte) : BitVec w :=
  let c0 := c ^^^ b.setWidth w
  let c1 := crcBit poly (crcBit poly (crcBit poly (crcBit poly c0)))
  crcBit poly (crcBit poly (crcBit poly (crcBit poly c1)))

/-- A reflected CRC with initial value and final XOR of all ones. -/
def crcRef {w : Nat} (poly : BitVec w) (bs : Bytes) : BitVec w :=
  ~~~ bs.foldl (crcByte poly) (BitVec.allOnes w)

/-- CRC-32C: Castagnoli 0x1EDC_6F41 reflected (R350). -/
def crc32c (bs : Bytes) : Nat := (crcRef (0x82F63B78#32) bs).toNat

/-- CRC-64/XZ: ECMA-182 reflected (R172). -/
def crc64xz (bs : Bytes) : Nat := (crcRef (0xC96C5795D7870F42#64) bs).toNat

/-- PRESUMED (log 14): the packet error code of DSP0233, an SMBus CRC-8 (polynomial x^8+x^2+x+1). -/
def crc8 (bs : Bytes) : Byte :=
  bs.foldl (fun c b => (List.range 8).foldl
    (fun x _ => if x.getLsbD 7 then (x <<< 1) ^^^ 0x07#8 else x <<< 1) (c ^^^ b)) 0#8

/-- CRC-16 of a parameter page is checked by the channel; its result is an operand (log 15). -/
def lfsrStep (s : BitVec 32) : BitVec 32 :=
  if s.getLsbD 31 then (s <<< 1) ^^^ 0x00400007#32 else s <<< 1

/-- n keystream bits from a state, first bit first (R360). -/
def keyBits : Nat → BitVec 32 → List Bool
  | 0, _ => []
  | n + 1, s => s.getLsbD 31 :: keyBits n (lfsrStep s)

/-- Eight bits as a byte, bit 0 first (R347). -/
def packByte (l : List Bool) : Byte :=
  BitVec.ofNat 8 ((l.take 8).foldr (fun b a => b2n b + 2 * a) 0)

/-- The next keystream byte and the state after it. -/
def keyByte (s : BitVec 32) : Byte × BitVec 32 :=
  (packByte (keyBits 8 s), (List.range 8).foldl (fun x _ => lfsrStep x) s)

/-- A byte string randomised or de-randomised from a seed (R360). -/
def randomise : BitVec 32 → Bytes → Bytes
  | _, [] => []
  | s, b :: t => (b ^^^ (keyByte s).1) :: randomise (keyByte s).2 t

/-- The seed of a codeword at an address under a key (R361). -/
def codeSeed (addr key : Nat) : BitVec 32 :=
  let x := BitVec.ofNat 32 (crc32c (leBytes 8 (addr % 2 ^ 45))) ^^^ BitVec.ofNat 32 key
  if x = 0 then 1 else x

end Sys2Proof.Machine
end

