-- ==== Sys2Proof/Machine/Crypto.lean ====
section
/-! DEFINITION. The signature and the cipher of the Locket container (08_microcode.md R338): ECDSA over P-384 as
FIPS 186-5 defines it and AES-256-GCM as SP 800-38D does. -/

namespace Sys2Proof.Machine

/-! ### P-384 -/

/-- The field prime, the order of the base point, the constant b and the base point of P-384. -/
def p384 : Nat := 2 ^ 384 - 2 ^ 128 - 2 ^ 96 + 2 ^ 32 - 1
def n384 : Nat := 0xFFFFFFFFFFFFFFFFFFFFFFFFFFFFFFFFFFFFFFFFFFFFFFFFC7634D81F4372DDF581A0DB248B0A77AECEC196ACCC52973
def b384 : Nat := 0xB3312FA7E23EE7E4988E056BE3F82D19181D9C6EFE8141120314088F5013875AC656398D8A2ED19D2A85C8EDD3EC2AEF
def gx384 : Nat := 0xAA87CA22BE8B05378EB1C71EF320AD746E1D3B628BA79B9859F741E082542A385502F25DBF55296C3A545E3872760AB7
def gy384 : Nat := 0x3617DE4A96262C6F5D9E98BF9292DC29F8F41DBD289A147CE9DA3113B5F0B8C00A60B1CE1D7E819D7A431D7C90EA0E5F

/-- Powers modulo m, over the bits of the exponent. -/
def powMod (m : Nat) : Nat → Nat → Nat → Nat
  | 0, _, _ => 1 % m
  | n + 1, b, e =>
    let r := powMod m n (b * b % m) (e / 2)
    if e % 2 = 1 then r * b % m else r

/-- The inverse modulo a prime of at most 384 bits. -/
def invMod (m a : Nat) : Nat := powMod m 384 (a % m) (m - 2)

/-- A point of P-384; none is the point at infinity. -/
abbrev Pt := Option (Nat × Nat)

/-- Subtraction in the field. -/
def subP (a b : Nat) : Nat := (a + p384 - b % p384) % p384

/-- The third point of a line with its slope. -/
def ptLine (l x1 y1 x2 : Nat) : Pt :=
  let x := subP (subP (l * l % p384) x1) x2
  some (x, subP (l * subP x1 x % p384) y1)

/-- Point addition. -/
def ptAdd : Pt → Pt → Pt
  | none, q => q
  | p, none => p
  | some (x1, y1), some (x2, y2) =>
    if x1 = x2 then
      if (y1 + y2) % p384 = 0 then none
      else ptLine ((3 * x1 * x1 + p384 - 3) * invMod p384 (2 * y1) % p384) x1 y1 x1
    else ptLine (subP y2 y1 * invMod p384 (subP x2 x1) % p384) x1 y1 x2

/-- A multiple of a point, over the bits of the factor. -/
def ptMul : Nat → Nat → Pt → Pt
  | 0, _, _ => none
  | n + 1, k, p =>
    let r := ptMul n (k / 2) (ptAdd p p)
    if k % 2 = 1 then ptAdd p r else r

/-- The point lies on the curve. -/
def ptOk (x y : Nat) : Bool :=
  decide (x < p384) && decide (y < p384) && y * y % p384 == (x * x * x + (p384 - 3) * x + b384) % p384

/-- ECDSA with SHA-384: the public key is a point of the curve and the signature verifies. -/
def ecdsaOk (x y r s : Nat) (m : Bytes) : Bool :=
  ptOk x y && decide (0 < r) && decide (r < n384) && decide (0 < s) && decide (s < n384) &&
  (let z := beNat (sha384 m)
   let w := invMod n384 s
   match ptAdd (ptMul 384 (z * w % n384) (some (gx384, gy384))) (ptMul 384 (r * w % n384) (some (x, y))) with
   | some (v, _) => v % n384 == r
   | none => false)

/-! ### AES-256 -/

/-- A byte times x in the field of AES. -/
def xtime (b : Byte) : Byte := if b.getLsbD 7 then (b <<< 1) ^^^ 0x1B#8 else b <<< 1

/-- The product of two bytes in the field of AES. -/
def gmul : Nat → Byte → Byte → Byte
  | 0, _, _ => 0
  | n + 1, a, b => (if b.getLsbD 0 then a else 0) ^^^ gmul n (xtime a) (b >>> 1)

/-- The inverse in the field of AES: the 254th power. -/
def ginv (a : Byte) : Byte :=
  let sq := fun (x : Byte) => gmul 8 x x
  let a2 := sq a
  let a3 := gmul 8 a2 a
  let a12 := sq (sq a3)
  let a15 := gmul 8 a12 a3
  let a240 := sq (sq (sq (sq a15)))
  gmul 8 (gmul 8 a240 a12) a2

/-- SubBytes of one byte. -/
def aesSub (a : Byte) : Byte :=
  let x := ginv a
  x ^^^ x.rotateLeft 1 ^^^ x.rotateLeft 2 ^^^ x.rotateLeft 3 ^^^ x.rotateLeft 4 ^^^ 0x63#8

/-- The next words of the key schedule from the last eight (FIPS 197). -/
def aesKeys : Nat → Nat → Byte → List Bytes → List Bytes
  | 0, _, _, _ => []
  | n + 1, i, rc, l =>
    let t := l.getD 7 []
    let t1 := if i % 8 = 0 then xorBytes ((t.drop 1 ++ t.take 1).map aesSub) [rc]
      else if i % 8 = 4 then t.map aesSub else t
    let w := xorBytes (l.getD 0 []) t1
    w :: aesKeys n (i + 1) (if i % 8 = 0 then xtime rc else rc) (l.drop 1 ++ [w])

/-- The fifteen round keys of a 32-byte key. -/
def aesRoundKeys (key : Bytes) : List Bytes :=
  let w := (List.range 8).map (fun i => (key.drop (4 * i)).take 4)
  let all := w ++ aesKeys 52 8 1#8 w
  (List.range 15).map (fun i => ((all.drop (4 * i)).take 4).flatten)

/-- MixColumns of one column. -/
def mixCol (c : Bytes) : Bytes :=
  let g := fun (i : Nat) => c.getD (i % 4) 0
  (List.range 4).map (fun i => xtime (g i) ^^^ xtime (g (i + 1)) ^^^ g (i + 1) ^^^ g (i + 2) ^^^ g (i + 3))

/-- SubBytes and ShiftRows. -/
def subShift (s : Bytes) : Bytes :=
  (List.range 16).map (fun i => aesSub (s.getD ((i + 4 * (i % 4)) % 16) 0))

/-- The rounds after the first key addition. -/
def aesRounds : List Bytes → Bytes → Bytes
  | [], s => s
  | [k], s => xorBytes (subShift s) k
  | k :: ks, s =>
    let t := subShift s
    aesRounds ks (xorBytes ((List.range 4).flatMap (fun i => mixCol ((t.drop (4 * i)).take 4))) k)

/-- One block under a list of round keys. -/
def aesBlock (ks : List Bytes) (b : Bytes) : Bytes := aesRounds (ks.drop 1) (xorBytes b (ks.headD []))

/-! ### GCM -/

/-- The product in the field of GCM, over the bits of the first factor from the first. -/
def gcmMul : Nat → BitVec 128 → BitVec 128 → BitVec 128 → BitVec 128
  | 0, _, _, z => z
  | n + 1, x, v, z =>
    gcmMul n (x <<< 1) (if v.getLsbD 0 then (v >>> 1) ^^^ (0xE1#128 <<< 120) else v >>> 1)
      (if x.getLsbD 127 then z ^^^ v else z)

/-- GHASH over whole blocks. -/
def ghash (h : BitVec 128) : Nat → BitVec 128 → Bytes → BitVec 128
  | 0, y, _ => y
  | n + 1, y, bs => ghash h n (gcmMul 128 (y ^^^ BitVec.ofNat 128 (beNat (bs.take 16))) h 0) (bs.drop 16)

/-- Zeros up to a whole block. -/
def padBlk (b : Bytes) : Bytes := b ++ zeros ((16 - b.length % 16) % 16)

/-- Counter mode from a counter on. -/
def ctrMode (ks : List Bytes) (iv : Bytes) : Nat → Nat → Bytes → Bytes
  | 0, _, _ => []
  | n + 1, c, bs =>
    let x := bs.take 16
    (xorBytes x (aesBlock ks (iv ++ beBytes 4 c))).take x.length ++ ctrMode ks iv n (c + 1) (bs.drop 16)

/-- AES-256-GCM decryption with a 96-bit IV: the plaintext, or none where the tag differs. -/
def gcmOpen (key iv aad tag ct : Bytes) : Option Bytes :=
  let ks := aesRoundKeys key
  let h := BitVec.ofNat 128 (beNat (aesBlock ks (zeros 16)))
  let m := padBlk aad ++ padBlk ct ++ beBytes 8 (8 * aad.length) ++ beBytes 8 (8 * ct.length)
  let g := ghash h (m.length / 16) 0 m
  let t := xorBytes (beBytes 16 g.toNat) (aesBlock ks (iv ++ beBytes 4 1))
  if t = tag then some (ctrMode ks iv ((ct.length + 15) / 16) 2 ct) else none

end Sys2Proof.Machine
end

