-- ==== Sys2Proof/Config.lean ====
section
/-! DEFINITION. The synthesis parameters (00_scope.md R2) and the values the spec leaves open, which are
opaque constants: nothing can be proved about which value they have. -/

namespace Sys2Proof

/-- The synthesis parameters of R2. -/
structure Params where
  channels : Nat
  targets : Nat
  luns : Nat
  decoders : Nat
  sbMib : Nat
  mapcMib : Nat
  ports : Nat
  tags : Nat
  rate : Nat
  segments : Nat
  rings : Nat
  deriving DecidableEq, Repr

namespace Params

/-- The D8 reference configuration of R2. -/
def d8 : Params :=
  { channels := 8, targets := 2, luns := 2, decoders := 4, sbMib := 8, mapcMib := 2, ports := 1,
    tags := 2048, rate := 3200, segments := 1, rings := 64 }

/-- The W32 reference configuration of R2. -/
def w32 : Params :=
  { channels := 32, targets := 16, luns := 8, decoders := 16, sbMib := 32, mapcMib := 8, ports := 4,
    tags := 8192, rate := 4800, segments := 8, rings := 256 }

/-- R2: a value outside its range is not a supported configuration. -/
def supported (c : Params) : Bool :=
  (4 ≤ c.channels && c.channels ≤ 32) && (1 ≤ c.targets && c.targets ≤ 16) &&
  (1 ≤ c.luns && c.luns ≤ 8) && (2 ≤ c.decoders && c.decoders ≤ 16) &&
  (4 ≤ c.sbMib && c.sbMib ≤ 32 && c.sbMib % 2 == 0) && (1 ≤ c.mapcMib && c.mapcMib ≤ 8) &&
  (1 ≤ c.ports && c.ports ≤ 4) && [1024, 2048, 4096, 8192].contains c.tags &&
  [3200, 4800].contains c.rate && (1 ≤ c.segments && c.segments ≤ 8) &&
  (16 ≤ c.rings && c.rings ≤ 256 && c.rings % 16 == 0)

end Params

namespace Config

/-- DESIGN CHOICE (log 6): what an unwritten byte of a master's ODW_BUF reads as (R131: undefined). -/
opaque bufByte : Nat → Nat → Byte

/-- DESIGN CHOICE (log 6): what an SB byte reads as before anything has written it (R521, R522). -/
opaque sbByte : Nat → Byte

/-- DESIGN CHOICE (log 4): the n-th free 32-bit value, for a result the spec leaves undefined. -/
opaque freeWord : Nat → BitVec 32

/-- DESIGN CHOICE (log 4): the n-th free byte string of a given length. -/
opaque freeByte : Nat → Nat → Byte

/-- PRESUMED (log 10): the ROM image's words (R317): the same on every channel; the routines are not listed. -/
opaque rom : BitVec 12 → BitVec 144

/-- PRESUMED (log 10): the ROM image's dispatch tables (R324); the routines are not listed (R317). -/
opaque romDispatch : Nat → Nat → BitVec 16

/-- DESIGN CHOICE (log 10): the value LDF reads from a hardware field, by channel, field and count. -/
opaque hwField : Nat → BitVec 32 → Nat → BitVec 32

/-- PRESUMED (log 10): the hardware fields STF may name (R322: their list is not in the spec). -/
opaque hwFieldOk : BitVec 32 → Bool

/-- PRESUMED (log 13): the information part of the base matrices, by code, row and column: the shift of a circulant, or
none where the entry is zero (R354, R355: its values are not printed). -/
opaque hInfo : Nat → Nat → Nat → Option Byte

/-- DESIGN CHOICE (log 16): the depths of the lane queues, which are fixed at synthesis (R471): by queue ID, the power of
two less 2, modulo 11. -/
opaque queueK : Nat → Nat

/-- PRESUMED (log 74): the columns of the Hsiao code's check matrix for the 64 data bits (R469: not printed). -/
opaque hsiaoCol : Nat → Byte

/-- DESIGN CHOICE (log 74): how a read takes a word in which three or more bits are wrong (R470). -/
opaque eccMulti : Nat → Nat

/-- DESIGN CHOICE (log 74): the data bits such a read delivers wrong. -/
opaque eccWrong : Nat → Nat

/-- DESIGN CHOICE (log 74): the bits that flip in memory as the clock passes a nanosecond: the memory (1 SB, 2 a
map-cache line, 3 a lane queue, 4 a stored entry value, 5 a master's buffer; other numbers none), a place in it, and
the bits of the word there. -/
opaque upset : Nat → Nat × Nat × Nat

/-- DESIGN CHOICE (log 19): the temperature step of R539 with a time constant of 0, which has no result. -/
opaque tauZero : Int → Int

end Config

end Sys2Proof
end

