-- ==== Sys2Proof/Machine/Ecc.lean ====
section
/-! DEFINITION. The protected word of lane queues, the Staging Buffer and the map cache (13_queues_and_buffers.md R469,
R470): 64 data bits, 8 check bits of a Hsiao code, and what a read of a stored word delivers. -/

namespace Sys2Proof.Machine

/-- A column of the code's check matrix: bits 71..64 are the check bits themselves; the columns of the data bits are
not in the spec (log 74). -/
def eccCol (i : Nat) : Byte := if 64 ≤ i then BitVec.ofNat 8 (2 ^ (i - 64)) else Config.hsiaoCol i

/-- The XOR of the columns of a set of bits. -/
def eccSum (m : Nat) : Byte := (setBits m 72).foldl (fun c i => c ^^^ eccCol i) 0

/-- The 72 bits stored for a data word: check bits are computed each time a word is written (R469). -/
def eccWord (data : Nat) : Nat := data % 2 ^ 64 + 2 ^ 64 * (eccSum (data % 2 ^ 64)).toNat

/-- The 72 bits a word holds after an error that flipped a set of them. -/
def eccHeld (data flips : Nat) : Nat := eccWord data ^^^ (flips % 2 ^ 72)

/-- How a read of a word ends (R470). -/
inductive EccRes where
  | good | corrected | bad
  deriving DecidableEq, Repr

/-- What a read of a word does with the bits that are wrong in it: a single error is corrected, a double one reported;
three or more may be seen as any of the three, by a free value (log 74). -/
def eccRes (flips : Nat) : EccRes :=
  match (setBits flips 72).length with
  | 0 => .good
  | 1 => .corrected
  | 2 => .bad
  | _ => match Config.eccMulti flips % 3 with
    | 0 => .good
    | 1 => .corrected
    | _ => .bad

/-- The syndrome of a word read (R493). -/
def eccSyn (flips : Nat) : Nat := (eccSum (flips % 2 ^ 72)).toNat

/-- The data bits a read delivers wrong: none where a single error was corrected; those that are stored wrong where the
word is reported; a free set where three or more errors went unseen. -/
def eccWrong (flips : Nat) : Nat :=
  match (setBits flips 72).length with
  | 0 => 0
  | 1 => 0
  | 2 => flips % 2 ^ 64
  | _ => Config.eccWrong flips % 2 ^ 64

end Sys2Proof.Machine
end

