-- ==== Sys2Proof/Machine/State.lean ====
section
/-! DEFINITION. The block's state, all of it plain data: one record per unit, tables by number for what
the configuration multiplies, and the queue of waiting commands. -/

namespace Sys2Proof.Machine

/-- Why a step stops with a fault. The spec gives the block no condition that stops it: every fault of
R557 is a log record and an effect on the state. No meaning raises this; it is safe. -/
inductive Fault where
  /-- No meaning raises it. Safe: it stops nothing. -/
  | none
  deriving DecidableEq, Repr

/-- Why a step is refused. -/
inductive Refusal where
  /-- Raised by an arm of `exec` that has no meaning yet. Safe. -/
  | notModelled (mnemonic : String)
  deriving DecidableEq, Repr

/-! ### Ports (02_ports.md) -/

/-- Four credit counters (R44, R45). -/
structure Cred where
  req : Nat
  rsp : Nat
  dat : Nat
  msg : Nat
  deriving DecidableEq, Repr

/-- Who issued an outbound request, and so takes its response (R68, R602). -/
inductive Owner where
  /-- the WRU's fetch of SQ entries (ring) -/
  | sq (r : Nat)
  /-- the WRU's completion entry (ring, cid, the completion's number on the ring) -/
  | cq (r cid no : Nat)
  /-- a transfer job of a command: a read of host data for an SB address -/
  | jobRd (id sb : Nat)
  /-- a transfer job's write of result data (its length; ring, cid and fetch number of its command, for R602) -/
  | jobWr (id len r cid no : Nat)
  /-- a transfer job's next descriptor -/
  | jobDesc (id : Nat)
  /-- a programmed channel's descriptor, in its chain -/
  | desc (n chain addr : Nat)
  /-- a programmed channel's data for descriptor `no`: a read of the first or second side landing at the position
  given, a write, and the completion record with its doorbell (0 none, 1 on departure, 2 on landing) -/
  | chRd (n no pos : Nat)
  | chRd2 (n no pos : Nat)
  | chWr (n no : Nat)
  | chRec (n bell : Nat)
  /-- a map-cache fill (slot) and a line written back (line address) -/
  | mapRd (slot : Nat)
  | mapWb (line : Nat)
  /-- a Bell delivery attempt (target, d_seq with phase, slot of the run) -/
  | bell (t dseq slot : Nat)
  /-- a target-side response -/
  | answer
  deriving DecidableEq, Repr

/-- An outbound header with what it carries (R50, R51, R53): the bytes of its transfer, the byte ranges (offset,
length) that came from an uncorrectable source (R56), and its owner. -/
structure OutMsg where
  cls : YppClass
  op : Nat
  addr : Nat
  len : Nat
  status : Nat
  txid : Nat
  mdata : Nat
  data : Bytes
  bad : List (Nat × Nat)
  own : Owner
  deriving DecidableEq, Repr

/-- One of the FX32's own requests, issued and not yet answered (R51, R70). -/
structure Outst where
  txid : Nat
  own : Owner
  op : Nat
  addr : Nat
  len : Nat
  departed : Bool
  deriving DecidableEq, Repr

/-- DAT flits of a header already sent that wait for credits (R54, R55): how many are left, and the header. -/
structure DatRun where
  left : Nat
  hdr : OutMsg
  deriving DecidableEq, Repr

/-- A flit on the outbound signals of a port (R43): its class, its 512 bits, `o_last` and `o_poison`. -/
structure YFlit where
  cls : YppClass
  flit : BitVec 512
  last : Bool
  poison : Bool
  deriving DecidableEq, Repr

/-- One host port (02_ports.md R43 to R79). -/
structure Port where
  linkUp : Bool
  cr : Cred
  /-- outbound credits received since link-up (R79) -/
  got : Cred
  /-- inbound credits that the fabric holds (R46, R47), and the pulses driven on `i_crd` since link-up -/
  iCr : Cred
  iPulse : Cred
  minMet : Bool
  rspMet : Bool
  under : Bool
  framing : Bool
  hdrQ : List OutMsg
  datQ : List DatRun
  last : Option OutMsg
  /-- the flit driven last on `o_class`, `o_flit`, `o_last` and `o_poison` (R43); none: `o_valid` has been low since
  the link rose -/
  out : Option YFlit
  /-- target-side requests that wait in the ingress queue, oldest first (R60) -/
  inQ : List Instr
  /-- the most requests that have stood in the ingress queue since q_clear (R500) -/
  inPeak : Nat
  outst : List Outst
  quar : List Nat
  nextTxid : Nat
  xoff : Bool
  deriving DecidableEq, Repr

/-- A port with its link down (R73). -/
def Port.reset : Port :=
  { linkUp := false, cr := ⟨0, 0, 0, 0⟩, got := ⟨0, 0, 0, 0⟩, iCr := ⟨0, 0, 0, 0⟩, iPulse := ⟨0, 0, 0, 0⟩, minMet := false, rspMet := false,
    under := false, framing := false, hdrQ := [], datQ := [], last := none, out := none, inQ := [], inPeak := 0, outst := [], quar := [],
    nextTxid := 0, xoff := false }

/-! ### Telemetry, time base and supplies (02_ports.md R84 to R102) -/

/-- What the telemetry and time-base inputs leave. -/
structure Tele where
  /-- hu_seq of the last report taken (R86) -/
  lastSeq : Option Nat
  /-- a valid budget was taken at some time; its value and the time (R86, R423) -/
  ever : Bool
  stale : Bool
  range : Bool
  takenAt : Nat
  /-- the bus counts as above the ceiling; consecutive samples above it and not above it, at most 3; the last sample
  was above 30,000 mV (R87) -/
  above : Bool
  nHigh : Nat
  nLow : Nat
  beyond : Bool
  /-- the latched power-fail warning (R88) -/
  pf : Bool
  /-- the pending sync: its count and the FX32's predicted time at it (R91) -/
  tbPend : Option (Nat × Nat)
  /-- steps applied since power-on (R91) -/
  steps : Nat
  /-- supplies in range (R101, R102) -/
  vdd : Bool
  vddp : Bool
  vccq : Bool
  deriving DecidableEq, Repr

/-- R96: por_n is released with every supply in range. -/
def Tele.reset : Tele :=
  { lastSeq := none, ever := false, stale := false, range := false, takenAt := 0,
    above := false, nHigh := 0, nLow := 0, beyond := false, pf := false, tbPend := none, steps := 0, vdd := true, vddp := true, vccq := true }

/-! ### Management Unit (03_object_dictionary.md) -/

/-- The abort codes (R125). -/
inductive Abort where
  | toggle | timeout | unknownCmd | version | crc | noXfer | writeOnly | readOnly | noObject | hwError
  | length | noSubindex | valueRange | notOwner | notQuiesced | conflict | locked | superseded | busy
  | size | state | disabled
  deriving DecidableEq, Repr

/-- An open block transfer (R117 to R120): the entry, the whole value or the bytes received, the bytes
already returned, and the sequence number expected next. -/
structure Xfer where
  wr : Bool
  key : Nat
  total : Nat
  seq : Nat
  got : Bytes
  done : Nat
  deriving DecidableEq, Repr

/-- What a transfer-protocol command sends: its code, seq and len fields, argument and data part (R112, R114). -/
structure OdReq where
  cmd : Nat
  seq : Nat
  len : Nat
  arg : Nat
  data : Bytes
  deriving DecidableEq, Repr

/-- One master's transfer context and its copy of the window registers (R120, R131); `job` is the command taken and not
ended yet (BUSY, R132), `bufBad` the words of its buffer with an uncorrectable error (R125). -/
structure Master where
  cmd : Nat
  arg : Nat
  stat : Nat
  result : Nat
  abort : Nat
  buf : Tab Byte
  xfer : Option Xfer
  closed : Option Abort
  job : Option (OdCmd × OdReq)
  bufBad : List Nat
  deriving DecidableEq, Repr

/-- R131: the reset values of the window registers; no transfer is open. -/
def Master.reset : Master :=
  { cmd := 0, arg := 0, stat := 0, result := 0, abort := 0, buf := [], xfer := none, closed := none, job := none, bufBad := [] }

/-- An MCTP message in assembly (R136, R140). -/
structure Asm where
  src : Nat
  tag : Nat
  seq : Nat
  body : Bytes
  deriving DecidableEq, Repr

/-- A response waiting to be read by the I3C controller (R138). -/
structure I3cRsp where
  dst : Nat
  tag : Nat
  body : Bytes
  off : Nat
  seq : Nat
  deriving DecidableEq, Repr

/-- The I3C target and MCTP endpoint (R134 to R140). -/
structure I3c where
  ibiEn : Bool
  hdr : Bool
  mwl : Nat
  mrl : Nat
  asm : Option Asm
  rsp : Option I3cRsp
  ibi : Bool
  srcEid : Option Nat
  out : Bytes
  deriving DecidableEq, Repr

/-- The I3C and MCTP logic after reset (R135: MWL and MRL of 69). -/
def I3c.reset : I3c :=
  { ibiEn := false, hdr := false, mwl := 69, mrl := 69, asm := none, rsp := none, ibi := false,
    srcEid := none, out := [] }

/-! ### Bell (14_bell_interrupts.md) -/

/-- A source's state (R504). -/
inductive SrcSt where
  | idle | pending | inService
  deriving DecidableEq, Repr

/-- A Bell source (R504, R506). -/
structure Src where
  st : SrcSt
  cnt : Nat
  ovf : Bool
  redir : Bool
  deriving DecidableEq, Repr

/-- Every source starts IDLE with counter 0 (R517, R578). -/
def Src.reset : Src := { st := .idle, cnt := 0, ovf := false, redir := false }

/-- A delivery run: its source, the slot in hand counted from 1, whether the slot's attempt has acted and
whether it was refused, the s_cnt the attempt copied, and whether a message is under way (R507, R509). -/
structure Run where
  src : Nat
  slot : Nat
  acted : Bool
  failed : Bool
  more : Nat
  /-- the priority as the attempt began (R508) -/
  prio : Nat
  deriving DecidableEq, Repr

/-- A Bell target (R506 to R515): the stack with its top first, as (source, priority). -/
structure Tgt where
  stack : List (Nat × Nat)
  run : Option Run
  frozen : Bool
  awake : Bool
  irq : Bool
  /-- a push onto a stack not empty drives bl_irq low for 4 cycles (R513): pulses driven so far -/
  pulses : Nat
  /-- the source last chosen at each priority (R507) -/
  last : Tab Nat
  deriving DecidableEq, Repr

/-- An empty stack, no run (R578). -/
def Tgt.reset : Tgt :=
  { stack := [], run := none, frozen := false, awake := false, irq := false, pulses := 0, last := [] }

/-- A doorbell or completion on its way to Bell (R501, R502, R517). -/
inductive DbItem where
  /-- an internal unit's doorbell -/
  | unit (src : Nat)
  /-- the fault path's one waiting doorbell (R564) -/
  | flt (src : Nat)
  /-- the memory log's waiting doorbell (R495) -/
  | memlog (src : Nat)
  /-- a completion written over the dictionary while Bell is not in ON (R514, R517) -/
  | eoi (v : BitVec 32)
  deriving DecidableEq, Repr

/-! ### Keeper (15_keeper_power_domains.md) -/

/-- The domain states of R521. -/
inductive DomSt where
  | off | ret | on | drain | goingDown | waking | wakeRetry | failed
  deriving DecidableEq, Repr

/-- A power domain (R521 to R533). `from_` is the state a wake left; `attempt` counts wake attempts; the pending request
has its target, its master and the port of the window it came through. -/
structure Dom where
  st : DomSt
  tgt : DomSt
  from_ : DomSt
  attempt : Nat
  pend : Option (DomSt × Nat × Option Nat)
  master : Nat
  pcReq : Nat
  isolated : Bool
  flit : Bool
  demand : Bool
  /-- restores from reset at the next ON, as from OFF (R575) -/
  cold : Bool
  deriving DecidableEq, Repr

/-- R571: every switchable domain is off after power-on reset. -/
def Dom.reset : Dom :=
  { st := .off, tgt := .off, from_ := .off, attempt := 0, pend := none, master := 0, pcReq := 0,
    isolated := true, flit := false, demand := false, cold := true }

/-! ### Thermal (16_thermal.md) -/

/-- A node of the model: t in units of 2^-16 degrees, the gain, the level and the energy of this ms in nJ
before the gain (R538 to R540). -/
structure Node where
  t : Int
  gain : Nat
  level : Nat
  energy : Nat
  deriving DecidableEq, Repr

/-- Gain 256, level NORMAL (R540); t before the first loop is the default ambient 40 degrees (log 11). -/
def Node.reset : Node := { t := 40 * 65536, gain := 256, level := 2, energy := 0 }

/-- A SoC sensor (R89, R543, R544): fails counts consecutive loops. -/
structure Sensor where
  last : Int
  seen : Bool
  stale : Bool
  suspect : Bool
  fails : Nat
  deriving DecidableEq, Repr

/-- A sensor that has not reported. -/
def Sensor.reset : Sensor := { last := 0, seen := false, stale := false, suspect := false, fails := 0 }

/-- The TMU's loop state: first loop done, die readings taken since the last correction, die temperature
entries still queued, the energy the CUs reported in this loop (R540 to R542), and the energy table, package
map, node parameters and sensor configuration in force since the last loop (R552; none before the first). -/
structure Thermal where
  loopDone : Bool
  dieRd : List (Nat × Int)
  queued : List Nat
  cuUj : Nat
  tabs : Option (List Nat × Bytes × Bytes × Bytes)
  deriving DecidableEq, Repr

/-! ### Faults and resets (17, 18) -/

/-- A fault record (R559). -/
structure Flt where
  ts : Nat
  seq : Nat
  phase : Bool
  tb : Nat
  cls : Nat
  cause : Nat
  unit : Nat
  a : Nat
  b : Nat
  rep : Nat
  /-- always-on time at which it was written or held (R561) -/
  at_ : Nat
  deriving DecidableEq, Repr

/-- The fault log, oldest first, and the records held during a block read (R559 to R562). -/
structure FltLog where
  log : List Flt
  held : List Flt
  deriving DecidableEq, Repr

/-- Which reset (R573). -/
inductive RstKind where
  | block | soft
  deriving DecidableEq, Repr

/-- The block or soft reset in progress, and one held until FLUSHED with its cause (R574, R575). -/
structure Rst where
  kind : Option RstKind
  cause : Nat
  held : Option (RstKind × Nat)
  chans : List Nat
  deriving DecidableEq, Repr

/-! ### Work rings and commands (04_work_rings.md) -/

/-- A completion whose Bell doorbell is still to be sent (R187): its number on the ring and its source. -/
structure RBell where
  no : Nat
  src : Nat
  departed : Bool
  landed : Bool
  deriving DecidableEq, Repr

/-- What a ring holds beside its OD entries (R142 to R150, R183, R187, R601). -/
structure Ring where
  cseq : Nat
  fetching : Nat
  discard : Bool
  failed : Bool
  starved : Bool
  cqWait : Bool
  fetched : List Bytes
  bells : List RBell
  posted : Nat
  /-- the latest `ts` taken on the ring, and the steps of the time base (R91) applied before it (R185) -/
  lastTs : Nat
  lastStep : Nat
  deriving DecidableEq, Repr

/-- A ring as it is enabled (R189). -/
def Ring.reset : Ring :=
  { cseq := 0, fetching := 0, discard := false, failed := false, starved := false, cqWait := false,
    fetched := [], bells := [], posted := 0, lastTs := 0, lastStep := 0 }

/-- Where a command stands: fetched and not started; under way; its output ready for Tender or on its
way; waiting for durability; its completion condition met. -/
inductive CmdSt where
  | waiting | running | output | durable | met
  deriving DecidableEq, Repr

/-- A run of result or write data: offset in the host buffer, SB byte address, length, and the read whose
SB space it lies in (0: none). -/
structure OutSeg where
  off : Nat
  sb : Nat
  len : Nat
  rd : Nat
  deriving DecidableEq, Repr

/-- A fetched command with its operation tag (R30, R152 to R158). -/
structure Cmd where
  ring : Nat
  no : Nat
  v1 : Bool
  opc : Nat
  cid : Nat
  cgrp : Nat
  stream : Nat
  chain : Bool
  fence : Bool
  nobell : Bool
  fua : Bool
  slba : Nat
  nsec : Nat
  dptr : Nat
  dlen : Nat
  q4 : Nat
  q5 : Nat
  q6 : Nat
  q7 : Nat
  st : CmdSt
  /-- the COMMIT group it belongs to or closes (R164) -/
  grp : Option Nat
  /-- failures met (R600) and the sectors that failed (R161) -/
  fails : List Nat
  bad : List Nat
  result : Nat
  /-- highest ladder step, read-around used, every sector served from SB (R183) -/
  step : Nat
  around : Bool
  sbOnly : Bool
  /-- work not ended: units of read and write work, transfer jobs -/
  left : Nat
  /-- result data in SB and result records, ready to leave and not yet handed to Tender; where the next
  records go in the host buffer -/
  out : List OutSeg
  outB : Bytes
  outOff : Nat
  /-- SCAN and HASH: the next sector to take, the data of the extent in hand, whether the scan ended -/
  cur : Nat
  ext : Bytes
  fin : Bool
  /-- a host-made error made the command unpredictable (R11, R154, R156, R169): what it reports and the data it touches are
  free -/
  wild : Bool
  /-- the journal record it waits on (R35, R163, R166) -/
  need : Nat
  /-- order in which completion conditions are met, and the time (R182, R185) -/
  metNo : Nat
  ts : Nat
  tq : Nat
  deriving DecidableEq, Repr

/-- A map entry that a member of a COMMIT group changed: the member's fetch number, the entry's previous value, the one
the member gave it and the `m_wseq` of the unit that names, 0 for a trim (R168, R409, R414). -/
structure GChange where
  gran : Nat
  no : Nat
  prev : Nat
  ent : Nat
  wseq : Nat
  deriving DecidableEq, Repr

/-- A COMMIT group (R164 to R168): `close` is the COMMIT's tag once fetched. -/
structure Group where
  id : Nat
  ring : Nat
  cgrp : Nat
  members : Nat
  entries : Nat
  left : Nat
  aborted : Bool
  close : Option Nat
  chg : List GChange
  deriving DecidableEq, Repr

/-! ### Lantern (05_lantern_placement.md) -/

/-- A placement key (R217): granule size, mode, lifetime group 0 to 2, read-heavy flag, zone family. -/
structure Key where
  glog : Nat
  slc : Bool
  grp : Nat
  rheavy : Bool
  zfam : Nat
  deriving DecidableEq, Repr

/-- A block record (R213), with the time-outs of its erases (R260) and the programs behind ptemp (R549). -/
structure Blk where
  pe : Nat
  vunits : Nat
  ptime : Nat
  ptemp : Int
  bstate : Nat
  life : Nat
  temp : Nat
  rheavy : Bool
  slc : Bool
  zfam : Nat
  bidx : Nat
  mpos : Nat
  sset : Nat
  eraseTo : Bool
  deriving DecidableEq, Repr

/-- The reset column of R213. -/
def Blk.reset : Blk :=
  { pe := 0, vunits := 0, ptime := 0, ptemp := 0, bstate := 0, life := 0, temp := 0, rheavy := false,
    slc := false, zfam := 0xFFF, bidx := 0, mpos := 0, sset := 0, eraseTo := false }

/-- A granule's piece in a member slot: write job, first codeword slot, first sector of the granule,
number of sectors. -/
structure SlotUse where
  job : Nat
  cw : Nat
  sec : Nat
  cnt : Nat
  deriving DecidableEq, Repr

/-- How far a member slot is (R206, R231): filling, folded into the accumulator, passed, absent. -/
inductive SlotSt where
  | filling | folded | passed | absent
  deriving DecidableEq, Repr

/-- A data member slot of an open row: the codeword slots taken (a bit each), its state, its contents, and
whether its program is queued on the die (R245). -/
structure MSlot where
  used : Nat
  queued : Bool
  /-- planes whose payloads stand in the row's accumulator, a bit each (R364) -/
  fold : Nat
  st : SlotSt
  uses : List SlotUse
  /-- m_wseq of its pad codewords, once padded (R351) -/
  pad : Nat
  deriving DecidableEq, Repr

/-- How far a row's parity page is. -/
inductive ParSt where
  | no | queued | passed
  deriving DecidableEq, Repr

/-- An open row (R205): its data member slots and the SB byte address of its accumulator. -/
structure Row where
  row : Nat
  slots : List MSlot
  acc : Nat
  par : ParSt
  deriving DecidableEq, Repr

/-- A band's state. `closing`: no row opens any more and the open rows are padded (R218, R236, R237). -/
inductive BandSt where
  | opened | closing | closed | reloc
  deriving DecidableEq, Repr

/-- A band (R202 to R206): its members in set order as (die, block), each member's cut_row in the band
record, the relocation that opened it, the order in which it opened and was last written. -/
structure Band where
  id : Nat
  set : Nat
  bidx : Nat
  key : Key
  life : Nat
  temp : Nat
  mem : List (Nat × Nat)
  st : BandSt
  rows : List Row
  next : Nat
  reloc : Option Nat
  order : Nat
  lastW : Nat
  deriving DecidableEq, Repr

/-- Where a piece of a write job lies: band, row, data member, first codeword slot, first sector, number. -/
structure Piece where
  band : Nat
  row : Nat
  j : Nat
  cw : Nat
  sec : Nat
  cnt : Nat
  passed : Bool
  deriving DecidableEq, Repr

/-- A granule to be written (R33, R220 to R222). Masks hold a bit per sector of the granule: those the
command brings, those landed in SB, those written as uncorrectable. -/
structure WJob where
  id : Nat
  tag : Option Nat
  reloc : Option Nat
  no : Nat
  gran : Nat
  first : Nat
  nsec : Nat
  mask : Nat
  host : Nat
  landed : Nat
  bad : Nat
  key : Key
  life : Nat
  temp : Nat
  stream : Nat
  rset : Nat
  /-- SB address of each sector in bytes, once reserved -/
  sb : List Nat
  /-- merge reads begun; reads still out -/
  merging : Bool
  reads : Nat
  /-- its host transfer was handed to Tender -/
  given : Bool
  pieces : List Piece
  gen : Nat
  wseq : Nat
  /-- waiting for a free band (R227); given up: its units become invalid space -/
  spaceWait : Bool
  dead : Bool
  /-- relocation: the source entry (R210), and the metadata copied with each sector (R351) -/
  src : Nat
  metas : Tab Nat
  /-- sectors that a codec has driven to a die as data (R364) -/
  driven : Nat
  /-- data found at replay that waits for its SB space (R437, R440) -/
  hold : List Bytes
  deriving DecidableEq, Repr

/-- Whom a page-unit read serves. -/
inductive ROwn where
  | cmd (tag : Nat)
  | wjob (id : Nat)
  /-- a page unit of the granule read with this number -/
  | part (parent : Nat)
  | rebuild (id : Nat)
  /-- a programmed data member of an open row whose accumulator entry is rebuilt (R486) -/
  | acc (band row : Nat)
  | raw
  deriving DecidableEq, Repr

/-- A codeword a read needs: the logical sector it must name, its slot, where its sector goes in SB,
whether it has ended, and the status it failed with (0: none). -/
structure RSec where
  lsec : Nat
  slot : Nat
  dst : Nat
  fin : Bool
  bad : Nat
  deriving DecidableEq, Repr

/-- Where a page-unit read is. -/
inductive RSt where
  | fresh | split | issued | joined (other : Nat) | rebuilding (id : Nat)
  deriving DecidableEq, Repr

/-- A page-unit read (R230): the entry's address of its page unit (slot 0), its codewords, the prediction
fixed at placement (R378): group, cell, level set. -/
structure RJob where
  id : Nat
  own : ROwn
  no : Nat
  gran : Nat
  addr : Nat
  cls : Nat
  pol : Nat
  glog : Nat
  parity : Bool
  secs : List RSec
  st : RSt
  grp : Nat
  cell : Option Nat
  pred : List Int
  slc : Bool
  /-- looked up through the map cache already -/
  looked : Bool
  /-- bf_iter as step 0 began (R378); its wait for a level-set slot has been counted (R386) -/
  bf : Nat
  slotW : Bool
  deriving DecidableEq, Repr

/-- A codeword under reconstruction: its slot, members still out, the XOR of the payloads so far. -/
structure RbCw where
  slot : Nat
  left : Nat
  acc : Bytes
  deriving DecidableEq, Repr

/-- A read-around or a parity reconstruction (R231, R366, R380): the read it serves, its codewords, and
whether it runs at ladder step 5 (or for a FAILED die) rather than around a busy one. -/
structure Rebuild where
  id : Nat
  tgt : Nat
  cws : List RbCw
  ladder : Bool
  deriving DecidableEq, Repr

/-- A relocation (R39, R223, R224, R416): the data member in hand, its step (0 intent, 1 copy, 2 done
record, 3 switch, 4 all members switched), the journal record it waits on, the granules still to copy, its
copies (granule, source entry, destination entry, m_wseq) and how many are under way. -/
structure Reloc where
  id : Nat
  band : Nat
  kind : Nat
  mem : Nat
  step : Nat
  need : Nat
  todo : List Nat
  copies : List (Nat × Nat × Nat × Nat)
  left : Nat
  deriving DecidableEq, Repr

/-- A superseded map entry that commands fetched earlier still see; its units count in `vunits` while `held` (R179,
R226). -/
structure Ver where
  gran : Nat
  no : Nat
  entry : Nat
  held : Bool
  deriving DecidableEq, Repr

/-- A map-cache line: its address, way, dirty, lost, order of last use (R215, R490). -/
structure Line where
  addr : Nat
  way : Nat
  dirty : Bool
  lost : Bool
  used : Nat
  /-- the wrong bits of its eight protected words, by word (R469, R488) -/
  flips : Tab Nat
  deriving DecidableEq, Repr

/-- A miss slot: line, failures so far, answer arrived, uncached, and whether it waits for the write-back of its line
(R216, R490, R491). -/
structure Miss where
  slot : Nat
  addr : Nat
  fails : Nat
  ans : Option Bool
  uncached : Bool
  back : Bool
  deriving DecidableEq, Repr

/-- Who holds a reservation of SB. -/
inductive SbOwn where
  | wjob (id : Nat)
  | rjob (id : Nat)
  | recs (id : Nat)
  | acc (band row : Nat)
  /-- the member payloads of a codeword slot of a rebuild (R599) -/
  | rebuild (id slot : Nat)
  | raw
  deriving DecidableEq, Repr

/-- A reservation: start and length in 64-byte units, inside one bank (R480). -/
structure SbRes where
  at_ : Nat
  len : Nat
  own : SbOwn
  deriving DecidableEq, Repr

/-- A read-level update that waits (R391 to R394): group, cell, page thresholds, step 2's retry entry, and
the counts. -/
structure LmUpd where
  grp : Nat
  cell : Nat
  thr : List Nat
  retry : Option (List Int)
  slc : Bool
  n01 : Nat
  n10 : Nat
  deriving DecidableEq, Repr

/-- The reference geometry or a die's own (R289). -/
structure Geom where
  spare : Nat
  pages : Nat
  blocks : Nat
  planes : Nat
  ifaces : Nat
  deriving DecidableEq, Repr

/-- Lantern's state. -/
structure Lan where
  map : Tab Nat
  verNo : Tab Nat
  hist : List Ver
  blk : Tab Blk
  rdCnt : Tab Nat
  bandRec : Tab Nat
  /-- in force since the last map_init (R198): regions, capacity, n, sets -/
  regions : List Nat
  cap : Nat
  n : Nat
  sets : List (List Nat)
  bands : List Band
  wjobs : List WJob
  rjobs : List RJob
  rebs : List Rebuild
  relocs : List Reloc
  relWant : List Nat
  rot : List (Key × (Nat × Nat × Nat))
  wseq : Nat
  ids : Nat
  lines : List Line
  misses : List Miss
  /-- lines whose write-back is not answered yet (R59), with their way; 16 for one served uncached -/
  wbs : List (Nat × Nat)
  /-- lines asked for and not in the cache yet, and whether a change waits for them (R216) -/
  want : List (Nat × Bool)
  useNo : Nat
  res : List SbRes
  mem : Tab Byte
  /-- the wrong bits of SB words, by word number: byte address div 8 (R469, R470) -/
  flips : Tab Nat
  lmq : List LmUpd
  /-- the 1 ms window, and the page units placed in it: all, by relocations (R225) and by checkpoints (R418) -/
  placedMs : Nat
  placedAll : Nat
  placedRel : Nat
  placedCk : Nat
  uecc : List Bytes
  uHeld : List Bytes
  decLast : Tab Nat
  deriving DecidableEq, Repr

/-- Lantern after a reset (R578): UNCONFIGURED, every line invalid, nothing reserved. -/
def Lan.reset : Lan :=
  { map := [], verNo := [], hist := [], blk := [], rdCnt := [], bandRec := [], regions := [], cap := 0,
    n := 0, sets := [], bands := [], wjobs := [], rjobs := [], rebs := [], relocs := [], relWant := [],
    rot := [], wseq := 0, ids := 0, lines := [], misses := [], wbs := [], want := [], useNo := 0, res := [], mem := [], flips := [],
    lmq := [], placedMs := 0, placedAll := 0, placedRel := 0, placedCk := 0, uecc := [], uHeld := [], decLast := [] }

/-! ### Channel Units (06_die_scheduling.md) -/

/-- What a Buoy entry serves. -/
inductive EOwn where
  /-- the member slot (band, row, j) -/
  | slot (band row j : Nat)
  | parity (band row : Nat)
  /-- the page-unit reads merged into the entry, one per plane (R257) -/
  | reads (ids : List Nat)
  | erase
  | raw
  /-- a unit of a commit or of a checkpoint: commit number (0: checkpoint), copy -/
  | clasp (commit unit copy : Nat)
  | temp
  /-- a retraining of the die's target (R309) -/
  | train
  deriving DecidableEq, Repr

/-- A Buoy entry (R247) with what it serves, the time it was queued, whether its hold was counted (R250, R546)
and whether it was issued again (R260). -/
structure BEnt where
  tag : Nat
  itl : Bool
  op : Nat
  cls : Nat
  slc : Bool
  cache : Bool
  pmask : Nat
  smask : Nat
  block : Nat
  page : Nat
  lvl : Nat
  lstep : Nat
  sbPtr : Nat
  est : Nat
  qseq : Nat
  own : EOwn
  t0 : Nat
  heldCnt : Bool
  thCnt : Bool
  again : Bool
  /-- raised as a page-order fault (R251), or past the raw path's protection check (R276) -/
  noted : Bool
  deriving DecidableEq, Repr

/-- The die states (R248). -/
inductive DieSt where
  | idle | read | prog | erase | suspending | suspended | reset | failed | off
  deriving DecidableEq, Repr

/-- A die (R243 to R266). -/
structure Die where
  st : DieSt
  q : List BEnt
  qseq : Nat
  nextPage : Tab Nat
  /-- a status read is due; planes whose data-out is still to come; planes whose data-in is still to come -/
  statusDue : Bool
  outLeft : List Nat
  inLeft : List Nat
  /-- the entry issued and not ended, by its qseq; the cache program before it; cache ready seen -/
  cur : Option Nat
  prev : Option Nat
  cacheRdy : Bool
  /-- susp_gap_us and susp_hold_us said to have passed (log 3) -/
  gapOk : Bool
  holdExp : Bool
  suspReq : Bool
  resumeDue : Bool
  suspends : Nat
  readsSusp : Nat
  timeouts : Nat
  revive : Bool
  /-- microseconds: SLC read, native read, SLC program, native program, erase (R263) -/
  means : List Nat
  start : Nat
  ran : Nat
  suspAt : Nat
  lvlSlot : Option Nat
  trim : Bool
  geom : Option Geom
  waitRef : Bool
  prevStatus : Option Byte
  released : Bool
  /-- R/B_n rose since the operation began; a data-out missed its strobe; op of the last expiry -/
  rbHigh : Bool
  dqsMiss : Bool
  lastOp : Nat
  /-- in RESET, and its LUN reset is still to be sent (R255) -/
  rstDue : Bool
  /-- identified again and FAILED until its target's training passes (R291) -/
  waitTrain : Bool
  deriving DecidableEq, Repr

/-- A die while its channel's sequencer domain is not ON (R248). -/
def Die.reset : Die :=
  { st := .off, q := [], qseq := 0, nextPage := [], statusDue := false, outLeft := [], inLeft := [],
    cur := none, prev := none, cacheRdy := false, gapOk := false, holdExp := false, suspReq := false, resumeDue := false, suspends := 0, readsSusp := 0,
    timeouts := 0, revive := false, means := [0, 0, 0, 0, 0], start := 0, ran := 0, suspAt := 0,
    lvlSlot := none, trim := false, geom := none, waitRef := false, prevStatus := none,
    released := false, rbHigh := false, dqsMiss := false, lastOp := 0, rstDue := false, waitTrain := false }

/-- A burst on the bus (R253); the die is its rank k in the channel. -/
inductive Burst where
  | status (k : Nat)
  | dataOut (k plane : Nat)
  | suspend (k : Nat)
  | resume (k : Nat)
  | readCmd (k : Nat)
  | progCmd (k : Nat)
  | dataIn (k plane : Nat)
  | confirm (k : Nat)
  | otherCmd (k : Nat)
  /-- the level-set slot lv is set in the die (R386), and a LUN reset (R255) -/
  | levels (k lv : Nat)
  | lunReset (k : Nat)
  /-- a target's training, by its entry's die (R309) -/
  | train (k : Nat)
  deriving DecidableEq, Repr

/-- Where a codeword in the raw buffer is: waiting for a decoder, at one, waiting for a reread. -/
inductive CwSt where
  | wait | sent | reread
  deriving DecidableEq, Repr

/-- A codeword of a read in the codec's raw buffer (R37, R374 to R389): its read, slot, raw bytes, the
step and retry entry in hand, the attempts of steps 0 to 2 with level set and syndrome, the bit planes of a
soft step with their shifts, the shifts still to be read, and the retry entries as step 2 began. -/
structure RawCw where
  id : Nat
  rid : Nat
  slot : Nat
  data : Bytes
  step : Nat
  k : Nat
  ms : Bool
  st : CwSt
  tries : List (List Int × Nat)
  soft : List (Int × Bytes)
  shifts : List Int
  retry : List (List Int)
  /-- entries of the raw buffer it holds (R37, R389) -/
  ents : Nat
  /-- bf_iter, ms_iter, soft_iter and the magnitudes as its step began (R378) -/
  bf : Nat
  mi : Nat
  si : Nat
  mag : Nat
  deriving DecidableEq, Repr

/-- A decode result that waits for the inline check (R352, R369). -/
structure InlRes where
  cw : Nat
  src : Nat
  payload : Bytes
  n01 : Nat
  n10 : Nat
  synd : Nat
  deriving DecidableEq, Repr

/-- A channel: its bus, its codec's raw buffer and level sets, and where its identification, swaps and trainings stand
(R253, R281 to R314, R386); the values of its timing sets are OD entries. -/
structure Chan where
  bus : Option Burst
  /-- always-on time at which the burst began (R279) -/
  busT0 : Nat
  last : List Nat
  multi : List (Nat × Nat)
  raw : List RawCw
  cwId : Nat
  inl : List InlRes
  levels : Tab (List Int)
  lvlUsed : List Nat
  /-- bytes last driven to the NAND: codewords of a data-in, or feature addresses with their parameters (R387) -/
  driven : Bytes
  state : Nat
  armed : Bool
  /-- a quiet boundary has come for what waits for one; SWAP_HOLD was entered by R301 -/
  held : Bool
  forced : Bool
  trainWait : List Nat
  trainTry : List Nat
  doutCnt : Tab Nat
  trains : Tab Bytes
  zqNew : Option Nat
  duty : Bool
  identified : Bool
  /-- targets whose identification runs -/
  idTgts : List Nat
  firstRound : Bool
  snap : Bytes
  deriving DecidableEq, Repr

/-- A channel after a reset. -/
def Chan.reset : Chan :=
  { bus := none, busT0 := 0, last := [0, 0, 0, 0, 0, 0], multi := [], raw := [], cwId := 0, inl := [], levels := [],
    lvlUsed := [], driven := [], state := 0, armed := false, held := false, forced := false, trainWait := [],
    trainTry := [], doutCnt := [], trains := [], zqNew := none, duty := false,
    identified := false, idTgts := [], firstRound := false, snap := [] }

/-- The raw path's lock states (R269). -/
inductive RawLock where
  | locked | key1 (m : Nat) | opened
  deriving DecidableEq, Repr

/-- The raw maintenance path (R269 to R277): the operation in hand, whether its host data is to be asked for (1)
or on its way (4), its place in the queue (2) or its end (3) is waited for, and the operations that wait, with their data. -/
structure RawPath where
  lock : RawLock
  rop : Nat
  req : Option RawReq
  phase : Nat
  todo : List (Nat × RawReq × Bytes)
  /-- the last status byte of its die -/
  status : Nat
  data : Bytes
  sb : Option Nat
  /-- its results are unpredictable (R271); data of an operation that ended while raw_data is being read (R123) -/
  wild : Bool
  hold : Option Bytes
  deriving DecidableEq, Repr

/-- The raw path after a reset (R269). -/
def RawPath.reset : RawPath := { lock := .locked, rop := 0, req := none, phase := 0, todo := [], status := 0, data := [], sb := none, wild := false, hold := none }

/-! ### Sequencer microcode and the Locket loader (08_microcode.md) -/

/-- A call of a library routine (R333): its number, the micro-stack's depth with it, what its caller had in g4 to g7 and
g12 to g15, in g0 and g8, and how many reports had been made; cycles since its entry or its last safe point, a safe
point seen; a patch word or an event handler has run in it, which the contract does not bind. -/
structure LibCall where
  routine : Nat
  depth : Nat
  keep : List (BitVec 32)
  g0 : BitVec 32
  g8 : BitVec 32
  posts : Nat
  run : Nat
  safe : Bool
  waived : Bool
  deriving DecidableEq, Repr

/-- A channel's sequencer (R317 to R331): registers and flags, the stack with its newest entry first, the timer in ns,
the cycles since the last safe point, whether a burst's routine runs, the burst's table 0 index, whether the burst
started through an invalid entry, the target and LUN selected, the last bus operation with its byte, the reports made to
the Buoy entry, the hardware fields stored and the loads made, patch RAM, dispatch entries set by patches, the regions
(rom_base, len, ram_base), the words to be rewritten, and whether patches are to leave or to be installed. -/
structure Seq where
  g : Tab (BitVec 32)
  zf : Bool
  nf : Bool
  cf : Bool
  pc : BitVec 12
  stack : List (BitVec 12 × Byte)
  emask : Byte
  epend : Byte
  timer : Option Nat
  gap : Nat
  running : Bool
  burst : Nat
  badStart : Bool
  ce : Option (Nat × Nat)
  cycle : Nat
  dq : Byte
  posts : List Nat
  fields : Tab (BitVec 32)
  ldfs : Nat
  ram : Tab Nat
  disp : Tab Nat
  regions : List (Nat × Nat × Nat)
  rewrite : List Nat
  leave : Bool
  install : Bool
  /-- library routines entered and not left, innermost first (R333) -/
  lib : List LibCall
  /-- a patch word has run since the last safe point (R327) -/
  patched : Bool
  deriving DecidableEq, Repr

/-- A sequencer after a reset; registers and flags by log 9. -/
def Seq.reset : Seq :=
  { g := [], zf := false, nf := false, cf := false, pc := 0, stack := [], emask := 0, epend := 0, timer := none,
    gap := 0, running := false, burst := 0, badStart := false, ce := none, cycle := 0, dq := 0, posts := [],
    fields := [], ldfs := 0, ram := [], disp := [], regions := [], rewrite := [], leave := false, install := false,
    lib := [], patched := false }

/-- The copy of an accepted Locket (R343): patch RAM words by address, regions as (number, rom_base, len, ram_base) and
dispatch entries by 64 times the table plus the index. -/
structure LktSlot where
  level : Nat
  sig : Nat
  words : List (Nat × Nat)
  regions : List (Nat × Nat × Nat × Nat)
  disp : List (Nat × Nat)
  deriving DecidableEq, Repr

/-- The Locket loader (R336 to R344): whether a load runs, the key-port outputs, whether lk_ack is high, the words
latched so far, the copy accepted, the times of the microcode faults of the last 1,000 ms, and the fault record. -/
structure Loader where
  busy : Bool
  sel : Nat
  idx : Nat
  req : Bool
  ackHigh : Bool
  words : List (BitVec 64)
  copy : List LktSlot
  faults : List Nat
  mcRec : Bytes
  deriving DecidableEq, Repr

/-- The loader after a reset. -/
def Loader.reset : Loader :=
  { busy := false, sel := 0, idx := 0, req := false, ackHigh := false, words := [], copy := [], faults := [],
    mcRec := zeros 96 }

/-! ### Decoder Pool (09_codes_and_randomizer.md) -/

/-- A decode job: the header's 256-bit value (R368), the codeword in the raw buffer, its bits. -/
structure DecJob where
  hdr : Nat
  ch : Nat
  cw : Nat
  eng : Nat
  mode : Nat
  data : Bytes
  soft : List Nat
  started : Bool
  /-- always-on time at which decoding began (R373) -/
  t0 : Nat
  deriving DecidableEq, Repr

/-- A decoder (R367 to R371). -/
structure Dec where
  jobs : List DecJob
  deriving DecidableEq, Repr

/-- An idle decoder. -/
def Dec.reset : Dec := { jobs := [] }

/-! ### Clasp (11_clasp_commit_power_loss.md) -/

/-- What a codeword of a Clasp unit is made of: a sector with its low metadata quadword (R405), or a payload
as it stands (an accumulator, a salvaged sector). -/
inductive CwSrc where
  | sector (qw : Nat) (data : Bytes)
  | whole (payload : Bytes)
  deriving DecidableEq, Repr

/-- A copy of a page unit: its place, whether its program is queued, whether it has passed. -/
structure CCopy where
  die : Nat
  block : Nat
  plane : Nat
  page : Nat
  queued : Bool
  passed : Bool
  deriving DecidableEq, Repr

/-- A page unit of a commit or checkpoint: its number, its codewords and its copies. -/
structure CUnit where
  id : Nat
  cws : List CwSrc
  copies : List CCopy
  deriving DecidableEq, Repr

/-- A commit in flight (R410): its number, its last journal sequence number, the last record number it makes
durable, its records and units, the group it commits. -/
structure Commit where
  no : Nat
  last : Nat
  upto : Nat
  recs : List JRec
  units : List CUnit
  grp : Option Nat
  deriving DecidableEq, Repr

/-- A die's system pages (R402): the block, plane and page that come next with the newest number written
there, erased blocks, full blocks with the newest journal or checkpoint number they hold, blocks to be erased
before use, and the erased flush blocks. Blocks are pairs of block and plane. -/
structure SysDie where
  cur : Option (Nat × Nat × Nat)
  last : Nat
  free : List (Nat × Nat)
  used : List (Nat × Nat × Nat)
  dirty : List (Nat × Nat)
  flushB : List (Nat × Nat)
  flushP : List (Nat × Nat)
  deriving DecidableEq, Repr

/-- A die without system pages. -/
def SysDie.reset : SysDie := { cur := none, last := 0, free := [], used := [], dirty := [], flushB := [], flushP := [] }

/-- A checkpoint under way (R417, R419): its number, the sequence number of its CKPT_BEGIN's sector, the next
sector to copy, the checksum register over the sectors so far, its units in flight, whether CKPT_END was
appended. -/
structure Ckpt where
  num : Nat
  begin_ : Nat
  next : Nat
  crc : BitVec 32
  units : List CUnit
  ended : Bool
  deriving DecidableEq, Repr

/-- A unit the emergency flush has still to write: class 0 header, 1 journal tail, 2 accumulator, 3 salvage,
4 index; its codewords, copies still needed, the one die that takes it, the dies it went to (with the failed
ones), and what its FLUSH_ACC record names. -/
structure FItem where
  cls : Nat
  cws : List CwSrc
  need : Nat
  fixed : Option Nat
  done : List Nat
  failed : List Nat
  acc : Nat
  deriving DecidableEq, Repr

/-- The emergency flush (R428 to R430): units left, stage (0 step 2 runs, 1 the tail is known, 2 the index is
being written), pages used of each die's flush blocks, FLUSH_ACC records, scope, whether it has ended. -/
structure Flush where
  items : List FItem
  stage : Nat
  room : Tab Nat
  recs : List JRec
  scope : Nat
  ended : Bool
  deriving DecidableEq, Repr

/-- An erase Lantern or Clasp has queued: die, block, the plane of a Clasp block, the journal record of its
intent (R415), whether the entry is queued. -/
structure EraseJob where
  die : Nat
  block : Nat
  plane : Option Nat
  need : Nat
  queued : Bool
  deriving DecidableEq, Repr

/-- Clasp's state. `recNo` numbers the records appended, `durRec` the last durable one. -/
structure Clasp where
  jbuf : List JRec
  recNo : Nat
  durRec : Nat
  jsn : Nat
  commits : List Commit
  commitNo : Nat
  want : Bool
  waited : Bool
  groupQ : List Nat
  erases : List EraseJob
  pairs : List (Nat × Nat)
  nextPair : Nat
  sys : Tab SysDie
  /-- the first journal block has been erased (R583) -/
  firstErased : Bool
  /-- journal sectors written since the last CKPT_BEGIN -/
  written : Nat
  ckpt : Option Ckpt
  ckptTrig : Bool
  ckptNum : Nat
  /-- the complete checkpoints kept, newest first: number and the jsn of CKPT_BEGIN -/
  kept : List (Nat × Nat)
  flush : Option Flush
  probeLog : List Bytes
  unitNo : Nat
  jobNo : Nat
  deriving DecidableEq, Repr

/-- Clasp after a reset (R578). -/
def Clasp.reset : Clasp :=
  { jbuf := [], recNo := 0, durRec := 0, jsn := 0, commits := [], commitNo := 0, want := false,
    waited := false, groupQ := [], erases := [], pairs := [], nextPair := 0, sys := [], firstErased := false,
    written := 0, ckpt := none, ckptTrig := false, ckptNum := 0, kept := [], flush := none, probeLog := [],
    unitNo := 0, jobNo := 0 }

/-! ### Tender (12_tender_dma.md) -/

/-- A descriptor (R449). -/
structure TDesc where
  next : Nat
  irq : Bool
  barrier : Bool
  eoc : Bool
  tval : Nat
  tsrc : Nat
  tkind : Nat
  dstSb : Bool
  srcSb : Bool
  op : Nat
  src : Nat
  dst : Nat
  sStride : Int
  sLines : Nat
  sLen : Nat
  dStride : Int
  dLines : Nat
  dLen : Nat
  wb : Nat
  user : Nat
  deriving DecidableEq, Repr

/-- A piece of a command's transfer: offset in the host buffer, host address, SB byte address, length. -/
structure TPiece where
  off : Nat
  host : Nat
  sb : Nat
  len : Nat
  deriving DecidableEq, Repr

/-- A command's transfer job (R447): its command, the write job it feeds, whether it fetches host data, the
host port, its segments before the host side is known, the next descriptor of its chain, the bytes and host runs of
the chain known so far, its pieces, the SB space it frees at its end, requests and buffer bytes out, data that stands
in the buffer by its SB address, whether it failed, and ring, cid and fetch number of its command for R602. -/
structure TJob where
  id : Nat
  tag : Nat
  wj : Option Nat
  inn : Bool
  port : Nat
  segs : List OutSeg
  chainAt : Option Nat
  total : Nat
  runs : List (Nat × Nat)
  pieces : List TPiece
  frees : List SbOwn
  nreq : Nat
  out : Nat
  held : List (Nat × Bytes)
  /-- host data asked for and not arrived: SB address and length -/
  asked : List (Nat × Nat)
  failed : Bool
  r : Nat
  cid : Nat
  no : Nat
  deriving DecidableEq, Repr

/-- A Tender channel (R446 to R463): the descriptor in hand, and whether its transfer is unpredictable (R449, R451); the
one that arrived and waits to be loaded; the address of one being read; chains started and descriptors loaded so far; source and second-operand bytes requested,
bytes moved, bytes assembled for the next WRITE; bytes that arrived, by position; reads out; writes not departed
and not landed; the status of a failure and mismatch offset; whether the descriptor has departed and whether it
must land; a tick seen; a stop asked for; the jobs of a command channel. -/
structure TCh where
  desc : Option (Nat × TDesc)
  wild : Bool
  ahead : Option (Nat × Bytes)
  fetching : Option Nat
  chain : Nat
  no : Nat
  issued : Nat
  issued2 : Nat
  moved : Nat
  wbuf : Bytes
  reads : List (Nat × Bytes)
  reads2 : List (Nat × Bytes)
  undep : Nat
  unland : Nat
  fail : Nat
  moff : Nat
  departed : Bool
  land : Bool
  ticked : Bool
  stopReq : Bool
  jobs : List TJob
  deriving DecidableEq, Repr

/-- A channel at rest. -/
def TCh.reset : TCh :=
  { desc := none, wild := false, ahead := none, fetching := none, chain := 0, no := 0, issued := 0, issued2 := 0, moved := 0,
    wbuf := [], reads := [], reads2 := [], undep := 0, unland := 0, fail := 0, moff := 0, departed := false,
    land := false, ticked := false, stopReq := false, jobs := [] }

/-- A timer (R455): the time of the next tick and the period in force. -/
structure Tmr where
  next : Nat
  period : Nat
  /-- the time of the last tick generated -/
  last : Option Nat
  deriving DecidableEq, Repr

/-- Tender: its channels, the timers, each half's path owner (channel plus 1) and the last one, and what has
departed and not been told to its channel yet. -/
structure Tender where
  chs : Tab TCh
  tmrs : Tab Tmr
  owner : Tab Nat
  lastOwner : Tab Nat
  gone : List Owner
  deriving DecidableEq, Repr

/-! ### Lane queues and memory errors (13_queues_and_buffers.md) -/

/-- A memory-log record (R493). -/
structure MemRec where
  ts : Nat
  kind : Nat
  syn : Nat
  rep : Nat
  where_ : Nat
  deriving DecidableEq, Repr

/-- The memory log, oldest first, and the records held by a block read. -/
structure MemLog where
  log : List MemRec
  held : List MemRec
  deriving DecidableEq, Repr

/-- The credit classes of the Necklace (R20). -/
inductive NClass where
  | req | rsp | data | msg
  deriving DecidableEq, Repr

/-- The units that the Necklace and the links inside a channel join (R13, R17): those with a stop, and a channel's PHY,
sequencer and Buoy islands, whose stop is the codec's. -/
inductive NUnit where
  | lantern
  | mapq (i : Nat)
  | bell
  | ao
  | cu (ch : Nat)
  | dec (k : Nat)
  | sb (g : Nat)
  | port (p : Nat)
  | half (h : Nat)
  | phy (ch : Nat)
  | seqr (ch : Nat)
  | buoy (ch : Nat)
  deriving DecidableEq, Repr

/-- What a unit has to send: a packet of a number of flits, and the command it belongs to by its number in fetch order. -/
structure Packet where
  src : NUnit
  dst : NUnit
  cls : NClass
  n : Nat
  own : Option Nat
  deriving DecidableEq, Repr

/-- A flit (R19, R20, R471): its direction is fixed when it is injected; `last` marks its packet's end. -/
structure Flit where
  src : NUnit
  dst : NUnit
  cls : NClass
  up : Bool
  last : Bool
  poison : Bool
  own : Option Nat
  deriving DecidableEq, Repr

/-- An entry of a lane queue (R471): a flit with its marks, and the wrong bits of each of its protected words. -/
structure LaneEnt where
  flit : Flit
  flips : List Nat
  deriving DecidableEq, Repr

/-- A lane queue (R471 to R478, R500): the pointers, the entries from the oldest on, the entry read last, whether it was
full at the start of the cycle, whether the consumer is inside a packet, the credits due and those held while `hi` is
set, and its status. -/
structure LaneQ where
  wp : Nat
  rp : Nat
  ents : List LaneEnt
  prev : Option LaneEnt
  full : Bool
  inPkt : Bool
  dropping : Bool
  owe : Nat
  held : Nat
  hi : Bool
  ce : Nat
  ceSat : Bool
  under : Bool
  ue : Bool
  peak : Nat
  deriving DecidableEq, Repr

/-- An empty queue. -/
def LaneQ.reset : LaneQ :=
  { wp := 0, rp := 0, ents := [], prev := none, full := false, inPkt := false, dropping := false, owe := 0, held := 0,
    hi := false, ce := 0, ceSat := false, under := false, ue := false, peak := 0 }

/-- One wire bundle of a link between islands (R25, R26): 0 idle, 1 `req` up, 2 `ack` up, 3 `req` down; the flit and the
credit-return field it carries, and at a segment boundary the flit latched. -/
structure Wire where
  ph : Nat
  flit : Option Flit
  ret : Option (NClass × Nat)
  got : Option Flit
  deriving DecidableEq, Repr

/-- A link at rest. -/
def Wire.reset : Wire := { ph := 0, flit := none, ret := none, got := none }

/-- One direction between two islands (R25 to R28): its wires (four at a segment boundary, else one), whose turn it is at
the sender and at the receiver, the sender's credits by class, and the cycles without a flit. -/
structure Link where
  wires : Tab Wire
  sturn : Nat
  rturn : Nat
  cred : Tab Nat
  quiet : Nat
  deriving DecidableEq, Repr

/-- A link that holds no credits. -/
def Link.reset : Link := { wires := [], sturn := 0, rturn := 0, cred := [], quiet := 0 }

/-- What the network tells the rest of the block: a flit that reached its unit, a memory error of a queue (kind, syndrome,
place, unit), an underrun. -/
inductive NetEv where
  | got (f : Flit)
  | mem (kind syn where_ unit : Nat)
  deriving DecidableEq, Repr

/-- The Necklace, the links between islands and their lane queues (R18 to R29, R471 to R478): the packets that wait at
their units, the links, the lane queues by ID, the stops' buffers by stop, direction and class, the credits the border
stops owe, the bypass buffers, and the cycles for which a stop has waited with a flit of a class. -/
structure Net where
  out : List Packet
  links : Tab Link
  lanes : Tab LaneQ
  bufs : Tab (List Flit)
  owed : Tab Nat
  byp : Tab (List Flit)
  waits : Tab Nat
  evs : List NetEv
  deriving DecidableEq, Repr

/-- Nothing under way, no link up. -/
def Net.reset : Net :=
  { out := [], links := [], lanes := [], bufs := [], owed := [], byp := [], waits := [], evs := [] }

/-- Everything of the block but its queue of commands. -/
structure Dev where
  cfg : Params
  ts : Nat
  up : Nat
  free : Nat
  od : Tab Nat
  ods : Tab Bytes
  /-- entries whose stored value has an uncorrectable error, by key (R125) -/
  odBad : List Nat
  sat : List Nat
  ports : Tab Port
  tele : Tele
  masters : Tab Master
  i3c : I3c
  srcs : Tab Src
  tgts : Tab Tgt
  dbq : List DbItem
  doms : Tab Dom
  pwrq : List Nat
  wakeP : Nat
  nodes : Tab Node
  sensors : Tab Sensor
  therm : Thermal
  flt : FltLog
  rst : Rst
  /-- data half -/
  rings : Tab Ring
  cmds : Tab Cmd
  fetchNo : Nat
  metNo : Nat
  rrRing : Tab Nat
  groups : List Group
  lan : Lan
  dies : Tab Die
  chans : Tab Chan
  geom : Option Geom
  rawp : RawPath
  seqs : Tab Seq
  loader : Loader
  decs : Tab Dec
  clasp : Clasp
  tender : Tender
  memLog : MemLog
  net : Net
  deriving DecidableEq, Repr

/-- The block's state and the commands that wait, first in first out. -/
structure State where
  dev : Dev
  pending : List Instr
  deriving DecidableEq, Repr

/-- R571: every entry at its default, every domain off, the D8 configuration (log 2). -/
def Dev.reset : Dev :=
  { cfg := Params.d8, ts := 0, up := 0, free := 0, od := [], ods := [], odBad := [], sat := [], ports := [],
    tele := Tele.reset, masters := [], i3c := I3c.reset, srcs := [], tgts := [], dbq := [], doms := [],
    pwrq := [], wakeP := 0, nodes := [], sensors := [],
    therm := { loopDone := false, dieRd := [], queued := [], cuUj := 0, tabs := none },
    flt := { log := [], held := [] }, rst := { kind := none, cause := 0, held := none, chans := [] },
    rings := [], cmds := [], fetchNo := 0, metNo := 0, rrRing := [], groups := [], lan := Lan.reset,
    dies := [], chans := [], geom := none, rawp := RawPath.reset, seqs := [], loader := Loader.reset,
    decs := [], clasp := Clasp.reset,
    tender := { chs := [], tmrs := [], owner := [], lastOwner := [], gone := [] },
    memLog := { log := [], held := [] }, net := Net.reset }

/-- The machine right after a power-on reset. -/
def State.reset : State := { dev := Dev.reset, pending := [] }

end Sys2Proof.Machine
end

