-- ==== Sys2Proof/Machine/LaneQueue.lean ====
section
/-! DEFINITION. A lane queue: its pointers, writes, reads, drops, watermarks and errors (13_queues_and_buffers.md R471 to
R478). -/

namespace Sys2Proof.Machine

/-- Protected words of an entry of a 256-bit flit and its two marks (R471). -/
def entWords : Nat := cdiv (256 + 2) 64

/-- k of a queue, fixed at synthesis (R471, log 16): from 2 to 12. -/
def laneK (id : Nat) : Nat := 2 + Config.queueK id % 11

/-- The occupancy (R472). -/
def LaneQ.occ (k : Nat) (q : LaneQ) : Nat := (q.wp + 2 ^ (k + 1) - q.rp) % 2 ^ (k + 1)

/-- The low watermark of a queue that a link feeds, by class; the high one is its depth (R475). -/
def laneLow (k : Nat) : NClass → Nat
  | .req => 2 ^ k / 2
  | .msg => 2 ^ k / 2
  | _ => 2 ^ k - 1

/-- A cycle begins (R472, R475, R476): fullness is judged, `hi` follows the watermarks, and when it clears the credits held
are due. -/
def LaneQ.start (k : Nat) (c : NClass) (q : LaneQ) : LaneQ :=
  let o := q.occ k
  let hi := if 2 ^ k ≤ o then true else if o ≤ laneLow k c then false else q.hi
  { q with full := decide (o = 2 ^ k), hi := hi, owe := if hi then q.owe else q.owe + q.held, held := if hi then q.held else 0 }

/-- Credits of entries that left the queue (R476). -/
def LaneQ.credit (n : Nat) (q : LaneQ) : LaneQ :=
  if q.hi then { q with held := q.held + n } else { q with owe := q.owe + n }

/-- A write (R472, R473, R477): none where the queue was full when the cycle began; in DROPPING the entry is discarded and
its credit freed. -/
def LaneQ.write (k : Nat) (f : Flit) (q : LaneQ) : Option LaneQ :=
  if q.dropping then some (LaneQ.credit 1 { q with dropping := !f.last })
  else if q.full then none
  else
    let x : LaneQ := { q with wp := (q.wp + 1) % 2 ^ (k + 1), ents := q.ents ++ [{ flit := f, flips := [] }] }
    some { x with peak := max x.peak (x.occ k) }

/-- The words of an entry that a read finds wrong (R470). -/
def LaneEnt.worst (e : LaneEnt) : EccRes :=
  if e.flips.any (fun w => eccRes w == .bad) then .bad
  else if e.flips.any (fun w => eccRes w == .corrected) then .corrected
  else .good

/-- The syndrome of an entry's first word with an error. -/
def LaneEnt.syn (e : LaneEnt) : Nat :=
  match e.flips.find? (fun w => eccRes w != .good) with
  | some w => eccSyn w
  | none => 0

/-- The unit that a memory fault of a queue names (R494, R557). -/
def laneUnit (id : Nat) : Nat := if id / 256 = 0xFF then 0xFFFF else id / 256

/-- e_where of an entry of a queue (R493). -/
def laneWhere (id k rp : Nat) : Nat := fld id 16 16 + fld (rp % 2 ^ k) 0 12

/-- A drop (R477): the rest of the packet goes, as far as it is there; a drop between packets has no effect. -/
def LaneQ.drop (k : Nat) (q : LaneQ) : LaneQ :=
  if ¬ q.inPkt then q
  else
    let n := match findPos (fun (e : LaneEnt) => e.flit.last) q.ents with
      | some (i, _) => i + 1
      | none => q.ents.length
    LaneQ.credit n { q with
      rp := (q.rp + n) % 2 ^ (k + 1), ents := q.ents.drop n, inPkt := false,
      dropping := !(q.ents.any (fun e => e.flit.last)) }

/-- A read (R470, R474, R478): the entry it delivers, what it reports, and the queue after it. A corrected error counts, an
uncorrectable one delivers the entry with poison; a read of an empty queue gives the entry read last. -/
def LaneQ.read (id k : Nat) (q : LaneQ) : Option Flit × List NetEv × LaneQ :=
  match q.ents with
  | [] => (q.prev.map (·.flit), [.mem 7 0 (laneWhere id k q.rp) (laneUnit id)], { q with under := true })
  | e :: t =>
    let x := LaneQ.credit 1 { q with rp := (q.rp + 1) % 2 ^ (k + 1), ents := t, prev := some e, inPkt := !e.flit.last }
    match e.worst with
    | .good => (some e.flit, [], x)
    | .corrected =>
      let sat := decide (q.ce = 0xFFFE)
      (some e.flit, if sat then [.mem 5 e.syn (laneWhere id k q.rp) (laneUnit id)] else [],
        { x with ce := min (q.ce + 1) 0xFFFF, ceSat := q.ceSat || sat })
    | .bad => (some { e.flit with poison := true }, [.mem 6 e.syn (laneWhere id k q.rp) (laneUnit id)], { x with ue := true })

/-- A consumer takes an entry: after one with poison it drops the rest of the packet (R477, R478). -/
def LaneQ.take (id k : Nat) (q : LaneQ) : Option Flit × List NetEv × LaneQ :=
  let r := q.read id k
  (r.1, r.2.1, if r.1.any (·.poison) then r.2.2.drop k else r.2.2)

/-- A link reset (R28, R476): the queue grants its high watermark less what it holds. -/
def LaneQ.grant (k : Nat) (q : LaneQ) : LaneQ := { q with owe := 2 ^ k - q.occ k, held := 0 }

/-- What a queue keeps when its island loses its state: its status, until it is cleared (R500). -/
def LaneQ.lose (q : LaneQ) : LaneQ :=
  { LaneQ.reset with ce := q.ce, ceSat := q.ceSat, under := q.under, ue := q.ue, peak := q.peak }

end Sys2Proof.Machine
end

