-- ==== Sys2Proof/Machine/Necklace.lean ====
section
/-! DEFINITION. The Necklace ring and the handshake links between islands: stops, credits, hops, injection and the links'
phases (01_anatomy.md R17 to R29). One cycle of it is a function of the network alone. -/

namespace Sys2Proof.Machine

/-! ### Stops (R17, R18) -/

def segCh (c : Params) (ch : Nat) : Nat := ch * c.segments / c.channels
def segDec (c : Params) (k : Nat) : Nat := k * c.segments / c.decoders
def segBank (c : Params) (b : Nat) : Nat := (b - b % 4) * c.segments / (2 * c.sbMib)
def segPort (c : Params) (p : Nat) : Nat := p * c.segments / c.ports
def segHalf (c : Params) (h : Nat) : Nat := h * c.segments / 2

/-- Segment boundaries in the direction with fewer of them (R19). -/
def hops (c : Params) (a b : Nat) : Nat :=
  let x := (b + c.segments - a) % c.segments
  min x (c.segments - x)

/-- The segment of a unit's stop (R17). -/
def unitSeg (c : Params) : NUnit → Nat
  | .cu ch | .phy ch | .seqr ch | .buoy ch => segCh c ch
  | .dec k => segDec c k
  | .sb g => segBank c (4 * g)
  | .port p => segPort c p
  | .half h => segHalf c h
  | _ => 0

/-- The units with a stop, in the order of R18 within a segment. -/
def ringUnits (c : Params) : List NUnit :=
  [.lantern] ++ (List.range 4).map .mapq ++ [.bell, .ao] ++ (List.range c.channels).map .cu ++
    (List.range c.decoders).map .dec ++ (List.range (c.sbMib / 2)).map .sb ++ (List.range c.ports).map .port ++
    [.half 0, .half 1]

/-- The stops by number (R18). -/
def stops (c : Params) : List NUnit :=
  (List.range c.segments).flatMap (fun s => (ringUnits c).filter (fun u => unitSeg c u == s))

def domCh (ch k : Nat) : Nat := 4 * ch + k
def domDec (c : Params) (k : Nat) : Nat := 4 * c.channels + k
def domSb (c : Params) (g : Nat) : Nat := 4 * c.channels + c.decoders + g
def domMapc (c : Params) (i : Nat) : Nat := 4 * c.channels + c.decoders + c.sbMib / 2 + i
def domLan (c : Params) : Nat := domMapc c 4
def domSeg (c : Params) (s : Nat) : Nat := domMapc c 5 + s
def domTender (c : Params) (h : Nat) : Nat := domMapc c 5 + c.segments + h
def domPort (c : Params) (p : Nat) : Nat := domMapc c 7 + c.segments + p
def domBell (c : Params) : Nat := domMapc c 7 + c.segments + c.ports

/-- The power domain of a unit's island (R13, R520); none for the always-on island. -/
def unitDom (c : Params) : NUnit → Option Nat
  | .lantern => some (domLan c)
  | .mapq i => some (domMapc c i)
  | .bell => some (domBell c)
  | .ao => none
  | .phy ch => some (domCh ch 0)
  | .seqr ch => some (domCh ch 1)
  | .cu ch => some (domCh ch 2)
  | .buoy ch => some (domCh ch 3)
  | .dec k => some (domDec c k)
  | .sb g => some (domSb c g)
  | .port p => some (domPort c p)
  | .half h => some (domTender c h)

/-- A queue's number in its island, by the island's domain (R494). -/
def queueNo (dom : Option Nat) (i : Nat) : Nat := dom.getD 0xFF * 256 + i

/-! ### Classes (R20) -/

def NClass.no : NClass → Nat
  | .req => 0 | .rsp => 1 | .data => 2 | .msg => 3

def NClass.all : List NClass := [.req, .rsp, .data, .msg]

/-- Credits of a class at a stop, in each direction (R20). -/
def NClass.cap : NClass → Nat
  | .req => 8 | .rsp => 8 | .data => 32 | .msg => 4

/-! ### The layout -/

/-- The two ends of a pair of links. -/
inductive Ends where
  /-- a unit and its stop -/
  | stop (s : Nat)
  /-- a segment's upper boundary -/
  | bound (g : Nat)
  /-- a channel's PHY, sequencer or Buoy island and its codec -/
  | inner (u : NUnit) (ch j : Nat)
  deriving DecidableEq, Repr

/-- A link: its ends, its wires (R27), and where its flits arrive, by class: a lane queue by its ID, or a stop's ring buffer
by its key. -/
structure LInfo where
  ends : Ends
  width : Nat
  into : List (Nat ⊕ Nat)
  deriving DecidableEq, Repr

/-- The stops with their segments, and the links: 2i goes from the first end of pair i to the second, 2i + 1 back. -/
structure Layout where
  cfg : Params
  ss : List NUnit
  segs : List Nat
  links : List LInfo
  deriving DecidableEq, Repr

/-- A stop's unit. -/
def Layout.unit (x : Layout) (s : Nat) : NUnit := x.ss.getD s .ao

/-- The segment of a stop. -/
def Layout.seg (x : Layout) (s : Nat) : Nat := x.segs.getD s 0

/-- The number of a unit's stop; that of its codec for a channel's other islands. -/
def Layout.stop (x : Layout) (u : NUnit) : Nat :=
  let v := match u with
    | .phy ch | .seqr ch | .buoy ch => .cu ch
    | w => w
  match findPos (· == v) x.ss with
  | some (i, _) => i
  | none => 0

/-- The next stop of a direction. -/
def Layout.next (x : Layout) (s : Nat) (up : Bool) : Nat :=
  let n := x.ss.length
  if up then (if s + 1 < n then s + 1 else 0) else if s = 0 then n - 1 else s - 1

/-- The hop from a stop crosses a segment boundary (R27). -/
def Layout.border (x : Layout) (s : Nat) (up : Bool) : Bool :=
  decide (1 < x.cfg.segments) && x.seg s != x.seg (x.next s up)

/-- The direction with fewer boundaries to the destination, that of increasing segments among equals (R19). -/
def Layout.upward (x : Layout) (a b : Nat) : Bool :=
  let c := x.cfg.segments
  let up := (x.seg b + c - x.seg a) % c
  let dn := (x.seg a + c - x.seg b) % c
  let up' := if up = 0 ∧ b < a ∧ 1 < c then c else up
  let dn' := if dn = 0 ∧ a < b ∧ 1 < c then c else dn
  decide (up' ≤ dn')

/-- The border stop that sends over a boundary in a direction. -/
def Layout.sender (x : Layout) (g : Nat) (up : Bool) : Option Nat :=
  let s := if up then g else (g + 1) % x.cfg.segments
  (findPos (fun i => decide (x.seg i = s) && x.border i up) (List.range x.ss.length)).map (·.1)

/-- A stop's ring buffer (R20): stop, direction and class make its key. -/
def bufKey (s : Nat) (up : Bool) (c : NClass) : Nat := 8 * s + (if up then 0 else 4) + c.no

/-- The pairs of links: the stops, the boundaries, then each channel's three. -/
def pairEnds (x : Layout) : List Ends :=
  (List.range x.ss.length).map .stop ++ (List.range x.cfg.segments).map .bound ++
  (List.range x.cfg.channels).flatMap (fun ch => [.inner (.phy ch) ch 0, .inner (.seqr ch) ch 1, .inner (.buoy ch) ch 2])

/-- Where a link's flits of a class arrive. -/
def Layout.dest (x : Layout) (e : Ends) (back : Bool) (c : NClass) : Nat ⊕ Nat :=
  match e, back with
  | .stop s, false => .inl (queueNo (some (domSeg x.cfg (x.seg s)))
      (4 * (s - ((findPos (· == x.seg s) x.segs).map (·.1)).getD 0) + c.no))
  | .stop s, true => .inl (queueNo (unitDom x.cfg (x.unit s)) c.no)
  | .inner u _ _, true => .inl (queueNo (unitDom x.cfg u) c.no)
  | .inner _ ch j, false => .inl (queueNo (some (domCh ch 2)) (4 * (j + 1) + c.no))
  | .bound g, b => match x.sender g (!b) with
    | some s => .inr (bufKey (x.next s (!b)) (!b) c)
    | none => .inr 0

/-- The layout of a configuration. -/
def layout (c : Params) : Layout :=
  let ss := stops c
  let x : Layout := { cfg := c, ss := ss, segs := ss.map (unitSeg c), links := [] }
  { x with links := (pairEnds x).flatMap (fun e => [false, true].map (fun b => {
      ends := e, width := (match e with
        | .bound _ => 4
        | _ => 1), into := NClass.all.map (x.dest e b) })) }

/-- The domains at the two ends of a pair; none for the always-on island. -/
def Layout.doms (x : Layout) (e : Ends) : Option Nat × Option Nat :=
  match e with
  | .stop s => (unitDom x.cfg (x.unit s), some (domSeg x.cfg (x.seg s)))
  | .bound g => (some (domSeg x.cfg g), some (domSeg x.cfg ((g + 1) % x.cfg.segments)))
  | .inner u ch _ => (unitDom x.cfg u, some (domCh ch 2))

/-- What a cycle needs of the rest of the block: the layout, which islands are ON, and the depths of the lane queues. -/
structure NCtx where
  lay : Layout
  on : Option Nat → Bool
  k : Nat → Nat

/-- A link's place. -/
def NCtx.info (x : NCtx) (l : Nat) : LInfo := x.lay.links.getD l { ends := .stop 0, width := 1, into := [] }

/-- Both islands of a link are ON. -/
def NCtx.linkOn (x : NCtx) (e : Ends) : Bool := x.on (x.lay.doms e).1 && x.on (x.lay.doms e).2

/-- Where a link's flits of a class arrive. -/
def LInfo.at_ (i : LInfo) (c : NClass) : Nat ⊕ Nat := i.into.getD c.no (.inr 0)
def NCtx.into (x : NCtx) (l : Nat) (c : NClass) : Nat ⊕ Nat := (x.info l).at_ c

/-- The IDs of the lane queues that links feed (log 16). -/
def Layout.queues (x : Layout) : List Nat :=
  x.links.flatMap (fun l => l.into.filterMap (fun q => match q with
    | .inl i => some i
    | .inr _ => none))

/-- The queues from which units read. -/
def Layout.reads (x : Layout) : List Nat :=
  (x.links.zipIdx).flatMap (fun l => match l.1.ends, l.2 % 2 with
    | .stop _, 0 => []
    | .bound _, _ => []
    | _, _ => l.1.into.filterMap (fun q => match q with
      | .inl i => some i
      | .inr _ => none))

/-- The class of a queue's entries. -/
def laneClass (q : Nat) : NClass := NClass.all.getD (q % 4) .req

/-! ### Reading and changing the network -/

def Net.link (n : Net) (l : Nat) : Link := tabGet Link.reset n.links l
def Net.updLink (n : Net) (l : Nat) (f : Link → Link) : Net := { n with links := tabSet Link.reset n.links l (f (n.link l)) }
def Net.lane (n : Net) (q : Nat) : LaneQ := tabGet LaneQ.reset n.lanes q
def Net.updLane (n : Net) (q : Nat) (f : LaneQ → LaneQ) : Net := { n with lanes := tabSet LaneQ.reset n.lanes q (f (n.lane q)) }

def Net.buf (n : Net) (b : Nat) : List Flit := tabGet [] n.bufs b
def Net.setBuf (n : Net) (b : Nat) (l : List Flit) : Net := { n with bufs := tabSet [] n.bufs b l }
def Net.bypass (n : Net) (s : Nat) (up : Bool) : List Flit := tabGet [] n.byp (2 * s + b2n up)
def Net.setByp (n : Net) (s : Nat) (up : Bool) (l : List Flit) : Net := { n with byp := tabSet [] n.byp (2 * s + b2n up) l }
def Net.tell (n : Net) (l : List NetEv) : Net := { n with evs := n.evs ++ l }

def Link.wire (k : Link) (w : Nat) : Wire := tabGet Wire.reset k.wires w
def Link.setWire (k : Link) (w : Nat) (v : Wire) : Link := { k with wires := tabSet Wire.reset k.wires w v }
def Link.credit (k : Link) (c : NClass) : Nat := tabGet 0 k.cred c.no
def Link.setCredit (k : Link) (c : NClass) (v : Nat) : Link := { k with cred := tabSet 0 k.cred c.no v }

/-- Credits that the receiving side of a link has to return for a class. -/
def Net.due (x : NCtx) (n : Net) (l : Nat) (c : NClass) : Nat :=
  match x.into l c with
  | .inl q => (n.lane q).owe
  | .inr b => tabGet 0 n.owed b

/-- Some of them go into a credit-return field. -/
def Net.paid (x : NCtx) (l : Nat) (c : NClass) (k : Nat) (n : Net) : Net :=
  match x.into l c with
  | .inl q => n.updLane q (fun y => { y with owe := y.owe - k })
  | .inr b => { n with owed := tabSet 0 n.owed b (tabGet 0 n.owed b - k) }

/-- The credit-return field of a link's next handshake (R26): one class and up to 4 credits of the opposite direction. -/
def Net.retField (x : NCtx) (n : Net) (l : Nat) : Option (NClass × Nat) :=
  let o := if l % 2 = 0 then l + 1 else l - 1
  (NClass.all.find? (fun c => 0 < n.due x o c)).map (fun c => (c, min 4 (n.due x o c)))

/-- A handshake begins (R25 step 1): the flit, if any, and the credit-return field are driven, and req is raised. -/
def Net.drive (x : NCtx) (l w : Nat) (f : Option Flit) (n : Net) : Net :=
  let o := if l % 2 = 0 then l + 1 else l - 1
  let r := n.retField x l
  let n1 := match r with
    | some (c, k) => n.paid x o c k
    | none => n
  n1.updLink l (fun y =>
    let y1 := y.setWire w { ph := 1, flit := f, ret := r, got := (y.wire w).got }
    match f with
    | some g => { y1.setCredit g.cls (y1.credit g.cls - 1) with sturn := (y.sturn + 1) % (x.info l).width, quiet := 0 }
    | none => { y1 with quiet := 0 })

/-- A flit arrives where its link ends; none where it finds no place (R473). -/
def Net.arrive (x : NCtx) (l : Nat) (f : Flit) (n : Net) : Option Net :=
  match x.into l f.cls with
  | .inl q => ((n.lane q).write (x.k q) f).map (fun y => n.updLane q (fun _ => y))
  | .inr b => if (n.buf b).length < f.cls.cap then some (n.setBuf b (n.buf b ++ [f])) else none

/-- Credits that a credit-return field brings to the opposite link's sender. -/
def Net.returned (l : Nat) (r : Option (NClass × Nat)) (n : Net) : Net :=
  match r with
  | some (c, k) => n.updLink (if l % 2 = 0 then l + 1 else l - 1) (fun y => y.setCredit c (y.credit c + k))
  | none => n

/-- A phase of a wire (R25 steps 2 to 4): the receiver latches and raises ack, the sender lowers req, the receiver lowers
ack. -/
def Net.phase (x : NCtx) (l w : Nat) (n : Net) : Net :=
  let v := (n.link l).wire w
  match v.ph with
  | 1 =>
    (match v.flit with
    | none => n.returned l v.ret |>.updLink l (fun y => y.setWire w { v with ph := 2 })
    | some f =>
      if (x.info l).width = 1 then
        (match n.arrive x l f with
        | some m => m.returned l v.ret |>.updLink l (fun y => y.setWire w { v with ph := 2 })
        | none => n)
      else if v.got.isSome then n
      else n.returned l v.ret |>.updLink l (fun y => y.setWire w { v with ph := 2, got := some f }))
  | 2 => n.updLink l (fun y => y.setWire w { v with ph := 3, flit := none, ret := none })
  | 3 => n.updLink l (fun y => y.setWire w { v with ph := 0 })
  | _ => n

/-- A boundary's receiver takes the flits back in the rotation in which they were dealt (R27). -/
def Net.takeBack (x : NCtx) (l : Nat) (n : Net) : Net :=
  let k := n.link l
  match (k.wire k.rturn).got with
  | none => n
  | some f => match n.arrive x l f with
    | none => n
    | some m => m.updLink l (fun y =>
        { y.setWire y.rturn { y.wire y.rturn with got := none } with rturn := (y.rturn + 1) % (x.info l).width })

/-! ### The ring (R19, R21 to R24) -/

/-- The queue of a class that a stop injects from. -/
def NCtx.inject (x : NCtx) (s : Nat) (c : NClass) : Nat :=
  match x.into (2 * s) c with
  | .inl q => q
  | .inr _ => 0

/-- A stop has a flit ready in a class for a direction. -/
def Net.ready (x : NCtx) (n : Net) (s : Nat) (up : Bool) (c : NClass) : Bool :=
  match (n.lane (x.inject s c)).ents with
  | [] => false
  | e :: _ => x.lay.upward s (x.lay.stop e.flit.dst) == up

/-- A flit is injected (R19, R23): its direction is fixed. One read with an error ends its packet (R477, R478). -/
def Net.injectOne (x : NCtx) (s : Nat) (up : Bool) (c : NClass) (n : Net) : Option Flit × Net :=
  let q := x.inject s c
  let r := (n.lane q).take q (x.k q)
  let m := { n.updLane q (fun _ => r.2.2) with waits := tabSet 0 n.waits q 0 } |>.tell r.2.1
  (r.1.map (fun f => { f with up := up, last := f.last || f.poison }), m)

/-- The head of a stop's buffer that goes on past it. -/
def Net.through (x : NCtx) (n : Net) (s : Nat) (up : Bool) (c : NClass) : Option Flit :=
  match n.buf (bufKey s up c) with
  | [] => none
  | f :: _ => if x.lay.stop f.dst = s ∨ (n.bypass s up).any (fun g => g.cls == c) then none else some f

/-- A ring buffer gives up its head: a border stop owes a credit for it (R26). -/
def Net.popBuf (x : NCtx) (s : Nat) (up : Bool) (c : NClass) (n : Net) : Net :=
  let b := bufKey s up c
  let m := n.setBuf b ((n.buf b).drop 1)
  if x.lay.border s (!up) then { m with owed := tabSet 0 m.owed b (tabGet 0 m.owed b + 1) } else m

/-- What leaves a stop in a direction in a cycle, by the credits that the next stop holds (R23, R24): a stop that has
waited 16 cycles in a class injects, and through traffic steps into the bypass buffer; else the bypass buffer, through
traffic and injection, in this order. -/
def Net.leave (x : NCtx) (s : Nat) (up : Bool) (free : NClass → Nat) (n : Net) : Option Flit × Net :=
  let may := NClass.all.filter (fun c => n.ready x s up c && decide (2 ≤ free c))
  let thr := NClass.all.find? (fun c => (n.through x s up c).isSome && decide (0 < free c))
  match may.find? (fun c => decide (16 ≤ tabGet 0 n.waits (x.inject s c))) with
  | some c =>
    let m := match thr with
      | some t => (match n.through x s up t with
        | some f => if (n.bypass s up).length < 2 then (n.popBuf x s up t).setByp s up (n.bypass s up ++ [f]) else n
        | none => n)
      | none => n
    m.injectOne x s up c
  | none =>
    match findPos (fun (f : Flit) => decide (0 < free f.cls)) (n.bypass s up) with
    | some (i, f) => (some f, n.setByp s up ((n.bypass s up).eraseIdx i))
    | none => match thr with
      | some t => (n.through x s up t, n.popBuf x s up t)
      | none => match may with
        | c :: _ => n.injectOne x s up c
        | [] => (none, n)

/-- The free places of the next stop's buffer. -/
def Net.room (x : NCtx) (n : Net) (s : Nat) (up : Bool) (c : NClass) : Nat :=
  c.cap - (n.buf (bufKey (x.lay.next s up) up c)).length

/-- The hops inside segments in a cycle: every stop decides on the credits at the start of the cycle. -/
def Net.hopsNow (x : NCtx) (n0 : Net) : Net :=
  let go := ((List.range x.lay.ss.length).flatMap (fun s => [(s, true), (s, false)])).foldl (fun (a : List (Nat × Flit) × Net) p =>
    if x.lay.border p.1 p.2 ∨ ¬ x.on (some (domSeg x.lay.cfg (x.lay.seg p.1))) then a
    else
      let r := a.2.leave x p.1 p.2 (n0.room x p.1 p.2)
      match r.1 with
      | some f => (a.1 ++ [(bufKey (x.lay.next p.1 p.2) p.2 f.cls, f)], r.2)
      | none => (a.1, r.2)) ([], n0)
  go.1.foldl (fun n y => n.setBuf y.1 (n.buf y.1 ++ [y.2])) go.2

/-! ### What a link sends next -/

/-- The first packet of a unit for which the link holds a credit: its next flit, and what is left. -/
def nextPacket (pick : Packet → Bool) (cred : NClass → Nat) : List Packet → Option (Flit × List Packet)
  | [] => none
  | p :: t =>
    if pick p && decide (0 < p.n) && decide (0 < cred p.cls) then
      some ({ src := p.src, dst := p.dst, cls := p.cls, up := true, last := decide (p.n = 1), poison := false, own := p.own },
        if p.n ≤ 1 then t else { p with n := p.n - 1 } :: t)
    else (nextPacket pick cred t).map (fun r => (r.1, p :: r.2))

/-- A packet takes the link inside a channel, not the ring. -/
def innerHop (a b : NUnit) : Bool :=
  match a, b with
  | .phy _, .cu _ | .seqr _, .cu _ | .buoy _, .cu _ => true
  | .cu _, .phy _ | .cu _, .seqr _ | .cu _, .buoy _ => true
  | _, _ => false

/-- The flit a link takes next, and the network without it. -/
def Net.pick (x : NCtx) (l : Nat) (n : Net) : Option Flit × Net :=
  let cred := (n.link l).credit
  match (x.info l).ends, l % 2 with
  | .stop s, 0 => (match nextPacket (fun p => p.src == x.lay.unit s && !innerHop p.src p.dst) cred n.out with
    | some (f, t) => (some f, { n with out := t })
    | none => (none, n))
  | .stop s, _ =>
    (match ([true, false].flatMap (fun u => NClass.all.map (fun c => (u, c)))).find? (fun k =>
        decide (0 < cred k.2) && ((n.buf (bufKey s k.1 k.2)).head?).any (fun f => x.lay.stop f.dst == s)) with
    | some (u, c) => ((n.buf (bufKey s u c)).head?, n.popBuf x s u c)
    | none => (none, n))
  | .inner u ch _, b =>
    (match nextPacket (fun p => if b = 0 then p.src == u && p.dst == .cu ch else p.src == .cu ch && p.dst == u) cred n.out with
    | some (f, t) => (some f, { n with out := t })
    | none => (none, n))
  | .bound g, b => match x.lay.sender g (b == 0) with
    | some s => n.leave x s (b == 0) cred
    | none => (none, n)

/-- A link's cycle (R25 to R29): its wires go on; a wire whose turn it is takes a flit, or, with credits to return and no
flit for 8 cycles, a handshake without one. -/
def Net.linkCycle (x : NCtx) (n0 : Net) (l : Nat) : Net :=
  if ¬ x.linkOn (x.info l).ends then n0
  else
    let idle := fun (n : Net) (w : Nat) => ((n0.link l).wire w).ph == 0 && ((n.link l).wire w).ph == 0
    let n1 := (List.range ((x.info l).width)).foldl (fun n w => n.phase x l w) n0
    let n2 := if (x.info l).width = 1 then n1 else n1.takeBack x l
    let w := (n2.link l).sturn
    let r := if idle n2 w then n2.pick x l else (none, n2)
    match r.1 with
    | some f => r.2.drive x l w (some f)
    | none =>
      if (r.2.retField x l).isNone then r.2
      else if (r.2.link l).quiet < 8 then r.2.updLink l (fun y => { y with quiet := y.quiet + 1 })
      else match (List.range ((x.info l).width)).find? (idle r.2) with
        | some v => r.2.drive x l v none
        | none => r.2

/-! ### A cycle -/

/-- The units read what has come for them: an entry of each class. -/
def Net.unitReads (x : NCtx) (n : Net) : Net :=
  let rd := x.lay.reads
  (n.lanes.map (·.1)).foldl (fun m q =>
    if (m.lane q).ents.isEmpty ∨ ¬ rd.contains q then m
    else
      let r := (m.lane q).take q (x.k q)
      (m.updLane q (fun _ => r.2.2)).tell (r.2.1 ++ r.1.toList.map .got)) n

/-- The cycles for which a queue has had a flit ready (R24). -/
def Net.count (n : Net) : Net :=
  { n with waits := (n.lanes.filter (fun (q : Nat × LaneQ) => !q.2.ents.isEmpty)).map (fun (q : Nat × LaneQ) =>
      (q.1, tabGet 0 n.waits q.1 + 1)) }

/-- A cycle of the network: the queues judge their levels, the units read, the stops hop, the links go on. -/
def Net.cycle (x : NCtx) (n : Net) : Net :=
  let ls := n.lanes.map (fun (q : Nat × LaneQ) => (q.1, q.2.start (x.k q.1) (laneClass q.1)))
  let n1 := { n with lanes := ls.filter (fun q => decide (q.2 ≠ LaneQ.reset)) }
  let n2 := ((n1.unitReads x).count).hopsNow x
  (List.range x.lay.links.length).foldl (fun m l => m.linkCycle x l) n2

/-- Something moves or waits, or credits are to be returned. -/
def Net.busy (n : Net) : Bool :=
  !n.out.isEmpty || !n.bufs.isEmpty || !n.byp.isEmpty || !n.owed.isEmpty ||
  n.lanes.any (fun (q : Nat × LaneQ) => !q.2.ents.isEmpty || q.2.owe != 0 || q.2.held != 0) || n.links.any (fun k => !k.2.wires.isEmpty)

/-! ### Links with their islands (R28, R29) -/

/-- The link pairs of a domain. -/
def NCtx.pairsOf (x : NCtx) (d : Nat) : List Nat :=
  ((pairEnds x.lay).zipIdx.filter (fun e => decide ((x.lay.doms e.1).1 = some d) || decide ((x.lay.doms e.1).2 = some d))).map
    (·.2)

/-- A link resets (R28): its credits are gone, what its wires hold too, and its receiver grants what its buffers take. -/
def Net.resetLink (x : NCtx) (n : Net) (l : Nat) : Net :=
  let m := { n with links := tabErase n.links l }
  NClass.all.foldl (fun z c => match x.into l c with
    | .inl q => z.updLane q (fun y => y.grant (x.k q))
    | .inr b => { z with owed := tabSet 0 z.owed b (c.cap - (z.buf b).length) }) m

/-- An island's queues lose what they hold (R28, R522): those of a unit, of the codec for a channel's other islands, or of a
segment with its stops' buffers. -/
def Net.lose (x : NCtx) (d : Nat) (n : Net) : Net :=
  let here := (List.range x.lay.ss.length).filter (fun s => decide (domSeg x.lay.cfg (x.lay.seg s) = d))
  let ls := n.lanes.map (fun (q : Nat × LaneQ) => (q.1, if q.1 / 256 = d then q.2.lose else q.2))
  { n with
    lanes := ls.filter (fun q => decide (q.2 ≠ LaneQ.reset)),
    bufs := n.bufs.filter (fun b => !here.contains (b.1 / 8)), byp := n.byp.filter (fun b => !here.contains (b.1 / 2)),
    waits := n.waits.filter (fun w => decide (w.1 / 256 ≠ d)) }

/-- An island enters ON or leaves reset (R28): each of its links resets. -/
def Net.up (x : NCtx) (d : Nat) (n : Net) : Net :=
  (x.pairsOf d).foldl (fun m i => (m.resetLink x (2 * i)).resetLink x (2 * i + 1)) (n.lose x d)

/-- An island leaves ON (R29): a link into it or out of it holds no credits. -/
def Net.down (x : NCtx) (d : Nat) (n : Net) : Net :=
  let m := n.lose x d
  (x.pairsOf d).foldl (fun z i =>
    let y := { z with links := tabErase (tabErase z.links (2 * i)) (2 * i + 1) }
    [2 * i, 2 * i + 1].foldl (fun a l => NClass.all.foldl (fun b c => match x.into l c with
      | .inl q => b.updLane q (fun w => { w with owe := 0, held := 0 })
      | .inr k => { b with owed := tabSet 0 b.owed k 0 }) a) y) m

/-- Flits that meet a test and have not reached their unit. -/
def Net.flying (p : Flit → Bool) (n : Net) : Nat :=
  (n.links.map (fun k => (k.2.wires.filter (fun w => (w.2.ph == 1 && w.2.flit.any p) || w.2.got.any p)).length)).sum +
  (n.lanes.map (fun (q : Nat × LaneQ) => (q.2.ents.filter (fun e => p e.flit)).length)).sum +
  (n.bufs.map (fun b => (b.2.filter p).length)).sum + (n.byp.map (fun b => (b.2.filter p).length)).sum

/-- Flits of a class between units that have not reached their unit, those at their sender included. -/
def Net.inFlight (p : NUnit → NUnit → Bool) (c : NClass) (n : Net) : Nat :=
  ((n.out.filter (fun q => q.cls == c && p q.src q.dst)).map (·.n)).sum + n.flying (fun f => f.cls == c && p f.src f.dst)

/-- A flit for a domain waits at a sender or lies in an input buffer (R528). -/
def Net.waitsFor (x : NCtx) (d : Nat) (n : Net) : Bool :=
  n.out.any (fun p => unitDom x.lay.cfg p.dst == some d) || decide (0 < n.flying (fun f => unitDom x.lay.cfg f.dst == some d))

/-- Every link of a domain is idle, and its queues and its unit have nothing left (R29). -/
def Net.quietOf (x : NCtx) (d : Nat) (n : Net) : Bool :=
  (x.pairsOf d).all (fun i => ((n.link (2 * i)).wires.isEmpty && (n.link (2 * i + 1)).wires.isEmpty)) &&
  n.lanes.all (fun (q : Nat × LaneQ) => q.1 / 256 != d || q.2.ents.isEmpty) &&
  decide (n.flying (fun f => unitDom x.lay.cfg f.dst == some d) = 0) && n.out.all (fun p => unitDom x.lay.cfg p.src != some d) &&
  n.bufs.all (fun b => domSeg x.lay.cfg (x.lay.seg (b.1 / 8)) != d) && n.byp.all (fun b => domSeg x.lay.cfg (x.lay.seg (b.1 / 2)) != d)

end Sys2Proof.Machine
end

