-- ==== Sys2Proof/Machine/OdTable.lean ====
section
/-! DEFINITION. The object dictionary's entries (03_object_dictionary.md R104 to R111 and the entry
tables of every chapter): where an index lies, its type, access class, range and default. -/

namespace Sys2Proof.Machine

/-- The number of switchable domains (R520). -/
def domainCount (c : Params) : Nat :=
  4 * c.channels + c.decoders + c.sbMib / 2 + 8 + c.segments + c.ports

/-- A value the spec gives for D8 and for W32 only (log 2): W32's for its channel count, else D8's. -/
def byCfg (d8 w32 : Int) (c : Params) (_ _ : Nat) : Int := if c.channels = 32 then w32 else d8

/-- The default depth of a Buoy queue (R244). -/
def buoyDepth (c : Params) : Nat := if c.targets * c.luns ≤ 16 then 16 else 8

/-- Entry types (R105). -/
inductive OdTy where
  | bool | u8 | u16 | u32 | u64 | i8 | b8 | b16 | b32 | b64 | str | dom
  deriving DecidableEq, Repr

/-- The type code of R105. -/
def OdTy.code : OdTy → Nat
  | .bool => 0x01 | .u8 => 0x02 | .u16 => 0x03 | .u32 => 0x04 | .u64 => 0x05 | .i8 => 0x06
  | .b8 => 0x0A | .b16 => 0x0B | .b32 => 0x0C | .b64 => 0x0D | .str => 0x0E | .dom => 0x0F

/-- Size in bytes of the fixed-size types (R105); 0 for STR and DOMAIN. -/
def OdTy.size : OdTy → Nat
  | .bool => 1 | .u8 => 1 | .u16 => 2 | .u32 => 4 | .u64 => 8 | .i8 => 1
  | .b8 => 1 | .b16 => 2 | .b32 => 4 | .b64 => 8 | .str => 0 | .dom => 0

/-- STR and DOMAIN have no fixed size. -/
def OdTy.fixed (t : OdTy) : Bool := t.size ≠ 0

/-- Access classes (R106). -/
inductive OdAcc where
  | ro | rw | wo | rwq | const
  deriving DecidableEq, Repr

/-- The access code of R106. -/
def OdAcc.code : OdAcc → Nat
  | .ro => 0 | .rw => 1 | .wo => 2 | .rwq => 3 | .const => 4

/-- A row of an entry table: base index, sub-indices, type, access, range, and default by configuration,
instance and sub-index. -/
structure OdRow where
  base : Nat
  sub0 : Nat
  sub1 : Nat
  ty : OdTy
  acc : OdAcc
  lo : Int
  hi : Int
  dflt : Params → Nat → Nat → Int

/-- A default that does not depend on the configuration. -/
def k (v : Int) (_ : Params) (_ _ : Nat) : Int := v

/-- A row whose range is its type's. -/
def r (base sub0 sub1 : Nat) (ty : OdTy) (acc : OdAcc) (dflt : Params → Nat → Nat → Int) : OdRow :=
  { base := base, sub0 := sub0, sub1 := sub1, ty := ty, acc := acc,
    lo := if ty = .i8 then -128 else 0,
    hi := if ty = .i8 then 127 else if ty = .bool then 1 else 2 ^ (8 * ty.size) - 1, dflt := dflt }

/-- A row with a documented range. -/
def q (base sub0 sub1 : Nat) (ty : OdTy) (acc : OdAcc) (lo hi : Int) (dflt : Params → Nat → Nat → Int) :
    OdRow :=
  { base := base, sub0 := sub0, sub1 := sub1, ty := ty, acc := acc, lo := lo, hi := hi, dflt := dflt }

/-- Rows of R6. -/
def rowsIdentity : List OdRow := [
  r 0x1000 1 1 .u32 .const (k 197120),
  r 0x1000 2 2 .u16 .const (k 7290),
  r 0x1000 3 3 .str .const (k 0),
  r 0x1001 1 1 .u8 .const (fun c _ _ => c.channels),
  r 0x1001 2 2 .u8 .const (fun c _ _ => c.targets),
  r 0x1001 3 3 .u8 .const (fun c _ _ => c.luns),
  r 0x1001 4 4 .u8 .const (fun c _ _ => c.decoders),
  r 0x1001 5 5 .u16 .const (fun c _ _ => c.sbMib * 1024),
  r 0x1001 6 6 .u16 .const (fun c _ _ => c.mapcMib * 1024),
  r 0x1001 7 7 .u8 .const (fun c _ _ => c.ports),
  r 0x1001 8 8 .u16 .const (fun c _ _ => c.tags),
  r 0x1001 9 9 .u16 .const (fun c _ _ => c.rate),
  r 0x1001 10 10 .u8 .const (fun c _ _ => c.segments),
  r 0x1001 11 11 .u16 .const (fun c _ _ => c.rings) ]

/-- Rows of R141. -/
def rowsTransports : List OdRow := [
  r 0x1100 1 1 .bool .rw (k 0),
  r 0x1100 2 2 .u8 .rwq (k 0),
  r 0x1100 3 3 .u8 .ro (k 0),
  r 0x1100 4 4 .u64 .rwq (k 0),
  r 0x1100 5 5 .u8 .rwq (k 0),
  q 0x1100 6 6 .u8 .rwq 0 7 (k 7),
  r 0x1100 7 7 .u8 .ro (k 0),
  r 0x1100 8 8 .u32 .const (k 61873),
  q 0x1100 9 9 .u16 .rw 10 60000 (k 1000),
  q 0x1100 10 10 .u16 .rw 10 10000 (k 100),
  r 0x1100 11 11 .u32 .ro (k 0),
  r 0x1100 12 12 .u32 .ro (k 0),
  r 0x1100 13 13 .u32 .ro (k 0),
  r 0x1100 14 14 .u32 .ro (k 0),
  r 0x1100 15 15 .u64 .ro (k 0),
  r 0x1100 16 16 .u32 .ro (k 0),
  r 0x1100 17 17 .u32 .ro (k 0),
  r 0x1100 18 18 .u16 .rw (k 65535) ]

/-- Rows of R126. -/
def rowsMasters : List OdRow := [
  r 0x1200 1 1 .b8 .rw (k 255),
  r 0x1200 2 2 .b8 .ro (k 0),
  r 0x1200 3 3 .b8 .ro (k 0),
  r 0x1201 1 48 .u8 .rw (k 255),
  r 0x1202 1 48 .bool .rw (k 0) ]

/-- Rows of R93, R280, R587. -/
def rowsGlobal : List OdRow := [
  r 0x2000 1 1 .u8 .ro (k 0),
  q 0x2000 2 2 .u8 .wo 0 3 (k 0),
  r 0x2000 3 3 .u16 .wo (k 0),
  r 0x2000 4 4 .u16 .wo (k 0),
  r 0x2000 5 5 .b32 .rw (k 0),
  r 0x2000 6 6 .u8 .ro (k 0),
  r 0x2000 7 7 .u32 .ro (k 0),
  r 0x2000 8 8 .u64 .ro (k 0),
  q 0x2000 9 9 .u8 .rw 1 64 (k 8),
  r 0x2000 10 10 .u32 .ro (k 0),
  r 0x2000 11 11 .u8 .ro (k 0),
  q 0x2010 1 1 .u32 .rw 10000 200000 (k 100000),
  r 0x2010 2 2 .u8 .ro (k 0),
  r 0x2010 3 3 .u32 .rw (k 1000),
  r 0x2010 4 4 .u32 .ro (k 0),
  r 0x2010 5 5 .u32 .ro (k 0),
  r 0x2010 6 6 .u32 .ro (k 0),
  r 0x2010 7 7 .u64 .ro (k 0),
  r 0x2050 1 1 .u16 .wo (k 0),
  r 0x2050 2 2 .b64 .rw (k 0),
  r 0x2050 3 3 .b64 .rw (k 0),
  r 0x2050 4 4 .u8 .ro (k 0),
  r 0x2050 5 5 .u8 .ro (k 0),
  r 0x2050 6 6 .u8 .ro (k 0),
  r 0x2050 7 7 .dom .rw (k 0),
  r 0x2050 8 8 .u32 .rw (k 10000),
  r 0x2050 9 9 .u8 .ro (k 0),
  r 0x2050 10 10 .u32 .ro (k 0),
  r 0x2050 11 11 .u64 .ro (k 0),
  r 0x2052 1 1 .dom .rw (k 0),
  r 0x2052 2 2 .bool .rw (k 0) ]

/-- Rows of R240, R241, R242, R500. -/
def rowsLantern0 : List OdRow := [
  q 0x2100 1 1 .u64 .rwq 0 1099511627776 (k 0),
  r 0x2100 2 2 .u8 .rwq (k 0),
  r 0x2100 3 3 .u64 .rwq (k 0),
  r 0x2100 4 4 .u64 .rwq (k 0),
  r 0x2100 5 5 .u64 .ro (k 0),
  r 0x2100 6 6 .bool .rw (k 0),
  r 0x2100 7 7 .bool .wo (k 0),
  r 0x2100 8 8 .u8 .ro (k 0),
  r 0x2100 9 9 .u32 .ro (k 0),
  r 0x2100 10 10 .bool .ro (k 0),
  r 0x2100 11 11 .u8 .ro (k 0),
  r 0x2101 1 16 .b64 .rwq (fun _ _ s => if s == 1 then 0x8002000000000000 else 0),
  r 0x2102 1 1 .u8 .rwq (fun c _ _ => min c.channels 16 - 1),
  r 0x2102 2 2 .dom .rwq (k 0),
  r 0x2102 3 3 .u16 .ro (k 0),
  q 0x2102 4 4 .u16 .rw 1 10000 (k 100),
  r 0x2103 1 1 .u8 .rw (k 4),
  r 0x2103 2 2 .u8 .rw (k 1),
  r 0x2103 3 3 .u8 .rw (k 2),
  r 0x2103 4 4 .u8 .rw (k 1),
  r 0x2103 5 5 .u8 .rw (k 2),
  q 0x2103 6 6 .i8 .rw 0 100 (k 40),
  r 0x2103 7 7 .b8 .rw (k 1),
  q 0x2103 8 8 .u8 .rw 1 255 (k 64),
  r 0x2103 9 9 .u16 .const (byCfg 32 256),
  r 0x2103 10 10 .u16 .ro (k 0),
  q 0x2104 1 1 .u8 .rw 1 50 (k 8),
  r 0x2104 2 2 .u8 .rw (k 3),
  q 0x2104 3 3 .u8 .rw 1 100 (k 20),
  r 0x2104 4 4 .u8 .rw (k 70),
  q 0x2104 5 5 .u16 .rw 10 65535 (k 300),
  r 0x2104 6 6 .u32 .rw (k 200000),
  r 0x2104 7 7 .u32 .rw (k 2160),
  q 0x2104 8 8 .u8 .rw 1 6 (k 4),
  q 0x2104 9 9 .u8 .rw 1 64 (byCfg 4 32),
  q 0x2104 10 10 .u8 .rw 1 16 (k 2),
  q 0x2104 11 11 .u16 .rw 0 60000 (k 500),
  r 0x2104 12 12 .bool .rw (k 0),
  r 0x2104 13 13 .u32 .ro (k 0),
  r 0x2104 14 14 .u32 .ro (k 0) ]

/-- Rows of R240, R241, R242, R500. -/
def rowsLantern1 : List OdRow := [
  r 0x2104 15 15 .u8 .ro (k 0),
  r 0x2104 16 16 .u16 .ro (k 0),
  r 0x2104 17 17 .u16 .ro (k 0),
  r 0x2104 18 18 .u16 .ro (k 0),
  q 0x2105 1 1 .u16 .rw 1 65535 (k 100),
  q 0x2105 2 2 .u16 .rw 0 1024 (byCfg 16 128),
  q 0x2105 3 3 .u16 .rw 1 65535 (k 500),
  q 0x2105 4 4 .u8 .rw 0 16 (k 4),
  r 0x2106 1 1 .u8 .rw (k 2),
  r 0x2106 2 2 .b16 .rw (k 65535),
  q 0x2106 3 3 .u16 .rw 1 4096 (k 64),
  r 0x2107 1 1 .dom .rw (k 0),
  r 0x2107 2 2 .b32 .rw (k 0),
  r 0x2107 3 3 .b16 .rw (k 0),
  r 0x2107 4 4 .b64 .rw (k 0),
  r 0x2107 5 5 .b16 .rw (k 0),
  r 0x2107 6 6 .u16 .ro (k 0),
  r 0x2108 1 1 .u64 .ro (k 0),
  r 0x2108 2 2 .u64 .ro (k 0),
  r 0x2108 3 3 .u64 .ro (k 0),
  r 0x2108 4 4 .u64 .ro (k 0),
  r 0x2108 5 5 .u64 .ro (k 0),
  r 0x2108 6 6 .u64 .ro (k 0),
  r 0x2108 7 7 .u64 .ro (k 0),
  r 0x2108 8 8 .u64 .ro (k 0),
  r 0x2108 9 9 .u64 .ro (k 0),
  r 0x2108 10 10 .u64 .ro (k 0),
  r 0x2108 11 11 .u32 .ro (k 0),
  r 0x2108 12 12 .u32 .ro (k 0),
  r 0x2108 13 13 .u32 .ro (k 0),
  r 0x2108 14 14 .u32 .ro (k 0),
  r 0x2108 15 15 .u32 .ro (k 0),
  r 0x2109 1 1 .dom .ro (k 0),
  r 0x2109 2 2 .u32 .ro (k 0),
  r 0x2109 3 3 .u16 .ro (k 0),
  r 0x2109 4 4 .b16 .ro (k 0),
  r 0x2109 5 5 .u64 .ro (k 0) ]

/-- The rows of this range. -/
def rowsLantern : List OdRow := rowsLantern0 ++ rowsLantern1

/-- Rows of R372. -/
def rowsCodes : List OdRow := [
  r 0x2200 1 1 .u32 .rwq (k 0),
  r 0x2200 2 2 .u32 .ro (k 0),
  r 0x2200 3 3 .u32 .ro (k 0),
  r 0x2200 4 4 .u64 .ro (k 0),
  r 0x2200 5 5 .u64 .ro (k 0),
  r 0x2201 1 1 .dom .const (k 0),
  r 0x2201 2 2 .dom .const (k 0),
  r 0x2201 3 3 .dom .const (k 0) ]

/-- Rows of R398, R399, R400, R401. -/
def rowsRecovery : List OdRow := [
  r 0x2300 1 1 .b8 .rw (k 62),
  q 0x2300 2 2 .u8 .rw 1 30 (k 10),
  q 0x2300 3 3 .u8 .rw 1 30 (k 30),
  q 0x2300 4 4 .u8 .rw 1 30 (k 30),
  q 0x2300 5 5 .u8 .rw 1 32 (k 6),
  q 0x2300 6 6 .u8 .rw 1 32 (k 6),
  r 0x2300 7 7 .b8 .rw (k 81),
  r 0x2300 8 8 .b16 .rw (k 30001),
  q 0x2301 1 1 .u8 .rw 0 2 (k 0),
  q 0x2301 2 2 .u8 .rw 0 7 (k 2),
  q 0x2301 3 3 .u16 .rw 1 8190 (k 8),
  q 0x2301 4 4 .u8 .rw 1 127 (k 100),
  r 0x2301 5 5 .b64 .rwq (k 0),
  r 0x2301 6 6 .b32 .rwq (k 4169140224),
  r 0x2301 7 7 .dom .rwq (k 0),
  r 0x2301 8 8 .dom .rwq (k 0),
  r 0x2301 9 9 .b32 .rwq (k 504034944),
  q 0x2301 10 10 .u8 .rw 0 7 (k 3),
  r 0x2303 1 7 .u64 .ro (k 0),
  r 0x2303 8 8 .u64 .ro (k 0),
  r 0x2303 9 9 .u32 .ro (k 0),
  r 0x2303 10 10 .u32 .ro (k 0),
  r 0x2303 11 11 .u32 .ro (k 0),
  r 0x2303 12 12 .dom .ro (k 0),
  r 0x2304 1 4 .dom .rwq (k 0),
  q 0x2310 1 1 .u8 .rwq 1 7 (k 7),
  q 0x2310 2 2 .u8 .rwq 1 4 (k 3),
  r 0x2310 3 3 .b32 .rwq (k 4467217),
  r 0x2310 4 4 .b64 .rwq (k 4521260802379792),
  r 0x2310 5 5 .u8 .rw (k 0),
  r 0x2310 6 6 .u8 .rw (k 0),
  q 0x2310 7 7 .u8 .rw 0 8 (k 8),
  q 0x2310 8 8 .u8 .rw 0 8 (k 4),
  r 0x2310 9 9 .dom .rw (k 0) ]

/-- Rows of R443, R444, R445. -/
def rowsClasp0 : List OdRow := [
  r 0x2400 1 1 .u8 .ro (k 0),
  r 0x2400 2 2 .bool .wo (k 0),
  r 0x2400 3 3 .bool .wo (k 0),
  q 0x2400 4 4 .u32 .rw 50 100000 (k 1000),
  q 0x2400 5 5 .u16 .rw 1 512 (k 64),
  q 0x2400 6 6 .u16 .rw 1 60000 (k 100),
  q 0x2400 7 7 .u32 .rw 16 65536 (byCfg 256 4096),
  r 0x2400 8 8 .u32 .rw (k 3600),
  q 0x2400 9 9 .u8 .rw 1 50 (k 10),
  r 0x2400 10 10 .bool .rw (k 1),
  q 0x2400 11 11 .u8 .rw 0 16 (k 4),
  q 0x2400 12 12 .u8 .rw 0 16 (k 0),
  q 0x2400 13 13 .i8 .rw 1 64 (k 20),
  q 0x2400 14 14 .u16 .rw 0 4096 (k 64),
  r 0x2400 15 15 .u16 .rw (k 16384),
  r 0x2400 16 16 .u16 .const (byCfg 2048 8192),
  r 0x2400 17 17 .u8 .ro (k 0),
  q 0x2401 1 1 .u16 .rw 1000 30000 (k 14000),
  q 0x2401 2 2 .u32 .rw 0 1000000 (k 100),
  r 0x2401 3 3 .u32 .rw (k 5000),
  r 0x2401 4 4 .u32 .ro (k 0),
  r 0x2401 5 5 .b8 .ro (k 16),
  r 0x2401 6 6 .u32 .ro (k 0),
  q 0x2402 1 1 .u8 .rw 0 1 (k 0),
  q 0x2402 2 2 .u16 .rw 100 400 (k 125),
  r 0x2402 3 3 .u32 .rwq (k 50),
  r 0x2402 4 4 .u32 .rwq (k 16),
  r 0x2402 5 5 .u32 .rwq (k 18),
  r 0x2402 6 6 .u32 .rwq (k 250),
  r 0x2402 7 7 .u32 .rwq (byCfg 1200 9000),
  r 0x2402 8 8 .u32 .rwq (k 300),
  r 0x2402 9 9 .u32 .ro (k 0),
  r 0x2402 10 10 .u32 .ro (k 0),
  r 0x2402 11 11 .u32 .ro (k 0),
  r 0x2403 1 1 .u64 .ro (k 0),
  r 0x2403 2 2 .u32 .ro (k 0),
  r 0x2403 3 3 .u32 .ro (k 0),
  r 0x2403 4 4 .u32 .ro (k 0),
  r 0x2403 5 5 .u32 .ro (k 0),
  r 0x2403 6 6 .u32 .ro (k 0) ]

/-- Rows of R443, R444, R445. -/
def rowsClasp1 : List OdRow := [
  r 0x2403 7 7 .u32 .ro (k 0),
  r 0x2403 8 8 .u32 .ro (k 0),
  r 0x2403 9 9 .u32 .ro (k 0),
  r 0x2403 10 10 .u32 .ro (k 0),
  r 0x2403 11 11 .u32 .ro (k 0),
  r 0x2403 12 12 .u32 .ro (k 0),
  r 0x2403 13 13 .u64 .ro (k 0),
  r 0x2403 14 14 .u32 .ro (k 0),
  r 0x2403 15 15 .u32 .ro (k 0),
  r 0x2403 16 16 .u32 .ro (k 0),
  r 0x2404 1 1 .u8 .ro (k 0),
  r 0x2404 2 2 .u8 .ro (k 0),
  r 0x2404 3 3 .u64 .ro (k 0),
  r 0x2404 4 4 .u64 .ro (k 0),
  r 0x2404 5 5 .u32 .ro (k 0),
  r 0x2404 6 6 .b8 .ro (k 0),
  r 0x2404 7 7 .dom .ro (k 0),
  r 0x2404 8 8 .u32 .ro (k 0),
  r 0x2404 9 9 .bool .wo (k 0) ]

/-- The rows of this range. -/
def rowsClasp : List OdRow := rowsClasp0 ++ rowsClasp1

/-- Rows of R466, R467. -/
def rowsTender : List OdRow := [
  q 0x2500 1 1 .u8 .rwq 0 1 (k 0),
  r 0x2500 2 2 .b64 .rwq (k 18374686479671623680),
  q 0x2500 3 3 .u8 .rw 0 7 (k 4),
  q 0x2500 4 4 .u8 .rw 0 7 (k 3),
  r 0x2500 5 5 .u32 .rwq (k 0),
  r 0x2500 6 6 .u32 .rwq (k 0),
  r 0x2500 7 7 .u16 .const (k 512),
  r 0x2500 8 8 .u64 .ro (k 0),
  r 0x2510 1 1 .bool .rw (k 0),
  q 0x2510 2 2 .u32 .rw 100 4000000000 (k 1000000),
  r 0x2510 3 3 .u64 .rw (k 0),
  r 0x2510 4 4 .b32 .ro (k 0),
  r 0x2510 5 5 .u32 .ro (k 0) ]

/-- Rows of R518, R519. -/
def rowsBell : List OdRow := [
  r 0x2600 1 1 .u16 .ro (k 0),
  r 0x2600 2 2 .u32 .ro (k 0),
  r 0x2600 3 3 .u32 .ro (k 0),
  r 0x2600 4 4 .u64 .ro (k 0),
  r 0x2600 5 5 .u64 .ro (k 0),
  r 0x2600 6 6 .u32 .ro (k 0),
  r 0x2600 7 7 .u32 .ro (k 0),
  q 0x2610 1 1 .u8 .rwq 0 1 (k 0),
  r 0x2610 2 2 .u8 .rwq (k 0),
  r 0x2610 3 3 .u64 .rwq (k 0),
  r 0x2610 4 4 .u8 .ro (k 0),
  r 0x2610 5 5 .b32 .ro (k 0),
  r 0x2610 6 6 .dom .ro (k 0),
  r 0x2610 7 7 .u16 .wo (k 0),
  r 0x2610 8 8 .bool .ro (k 0),
  r 0x2610 9 9 .bool .wo (k 0),
  r 0x2610 10 10 .b32 .ro (k 65536),
  r 0x2610 11 11 .b32 .ro (k 0),
  r 0x2610 12 12 .bool .ro (k 0),
  r 0x2610 13 13 .u64 .ro (k 0),
  r 0x2610 14 14 .u32 .ro (k 0),
  r 0x2610 15 15 .u32 .ro (k 0),
  r 0x2640 1 1 .b32 .rw (k 0),
  r 0x2650 1 1 .b16 .ro (k 0) ]

/-- Rows of R534, R535. -/
def rowsKeeper : List OdRow := [
  r 0x2700 1 1 .u16 .const (fun c _ _ => domainCount c),
  r 0x2700 2 2 .u16 .ro (k 0),
  r 0x2700 3 3 .u16 .ro (k 0),
  r 0x2700 4 4 .u16 .rw (k 65535),
  r 0x2700 5 5 .u16 .const (k 200),
  r 0x2700 6 6 .u16 .const (k 1000),
  r 0x2700 7 7 .u32 .ro (k 0),
  r 0x2700 8 8 .u32 .ro (k 0),
  r 0x2700 9 9 .u32 .ro (k 0),
  r 0x2700 10 10 .u32 .ro (k 0),
  r 0x2700 11 11 .u32 .ro (k 0),
  r 0x2700 12 12 .dom .const (k 0),
  r 0x2700 13 13 .dom .ro (k 0),
  q 0x2710 1 1 .u8 .rw 0 2 (k 2),
  r 0x2720 1 1 .b16 .ro (k 0),
  r 0x2730 1 1 .b8 .rw (k 0),
  r 0x2740 1 1 .u32 .ro (k 0),
  r 0x2750 1 1 .u32 .ro (k 0),
  r 0x2760 1 1 .b32 .ro (k 0),
  r 0x2770 1 1 .u32 .ro (k 0),
  r 0x2780 1 1 .u32 .ro (k 0) ]

/-- Rows of R551, R552. -/
def rowsThermal0 : List OdRow := [
  q 0x2800 1 1 .u8 .rw 0 1 (k 0),
  r 0x2800 2 2 .u16 .const (k 100),
  q 0x2800 3 3 .i8 .rw (-40) 85 (k 40),
  r 0x2800 4 4 .u8 .rw (k 255),
  r 0x2800 5 5 .u8 .rw (k 64),
  q 0x2800 6 6 .u8 .rw 2 40 (k 6),
  q 0x2800 7 7 .u8 .rw 1 50 (k 3),
  r 0x2800 8 8 .u8 .rw (k 0),
  r 0x2800 9 9 .u8 .rw (k 0),
  r 0x2800 10 10 .u16 .rw (k 65535),
  r 0x2800 11 11 .b64 .wo (k 0),
  r 0x2800 12 12 .b64 .ro (k 0),
  r 0x2800 13 13 .b64 .ro (k 0),
  r 0x2800 14 14 .u32 .ro (k 0),
  r 0x2801 1 1 .i8 .rw (fun _ i _ => if i == 1 then (95) else (75)),
  r 0x2801 2 2 .i8 .rw (fun _ i _ => if i == 1 then (105) else (85)),
  r 0x2801 3 3 .i8 .rw (fun _ i _ => if i == 1 then (115) else (95)),
  r 0x2801 4 4 .i8 .rw (fun _ i _ => if i == 1 then (-20) else (0)),
  r 0x2801 5 5 .i8 .rw (fun _ i _ => if i == 1 then (-40) else (-10)),
  q 0x2801 6 10 .u8 .rw 1 20 (fun _ _ s => if s == 8 then 5 else 3),
  q 0x2803 1 1 .u16 .rw 100 65535 (k 2000),
  q 0x2803 2 2 .u8 .rw 10 100 (k 50),
  q 0x2803 3 3 .u8 .rw 0 1 (k 0),
  q 0x2803 4 4 .u16 .rw 1 60000 (k 500),
  r 0x2803 5 5 .u8 .rw (k 0),
  r 0x2803 6 6 .u32 .rw (k 0),
  r 0x2803 7 7 .u32 .rw (k 0),
  r 0x2804 1 6 .u32 .rw (fun _ _ s => [15, 16, 18, 300, 500, 250].getD (s - 1) 0),
  r 0x2804 7 7 .u32 .rw (k 5),
  r 0x2804 8 8 .dom .ro (k 0),
  r 0x2805 1 1 .dom .rw (k 0),
  r 0x2805 2 2 .dom .rw (k 0),
  r 0x2805 3 3 .dom .rw (k 0),
  r 0x2806 1 1 .dom .ro (k 0),
  r 0x2806 2 2 .dom .ro (k 0),
  r 0x2806 3 3 .dom .ro (k 0),
  r 0x2806 4 4 .dom .ro (k 0),
  r 0x2807 1 1 .u32 .ro (k 0),
  r 0x2807 2 2 .u32 .ro (k 0),
  r 0x2807 3 3 .u32 .ro (k 0) ]

/-- Rows of R551, R552. -/
def rowsThermal1 : List OdRow := [
  r 0x2807 4 4 .u32 .ro (k 0),
  r 0x2807 5 5 .u32 .ro (k 0),
  r 0x2807 6 6 .u64 .ro (k 0) ]

/-- The rows of this range. -/
def rowsThermal : List OdRow := rowsThermal0 ++ rowsThermal1

/-- The number of lane queues (R500, log 16): four that each stop injects from and four that its unit reads, eight for each of
a channel's PHY, sequencer and Buoy islands, and each port's ingress queue. -/
def queueCount (c : Params) : Nat := 8 * (9 + c.channels + c.decoders + c.sbMib / 2 + c.ports) + 24 * c.channels + c.ports

/-- Rows of R500, R568, R569. -/
def rowsFaults : List OdRow := [
  r 0x2900 1 1 .dom .ro (k 0),
  r 0x2900 2 2 .b32 .ro (k 65536),
  r 0x2900 3 3 .b16 .ro (k 0),
  r 0x2900 4 4 .b16 .wo (k 0),
  r 0x2900 5 5 .u16 .rw (k 65535),
  r 0x2900 6 6 .b16 .rw (k 1023),
  r 0x2900 7 7 .u32 .ro (k 0),
  r 0x2901 1 10 .u32 .ro (k 0),
  r 0x2902 1 1 .u32 .ro (k 0),
  r 0x2902 2 2 .u32 .ro (k 0),
  r 0x2902 3 3 .u32 .ro (k 0),
  r 0x2902 4 4 .u32 .ro (k 0),
  r 0x2902 5 5 .u32 .ro (k 0),
  r 0x2902 6 6 .u32 .ro (k 0),
  r 0x2903 1 1 .dom .ro (k 0),
  r 0x2903 2 2 .u16 .ro (k 0),
  r 0x2910 1 1 .dom .ro (k 0),
  r 0x2910 2 2 .u32 .ro (k 0),
  r 0x2910 3 3 .u16 .rw (k 65535),
  r 0x2910 4 4 .bool .rw (k 0),
  r 0x2911 1 1 .dom .ro (k 0),
  r 0x2911 2 2 .bool .wo (k 0),
  r 0x2911 3 3 .u32 .ro (k 0),
  r 0x2911 4 4 .u16 .const (fun c _ _ => queueCount c) ]

/-- Rows of R279, R294, R316, R372. -/
def rowsChannel0 : List OdRow := [
  q 0x3000 1 1 .u8 .rwq 2 32 (fun c _ _ => buoyDepth c),
  r 0x3000 2 2 .u16 .const (fun c _ _ => buoyDepth c * (c.targets * c.luns)),
  q 0x3000 3 3 .u16 .rw 100 65535 (k 2000),
  q 0x3000 4 4 .u8 .rw 0 1 (k 0),
  q 0x3000 5 5 .u16 .rw 1 1000 (k 5),
  r 0x3000 6 6 .bool .rw (k 1),
  r 0x3000 7 7 .bool .rw (k 1),
  r 0x3000 8 8 .bool .rw (k 1),
  q 0x3000 9 9 .u8 .rw 1 16 (k 3),
  q 0x3001 1 1 .u32 .rw 100 100000 (k 2000),
  q 0x3001 2 2 .u32 .rw 1000 100000 (k 10000),
  q 0x3001 3 3 .u32 .rw 1000 200000 (k 30000),
  q 0x3001 4 4 .u32 .rw 100 100000 (k 10000),
  q 0x3001 5 5 .u32 .rw 10 100000 (k 2000),
  q 0x3001 6 6 .u32 .rw 10 100000 (k 1000),
  r 0x3002 1 1 .u8 .rwq (k 97),
  r 0x3002 2 2 .u8 .rwq (k 210),
  r 0x3002 3 3 .dom .rwq (k 0),
  q 0x3002 4 4 .u16 .rw 20 5000 (k 200),
  q 0x3002 5 5 .u8 .rw 1 32 (k 8),
  r 0x3002 6 6 .u16 .rw (k 300),
  r 0x3003 1 1 .u8 .ro (k 0),
  r 0x3003 2 2 .u16 .ro (k 0),
  r 0x3003 3 3 .dom .ro (k 0),
  r 0x3003 4 4 .dom .ro (k 0),
  r 0x3003 5 5 .bool .wo (k 0),
  r 0x3003 6 6 .dom .ro (k 0),
  r 0x3003 7 7 .dom .ro (k 0),
  r 0x3003 8 8 .u8 .wo (k 0),
  r 0x3004 1 1 .u64 .ro (k 0),
  r 0x3004 2 2 .u64 .ro (k 0),
  r 0x3004 3 3 .u64 .ro (k 0),
  r 0x3004 4 4 .u32 .ro (k 0),
  r 0x3004 5 5 .u32 .ro (k 0),
  r 0x3004 6 6 .u32 .ro (k 0),
  r 0x3004 7 7 .u32 .ro (k 0),
  r 0x3004 8 8 .u32 .ro (k 0),
  r 0x3004 9 9 .u32 .ro (k 0),
  r 0x3004 10 10 .u32 .ro (k 0),
  r 0x3004 11 11 .u64 .ro (k 0) ]

/-- Rows of R279, R294, R316, R372. -/
def rowsChannel1 : List OdRow := [
  r 0x3004 12 12 .u32 .ro (k 0),
  r 0x3004 13 13 .u64 .ro (k 0),
  r 0x3004 14 14 .u32 .ro (k 0),
  r 0x3004 15 15 .u64 .ro (k 0),
  r 0x3005 1 1 .dom .ro (k 0),
  r 0x3005 2 2 .dom .ro (k 0),
  r 0x3005 3 3 .b16 .ro (k 1),
  r 0x3005 4 4 .u16 .ro (k 0),
  r 0x3005 5 5 .dom .ro (k 0),
  r 0x3005 6 6 .bool .rwq (k 0),
  r 0x3005 7 7 .bool .wo (k 0),
  q 0x3006 1 1 .u8 .rwq 0 2 (k 0),
  q 0x3006 2 2 .u8 .rwq 0 2 (k 0),
  r 0x3006 3 3 .u8 .ro (k 0),
  r 0x3006 4 4 .u8 .ro (k 0),
  q 0x3008 1 1 .u8 .rw 0 5 (k 0),
  r 0x3008 2 2 .u16 .rw (k 10),
  q 0x3008 3 3 .u8 .rw 0 15 (k 0),
  q 0x3008 4 4 .u16 .rw 10 1000 (k 120),
  q 0x3008 5 5 .u16 .rw 10 1000 (k 400),
  q 0x3008 6 6 .u16 .rw 10 1000 (k 200),
  q 0x3008 7 7 .u16 .rw 10 1000 (k 500),
  q 0x3008 8 8 .u16 .rw 10 1000 (k 200),
  q 0x3008 9 9 .u16 .rw 5 1000 (k 70),
  r 0x3008 10 10 .b8 .rw (k 0),
  r 0x3008 11 11 .b8 .rw (k 0),
  q 0x3008 12 12 .u8 .rw 0 3 (k 0),
  q 0x3008 13 13 .u8 .rw 0 4 (k 0),
  r 0x3008 14 14 .u8 .rw (k 0),
  r 0x3008 15 15 .u8 .rw (k 0),
  q 0x3008 16 16 .u8 .rw 60 180 (k 100),
  r 0x3009 1 1 .u8 .ro (k 0),
  r 0x3009 2 2 .u16 .ro (k 10),
  r 0x3009 3 3 .u8 .ro (k 0),
  r 0x3009 4 4 .u16 .ro (k 120),
  r 0x3009 5 5 .u16 .ro (k 400),
  r 0x3009 6 6 .u16 .ro (k 200),
  r 0x3009 7 7 .u16 .ro (k 500),
  r 0x3009 8 8 .u16 .ro (k 200),
  r 0x3009 9 9 .u16 .ro (k 70) ]

/-- Rows of R279, R294, R316, R372. -/
def rowsChannel2 : List OdRow := [
  r 0x3009 10 10 .b8 .ro (k 0),
  r 0x3009 11 11 .b8 .ro (k 0),
  r 0x3009 12 12 .u8 .ro (k 0),
  r 0x3009 13 13 .u8 .ro (k 0),
  r 0x3009 14 14 .u8 .ro (k 0),
  r 0x3009 15 15 .u8 .ro (k 0),
  r 0x3009 16 16 .u8 .ro (k 100),
  r 0x300A 1 1 .bool .wo (k 0),
  r 0x300A 2 2 .b8 .ro (k 0),
  r 0x300A 3 3 .u32 .ro (k 0),
  r 0x300A 4 4 .u32 .ro (k 0),
  r 0x300A 5 5 .u32 .ro (k 0),
  r 0x300B 1 1 .b16 .wo (k 0),
  r 0x300B 2 2 .u32 .rw (k 3600),
  q 0x300B 3 3 .u8 .rw 2 60 (k 10),
  q 0x300B 4 4 .u8 .rw 16 200 (k 80),
  q 0x300B 5 5 .u8 .rw 2 64 (k 16),
  r 0x300B 6 6 .b16 .ro (k 0),
  r 0x300C 1 1 .dom .ro (k 0),
  q 0x300D 1 1 .u16 .rw 10 60000 (k 100),
  r 0x300D 2 2 .u16 .ro (k 0),
  r 0x300E 1 1 .u32 .ro (k 0),
  r 0x300E 2 2 .u32 .ro (k 0),
  r 0x300E 3 3 .u32 .ro (k 0),
  r 0x300E 4 4 .u32 .ro (k 0),
  r 0x300E 5 5 .u32 .ro (k 0),
  r 0x300E 6 6 .u32 .ro (k 0) ]

/-- The rows of this range. -/
def rowsChannel : List OdRow := rowsChannel0 ++ rowsChannel1 ++ rowsChannel2

/-- Rows of R468. -/
def rowsTenderCh : List OdRow := [
  r 0x4000 1 1 .u64 .rw (k 0),
  r 0x4000 2 2 .bool .wo (k 0),
  r 0x4000 3 3 .bool .wo (k 0),
  q 0x4000 4 4 .u8 .rw 0 7 (k 0),
  r 0x4000 5 5 .u8 .rw (k 0),
  r 0x4000 6 6 .u16 .rw (k 65535),
  r 0x4000 7 7 .bool .rw (k 0),
  r 0x4001 1 1 .u8 .ro (k 0),
  r 0x4001 2 2 .u64 .ro (k 0),
  r 0x4001 3 3 .b32 .ro (k 65536),
  r 0x4001 4 4 .u8 .ro (k 0),
  r 0x4001 5 5 .u32 .ro (k 0),
  r 0x4001 6 6 .u8 .ro (k 0),
  r 0x4002 1 1 .u64 .ro (k 0),
  r 0x4002 2 2 .u64 .ro (k 0),
  r 0x4002 3 3 .u32 .ro (k 0),
  r 0x4002 4 4 .u32 .ro (k 0),
  r 0x4002 5 5 .u32 .ro (k 0) ]

/-- Rows of R79. -/
def rowsPort : List OdRow := [
  r 0x5000 1 1 .u8 .ro (k 0),
  q 0x5000 2 2 .u8 .rw 1 64 (k 40),
  r 0x5000 3 3 .u8 .rw (k 16),
  q 0x5000 4 4 .u32 .rw 10 1000000 (k 1000),
  r 0x5000 5 5 .u8 .ro (k 0),
  r 0x5000 6 6 .u32 .ro (k 0),
  r 0x5000 7 7 .u32 .ro (k 0),
  r 0x5000 8 8 .u32 .ro (k 0),
  r 0x5000 9 9 .u32 .ro (k 0),
  r 0x5000 10 10 .u32 .ro (k 0),
  r 0x5000 11 11 .u32 .ro (k 0),
  r 0x5000 12 12 .u64 .ro (k 0),
  r 0x5000 13 13 .u64 .ro (k 0),
  r 0x5000 14 14 .b64 .ro (k 0),
  r 0x5000 15 15 .u32 .ro (k 0) ]

/-- Rows of R190. -/
def rowsRing : List OdRow := [
  r 0x5100 1 1 .bool .rw (k 0),
  q 0x5100 2 2 .u8 .rwq 1 2 (k 2),
  r 0x5100 3 3 .u8 .rwq (k 0),
  r 0x5100 4 4 .u64 .rwq (k 0),
  r 0x5100 5 5 .u64 .rwq (k 0),
  q 0x5100 6 6 .u32 .rwq 16 65536 (k 16),
  q 0x5100 7 7 .u32 .rwq 16 65536 (k 16),
  q 0x5100 8 8 .u8 .rw 0 7 (k 0),
  q 0x5100 9 9 .u8 .rw 1 64 (k 8),
  r 0x5100 10 10 .u16 .rw (k 65535),
  q 0x5100 11 11 .u8 .rw 0 1 (k 0),
  r 0x5101 1 1 .u8 .ro (k 0),
  r 0x5101 2 2 .u16 .ro (k 0),
  r 0x5101 3 3 .u16 .ro (k 0),
  r 0x5101 4 4 .u16 .ro (k 0),
  r 0x5101 5 5 .u16 .ro (k 0),
  r 0x5101 6 6 .bool .ro (k 1),
  r 0x5101 7 7 .u16 .ro (k 0),
  r 0x5101 8 8 .u8 .ro (k 0),
  r 0x5102 1 1 .u64 .ro (k 0),
  r 0x5102 2 2 .u32 .ro (k 0),
  r 0x5102 3 3 .u32 .ro (k 0),
  r 0x5102 4 4 .u32 .ro (k 0),
  r 0x5102 5 5 .u64 .ro (k 0),
  r 0x5102 6 6 .u64 .ro (k 0),
  r 0x5102 7 7 .b32 .ro (k 0),
  r 0x5102 8 8 .u32 .ro (k 0),
  r 0x5107 1 64 .b32 .rw (k 16773143) ]

/-- Rows of R346. -/
def rowsMicrocode : List OdRow := [
  r 0x6000 1 1 .u32 .const (k 1562280871),
  r 0x6000 2 2 .u8 .ro (k 0),
  r 0x6000 3 3 .u16 .const (k 4096),
  r 0x6000 4 4 .u16 .ro (k 1024),
  r 0x6000 5 5 .u8 .ro (k 0),
  q 0x6000 6 6 .u8 .rw 1 255 (k 3),
  r 0x6000 7 7 .u32 .ro (k 0),
  r 0x6000 8 8 .dom .ro (k 0),
  r 0x6000 9 9 .dom .ro (k 0),
  r 0x6000 10 10 .bool .wo (k 0),
  r 0x6000 11 11 .u32 .ro (k 0),
  r 0x6000 12 12 .b32 .ro (k 0),
  r 0x6000 13 13 .u16 .ro (k 0),
  r 0x6001 1 1 .dom .wo (k 0),
  r 0x6001 2 2 .bool .wo (k 0),
  r 0x6001 3 3 .u8 .ro (k 0),
  r 0x6001 4 4 .u8 .ro (k 0),
  r 0x6001 5 5 .u32 .rw (k 0),
  r 0x6001 6 6 .u8 .ro (k 0),
  r 0x6001 7 7 .u32 .ro (k 0),
  r 0x6002 1 4 .u32 .ro (k 0),
  r 0x6003 1 4 .u32 .ro (k 0) ]

/-- Rows of R373, R499. -/
def rowsDecBank : List OdRow := [
  r 0x7000 1 1 .u8 .ro (k 0),
  r 0x7000 2 2 .u8 .ro (k 0),
  r 0x7001 1 1 .u64 .ro (k 0),
  r 0x7001 2 2 .u64 .ro (k 0),
  r 0x7001 3 3 .u64 .ro (k 0),
  r 0x7001 4 4 .u32 .ro (k 0),
  r 0x7001 5 5 .u64 .ro (k 0),
  r 0x7001 6 6 .u64 .ro (k 0),
  r 0x7001 7 7 .u64 .ro (k 0),
  r 0x7001 8 8 .u64 .ro (k 0),
  r 0x7800 1 1 .u8 .ro (k 0),
  r 0x7800 2 2 .u16 .ro (k 0),
  r 0x7801 1 1 .u32 .ro (k 0),
  r 0x7801 2 2 .u32 .ro (k 0),
  r 0x7801 3 3 .u64 .ro (k 0) ]

/-- The rows of the index range that holds a base index (R111). -/
def rowsOf (base : Nat) : List OdRow :=
  if base < 0x1100 then rowsIdentity
  else if base < 0x1200 then rowsTransports
  else if base < 0x2000 then rowsMasters
  else if base < 0x2100 then rowsGlobal
  else if base < 0x2200 then rowsLantern
  else if base < 0x2300 then rowsCodes
  else if base < 0x2400 then rowsRecovery
  else if base < 0x2500 then rowsClasp
  else if base < 0x2600 then rowsTender
  else if base < 0x2700 then rowsBell
  else if base < 0x2800 then rowsKeeper
  else if base < 0x2900 then rowsThermal
  else if base < 0x3000 then rowsFaults
  else if base < 0x4000 then rowsChannel
  else if base < 0x5000 then rowsTenderCh
  else if base < 0x5100 then rowsPort
  else if base < 0x6000 then rowsRing
  else if base < 0x7000 then rowsMicrocode
  else rowsDecBank

/-- Where an index lies: its base index as the tables print it, and its instance (R79, R190, R279, R373,
R400, R466 to R468, R499, R518, R519, R535, R551). `none`: no entry in this configuration (R110). -/
def odBase (c : Params) (idx : Nat) : Option (Nat × Nat) :=
  if idx < 0x2310 then some (idx, 0)
  else if idx < 0x2314 then some (0x2310, idx - 0x2310)
  else if idx < 0x2510 then some (idx, 0)
  else if idx < 0x2518 then some (0x2510, idx - 0x2510)
  else if idx < 0x2610 then some (idx, 0)
  else if idx < 0x2618 then some (0x2610, idx - 0x2610)
  else if idx < 0x2640 then none
  else if idx < 0x2650 then some (0x2640, idx - 0x2640)
  else if idx < 0x2660 then some (0x2650, idx - 0x2650)
  else if idx < 0x2710 then some (idx, 0)
  else if idx < 0x2790 then
    if (idx % 16) * 64 < domainCount c then some (idx - idx % 16, idx % 16) else none
  else if idx = 0x2802 then some (0x2801, 1)
  else if idx < 0x3000 then some (idx, 0)
  else if idx < 0x3800 then
    if (idx - 0x3000) / 0x40 < c.channels then
      some (0x3000 + (idx - 0x3000) % 0x40, (idx - 0x3000) / 0x40) else none
  else if idx < 0x4000 then none
  else if idx < 0x5000 then some (0x4000 + idx % 0x40, (idx - 0x4000) / 0x40)
  else if idx < 0x5100 then
    if (idx - 0x5000) / 0x10 < c.ports then
      some (0x5000 + idx % 0x10, (idx - 0x5000) / 0x10) else none
  else if idx < 0x5900 then
    if (idx - 0x5100) / 8 < c.rings ∧ (idx % 8 ≠ 7 ∨ (idx - 0x5100) / 8 % 16 = 0) then
      some (0x5100 + idx % 8, (idx - 0x5100) / 8) else none
  else if idx < 0x7000 then some (idx, 0)
  else if idx < 0x7800 then
    if (idx - 0x7000) / 8 < c.decoders then some (0x7000 + idx % 8, (idx - 0x7000) / 8) else none
  else if idx < 0x8000 then
    if (idx - 0x7800) / 4 < c.sbMib * 2 then some (0x7800 + idx % 4, (idx - 0x7800) / 4) else none
  else none

/-- An entry that R518 and R535 spread over sub-indices has one row for every sub-index. -/
def spread (base : Nat) : Bool :=
  base == 0x2640 || base == 0x2650 || (0x2710 ≤ base && base ≤ 0x2780 && base % 16 == 0)

/-- The highest sub-index of an index (R104, R126). -/
def odHighest (c : Params) (base inst : Nat) : Nat :=
  if base = 0x1201 ∨ base = 0x1202 then 0x20 + c.rings / 16
  else if base = 0x2640 ∨ base = 0x2650 then 64
  else if spread base then min 64 (domainCount c - inst * 64)
  else (rowsOf base).foldl (fun m x => if x.base = base then max m x.sub1 else m) 0

/-- Group numbers that R111 defines. -/
def groupDefined (c : Params) (g : Nat) : Bool := g ≤ 0x11 || (0x20 ≤ g && g < 0x20 + c.rings / 16)

/-- An index holds entries when some row has its base (R110). -/
def odDefined (c : Params) (idx : Nat) : Bool :=
  match odBase c idx with
  | none => false
  | some (b, _) => (rowsOf b).any (fun x => x.base == b)

/-- The row of index:sub, with its base and its instance. For the spread entries the instance is the
source or the domain (R518, R535). -/
def odRow (c : Params) (idx sub : Nat) : Option (OdRow × Nat) :=
  match odBase c idx with
  | none => none
  | some (b, i) =>
    if spread b then
      if 1 ≤ sub ∧ sub ≤ odHighest c b i then
        ((rowsOf b).find? (fun x => x.base == b)).map (fun x => (x, i * 64 + sub - 1))
      else none
    else if (b = 0x1201 ∨ b = 0x1202) ∧ (sub = 0 ∨ ¬ groupDefined c (sub - 1)) then none
    else ((rowsOf b).find? (fun x => x.base == b && x.sub0 ≤ sub && sub ≤ x.sub1)).map (fun x => (x, i))

/-- The key under which the state holds an entry. -/
def ek (idx sub : Nat) : Nat := idx * 256 + sub

/-- The group an index belongs to (R111). -/
def odGroup (idx : Nat) : Nat :=
  if idx < 0x1100 then 0x00 else if idx < 0x1200 then 0x01 else if idx < 0x2000 then 0x02
  else if idx < 0x2100 then 0x03 else if idx < 0x2200 then 0x04 else if idx < 0x2300 then 0x05
  else if idx < 0x2400 then 0x06 else if idx < 0x2500 then 0x07 else if idx < 0x2600 then 0x08
  else if idx < 0x2700 then 0x09 else if idx < 0x2800 then 0x0A else if idx < 0x2900 then 0x0B
  else if idx < 0x3000 then 0x0C else if idx < 0x4000 then 0x0D else if idx < 0x5000 then 0x0E
  else if idx < 0x5100 then 0x0F else if idx < 0x6000 then 0x20 + (idx - 0x5100) / 8 / 16
  else if idx < 0x7000 then 0x10 else 0x11

/-- The size in bytes of an entry of fixed size; 8 where the dictionary has no such entry. -/
def odSize (c : Params) (key : Nat) : Nat :=
  match odRow c (key / 256) (key % 256) with
  | some (x, _) => x.ty.size
  | none => 8

/-- The default of an entry of fixed size, as its bit pattern (R108). -/
def odDefault (c : Params) (key : Nat) : Nat :=
  match odRow c (key / 256) (key % 256) with
  | some (x, i) => ofInt (x.dflt c i (key % 256)) (8 * x.ty.size)
  | none => 0

/-- What length a STR or DOMAIN entry takes when written (R597). -/
inductive LenRule where
  | exact (n : Nat)
  | max (n : Nat)
  deriving DecidableEq, Repr

/-- Dies of the configuration. -/
def dieCount (c : Params) : Nat := c.channels * c.targets * c.luns

/-- The lengths the entry tables document (R201, R279, R280, R346, R399, R400, R500, R552). -/
def domLen (c : Params) (base : Nat) (sub : Nat) : LenRule :=
  match base, sub with
  | 0x2102, 2 => .max 65536
  | 0x2107, 1 => .exact 512
  | 0x2109, 1 => .exact 64
  | 0x2050, 7 => .max 20480
  | 0x2052, 1 => .exact (8 * dieCount c)
  | 0x3002, 3 => .exact 16
  | 0x6001, 1 => .max 33024
  | 0x2301, 7 => .exact 16
  | 0x2301, 8 => .exact 32
  | 0x2304, _ => .exact 32768
  | 0x2310, 9 => .exact 128
  | 0x2805, 1 => .exact (dieCount c)
  | 0x2805, 2 => .exact 256
  | 0x2805, 3 => .exact (288 * 4)
  | _, _ => .max 4096

/-- n copies of a byte string. -/
def rep (n : Nat) (bs : Bytes) : Bytes := (List.range n).foldl (fun a _ => bs ++ a) []

/-- The offsets of the default retry entries (R400). -/
def retryDefault : List Int := [-4, 4, -8, 8, -12, 12, -16, -20]

/-- The default bytes of the STR and DOMAIN entries that hold written values (R6, R242, R278, R279, R399,
R400, R552); every other one is empty or a view of its unit. -/
def domDefault (c : Params) (base sub : Nat) : Bytes :=
  match base, sub with
  | 0x1000, 3 => [0x46, 0x58, 0x33, 0x32]
  | 0x2107, 1 => zeros 512
  | 0x2052, 1 => rep (dieCount c) (leBytes 8 1)
  | 0x3002, 3 => zeros 16
  | 0x2301, 7 => [0, 500, 1000, 1500, 2000, 3000, 4000, 6000].flatMap (leBytes 2)
  | 0x2301, 8 => [0, 3600, 86400, 604800, 2592000, 7776000, 15552000, 31536000].flatMap (leBytes 4)
  | 0x2310, 9 => retryDefault.flatMap (fun v => List.replicate 7 (BitVec.ofInt 8 v) ++ [0]) ++
      retryDefault.flatMap (fun v => [BitVec.ofInt 8 v] ++ zeros 7)
  | 0x2805, 1 => (List.range (dieCount c)).map (fun i => BitVec.ofNat 8 (i / 16))
  | 0x2805, 2 => List.replicate 256 0xFF
  | 0x2805, 3 => rep 256 (leBytes 2 1000 ++ leBytes 2 5000) ++ rep 32 (leBytes 2 2000 ++ leBytes 2 500)
  | _, _ => []

end Sys2Proof.Machine
end

