-- ==== Sys2Proof/Machine/Ops.lean ====
section
/-! DEFINITION. The named operations over the state that the units share: dictionary entries and
counters, doorbells, faults, power-domain numbers, and the outbound side of a port. -/

namespace Sys2Proof.Machine

/-- A command whose whole effect is a change of the block: the queue stays as it is. -/
def run (f : Dev → Dev) (s : State) : Host.Outcome State Fault Refusal := .next { s with dev := f s.dev }

/-! ### Dictionary entries -/

/-- The stored value of an entry by its key. -/
def getK (d : Dev) (key : Nat) : Nat := tabGet (odDefault d.cfg key) d.od key

/-- The only writer of an entry: the value is cut to the entry's size (R105). -/
def putK (key v : Nat) (d : Dev) : Dev :=
  { d with od := tabSet (odDefault d.cfg key) d.od key (v % 2 ^ (8 * odSize d.cfg key)) }

/-- The stored value of index:sub. -/
def od (d : Dev) (idx sub : Nat) : Nat := getK d (ek idx sub)

/-- Stores index:sub. -/
def put (idx sub v : Nat) (d : Dev) : Dev := putK (ek idx sub) v d

/-- The stored value of a signed entry. -/
def odI (d : Dev) (idx sub : Nat) : Int := sext (od d idx sub) (8 * odSize d.cfg (ek idx sub))

/-- The bytes a STR or DOMAIN entry holds. -/
def getB (d : Dev) (idx sub : Nat) : Bytes :=
  tabGet (match odBase d.cfg idx with
    | some (b, _) => domDefault d.cfg b sub
    | none => []) d.ods (ek idx sub)

/-- Replaces the bytes of a STR or DOMAIN entry. -/
def putB (idx sub : Nat) (v : Bytes) (d : Dev) : Dev :=
  { d with ods := tabSet (match odBase d.cfg idx with
    | some (b, _) => domDefault d.cfg b sub
    | none => []) d.ods (ek idx sub) v }

/-- Sets or clears one bit of an entry. -/
def putBit (idx sub i : Nat) (b : Bool) (d : Dev) : Dev := put idx sub (setBit (od d idx sub) i b) d

/-- Every supply is in range: without it the NAND pads are held at their safe levels (R81, R102). -/
def supplies (d : Dev) : Bool := d.tele.vdd && d.tele.vddp && d.tele.vccq

/-- Adds n events to a counter entry (R565, R567): a U32 counter stops at its largest value and its SAT
bit sets only when an event is lost; a U64 counter wraps. -/
def cntN (idx sub n : Nat) (d : Dev) : Dev :=
  if odSize d.cfg (ek idx sub) = 4 then
    if od d idx sub + n ≤ 0xFFFFFFFF then put idx sub (od d idx sub + n) d
    else
      let d1 := put idx sub 0xFFFFFFFF d
      { d1 with sat := if d1.sat.contains (ek idx sub * 256) then d1.sat
                       else d1.sat ++ [ek idx sub * 256] }
  else put idx sub (od d idx sub + n) d

/-- Adds one event. -/
def cnt (idx sub : Nat) (d : Dev) : Dev := cntN idx sub 1 d

/-- A write of 0 clears an event counter and its SAT bit (R109, R566). -/
def clearCnt (idx sub : Nat) (d : Dev) : Dev :=
  let d1 := put idx sub 0 d
  { d1 with sat := d1.sat.filter (fun x => x ≠ ek idx sub * 256) }

/-- The next free value the spec leaves open (log 4): it reads the counter and advances it. -/
def freeVal (d : Dev) : BitVec 32 × Dev := (Config.freeWord d.free, { d with free := d.free + 1 })

/-- A free value of 64 bits. -/
def freeWide (d : Dev) : Nat × Dev :=
  let a := freeVal d
  let b := freeVal a.2
  (a.1.toNat + 2 ^ 32 * b.1.toNat, b.2)

/-- A free byte string of a length. -/
def freeBytes (n : Nat) (d : Dev) : Bytes × Dev := ((List.range n).map (Config.freeByte d.free), { d with free := d.free + 1 })

/-- The OD index of ring r's entries: 0 configuration, 1 status, 2 counters. -/
def rgIdx (r i : Nat) : Nat := 0x5100 + 8 * r + i

/-! ### Power domains (R520) -/

/-- A domain's record. -/
def dom (d : Dev) (n : Nat) : Dom := tabGet Dom.reset d.doms n

/-- Changes a domain's record. -/
def updDom (n : Nat) (f : Dom → Dom) (d : Dev) : Dev :=
  { d with doms := tabSet Dom.reset d.doms n (f (dom d n)) }

/-- A domain is ON (R521). -/
def isOn (d : Dev) (n : Nat) : Bool := (dom d n).st = .on

/-- The four domains of a channel are ON (R527). -/
def chanOn (d : Dev) (ch : Nat) : Bool := (List.range 4).all (fun i => isOn d (domCh ch i))

/-! ### The Necklace (01_anatomy.md R17 to R29) -/

/-- A unit sends a packet of flits to another; its effect takes place here, and the flits travel as the clock passes
(log 60). -/
def sendFor (own : Option Nat) (a b : NUnit) (c : NClass) (n : Nat) (d : Dev) : Dev :=
  if n = 0 then d else { d with net := { d.net with out := d.net.out ++ [{ src := a, dst := b, cls := c, n := n, own := own }] } }

/-- The same for no command. -/
def send (a b : NUnit) (c : NClass) (n : Nat) (d : Dev) : Dev := sendFor none a b c n d

/-- Necklace flits of a number of bytes (R20). -/
def flits (n : Nat) : Nat := cdiv n 32

/-- An island's links work: it is ON, or it drains (R29, R530). -/
def islandUp (d : Dev) (n : Option Nat) : Bool :=
  match n with
  | none => true
  | some k => (dom d k).st == .on || (dom d k).st == .drain

/-- What the network needs of the block. -/
def netCtx (d : Dev) : NCtx := { lay := layout d.cfg, on := islandUp d, k := laneK }

/-- The links of a domain reset as it enters ON or leaves reset (R28). -/
def linksReset (n : Nat) (d : Dev) : Dev := { d with net := d.net.up (netCtx d) n }

/-- The links of a domain that leaves ON hold no credits (R29). -/
def linksOff (n : Nat) (d : Dev) : Dev := { d with net := d.net.down (netCtx d) n }

/-- The unit of a domain; a segment has none of its own. -/
def domUnit (c : Params) (n : Nat) : NUnit :=
  if n < 4 * c.channels then
    (if n % 4 = 0 then .phy (n / 4) else if n % 4 = 1 then .seqr (n / 4) else if n % 4 = 2 then .cu (n / 4) else .buoy (n / 4))
  else if n < domSb c 0 then .dec (n - domDec c 0)
  else if n < domMapc c 0 then .sb (n - domSb c 0)
  else if n < domLan c then .mapq (n - domMapc c 0)
  else if n = domLan c then .lantern
  else if n < domTender c 0 then .ao
  else if n < domPort c 0 then .half (n - domTender c 0)
  else if n < domBell c then .port (n - domPort c 0)
  else if n = domBell c then .bell
  else .ao

/-- A packet that names a channel's PHY, sequencer or Buoy island passes its codec (R13). -/
def sendVia (a b : NUnit) (c : NClass) (n : Nat) (d : Dev) : Dev :=
  let hop := fun (u : NUnit) => match u with
    | .phy ch | .seqr ch | .buoy ch => NUnit.cu ch
    | w => w
  let d1 := if hop a = a then d else send a (hop a) c n d
  let d2 := if hop a = hop b then d1 else send (hop a) (hop b) c n d1
  if hop b = b then d2 else send (hop b) b c n d2

/-! ### Doorbells (14_bell_interrupts.md R501) -/

/-- An internal unit's doorbell leaves for Bell; a source of 1,024 or more sends nothing. -/
def ringUnit (u : NUnit) (src : Nat) (d : Dev) : Dev :=
  if src < 1024 then send u .bell .msg 1 { d with dbq := d.dbq ++ [.unit src] } else d

/-! ### Wake sources (15_keeper_power_domains.md R528, R529) -/

/-- The first enabled wake source of a domain that is not ON sets its bit of kp_wake_pending and rings Bell; the bit
clears when the domain enters ON. -/
def wakeRing (n : Nat) (d : Dev) : Dev :=
  let x := dom d n
  let m := od d (0x2730 + n / 64) (n % 64 + 1)
  if x.st ≠ .on ∧ ((x.flit ∧ bit m 0) ∨ (x.demand ∧ bit m 1)) ∧ ¬ bit d.wakeP n then
    ringUnit .ao (od d 0x2700 4) { d with wakeP := setBit d.wakeP n true }
  else d

/-- A wake source of a domain is asserted: 0 FLIT, 1 DEMAND. In ON, both are seen from what waits. -/
def assertWake (n b : Nat) (d : Dev) : Dev :=
  if isOn d n then d
  else wakeRing n (updDom n (fun y => if b = 0 then { y with flit := true } else { y with demand := true }) d)

/-! ### Faults (17_faults_and_limits.md R558 to R564) -/

/-- A block read of an entry is open by some master (R123). -/
def readHeld (d : Dev) (key : Nat) : Bool :=
  d.masters.any (fun m => match m.2.xfer with
    | some x => !x.wr && x.key == key
    | none => false)

/-- The fault path's doorbell (R564): at most one waits. -/
def fltBell (cls : Nat) (d : Dev) : Dev :=
  if od d 0x2900 5 < 1024 ∧ bit (od d 0x2900 6) cls ∧
      ¬ d.dbq.any (fun x => match x with | .flt _ => true | _ => false) then
    send .ao .bell .msg 1 { d with dbq := d.dbq ++ [.flt (od d 0x2900 5)] }
  else d

/-- A sequence number of 16 bits with its phase in bit 16, advanced by one (R565). -/
def nextSeq (v : Nat) : Nat :=
  if v % 65536 = 65535 then (if bit v 16 then 0 else 65536) else v + 1

/-- Writes a record to the log: it takes the next sequence number and overwrites the oldest (R560). -/
def fltWrite (r : Flt) (d : Dev) : Dev :=
  let sq := od d 0x2900 2
  let r1 := { r with seq := sq % 65536, phase := bit sq 16 }
  put 0x2900 2 (nextSeq sq)
    { d with flt := { d.flt with log := (d.flt.log ++ [r1]).drop (d.flt.log.length + 1 - 64) } }

/-- The newest record, held ones included (R561, R562). -/
def fltNewest (l : FltLog) : Option Flt :=
  match l.held.getLast? with
  | some r => some r
  | none => l.log.getLast?

/-- A repeat added to the newest record (R561). -/
def fltRepeat (l : FltLog) : FltLog :=
  let up := fun (r : Flt) => { r with rep := satTo (r.rep + 1) 0xFFFF }
  match l.held.getLast? with
  | some r => { l with held := l.held.dropLast ++ [up r] }
  | none => match l.log.getLast? with
    | some r => { l with log := l.log.dropLast ++ [up r] }
    | none => l

/-- Raising a fault (R558): record, class bit, class count, doorbell, in this order. -/
def fault (cls cause unit a b : Nat) (d0 : Dev) : Dev :=
  let d := if unit = 0xFFFF then d0 else sendVia (domUnit d0.cfg unit) .ao .msg 1 d0
  let rec0 : Flt :=
    { ts := d.ts, seq := 0, phase := false, tb := od d 0x2010 2, cls := cls,
      cause := cause, unit := unit, a := a % 2 ^ 32, b := b % 2 ^ 32, rep := 0, at_ := d.up }
  let same := match fltNewest d.flt with
    | some r => r.cls == cls && r.cause == cause && r.unit == unit && r.a == a % 2 ^ 32 &&
        decide (d.up - r.at_ < 1000000)
    | none => false
  let mark := fun (x : Dev) => cnt 0x2901 (cls + 1) (putBit 0x2900 3 cls true x)
  if same then mark { d with flt := fltRepeat d.flt }
  else if readHeld d (ek 0x2900 1) then
    if d.flt.held.length < 16 then mark { d with flt := { d.flt with held := d.flt.held ++ [rec0] } }
    else fltBell cls (mark (cnt 0x2900 7 d))
  else fltBell cls (mark (fltWrite rec0 d))

/-- The held records are written when the block read closes, each with its doorbell (R562). -/
def fltRelease (d : Dev) : Dev :=
  d.flt.held.foldl (fun x r => fltBell r.cls (fltWrite r x)) { d with flt := { d.flt with held := [] } }

/-! ### Ports: the outbound side (02_ports.md R45 to R75) -/

/-- A port's record. -/
def port (d : Dev) (p : Nat) : Port := tabGet Port.reset d.ports p

/-- Changes a port's record. -/
def updPort (p : Nat) (f : Port → Port) (d : Dev) : Dev :=
  { d with ports := tabSet Port.reset d.ports p (f (port d p)) }

/-- The DAT flits of a transfer (R54). -/
def datFlits (addr len : Nat) : Nat := (addr % 64 + len + 63) / 64

/-- A WRITE, and a READ_RSP of more than 8 bytes with OK or BUS_ERROR, carry DAT flits (R54). -/
def OutMsg.hasDat (m : OutMsg) : Bool := m.op == 2 || (m.op == 8 && m.len > 8 && m.status ≤ 1)

/-- A request of the initiator side, which gets a txid and waits for a response (R51, R59). -/
def OutMsg.isReq (m : OutMsg) : Bool := m.op == 1 || m.op == 2 || m.op == 4

/-- Credits of a class. -/
def Cred.get (c : Cred) : YppClass → Nat
  | .req => c.req | .rsp => c.rsp | .dat => c.dat | .msg => c.msg

/-- Credits of a class changed. -/
def Cred.set (c : Cred) (k : YppClass) (v : Nat) : Cred :=
  match k with
  | .req => { c with req := v } | .rsp => { c with rsp := v }
  | .dat => { c with dat := v } | .msg => { c with msg := v }

/-- The first txid from a starting point that is neither outstanding nor quarantined (R51, R70; log 5). -/
def freshTxid (used : List Nat) : Nat → Nat → Nat
  | 0, t => t % 4096
  | n + 1, t => if used.contains (t % 4096) then freshTxid used n (t + 1) else t % 4096

/-- A header may leave: the link is up, the class has a credit (R45), the side it belongs to may send (R75: the
minimum outbound credits for requests, two RSP credits for answers), and a request finds a free txid (R51, R70). -/
def Port.maySend (p : Port) (m : OutMsg) : Bool :=
  p.linkUp && decide (0 < p.cr.get m.cls) &&
    (if m.isReq then p.minMet && decide (p.outst.length + p.quar.length < 4096) else p.rspMet)

/-- The bits of a REQ or MSG header (R51): reserved bits and `mid` 0. -/
def reqFlit (m : OutMsg) : BitVec 512 :=
  BitVec.ofNat 512 (fld m.mdata 128 64 + fld m.addr 64 64 + fld (b2n (m.op == 4 && m.len == 8)) 44 1 +
    (if m.op = 4 then 0 else fld (m.len - 1) 32 12) + fld m.txid 20 12 + fld m.op 0 4)

/-- A READ_RSP of at most 8 bytes with data carries them in its header (R53, R66). -/
def OutMsg.inline (m : OutMsg) : Bool := m.op == 8 && decide (m.len ≤ 8) && decide (m.status ≤ 1)

/-- The bits of an RSP header (R53). -/
def rspFlit (m : OutMsg) : BitVec 512 :=
  BitVec.ofNat 512 ((if m.inline then fld (leNat m.data) 128 64 else 0) + fld m.status 45 3 +
    (if m.op = 8 then fld (m.len - 1) 32 12 else 0) + fld m.txid 20 12 + fld m.op 0 4)

/-- Whether byte i of a transfer came from an uncorrectable source (R56). -/
def OutMsg.badAt (m : OutMsg) (i : Nat) : Bool := m.bad.any (fun x => decide (x.1 ≤ i) && decide (i < x.1 + x.2))

/-- A header on the outbound signals (R43, R50, R56). -/
def OutMsg.hdrFlit (m : OutMsg) : YFlit :=
  { cls := m.cls, flit := if m.cls = .rsp then rspFlit m else reqFlit m, last := false,
    poison := m.inline && (List.range m.len).any m.badAt }

/-- The bytes of DAT flit k (R54): lane j holds byte 64k + j - addr mod 64 of the transfer; a lane outside the transfer
is undefined (log 4). -/
def OutMsg.lanes (m : OutMsg) (k : Nat) : Bytes :=
  let a := m.addr % 64
  (List.range 64).map (fun j =>
    if a ≤ 64 * k + j ∧ 64 * k + j < a + m.len then m.data.getD (64 * k + j - a) 0 else Config.freeByte m.addr (64 * k + j))

/-- A DAT flit is poisoned if a byte of it is bad (R56). -/
def OutMsg.flitBad (m : OutMsg) (k : Nat) : Bool :=
  let a := m.addr % 64
  m.bad.any (fun x => decide (0 < x.2) && decide (x.1 + a < 64 * (k + 1)) && decide (64 * k < x.1 + x.2 + a))

/-- DAT flit k of a header (R54, R55): `last` on the n-th and no other. -/
def OutMsg.datFlit (m : OutMsg) (k : Nat) : YFlit :=
  { cls := .dat, flit := BitVec.ofNat 512 (leNat (m.lanes k)), last := k + 1 == datFlits m.addr m.len,
    poison := m.flitBad k }

/-- Sends one header: its credit is spent, a request becomes outstanding under a fresh txid, and its DAT
flits queue behind earlier ones (R55). -/
def Port.sendHdr (p : Port) (m : OutMsg) : Port :=
  let t := if m.isReq then freshTxid (p.outst.map (·.txid) ++ p.quar) 4096 p.nextTxid else m.txid
  let m1 := { m with txid := t }
  { p with
    cr := p.cr.set m.cls (p.cr.get m.cls - 1), last := some m1, out := some m1.hdrFlit,
    nextTxid := if m.isReq then (t + 1) % 4096 else p.nextTxid,
    outst := if m.isReq then p.outst ++ [⟨t, m.own, m.op, m.addr, m.len, !m.hasDat⟩] else p.outst,
    datQ := if m.hasDat then p.datQ ++ [⟨datFlits m.addr m.len, m1⟩] else p.datQ }

/-- Sends the waiting headers that may leave; a class that is blocked keeps its order (R57). Answers with the port, the
headers that still wait, the owners of transfers that have departed, and the poisoned headers sent. -/
def Port.sendAll (p : Port) : List OutMsg → List YppClass → List Owner → Nat → Port × List OutMsg × List Owner × Nat
  | [], _, dep, n => (p, [], dep, n)
  | m :: ms, blk, dep, n =>
    if blk.contains m.cls || !p.maySend m then
      let r := Port.sendAll p ms (m.cls :: blk) dep n
      (r.1, m :: r.2.1, r.2.2)
    else Port.sendAll (p.sendHdr m) ms blk (if m.hasDat then dep else dep ++ [m.own])
      (n + b2n (m.cls == .rsp && m.status == 1) + b2n (m.cls == .req && m.hdrFlit.poison))

/-- What sending DAT flits counts: bytes inside whole transfers and poisoned flits (R79), and the flit sent last. -/
structure DatSent where
  cr : Nat
  rest : List DatRun
  dep : List (Owner × Nat)
  bytes : Nat
  bad : Nat
  out : Option YFlit

/-- Of the flits of a header with `left` still to go, the poisoned ones among the next n. -/
def DatRun.badIn (r : DatRun) (n : Nat) : Nat :=
  let k := datFlits r.hdr.addr r.hdr.len - r.left
  ((List.range n).filter (fun i => r.hdr.flitBad (k + i))).length

/-- The flit on the signals after the next n of a header's flits. -/
def DatRun.lastOf (r : DatRun) (n : Nat) : YFlit := r.hdr.datFlit (datFlits r.hdr.addr r.hdr.len - r.left + n - 1)

/-- Sends DAT flits while credits last, a run at a time in order (R45, R55). -/
def sendDat : Nat → List DatRun → DatSent
  | c, [] => { cr := c, rest := [], dep := [], bytes := 0, bad := 0, out := none }
  | c, r :: rs =>
    if r.left ≤ c then
      let x := sendDat (c - r.left) rs
      { x with dep := (r.hdr.own, r.hdr.txid) :: x.dep, bytes := x.bytes + r.hdr.len, bad := x.bad + r.badIn r.left,
               out := x.out.or (some (r.lastOf r.left)) }
    else
      { cr := 0, rest := { r with left := r.left - c } :: rs, dep := [], bytes := 0, bad := r.badIn c,
        out := if c = 0 then none else some (r.lastOf c) }

/-- A request is outstanding under a txid. -/
def Port.owns (p : Port) (txid : Nat) : Option Outst := p.outst.find? (fun o => o.txid == txid)

/-- Takes a request off the outstanding list. -/
def Port.drop (p : Port) (txid : Nat) : Port :=
  { p with outst := p.outst.filter (fun o => o.txid ≠ txid) }

/-- The outbound queues run as far as credits allow; answers with what departed, the bytes, and the poisoned flits and
BUS_ERROR responses sent (R79). -/
def Port.pump (p : Port) : Port × List Owner × Nat × Nat :=
  let a := Port.sendAll { p with hdrQ := [] } p.hdrQ [] [] 0
  let x := sendDat a.1.cr.dat a.1.datQ
  let gone := x.dep.map (·.2)
  ({ a.1 with
     hdrQ := a.2.1, cr := { a.1.cr with dat := x.cr }, datQ := x.rest, out := x.out.or a.1.out,
     outst := updWhere (fun o => gone.contains o.txid && o.op == 2) (fun o => { o with departed := true })
       a.1.outst },
   a.2.2.1 ++ x.dep.map (·.1), x.bytes, x.bad + a.2.2.2)

end Sys2Proof.Machine
end

