-- ==== Sys2Proof/Machine/Send.lean ====
section
/-! DEFINITION. What leaves a port: headers posted, credits taken, and what a departure means to the unit
that issued the transfer (02_ports.md R45 to R76, 04_work_rings.md R184, R187, 12_tender_dma.md R458). -/

namespace Sys2Proof.Machine

/-- The bell of a ring's completion, by the completion's number. -/
def updBell (r no : Nat) (f : RBell → RBell) (d : Dev) : Dev :=
  let x := tabGet Ring.reset d.rings r
  { d with rings := tabSet Ring.reset d.rings r { x with bells := updWhere (fun b => b.no == no) f x.bells } }

/-- What the last flit of a transfer leaving the port means to its unit: a completion's doorbell may go (R187);
Tender's transfers are told to Tender. -/
def depart (o : Owner) (d : Dev) : Dev :=
  match o with
  | .cq r _ no => updBell r no (fun b => { b with departed := true }) d
  | .jobWr .. | .chWr .. | .chRec .. => { d with tender := { d.tender with gone := d.tender.gone ++ [o] } }
  | _ => d

/-- Runs a port's outbound queues and tells the units what departed; bytes and poisoned flits sent are
counted (R79). -/
def pump (p : Nat) (d : Dev) : Dev :=
  let x := (port d p).pump
  let d1 := updPort p (fun _ => x.1) d
  let d2 := cntN (0x5000 + 0x10 * p) 0x0C x.2.2.1 d1
  let d3 := cntN (0x5000 + 0x10 * p) 0x0B x.2.2.2 d2
  x.2.1.foldl (fun y o => depart o y) d3

/-- The unit that has a port's initiator side issue a transfer, and the command it serves; none where the unit is in the
port's own island (R13). -/
def ownUnit (d : Dev) (o : Owner) : Option (NUnit × Option Nat) :=
  let job := fun (id : Nat) => d.tender.chs.findSome? (fun c =>
    (c.2.jobs.find? (fun j => j.id == id)).map (fun j => (NUnit.half (c.1 / 32), some j.no)))
  match o with
  | .sq _ | .cq .. | .answer => none
  | .jobRd id _ | .jobWr id .. | .jobDesc id => job id
  | .desc n .. | .chRd n .. | .chRd2 n .. | .chWr n _ | .chRec n _ => some (.half (n / 32), none)
  | .mapRd _ | .mapWb _ => some (.lantern, none)
  | .bell .. => some (.bell, none)

/-- A transfer's request reaches its port, with the data of a WRITE: two flits for each DAT flit (R20). -/
def sendReq (p : Nat) (m : OutMsg) (d : Dev) : Dev :=
  match ownUnit d m.own with
  | none => d
  | some (u, own) =>
    let d1 := sendFor own u (.port p) (if m.cls = .msg then .msg else .req) 1 d
    if m.op = 2 then sendFor own u (.port p) .data (2 * datFlits m.addr m.len) d1 else d1

/-- A response goes from its port to its unit, with the data of a READ. -/
def sendRsp (p : Nat) (o : Owner) (n : Nat) (d : Dev) : Dev :=
  match ownUnit d o with
  | none => d
  | some (u, own) => sendFor own (.port p) u .data (flits n) (sendFor own (.port p) u .rsp 1 d)

/-- Puts a header in its port's queue and runs the queues. -/
def post (p : Nat) (m : OutMsg) (d : Dev) : Dev :=
  pump p (updPort p (fun x => { x with hdrQ := x.hdrQ ++ [m] }) (sendReq p m d))

/-- A READ of the initiator side (R50 to R52). -/
def postRead (p addr len : Nat) (o : Owner) (d : Dev) : Dev :=
  post p { cls := .req, op := 1, addr := addr, len := len, status := 0, txid := 0, mdata := 0,
           data := [], bad := [], own := o } d

/-- A WRITE of the initiator side with its data and the ranges of it that are bad (R50 to R52, R56). -/
def postWrite (p addr : Nat) (bs : Bytes) (bad : List (Nat × Nat)) (o : Owner) (d : Dev) : Dev :=
  post p { cls := .req, op := 2, addr := addr, len := bs.length, status := 0, txid := 0, mdata := 0,
           data := bs, bad := bad, own := o } d

/-- The response opcode of the class and opcode of a target-side request (R69). -/
def rspOp (cls : YppClass) (op : Nat) : Nat :=
  match cls with
  | .msg => 0xA
  | _ => if op = 1 then 0x8 else 0x9

/-- A target-side answer without data (R53, R69). -/
def answer (p op status txid : Nat) (d : Dev) : Dev :=
  post p { cls := .rsp, op := op, addr := 0, len := 0, status := status, txid := txid, mdata := 0,
           data := [], bad := [], own := .answer } d

/-- The READ_RSP without data to a READ that is turned away, with the copy of its length (R53, R69). -/
def answerRead (p addr len status txid : Nat) (d : Dev) : Dev :=
  post p { cls := .rsp, op := 8, addr := addr, len := len, status := status, txid := txid, mdata := 0,
           data := [], bad := [], own := .answer } d

/-- A READ_RSP with the data of a READ, and the ranges of it that are bad (R53, R54, R56). -/
def answerData (p addr status txid : Nat) (bs : Bytes) (bad : List (Nat × Nat)) (d : Dev) : Dev :=
  post p { cls := .rsp, op := 8, addr := addr, len := bs.length, status := status, txid := txid, mdata := 0,
           data := bs, bad := bad, own := .answer } d

/-- An access by 4 KiB pieces: a READ or WRITE never crosses a 4 KiB boundary (R52). Answers with
(address, offset, length) of each piece. -/
def pieces4k : Nat → Nat → Nat → Nat → List (Nat × Nat × Nat)
  | 0, _, _, _ => []
  | n + 1, addr, off, len =>
    if len = 0 then []
    else
      let t := min len (4096 - addr % 4096)
      (addr, off, t) :: pieces4k n (addr + t) (off + t) (len - t)

/-- Host data read in pieces, each with its owner. -/
def readHost (p addr len : Nat) (o : Nat → Owner) (d : Dev) : Dev :=
  (pieces4k (len / 4096 + 2) addr 0 len).foldl (fun x y => postRead p y.1 y.2.2 (o y.2.1) x) d

/-- The occupancy of the ingress queue (R76): flits of requests that wait in it (R47, R60, R517); everything else is taken
as it arrives. -/
def ingress (d : Dev) (p : Nat) : Nat := (port d p).inQ.length

/-- fx_xoff follows the watermarks (R76, R78): it rises at xoff_high and falls at xoff_low, each rise
counted, and is low while the link is down. -/
def xoffUpdate (p : Nat) (d : Dev) : Dev :=
  let n := ingress d p
  let b := 0x5000 + 0x10 * p
  let x := (port d p).xoff
  if ¬ (port d p).linkUp then updPort p (fun y => { y with xoff := false }) d
  else if ¬ x ∧ od d b 2 ≤ n then cnt b 6 (updPort p (fun y => { y with xoff := true }) d)
  else if x ∧ n ≤ od d b 3 then updPort p (fun y => { y with xoff := false }) d
  else d

/-- A response no request of the port waits for: a quarantined txid is released, and the response is
discarded and counted (R70, R71). -/
def strayRsp (p txid : Nat) (d : Dev) : Dev :=
  cnt (0x5000 + 0x10 * p) 8 (updPort p (fun x => { x with quar := x.quar.filter (· ≠ txid) }) d)

end Sys2Proof.Machine
end

