-- ==== Sys2Proof/Machine/Bell.lean ====
section
/-! DEFINITION. Bell: doorbell interrupts (14_bell_interrupts.md R501 to R519). -/

namespace Sys2Proof.Machine

/-- A source's record. -/
def src (d : Dev) (s : Nat) : Src := tabGet Src.reset d.srcs s

/-- Changes a source's record. -/
def updSrc (s : Nat) (f : Src → Src) (d : Dev) : Dev :=
  { d with srcs := tabSet Src.reset d.srcs s (f (src d s)) }

/-- A target's record. -/
def tgt (d : Dev) (t : Nat) : Tgt := tabGet Tgt.reset d.tgts t

/-- Changes a target's record. -/
def updTgt (t : Nat) (f : Tgt → Tgt) (d : Dev) : Dev :=
  { d with tgts := tabSet Tgt.reset d.tgts t (f (tgt d t)) }

/-- src_cfg of a source (R518). -/
def srcCfg (d : Dev) (s : Nat) : Nat := od d (0x2640 + s / 64) (s % 64 + 1)

def srcEn (d : Dev) (s : Nat) : Bool := bit (srcCfg d s) 31
def srcExt (d : Dev) (s : Nat) : Bool := bit (srcCfg d s) 30
def srcAlt (d : Dev) (s : Nat) : Nat := bits (srcCfg d s) 16 3
def srcTgt (d : Dev) (s : Nat) : Nat := bits (srcCfg d s) 8 3
def srcPrio (d : Dev) (s : Nat) : Nat := bits (srcCfg d s) 0 4

/-- The effective target of a source (R506). -/
def effTgt (d : Dev) (s : Nat) : Nat := if (src d s).redir then srcAlt d s else srcTgt d s

/-- A source may be delivered at a target (R506). -/
def eligible (d : Dev) (t s : Nat) : Bool :=
  (src d s).st == .pending && srcEn d s && effTgt d s == t && !(tgt d t).frozen &&
  (match (tgt d t).stack with
   | [] => true
   | (_, p) :: _ => decide (p < srcPrio d s))

/-- A doorbell for a source (R504). -/
def ringSrc (x : Src) : Src :=
  match x.st with
  | .idle => { x with st := .pending }
  | _ => if x.cnt = 255 then { x with ovf := true } else { x with cnt := x.cnt + 1 }

/-- A matching completion of a source (R504). -/
def completeSrc (x : Src) : Src :=
  if x.cnt = 0 then { x with st := .idle } else { x with st := .pending, cnt := x.cnt - 1 }

/-- Bell takes a doorbell: the event is counted and the source moves (R504). -/
def takeDoorbell (s : Nat) (d : Dev) : Dev := cnt 0x2600 4 (updSrc s ringSrc d)

/-- The wire of a target (R513): high while the stack holds an entry or a wire attempt acts. -/
def irqUpdate (t : Nat) (d : Dev) : Dev :=
  updTgt t (fun x => { x with irq := od d (0x2610 + t) 1 == 1 && !x.stack.isEmpty }) d

/-- Bell's check of an external doorbell (R503). -/
def bellExt (v : BitVec 32) (d : Dev) : Dev :=
  let s := v.toNat % 65536
  if v.toNat / 65536 ≠ 0 ∨ 1024 ≤ s then cnt 0x2600 2 d
  else if ¬ srcExt d s then cnt 0x2600 3 d
  else takeDoorbell s d

/-- A completion at a target (R514): popped if it is the top, discarded while frozen, else the stack
freezes, the event is recorded, counted and raised as fault STACK. -/
def eoi (t s word : Nat) (d : Dev) : Dev :=
  if (tgt d t).frozen then d
  else
    match (tgt d t).stack with
    | (s0, _) :: rest =>
      if s0 = s then
        irqUpdate t (updSrc s completeSrc (updTgt t (fun x => { x with stack := rest }) d))
      else eoiBad t word d
    | [] => eoiBad t word d
where
  /-- The bad completion (R514, R515): a run in progress ends at once. -/
  eoiBad (t word : Nat) (d : Dev) : Dev :=
    fault 6 1 (domBell d.cfg) t word
      (cnt 0x2600 6 (put (0x2610 + t) 0x0B word
        (updTgt t (fun x => { x with frozen := true, run := none }) d)))

/-- Bell's check of a completion word (R502, R503). -/
def bellEoi (v : BitVec 32) (d : Dev) : Dev :=
  let s := v.toNat % 65536
  if v.toNat / 2 ^ 19 ≠ 0 ∨ 1024 ≤ s then cnt 0x2600 2 d
  else eoi (bits v.toNat 16 3) s v.toNat d

/-- The delivery word of an attempt (R512), with the priority as it stood when the attempt began (R508). -/
def deliveryWord (d : Dev) (t s prio : Nat) : Nat :=
  let q := od d (0x2610 + t) 0x0A
  fld (q % 65536) 48 16 + fld (b2n (bit q 16)) 47 1 + fld (src d s).cnt 32 8 +
  fld (b2n (src d s).ovf) 31 1 + fld t 28 3 + fld prio 24 4 + fld s 0 10

/-- No target's run holds the source (R507). -/
def noRun (d : Dev) (s : Nat) : Bool :=
  (List.range 8).all (fun t => match (tgt d t).run with
    | some r => r.src != s
    | none => true)

/-- The first of the candidates after a number, wrapping (R507). -/
def firstAfter (l : List Nat) (last : Option Nat) : Option Nat :=
  match last with
  | none => l.head?
  | some n => (l.find? (fun s => n < s)).or l.head?

/-- The source the next run of a target takes (R507): highest priority, then the first after the one last
chosen there at that priority. -/
def chooseSrc (d : Dev) (t : Nat) : Option (Nat × Nat) :=
  let c := (d.srcs.map (·.1)).filter (fun s => eligible d t s && noRun d s)
  let p := c.foldl (fun m s => max m (srcPrio d s)) 0
  let l := c.filter (fun s => srcPrio d s == p)
  let last := if (tgt d t).last.any (fun x => x.1 == p) then some (tabGet 0 (tgt d t).last p) else none
  (firstAfter l last).map (fun s => (s, p))

/-- An accepted delivery (R504, R509, R513): push, IN_SERVICE with the counter reduced, s_redir cleared,
counted; a push onto a stack not empty pulses the wire low. -/
def accept (t : Nat) (r : Run) (d : Dev) : Dev :=
  let p := r.prio
  let nested := od d (0x2610 + t) 1 == 1 && !(tgt d t).stack.isEmpty
  let d1 := updTgt t (fun x => { x with stack := (r.src, p) :: x.stack, run := none,
                                        pulses := if nested then x.pulses + 1 else x.pulses }) d
  let d2 := updSrc r.src (fun x => { x with st := .inService, cnt := x.cnt - r.more, redir := false }) d1
  irqUpdate t (cnt 0x2600 5 (cnt (0x2610 + t) 0x0D d2))

/-- The attempt of the slot in hand acts when bl_awake is high (R509): a wire attempt is accepted at once,
a message attempt sends the delivery word. To an address that is not 8-byte aligned the delivery is unpredictable (R512,
R554): where the word goes and what it says are free (log 26). -/
def attemptAct (t : Nat) (d : Dev) : Dev :=
  match (tgt d t).run with
  | none => d
  | some r =>
    if ¬ (tgt d t).awake ∨ r.acted ∨ (tgt d t).frozen then d
    else
      let r1 := { r with acted := true, more := (src d r.src).cnt }
      if od d (0x2610 + t) 1 = 1 then accept t r1 d
      else if od d (0x2610 + t) 3 % 8 ≠ 0 then
        let a := freeWide d
        let w := freeWide a.2
        post (od d (0x2610 + t) 2)
          { cls := .msg, op := 4, addr := a.1 / 8 * 8, len := 8, status := 0, txid := 0, mdata := w.1, data := [],
            bad := [], own := .bell t (od d (0x2610 + t) 0x0A) r.slot }
          (updTgt t (fun x => { x with run := some r1 }) w.2)
      else
        post (od d (0x2610 + t) 2)
          { cls := .msg, op := 4, addr := od d (0x2610 + t) 3, len := 8, status := 0, txid := 0,
            mdata := deliveryWord d t r.src r.prio, data := [], bad := [],
            own := .bell t (od d (0x2610 + t) 0x0A) r.slot }
          (updTgt t (fun x => { x with run := some r1 }) d)

/-- Starts a delivery run at a target (R507): tgt_dseq advances and the first slot begins. -/
def startRun (t : Nat) (d : Dev) : Dev :=
  if (tgt d t).run.isSome ∨ (tgt d t).frozen ∨ ¬ isOn d (domBell d.cfg) then d
  else
    match chooseSrc d t with
    | none => d
    | some (s, p) =>
      let d1 := put (0x2610 + t) 0x0A (nextSeq (od d (0x2610 + t) 0x0A)) d
      attemptAct t (updTgt t (fun x => { x with
        run := some { src := s, slot := 1, acted := false, failed := false, more := 0, prio := p },
        last := tabSet 1024 x.last p s }) d1)

/-- The end of a slot without acceptance (R509, R510): the failure is counted; the run ends when its source
is no longer eligible, and else the next slot begins. The 25th slot ends by `fallback`. -/
def nextSlot (t : Nat) (d : Dev) : Dev :=
  match (tgt d t).run with
  | none => d
  | some r =>
    let d1 := cnt (0x2610 + t) 0x0E d
    if ¬ eligible d t r.src then updTgt t (fun x => { x with run := none }) d1
    else attemptAct t (updTgt t (fun x => { x with
      run := some { r with slot := r.slot + 1, acted := false, failed := false, more := 0, prio := srcPrio d r.src } }) d1)

/-- Fallback at the end of the 25th slot (R510): every source eligible at the target inverts s_redir. -/
def fallBack (t : Nat) (d : Dev) : Dev :=
  let l := ((d.srcs.map (·.1)).filter (eligible d t)).eraseDups
  let d1 := updTgt t (fun x => { x with run := none }) (cnt (0x2610 + t) 0x0E d)
  cntN (0x2610 + t) 0x0F l.length (l.foldl (fun x s => updSrc s (fun y => { y with redir := !y.redir }) x) d1)

/-- A response to a delivery attempt (R509, R511): accepted if OK and the attempt's slot has not ended;
late responses are counted. -/
def bellResponse (t dseq slot status : Nat) (d : Dev) : Dev :=
  match (tgt d t).run with
  | some r =>
    if od d (0x2610 + t) 0x0A = dseq ∧ r.slot = slot ∧ r.acted ∧ ¬ r.failed then
      if status = 0 then accept t r d
      else updTgt t (fun x => { x with run := some { r with failed := true } }) d
    else cnt 0x2600 7 d
  | none => cnt 0x2600 7 d

/-- Unfreezing (R515): the stack empties and its sources become PENDING with their counters. -/
def unfreeze (t : Nat) (d : Dev) : Dev :=
  if ¬ (tgt d t).frozen then d
  else
    let l := (tgt d t).stack.map (·.1)
    irqUpdate t (updTgt t (fun x => { x with frozen := false, stack := [] })
      (l.foldl (fun x s => updSrc s (fun y => { y with st := .pending }) x) d))

/-- What keeps Bell in ON (R517), with a source for the detail. -/
def bellBusy (d : Dev) : Option Nat :=
  match (d.srcs.find? (fun x => x.2.st != .idle)) with
  | some (s, _) => some s
  | none =>
    match (List.range 8).findSome? (fun t => match (tgt d t).stack, (tgt d t).run with
      | (s, _) :: _, _ => some s
      | [], some r => some r.src
      | [], none => none) with
    | some s => some s
    | none => none

/-- The next doorbell or completion in arrival order reaches Bell, if Bell is ON (R504, R517). -/
def bellTakeNext (d : Dev) : Dev :=
  if ¬ isOn d (domBell d.cfg) then d
  else
    match d.dbq with
    | [] => d
    | x :: rest =>
      let d1 := { d with dbq := rest }
      match x with
      | .unit s => takeDoorbell s d1
      | .flt s => takeDoorbell s d1
      | .memlog s => takeDoorbell s d1
      | .eoi v => bellEoi v d1

/-- tgt_top's layout for a stack entry (R519). -/
def stackWord (e : Nat × Nat) : Nat := 2 ^ 31 + fld e.2 24 4 + fld e.1 0 10

/-- src_state of a source (R518). -/
def srcStateWord (x : Src) : Nat :=
  fld (b2n x.ovf) 15 1 + fld (b2n x.redir) 14 1 +
  fld (match x.st with | .idle => 0 | .pending => 1 | .inService => 2) 12 2 + fld x.cnt 0 8

/-- Bell after a reset or an entry from OFF (R517, R578): sources IDLE, stacks empty, nothing frozen. -/
def bellReset (d : Dev) : Dev :=
  let d1 := { d with srcs := [], tgts := d.tgts.map (fun x => (x.1, { Tgt.reset with awake := x.2.awake })) }
  (List.range 8).foldl (fun x t => put (0x2610 + t) 0x0B 0 x) d1

/-- INTERNAL_DOORBELL (R504): the next doorbell on its way reaches Bell. -/
def execInternalDoorbell (s : State) : Host.Outcome State Fault Refusal := run bellTakeNext s

/-- The level of bl_awake of a target, as sampled (R99, R509). -/
def setAwake (t : Nat) (a : Bool) (d : Dev) : Dev := if t < 8 then updTgt t (fun x => { x with awake := a }) d else d

/-- DELIVERY_RUN_START (R507), with the level of bl_awake in its cycle. -/
def execDeliveryRunStart (slot : SlotAt) (s : State) : Host.Outcome State Fault Refusal :=
  run (fun d => startRun slot.t (setAwake slot.t slot.awake d)) s

/-- ATTEMPT_SLOT (R509): the slot in hand ends without acceptance and the next one begins at once; the
first slot begins with the run, and the 25th ends by FALLBACK. -/
def slotEnd (t : Nat) (d : Dev) : Dev :=
  match (tgt d t).run with
  | some r => if r.slot < 25 then nextSlot t d else d
  | none => d

def execAttemptSlot (slot : SlotAt) (s : State) : Host.Outcome State Fault Refusal :=
  run (fun d => slotEnd slot.t (setAwake slot.t slot.awake d)) s

/-- BELL_AWAKE_RISE (R509): bl_awake is high from now on and a waiting attempt acts. -/
def awakeRise (t : Nat) (d : Dev) : Dev :=
  if t < 8 then attemptAct t (setAwake t true d) else d

def execBellAwakeRise (t : Nat) (s : State) : Host.Outcome State Fault Refusal :=
  run (awakeRise t) s

/-- DELIVERY_RESPONSE (R509, R511). -/
def execDeliveryResponse (p txid status : Nat) (s : State) : Host.Outcome State Fault Refusal :=
  run (fun d => match (port d p).owns txid with
    | some o =>
      match o.own with
      | .bell t dseq slot => bellResponse t dseq slot status (updPort p (fun x => x.drop txid) d)
      | _ => d
    | none => strayRsp p txid d) s

/-- FALLBACK (R510): the 25th slot ends. A source that stopped being eligible ends the run with no more. -/
def execFallback (t : Nat) (s : State) : Host.Outcome State Fault Refusal :=
  run (fun d => match (tgt d t).run with
    | some r => if r.slot = 25 then (if eligible d t r.src then fallBack t d else nextSlot t d) else d
    | none => d) s

end Sys2Proof.Machine
end

