-- ==== Sys2Proof/Machine/Cabochon.lean ====
section
/-! DEFINITION. The Cabochon codes: base matrices, their circulants and staircase, parity and validity
(09_codes_and_randomizer.md R353 to R355). -/

namespace Sys2Proof.Machine

/-- m: the rows of a code's base matrix, 0 A, 1 B, 2 C (R353). -/
def hRows (code : Nat) : Nat := if code = 1 then 14 else if code = 2 then 18 else 16

/-- The shift of the circulant at a row and a column; none where the entry is zero. Columns 129 and up hold the staircase
of R354; the information part is the image's (log 13). -/
def hShift (code r c : Nat) : Option Nat :=
  let m := hRows code
  if c < 129 then (Config.hInfo code r c).map (·.toNat)
  else if c = 129 then (if r = 0 ∨ r + 1 = m then some 1 else if r = m / 2 then some 0 else none)
  else if r + 130 = c ∨ r + 129 = c then some 0 else none

/-- A column block of a payload or codeword: bits 256 c to 256 c + 255 (R353). -/
def hCol (bs : Bytes) (c : Nat) : BitVec 256 := BitVec.ofNat 256 (leAt bs (32 * c) 32)

/-- A circulant times a column block: the identity rotated right by its shift (R354). -/
def hTerm (code r c : Nat) (x : BitVec 256) : BitVec 256 :=
  match hShift code r c with
  | some s => x.rotateRight s
  | none => 0

/-- A row of H times the first n column blocks of a byte string. -/
def hRowSum (code r n : Nat) (bs : Bytes) : BitVec 256 :=
  (List.range n).foldl (fun a c => a ^^^ hTerm code r c (hCol bs c)) 0

/-- H c = 0 (R354). -/
def codewordOk (code : Nat) (bs : Bytes) : Bool :=
  (List.range (hRows code)).all (fun r => hRowSum code r (129 + hRows code) bs == 0)

/-- The blocks of the staircase after the first, from row i on: each is what its row still lacks. -/
def stairs (code : Nat) (p : Bytes) (p0 : BitVec 256) : Nat → Nat → BitVec 256 → List (BitVec 256)
  | 0, _, _ => []
  | k + 1, i, prev =>
    let x := hRowSum code i 129 p ^^^ prev ^^^ (if i = hRows code / 2 then p0 else 0)
    x :: stairs code p p0 k (i + 1) x

/-- The parity blocks of a payload (R354): the first is the sum of all rows, the others follow the staircase down. -/
def parityBlocks (code : Nat) (p : Bytes) : List (BitVec 256) :=
  let p0 := (List.range (hRows code)).foldl (fun a r => a ^^^ hRowSum code r 129 p) 0
  p0 :: stairs code p p0 (hRows code - 1) 0 (p0.rotateRight 1)

/-- The parity bytes that the encoder appends (R347, R354). -/
def parityBytes (code : Nat) (p : Bytes) : Bytes := (parityBlocks code p).flatMap (fun x => leBytes 32 x.toNat)

/-- hmat_a, hmat_b and hmat_c (R355): a header, then a record for each non-zero entry, by row and then by column. -/
def hmatBytes (code : Nat) : Bytes :=
  let m := hRows code
  let recs := (List.range m).flatMap (fun r => (List.range (129 + m)).filterMap (fun c =>
    (hShift code r c).map (fun s => leBytes 1 r ++ leBytes 1 c ++ leBytes 2 s)))
  leBytes 2 m ++ leBytes 2 (129 + m) ++ leBytes 2 256 ++ leBytes 2 recs.length ++ recs.flatten

end Sys2Proof.Machine
end

