-- ==== Sys2Proof/Machine/Sb.lean ====
section
/-! DEFINITION. The Staging Buffer: its bytes, its reservations, and the memory-error log
(13_queues_and_buffers.md R470 to R497). -/

namespace Sys2Proof.Machine

/-! ### Lantern and Clasp records -/

/-- Changes Lantern's record. -/
def updLan (f : Lan → Lan) (d : Dev) : Dev := { d with lan := f d.lan }

/-- Changes Clasp's record. -/
def updClasp (f : Clasp → Clasp) (d : Dev) : Dev := { d with clasp := f d.clasp }

/-- The next number for a job, read, rebuild, band or relocation. -/
def freshId (d : Dev) : Nat × Dev := (d.lan.ids + 1, updLan (fun l => { l with ids := l.ids + 1 }) d)

/-! ### Bytes -/

/-- The canonical form of the Staging Buffer's bytes. -/
def Memory.wf (m : Tab Byte) : Bool := tabWf Config.sbByte m

/-- SB bytes (R479); a byte nothing has written is undefined (log 6). -/
def sbRead (d : Dev) (a n : Nat) : Bytes := tabBytes Config.sbByte d.lan.mem a n

/-- Writing SB bytes: bytes that are not enabled keep their values (R483). -/
def sbWrite (a : Nat) (bs : Bytes) (d : Dev) : Dev :=
  updLan (fun l => { l with mem := tabWriteBytes Config.sbByte l.mem a bs }) d

/-- Number of banks (R479). -/
def banks (c : Params) : Nat := 2 * c.sbMib

/-- A bank lies in Tender's SB window (R456). -/
def inWindow (d : Dev) (b : Nat) : Bool :=
  decide (od d 0x2500 5 ≤ b * 512) && decide (b * 512 < od d 0x2500 5 + od d 0x2500 6)

/-- The bank's group is ON (R479, R522). -/
def bankOn (d : Dev) (b : Nat) : Bool := isOn d (domSb d.cfg (b / 4))

/-- 64-byte units reserved in a bank. -/
def bankUsed (d : Dev) (b : Nat) : Nat :=
  ((d.lan.res.filter (fun r => r.at_ / 8192 = b)).map (·.len)).sum

/-- The first place of a bank where len units fit between its reservations (sorted by place). -/
def gapIn (lo hi len : Nat) : List SbRes → Option Nat
  | [] => if lo + len ≤ hi then some lo else none
  | r :: rs => if lo + len ≤ r.at_ then some lo else gapIn (max lo (r.at_ + r.len)) hi len rs

/-- Reservations of a bank, in order. -/
def bankRes (d : Dev) (b : Nat) : List SbRes := d.lan.res.filter (fun r => r.at_ / 8192 = b)

/-- A place for len units in a bank (R480: an extent never spans two banks). -/
def fitIn (d : Dev) (b len : Nat) : Option Nat := gapIn (8192 * b) (8192 * (b + 1)) len (bankRes d b)

/-- A bank that may be reserved in: not excluded, ON, outside the window, and with room (R236, R480). -/
def bankOk (d : Dev) (b len : Nat) : Bool :=
  !bit (od d 0x2107 4) b && bankOn d b && !inWindow d b && (fitIn d b len).isSome

/-- R221: fewest boundaries from the segment preferred, then most free space, then lowest number. -/
def bankBetter (d : Dev) (seg x y : Nat) : Bool :=
  let hx := hops d.cfg seg (segBank d.cfg x)
  let hy := hops d.cfg seg (segBank d.cfg y)
  decide (hx < hy) || (hx == hy && decide (bankUsed d x < bankUsed d y))

/-- The bank a reservation goes to (R221). -/
def pickBank (d : Dev) (seg len : Nat) : Option Nat :=
  ((List.range (banks d.cfg)).filter (bankOk d · len)).foldl
    (fun best b => match best with
      | none => some b
      | some x => if bankBetter d seg b x then some b else best) none

/-- A reservation put in its place by order. -/
def insRes (r : SbRes) : List SbRes → List SbRes
  | [] => [r]
  | x :: t => if r.at_ < x.at_ then r :: x :: t else x :: insRes r t

/-- Reserves len units near a segment; answers with the SB byte address. -/
def sbAlloc (seg len : Nat) (own : SbOwn) (d : Dev) : Option (Nat × Dev) :=
  match pickBank d seg len with
  | none => none
  | some b => (fitIn d b len).map (fun a =>
      (a * 64, updLan (fun l => { l with res := insRes ⟨a, len, own⟩ l.res }) d))

/-- Reserves several extents or none. -/
def sbAllocs (seg : Nat) (own : SbOwn) : List Nat → Dev → Option (List Nat × Dev)
  | [], d => some ([], d)
  | n :: ns, d => match sbAlloc seg n own d with
    | none => none
    | some (a, d1) => (sbAllocs seg own ns d1).map (fun r => (a :: r.1, r.2))

/-- Frees everything an owner holds. -/
def sbFree (own : SbOwn) (d : Dev) : Dev :=
  updLan (fun l => { l with res := l.res.filter (fun r => r.own ≠ own) }) d

/-! ### The memory-error log (R493 to R495) -/

/-- A record is due a doorbell (R495): at most one waits. -/
def memBell (kind : Nat) (d : Dev) : Dev :=
  if od d 0x2910 3 < 1024 ∧ (kind = 0 ∨ kind = 2 → od d 0x2910 4 = 1) then
    send .ao .bell .msg 1 { d with dbq := d.dbq ++ [.memlog (od d 0x2910 3)] }
  else d

/-- Writes a record, the oldest of 32 giving way. -/
def memWrite (r : MemRec) (d : Dev) : Dev :=
  memBell r.kind (cnt 0x2910 2
    { d with memLog := { d.memLog with log := (d.memLog.log ++ [r]).drop (d.memLog.log.length + 1 - 32) } })

/-- A memory error of a kind: repeats add to the newest record, a block read holds new ones (R493), and
kinds 1, 4, 6 and 7 raise fault MEMORY (R474, R478, R486, R490). -/
def memError (kind syn where_ unit : Nat) (d : Dev) : Dev :=
  let r : MemRec := { ts := d.ts, kind := kind, syn := syn, rep := 0, where_ := where_ }
  let same := fun (x : MemRec) => x.kind == kind && x.where_ == where_
  let up := fun (x : MemRec) => { x with rep := satTo (x.rep + 1) 0xFFFF }
  let d1 :=
    match d.memLog.held.getLast?, d.memLog.log.getLast? with
    | some h, _ =>
      if same h then { d with memLog := { d.memLog with held := d.memLog.held.dropLast ++ [up h] } }
      else if d.memLog.held.length < 16 then
        { d with memLog := { d.memLog with held := d.memLog.held ++ [r] } } else d
    | none, some l =>
      if same l then { d with memLog := { d.memLog with log := d.memLog.log.dropLast ++ [up l] } }
      else if readHeld d (ek 0x2910 1) then { d with memLog := { d.memLog with held := [r] } }
      else memWrite r d
    | none, none =>
      if readHeld d (ek 0x2910 1) then { d with memLog := { d.memLog with held := [r] } }
      else memWrite r d
  if kind = 1 ∨ kind = 4 ∨ kind = 6 ∨ kind = 7 then fault 5 kind unit where_ syn d1 else d1

/-- The held memory records are written when the block read closes (R123, R493). -/
def memRelease (d : Dev) : Dev :=
  d.memLog.held.foldl (fun x r => memWrite r x) { d with memLog := { d.memLog with held := [] } }

/-! ### Errors of protected words (R469, R470, R483 to R486) -/

/-- The words of SB from the first to the last byte of an access that hold a wrong bit, with the bits. -/
def wrongWords (d : Dev) (a n : Nat) : List (Nat × Nat) :=
  if n = 0 then [] else d.lan.flips.filter (fun x => decide (a / 8 ≤ x.1) && decide (x.1 ≤ (a + n - 1) / 8))

/-- `e_where` of an SB word (R493). -/
def sbWhere (w : Nat) : Nat := fld (w / 65536) 16 6 + w % 65536

/-- A read of a word at its bank (R470, R485, R486): a corrected error and an uncorrectable one are counted and
recorded. -/
def sbNote (w flips : Nat) (d : Dev) : Dev :=
  match eccRes flips with
  | .good => d
  | .corrected => memError 0 (eccSyn flips) (sbWhere w) (domSb d.cfg (w / 65536 / 4)) (cnt (0x7801 + 4 * (w / 65536)) 1 d)
  | .bad => memError 1 (eccSyn flips) (sbWhere w) (domSb d.cfg (w / 65536 / 4)) (cnt (0x7801 + 4 * (w / 65536)) 2 d)

/-- Reads of several words. -/
def sbNotes (l : List (Nat × Nat)) (d : Dev) : Dev := l.foldl (fun x w => sbNote w.1 w.2 x) d

/-- Bytes as a read delivers them (R470). -/
def sbGiven (l : List (Nat × Nat)) (a : Nat) (bs : Bytes) : Bytes :=
  l.foldl (fun b w => if eccWrong w.2 = 0 then b
    else (b.zipIdx).map (fun x => if (a + x.2) / 8 = w.1 then
      x.1 ^^^ BitVec.ofNat 8 (eccWrong w.2 / 2 ^ (8 * ((a + x.2) % 8))) else x.1)) bs

/-- The part of an access (offset, length) that the 32-byte beat of a bad word carries (R486). -/
def beatOf (a n w : Nat) : Nat × Nat :=
  let lo := max a (w / 4 * 32)
  (lo - a, min (a + n) (w / 4 * 32 + 32) - lo)

/-- An SB read for a reader that can fail (R485, R486): a bank not ON answers all of it with an error, and a beat with an
uncorrectable word is bad. The request and the data pass between the reader and the bank's stop (R20). Answers with the
bytes and the bad ranges. -/
def sbFetch (u : NUnit) (a n : Nat) (d0 : Dev) : Bytes × List (Nat × Nat) × Dev :=
  let b := a / 524288
  let g := NUnit.sb (b / 4)
  let d := send g u .data (flits n) (send g u .rsp 1 (send u g .req 1 d0))
  if bankOn d b then
    let l := wrongWords d a n
    (sbGiven l a (sbRead d a n), (l.filter (fun w => eccRes w.2 == .bad)).map (fun w => beatOf a n w.1), sbNotes l d)
  else (sbRead d a n, [(0, n)],
    memError 1 0 (fld b 16 6 + a % 524288 / 8) (domSb d.cfg (b / 4)) (cnt (0x7801 + 4 * b) 2 d))

/-- The 32-byte beats of a write that hold a partial word (R483). -/
def rmwBeats (a n : Nat) : Nat :=
  if n = 0 then 0
  else
    let s := if a % 8 ≠ 0 then 1 else 0
    let e := if (a + n) % 8 ≠ 0 then 1 else 0
    if s = 1 ∧ e = 1 ∧ a / 32 = (a + n - 1) / 32 then 1 else s + e

/-- The words that a write covers only in part (R483): its first and its last, at most. -/
def partWords (a n : Nat) : List Nat :=
  if n = 0 then []
  else ([a / 8, (a + n - 1) / 8].eraseDups).filter (fun w => !(decide (a ≤ 8 * w) && decide (8 * w + 8 ≤ a + n)))

/-- A write through a bank's port (R483, R484): a word covered in part is read, corrected, merged and written again,
unless it is uncorrectable: then it keeps its value and its error, and the write fails for its writer. Answers whether it
passed. -/
def sbStore? (u : NUnit) (a : Nat) (bs : Bytes) (d0 : Dev) : Bool × Dev :=
  let n := bs.length
  let g := NUnit.sb (a / 524288 / 4)
  let d := send g u .rsp 1 (send u g .data (flits n) (send u g .req 1 d0))
  let parts := partWords a n
  let bad := parts.filter (fun w => eccRes (tabGet 0 d.lan.flips w) == .bad)
  let head := if bad.contains (a / 8) then min n (8 - a % 8) else 0
  let tail := if n > head ∧ bad.contains ((a + n - 1) / 8) then (a + n) % 8 else 0
  let d1 := parts.foldl (fun x w => sbNote w (tabGet 0 x.lan.flips w) x) d
  let d2 := cntN (0x7801 + 4 * (a / 524288)) 3 (rmwBeats a n) d1
  let d3 := sbWrite (a + head) ((bs.drop head).take (n - head - tail)) d2
  let kept := fun (x : Nat × Nat) =>
    n == 0 || decide (x.1 < a / 8) || decide ((a + n - 1) / 8 < x.1) || bad.contains x.1
  (bad.isEmpty, updLan (fun l => { l with flips := l.flips.filter kept }) d3)

/-- The same where the writer writes whole words, or has no failure of its own. -/
def sbStore (u : NUnit) (a : Nat) (bs : Bytes) (d : Dev) : Dev := (sbStore? u a bs d).2

/-! ### SB status (R499) -/

/-- sb_state of a bank. -/
def sbState (d : Dev) (b : Nat) : Nat :=
  if ¬ bankOn d b then 0 else if bit (od d 0x2107 4) b then 2 else if inWindow d b then 3 else 1

/-- sb_used_kib of a bank: whole KiB, rounded up. -/
def sbUsedKib (d : Dev) (b : Nat) : Nat := cdiv (bankUsed d b) 16

end Sys2Proof.Machine
end

