-- ==== Sys2Proof/Machine/Map.lean ====
section
/-! DEFINITION. Dies, block and band records, regions, map entries, the map cache through which they change, their
versions, and the journal records that a change hands to Clasp (05_lantern_placement.md R195 to R216, 11 R406 to R414,
13 R488 to R492). -/

namespace Sys2Proof.Machine

/-! ### Dies (01_anatomy.md R7, R212) -/

def dieNo (ch tgt lun : Nat) : Nat := ch * 128 + tgt * 8 + lun
def dieCh (n : Nat) : Nat := n / 128
def dieTgt (n : Nat) : Nat := n % 128 / 8
def dieLun (n : Nat) : Nat := n % 8

/-- A die's number within its channel: tgt * P_LUNS + lun. -/
def dieK (c : Params) (n : Nat) : Nat := dieTgt n * c.luns + dieLun n

/-- The die of a channel by that number. -/
def dieAt (c : Params) (ch k : Nat) : Nat := dieNo ch (k / c.luns) (k % c.luns)

/-- Dies per channel. -/
def diesPerCh (c : Params) : Nat := c.targets * c.luns

/-- Dense rank (R212). -/
def rank (c : Params) (n : Nat) : Nat := dieCh n * diesPerCh c + dieK c n

/-- The die of a rank. -/
def dieOfRank (c : Params) (r : Nat) : Nat := dieAt c (r / diesPerCh c) (r % diesPerCh c)

/-- A die of the configuration. -/
def dieInCfg (c : Params) (n : Nat) : Bool :=
  dieCh n < c.channels && dieTgt n < c.targets && dieLun n < c.luns

/-- Every die of the configuration, by number. -/
def allDies (c : Params) : List Nat := (List.range (dieCount c)).map (dieOfRank c)

def die (d : Dev) (n : Nat) : Die := tabGet Die.reset d.dies n
def updDie (n : Nat) (f : Die → Die) (d : Dev) : Dev :=
  { d with dies := tabSet Die.reset d.dies n (f (die d n)) }
def chan (d : Dev) (ch : Nat) : Chan := tabGet Chan.reset d.chans ch
def updChan (ch : Nat) (f : Chan → Chan) (d : Dev) : Dev :=
  { d with chans := tabSet Chan.reset d.chans ch (f (chan d ch)) }

/-- A die is PRESENT: identified with no cause, and not FAILED (R291). -/
def present (d : Dev) (n : Nat) : Bool :=
  (die d n).geom.isSome && (die d n).st != .failed && (die d n).st != .off

/-- Pages per block and used planes are those of the reference geometry (R202, R289). -/
def pagesOf (d : Dev) : Nat := match d.geom with
  | some g => g.pages
  | none => 0

/-- The largest power of two not above a plane count (R202). -/
def pow2le (n : Nat) : Nat := if 8 ≤ n then 8 else if 4 ≤ n then 4 else if 2 ≤ n then 2 else 1

/-- P of R202: planes_used. -/
def planes (d : Dev) : Nat := match d.geom with
  | some g => pow2le g.planes
  | none => 1

/-- Blocks per plane of a die. -/
def blocksOf (d : Dev) (n : Nat) : Nat := match (die d n).geom with
  | some g => g.blocks
  | none => 0

/-- A block lies in region 0 of its die, the system region (R278). -/
def inSystem (d : Dev) (n b : Nat) : Bool := decide (b * 64 < blocksOf d n)

/-! ### Block records (R213) -/

def blkKey (c : Params) (n b : Nat) : Nat := rank c n * 65536 + b
def blk (d : Dev) (n b : Nat) : Blk := tabGet Blk.reset d.lan.blk (blkKey d.cfg n b)

/-- The read count of a block (R212). -/
def rdCount (d : Dev) (n b : Nat) : Nat := tabGet 0 d.lan.rdCnt (blkKey d.cfg n b)

/-- The 128 bits of a block record. -/
def Blk.word (x : Blk) : Nat :=
  fld x.pe 112 16 + fld x.vunits 94 18 + fld x.ptime 63 31 + fld (ofInt x.ptemp 8) 55 8 +
  fld x.bstate 51 4 + fld x.life 48 3 + fld x.temp 46 2 + fld (b2n x.rheavy) 45 1 +
  fld (b2n x.slc) 44 1 + fld x.zfam 32 12 + fld x.bidx 16 16 + fld x.mpos 11 5 + fld x.sset 1 10

/-- The record that 128 bits spell. -/
def Blk.ofWord (w : Nat) : Blk :=
  { pe := bits w 112 16, vunits := bits w 94 18, ptime := bits w 63 31, ptemp := sext (bits w 55 8) 8,
    bstate := bits w 51 4, life := bits w 48 3, temp := bits w 46 2, rheavy := bit w 45,
    slc := bit w 44, zfam := bits w 32 12, bidx := bits w 16 16, mpos := bits w 11 5,
    sset := bits w 1 10, eraseTo := false }

/-! ### Band records (R214) -/

def bandKey (s b m : Nat) : Nat := (s * 65536 + b) * 32 + m

/-- The reset column of R214: cut_row 0x1000. -/
def bandMem0 : Nat := 0x1000 * 2 ^ 32

def bandMem (d : Dev) (s b m : Nat) : Nat := tabGet bandMem0 d.lan.bandRec (bandKey s b m)

/-- A member entry. -/
def memEntry (cut n b : Nat) : Nat := fld cut 32 13 + fld n 16 12 + fld b 0 16

/-- cut_row of a member. -/
def cutRow (d : Dev) (b : Band) (m : Nat) : Nat := bits (bandMem d b.set b.bidx m) 32 13

/-! ### Regions and granules (R195 to R198, R212, R598) -/

/-- The valid regions in force as (first sector, granule exponent, end). -/
def regionList : List Nat → Nat → List (Nat × Nat × Nat)
  | [], _ => []
  | [r], cap => [(bits r 0 40, bits r 48 4, cap)]
  | r :: s :: t, cap => (bits r 0 40, bits r 48 4, bits s 0 40) :: regionList (s :: t) cap

/-- A granule: its map-table index, first sector, sectors it holds, granule exponent. -/
structure Gran where
  idx : Nat
  first : Nat
  nsec : Nat
  glog : Nat
  deriving DecidableEq, Repr

/-- The granule of a sector among regions whose entries start at an index. -/
def granIn (sec : Nat) : List (Nat × Nat × Nat) → Nat → Option Gran
  | [], _ => none
  | (f, g, e) :: t, base =>
    if f ≤ sec ∧ sec < e then
      let k := (sec - f) / 2 ^ g
      some { idx := base + k, first := f + k * 2 ^ g, nsec := min (2 ^ g) (e - (f + k * 2 ^ g)), glog := g }
    else granIn sec t (base + cdiv (e - f) (2 ^ g))

/-- The granule of a sector (R212). -/
def granOf (d : Dev) (sec : Nat) : Option Gran := granIn sec (regionList d.lan.regions d.lan.cap) 0

/-- The granule of a map-table index. -/
def granAt (idx : Nat) : List (Nat × Nat × Nat) → Nat → Option Gran
  | [], _ => none
  | (f, g, e) :: t, base =>
    let n := cdiv (e - f) (2 ^ g)
    if idx < base + n then
      let k := idx - base
      some { idx := idx, first := f + k * 2 ^ g, nsec := min (2 ^ g) (e - (f + k * 2 ^ g)), glog := g }
    else granAt idx t (base + n)

def granIdx (d : Dev) (idx : Nat) : Option Gran := granAt idx (regionList d.lan.regions d.lan.cap) 0

/-- The granules a range of sectors touches, in order. -/
def granules (d : Dev) : Nat → Nat → Nat → List Gran
  | 0, _, _ => []
  | n + 1, sec, stop =>
    if stop ≤ sec then []
    else match granOf d sec with
      | none => []
      | some g => g :: granules d n (g.first + g.nsec) stop

/-- The granules of nsec sectors from slba. -/
def granRange (d : Dev) (slba nsec : Nat) : List Gran := granules d nsec slba (slba + nsec)

/-- The map entries of the table (R212). -/
def mapCount (d : Dev) : Nat :=
  ((regionList d.lan.regions d.lan.cap).map (fun r => cdiv (r.2.2 - r.1) (2 ^ r.2.1))).sum

/-! ### Map entries (R207 to R210) -/

/-- R208: every entry at map_init. -/
def entry0 : Nat := 0x0080000000000000

def mapE (d : Dev) (g : Nat) : Nat := tabGet entry0 d.lan.map g
def putMap (g e : Nat) (d : Dev) : Dev := updLan (fun l => { l with map := tabSet entry0 l.map g e }) d

def eGen (e : Nat) : Nat := bits e 56 8
def eTrim (e : Nat) : Bool := bit e 55
def eSet (e : Nat) : Nat := bits e 45 10
def eAddr (e : Nat) : Nat := bits e 0 45
def aDie (a : Nat) : Nat := bits a 33 12
def aPlane (a : Nat) : Nat := bits a 30 3
def aBlock (a : Nat) : Nat := bits a 14 16
def aPage (a : Nat) : Nat := bits a 2 12
def aSlot (a : Nat) : Nat := bits a 0 2

/-- A physical address (R207 bits [44:0]). -/
def mkAddr (n plane block page slot : Nat) : Nat :=
  fld n 33 12 + fld plane 30 3 + fld block 14 16 + fld page 2 12 + fld slot 0 2

/-- A mapped entry. -/
def mkEntry (gen set addr : Nat) : Nat := fld gen 56 8 + fld set 45 10 + addr % 2 ^ 45

/-- A trimmed entry. -/
def mkTrim (gen : Nat) : Nat := fld gen 56 8 + 2 ^ 55

/-- Page units per granule, at least 1 (R204). -/
def unitsOf (glog : Nat) : Nat := if glog ≤ 2 then 1 else 2 ^ (glog - 2)

/-- The band that a block is a member of. -/
def bandOf (d : Dev) (n b : Nat) : Option Band :=
  d.lan.bands.find? (fun x => x.mem.contains (n, b))

/-- The set position of the parity member (R203). -/
def parPos (d : Dev) (b : Band) : Nat := b.bidx % (d.lan.n + 1)

/-- The set position of data member j. -/
def dataPos (d : Dev) (b : Band) (j : Nat) : Nat := if j < parPos d b then j else j + 1

/-- The die and block of a member by set position. -/
def member (b : Band) (pos : Nat) : Nat × Nat := b.mem.getD pos (0, 0)

/-- The data member number of a set position. -/
def dataJ (d : Dev) (b : Band) (pos : Nat) : Nat := if pos < parPos d b then pos else pos - 1

/-- The set position of a die in a band. -/
def posOf (b : Band) (n : Nat) : Nat := (b.mem.findIdx? (fun x => x.1 == n)).getD 0

/-- Where sector i of a granule lies (R209); a granule that spans member slots needs its band. -/
def secAddr (d : Dev) (e glog i : Nat) : Option Nat :=
  let a := eAddr e
  if glog ≤ 1 then some (a + i)
  else if unitsOf glog ≤ planes d then
    some (mkAddr (aDie a) (aPlane a + i / 4) (aBlock a) (aPage a) (i % 4))
  else
    match bandOf d (aDie a) (aBlock a) with
    | none => none
    | some b =>
      let p := planes d
      let q0 := aPage a * (d.lan.n * p) + dataJ d b (posOf b (aDie a)) * p + aPlane a
      let q := q0 + i / 4
      let m := member b (dataPos d b (q % (d.lan.n * p) / p))
      some (mkAddr m.1 (q % p) m.2 (q / (d.lan.n * p)) (i % 4))

/-! ### The map area (R211, R212) -/

/-- Bytes rounded up to 4 KiB. -/
def up4k (n : Nat) : Nat := cdiv n 4096 * 4096

/-- B of R212 as in force, at least 1. -/
def areaB (d : Dev) : Nat := max 1 (od d 0x2100 9)

/-- Where the block records, the read counts and the band records begin in the map area. -/
def blkOff (d : Dev) : Nat := up4k (8 * mapCount d)
def rdOff (d : Dev) : Nat := blkOff d + up4k (16 * dieCount d.cfg * od d 0x2100 9)
def bandOff (d : Dev) : Nat := rdOff d + up4k (4 * dieCount d.cfg * od d 0x2100 9)

/-- The lines (64 bytes of the map area, R215) of a map entry, a block record, a read count and a member entry. -/
def mapLine (g : Nat) : Nat := g / 8
def blkLine (d : Dev) (n b : Nat) : Nat := (blkOff d + 16 * (rank d.cfg n * areaB d + b)) / 64
def rdLine (d : Dev) (n b : Nat) : Nat := (rdOff d + 4 * (rank d.cfg n * areaB d + b)) / 64
def bandLine (d : Dev) (s b m : Nat) : Nat := (bandOff d + 8 * ((s * areaB d + b) * (d.lan.n + 1) + m)) / 64

/-- The 8 bytes at an offset of the map area. -/
def areaWord (d : Dev) (o : Nat) : Nat :=
  if o < blkOff d then mapE d (o / 8)
  else if o < rdOff d then
    let r := (o - blkOff d) / 16
    (blk d (dieOfRank d.cfg (r / areaB d)) (r % areaB d)).word / 2 ^ (64 * (o / 8 % 2)) % 2 ^ 64
  else if o < bandOff d then
    let c := fun (i : Nat) => rdCount d (dieOfRank d.cfg (i / areaB d)) (i % areaB d)
    c ((o - rdOff d) / 4) + 2 ^ 32 * c ((o - rdOff d) / 4 + 1)
  else
    let r := (o - bandOff d) / 8 / (d.lan.n + 1)
    bandMem d (r / areaB d) (r % areaB d) ((o - bandOff d) / 8 % (d.lan.n + 1))

/-- The 64 bytes of a line. -/
def lineBytes (d : Dev) (ln : Nat) : Bytes := (List.range 8).flatMap (fun i => leBytes 8 (areaWord d (64 * ln + 8 * i)))

/-- A line of read counts. -/
def rdCntLine (d : Dev) (ln : Nat) : Bool := decide (rdOff d ≤ 64 * ln) && decide (64 * ln < bandOff d)

/-! ### The map cache (R215, R216, R488 to R491) -/

/-- Miss slots (R30): 64 with D8's 2 MiB of map cache and 256 with W32's 8 MiB, so 32 for each MiB (log 2). -/
def missSlots (c : Params) : Nat := 32 * c.mapcMib

/-- Sets of the map cache (R215). -/
def mapcSets (c : Params) : Nat := c.mapcMib * 1024

/-- The set of a line: which one the spec leaves open; the model takes the line's number within the map area modulo the
number of sets (DESIGN CHOICE, log 83). -/
def setOf (c : Params) (ln : Nat) : Nat := ln % mapcSets c

/-- The ways of a line's set that a fill may take: not excluded, not pinned by a lost line. -/
def fillWays (d : Dev) (ln : Nat) : List Nat :=
  (List.range 16).filter (fun w => !bit (od d 0x2107 5) w &&
    !(d.lan.lines.any (fun x => x.lost && x.way == w && setOf d.cfg x.addr == setOf d.cfg ln)))

/-- The map-cache quarter of a line is ON (R215: set i lies in quarter i mod 4). -/
def mapcDom (d : Dev) (ln : Nat) : Nat := domMapc d.cfg (setOf d.cfg ln % 4)
def mapcOn (d : Dev) (ln : Nat) : Bool := isOn d (mapcDom d ln)

/-- A line in the cache. -/
def line? (d : Dev) (ln : Nat) : Option Line := d.lan.lines.find? (fun x => x.addr == ln)
def updLine (ln : Nat) (f : Line → Line) (d : Dev) : Dev :=
  updLan (fun l => { l with lines := updWhere (fun x => x.addr == ln) f l.lines }) d

/-- `e_where` of a word of a line (R493). -/
def lineWhere (d : Dev) (x : Line) (w : Nat) : Nat := fld x.way 28 4 + fld (setOf d.cfg x.addr) 15 13 + fld w 0 3

/-- A corrected error of a line's word (R488). -/
def lineCe (x : Line) (w flips : Nat) (d : Dev) : Dev :=
  let b := fit 64 (getB d 0x2109 1)
  memError 2 (eccSyn flips) (lineWhere d x w) (mapcDom d x.addr)
    (putB 0x2109 1 (patchBytes b (4 * x.way) (leBytes 4 (satTo (leAt b (4 * x.way) 4 + 1) 0xFFFFFFFF))) d)

/-- A line is lost (R490): pinned in its way, counted and recorded; a checkpoint under way ends without its CKPT_END
(R492). A line of read counts is filled with zeros instead. -/
def loseLine (x : Line) (syn w : Nat) (d : Dev) : Dev :=
  if rdCntLine d x.addr then
    updLine x.addr (fun y => { y with dirty := true, flips := [] }) (updLan (fun l => { l with
      rdCnt := l.rdCnt.filter (fun c => rdLine d (dieOfRank d.cfg (c.1 / 65536)) (c.1 % 65536) ≠ x.addr) }) d)
  else
    updClasp (fun c => { c with ckpt := none }) (memError 4 syn (lineWhere d x w) (mapcDom d x.addr) (cnt 0x2109 3
      (updLine x.addr (fun y => { y with lost := true, dirty := false, flips := [] }) d)))

/-- The first uncorrectable word among some of a line's. -/
def lineBad (x : Line) (ws : List Nat) : Option Nat := ws.find? (fun w => eccRes (tabGet 0 x.flips w) == .bad)

/-- Reads words of a line (R470, R488 to R490): corrected errors are counted, an uncorrectable one loses a dirty line and
takes a clean one out of the cache. -/
def lineRead (x : Line) (ws : List Nat) (d : Dev) : Dev :=
  let d1 := (ws.filter (fun w => eccRes (tabGet 0 x.flips w) == .corrected)).foldl
    (fun y w => lineCe x w (tabGet 0 x.flips w) y) d
  match lineBad x ws with
  | none => d1
  | some w =>
    let syn := eccSyn (tabGet 0 x.flips w)
    if x.dirty then loseLine x syn w d1
    else memError 3 syn (lineWhere d x w) (mapcDom d x.addr) (cnt 0x2109 2
      (updLan (fun l => { l with lines := l.lines.filter (fun y => y.addr ≠ x.addr) }) d1))

/-- Sends a dirty line to map DRAM; its words are read first (R215, R216). -/
def writeBack (x : Line) (d : Dev) : Dev :=
  if x.dirty ∧ ¬ x.lost then
    let d1 := lineRead x (List.range 8) d
    if ¬ d1.lan.lines.any (fun y => y.addr == x.addr && y.dirty && !y.lost) then d1
    else cnt 0x2108 3 (postWrite (od d 0x2100 2) (od d 0x2100 3 + 64 * x.addr) (lineBytes d x.addr) [] (.mapWb x.addr)
      (updLine x.addr (fun y => { y with dirty := false }) (updLan (fun l => { l with wbs := l.wbs ++ [(x.addr, x.way)] }) d1)))
  else d

/-- Every dirty line is written back (R216). -/
def writeBackAll (d : Dev) : Dev := d.lan.lines.foldl (fun x l => writeBack l x) d

/-- The line of a set that gives way: the least recently used among the ways that a fill may take (R215). -/
def victim (d : Dev) (ln : Nat) : Option Line :=
  (d.lan.lines.filter (fun x => setOf d.cfg x.addr == setOf d.cfg ln && (fillWays d ln).contains x.way)).foldl
    (fun (b : Option Line) x => match b with
      | none => some x
      | some y => if x.used < y.used then some x else some y) none

/-- A clean line put in a way. -/
def putLine (ln w : Nat) (d : Dev) : Dev :=
  updLan (fun l => { l with
    useNo := l.useNo + 1,
    lines := l.lines ++ [{ addr := ln, way := w, dirty := false, lost := false, used := l.useNo, flips := [] }] }) d

/-- Brings a line in (R215): into an empty way, or in place of the line that gives way, written back first. A victim that
its write-back loses stays, pinned. -/
def fillLine (ln : Nat) (d : Dev) : Dev :=
  match (fillWays d ln).find? (fun w => !(d.lan.lines.any (fun x => setOf d.cfg x.addr == setOf d.cfg ln && x.way == w))) with
  | some w => putLine ln w d
  | none => match victim d ln with
    | none => d
    | some v =>
      let d1 := writeBack v d
      if (line? d1 v.addr).any (·.lost) then d1
      else putLine ln v.way (updLan (fun l => { l with lines := l.lines.filter (fun x => x.addr ≠ v.addr) }) d1)

/-- Marks a line used, and dirty when its contents changed. -/
def touchLine (ln : Nat) (dirty : Bool) (d : Dev) : Dev :=
  updLan (fun l => { l with useNo := l.useNo + 1 })
    (updLine ln (fun x => { x with used := d.lan.useNo + 1, dirty := x.dirty || dirty }) d)

/-- Takes a miss slot for a line and asks map DRAM for it (R216): once per line, while a slot is free, in a quarter that is
ON, and not before an earlier write-back of the line has been answered (R59). A set without a way to fill is served
uncached (R491). -/
def askLine (ln : Nat) (d : Dev) : Dev :=
  if ¬ mapcOn d ln then assertWake (mapcDom d ln) 1 d
  else if d.lan.misses.any (fun m => m.addr == ln) ∨ d.lan.wbs.any (fun w => w.1 == ln) ∨ missSlots d.cfg ≤ d.lan.misses.length then d
  else
    let un := (fillWays d ln).isEmpty
    let slot := ((List.range (missSlots d.cfg)).find? (fun s => !(d.lan.misses.any (fun m => m.slot == s)))).getD 0
    let d1 := updLan (fun l => { l with
      misses := l.misses ++ [{ slot := slot, addr := ln, fails := 0, ans := none, uncached := un, back := false }] }) d
    let d2 := if un then cnt 0x2109 5 d1 else cnt 0x2108 2 d1
    postRead (od d 0x2100 2) (od d 0x2100 3 + 64 * ln) 64 (.mapRd slot) d2

/-- A line is wanted, for a lookup or for a change of it. -/
def wantLine (ln : Nat) (change : Bool) (d : Dev) : Dev :=
  askLine ln (updLan (fun l => { l with
    want := if l.want.any (fun x => x.1 == ln) then updWhere (fun x => x.1 == ln) (fun x => (x.1, x.2 || change)) l.want
      else l.want ++ [(ln, change)] }) d)

/-- What waits for a slot, or for a write-back, asks again. -/
def askWanted (d : Dev) : Dev := d.lan.want.foldl (fun x w => askLine w.1 x) d

/-- A wanted line has been served; a change that waited for it makes it dirty. -/
def gotLine (ln : Nat) (d : Dev) : Dev :=
  let ch := d.lan.want.any (fun x => x.1 == ln && x.2)
  touchLine ln ch (updLan (fun l => { l with want := l.want.filter (fun x => x.1 ≠ ln) }) d)

/-- The words of a line that a change writes hold no error any more (R469). -/
def mendLine (ln : Nat) (ws : List Nat) (d : Dev) : Dev :=
  updLine ln (fun x => { x with flips := x.flips.filter (fun f => !ws.contains f.1) }) d

/-- A change of words of a line while the map cache works (R215, R216): a line in the cache becomes dirty; an absent one is
asked for, and is dirty when it comes (log 18). Words changed only in part are read first. -/
def changeLine (ln : Nat) (ws : List Nat) (part : Bool) (d : Dev) : Dev :=
  if od d 0x2100 8 < 2 then d
  else
    let d1 := match line? d ln with
      | some x => if part then lineRead x ws d else d
      | none => d
    match line? d1 ln with
    | some x => if x.lost then d1 else cnt 0x2108 1 (mendLine ln ws (touchLine ln true d1))
    | none => wantLine ln true d1

/-- What a lookup met. -/
inductive Look where
  | hit | lost | wait
  deriving DecidableEq, Repr

/-- A lookup of words of a line (R215, R216, R488 to R491): a hit, a lost line, or a wait for a fill. -/
def lookup (ln : Nat) (ws : List Nat) (d0 : Dev) : Look × Dev :=
  let q := NUnit.mapq (setOf d0.cfg ln % 4)
  let d := send q .lantern .rsp 1 (send .lantern q .req 1 d0)
  let d1 := match line? d ln with
    | some x => if x.lost then d else lineRead x ws d
    | none => d
  match line? d1 ln with
  | some x => if x.lost then (.lost, d1) else (.hit, cnt 0x2108 1 (touchLine ln false d1))
  | none => (.wait, wantLine ln false d1)

/-- A record's line is lost (R490). -/
def lineGone (d : Dev) (ln : Nat) : Bool := (line? d ln).any (·.lost)
def blkLost (d : Dev) (n b : Nat) : Bool := lineGone d (blkLine d n b)
def bandLost (d : Dev) (s b : Nat) : Bool := (List.range (d.lan.n + 1)).any (fun m => lineGone d (bandLine d s b m))

/-! ### Changes of the records -/

/-- A block record changed (R213), in its line: two of its eight words. -/
def updBlk (n b : Nat) (f : Blk → Blk) (d : Dev) : Dev :=
  changeLine (blkLine d n b) [2 * (b % 4), 2 * (b % 4) + 1] false
    (updLan (fun l => { l with blk := tabSet Blk.reset l.blk (blkKey d.cfg n b) (f (blk d n b)) }) d)

/-- A read count set (R212): half a word of its line. -/
def putRdCount (n b v : Nat) (d : Dev) : Dev :=
  changeLine (rdLine d n b) [(rdOff d + 4 * (rank d.cfg n * areaB d + b)) / 8 % 8] true
    (updLan (fun l => { l with rdCnt := tabSet 0 l.rdCnt (blkKey d.cfg n b) v }) d)

def putBandMem (s b m v : Nat) (d : Dev) : Dev :=
  changeLine (bandLine d s b m) [(bandOff d / 8 + (s * areaB d + b) * (d.lan.n + 1) + m) % 8] false
    (updLan (fun l => { l with bandRec := tabSet bandMem0 l.bandRec (bandKey s b m) v }) d)

/-- A changed entry's line. -/
def dirtyEntry (g : Nat) (d : Dev) : Dev := changeLine (mapLine g) [g % 8] false d

/-! ### The journal buffer (R406 to R413) -/

/-- Records the buffer holds: 127 in each sector of jbuf_kib (R406, R413). -/
def jbufCap (d : Dev) : Nat := od d 0x2400 0x10 / 4 * 127

/-- Records that occupy the buffer: waiting, or in commits not yet committed (R413). A group's records lie in
the group area (R414). -/
def jbufUsed (d : Dev) : Nat :=
  d.clasp.jbuf.length + ((d.clasp.commits.filter (·.grp.isNone)).map (·.recs.length)).sum

/-- Appends a record; answers with its number through recNo. -/
def jAppend (r : JRec) (d : Dev) : Dev :=
  updClasp (fun c => { c with jbuf := c.jbuf ++ [r], recNo := c.recNo + 1 }) d

def jrec (t a b c : Nat) : JRec := { typ := t, flags := 0, grp := 0, aux := 0, a := a, b := b, c := c }

/-- A BLOCK record (R409): bstate changed, or the first program after an erase. -/
def jBlock (n b job : Nat) (d : Dev) : Dev :=
  let w := (blk d n b).word
  jAppend { jrec 2 (n + b * 65536) (w % 2 ^ 64) (w / 2 ^ 64) with aux := job } d

/-- A block's state set and journaled. -/
def setBstate (n b v : Nat) (d : Dev) : Dev := jBlock n b 0xFFFF (updBlk n b (fun x => { x with bstate := v }) d)

/-- A BAND record (R409). -/
def jBand (s b m : Nat) (d : Dev) : Dev :=
  jAppend (jrec 3 (fld s 0 16 + fld b 16 16 + fld m 32 5) (bandMem d s b m) 0) d

/-- A member cut at a row: the smallest row wins, and the record is journaled. -/
def cutMember (bd : Band) (m row : Nat) (d : Dev) : Dev :=
  let e := bandMem d bd.set bd.bidx m
  if bits e 32 13 ≤ row then d
  else jBand bd.set bd.bidx m (putBandMem bd.set bd.bidx m (memEntry row (bits e 16 12) (bits e 0 16)) d)

/-- Adds (or takes) a granule's units at the blocks that hold them (R208, R213). -/
def moveUnits (add : Bool) (e : Nat) (g : Gran) (d : Dev) : Dev :=
  if eTrim e then d
  else (List.range g.nsec).foldl (fun x i => match secAddr x e g.glog i with
    | none => x
    | some a => updBlk (aDie a) (aBlock a)
        (fun b => { b with vunits := if add then b.vunits + 1 else b.vunits - 1 }) x) d

/-! ### Versions: what earlier commands still see (R179, R226) -/

/-- The entry of a granule that a command with a fetch number sees. -/
def entryAt (d : Dev) (g no : Nat) : Nat :=
  let vs := (d.lan.hist.filter (fun v => v.gran == g && decide (v.no < no))).map (fun v => (v.no, v.entry))
  let cur := if tabGet 0 d.lan.verNo g < no then [(tabGet 0 d.lan.verNo g, mapE d g)] else []
  match (vs ++ cur).foldl (fun (b : Option (Nat × Nat)) x => match b with
      | none => some x
      | some y => if y.1 ≤ x.1 then some x else some y) none with
  | some x => x.2
  | none =>
    match d.lan.hist.find? (fun v => v.gran == g) with
    | some v => v.entry
    | none => mapE d g

/-- The number of the version that follows one of a granule: the command that replaced it. -/
def nextVer (d : Dev) (g no : Nat) : Nat :=
  ((d.lan.hist.filter (fun w => w.gran == g && decide (no < w.no))).map (·.no)).foldl min
    (if no < tabGet 0 d.lan.verNo g then tabGet 0 d.lan.verNo g else no)

/-- A command was fetched after a version was made and before its replacement. -/
def seesVer (d : Dev) (v : Ver) (c : Cmd) : Bool := decide (v.no < c.no) && decide (c.no < nextVer d v.gran v.no)

/-- A command still reads a granule of its range (R179, R226): it has not begun to, or its read is under way. -/
def stillReads (d : Dev) (tag : Nat) (c : Cmd) (g : Gran) : Bool :=
  [1, 2, 6, 7, 8].contains c.opc && decide (c.slba < g.first + g.nsec) && decide (g.first < c.slba + c.nsec) &&
  (c.st == .waiting || (c.st == .running && (([6, 7, 8].contains c.opc && !c.fin) ||
    d.lan.rjobs.any (fun r => r.gran == g.idx && r.own == .cmd tag) ||
    d.lan.wjobs.any (fun w => w.tag == some tag && w.gran == g.idx && (w.reads != 0 || (w.pieces.isEmpty && c.opc == 1))))))

/-- A version's units count on (R226): an open group could restore it, or a command fetched before its replacement is still
reading it. -/
def verReads (d : Dev) (v : Ver) : Bool :=
  d.groups.any (fun g => !g.aborted && g.chg.any (fun c => c.gran == v.gran && c.prev == v.entry)) ||
  (match granIdx d v.gran with
    | none => false
    | some g => d.cmds.any (fun c => seesVer d v c.2 && stillReads d c.1 c.2 g))

/-- A version is still looked at. -/
def verNeeded (d : Dev) (v : Ver) : Bool := verReads d v || d.cmds.any (fun c => seesVer d v c.2)

/-- Superseded entries nobody reads lose their units, and those nobody looks at are dropped (R208, R226). -/
def pruneVers (d : Dev) : Dev :=
  let gone := d.lan.hist.filter (fun v => v.held && !verReads d v)
  let d1 := updLan (fun l => { l with
    hist := (l.hist.filter (verNeeded d)).map (fun v => { v with held := v.held && verReads d v }) }) d
  gone.foldl (fun x v => match granIdx x v.gran with
    | some g => moveUnits false v.entry g x
    | none => x) d1

/-- A MAP record (R409) handed to Clasp; a group member's record waits in the group (R414). -/
def jMap (g e wseq flags : Nat) (d : Dev) : Dev := jAppend { jrec 1 g e wseq with flags := flags } d

/-- A map entry changed by a command with a fetch number (R208): if a later command has changed it
already, the new value is seen only by the commands between them (R179). -/
def changeEntry (g : Gran) (no e : Nat) (d : Dev) : Dev :=
  let last := tabGet 0 d.lan.verNo g.idx
  let d1 := moveUnits true e g d
  if no < last then
    pruneVers (updLan (fun l => { l with hist := l.hist ++ [⟨g.idx, no, e, true⟩] }) d1)
  else
    let d2 := updLan (fun l => { l with
      hist := l.hist ++ [⟨g.idx, last, mapE d g.idx, true⟩], verNo := tabSet 0 l.verNo g.idx no }) d1
    pruneVers (putMap g.idx e d2)

/-- The change took the newest place. -/
def isNewest (d : Dev) (g no : Nat) : Bool := decide (tabGet 0 d.lan.verNo g ≤ no)

end Sys2Proof.Machine
end

