-- ==== Sys2Proof/Machine/Seq.lean ====
section
/-! DEFINITION. The sequencer of a channel: its record, the ROM image's dispatch tables with the patches' entries over
them, and what a burst's start loads (08_microcode.md R317 to R326). -/

namespace Sys2Proof.Machine

/-- A channel's sequencer. -/
def seq (d : Dev) (ch : Nat) : Seq := tabGet Seq.reset d.seqs ch

/-- Changes a channel's sequencer. -/
def updSeq (ch : Nat) (f : Seq → Seq) (d : Dev) : Dev :=
  { d with seqs := tabSet Seq.reset d.seqs ch (f (seq d ch)) }

/-- An entry of the ROM image's dispatch tables (R324): tables 0 and 1 are valid where R325 and R328 use them, tables 4
to 7 hold no valid entry, and tables 2 and 3 belong to the ROM (log 10). -/
def romEntry (t i : Nat) : Nat :=
  let v := (Config.romDispatch t i).toNat
  if 4 ≤ t then 0
  else if 2 ≤ t then v
  else if (t = 0 ∧ i ≤ 0x12) ∨ (t = 1 ∧ i ≤ 3) then 0x8000 + v % 4096
  else 0

/-- The entry of a table as the channel has it. -/
def dispEntry (s : Seq) (t i : Nat) : Nat :=
  match s.disp.find? (fun x => x.1 == 64 * t + i) with
  | some x => x.2
  | none => romEntry t i

/-- The address of a valid entry. -/
def dispTarget (s : Seq) (t i : Nat) : Option (BitVec 12) :=
  let e := dispEntry s t i
  if bit e 15 then some (BitVec.ofNat 12 e) else none

/-- A register. -/
def Seq.reg (s : Seq) (r : BitVec 4) : BitVec 32 := tabGet 0 s.g r.toNat

/-- A register written. -/
def Seq.setReg (s : Seq) (r : BitVec 4) (v : BitVec 32) : Seq := { s with g := tabSet 0 s.g r.toNat v }

/-- The table 0 index of a burst (R325): an entry's operation where the burst is a command's. -/
def burstIdx (b : Burst) (op rop : Nat) (cache : Bool) : Nat :=
  match b with
  | .status _ => 3
  | .dataOut _ _ => 2
  | .suspend _ => 8
  | .resume _ => 9
  | .readCmd _ => if op = 3 then 0x0A else if cache then 1 else 0
  | .progCmd _ => 4
  | .dataIn _ _ => 5
  | .confirm _ => 6
  | .otherCmd _ =>
    if op = 2 then 7
    else if op = 3 then 0x0A
    else if op = 5 then 0x0D
    else if op = 7 then [0, 0, 4, 7, 3, 0x0D, 0x0C, 0x0B, 0x0E, 0x0F].getD rop 0
    else 0
  | .levels _ _ => 0x12
  | .lunReset _ => 0x0B
  | .train _ => 0x10

/-- The die within the channel that a burst serves. -/
def burstDie (b : Burst) : Nat :=
  match b with
  | .status k => k
  | .dataOut k _ => k
  | .suspend k => k
  | .resume k => k
  | .readCmd k => k
  | .progCmd k => k
  | .dataIn k _ => k
  | .confirm k => k
  | .otherCmd k => k
  | .levels k _ => k
  | .lunReset k => k
  | .train k => k

/-- The plane of a burst. -/
def burstPlane (b : Burst) : Nat :=
  match b with
  | .dataOut _ p => p
  | .dataIn _ p => p
  | _ => 0

/-- The registers at a burst's start (R326); g8 to g15 take free values from a number on. -/
def startRegs (c : Params) (k plane : Nat) (e : Option BEnt) (free : Nat) : Tab (BitVec 32) :=
  let f : BEnt → List Nat := fun e =>
    [e.block, e.page, fld e.pmask 4 8 + fld e.smask 0 4, fld e.lvl 0 8 + fld e.lstep 8 3,
     fld e.op 0 4 + fld e.cls 4 2 + fld (b2n e.slc) 6 1 + fld (b2n e.cache) 7 1 + fld (b2n e.itl) 8 1,
     e.sbPtr + 64 * (if e.op = 1 then 4 else (setBits e.smask 4).length) * (setBits e.pmask 8).idxOf plane]
  let l := (k / max 1 c.luns * 16 + k % max 1 c.luns) :: (match e with
    | some e => f e
    | none => [0, 0, 0, 0, 0, 0]) ++ [plane]
  let t := (l.zipIdx).foldl (fun t x => tabSet 0 t x.2 (BitVec.ofNat 32 x.1)) ([] : Tab (BitVec 32))
  (List.range 8).foldl (fun t i => tabSet 0 t (8 + i) (Config.freeWord (free + i))) t

/-- The scheduler starts a burst's routine (R325): through an invalid entry nothing runs. -/
def seqStart (ch idx k plane : Nat) (e : Option BEnt) (d : Dev) : Dev :=
  let t := dispTarget (seq d ch) 0 idx
  updSeq ch (fun s => { s with
    g := startRegs d.cfg k plane e d.free, pc := t.getD 0, stack := [], emask := 0, epend := 0, gap := 0,
    running := t.isSome, burst := idx, badStart := t.isNone, posts := [], lib := [], patched := false }) { d with free := d.free + 8 }

/-- A routine that has ended by the scheduler's word (R321). -/
def seqStop (ch : Nat) (d : Dev) : Dev :=
  updSeq ch (fun s => { s with running := false, badStart := false, stack := [], epend := 0, lib := [] }) d

end Sys2Proof.Machine
end

