-- ==== Sys2Proof/Machine/Telemetry.lean ====
section
/-! DEFINITION. Telemetry inputs, time base and supplies (02_ports.md R84 to R102, 11 R423). -/

namespace Sys2Proof.Machine

/-- The hold-up budget is valid (R423). -/
def budgetValid (t : Tele) : Bool := t.ever && !t.stale && !t.range && !t.above

/-- hu_status (R444). -/
def huStatus (t : Tele) : Nat :=
  b2n (budgetValid t) + 2 * b2n t.stale + 4 * b2n t.range + 8 * b2n t.above + 16 * b2n (!t.ever) +
  32 * b2n t.pf

/-- A sensor's record (R89). -/
def sensor (d : Dev) (i : Nat) : Sensor := tabGet Sensor.reset d.sensors i

/-- Changes a sensor's record. -/
def updSensor (i : Nat) (f : Sensor → Sensor) (d : Dev) : Dev :=
  { d with sensors := tabSet Sensor.reset d.sensors i (f (sensor d i)) }

/-- A hold-up report taken (R84, R85, R86, R423): 32 bits of energy and 8 of sequence number. -/
def takeReport (energy0 seq0 : Nat) (d : Dev) : Dev :=
  let energy := energy0 % 2 ^ 32
  let seq := seq0 % 2 ^ 8
  if d.tele.lastSeq = some seq then cnt 0x2403 7 d
  else
    let t := { d.tele with lastSeq := some seq, stale := false }
    if 0x7FFFFFFF < energy then cnt 0x2403 8 { d with tele := { t with range := true } }
    else
      put 0x2401 4 energy
        { d with tele := { t with ever := true, range := false, takenAt := d.up } }

/-- One sample of hu_vbus_mv (R84, R87): three consecutive samples above the ceiling, or above 30,000 mV, make the bus
count as above it, and three that are not make it count as back below; a sample above 30,000 mV that follows one at or
below it is counted. -/
def busSample (mv0 : Nat) (d : Dev) : Dev :=
  let mv := mv0 % 2 ^ 16
  let beyond := decide (30000 < mv)
  let high := beyond || decide (od d 0x2401 1 < mv)
  let nHigh := if high then min 3 (d.tele.nHigh + 1) else 0
  let nLow := if high then 0 else min 3 (d.tele.nLow + 1)
  let above := decide (nHigh = 3) || (d.tele.above && decide (nLow < 3))
  let d1 := if beyond ∧ ¬ d.tele.beyond then cnt 0x2403 8 d else d
  let d2 := if above ∧ ¬ d.tele.above then cnt 0x2403 0x0A d1 else d1
  { d2 with tele := { d2.tele with above := above, nHigh := nHigh, nLow := nLow, beyond := beyond } }

/-- Consecutive samples of the bus (R85, R87). -/
def busSamples (mvs : List Nat) (d : Dev) : Dev := mvs.foldl (fun x mv => busSample mv x) d

/-- |a - b| on the 64-bit clock. -/
def absDiff (a b : Nat) : Nat := if a ≤ b then b - a else a - b

/-- A timer's record. -/
def setTmr (k : Nat) (t : Tmr) (d : Dev) : Dev :=
  let l := tabInsert (tabErase d.tender.tmrs k) k t
  { d with tender := { d.tender with tmrs := l } }

/-- Tick times that a forward step passes over are skipped and counted (R455); the schedule goes on from the
first one not passed. -/
def skipTicks (now : Nat) (d : Dev) : Dev :=
  d.tender.tmrs.foldl (fun x t =>
    if now ≤ t.2.next then x
    else
      let k := (now - 1 - t.2.next) / max 1 t.2.period + 1
      let t1 := { t.2 with next := t.2.next + k * t.2.period }
      cntN (0x2510 + t.1) 5 k (setTmr t.1 t1 x)) d

/-- A sync applied: the clock is set, tb_state is LOCKED and tb_last_sync shows it (R90, R93). -/
def applySync (count : Nat) (d : Dev) : Dev :=
  let d1 := if d.ts < count then skipTicks count d else d
  put 0x2010 2 1 (put 0x2010 7 count
    { d1 with ts := count % 2 ^ 64, tele := { d.tele with tbPend := none } })

/-- A sync pulse (R91). Within the tolerance of the predicted time it is applied. Outside it, it is held;
a second sync that agrees with the held one applies the step, and one that does not is counted. -/
def sync (count : Nat) (d : Dev) : Dev :=
  match d.tele.tbPend with
  | some (c0, t0) =>
    if absDiff count (c0 + (d.ts - t0)) ≤ od d 0x2010 3 then cnt 0x2010 4 (applySync count
      { d with tele := { d.tele with steps := d.tele.steps + 1 } })
    else
      let d1 := cnt 0x2010 5 { d with tele := { d.tele with tbPend := none } }
      judge count d1
  | none => judge count d
where
  /-- A sync judged against the predicted time (R91). -/
  judge (count : Nat) (d : Dev) : Dev :=
    if absDiff count d.ts ≤ od d 0x2010 3 then applySync count d
    else put 0x2010 2 3 { d with tele := { d.tele with tbPend := some (count, d.ts) } }

/-- Into HOLDOVER, counted on entry (R92). In NO_SYNC there is no time base to lose (R92, log 17). -/
def holdover (d : Dev) : Dev :=
  if od d 0x2010 2 = 1 ∨ od d 0x2010 2 = 3 then
    cnt 0x2010 6 (put 0x2010 2 2 { d with tele := { d.tele with tbPend := none } })
  else d

/-- HOLDUP_REPORT (R86). -/
def execHoldupReport (energy seq : Nat) (s : State) : Host.Outcome State Fault Refusal :=
  run (takeReport energy seq) s

/-- HOLDUP_STALE (R86): a budget that was taken goes stale, counted once. -/
def execHoldupStale (s : State) : Host.Outcome State Fault Refusal :=
  run (fun d => if d.tele.lastSeq.isSome ∧ ¬ d.tele.stale then
      cnt 0x2403 9 { d with tele := { d.tele with stale := true } } else d) s

/-- VBUS_ABOVE_CEILING (R87). -/
def execVbusAboveCeiling (mvs : List Nat) (s : State) : Host.Outcome State Fault Refusal := run (busSamples mvs) s

/-- VBUS_BELOW_CEILING (R87). -/
def execVbusBelowCeiling (mvs : List Nat) (s : State) : Host.Outcome State Fault Refusal := run (fun d => busSamples mvs d) s

/-- PF_WARN (R88): asserted and latched. -/
def execPfWarn (s : State) : Host.Outcome State Fault Refusal :=
  run (fun d => { d with tele := { d.tele with pf := true } }) s

/-- PF_GLITCH (R88). -/
def execPfGlitch (s : State) : Host.Outcome State Fault Refusal := run (cnt 0x2403 0x0B) s

/-- SENSOR_REPORT (R84, R89): 16 bits of temperature in 1/16 degrees, range-checked, and 6 of sensor number. -/
def execSensorReport (id : Nat) (temp : Int) (s : State) : Host.Outcome State Fault Refusal :=
  let t := sext (ofInt temp 16) 16
  run (fun d => if t < -55 * 16 ∨ 150 * 16 < t then cnt 0x2902 1 d
    else updSensor (id % 64) (fun x => { x with last := t, seen := true, stale := false }) d) s

/-- SENSOR_STALE (R89). -/
def execSensorStale (id : Nat) (s : State) : Host.Outcome State Fault Refusal :=
  run (fun d => if id < 64 ∧ ¬ (sensor d id).stale then
    cnt 0x2902 2 (updSensor id (fun x => { x with stale := true }) d) else d) s

/-- TB_SYNC (R91). -/
def execTbSync (count : Nat) (s : State) : Host.Outcome State Fault Refusal := run (sync (count % 2 ^ 64)) s

/-- TB_CLOCK_LOSS (R92). -/
def execTbClockLoss (s : State) : Host.Outcome State Fault Refusal := run holdover s

/-- TB_SYNC_TIMEOUT (R92). -/
def execTbSyncTimeout (s : State) : Host.Outcome State Fault Refusal := run (fun d => holdover d) s

/-- PC_GLITCH (R95, R556). -/
def execPcGlitch (n : Nat) (s : State) : Host.Outcome State Fault Refusal :=
  run (fun d => if n < domainCount d.cfg then cnt 0x2902 3 d else d) s

/-- RB_GLITCH (R82, R556). -/
def execRbGlitch (ch t : Nat) (s : State) : Host.Outcome State Fault Refusal :=
  run (fun d => if ch < d.cfg.channels ∧ t < d.cfg.targets then cnt 0x2902 4 d else d) s

/-- WRST_GLITCH (R96, R556). -/
def execWrstGlitch (s : State) : Host.Outcome State Fault Refusal := run (cnt 0x2902 5) s

end Sys2Proof.Machine
end

