-- ==== Sys2Proof/Machine/Therm.lean ====
section
/-! DEFINITION. The thermal model (16_thermal.md R536 to R552). -/

namespace Sys2Proof.Machine

/-- A node's record. -/
def node (d : Dev) (n : Nat) : Node := tabGet Node.reset d.nodes n

/-- Changes a node's record. -/
def updNode (n : Nat) (f : Node → Node) (d : Dev) : Dev :=
  { d with nodes := tabSet Node.reset d.nodes n (f (node d n)) }

/-- The tables as the entries hold them now. -/
def tmuTabs (d : Dev) : List Nat × Bytes × Bytes × Bytes :=
  ((List.range 7).map (fun i => od d 0x2804 (i + 1)), getB d 0x2805 1, getB d 0x2805 3, getB d 0x2805 2)

/-- The tables in force: table and map writes take effect at the next loop (R552). -/
def tmu (d : Dev) : List Nat × Bytes × Bytes × Bytes := d.therm.tabs.getD (tmuTabs d)

/-- Table energy or idle power, 0 to 6 (R552). -/
def tmuE (d : Dev) (i : Nat) : Nat := (tmu d).1.getD i 0

/-- The package node of a die (R536). -/
def dieNode (d : Dev) (n : Nat) : Nat := ((tmu d).2.1.getD (rank d.cfg n) 0).toNat

/-- The CU node of a channel. -/
def cuNode (ch : Nat) : Nat := 256 + ch

/-- A node in use (R536). -/
def nodeUsed (d : Dev) (n : Nat) : Bool :=
  if n < 256 then (allDies d.cfg).any (fun x => dieNode d x == n) else n - 256 < d.cfg.channels

/-- The nodes in use. -/
def usedNodes (d : Dev) : List Nat := (List.range 288).filter (nodeUsed d)

/-- A sensor is fresh, not suspect and on a used node (R544). -/
def sensorNode (d : Dev) (s : Nat) : Nat := leAt (tmu d).2.2.2 (4 * s) 2
def sensorFresh (d : Dev) (s : Nat) : Bool := (sensor d s).seen && !(sensor d s).stale
def sensorTrusted (d : Dev) (s : Nat) : Bool :=
  sensorFresh d s && !(sensor d s).suspect && sensorNode d s < 288 && nodeUsed d (sensorNode d s)

/-- T_amb in 2^-16 degrees (R537): a trusted reading of the ambient sensor, else t_amb_c. -/
def tAmb (d : Dev) : Int :=
  let s := od d 0x2800 4
  if s < 64 ∧ sensorFresh d s ∧ ¬ (sensor d s).suspect then (sensor d s).last * 4096
  else odI d 0x2800 3 * 65536

/-- A node's estimate in 2^-16 degrees; an unused node reads the ambient (R536). -/
def nodeT (d : Dev) (n : Nat) : Int := if nodeUsed d n then (node d n).t else tAmb d

/-- A node's level; an unused node is NORMAL. -/
def nodeLevel (d : Dev) (n : Nat) : Nat := if nodeUsed d n then (node d n).level else 2

/-- Whole degrees, halves away from zero (R539). -/
def wholeC (t : Int) : Int := roundDiv t 65536

/-- The estimate of a die in whole degrees. -/
def dieC (d : Dev) (n : Nat) : Int := wholeC (nodeT d (dieNode d n))

/-- The level a die acts on: its package's, or SHUTDOWN with its CU (R546). -/
def dieLevel (d : Dev) (n : Nat) : Nat :=
  if nodeLevel d (cuNode (dieCh n)) = 5 then 5 else nodeLevel d (dieNode d n)

/-- Charges energy in nJ to a node (R538). -/
def charge (n nj : Nat) (d : Dev) : Dev :=
  if nodeUsed d n then updNode n (fun x => { x with energy := x.energy + nj }) d else d

/-- Charges a die's package. -/
def chargeDie (n nj : Nat) (d : Dev) : Dev := charge (dieNode d n) nj d

/-- Bytes of codewords moved on a die's bus (R538): e_xfer_nj_kib per KiB. -/
def chargeXfer (n bytes : Nat) (d : Dev) : Dev := chargeDie n (tmuE d 5 * bytes / 1024) d

/-- Thresholds of a node's class: index 0x2801 for packages, 0x2802 for CUs (R545). -/
def thIdx (n : Nat) : Nat := if n < 256 then 0x2801 else 0x2802

/-- A hot level 3 to 5 holds: entered, or entered before and not left (R545). -/
def hotOn (d : Dev) (n lvl : Nat) (t : Int) (cur : Nat) : Bool :=
  let thr := odI d (thIdx n) (lvl - 2) * 65536
  let h := (od d (thIdx n) (lvl + 3) : Int) * 65536
  decide (thr ≤ t) || (decide (lvl ≤ cur) && decide (thr - h < t))

/-- A cold level 1 or 0 holds (R545): only under profile C. -/
def coldOn (d : Dev) (n lvl : Nat) (t : Int) (cur : Nat) : Bool :=
  let thr := odI d (thIdx n) (5 - lvl) * 65536
  let h := (od d (thIdx n) (0x0A - lvl) : Int) * 65536
  od d 0x2800 1 == 1 && (decide (t ≤ thr) || (decide (cur ≤ lvl) && decide (t < thr + h)))

/-- The level judged on t (R545): the most severe one entered and not left. -/
def nextLevel (d : Dev) (n : Nat) (t : Int) (cur : Nat) : Nat :=
  if hotOn d n 5 t cur then 5 else if hotOn d n 4 t cur then 4 else if hotOn d n 3 t cur then 3
  else if coldOn d n 0 t cur then 0 else if coldOn d n 1 t cur then 1 else 2

/-- A node's level set: each change is counted, rings Bell, and SHUTDOWN raises THERMAL (R545, R546, R550). -/
def setLevel (n lvl : Nat) (d : Dev) : Dev :=
  if (node d n).level = lvl then d
  else
    let d1 := ringUnit .ao (od d 0x2800 0x0A) (cnt 0x2807 1 (updNode n (fun x => { x with level := lvl }) d))
    if lvl = 5 then fault 8 1 0xFFFF n (ofInt (tdiv (node d n).t 4096) 32) d1 else d1

/-- A node's parameter pair: r in 0.01 degrees per W, tau in ms. -/
def nodeR (d : Dev) (n : Nat) : Nat := leAt (tmu d).2.2.1 (4 * n) 2
def nodeTau (d : Dev) (n : Nat) : Nat := leAt (tmu d).2.2.1 (4 * n + 2) 2

/-- R539 for one node: target = t_amb + r * p, with the energy scaled by the gain (R538), and a step of
(target - t) / tau truncated toward zero. -/
def stepT (amb t : Int) (r tau nj gain : Nat) : Int :=
  let target := amb + tdiv ((r * nj * gain : Nat) * 256 : Int) 100000000
  if tau = 0 then Config.tauZero (target - t) else t + tdiv (target - t) tau

/-- A node through a model step: idle power of its dies charged, t advanced, level judged. -/
def stepNode (n : Nat) (d : Dev) : Dev :=
  let idle := if n < 256 then
      ((allDies d.cfg).filter (fun x => dieNode d x == n && (die d x).st != .off)).length * tmuE d 6 * 1000
    else 0
  let x := node d n
  let t := stepT (tAmb d) x.t (nodeR d n) (nodeTau d n) (x.energy + idle) (if n < 256 then x.gain else 256)
  let d1 := updNode n (fun y => { y with t := t, energy := 0 }) d
  if d.therm.loopDone then setLevel n (nextLevel d n t x.level) d1 else d1

/-- The channel's interface is one that training applies to (R305). -/
def trainable (d : Dev) (ch : Nat) : Bool := [2, 3, 4, 5].contains (od d (0x3009 + 0x40 * ch) 1)

/-- A retraining of a target is wanted: triggers merge (R308). -/
def wantTrain (ch t : Nat) (d : Dev) : Dev :=
  if ¬ trainable d ch then d
  else updChan ch (fun c => { c with trainWait := if c.trainWait.contains t then c.trainWait else c.trainWait ++ [t] }) d

/-- tr_state of a target's training record: 0 NONE, 1 PASS, 2 MARGINAL, 3 FAIL (R310). -/
def trainState (d : Dev) (ch t : Nat) : Nat := leAt (tabGet (zeros 48) (chan d ch).trains t) 0 1

/-- The temperature trigger (R308): a die's estimate differs from tr_temp by more than rt_temp_c. -/
def tempTrigger (d : Dev) (ch t : Nat) : Bool :=
  trainState d ch t != 0 &&
  (List.range d.cfg.luns).any (fun l =>
    let n := dieNo ch t l
    present d n && decide ((od d (0x300B + 0x40 * ch) 3 : Int) <
      (dieC d n - sext (leAt (tabGet (zeros 48) (chan d ch).trains t) 44 1) 8).natAbs))

/-- MODEL_STEP (R539, R545, R308). -/
def modelStep (d : Dev) : Dev :=
  let d1 := (usedNodes d).foldl (fun x n => stepNode n x) d
  (List.range d.cfg.channels).foldl (fun x ch => (List.range d.cfg.targets).foldl
    (fun y t => if tempTrigger y ch t then wantTrain ch t y else y) x) d1

/-- The mean of a list in 2^-16 degrees, truncated. -/
def meanI (l : List Int) : Int := tdiv l.sum l.length

/-- The trusted readings of a node in 2^-16 degrees (R540). -/
def readings (d : Dev) (n : Nat) : List Int :=
  (d.therm.dieRd.filter (fun x => dieNode d x.1 == n)).map (fun x => x.2 * 65536) ++
  ((List.range 64).filter (fun s => sensorTrusted d s && sensorNode d s == n)).map
    (fun s => (sensor d s).last * 4096)

/-- The correction of a node (R540); the first loop sets every node. -/
def correct (d0 : Dev) (n : Nat) (d : Dev) : Dev :=
  let rd := readings d0 n
  if ¬ d0.therm.loopDone then
    updNode n (fun x => { x with t := if rd.isEmpty then tAmb d0 else meanI rd }) d
  else if rd.isEmpty then d
  else
    updNode n (fun x =>
      let e := meanI rd - x.t
      { x with
        t := x.t + tdiv (e * od d0 0x2800 5) 256,
        gain := if n < 256 ∧ 32768 ≤ e.natAbs then
            (clip ((x.gain : Int) + (if e < 0 then -1 else 1)) 128 512).toNat else x.gain }) d

/-- Two temperatures in 1/16 degrees differ by more than suspect_margin_c. -/
def disagrees (d : Dev) (a b : Int) : Bool := decide (od d 0x2800 6 * 16 < (a - b).natAbs)

/-- The cross-check of a sensor (R543). -/
def failsCheck (d : Dev) (s : Nat) : Bool :=
  let v := (sensor d s).last
  let nb := [leAt (tmu d).2.2.2 (4 * s + 2) 1, leAt (tmu d).2.2.2 (4 * s + 3) 1].filter
    (fun x => x < 64 && sensorFresh d x && !(sensor d x).suspect)
  disagrees d v (tdiv (nodeT d (sensorNode d s)) 4096) && nb.all (fun x => disagrees d v (sensor d x).last)

/-- The cross-check of the sensors with the trust states at the start of the loop (R543, R544, R550). -/
def crossCheck (d0 : Dev) (s : Nat) (d : Dev) : Dev :=
  if ¬ sensorTrusted d0 s then d
  else if ¬ failsCheck d0 s then updSensor s (fun x => { x with fails := 0 }) d
  else
    let f := (sensor d s).fails + 1
    if od d 0x2800 7 ≤ f then
      ringUnit .ao (od d 0x2800 0x0A) (cnt 0x2807 4
        (updSensor s (fun x => { x with fails := 0, suspect := true }) d))
    else updSensor s (fun x => { x with fails := f }) d

/-- CU_ENERGY_REPORT (R538): a CU whose domains are not ON is charged nothing. -/
def execCuEnergyReport (ch uj : Nat) (s : State) : Host.Outcome State Fault Refusal :=
  run (fun d => if ch < d.cfg.channels ∧ chanOn d ch then
      charge (cuNode ch) (uj * 1000) { d with therm := { d.therm with cuUj := d.therm.cuUj + uj } }
    else d) s

/-- MODEL_STEP. -/
def execModelStep (s : State) : Host.Outcome State Fault Refusal := run modelStep s

end Sys2Proof.Machine
end

