-- ==== Sys2Proof/Machine/Buoy.lean ====
section
/-! DEFINITION. Buoy queues, die scheduling and the choice of the next bus burst
(06_die_scheduling.md R243 to R266). -/

namespace Sys2Proof.Machine

/-- A channel's OD index for i = 0 to 0x0E. -/
def chIdx (ch i : Nat) : Nat := 0x3000 + 0x40 * ch + i

/-- The entry of a die by its qseq. -/
def entOf (x : Die) (s : Nat) : Option BEnt := x.q.find? (fun e => e.qseq == s)

/-- Changes the entry of a die by its qseq. -/
def updEnt (n s : Nat) (f : BEnt → BEnt) (d : Dev) : Dev :=
  updDie n (fun x => { x with q := updWhere (fun e => e.qseq == s) f x.q }) d

/-- A read keeps its slot from step 0 until its last codeword leaves step 4, also while no entry of it is queued
(R245, R378). -/
def keptSlots (d : Dev) (n : Nat) : Nat :=
  let ch := chan d (dieCh n)
  (d.lan.rjobs.filter (fun r => aDie r.addr == n && r.st == .issued &&
    ch.raw.any (fun c => c.rid == r.id) &&
    !((die d n).q.any (fun e => match e.own with
      | .reads l => l.contains r.id
      | _ => false)))).length

/-- buoy_used of a die (R244, R245). -/
def buoyUsed (d : Dev) (n : Nat) : Nat := (die d n).q.length + keptSlots d n

/-- Entries in use on a channel. -/
def poolUsed (d : Dev) (ch : Nat) : Nat :=
  ((List.range (diesPerCh d.cfg)).map (fun k => buoyUsed d (dieAt d.cfg ch k))).sum

/-- A free Buoy slot (R244) on a channel that is not being reset (R577). -/
def slotFree (d : Dev) (n : Nat) : Bool :=
  !d.rst.chans.contains (dieCh n) && decide (buoyUsed d n < od d (chIdx (dieCh n) 0) 1) &&
  decide (poolUsed d (dieCh n) < od d (chIdx (dieCh n) 0) 2)

/-- A slot for a new entry: while a block or soft reset drains, only commits in flight go on (R575). -/
def freeSlot (d : Dev) (n : Nat) : Bool := d.rst.kind.isNone && slotFree d n

/-- An entry with its defaults; the rest is filled in by the caller. -/
def ent (op cls : Nat) (own : EOwn) : BEnt :=
  { tag := 0, itl := true, op := op, cls := cls, slc := false, cache := false, pmask := 0, smask := 0,
    block := 0, page := 0, lvl := 0, lstep := 0, sbPtr := 0, est := 0, qseq := 0, own := own, t0 := 0,
    heldCnt := false, thCnt := false, again := false, noted := false }

/-- wait_us of an entry (R247). -/
def waitUs (d : Dev) (e : BEnt) : Nat := satTo ((d.up - e.t0) / 1000) 0xFFFF

/-- The 128 bits of an entry (R247). -/
def BEnt.word (d : Dev) (e : BEnt) : Nat :=
  fld e.tag 115 13 + fld (b2n e.itl) 114 1 + fld e.op 110 4 + fld e.cls 108 2 + fld (b2n e.slc) 107 1 +
  fld (b2n e.cache) 106 1 + fld e.pmask 98 8 + fld e.smask 94 4 + fld e.block 78 16 + fld e.page 66 12 +
  fld e.lvl 58 8 + fld e.lstep 55 3 + fld e.sbPtr 36 19 + fld (waitUs d e) 20 16 + fld e.est 16 4 +
  fld e.qseq 0 16

/-- The next page of a block (R251). -/
def nextPg (x : Die) (b : Nat) : Nat := tabGet 0 x.nextPage b

/-- A write job by its number. -/
def wjob (d : Dev) (id : Nat) : Option WJob := d.lan.wjobs.find? (fun w => w.id == id)

/-- A band by its number. -/
def band (d : Dev) (id : Nat) : Option Band := d.lan.bands.find? (fun b => b.id == id)

/-- Programmed members of an open row are read to rebuild an entry of its accumulator (R486). -/
def accFixing (d : Dev) (b r : Nat) : Bool := d.lan.rjobs.any (fun j => j.own == .acc b r)

/-- The data of a program has landed in SB (R206, R250): the slot is full, or padded, and so has every
sector placed in it; a row's parity waits while its accumulator is rebuilt (R486). -/
def dataLanded (d : Dev) (e : BEnt) : Bool :=
  match e.own with
  | .slot b r j => match band d b with
    | none => false
    | some bd => match bd.rows.find? (fun x => x.row == r) with
      | none => false
      | some rw => match rw.slots[j]? with
        | none => false
        | some m => decide (m.used + 1 = 2 ^ (4 * planes d)) && m.uses.all (fun u => match wjob d u.job with
          | none => true
          | some w => (List.range u.cnt).all (fun i => bit w.landed (u.sec + i) || bit w.bad (u.sec + i)))
  | .parity b r => !accFixing d b r
  | _ => true

/-- The thermal model holds a program (R546 to R548): Clasp's are never held. -/
def thermalHold (d : Dev) (n : Nat) (e : BEnt) : Bool :=
  match e.own with
  | .clasp .. => false
  | _ => d.clasp.flush.isNone && (match dieLevel d n with
    | 5 => true
    | 4 => !(die d n).released
    | 0 => od d 0x2803 3 == 0 && !(die d n).released
    | _ => false)

/-- The key of a block's next page: Clasp programs each plane of a block apart (R402). -/
def pageKey (e : BEnt) : Nat :=
  match e.own with
  | .clasp .. => e.block + 65536 * Nat.log2 e.pmask
  | _ => e.block

/-- Conditions 3 to 6 of R250, for an entry with those queued before it. -/
def orderOk (d : Dev) (n : Nat) (before : List BEnt) (e : BEnt) : Bool :=
  if e.op = 1 then
    e.page == nextPg (die d n) (pageKey e) && dataLanded d e &&
    before.all (fun x => x.op == 1 || x.block != e.block) && !thermalHold d n e
  else before.all (fun x => x.block != e.block)

/-- Conditions 1 and 2 of R250. -/
def maintOk (x : Die) (before : List BEnt) (e : BEnt) : Bool :=
  before.all (fun y => y.cls != 3) &&
  (e.cls != 3 || (before.isEmpty && x.st == .idle && x.cur.isNone))

/-- During the emergency flush only the programs of commits in flight are issued (R428). -/
def flushLets (d : Dev) (e : BEnt) : Bool :=
  d.clasp.flush.isNone || (match e.own with
    | .clasp c _ _ => c != 0
    | _ => false)

/-- The eligible entries of a die not yet issued, oldest first (R250). -/
def eligEnts (d : Dev) (n : Nat) : List BEnt :=
  let go := (die d n).q.foldl (fun (a : List BEnt × List BEnt) e =>
    (a.1 ++ [e], if e.est < 3 ∧ flushLets d e ∧ maintOk (die d n) a.1 e ∧ orderOk d n a.1 e then a.2 ++ [e] else a.2))
    ([], [])
  go.2

/-- Programs below their block's next page (R251): never issued, each raised once as a SEQUENCE fault. They keep their
place in the queue: the spec gives them no end (DESIGN CHOICE, log 83). -/
def pageFaults (n : Nat) (d : Dev) : Dev :=
  let late := fun (e : BEnt) => e.op == 1 && decide (e.est < 3) && !e.noted && decide (e.page < nextPg (die d n) (pageKey e))
  ((die d n).q.filter late).foldl (fun x e => fault 2 1 (domCh (dieCh n) 3) n (fld e.block 0 16 + fld e.page 16 12)
    (updEnt n e.qseq (fun y => { y with noted := true }) x)) d

/-- Marks entries that wait only because of conditions 3 to 6 as HELD, each counted once, and programs the
thermal model holds (R250, R552). -/
def markHeld (n : Nat) (d : Dev) : Dev :=
  let x := die d n
  let go := x.q.foldl (fun (a : List BEnt × List BEnt × Nat × Nat) e =>
    let order := orderOk d n a.1 e
    let own := maintOk x a.1 e
    let held := e.est < 3 && own && !order
    let th := held && e.op == 1 && thermalHold d n e
    let e1 := if e.est < 3 then
        { e with
              est := if held then 1 else if own && order then 2 else 0,
                 heldCnt := e.heldCnt || held, thCnt := e.thCnt || th }
      else e
    (a.1 ++ [e], a.2.1 ++ [e1], a.2.2.1 + b2n (held && !e.heldCnt), a.2.2.2 + b2n (th && !e.thCnt)))
    ([], [], 0, 0)
  cntN 0x2807 6 go.2.2.2 (cntN (chIdx (dieCh n) 4) 0x0B go.2.2.1
    (updDie n (fun y => { y with q := go.2.1 }) d))

/-- What the next-operation procedure answers (R252). -/
inductive NextOp where
  | none | resume | issue (e : BEnt) (aged : Bool)
  deriving DecidableEq, Repr

/-- A retraining is queued on another LUN of the die's target (R309). -/
def otherTrain (d : Dev) (n : Nat) : Bool :=
  (List.range d.cfg.luns).any (fun l =>
    let m := dieNo (dieCh n) (dieTgt n) l
    m != n && (die d m).q.any (fun e => e.own == .train))

/-- The procedure of R252. After cache ready, only the next program of the run may follow (R249, R256). -/
def nextOp0 (d : Dev) (n : Nat) : NextOp :=
  let x := die d n
  let el := eligEnts d n
  let rd := (el.find? (fun e => e.op == 0 && e.cls == 0)).or (el.find? (fun e => e.op == 0 && e.cls ≠ 3))
  let w := el.find? (fun e => (e.op == 1 || e.op == 2) && e.cls ≠ 3)
  let aged : Bool := match w with
    | some e => decide (od d (chIdx (dieCh n) 0) 3 ≤ waitUs d e)
    | none => false
  if x.st = .suspended then
    match rd with
    | some e =>
      if x.readsSusp < od d (chIdx (dieCh n) 2) 5 ∧ ¬ x.holdExp ∧
          (d.up - x.suspAt) / 1000 < od d (chIdx (dieCh n) 2) 4 then
        (if x.cur.isNone then .issue e false else .none)
      else if x.cur.isNone then .resume else .none
    | none => if x.cur.isNone then .resume else .none
  else if x.st = .prog ∧ x.cacheRdy ∧ x.cur.isNone then
    match w with
    | some e => if e.op = 1 ∧ (rd.isNone ∨ aged) then .issue e aged else .none
    | none => .none
  else if x.st ≠ .idle ∨ x.cur.isSome then .none
  else if aged then (match w with
    | some e => .issue e true
    | none => .none)
  else match rd, w with
    | some e, _ => .issue e false
    | none, some e => .issue e false
    | none, none => match el.find? (fun e => e.op == 3 || e.cls == 3) with
      | some e => .issue e false
      | none => .none

/-- R252 with R309: nothing is issued beside a queued retraining of the target, and the retraining itself is no
burst of the die's. -/
def nextOp (d : Dev) (n : Nat) : NextOp :=
  match nextOp0 d n with
  | .issue e a =>
    if otherTrain d n ∨ e.own = .train then (if (die d n).st = .suspended then .resume else .none) else .issue e a
  | x => x

/-- Another die of the target is inside a multi-plane sequence (R254). -/
def multiBlocks (d : Dev) (n : Nat) : Bool :=
  (chan d (dieCh n)).multi.any (fun m => m.1 == dieTgt n && m.2 != dieK d.cfg n)

/-- Entries of the raw buffer of 16 in use (R37). -/
def rawUsed (c : Chan) : Nat := (c.raw.map (·.ents)).sum

/-- Entries a codeword holds in a ladder step (R389). -/
def stepEnts (step : Nat) : Nat := if step = 3 then 2 else if step = 4 then 3 else 1

/-- New raw-buffer entries that the data-out of an entry's plane needs (R37): one for each codeword it brings that holds
none, and what a soft codeword's step adds to those it holds. -/
def rawNeed (d : Dev) (ch : Nat) (e : BEnt) (plane : Nat) : Nat :=
  match e.own with
  | .reads l => ((d.lan.rjobs.filter (fun r => l.contains r.id && aPlane r.addr == plane)).map (fun r =>
      (((List.range 4).filter (fun s => bit e.smask s && r.secs.any (fun x => x.slot == s && !x.fin))).map (fun s =>
        match (chan d ch).raw.find? (fun c => c.rid == r.id && c.slot == s) with
        | some c => stepEnts c.step - c.ents
        | none => 1)).sum)).sum
  | _ => 0

/-- The erase has run susp_gap_us since its start or last resume (R265). -/
def gapOver (d : Dev) (n : Nat) : Bool :=
  (die d n).gapOk || decide (od d (chIdx (dieCh n) 2) 6 * 1000 ≤ d.up - (die d n).start)

/-- The group of a channel (R383). -/
def lmGroup (d : Dev) (ch : Nat) : Nat := bits (od d 0x2301 5) (2 * ch) 2

/-- The index of a group's entries (R400). -/
def lgIdx (g : Nat) : Nat := 0x2310 + g

/-- The feature address of a mode (R387); 0: the dies take no offsets. -/
def featAddr (d : Dev) (g : Nat) (slc : Bool) : Nat := od d (lgIdx g) (if slc then 6 else 5)

/-- The die does not hold the level-set slot that a read names: it is set first (R386). -/
def wantsLevels (d : Dev) (n : Nat) (e : BEnt) : Bool :=
  e.op == 0 && (die d n).lvlSlot != some e.lvl && featAddr d (lmGroup d (dieCh n)) e.slc != 0

/-- Another LUN of a die's target is in RESET with its reset sent (R255). -/
def resetRuns (d : Dev) (n : Nat) : Bool :=
  (List.range d.cfg.luns).any (fun l =>
    let m := dieNo (dieCh n) (dieTgt n) l
    m != n && (die d m).st == .reset && !(die d m).rstDue)

/-- A retraining may start (R309): its entry heads its queue and every LUN of the target is IDLE or FAILED. -/
def trainHead (d : Dev) (n : Nat) : Bool :=
  ((die d n).q.head?.map (fun e => e.own == .train && decide (e.est < 3))).getD false &&
  (List.range d.cfg.luns).all (fun l =>
    let x := die d (dieNo (dieCh n) (dieTgt n) l)
    (x.st == .idle && x.cur.isNone) || x.st == .failed || x.st == .off)

/-- The burst of a class that is ready on a die (R253). -/
def burstOf (d : Dev) (n cls : Nat) : Option Burst :=
  let x := die d n
  let k := dieK d.cfg n
  let ch := dieCh n
  match cls with
  | 1 => if x.statusDue ∧ ¬ x.resumeDue then some (.status k) else none
  | 2 => match x.cur, x.outLeft with
    | some s, p :: _ => match entOf x s with
      | some e => if rawUsed (chan d ch) + rawNeed d ch e p ≤ 16 then some (.dataOut k p) else none
      | none => none
    | _, _ => none
  | 3 =>
    if x.resumeDue ∧ x.statusDue then some (.resume k)
    else if x.st = .erase ∧ x.suspReq ∧ gapOver d n ∧ ¬ x.statusDue then some (.suspend k)
    else if nextOp d n = .resume then some (.resume k) else none
  | 4 => match nextOp d n with
    | .issue e _ => if (e.op = 0 ∨ e.op = 3) ∧ e.cls ≠ 3 then
        some (if wantsLevels d n e then .levels k e.lvl else .readCmd k) else none
    | _ => none
  | 5 => match x.cur, x.inLeft with
    | some s, p :: _ => match entOf x s with
      | some e => if e.op = 1 ∨ e.op = 7 then some (.dataIn k p) else none
      | none => none
    | some s, [] => match entOf x s with
      | some e => if e.est = 4 then some (.confirm k) else none
      | none => none
    | none, _ => match nextOp d n with
      | .issue e _ => if e.op = 1 ∧ e.cls ≠ 3 then some (.progCmd k) else none
      | _ => none
  | _ =>
    if x.st = .reset ∧ x.rstDue then (if resetRuns d n then none else some (.lunReset k))
    else if trainHead d n then some (.train k)
    else match nextOp d n with
      | .issue e _ =>
        if e.own = .raw ∧ (d.rawp.rop = 7 ∧ resetRuns d n ∨ (d.rawp.rop = 2 ∨ d.rawp.rop = 3) ∧ ¬ e.noted) then none
        else if e.op = 2 ∨ e.cls = 3 then some (if wantsLevels d n e then .levels k e.lvl else .otherCmd k) else none
      | _ => none

/-- The first die of a class in round-robin order with a burst that R254 allows. -/
def findBurst (d : Dev) (ch cls : Nat) : Option (Nat × Burst) :=
  let m := diesPerCh d.cfg
  let start := (chan d ch).last.getD (cls - 1) 0
  (List.range m).findSome? (fun i =>
    let k := (start + 1 + i) % m
    let n := dieAt d.cfg ch k
    if multiBlocks d n then none else (burstOf d n cls).map (fun b => (k, b)))

/-- The choice of R253 over the six classes. -/
def pickBurst (d : Dev) (ch : Nat) : Option (Nat × Nat × Burst) :=
  [1, 2, 3, 4, 5, 6].findSome? (fun c => (findBurst d ch c).map (fun x => (c, x.1, x.2)))

/-- Reads that differ only in plane merge into one entry before issue (R257). -/
def mergeReads (n s : Nat) (d : Dev) : Dev :=
  match entOf (die d n) s with
  | none => d
  | some e =>
    if od d (chIdx (dieCh n) 0) 8 = 0 ∨ e.op ≠ 0 ∨ e.cls = 3 then d
    else
      let same := fun (y : BEnt) => y.qseq != e.qseq && y.op == 0 && decide (y.est < 3) && y.cls != 3 &&
        y.block == e.block && y.page == e.page && y.smask == e.smask && y.slc == e.slc &&
        y.lvl == e.lvl && y.lstep == e.lstep && nAnd y.pmask e.pmask == 0
      let go := (die d n).q.foldl (fun (a : BEnt) y =>
        if same y && nAnd y.pmask a.pmask == 0 then
          { a with
                pmask := a.pmask + y.pmask, own := match a.own, y.own with
              | .reads l, .reads m => .reads (l ++ m)
              | o, _ => o }
        else a) e
      let ids := match go.own with
        | .reads l => l
        | _ => []
      updDie n (fun x => { x with
            q := (x.q.filter (fun y => y.qseq == e.qseq || !(match y.own with
          | .reads l => l.any ids.contains
          | _ => false))).map (fun y => if y.qseq = e.qseq then go else y) }) d

/-- A program is issued as a cache program when the next eligible entry is the next page of its block (R256). -/
def cacheNext (d : Dev) (n : Nat) (e : BEnt) : Bool :=
  od d (chIdx (dieCh n) 0) 6 == 1 &&
  (match (die d n).q.filter (fun y => y.qseq != e.qseq && decide (y.est < 3)) with
   | y :: _ => y.op == 1 && pageKey y == pageKey e && y.page == e.page + 1 && y.slc == e.slc &&
       dataLanded d y && !thermalHold d n y
   | [] => false)

/-- A class 1 read is issued as a cache read when the entry queued behind it is the class 1 read of the next page of its
block and nothing else of the die is eligible (R257). -/
def cacheRead (d : Dev) (n : Nat) (e : BEnt) : Bool :=
  od d (chIdx (dieCh n) 0) 7 == 1 && e.op == 0 && e.cls == 1 &&
  (match ((die d n).q.dropWhile (fun y => y.qseq != e.qseq)).drop 1 with
   | y :: _ => y.op == 0 && y.cls == 1 && y.block == e.block && y.page == e.page + 1
   | [] => false) &&
  (eligEnts d n).all (fun y => y.op == 0 && y.cls == 1 && y.block == e.block)

/-- The entry that nextOp chose becomes the one in hand (R252). -/
def takeEnt (n : Nat) (e : BEnt) (aged : Bool) (d : Dev) : Dev :=
  let ch := dieCh n
  let d1 := if aged then cnt (chIdx ch 4) 0x0C d else d
  let d2 := mergeReads n e.qseq d1
  let cp := e.op == 1 && cacheNext d2 n e
  let idx := if e.op = 0 ∨ e.op = 3 then 1 else if e.op = 1 then 2 else 3
  let d3 := if e.op ≤ 3 then cnt (chIdx ch 4) idx d2 else d2
  let d4 := if cp then cnt (chIdx ch 4) 0x0D d3 else d3
  updEnt n e.qseq (fun y => { y with est := 3, cache := cp || cacheRead d2 n e })
    (updDie n (fun x => { x with
      cur := some e.qseq,
      readsSusp := if x.st = .suspended then x.readsSusp + 1 else x.readsSusp }) d4)

/-- The bus is taken and the entry a burst begins becomes the one in hand (R253). -/
def takeBurst (ch cls k : Nat) (b : Burst) (d : Dev) : Dev :=
  let n := dieAt d.cfg ch k
  let d1 := sendVia (.buoy ch) (.seqr ch) .req 1
    (updChan ch (fun c => { c with bus := some b, busT0 := d.up, last := c.last.set (cls - 1) k }) d)
  match b with
  | .readCmd _ => (match nextOp d n with
    | .issue e a => takeEnt n e a d1
    | _ => d1)
  | .progCmd _ => (match nextOp d n with
    | .issue e a => takeEnt n e a (updChan ch (fun c => { c with multi := c.multi ++ [(dieTgt n, k)] }) d1)
    | _ => d1)
  | .otherCmd _ => (match nextOp d n with
    | .issue e a => takeEnt n e a d1
    | _ => d1)
  | .train _ => updDie n (fun x => { x with
      q := updWhere (fun e => e.own == .train) (fun e => { e with est := 3 }) x.q }) d1
  | _ => d1

/-- The entry that a channel's burst serves. -/
def burstEnt (d : Dev) (ch : Nat) (b : Burst) : Option BEnt :=
  let x := die d (dieAt d.cfg ch (burstDie b))
  (x.cur.orElse (fun _ => x.prev)).bind (entOf x)

/-- A burst starts (R253, R325). -/
def startBurst (ch cls k : Nat) (b : Burst) (d : Dev) : Dev :=
  let d1 := takeBurst ch cls k b d
  let e := burstEnt d1 ch b
  seqStart ch (burstIdx b ((e.map (·.op)).getD 0) d1.rawp.rop (e.any (·.cache))) k (burstPlane b) e d1

/-- A field of the shadow and of the active timing set (R294). -/
def shadowTs (d : Dev) (ch sub : Nat) : Nat := od d (chIdx ch 8) sub
def activeTs (d : Dev) (ch sub : Nat) : Nat := od d (chIdx ch 9) sub

/-- A swap is mode-changing (R295). -/
def modeChange (d : Dev) (ch : Nat) : Bool :=
  [1, 2, 3, 0x0C, 0x0D, 0x0E, 0x0F, 0x10].any (fun i => shadowTs d ch i != activeTs d ch i)

/-- Something waits for the channel's next quiet boundary: an armed swap (R299), a ZQ code (R314), an install, a removal or
a rewrite of patches (R319, R332, R341). -/
def boundaryWork (d : Dev) (ch : Nat) : Bool :=
  let c := chan d ch
  let s := seq d ch
  c.armed || c.zqNew.isSome || s.install || s.leave || !s.rewrite.isEmpty

/-- A quiet boundary has come (R298): a mode-changing swap enters SWAP_HOLD (R302), anything else holds the bus until it
is done (log 83). -/
def atBoundary (ch : Nat) (d : Dev) : Dev :=
  updChan ch (fun c => if c.armed && modeChange d ch then { c with state := 2 } else { c with held := true }) d

/-- Bursts may start on a channel: its domains are ON, it serves, no swap holds it (R253, R301), the CU duty
gap has passed (R546), and no warning has stopped it in START or RECOVERY (R427). -/
def busFree (d : Dev) (ch : Nat) : Bool :=
  supplies d && (chan d ch).bus.isNone && chanOn d ch && (chan d ch).state == 1 && !(chan d ch).duty &&
  !(chan d ch).held && !(d.tele.pf && (od d 0x2000 1 == 0 || od d 0x2000 1 == 3))

/-- In the hold of a mode-changing swap only its trainings take the bus (R302). -/
def trainFree (d : Dev) (ch : Nat) : Bool :=
  supplies d && (chan d ch).bus.isNone && chanOn d ch && (chan d ch).state == 2 && !(chan d ch).armed

/-- The first training of a channel that may start. -/
def pickTrain (d : Dev) (ch : Nat) : Option Nat :=
  (List.range (diesPerCh d.cfg)).find? (fun k => trainHead d (dieAt d.cfg ch k))

/-- An entry takes its place in a die's queue. -/
def pushEnt (n : Nat) (e : BEnt) (d : Dev) : Dev :=
  updDie n (fun x => { x with
    q := x.q ++ [{ e with qseq := x.qseq % 65536, t0 := d.up, est := 0 }], qseq := (x.qseq + 1) % 65536 }) d

/-- A die's id_status is PRESENT (R291, R293), FAILED or not. -/
def idPresent (d : Dev) (n : Nat) : Bool :=
  ((getB d (chIdx (dieCh n) 5) 1).getD (dieK d.cfg n) 0).toNat == 1 && (die d n).st != .off

/-- The lowest PRESENT LUN of a target. -/
def trainDie (d : Dev) (ch t : Nat) : Option Nat :=
  ((List.range d.cfg.luns).map (dieNo ch t)).find? (idPresent d)

/-- Wanted retrainings enter the queues (R309); a target without a PRESENT die is not trained. -/
def feedTrain (ch : Nat) (d : Dev) : Dev :=
  (chan d ch).trainWait.foldl (fun x t => match trainDie x ch t with
    | none => updChan ch (fun c => { c with trainWait := c.trainWait.filter (· ≠ t) }) x
    | some n =>
      if (List.range x.cfg.luns).any (fun l => (die x (dieNo ch t l)).q.any (fun e => e.own == .train)) ∨ ¬ freeSlot x n then x
      else pushEnt n (ent 7 3 .train) x) d

/-- Holds are marked and the next burst starts if the bus is free (R253). -/
def kick (ch : Nat) (d0 : Dev) : Dev :=
  let d := feedTrain ch d0
  let d1 := (List.range (diesPerCh d.cfg)).foldl (fun x k =>
    let n := dieAt d.cfg ch k
    if (die x n).q.isEmpty then x else pageFaults n (markHeld n x)) d
  let d2 := updChan ch (fun c => { c with held := c.held && boundaryWork d1 ch }) d1
  if busFree d2 ch then
    match pickBurst d2 ch with
    | some (c, k, b) => startBurst ch c k b d2
    | none => if boundaryWork d2 ch then atBoundary ch d2 else d2
  else if trainFree d2 ch then
    match pickTrain d2 ch with
    | some k => startBurst ch 6 k (.train k) d2
    | none => d2
  else d2

/-- Every channel whose bus is free picks its next burst: what a change elsewhere made ready starts (R250, R253). -/
def kickAll (d : Dev) : Dev := (List.range d.cfg.channels).foldl (fun x ch => kick ch x) d

/-- An entry joins a die's queue (R245). -/
def enqueue (n : Nat) (e : BEnt) (d : Dev) : Dev :=
  kick (dieCh n) (pushEnt n e (sendVia .lantern (.buoy (dieCh n)) .req 1 d))

/-- An entry ends: its slot is freed (R245). -/
def dropEnt (n s : Nat) (d : Dev) : Dev :=
  sendVia (.buoy (dieCh n)) .lantern .rsp 1 (updDie n (fun x => { x with
    q := x.q.filter (fun e => e.qseq ≠ s), cur := if x.cur = some s then none else x.cur }) d)

/-- buoy_snap's records (R279): U8 die, 7 zero bytes, the 16-byte entry. -/
def buoySnap (d : Dev) (ch : Nat) : Bytes :=
  (List.range (diesPerCh d.cfg)).flatMap (fun k => (die d (dieAt d.cfg ch k)).q.flatMap (fun e =>
    leBytes 1 k ++ zeros 7 ++ leBytes 16 (e.word d)))

/-- A die is busy with an array operation: its ready is awaited. -/
def dieBusy (x : Die) : Bool :=
  ([DieSt.read, .prog, .erase, .suspending].contains x.st || (x.st == .reset && !x.rstDue)) || (x.st == .suspended && x.cur.isSome)

/-- A LUN's status is read every poll_us (R258, R259): with busy_mode 1, while another LUN of the target is busy too, and
to read again after a mismatch or a first reading with ARDY before RDY. -/
def polled (d : Dev) (n : Nat) : Bool :=
  od d (chIdx (dieCh n) 0) 4 == 1 || (die d n).rbHigh || (die d n).prevStatus.isSome ||
  (List.range d.cfg.luns).any (fun l =>
    let m := dieNo (dieCh n) (dieTgt n) l
    m != n && dieBusy (die d m))

/-- An operation of a LUN begins: the target's R/B_n is low. -/
def rbLow (n : Nat) (d : Dev) : Dev :=
  (List.range d.cfg.luns).foldl (fun x l => updDie (dieNo (dieCh n) (dieTgt n) l) (fun y => { y with rbHigh := false }) x) d

/-- STATUS_POLL (R258): the poll_us interval of a busy LUN expires. -/
def execStatusPoll (ch k : Nat) (s : State) : Host.Outcome State Fault Refusal :=
  run (fun d =>
    let n := dieAt d.cfg ch k
    if ch < d.cfg.channels ∧ k < diesPerCh d.cfg ∧ dieBusy (die d n) ∧ polled d n then
      kick ch (updDie n (fun x => { x with statusDue := true }) d)
    else d) s

/-- RB_RISE (R258): a status read of each still-busy LUN of the target becomes ready; with busy_mode 1 the
line is ignored. -/
def execRbRise (ch t : Nat) (s : State) : Host.Outcome State Fault Refusal :=
  run (fun d =>
    if ch < d.cfg.channels ∧ t < d.cfg.targets ∧ od d (chIdx ch 0) 4 = 0 then
      kick ch ((List.range d.cfg.luns).foldl (fun x l => updDie (dieNo ch t l) (fun y =>
        if dieBusy y then { y with
                  statusDue := true, rbHigh := true } else y) x) d)
    else d) s

/-- SUSPEND_GAP_ELAPSED (R265). -/
def execSuspendGapElapsed (ch k : Nat) (s : State) : Host.Outcome State Fault Refusal :=
  run (fun d =>
    let n := dieAt d.cfg ch k
    if ch < d.cfg.channels ∧ k < diesPerCh d.cfg ∧ (die d n).st = .erase then
      kick ch (updDie n (fun x => { x with gapOk := true }) d)
    else d) s

/-- SUSPEND_HOLD_EXPIRED (R252, R265): the next choice is a resume. -/
def execSuspendHoldExpired (ch k : Nat) (s : State) : Host.Outcome State Fault Refusal :=
  run (fun d =>
    let n := dieAt d.cfg ch k
    if ch < d.cfg.channels ∧ k < diesPerCh d.cfg ∧ (die d n).st = .suspended then
      kick ch (updDie n (fun x => { x with holdExp := true }) d)
    else d) s

/-- THROTTLE_SPACING (R546): the spacing has passed; a program of the die is released. -/
def execThrottleSpacing (n : Nat) (s : State) : Host.Outcome State Fault Refusal :=
  run (fun d => if dieInCfg d.cfg n ∧ dieLevel d n = 4 then
      kick (dieCh n) (updDie n (fun x => { x with released := true }) d) else d) s

/-- COLD_DEFER_EXPIRY (R547): the held program is released and counted. -/
def execColdDeferExpiry (n : Nat) (s : State) : Host.Outcome State Fault Refusal :=
  run (fun d => if dieInCfg d.cfg n ∧ dieLevel d n = 0 ∧ od d 0x2803 3 = 0 ∧
        (die d n).q.any (fun e => e.op == 1 && thermalHold d n e) then
      kick (dieCh n) (cnt 0x2807 5 (updDie n (fun x => { x with released := true }) d)) else d) s

/-- CU_THROTTLE_DUTY (R546): the duty gap has passed and the next burst may start. -/
def execCuThrottleDuty (ch : Nat) (s : State) : Host.Outcome State Fault Refusal :=
  run (fun d => if ch < d.cfg.channels then kick ch (updChan ch (fun c => { c with duty := false }) d)
    else d) s

/-- CORRECTION_LOOP (R540 to R544, R552): the tables in force are taken, nodes corrected in order, sensors
cross-checked on the states at the loop's start, and die temperature reads queued (R542). -/
def correctionLoop (d : Dev) : Dev :=
  let d0 := { d with therm := { d.therm with tabs := some (tmuTabs d) } }
  let d1 := (usedNodes d0).foldl (fun x n => correct d0 n x) d0
  let d2 := (List.range 64).foldl (fun x s => crossCheck d0 s x) d1
  let d3 := put 0x2800 0x0E (d.therm.cuUj / 100)
    { d2 with therm := { d2.therm with loopDone := true, dieRd := [], cuUj := 0 } }
  if od d 0x2800 8 = 0 then d3
  else ((allDies d.cfg).filter (present d)).foldl (fun x n =>
    if x.therm.queued.contains n ∨ ¬ freeSlot x n then cnt 0x2807 3 x
    else enqueue n (ent 5 3 .temp)
      { x with therm := { x.therm with queued := x.therm.queued ++ [n] } }) d3

def execCorrectionLoop (s : State) : Host.Outcome State Fault Refusal := run (fun d => kickAll (correctionLoop d)) s

end Sys2Proof.Machine
end

