-- ==== Sys2Proof/Machine/Place.lean ====
section
/-! DEFINITION. Where a write goes: placement keys, bands, rows, member slots, pads
(05_lantern_placement.md R199 to R227, R235 to R238). -/

namespace Sys2Proof.Machine

/-! ### Exclusion (R235) -/

/-- A die is excluded by its mask, by its channel's, or while Keeper holds a domain of its channel FAILED. -/
def dieExcluded (d : Dev) (n : Nat) : Bool :=
  bit ((getB d 0x2107 1).getD (n / 8) 0).toNat (n % 8) || bit (od d 0x2107 2) (dieCh n) ||
  (List.range 4).any (fun k => (dom d (domCh (dieCh n) k)).st == .failed)

/-- die_ok of R220; a channel that is not ON takes nothing (R527). -/
def dieOk (d : Dev) (n : Nat) : Bool :=
  !dieExcluded d n && present d n && chanOn d (dieCh n) && freeSlot d n &&
  (match dieLevel d n with
   | 5 => false
   | 4 => false
   | 0 => od d 0x2803 3 != 0
   | _ => true)

/-! ### Keys and hints (R177, R217) -/

/-- The stream hint of a ring's stream (R176). -/
def hint (d : Dev) (ring stream : Nat) : Nat := od d (0x5100 + 0x80 * (ring / 16) + 7) (stream + 1)

/-- The lifetime group: 0 short, 1 medium, 2 long. -/
def lifeGrp (life : Nat) : Nat := if life ≤ 2 then 0 else if life ≤ 5 then 1 else 2

/-- A placement key (R217). -/
def mkKey (d : Dev) (glog life temp : Nat) (rheavy : Bool) (zfam : Nat) : Key :=
  { glog := glog, slc := bit (od d 0x2103 7) temp, grp := lifeGrp life, rheavy := rheavy, zfam := zfam }

/-- The key of a hint. -/
def hintKey (d : Dev) (glog h : Nat) : Key := mkKey d glog (bits h 0 3) (bits h 4 2) (bit h 7) (bits h 12 12)

/-! ### Free blocks and sets (R219) -/

/-- The usable FREE blocks of a die; region 0 is the system region (R278, R402), and a block whose record is lost is not
allocated (R490). -/
def freeBlocks (d : Dev) (n : Nat) : List Nat :=
  (List.range (blocksOf d n)).filter (fun b => !inSystem d n b && (blk d n b).bstate == 0 && !blkLost d n b)

/-- Free bands of a set. -/
def freeBandsOf (d : Dev) (s : List Nat) : Nat :=
  (s.map (fun n => (freeBlocks d n).length)).foldl min (if s.isEmpty then 0 else 65536)

/-- Free bands in all sets. -/
def freeBands (d : Dev) : Nat := (d.lan.sets.map (freeBandsOf d)).sum

/-- Usable bands of a set: blocks that are neither system nor RETIRED. -/
def totalBandsOf (d : Dev) (s : List Nat) : Nat :=
  (s.map (fun n => ((List.range (blocksOf d n)).filter (fun b => !inSystem d n b &&
    (blk d n b).bstate != 5)).length)).foldl min (if s.isEmpty then 0 else 65536)

def totalBands (d : Dev) : Nat := (d.lan.sets.map (totalBandsOf d)).sum

/-- The usable blocks' P/E counts (R241). -/
def peList (d : Dev) : List Nat :=
  ((allDies d.cfg).filter (present d)).flatMap (fun n =>
    ((List.range (blocksOf d n)).filter (fun b => !inSystem d n b && (blk d n b).bstate != 5)).map
      (fun b => (blk d n b).pe))

def peMin (d : Dev) : Nat := match peList d with
  | [] => 0
  | x :: t => t.foldl min x
def peMax (d : Dev) : Nat := (peList d).foldl max 0
def peMean (d : Dev) : Nat := (peList d).sum / max 1 (peList d).length

/-- Bands open now: opened, or closing with accumulators still reserved (R218). -/
def openBands (d : Dev) : List Band := d.lan.bands.filter (fun b => b.st == .opened || b.st == .closing)

/-- The block of a die that a band of a lifetime group takes (R219). -/
def pickBlock (d : Dev) (grp n : Nat) : Option Nat :=
  (freeBlocks d n).foldl (fun best b => match best with
    | none => some b
    | some x =>
      if grp = 2 then (if (blk d n x).pe < (blk d n b).pe then some b else some x)
      else (if (blk d n b).pe < (blk d n x).pe then some b else some x)) none

/-- A set that may open a band (R219): no excluded or FAILED die, and a free band, for host writes outside the relocation
reserve. -/
def setOpens (d : Dev) (rel : Bool) (l : List Nat) : Bool :=
  decide ((if rel then 1 else od d 0x2104 0x0A + 1) ≤ freeBandsOf d l) &&
    l.all (fun n => !dieExcluded d n && (die d n).st != .failed)

/-- The set a band opens on (R219): most free bands, no excluded or FAILED die, no open band of the key, and
for host writes the relocation reserve left alone. -/
def pickSet (d : Dev) (key : Key) (rel : Bool) : Option Nat :=
  let ok := fun (s : Nat) => match d.lan.sets[s]? with
    | none => false
    | some l => setOpens d rel l && !((openBands d).any (fun b => b.set == s && b.key == key))
  ((List.range d.lan.sets.length).filter ok).foldl (fun best s => match best with
    | none => some s
    | some x => if freeBandsOf d (d.lan.sets.getD x []) < freeBandsOf d (d.lan.sets.getD s []) then some s
        else some x) none

/-- Rows a band keeps open at most (R205). -/
def rowLimit (d : Dev) (key : Key) : Nat := 1 + cdiv (unitsOf key.glog) (max 1 (d.lan.n * planes d))

/-- Changes a band. -/
def updBand (id : Nat) (f : Band → Band) (d : Dev) : Dev :=
  updLan (fun l => { l with bands := updWhere (fun b => b.id == id) f l.bands }) d

/-- Changes a row of a band. -/
def updRow (id r : Nat) (f : Row → Row) (d : Dev) : Dev :=
  updBand id (fun b => { b with rows := updWhere (fun x => x.row == r) f b.rows }) d

/-- Changes a member slot. -/
def updSlot (id r j : Nat) (f : MSlot → MSlot) (d : Dev) : Dev :=
  updRow id r (fun x => { x with slots := x.slots.modify j f }) d

/-- Codeword slots of a full member slot. -/
def fullMask (d : Dev) : Nat := 2 ^ (4 * planes d) - 1

/-- An accumulator's bytes (R205): four payloads for each plane. -/
def accLen (d : Dev) : Nat := planes d * 16512

/-- Opens the next row of a band once fewer rows are open than its limit, the parity page of an open row not having passed
(R205): its accumulator is reserved and starts at zero (R364). A member cut at or below the row is absent from it. A band
whose record is lost opens none (R490). -/
def openRow (id : Nat) (d : Dev) : Dev :=
  match band d id with
  | none => d
  | some b =>
    if b.st ≠ .opened ∨ pagesOf d ≤ b.next ∨
        rowLimit d b.key ≤ (b.rows.filter (fun r => r.par != .passed)).length ∨ bandLost d b.set b.bidx then d
    else
      match sbAlloc (segCh d.cfg (dieCh (member b (parPos d b)).1)) (accLen d / 64) (.acc id b.next) d with
      | none => d
      | some (a, d1) =>
        let slot := fun (j : Nat) =>
          if cutRow d b (dataPos d b j) ≤ b.next then
            { used := fullMask d, queued := false, fold := 0, st := SlotSt.absent, uses := [], pad := 0 : MSlot }
          else { used := 0, queued := false, fold := 0, st := SlotSt.filling, uses := [], pad := 0 }
        updBand id (fun x => { x with
          next := x.next + 1,
          rows := x.rows ++ [{ row := x.next, slots := (List.range d.lan.n).map slot, acc := a, par := .no }] })
          (sbStore .lantern a (zeros (accLen d)) d1)

/-- Opens rows up to the limit. -/
def openRows (id : Nat) (d : Dev) : Dev :=
  match band d id with
  | none => d
  | some b => (List.range (rowLimit d b.key)).foldl (fun x _ => openRow id x) d

/-- Opens a band (R219): its blocks become OPEN with the key's fields, its records are journaled. -/
def openBand (key : Key) (life temp : Nat) (reloc : Option Nat) (d : Dev) : Option Dev :=
  match pickSet d key reloc.isSome with
  | none => none
  | some s =>
    let l := d.lan.sets.getD s []
    let used := (d.lan.bands.filter (fun b => b.set == s)).map (·.bidx)
    match (List.range (max 1 (od d 0x2100 9))).find? (fun i => !used.contains i) with
    | none => none
    | some bi =>
      let mem := l.map (fun n => (n, (pickBlock d key.grp n).getD 0))
      let (id, d1) := freshId d
      let nb : Band :=
        { id := id, set := s, bidx := bi, key := key, life := life, temp := temp, mem := mem, st := .opened,
          rows := [], next := 0, reloc := reloc, order := id, lastW := id }
      let job := reloc.getD 0xFFFF
      let d2 := (List.range mem.length).foldl (fun x m =>
        let p := mem.getD m (0, 0)
        jBand s bi m (putBandMem s bi m (memEntry 0x1000 p.1 p.2)
          (jBlock p.1 p.2 job (updBlk p.1 p.2 (fun k => { k with
            bstate := 1, life := life, temp := temp, rheavy := key.rheavy, slc := key.slc,
            zfam := key.zfam, bidx := bi, mpos := m, sset := s, vunits := 0 }) x)))) d1
      some (openRows id (updLan (fun k => { k with bands := k.bands ++ [nb] }) d2))

/-! ### Programs of member slots and parity pages -/

/-- The band's mode and code are those of its blocks. -/
def slotEnt (d : Dev) (b : Band) (r : Nat) (pos : Nat) (own : EOwn) (sb : Nat) : BEnt :=
  { ent 1 2 own with
    slc := b.key.slc, pmask := 2 ^ planes d - 1, block := (member b pos).2, page := r, sbPtr := sb / 64 }

/-- Queues the program of a member slot when the die has a free Buoy slot (R244, R245). -/
def feedSlot (id r j : Nat) (d : Dev) : Dev :=
  match band d id with
  | none => d
  | some b => match b.rows.find? (fun x => x.row == r) with
    | none => d
    | some rw => match rw.slots[j]? with
      | none => d
      | some m =>
        let pos := dataPos d b j
        let n := (member b pos).1
        if m.queued ∨ m.st ≠ .filling ∨ (m.uses.isEmpty ∧ m.used = 0) ∨ ¬ freeSlot d n then d
        else
          let w := match m.uses with
            | u :: _ => (match wjob d u.job with
              | some w => (w.tag, w.sb.getD u.sec 0, w.id)
              | none => (none, 0, 0))
            | [] => (none, 0, 0)
          let e0 := slotEnt d b r pos (.slot id r j) w.2.1
          let e := match w.1 with
            | some t => { e0 with tag := t, itl := false }
            | none => { e0 with tag := w.2.2 % 8192 }
          enqueue n e (updSlot id r j (fun x => { x with queued := true }) d)

/-- A row is complete when each data member slot has passed or is absent (R205). -/
def rowDone (r : Row) : Bool := r.slots.all (fun m => m.st == .passed || m.st == .absent)

/-- Queues the parity program of a complete row (R31, R205, R365). A row whose parity member is absent, or
that holds nothing, ends without one. -/
def feedParity (id r : Nat) (d : Dev) : Dev :=
  match band d id with
  | none => d
  | some b => match b.rows.find? (fun x => x.row == r) with
    | none => d
    | some rw =>
      let pos := parPos d b
      let n := (member b pos).1
      if rw.par ≠ .no ∨ ¬ rowDone rw ∨ accFixing d id r then d
      else if cutRow d b pos ≤ r ∨ (die d n).st = .failed then updRow id r (fun x => { x with par := .passed }) d
      else if ¬ present d n ∨ ¬ freeSlot d n then d
      else enqueue n (slotEnt d b r pos (.parity id r) rw.acc)
        (updRow id r (fun x => { x with par := .queued }) d)

/-- A band closes when its last row is complete (R206). -/
def closeIfDone (id : Nat) (d : Dev) : Dev :=
  match band d id with
  | none => d
  | some b =>
    if b.rows.isEmpty ∧ (b.st = .closing ∨ (b.st = .opened ∧ pagesOf d ≤ b.next)) then
      b.mem.foldl (fun x p => if (blk x p.1 p.2).bstate = 1 then setBstate p.1 p.2 2 x else x)
        (updBand id (fun x => { x with st := .closed }) d)
    else d

/-- Rows whose parity page has passed leave, with their accumulators; the next rows open (R205). -/
def retireRows (id : Nat) (d : Dev) : Dev :=
  match band d id with
  | none => d
  | some b =>
    let gone := b.rows.filter (fun r => r.par == .passed)
    let d1 := gone.foldl (fun x r => sbFree (.acc id r.row) x) d
    closeIfDone id (openRows id (updBand id (fun x => { x with
      rows := x.rows.filter (fun r => r.par != .passed) }) d1))

/-- Work that waited for a free Buoy slot or a finished row goes on. -/
def feedBands (d : Dev) : Dev :=
  d.lan.bands.foldl (fun x b =>
    let y := b.rows.foldl (fun y r =>
      feedParity b.id r.row ((List.range r.slots.length).foldl (fun z j => feedSlot b.id r.row j z) y)) x
    retireRows b.id y) d

/-- A member slot still fills. -/
def slotFills (d : Dev) (id r j : Nat) : Bool :=
  match (band d id).bind (fun b => b.rows.find? (fun x => x.row == r)) with
  | some rw => (match rw.slots[j]? with
    | some m => m.st == .filling && m.used != fullMask d
    | none => false)
  | none => false

/-- A member slot padded (R206): every codeword slot that holds nothing becomes a pad codeword. -/
def padSlot (id r j : Nat) (d : Dev) : Dev :=
  if slotFills d id r j then
    let d1 := updLan (fun l => { l with wseq := (l.wseq + 1) % 2 ^ 48 }) d
    feedSlot id r j (updSlot id r j (fun m => { m with used := fullMask d, pad := d1.lan.wseq }) d1)
  else feedSlot id r j d

/-- A row's pad (R205): each unplaced data unit is programmed as a pad; counted once. -/
def padRow (id r : Nat) (d : Dev) : Dev :=
  match band d id with
  | none => d
  | some b => match b.rows.find? (fun x => x.row == r) with
    | none => d
    | some rw =>
      if rw.slots.all (fun m => m.used == fullMask d) then d
      else cnt 0x2108 0x0D ((List.range rw.slots.length).foldl (fun x j => padSlot id r j x) d)

/-- A row holds a placed unit. -/
def rowUsed (r : Row) : Bool := r.slots.any (fun m => !m.uses.isEmpty)

/-- A member slot that holds placed data and is not full (R206). -/
def partFilled (d : Dev) (m : MSlot) : Bool := m.st == .filling && !m.uses.isEmpty && m.used != fullMask d

/-- A row padded because its band closes: each partly filled member slot counts once (R206), and the pad of the units that
nothing was placed in once (R205). -/
def closeRow (id r : Nat) (d : Dev) : Dev :=
  match (band d id).bind (fun b => b.rows.find? (fun x => x.row == r)) with
  | none => d
  | some rw =>
    let n := (rw.slots.filter (partFilled d)).length + b2n (rw.slots.any (fun m => m.st == .filling && m.used == 0))
    cntN 0x2108 0x0D n ((List.range rw.slots.length).foldl (fun x j => padSlot id r j x) d)

/-- Closes a band at its open rows, which are padded (R205, R218, R236, R237). -/
def closeBand (id : Nat) (d : Dev) : Dev :=
  match band d id with
  | none => d
  | some b =>
    if b.st ≠ .opened then d
    else closeIfDone id (b.rows.foldl (fun x r => closeRow id r.row x) (updBand id (fun x => { x with st := .closing }) d))

/-! ### The choice of a place (R220) -/

/-- A candidate: band, its order, row, member, first codeword slot, score. -/
structure Cand where
  id : Nat
  order : Nat
  row : Nat
  j : Nat
  cw : Nat
  score : Int
  deriving DecidableEq, Repr

/-- The first aligned run of free codeword slots in a member slot: size and alignment sz. -/
def freeRun (used sz total : Nat) : Option Nat :=
  ((List.range (total / max 1 sz)).map (fun i => i * sz)).find?
    (fun c => (List.range sz).all (fun i => !bit used (c + i)))

/-- The score of a place (R220). -/
def score (d : Dev) (b : Band) (r : Row) (j : Nat) : Int :=
  let m := member b (dataPos d b j)
  let n := m.1
  let q : Int := (buoyUsed d n * 256 / max 1 (od d (chIdx (dieCh n) 0) 1) : Nat)
  let w0 := clip (tdiv ((((blk d n m.2).pe : Int) - peMean d) * 256) (od d 0x2104 5)) (-256) 256
  let w := if b.key.grp = 1 then 0 else if b.key.grp = 2 then -w0 else w0
  let t := max 0 (dieC d n - odI d 0x2103 6) * 16
  let h : Int := if nextPg (die d n) m.2 = 0 then 0
    else ((dieC d n - (blk d n m.2).ptemp).natAbs * 16 : Nat)
  let filled := (r.slots.filter (fun s => s.used == fullMask d && s.st != .absent)).length
  let f : Int := ((d.lan.n - filled) * 256 / max 1 d.lan.n : Nat)
  od d 0x2103 1 * q + od d 0x2103 2 * w + od d 0x2103 3 * t + od d 0x2103 4 * h + od d 0x2103 5 * f

/-- The member slots of a band's open rows in band order. -/
def bandSlots (b : Band) : List (Row × Nat × MSlot) :=
  b.rows.flatMap (fun r => (List.range r.slots.length).filterMap (fun j =>
    (r.slots[j]?).map (fun m => (r, j, m))))

/-- The candidates in one band: single places, or the run of whole member slots of a large granule. -/
def bandCands (d : Dev) (glog : Nat) (b : Band) : List Cand :=
  let ok := fun (j : Nat) => dieOk d (member b (dataPos d b j)).1
  let sz := 2 ^ glog
  if unitsOf glog ≤ planes d then
    b.rows.flatMap (fun r => if r.par ≠ .no then [] else
      (List.range r.slots.length).filterMap (fun j => match r.slots[j]? with
        | none => none
        | some m =>
          if m.st = .filling then
            match freeRun m.used sz (4 * planes d) with
            | some c =>
              if ok j then some ⟨b.id, b.order, r.row, j, c, score d b r j⟩ else none
            | none => none
          else none))
  else
    let need := unitsOf glog / planes d
    let run := (bandSlots b).dropWhile (fun x => x.2.2.used != 0 || x.2.2.st == .absent)
    match run with
    | [] => []
    | (r, j, _) :: _ =>
      if (run.take need).length = need ∧ (run.take need).all (fun x => x.2.2.used == 0 && ok x.2.1) then
        [⟨b.id, b.order, r.row, j, 0, score d b r j⟩] else []

/-- Position order of a candidate at or after a rotation pointer. -/
def posLt (a b : Nat × Nat × Nat) : Bool :=
  decide (a.1 < b.1) || (a.1 == b.1 && (decide (a.2.1 < b.2.1) || (a.2.1 == b.2.1 && decide (a.2.2 < b.2.2))))

/-- The lowest score; on a tie the first in (band open order, row, member) at or after the pointer (R220). -/
def bestCand (ptr : Nat × Nat × Nat) (l : List Cand) : Option Cand :=
  let pos := fun (c : Cand) => (c.order, c.row, c.j)
  let before := fun (a b : Cand) =>
    let ia := posLt (pos a) ptr
    let ib := posLt (pos b) ptr
    if ia == ib then posLt (pos a) (pos b) else !ia
  l.foldl (fun best c => match best with
    | none => some c
    | some x => if c.score < x.score ∨ (c.score = x.score ∧ before c x) then some c else some x) none

/-- The open bands that serve a write (R220, R224). -/
def servingBands (d : Dev) (key : Key) (rel : Option Nat) : List Band :=
  d.lan.bands.filter (fun b => b.st == .opened && b.key == key && b.reloc == rel)

/-- The rotation pointer of a key. -/
def rotOf (d : Dev) (key : Key) : Nat × Nat × Nat :=
  match d.lan.rot.find? (fun x => x.1 == key) with
  | some x => x.2
  | none => (0, 0, 0)

/-- The pieces of a placed granule (R204, R209). -/
def mkPieces (d : Dev) (glog : Nat) (b : Band) (c : Cand) : List Piece :=
  if unitsOf glog ≤ planes d then [⟨c.id, c.row, c.j, c.cw, 0, 2 ^ glog, false⟩]
  else
    let need := unitsOf glog / planes d
    let run := (bandSlots b).dropWhile (fun x => x.2.2.used != 0 || x.2.2.st == .absent)
    ((run.take need).zipIdx).map (fun x =>
      ⟨c.id, x.1.1.row, x.1.2.1, 0, x.2 * 4 * planes d, 4 * planes d, false⟩)

/-- Changes a write job. -/
def updWjob (id : Nat) (f : WJob → WJob) (d : Dev) : Dev :=
  updLan (fun l => { l with wjobs := updWhere (fun w => w.id == id) f l.wjobs }) d

/-- Reserves SB for a granule's sectors (R221): one extent for each piece of at most 64 KiB. -/
def reserveJob (seg : Nat) (w : WJob) (d : Dev) : Option Dev :=
  if ¬ w.sb.isEmpty then some d
  else
    let total := 2 ^ w.key.glog
    let per := min total (4 * planes d)
    match sbAllocs seg (.wjob w.id) (List.replicate (total / per) (per * 64)) d with
    | none => none
    | some (l, d1) =>
      let as_ := l.flatMap (fun a => (List.range per).map (fun i => a + 4096 * i))
      some ((as_.zip w.hold).foldl (fun x p => sbStore .lantern p.1 (fit 4096 p.2) x)
        (updWjob w.id (fun x => { x with sb := as_, hold := [] }) d1))

/-- The generation a job's unit carries: one more than the entry's, or than that of the job placed last on
the granule (R208, R351). -/
def nextGen (d : Dev) (w : WJob) : Nat :=
  match (d.lan.wjobs.filter (fun x => x.gran == w.gran && x.id != w.id && !x.pieces.isEmpty &&
      x.reloc.isNone && !x.dead)).getLast? with
  | some x => (x.gen + 1) % 256
  | none => (eGen (mapE d w.gran) + 1) % 256

/-- Puts a job in its place: slots taken, sequence number and generation given, programs queued (R221). -/
def takePlace (w : WJob) (b : Band) (c : Cand) (d : Dev) : Dev :=
  let ps := mkPieces d w.key.glog b c
  let d1 := updLan (fun l => { l with
    wseq := (l.wseq + 1) % 2 ^ 48,
    rot := (l.rot.filter (fun x => x.1 ≠ w.key)) ++ [(w.key, (c.order, c.row, c.j + 1))] }) d
  let gen := if w.reloc.isSome then eGen w.src else nextGen d w
  let d2 := updWjob w.id (fun x => { x with
    pieces := ps, gen := gen, wseq := d1.lan.wseq, spaceWait := false }) d1
  let d3 := updBand b.id (fun x => { x with lastW := d1.lan.wseq }) d2
  ps.foldl (fun x p =>
    feedSlot p.band p.row p.j (updSlot p.band p.row p.j (fun m => { m with
      used := m.used + (2 ^ p.cnt - 1) * 2 ^ p.cw,
      uses := m.uses ++ [⟨w.id, p.cw, p.sec, p.cnt⟩] }) x)) d3

/-- The least recently written open band of another key (R218). -/
def lruBand (d : Dev) (key : Key) : Option Band :=
  (d.lan.bands.filter (fun b => b.st == .opened && b.key != key)).foldl (fun best b => match best with
    | none => some b
    | some x => if b.lastW < x.lastW then some b else some x) none

/-- A job is ready for its place: nothing of it is placed and its merge reads have ended (R222). -/
def placeable (w : WJob) : Bool := w.pieces.isEmpty && w.reads == 0 &&
  (w.host != 0 || w.reloc.isSome || w.tag.isNone || w.landed != 0 || w.bad != 0)

/-- What a placement attempt came to. -/
inductive Placed where
  | done (d : Dev) | wait (d : Dev) | noBand (d : Dev)

/-- R220 with R218 and R219: choose, or open a band and choose again, or close another key's band and wait; while one
closes, the write waits for it. Where every set that could open a band has one of the key already, it waits too; only
where none has a free band does R227 apply. -/
def tryPlace (w : WJob) (d : Dev) : Placed :=
  let pick := fun (x : Dev) =>
    bestCand (rotOf x w.key) ((servingBands x w.key w.reloc).flatMap (bandCands x w.key.glog))
  let go := fun (c : Cand) (x : Dev) => match band x c.id with
    | none => Placed.wait x
    | some b => match reserveJob (segCh x.cfg (dieCh (member b (dataPos x b c.j)).1)) w x with
      | none => .wait x
      | some y => .done (takePlace w b c y)
  match pick d with
  | some c => go c d
  | none =>
    let mine := (servingBands d w.key w.reloc).length
    if w.reloc.isNone ∧ od d 0x2103 8 ≤ mine then .wait d
    else if od d 0x2103 9 ≤ (openBands d).length then
      (match lruBand d w.key with
       | some b => if d.lan.bands.any (fun x => x.st == .closing) then .wait d else .wait (cnt 0x2108 0x0C (closeBand b.id d))
       | none => .wait d)
    else match openBand w.key w.life w.temp w.reloc d with
      | none => if d.lan.sets.any (setOpens d w.reloc.isSome) then .wait d else .noBand d
      | some d1 => match pick d1 with
        | some c => go c d1
        | none => .wait d1

/-- A CLOSED band holds an invalid unit (R223, R227). -/
def hasInvalid (d : Dev) (b : Band) : Bool :=
  let cap := d.lan.n * planes d * 4 * pagesOf d
  decide ((b.mem.map (fun p => (blk d p.1 p.2).vunits)).sum < cap)

/-- ROW_TIMEOUT (R205): an open row that holds a placed unit is padded. -/
def execRowTimeout (b r : Nat) (s : State) : Host.Outcome State Fault Refusal :=
  run (fun d => match band d b with
    | none => d
    | some bd => match bd.rows.find? (fun x => x.row == r) with
      | none => d
      | some rw => if rowUsed rw ∧ rw.par = .no then feedBands (padRow b r d) else d) s

/-- MEMBER_SLOT_TIMEOUT (R206): a partly filled member slot is padded and programmed, counted once. -/
def execMemberSlotTimeout (b r j : Nat) (s : State) : Host.Outcome State Fault Refusal :=
  run (fun d => match band d b with
    | none => d
    | some bd => match bd.rows.find? (fun x => x.row == r) with
      | none => d
      | some rw => match rw.slots[j]? with
        | none => d
        | some m =>
          if m.st = .filling ∧ ¬ m.uses.isEmpty ∧ m.used ≠ fullMask d then
            cnt 0x2108 0x0D (padSlot b r j d) else d) s

end Sys2Proof.Machine
end

