-- ==== Sys2Proof/Machine/Cmd.lean ====
section
/-! DEFINITION. Commands under way: failures, completion conditions, COMMIT groups, and the map changes
that their work makes (04_work_rings.md R153 to R187, R600; 05 R208; 11 R410 to R414, R425). -/

namespace Sys2Proof.Machine

/-! ### Commands -/

/-- The command that holds a tag. -/
def cmd? (d : Dev) (tag : Nat) : Option Cmd := (d.cmds.find? (fun c => c.1 == tag)).map (·.2)

/-- Changes the command of a tag. -/
def updCmd (tag : Nat) (f : Cmd → Cmd) (d : Dev) : Dev :=
  { d with cmds := d.cmds.map (fun c => if c.1 = tag then (c.1, f c.2) else c) }

/-- A failure met (R600). -/
def cmdFail (tag status : Nat) (d : Dev) : Dev :=
  updCmd tag (fun c => { c with fails := if c.fails.contains status then c.fails else c.fails ++ [status] }) d

/-- A sector that failed (R161), with the status it fails by. -/
def cmdBad (tag sec status : Nat) (d : Dev) : Dev :=
  cmdFail tag status (updCmd tag (fun c => { c with
    bad := if c.bad.contains sec then c.bad else c.bad ++ [sec] }) d)

/-- The order in which failures are reported (R600). -/
def failOrder : List Nat := [0x0401, 0x0201, 0x0202, 0x0203, 0x0302, 0x0303, 0x0301]

/-- The status of a completion (R156, R186, R600). -/
def Cmd.status (c : Cmd) : Nat :=
  match failOrder.find? (fun s => c.fails.contains s) with
  | some s => s
  | none => c.fails.headD 0

/-- QW1 for failing sectors (R161): lowest sector in [39:0], their number in [63:40], saturating. -/
def badResult (l : List Nat) : Nat :=
  match l with
  | [] => 0
  | x :: t => fld (t.foldl min x) 0 40 + fld (satTo l.length 0xFFFFFF) 40 24

/-- QW1 of a completion (R157, R161, R490, R600); SCAN keeps its own. -/
def Cmd.qw1 (c : Cmd) : Nat :=
  if c.opc ≠ 7 ∧ ¬ c.bad.isEmpty then badResult c.bad else c.result

/-- The timestamp of a completion (R185): the clock, and on one ring never less than the last one taken since the latest
step of the time base; an accepted sync inside the tolerance may set the clock back (log 83). -/
def ringTs (d : Dev) (r : Nat) : Nat :=
  let x := tabGet Ring.reset d.rings r
  if x.lastStep = d.tele.steps then max d.ts x.lastTs else d.ts

/-- The completion condition is met: its order, timestamp and time quality are taken (R182, R185). -/
def meet (tag : Nat) (d : Dev) : Dev :=
  match cmd? d tag with
  | none => d
  | some c =>
    let t := ringTs d c.ring
    let x := tabGet Ring.reset d.rings c.ring
    send .lantern (.port (od d (rgIdx c.ring 0) 3)) .rsp 1 <|
    updCmd tag (fun c => { c with st := .met, metNo := d.metNo, ts := t, tq := od d 0x2010 2 })
      { d with
        metNo := d.metNo + 1
        rings := tabSet Ring.reset d.rings c.ring { x with lastTs := t, lastStep := d.tele.steps } }

/-- Commands in fetch order: conditions met by one event are met in it (R182). -/
def insNo (c : Nat × Cmd) : List (Nat × Cmd) → List (Nat × Cmd)
  | [] => [c]
  | x :: t => if c.2.no < x.2.no then c :: x :: t else x :: insNo c t

def byNo (l : List (Nat × Cmd)) : List (Nat × Cmd) := l.foldl (fun a c => insNo c a) []

/-- The completion waits until a journal record is durable (R35, R163, R410). -/
def waitDurable (tag need : Nat) (d : Dev) : Dev :=
  if need ≤ d.clasp.durRec then meet tag d
  else updClasp (fun c => { c with want := true })
    (updCmd tag (fun c => { c with st := .durable, need := need }) d)

/-! ### COMMIT groups (R164 to R168) -/

def group? (d : Dev) (id : Nat) : Option Group := d.groups.find? (fun g => g.id == id)
def updGroup (id : Nat) (f : Group → Group) (d : Dev) : Dev :=
  { d with groups := updWhere (fun g => g.id == id) f d.groups }

/-- The open group of a name (R164). -/
def openGroup (d : Dev) (ring cgrp : Nat) : Option Group :=
  d.groups.find? (fun g => g.ring == ring && g.cgrp == cgrp && g.close.isNone)

/-- A change undone (R168): where a later change of an open group goes back to the member's value, it goes back to the
member's own previous value instead; else the entry itself does, if its generation is still the member's, with a new
generation (R208). -/
def restore (c : GChange) (d : Dev) : Dev :=
  let stood := fun (x : GChange) => x.gran == c.gran && x.prev == c.ent && x.ent != c.ent && x.no != c.no
  if d.groups.any (fun g => g.chg.any stood) then
    { d with groups := d.groups.map (fun g => { g with chg := updWhere stood (fun x => { x with prev := c.prev }) g.chg }) }
  else if eGen (mapE d c.gran) ≠ eGen c.ent then d
  else
    match granIdx d c.gran with
    | none => d
    | some g =>
      let old := mapE d c.gran
      let e := (c.prev % 2 ^ 56) + fld ((eGen old + 1) % 256) 56 8
      let d1 := moveUnits false old g (moveUnits true e g d)
      jMap c.gran e 0 0 (dirtyEntry c.gran (putMap c.gran e d1))

/-- The changes of a group undone one by one, the oldest first. -/
def restoreAll (id : Nat) : Nat → Dev → Dev
  | 0, d => d
  | n + 1, d => match (group? d id).bind (·.chg.head?) with
    | none => d
    | some c => restoreAll id n (pruneVers (restore c (updGroup id (fun x => { x with chg := x.chg.drop 1 }) d)))

/-- A group is aborted (R167, R168): changed entries are restored, and members that have not posted their completion,
and the COMMIT, complete with GROUP_ABORTED. -/
def abortGroup (id status : Nat) (d : Dev) : Dev :=
  match group? d id with
  | none => d
  | some g =>
    if g.aborted then d
    else
      let d1 := updGroup id (fun x => { x with aborted := true }) (restoreAll id g.chg.length d)
      d1.cmds.foldl (fun x c =>
        if c.2.grp = some id then cmdFail c.1 (if c.2.opc = 5 then status else 0x0201) x else x) d1

/-- A group's last member has completed and its COMMIT has been fetched: Clasp takes it as one commit
(R166, R414); an aborted one completes at once. -/
def groupCheck (id : Nat) (d : Dev) : Dev :=
  match group? d id with
  | none => d
  | some g => match g.close with
    | none => d
    | some t => match cmd? d t with
      | none => d
      | some c =>
        if g.left ≠ 0 ∨ c.st ≠ .running then d
        else if g.aborted then meet t d
        else if d.clasp.groupQ.contains id then d
        else updCmd t (fun x => { x with st := .durable })
          (updClasp (fun x => { x with groupQ := x.groupQ ++ [id], want := true }) d)

/-- A member has completed. -/
def memberDone (c : Cmd) (d : Dev) : Dev :=
  match c.grp with
  | some id => if c.opc = 5 then d else groupCheck id (updGroup id (fun g => { g with left := g.left - 1 }) d)
  | none => d

/-! ### Progress -/

/-- A command of the modifying kinds (R163). -/
def Cmd.writes (c : Cmd) : Bool := c.opc == 1 || c.opc == 3 || c.opc == 6

/-- A command in a FLUSH's scope (R163). -/
def inScope (scope ring r : Nat) : Bool :=
  match scope with
  | 0 => r == ring
  | 1 => r / 16 == ring / 16
  | _ => true

/-- A member of a group that is still open is outside every FLUSH (R163). -/
def openMember (d : Dev) (c : Cmd) : Bool :=
  match c.grp with
  | some id => match group? d id with
    | some g => !g.aborted
    | none => false
  | none => false

/-- A FLUSH whose scope is complete waits for the records made so far (R163). -/
def flushCheck (tag : Nat) (d : Dev) : Dev :=
  match cmd? d tag with
  | none => d
  | some f =>
    if f.opc ≠ 4 ∨ f.st ≠ .running then d
    else if d.cmds.any (fun c => decide (c.2.no < f.no) && c.2.writes &&
        inScope (bits f.q4 0 2) f.ring c.2.ring && !openMember d c.2 && c.2.st != .met) then d
    else waitDurable tag d.clasp.recNo d

/-- Every FLUSH under way looks again. -/
def flushAll (d : Dev) : Dev := (byNo d.cmds).foldl (fun x c => if c.2.opc = 4 then flushCheck c.1 x else x) d

/-- The end of a command's work (R157): everything read, written and sent. A write with fua waits until it
is durable (R159); on a member fua is ignored (R165). -/
def cmdCheck (tag : Nat) (d : Dev) : Dev :=
  match cmd? d tag with
  | none => d
  | some c =>
    if c.st ≠ .running ∨ c.left ≠ 0 ∨ ¬ c.out.isEmpty ∨ ¬ c.outB.isEmpty then d
    else if c.opc = 4 then flushCheck tag d
    else if c.opc = 5 then (match c.grp with
      | some g => groupCheck g d
      | none => meet tag d)
    else if (c.opc = 7 ∨ c.opc = 8) ∧ ¬ c.fin then d
    else
      let d1 := if c.writes ∧ c.fua ∧ c.grp.isNone ∧ c.fails.isEmpty then waitDurable tag c.need d
        else meet tag d
      flushAll (memberDone c d1)

/-- One item of a command's work ends. -/
def workDone (tag : Nat) (d : Dev) : Dev :=
  cmdCheck tag (updCmd tag (fun c => { c with left := c.left - 1 }) d)

/-! ### Write jobs end (R33 step 7, R34, R208, R411, R413) -/

/-- The address that a placed granule's entry names (R207): its first page unit and codeword slot. -/
def firstAddr (d : Dev) (w : WJob) : Nat :=
  match w.pieces with
  | p :: _ => match band d p.band with
    | some b =>
      let m := member b (dataPos d b p.j)
      mkAddr m.1 (p.cw / 4) m.2 p.row (p.cw % 4)
    | none => 0
  | [] => 0

/-- The stripe set of a placed granule. -/
def placeSet (d : Dev) (w : WJob) : Nat :=
  match w.pieces with
  | p :: _ => match band d p.band with
    | some b => b.set
    | none => 0
  | [] => 0

/-- The open group's change that stands right above a version of a granule (R168). -/
def overChange (d : Dev) (g no : Nat) : Option (Nat × GChange) :=
  let next := nextVer d g no
  d.groups.findSome? (fun x => if x.aborted then none
    else (x.chg.find? (fun c => c.gran == g && c.no == next && decide (no < next))).map (fun c => (x.id, c)))

/-- A WRITE's, TRIM's or COPY's change of an entry (R33 step 7, R165, R208, R414): the entry takes its value, and its
record goes to Clasp, or to the group's area for a member. A change that comes after that of a later command (R179) lies
below it: where an open group holds the later one, it is what an abort goes back to, and its record is made all the
same; else it has no effect any more. -/
def changeMap (g : Gran) (no e wseq : Nat) (grp : Option Nat) (d : Dev) : Dev :=
  let note := fun (old : Nat) (x : Dev) => match grp with
    | some id => updGroup id (fun y => { y with chg := y.chg ++ [⟨g.idx, no, old, e, wseq⟩] }) x
    | none => jMap g.idx e wseq 0 x
  if isNewest d g.idx no then
    let old := mapE d g.idx
    note old (dirtyEntry g.idx (changeEntry g no e d))
  else
    match overChange (updLan (fun l => { l with hist := l.hist ++ [⟨g.idx, no, e, false⟩] }) d) g.idx no with
    | none => changeEntry g no e d
    | some (id, c) =>
      note c.prev (changeEntry g no e (updGroup id (fun y => { y with
        chg := updWhere (fun x => x.gran == c.gran && x.no == c.no) (fun x => { x with prev := e }) y.chg }) d))

/-- The group of a command (R164). -/
def cmdGroup (d : Dev) (tag : Nat) : Option Nat := (cmd? d tag).bind (·.grp)

/-- A host write's map change (R33 step 7, R208): the entry takes its new place and generation. -/
def mapWrite (w : WJob) (g : Gran) (d : Dev) : Dev :=
  let gen := if isNewest d w.gran w.no then (eGen (mapE d w.gran) + 1) % 256 else w.gen
  changeMap g w.no (mkEntry gen (placeSet d w) (firstAddr d w)) w.wseq (w.tag.bind (cmdGroup d)) d

/-- The line of an entry is lost: a command that needs it fails for the granule's sectors (R490). -/
def entryLost (d : Dev) (g : Nat) : Bool := lineGone d (mapLine g)

/-- A command fails for the sectors of a granule whose entry is lost. -/
def failGran (tag : Nat) (secs : List Nat) (d : Dev) : Dev := secs.foldl (fun x s => cmdBad tag s 0x0301 x) d

/-- A job's command belongs to an aborted group (R168). -/
def jobAborted (d : Dev) (w : WJob) : Bool :=
  match w.tag with
  | some t => match cmd? d t with
    | some c => match c.grp with
      | some id => match group? d id with
        | some g => g.aborted
        | none => false
      | none => false
    | none => false
  | none => false

/-- A job leaves: its SB space is freed (R33 step 7), or goes to the job that reads the same copy. -/
def dropJob (w : WJob) (d : Dev) : Dev :=
  let d1 := updLan (fun l => { l with wjobs := l.wjobs.filter (fun x => x.id ≠ w.id) }) d
  match d1.lan.wjobs.find? (fun x => x.sb == w.sb && !w.sb.isEmpty) with
  | some x => updLan (fun l => { l with
      res := l.res.map (fun r => if r.own = .wjob w.id then { r with own := .wjob x.id } else r) }) d1
  | none => sbFree (.wjob w.id) d1

/-- A job whose every piece has passed: the map changes, and its command goes on. A relocation copy waits
for its switch (R39); a job given up or aborted changes nothing. -/
def finishJob (w : WJob) (d : Dev) : Dev :=
  match w.reloc with
  | some r =>
    updLan (fun l => { l with
      relocs := updWhere (fun x => x.id == r) (fun x => { x with
        left := x.left - 1,
        copies := x.copies ++ [(w.gran, w.src, mkEntry (eGen w.src) (placeSet d w) (firstAddr d w), w.wseq)] })
        l.relocs }) (dropJob w d)
  | none =>
    let d1 := match granIdx d w.gran with
      | some g => if w.dead ∨ jobAborted d w then d
          else if entryLost d w.gran then (match w.tag with
            | some t => failGran t (((List.range g.nsec).filter (bit w.mask)).map (g.first + ·)) d
            | none => d)
          else cntN 0x2108 4 ((List.range g.nsec).filter (bit w.mask)).length (mapWrite w g d)
      | none => d
    let d2 := dropJob w d1
    match w.tag with
    | some t => workDone t (updCmd t (fun c => { c with need := d2.clasp.recNo }) d2)
    | none => d2

/-- Bits lo to hi - 1. -/
def maskRange (lo hi : Nat) : Nat := 2 ^ hi - 2 ^ (min lo hi)

/-- A job's every piece has passed. -/
def jobPassed (w : WJob) : Bool := !w.pieces.isEmpty && w.pieces.all (·.passed)

/-- Map changes are made while the journal buffer has room (R413). -/
def finishJobs (d : Dev) : Dev :=
  (d.lan.wjobs.filter jobPassed).foldl (fun x w =>
    if jbufUsed x < jbufCap x then finishJob w x else x) d

/-- A job is given up: what has not been driven to a die is written as uncorrectable, and nothing will name it. An
unplaced job leaves at once. -/
def killJob (w : WJob) (d : Dev) : Dev :=
  if w.pieces.isEmpty then
    let d1 := dropJob w d
    match w.tag with
    | some t => workDone t d1
    | none => d1
  else updWjob w.id (fun x => { x with dead := true, bad := nAndNot (2 ^ (2 ^ x.key.glog) - 1) x.driven }) d

/-! ### Member slots and rows end -/

/-- A member slot's program has passed (R206, R411): its pieces pass, and the row and band go on. -/
def slotPassed (b r j : Nat) (d : Dev) : Dev :=
  let uses : List SlotUse := match band d b with
    | some bd => match bd.rows.find? (fun x => x.row == r) with
      | some rw => match rw.slots[j]? with
        | some m => m.uses
        | none => []
      | none => []
    | none => []
  let d1 := updSlot b r j (fun m => if m.st = .folded then { m with st := .passed } else m) d
  uses.foldl (fun x u => updWjob u.job (fun w => { w with
    pieces := updWhere (fun p => p.band == b && p.row == r && p.j == j) (fun p => { p with passed := true })
      w.pieces }) x) d1

end Sys2Proof.Machine
end

