-- ==== Sys2Proof/Machine/Level.lean ====
section
/-! DEFINITION. Predicted read levels, level-set slots and what a decode teaches
(10_read_recovery.md R383 to R395). -/

namespace Sys2Proof.Machine

/-! ### Bands and cells (R383, R384) -/

/-- The highest index whose bound is at or below a value (R383). -/
def bandIdx (v : Int) (bounds : List Int) : Nat :=
  ((bounds.zipIdx).foldl (fun (b : Nat) x => if x.1 ≤ v then x.2 else b) 0)

/-- Pages per block of a die. -/
def diePages (d : Dev) (n : Nat) : Nat := match (die d n).geom with
  | some g => g.pages
  | none => 1

/-- The timestamp in whole seconds (R383). -/
def nowS (d : Dev) : Nat := d.ts / 1000000000

/-- No usable time: lm_nosync_band stands for retb (R383). -/
def noTime (d : Dev) (n b : Nat) : Bool := od d 0x2010 2 == 0 || decide (nowS d < (blk d n b).ptime)

/-- The bounds of a DOMAIN of k-byte values. -/
def domBounds (bs : Bytes) (k cnt : Nat) : List Int :=
  (List.range cnt).map (fun i => (leAt bs (k * i) k : Int))

/-- The cell of a read (R383, R384). -/
def cellOf (d : Dev) (n b pg : Nat) : Nat :=
  let x := blk d n b
  let zone := bandIdx ((pg * 256 / max 1 (diePages d n) : Nat) : Int)
    ((List.range 4).map (fun i => (bits (od d 0x2301 6) (8 * i) 8 : Int)))
  let peb := bandIdx (x.pe : Int) (domBounds (getB d 0x2301 7) 2 8)
  let retb := if noTime d n b then od d 0x2301 0x0A
    else bandIdx ((nowS d - x.ptime : Nat) : Int) (domBounds (getB d 0x2301 8) 4 8)
  let tdb := bandIdx (dieC d n - x.ptemp)
    ((List.range 4).map (fun i => sext (bits (od d 0x2301 9) (8 * i) 8) 8))
  ((((if x.slc then 0 else 1) * 4 + zone) * 8 + peb) * 8 + retb) * 4 + tdb

/-- The 128 bits of a cell. -/
def cellWord (d : Dev) (g cell : Nat) : Nat := leAt (getB d 0x2304 (g + 1)) (16 * cell) 16

/-- off16 of a threshold (R384). -/
def off16 (w t : Nat) : Int := sext (bits w (16 * t) 16) 16

/-- Thresholds of a mode in a group. -/
def thrCount (d : Dev) (g : Nat) (slc : Bool) : Nat := if slc then 1 else od d (lgIdx g) 1

/-- A level set of seven zeros: slot 0 (R386). -/
def zeroLevels : List Int := [0, 0, 0, 0, 0, 0, 0]

/-- The prediction of R385, seven thresholds with zeros above those the mode has. -/
def predict (d : Dev) (g cell : Nat) (slc : Bool) : List Int :=
  if od d 0x2301 1 = 2 then zeroLevels
  else
    let w := cellWord d g cell
    let mx : Int := od d 0x2301 4
    (List.range 7).map (fun t => if t < thrCount d g slc then clip (roundDiv (off16 w t) 16) (-mx) mx else 0)

/-- A shift added to a level set, clipped to -127 to 127 (R385). -/
def addLevels (a b : List Int) : List Int :=
  (List.range 7).map (fun t => clip (a.getD t 0 + b.getD t 0) (-127) 127)

/-- The same shift on every threshold the mode has (R389). -/
def evenShift (d : Dev) (g : Nat) (slc : Bool) (k : Int) : List Int :=
  (List.range 7).map (fun t => if t < thrCount d g slc then k else 0)

/-- Retry entry k of a group (R388). -/
def retryEnt (d : Dev) (g : Nat) (slc : Bool) (k : Nat) : List Int :=
  let b := getB d (lgIdx g) 9
  (List.range 7).map (fun t => if t < thrCount d g slc then
    sext (leAt b ((if slc then 64 else 0) + 8 * k + t) 1) 8 else 0)

/-- The retry entries that step 2 uses, as they stand now (R378, R388). -/
def retryList (d : Dev) (g : Nat) (slc : Bool) : List (List Int) :=
  (List.range (od d (lgIdx g) (if slc then 8 else 7))).map (retryEnt d g slc)

/-! ### Level-set slots (R386) -/

/-- A queued entry of the channel names a slot. -/
def slotNamed (d : Dev) (ch s : Nat) : Bool :=
  (List.range (diesPerCh d.cfg)).any (fun k =>
    (die d (dieAt d.cfg ch k)).q.any (fun e => e.op == 0 && e.lvl == s))

/-- Marks a slot most recently used. -/
def useSlot (ch s : Nat) (d : Dev) : Dev :=
  updChan ch (fun c => { c with lvlUsed := c.lvlUsed.filter (· ≠ s) ++ [s] }) d

/-- The slot of a level set: the one that holds it, else a slot never used, else the least recently used one
no queued entry names; no die of the channel holds a slot taken anew (R386). -/
def takeLevel (ch : Nat) (lv : List Int) (d : Dev) : Option (Nat × Dev) :=
  let c := chan d ch
  if lv = zeroLevels then some (0, d)
  else
    match c.levels.find? (fun x => x.2 == lv) with
    | some x => some (x.1, useSlot ch x.1 d)
    | none =>
      let fresh := ((List.range 255).map (· + 1)).find? (fun s => !(c.levels.any (fun x => x.1 == s)))
      let s? := fresh.or (c.lvlUsed.find? (fun s => s != 0 && !slotNamed d ch s))
      s?.map (fun s =>
        let d1 := updChan ch (fun c => { c with levels := tabSet [] c.levels s lv }) d
        let d2 := (List.range (diesPerCh d.cfg)).foldl (fun x k =>
          updDie (dieAt d.cfg ch k) (fun y => { y with
            lvlSlot := if y.lvlSlot = some s then none else y.lvlSlot }) x) d1
        (s, useSlot ch s d2))

/-- What burst 0x12 sends a die for a slot (R387): each feature address with its four parameter bytes; unused bytes 0. -/
def levelBytes (d : Dev) (ch n lv : Nat) : Bytes :=
  let g := lmGroup d ch
  let slc := (((die d n).q.find? (fun e => e.op == 0 && e.lvl == lv)).map (·.slc)).getD false
  let l := if lv = 0 then zeroLevels else tabGet zeroLevels (chan d ch).levels lv
  let byte := fun (t : Nat) => if t < thrCount d g slc then leBytes 1 (ofInt (l.getD t 0) 8) else [0]
  (List.range (if slc then 1 else cdiv (thrCount d g slc) 4)).flatMap (fun i =>
    leBytes 1 (featAddr d g slc + i) ++ (List.range 4).flatMap (fun j => byte (4 * i + j)))

/-! ### What a decode teaches (R391 to R394) -/

/-- The thresholds that the page's type uses (R392). -/
def pageThr (d : Dev) (g pg : Nat) (slc : Bool) : List Nat :=
  if slc then [0]
  else setBits (bits (od d (lgIdx g) 3) (8 * (pg % max 1 (od d (lgIdx g) 2))) 8) 7

/-- A block read of lm_cells is open (R394). -/
def cellsRead (d : Dev) : Bool := (List.range 4).any (fun g => readHeld d (ek 0x2304 (g + 1)))

/-- An update joins the queue of 64, or is discarded and counted (R394). -/
def teach (u : LmUpd) (d : Dev) : Dev :=
  if 64 ≤ d.lan.lmq.length ∨ cellsRead d then cnt 0x2303 9 d
  else updLan (fun l => { l with lmq := l.lmq ++ [u] }) d

/-- The cell after an update (R392, R393). -/
def learnCell (d : Dev) (u : LmUpd) (w : Nat) : Nat :=
  let mx : Int := 16 * od d 0x2301 4
  let sh := od d 0x2301 2
  let s : Int := tdiv (((u.n01 : Int) - u.n10) * 256) (u.n01 + u.n10)
  let new := fun (t : Nat) =>
    let o := off16 w t
    if u.thr.contains t then
      match u.retry with
      | some re => clip (o + tdiv (16 * re.getD t 0) (2 ^ sh : Nat)) (-mx) mx
      | none => clip (o - tdiv (s * sext (bits (od d (lgIdx u.grp) 4) (8 * t) 8) 8) (256 * 2 ^ sh : Nat)) (-mx) mx
    else o
  ((List.range 7).map (fun t => fld (ofInt (new t) 16) (16 * t) 16)).sum +
    fld (satTo (bits w 112 8 + 1) 255) 112 8 + fld (bits w 120 8) 120 8

/-- LM_UPDATE (R394): one waiting update is applied to its cell; while a block read of the cells is open it is discarded
and counted. -/
def lmUpdate (d : Dev) : Dev :=
  match d.lan.lmq with
  | [] => d
  | u :: t =>
    let bs := getB d 0x2304 (u.grp + 1)
    if cellsRead d then cnt 0x2303 9 (updLan (fun l => { l with lmq := t }) d)
    else cnt 0x2303 8 (putB 0x2304 (u.grp + 1)
      (patchBytes bs (16 * u.cell) (leBytes 16 (learnCell d u (cellWord d u.grp u.cell))))
      (updLan (fun l => { l with lmq := t }) d))

def execLmUpdate (s : State) : Host.Outcome State Fault Refusal := run lmUpdate s

end Sys2Proof.Machine
end

