-- ==== Sys2Proof/Machine/Codeword.lean ====
section
/-! DEFINITION. What a codeword holds: metadata, payloads of member slots, accumulators
(09_codes_and_randomizer.md R347 to R366). -/

namespace Sys2Proof.Machine

/-- The mark of a sector that holds no valid data (R349). -/
def noSec : Nat := 0xFFFFFFFFFF

/-- The low 64 bits of the metadata (R349). -/
def metaQw (lsec gen stream kind rset : Nat) : Nat :=
  fld lsec 0 40 + fld gen 40 8 + fld stream 48 6 + fld kind 54 2 + fld rset 56 4

/-- A payload: data and metadata with its m_crc (R347, R349, R350). -/
def mkPayload (data : Bytes) (qw wseq : Nat) : Bytes :=
  let b := fit 4096 data ++ leBytes 8 qw ++ leBytes 8 (wseq % 2 ^ 48) ++ zeros 12
  b ++ leBytes 4 (crc32c b)

/-- m_lsec, m_crc and the low quadword of a payload. -/
def payLsec (p : Bytes) : Nat := leAt p 4096 5
def payQw (p : Bytes) : Nat := leAt p 4096 8
def payCrcOk (p : Bytes) : Bool := leAt p 4124 4 == crc32c (p.take 4124)

/-- A pad codeword (R351, R205). -/
def padPayload (wseq : Nat) : Bytes := mkPayload [] (metaQw noSec 0 0 2 0) wseq

/-- The SB copy of a job's sector can be read: its bank answers (R486). -/
def sbGood (d : Dev) (a : Nat) : Bool := bankOn d (a / 524288)

/-- The payload of a sector of a job that holds no data: zeros with m_lsec all ones (R222, R486, R598). -/
def lostPayload (w : WJob) : Bytes := mkPayload [] (metaQw noSec w.gen w.stream 0 w.rset) w.wseq

/-- The payload of sector i of a job with its data: the sector and its metadata (R351). -/
def dataPayload (w : WJob) (i : Nat) (bs : Bytes) : Bytes :=
  mkPayload bs (match tabGet 0 w.metas i with
    | 0 => metaQw (w.first + i) w.gen w.stream 0 w.rset
    | m => m) w.wseq

/-- The payload of sector i of a job from its SB copy; past the granule's end, and where the data is lost or was
uncorrectable, it holds no data. -/
def jobPayload (d : Dev) (w : WJob) (i : Nat) : Bytes :=
  let a := w.sb.getD i 0
  if w.nsec ≤ i ∨ (¬ bit w.driven i ∧ (bit w.bad i ∨ ¬ sbGood d a)) then lostPayload w
  else dataPayload w i (sbRead d a 4096)

/-- The piece of a member slot that covers a codeword slot. -/
def useAt (m : MSlot) (cw : Nat) : Option SlotUse :=
  m.uses.find? (fun u => decide (u.cw ≤ cw) && decide (cw < u.cw + u.cnt))

/-- The payload of codeword slot cw (plane * 4 + slot) of a member slot. -/
def slotPayload (d : Dev) (m : MSlot) (cw : Nat) : Bytes :=
  match useAt m cw with
  | some u => match wjob d u.job with
    | some w => jobPayload d w (u.sec + (cw - u.cw))
    | none => padPayload m.pad
  | none => padPayload m.pad

/-- The SB place of an accumulator entry (R205: four payloads for each plane). -/
def accAt (r : Row) (plane slot : Nat) : Nat := r.acc + (plane * 4 + slot) * 4128

/-- A row of a band. -/
def rowOf (b : Band) (r : Nat) : Option Row := b.rows.find? (fun x => x.row == r)

/-- The active code of a channel for a mode (R356); the system region uses code A. -/
def codeOf (d : Dev) (ch : Nat) (slc sys : Bool) : Nat :=
  if sys then 0 else od d (chIdx ch 6) (if slc then 4 else 3)

/-- N of a code (R347). -/
def codeLen (code : Nat) : Nat := if code = 1 then 4576 else if code = 2 then 4704 else 4640

/-- The key of a block (R361). -/
def rndKey (d : Dev) (n b : Nat) : Nat := if inSystem d n b then 0 else od d 0x2200 1

/-- A codeword as it is driven to the NAND (R358): encoded and randomised. -/
def encodeCw (d : Dev) (code addr : Nat) (p : Bytes) : Bytes :=
  randomise (codeSeed addr (rndKey d (aDie addr) (aBlock addr))) (p ++ parityBytes code p)

/-! ### Rebuilding (R231) -/

/-- A member's page of a row is absent by its cut_row. -/
def absentAt (d : Dev) (b : Band) (pos row : Nat) : Bool := decide (cutRow d b pos ≤ row)

/-- x on a page is rebuildable (R231); not while its band's record is lost (R490) or an entry of its row's accumulator is
rebuilt (R486). -/
def rebuildable (d : Dev) (addr : Nat) : Bool :=
  match bandOf d (aDie addr) (aBlock addr) with
  | none => false
  | some b =>
    let pos := posOf b (aDie addr)
    let row := aPage addr
    let opn := (rowOf b row).isSome
    !absentAt d b pos row && !bandLost d b.set b.bidx && !accFixing d b.id row &&
    (List.range b.mem.length).all (fun q => q == pos || absentAt d b q row ||
      (opn && q == parPos d b) || (die d (member b q).1).st != .failed) &&
    (opn || (decide (row < b.next) && !absentAt d b (parPos d b) row))

/-- The members whose page of the row is read for a rebuild, and the XOR of what stands in SB for a codeword
slot: the accumulator of an open row and the SB copies of members folded into it and not passed (R231). -/
def rebuildParts (d : Dev) (addr slot : Nat) : List (Nat × Nat) × Bytes :=
  match bandOf d (aDie addr) (aBlock addr) with
  | none => ([], zeros 4128)
  | some b =>
    let pos := posOf b (aDie addr)
    let row := aPage addr
    let others := (List.range b.mem.length).filter (fun q => q != pos && !absentAt d b q row)
    match rowOf b row with
    | none => (others.map (member b), zeros 4128)
    | some r =>
      let cw := aPlane addr * 4 + slot
      let acc0 := sbRead d (accAt r (aPlane addr) slot) 4128
      (others.filter (fun q => q != parPos d b)).foldl (fun a q => match r.slots[dataJ d b q]? with
        | none => a
        | some m =>
          if m.st = .passed then (a.1 ++ [member b q], a.2)
          else if bit m.fold (aPlane addr) then (a.1, xorBytes a.2 (slotPayload d m cw))
          else a) ([], acc0)

/-- The ranges of SB (address, length) that a rebuild of a codeword slot reads: the accumulator entry of an open row and
the sectors of the members folded into it and not passed (R231). -/
def rebuildReads (d : Dev) (addr slot : Nat) : List (Nat × Nat) :=
  match bandOf d (aDie addr) (aBlock addr) with
  | none => []
  | some b => match rowOf b (aPage addr) with
    | none => []
    | some r =>
      let cw := aPlane addr * 4 + slot
      (accAt r (aPlane addr) slot, 4128) :: r.slots.filterMap (fun m =>
        if m.st = .passed ∨ ¬ bit m.fold (aPlane addr) then none
        else match useAt m cw with
          | some u => (wjob d u.job).map (fun w => (w.sb.getD (u.sec + (cw - u.cw)) 0, 4096))
          | none => none)

end Sys2Proof.Machine
end

