-- ==== Sys2Proof/Machine/Work.lean ====
section
/-! DEFINITION. What reads serve: granule reads of commands, merges, copies and relocations, the raw
path's end, and the in-path work of SCAN, HASH and DESTAGE-VIEW
(04_work_rings.md R160 to R175; 05 R222, R229; 06 R274; 10 R381). -/

namespace Sys2Proof.Machine

/-! ### Reads -/

def rjob (d : Dev) (id : Nat) : Option RJob := d.lan.rjobs.find? (fun r => r.id == id)
def updRjob (id : Nat) (f : RJob → RJob) (d : Dev) : Dev :=
  updLan (fun l => { l with rjobs := updWhere (fun r => r.id == id) f l.rjobs }) d
def dropRjob (id : Nat) (d : Dev) : Dev :=
  updLan (fun l => { l with rjobs := l.rjobs.filter (fun r => r.id ≠ id) }) d

/-- A new read; answers with its number. -/
def addRead (own : ROwn) (no cls gran addr glog : Nat) (parity : Bool) (secs : List RSec) (d : Dev) : Nat × Dev :=
  let (id, d1) := freshId d
  let r : RJob :=
    { id := id, own := own, no := no, gran := gran, addr := addr, cls := cls, pol := 0, glog := glog,
      parity := parity, secs := secs, st := .fresh, grp := 0, cell := none, pred := zeroLevels,
      slc := false, looked := false, bf := 0, slotW := false }
  (id, updLan (fun l => { l with rjobs := l.rjobs ++ [r] }) d1)

/-- The sectors lo to hi - 1 of a granule as a read's list. -/
def granSecs (g : Gran) (lo hi : Nat) : List RSec :=
  ((List.range g.nsec).filter (fun i => decide (lo ≤ g.first + i) && decide (g.first + i < hi))).map
    (fun i => { lsec := g.first + i, slot := i, dst := 0, fin := false, bad := 0 })

/-- One granule read for each granule a READ touches (R36). -/
def readGranules (tag : Nat) (c : Cmd) (d : Dev) : Dev :=
  let gs := granRange d c.slba c.nsec
  gs.foldl (fun x g => (addRead (.cmd tag) c.no 0 g.idx 0 g.glog false (granSecs g c.slba (c.slba + c.nsec)) x).2)
    (updCmd tag (fun c => { c with left := gs.length }) d)

/-! ### SCAN and HASH (R170 to R172) -/

/-- The next granule of a SCAN or HASH, or the end of its range. -/
def nextGran (tag : Nat) (d : Dev) : Dev :=
  match cmd? d tag with
  | none => d
  | some c =>
    if c.fin ∨ c.slba + c.nsec ≤ c.cur then cmdCheck tag (updCmd tag (fun c => { c with fin := true }) d)
    else match granOf d c.cur with
      | none => cmdCheck tag (updCmd tag (fun c => { c with fin := true }) d)
      | some g =>
        let hi := min (g.first + g.nsec) (c.slba + c.nsec)
        (addRead (.cmd tag) c.no 0 g.idx 0 g.glog false (granSecs g c.cur hi)
          (updCmd tag (fun c => { c with cur := hi }) d)).2

/-- The offsets SCAN tests in a sector (R170). -/
def scanOffs (c : Cmd) : List Nat :=
  let off := bits c.q4 0 12
  let st := 8 * bits c.q4 24 8
  if st = 0 then [off] else ((List.range 512).map (fun i => off + st * i)).filter (· ≤ 4088)

/-- The predicate of SCAN (R170). -/
def scanHit (c : Cmd) (v : Nat) : Bool :=
  let a := nAnd v c.q5
  let b := nAnd c.q6 c.q5
  match bits c.q4 16 8 with
  | 0 => a == b
  | 1 => a != b
  | 2 => decide (a < b)
  | _ => decide (b ≤ a)

/-- A SCAN record (R171). -/
def scanRec (sec off v : Nat) : Bytes := leBytes 8 (fld off 40 12 + fld sec 0 40) ++ leBytes 8 v

/-- Records that a SCAN may write (R158, R171). -/
def scanCap (c : Cmd) : Nat :=
  let m := bits c.q7 0 32
  if m = 0 then c.dlen / 16 else min (c.dlen / 16) m

/-- How a scan stands: records so far, their bytes, whether it stopped, whether anything was left, whether a
marker was written, and the status of the sector it failed at. -/
structure ScanSt where
  cnt : Nat
  out : Bytes
  stop : Bool
  rest : Bool
  mark : Bool
  err : Nat

/-- One field. -/
def scanField (c : Cmd) (sec : Nat) (data : Bytes) (s : ScanSt) (off : Nat) : ScanSt :=
  if s.stop then { s with rest := true }
  else
    let v := leAt data off 8
    if scanHit c v then
      { s with cnt := s.cnt + 1, out := s.out ++ scanRec sec off v, stop := decide (scanCap c ≤ s.cnt + 1) }
    else s

/-- One sector: its number, failure status and contents (R171). -/
def scanSector (c : Cmd) (s : ScanSt) (x : Nat × Nat × Bytes) : ScanSt :=
  if s.stop then { s with rest := true }
  else if x.2.1 ≠ 0 then
    let room := decide (s.cnt < c.dlen / 16)
    { s with
      cnt := s.cnt + b2n room, out := if room then s.out ++ scanRec x.1 0xFFF 0 else s.out,
      stop := true, rest := true, mark := room, err := x.2.1 }
  else (scanOffs c).foldl (scanField c x.1 x.2.2) s

/-- The sectors of a granule through SCAN (R170, R171). -/
def scanGran (tag : Nat) (c : Cmd) (xs : List (Nat × Nat × Bytes)) (d : Dev) : Dev :=
  let s := xs.foldl (scanSector c) { cnt := bits c.result 0 32, out := [], stop := false, rest := false, mark := false, err := 0 }
  let rest := s.rest || (s.stop && decide (c.cur < c.slba + c.nsec))
  let d1 := updCmd tag (fun y => { y with
    result := s.cnt + fld (b2n rest) 32 1 + fld (b2n s.mark) 33 1, outB := y.outB ++ s.out, fin := s.stop }) d
  if s.err = 0 then d1 else cmdFail tag s.err d1

/-- The digest of an extent (R172); one that holds a failed sector is undefined. -/
def digest (c : Cmd) (bad : Bool) (ext : Bytes) (d : Dev) : Bytes × Dev :=
  let n := if bit c.q4 0 then 32 else 8
  if bad then ((List.range n).map (Config.freeByte d.free), { d with free := d.free + 1 })
  else if bit c.q4 0 then (sha256 ext, d) else (leBytes 8 (crc64xz ext), d)

/-- One sector through HASH. -/
def hashSector (tag sec : Nat) (data : Bytes) (d : Dev) : Dev :=
  match cmd? d tag with
  | none => d
  | some c =>
    let ext := c.ext ++ fit 4096 data
    let x := bits c.q4 16 16 + 1
    let k := sec - c.slba + 1
    if k % x = 0 ∨ k = c.nsec then
      let bad := c.bad.any (fun s => decide (sec < s + ext.length / 4096) && decide (s ≤ sec))
      let r := digest c bad ext d
      updCmd tag (fun y => { y with ext := [], outB := y.outB ++ r.1 }) r.2
    else updCmd tag (fun y => { y with ext := ext }) d

/-- A granule's sectors through the inline engine; `none` is a sector that reads as zeros and is not mapped. -/
def consume (tag : Nat) (xs : List (Nat × Nat × Option Bytes)) (d : Dev) : Dev :=
  match cmd? d tag with
  | none => d
  | some c =>
    if c.opc = 7 then
      nextGran tag (scanGran tag c (xs.filterMap (fun x =>
        if x.2.1 ≠ 0 then some (x.1, x.2.1, []) else x.2.2.map (fun b => (x.1, 0, b)))) d)
    else nextGran tag (xs.foldl (fun y x => hashSector tag x.1 (x.2.2.getD []) y) d)

/-! ### DESTAGE-VIEW (R173, R174, R228, R229) -/

/-- `ptime_s` of the block that holds a sector which a command sees mapped, its granule held for a zone family by the
block of its first page unit (R173, R179, R228, R229). -/
def famPtime (d : Dev) (no zf sec : Nat) : Option Nat :=
  match granOf d sec with
  | none => none
  | some g =>
    let e := entryAt d g.idx no
    let a := eAddr e
    let u := (secAddr d e g.glog (sec - g.first)).getD a
    if ¬ eTrim e ∧ (blk d (aDie a) (aBlock a)).zfam = zf then some (blk d (aDie u) (aBlock u)).ptime else none

/-- Walks sectors and gathers runs: (first sector, length, smallest ptime), newest first. -/
def destRuns (d : Dev) (no zf zs : Nat) : Nat → Nat → List (Nat × Nat × Nat) → List (Nat × Nat × Nat)
  | 0, _, acc => acc
  | n + 1, sec, acc =>
    match famPtime d no zf sec with
    | none => destRuns d no zf zs n (sec + 1) acc
    | some pt =>
      match acc with
      | (f, l, p) :: t =>
        if f + l = sec ∧ sec % zs ≠ 0 then destRuns d no zf zs n (sec + 1) ((f, l + 1, min p pt) :: t)
        else destRuns d no zf zs n (sec + 1) ((sec, 1, pt) :: acc)
      | [] => destRuns d no zf zs n (sec + 1) [(sec, 1, pt)]

/-- A DESTAGE-VIEW record; age_s saturates. -/
def destRec (d : Dev) (r : Nat × Nat × Nat) : Bytes :=
  leBytes 8 (fld r.1 0 40 + fld r.2.1 40 24) ++ leBytes 8 (satTo (nowS d - r.2.2) 0xFFFFFFFF)

/-- DESTAGE-VIEW's whole walk. -/
def destageView (tag : Nat) (c : Cmd) (d : Dev) : Dev :=
  let span := bits c.q5 0 40
  let stop := if span = 0 then d.lan.cap else min d.lan.cap (c.slba + span)
  let runs := (destRuns d c.no (bits c.q4 0 12) (bits c.q4 16 24) (stop - c.slba) c.slba []).reverse
  let k := c.dlen / 16
  updCmd tag (fun y => { y with
    outB := (runs.take k).flatMap (destRec d), result := min k runs.length + fld (b2n (decide (k < runs.length))) 32 1,
    left := 0 }) d

/-! ### The raw path's end (06 R271, R274, R275) -/

/-- raw_data takes an operation's data; while a block read of it is open the data waits (R123). -/
def putRaw (bs : Bytes) (d : Dev) : Dev :=
  if readHeld d (ek 0x2050 7) then { d with rawp := { d.rawp with hold := some bs } } else putB 0x2050 7 bs d

/-- A raw operation's data, for an operation that returns any. -/
def rawOut (d : Dev) : Bytes := if [1, 5, 8, 9].contains d.rawp.rop then d.rawp.data else []

/-- An unpredictable operation's status byte, cause and data are free (R271, R554). -/
def rawWild (d : Dev) : Dev × Nat × Nat :=
  let v := freeVal d
  let b := freeBytes v.2.rawp.data.length v.2
  ({ b.2 with rawp := { b.2.rawp with data := b.1, wild := !b.2.rawp.todo.isEmpty } }, v.1.toNat % 256, v.1.toNat / 256 % 5)

/-- A raw operation ends: status byte, cause (0 none), and its data. A ring's operation with a cause the spec gives no
ring status for, TIMEOUT or UNCORRECTABLE, posts MEDIA_ERROR (DESIGN CHOICE, log 83). -/
def rawDone (status cause : Nat) (d : Dev) : Dev :=
  match d.rawp.req with
  | none => d
  | some q =>
    let d1 := cnt 0x2050 0x0B { d with rawp := { d.rawp with req := none, phase := 0 } }
    match q.src with
    | .od _ =>
      let d2 := put 0x2050 5 (if cause = 0 then 2 else 3) (put 0x2050 6 status (put 0x2050 9 cause d1))
      if (rawOut d).isEmpty then d2 else putRaw (rawOut d) d2
    | .ring t =>
      let d2 := updCmd t (fun c => { c with
        result := status, outB := if cause = 0 then rawOut d else [] }) d1
      let d3 := match cause with
        | 0 => d2
        | 1 => cmdFail t 0x0105 d2
        | 3 => cmdFail t 0x0303 d2
        | _ => cmdFail t 0x0301 d2
      workDone t d3

/-- The same for an operation that a host-made error made unpredictable. -/
def rawEnd (status cause : Nat) (d : Dev) : Dev :=
  if d.rawp.wild ∧ d.rawp.req.isSome then
    let w := rawWild d
    rawDone w.2.1 w.2.2 w.1
  else rawDone status cause d

/-! ### Sectors of granule reads end -/

/-- The sectors of a read as SCAN or HASH takes them from SB: an uncorrectable word there fails the sector (R486). -/
def engineSecs (tag : Nat) (c : Cmd) (secs : List RSec) (d : Dev) : List (Nat × Nat × Option Bytes) × Dev :=
  secs.foldl (fun a x =>
    if x.bad ≠ 0 then (a.1 ++ [(x.lsec, x.bad, some [])], a.2)
    else
      let f := sbFetch .lantern x.dst 4096 a.2
      if f.2.1.isEmpty then (a.1 ++ [(x.lsec, 0, some f.1)], f.2.2)
      else (a.1 ++ [(x.lsec, 0x0301, some f.1)], if c.opc = 7 then f.2.2 else cmdBad tag x.lsec 0x0301 f.2.2)) ([], d)

/-- A granule read's every sector has ended (R36 step 7, R599). -/
def granEnd (r : RJob) (d : Dev) : Dev :=
  match r.own with
  | .cmd tag => (match cmd? d tag with
    | none => sbFree (.rjob r.id) (dropRjob r.id d)
    | some c =>
      if c.opc = 2 then
        let segs := (r.secs.filter (fun x => x.bad == 0)).map (fun x =>
          { off := (x.lsec - c.slba) * 4096, sb := x.dst, len := 4096, rd := r.id : OutSeg })
        let d1 := dropRjob r.id d
        let d2 := if segs.isEmpty then sbFree (.rjob r.id) d1 else d1
        workDone tag (updCmd tag (fun y => { y with out := y.out ++ segs }) d2)
      else
        let xs := engineSecs tag c r.secs d
        consume tag xs.1 (sbFree (.rjob r.id) (dropRjob r.id xs.2)))
  | .wjob id => updWjob id (fun w => { w with reads := w.reads - 1 }) (dropRjob r.id d)
  | _ => dropRjob r.id d

/-- A COPY's source read: the sector it reads is not the destination's own. -/
def copySource (d : Dev) (w : WJob) (x : RSec) : Bool :=
  match w.tag with
  | some t => match cmd? d t with
    | some c => c.opc == 6 && x.lsec != w.first + ((w.sb.findIdx? (· == x.dst)).getD 0)
    | none => false
  | none => false

/-- The effect of a sector's end on a write job (R169, R222, R381); a COPY that a host-made error made unpredictable gives
its destination free data (R11, R169). -/
def wjobSec (id : Nat) (x : RSec) (bad : Nat) (d : Dev) : Dev :=
  match wjob d id with
  | none => d
  | some w =>
    let i := (w.sb.findIdx? (· == x.dst)).getD 0
    if bad = 0 then
      let y := if (w.tag.bind (cmd? d)).any (·.wild) then
          let v := freeBytes 4096 d
          sbStore .lantern x.dst v.1 v.2
        else d
      updWjob id (fun w => { w with landed := setBit w.landed i true }) y
    else if copySource d w x then
      let d1 := match w.tag with
        | some t => cmdBad t x.lsec bad d
        | none => d
      (addRead (.wjob id) w.no 0 w.gran 0 w.key.glog false
        [{ lsec := w.first + i, slot := i, dst := x.dst, fin := false, bad := 0 }]
        (updWjob id (fun w => { w with reads := w.reads + 1 }) d1)).2
    else updWjob id (fun w => { w with bad := setBit w.bad i true }) d

/-- A sector of a granule read ends, with the status it failed by or 0. -/
def granSec (pid lsec bad : Nat) (d : Dev) : Dev :=
  match rjob d pid with
  | none => d
  | some r => match r.secs.find? (fun x => x.lsec == lsec && !x.fin) with
    | none => d
    | some x =>
      let d1 := updRjob pid (fun r => { r with
        secs := updWhere (fun y => y.lsec == lsec) (fun y => { y with fin := true, bad := bad }) r.secs }) d
      let d2 := match r.own with
        | .cmd tag => (match cmd? d tag with
          | some c => if bad ≠ 0 ∧ c.opc ≠ 7 then cmdBad tag lsec bad d1 else d1
          | none => d1)
        | .wjob id => wjobSec id x bad d1
        | _ => d1
      match rjob d2 pid with
      | some r2 => if r2.secs.all (·.fin) then granEnd r2 d2 else d2
      | none => d2

/-! ### The codecs that work on a read, an accumulator and a member slot (R231, R358) -/

/-- DEMAND of a channel's domains that are not ON (R527). -/
def demandCh (ch : Nat) (d : Dev) : Dev :=
  (List.range 4).foldl (fun x i => assertWake (domCh ch i) 1 x) d

def rebuild? (d : Dev) (id : Nat) : Option Rebuild := d.lan.rebs.find? (fun b => b.id == id)

/-- The channel whose engine a read's sectors belong to: a member's go to the target's (R231). -/
def homeCh (d : Dev) (r : RJob) : Nat :=
  match r.own with
  | .rebuild rb => (match (rebuild? d rb).bind (fun b => rjob d b.tgt) with
    | some t => dieCh (aDie t.addr)
    | none => dieCh (aDie r.addr))
  | _ => dieCh (aDie r.addr)

/-- The codec of a band's parity member, which reads and writes its accumulators. -/
def accUnit (d : Dev) (b : Nat) : NUnit :=
  match band d b with
  | some bd => .cu (dieCh (member bd (parPos d bd)).1)
  | none => .lantern

/-- The codec of a member slot's die. -/
def slotUnit (d : Dev) (b j : Nat) : NUnit :=
  match band d b with
  | some bd => .cu (dieCh (member bd (dataPos d bd j)).1)
  | none => .lantern

end Sys2Proof.Machine
end

