-- ==== Sys2Proof/Machine/Ladder.lean ====
section
/-! DEFINITION. Page-unit reads: issue, read-around and reconstruction, and the recovery ladder
(05_lantern_placement.md R230 to R232; 10_read_recovery.md R374 to R391). -/

namespace Sys2Proof.Machine

/-! ### Issue (R230, R378, R385) -/

/-- The command a read serves in the end. -/
def ownTag (d : Dev) (r : RJob) : Option Nat :=
  match r.own with
  | .cmd t => some t
  | .wjob id => (wjob d id).bind (·.tag)
  | .part p => (match rjob d p with
    | some q => match q.own with
      | .cmd t => some t
      | .wjob id => (wjob d id).bind (·.tag)
      | _ => none
    | none => none)
  | _ => none

/-- The reads that end with a read: itself and those that joined it (R230). -/
def sameReads (d : Dev) (r : RJob) : List RJob := r :: d.lan.rjobs.filter (fun j => j.st == .joined r.id)

/-- Changes every command that a read serves, by itself or for one that joined it (R183). -/
def updTags (r : RJob) (f : Cmd → Cmd) (d : Dev) : Dev :=
  ((sameReads d r).filterMap (ownTag d)).foldl (fun x t => updCmd t f x) d

/-- The read policy of the command a read serves, as its stream's hint stands now (R178, R230). -/
def readPol (d : Dev) (r : RJob) : Nat :=
  match (ownTag d r).bind (cmd? d) with
  | some c => bits (hint d c.ring c.stream) 26 2
  | none => 0

/-- Slots of the codewords that have not ended. -/
def leftSlots (r : RJob) : List Nat := (r.secs.filter (fun x => !x.fin)).map (·.slot)

/-- A mask of slots. -/
def slotMask (l : List Nat) : Nat := (l.eraseDups.map (fun s => 2 ^ s)).sum

/-- Expected remaining busy time of a die in microseconds (R230, R263). -/
def remUs (d : Dev) (n : Nat) : Nat :=
  let x := die d n
  let e := x.cur.bind (entOf x)
  let slc := match e with
    | some e => e.slc
    | none => false
  let mean := match x.st with
    | .read => x.means.getD (if slc then 0 else 1) 0
    | .prog => x.means.getD (if slc then 2 else 3) 0
    | .erase => x.means.getD 4 0
    | .suspending => x.means.getD 4 0
    | .suspended => x.means.getD 4 0
    | _ => 0
  let ran := x.ran + (if x.st = .erase ∨ x.st = .read ∨ x.st = .prog then d.up - x.start else 0)
  mean - ran / 1000

/-- The die is idle, or only reads are ahead (R230). -/
def onlyReads (d : Dev) (n : Nat) : Bool :=
  ((die d n).st == .idle || (die d n).st == .read) && (die d n).q.all (fun e => e.op == 0)

/-- A read entry of a page unit. -/
def readEnt (d : Dev) (r : RJob) (slots : List Nat) (lvl lstep : Nat) : BEnt :=
  let tag := ownTag d r
  { ent 0 r.cls (.reads [r.id]) with
    tag := tag.getD (r.id % 8192), itl := tag.isNone, slc := r.slc, pmask := 2 ^ aPlane r.addr,
    smask := slotMask slots, block := aBlock r.addr, page := aPage r.addr, lvl := lvl, lstep := lstep,
    sbPtr := (match r.secs with
      | x :: _ => x.dst / 64
      | [] => 0) }

/-- A read of the die needs a suspend and may have it (R230, R264). -/
def maySuspend (d : Dev) (n pol : Nat) : Bool :=
  let ch := dieCh n
  pol == 1 && (die d n).st == .erase &&
  bit ((getB d (chIdx ch 2) 3).getD (dieK d.cfg n / 8) 0).toNat (dieK d.cfg n % 8) &&
  decide (od d 0x2105 3 < remUs d n) && decide ((die d n).suspends < od d 0x2105 4) && !(die d n).suspReq

/-- The suspend request reaches the sequencer (R230, R265). -/
def askSuspend (n pol : Nat) (d : Dev) : Dev :=
  if maySuspend d n pol then
    cnt 0x2108 8 (updDie n (fun x => { x with suspReq := true, suspends := x.suspends + 1 }) d)
  else d

/-- A read waits for a level-set slot; the wait is counted once (R386). -/
def slotWait (r : RJob) (d : Dev) : Dev :=
  if r.slotW then d else cnt 0x2303 0x0B (updRjob r.id (fun x => { x with slotW := true }) d)

/-- Step 0 of a read: the prediction is fixed and the entry queued (R378, R385, R386); with no level-set slot it
waits. -/
def issueRead (id : Nat) (d : Dev) : Dev :=
  match rjob d id with
  | none => d
  | some r =>
    let n := aDie r.addr
    let b := aBlock r.addr
    let ch := dieCh n
    let slc := if r.own = .raw then r.slc else (blk d n b).slc
    let g := lmGroup d ch
    let model := od d 0x2301 1 ≠ 2
    let c := cellOf d n b (aPage r.addr)
    let pred := predict d g c slc
    let feat := featAddr d g slc
    match takeLevel ch (if feat = 0 then zeroLevels else pred) d with
    | none => slotWait r d
    | some (lv, d1) =>
      let d2 := if model ∧ noTime d n b then cnt 0x2303 0x0A d1 else d1
      let d3 := updRjob id (fun x => { x with
        st := .issued, grp := g, pred := pred, slc := slc, bf := od d 0x2300 2, slotW := false,
        cell := if model ∧ feat ≠ 0 then some c else none }) d2
      let d4 := updTags r (fun c => { c with sbOnly := false }) d3
      enqueue n (readEnt d4 { r with slc := slc } (leftSlots r) lv 0) d4

/-- A read of the same page unit in flight that brings every codeword this one needs (R230). -/
def joinable (d : Dev) (r : RJob) : Option Nat :=
  (d.lan.rjobs.find? (fun o => o.id != r.id && o.addr == r.addr &&
    (match o.own, o.st with
      | .part _, .issued => true
      | .part _, .rebuilding _ => true
      | _, _ => false) &&
    r.secs.all (fun x => o.secs.any (fun y => y.slot == x.slot && y.lsec == x.lsec && !y.fin)))).map (·.id)

/-- Reads of the die are queued behind a program or an erase (R230, R242). -/
def behindBusy (d : Dev) (n : Nat) : Bool :=
  [DieSt.prog, .erase, .suspending, .suspended].contains (die d n).st || (die d n).q.any (fun e => e.op == 1 || e.op == 2)

/-- A read that is not rebuilt: it joins, waits, or is issued or queued behind, by the policy (R230). -/
def issueUnit (id : Nat) (d : Dev) : Dev :=
  match rjob d id with
  | none => d
  | some r =>
    let n := aDie r.addr
    if r.st ≠ .fresh ∨ (die d n).st = .failed then d
    else if ¬ chanOn d (dieCh n) then demandCh (dieCh n) d
    else match joinable d r with
      | some o =>
        let ar : Bool := match (rjob d o).map (fun q => q.st) with
          | some (RSt.rebuilding rb) => (rebuild? d rb).any (fun b => !b.ladder)
          | _ => false
        updTags r (fun c => { c with sbOnly := false, around := c.around || ar })
          (updRjob id (fun x => { x with st := .joined o }) d)
      | none =>
        if ¬ freeSlot d n then d
        else if onlyReads d n then issueRead id d
        else issueRead id (if maySuspend d n r.pol then askSuspend n r.pol d else if behindBusy d n then cnt 0x2108 9 d else d)

/-! ### Read-around and reconstruction (R231, R232, R366, R380) -/

def updRebuild (id : Nat) (f : Rebuild → Rebuild) (d : Dev) : Dev :=
  updLan (fun l => { l with rebs := updWhere (fun b => b.id == id) f l.rebs }) d

/-- A rebuild ends: its SB space is freed (R599). Member reads that still run bring nothing (R380). -/
def dropRebuild (id : Nat) (d : Dev) : Dev :=
  (List.range 4).foldl (fun x s => sbFree (.rebuild id s) x) (updLan (fun l => { l with rebs := l.rebs.filter (fun b => b.id ≠ id) }) d)

/-- Some die has failed. -/
def anyFailed (d : Dev) : Bool := (allDies d.cfg).any (fun n => (die d n).st == .failed)

/-- SB space for the member payloads of each of some codeword slots, or none. -/
def rebuildSpace (seg rb n : Nat) : List Nat → Dev → Option Dev
  | [], d => some d
  | s :: t, d => match sbAllocs seg (.rebuild rb s) (List.replicate n 65) d with
    | none => none
    | some (_, d1) => rebuildSpace seg rb n t d1

/-- Starts the rebuild of a read's codewords that have not ended; with no SB space it waits. -/
def startRebuild (id : Nat) (ladder around : Bool) (d : Dev) : Dev :=
  match rjob d id with
  | none => d
  | some r =>
    let slots := leftSlots r
    let mem := (rebuildParts d r.addr (slots.headD 0)).1
    let (rb, d0) := freshId d
    match rebuildSpace (segCh d.cfg (dieCh (aDie r.addr))) rb mem.length slots d0 with
    | none => d
    | some d1 =>
      let d2 := if around ∧ ¬ anyFailed d then cnt 0x2108 7 d1 else d1
      let d3 := updTags r (fun c => { c with around := c.around || around, sbOnly := false }) d2
      let nb : Rebuild :=
        { id := rb, tgt := id, ladder := ladder,
          cws := slots.map (fun s => { slot := s, left := mem.length, acc := (rebuildParts d r.addr s).2 }) }
      let d4 := updRjob id (fun x => { x with st := .rebuilding rb })
        (updLan (fun l => { l with rebs := l.rebs ++ [nb] }) d3)
      mem.foldl (fun x m =>
        let par := match bandOf d m.1 m.2 with
          | some b => posOf b m.1 == parPos d b
          | none => false
        let (mid, y) := addRead (.rebuild rb) r.no 0 r.gran (mkAddr m.1 (aPlane r.addr) m.2 (aPage r.addr) 0)
          r.glog par (slots.map (fun s => { lsec := noSec, slot := s, dst := 0, fin := false, bad := 0 })) x
        issueUnit mid y) d4

/-! ### Codewords end (R381, R382, R401) -/

/-- A codeword ends at a step: it is counted, its command's highest step is kept, and its band is refreshed
at refresh_step (R223, R382). -/
def endStep (r : RJob) (s : Nat) (d : Dev) : Dev :=
  let d1 := cnt 0x2303 (s + 1) d
  let d2 := updTags r (fun c => { c with step := max c.step s }) d1
  match bandOf d (aDie r.addr) (aBlock r.addr) with
  | some b => if od d 0x2104 8 ≤ s ∧ ¬ d.lan.relWant.contains b.id then
      updLan (fun l => { l with relWant := l.relWant ++ [b.id] }) d2 else d2
  | none => d2

/-- The record of a codeword at step 6 (R401); up to 16 are held during a block read (R123). -/
def ueccRec (r : RJob) (slot cause : Nat) (d : Dev) : Dev :=
  let bs := leBytes 8 d.ts ++ leBytes 2 (aDie r.addr) ++ leBytes 2 (aBlock r.addr) ++
    leBytes 2 (aPage r.addr + fld (aPlane r.addr) 12 3) ++ leBytes 1 slot ++ leBytes 1 cause
  if readHeld d (ek 0x2303 0x0C) then
    (if d.lan.uHeld.length < 16 then updLan (fun l => { l with uHeld := l.uHeld ++ [bs] }) d else d)
  else updLan (fun l => { l with uecc := (l.uecc ++ [bs]).drop (l.uecc.length + 1 - 16) }) d

/-- Step 6 (R381). -/
def step6 (r : RJob) (slot cause : Nat) (d : Dev) : Dev := endStep r 6 (ueccRec r slot cause d)

/-- How a page unit's codeword ended: with its payload, or with a status. -/
inductive LeafRes where
  | ok (p : Bytes)
  | bad (status : Nat)

/-- What a codeword's end means to the raw path (R274). -/
def rawSec (r : RJob) (slot : Nat) (res : LeafRes) (d : Dev) : Dev :=
  let i := slot - ((r.secs.map (·.slot)).foldl min 3)
  let bs := match res with
    | .ok p => p.take 4096
    | .bad _ => (List.range 4096).map (Config.freeByte d.free)
  let raw := { d.rawp with data := patchBytes d.rawp.data (4096 * i) bs }
  let d1 := { d with free := d.free + 1, rawp := raw }
  match rjob d1 r.id with
  | some q => if q.secs.all (·.fin) then
      rawEnd d1.rawp.status (if q.secs.all (fun x => x.bad == 0) then 0 else 4) (dropRjob r.id d1) else d1
  | none => d1

/-- A payload reaches the granule read it is a part of (R36 step 6). -/
def partSec (p : Nat) (x : RSec) (res : LeafRes) (d : Dev) : Dev :=
  match res with
  | .bad st => granSec p x.lsec st d
  | .ok pay =>
    let d1 := sbStore (.cu (((rjob d p).map (homeCh d)).getD 0)) x.dst (pay.take 4096) d
    let d2 := match (rjob d p).map (·.own) with
      | some (.wjob id) => (match wjob d id with
        | some w => if w.reloc.isSome then updWjob id (fun w => { w with
              metas := tabSet 0 w.metas ((w.sb.findIdx? (· == x.dst)).getD 0) (payQw pay) }) d1 else d1
        | none => d1)
      | _ => d1
    granSec p x.lsec 0 d2

/-- A programmed member's payload reaches the accumulator entry that is rebuilt (R486); one that cannot be read
contributes zero (log 84). -/
def accSec (b r plane slot : Nat) (res : LeafRes) (d : Dev) : Dev :=
  match (band d b).bind (fun x => rowOf x r), res with
  | some rw, .ok p => sbStore (accUnit d b) (accAt rw plane slot) (xorBytes (sbRead d (accAt rw plane slot) 4128) p) d
  | _, _ => d

/-- A page unit's codeword ends (R36 step 6, R232, R366, R380): its owner takes it, a rebuild that it completes
goes on with its target, and the reads that joined end with it. -/
def leafEnd : Nat → Nat → Nat → LeafRes → Dev → Dev
  | 0, _, _, _, d => d
  | f + 1, id, slot, res, d =>
    match rjob d id with
    | none => d
    | some r => match r.secs.find? (fun x => x.slot == slot && !x.fin) with
      | none => d
      | some x =>
        let bad := match res with
          | .ok _ => 0
          | .bad s => s
        let d1 := updRjob id (fun q => { q with
          secs := updWhere (fun y => y.slot == slot) (fun y => { y with fin := true, bad := bad }) q.secs }) d
        let d2 := match r.own with
          | .part p => partSec p x res d1
          | .raw => rawSec r slot res d1
          | .acc b w => accSec b w (aPlane r.addr) slot res d1
          | .rebuild rb => (match rebuild? d1 rb with
            | none => d1
            | some b => match b.cws.find? (fun c => c.slot == slot), rjob d1 b.tgt with
              | some c, some t =>
                let acc := match res with
                  | .ok p => xorBytes c.acc p
                  | .bad _ => c.acc
                if bad = 0 ∧ 1 < c.left then
                  updRebuild rb (fun b => { b with
                      cws := updWhere (fun y => y.slot == slot)
                        (fun y => { y with left := y.left - 1, acc := acc }) b.cws }) d1
                else
                  let crc := bad == 0 && (t.parity || payCrcOk acc)
                  let want := match t.secs.find? (fun y => y.slot == slot) with
                    | some y => y.lsec
                    | none => noSec
                  let d2 := if bad = 0 then cnt 0x2200 5 d1 else d1
                  let d3 := if bad = 0 ∧ ¬ crc then cnt 0x2200 2 d2 else d2
                  if ¬ crc ∧ ¬ b.ladder then
                    issueUnit b.tgt (updRjob b.tgt (fun y => { y with st := .fresh, pol := 4 }) (dropRebuild rb d3))
                  else
                    let d4 := if b.cws.length ≤ 1 then dropRebuild rb d3
                      else sbFree (.rebuild rb slot)
                        (updRebuild rb (fun b => { b with cws := b.cws.filter (fun y => y.slot != slot) }) d3)
                    if ¬ crc then leafEnd f b.tgt slot (.bad 0x0301) (step6 t slot 0 d4)
                    else if ¬ t.parity ∧ payLsec acc ≠ want then
                      leafEnd f b.tgt slot (.bad 0x0301) (step6 t slot 1 (cnt 0x2200 3 d4))
                    else leafEnd f b.tgt slot (.ok acc) (if b.ladder then endStep t 5 d4 else d4)
              | _, _ => d1)
          | _ => d1
        let d3 := match rjob d2 id with
          | some q => if q.secs.all (·.fin) then dropRjob id d2 else d2
          | none => d2
        (match r.own with
          | .acc _ _ => feedBands d3
          | _ => (d.lan.rjobs.filter (fun j => j.st == .joined id)).foldl (fun y j => leafEnd f j.id slot res y) d3)

/-- Fuel for a chain of reads that end together. -/
def leafFuel (d : Dev) : Nat := 2 * d.lan.rjobs.length + 4

/-- A codeword ends with its payload. -/
def leafOk (id slot : Nat) (p : Bytes) (d : Dev) : Dev := leafEnd (leafFuel d) id slot (.ok p) d

/-- A codeword is reported uncorrectable (R381). -/
def leafBad (id slot cause status : Nat) (d : Dev) : Dev :=
  match rjob d id with
  | none => d
  | some r => leafEnd (leafFuel d) id slot (.bad status) (step6 r slot cause d)

/-- Every codeword of a read that has not ended is reported. -/
def unitBad (id cause status : Nat) (d : Dev) : Dev :=
  match rjob d id with
  | none => d
  | some r => (leftSlots r).foldl (fun x s => leafBad id s cause status x) d

/-- A rebuild whose members all stand in SB is complete as it starts. -/
def settleRebuild (id : Nat) (d : Dev) : Dev :=
  match rjob d id with
  | none => d
  | some r => match r.st with
    | .rebuilding rb => (match rebuild? d rb with
      | none => d
      | some b => (b.cws.filter (fun c => c.left == 0)).foldl (fun x c =>
          let (mid, y) := addRead (.rebuild rb) r.no 0 r.gran 0 r.glog false
            [{ lsec := noSec, slot := c.slot, dst := 0, fin := false, bad := 0 }] x
          leafOk mid c.slot (zeros 4128) y) d)
    | _ => d

/-- The SB ranges that the rebuild of a read needs are read; answers whether one holds an uncorrectable word (R486). -/
def partsBad (r : RJob) (d : Dev) : Bool × Dev :=
  ((leftSlots r).flatMap (rebuildReads d r.addr)).foldl (fun a x =>
    let f := sbFetch (.cu (homeCh d r)) x.1 x.2 a.2
    (a.1 || !f.2.1.isEmpty, f.2.2)) (false, d)

/-- Starts a rebuild and ends it at once where nothing has to be read. One whose SB copies or accumulator cannot be read
fails (log 84): a read-around as R232 says, ladder step 5 as not rebuildable. -/
def goAround (id : Nat) (ladder around : Bool) (d : Dev) : Dev :=
  match rjob d id with
  | none => d
  | some r =>
    let p := partsBad r d
    if ¬ p.1 then settleRebuild id (startRebuild id ladder around p.2)
    else if ladder then unitBad id 2 0x0301 p.2
    else issueUnit id (updRjob id (fun y => { y with pol := 4 }) p.2)

/-- Step 5 of the codewords of a read that have not ended, once none of them is in the codec (R377, R380). Member
and raw reads end at step 4. -/
def ladder5 (id : Nat) (d : Dev) : Dev :=
  match rjob d id with
  | none => d
  | some r =>
    let last := match r.own with
      | .rebuild _ => true
      | .acc _ _ => true
      | .raw => true
      | _ => !bit (od d 0x2300 1) 5
    if (leftSlots r).isEmpty ∨ (chan d (dieCh (aDie r.addr))).raw.any (fun c => c.rid == id) then d
    else if last then unitBad id 0 0x0301 d
    else if rebuildable d r.addr then goAround id true false d
    else if (die d (aDie r.addr)).st = .failed then unitBad id 3 0x0303 d
    else unitBad id 2 0x0301 d

/-- A read on a FAILED die (R230). -/
def failedUnit (id : Nat) (d : Dev) : Dev :=
  match rjob d id with
  | none => d
  | some r => match r.own with
    | .part _ => if rebuildable d r.addr then goAround id true true d else unitBad id 3 0x0303 d
    | _ => unitBad id 3 0x0303 d

/-- The procedure of R230 for a page unit not yet begun, under the policy that its stream's hint gives now (R178); 4 is that
of a read whose read-around was dropped, which waits (R232). -/
def placeUnit (id : Nat) (d0 : Dev) : Dev :=
  let d := match rjob d0 id with
    | some r => if r.st = .fresh ∧ r.pol ≠ 4 then updRjob id (fun q => { q with pol := readPol d0 r }) d0 else d0
    | none => d0
  match rjob d id with
  | none => d
  | some r =>
    let n := aDie r.addr
    let reb := (match r.own with
      | .part _ => true
      | _ => false) && rebuildable d r.addr
    if r.st ≠ .fresh then d
    else if (joinable d r).isSome then issueUnit id d
    else if (die d n).st = .failed then failedUnit id d
    else if ¬ chanOn d (dieCh n) then (if reb then goAround id false true d else demandCh (dieCh n) d)
    else if dieLevel d n = 5 ∧ reb ∧ r.cls = 0 then goAround id false true d
    else if onlyReads d n ∨ r.pol ≠ 2 then issueUnit id d
    else
      let b := bandOf d n (aBlock r.addr)
      let others := match b with
        | some b => ((List.range b.mem.length).filter (fun q => member b q != (n, aBlock r.addr) &&
            !absentAt d b q (aPage r.addr))).map (fun q => (member b q).1)
        | none => []
      let wants := decide (od d 0x2105 1 < remUs d n)
      if wants ∧ reb ∧ others.all (fun m => decide (remUs d m ≤ od d 0x2105 1)) ∧
          (d.lan.rebs.filter (fun b => !b.ladder)).length < od d 0x2105 2 then goAround id false true d
      else if freeSlot d n ∧ wants then issueUnit id (cnt 0x2108 0x0F d)
      else issueUnit id d

/-! ### Rereads of steps 2 to 4 (R374, R375, R378, R389) -/

/-- The level set of lowest syndrome among the attempts of steps 0 to 2, the earliest on a tie (R389). -/
def centre (c : RawCw) : List Int :=
  match c.tries.foldl (fun (b : Option (List Int × Nat)) x => match b with
    | none => some x
    | some y => if x.2 < y.2 then some x else some y) none with
  | some x => x.1
  | none => zeroLevels

/-- The level set of the read a codeword's step asks for (R385, R388, R389). -/
def cwLevels (d : Dev) (r : RJob) (c : RawCw) : List Int :=
  if c.step < 2 then r.pred
  else if c.step = 2 then addLevels r.pred (c.retry.getD c.k zeroLevels)
  else addLevels (centre c) (evenShift d r.grp r.slc (c.shifts.headD 0))

/-- An entry of the read is queued. -/
def readQueued (d : Dev) (r : RJob) : Bool :=
  (die d (aDie r.addr)).q.any (fun e => match e.own with
    | .reads l => l.contains r.id
    | _ => false)

/-- The order of steps 2 to 4. -/
def stepKey (c : RawCw) : Nat := c.step * 16 + c.k

/-- The next reread of a page unit: the codewords that wait at the lowest step share its read (R375). -/
def reread (id : Nat) (d : Dev) : Dev :=
  match rjob d id with
  | none => d
  | some r =>
    let n := aDie r.addr
    let ch := dieCh n
    let cws := (chan d ch).raw.filter (fun c => c.rid == id)
    match cws.foldl (fun (b : Option RawCw) c => match b with
      | none => some c
      | some y => if stepKey c < stepKey y then some c else some y) none with
    | none => d
    | some c =>
      if cws.any (fun x => x.st != .reread) ∨ readQueued d r then d
      else
        let lv := cwLevels d r c
        let grp := cws.filter (fun x => stepKey x == stepKey c && cwLevels d r x == lv)
        match takeLevel ch lv d with
        | none => slotWait r d
        | some (s, d1) =>
          enqueue n (readEnt d1 r (grp.map (·.slot)) s c.step)
            (askSuspend n (readPol d r) (updRjob id (fun x => { x with slotW := false }) d1))

/-- A step is enabled and the mode has what it needs (R377). -/
def stepOk (d : Dev) (r : RJob) (k : Nat) : Bool :=
  bit (od d 0x2300 1) k && (k == 1 || (featAddr d r.grp r.slc != 0 && (k != 2 || !(retryList d r.grp r.slc).isEmpty)))

/-- A codeword as it enters a step (R374), with the settings as they stand then (R378). Step 4 takes over the reads of
step 3 where their shift was the same (R389). -/
def atStep (d : Dev) (r : RJob) (c0 : RawCw) (k : Nat) : RawCw :=
  let d2 : Int := od d 0x2300 5
  let d3 : Int := od d 0x2300 6
  let c := { c0 with
    bf := od d 0x2300 2, mi := od d 0x2300 3, si := od d 0x2300 4, mag := od d 0x2300 (if k = 3 then 7 else 8) }
  if k = 1 then { c with step := 1, ms := true, st := .wait }
  else if k = 2 then { c with step := 2, k := 0, ms := false, st := .reread, retry := retryList d r.grp r.slc }
  else if k = 3 then { c with step := 3, k := 0, st := .reread, soft := [], shifts := [-d2, 0, d2] }
  else
    if c.step = 3 ∧ c.soft.any (fun x => x.1 == d3) then { c with step := 4, k := 0, st := .reread, shifts := [-3 * d3, -2 * d3, 2 * d3, 3 * d3] }
    else { c with
                  step := 4, k := 0, st := .reread, soft := [],
                  shifts := [-3 * d3, -2 * d3, -d3, 0, d3, 2 * d3, 3 * d3] }

/-- The codeword after a failed attempt, or none once it leaves step 4 (R374). -/
def climb (d : Dev) (r : RJob) (c : RawCw) : Option RawCw :=
  if c.step = 2 ∧ ¬ c.ms then some { c with ms := true, st := .wait }
  else if c.step = 2 ∧ c.k + 1 < c.retry.length then some { c with k := c.k + 1, ms := false, st := .reread }
  else (([1, 2, 3, 4].filter (fun k => decide (c.step < k))).find? (stepOk d r)).map (atStep d r c)

/-- Takes a codeword out of the raw buffer (R37). -/
def dropCw (ch cw : Nat) (d : Dev) : Dev :=
  updChan ch (fun c => { c with raw := c.raw.filter (fun x => x.id ≠ cw) }) d

/-- An attempt of a codeword failed (R374): the next enabled step, or the way out to step 5. -/
def ladderFail (ch cw : Nat) (d : Dev) : Dev :=
  match (chan d ch).raw.find? (fun x => x.id == cw) with
  | none => d
  | some c => match rjob d c.rid with
    | none => dropCw ch cw d
    | some r => match climb d r c with
      | none => ladder5 c.rid (kick ch (dropCw ch cw d))
      | some c1 =>
        let d1 := updChan ch (fun x => { x with raw := updWhere (fun y => y.id == cw) (fun _ => c1) x.raw }) d
        reread c.rid (updTags r (fun x => { x with step := max x.step c1.step }) d1)

/-- A read attempt brought nothing (R379): every codeword it served goes to step 5. -/
def attemptLost (id mask : Nat) (d : Dev) : Dev :=
  match rjob d id with
  | none => d
  | some r =>
    let ch := dieCh (aDie r.addr)
    reread id (ladder5 id (updChan ch (fun c => { c with
      raw := c.raw.filter (fun x => !(x.rid == id && bit mask x.slot)) }) d))

end Sys2Proof.Machine
end

