-- ==== Sys2Proof/Machine/Fold.lean ====
section
/-! DEFINITION. A row's accumulator: what a codec folds into it and takes out of it, its rebuild after an uncorrectable
word, and write jobs whose place is given up (05_lantern_placement.md R205, R237; 06 R260, R261; 09 R358, R364; 13 R486). -/

namespace Sys2Proof.Machine

/-! ### The accumulator (R364, R486) -/

/-- The XOR of the SB copies of the members that stand in an accumulator entry and have not passed. -/
def foldedXor (d : Dev) (rw : Row) (plane s : Nat) : Bytes :=
  rw.slots.foldl (fun a m => if m.st ≠ .passed ∧ bit m.fold plane then xorBytes a (slotPayload d m (plane * 4 + s)) else a)
    (zeros 4128)

/-- An accumulator entry is rebuilt (R486): it takes the SB copies of the members not yet programmed, and the programmed
ones are read. -/
def accFix (b r plane s : Nat) (d : Dev) : Dev :=
  match band d b with
  | none => d
  | some bd => match rowOf bd r with
    | none => d
    | some rw =>
      let d1 := updLan (fun l => { l with rjobs := l.rjobs.filter (fun j => !(j.own == .acc b r && aPlane j.addr == plane &&
        j.secs.any (fun x => x.slot == s))) }) d
      let d2 := sbStore (accUnit d b) (accAt rw plane s) (foldedXor d rw plane s) d1
      ((List.range rw.slots.length).filter (fun j => (rw.slots[j]?).any (fun m => m.st == .passed))).foldl (fun x j =>
        let m := member bd (dataPos d bd j)
        let (id, y) := addRead (.acc b r) d.fetchNo 1 0 (mkAddr m.1 plane m.2 r 0) 0 false
          [{ lsec := noSec, slot := s, dst := 0, fin := false, bad := 0 }] x
        issueUnit id y) d2

/-- A payload is folded into an entry, or taken out of it: the entry is read, and written with the XOR. -/
def foldIn (b r plane s : Nat) (p : Bytes) (d : Dev) : Dev :=
  match (band d b).bind (fun x => rowOf x r) with
  | none => d
  | some rw =>
    let a := accAt rw plane s
    let f := sbFetch (accUnit d b) a 4128 d
    if f.2.1.isEmpty then sbStore (accUnit d b) a (xorBytes f.1 p) f.2.2 else accFix b r plane s f.2.2

/-! ### A place given up (R34, R486) -/

/-- A job is used in a member slot. -/
def jobUsed (d : Dev) (id : Nat) : Bool :=
  d.lan.bands.any (fun b => b.rows.any (fun r => r.slots.any (fun m => m.uses.any (fun u => u.job == id))))

/-- The member slots that name a job name another one. -/
def renameUses (old new : Nat) (d : Dev) : Dev :=
  let f := fun (u : SlotUse) => if u.job = old then { u with job := new } else u
  updLan (fun l => { l with bands := l.bands.map (fun b => { b with rows := b.rows.map (fun r => { r with
    slots := r.slots.map (fun m => { m with uses := m.uses.map f }) }) }) }) d

/-- A job leaves a place that member slots still hold: what it left there stays, under a number of its own, until its
programs pass; nothing names it. Answers with that number. -/
def leaveGhost (w : WJob) (d : Dev) : Option Nat × Dev :=
  if ¬ jobUsed d w.id then (none, d)
  else
    let (g, d1) := freshId d
    let bad := nAndNot (2 ^ (2 ^ w.key.glog) - 1) w.driven
    (some g, renameUses w.id g (updLan (fun l => { l with wjobs := l.wjobs ++ [{ w with
      id := g, tag := none, reloc := none, dead := true, bad := bad, reads := 0 }] }) d1))

/-- A job is placed again from its SB copy (R34, R237, R260). -/
def placeAgain (id : Nat) (d : Dev) : Dev :=
  match wjob d id with
  | none => d
  | some w => updWjob id (fun w => { w with pieces := [], driven := 0 }) (leaveGhost w d).2

/-- A host WRITE's granule is fetched again into new space and placed again (R486). The old space stays reserved while the
slots it was placed in have programs to pass (R34, R231; log 84). -/
def fetchAgain (w : WJob) (d : Dev) : Dev :=
  let g := leaveGhost w d
  let d1 := match g.1 with
    | some n => updLan (fun l => { l with res := l.res.map (fun r => if r.own = .wjob w.id then { r with own := .wjob n } else r) }) g.2
    | none => sbFree (.wjob w.id) g.2
  updWjob w.id (fun x => { x with
    pieces := [], sb := [], landed := 0, driven := 0, bad := maskRange x.nsec (2 ^ x.key.glog), merging := false, given := false }) d1

/-! ### What a codec reads of a write (R358, R486) -/

/-- The payload of sector i of a job as the codec builds it: an uncorrectable word of a host WRITE's data has the granule
fetched again, and one of any other data is programmed as no data. -/
def codeSector (u : NUnit) (id i : Nat) (d : Dev) : Bytes × Dev :=
  match wjob d id with
  | none => (zeros 4128, d)
  | some w =>
    if w.nsec ≤ i ∨ bit w.bad i then (lostPayload w, d)
    else
      let f := sbFetch u (w.sb.getD i 0) 4096 d
      if f.2.1.isEmpty then (dataPayload w i f.1, updWjob id (fun x => { x with driven := setBit x.driven i true }) f.2.2)
      else if bit w.host i ∧ ¬ w.dead then (lostPayload w, fetchAgain w f.2.2)
      else (lostPayload w, updWjob id (fun x => { x with bad := setBit x.bad i true }) f.2.2)

/-- The payload of a codeword slot of a member slot as the codec builds it. -/
def codeSlot (v : NUnit) (m : MSlot) (cw : Nat) (d : Dev) : Bytes × Dev :=
  match useAt m cw with
  | some u => if (wjob d u.job).isSome then codeSector v u.job (u.sec + (cw - u.cw)) d else (padPayload m.pad, d)
  | none => (padPayload m.pad, d)

/-- A member slot of a row. -/
def slotOf (d : Dev) (b r j : Nat) : Option MSlot := ((band d b).bind (fun x => rowOf x r)).bind (fun rw => rw.slots[j]?)

/-- The payloads of one plane of a member slot; each is folded into the accumulator as it is built (R358 step 3). -/
def driveSlot (b r j plane : Nat) (d : Dev) : List Bytes × Dev :=
  (List.range 4).foldl (fun a s => match slotOf a.2 b r j with
    | none => a
    | some m =>
      let p := codeSlot (slotUnit d b j) m (plane * 4 + s) a.2
      (a.1 ++ [p.1], foldIn b r plane s p.1 p.2))
    ([], updSlot b r j (fun m => { m with fold := setBit m.fold plane true }) d)

/-- The payloads of one plane of a parity page; none where an entry is uncorrectable, which is rebuilt (R365, R486). -/
def driveParity (b r plane : Nat) (d : Dev) : Option (List Bytes) × Dev :=
  match (band d b).bind (fun x => rowOf x r) with
  | none => (some [], d)
  | some rw => (List.range 4).foldl (fun a s =>
      let f := sbFetch (accUnit d b) (accAt rw plane s) 4128 a.2
      if f.2.1.isEmpty then (a.1.map (· ++ [f.1]), f.2.2) else (none, accFix b r plane s f.2.2)) (some [], d)

/-! ### Cut members (R34, R237, R260, R261) -/

/-- What a member slot folded into its row's accumulator is taken out of it again: the member is absent from the row
(R203, R231). -/
def cutSlot (b r j : Nat) (d : Dev) : Dev :=
  match slotOf d b r j with
  | none => d
  | some m =>
    let ps := ((List.range (planes d)).filter (bit m.fold)).flatMap (fun p => (List.range 4).map (fun s => (p, s, slotPayload d m (p * 4 + s))))
    ps.foldl (fun x y => foldIn b r y.1 y.2.1 y.2.2 x)
      (updSlot b r j (fun m => { m with st := .absent, fold := 0, used := fullMask d, uses := [] }) d)

/-- A member slot's program failed (R34, R237, R260, R261): the member is cut at the row, its slots from the
row on are absent, and what was placed on them and has not passed is placed again. -/
def cutSlots (bd : Band) (pos row : Nat) (d : Dev) : Dev :=
  let j := dataJ d bd pos
  let isData := pos ≠ parPos d bd
  let d1 := cutMember bd pos row d
  if ¬ isData then d1
  else
    let hit := (bd.rows.filter (fun r => decide (row ≤ r.row))).flatMap (fun r => match r.slots[j]? with
      | some m => if m.st = .passed then [] else m.uses.map (·.job)
      | none => [])
    let d2 := (bd.rows.filter (fun r => decide (row ≤ r.row))).foldl (fun x r =>
      if (r.slots[j]?).any (fun m => m.st != .passed) then cutSlot bd.id r.row j x else x) d1
    hit.eraseDups.foldl (fun x id => placeAgain id x) d2

/-- Entries of a die that programmed into a band and have not been issued are dropped with the cut. -/
def dropSlotEnts (bd : Band) (n row : Nat) (d : Dev) : Dev :=
  updDie n (fun x => { x with
    q := x.q.filter (fun e => !(decide (e.est < 3) && match e.own with
      | .slot b r _ => b == bd.id && decide (row ≤ r)
      | .parity b r => b == bd.id && decide (row ≤ r)
      | _ => false)) }) d

/-- A die has failed (R237): each open band that holds it is closed, the member's cut_row is the lowest open
row, and its units not passed are placed again. -/
def dieFailedBands (n : Nat) (d : Dev) : Dev :=
  (openBands d).foldl (fun x b0 => match band x b0.id with
    | none => x
    | some b =>
      if ¬ b.mem.any (fun m => m.1 == n) then x
      else
        let row := match b.rows with
          | [] => b.next
          | r :: _ => r.row
        closeBand b.id (cutSlots b (posOf b n) row x)) d

end Sys2Proof.Machine
end

