-- ==== Sys2Proof/Machine/Read.lean ====
section
/-! DEFINITION. The path of a read: placement, map fills, decoders, the inline engine's checks
(01_anatomy.md R36 to R38; 05 R215, R216, R230, R233, R234; 09 R352, R367 to R371; 10 R374 to R391; 13 R490, R491). -/

namespace Sys2Proof.Machine

/-! ### PLACE_READ (R230) -/

/-- The sectors a command changes. -/
def writeRange (c : Cmd) : Nat × Nat :=
  if c.opc = 6 then (bits c.q4 0 40, bits c.q4 0 40 + c.nsec) else (c.slba, c.slba + c.nsec)

/-- A command fetched earlier that changes a sector of the range has not begun (R38, R179). -/
def earlierWaits (d : Dev) (no lo hi : Nat) : Bool :=
  d.cmds.any (fun c => decide (c.2.no < no) && c.2.writes &&
    (c.2.st == .waiting || (c.2.opc == 3 && c.2.left != 0)) &&
    decide ((writeRange c.2).1 < hi) && decide (lo < (writeRange c.2).2))

/-- The version of a granule's entry that a command sees: the number that made it (R179). -/
def verAt (d : Dev) (g no : Nat) : Nat :=
  let vs := (d.lan.hist.filter (fun v => v.gran == g && decide (v.no < no))).map (·.no)
  let cur := tabGet 0 d.lan.verNo g
  (if cur < no then cur :: vs else vs).foldl max 0

/-- The newest write of a granule that a read may not pass (R31, R38): its sectors, those it merges among them, are served
from SB. -/
def srcJob (d : Dev) (g : Gran) (no : Nat) : Option WJob :=
  (d.lan.wjobs.filter (fun w => w.gran == g.idx && w.reloc.isNone && !w.dead && decide (w.no < no) &&
    decide (verAt d g.idx no < w.no) && !jobAborted d w)).foldl
    (fun (b : Option WJob) w => match b with
      | none => some w
      | some y => if y.no < w.no then some w else some y) none

/-- A sector's data stands in SB, or is known bad. -/
def srcReady (w : WJob) (lsec : Nat) : Bool :=
  !w.sb.isEmpty && (bit w.landed (lsec - w.first) || bit w.bad (lsec - w.first))

/-- The entry that a read follows: a relocation its source, another what its command sees (R39, R179). -/
def readEntry (d : Dev) (r : RJob) : Nat :=
  match r.own with
  | .wjob id => (match wjob d id with
    | some w => if w.reloc.isSome then w.src else entryAt d r.gran r.no
    | none => entryAt d r.gran r.no)
  | _ => entryAt d r.gran r.no

/-- A relocation copy reads the source alone. -/
def relocRead (d : Dev) (r : RJob) : Bool :=
  match r.own with
  | .wjob id => (match wjob d id with
    | some w => w.reloc.isSome
    | none => false)
  | _ => false

/-- SB space for a command's read (R36 step 2); a read that feeds a write job uses the job's (R599). -/
def reserveRead (r : RJob) (e : Nat) (d : Dev) : Option Dev :=
  match r.own with
  | .cmd _ =>
    if r.secs.all (fun x => x.dst == 0) then
      let seg := if eTrim e then 0 else segCh d.cfg (dieCh (aDie (eAddr e)))
      (sbAllocs seg (.rjob r.id) (List.replicate r.secs.length 64) d).map (fun a =>
        updRjob r.id (fun q => { q with
          secs := (q.secs.zip a.1).map (fun x => { x.1 with dst := x.2 }) }) a.2)
    else some d
  | _ => some d

/-- Where a sector of a granule is read: on another member than the entry's only while the band's record is not lost (R209,
R490). -/
def unitAddr (d : Dev) (e : Nat) (g : Gran) (x : RSec) : Option Nat :=
  match secAddr d e g.glog (x.lsec - g.first) with
  | none => none
  | some a =>
    let gone : Bool := match bandOf d (aDie a) (aBlock a) with
      | some b => bandLost d b.set b.bidx
      | none => false
    if gone ∧ (aDie a, aBlock a) ≠ (aDie (eAddr e), aBlock (eAddr e)) then none else some a

/-- The page units of the sectors still to be read: (address, sectors), in order. -/
def unitGroups (d : Dev) (e : Nat) (g : Gran) (xs : List RSec) : List (Nat × List RSec) :=
  xs.foldl (fun a x => match unitAddr d e g x with
    | none => a
    | some ad =>
      let y := { x with slot := aSlot ad }
      if a.any (fun u => u.1 == ad - aSlot ad) then
        a.map (fun u => if u.1 = ad - aSlot ad then (u.1, u.2 ++ [y]) else u)
      else a ++ [(ad - aSlot ad, [y])]) []

/-- A sector served from a write's SB copy (R38); one that the write knows as bad, or whose copy is uncorrectable (R486),
fails. -/
def serveSb (id : Nat) (w : WJob) (x : RSec) (d : Dev) : Dev :=
  let i := x.lsec - w.first
  if bit w.bad i then granSec id x.lsec 0x0301 d
  else
    let r := sbFetch .lantern (w.sb.getD i 0) 4096 d
    if r.2.1.isEmpty then granSec id x.lsec 0 (sbStore .lantern x.dst r.1 r.2.2) else granSec id x.lsec 0x0301 r.2.2

/-- A granule whose lookup has ended: sectors served from SB, zeros for a trimmed entry, and a page-unit read
for each unit on the dies (R38, R160, R230). -/
def serveGran (id : Nat) (d : Dev) : Dev :=
  match rjob d id with
  | none => d
  | some r => match granIdx d r.gran with
    | none => d
    | some g =>
      let e := readEntry d r
      let rel := relocRead d r
      let src := if rel then none else srcJob d g r.no
      if ¬ rel ∧ earlierWaits d r.no g.first (g.first + g.nsec) then d
      else if src.any (fun w => r.secs.any (fun x => !srcReady w x.lsec)) then d
      else
        let inSb := src.isSome
        let scan := match (ownTag d r).bind (cmd? d), r.own with
          | some c, .cmd t => if (c.opc = 7 ∨ c.opc = 8) ∧ eTrim e ∧ ¬ inSb then some t else none
          | _, _ => none
        match scan with
        | some t => consume t (r.secs.map (fun x => (x.lsec, 0, none))) (dropRjob id d)
        | none => match reserveRead r e d with
          | none => d
          | some d1 =>
            let secs := match rjob d1 id with
              | some q => q.secs
              | none => []
            let d2 := updRjob id (fun q => { q with st := .split }) d1
            match src with
            | some w => secs.foldl (fun y x => serveSb id w x y) d2
            | none =>
              if eTrim e then secs.foldl (fun y x => granSec id x.lsec 0 (sbStore .lantern x.dst (zeros 4096) y)) d2
              else
                let lost := secs.filter (fun x => (unitAddr d e g x).isNone)
                let d3 := lost.foldl (fun y x => granSec id x.lsec 0x0301 y) d2
                (unitGroups d e g secs).foldl (fun y u =>
                  let (pid, z) := addRead (.part id) r.no r.cls r.gran u.1 g.glog false u.2 y
                  placeUnit pid z) d3

/-- The lines, with their words, that a granule's lookup needs beside its map entry's (R209): the block record and the band
record, for a mapped granule of more page units than a member slot holds. -/
def unitLines (d : Dev) (r : RJob) : List (Nat × List Nat) :=
  let e := readEntry d r
  let n := aDie (eAddr e)
  let b := aBlock (eAddr e)
  if eTrim e ∨ unitsOf r.glog ≤ planes d then []
  else
    let k := blk d n b
    (blkLine d n b, [2 * (b % 4), 2 * (b % 4) + 1]) ::
      ((List.range (d.lan.n + 1)).map (fun m => bandLine d k.sset k.bidx m)).eraseDups.map (fun ln => (ln, List.range 8))

/-- A granule read: the map is looked up first (R36 step 2, R215, R490). A lost record of its block or band does not stop
it here. -/
def placeGran (id : Nat) (d : Dev) : Dev :=
  match rjob d id with
  | none => d
  | some r =>
    if r.looked then serveGran id d
    else match lookup (mapLine r.gran) [r.gran % 8] d with
      | (.lost, d1) => r.secs.foldl (fun y x => granSec id x.lsec 0x0301 y) d1
      | (.wait, d1) => d1
      | (.hit, d1) =>
        let res := (unitLines d1 r).foldl (fun (a : Bool × Dev) l =>
          let q := lookup l.1 l.2 a.2
          (a.1 && q.1 != .wait, q.2)) (true, d1)
        if res.1 then serveGran id (updRjob id (fun q => { q with looked := true }) res.2) else res.2

/-- PLACE_READ (R230): a granule read is looked up and served; a page unit that waited is tried again. -/
def placeRead (id : Nat) (d : Dev) : Dev :=
  match rjob d id with
  | none => d
  | some r => match r.own, r.st with
    | .cmd _, .fresh => placeGran id d
    | .wjob _, .fresh => placeGran id d
    | .part _, .fresh => placeUnit id d
    | .rebuild _, .fresh => issueUnit id d
    | _, .issued => if readQueued d r then d else reread id (ladder5 id d)
    | _, _ => d

def execPlaceRead (job : Nat) (s : State) : Host.Outcome State Fault Refusal := run (fun d => kickAll (placeRead job d)) s

/-! ### MAP_FILL_COMPLETE (R216, R490, R491) -/

/-- A second failure of a fill loses the line (R490); one that was to be served uncached is in no way to be pinned in. -/
def fillLost (m : Miss) (d : Dev) : Dev :=
  let d1 := if m.uncached then d else fillLine m.addr d
  loseLine (((line? d1 m.addr)).getD { addr := m.addr, way := 0, dirty := false, lost := false, used := 0, flips := [] }) 0 0
    (updLan (fun l => { l with want := l.want.filter (fun x => x.1 ≠ m.addr) }) d1)

/-- The reads that wait on a line. -/
def lineReaders (d : Dev) (ln : Nat) : List RJob :=
  d.lan.rjobs.filter (fun r => !r.looked && r.st == .fresh && mapLine r.gran == ln &&
    (match r.own with
      | .cmd _ => true
      | .wjob _ => true
      | _ => false))

/-- A lookup served uncached (R491): what waits for the line goes on; a line that a change waits for is written back at
once, and the slot stays until that has been answered. -/
def serveUncached (m : Miss) (d : Dev) : Dev :=
  let ids := (lineReaders d m.addr).map (·.id)
  let d1 := updLan (fun l => { l with
    rjobs := updWhere (fun r => ids.contains r.id) (fun r => { r with looked := true }) l.rjobs,
    want := l.want.filter (fun x => x.1 ≠ m.addr) }) d
  if d.lan.want.any (fun x => x.1 == m.addr && x.2) then
    cnt 0x2108 3 (postWrite (od d 0x2100 2) (od d 0x2100 3 + 64 * m.addr) (lineBytes d m.addr) [] (.mapWb m.addr)
      (updLan (fun l => { l with
        wbs := l.wbs ++ [(m.addr, 16)], misses := updWhere (fun y => y.slot == m.slot) (fun y => { y with back := true }) l.misses })
        d1))
  else updLan (fun l => { l with misses := l.misses.filter (fun y => y.slot ≠ m.slot) }) d1

/-- MAP_FILL_COMPLETE: the answer of a miss slot is taken. A failed fill is retried once. -/
def mapFillComplete (slot : Nat) (d : Dev) : Dev :=
  match d.lan.misses.find? (fun m => m.slot == slot && !m.back) with
  | none => d
  | some m =>
    let free := fun (x : Dev) => updLan (fun l => { l with misses := l.misses.filter (fun y => y.slot ≠ slot) }) x
    match m.ans with
    | none => d
    | some true => askWanted (if m.uncached then serveUncached m d else gotLine m.addr (fillLine m.addr (free d)))
    | some false =>
      if m.fails = 0 then
        postRead (od d 0x2100 2) (od d 0x2100 3 + 64 * m.addr) 64 (.mapRd slot)
          (updLan (fun l => { l with
            misses := updWhere (fun y => y.slot == slot) (fun y => { y with fails := 1, ans := none }) l.misses }) d)
      else
        let d1 := fillLost m (free d)
        askWanted (if m.addr * 64 < blkOff d then
          (lineReaders d1 m.addr).foldl (fun x r => r.secs.foldl (fun y s => granSec r.id s.lsec 0x0301 y) x) d1 else d1)

def execMapFillComplete (slot : Nat) (s : State) : Host.Outcome State Fault Refusal := run (fun d => kickAll (mapFillComplete slot d)) s

/-! ### Decoders (R233, R367 to R371) -/

def dec (d : Dev) (k : Nat) : Dec := tabGet Dec.reset d.decs k
def updDec (k : Nat) (f : Dec → Dec) (d : Dev) : Dev := { d with decs := tabSet Dec.reset d.decs k (f (dec d k)) }

/-- Input credits in use (R367): a soft codeword takes four. -/
def decUsed (x : Dec) : Nat := (x.jobs.map (fun j => if j.mode = 2 then 4 else 1)).sum

/-- A decoder that may take a codeword (R233). -/
def decOk (d : Dev) (k : Nat) (soft : Bool) : Bool :=
  !bit (od d 0x2107 3) k && isOn d (domDec d.cfg k) &&
  decide (decUsed (dec d k) + (if soft then 4 else 1) ≤ 4) && (!soft || bit (od d 0x2106 2) k)

/-- The decoder of R233. -/
def pickDecoder (d : Dev) (ch bank : Nat) (soft : Bool) : Option Nat :=
  let cost := fun (k : Nat) => (dec d k).jobs.length + od d 0x2106 1 *
    (hops d.cfg (segCh d.cfg ch) (segDec d.cfg k) + hops d.cfg (segDec d.cfg k) (segBank d.cfg bank))
  let last := match tabGet 0 d.lan.decLast ch with
    | 0 => d.cfg.decoders - 1
    | n + 1 => n
  ((List.range d.cfg.decoders).map (fun i => (last + 1 + i) % d.cfg.decoders)).foldl (fun b k =>
    if ¬ decOk d k soft then b
    else match b with
      | none => some k
      | some x => if cost k < cost x then some k else some x) none

/-- Sectors queued at an inline engine (R234). -/
def engQueue (d : Dev) (ch : Nat) : Nat :=
  (chan d ch).inl.length +
  ((List.range d.cfg.decoders).map (fun k => ((dec d k).jobs.filter (fun j => j.eng == ch)).length)).sum

/-- The engine with the fewest queued sectors on a segment. -/
def leastEng (d : Dev) (seg : Nat) : Option Nat :=
  ((List.range d.cfg.channels).filter (fun c => segCh d.cfg c == seg && isOn d (domCh c 2))).foldl (fun b c =>
    match b with
    | none => some c
    | some x => if engQueue d c < engQueue d x then some c else some x) none

/-- The next segment toward another (R19, R234). -/
def segToward (c : Params) (a b : Nat) : Nat :=
  if a = b then a
  else if (b + c.segments - a) % c.segments ≤ (a + c.segments - b) % c.segments then (a + 1) % c.segments
  else (a + c.segments - 1) % c.segments

/-- The inline engine that takes a codeword's result (R234). Which engine of the next segment takes spilled work the spec
leaves open: the model takes its least-queued engine in ON, looks no further, and stays at home where there is none
(DESIGN CHOICE, log 83). -/
def pickEngine (d : Dev) (home bank : Nat) : Nat :=
  if engQueue d home ≤ od d 0x2106 3 ∧ isOn d (domCh home 2) then home
  else
    let s := segCh d.cfg home
    match leastEng d s with
    | some x => if engQueue d x < od d 0x2106 3 then x
        else (leastEng d (segToward d.cfg s (segBank d.cfg bank))).getD x
    | none => (leastEng d (segToward d.cfg s (segBank d.cfg bank))).getD home

/-! ### Soft values (R390) -/

/-- Bit i of a byte string, bit 0 of a byte first (R347). -/
def bitAt (bs : Bytes) (i : Nat) : Bool := (bs.getD (i / 8) 0).getLsbD (i % 8)

/-- The bits of a byte string. -/
def allBits (bs : Bytes) : List Bool := bs.flatMap (fun b => (List.range 8).map (fun i => b.getLsbD i))

/-- Where two reads agree, per bit. -/
def agree (a b : Bytes) : List Bool := (allBits (xorBytes a b)).map (!·)

/-- The magnitude class of a bit given agreement by distance 1, 2, 3 (R390). -/
def softClass (step : Nat) (a1 a2 a3 : Bool) : Nat :=
  if ¬ a1 then 0 else if step = 3 then 1 else if ¬ a2 then 1 else if ¬ a3 then 2 else 3

/-- The 4-bit values of a soft codeword (R390): sign from the de-randomised centre, magnitude by class. -/
def softVals (c : RawCw) (seed : BitVec 32) : List Nat :=
  let delta := ((c.soft.map (fun x => x.1.natAbs)).foldl max 0) / (if c.step = 3 then 1 else 3)
  let at_ := fun (k : Int) => match c.soft.find? (fun x => x.1 == k) with
    | some x => x.2
    | none => []
  let ctr := at_ 0
  let both := fun (k : Nat) => ((agree ctr (at_ (k * delta : Nat))).zip (agree ctr (at_ (-(k * delta : Nat) : Int)))).map
    (fun x => x.1 && x.2)
  let mag := fun (cl : Nat) => bits c.mag (4 * cl) 3
  let a1 := both 1
  let a2 := if c.step = 3 then a1 else both 2
  let a3 := if c.step = 3 then a1 else both 3
  ((allBits (randomise seed ctr)).zip (a1.zip (a2.zip a3))).map (fun x =>
    8 * b2n x.1 + mag (softClass c.step x.2.1 x.2.2.1 x.2.2.2))

/-! ### DECODER_DISPATCH, DECODE_JOB, DECODE_RESULT -/

/-- The mode and iteration limit of a codeword's step (R374). -/
def cwMode (c : RawCw) : Nat × Nat :=
  if 3 ≤ c.step then (2, c.si) else if c.ms then (1, c.mi) else (0, c.bf)

/-- The job header (R368). -/
def jobHdr (seed sb eng tag plane slot code mode maxit src lstep : Nat) (itl parity : Bool) : Nat :=
  fld seed 64 32 + fld sb 42 19 + fld eng 37 5 + fld tag 24 13 + fld (b2n itl) 23 1 + fld plane 20 3 +
  fld slot 18 2 + fld code 16 2 + fld mode 14 2 + fld maxit 9 5 + fld src 4 5 + fld (b2n parity) 3 1 + fld lstep 0 3

/-- The physical address of a codeword. -/
def cwAddr (r : RJob) (slot : Nat) : Nat := r.addr + slot

/-- DECODER_DISPATCH (R233, R358): a codeword and its header go to the decoder of least cost. Without de-randomising
(R272) the seed is 0, whose keystream is all zeros. -/
def decoderDispatch (ch cw : Nat) (d : Dev) : Dev :=
  match (chan d ch).raw.find? (fun c => c.id == cw && c.st == .wait) with
  | none => d
  | some c => match rjob d c.rid with
    | none => d
    | some r =>
      let dst := match r.secs.find? (fun x => x.slot == c.slot) with
        | some x => x.dst
        | none => 0
      match pickDecoder d ch (dst / 524288) (decide (3 ≤ c.step)) with
      | none => d
      | some k =>
        let n := aDie r.addr
        let sys := inSystem d n (aBlock r.addr)
        let code := codeOf d ch r.slc sys
        let seed := if r.own = .raw ∧ (d.rawp.req.map (·.norand)).getD false then 0
          else codeSeed (cwAddr r c.slot) (rndKey d n (aBlock r.addr))
        let mode := cwMode c
        let tag := ownTag d r
        let eng := pickEngine d (homeCh d r) (dst / 524288)
        let job : DecJob :=
          { hdr := jobHdr seed.toNat (dst / 64) eng (tag.getD (r.id % 8192)) (aPlane r.addr) c.slot code
              mode.1 mode.2 ch c.step tag.isNone r.parity,
            ch := ch, cw := cw, eng := eng, mode := mode.1,
            data := if 3 ≤ c.step then [] else randomise seed (c.data.take (codeLen code)),
            soft := if 3 ≤ c.step then softVals c seed else [], started := false, t0 := 0 }
        updLan (fun l => { l with decLast := tabSet 0 l.decLast ch (k + 1) })
          (updChan ch (fun x => { x with
            raw := updWhere (fun y => y.id == cw) (fun y => { y with st := .sent }) x.raw })
            (updDec k (fun x => { x with jobs := x.jobs ++ [job] })
              (send (.cu ch) (.dec k) .data (flits (codeLen code)) (send (.cu ch) (.dec k) .req 1 d))))

def execDecoderDispatch (ch cw : Nat) (s : State) : Host.Outcome State Fault Refusal := run (decoderDispatch ch cw) s

/-- DECODE_JOB (R368): an idle engine takes the first job that waits at it. -/
def decodeJob (k : Nat) (d : Dev) : Dev :=
  if (dec d k).jobs.any (·.started) then d
  else updDec k (fun x => { x with
    jobs := match x.jobs with
      | j :: t => { j with started := true, t0 := d.up } :: t
      | [] => [] }) d

def execDecodeJob (k : Nat) (s : State) : Host.Outcome State Fault Refusal := run (decodeJob k) s

/-- DECODE_RESULT (R369): counters, then the result to the source codec and, when converged, the payload to the
engine. A result whose codec no longer holds the codeword is discarded (R371). -/
def decodeResult (k : Nat) (r : DecRes) (d : Dev) : Dev :=
  match (dec d k).jobs with
  | [] => d
  | j :: t =>
    if ¬ j.started then d
    else
      let b := 0x7001 + 8 * k
      let d0 := send (.dec k) (.cu j.ch) .rsp 1 d
      let d1 := updDec k (fun x => { x with jobs := t })
        (if r.converged then send (.dec k) (.cu j.eng) .data 129 d0 else d0)
      let d2 := cnt b (j.mode + 1) d1
      let d3 := cntN b 6 (d.up - j.t0) (cntN b 5 r.iters (if r.converged then d2 else cnt b 4 d2))
      let d4 := if r.converged then cntN b 8 (satTo r.n10 4095) (cntN b 7 (satTo r.n01 4095) d3) else d3
      match (chan d4 j.ch).raw.find? (fun c => c.id == j.cw) with
      | none => d4
      | some c =>
        let lv := match rjob d4 c.rid with
          | some q => cwLevels d4 q c
          | none => zeroLevels
        let d5 := if c.step ≤ 2 then updChan j.ch (fun x => { x with
            raw := updWhere (fun y => y.id == j.cw) (fun y => { y with tries := y.tries ++ [(lv, satTo r.synd 511)] })
                      x.raw }) d4
          else d4
        if r.converged then
          updChan j.eng (fun x => { x with
            inl := x.inl ++ [{ cw := j.cw, src := j.ch, payload := fit 4128 r.payload,
                               n01 := satTo r.n01 4095, n10 := satTo r.n10 4095, synd := satTo r.synd 511 }] }) d5
        else ladderFail j.ch j.cw d5

def execDecodeResult (k : Nat) (r : DecRes) (s : State) : Host.Outcome State Fault Refusal := run (fun d => kickAll (decodeResult k r d)) s

/-! ### INLINE_CHECK (R352, R376, R391) -/

/-- What a converged decode that passed teaches (R391 to R393). -/
def teachFrom (r : RJob) (c : RawCw) (n01 n10 : Nat) (d : Dev) : Dev :=
  match r.cell with
  | none => d
  | some cell =>
    if od d 0x2301 1 ≠ 0 ∨ 3 ≤ c.step ∨ r.own = .raw ∨ n01 + n10 < od d 0x2301 3 then d
    else teach { grp := r.grp, cell := cell, thr := pageThr d r.grp (aPage r.addr) r.slc,
                 retry := if c.step = 2 then c.retry[c.k]? else none, slc := r.slc, n01 := n01, n10 := n10 } d

/-- INLINE_CHECK: m_crc and m_lsec of a decoded codeword; parity codewords are not checked (R352). -/
def inlineCheck (ch cw : Nat) (d : Dev) : Dev :=
  match (chan d ch).inl.find? (fun x => x.cw == cw) with
  | none => d
  | some q =>
    let d1 := updChan ch (fun x => { x with inl := x.inl.filter (fun y => y.cw ≠ cw || y.src ≠ q.src) }) d
    match (chan d1 q.src).raw.find? (fun c => c.id == cw) with
    | none => d1
    | some c => match rjob d1 c.rid with
      | none => dropCw q.src cw d1
      | some r =>
        if ¬ r.parity ∧ ¬ payCrcOk q.payload then ladderFail q.src cw (cnt 0x2200 2 d1)
        else
          let want := match r.secs.find? (fun x => x.slot == c.slot) with
            | some x => x.lsec
            | none => noSec
          let named : Bool := match r.own with
            | .part _ => true
            | _ => false
          let go := fun (x : Dev) => kick q.src (feedBands (ladder5 c.rid (reread c.rid x)))
          if named ∧ payLsec q.payload ≠ want then
            go (leafBad c.rid c.slot 1 0x0301 (dropCw q.src cw (cnt 0x2200 3 d1)))
          else
            go (leafOk c.rid c.slot q.payload
              (endStep r c.step (teachFrom r c q.n01 q.n10 (dropCw q.src cw d1))))

def execInlineCheck (ch cw : Nat) (s : State) : Host.Outcome State Fault Refusal := run (fun d => kickAll (inlineCheck ch cw d)) s

end Sys2Proof.Machine
end

