-- ==== Sys2Proof/Machine/Ring.lean ====
section
/-! DEFINITION. Work rings: doorbells, fetching, the entry formats and checks, completions and their
doorbells, enabling and draining (04_work_rings.md R142 to R193, R600 to R602). -/

namespace Sys2Proof.Machine

/-! ### Rings (R142, R143, R189, R190) -/

def ring (d : Dev) (r : Nat) : Ring := tabGet Ring.reset d.rings r
def updRing (r : Nat) (f : Ring → Ring) (d : Dev) : Dev :=
  { d with rings := tabSet Ring.reset d.rings r (f (ring d r)) }

def ringState (d : Dev) (r : Nat) : Nat := od d (rgIdx r 1) 1
def sqSize (d : Dev) (r : Nat) : Nat := od d (rgIdx r 0) 6
def cqSize (d : Dev) (r : Nat) : Nat := od d (rgIdx r 0) 7

/-- Pending SQ entries (R143). -/
def sqPending (d : Dev) (r : Nat) : Nat :=
  (od d (rgIdx r 1) 3 + sqSize d r - od d (rgIdx r 1) 2) % max 1 (sqSize d r)

/-- The commands that hold tags of a ring (R190). -/
def inflight (d : Dev) (r : Nat) : Nat := (d.cmds.filter (fun c => c.2.ring == r)).length

/-- Open groups of a ring (R190). -/
def openGroups (d : Dev) (r : Nat) : Nat := (d.groups.filter (fun g => g.ring == r && !g.aborted)).length

/-! ### Doorbells (R147 to R149) -/

/-- A doorbell that fails a check (R148). -/
def badDb (r : Nat) (d : Dev) : Dev := cnt (rgIdx r 2) 3 d

/-- A new sq_tail (R148); one that passes lets a ring whose fetch failed fetch again (R601). -/
def newTail (r v : Nat) (d : Dev) : Dev :=
  let n := max 1 (sqSize d r)
  let head := od d (rgIdx r 1) 2
  if ringState d r = 1 ∧ v < sqSize d r ∧ sqPending d r ≤ (v + n - head) % n then
    updRing r (fun x => { x with failed := false }) (put (rgIdx r 1) 3 v d)
  else badDb r d

/-- A new cq_head (R148); one that repeats the present value ends no wait for CQ space (R145). -/
def newCqHead (r v : Nat) (d : Dev) : Dev :=
  let n := max 1 (cqSize d r)
  let old := od d (rgIdx r 1) 5
  let tail := od d (rgIdx r 1) 4
  if ringState d r = 1 ∧ v < cqSize d r ∧ (v + n - old) % n ≤ (tail + n - old) % n then
    updRing r (fun x => { x with cqWait := x.cqWait && v == old }) (put (rgIdx r 1) 5 v d)
  else badDb r d

/-- The DB_SQ word: a v1 word carries cq_head in its upper half, checked separately. -/
def dbSqWord (r : Nat) (v : Nat) (d : Dev) : Dev :=
  let d1 := newTail r (v % 65536) d
  if od d (rgIdx r 0) 2 = 1 then newCqHead r (v / 65536) d1 else d1

/-! ### Fetching (R150, R32, R582) -/

/-- Free operation tags (R30): tags go to entries as their fetch is issued. -/
def freeTags (d : Dev) : Nat :=
  d.cfg.tags - d.cmds.length - (d.rings.map (fun r => r.2.fetching)).sum

/-- The service state lets the WRU fetch (R582), and no flush or reset has stopped it (R428, R575). -/
def mayFetch (d : Dev) : Bool :=
  (od d 0x2000 1 == 1 || od d 0x2000 1 == 2) && d.clasp.flush.isNone && d.rst.kind.isNone &&
  (List.range d.cfg.segments).all (fun s => (dom d (domSeg d.cfg s)).st != .failed)

/-- A ring of a slice that can fetch now (R150, R601). -/
def fetchable (d : Dev) (p r : Nat) : Bool :=
  ringState d r == 1 && od d (rgIdx r 0) 3 == p && decide (0 < sqPending d r) &&
  (ring d r).fetching == 0 && !(ring d r).failed

/-- The place of a slice's round-robin pointer for a priority. -/
def rrKey (p prio : Nat) : Nat := 8 * p + prio

/-- The first of some rings after the one last served at a priority of a slice. -/
def rrFirst (d : Dev) (p prio : Nat) (l : List Nat) : Option Nat :=
  let mine := l.filter (fun r => od d (rgIdx r 0) 8 == prio)
  (mine.find? (fun r => decide (tabGet 0 d.rrRing (rrKey p prio) ≤ r))).or mine.head?

/-- The highest ring_prio first, round-robin among equals (R150). -/
def byPrioRr (d : Dev) (p : Nat) (l : List Nat) : Option Nat :=
  [7, 6, 5, 4, 3, 2, 1, 0].findSome? (fun prio => rrFirst d p prio l)

/-- The ring that fetches next (R150): a starved one whatever its priority, else by priority. -/
def pickRing (d : Dev) (p : Nat) : Option Nat :=
  let l := (List.range d.cfg.rings).filter (fetchable d p)
  (byPrioRr d p (l.filter (fun r => (ring d r).starved))).or (byPrioRr d p l)

/-- Bytes of an SQ entry (R142). -/
def sqEntBytes (d : Dev) (r : Nat) : Nat := if od d (rgIdx r 0) 2 = 1 then 32 else 64

/-- SQ_FETCH (R150): one READ of up to fetch_burst entries, inside a 4 KiB page and the ring. -/
def sqFetch (p : Nat) (d : Dev) : Dev :=
  if ¬ mayFetch d ∨ freeTags d = 0 then d
  else match pickRing d p with
    | none => d
    | some r =>
      let head := od d (rgIdx r 1) 2
      let sz := sqEntBytes d r
      let at_ := od d (rgIdx r 0) 4 + head * sz
      let n := min (min (min (od d (rgIdx r 0) 9) (sqPending d r)) (freeTags d))
        (min ((4096 - at_ % 4096) / sz) (sqSize d r - head))
      if n = 0 then d
      else
        postRead p at_ (n * sz) (.sq r) (updRing r (fun x => { x with fetching := n, starved := false, fetched := [] })
          { d with rrRing := tabSet 0 d.rrRing (rrKey p (od d (rgIdx r 0) 8)) (r + 1) })

def execSqFetch (p : Nat) (s : State) : Host.Outcome State Fault Refusal :=
  run (fun d => if p < d.cfg.ports then sqFetch p d else d) s

/-- FETCH_STARVATION (R150): entries have waited 100 us; not while a failed fetch waits for its doorbell (R601). -/
def execFetchStarvation (r : Nat) (s : State) : Host.Outcome State Fault Refusal :=
  run (fun d => if r < d.cfg.rings ∧ fetchable d (od d (rgIdx r 0) 3) r then
      updRing r (fun x => { x with starved := true }) d else d) s

/-- A fetch READ failed (R601): its tags are freed and sq_head does not move. -/
def fetchFailed (r : Nat) (d : Dev) : Dev :=
  let x := ring d r
  let d1 := cnt (rgIdx r 2) 8 d
  updRing r (fun y => { y with fetching := 0, fetched := [], failed := !x.discard, discard := false }) d1

/-! ### Entries (R153 to R158, R191, R192) -/

/-- A command with nothing done. Until a sector of it comes from a die it counts as served wholly from SB: a command that
reads trimmed sectors only, or fails a check, reports 1 in `xinfo` [4] (DESIGN CHOICE, log 83). -/
def blankCmd (r no : Nat) (v1 : Bool) : Cmd :=
  { ring := r, no := no, v1 := v1, opc := 0, cid := 0, cgrp := 0, stream := 0, chain := false,
    fence := false, nobell := false, fua := false, slba := 0, nsec := 1, dptr := 0, dlen := 0, q4 := 0,
    q5 := 0, q6 := 0, q7 := 0, st := .waiting, grp := none, fails := [], bad := [], result := 0, step := 0,
    around := false, sbOnly := true, left := 0, out := [], outB := [], outOff := 0, cur := 0, ext := [],
    fin := false, wild := false, need := 0, metNo := 0, ts := 0, tq := 0 }

/-- A v2 entry (R153). -/
def parseV2 (r no : Nat) (b : Bytes) : Cmd :=
  let q := fun (i : Nat) => leAt b (8 * i) 8
  { blankCmd r no false with
    cid := bits (q 0) 32 16, cgrp := bits (q 0) 24 8, stream := bits (q 0) 16 6, chain := bit (q 0) 11,
    fence := bit (q 0) 10, nobell := bit (q 0) 9, fua := bit (q 0) 8, opc := bits (q 0) 0 8,
    nsec := bits (q 1) 40 16 + 1, slba := bits (q 1) 0 40, dptr := q 2, dlen := bits (q 3) 0 32,
    q4 := q 4, q5 := q 5, q6 := q 6, q7 := q 7 }

/-- A v1 entry (R191, R192). -/
def parseV1 (r no : Nat) (b : Bytes) : Cmd :=
  let w := fun (i : Nat) => leAt b (4 * i) 4
  { blankCmd r no true with
    cid := bits (w 0) 16 16, nobell := bit (w 0) 9, fua := bit (w 0) 8, opc := bits (w 0) 0 8,
    slba := w 1, stream := bits (w 2) 16 4, nsec := bits (w 2) 0 16 + 1, dptr := leAt b 16 8 }

/-- The opcode is defined for the ring's format (R157, R192). -/
def opcOk (c : Cmd) : Bool :=
  if c.v1 then decide (1 ≤ c.opc) && decide (c.opc ≤ 4) else [1, 2, 3, 4, 5, 6, 7, 8, 9, 15].contains c.opc

/-- A range passes the logical capacity (R156, R169). DESTAGE-VIEW's is clipped (R173). -/
def rangeBad (d : Dev) (c : Cmd) : Bool :=
  ([1, 2, 3, 6, 7, 8].contains c.opc && decide (d.lan.cap < c.slba + c.nsec)) ||
  (c.opc == 6 && decide (d.lan.cap < bits c.q4 0 40 + c.nsec))

/-- The command-specific checks (R158, R170, R172, R173). -/
def fieldBad (c : Cmd) : Bool :=
  match c.opc with
  | 4 => bits c.q4 0 2 == 3
  | 7 => decide (3 < bits c.q4 16 8) || decide (c.dlen < 16) || bits c.q4 0 12 % 8 != 0 || decide (4088 < bits c.q4 0 12)
  | 8 => decide (c.dlen < cdiv c.nsec (bits c.q4 16 16 + 1) * (if bit c.q4 0 then 32 else 8))
  | 9 => bits c.q4 0 12 == 4095 || bits c.q4 16 24 == 0 || decide (c.dlen < 16)
  | _ => false

/-- The first failing check in the order of R156. -/
def checkCmd (d : Dev) (c : Cmd) : Option Nat :=
  if ¬ opcOk c then some 0x0101
  else if rangeBad d c then some 0x0103
  else if (c.cgrp ≠ 0 ∧ ¬ [1, 3, 5, 6].contains c.opc) ∨ fieldBad c then some 0x0102
  else none

/-! ### Passing commands to Lantern (R152, R164, R167) -/

/-- The lowest free tag. -/
def lowTag (d : Dev) : Nat :=
  ((List.range d.cfg.tags).find? (fun t => !(d.cmds.any (fun c => c.1 == t)))).getD 0

/-- Map entries a member may change. -/
def memberEntries (d : Dev) (c : Cmd) : Nat :=
  if c.opc = 3 then ((granRange d c.slba c.nsec).filter (fun g =>
    decide (c.slba ≤ g.first) && decide (g.first + g.nsec ≤ c.slba + c.nsec))).length
  else (granRange d (writeRange c).1 c.nsec).length

/-- A new group (R164). -/
def newGroup (id : Nat) (c : Cmd) (ab : Bool) : Group :=
  { id := id, ring := c.ring, cgrp := c.cgrp, members := 0, entries := 0, left := 0, aborted := ab, close := none, chg := [] }

/-- A member that has no effect: it completes with a status. -/
def memberOut (tag : Nat) (st : Nat) (d : Dev) : Dev := meet tag (cmdFail tag st d)

/-- A member joins or opens its group, within the limits of R167. -/
def joinGroup (tag : Nat) (c : Cmd) (d : Dev) : Dev :=
  match openGroup d c.ring c.cgrp with
  | none =>
    let (id, d1) := freshId d
    if 64 ≤ (d.groups.filter (fun g => !g.aborted)).length then
      memberOut tag 0x0202 { d1 with groups := d1.groups ++ [newGroup id c true] }
    else
      updCmd tag (fun x => { x with grp := some id }) { d1 with
        groups := d1.groups ++ [{ newGroup id c false with members := 1, left := 1, entries := memberEntries d c }] }
  | some g =>
    if g.aborted then memberOut tag 0x0201 d
    else if 512 < g.members + 1 ∨ 16384 < g.entries + memberEntries d c then
      memberOut tag 0x0201 (abortGroup g.id 0x0201 d)
    else updCmd tag (fun x => { x with grp := some g.id }) (updGroup g.id (fun y => { y with
      members := y.members + 1, left := y.left + 1, entries := y.entries + memberEntries d c }) d)

/-- The command-specific words hold a bit that R158 does not list: WRITE, READ and TRIM use none of them; the
bits inside RAW's two words belong to the layouts of 0x2050:02 and 0x2050:03. -/
def wordsBad (c : Cmd) : Bool :=
  match c.opc with
  | 4 => c.q4 / 2 ^ 2 != 0 || c.q5 != 0 || c.q6 != 0 || c.q7 != 0
  | 5 => c.q4 / 2 ^ 16 != 0 || c.q5 != 0 || c.q6 != 0 || c.q7 != 0
  | 6 => c.q4 / 2 ^ 40 != 0 || c.q5 != 0 || c.q6 != 0 || c.q7 != 0
  | 7 => c.q4 / 2 ^ 32 != 0 || bits c.q4 12 4 != 0 || c.q7 / 2 ^ 32 != 0
  | 8 => c.q4 / 2 ^ 32 != 0 || bits c.q4 1 15 != 0 || c.q5 != 0 || c.q6 != 0 || c.q7 != 0
  | 9 => c.q4 / 2 ^ 40 != 0 || bits c.q4 12 4 != 0 || c.q5 / 2 ^ 40 != 0 || c.q6 != 0 || c.q7 != 0
  | 15 => c.q6 != 0 || c.q7 != 0
  | 1 => c.q4 != 0 || c.q5 != 0 || c.q6 != 0 || c.q7 != 0
  | 2 => c.q4 != 0 || c.q5 != 0 || c.q6 != 0 || c.q7 != 0
  | 3 => c.q4 != 0 || c.q5 != 0 || c.q6 != 0 || c.q7 != 0
  | _ => false

/-- A reserved field of a v2 entry is not 0 (R153, R158). -/
def reservedV2 (b : Bytes) : Bool :=
  bits (leAt b 0 8) 48 16 != 0 || bits (leAt b 0 8) 22 2 != 0 || bits (leAt b 0 8) 12 4 != 0 ||
    bits (leAt b 8 8) 56 8 != 0 || bits (leAt b 24 8) 32 32 != 0 || wordsBad (parseV2 0 0 b)

/-- A reserved field of a v1 entry is not 0 (R191). -/
def reservedV1 (b : Bytes) : Bool :=
  bits (leAt b 0 4) 10 6 != 0 || bits (leAt b 8 4) 20 12 != 0 || leAt b 12 4 != 0 || leAt b 24 8 != 0

/-- A fetched entry becomes a command with a tag and its place in fetch order (R152); a failing check completes
it without effect, and a reserved field that is not 0 makes it unpredictable, it alone (R156, R554). -/
def passCmd (r : Nat) (b : Bytes) (d : Dev) : Dev :=
  let v1 := od d (rgIdx r 0) 2 == 1
  let tag := lowTag d
  let no := d.fetchNo + 1
  let c := if v1 then { parseV1 r no b with wild := reservedV1 b } else { parseV2 r no b with wild := reservedV2 b }
  let d1 := sendFor (some no) (.port (od d (rgIdx r 0) 3)) .lantern .req 1 { d with fetchNo := no, cmds := tabInsert d.cmds tag c }
  match checkCmd d c with
  | some st => meet tag (updCmd tag (fun x => { x with fails := [st] }) d1)
  | none =>
    if [1, 3, 6].contains c.opc ∧ c.cgrp ≠ 0 then joinGroup tag c d1
    else if c.opc = 5 then (match openGroup d1 r c.cgrp with
      | some g => updCmd tag (fun x => { x with grp := some g.id, result := g.members }) (updGroup g.id (fun y => { y with close := some tag }) d1)
      | none => d1)
    else d1

/-- SQ_FETCH_COMPLETE (R144, R152, R189, R601): fetched entries pass to Lantern in ring order, while Lantern
accepts them (R239); a fetch that the ring's drain overtook is discarded. -/
def sqFetchComplete (r : Nat) (d : Dev) : Dev :=
  let x := ring d r
  if x.fetched.isEmpty then d
  else if x.discard ∨ ringState d r ≠ 1 then
    updRing r (fun y => { y with fetching := 0, fetched := [], discard := false }) d
  else if od d 0x2100 8 ≠ 2 ∨ d.clasp.flush.isSome then d
  else
    let d1 := updRing r (fun y => { y with fetching := 0, fetched := [] }) d
    let d2 := put (rgIdx r 1) 2 ((od d (rgIdx r 1) 2 + x.fetched.length) % max 1 (sqSize d r)) d1
    x.fetched.foldl (fun y b => passCmd r b y) d2

def execSqFetchComplete (r : Nat) (s : State) : Host.Outcome State Fault Refusal := run (sqFetchComplete r) s

/-- The fetched bytes of a ring arrive (R601 where the READ failed). -/
def fetchArrived (r : Nat) (ok : Bool) (bs : Bytes) (d : Dev) : Dev :=
  if ¬ ok then fetchFailed r d
  else
    let sz := sqEntBytes d r
    updRing r (fun x => { x with fetched := (List.range x.fetching).map (fun i => fit sz ((bs.drop (i * sz)).take sz)) }) d

/-! ### Completions (R145, R146, R182 to R187, R193) -/

/-- The v1 code of a status (R186). -/
def v1Code (st : Nat) : Nat :=
  match st with
  | 0x0101 => 1
  | 0x0102 => 2
  | 0x0103 => 3
  | 0x0301 => 4
  | 0x0303 => 4
  | 0x0401 => 5
  | 0x0203 => 7
  | 0x0302 => 7
  | _ => 0

/-- xinfo (R183). -/
def xinfo (c : Cmd) : Nat :=
  if [2, 6, 7, 8].contains c.opc then fld (b2n c.sbOnly) 4 1 + fld (b2n c.around) 3 1 + fld c.step 0 3 else 0

/-- What a completion reports: status, v1 code, result, xinfo (R183, R186, R193). -/
structure Report where
  status : Nat
  v1 : Nat
  result : Nat
  xinfo : Nat

/-- A command's report; of an unpredictable one every field is free (R11, log 26). -/
def report (c : Cmd) (d : Dev) : Report × Dev :=
  if c.wild then
    let a := freeVal d
    let b := freeWide a.2
    ({ status := a.1.toNat % 65536, v1 := a.1.toNat % 32768, result := b.1, xinfo := a.1.toNat / 65536 }, b.2)
  else ({ status := c.status, v1 := v1Code c.status, result := c.qw1, xinfo := xinfo c }, d)

/-- A completion entry (R183, R193). -/
def cqEntry (d : Dev) (c : Cmd) (p : Report) : Bytes :=
  let r := c.ring
  let head := od d (rgIdx r 1) 2
  let ph := od d (rgIdx r 1) 6
  if c.v1 then
    leBytes 4 (fld head 16 16 + fld c.cid 0 16) ++ leBytes 4 (fld ph 15 1 + fld p.v1 0 15) ++
      leBytes 4 (c.ts / 1000 % 2 ^ 32) ++ leBytes 4 (p.result % 2 ^ 32)
  else
    leBytes 8 (fld r 48 8 + fld c.opc 32 8 + fld head 16 16 + fld c.cid 0 16) ++ leBytes 8 p.result ++ leBytes 8 c.ts ++
      leBytes 8 (fld p.xinfo 48 16 + fld (ring d r).cseq 32 16 + fld c.tq 17 2 + fld ph 16 1 + fld p.status 0 16)

/-- The command whose completion is posted next on a ring: the first whose condition was met (R182). -/
def nextPost (d : Dev) (r : Nat) : Option Nat :=
  ((d.cmds.filter (fun c => c.2.ring == r && c.2.st == .met)).foldl (fun (b : Option (Nat × Nat)) c => match b with
    | none => some (c.1, c.2.metNo)
    | some x => if c.2.metNo < x.2 then some (c.1, c.2.metNo) else some x) none).map (·.1)

/-- COMPLETION_POST (R145, R182 to R187): the entry is written and the tag freed. With the CQ full the completion
waits, counted once. -/
def completionPost (tag : Nat) (d : Dev) : Dev :=
  match cmd? d tag with
  | none => d
  | some c =>
    let r := c.ring
    let tail := od d (rgIdx r 1) 4
    let n := max 1 (cqSize d r)
    if nextPost d r ≠ some tag then d
    else if (tail + 1) % n = od d (rgIdx r 1) 5 then
      (if (ring d r).cqWait then d else cnt (rgIdx r 2) 4 (updRing r (fun x => { x with cqWait := true }) d))
    else
      let p := report c d
      let e := cqEntry d c p.1
      let x := ring d r
      let src := od d (rgIdx r 0) 0x0A
      let d1 := { p.2 with
        cmds := tabErase d.cmds tag
        groups := d.groups.filter (fun g => !(c.opc == 5 && c.grp == some g.id)) }
      let d2 := updRing r (fun y => { y with
        cseq := (y.cseq + 1) % 65536, posted := y.posted + 1,
        bells := if c.nobell ∨ 1024 ≤ src then y.bells else y.bells ++ [⟨x.posted, src, false, false⟩] }) d1
      let d3 := put (rgIdx r 1) 4 ((tail + 1) % n) (cnt (rgIdx r 2) 1 d2)
      let d4 := if (tail + 1) % n = 0 then put (rgIdx r 1) 6 (1 - od d (rgIdx r 1) 6) d3 else d3
      let d5 := if p.1.status ≠ 0 then put (rgIdx r 2) 7 (fld c.cid 16 16 + fld p.1.status 0 16) (cnt (rgIdx r 2) 2 d4) else d4
      pruneVers (postWrite (od d (rgIdx r 0) 3) (od d (rgIdx r 0) 5 + tail * e.length) e [] (.cq r c.cid x.posted) d5)

def execCompletionPost (tag : Nat) (s : State) : Host.Outcome State Fault Refusal := run (completionPost tag) s

/-- COMPLETION_BELL (R187): the first completion of the ring whose write has departed, or landed, rings. -/
def completionBell (r : Nat) (d : Dev) : Dev :=
  match (ring d r).bells.find? (fun b => if od d (rgIdx r 0) 0x0B = 1 then b.departed else b.landed) with
  | none => d
  | some b => ringUnit (.port (od d (rgIdx r 0) 3)) b.src (updRing r (fun x => { x with bells := x.bells.filter (fun y => y.no ≠ b.no) }) d)

def execCompletionBell (r : Nat) (s : State) : Host.Outcome State Fault Refusal := run (completionBell r) s

/-! ### Enabling and draining (R146, R189) -/

/-- A ring enters ACTIVE: pointers 0, cseq 0, phase 1. A fetch still out is for an earlier life; one that has arrived and
was not passed is dropped. -/
def ringStart (r : Nat) (d : Dev) : Dev :=
  let x := ring d r
  let out := if x.fetched.isEmpty then x.fetching else 0
  let d1 := updRing r (fun _ => { Ring.reset with
                                                  fetching := out, discard := decide (0 < out), bells := x.bells,
                                                  posted := x.posted, lastTs := x.lastTs, lastStep := x.lastStep }) d
  put (rgIdx r 1) 1 1 (put (rgIdx r 1) 2 0 (put (rgIdx r 1) 3 0 (put (rgIdx r 1) 4 0 (put (rgIdx r 1) 5 0
    (put (rgIdx r 1) 6 1 d1)))))

/-- A group whose commit Clasp has begun is past aborting. -/
def commitBegun (d : Dev) (id : Nat) : Bool := d.clasp.commits.any (fun c => c.grp == some id)

/-- Open groups of a ring that leaves ACTIVE are aborted (R167, R168). -/
def abortRing (r : Nat) (d : Dev) : Dev :=
  let d1 := (d.groups.filter (fun g => g.ring == r && !g.aborted && !commitBegun d g.id)).foldl
    (fun x g => abortGroup g.id 0x0201 x) d
  d1.groups.foldl (fun x g => if g.ring = r ∧ g.aborted then
    groupCheck g.id (updClasp (fun c => { c with groupQ := c.groupQ.filter (· ≠ g.id) })
      (match g.close with
        | some t => updCmd t (fun c => { c with st := if c.st = .durable then .running else c.st }) x
        | none => x)) else x) d1

/-- A write of ring_enable that passes its checks (R189). -/
def ringEnable (r v : Nat) (d : Dev) : Dev :=
  let d1 := put (rgIdx r 0) 1 v d
  if v = 1 then (if ringState d r = 0 then ringStart r d1 else d1)
  else if ringState d r = 1 then
    let d2 := put (rgIdx r 1) 1 2 d1
    abortRing r (updRing r (fun x => { x with discard := decide (0 < x.fetching) }) d2)
  else d1

/-- RING_DRAINED (R189): the last command in flight has posted its completion. The groups that the drain aborted are
gone. -/
def ringDrained (r : Nat) (d : Dev) : Dev :=
  if r < d.cfg.rings ∧ ringState d r = 2 ∧ inflight d r = 0 then
    let d1 := { d with groups := d.groups.filter (fun g => g.ring != r) }
    (if od d (rgIdx r 0) 1 = 1 then ringStart r d1 else put (rgIdx r 1) 1 0 d1)
  else d

def execRingDrained (r : Nat) (s : State) : Host.Outcome State Fault Refusal := run (ringDrained r) s

end Sys2Proof.Machine
end

