-- ==== Sys2Proof/Machine/Commands.lean ====
section
/-! DEFINITION. The ring commands and what their granules go through: WRITE, READ, TRIM, FLUSH, COMMIT,
COPY, SCAN, HASH, DESTAGE-VIEW, merges and placement (04_work_rings.md R157 to R174, R181; 05 R206, R220 to R227). -/

namespace Sys2Proof.Machine

/-! ### Starting (R181, R239, R428) -/

/-- A command may start: it waits, Lantern works, no flush runs, and its fence is met. -/
def canStart (d : Dev) (c : Cmd) : Bool :=
  c.st == .waiting && (od d 0x2100 8 == 2 || od d 0x2100 8 == 3) && d.clasp.flush.isNone &&
  (!c.fence || d.cmds.all (fun x => x.2.ring != c.ring || decide (c.no ≤ x.2.no)))

/-- A command of an opcode starts: one that failed already completes with no effect (R156, R168). -/
def startCmd (opc tag : Nat) (f : Cmd → Dev → Dev) (d : Dev) : Dev :=
  match cmd? d tag with
  | none => d
  | some c =>
    if c.opc ≠ opc ∨ ¬ canStart d c then d
    else
      let d1 := updCmd tag (fun x => { x with st := .running }) d
      if c.fails.isEmpty then f c d1 else cmdCheck tag d1

/-! ### Pads that a command waits for (R206) -/

/-- A command waits on its units: fua outside a group, a COMMIT on its group, a FLUSH on its scope. -/
def urgent (d : Dev) (c : Cmd) : Bool :=
  (c.fua && c.grp.isNone) ||
  (match c.grp with
    | some id => (match group? d id with
      | some g => g.close.isSome
      | none => false)
    | none => false) ||
  d.cmds.any (fun f => f.2.opc == 4 && f.2.st == .running && decide (c.no < f.2.no) &&
    inScope (bits f.2.q4 0 2) f.2.ring c.ring && !openMember d c)

/-- Partly filled member slots that hold a unit of such a command are padded and programmed. -/
def padUrgent (d : Dev) : Dev :=
  d.lan.bands.foldl (fun x b => b.rows.foldl (fun y r => (List.range r.slots.length).foldl (fun z j =>
    match r.slots[j]? with
    | none => z
    | some m =>
      let hit := m.uses.any (fun u => match (wjob d u.job).bind (fun w => w.tag.bind (cmd? d)) with
        | some c => urgent d c
        | none => false)
      if slotFills d b.id r.row j && hit then cnt 0x2108 0x0D (padSlot b.id r.row j z) else z) y) x) d

/-! ### WRITE and COPY destinations (R159, R169, R220 to R222) -/

/-- One granule of a WRITE or COPY; slots past a short granule's end hold no data (R598). -/
def addWjob (tag : Nat) (c : Cmd) (lo hi : Nat) (g : Gran) (d : Dev) : Dev :=
  let (id, d1) := freshId d
  let m := maskRange (max lo g.first - g.first) (min hi (g.first + g.nsec) - g.first)
  let h := hint d c.ring c.stream
  let w : WJob :=
    { id := id, tag := some tag, reloc := none, no := c.no, gran := g.idx, first := g.first, nsec := g.nsec,
      mask := m, host := if c.opc = 1 then m else 0, landed := 0, bad := maskRange g.nsec (2 ^ g.glog),
      key := hintKey d g.glog h, life := bits h 0 3, temp := bits h 4 2, stream := c.stream,
      rset := c.ring / 16, sb := [], merging := false, reads := 0, given := false, pieces := [], gen := 0,
      wseq := 0, spaceWait := false, dead := false, src := 0, metas := [], driven := 0, hold := [] }
  updLan (fun l => { l with wjobs := l.wjobs ++ [w] }) d1

/-- The granules of a WRITE's or COPY's destination. -/
def writeGranules (tag : Nat) (c : Cmd) (d : Dev) : Dev :=
  let lo := (writeRange c).1
  let gs := granRange d lo c.nsec
  gs.foldl (fun x g => addWjob tag c lo (lo + c.nsec) g x) (updCmd tag (fun c => { c with left := gs.length }) d)

/-- WRITE (R159). -/
def execWrite (tag : Nat) (s : State) : Host.Outcome State Fault Refusal :=
  run (startCmd 1 tag (writeGranules tag)) s

/-- READ (R160): a read for each granule. -/
def execRead (tag : Nat) (s : State) : Host.Outcome State Fault Refusal :=
  run (startCmd 2 tag (readGranules tag)) s

/-- The ranges of a COPY overlap: its result, and its destination sectors, are unpredictable (R169, R554). -/
def copyOverlaps (c : Cmd) : Bool :=
  decide (c.slba < bits c.q4 0 40 + c.nsec) && decide (bits c.q4 0 40 < c.slba + c.nsec)

/-- COPY (R169): its destination granules, fed from inside. -/
def execCopy (tag : Nat) (s : State) : Host.Outcome State Fault Refusal :=
  run (startCmd 6 tag (fun c d => writeGranules tag c
    (updCmd tag (fun x => { x with wild := x.wild || copyOverlaps c }) d))) s

/-- A job covers its whole granule. -/
def wholeGran (w : WJob) : Bool := w.mask == maskRange 0 w.nsec

/-- MERGE (R222): SB space for the granule and a read of its other sectors. -/
def merge (id : Nat) (d : Dev) : Dev :=
  match wjob d id with
  | none => d
  | some w =>
    if wholeGran w ∨ w.merging ∨ w.reloc.isSome ∨ w.dead ∨ d.clasp.flush.isSome then d
    else
      let e := mapE d w.gran
      let seg := if eTrim e then 0 else segCh d.cfg (dieCh (aDie (eAddr e)))
      match reserveJob seg w d with
      | none => d
      | some d1 =>
        let sb := match wjob d1 id with
          | some x => x.sb
          | none => []
        let secs : List RSec := ((List.range w.nsec).filter (fun i => !bit w.mask i)).map (fun i =>
          { lsec := w.first + i, slot := i, dst := sb.getD i 0, fin := false, bad := 0 })
        cnt 0x2108 0x0A ((addRead (.wjob id) w.no 0 w.gran 0 w.key.glog false secs
          (updWjob id (fun x => { x with merging := true, reads := 1 }) d1)).2)

def execMerge (job : Nat) (s : State) : Host.Outcome State Fault Refusal := run (merge job) s

/-- The reads of a COPY's source for one placed destination granule. -/
def copyReads (id : Nat) (d : Dev) : Dev :=
  match wjob d id with
  | none => d
  | some w => match w.tag.bind (cmd? d) with
    | none => d
    | some c =>
      if c.opc ≠ 6 then d
      else
        let ds := bits c.q4 0 40
        let secs := ((List.range w.nsec).filter (bit w.mask)).map (fun i =>
          (c.slba + (w.first + i - ds), w.sb.getD i 0))
        let lo := (secs.map (·.1)).headD 0
        (granRange d lo secs.length).foldl (fun x g =>
          let mine : List RSec := (secs.filter (fun s => decide (g.first ≤ s.1) && decide (s.1 < g.first + g.nsec))).map
            (fun s => { lsec := s.1, slot := s.1 - g.first, dst := s.2, fin := false, bad := 0 })
          (addRead (.wjob id) w.no 0 g.idx 0 g.glog false mine
            (updWjob id (fun y => { y with reads := y.reads + 1 }) x)).2) d

/-- A granule waits for a place: whole or merged, nothing of it placed, its reads ended. -/
def wantsPlace (w : WJob) : Bool :=
  w.pieces.isEmpty && w.reads == 0 && !w.dead && (wholeGran w || w.merging)

/-- NO_SPACE (R227). -/
def noSpace (w : WJob) (d : Dev) : Dev :=
  match w.tag with
  | some t => killJob w (cnt 0x2108 0x0E (cmdFail t 0x0302 d))
  | none => d

/-- The share of the page units placed in a window that relocation writes take, in percent times all bands (R225). -/
def relShare (d : Dev) (kind : Nat) : Nat :=
  let all := totalBands d
  let free := 100 * freeBands d
  let low := od d 0x2104 1
  let crit := od d 0x2104 2
  let base := od d 0x2104 3
  let top := od d 0x2104 4
  if kind = 1 ∨ low * all ≤ free then base * all
  else if free ≤ crit * all then top * all
  else base * all + (top - base) * (low * all - free) / max 1 (low - crit)

/-- Page units placed in the present 1 ms window: all, by relocations and by checkpoints. -/
def placedNow (d : Dev) : Nat × Nat × Nat :=
  if d.lan.placedMs = d.up / 1000000 then (d.lan.placedAll, d.lan.placedRel, d.lan.placedCk) else (0, 0, 0)

/-- A host write that could be placed waits. -/
def hostWaits (d : Dev) : Bool :=
  d.lan.wjobs.any (fun x => x.reloc.isNone && !x.dead && !x.spaceWait && placeable x)

/-- A relocation's write has its turn (R225): its share of the window is not used up, or no host write that could be placed
waits (log 84). -/
def relMay (d : Dev) (w : WJob) : Bool :=
  let kind := ((d.lan.relocs.find? (fun r => some r.id == w.reloc)).map (·.kind)).getD 1
  let p := placedNow d
  let u := unitsOf w.key.glog
  !hostWaits d ||
    decide (p.2.1 * (100 * totalBands d) < relShare d kind * (p.1 + u))

/-- Page units placed count in their window: all of them, by relocations, by checkpoints. -/
def countUnits (all rel ck : Nat) (d : Dev) : Dev :=
  let p := placedNow d
  updLan (fun l => { l with
    placedMs := d.up / 1000000, placedAll := p.1 + all, placedRel := p.2.1 + rel, placedCk := p.2.2 + ck }) d

/-- A placed write counts in its window. -/
def countPlaced (w : WJob) (d : Dev) : Dev :=
  let u := unitsOf w.key.glog
  countUnits u (if w.reloc.isSome then u else 0) 0 d

/-- A checkpoint's unit has its turn (R418): its share of the window is not used up, or no host write that could be placed
waits (log 84). -/
def ckptMay (d : Dev) : Bool :=
  let p := placedNow d
  !hostWaits d || decide (p.2.2 * 100 < od d 0x2400 9 * (p.1 + 1))

/-- PLACE_WRITE (R220 to R227): the key is the hint's as it stands now (R178). A COPY's source is read once its
granule is placed. -/
def placeWrite (id : Nat) (d : Dev) : Dev :=
  match wjob d id with
  | none => d
  | some w0 =>
    if ¬ wantsPlace w0 ∨ d.clasp.flush.isSome ∨ (od d 0x2100 8 ≠ 2 ∧ od d 0x2100 8 ≠ 3) then d
    else if jobAborted d w0 then killJob w0 d
    else if w0.reloc.isSome ∧ ¬ relMay d w0 then d
    else
      let w := match w0.tag.bind (cmd? d) with
        | some c =>
          let h := hint d c.ring c.stream
          { w0 with key := hintKey d w0.key.glog h, life := bits h 0 3, temp := bits h 4 2 }
        | none => w0
      match tryPlace w (updWjob id (fun _ => w) d) with
      | .done d1 =>
        let d2 := if w.host = 0 ∧ w.reloc.isNone ∧ ¬ w.given then
            copyReads id (updWjob id (fun x => { x with given := true }) d1) else d1
        feedBands (padUrgent (countPlaced w d2))
      | .wait d1 => d1
      | .noBand d1 =>
        if w.reloc.isSome then d1
        else if d1.lan.bands.any (fun b => b.st == .closed && hasInvalid d1 b) then
          updWjob id (fun x => { x with spaceWait := true }) d1
        else noSpace w d1

def execPlaceWrite (job : Nat) (s : State) : Host.Outcome State Fault Refusal := run (placeWrite job) s

/-- SPACE_WAIT_TIMEOUT (R227). -/
def execSpaceWaitTimeout (job : Nat) (s : State) : Host.Outcome State Fault Refusal :=
  run (fun d => match wjob d job with
    | some w => if w.spaceWait then kickAll (noSpace w d) else d
    | none => d) s

/-! ### TRIM (R162) -/

/-- The granules wholly inside a TRIM from a sector on. -/
def trimGranules (d : Dev) (c : Cmd) : List Gran :=
  (granRange d c.slba c.nsec).filter (fun g => decide (max c.slba c.cur ≤ g.first) &&
    decide (g.first + g.nsec ≤ c.slba + c.nsec))

/-- One granule trimmed: its entry changes, and is counted, unless a later command changed it already (R162, R179,
R208). -/
def trimGran (tag : Nat) (c : Cmd) (g : Gran) (d : Dev) : Dev :=
  if entryLost d g.idx then failGran tag ((List.range g.nsec).map (g.first + ·)) d
  else
    let d1 := changeMap g c.no (mkTrim ((eGen (mapE d g.idx) + 1) % 256)) 0 c.grp d
    if isNewest d g.idx c.no then updCmd tag (fun x => { x with result := x.result + 1 }) d1 else d1

/-- A TRIM goes on while the journal buffer takes its records (R413); a member of an aborted group changes nothing more
(R168). -/
def trimGo (tag : Nat) (d : Dev) : Dev :=
  match cmd? d tag with
  | none => d
  | some c =>
    if c.opc ≠ 3 ∨ c.st ≠ .running ∨ c.left = 0 then d
    else
      let d1 := if c.fails.contains 0x0201 then d else (trimGranules d c).foldl (fun x g =>
        let due : Bool := match cmd? x tag with
          | some y => decide (y.cur ≤ g.first)
          | none => false
        if (decide (jbufUsed x < jbufCap x) && due) = true then
          updCmd tag (fun y => { y with cur := g.first + g.nsec }) (trimGran tag c g x)
        else x) d
      match cmd? d1 tag with
      | none => d1
      | some c1 => if c1.fails.contains 0x0201 ∨ (trimGranules d1 c1).isEmpty then
          cmdCheck tag (updCmd tag (fun y => { y with left := 0, need := d1.clasp.recNo }) d1)
        else d1

/-- TRIM. -/
def execTrim (tag : Nat) (s : State) : Host.Outcome State Fault Refusal :=
  run (startCmd 3 tag (fun _ d => trimGo tag (updCmd tag (fun x => { x with left := 1 }) d))) s

/-! ### FLUSH and COMMIT (R163, R166) -/

/-- FLUSH. -/
def execFlush (tag : Nat) (s : State) : Host.Outcome State Fault Refusal :=
  run (startCmd 4 tag (fun _ d => feedBands (padUrgent (cmdCheck tag d)))) s

/-- COMMIT: a member count that differs from nmem aborts the group (R167). -/
def commitCmd (tag : Nat) (c : Cmd) (d : Dev) : Dev :=
  match c.grp.bind (group? d) with
  | none => cmdCheck tag d
  | some g =>
    let n := bits c.q4 0 16
    if g.aborted then cmdCheck tag (cmdFail tag 0x0201 d)
    else if n ≠ 0 ∧ n ≠ g.members then cmdCheck tag (cmdFail tag 0x0201 (abortGroup g.id 0x0201 d))
    else feedBands (padUrgent (cmdCheck tag d))

def execCommit (tag : Nat) (s : State) : Host.Outcome State Fault Refusal := run (startCmd 5 tag (commitCmd tag)) s

/-! ### SCAN, HASH, DESTAGE-VIEW -/

/-- SCAN (R170, R171). -/
def execScan (tag : Nat) (s : State) : Host.Outcome State Fault Refusal :=
  run (startCmd 7 tag (fun c d => nextGran tag (updCmd tag (fun x => { x with cur := c.slba, fin := false }) d))) s

/-- HASH (R172): QW1 of an OK completion is the number of extents. -/
def execHash (tag : Nat) (s : State) : Host.Outcome State Fault Refusal :=
  run (startCmd 8 tag (fun c d => nextGran tag (updCmd tag (fun x => { x with
    cur := c.slba, fin := false, result := cdiv c.nsec (bits c.q4 16 16 + 1) }) d))) s

/-- A write of the range fetched earlier has not reached the map yet (R179). -/
def mapBehind (d : Dev) (no lo hi : Nat) : Bool :=
  earlierWaits d no lo hi ||
  d.lan.wjobs.any (fun w => w.reloc.isNone && !w.dead && decide (w.no < no) && decide (w.first < hi) &&
    decide (lo < w.first + w.nsec))

/-- DESTAGE-VIEW (R173, R174): it starts once the map holds every earlier write of its span. -/
def execDestageView (tag : Nat) (s : State) : Host.Outcome State Fault Refusal :=
  run (fun d => match cmd? d tag with
    | none => d
    | some c =>
      let span := bits c.q5 0 40
      if mapBehind d c.no c.slba (if span = 0 then d.lan.cap else c.slba + span) then d
      else startCmd 9 tag (fun c d => cmdCheck tag (destageView tag c d)) d) s

end Sys2Proof.Machine
end

