-- ==== Sys2Proof/Machine/Clasp.lean ====
section
/-! DEFINITION. Clasp: the system region, journal sectors, commits, prices, the budget test, erases and
checkpoints (11_clasp_commit_power_loss.md R402 to R425). -/

namespace Sys2Proof.Machine

/-! ### The system region (R402, R403) -/

/-- Usable region-0 blocks of a die. -/
def sysBlocks (d : Dev) (n : Nat) : List Nat :=
  (List.range (blocksOf d n)).filter (fun b => inSystem d n b && (blk d n b).bstate != 5)

/-- The two blocks of a die, in plane 0, that are its flush pool at a start (R402). -/
def flushPool (d : Dev) (n : Nat) : List (Nat × Nat) := ((sysBlocks d n).take 2).map (fun b => (b, 0))

/-- Every other region-0 block of a die, plane by plane. -/
def sysPool (d : Dev) (n : Nat) : List (Nat × Nat) :=
  ((sysBlocks d n).flatMap (fun b => (List.range (planes d)).map (fun p => (b, p)))).filter
    (fun x => !(flushPool d n).contains x)

def sysDie (d : Dev) (n : Nat) : SysDie := tabGet SysDie.reset d.clasp.sys n
def updSys (n : Nat) (f : SysDie → SysDie) (d : Dev) : Dev :=
  updClasp (fun c => { c with sys := tabSet SysDie.reset c.sys n (f (sysDie d n)) }) d

/-- PRESENT dies of a channel, in die order. -/
def chDies (d : Dev) (ch : Nat) : List Nat :=
  ((List.range (diesPerCh d.cfg)).map (dieAt d.cfg ch)).filter (present d)

/-- PRESENT dies of the block. -/
def presentDies (d : Dev) : List Nat := (List.range d.cfg.channels).flatMap (chDies d)

/-- The single pair of R404: the two lowest dies on different channels. -/
def lastPair (d : Dev) : List (Nat × Nat) :=
  match presentDies d with
  | [] => []
  | a :: t => match t.find? (fun b => dieCh b != dieCh a) with
    | some b => [(a, b)]
    | none => []

/-- The journal pairs of a start (R403). -/
def formPairs (d : Dev) : List (Nat × Nat) :=
  let h := d.cfg.channels / 2
  let l := (List.range (min 8 h)).filterMap (fun i => match chDies d i, chDies d (i + h) with
    | a :: _, b :: _ => some (a, b)
    | _, _ => none)
  if l.isEmpty then lastPair d else l

/-- The pairs in use, shown at jpairs. -/
def setPairs (l : List (Nat × Nat)) (d : Dev) : Dev :=
  put 0x2400 0x11 l.length (updClasp (fun c => { c with pairs := l }) d)

/-- A die of a journal pair. -/
def isJournal (d : Dev) (n : Nat) : Bool := d.clasp.pairs.any (fun p => p.1 == n || p.2 == n)

/-- The dies of the checkpoint pool. -/
def ckptDies (d : Dev) : List Nat := (presentDies d).filter (fun n => !isJournal d n)

/-- The next page of a die's pool for a sector of a number: the block in hand, or the next erased one. -/
def sysTake (n num : Nat) (d : Dev) : Option ((Nat × Nat × Nat) × Dev) :=
  let x := sysDie d n
  let old := match x.cur with
    | some (b, p, _) => x.used ++ [(b, p, x.last)]
    | none => x.used
  let fresh := match x.free with
    | [] => none
    | (b, p) :: t => some ((b, p, 0), updSys n (fun y => { y with
        cur := some (b, p, 1), last := num, free := t, used := old }) d)
  match x.cur with
  | some (b, p, pg) =>
    if pg < pagesOf d then
      some ((b, p, pg), updSys n (fun y => { y with cur := some (b, p, pg + 1), last := max y.last num }) d)
    else fresh
  | none => fresh

/-- The block in hand is given up: what is in it stays, nothing more is written to it. -/
def sysLeave (n : Nat) (d : Dev) : Dev :=
  updSys n (fun y => match y.cur with
    | some (b, p, _) => { y with cur := none, used := y.used ++ [(b, p, y.last)] }
    | none => y) d

/-- The next checkpoint's number as the blocks' newest number keeps it apart from journal numbers. -/
def ckMark (n : Nat) : Nat := 2 ^ 64 + n

/-- A page unit with a copy on each die of a list; none where a die has no erased page left. -/
def mkUnit (num : Nat) (cws : List CwSrc) (dies : List Nat) (d : Dev) : Option (CUnit × Dev) :=
  let go := dies.foldl (fun (a : Option (List CCopy × Dev)) n => match a with
    | none => none
    | some (l, x) => (sysTake n num x).map (fun r =>
        (l ++ [⟨n, r.1.1, r.1.2.1, r.1.2.2, false, false⟩], r.2))) (some ([], d))
  go.map (fun r => ({ id := r.2.clasp.unitNo + 1, cws := cws, copies := r.1 },
    updClasp (fun c => { c with unitNo := c.unitNo + 1 }) r.2))

/-! ### Journal sectors (R405 to R409) -/

/-- The 32 bytes of a record (R408). -/
def JRec.bytes (r : JRec) : Bytes :=
  leBytes 1 r.typ ++ leBytes 1 r.flags ++ leBytes 2 r.grp ++ leBytes 4 r.aux ++ leBytes 8 r.a ++ leBytes 8 r.b ++
    leBytes 8 r.c

/-- A journal sector (R406). -/
def jSector (d : Dev) (jsn flags : Nat) (rs : List JRec) : Bytes :=
  let head := leBytes 4 0x4A434C43 ++ leBytes 2 rs.length ++ leBytes 2 flags ++ leBytes 8 jsn ++
    leBytes 8 (od d 0x2404 4) ++ leBytes 4 (od d 0x2404 5)
  let body := fit 4064 (rs.flatMap JRec.bytes)
  head ++ leBytes 4 (crc32c (head ++ body)) ++ body

/-- A list in runs of k. -/
def chunks {α : Type} (k : Nat) : Nat → List α → List (List α)
  | 0, _ => []
  | f + 1, l => if l.isEmpty then [] else l.take k :: chunks k f (l.drop k)

/-- The codewords of journal sectors with consecutive numbers from a first one; the last carries bit 0 (R410). -/
def jSectors (d : Dev) (first flags : Nat) (rs : List JRec) : List CwSrc :=
  let cs := match chunks 127 (rs.length + 1) rs with
    | [] => [[]]
    | l => l
  (cs.zipIdx).map (fun x =>
    .sector (metaQw ((first + x.2) % 2 ^ 40) 1 0 3 0)
      (jSector d (first + x.2) (flags + b2n (decide (x.2 + 1 = cs.length))) x.1))

/-! ### Prices (R420, R422) -/

/-- commit_price of s sectors. -/
def commitPrice (d : Dev) (s : Nat) : Nat :=
  let u := cdiv s 4
  cdiv (od d 0x2402 2 * ((od d 0x2402 3 + 2 * u * od d 0x2402 4) * 1024000 + 2 * u * 18560 * od d 0x2402 6)) 102400000

/-- Flush dies. -/
def flushDies (d : Dev) : List Nat := presentDies d

/-- The data rate of the slowest channel with a flush die, in MB/s. -/
def flushRate (d : Dev) : Nat :=
  match ((List.range d.cfg.channels).filter (fun ch => !(chDies d ch).isEmpty)).map (fun ch => od d (chIdx ch 9) 2) with
  | [] => 1
  | x :: t => max 1 (t.foldl min x)

/-- t_wait: the largest native program mean of the PRESENT dies (R420). -/
def tWait (d : Dev) : Nat := ((presentDies d).map (fun n => (die d n).means.getD 3 0)).foldl max 0

/-- The price of U units (R420). -/
def unitsPrice (d : Dev) (u : Nat) : Nat :=
  let n := (flushDies d).length
  if n = 0 then 0xFFFFFFFF
  else
    let r := flushRate d
    let w := cdiv u n
    let base := od d 0x2402 7 * (tWait d * r + (w + 1) * (od d 0x2402 8 * r + 18560)) * 1024
    cdiv (od d 0x2402 2 * (base + u * od d 0x2402 5 * 1024000 * r + u * 18560 * od d 0x2402 6 * r)) (102400000 * r)

/-- Index units of a number of FLUSH_ACC records. -/
def idxUnits (n : Nat) : Nat := cdiv (max 1 (cdiv n 127)) 4

/-- U of the full-size flush (R420). -/
def flushUnits (d : Dev) : Nat :=
  let sb := d.cfg.sbMib * 64
  sb + 2 * (od d 0x2400 0x10 / 16) + (flushDies d).length + 2 * idxUnits sb

/-- flush_price and the reserve (R420, R422). -/
def flushPrice (d : Dev) : Nat := satTo (unitsPrice d (flushUnits d)) 0xFFFFFFFF
def reserveUj (d : Dev) : Nat := satTo (flushPrice d + od d 0x2401 3) 0xFFFFFFFF

/-- The budget test (R424). -/
def budgetOk (d : Dev) (price : Nat) : Bool :=
  budgetValid d.tele && decide (reserveUj d + price ≤ od d 0x2401 4)

/-- One value of the table moved by 1/16 toward a measured one, and not lowered below half its default (R421). -/
def calOne (sub target dflt : Nat) (d : Dev) : Dev :=
  let v : Int := od d 0x2402 sub
  let new := v + tdiv ((target : Int) - v) 16
  put 0x2402 sub (if new < v then max new (min v ((dflt : Int) / 2)) else new).toNat d

/-- The mean g of the used packages (R541). -/
def meanGain (d : Dev) : Nat :=
  let l := ((usedNodes d).filter (· < 256)).map (fun n => (node d n).gain)
  if l.isEmpty then 256 else l.sum / l.length

/-- e_measured of an energy, 0 to 5 (R541). -/
def eMeasured (d : Dev) (i : Nat) : Nat := od d 0x2804 (i + 1) * meanGain d / 256

/-- CALIBRATION_TICK (R421). -/
def calibrate (d : Dev) : Dev :=
  if od d 0x2402 1 ≠ 0 then d
  else
    let ms := ((presentDies d).map (fun n => (die d n).means.getD 2 0)).filter (· ≠ 0)
    let dv := fun (s : Nat) => odDefault d.cfg (ek 0x2402 s)
    let d1 := calOne 4 (eMeasured d 1) (dv 4) (calOne 5 (eMeasured d 2) (dv 5) (calOne 6 (eMeasured d 5) (dv 6) d))
    let d2 := if ms.isEmpty then d1 else calOne 8 (ms.sum / ms.length) (dv 8) d1
    calOne 7 (od d 0x2800 0x0E) (dv 7) d2

def execCalibrationTick (s : State) : Host.Outcome State Fault Refusal := run calibrate s

/-! ### Units in the Buoy queues -/

/-- Changes a unit of a commit, or of the checkpoint (0). -/
def updUnit (c u : Nat) (f : CUnit → CUnit) (d : Dev) : Dev :=
  updClasp (fun x =>
    if c = 0 then { x with ckpt := x.ckpt.map (fun k => { k with units := updWhere (fun y => y.id == u) f k.units }) }
    else { x with
      commits := updWhere (fun k => k.no == c) (fun k => { k with units := updWhere (fun y => y.id == u) f k.units })
        x.commits }) d

/-- Changes a copy. -/
def updCopy (c u i : Nat) (f : CCopy → CCopy) (d : Dev) : Dev :=
  updUnit c u (fun x => { x with copies := x.copies.modify i f }) d

/-- A unit of a commit or of the checkpoint. -/
def unit? (d : Dev) (c u : Nat) : Option CUnit :=
  if c = 0 then d.clasp.ckpt.bind (fun k => k.units.find? (fun y => y.id == u))
  else (d.clasp.commits.find? (fun k => k.no == c)).bind (fun k => k.units.find? (fun y => y.id == u))

/-- The program entry of a copy (R402: SLC, one plane). -/
def claspEnt (c u i : Nat) (k : CCopy) : BEnt :=
  { ent 1 2 (.clasp c u i) with tag := u % 8192, slc := true, pmask := 2 ^ k.plane, block := k.block, page := k.page }

/-- Queues a copy's program when its die has a free slot. -/
def feedCopy (c u i : Nat) (k : CCopy) (d : Dev) : Dev :=
  if k.queued ∨ ¬ present d k.die ∨ ¬ (if c = 0 then freeSlot d k.die else slotFree d k.die) then d
  else enqueue k.die (claspEnt c u i k) (updCopy c u i (fun y => { y with queued := true }) d)

/-- Queues the copies of a commit's or the checkpoint's units. -/
def feedUnits (c : Nat) (us : List CUnit) (d : Dev) : Dev :=
  us.foldl (fun x u => (u.copies.zipIdx).foldl (fun y k => feedCopy c u.id k.2 k.1 y) x) d

/-! ### Erases (R415, R583) -/

/-- A block's bstate becomes ERASE_Q and its erase waits for its intent (R415, R39 step 6). -/
def queueErase (n b : Nat) (d : Dev) : Dev :=
  let d1 := jAppend (jrec 7 (n + b * 65536) 0 0) (if (blk d n b).bstate = 4 then d else setBstate n b 4 d)
  updClasp (fun c => { c with want := true, erases := c.erases ++ [⟨n, b, none, c.recNo, false⟩] }) d1

/-- A Clasp block is queued for erase; without an intent until the first journal block has been erased (R583). -/
def queueSysErase (n b p : Nat) (d : Dev) : Dev :=
  if d.clasp.firstErased then
    updClasp (fun c => { c with want := true, erases := c.erases ++ [⟨n, b, some p, c.recNo, false⟩] })
      (jAppend (jrec 7 (n + b * 65536) 0 0) d)
  else updClasp (fun c => { c with erases := c.erases ++ [⟨n, b, some p, 0, false⟩] }) d

/-- Erases whose intent is committed enter their dies' queues. -/
def feedErases (d : Dev) : Dev :=
  d.clasp.erases.foldl (fun x e =>
    if e.queued ∨ x.clasp.durRec < e.need ∨ ¬ present x e.die ∨ ¬ freeSlot x e.die then x
    else
      let pm := match e.plane with
        | some p => 2 ^ p
        | none => 2 ^ planes x - 1
      enqueue e.die { ent 2 2 .erase with slc := e.plane.isSome, pmask := pm, block := e.block }
        (updClasp (fun c => { c with
          erases := updWhere (fun y => y.die == e.die && y.block == e.block && y.plane == e.plane)
            (fun y => { y with queued := true }) c.erases }) x)) d

/-- Blocks in ERASE_Q without an erase queue theirs while the journal buffer has room (R413, R583). -/
def feedEraseQ (d : Dev) : Dev :=
  (d.lan.blk.filter (fun x => x.2.bstate == 4)).foldl (fun x k =>
    let n := dieOfRank x.cfg (k.1 / 65536)
    let b := k.1 % 65536
    if ¬ present x n ∨ jbufCap x ≤ jbufUsed x ∨ x.clasp.erases.any (fun e => e.die == n && e.block == b) then x
    else queueErase n b x) d

/-- The erase job of a queue entry. -/
def eraseJob (d : Dev) (n : Nat) (e : BEnt) : Option EraseJob :=
  d.clasp.erases.find? (fun j => j.die == n && j.block == e.block && j.queued &&
    (match j.plane with
      | some p => e.pmask == 2 ^ p
      | none => e.pmask == 2 ^ planes d - 1))

/-- Everything of Clasp's that waits for a Buoy slot. -/
def claspFeed (d : Dev) : Dev :=
  let d1 := d.clasp.commits.foldl (fun x c => feedUnits c.no c.units x) d
  if d.clasp.flush.isSome then d1
  else
    let d2 := match d1.clasp.ckpt with
      | some k => feedUnits 0 k.units d1
      | none => d1
    feedErases (feedEraseQ d2)

/-! ### Commits start (R412, R414, R424) -/

/-- A MAP record is due for a member's change: the entry's generation is still the member's (R414). -/
def groupRecs (d : Dev) (g : Group) : List JRec :=
  let tag := fld g.ring 8 8 + fld g.cgrp 0 8
  let last := g.chg.filter (fun c => eGen (mapE d c.gran) == eGen c.ent)
  let maps := (last.map (·.gran)).eraseDups.map (fun gr =>
    let w := match (last.filter (fun c => c.gran == gr)).getLast? with
      | some c => c.wseq
      | none => 0
    { jrec 1 gr (mapE d gr) w with flags := 1, grp := tag })
  maps ++ [{ jrec 4 maps.length g.members 0 with flags := 1, grp := tag }]

/-- Why a commit is due (R412): something waits on its records, or enough of them wait. -/
def commitDue (d : Dev) : Bool :=
  !d.clasp.jbuf.isEmpty &&
  (d.clasp.want || !d.clasp.groupQ.isEmpty || decide (od d 0x2400 5 * 127 ≤ d.clasp.jbuf.length))

/-- The units of a commit's codewords, each with a copy on both dies of the next pair in rotation (R403). -/
def commitUnits : Nat → Nat → List CwSrc → Dev → Option (List CUnit × Dev)
  | 0, _, _, d => some ([], d)
  | f + 1, jsn, cws, d =>
    if cws.isEmpty then some ([], d)
    else match d.clasp.pairs[d.clasp.nextPair % max 1 d.clasp.pairs.length]? with
      | none => none
      | some p => match mkUnit (jsn + 3) (cws.take 4) [p.1, p.2] d with
        | none => none
        | some (u, d1) =>
          (commitUnits f (jsn + 4) (cws.drop 4) (updClasp (fun c => { c with nextPair := c.nextPair + 1 }) d1)).map
            (fun r => (u :: r.1, r.2))

/-- The checkpoint whose CKPT_BEGIN is among the records learns its sector's number. -/
def noteBegin (first : Nat) (rs : List JRec) (d : Dev) : Dev :=
  match findPos (fun (r : JRec) => r.typ == 9) rs with
  | none => d
  | some (i, _) => updClasp (fun c => { c with
      written := 0, ckpt := c.ckpt.map (fun k => { k with begin_ := first + i / 127 }) }) d

/-- A trigger (R418); one that arrives during a checkpoint merges into it. -/
def ckptTrigger (d : Dev) : Dev :=
  if d.clasp.ckpt.isSome then d else updClasp (fun c => { c with ckptTrig := true }) d

/-- Enough journal has been written since the last CKPT_BEGIN (R418). -/
def ckptByJournal (d : Dev) : Dev :=
  if od d 0x2400 7 * 256 ≤ d.clasp.written then ckptTrigger d else d

/-- Clasp starts a commit of given records: the budget test (R424), its place, its units. -/
def startCommit (rs : List JRec) (grp : Option Nat) (d : Dev) : Dev :=
  let s := max 1 (cdiv rs.length 127)
  if ¬ budgetOk d (commitPrice d s) then
    (if d.clasp.waited then d else cnt 0x2403 2 (updClasp (fun c => { c with waited := true }) d))
  else
    let first := d.clasp.jsn + 1
    match commitUnits (s + 1) first (jSectors d first 0 rs) d with
    | none => updClasp (fun c => { c with ckptTrig := true }) d
    | some (us, d1) =>
      let jb := if grp.isSome then d.clasp.jbuf else []
      let c : Commit :=
        { no := d.clasp.commitNo + 1, last := d.clasp.jsn + s, upto := d.clasp.recNo - jb.length, recs := rs,
          units := us, grp := grp }
      let d2 := updClasp (fun x => { x with
        jbuf := jb, jsn := x.jsn + s, commitNo := x.commitNo + 1, commits := x.commits ++ [c], waited := false,
        want := if grp.isSome then x.want else false, written := x.written + s,
        groupQ := match grp with
          | some g => x.groupQ.filter (· ≠ g)
          | none => x.groupQ }) d1
      ckptByJournal (claspFeed (put 0x2404 3 (d.clasp.jsn + s) (noteBegin first rs d2)))

/-- COMMIT_START (R410, R412, R424): the waiting records first, then a group. -/
def commitStart (d : Dev) : Dev :=
  if od d 0x2400 1 ≠ 2 ∨ 4 ≤ d.clasp.commits.length ∨ d.clasp.pairs.isEmpty ∨ d.rst.kind.isSome then d
  else if commitDue d then startCommit d.clasp.jbuf none d
  else match d.clasp.groupQ with
    | [] => d
    | g :: _ => match group? d g with
      | none => updClasp (fun c => { c with groupQ := c.groupQ.filter (· ≠ g) }) d
      | some x => startCommit (groupRecs d x) (some g) d

def execCommitStart (s : State) : Host.Outcome State Fault Refusal := run commitStart s

/-- JCOMMIT_AGE (R412): the oldest waiting record is jcommit_us old. -/
def execJcommitAge (s : State) : Host.Outcome State Fault Refusal :=
  run (fun d => if d.clasp.jbuf.isEmpty then d else updClasp (fun c => { c with want := true }) d) s

/-! ### Commits end (R410) -/

/-- A command's wait for durability ends (R35, R163, R410). -/
def releaseWait (tag : Nat) (d : Dev) : Dev :=
  match cmd? d tag with
  | none => d
  | some c => flushAll (memberDone c (meet tag d))

/-- The waits on records up to the newest durable one end. -/
def releaseWaits (d : Dev) : Dev :=
  (byNo (d.cmds.filter (fun c => c.2.st == .durable && c.2.opc != 5 && decide (c.2.need ≤ d.clasp.durRec)))).foldl
    (fun x c => releaseWait c.1 x) d

/-- A block that holds only what a complete checkpoint no longer needs (R419). -/
def sysStale (d : Dev) (last : Nat) : Bool :=
  match d.clasp.kept.getLast? with
  | none => false
  | some (num, b) =>
    if 2 ^ 64 ≤ last then decide (last < ckMark num) else decide (last < b)

/-- Older blocks of the pools are queued for erase (R419). -/
def reclaimSys (d : Dev) : Dev :=
  (presentDies d).foldl (fun x n =>
    ((sysDie x n).used.filter (fun u => sysStale d u.2.2)).foldl (fun y u => queueSysErase n u.1 u.2.1 y)
      (updSys n (fun s => { s with used := s.used.filter (fun u => !sysStale d u.2.2) }) x)) d

/-- A checkpoint's CKPT_END is committed (R417, R419): the two newest are kept. -/
def ckptComplete (d : Dev) : Dev :=
  match d.clasp.ckpt with
  | none => d
  | some k =>
    reclaimSys (put 0x2404 4 k.begin_ (cnt 0x2403 4
      (updClasp (fun c => { c with ckpt := none, kept := ((k.num, k.begin_) :: c.kept).take 2 }) d)))

/-- A group's COMMIT is committed (R166, R414). -/
def groupCommitted (g : Nat) (d : Dev) : Dev :=
  match (group? d g).bind (·.close) with
  | none => d
  | some t => flushAll (meet t (updGroup g (fun x => { x with chg := [] }) d))

/-- Every unit of a commit has passed on both dies. -/
def Commit.passed (c : Commit) : Bool := c.units.all (fun u => u.copies.all (·.passed))

/-- COMMIT_DONE (R410): the oldest commit is committed, and what waited on it goes on. -/
def commitDone (d : Dev) : Dev :=
  match d.clasp.commits with
  | [] => d
  | c :: t =>
    if ¬ c.passed then d
    else
      let d1 := cnt 0x2403 1 (updClasp (fun x => { x with commits := t, durRec := max x.durRec c.upto }) d)
      let d2 := match c.grp with
        | some g => groupCommitted g d1
        | none => d1
      let d3 := if c.recs.any (fun r => r.typ == 10) then ckptComplete d2 else d2
      let d4 := finishJobs (releaseWaits d3)
      claspFeed (d4.cmds.foldl (fun x k => if k.2.opc = 3 then trimGo k.1 x else x) d4)


/-- NO_ENERGY_TIMEOUT (R425): the commit a command waits on has not started. A group COMMIT's group is aborted. -/
def noEnergy (tag : Nat) (d : Dev) : Dev :=
  match cmd? d tag with
  | none => d
  | some c =>
    if c.st ≠ .durable then d
    else if c.opc = 5 then
      (match c.grp with
        | none => d
        | some g =>
          if ¬ d.clasp.groupQ.contains g then d
          else
            let d1 := updClasp (fun x => { x with groupQ := x.groupQ.filter (· ≠ g) }) (cnt 0x2403 3 d)
            flushAll (groupCheck g (updCmd tag (fun x => { x with st := .running }) (abortGroup g 0x0203 d1))))
    else if c.need + d.clasp.jbuf.length ≤ d.clasp.recNo then d
    else releaseWait tag (cmdFail tag 0x0203 (cnt 0x2403 3 d))

def execNoEnergyTimeout (tag : Nat) (s : State) : Host.Outcome State Fault Refusal := run (noEnergy tag) s

/-! ### Journal and checkpoint programs end (R404, R412, R417) -/

/-- A copy written again at another page: of another block of the die, of the next die of the checkpoint pool,
or of a given die. -/
def rewriteCopy (c u i : Nat) (dies : List Nat) (d : Dev) : Dev :=
  match (unit? d c u).bind (fun x => x.copies[i]?) with
  | none => d
  | some k =>
    let num := if c = 0 then (sysDie d k.die).last else d.clasp.jsn
    let d1 := cnt 0x2403 0x0C (sysLeave k.die d)
    match dies.findSome? (fun n => (sysTake n num d1).map (fun r => (n, r))) with
    | none => updClasp (fun x => { x with ckptTrig := true }) (updCopy c u i (fun y => { y with queued := true }) d1)
    | some (n, r) => claspFeed (updCopy c u i (fun _ => ⟨n, r.1.1, r.1.2.1, r.1.2.2, false, false⟩) r.2)

/-- A flush pool that lost a block takes another of the die's plane-0 blocks: an erased one, else one to be erased
(R402). -/
def refillFlush (y : SysDie) : SysDie :=
  match y.free.find? (fun x => x.2 == 0) with
  | some x => { y with free := y.free.filter (· ≠ x), flushB := y.flushB ++ [x], flushP := y.flushP ++ [x] }
  | none => match y.dirty.find? (fun x => x.2 == 0 && !y.flushP.contains x) with
    | some x => { y with flushP := y.flushP ++ [x] }
    | none => y

/-- A Clasp block whose program or erase failed becomes RETIRED, and its pool takes another (R402). -/
def retireSys (n b p : Nat) (d : Dev) : Dev :=
  let drop := fun (l : List (Nat × Nat)) => l.filter (fun x => x.1 ≠ b)
  setBstate n b 5 (updSys n (fun y =>
    let y1 := { y with
      free := drop y.free, flushB := drop y.flushB, flushP := drop y.flushP,
      dirty := y.dirty.filter (fun x => x ≠ (b, p)) }
    if y1.flushP.length < y.flushP.length then refillFlush y1 else y1) d)

/-- The program of a Clasp unit's copy has ended. -/
def claspProgramEnd (c u i : Nat) (n b p : Nat) (ok : Bool) (d : Dev) : Dev :=
  if ok then updCopy c u i (fun k => { k with passed := true }) d
  else rewriteCopy c u i (if c = 0 then n :: (ckptDies d).filter (fun m => decide (n < m)) ++ ckptDies d else [n])
    (retireSys n b p d)

/-- A die of a pair has failed (R404): the next PRESENT die of its channel takes its place, or the pair leaves.
Sectors whose copy had not passed are written again. -/
def claspDieFailed (n : Nat) (d : Dev) : Dev :=
  if ¬ isJournal d n then
    (match d.clasp.ckpt with
      | none => d
      | some k => k.units.foldl (fun x u => (u.copies.zipIdx).foldl (fun y q =>
          if q.1.die = n ∧ ¬ q.1.passed then rewriteCopy 0 u.id q.2 (ckptDies y) y else y) x) d)
  else
    let repl := (chDies d (dieCh n)).find? (fun m => !isJournal d m)
    let ps := match repl with
      | some m => d.clasp.pairs.map (fun p => (if p.1 = n then m else p.1, if p.2 = n then m else p.2))
      | none => d.clasp.pairs.filter (fun p => p.1 != n && p.2 != n)
    let d0 := match repl with
      | some m => sysLeave m d
      | none => d
    let d1 := setPairs (if ps.isEmpty then lastPair d0 else ps) d0
    d1.clasp.commits.foldl (fun x c => c.units.foldl (fun y u =>
      if ¬ u.copies.any (fun k => k.die == n && !k.passed) then y
      else match repl with
        | some m => (u.copies.zipIdx).foldl (fun z q =>
            if q.1.die = n ∧ ¬ q.1.passed then rewriteCopy c.no u.id q.2 [m] z else z) y
        | none => match y.clasp.pairs[y.clasp.nextPair % max 1 y.clasp.pairs.length]? with
          | none => y
          | some p => rewriteCopy c.no u.id 1 [p.2] (rewriteCopy c.no u.id 0 [p.1]
              (updClasp (fun k => { k with nextPair := k.nextPair + 1 }) y))) x) d1

/-- The erase of a Clasp block has ended (R213, R402, R583). A Clasp block is one plane of a block; the block's record
counts each plane's erase (log 83). -/
def sysErased (n b p : Nat) (ok : Bool) (d : Dev) : Dev :=
  if ok then
    let d1 := putRdCount n b 0 (updBlk n b (fun k => { k with pe := satTo (k.pe + 1) 0xFFFF }) d)
    updClasp (fun c => { c with firstErased := c.firstErased || isJournal d n }) (updSys n (fun y =>
      if y.flushP.contains (b, p) then { y with dirty := y.dirty.filter (· ≠ (b, p)), flushB := y.flushB ++ [(b, p)] }
      else { y with dirty := y.dirty.filter (· ≠ (b, p)), free := y.free ++ [(b, p)] }) d1)
  else retireSys n b p d

/-- Clasp divides region 0 into its pools at a start (R402, R403): every block is SYSTEM; what is not known to be
erased is to be erased before use. -/
def claspStart (d : Dev) : Dev :=
  let d1 := setPairs (formPairs d) d
  (presentDies d).foldl (fun x n =>
    let y := (sysBlocks x n).foldl (fun z b => updBlk n b (fun k => { k with bstate := 7 }) z) x
    updSys n (fun _ => { SysDie.reset with flushP := flushPool d n, dirty := flushPool d n ++ sysPool d n }) y) d1

/-- The blocks to be erased before use are queued for erase. -/
def eraseDirty (d : Dev) : Dev :=
  (presentDies d).foldl (fun x n => (sysDie d n).dirty.foldl (fun y b =>
    if y.clasp.erases.any (fun e => e.die == n && e.block == b.1 && e.plane == some b.2) then y
    else queueSysErase n b.1 b.2 y) x) d

/-! ### Checkpoints (R417, R418) -/

/-- The header sector: the configuration in force. -/
def ckptHeader (d : Dev) : Bytes :=
  (d.lan.regions.flatMap (leBytes 8)) ++ leBytes 8 d.lan.cap ++ leBytes 8 d.lan.n ++
    leBytes 4 (crc32c (getB d 0x2102 2)) ++ leBytes 4 (od d 0x2100 9)

/-- Sectors of an array of bytes. -/
def secCount (bytes : Nat) : Nat := cdiv bytes 4096

/-- The sizes in sectors of the arrays copied: header, map table, block records, band records, cells. -/
def ckptSizes (d : Dev) : List Nat :=
  [1, secCount (8 * mapCount d), secCount (16 * dieCount d.cfg * od d 0x2100 9),
   secCount (d.lan.sets.length * od d 0x2100 9 * (d.lan.n + 1) * 8),
   4 * secCount ((getB d 0x2304 1).length)]

/-- The array and the sector within it of the i-th sector of a checkpoint. -/
def ckptPos : List Nat → Nat → Nat → Option (Nat × Nat)
  | [], _, _ => none
  | n :: t, i, a => if i < n then some (a, i) else ckptPos t (i - n) (a + 1)

/-- A sector of the arrays as they stand now (R212, R417). -/
def ckptSector (d : Dev) (a i : Nat) : Bytes :=
  let bb := max 1 (od d 0x2100 9)
  match a with
  | 0 => fit 4096 (ckptHeader d)
  | 1 => (List.range 512).flatMap (fun k => leBytes 8 (mapE d (512 * i + k)))
  | 2 => (List.range 256).flatMap (fun k =>
      let r := 256 * i + k
      leBytes 16 (blk d (dieOfRank d.cfg (r / bb)) (r % bb)).word)
  | 3 => (List.range 512).flatMap (fun k =>
      let r := (512 * i + k) / (d.lan.n + 1)
      leBytes 8 (bandMem d (r / bb) (r % bb) ((512 * i + k) % (d.lan.n + 1))))
  | _ =>
    let per := max 1 (secCount ((getB d 0x2304 1).length))
    fit 4096 (((getB d 0x2304 (i / per + 1)).drop (4096 * (i % per))).take 4096)

/-- The next unit of a checkpoint: up to four sectors, at the next page of a die of the pool. -/
def ckptUnit (k : Ckpt) (d : Dev) : Option (Ckpt × Dev) :=
  let sz := ckptSizes d
  let secs := (List.range 4).filterMap (fun j => (ckptPos sz (k.next + j) 0).map (fun p => (k.next + j, p)))
  if secs.isEmpty then none
  else
    let cws := secs.map (fun s => (s.1, s.2.1, ckptSector d s.2.1 s.2.2))
    match (ckptDies d).findSome? (fun n => mkUnit (ckMark k.num)
      (cws.map (fun c => .sector (metaQw (fld k.num 32 8 + c.1 % 2 ^ 32) 2 c.2.1 3 0) c.2.2)) [n] d) with
    | none => none
    | some (u, d1) => some ({ k with
        next := k.next + secs.length, crc := (cws.flatMap (·.2.2)).foldl (crcByte 0x82F63B78#32) k.crc,
        units := k.units ++ [u] }, d1)

/-- The next unit of the running checkpoint is made when none is in flight. -/
def ckptGo (d : Dev) : Dev :=
  match d.clasp.ckpt with
  | none => d
  | some k =>
    if k.units.any (fun u => u.copies.any (fun c => !c.passed)) ∨ k.ended ∨ ¬ ckptMay d then d
    else match ckptUnit { k with units := [] } d with
      | none => d
      | some (k1, d1) => claspFeed (updClasp (fun c => { c with ckpt := some k1 }) (countUnits 1 0 1 d1))

/-- CHECKPOINT_START (R216, R417): every dirty line is written back, and CKPT_BEGIN names the header sector's place; not
while a map line is lost (R492). A running checkpoint goes on. -/
def checkpointStart (d0 : Dev) : Dev :=
  let d := if d0.clasp.ckptTrig ∧ d0.clasp.ckpt.isNone ∧ od d0 0x2400 1 = 2 ∧ d0.rst.kind.isNone then writeBackAll d0 else d0
  if ¬ d.clasp.ckptTrig ∨ d.clasp.ckpt.isSome ∨ od d 0x2400 1 ≠ 2 ∨ od d 0x2109 3 ≠ 0 ∨ d.rst.kind.isSome then
    ckptGo d
  else
    let num := d.clasp.ckptNum + 1
    match ckptUnit { num := num, begin_ := 0, next := 0, crc := BitVec.allOnes 32, units := [], ended := false } d with
    | none => d
    | some (k, d1) =>
      let loc := match k.units.head?.bind (fun u => u.copies.head?) with
        | some c => mkAddr c.die c.plane c.block c.page 0
        | none => 0
      claspFeed (jAppend (jrec 9 (num % 2 ^ 32) loc 0) (updClasp (fun c => { c with
        ckpt := some k, ckptNum := num, ckptTrig := false }) (countUnits 1 0 1 d1)))

def execCheckpointStart (s : State) : Host.Outcome State Fault Refusal := run checkpointStart s

/-- CHECKPOINT_END (R417): every sector has passed; the commit of CKPT_END is due (R412). -/
def checkpointEnd (d : Dev) : Dev :=
  match d.clasp.ckpt with
  | none => d
  | some k =>
    if k.ended ∨ k.units.any (fun u => u.copies.any (fun c => !c.passed)) ∨
        (ckptPos (ckptSizes d) k.next 0).isSome then d
    else
      updClasp (fun c => { c with want := true, ckpt := some { k with ended := true } })
        (jAppend (jrec 10 (k.num % 2 ^ 32) k.next (~~~ k.crc).toNat) d)

def execCheckpointEnd (s : State) : Host.Outcome State Fault Refusal := run checkpointEnd s

/-- CKPT_PERIOD (R418): 0 disables the period. -/
def execCkptPeriod (s : State) : Host.Outcome State Fault Refusal :=
  run (fun d => if od d 0x2400 8 = 0 ∨ od d 0x2400 1 ≠ 2 then d else ckptTrigger d) s

end Sys2Proof.Machine
end

