-- ==== Sys2Proof/Machine/Relocate.lean ====
section
/-! DEFINITION. Relocation: victims, copies, switches and the erase of the source
(01_anatomy.md R39 to R41; 05_lantern_placement.md R210, R223 to R226; 11 R415, R416). -/

namespace Sys2Proof.Machine

/-! ### Victims (R223) -/

/-- The data members of a band. -/
def dataMembers (d : Dev) (b : Band) : List (Nat × Nat) := (List.range d.lan.n).map (fun j => member b (dataPos d b j))

/-- Valid units of a band. -/
def bandUnits (d : Dev) (b : Band) : Nat := (b.mem.map (fun m => (blk d m.1 m.2).vunits)).sum

/-- The smallest ptime_s of a band's members. -/
def bandTime (d : Dev) (b : Band) : Nat :=
  match b.mem.map (fun m => (blk d m.1 m.2).ptime) with
  | [] => 0
  | x :: t => t.foldl min x

/-- The mean P/E count of a band's members. -/
def bandPe (d : Dev) (b : Band) : Nat := (b.mem.map (fun m => (blk d m.1 m.2).pe)).sum / max 1 b.mem.length

/-- The band of smallest measure; ties by oldest ptime_s, then by set and bidx (R223). -/
def leastBand (d : Dev) (f : Band → Nat) (l : List Band) : Option Band :=
  let key := fun (b : Band) => ((f b * 2 ^ 31 + bandTime d b) * 2 ^ 10 + b.set) * 2 ^ 16 + b.bidx
  l.foldl (fun best b => match best with
    | none => some b
    | some x => if key b < key x then some b else some x) none

/-- Free bands are below a percentage of all bands. -/
def freeBelow (d : Dev) (pct : Nat) : Bool := decide (freeBands d * 100 < pct * totalBands d)

/-- A record of a band, or of one of its blocks, is lost: it is not relocated (R490). -/
def recordLost (d : Dev) (b : Band) : Bool := bandLost d b.set b.bidx || b.mem.any (fun m => blkLost d m.1 m.2)

/-- The kind and victim of the relocation that would start now (R223). -/
def pickVictim (d : Dev) : Option (Nat × Band) :=
  let cl := d.lan.bands.filter (fun b => b.st == .closed && !recordLost d b)
  let inv := cl.filter (hasInvalid d)
  let k1 := leastBand d (fun _ => 0) (cl.filter (fun b => d.lan.relWant.contains b.id))
  let k2 := if freeBelow d (od d 0x2104 2) then leastBand d (bandUnits d) inv else none
  let k3 := if od d 0x2104 0x0C = 1 then
      leastBand d (fun _ => 0) (cl.filter (fun b => b.mem.any (fun m => dieExcluded d m.1))) else none
  let k4 := if freeBelow d (od d 0x2104 1) then leastBand d (bandUnits d) inv else none
  let k5 := if od d 0x2104 7 = 0 then none
    else (leastBand d (bandTime d) cl).filter (fun b => decide (od d 0x2104 7 * 3600 < nowS d - bandTime d b))
  let k6 := if od d 0x2104 5 < peMax d - peMin d then
      leastBand d (bandPe d) (cl.filter (fun b => b.key.grp == 2)) else none
  [(1, k1), (2, k2), (3, k3), (4, k4), (5, k5), (6, k6)].findSome? (fun x => x.2.map (fun b => (x.1, b)))

/-! ### Copies (R39 steps 1 to 3) -/

def reloc? (d : Dev) (id : Nat) : Option Reloc := d.lan.relocs.find? (fun r => r.id == id)
def updReloc (id : Nat) (f : Reloc → Reloc) (d : Dev) : Dev :=
  updLan (fun l => { l with relocs := updWhere (fun r => r.id == id) f l.relocs }) d

/-- The source block of a relocation's member in hand. -/
def relocSource (d : Dev) (r : Reloc) : Nat × Nat :=
  match band d r.band with
  | some b => member b (dataPos d b r.mem)
  | none => (0, 0)

/-- The granules whose first page unit lies in a block, in page order. -/
def blockGrans (d : Dev) (n b : Nat) : List Nat :=
  ((d.lan.map.filter (fun x => !eTrim x.2 && aDie (eAddr x.2) == n && aBlock (eAddr x.2) == b)).foldl
    (fun (t : Tab Nat) x => tabInsert t
      ((aPage (eAddr x.2) * 8 + aPlane (eAddr x.2)) * 4 + aSlot (eAddr x.2)) x.1) []).map (·.2)

/-- A relocation's member in hand begins: its intent is recorded (R416). -/
def relocIntent (id : Nat) (d : Dev) : Dev :=
  match reloc? d id with
  | none => d
  | some r =>
    let s := relocSource d r
    let d1 := jAppend (jrec 5 (s.1 + s.2 * 65536) (id % 65536) 0) d
    updClasp (fun c => { c with want := true }) (updReloc id (fun x => { x with
      step := 0, need := d1.clasp.recNo, todo := [], copies := [], left := 0 }) d1)

/-- A copy of one granule: SB space, its job and its read of the source (R39 step 2). Its key has the region's granule size
and takes the rest from the source block's record (R217). -/
def relocCopy (r : Reloc) (b : Band) (gran : Nat) (d : Dev) : Option Dev :=
  match granIdx d gran with
  | none => some d
  | some g =>
    let e := mapE d gran
    let s := relocSource d r
    if eTrim e ∨ aDie (eAddr e) ≠ s.1 ∨ aBlock (eAddr e) ≠ s.2 then some d
    else
      let (id, d1) := freshId d
      let w : WJob :=
        { id := id, tag := none, reloc := some r.id, no := d.fetchNo, gran := gran, first := g.first, nsec := g.nsec,
          mask := maskRange 0 g.nsec, host := 0, landed := 0, bad := maskRange g.nsec (2 ^ g.glog), key := { b.key with glog := g.glog },
          life := b.life, temp := b.temp, stream := 0, rset := 0, sb := [], merging := true, reads := 1, given := true,
          pieces := [], gen := eGen e, wseq := 0, spaceWait := false, dead := false, src := e, metas := [], driven := 0, hold := [] }
      let d2 := updLan (fun l => { l with wjobs := l.wjobs ++ [w] }) d1
      (reserveJob (segCh d.cfg (dieCh s.1)) w d2).map (fun x =>
        let sb := match wjob x id with
          | some y => y.sb
          | none => []
        let secs : List RSec := (List.range g.nsec).map (fun i =>
          { lsec := g.first + i, slot := i, dst := sb.getD i 0, fin := false, bad := 0 })
        (addRead (.wjob id) d.fetchNo 1 gran 0 g.glog false secs
          (updReloc r.id (fun y => { y with left := y.left + 1 }) x)).2)

/-- Copies a relocation keeps under way at a time. -/
def relocBatch : Nat := 4

/-- Copies begin while SB has room. -/
def relocCopies (id : Nat) : Nat → Dev → Dev
  | 0, d => d
  | f + 1, d => match reloc? d id with
    | none => d
    | some r => match r.todo, band d r.band with
      | g :: t, some b =>
        if relocBatch ≤ r.left then d
        else match relocCopy r b g d with
          | none => d
          | some d1 => relocCopies id f (updReloc id (fun x => { x with todo := t }) d1)
      | _, _ => d

/-! ### The source's end (R39 step 6, R224, R226, R261) -/

/-- A read of a block is still under way. -/
def blockRead (d : Dev) (m : Nat × Nat) : Bool :=
  d.lan.rjobs.any (fun r => (match r.own with
    | .part _ => true
    | .rebuild _ => true
    | .acc _ _ => true
    | _ => false) && aDie r.addr == m.1 && aBlock r.addr == m.2)

/-- The band's units no longer count, and nobody reads them (R226). -/
def reclaimable (d : Dev) (b : Band) : Bool :=
  bandUnits d b == 0 && b.mem.all (fun m => !blockRead d m)

/-- A member is reclaimed: erased, or RETIRED if a program failure cut it (R261); a FAILED die's stays as it is. -/
def reclaimMember (b : Band) (pos : Nat) (d : Dev) : Dev :=
  let m := member b pos
  if ¬ present d m.1 then d
  else if cutRow d b pos < pagesOf d then setBstate m.1 m.2 5 d
  else queueErase m.1 m.2 d

/-- The source band is reclaimed and the relocation's own bands close. -/
def relocEnd (id : Nat) (d : Dev) : Dev :=
  match reloc? d id with
  | none => d
  | some r => match band d r.band with
    | none => updLan (fun l => { l with relocs := l.relocs.filter (fun x => x.id ≠ id) }) d
    | some b =>
      if r.step ≠ 4 ∨ ¬ reclaimable d b then d
      else
        let d1 := (List.range b.mem.length).foldl (fun x q => reclaimMember b q x) d
        let d2 := (d1.lan.bands.filter (fun x => x.reloc == some id)).foldl (fun x y => closeBand y.id x) d1
        cnt 0x2108 6 (updLan (fun l => { l with
          relocs := l.relocs.filter (fun x => x.id ≠ id), bands := l.bands.filter (fun x => x.id ≠ b.id) }) d2)

/-- A relocation goes on as far as it can: its intent is durable and copies begin; its copies have all passed
and RELOC_DONE is recorded; that is durable and the switch may come; or the source is reclaimed. -/
def relocGo (id : Nat) (d : Dev) : Dev :=
  match reloc? d id with
  | none => d
  | some r =>
    let s := relocSource d r
    if r.step = 0 ∧ r.need ≤ d.clasp.durRec then
      let l := blockGrans d s.1 s.2
      relocCopies id (l.length + 1) (updReloc id (fun x => { x with step := 1, todo := l }) d)
    else if r.step = 1 ∧ r.todo.isEmpty ∧ r.left = 0 then
      let d1 := jAppend (jrec 6 (s.1 + s.2 * 65536) (id % 65536) 0) d
      updClasp (fun c => { c with want := true })
        (updReloc id (fun x => { x with step := 2, need := d1.clasp.recNo }) d1)
    else if r.step = 1 then relocCopies id (r.todo.length + 1) d
    else if r.step = 2 ∧ r.need ≤ d.clasp.durRec then updReloc id (fun x => { x with step := 3 }) d
    else if r.step = 4 then relocEnd id d
    else d

/-- Every relocation goes on. -/
def relocAll (d : Dev) : Dev := d.lan.relocs.foldl (fun x r => relocGo r.id x) d

/-- RELOCATION_START (R223, R224): the band leaves service for writes, its blocks take RELOC. -/
def relocationStart (d : Dev) : Dev :=
  if od d 0x2100 8 ≠ 2 ∨ d.clasp.flush.isSome ∨ d.rst.kind.isSome ∨ od d 0x2104 9 ≤ d.lan.relocs.length then d
  else match pickVictim d with
    | none => d
    | some (kind, b) =>
      let id := d.clasp.jobNo + 1
      let d1 := updClasp (fun c => { c with jobNo := if id = 0xFFFE then 0 else id }) d
      let d2 := updBand b.id (fun x => { x with st := .reloc }) (updLan (fun l => { l with
        relWant := l.relWant.filter (· ≠ b.id),
        relocs := l.relocs ++ [{ id := id, band := b.id, kind := kind, mem := 0, step := 0, need := 0, todo := [],
                                 copies := [], left := 0 }] }) d1)
      relocIntent id (b.mem.foldl (fun x m => setBstate m.1 m.2 3 x) d2)

def execRelocationStart (s : State) : Host.Outcome State Fault Refusal := run relocationStart s

/-- One entry's switch (R210): only while its generation and address still name the source. -/
def switchOne (c : Nat × Nat × Nat × Nat) (d : Dev) : Dev :=
  let old := mapE d c.1
  match granIdx d c.1 with
  | none => d
  | some g =>
    if eTrim old ∨ eGen old ≠ eGen c.2.1 ∨ eAddr old ≠ eAddr c.2.1 then d
    else jMap c.1 c.2.2.1 c.2.2.2 2 (dirtyEntry c.1 (putMap c.1 c.2.2.1 (moveUnits false old g (moveUnits true c.2.2.1 g d))))

/-- RELOC_SWITCH (R39 step 5, R210, R416): entries switch while the journal buffer has room; then the next member
begins, or the source awaits its erase. -/
def relocSwitch (id : Nat) (d : Dev) : Dev :=
  match reloc? d id with
  | none => d
  | some r =>
    if r.step ≠ 3 then d
    else
      let go := r.copies.foldl (fun (a : Dev × List (Nat × Nat × Nat × Nat)) c =>
        if jbufUsed a.1 < jbufCap a.1 then (switchOne c a.1, a.2) else (a.1, a.2 ++ [c])) (d, [])
      let d1 := updClasp (fun c => { c with want := true }) (updReloc id (fun x => { x with copies := go.2 }) go.1)
      if ¬ go.2.isEmpty then d1
      else if r.mem + 1 < d.lan.n then relocIntent id (updReloc id (fun x => { x with mem := x.mem + 1 }) d1)
      else relocEnd id (updReloc id (fun x => { x with step := 4 }) d1)

def execRelocSwitch (job : Nat) (s : State) : Host.Outcome State Fault Refusal := run (relocSwitch job) s

/-- COMMIT_DONE (R410): relocations that waited on the commit go on too. -/
def execCommitDone (s : State) : Host.Outcome State Fault Refusal :=
  run (fun d => if d.clasp.commits.head?.any Commit.passed then relocAll (commitDone d) else d) s

end Sys2Proof.Machine
end

