-- ==== Sys2Proof/Machine/RawPath.lean ====
section
/-! DEFINITION. The raw maintenance path: its lock, the checks of its operations, and how they enter the Buoy
queues (06_die_scheduling.md R269 to R278; 04 R175). -/

namespace Sys2Proof.Machine

/-! ### The lock (R269, R270) -/

/-- The path locks: the SB space of its operations is freed once none is in progress (R269, R270). -/
def rawLockUp (d : Dev) : Dev :=
  let d1 := { d with rawp := { d.rawp with lock := .locked } }
  if d1.rawp.req.isSome ∨ ¬ d1.rawp.todo.isEmpty then d1
  else sbFree .raw { d1 with rawp := { d1.rawp with sb := none } }

/-- A write of raw_unlock (R269): two keys from one master open the path, any write locks an open one. -/
def rawUnlock (m v : Nat) (d : Dev) : Dev :=
  let go := fun (l : RawLock) (x : Dev) => { x with rawp := { x.rawp with lock := l } }
  match d.rawp.lock with
  | .locked => if v = 0x5A3C then go (.key1 m) d else cnt 0x2050 0x0A d
  | .key1 k =>
    if v = 0xC3A5 ∧ k = m then go .opened d
    else if v = 0x5A3C then go (.key1 m) d
    else cnt 0x2050 0x0A (go .locked d)
  | .opened => rawLockUp d

/-- raw_lock (R269). -/
def rawLockCode (d : Dev) : Nat :=
  match d.rawp.lock with
  | .locked => 0
  | .key1 _ => 1
  | .opened => 2

/-- RAW_KEY1_TIMEOUT (R269). -/
def execRawKey1Timeout (s : State) : Host.Outcome State Fault Refusal :=
  run (fun d => match d.rawp.lock with
    | .key1 _ => { d with rawp := { d.rawp with lock := .locked } }
    | _ => d) s

/-- RAW_IDLE_TIMEOUT (R269): never with raw_idle_ms 0. -/
def execRawIdleTimeout (s : State) : Host.Outcome State Fault Refusal :=
  run (fun d => if d.rawp.lock = .opened ∧ od d 0x2050 8 ≠ 0 then rawLockUp d else d) s

/-! ### Fields and checks (R272, R273, R275) -/

/-- The fields of a raw_cmd word with the address it goes to. -/
def rawFields (src : RawSrc) (addr word : Nat) : RawReq :=
  { src := src, addr := addr % 2 ^ 45, rlen := bits word 32 16, rfa := bits word 16 8, noecc := bit word 10,
    norand := bit word 9, slc := bit word 8,
    rsvd := bits word 48 16 != 0 || bits word 24 8 != 0 || bits word 11 5 != 0 || addr / 2 ^ 45 != 0 }

/-- The word that carries a request's fields; a reserved bit stands for any of them. -/
def rawWord (rop : Nat) (q : RawReq) : Nat :=
  fld (b2n q.rsvd) 63 1 + fld q.rlen 32 16 + fld q.rfa 16 8 + fld (b2n q.noecc) 10 1 + fld (b2n q.norand) 9 1 +
    fld (b2n q.slc) 8 1 + fld rop 0 8

/-- The die of an address is of the configuration. -/
def rawDieOk (d : Dev) (a : Nat) : Bool := dieInCfg d.cfg (aDie a)

/-- Plane, block and page of an address are within the die's geometry, as far as the operation uses them; a die that has
not been identified is OFF or FAILED, which ends the operation with its own cause (R275). -/
def rawGeomOk (d : Dev) (a : Nat) (page : Bool) : Bool :=
  match (die d (aDie a)).geom with
  | none => true
  | some g => decide (aPlane a < g.planes) && decide (aBlock a < g.blocks) && (!page || decide (aPage a < g.pages))

/-- Bytes of a die's page. -/
def rawPageLen (d : Dev) (a : Nat) : Nat :=
  match (die d (aDie a)).geom with
  | none => 20480
  | some g => min 20480 (16384 + g.spare)

/-- The checks of R275 on an operation. -/
def rawOk (d : Dev) (rop : Nat) (q : RawReq) : Bool :=
  !q.rsvd && rawDieOk d q.addr &&
  (match rop with
    | 1 => rawGeomOk d q.addr true && (if q.noecc then decide (1 ≤ q.rlen) && decide (q.rlen ≤ rawPageLen d q.addr)
        else q.rlen % 4096 == 0 && decide (q.rlen ≤ (4 - aSlot q.addr) * 4096))
    | 2 => rawGeomOk d q.addr true && (if q.noecc then decide (1 ≤ q.rlen) && decide (q.rlen ≤ rawPageLen d q.addr)
        else q.rlen == 16384)
    | 3 => rawGeomOk d q.addr false && q.rlen == 0
    | 4 => q.rlen == 0
    | 5 => q.rlen == 4
    | 6 => q.rlen == 4
    | 7 => q.rlen == 0
    | 8 => decide (1 ≤ q.rlen) && decide (q.rlen ≤ 256)
    | 9 => decide (1 ≤ q.rlen) && decide (q.rlen ≤ 4096)
    | _ => false)

/-! ### Into the Buoy queues (R270, R274, R275) -/

/-- The read of a decoded READ_PAGE: ladder steps 0 to 4 of its sectors. With length 0 nothing is read. -/
def rawDecoded (q : RawReq) (d : Dev) : Dev :=
  let secs : List RSec := (List.range (q.rlen / 4096)).map (fun i =>
    { lsec := noSec, slot := aSlot q.addr + i, dst := 0, fin := false, bad := 0 })
  if secs.isEmpty then rawEnd 0 0 d
  else
    let (id, d1) := addRead .raw d.fetchNo 3 0 (q.addr - aSlot q.addr) 0 false secs d
    issueRead id (updRjob id (fun r => { r with slc := q.slc }) d1)

/-- Page bytes from column 0 of a raw operation without encoding, randomised or de-randomised unless rnorand (R363): one
keystream for the page, from the seed of its slot 0. -/
def rawStream (d : Dev) (q : RawReq) (bs : Bytes) : Bytes :=
  let a := q.addr - aSlot q.addr
  if q.norand then bs else randomise (codeSeed a (rndKey d (aDie a) (aBlock a))) bs

/-- The maintenance entry of any other operation. -/
def rawEnt (q : RawReq) : BEnt :=
  { ent 7 3 .raw with
    slc := q.slc, pmask := 2 ^ aPlane q.addr, block := aBlock q.addr, page := aPage q.addr }

/-- The operation in hand takes its place, once it holds its SB space and its die has a Buoy slot; a die that is
FAILED or OFF ends it (R275). -/
def rawQueue (d : Dev) : Dev :=
  match d.rawp.req with
  | none => d
  | some q =>
    let n := aDie q.addr
    if d.rawp.phase ≠ 2 then d
    else if (die d n).st = .failed ∨ (die d n).st = .off then rawEnd 0 3 d
    else
      let held : Option Dev := match d.rawp.sb with
        | some _ => some d
        | none => (sbAlloc (segCh d.cfg (dieCh n)) 512 .raw d).map (fun r =>
            { r.2 with rawp := { r.2.rawp with sb := some r.1 } })
      match held with
      | none => d
      | some d1 =>
        if ¬ freeSlot d1 n then d1
        else
          let d2 := { d1 with rawp := { d1.rawp with phase := 3 } }
          if d2.rawp.rop = 1 ∧ ¬ q.noecc then rawDecoded q d2 else enqueue n (rawEnt q) d2

/-- A raw program or erase may run (R276). -/
def rawAllowed (d : Dev) (n b : Nat) : Bool :=
  let w := leAt (getB d 0x2052 1) (8 * rank d.cfg n) 8
  !bit w (b * 64 / max 1 (blocksOf d n)) &&
  (od d 0x2100 8 == 0 || [0, 5, 6].contains (blk d n b).bstate)

/-- A raw program or erase that has become eligible is checked (R276): one that is not allowed ends PROTECTED, and a FREE
block of one that is allowed becomes TORN. -/
def rawGate (d : Dev) : Dev :=
  match d.rawp.req with
  | none => d
  | some q =>
    let n := aDie q.addr
    match (eligEnts d n).find? (fun e => e.own == .raw && !e.noted) with
    | none => d
    | some e =>
      if d.rawp.rop ≠ 2 ∧ d.rawp.rop ≠ 3 then d
      else if ¬ rawAllowed d n e.block then rawEnd 0 1 (dropEnt n e.qseq d)
      else
        let d1 := updEnt n e.qseq (fun y => { y with noted := true }) d
        kick (dieCh n) (if (blk d n e.block).bstate = 0 then setBstate n e.block 6 d1 else d1)

/-- The next operation that waits is taken in hand; a ring's program or Set Features first fetches its data. -/
def rawTake (d : Dev) : Dev :=
  match d.rawp.req, d.rawp.todo with
  | none, (op, q, bs) :: rest =>
    let ph := match q.src with
      | .ring _ => if op = 2 ∨ op = 6 then 1 else 2
      | .od _ => 2
    { d with rawp := { d.rawp with rop := op, req := some q, phase := ph, todo := rest, status := 0, data := bs } }
  | _, _ => d

/-- The path goes on: an operation that ended with the path locked frees its space. -/
def rawFeed (d : Dev) : Dev :=
  let d1 := rawGate (rawQueue (rawTake d))
  if d1.rawp.lock = .locked ∧ d1.rawp.req.isNone ∧ d1.rawp.todo.isEmpty ∧ d1.rawp.sb.isSome then rawLockUp d1 else d1

/-- An operation that passed its checks starts. -/
def rawStart (op : Nat) (q : RawReq) (bs : Bytes) (d : Dev) : Dev :=
  rawFeed { d with rawp := { d.rawp with todo := d.rawp.todo ++ [(op, q, bs)] } }

/-- A write of raw_cmd that passed its checks (R271). -/
def rawOd (m word : Nat) (d : Dev) : Dev :=
  let op := word % 256
  let q := rawFields (.od m) (od d 0x2050 3) word
  rawStart op q (if op = 2 ∨ op = 6 then fit q.rlen (getB d 0x2050 7) else []) (put 0x2050 5 1 d)

/-- The data of a ring's program or Set Features has come (R175). -/
def rawData (tag : Nat) (bs : Bytes) (d : Dev) : Dev :=
  match d.rawp.req with
  | some q => if q.src = .ring tag ∧ d.rawp.phase = 4 then
      rawFeed { d with rawp := { d.rawp with phase := 2, data := bs } } else d
  | none => d

/-! ### The ring command (R156, R175, R275) -/

/-- RAW: its lock and field checks; its operation follows under its own row. The spec gives the two checks no order: the
lock is tested first (DESIGN CHOICE, log 83). -/
def rawCmd (tag : Nat) (c : Cmd) (d : Dev) : Dev :=
  let q := rawFields (.ring tag) c.q4 c.q5
  if d.rawp.lock ≠ .opened then cmdCheck tag (cmdFail tag 0x0104 d)
  else if ¬ rawOk d (c.q5 % 256) q ∨ c.dlen ≠ q.rlen then cmdCheck tag (cmdFail tag 0x0102 d)
  else updCmd tag (fun x => { x with left := 1 }) d

def execRaw (tag : Nat) (s : State) : Host.Outcome State Fault Refusal := run (startCmd 15 tag (rawCmd tag)) s

/-- A RAW command's operation goes to the path, once. -/
def rawRing (op tag : Nat) (d : Dev) : Dev :=
  match cmd? d tag with
  | none => d
  | some c =>
    if c.opc ≠ 15 ∨ c.st ≠ .running ∨ c.left = 0 ∨ c.q5 % 256 ≠ op ∨ c.fin then d
    else rawStart op (rawFields (.ring tag) c.q4 c.q5) [] (updCmd tag (fun x => { x with fin := true }) d)

end Sys2Proof.Machine
end

