-- ==== Sys2Proof/Machine/Bus.lean ====
section
/-! DEFINITION. Bus bursts and what their results mean: reads, programs, erases, resets, timeouts, failed dies
(06_die_scheduling.md R249 to R268; 07 R313; 09 R358, R364, R365; 16 R547, R549). -/

namespace Sys2Proof.Machine

/-! ### Measurements and energies (R263, R538) -/

/-- A mean updated by a sample (R263): 0 SLC read, 1 native read, 2 SLC program, 3 native program, 4 erase. -/
def newMean (n i us : Nat) (d : Dev) : Dev :=
  updDie n (fun x =>
    let m := x.means.getD i 0
    let v : Nat := if m = 0 then us else (((m : Int) + tdiv ((us : Int) - m) 16).toNat)
    { x with means := x.means.set i v, timeouts := 0 }) d

/-- Planes of an entry. -/
def planesOf (e : BEnt) : List Nat := setBits e.pmask 8

/-- The table energy of an operation, one amount per plane (R538): kinds 0 read, 1 program, 2 erase. -/
def chargeOp (n kind : Nat) (e : BEnt) (d : Dev) : Dev :=
  let k := (planesOf e).length
  let i := if kind = 0 then 0 else if kind = 2 then 4 else if ¬ e.slc then 3 else if 1 < k then 1 else 2
  chargeDie n (tmuE d i * 1000 * k) d

/-- A codeword's bytes moved (R538). -/
def moveBytes (n : Nat) (cws : List Bytes) (d : Dev) : Dev := chargeXfer n ((cws.map (·.length)).sum) d

/-- After a data burst under a CU THROTTLE or SHUTDOWN the bus rests (R546). -/
def dutyRest (ch : Nat) (d : Dev) : Dev :=
  if nodeLevel d (cuNode ch) = 4 ∨ nodeLevel d (cuNode ch) = 5 then updChan ch (fun c => { c with duty := true }) d else d

/-! ### A failed die (R237, R262, R404) -/

/-- A read of a die that failed (R230, R262, R379): what of it is in ladder steps 0 to 4 goes directly to step 5. -/
def readOnFailed (n id : Nat) (d : Dev) : Dev :=
  let d1 := updChan (dieCh n) (fun c => { c with raw := c.raw.filter (fun x => x.rid != id) }) d
  match rjob d1 id with
    | none => d1
    | some r => match r.own with
      | .part _ => if rebuildable d1 r.addr then goAround id true true d1 else unitBad id 3 0x0303 d1
      | .raw => unitBad id 3 0x0303 d1
      | _ => unitBad id 3 0x0303 d1

/-- A queued entry of a die that failed ends. -/
def failEnt (n : Nat) (e : BEnt) (d : Dev) : Dev :=
  match e.own with
  | .reads l => l.foldl (fun x id => readOnFailed n id x) d
  | .raw => rawEnd 0 3 d
  | .temp => { d with therm := { d.therm with queued := d.therm.queued.filter (· ≠ n) } }
  | _ => d

/-- The channel's multi-plane sequence of a die ends. -/
def endMulti (n : Nat) (d : Dev) : Dev :=
  updChan (dieCh n) (fun c => { c with multi := c.multi.filter (fun m => !(m.1 == dieTgt n && m.2 == dieK d.cfg n)) }) d

/-- A die's bit of die_failed. -/
def markFailed (n : Nat) (b : Bool) (d : Dev) : Dev :=
  let ch := dieCh n
  let k := dieK d.cfg n
  let bs := getB d (chIdx ch 3) 7
  putB (chIdx ch 3) 7 (patchBytes bs (k / 8) [BitVec.ofNat 8 (setBit (bs.getD (k / 8) 0).toNat (k % 8) b)]) d

/-- A die enters FAILED (R262): its bit, its entries, its bands, Clasp's pairs. -/
def dieDown (n : Nat) (d : Dev) : Dev :=
  let ch := dieCh n
  let x := die d n
  let d2 := cnt (chIdx ch 4) 0x0E (markFailed n true d)
  let waiting := (d.lan.rjobs.filter (fun r => r.st == .issued && aDie r.addr == n)).map (·.id)
  let d3 := endMulti n (updDie n (fun y => { y with
    st := .failed, q := [], cur := none, prev := none, outLeft := [], inLeft := [], statusDue := false, cacheRdy := false,
    resumeDue := false, suspReq := false, revive := false, rstDue := false }) d2)
  let d4 := updClasp (fun c => { c with erases := c.erases.filter (fun e => e.die ≠ n) }) d3
  let d5 := claspDieFailed n (dieFailedBands n d4)
  let d6 := x.q.foldl (fun y e => failEnt n e y) d5
  feedBands (waiting.foldl (fun y id => readOnFailed n id y)
    ((d6.lan.rjobs.filter (fun r => r.st == .fresh && aDie r.addr == n && (match r.own with
      | .part _ => true
      | .rebuild _ => true
      | .acc _ _ => true
      | _ => false))).foldl (fun y r => failedUnit r.id y) d6))

/-- A die enters FAILED with the fault of R262: its lowest bits name the Buoy op of the last expiry. -/
def dieFail (n cause : Nat) (d : Dev) : Dev :=
  dieDown n (fault 1 cause (domCh (dieCh n) 1) n (die d n).lastOp d)

/-! ### Programs end (R206, R249, R256, R261, R274, R276) -/

/-- 4 KiB units programmed by Lantern (R242). -/
def nandUnits (e : BEnt) (d : Dev) : Dev := cntN 0x2108 5 (4 * (planesOf e).length) d

/-- A program's status passed. -/
def progPassed (n : Nat) (e : BEnt) (d : Dev) : Dev :=
  match e.own with
  | .slot b r j =>
    let d1 := nandUnits e (if e.page = 0 then jBlock n e.block 0xFFFF d else d)
    slotPassed b r j d1
  | .parity b r => updRow b r (fun x => { x with par := .passed })
      (nandUnits e (if e.page = 0 then jBlock n e.block 0xFFFF d else d))
  | .clasp c u i => ckptGo (claspProgramEnd c u i n e.block (Nat.log2 e.pmask) true d)
  | _ => d

/-- A program failed or was cut short (R34, R237, R260, R261). -/
def progFailed (n : Nat) (e : BEnt) (d : Dev) : Dev :=
  match e.own with
  | .slot b r _ => (match band d b with
    | some bd => dropSlotEnts bd n r (cutSlots bd (posOf bd n) r d)
    | none => d)
  | .parity b r => (match band d b with
    | some bd => updRow b r (fun x => { x with par := .passed }) (cutSlots bd (posOf bd n) r d)
    | none => d)
  | .clasp c u i => claspProgramEnd c u i n e.block (Nat.log2 e.pmask) false d
  | _ => d

/-- The program of an entry ends with a result; raw programs end with their status byte. -/
def progEnd (n s : Nat) (fail : Bool) (st : Byte) (us : Nat) (d : Dev) : Dev :=
  match entOf (die d n) s with
  | none => d
  | some e =>
    let d1 := chargeOp n 1 e (newMean n (if e.slc then 2 else 3) us (dropEnt n s d))
    if e.own = .raw then rawEnd st.toNat 0 d1
    else if fail then progFailed n e (cnt (chIdx (dieCh n) 4) 5 d1)
    else progPassed n e d1

/-! ### Erases end (R213, R261, R409) -/

/-- An erase of Lantern's or Clasp's has ended. -/
def eraseResult (n : Nat) (e : BEnt) (ok : Bool) (d : Dev) : Dev :=
  match eraseJob d n e with
  | none => d
  | some j =>
    let d1 := updClasp (fun c => { c with erases := c.erases.filter (fun x => x ≠ j) }) d
    let d2 := if j.need = 0 then d1 else jAppend (jrec 8 (n + e.block * 65536) (b2n ok) 0) d1
    match j.plane with
    | some p => sysErased n e.block p ok (updDie n (fun x => { x with
        nextPage := tabSet 0 x.nextPage (e.block + 65536 * p) 0 }) d2)
    | none =>
      if ok then
        setBstate n e.block 0 (updDie n (fun x => { x with nextPage := tabSet 0 x.nextPage e.block 0 })
          (putRdCount n e.block 0
            (updBlk n e.block (fun b => { Blk.reset with pe := satTo (b.pe + 1) 0xFFFF }) d2)))
      else setBstate n e.block 5 d2

/-- An erase's status has been taken. -/
def eraseEnd (n s : Nat) (fail : Bool) (st : Byte) (us : Nat) (d : Dev) : Dev :=
  match entOf (die d n) s with
  | none => d
  | some e =>
    let d1 := chargeOp n 2 e (newMean n 4 us (dropEnt n s d))
    let d2 := if fail then cnt (chIdx (dieCh n) 4) 6 d1 else d1
    if e.own = .raw then rawEnd st.toNat 0 (updDie n (fun x => { x with
      nextPage := tabSet 0 x.nextPage e.block 0 }) d2) else claspFeed (eraseResult n e (!fail) d2)

/-! ### Reads (R37, R223, R259, R313) -/

/-- The array read of an entry is ready: its data-outs are due, and the block's read count moves (R213, R223). -/
def readReady (n : Nat) (e : BEnt) (fail : Bool) (us : Nat) (d : Dev) : Dev :=
  let d1 := if fail then cnt (chIdx (dieCh n) 4) 9 d else d
  let c := satTo (tabGet 0 d.lan.rdCnt (blkKey d.cfg n e.block) + 1) 0xFFFFFFFF
  let d2 := putRdCount n e.block c d1
  let d3 := match bandOf d2 n e.block with
    | some b => if od d 0x2104 6 ≤ c ∧ ¬ d2.lan.relWant.contains b.id then
        updLan (fun l => { l with relWant := l.relWant ++ [b.id] }) d2 else d2
    | none => d2
  updDie n (fun x => { x with outLeft := planesOf e }) (chargeOp n 0 e (newMean n (if e.slc then 0 else 1) us d3))

/-- Data of one codeword slot reaches the raw buffer: a new codeword, or the data its step asked for (R37, R389). -/
def putCw (ch rid slot : Nat) (bs : Bytes) (d : Dev) : Dev :=
  match (chan d ch).raw.find? (fun c => c.rid == rid && c.slot == slot) with
  | none =>
    let new : RawCw :=
      { id := (chan d ch).cwId, rid := rid, slot := slot, data := bs, step := 0, k := 0, ms := false, st := .wait,
        tries := [], soft := [], shifts := [], retry := [], ents := 1,
        bf := ((rjob d rid).map (·.bf)).getD 1, mi := 1, si := 1, mag := 0 }
    updChan ch (fun c => { c with cwId := c.cwId + 1, raw := c.raw ++ [new] }) d
  | some c =>
    let c1 := if c.step ≤ 2 then { c with data := bs, ms := false, st := .wait }
      else
        let rest := c.shifts.drop 1
        let st := if rest.isEmpty then CwSt.wait else CwSt.reread
        { c with soft := c.soft ++ [(c.shifts.headD 0, bs)], shifts := rest, st := st, ents := max c.ents (stepEnts c.step) }
    updChan ch (fun x => { x with raw := updWhere (fun y => y.id == c.id) (fun _ => c1) x.raw }) d

/-- The codewords of one plane reach the reads the entry serves, in slot order; raw bytes reach the raw path. -/
def planeData (ch : Nat) (e : BEnt) (plane : Nat) (cws : List Bytes) (d : Dev) : Dev :=
  if d.clasp.flush.isSome then d else
  match e.own with
  | .reads ids =>
    ids.foldl (fun x id => match rjob x id with
      | none => x
      | some r =>
        if aPlane r.addr ≠ plane then x
        else
          let slots := (List.range 4).filter (bit e.smask)
          let mine := (leftSlots r).eraseDups
          let y := (slots.zipIdx).foldl (fun y s => if mine.contains s.1 then putCw ch id s.1 (cws.getD s.2 []) y else y) x
          if ((chan y ch).raw.any (fun c => c.rid == id && c.st == .reread)) then reread id y else y) d
  | .raw => { d with
      rawp := { d.rawp with
          data := match d.rawp.req with
      | some q => rawStream d q ((cws.flatMap id).take q.rlen)
      | none => [] } }
  | _ => d

/-- A read entry whose every plane is out: its slot is freed and the die is idle again, or still suspended. -/
def readDone (n s : Nat) (d : Dev) : Dev :=
  match entOf (die d n) s with
  | none => d
  | some e =>
    let d1 := dropEnt n s (updDie n (fun x => { x with st := if x.st = .suspended then .suspended else .idle, outLeft := [] }) d)
    let d2 := match e.own with
      | .raw => rawEnd d.rawp.status 0 d1
      | _ => d1
    match e.own with
    | .reads ids => ids.foldl (fun x id => reread id x) d2
    | _ => d2

/-! ### Expiries (R260 to R262) -/

/-- An expiry is counted, and the die is sent its LUN reset. -/
def expire (n op : Nat) (d : Dev) : Dev :=
  endMulti n (cnt (chIdx (dieCh n) 4) 4 (updDie n (fun x => { x with
    st := .reset, rstDue := true, timeouts := x.timeouts + 1, lastOp := op, statusDue := false, outLeft := [], inLeft := [],
    cacheRdy := false, lvlSlot := none, trim := false, prevStatus := none }) d))

/-- The die is about to fail: a repeat would not be issued (R262). -/
def atLimit (d : Dev) (n : Nat) : Bool := decide (od d (chIdx (dieCh n) 0) 9 ≤ (die d n).timeouts)

/-- A read's expiry: the read is issued once more after the reset; a second one fails the attempt. -/
def readExpired (n : Nat) (e : BEnt) (d : Dev) : Dev :=
  if e.own = .raw then rawEnd 0 2 (dropEnt n e.qseq d)
  else if ¬ e.again ∧ ¬ atLimit d n then
    updDie n (fun x => { x with cur := none })
      (updEnt n e.qseq (fun y => { y with est := 0, again := true }) d)
  else if ¬ e.again then updDie n (fun x => { x with cur := none }) (updEnt n e.qseq (fun y => { y with est := 0 }) d)
  else match e.own with
    | .reads ids => ids.foldl (fun x id => attemptLost id e.smask x) (dropEnt n e.qseq d)
    | _ => dropEnt n e.qseq d

/-- A program's expiry: the page is torn (R260, R261). -/
def progExpired (n s : Nat) (d : Dev) : Dev :=
  match entOf (die d n) s with
  | none => d
  | some e =>
    let d1 := dropEnt n s d
    if e.own = .raw then rawEnd 0 2 d1 else progFailed n e d1

/-- An erase's expiry: TORN and queued for erase, the second time RETIRED. -/
def eraseExpired (n s : Nat) (d : Dev) : Dev :=
  match entOf (die d n) s with
  | none => d
  | some e =>
    let d1 := dropEnt n s d
    if e.own = .raw then rawEnd 0 2 d1
    else match eraseJob d1 n e with
      | none => d1
      | some j =>
        let d2 := updClasp (fun c => { c with erases := c.erases.filter (fun x => x ≠ j) }) d1
        match j.plane with
        | some p => if (blk d n e.block).eraseTo then retireSys n e.block p d2
            else queueSysErase n e.block p (updBlk n e.block (fun b => { b with eraseTo := true }) d2)
        | none => if (blk d n e.block).eraseTo then setBstate n e.block 5 d2
            else queueErase n e.block (setBstate n e.block 6 (updBlk n e.block (fun b => { b with eraseTo := true }) d2))

/-- A read's expiry on a die, also in a suspended erase: the LUN reset then ends the erase too, as one that expired
(DESIGN CHOICE, log 83). -/
def readTimeout (n : Nat) (e : BEnt) (d : Dev) : Dev :=
  let x := die d n
  let d1 := readExpired n e (expire n e.op d)
  if x.st ≠ .suspended then d1
  else match x.prev with
    | some s => eraseExpired n s (updDie n (fun y => { y with prev := none }) d1)
    | none => d1

/-! ### Data-out (R253, R313) -/

/-- A data-out ended (R253): its data, or a missed strobe, repeated once; a second miss is a read expiry (R313). -/
def dataOutEnd (ch n plane : Nat) (r : BurstResult) (d : Dev) : Dev :=
  match (die d n).cur.bind (entOf (die d n)) with
  | none => d
  | some e =>
    if ¬ r.dqs then
      let d1 := wantTrain ch (dieTgt n) (cnt (0x300E + 0x40 * ch) 1 d)
      if ¬ (die d n).dqsMiss then updDie n (fun x => { x with dqsMiss := true }) d1
      else
        readTimeout n e (updDie n (fun x => { x with dqsMiss := false }) d1)
    else
      let t := dieTgt n
      let d1 := updChan ch (fun c => { c with doutCnt := tabSet 0 c.doutCnt t (tabGet 0 c.doutCnt t + 1) })
        (moveBytes n r.cws (updDie n (fun x => { x with dqsMiss := false, outLeft := x.outLeft.drop 1 }) d))
      let d2 := dutyRest ch (planeData ch e plane r.cws (send (.phy ch) (.cu ch) .data (flits ((r.cws.map (·.length)).sum)) d1))
      if (die d2 n).outLeft.isEmpty then readDone n e.qseq d2 else d2

/-! ### Data-in and confirm (R358, R364, R365, R549) -/

/-- A payload of Clasp's with a new m_wseq (R405). -/
def claspPayload (s : CwSrc) (d : Dev) : Bytes × Dev :=
  match s with
  | .whole p => (p, d)
  | .sector qw data =>
    let d1 := updLan (fun l => { l with wseq := (l.wseq + 1) % 2 ^ 48 }) d
    (mkPayload data qw d1.lan.wseq, d1)

/-- The payloads of one plane of a program, and what making them changes: member slots fold into the accumulator. None
where a parity page's accumulator has to be rebuilt first. -/
def planePayloads (e : BEnt) (plane : Nat) (d : Dev) : Option (List Bytes) × Dev :=
  match e.own with
  | .slot b r j => let x := driveSlot b r j plane d
    (some x.1, x.2)
  | .parity b r => let x := driveParity b r plane d
    (x.1, if x.1.isSome then cntN 0x2200 4 4 x.2 else x.2)
  | .clasp c u _ => (match unit? d c u with
    | none => (some [], d)
    | some x => let y := x.cws.foldl (fun (a : List Bytes × Dev) s =>
          let q := claspPayload s a.2
          (a.1 ++ [q.1], q.2)) ([], d)
      (some y.1, y.2))
  | .raw => (some ((List.range 4).map (fun s =>
      mkPayload ((d.rawp.data.drop (4096 * s)).take 4096) (metaQw noSec 0 0 0 0) 0)), d)
  | _ => (some [], d)

/-- The bytes a raw program drives without encoding (R274, R363): rlen of them, then 0xFF to the page's end. -/
def rawPageBytes (d : Dev) (q : RawReq) : Bytes :=
  let b := rawStream d q (d.rawp.data.take q.rlen)
  b ++ List.replicate (rawPageLen d q.addr - b.length) 0xFF

/-- The bytes driven for one plane; none where the plane cannot be driven yet. -/
def planeBytes (n : Nat) (e : BEnt) (plane : Nat) (d : Dev) : Option Bytes × Dev :=
  let addr := fun (s : Nat) => mkAddr n plane e.block e.page s
  let code := codeOf d (dieCh n) e.slc (inSystem d n e.block)
  match e.own, d.rawp.req with
  | .raw, some q =>
    if q.noecc then (some (rawPageBytes d q), d)
    else
      let ps := planePayloads e plane d
      (ps.1.map (fun l => (l.zipIdx).flatMap (fun x => if q.norand then x.1 ++ parityBytes code x.1
        else encodeCw d code (addr x.2) x.1)), ps.2)
  | _, _ =>
    let ps := planePayloads e plane d
    (ps.1.map (fun l => (l.zipIdx).flatMap (fun x => encodeCw d code (addr x.2) x.1)), ps.2)

/-- A program whose data is not to be had goes back to the queue before its confirm: nothing has been programmed
(R486, log 84). -/
def unissue (n : Nat) (e : BEnt) (d : Dev) : Dev :=
  endMulti n (updEnt n e.qseq (fun y => { y with est := 0 }) (updDie n (fun x => { x with cur := none, inLeft := [] }) d))

/-- A data-in ended: the plane is driven; after the last one the confirm is due. -/
def dataInEnd (ch n plane : Nat) (d : Dev) : Dev :=
  match (die d n).cur.bind (entOf (die d n)) with
  | none => d
  | some e =>
    let x := planeBytes n e plane d
    match x.1 with
    | none => unissue n e x.2
    | some bs =>
      let d1 := updChan ch (fun c => { c with driven := bs })
        (send (.cu ch) (.phy ch) .data (flits bs.length) (moveBytes n [bs] x.2))
      let d2 := updDie n (fun y => { y with inLeft := y.inLeft.drop 1 }) d1
      let d3 := if (die d2 n).inLeft.isEmpty then updEnt n e.qseq (fun y => { y with est := 4 }) d2 else d2
      dutyRest ch d3

/-- ptemp and ptime_s at a program's confirm (R213, R549). -/
def noteProgram (n : Nat) (e : BEnt) (d : Dev) : Dev :=
  let t := dieC d n
  let pg := e.page + 1
  updBlk n e.block (fun b => { b with
    ptemp := clip (if pg = 1 then t else b.ptemp + tdiv (t - b.ptemp) pg) (-128) 127,
    ptime := if pg = 1 then satTo (nowS d) (2 ^ 31 - 1) else b.ptime }) d

/-- A program's confirm cycle ended (R249, R251, R411): the array is busy, a member slot is folded. -/
def confirmEnd (n : Nat) (d : Dev) : Dev :=
  match (die d n).cur.bind (entOf (die d n)) with
  | none => d
  | some e =>
    let d1 := rbLow n (endMulti n (updEnt n e.qseq (fun y => { y with est := 3 }) (updDie n (fun x => { x with
      st := .prog, start := d.up, cacheRdy := false, released := false,
      nextPage := tabSet 0 x.nextPage (pageKey e) (nextPg x (pageKey e) + 1) }) d)))
    let d2 := if e.own = .raw then d1 else noteProgram n e d1
    match e.own with
    | .slot b r j => updSlot b r j (fun m => if m.st = .filling then { m with st := .folded } else m) d2
    | _ => d2

/-! ### Command bursts (R249, R265, R273, R276, R386, R547) -/

/-- A read's command ended: the array reads. -/
def readCmdEnd (n : Nat) (d : Dev) : Dev :=
  rbLow n (updDie n (fun x => { x with st := if x.st = .suspended then .suspended else .read, start := d.up }) d)

/-- An erase's command ended. -/
def eraseCmdEnd (n : Nat) (d : Dev) : Dev :=
  rbLow n (updDie n (fun x => { x with st := .erase, start := d.up, ran := 0, suspends := 0, gapOk := false }) d)

/-- A program's command ended: the cold trim is brought to what the level asks (R547), data-ins follow. -/
def progCmdEnd (n : Nat) (e : BEnt) (d : Dev) : Dev :=
  updDie n (fun x => { x with
    inLeft := planesOf e,
    trim := if od d 0x2803 5 = 0 then x.trim else dieLevel d n == 0 }) d

/-- A raw operation's command burst ended (R273). -/
def rawCmdEnd (n : Nat) (e : BEnt) (r : BurstResult) (d : Dev) : Dev :=
  match d.rawp.req with
  | none => dropEnt n e.qseq d
  | some q =>
    let ended := fun (x : Dev) => updDie n (fun y => { y with timeouts := 0 }) (dropEnt n e.qseq x)
    let out := fun (x : Dev) => { x with rawp := { x.rawp with data := r.bytes.take q.rlen } }
    match d.rawp.rop with
    | 1 => readCmdEnd n d
    | 2 => updDie n (fun x => { x with inLeft := planesOf e }) d
    | 3 => eraseCmdEnd n d
    | 7 => updDie n (fun x => { x with st := .reset, rstDue := false, start := d.up, lvlSlot := none, trim := false }) d
    | 4 => rawEnd r.status.toNat 0 (ended { d with rawp := { d.rawp with data := [] } })
    | 6 => rawEnd r.status.toNat 0 (ended { d with rawp := { d.rawp with data := [] } })
    | _ => rawEnd r.status.toNat 0 (ended (out d))

/-- The command burst of an erase or a maintenance entry ended. -/
def otherCmdEnd (n : Nat) (r : BurstResult) (d : Dev) : Dev :=
  match (die d n).cur.bind (entOf (die d n)) with
  | none => d
  | some e =>
    if e.op = 2 then eraseCmdEnd n d
    else if e.op = 0 then readCmdEnd n d
    else if e.op = 7 then rawCmdEnd n e r d
    else d

/-! ### Status reads (R258, R259, R266) -/

/-- A LUN reset ended with the die ready (R249, R262): idle, or FAILED when the limit was reached. -/
def resetEnd (n : Nat) (d : Dev) : Dev :=
  let x := die d n
  let ch := dieCh n
  let k := dieK d.cfg n
  if x.revive then
    let bs := getB d (chIdx ch 3) 7
    updDie n (fun y => { y with st := .idle, revive := false, timeouts := 0 })
      (putB (chIdx ch 3) 7 (patchBytes bs (k / 8) [BitVec.ofNat 8 (setBit (bs.getD (k / 8) 0).toNat (k % 8) false)]) d)
  else if od d (chIdx ch 0) 9 ≤ x.timeouts then dieFail n 1 d
  else
    let d1 := updDie n (fun y => { y with st := .idle }) d
    match x.cur.bind (entOf x) with
    | some e => if e.own = .raw then
        rawEnd 0 0 (updDie n (fun y => { y with timeouts := 0 }) (dropEnt n e.qseq d1)) else d1
    | none => d1

/-- A die's ready is taken with its status byte (R249, R256, R258, R266). -/
def dieReady (n : Nat) (st : Byte) (us : Nat) (d : Dev) : Dev :=
  let x := die d n
  let wp := st.getLsbD 7
  let failed := st.getLsbD 0 || !wp
  let d00 : Dev := match d.rawp.req with
    | some q => if aDie q.addr = n then { d with rawp := { d.rawp with status := st.toNat } } else d
    | none => d
  let d0 := if ¬ wp ∧ (x.st = .prog ∨ x.st = .erase) then cnt (chIdx (dieCh n) 4) 9 d00 else d00
  match x.st with
  | .read => (match x.cur.bind (entOf x) with
    | some e => readReady n e (st.getLsbD 0) us d0
    | none => d0)
  | .suspended => (match x.cur.bind (entOf x) with
    | some e => readReady n e (st.getLsbD 0) us d0
    | none => d0)
  | .suspending => updDie n (fun y => { y with st := .suspended, readsSusp := 0, suspReq := false, holdExp := false, suspAt := d.up }) d0
  | .erase =>
    let d1 := if x.suspReq then cnt (chIdx (dieCh n) 4) 8 d0 else d0
    let d2 := updDie n (fun y => { y with st := .idle, suspReq := false }) d1
    (match x.cur with
    | some s => eraseEnd n s failed st us d2
    | none => d2)
  | .prog =>
    let failc := st.getLsbD 1 || !wp
    let caching := match x.cur.bind (entOf x) with
      | some e => e.cache && !st.getLsbD 5
      | none => !st.getLsbD 5
    if caching then
      (match x.cur with
      | none => d0
      | some s =>
        let bad := x.prev.isSome && failc
        let d1 := match x.prev with
          | some p => progEnd n p failc st us d0
          | none => d0
        if bad then updDie n (fun y => { y with prev := none }) (updEnt n s (fun e => { e with cache := false }) d1)
        else updDie n (fun y => { y with cacheRdy := true, prev := some s, cur := none }) d1)
    else
      let d1 := updDie n (fun y => { y with st := .idle, prev := none, cacheRdy := false }) d0
      (match x.prev, x.cur with
      | some p, some s => progEnd n s (failed || failc) st us (progEnd n p failc st us d1)
      | some p, none => progEnd n p failed st us d1
      | none, some s => progEnd n s failed st us d1
      | none, none => d1)
  | .reset =>
    let d1 := if st.getLsbD 0 then cnt (chIdx (dieCh n) 4) 9 d0 else d0
    resetEnd n d1
  | _ => d0

/-- A status burst ended (R258, R259). -/
def statusEnd (n : Nat) (r : BurstResult) (d : Dev) : Dev :=
  let x := die d n
  let st := r.status
  let ch := dieCh n
  let d1 := updDie n (fun y => { y with statusDue := false }) d
  if st.getLsbD 6 then dieReady n st r.micros (updDie n (fun y => { y with prevStatus := none }) d1)
  else if st.getLsbD 5 then
    let d2 := if x.prevStatus.isNone then cnt (chIdx ch 4) 9 d1 else d1
    updDie n (fun y => { y with prevStatus := some st }) d2
  else
    let d2 := if x.rbHigh then cnt (chIdx ch 4) 0x0A d1 else d1
    updDie n (fun y => { y with prevStatus := none }) d2

/-! ### The end of a burst (R253) -/

/-- Work that a burst's end lets go on. -/
def afterBurst (d : Dev) : Dev := rawFeed (claspFeed (relocAll (feedBands (finishJobs d))))

/-- A command burst that ends while a supply is out of range: the pads hold the die, no program, erase or other
operation begins (R81, R102), and the burst is due again. -/
def heldBurst (n : Nat) (d : Dev) : Dev :=
  match (die d n).cur.bind (entOf (die d n)) with
  | none => d
  | some e => if e.est = 4 then d else unissue n e d

/-- What a burst's end does before the next one is picked. -/
def burstEffect (ch : Nat) (b : Burst) (r : BurstResult) (d : Dev) : Dev :=
  let n := fun (k : Nat) => dieAt d.cfg ch k
  if ¬ supplies d then
    (match b with
      | .readCmd k => heldBurst (n k) d
      | .progCmd k => heldBurst (n k) d
      | .otherCmd k => heldBurst (n k) d
      | _ => d)
  else match b with
  | .status k => statusEnd (n k) r d
  | .dataOut k p => dataOutEnd ch (n k) p r d
  | .suspend k => cnt (chIdx ch 4) 7 (updDie (n k) (fun x => { x with
      st := .suspending, ran := x.ran + (d.up - x.start), suspAt := d.up, prev := x.cur, cur := none, suspReq := false }) d)
  | .resume k => updDie (n k) (fun x => { x with
      st := .erase, start := d.up, cur := if x.st = .suspended then x.prev else x.cur,
      prev := if x.st = .suspended then none else x.prev, holdExp := false, readsSusp := 0, resumeDue := false,
      gapOk := false }) d
  | .readCmd k => if (die d (n k)).cur.isSome then readCmdEnd (n k) d else d
  | .progCmd k => (match (die d (n k)).cur.bind (entOf (die d (n k))) with
    | some e => progCmdEnd (n k) e d
    | none => d)
  | .dataIn k p => dataInEnd ch (n k) p d
  | .confirm k => confirmEnd (n k) d
  | .otherCmd k => otherCmdEnd (n k) r d
  | .levels k lv => updChan ch (fun c => { c with driven := levelBytes d ch (n k) lv })
      (updDie (n k) (fun x => { x with lvlSlot := some lv }) d)
  | .lunReset k => rbLow (n k) (updDie (n k) (fun x => { x with rstDue := false, start := d.up }) d)
  | .train _ => d

/-- BUS_BURST_END (R253): the burst's result is taken, its bus time counted, and the next burst starts. A training ends
by its own result (R307). -/
def burstEnd (ch : Nat) (r : BurstResult) (d : Dev) : Dev :=
  match (chan d ch).bus with
  | none => d
  | some (.train _) => d
  | some b =>
    let d0 := sendVia (.seqr ch) (.buoy ch) .rsp 1 (updChan ch (fun c => { c with bus := none }) (seqStop ch d))
    let d1 := cntN (chIdx ch 4) 0x0F (d.up - (chan d ch).busT0) d0
    kickAll (afterBurst (burstEffect ch b r d1))

/-! ### Timeouts (R260, R262) -/

/-- DIE_OP_TIMEOUT (R260): the operation in progress, whose ready has not been seen, has its row's outcome. A read that expires on a die with a SUSPENDED
erase ends the erase too, as one that expired: the LUN reset stops both (DESIGN CHOICE, log 83). -/
def dieTimeout (ch k : Nat) (d : Dev) : Dev :=
  let n := dieAt d.cfg ch k
  let x := die d n
  let e := x.cur.bind (entOf x)
  let op := match e with
    | some e => e.op
    | none => 6
  let go := fun (y : Dev) => kickAll (afterBurst y)
  if ¬ x.outLeft.isEmpty then d
  else match x.st with
  | .read => (match e with
    | some e => go (readTimeout n e d)
    | none => d)
  | .suspended => (match e with
    | some e => go (readTimeout n e d)
    | none => d)
  | .prog =>
    let d1 := updDie n (fun y => { y with prev := none, cur := none }) (expire n op d)
    let d2 := match x.prev with
      | some s => progExpired n s d1
      | none => d1
    go (match x.cur with
      | some s => progExpired n s d2
      | none => d2)
  | .erase =>
    let d1 := updDie n (fun y => { y with cur := none, suspReq := false, resumeDue := false }) (expire n 2 d)
    go (match x.cur with
      | some s => eraseExpired n s d1
      | none => d1)
  | .reset => if x.rstDue then d else
    let d1 := cnt (chIdx ch 4) 4 d
    let d2 := match e with
      | some e => if e.own = .raw then rawEnd 0 2 (dropEnt n e.qseq d1) else d1
      | none => d1
    go (if x.revive then updDie n (fun y => { y with st := .failed, revive := false }) d2
      else dieFail n 2 (updDie n (fun y => { y with lastOp := if x.timeouts = 0 then 6 else y.lastOp }) d2))
  | .idle => (match e with
    | some e =>
      let d1 := expire n e.op (dropEnt n e.qseq d)
      (match e.own with
      | .temp => go (cnt 0x2807 2 { d1 with therm := { d1.therm with queued := d1.therm.queued.filter (· ≠ n) } })
      | .raw => if [1, 2, 3, 7].contains d.rawp.rop then d else go (rawEnd 0 2 d1)
      | _ => d)
    | none => d)
  | _ => d

def execDieOpTimeout (ch k : Nat) (s : State) : Host.Outcome State Fault Refusal :=
  run (fun d => if ch < d.cfg.channels ∧ k < diesPerCh d.cfg ∧ (chan d ch).idTgts.isEmpty then dieTimeout ch k d else d) s

/-- SUSPEND_TIMEOUT (R260): back to ERASE without a reset; the time since the suspend counts as erase time, and a
resume goes before the next status (R266). -/
def suspendTimeout (ch k : Nat) (d : Dev) : Dev :=
  let n := dieAt d.cfg ch k
  let x := die d n
  if x.st ≠ .suspending then d
  else kick ch (cnt (chIdx ch 4) 4 (updDie n (fun y => { y with
    st := .erase, start := y.suspAt, cur := y.prev, prev := none, resumeDue := true, suspReq := false,
    timeouts := y.timeouts + 1, lastOp := 2 }) d))

def execSuspendTimeout (ch k : Nat) (s : State) : Host.Outcome State Fault Refusal :=
  run (fun d => if ch < d.cfg.channels ∧ k < diesPerCh d.cfg then suspendTimeout ch k d else d) s

/-- DIE_TEMP_READING (R542): the entry ends; a reading in range is kept for the next correction. -/
def dieTempReading (n : Nat) (r : Option Byte) (d : Dev) : Dev :=
  match (die d n).cur.bind (entOf (die d n)) with
  | none => d
  | some e =>
    if e.own ≠ .temp ∨ ¬ dieInCfg d.cfg n then d
    else
      let d1 := updDie n (fun x => { x with timeouts := 0 })
        (dropEnt n e.qseq { d with therm := { d.therm with queued := d.therm.queued.filter (· ≠ n) } })
      let d2 := match r with
        | none => cnt 0x2807 2 d1
        | some b =>
          let v := sext (ofInt ((b.toNat : Int) - odI d 0x2800 9) 8) 8
          if v < -40 ∨ 125 < v then cnt 0x2807 2 d1
          else { d1 with therm := { d1.therm with dieRd := d1.therm.dieRd ++ [(n, v)] } }
      kickAll (afterBurst d2)

def execDieTempReading (n : Nat) (r : Option Byte) (s : State) : Host.Outcome State Fault Refusal :=
  run (dieTempReading n r) s

end Sys2Proof.Machine
end

