-- ==== Sys2Proof/Machine/Tender.lean ====
section
/-! DEFINITION. Tender: descriptors, the transfer jobs of commands, programmed channels and timers
(12_tender_dma.md R446 to R468; 01 R33, R36, R599). -/

namespace Sys2Proof.Machine

/-! ### Channels and patterns (R446, R449, R452) -/

def tch (d : Dev) (n : Nat) : TCh := tabGet TCh.reset d.tender.chs n
def updTch (n : Nat) (f : TCh → TCh) (d : Dev) : Dev :=
  { d with tender := { d.tender with chs := tabSet TCh.reset d.tender.chs n (f (tch d n)) } }

/-- The OD index of channel n's entries: 0 configuration, 1 status, 2 counters. -/
def tcIdx (n i : Nat) : Nat := 0x4000 + 0x40 * n + i

/-- A programmed channel (R446). -/
def isProg (d : Dev) (n : Nat) : Bool := bit (od d 0x2500 2) n

/-- The half of a channel is ON. -/
def halfOn (d : Dev) (n : Nat) : Bool := isOn d (domTender d.cfg (n / 32))

def chState (d : Dev) (n : Nat) : Nat := od d (tcIdx n 1) 1
def putChState (n v : Nat) (d : Dev) : Dev := put (tcIdx n 1) 1 v d

/-- A descriptor's fields (R449). -/
def parseDesc (b : Bytes) : TDesc :=
  let q := fun (i : Nat) => leAt b (8 * i) 8
  { next := q 0 / 64 * 64, irq := bit (q 0) 2, barrier := bit (q 0) 1, eoc := bit (q 0) 0, tval := bits (q 1) 48 16,
    tsrc := bits (q 1) 42 6, tkind := bits (q 1) 40 2, dstSb := bit (q 1) 9, srcSb := bit (q 1) 8,
    op := bits (q 1) 0 8, src := q 2, dst := q 3, sStride := sext (bits (q 4) 32 32) 32,
    sLines := bits (q 4) 20 12 + 1, sLen := bits (q 4) 0 20 + 1, dStride := sext (bits (q 5) 32 32) 32,
    dLines := bits (q 5) 20 12 + 1, dLen := bits (q 5) 0 20 + 1, wb := q 6, user := q 7 }

/-- A pattern that names a byte twice. -/
def overlaps (len lines : Nat) (stride : Int) : Bool := decide (1 < lines) && decide (stride.natAbs < len)

/-- The host-made errors of a programmed channel's descriptor (R449, R451, R454). -/
def badDesc (b : Bytes) : Bool :=
  let t := parseDesc b
  bits (leAt b 0 8) 3 3 != 0 || bits (leAt b 8 8) 10 30 != 0 || decide (2 < t.op) ||
  (t.op != 1 && t.sLen * t.sLines != t.dLen * t.dLines) || (t.op != 2 && overlaps t.dLen t.dLines t.dStride) ||
  t.wb % 32 != 0 || ((t.tkind == 1 || t.tkind == 2) && decide (7 < t.tsrc))

/-- The address of byte i of a side (R452). -/
def sideAddr (base len : Nat) (stride : Int) (i : Nat) : Nat :=
  ofInt ((base : Int) + (i / len : Nat) * stride + (i % len : Nat)) 64

/-- Bytes from i on that lie in one line and one 4 KiB page (R452). -/
def sideRun (base len : Nat) (stride : Int) (i : Nat) : Nat :=
  min (len - i % len) (4096 - sideAddr base len stride i % 4096)

/-- Bytes moved (R466, R468). -/
def moved (n k : Nat) (d : Dev) : Dev := cntN 0x2500 8 k (cntN (tcIdx n 2) 1 k d)

/-! ### Transfer jobs of commands (R447, R450, R154, R599) -/

/-- Bytes of the host buffer that a job needs to know. -/
def jobNeed (segs : List OutSeg) : Nat := (segs.map (fun s => s.off + s.len)).foldl max 0

/-- The host pieces of len bytes from an offset of the known host runs. -/
def hostPieces : List (Nat × Nat) → Nat → Nat → Nat → Nat → List TPiece
  | [], _, _, _, _ => []
  | (h, l) :: rs, off, bo, sb, len =>
    if len = 0 then []
    else if l ≤ off then hostPieces rs (off - l) bo sb len
    else
      let k := min len (l - off)
      (pieces4k (k / 4096 + 2) (h + off) 0 k).map (fun x => { off := bo + x.2.1, host := x.1, sb := sb + x.2.1, len := x.2.2 }) ++
        hostPieces rs 0 (bo + k) (sb + k) (len - k)

/-- A job's pieces once its host side is known. -/
def segPieces (runs : List (Nat × Nat)) (segs : List OutSeg) : List TPiece :=
  segs.flatMap (fun s => hostPieces runs s.off s.off s.sb s.len)

/-- A new job of a command. -/
def newJob (d : Dev) (id tag : Nat) (c : Cmd) (wj : Option Nat) (inn : Bool) (segs : List OutSeg)
    (frees : List SbOwn) : TJob :=
  let need := jobNeed segs
  { id := id, tag := tag, wj := wj, inn := inn, port := od d (rgIdx c.ring 0) 3, segs := segs,
    chainAt := if c.chain then some c.dptr else none, total := if c.chain then 0 else need,
    runs := if c.chain then [] else [(c.dptr, need)], pieces := [], frees := frees, nreq := 0, out := 0, held := [], asked := [],
    failed := false, r := c.ring, cid := c.cid, no := c.no }

/-- The command channel for a new job (R447): fewest jobs, then the nearer half, then the lower number. -/
def pickTch (d : Dev) (seg : Nat) : Option Nat :=
  let key := fun (n : Nat) => (tch d n).jobs.length * 4096 + hops d.cfg (segHalf d.cfg (n / 32)) seg * 64 + n
  ((List.range 64).filter (fun n => !isProg d n && halfOn d n && decide ((tch d n).jobs.length < 64))).foldl
    (fun b n => match b with
      | none => some n
      | some x => if key n < key x then some n else some x) none

/-- A write job's host data, a command's result sectors, its records, or a raw operation's data, whichever stands
ready first; the next transfer of a command with what handing it over changes. -/
def nextTransfer (tag : Nat) (c : Cmd) (d : Dev) : Option (TJob × Dev) :=
  match d.lan.wjobs.find? (fun w => w.tag == some tag && w.host != 0 && !w.given && !w.sb.isEmpty && !w.dead) with
  | some w =>
    let id := d.clasp.jobNo + 1
    let segs := ((List.range w.nsec).filter (bit w.host)).map (fun i =>
      { off := (w.first + i - c.slba) * 4096, sb := w.sb.getD i 0, len := 4096, rd := 0 : OutSeg })
    some (newJob d id tag c (some w.id) true segs [],
      updWjob w.id (fun x => { x with given := true }) (updClasp (fun x => { x with jobNo := id }) d))
  | none =>
    let id := d.clasp.jobNo + 1
    let d1 := updClasp (fun x => { x with jobNo := id }) d
    if ¬ c.out.isEmpty then
      some (newJob d id tag c none false c.out ((c.out.map (fun s => SbOwn.rjob s.rd)).eraseDups),
        updCmd tag (fun x => { x with out := [], left := x.left + 1 }) d1)
    else if ¬ c.outB.isEmpty then
      let bs := c.outB.take 16384
      match sbAlloc (segPort d.cfg (od d (rgIdx c.ring 0) 3)) (cdiv bs.length 64) (.recs id) d1 with
      | none => none
      | some (a, d2) =>
        some (newJob d id tag c none false [{ off := c.outOff, sb := a, len := bs.length, rd := 0 }] [.recs id],
          sbStore .lantern a bs (updCmd tag (fun x => { x with
            outB := x.outB.drop 16384, outOff := x.outOff + bs.length, left := x.left + 1 }) d2))
    else match d.rawp.req with
      | none => none
      | some q =>
        if q.src ≠ .ring tag ∨ d.rawp.phase ≠ 1 then none
        else
          let held : Option (Nat × Dev) := match d1.rawp.sb with
            | some a => some (a, d1)
            | none => sbAlloc (segCh d.cfg (dieCh (aDie q.addr))) 512 .raw d1
          held.map (fun r => (newJob d id tag c none true [{ off := 0, sb := r.1, len := q.rlen, rd := 0 }] [],
            { r.2 with rawp := { r.2.rawp with sb := some r.1, phase := 4 } }))

/-- Changes a job of a channel. -/
def updTJob (n id : Nat) (f : TJob → TJob) (d : Dev) : Dev :=
  updTch n (fun c => { c with jobs := updWhere (fun j => j.id == id) f c.jobs }) d

/-- The channel and job of a number. -/
def tjob? (d : Dev) (id : Nat) : Option (Nat × TJob) :=
  d.tender.chs.findSome? (fun x => (x.2.jobs.find? (fun j => j.id == id)).map (fun j => (x.1, j)))

/-- A bad range of the SB copy of a job's result piece (R486): the command completes MEDIA_ERROR, and a READ counts the
sector. -/
def badPiece (j : TJob) (p : TPiece) (d : Dev) (r : Nat × Nat) : Dev :=
  match cmd? d j.tag with
  | none => d
  | some c => if c.opc = 2 then cmdBad j.tag (c.slba + (p.off + r.1) / 4096) 0x0301 d else cmdFail j.tag 0x0301 d

/-- The data of a command that a host-made error made unpredictable is free (R11, R554). -/
def wildBytes (tag : Nat) (bs : Bytes) (d : Dev) : Bytes × Dev :=
  if (cmd? d tag).any (·.wild) then freeBytes bs.length d else (bs, d)

/-- Whether a sector's bytes at an SB address have all come and moved there. -/
def TJob.landedAt (j : TJob) (a : Nat) : Bool :=
  let hit := fun (b n : Nat) => decide (b < a + 4096) && decide (a < b + n)
  j.segs.isEmpty && !(j.pieces.any (fun p => hit p.sb p.len)) && !(j.asked.any (fun p => hit p.1 p.2)) &&
  !(j.held.any (fun p => hit p.1 p.2.length))

/-- One request of a job's (R448). -/
def issuePiece (n : Nat) (j : TJob) (p : TPiece) (d : Dev) : Dev :=
  let d1 := updTJob n j.id (fun x => { x with
    pieces := x.pieces.drop 1, nreq := x.nreq + 1, out := x.out + p.len,
    asked := if x.inn then x.asked ++ [(p.sb, p.len)] else x.asked }) d
  if j.inn then postRead j.port p.host p.len (.jobRd j.id p.sb) d1
  else
    let r := sbFetch (.half (n / 32)) p.sb p.len d1
    let v := wildBytes j.tag r.1 (r.2.1.foldl (badPiece j p) r.2.2)
    let d2 := v.2
    postWrite j.port p.host v.1 r.2.1 (.jobWr j.id p.len j.r j.cid j.no)
      (cntN (rgIdx j.r 2) 5 p.len (moved n p.len d2))

/-- The requests of the job in hand for which the channel's 4 KiB buffer has room. -/
def issuePieces (n id : Nat) : List TPiece → Dev → Dev
  | [], d => d
  | p :: ps, d => match tjob? d id with
    | none => d
    | some (_, j) => if j.out + p.len ≤ 4096 then issuePieces n id ps (issuePiece n j p d) else d

/-- A job's end (R461, R599): SB space that its sectors held is freed, data that came stands for its command. -/
def endJob (n : Nat) (j : TJob) (d : Dev) : Dev :=
  let d0 := send (.half (n / 32)) .lantern .rsp 1 (updTch n (fun c => { c with jobs := c.jobs.filter (fun x => x.id ≠ j.id) }) d)
  let d1 := cnt (tcIdx n 2) (if j.failed then 3 else 2) d0
  let d2 := j.frees.foldl (fun x o => sbFree o x) (if j.failed then cmdFail j.tag 0x0401 d1 else d1)
  if ¬ j.inn then workDone j.tag d2
  else match j.wj with
    | some w => (match wjob d2 w with
      | none => d2
      | some x => if j.failed then feedBands (killJob x d2)
          else feedBands (updWjob w (fun y => { y with landed := nOr y.landed y.host }) d2))
    | none =>
      if j.failed then rawFeed (workDone j.tag { d2 with rawp := { d2.rawp with req := none, phase := 0 } })
      else
        let len := match d2.rawp.req with
          | some q => q.rlen
          | none => 0
        let f := sbFetch .ao (d2.rawp.sb.getD 0) len d2
        if f.2.1.isEmpty then rawData j.tag f.1 f.2.2 else rawFeed (rawEnd 0 4 f.2.2)

/-! ### The path of a half (R457) -/

/-- Bytes of a read that arrived and stand at a position. -/
def readAt (l : List (Nat × Bytes)) (i : Nat) : Bytes :=
  match l.find? (fun x => decide (x.1 ≤ i) && decide (i < x.1 + x.2.length)) with
  | some x => x.2.drop (i - x.1)
  | none => []

/-- Bytes that stand ready at the next position: of the source, or of both operands. -/
def readyBytes (d : Dev) (n : Nat) : Nat :=
  let c := tch d n
  match c.desc with
  | none => 0
  | some (_, t) =>
    let left := t.dLen * t.dLines - c.moved
    let a := if t.op = 1 then left else if t.srcSb then t.sLen - c.moved % t.sLen else (readAt c.reads c.moved).length
    let b := if t.op ≠ 2 then left else if t.dstSb then t.dLen - c.moved % t.dLen else (readAt c.reads2 c.moved).length
    min left (min a b)

/-- The data credits of a half: 64 flits less those that SB has not taken (R30). -/
def halfCredit (d : Dev) (h : Nat) : Nat :=
  64 - d.net.inFlight (fun a b => a == .half h && (match b with
    | .sb _ => true
    | _ => false)) .data

/-- Bytes that a half may send to SB now, in whole beats of 64 bytes. -/
def creditBytes (d : Dev) (h : Nat) : Nat := halfCredit d h / 2 * 64

/-- A channel has a beat it can move (R457): its data is there and its destination can take it. -/
def chReady (d : Dev) (n : Nat) : Bool :=
  match (tch d n).desc with
  | none => false
  | some (_, t) =>
    (chState d n == 3 || chState d n == 4) && decide (0 < readyBytes d n) && !(tch d n).departed &&
    (t.op == 2 || (if t.dstSb then decide (0 < creditBytes d (n / 32)) else (port d (od d (tcIdx n 0) 5)).linkUp))

/-- A channel loses the path in mid-transfer: PREEMPTED, counted. -/
def displace (n : Nat) (d : Dev) : Dev := cnt (tcIdx n 2) 4 (putChState n 4 d)

/-- The programmed channels of a half that are ready. -/
def readyProg (d : Dev) (h : Nat) : List Nat := (d.tender.chs.map (·.1)).filter (fun m => m / 32 == h && chReady d m)

/-- The priority of a command channel by its job (R457). -/
def jobPrio (d : Dev) (j : TJob) : Nat := od d 0x2500 (if j.inn then 4 else 3)

/-- The job of a command channel may move beats: no ready programmed channel of its half has a higher priority, nor
the same one with a request under way in PREEMPT. -/
def pathFree (d : Dev) (n : Nat) (j : TJob) : Bool :=
  let top := ((readyProg d (n / 32)).map (fun m => od d (tcIdx m 0) 4)).foldl max 0
  let own := tabGet 0 d.tender.owner (n / 32)
  (readyProg d (n / 32)).isEmpty || decide (top < jobPrio d j) ||
    (jobPrio d j == top && !(od d 0x2500 1 == 0 && own != 0 && chReady d (own - 1) && !(tch d (own - 1)).wbuf.isEmpty))

/-- A command channel takes the path for its beats: a ready owner of lower priority is displaced in PREEMPT. -/
def cmdPath (n : Nat) (j : TJob) (d : Dev) : Dev :=
  let own := tabGet 0 d.tender.owner (n / 32)
  let d1 := { d with tender := { d.tender with lastOwner := tabSet 0 d.tender.lastOwner (n / 32) (n + 1) } }
  if od d 0x2500 1 = 0 ∧ own ≠ 0 ∧ chReady d (own - 1) ∧ od d (tcIdx (own - 1) 0) 4 < jobPrio d j then
    displace (own - 1) { d1 with tender := { d1.tender with owner := tabSet 0 d1.tender.owner (n / 32) 0 } }
  else d1

/-- The job in hand of a channel can go on. -/
def headReady (d : Dev) (n : Nat) : Bool :=
  match (tch d n).jobs with
  | [] => false
  | j :: _ =>
    if j.failed then j.nreq == 0
    else if j.chainAt.isSome then j.nreq == 0
    else if ¬ j.segs.isEmpty then true
    else
      (!j.held.isEmpty && pathFree d n j && decide (0 < creditBytes d (n / 32))) || (match j.pieces with
        | [] => j.nreq == 0
        | p :: _ => decide (j.out + p.len ≤ 4096) && (j.inn || pathFree d n j))

/-- Sectors of a job's granule whose host data has landed may be programmed (R33 step 5). -/
def landJob (id : Nat) (d : Dev) : Dev :=
  match tjob? d id with
  | none => d
  | some (_, j) => match j.wj.bind (wjob d) with
    | none => d
    | some w =>
      let new := (List.range w.nsec).filter (fun i => bit w.host i && !bit w.landed i && (w.sb[i]?).any j.landedAt)
      if new.isEmpty then d
      else feedBands (updWjob w.id (fun x => { x with landed := new.foldl (fun m i => setBit m i true) x.landed }) d)

/-- Of what stands in a buffer, the first k bytes, and the rest. -/
def splitHeld : Nat → List (Nat × Bytes) → List (Nat × Bytes) × List (Nat × Bytes)
  | _, [] => ([], [])
  | k, p :: t =>
    if p.2.length ≤ k then
      let r := splitHeld (k - p.2.length) t
      (p :: r.1, r.2)
    else (if k = 0 then [] else [(p.1, p.2.take k)], (p.1 + k, p.2.drop k) :: t)

/-- Host data of a job that stands in the channel's buffer moves to SB, as far as the half's credits go: Tender pauses at the
current beat (R30). -/
def moveHeld (n id : Nat) (d : Dev) : Dev :=
  match tjob? d id with
  | none => d
  | some (_, j) =>
    let r := splitHeld (creditBytes d (n / 32)) j.held
    landJob id (r.1.foldl (fun x p =>
        let v := wildBytes j.tag p.2 x
        cntN (rgIdx j.r 2) 6 p.2.length (moved n p.2.length (sbStore (.half (n / 32)) p.1 v.1 v.2)))
      (updTJob n id (fun x => { x with
        held := r.2, nreq := x.nreq - (j.held.length - r.2.length), out := x.out - (r.1.map (·.2.length)).sum }) d))

/-- The beats of the job in hand move, and its requests go out. -/
def headMove (n : Nat) (j : TJob) (d : Dev) : Dev :=
  let d1 := if ¬ j.held.isEmpty ∧ pathFree d n j ∧ 0 < creditBytes d (n / 32) then moveHeld n j.id (cmdPath n j d) else d
  if j.pieces.isEmpty ∨ ¬ j.inn ∧ ¬ pathFree d n j then d1
  else issuePieces n j.id j.pieces (if j.inn then d1 else cmdPath n j d1)

/-- The job in hand goes on. -/
def headStep (n : Nat) (d : Dev) : Dev :=
  if ¬ headReady d n ∨ ¬ halfOn d n ∨ d.clasp.flush.isSome then d
  else match (tch d n).jobs with
    | [] => d
    | j :: _ =>
      if j.failed then endJob n j d
      else match j.chainAt with
        | some a => postRead j.port (a / 64 * 64) 64 (.jobDesc j.id) (updTJob n j.id (fun x => { x with nreq := 1 }) d)
        | none =>
          if ¬ j.segs.isEmpty then
            updTJob n j.id (fun x => { x with segs := [], pieces := segPieces j.runs j.segs }) d
          else if j.pieces.isEmpty ∧ j.held.isEmpty then endJob n j d
          else headMove n j d

/-! ### Programmed channels: triggers and completion (R453 to R461) -/

/-- A trigger condition holds (R454). -/
def trigHolds (d : Dev) (n : Nat) (t : TDesc) : Bool :=
  let past := fun (q : Nat) => decide ((q % 65536 + 65536 - t.tval) % 65536 < 32768)
  match t.tkind with
  | 0 => true
  | 1 => (tch d n).ticked
  | 2 => past (od d (0x2510 + t.tsrc) 4)
  | _ => past (od d (tcIdx t.tsrc 1) 3)

/-- A descriptor begins to run; the next one is read meanwhile (R462). -/
def toRun (n : Nat) (d : Dev) : Dev :=
  match (tch d n).desc with
  | none => d
  | some (_, t) =>
    let d1 := putChState n 3 d
    if t.eoc then d1
    else postRead (od d (tcIdx n 0) 5) (t.next / 64 * 64) 64 (.desc n (tch d n).chain t.next)
      (updTch n (fun c => { c with fetching := some t.next }) d1)

/-- Waiting channels whose trigger holds run. -/
def release (d : Dev) : Dev :=
  (d.tender.chs.map (·.1)).foldl (fun x n => match (tch x n).desc with
    | some (_, t) => if chState x n = 2 ∧ trigHolds x n t then toRun n x else x
    | none => x) d

/-- The bytes of a completion record (R460). -/
def recBytes (d : Dev) (n : Nat) (t : TDesc) (status moff : Nat) : Bytes :=
  leBytes 8 t.user ++
  leBytes 8 (fld (od d (tcIdx n 1) 3) 48 16 + fld status 40 4 + fld (od d 0x2010 2) 38 2 + fld moff 0 32) ++
  leBytes 8 d.ts ++ leBytes 8 0

/-- The record, and the doorbell by its rule (R459 steps 2 and 3). -/
def recordBell (n : Nat) (t : TDesc) (status moff : Nat) (irq : Bool) (d : Dev) : Dev :=
  let on := irq && decide (od d (tcIdx n 0) 6 < 1024)
  if t.wb = 0 then (if on then ringUnit (.half (n / 32)) (od d (tcIdx n 0) 6) d else d)
  else
    postWrite (od d (tcIdx n 0) 5) t.wb (recBytes d n t status moff) []
      (.chRec n (if on then (if od d (tcIdx n 0) 7 = 1 then 2 else 1) else 0)) d

/-- A channel at rest in an end state: what is still in flight is discarded as it returns. -/
def chRest (n st : Nat) (d : Dev) : Dev :=
  let clear := fun (c : TCh) => { TCh.reset with chain := c.chain + 1, no := c.no + 1, jobs := c.jobs }
  let own := n / 32
  let d1 := if tabGet 0 d.tender.owner own = n + 1 then
      { d with tender := { d.tender with owner := tabSet 0 d.tender.owner own 0 } } else d
  putChState n st (updTch n clear d1)

/-- A transfer failed (R461): the record with its status, the doorbell whatever irq says, ERROR. -/
def failCh (n status : Nat) (d : Dev) : Dev :=
  if ¬ [1, 2, 3, 4].contains (chState d n) then d
  else
    let d1 := cnt (tcIdx n 2) 3 (put (tcIdx n 1) 4 status d)
    let d2 := match (tch d n).desc with
      | some (_, t) => recordBell n t status 0 true d1
      | none => if od d (tcIdx n 0) 6 < 1024 then ringUnit (.half (n / 32)) (od d (tcIdx n 0) 6) d1 else d1
    chRest n 6 d2

/-- The descriptor in hand completes with a status (R459): `ch_done_seq` first, then the record, the doorbell and
the way on; an unpredictable transfer's status and offset are free (R451). -/
def completeCh (n status0 moff0 : Nat) (d0 : Dev) : Dev :=
  let v := freeVal d0
  let w := (tch d0 n).wild && status0 != 4
  let d := if w then v.2 else d0
  let status := if w then (if v.1.toNat % 2 = 0 then 0 else 1) else status0
  let moff := if w then v.1.toNat / 2 else moff0
  match (tch d n).desc with
  | none => d
  | some (_, t) =>
    let stop := (tch d n).stopReq || status == 4
    let d1 := put (tcIdx n 1) 3 (nextSeq (od d (tcIdx n 1) 3)) d
    let d2 := cnt (tcIdx n 2) 2 (put (tcIdx n 1) 4 status d1)
    let d3 := if t.op = 2 then put (tcIdx n 1) 5 moff d2 else d2
    let d4 := recordBell n t status moff t.irq d3
    let d5 :=
      if t.eoc ∧ status ≠ 4 then chRest n 5 d4
      else if stop then chRest n 7 d4
      else
        let c := tch d4 n
        let own := n / 32
        let d6 := if tabGet 0 d4.tender.owner own = n + 1 then
            { d4 with tender := { d4.tender with owner := tabSet 0 d4.tender.owner own 0 } } else d4
        let d7 := putChState n 1 (updTch n (fun _ => { TCh.reset with
                    chain := c.chain, no := c.no + 1, ahead := c.ahead, fetching := c.fetching, jobs := c.jobs }) d6)
        match c.ahead with
        | some (_, [b]) => failCh n b.toNat d7
        | _ => d7
    release d5

/-- The last write of the descriptor in hand has left (R458): a barrier holds outside SERVICE, and is counted
where it is ignored. -/
def checkDepart (n : Nat) (d : Dev) : Dev :=
  let c := tch d n
  match c.desc with
  | none => d
  | some (_, t) =>
    let total := t.dLen * t.dLines
    if c.departed ∨ t.op = 2 ∨ c.moved < total ∨ ¬ c.wbuf.isEmpty ∨ 0 < c.undep then d
    else
      let svc := od d 0x2000 1 == 1
      let d1 := if t.barrier ∧ svc then cnt (tcIdx n 2) 5 d else d
      updTch n (fun x => { x with departed := true, land := t.barrier && !svc }) d1

/-- What left a port is told to its channel. -/
def applyGone (o : Owner) (d : Dev) : Dev :=
  match o with
  | .jobWr id len _ _ _ => (match tjob? d id with
    | some (n, _) => updTJob n id (fun j => { j with nreq := j.nreq - 1, out := j.out - len }) d
    | none => d)
  | .chWr n no => if (tch d n).no = no then checkDepart n (updTch n (fun c => { c with undep := c.undep - 1 }) d) else d
  | .chRec n bell => if bell = 1 ∧ od d (tcIdx n 0) 6 < 1024 then ringUnit (.half (n / 32)) (od d (tcIdx n 0) 6) d else d
  | _ => d

/-- Command channels in the order of their jobs' priorities, the lower number first among equals (R457). -/
def byPrio (d : Dev) (l : List Nat) : List Nat :=
  let p := fun (n : Nat) => match (tch d n).jobs with
    | [] => 0
    | j :: _ => jobPrio d j
  [7, 6, 5, 4, 3, 2, 1, 0].flatMap (fun q => l.filter (fun n => p n == q))

/-- Departures and the jobs in hand, until nothing can go on. -/
def tenderLoop : Nat → Dev → Dev
  | 0, d => d
  | f + 1, d =>
    let d1 := d.tender.gone.foldl (fun x o => applyGone o x) { d with tender := { d.tender with gone := [] } }
    let l := ((d1.tender.chs.map (·.1)).filter (fun n => headReady d1 n && halfOn d1 n && d1.clasp.flush.isNone))
    if l.isEmpty then d1 else tenderLoop f ((byPrio d1 l).foldl (fun x n => headStep n x) d1)

/-- Fuel: every pass moves a job on. -/
def tenderFuel (d : Dev) : Nat :=
  8 + 4 * (d.tender.chs.map (fun c => (c.2.jobs.map (fun j => 4 + j.pieces.length + 2 * j.segs.length)).sum)).sum +
    d.tender.gone.length

/-- Tender goes on after anything that let a transfer leave or arrive. -/
def settle (d : Dev) : Dev := kickAll (tenderLoop (tenderFuel d) d)

/-- TENDER_JOB (R447): a command's next host transfer goes to a command channel; with every one full it waits. -/
def tenderJob (tag : Nat) (d : Dev) : Dev :=
  match cmd? d tag with
  | none => d
  | some c => match pickTch d (segPort d.cfg (od d (rgIdx c.ring 0) 3)) with
    | none => (List.range 2).foldl (fun x h => assertWake (domTender x.cfg h) 1 x) d
    | some n => match nextTransfer tag c d with
      | none => d
      | some (j, d1) => settle (sendFor (some c.no) .lantern (.half (n / 32)) .req 1 (updTch n (fun x => { x with jobs := x.jobs ++ [j] }) d1))

def execTenderJob (tag : Nat) (s : State) : Host.Outcome State Fault Refusal := run (tenderJob tag) s

/-! ### Answers to a job's requests (R68, R154) -/

/-- A job failed: what it has not asked for is not asked for. -/
def failJob (n id : Nat) (d : Dev) : Dev := updTJob n id (fun j => { j with
  failed := true, pieces := [], segs := [], asked := [], nreq := j.nreq - j.held.length, held := [] }) d

/-- The host runs of a descriptor's host side: the source of fetched data, else the destination (R450). -/
def descRuns (inn : Bool) (t : TDesc) : List (Nat × Nat) :=
  if inn then (List.range t.sLines).map (fun l => (sideAddr t.src t.sLen t.sStride (l * t.sLen), t.sLen))
  else (List.range t.dLines).map (fun l => (sideAddr t.dst t.dLen t.dStride (l * t.dLen), t.dLen))

/-- The host-made errors that a job's descriptor shows: its chain ends before the job's bytes, or it names more than the
command's (R154); a destination written twice (R451). -/
def badJobDesc (d : Dev) (j : TJob) (t : TDesc) : Bool :=
  let total := j.total + ((descRuns j.inn t).map (·.2)).sum
  let more := match cmd? d j.tag with
    | some c => ([1, 2].contains c.opc && decide (4096 * c.nsec < total))
    | none => false
  (t.eoc && decide (total < jobNeed j.segs)) || more || (!j.inn && overlaps t.dLen t.dLines t.dStride)

/-- A job's descriptor arrived; a host-made error in it makes the command unpredictable. A chain too short leaves its last
bytes unmoved (log 26). -/
def jobDescArrived (id : Nat) (ok : Bool) (bs : Bytes) (d : Dev) : Dev :=
  match tjob? d id with
  | none => d
  | some (n, j) =>
    let d1 := updTJob n id (fun x => { x with nreq := 0 }) d
    if ¬ ok then failJob n id d1
    else
      let t := parseDesc bs
      let rs := descRuns j.inn t
      let total := j.total + (rs.map (·.2)).sum
      updTJob n id (fun x => { x with
        runs := x.runs ++ rs, total := total,
        chainAt := if t.eoc ∨ jobNeed x.segs ≤ total then none else some t.next })
        (if badJobDesc d j t then updCmd j.tag (fun c => { c with wild := true }) d1 else d1)

/-- Host data of a job arrived: it stands in the buffer for its turn on the path, poisoned data does not (R68). -/
def jobDataArrived (id sb len : Nat) (ok : Bool) (bs : Bytes) (d : Dev) : Dev :=
  match tjob? d id with
  | none => d
  | some (n, _) =>
    if ok then updTJob n id (fun x => { x with asked := x.asked.erase (sb, len), held := x.held ++ [(sb, fit len bs)] }) d
    else failJob n id (updTJob n id (fun x => { x with nreq := x.nreq - 1, out := x.out - len }) d)

/-! ### Programmed channels: the operations (R448, R452, R453, R456, R457) -/

/-- An SB access of a programmed channel lies in the window (R456). -/
def inSbWin (d : Dev) (a len : Nat) : Bool :=
  decide (od d 0x2500 5 * 1024 ≤ a) && decide (a + len ≤ (od d 0x2500 5 + od d 0x2500 6) * 1024)

/-- Reads wholly behind a position are done with. -/
def readDrop (l : List (Nat × Bytes)) (i : Nat) : List (Nat × Bytes) := l.filter (fun x => decide (i < x.1 + x.2.length))

/-- Asks for source bytes run by run while the buffer has room for a whole run (R448, R452); a channel that nothing
more can reach otherwise asks for what fits (log 62). -/
def askReads (n : Nat) (second : Bool) : Nat → Dev → Dev
  | 0, d => d
  | f + 1, d => match (tch d n).desc with
    | none => d
    | some (_, t) =>
      let c := tch d n
      let at_ := if second then c.issued2 else c.issued
      let cap := if t.op = 2 then 2048 else 4096
      let used := at_ - c.moved + c.wbuf.length
      let total := t.dLen * t.dLines
      let base := if second then t.dst else t.src
      let len := if second then t.dLen else t.sLen
      let stride := if second then t.dStride else t.sStride
      let run := min (min (sideRun base len stride at_) cap) (total - at_)
      let k := if run ≤ cap - used then run else if at_ = c.moved then cap - used else 0
      if k = 0 then d
      else
        let own := if second then Owner.chRd2 n c.no at_ else Owner.chRd n c.no at_
        askReads n second f (postRead (od d (tcIdx n 0) 5) (sideAddr base len stride at_) k own
          (updTch n (fun x => if second then { x with issued2 := at_ + k } else { x with issued := at_ + k }) d))

/-- The requests a running channel may make now. -/
def askAll (n : Nat) (d : Dev) : Dev :=
  match (tch d n).desc with
  | none => d
  | some (_, t) =>
    let d1 := if t.op ≠ 1 ∧ ¬ t.srcSb then askReads n false 64 d else d
    if t.op = 2 ∧ ¬ t.dstSb then askReads n true 64 d1 else d1

/-- The first of a list of channels after the last owner, in turn. -/
def inTurn (last : Nat) (l : List Nat) : Option Nat := (l.find? (fun n => last < n + 1)).or l.head?

/-- The path of a half is taken, or kept, by a channel (R457). -/
def takePath (n : Nat) (d : Dev) : Dev :=
  putChState n 3 { d with
    tender := { d.tender with
    owner := tabSet 0 d.tender.owner (n / 32) (n + 1), lastOwner := tabSet 0 d.tender.lastOwner (n / 32) (n + 1) } }

/-- The channel's turn on its half's path (R457): the highest priority goes first; equals change at the end of a
request in PREEMPT, of a burst in INTERLEAVE, in round-robin. Answers whether it may move. -/
def pathTurn (n : Nat) (d : Dev) : Bool × Dev :=
  if ¬ chReady d n then (false, d)
  else
    let prio := fun (m : Nat) => od d (tcIdx m 0) 4
    let r := (d.tender.chs.map (·.1)).filter (fun m => m / 32 == n / 32 && chReady d m)
    let top := (r.map prio).foldl max 0
    let eq := r.filter (fun m => prio m == top)
    let own := tabGet 0 d.tender.owner (n / 32)
    let last := tabGet 0 d.tender.lastOwner (n / 32)
    if prio n < top then
      if own = n + 1 ∧ od d 0x2500 1 = 0 then
        (false, displace n { d with tender := { d.tender with owner := tabSet 0 d.tender.owner (n / 32) 0 } })
      else (false, d)
    else if own = n + 1 ∧ (od d 0x2500 1 = 0 ∧ ¬ (tch d n).wbuf.isEmpty ∨ eq.length ≤ 1) then (true, takePath n d)
    else if own = 0 ∨ ¬ r.contains (own - 1) then (true, takePath n d)
    else if prio (own - 1) < top then
      if od d 0x2500 1 = 0 then (true, takePath n (displace (own - 1) d)) else (true, takePath n d)
    else if od d 0x2500 1 = 0 ∧ ¬ (tch d (own - 1)).wbuf.isEmpty ∧ own ≠ n + 1 then (false, d)
    else (inTurn last eq == some n, if inTurn last eq = some n then takePath n d else d)

/-- Bytes of one turn: a beat, or an INTERLEAVE burst of 512 bytes. -/
def turnBytes (d : Dev) : Nat := if od d 0x2500 1 = 0 then 64 else 512

/-- k bytes of a side from position i, of SB or of what arrived. Answers with the bytes and a failure status. -/
def takeBytes (n : Nat) (second : Bool) (t : TDesc) (i k : Nat) (d : Dev) : Bytes × Nat × Dev :=
  let sb := if second then t.dstSb else t.srcSb
  if ¬ sb then ((readAt (if second then (tch d n).reads2 else (tch d n).reads) i).take k, 0, d)
  else
    let a := if second then sideAddr t.dst t.dLen t.dStride i else sideAddr t.src t.sLen t.sStride i
    if ¬ inSbWin d a k then ([], 5, d)
    else
      let r := sbFetch (.half (n / 32)) a k d
      (r.1, if r.2.1.isEmpty then 0 else 2, r.2.2)

/-- Bytes that moved reach the destination of a COPY or FILL: SB at once, host memory by one WRITE for each run. Those of
an unpredictable transfer are free (R451). -/
def giveBytes (n : Nat) (t : TDesc) (bs0 : Bytes) (d0 : Dev) : Dev :=
  let v : Bytes × Dev := if (tch d0 n).wild then freeBytes bs0.length d0 else (bs0, d0)
  let bs := v.1
  let d := v.2
  let c := tch d n
  let i := c.moved
  let k := bs.length
  let d1 := moved n k (updTch n (fun x => { x with
    moved := i + k, reads := readDrop x.reads (i + k), reads2 := readDrop x.reads2 (i + k) }) d)
  if t.dstSb then
    let a := sideAddr t.dst t.dLen t.dStride i
    if ¬ inSbWin d a k then failCh n 5 d
    else if ¬ bankOn d (a / 524288) then failCh n 2 d
    else
      let w := sbStore? (.half (n / 32)) a bs d1
      if w.1 then checkDepart n w.2 else failCh n 2 w.2
  else
    let i0 := i - c.wbuf.length
    let w := c.wbuf ++ bs
    if sideRun t.dst t.dLen t.dStride i0 ≤ w.length ∨ t.dLen * t.dLines ≤ i + k then
      postWrite (od d (tcIdx n 0) 5) (sideAddr t.dst t.dLen t.dStride i0) w [] (.chWr n c.no)
        (updTch n (fun x => { x with wbuf := [], undep := x.undep + 1, unland := x.unland + 1 }) d1)
    else updTch n (fun x => { x with wbuf := w }) d1

/-- Bytes of one move: a turn's worth inside a line of either SB side and inside the request under way. -/
def moveLen (d : Dev) (n : Nat) (t : TDesc) : Nat :=
  let c := tch d n
  let room := if t.op = 2 then 4096
    else if t.dstSb then t.dLen - c.moved % t.dLen
    else sideRun t.dst t.dLen t.dStride (c.moved - c.wbuf.length) - c.wbuf.length
  let credit := if t.op ≠ 2 ∧ t.dstSb then creditBytes d (n / 32) else 4096
  min (min (turnBytes d) (readyBytes d n)) (min room credit)

/-- One turn of a COPY or FILL. -/
def copyStep (n : Nat) (t : TDesc) (d : Dev) : Dev :=
  let k := moveLen d n t
  let i := (tch d n).moved
  let r : Bytes × Nat × Dev :=
    if t.op = 1 then ((List.range k).map (fun x => (leBytes 8 t.src).getD ((i + x) % 8) 0), 0, d)
    else takeBytes n false t i k d
  if r.2.1 ≠ 0 then failCh n r.2.1 r.2.2 else giveBytes n t r.1 r.2.2

/-- The first position where two byte strings differ. -/
def firstDiff : Bytes → Bytes → Option Nat
  | a :: as, b :: bs => if a ≠ b then some 0 else (firstDiff as bs).map (· + 1)
  | _, _ => none

/-- One turn of a COMPARE (R453): it stops at its first mismatch. -/
def compareStep (n : Nat) (t : TDesc) (d : Dev) : Dev :=
  let k := moveLen d n t
  let i := (tch d n).moved
  let a := takeBytes n false t i k d
  let b := takeBytes n true t i k a.2.2
  if a.2.1 ≠ 0 then failCh n a.2.1 a.2.2
  else if b.2.1 ≠ 0 then failCh n b.2.1 b.2.2
  else
    let d1 := moved n k b.2.2
    match firstDiff a.1 b.1 with
    | some x => updTch n (fun c => { c with fail := 1, moff := i + x, departed := true }) d1
    | none => updTch n (fun c => { c with
        moved := i + k, reads := readDrop c.reads (i + k), reads2 := readDrop c.reads2 (i + k),
        departed := decide (t.dLen * t.dLines ≤ i + k) }) d1

/-- A row of an operation: the channel asks for what it may, and moves if the path is its own. -/
def opRow (op n : Nat) (step : Nat → TDesc → Dev → Dev) (d : Dev) : Dev :=
  match (tch d n).desc with
  | none => d
  | some (_, t) =>
    if t.op ≠ op ∨ ¬ (chState d n = 3 ∨ chState d n = 4) ∨ (tch d n).departed ∨ ¬ halfOn d n then d
    else
      let r := pathTurn n (askAll n d)
      settle (if r.1 then askAll n (step n t r.2) else r.2)

/-- DESCRIPTOR_COPY (R453). -/
def execDescriptorCopy (n : Nat) (s : State) : Host.Outcome State Fault Refusal := run (opRow 0 n copyStep) s

/-- FILL (R453). -/
def execFill (n : Nat) (s : State) : Host.Outcome State Fault Refusal := run (opRow 1 n copyStep) s

/-- COMPARE (R453). -/
def execCompare (n : Nat) (s : State) : Host.Outcome State Fault Refusal := run (opRow 2 n compareStep) s

/-- DESCRIPTOR_COMPLETE (R458, R459): the descriptor has departed, or landed where its barrier holds. -/
def descriptorComplete (n : Nat) (d : Dev) : Dev :=
  let c := tch d n
  if (chState d n = 3 ∨ chState d n = 4) ∧ c.departed ∧ (¬ c.land ∨ c.unland = 0) then
    settle (completeCh n c.fail c.moff d)
  else d

def execDescriptorComplete (n : Nat) (s : State) : Host.Outcome State Fault Refusal := run (descriptorComplete n) s

/-! ### Chains (R454, R462, R463) -/

/-- A descriptor with a host-made error (R449, R451): which transfer it makes is unpredictable, but it ends. A reserved
op runs as FILL, unequal sides as equal ones, and the record stays aligned; the data that the transfer gives and its
status are free (log 26). -/
def tame (t : TDesc) : TDesc :=
  { t with op := if 2 < t.op then 1 else t.op, sLen := t.dLen, sLines := t.dLines, wb := t.wb / 32 * 32, tsrc :=
      if t.tkind = 3 then t.tsrc else t.tsrc % 8 }

/-- DESCRIPTOR_FETCHED (R454, R462): loaded, then RUN or WAIT_TRIG. -/
def loadDesc (n : Nat) (d : Dev) : Dev :=
  match (tch d n).ahead with
  | none => d
  | some (a, b) =>
    if chState d n ≠ 1 ∨ b.length ≠ 64 then d
    else
      let bad := badDesc b || a % 64 != 0
      let t := if bad then tame (parseDesc b) else parseDesc b
      let d1 := put (tcIdx n 1) 2 a (updTch n (fun c => { c with desc := some (a, t), wild := bad, ahead := none, no := c.no + 1 }) d)
      if t.tkind ≠ 1 ∧ trigHolds d1 n t then settle (toRun n d1) else putChState n 2 d1

def execDescriptorFetched (n : Nat) (s : State) : Host.Outcome State Fault Refusal := run (loadDesc n) s

/-- A programmed channel's descriptor arrived; a failed read ends the chain, once the descriptor that runs has
completed (R461). -/
def descArrived (n chain addr : Nat) (status : Nat) (bs : Bytes) (d : Dev) : Dev :=
  let c := tch d n
  if c.chain ≠ chain ∨ c.fetching ≠ some addr then d
  else
    let d1 := updTch n (fun x => { x with fetching := none }) d
    if status = 0 then updTch n (fun x => { x with ahead := some (addr, fit 64 bs) }) d1
    else if c.desc.isSome then updTch n (fun x => { x with ahead := some (addr, [BitVec.ofNat 8 status]) }) d1
    else failCh n status d1

/-- Data of a programmed channel arrived. -/
def chDataArrived (n no pos status : Nat) (second : Bool) (bs : Bytes) (d : Dev) : Dev :=
  if (tch d n).no ≠ no ∨ (tch d n).desc.isNone then d
  else if status ≠ 0 then failCh n status d
  else updTch n (fun c => if second then { c with reads2 := c.reads2 ++ [(pos, bs)] }
    else { c with reads := c.reads ++ [(pos, bs)] }) d

/-- ch_start on a programmed channel that does not run (R462). -/
def chStart (n : Nat) (d : Dev) : Dev :=
  let a := od d (tcIdx n 0) 1
  let c := tch d n
  settle (postRead (od d (tcIdx n 0) 5) (a / 64 * 64) 64 (.desc n (c.chain + 1) a)
    (putChState n 1 (updTch n (fun c => { TCh.reset with
      chain := c.chain + 1, no := c.no + 1, fetching := some a, jobs := c.jobs }) d)))

/-- ch_stop (R463). -/
def chStop (n : Nat) (d : Dev) : Dev :=
  let st := chState d n
  if ¬ [1, 2, 3, 4].contains st then d
  else if (tch d n).desc.isNone then chRest n 7 d
  else if (tch d n).departed then updTch n (fun c => { c with stopReq := true }) d
  else settle (completeCh n 4 0 d)

/-! ### Timers (R455) -/

/-- The first scheduled time not before the present one. -/
def nextTick (start period now : Nat) : Nat := if now ≤ start then start else start + cdiv (now - start) (max 1 period) * period

/-- A write of tmr_enable: 1 starts the sequence afresh. -/
def tmrEnable (k v : Nat) (d : Dev) : Dev :=
  let per := od d (0x2510 + k) 2
  if v = 1 then
    let t : Tmr := { next := nextTick (od d (0x2510 + k) 3) per d.ts, period := per, last := none }
    put (0x2510 + k) 4 0x10000 (setTmr k t d)
  else { d with tender := { d.tender with tmrs := tabErase d.tender.tmrs k } }

/-- TIMER_TICK (R455): the sequence advances and what waits on the tick is released. -/
def timerTick (k : Nat) (d : Dev) : Dev :=
  match d.tender.tmrs.find? (fun x => x.1 == k) with
  | none => d
  | some (_, t) =>
    let per := od d (0x2510 + k) 2
    let t1 : Tmr := { next := t.next + per, period := per, last := some t.next }
    let d1 := put (0x2510 + k) 4 (nextSeq (od d (0x2510 + k) 4)) (setTmr k t1 d)
    let d2 := (d1.tender.chs.map (·.1)).foldl (fun x n => match (tch x n).desc with
      | some (_, q) => if chState x n = 2 ∧ q.tkind = 1 ∧ q.tsrc = k then updTch n (fun c => { c with ticked := true }) x else x
      | none => x) d1
    settle (release d2)

def execTimerTick (k : Nat) (s : State) : Host.Outcome State Fault Refusal := run (timerTick k) s

end Sys2Proof.Machine
end

