-- ==== Sys2Proof/Machine/Ports.lean ====
section
/-! DEFINITION. What arrives at a port beside doorbells: responses, expiries, credits, refused requests, and the
link (02_ports.md R45 to R79, R602). -/

namespace Sys2Proof.Machine

/-- The OD index of a port. -/
def ptIdx (p : Nat) : Nat := 0x5000 + 0x10 * p

/-- A WRITE that fails after the completion that covers it (R602). -/
def lateWrite (p a b : Nat) (d : Dev) : Dev := fault 0 2 (domPort d.cfg p) a b d

/-- A line's write-back is answered (R59, R68): one that failed is issued again with the same data (log 84), and a fill
of the line may go only after it has landed. -/
def mapWbEnd (p : Nat) (o : Outst) (ok : Bool) (ln : Nat) (d : Dev) : Dev :=
  if ok then askWanted (updLan (fun l => { l with
      wbs := l.wbs.filter (fun w => w.1 ≠ ln), misses := l.misses.filter (fun m => !(m.addr == ln && m.back)) }) d)
  else postWrite p o.addr (lineBytes d ln) [] o.own d

/-- The answer to one of the FX32's own requests, or its failure: status 0 OK, 2 a failed response, 3 expired. -/
def deliver (p : Nat) (o : Outst) (st : Nat) (bs : Bytes) (d0 : Dev) : Dev :=
  let ok := st == 0
  let d := sendRsp p o.own bs.length d0
  match o.own with
  | .sq r => fetchArrived r ok bs d
  | .cq r cid no =>
    if ok then updBell r no (fun b => { b with landed := true }) d
    else lateWrite p r cid (updRing r (fun x => { x with
      bells := if od d (rgIdx r 0) 0x0B = 1 then x.bells else x.bells.filter (fun b => b.no ≠ no) }) d)
  | .jobRd id sb => settle (jobDataArrived id sb o.len ok bs d)
  | .jobWr id len r cid no =>
    if ok then d
    else match tjob? d id with
      | some (n, _) =>
        let d1 := if o.departed then d
          else updTJob n id (fun j => { j with nreq := j.nreq - 1, out := j.out - len }) d
        settle (failJob n id d1)
      | none => (match d.cmds.find? (fun c => c.2.no == no) with
        | some c => cmdFail c.1 0x0401 d
        | none => lateWrite p r cid d)
  | .jobDesc id => settle (jobDescArrived id ok bs d)
  | .desc n chain addr => settle (descArrived n chain addr st bs d)
  | .chRd n no pos => settle (chDataArrived n no pos st false (fit o.len bs) d)
  | .chRd2 n no pos => settle (chDataArrived n no pos st true (fit o.len bs) d)
  | .chWr n no =>
    let c := tch d n
    let mine := c.no == no && c.desc.isSome
    if ok then (if mine then updTch n (fun x => { x with unland := x.unland - 1 }) d else d)
    else if mine ∧ ¬ (c.departed ∧ ¬ c.land) then settle (failCh n st d)
    else lateWrite p (0x8000 + n) 0 d
  | .chRec n bell =>
    if ¬ ok then lateWrite p (0x8000 + n) 0 d
    else if bell = 2 ∧ od d (tcIdx n 0) 6 < 1024 then ringUnit (.half (n / 32)) (od d (tcIdx n 0) 6) d
    else d
  | .mapRd slot => updLan (fun l => { l with
      misses := updWhere (fun m => m.slot == slot) (fun m => { m with ans := some ok }) l.misses }) d
  | .mapWb ln => mapWbEnd p o ok ln d
  | .bell t dseq slot => match (tgt d t).run with
    | some r => if od d (0x2610 + t) 0x0A = dseq ∧ r.slot = slot ∧ r.acted ∧ ¬ r.failed then
        bellResponse t dseq slot (if ok then 0 else 1) d else d
    | none => d
  | .answer => d

/-- INIT_TIMEOUT (R70): the transfer fails and the txid is quarantined. -/
def initTimeout (p txid : Nat) (d : Dev) : Dev :=
  match (port d p).owns txid with
  | none => d
  | some o => deliver p o 3 []
      (cnt (ptIdx p) 7 (updPort p (fun x => let y := x.drop txid; { y with quar := y.quar ++ [txid] }) d))

def execInitTimeout (p txid : Nat) (s : State) : Host.Outcome State Fault Refusal := run (fun d => kickAll (initTimeout p txid d)) s

/-! ### Credits and the link (R46 to R48, R72 to R75) -/

/-- The outbound credits a class must have received (R47). -/
def minCred : YppClass → Nat
  | .req => 2 | .rsp => 2 | .dat => 64 | .msg => 2

def allClasses : List YppClass := [.req, .rsp, .dat, .msg]

/-- CREDIT_RETURN (R46, R48, R75): a credit beyond 2,047 is lost; what waits goes on. -/
def creditReturn (p : Nat) (k : YppClass) (d : Dev) : Dev :=
  if ¬ (port d p).linkUp then d
  else
    let f := fun (x : Port) =>
      let y := { x with cr := x.cr.set k (min 2047 (x.cr.get k + 1)), got := x.got.set k (x.got.get k + 1) }
      { y with
               minMet := y.minMet || allClasses.all (fun c => decide (minCred c ≤ y.got.get c)),
               rspMet := y.rspMet || decide (2 ≤ y.got.rsp) }
    let d1 := updPort p f d
    let d2 := if (port d1 p).minMet ∧ (port d1 p).under then
        put (ptIdx p) 1 1 (updPort p (fun x => { x with under := false }) d1) else d1
    settle (pump p d2)

def execCreditReturn (p : Nat) (cls : YppClass) (s : State) : Host.Outcome State Fault Refusal :=
  run (creditReturn p cls) s

/-- UNDERCREDIT (R75): the minimums are still missing 10 us after link-up. -/
def undercredit (p : Nat) (d : Dev) : Dev :=
  let x := port d p
  if ¬ x.linkUp ∨ x.minMet ∨ x.under then d
  else
    let miss := (allClasses.zipIdx.map (fun c => fld (b2n (decide (x.got.get c.1 < minCred c.1))) c.2 1)).sum
    fault 0 1 (domPort d.cfg p) p miss
      (cnt (ptIdx p) 0x0F (put (ptIdx p) 1 2 (updPort p (fun y => { y with under := true }) d)))

def execUndercredit (p : Nat) (s : State) : Host.Outcome State Fault Refusal := run (undercredit p) s

/-- A link falls (R72 to R74): its credits and flits are gone, what was outstanding fails as in R68, and what waits
in the ingress queue is discarded. -/
def linkDown (p st : Nat) (d : Dev) : Dev :=
  let x := port d p
  let d1 := updPort p (fun y => { Port.reset with
    framing := decide (st = 3), hdrQ := y.hdrQ.filter (·.isReq), nextTxid := y.nextTxid }) d
  let d2 := put (ptIdx p) 1 st d1
  x.outst.foldl (fun y o => deliver p o 2 [] y) d2

/-- A link rises with the inbound credits of R47 granted. -/
def linkUp (p : Nat) (d : Dev) : Dev :=
  if ¬ d.tele.vdd then d
  else settle (pump p (put (ptIdx p) 1 1 (updPort p (fun x => { x with
    linkUp := true, framing := false, iCr := ⟨8, 16, 32, 8⟩ }) d)))

/-- A framing violation (R72): counted, and the link falls for 64 port cycles. -/
def framing (p : Nat) (d : Dev) : Dev := kickAll (linkDown p 3 (cnt (ptIdx p) 9 d))

/-- Credit pulses driven on i_crd for flits taken from the ingress queue and freed (R46). -/
def creditPulse (p : Nat) (k : YppClass) (n : Nat) (d : Dev) : Dev :=
  updPort p (fun x => { x with iPulse := x.iPulse.set k (x.iPulse.get k + n) }) d

/-- An opcode of a class (R50). -/
def opOk (cls : YppClass) (op : Nat) : Bool :=
  match cls with
  | .req => op == 1 || op == 2
  | .msg => op == 4
  | .rsp => op == 8 || op == 9 || op == 10
  | .dat => false

/-- The DAT flits that a response's header announces (R54): those of the READ it answers; for a txid that waits for no
response, none where the header carries no data. -/
def flitsOk (p : Nat) (r : RspHdr) (d : Dev) : Bool :=
  let data := r.op == 8 && decide (r.status ≤ 1)
  match (port d p).owns r.txid with
  | some o => r.flits == (if data && decide (8 < o.len) then datFlits o.addr o.len else 0)
  | none => (data && decide (8 ≤ r.lenM1)) || r.flits == 0

/-- INBOUND_RESPONSE (R46, R68 to R72): its flits use their credits and give them back; a count that disagrees with R54 is
a framing violation; a reserved opcode, or one of another class, is discarded and counted; a response that waits for no
request is discarded. -/
def inboundResponse (p : Nat) (r : RspHdr) (d0 : Dev) : Dev :=
  if ¬ (port d0 p).linkUp then d0
  else if (port d0 p).iCr.rsp = 0 ∨ (0 < r.flits ∧ (port d0 p).iCr.dat = 0) ∨ ¬ flitsOk p r d0 then framing p d0
  else
    let d := creditPulse p .dat r.flits (creditPulse p .rsp 1 d0)
    if ¬ opOk .rsp r.op then cnt (ptIdx p) 0x0A d
    else match (port d p).owns r.txid with
      | none => strayRsp p r.txid d
      | some o =>
        let ok := r.status == 0 && !r.poison
        let d1 := updPort p (fun x => x.drop r.txid) d
        match o.own with
        | .bell t dseq slot => bellResponse t dseq slot (if ok then 0 else 1) d1
        | _ =>
          let d2 := if r.op = 8 ∧ 8 < o.len ∧ r.status ≤ 1 then cntN (ptIdx p) 0x0D o.len d1 else d1
          if ok then deliver p o 0 r.data d2 else deliver p o 2 [] (cnt (ptIdx p) 0x0B d2)

def execInboundResponse (p : Nat) (r : RspHdr) (s : State) : Host.Outcome State Fault Refusal := run (inboundResponse p r) s

/-- FRAMING_VIOLATION (R72). -/
def execFramingViolation (p : Nat) (s : State) : Host.Outcome State Fault Refusal :=
  run (fun d => if (port d p).linkUp then framing p d else d) s

/-- FRAMING_RESTORE (R72): 64 port cycles later. -/
def execFramingRestore (p : Nat) (s : State) : Host.Outcome State Fault Refusal :=
  run (fun d => if (port d p).framing then linkUp p d else d) s

end Sys2Proof.Machine
end

