-- ==== Sys2Proof/Machine/Nand.lean ====
section
/-! DEFINITION. Identification, timing sets and their swaps, training, drift and ZQ
(07_nand_interface.md R281 to R316; 06 R262). -/

namespace Sys2Proof.Machine

/-! ### Identification (R288 to R293) -/

/-- A byte of a per-die string of the channel. -/
def setDieByte (ch sub k v : Nat) (d : Dev) : Dev :=
  putB (chIdx ch 5) sub (patchBytes (getB d (chIdx ch 5) sub) k [BitVec.ofNat 8 v]) d
def dieByte (d : Dev) (ch sub k : Nat) : Nat := ((getB d (chIdx ch 5) sub).getD k 0).toNat

/-- Lantern holds data on a die (R293). -/
def holdsData (d : Dev) (n : Nat) : Bool :=
  d.lan.cap != 0 && d.lan.blk.any (fun x => x.1 / 65536 == n && x.2.vunits != 0)

/-- The geometry that a parameter page gives. -/
def pageGeom (p : ParamPage) : Geom :=
  { spare := p.spare, pages := p.pages, blocks := p.blocksPerLun / max 1 p.planes, planes := p.planes, ifaces := p.ifaces }

/-- A geometry agrees with the reference (R289). -/
def sameGeom (a b : Geom) : Bool := a.planes == b.planes && a.pages == b.pages

/-- The cause of a LUN by the rules of R289 on its target's page; 0 none. -/
def pageCause (ref : Option Geom) (p : ParamPage) : Nat :=
  if p.dataBytes ≠ 16384 ∨ p.spare < 2208 ∨ 4096 < p.spare ∨ 4096 < p.pages ∨ p.planes < 1 ∨ 8 < p.planes ∨
      65536 < p.blocksPerLun / max 1 p.planes ∨ ¬ p.rse ∨ p.unsupported then 4
  else if 2 ^ 40 < 16384 * p.pages * p.blocksPerLun then 5
  else match ref with
    | none => 0
    | some g => if sameGeom g (pageGeom p) then 0 else 6

/-- A channel whose active code for either mode is C takes no die with less spare than it needs (R357). -/
def codeCause (d : Dev) (ch : Nat) (p : ParamPage) : Nat :=
  if (od d (chIdx ch 6) 3 = 2 ∨ od d (chIdx ch 6) 4 = 2) ∧ p.spare < 2432 then 4 else 0

/-- The cause of LUN l of a target by its answers (R288 to R290, R357). -/
def lunCause (d : Dev) (ch : Nat) (a : TargetAnswer) (l : Nat) : Nat :=
  if ¬ a.answers then 1
  else if a.sig = .none then 2
  else match a.page with
    | none => 3
    | some p => if p.luns ≤ l then 1
      else
        let c := if codeCause d ch p ≠ 0 then 4 else pageCause d.geom p
        if c = 0 ∧ ¬ a.rdy.getD l false then 1 else c

/-- A die with a cause (R291, R293): recorded, counted, raised, and FAILED. -/
def idReject (n cause : Nat) (d : Dev) : Dev :=
  let ch := dieCh n
  let k := dieK d.cfg n
  let kept := holdsData d n && dieByte d ch 1 k == 1
  let d1 := setDieByte ch 2 k cause (if kept then d else setDieByte ch 1 k (if cause = 1 then 0 else 2) d)
  let d2 := cnt (0x300E + 0x40 * ch) 6 (fault 1 3 (domCh ch 1) n cause d1)
  if (die d2 n).st = .failed then updDie n (fun x => { x with revive := false, waitRef := false, waitTrain := false }) d2
  else updDie n (fun x => { x with waitRef := false }) (dieDown n d2)

/-- A die with no cause (R291): PRESENT and IDLE; one that a revive identified again waits for its target's training. -/
def idAccept (n : Nat) (d : Dev) : Dev :=
  let ch := dieCh n
  let k := dieK d.cfg n
  let d1 := setDieByte ch 2 k 0 (setDieByte ch 1 k 1 d)
  if (chan d ch).state ≠ 3 ∧ (die d n).st = .failed ∧ trainable d ch then
    updDie n (fun x => { x with waitRef := false, waitTrain := true }) d1
  else updDie n (fun x => { x with st := .idle, waitRef := false, waitTrain := false, revive := false, timeouts := 0 })
    (markFailed n false d1)

/-- The dies of a target that waited for its training are IDLE again (R262, R291). -/
def trainPassed (ch t : Nat) (d : Dev) : Dev :=
  (List.range d.cfg.luns).foldl (fun x l =>
    let n := dieNo ch t l
    if (die x n).waitTrain then
      updDie n (fun y => { y with st := .idle, waitTrain := false, revive := false, timeouts := 0 }) (markFailed n false x)
    else x) d

/-- What the channel's PRESENT dies have in common (R292, R316). -/
def idSummary (ch : Nat) (d : Dev) : Dev :=
  let l := (List.range (diesPerCh d.cfg)).filter (fun k => dieByte d ch 1 k == 1)
  let gs := l.filterMap (fun k => (die d (dieAt d.cfg ch k)).geom)
  let mask := gs.foldl (fun m g => nAnd m g.ifaces) 0x3F
  let spare := gs.foldl (fun m g => if m = 0 then g.spare else min m g.spare) 0
  put (chIdx ch 5) 4 spare (put (chIdx ch 5) 3 (if gs.isEmpty then 1 else mask) d)

/-- One LUN of a target is judged: in the first round a die that passes waits for the reference (R289). -/
def idLun (ch t l : Nat) (a : TargetAnswer) (d : Dev) : Dev :=
  let n := dieNo ch t l
  let c := lunCause d ch a l
  let d1 := match a.page with
    | some p => if c = 0 ∨ c = 6 then updDie n (fun x => { x with geom := some (pageGeom p), lvlSlot := none, trim := false }) d else d
    | none => d
  if c ≠ 0 then idReject n c d1
  else if d1.geom.isNone ∧ (chan d1 ch).firstRound then updDie n (fun x => { x with waitRef := true }) d1
  else
    let d2 := if d1.geom.isNone then { d1 with geom := (die d1 n).geom } else d1
    idAccept n d2

/-- id_param takes the page of the lowest PRESENT die among the answers (R316). -/
def idParam (ch : Nat) (answers : List TargetAnswer) (d : Dev) : Dev :=
  match (List.range (diesPerCh d.cfg)).find? (fun k => dieByte d ch 1 k == 1) with
  | none => d
  | some k => match (answers[k / max 1 d.cfg.luns]?).bind (·.page) with
    | some p => if (chan d ch).idTgts.contains (k / max 1 d.cfg.luns) then putB (chIdx ch 5) 5 p.raw d else d
    | none => d

/-- Identification begins for all targets of a channel (R288): the bus serves nothing until it ends. -/
def startIdent (ch : Nat) (d : Dev) : Dev :=
  let d1 := (List.range (diesPerCh d.cfg)).foldl (fun x k =>
    updDie (dieAt d.cfg ch k) (fun y => { y with st := if y.st = .failed then .failed else .reset, rstDue := false }) x) d
  updChan ch (fun c => { c with idTgts := List.range d.cfg.targets, identified := false, state := 3 }) d1

/-- Its end: the channel serves, and a revived target is trained (R291). -/
def identDone (ch : Nat) (tgts : List Nat) (d : Dev) : Dev :=
  let whole := (chan d ch).state == 3
  let d1 := updChan ch (fun c => { c with idTgts := [], identified := true, state := if c.state = 3 then 1 else c.state }) d
  let d2 := idSummary ch d1
  let d3 := if whole then put 0x2000 5 (setBit (od d2 0x2000 5) ch false) d2
    else tgts.foldl (fun x t => wantTrain ch t x) d2
  kick ch d3

/-- CHANNEL_IDENTIFY (R288): the targets under identification are judged by their answers, in order. -/
def identify (ch : Nat) (answers : List TargetAnswer) (d : Dev) : Dev :=
  let tgts := (chan d ch).idTgts
  if tgts.isEmpty ∨ ¬ chanOn d ch then d
  else
    let none' : TargetAnswer := { answers := false, sig := .none, page := none, rdy := [] }
    let d1 := tgts.foldl (fun x t => (List.range x.cfg.luns).foldl (fun y l =>
      idLun ch t l (answers.getD t none') y) x) d
    identDone ch tgts (idParam ch answers d1)


/-- Some channel of the first round has not ended its identification, or still waits for power. -/
def roundOpen (d : Dev) : Bool :=
  (List.range d.cfg.channels).any (fun ch =>
    let n := domCh ch 1
    ((chan d ch).firstRound && !(chan d ch).idTgts.isEmpty) ||
    d.pwrq.contains n || (dom d n).st == .waking || (dom d n).st == .wakeRetry)

/-- REFERENCE_GEOMETRY_SET (R289): the waiting die of lowest number sets it, and the others are judged by it. -/
def referenceSet (d : Dev) : Dev :=
  if d.geom.isSome ∨ roundOpen d ∨ ¬ (List.range d.cfg.channels).any (fun ch => (chan d ch).firstRound) then d
  else
    let w := (allDies d.cfg).filter (fun n => (die d n).waitRef)
    let d1 := { d with geom := (w.head?).bind (fun n => (die d n).geom) }
    let d2 := w.foldl (fun x n =>
      let ok : Bool := match x.geom, (die x n).geom with
        | some g, some h => sameGeom g h
        | _, _ => false
      if ok then idAccept n x else idReject n 6 x) d1
    let d3 := (List.range d.cfg.channels).foldl (fun x ch =>
      idSummary ch (updChan ch (fun c => { c with firstRound := false }) x)) d2
    (List.range d.cfg.channels).foldl (fun x ch => kick ch x) d3

def execReferenceGeometrySet (s : State) : Host.Outcome State Fault Refusal := run referenceSet s

/-- No entry queued and every die IDLE or FAILED (R268, R293, R296). -/
def chanQuiet (d : Dev) (ch : Nat) : Bool :=
  (chDies d ch ++ (List.range (diesPerCh d.cfg)).map (dieAt d.cfg ch)).all (fun n =>
    (die d n).q.isEmpty && ((die d n).st == .idle || (die d n).st == .failed))

/-- A FAILED die is sent a reset (R262); one failed by identification or training is identified and trained again
with its target (R291); another die is left as it is. -/
def reviveDie (ch k : Nat) (d : Dev) : Dev :=
  let n := dieAt d.cfg ch k
  if (die d n).st ≠ .failed then d
  else if dieByte d ch 2 k ≠ 0 then
    updChan ch (fun c => { c with idTgts := c.idTgts ++ [k / max 1 d.cfg.luns] }) d
  else kick ch (updDie n (fun x => { x with st := .reset, revive := true, rstDue := true }) d)

/-! ### Timing sets (R294 to R297) -/

/-- The defaults of R294 in both sets (R297). -/
def timingReset (ch : Nat) (d : Dev) : Dev :=
  (List.range 16).foldl (fun x i =>
    put (chIdx ch 9) (i + 1) (odDefault x.cfg (ek (chIdx ch 9) (i + 1)))
      (put (chIdx ch 8) (i + 1) (odDefault x.cfg (ek (chIdx ch 8) (i + 1))) x))
    (putBit (chIdx ch 0x0A) 2 1 false (updChan ch (fun c => { c with armed := false }) d))

/-- The rates of an interface (R281, R282, R285). -/
def rateOk (d : Dev) (ch i rate : Nat) : Bool :=
  let top := if i = 4 then (if od d (chIdx ch 5) 6 = 1 then 4800 else 3600) else
    [50, 200, 800, 1600, 3600, 3200].getD i 0
  decide ([10, 40, 66, 66, 66, 66].getD i 0 ≤ rate) && decide (rate ≤ top) && decide (rate ≤ d.cfg.rate)

/-- The checks of R296 on the shadow set, as far as its fields are in range already. -/
def armOk (d : Dev) (ch : Nat) : Bool :=
  let i := shadowTs d ch 1
  decide (i ≤ 5) && bit (od d (chIdx ch 5) 3) i && rateOk d ch i (shadowTs d ch 2)

/-- ts_status (R316). -/
def tsStatus (d : Dev) (ch : Nat) : Nat :=
  let v := od d (chIdx ch 0x0A) 2
  let a := (chan d ch).armed
  fld (bits v 3 2) 3 2 + fld (b2n (a && modeChange d ch)) 2 1 + fld (bits v 1 1) 1 1 + b2n a

/-- Arming (R296): once armed, an arm changes nothing. -/
def armSwap (ch : Nat) (d : Dev) : Dev :=
  if (chan d ch).armed then d else kick ch (updChan ch (fun c => { c with armed := true }) d)

/-- The shadow set is latched into the active one (R299, R300): a shadow write of the same cycle stays for the next
swap and keeps SHADOW_DIRTY. -/
def latchSet (ch : Nat) (sw : Option ShadowWrite) (d : Dev) : Dev :=
  let idx := chIdx ch 0x0A
  let forced := (chan d ch).forced
  let d1 := (List.range 16).foldl (fun x i => put (chIdx ch 9) (i + 1) (shadowTs d ch (i + 1)) x) d
  let d2 := putBit idx 2 4 false (putBit idx 2 3 forced (cnt idx 3 (updChan ch (fun c => { c with armed := false, forced := false }) d1)))
  let d3 := if forced then cnt idx 4 d2 else d2
  match sw with
  | none => putBit idx 2 1 false d3
  | some w => if 1 ≤ w.sub ∧ w.sub ≤ 16 then putBit idx 2 1 true (put (chIdx ch 8) w.sub w.v d3) else putBit idx 2 1 false d3

/-- A quiet boundary (R298): no burst in progress and none that starts, or a hold that keeps them from starting. -/
def quietBoundary (d : Dev) (ch : Nat) : Bool :=
  (chan d ch).bus.isNone && isOn d (domCh ch 0) &&
  ((chan d ch).state == 2 || (chan d ch).held || !busFree d ch || (pickBurst d ch).isNone)

/-- TIMING_SWAP (R299): an armed timing-only swap at a quiet boundary. -/
def execTimingSwap (ch : Nat) (shadowWrite : Option ShadowWrite) (s : State) : Host.Outcome State Fault Refusal :=
  run (fun d =>
    if ch < d.cfg.channels ∧ (chan d ch).armed ∧ ¬ modeChange d ch ∧ quietBoundary d ch then
      kick ch (updChan ch (fun c => { c with state := if c.state = 2 then 1 else c.state }) (latchSet ch shadowWrite d))
    else d) s

/-- A LUN whose Set Features failed in a swap (R303): FAILED with cause TRAINING; its lowest eye is not measured, so
the fault's fl_b is a free value. -/
def swapFailed (ch k : Nat) (d : Dev) : Dev :=
  let n := dieAt d.cfg ch k
  if ¬ present d n then d
  else
    let f := freeVal (setDieByte ch 2 k 7 d)
    dieDown n (fault 1 4 (domCh ch 1) (dieNo ch (dieTgt n) 0) f.1.toNat f.2)

/-- MODE_CHANGE_SWAP (R302): Set Features, the latch and ZQ are done; the channel holds until its targets are
trained. -/
def modeSwap (ch : Nat) (r : SwapResult) (d : Dev) : Dev :=
  let d1 := r.failed.foldl (fun x k => swapFailed ch k x) d
  let d2 := latchSet ch r.shadow d1
  let tg := (List.range d.cfg.targets).filter (fun t => (trainDie d2 ch t).isSome)
  let d3 := tg.foldl (fun x t => wantTrain ch t x) d2
  kick ch (updChan ch (fun c => { c with state := if c.trainWait.isEmpty then 1 else 2 }) d3)

def execModeChangeSwap (ch : Nat) (r : SwapResult) (s : State) : Host.Outcome State Fault Refusal :=
  run (fun d =>
    if ch < d.cfg.channels ∧ (chan d ch).armed ∧ modeChange d ch ∧ quietBoundary d ch then modeSwap ch r d else d) s

/-- SWAP_HOLD_TIMEOUT (R301): no quiet boundary for 100 us; no new burst starts. -/
def execSwapHoldTimeout (ch : Nat) (s : State) : Host.Outcome State Fault Refusal :=
  run (fun d => if ((chan d ch).armed ∨ (chan d ch).zqNew.isSome) ∧ (chan d ch).state = 1 then
      updChan ch (fun c => { c with state := 2, forced := c.armed }) d else d) s

/-- SWAP_MISS (R301): the burst in progress outlasts the hold. -/
def execSwapMiss (ch : Nat) (s : State) : Host.Outcome State Fault Refusal :=
  run (fun d => if ((chan d ch).armed ∨ (chan d ch).zqNew.isSome) ∧ (chan d ch).state = 2 ∧ (chan d ch).bus.isSome then
      let d1 := updChan ch (fun c => { c with state := 1, forced := false }) d
      if (chan d ch).armed then cnt (chIdx ch 0x0A) 5 (putBit (chIdx ch 0x0A) 2 4 true d1) else d1
    else d) s

/-! ### Training (R304 to R311) -/

/-- A target's training record (R310). -/
def trRec (d : Dev) (ch t : Nat) : Bytes := tabGet (zeros 48) (chan d ch).trains t
def putTrRec (ch t : Nat) (b : Bytes) (d : Dev) : Dev :=
  updChan ch (fun c => { c with trains := tabSet (zeros 48) c.trains t b }) d

/-- The smaller of the smallest read and write eyes. -/
def eyeOf (r : TrainResult) : Nat := min r.rdEye r.wrEye

/-- The judgement of R307: 1 PASS, 2 MARGINAL, 3 FAIL. -/
def trainJudge (d : Dev) (ch : Nat) (r : TrainResult) : Nat :=
  let m := od d (chIdx ch 0x0B) 4
  if ¬ r.lanesOk then 3
  else if m ≤ eyeOf r ∧ ¬ r.vrefEnd then 1
  else if m / 2 ≤ eyeOf r then 2
  else 3

/-- The highest estimate of a target's dies. -/
def tgtTemp (d : Dev) (ch t : Nat) : Int :=
  ((List.range d.cfg.luns).map (fun l => dieC d (dieNo ch t l))).foldl max (dieC d (dieNo ch t 0))

/-- A record with new placements (R304, R310): delays have 10 bits. -/
def newRec (d : Dev) (ch t st : Nat) (r : TrainResult) : Bytes :=
  leBytes 1 st ++ leBytes 1 (satTo r.rdEye 255) ++ leBytes 1 (satTo r.wrEye 255) ++ leBytes 1 r.vref ++
  leBytes 2 (r.gate % 1024) ++ leBytes 2 (r.wl % 1024) ++
  (List.range 8).flatMap (fun i => leBytes 2 (r.rdDly.getD i 0 % 1024)) ++
  (List.range 8).flatMap (fun i => leBytes 2 (r.wrDly.getD i 0 % 1024)) ++
  leBytes 4 (nowS d) ++ leBytes 1 (ofInt (tgtTemp d ch t) 8) ++ leBytes 1 0 ++ leBytes 2 0

/-- The training entry of a target, with its die. -/
def trainEnt (d : Dev) (ch t : Nat) : Option (Nat × BEnt) :=
  (List.range d.cfg.luns).findSome? (fun l =>
    let n := dieNo ch t l
    ((die d n).q.find? (fun e => e.own == .train)).map (fun e => (n, e)))

/-- A target's training holds the bus (R309). -/
def trainRuns (d : Dev) (ch t : Nat) : Bool :=
  match (chan d ch).bus with
  | some (.train k) => k / max 1 d.cfg.luns == t
  | _ => false

/-- The bus is free again after a training, its time counted (R253, R279). -/
def trainFrees (ch : Nat) (d : Dev) : Dev :=
  cntN (chIdx ch 4) 0x0F (d.up - (chan d ch).busT0) (updChan ch (fun c => { c with bus := none }) (seqStop ch d))

/-- A second FAIL (R307): a LUN of the target is FAILED with cause TRAINING. -/
def trainFailed (n : Nat) (d : Dev) : Dev :=
  let d1 := setDieByte (dieCh n) 2 (dieK d.cfg n) 7 (updDie n (fun x => { x with waitTrain := false }) d)
  if (die d n).st = .failed then d1 else dieDown n d1

/-- A training ends: its entry leaves, and a mode change's hold ends with the last one (R302). -/
def trainEnd (ch t n s : Nat) (d : Dev) : Dev :=
  let d1 := dropEnt n s (updChan ch (fun c => { c with
    trainWait := c.trainWait.filter (· ≠ t), trainTry := c.trainTry.filter (· ≠ t) }) d)
  kick ch (updChan ch (fun c => { c with
    state := if c.state = 2 ∧ ¬ c.armed ∧ c.trainWait.isEmpty then 1 else c.state }) d1)

/-- TRAINING (R307): the result is judged; a FAIL is repeated once. -/
def training (ch t : Nat) (r : TrainResult) (d : Dev) : Dev :=
  match trainEnt d ch t with
  | none => d
  | some (n, e) =>
    if ¬ trainRuns d ch t then d
    else
      let d0 := trainFrees ch d
      let idx := 0x300E + 0x40 * ch
      let j := trainJudge d0 ch r
      let d1 := cnt idx 2 d0
      let d2 := if j = 1 then d1 else cnt idx 5 d1
      if j ≠ 3 then
        trainEnd ch t n e.qseq (updChan ch (fun c => { c with doutCnt := tabSet 0 c.doutCnt t 0 })
          (trainPassed ch t (putTrRec ch t (newRec d2 ch t j r) d2)))
      else if ¬ (chan d2 ch).trainTry.contains t then
        kick ch (updEnt n e.qseq (fun y => { y with est := 0 }) (updChan ch (fun c => { c with trainTry := c.trainTry ++ [t] }) d2))
      else
        let d3 := putTrRec ch t (patchBytes (trRec d2 ch t) 0 [3]) d2
        let ls := (List.range d.cfg.luns).filter (fun l => idPresent d3 (dieNo ch t l))
        let d4 := fault 1 4 (domCh ch 1) (dieNo ch t 0) (eyeOf r) d3
        trainEnd ch t n e.qseq (ls.foldl (fun x l => trainFailed (dieNo ch t l) x) d4)

def execTraining (ch tgt : Nat) (r : TrainResult) (s : State) : Host.Outcome State Fault Refusal :=
  run (fun d => if ch < d.cfg.channels ∧ tgt < d.cfg.targets then training ch tgt r d else d) s

/-- Bits written to train_req (R308): each names a target to retrain. -/
def trainReq (ch v : Nat) (d : Dev) : Dev :=
  kick ch ((List.range d.cfg.targets).foldl (fun x t => if bit v t then wantTrain ch t x else x) d)

/-- train_state (R308). -/
def trainWord (d : Dev) (ch : Nat) : Nat := ((chan d ch).trainWait.map (fun t => 2 ^ t)).sum

/-- RETRAIN_AGE (R308). -/
def execRetrainAge (ch tgt : Nat) (s : State) : Host.Outcome State Fault Refusal :=
  run (fun d => if ch < d.cfg.channels ∧ tgt < d.cfg.targets ∧ od d (chIdx ch 0x0B) 2 ≠ 0 ∧ trainState d ch tgt ≠ 0 then
      kick ch (wantTrain ch tgt d) else d) s

/-- MARGINAL_RETRAIN (R307): 10 s after a MARGINAL result. -/
def execMarginalRetrain (ch tgt : Nat) (s : State) : Host.Outcome State Fault Refusal :=
  run (fun d => if ch < d.cfg.channels ∧ tgt < d.cfg.targets ∧ trainState d ch tgt = 2 then
      kick ch (wantTrain ch tgt d) else d) s

/-! ### Drift and ZQ (R312, R314) -/

/-- A 10-bit delay moved by one step, inside its range. -/
def moveDly (v : Nat) (up : Bool) : Nat := if up then min 1023 (v + 1) else v - 1

/-- The record after one tracking step (R312): the gate and the read lanes move, the drift is noted. -/
def driftRec (b : Bytes) (up : Bool) : Bytes :=
  let mv := fun (x : Bytes) (o : Nat) => patchBytes x o (leBytes 2 (moveDly (leAt x o 2) up))
  let b1 := (List.range 8).foldl (fun x i => mv x (8 + 2 * i)) (mv b 4)
  let dr := sext (leAt b 45 1) 8 + (if up then 1 else -1)
  patchBytes b1 45 (leBytes 1 (ofInt dr 8))

/-- DRIFT_TRACK (R312): after 64 data-outs, one step toward a centre more than one step away; at the limit tracking
stops and a retrain is asked for. -/
def driftTrack (ch t : Nat) (centre : Int) (d : Dev) : Dev :=
  let b := trRec d ch t
  let lim := od d (chIdx ch 0x0B) 5
  let drift := fun (x : Bytes) => (sext (leAt x 45 1) 8).natAbs
  if trainState d ch t = 0 ∨ tabGet 0 (chan d ch).doutCnt t < 64 then d
  else
    let d1 := updChan ch (fun c => { c with doutCnt := tabSet 0 c.doutCnt t 0 }) d
    if centre.natAbs ≤ 1 ∨ lim ≤ drift b then d1
    else
      let b1 := driftRec b (decide (0 < centre))
      let d2 := putTrRec ch t b1 d1
      if lim ≤ drift b1 then kick ch (wantTrain ch t (cnt (0x300E + 0x40 * ch) 3 d2)) else d2

def execDriftTrack (ch tgt : Nat) (centre : Int) (s : State) : Host.Outcome State Fault Refusal :=
  run (fun d => if ch < d.cfg.channels ∧ tgt < d.cfg.targets then driftTrack ch tgt centre d else d) s

/-- ZQ_CALIBRATION (R314): a code at an end of its range is counted and not applied. -/
def execZqCalibration (ch code : Nat) (atEnd : Bool) (s : State) : Host.Outcome State Fault Refusal :=
  run (fun d => if ¬ (ch < d.cfg.channels ∧ isOn d (domCh ch 0)) then d
    else if atEnd then cnt (0x300E + 0x40 * ch) 4 d
    else kick ch (updChan ch (fun c => { c with zqNew := some code }) d)) s

/-- ZQ_CODE_APPLY (R314): at a quiet boundary. -/
def execZqCodeApply (ch : Nat) (s : State) : Host.Outcome State Fault Refusal :=
  run (fun d => match (chan d ch).zqNew with
    | some c => if quietBoundary d ch then
        kick ch (put (chIdx ch 0x0D) 2 c (updChan ch (fun x => { x with
          zqNew := none, state := if x.state = 2 ∧ ¬ x.armed ∧ x.trainWait.isEmpty then 1 else x.state }) d)) else d
    | none => d) s

end Sys2Proof.Machine
end

