-- ==== Sys2Proof/Machine/Ucode.lean ====
section
/-! DEFINITION. The sequencer's microcode: one word's register operation, bus operation, timer, event mask, report and
next address; safe points, events and microcode faults (08_microcode.md R317 to R334). -/

namespace Sys2Proof.Machine

/-! ### Words (R318) -/

/-- The word that 144 bits spell, its check bits and reserved bits apart. -/
def uword (v : Nat) : UWord :=
  { nx := BitVec.ofNat 3 (bits v 132 3), nxa := BitVec.ofNat 12 (bits v 120 12), cc := BitVec.ofNat 6 (bits v 114 6),
    ccn := bit v 113, sp := bit v 112, dsel := BitVec.ofNat 3 (bits v 109 3), bop := BitVec.ofNat 4 (bits v 105 4),
    bimm := BitVec.ofNat 8 (bits v 97 8), bsrc := BitVec.ofNat 4 (bits v 93 4), aop := BitVec.ofNat 4 (bits v 89 4),
    ra := BitVec.ofNat 4 (bits v 85 4), rb := BitVec.ofNat 4 (bits v 81 4), imm := BitVec.ofNat 32 (bits v 49 32),
    emv := BitVec.ofNat 8 (bits v 41 8), emw := bit v 40, tsel := BitVec.ofNat 4 (bits v 36 4),
    top := BitVec.ofNat 2 (bits v 34 2), post := BitVec.ofNat 4 (bits v 30 4) }

/-- No field holds a reserved value (R318, R321, R322, R328). -/
def uwordOk (w : UWord) : Bool :=
  w.nx != 7 && decide (w.cc.toNat ≤ 15) && decide (w.bop.toNat ≤ 10) && decide (w.aop.toNat ≤ 12) &&
  decide (w.emv.toNat < 16) && decide (w.tsel.toNat ≤ 5) && decide (w.post.toNat ≤ 4)

/-- The word stores to no hardware field that is not defined: such a word is refused as a Locket is parsed (R322). -/
def stfOk (w : UWord) : Bool := w.aop != 12 || Config.hwFieldOk w.imm

/-! ### Operand forms (R318, R322) -/

/-- The byte of a bus operation: the low byte of g0 to g14, or bimm. -/
def busByte (s : Seq) (w : UWord) : Byte := if w.bsrc = 15 then w.bimm else (s.reg w.bsrc).setWidth 8

/-- What a register operation leaves: the value for g[rb] if it writes one, and the flags ZERO, NEG and CARRY if it sets
them. The spec gives no CARRY but an addition's; `k` is its free value (log 9). -/
structure AluOut where
  v : Option (BitVec 32)
  fl : Option (Bool × Bool × Bool)
  deriving DecidableEq, Repr

/-- A result with its flags. -/
def aluFlags (wr : Bool) (r : BitVec 32) (c : Bool) : AluOut :=
  { v := if wr then some r else none, fl := some (decide (r = 0), r.getLsbD 31, c) }

/-- The register operations of R322: `a` is g[ra], `i` the immediate, `h` what LDF reads. -/
def alu (op : Nat) (a i h : BitVec 32) (k : Bool) : AluOut :=
  match op with
  | 1 => aluFlags true i k
  | 2 => { v := some a, fl := none }
  | 3 => aluFlags true (a + i) (decide (2 ^ 32 ≤ a.toNat + i.toNat))
  | 4 => aluFlags true (a - i) k
  | 5 => aluFlags true (a &&& i) k
  | 6 => aluFlags true (a ||| i) k
  | 7 => aluFlags true (a ^^^ i) k
  | 8 => aluFlags true (a <<< (i.toNat % 32)) k
  | 9 => aluFlags true (a >>> (i.toNat % 32)) k
  | 10 => aluFlags false (a - i) k
  | 11 => { v := some h, fl := none }
  | _ => { v := none, fl := none }

/-- The register operation of a word: registers, flags, and the hardware field of STF. -/
def regOp (ch : Nat) (w : UWord) (k : Bool) (s : Seq) : Seq :=
  let a := s.reg w.ra
  let o := alu w.aop.toNat a w.imm (Config.hwField ch w.imm s.ldfs) k
  let s1 := match o.v with
    | some v => s.setReg w.rb v
    | none => s
  let s2 := match o.fl with
    | some (z, n, c) => { s1 with zf := z, nf := n, cf := c }
    | none => s1
  if w.aop = 11 then { s2 with ldfs := s2.ldfs + 1 }
  else if w.aop = 12 then { s2 with fields := tabSet 0 s2.fields w.imm.toNat a }
  else s2

/-- The register operation leaves CARRY to a free value. -/
def carryFree (w : UWord) : Bool := [1, 4, 5, 6, 7, 8, 9, 10].contains w.aop.toNat

/-- The bus operation of a word as the sequencer's own state shows it: the cycle, the byte driven, the target and LUN
selected, a byte read. -/
def busOp (w : UWord) (e : UEnv) (s : Seq) : Seq :=
  let s1 := if w.bop = 0 then s else { s with cycle := w.bop.toNat }
  match w.bop.toNat with
  | 1 => { s1 with dq := busByte s w }
  | 2 => { s1 with dq := busByte s w }
  | 5 => s1.setReg 0 (e.stat.setWidth 32)
  | 6 => { s1 with ce := some (((s.reg w.ra).toNat / 16) % 16, (s.reg w.ra).toNat % 16) }
  | 7 => { s1 with ce := none }
  | 8 => { s1 with dq := busByte s w }
  | 9 => s1.setReg w.rb (e.data.setWidth 32)
  | _ => s1

/-- The channel's line rate in MT/s (R287). -/
def lineRate (d : Dev) (ch : Nat) : Nat := if activeTs d ch 1 ≤ 1 then 400 else max 400 (activeTs d ch 2)

/-- A time in ns as the PHY keeps it: whole periods of its clock, at half the line rate, rounded up (R13, R294). -/
def phyTime (rate ns : Nat) : Nat := cdiv (cdiv (ns * rate) 2000 * 2000) rate

/-- The timing-set parameter of a word (R318): places of twhr, tadl, trhw, tccs, twb and tcs in the set (R294). -/
def timingParam (d : Dev) (ch : Nat) (w : UWord) : Nat :=
  phyTime (lineRate d ch) (activeTs d ch ([4, 5, 6, 7, 8, 9].getD w.tsel.toNat 4))

/-- The timer operation of a word. -/
def timerOp (d : Dev) (ch : Nat) (w : UWord) (s : Seq) : Seq :=
  match w.top.toNat with
  | 1 => { s with timer := some (timingParam d ch w) }
  | 2 => { s with timer := some w.imm.toNat }
  | 3 => { s with timer := none }
  | _ => s

/-- The bus operations that move data through the PHY (R322): a data-in drives g9 bytes of SB from g6. -/
def streamOp (ch : Nat) (w : UWord) (d : Dev) : Dev :=
  if w.bop = 3 then
    let s := seq d ch
    let f := sbFetch (.cu ch) (64 * (s.reg 6).toNat) (s.reg 9).toNat d
    updChan ch (fun c => { c with driven := f.1 }) f.2.2
  else d

/-! ### Conditions (R322) -/

/-- A die's bit of susp_dies. -/
def suspDie (d : Dev) (ch k : Nat) : Bool := bit ((getB d (chIdx ch 2) 3).getD (k / 8) 0).toNat (k % 8)

/-- A condition with its inversion. -/
def condOf (d : Dev) (ch : Nat) (b : Burst) (w : UWord) (e : UEnv) (s : Seq) : Bool :=
  let en := burstEnt d ch b
  let v : Bool := match w.cc.toNat with
    | 0 => true
    | 1 => s.zf
    | 2 => s.nf
    | 3 => s.cf
    | 4 => e.rb
    | 5 => (s.reg 0).getLsbD 6
    | 6 => (s.reg 0).getLsbD 0
    | 7 => e.timer
    | 8 => e.xfer
    | 9 => e.dqs
    | 10 => e.rawRoom
    | 11 => s.epend &&& s.emask != 0
    | 12 => (en.map (·.slc)).getD false
    | 13 => (en.map (·.cache)).getD false
    | 14 => suspDie d ch (burstDie b)
    | _ => decide (1 < activeTs d ch 1)
  v != w.ccn

/-! ### Next address, safe points and events (R321 to R328) -/

/-- Where a word goes: the next address with the stack and mask it leaves, the end of the burst, or a fault of R331. -/
inductive Flow where
  | go (pc : BitVec 12) (stack : List (BitVec 12 × Byte)) (emask : Byte)
  | fin
  | bad (cause : Nat)
  deriving DecidableEq, Repr

/-- The next-address modes of R321. -/
def flowOf (w : UWord) (cond : Bool) (s : Seq) : Flow :=
  let nxt := s.pc + 1
  match w.nx.toNat with
  | 1 => .go (if cond then w.nxa else nxt) s.stack s.emask
  | 2 => if s.stack.length < 8 then .go w.nxa ((nxt, s.emask) :: s.stack) s.emask else .bad 1
  | 3 => (match s.stack with
    | (a, m) :: t => .go a t m
    | [] => .bad 2)
  | 4 => (match dispTarget s w.dsel.toNat ((s.reg w.ra).toNat % 64) with
    | some a => .go a s.stack s.emask
    | none => .bad 5)
  | 5 => .go (if cond then nxt else s.pc) s.stack s.emask
  | 6 => .fin
  | _ => .go nxt s.stack s.emask

/-- A WAIT word whose condition does not hold. -/
def waiting (w : UWord) (cond : Bool) : Bool := w.nx == 5 && !cond

/-- A word is a safe point (R327). -/
def safePoint (w : UWord) (cond : Bool) : Bool := w.sp || waiting w cond

/-- The event a safe point takes: the enabled pending one of lowest bit (R328). -/
def eventOf (pend mask : Byte) : Option Nat := (List.range 4).find? (fun i => (pend &&& mask).getLsbD i)

/-- The event is taken in place of the next address (R323, R328). -/
def takeEvent (i : Nat) (s : Seq) : Flow → Flow
  | .go a st m =>
    if 8 ≤ st.length then .bad 1
    else match dispTarget s 1 i with
      | some h => .go h ((a, m) :: st) 0
      | none => .bad 5
  | f => f

/-- Sequencer cycles of a word (R320). -/
def wordCycles (w : UWord) (e : UEnv) : Nat := if w.bop = 0 then 1 else max 1 e.hold

/-! ### Microcode faults (R330 to R332) -/

/-- The fault record (R331). -/
def mcRecord (d : Dev) (ch cause : Nat) (s : Seq) : Bytes :=
  let st := s.stack.reverse.map (·.1.toNat)
  leBytes 8 d.ts ++ leBytes 1 ch ++ leBytes 1 cause ++ leBytes 2 s.pc.toNat ++ leBytes 1 s.stack.length ++
  [s.emask, s.epend] ++ leBytes 1 s.burst ++
  (List.range 8).flatMap (fun i => leBytes 2 (st.getD i 0)) ++
  (List.range 16).flatMap (fun i => leBytes 4 (s.reg (BitVec.ofNat 4 i)).toNat)

/-- An entry issued on a die of the stopped target is handled as an expiry of its kind (R330 step 4). -/
def mcExpire (n : Nat) (e : BEnt) (d : Dev) : Dev :=
  match e.own with
  | .temp => cnt 0x2807 2 (dropEnt n e.qseq
      { d with therm := { d.therm with queued := d.therm.queued.filter (· ≠ n) } })
  | .raw => rawEnd 0 2 (dropEnt n e.qseq d)
  | _ => if e.op = 0 then readExpired n e d else if e.op = 1 then progExpired n e.qseq d
    else if e.op = 2 then eraseExpired n e.qseq d else dropEnt n e.qseq d

/-- A LUN of the stopped target is sent its reset and its issued entries end; nothing counts toward fail_limit. -/
def mcResetDie (n : Nat) (d : Dev) : Dev :=
  let x := die d n
  if x.st = .failed ∨ x.st = .off then d
  else
    let es := x.q.filter (fun e => decide (3 ≤ e.est))
    let d1 := endMulti n (cntN (chIdx (dieCh n) 4) 4 es.length (updDie n (fun y => { y with
      st := .reset, rstDue := true, statusDue := false, outLeft := [], inLeft := [], cacheRdy := false, lvlSlot := none,
      trim := false, prevStatus := none, cur := none, prev := none, suspReq := false, resumeDue := false,
      dqsMiss := false }) d))
    es.foldl (fun y e => mcExpire n e y) d1

/-- A run of faults returns a patched block to the ROM image (R332). -/
def mcFallback (d : Dev) : Dev :=
  if od d 0x6000 2 ≠ 1 then d
  else
    let t := d.up :: d.loader.faults.filter (fun x => d.up - x < 1000000000)
    let d1 := { d with loader := { d.loader with faults := t } }
    if t.length < od d 0x6000 6 then d1
    else
      let d2 := (List.range d.cfg.channels).foldl (fun x ch => updSeq ch (fun s => { s with leave := true, install := false }) x)
        (put 0x6000 2 2 { d1 with loader := { d1.loader with faults := [] } })
      fault 4 2 0xFFFF t.length (od d 0x6000 0x0C) d2

/-- A microcode fault stops the routine (R330): record, fault, recovery of the target's LUNs, and service again. -/
def mcFault (ch cause : Nat) (b : Burst) (d : Dev) : Dev :=
  let s := seq d ch
  let t := burstDie b / max 1 d.cfg.luns
  let d1 := cnt 0x6000 7 { d with loader := { d.loader with mcRec := mcRecord d ch cause s } }
  let d2 := mcFallback (fault 3 cause (domCh ch 1) s.pc.toNat s.burst d1)
  let d3 := updSeq ch (fun s => { s with
    running := false, badStart := false, stack := [], epend := 0, gap := 0, ce := none, lib := [] }) d2
  let d4 := updChan ch (fun c => { c with bus := none }) d3
  let d5 := (List.range d.cfg.luns).foldl (fun x l => mcResetDie (dieNo ch t l) x) d4
  kickAll (afterBurst d5)

/-- BUS_BURST_END (R253): a burst that started through an invalid entry has never run and raises DISPATCH (R324). -/
def execBusBurstEnd (ch : Nat) (r : BurstResult) (s : State) : Host.Outcome State Fault Refusal :=
  run (fun d => if ch < d.cfg.channels then
      match (chan d ch).bus with
      | some b => if (seq d ch).badStart then mcFault ch 5 b d else burstEnd ch r d
      | none => d
    else d) s

/-! ### One word (R319, R320) -/

/-- The patch RAM address that a fetch takes its word from, if any (R317, R335). -/
def ramAddr (s : Seq) : Option Nat :=
  let a := s.pc.toNat
  match s.regions.find? (fun r => decide (r.1 ≤ a) && decide (a < r.1 + r.2.1)) with
  | some r => some (r.2.2 + (a - r.1))
  | none => if 0xC00 ≤ a then some a else none

/-- The stored word at the program address: the ROM image's, or the one that a Locket wrote; a word of patch RAM that no
Locket wrote is the environment's (log 10). -/
def storedWord (s : Seq) : Option Nat :=
  match ramAddr s with
  | some a => (s.ram.find? (fun x => x.1 == a)).map (·.2)
  | none => some (Config.rom s.pc).toNat

/-- The word's effect up to its next address. -/
def wordBody (ch : Nat) (w : UWord) (e : UEnv) (d : Dev) : Dev :=
  let f : BitVec 32 × Dev := if carryFree w then freeVal d else (0, d)
  let d1 := updSeq ch (regOp ch w (f.1.getLsbD 0)) f.2
  let d2 := updSeq ch (busOp w e) (streamOp ch w d1)
  let d3 := updSeq ch (timerOp d2 ch w) d2
  updSeq ch (fun s => { s with
    emask := if w.emw then w.emv else s.emask,
    posts := if w.post = 0 then s.posts else s.posts ++ [w.post.toNat] }) d3

/-! ### The routine library (R327, R333) -/

/-- The most entries a library routine adds to its caller's depth, and its edge in cycles (R333). -/
def libStack (r : Nat) : Nat := [1, 1, 1, 2, 2, 1, 2, 2, 2, 1, 3, 1].getD r 1
def libEdge (r : Nat) : Nat := [8, 8, 24, 16, 16, 12, 12, 24, 24, 8, 24, 4].getD r 8

/-- The registers a library routine keeps. -/
def libRegs (s : Seq) : List (BitVec 32) := [4, 5, 6, 7, 12, 13, 14, 15].map s.reg

/-- The library routine whose vector stands at an address. -/
def libAt (a : BitVec 12) : Option Nat := if 0x010 ≤ a.toNat ∧ a.toNat ≤ 0x01B then some (a.toNat - 0x010) else none

/-- The library calls after a word: cycles counted to the next safe point, one entered by a CALL of its vector, one left
by its RET; an event handler, and a word of a patch, free those open from the contract. -/
def libNext (w : UWord) (e : UEnv) (sp ev : Bool) (s : Seq) : List LibCall :=
  let l := s.lib.map (fun c => { c with
    run := if sp then 0 else c.run + wordCycles w e, safe := c.safe || sp, waived := c.waived || ev || (ramAddr s).isSome })
  match w.nx.toNat with
  | 2 => (match libAt w.nxa with
    | some r => { routine := r, depth := s.stack.length + 1, keep := libRegs s, g0 := s.reg 0, g8 := s.reg 8,
                  posts := s.posts.length, run := 0, safe := false, waived := ev } :: l
    | none => l)
  | 3 => (match l with
    | c :: t => if c.depth = s.stack.length then t else l
    | [] => l)
  | _ => l

/-- What a library routine's return has to show (R333): the kept registers, its edge, and its outputs so far as the
sequencer's own state shows them. -/
def libReturns (c : LibCall) (w : UWord) (e : UEnv) (s : Seq) : Bool :=
  libRegs s == c.keep && decide (c.run + wordCycles w e ≤ libEdge c.routine) &&
  (match c.routine with
    | 0 => s.ce == some ((c.g0.toNat / 16) % 16, c.g0.toNat % 16)
    | 4 => (s.reg 0).getLsbD 9 == e.dqs
    | 6 => (s.reg 0).getLsbD 31 || (s.reg 0).getLsbD 6
    | 0x0B => decide (c.posts < s.posts.length) && s.posts.getLast? == some (c.g8.toNat % 16)
    | _ => true)

/-- A word of the ROM image keeps what the spec says of the image: a vector is a jump (R333), the innermost open library
routine keeps its contract, and a span of ROM words lasts at most 192 cycles (R327). `s0` is the sequencer before the
word, `s` after its effect. -/
def romKeeps (w : UWord) (e : UEnv) (sp : Bool) (s0 s : Seq) : Bool :=
  (match libAt s0.pc with
    | some _ => w.nx == 1 && w.cc == 0 && !w.ccn
    | none => true) &&
  (sp || s0.patched || decide (s0.gap + wordCycles w e ≤ 192)) &&
  (match s0.lib with
    | [] => true
    | c :: _ => c.waived ||
      ((c.safe || sp || decide (c.run + wordCycles w e ≤ libEdge c.routine)) &&
       (w.nx != 2 || decide (s0.stack.length + 2 ≤ c.depth + libStack c.routine)) &&
       (w.nx != 3 || s0.stack.length != c.depth || libReturns c w e s)))

/-- A word's next address, or the event taken in its place, or a fault. `pend` holds the events pending as the word
began. -/
def wordNext (ch : Nat) (b : Burst) (w : UWord) (e : UEnv) (pend : Byte) (d : Dev) : Dev :=
  let s := seq d ch
  let c := condOf d ch b w e s
  let sp := safePoint w c
  let ev : Option Nat := if sp ∧ w.nx ≠ 6 then eventOf pend s.emask else none
  let fl := match ev with
    | some i => takeEvent i s (flowOf w c s)
    | none => flowOf w c s
  let gap := if sp then 0 else s.gap + wordCycles w e
  let d1 := if od d 0x6000 0x0D < gap then put 0x6000 0x0D (min gap 256) d else d
  match fl with
  | .go a st m => updSeq ch (fun s => { s with
      pc := a, stack := st, emask := m, gap := gap, patched := !sp && (s.patched || (ramAddr s).isSome),
      lib := libNext w e sp ev.isSome s,
      epend := (match ev with
        | some i => s.epend &&& ~~~(1#8 <<< i)
        | none => s.epend) ||| e.events &&& 0x0F }) d1
  | .fin => updSeq ch (fun s => { s with running := false, stack := [], epend := 0, gap := 0, lib := [] }) d1
  | .bad cause => mcFault ch cause b d1

/-- One word: its error state, the limit between safe points, then its effect. -/
def wordRun (ch : Nat) (b : Burst) (w : UWord) (e : UEnv) (d : Dev) : Dev :=
  let s := seq d ch
  let inRam := (ramAddr s).isSome
  let mark := fun (x : Dev) => updSeq ch (fun s => { s with
    rewrite := match ramAddr s with
      | some a => if s.rewrite.contains a then s.rewrite else s.rewrite ++ [a]
      | none => s.rewrite }) x
  if inRam ∧ e.ecc = .double then mcFault ch 4 b (mark d)
  else
    let d0 := if inRam ∧ e.ecc = .single then cnt 0x6000 0x0B (mark d) else d
    let c0 := condOf d0 ch b w e (seq (wordBody ch w e d0) ch)
    if ¬ safePoint w c0 ∧ 256 ≤ s.gap + wordCycles w e then mcFault ch 3 b (put 0x6000 0x0D 256 d0)
    else wordNext ch b w e s.epend (wordBody ch w e d0)

/-- The word may be the one at the program address: it has no reserved field, it is the one that the ROM image or a Locket
holds there, and a word of the image does what the spec says of the image. -/
def wordFits (d : Dev) (ch : Nat) (b : Burst) (w : UWord) (e : UEnv) : Bool :=
  let s0 := seq d ch
  let inRam := (ramAddr s0).isSome
  let d1 := wordBody ch w e d
  uwordOk w && (match storedWord s0 with
    | some v => (inRam && e.ecc == .double) || uword v == w
    | none => true) &&
  (inRam || romKeeps w e (safePoint w (condOf d1 ch b w e (seq d1 ch))) s0 (seq d1 ch))

/-- A microcode word of a channel's routine (R317 to R328); a channel that runs no routine runs no word. -/
def ucWord (ch : Nat) (w : UWord) (e : UEnv) (d : Dev) : Dev :=
  match (chan d ch).bus with
  | none => d
  | some b =>
    if ¬ (ch < d.cfg.channels ∧ chanOn d ch) then d
    else if (seq d ch).badStart then mcFault ch 5 b d
    else if (seq d ch).running ∧ wordFits d ch b w e then wordRun ch b w e d
    else d

/-! ### The commands: each runs one word, whose field is the command's (R318, R321, R322) -/

/-- NEXT (R321). -/
def execNext (ch : Nat) (w : UWord) (e : UEnv) (s : State) : Host.Outcome State Fault Refusal :=
  run (ucWord ch { w with nx := 0 } e) s

/-- BRANCH (R321). -/
def execBranch (ch : Nat) (w : UWord) (e : UEnv) (s : State) : Host.Outcome State Fault Refusal :=
  run (ucWord ch { w with nx := 1 } e) s

/-- CALL (R321, R323). -/
def execCall (ch : Nat) (w : UWord) (e : UEnv) (s : State) : Host.Outcome State Fault Refusal :=
  run (ucWord ch { w with nx := 2 } e) s

/-- RET (R321, R323). -/
def execRet (ch : Nat) (w : UWord) (e : UEnv) (s : State) : Host.Outcome State Fault Refusal :=
  run (ucWord ch { w with nx := 3 } e) s

/-- DISPATCH (R321, R324). -/
def execDispatch (ch : Nat) (w : UWord) (e : UEnv) (s : State) : Host.Outcome State Fault Refusal :=
  run (ucWord ch { w with nx := 4 } e) s

/-- WAIT (R321, R327). -/
def execWait (ch : Nat) (w : UWord) (e : UEnv) (s : State) : Host.Outcome State Fault Refusal :=
  run (ucWord ch { w with nx := 5 } e) s

/-- END (R321). -/
def execEndWord (ch : Nat) (w : UWord) (e : UEnv) (s : State) : Host.Outcome State Fault Refusal :=
  run (ucWord ch { w with nx := 6 } e) s

/-- CMD (R322). -/
def execCmd (ch : Nat) (w : UWord) (e : UEnv) (s : State) : Host.Outcome State Fault Refusal :=
  run (ucWord ch { w with bop := 1 } e) s

/-- ADDR (R322). -/
def execAddr (ch : Nat) (w : UWord) (e : UEnv) (s : State) : Host.Outcome State Fault Refusal :=
  run (ucWord ch { w with bop := 2 } e) s

/-- DIN (R322). -/
def execDin (ch : Nat) (w : UWord) (e : UEnv) (s : State) : Host.Outcome State Fault Refusal :=
  run (ucWord ch { w with bop := 3 } e) s

/-- DOUT (R322). -/
def execDout (ch : Nat) (w : UWord) (e : UEnv) (s : State) : Host.Outcome State Fault Refusal :=
  run (ucWord ch { w with bop := 4 } e) s

/-- STAT (R322). -/
def execStat (ch : Nat) (w : UWord) (e : UEnv) (s : State) : Host.Outcome State Fault Refusal :=
  run (ucWord ch { w with bop := 5 } e) s

/-- CEON (R322). -/
def execCeon (ch : Nat) (w : UWord) (e : UEnv) (s : State) : Host.Outcome State Fault Refusal :=
  run (ucWord ch { w with bop := 6 } e) s

/-- CEOFF (R322). -/
def execCeoff (ch : Nat) (w : UWord) (e : UEnv) (s : State) : Host.Outcome State Fault Refusal :=
  run (ucWord ch { w with bop := 7 } e) s

/-- DBO (R322). -/
def execDbo (ch : Nat) (w : UWord) (e : UEnv) (s : State) : Host.Outcome State Fault Refusal :=
  run (ucWord ch { w with bop := 8 } e) s

/-- DBI (R322). -/
def execDbi (ch : Nat) (w : UWord) (e : UEnv) (s : State) : Host.Outcome State Fault Refusal :=
  run (ucWord ch { w with bop := 9 } e) s

/-- TRAIN (R322). -/
def execTrain (ch : Nat) (w : UWord) (e : UEnv) (s : State) : Host.Outcome State Fault Refusal :=
  run (ucWord ch { w with bop := 10 } e) s

/-- MOVI (R322). -/
def execMovi (ch : Nat) (w : UWord) (e : UEnv) (s : State) : Host.Outcome State Fault Refusal :=
  run (ucWord ch { w with aop := 1 } e) s

/-- MOV (R322). -/
def execMov (ch : Nat) (w : UWord) (e : UEnv) (s : State) : Host.Outcome State Fault Refusal :=
  run (ucWord ch { w with aop := 2 } e) s

/-- ADD (R322). -/
def execAdd (ch : Nat) (w : UWord) (e : UEnv) (s : State) : Host.Outcome State Fault Refusal :=
  run (ucWord ch { w with aop := 3 } e) s

/-- SUB (R322). -/
def execSub (ch : Nat) (w : UWord) (e : UEnv) (s : State) : Host.Outcome State Fault Refusal :=
  run (ucWord ch { w with aop := 4 } e) s

/-- AND (R322). -/
def execAnd (ch : Nat) (w : UWord) (e : UEnv) (s : State) : Host.Outcome State Fault Refusal :=
  run (ucWord ch { w with aop := 5 } e) s

/-- OR (R322). -/
def execOr (ch : Nat) (w : UWord) (e : UEnv) (s : State) : Host.Outcome State Fault Refusal :=
  run (ucWord ch { w with aop := 6 } e) s

/-- XOR (R322). -/
def execXor (ch : Nat) (w : UWord) (e : UEnv) (s : State) : Host.Outcome State Fault Refusal :=
  run (ucWord ch { w with aop := 7 } e) s

/-- SHL (R322). -/
def execShl (ch : Nat) (w : UWord) (e : UEnv) (s : State) : Host.Outcome State Fault Refusal :=
  run (ucWord ch { w with aop := 8 } e) s

/-- SHR (R322). -/
def execShr (ch : Nat) (w : UWord) (e : UEnv) (s : State) : Host.Outcome State Fault Refusal :=
  run (ucWord ch { w with aop := 9 } e) s

/-- CMP (R322). -/
def execCmp (ch : Nat) (w : UWord) (e : UEnv) (s : State) : Host.Outcome State Fault Refusal :=
  run (ucWord ch { w with aop := 10 } e) s

/-- LDF (R322). -/
def execLdf (ch : Nat) (w : UWord) (e : UEnv) (s : State) : Host.Outcome State Fault Refusal :=
  run (ucWord ch { w with aop := 11 } e) s

/-- STF (R322). -/
def execStf (ch : Nat) (w : UWord) (e : UEnv) (s : State) : Host.Outcome State Fault Refusal :=
  run (ucWord ch { w with aop := 12 } e) s

/-- TIMER_LOAD (R318). -/
def execTimerLoad (ch : Nat) (w : UWord) (e : UEnv) (s : State) : Host.Outcome State Fault Refusal :=
  run (ucWord ch { w with top := 1 } e) s

/-- TIMER_LOAD_IMM (R318). -/
def execTimerLoadImm (ch : Nat) (w : UWord) (e : UEnv) (s : State) : Host.Outcome State Fault Refusal :=
  run (ucWord ch { w with top := 2 } e) s

/-- TIMER_STOP (R318). -/
def execTimerStop (ch : Nat) (w : UWord) (e : UEnv) (s : State) : Host.Outcome State Fault Refusal :=
  run (ucWord ch { w with top := 3 } e) s

end Sys2Proof.Machine
end

