-- ==== Sys2Proof/Machine/Locket.lean ====
section
/-! DEFINITION. The Locket loader: the container's checks, the key port, the records, the copy and its installation
(08_microcode.md R335 to R346; 02 R97, R98). -/

namespace Sys2Proof.Machine

/-! ### Records (R339, R340) -/

/-- A record of the plaintext. -/
structure LktRec where
  typ : Nat
  rsv : Nat
  count : Nat
  addr : Nat
  param : Nat
  data : Bytes
  deriving DecidableEq, Repr

/-- The records of a plaintext, up to one that is cut short. -/
def lktRecs : Nat → Bytes → List LktRec × Bytes
  | 0, bs => ([], bs)
  | n + 1, bs =>
    if bs.length < 8 then ([], bs)
    else
      let typ := leAt bs 0 1
      let c := leAt bs 2 2
      let len := if typ = 1 then 18 * c else 0
      if bs.length < 8 + len then ([], bs)
      else
        let r : LktRec :=
          { typ := typ, rsv := leAt bs 1 1, count := c, addr := leAt bs 4 2, param := leAt bs 6 2,
            data := (bs.drop 8).take len }
        if typ = 0x0F then ([r], bs.drop 8)
        else
          let x := lktRecs n (bs.drop (8 + len))
          (r :: x.1, x.2)

/-- The words of a WORDS record. -/
def recWords (r : LktRec) : List Nat := (List.range r.count).map (fun i => leAt r.data (18 * i) 18)

/-- A record's own form (step 11). -/
def recOk (r : LktRec) : Bool :=
  r.rsv == 0 && (match r.typ with
    | 1 => decide (1 ≤ r.count) && decide (r.count ≤ 1024) && r.param == 0 &&
        (recWords r).all (fun w => uwordOk (uword w) && stfOk (uword w) && bits w 0 30 == 0 && bits w 135 9 == 0)
    | 2 => true
    | 3 => r.count == 0 && bits r.param 12 3 == 0 && r.addr / 256 != 2 && r.addr / 256 != 3
    | 0x0F => r.addr == 0 && r.param == 0
    | _ => false)

/-- Step 11: known types, every record whole and in form, END last with the number of records before it. -/
def recsOk (rs : List LktRec) (rest : Bytes) : Bool :=
  rest.isEmpty && rs.all recOk && (rs.dropLast).all (fun r => r.typ != 0x0F) &&
  (match rs.getLast? with
    | some r => r.typ == 0x0F && r.count + 1 == rs.length
    | none => false)

/-- The regions of the records as (number, rom_base, len, ram_base). -/
def recRegions (rs : List LktRec) : List (Nat × Nat × Nat × Nat) :=
  (rs.filter (fun r => r.typ == 2)).map (fun r => (r.param / 4096, r.addr, r.count, r.param % 4096))

/-- The words of the records by address. -/
def recStore (rs : List LktRec) : List (Nat × Nat) :=
  (rs.filter (fun r => r.typ == 1)).flatMap (fun r => (recWords r).zipIdx.map (fun x => (r.addr + x.2, x.1)))

/-- The dispatch entries of the records. -/
def recDisp (rs : List LktRec) : List (Nat × Nat) :=
  (rs.filter (fun r => r.typ == 3)).map (fun r => (64 * (r.addr / 256) + r.addr % 256, r.param))

/-- Step 12: addresses by R335, tables within 0 to 7, indices below 64. -/
def recRange (r : LktRec) : Bool :=
  match r.typ with
  | 1 => decide (0xC00 ≤ r.addr) && decide (r.addr + r.count ≤ 0x1000)
  | 2 => decide (0x20 ≤ r.addr) && decide (r.addr ≤ 0xBFF) && decide (1 ≤ r.count) && decide (r.count ≤ 256) &&
      decide (0xC00 ≤ r.param % 4096) && decide (r.param % 4096 + r.count ≤ 0x1000)
  | 3 => decide (r.addr / 256 ≤ 7) && decide (r.addr % 256 < 64)
  | _ => true

/-- Two ranges of addresses do not meet. -/
def apart (a n b m : Nat) : Bool := decide (a + n ≤ b) || decide (b + m ≤ a)

/-- Step 13: no two regions overlap in ROM or in patch RAM (R336). -/
def regionsApart : List (Nat × Nat × Nat × Nat) → Bool
  | [] => true
  | r :: rs => rs.all (fun q => apart r.2.1 r.2.2.1 q.2.1 q.2.2.1 && apart r.2.2.2 r.2.2.1 q.2.2.2 q.2.2.1) && regionsApart rs

/-! ### The copy (R342, R343) -/

/-- Later entries by the same key go over earlier ones. -/
def overlay {α : Type} (l : List (Nat × α)) : List (Nat × α) :=
  l.foldl (fun a x => a.filter (fun y => y.1 ≠ x.1) ++ [x]) []

/-- Everything accepted so far. -/
def copyWords (d : Dev) : List (Nat × Nat) := overlay (d.loader.copy.flatMap (·.words))
def copyRegions (d : Dev) : List (Nat × Nat × Nat × Nat) := overlay (d.loader.copy.flatMap (·.regions))
def copyDisp (d : Dev) : List (Nat × Nat) := overlay (d.loader.copy.flatMap (·.disp))

/-- The region table entry (R346). -/
def regionTab (d : Dev) : Bytes :=
  (List.range 16).flatMap (fun k => match (copyRegions d).find? (fun r => r.1 == k) with
    | some r => leBytes 2 r.2.1 ++ leBytes 2 r.2.2.1 ++ leBytes 2 r.2.2.2 ++ leBytes 2 1
    | none => zeros 8)

/-- The entries that show the copy. -/
def showCopy (d : Dev) : Dev :=
  let sl := fun (i : Nat) (f : LktSlot → Nat) => ((d.loader.copy[i]?).map f).getD 0
  let d1 := (List.range 4).foldl (fun x i => put 0x6003 (i + 1) (sl i (·.sig)) (put 0x6002 (i + 1) (sl i (·.level)) x)) d
  putB 0x6000 9 (regionTab d) (put 0x6001 6 d.loader.copy.length (put 0x6000 5 (copyRegions d).length
    (put 0x6000 4 (1024 - (copyWords d).length) d1)))

/-- A channel's control store takes the whole copy (R341, R343). -/
def seqInstall (ch : Nat) (d : Dev) : Dev :=
  let d1 := updSeq ch (fun s => { s with
    ram := (copyWords d).foldl (fun t x => tabSet 0 t x.1 x.2) [],
    regions := (copyRegions d).map (·.2), disp := copyDisp d, install := false, leave := false, rewrite := [] }) d
  put 0x6000 2 1 (putBit 0x6000 0x0C ch true d1)

/-- A channel leaves its patches (R332, R344). -/
def seqLeave (ch : Nat) (d : Dev) : Dev :=
  putBit 0x6000 0x0C ch false (updSeq ch (fun s => { s with
    ram := [], regions := [], disp := [], leave := false, install := false, rewrite := [] }) d)

/-- A channel whose sequencer enters ON is loaded before its first burst (R343); not after a fallback (R332). -/
def seqOn (ch : Nat) (d : Dev) : Dev :=
  if d.loader.copy.isEmpty ∨ od d 0x6000 2 = 2 then d else seqInstall ch d

/-! ### A load (R340) -/

/-- The end of a load: image and key words are cleared (R98, R340). -/
def lktEnd (d : Dev) : Dev :=
  putB 0x6001 1 [] { d with loader := { d.loader with busy := false, req := false, words := [] } }

/-- The patch_level of the image. -/
def lktLevel (d : Dev) : Nat := leAt (getB d 0x6001 1) 16 4

/-- A load fails with a cause. -/
def lktFail (cause : Nat) (d : Dev) : Dev :=
  lktEnd (cnt 0x6001 7 (fault 4 1 0xFFFF cause (lktLevel d) (put 0x6001 3 3 (put 0x6001 4 cause d))))

/-- The first of steps 1 to 5 to fail, by its cause; 0 none. -/
def hdrCause (d : Dev) : Nat :=
  let b := getB d 0x6001 1
  let p := leAt b 20 4
  let ver := od d 0x1000 1
  if leAt b 0 4 ≠ 0x544B434C ∨ leAt b 4 2 ≠ 1 ∨ leAt b 6 2 ≠ 256 ∨ leAt b 10 2 ≠ 0 ∨ leAt b 36 12 ≠ 0 then 1
  else if p < 8 ∨ 32768 < p ∨ b.length ≠ 256 + p then 2
  else if leAt b 8 1 ≠ ver / 65536 ∨ ver / 256 % 256 < leAt b 9 1 then 3
  else if leAt b 12 4 ≠ od d 0x6000 1 then 4
  else if leAt b 16 4 < od d 0x6001 5 then 5
  else 0

/-- The next key-port word is asked for once lk_ack is low (R97). -/
def keyNext (d : Dev) : Dev :=
  if d.loader.busy ∧ ¬ d.loader.req ∧ ¬ d.loader.ackHigh then
    { d with loader := { d.loader with req := true, idx := d.loader.words.length } }
  else d

/-- LKT_LOAD (R340): steps 1 to 5, then the hash words are fetched. -/
def lktStart (d : Dev) : Dev :=
  let d1 := put 0x6001 3 1 { d with loader := { d.loader with busy := true, sel := 1, words := [] } }
  let c := hdrCause d1
  if c ≠ 0 then lktFail c d1 else keyNext d1

/-- The bytes of key-port words (R338). -/
def keyBytes (l : List (BitVec 64)) : Bytes := l.flatMap (fun w => leBytes 8 w.toNat)

/-- Steps 7 and 8: the first to fail, by its cause; 0 none. -/
def sigCause (b : Bytes) (hash : Bytes) : Nat :=
  let pk := (b.drop 64).take 96
  if sha384 pk ≠ hash then 7
  else if ecdsaOk (beNat (pk.take 48)) (beNat (pk.drop 48)) (beNat ((b.drop 160).take 48)) (beNat ((b.drop 208).take 48))
      (b.take 160 ++ b.drop 256) then 0
  else 8

/-- Steps 11 to 13 on the records: the first to fail, by its cause; 0 none. A fifth Locket fails with RANGE (R342). -/
def recCause (d : Dev) (rs : List LktRec) (rest : Bytes) : Nat :=
  if ¬ recsOk rs rest then 10
  else if ¬ rs.all recRange ∨ 4 ≤ d.loader.copy.length then 11
  else if ¬ regionsApart (recRegions rs ++ d.loader.copy.flatMap (·.regions)) then 12
  else 0

/-- A Locket is accepted (R341): it is to be installed on every channel whose sequencer is in ON. -/
def lktAccept (rs : List LktRec) (d : Dev) : Dev :=
  let b := getB d 0x6001 1
  let sl : LktSlot :=
    { level := leAt b 16 4, sig := leAt b 160 4, words := overlay (recStore rs),
      regions := recRegions rs, disp := overlay (recDisp rs) }
  let d1 := showCopy { d with loader := { d.loader with copy := d.loader.copy ++ [sl] } }
  let d2 := (List.range d.cfg.channels).foldl (fun x ch =>
    if isOn x (domCh ch 1) then updSeq ch (fun s => { s with install := true }) x else x) d1
  kickAll (lktEnd (put 0x6001 3 2 d2))

/-- Steps 10 to 13, with the key at hand. -/
def lktOpen (key : Bytes) (d : Dev) : Dev :=
  let b := getB d 0x6001 1
  match gcmOpen key ((b.drop 24).take 12) (b.take 48) ((b.drop 48).take 16) (b.drop 256) with
  | none => lktFail 9 d
  | some p =>
    let x := lktRecs p.length p
    let c := recCause d x.1 x.2
    if c ≠ 0 then lktFail c d else lktAccept x.1 d

/-- A key-port word is latched and lk_req lowered (R97); the last of its kind lets the load go on. -/
def keyWord (w : BitVec 64) (d : Dev) : Dev :=
  let ws := d.loader.words ++ [w]
  let d1 := { d with loader := { d.loader with words := ws } }
  if d.loader.sel = 1 then
    if ws.length < 6 then d1
    else
      let c := sigCause (getB d 0x6001 1) (keyBytes ws)
      if c ≠ 0 then lktFail c d1 else { d1 with loader := { d1.loader with sel := 0, words := [] } }
  else if ws.length < 4 then d1
  else lktOpen (keyBytes ws) d1

/-- KEY_WORD_ACK (R97, R98). -/
def execKeyWordAck (data : BitVec 64) (err : Bool) (s : State) : Host.Outcome State Fault Refusal :=
  run (fun d =>
    if ¬ d.loader.req ∨ d.loader.ackHigh then d
    else
      let d1 := { d with loader := { d.loader with req := false, ackHigh := true } }
      let d2 := if err then cnt 0x2902 6 d1 else d1
      if ¬ d.loader.busy then d2 else if err then lktFail 6 d2 else keyWord data d2) s

/-- KEY_WORD_TIMEOUT (R98). -/
def execKeyWordTimeout (s : State) : Host.Outcome State Fault Refusal :=
  run (fun d => if d.loader.busy ∧ d.loader.req then lktFail 6 (cnt 0x2902 6 d) else d) s

/-- LK_ACK_FALL (R97): the next word may be asked for. -/
def execLkAckFall (s : State) : Host.Outcome State Fault Refusal :=
  run (fun d => if d.loader.ackHigh then keyNext { d with loader := { d.loader with ackHigh := false } } else d) s

/-! ### At a channel's quiet boundary (R319, R332, R341) -/

/-- LOCKET_INSTALL (R341): words, regions and dispatch entries take effect together. -/
def execLocketInstall (ch : Nat) (s : State) : Host.Outcome State Fault Refusal :=
  run (fun d => if ch < d.cfg.channels ∧ (seq d ch).install ∧ quietBoundary d ch then kick ch (seqInstall ch d) else d) s

/-- PATCH_REMOVE (R332, R344). -/
def execPatchRemove (ch : Nat) (s : State) : Host.Outcome State Fault Refusal :=
  run (fun d => if ch < d.cfg.channels ∧ (seq d ch).leave ∧ quietBoundary d ch then kick ch (seqLeave ch d) else d) s

/-- PATCH_WORD_REWRITE (R319): the stored word is written again from the loader's copy. -/
def execPatchWordRewrite (ch : Nat) (s : State) : Host.Outcome State Fault Refusal :=
  run (fun d => if ch < d.cfg.channels ∧ quietBoundary d ch then
      match (seq d ch).rewrite with
      | a :: rest =>
        let w := ((copyWords d).find? (fun x => x.1 == a)).map (·.2)
        kick ch (updSeq ch (fun s => { s with
          rewrite := rest, ram := match w with
            | some v => tabSet 0 s.ram a v
            | none => s.ram }) d)
      | [] => d
    else d) s

/-- MC_REVERT (R344): the slots are emptied and every channel leaves its patches. -/
def mcRevert (d : Dev) : Dev :=
  let d1 := showCopy { d with loader := { d.loader with copy := [], faults := [] } }
  kickAll (put 0x6000 2 0 ((List.range d.cfg.channels).foldl (fun x ch =>
    updSeq ch (fun s => { s with leave := true, install := false }) x) d1))

end Sys2Proof.Machine
end

