-- ==== Sys2Proof/Machine/Flush.lean ====
section
/-! DEFINITION. The emergency flush (11_clasp_commit_power_loss.md R426 to R432). -/

namespace Sys2Proof.Machine

/-! ### Budget and scope (R426, R429) -/

/-- The effective budget during a flush: 0 when no budget was ever valid. -/
def flushBudget (d : Dev) : Nat :=
  if d.tele.ever then od d 0x2401 4 - od d 0x2401 2 * ((d.up - d.tele.takenAt) / 1000000) else 0

/-- Journal sectors that records fill. -/
def tailSectors (n : Nat) : Nat := max 1 (cdiv n 127)

/-- The units of the journal tail, the headers and the index, with a number of accumulator units. -/
def tailUnits (d : Dev) (accs : Nat) : Nat :=
  2 * cdiv (tailSectors d.clasp.jbuf.length) 4 + (flushDies d).length + 2 * idxUnits accs

/-- The open rows with an accumulator. -/
def openAccs (d : Dev) : List (Band × Row) :=
  (openBands d).flatMap (fun b => (b.rows.filter (fun r => r.par != .passed)).map (fun r => (b, r)))

/-- The scope of R429: 0 journal tail, 1 with accumulators, 2 with salvage. -/
def flushScope (d : Dev) : Nat :=
  let a := (openAccs d).length * planes d
  let e := flushBudget d
  if flushPrice d ≤ e ∧ od d 0x2400 0x0A = 1 then 2
  else if unitsPrice d (tailUnits d a + a) ≤ e then 1
  else 0

/-! ### What is written (R430, R431) -/

/-- A header for each flush die; its layout is the model's (log 55). -/
def headerItems (d : Dev) (scope : Nat) : List FItem :=
  let ep := od d 0x2404 5
  let data := leBytes 4 ep ++ leBytes 4 scope ++ leBytes 8 (d.clasp.jsn + 1)
  (flushDies d).map (fun n =>
    { cls := 0, cws := [.sector (metaQw (ep % 2 ^ 32) 4 0 3 0) data], need := 1, fixed := some n, done := [],
      failed := [], acc := 0 })

/-- SB bytes that the flush reads; none where a word is uncorrectable (R486). -/
def flushRead (u : NUnit) (a n : Nat) (d : Dev) : Option Bytes × Dev :=
  let f := sbFetch u a n d
  (if f.2.1.isEmpty then some f.1 else none, f.2.2)

/-- Several of them: all or none. -/
def flushReads (u : NUnit) (l : List (Nat × Nat)) (d : Dev) : Option (List Bytes) × Dev :=
  l.foldl (fun a x =>
    let r := flushRead u x.1 x.2 a.2
    (a.1.bind (fun y => r.1.map (fun b => y ++ [b])), r.2)) (some [], d)

/-- Each open row's accumulator, a unit for each plane, with what its FLUSH_ACC record names (R409). A unit with an
uncorrectable entry is not written, and nothing names it (log 84). -/
def accItems (d : Dev) : List FItem × Dev :=
  ((openAccs d).flatMap (fun x => (List.range (planes d)).map (fun p => (x, p)))).foldl (fun a y =>
    let r := flushReads (.cu (dieCh (member y.1.1 (parPos d y.1.1)).1)) ((List.range 4).map (fun s => (accAt y.1.2 y.2 s, 4128))) a.2
    match r.1 with
    | none => (a.1, r.2)
    | some bs =>
      let it : FItem :=
        { cls := 2, cws := bs.map CwSrc.whole, need := 1, fixed := none, done := [], failed := [],
          acc := fld y.1.1.set 0 16 + fld y.1.1.bidx 16 16 + fld y.1.2.row 32 12 + fld y.2 44 3 }
      (a.1 ++ [it], r.2)) ([], d)

/-- A later command has written, trimmed or copied onto the granule (R38, R431). -/
def overtaken (d : Dev) (w : WJob) : Bool :=
  d.cmds.any (fun c => decide (w.no < c.2.no) && c.2.writes &&
    (granRange d (writeRange c.2).1 c.2.nsec).any (fun g => g.idx == w.gran))

/-- A member of an open group is lost with its group (R414). -/
def inOpenGroup (d : Dev) (w : WJob) : Bool := ((w.tag.bind (cmd? d)).bind (·.grp)).isSome

/-- Every sector of the granule has landed. -/
def wholeLanded (w : WJob) : Bool := (List.range w.nsec).all (fun i => bit w.landed i || bit w.bad i)

/-- A granule that salvage takes (R431). -/
def salvageable (d : Dev) (w : WJob) : Bool :=
  w.reloc.isNone && !w.dead && wholeLanded w && !jobPassed w && !overtaken d w && !inOpenGroup d w

/-- The units of the granules salvaged; a granule not placed yet takes its sequence number here. One with an
uncorrectable word in its copy is left out (log 84). -/
def salvageItems (d : Dev) : List FItem × Dev :=
  (d.lan.wjobs.filter (salvageable d)).foldl (fun a0 w =>
    let chk := flushReads .lantern (((List.range w.nsec).filter (fun i => !bit w.bad i)).map (fun i => (w.sb.getD i 0, 4096))) a0.2
    let a := (a0.1, chk.2)
    if chk.1.isNone then a else
    let x := if w.pieces.isEmpty then updLan (fun l => { l with wseq := (l.wseq + 1) % 2 ^ 48 }) a.2 else a.2
    let w1 := if w.pieces.isEmpty then { w with wseq := x.lan.wseq, gen := nextGen a.2 w } else w
    let cws := (List.range (2 ^ w.key.glog)).map (fun i => CwSrc.whole (jobPayload x w1 i))
    (a.1 ++ (chunks 4 (cws.length + 1) cws).map (fun c =>
      { cls := 3, cws := c, need := 1, fixed := none, done := [], failed := [], acc := 0 }), x)) ([], d)

/-- Journal sectors as flush units in two copies (R430). -/
def tailItems (cls : Nat) (l : List CwSrc) : List FItem :=
  (chunks 4 (l.length + 1) l).map (fun c =>
    { cls := cls, cws := c, need := 2, fixed := none, done := [], failed := [], acc := 0 })

/-! ### The start (R427, R428 steps 1 to 5) -/

/-- Erasing dies get a LUN reset (step 3). -/
def flushResetDie (n : Nat) (d : Dev) : Dev :=
  let x := die d n
  if x.st = .erase ∨ x.st = .suspending ∨ x.st = .suspended then
    endMulti n (updDie n (fun y => { y with
      st := .reset, rstDue := true, cur := none, prev := none, statusDue := false, outLeft := [], suspReq := false,
      resumeDue := false, lvlSlot := none, trim := false, q := y.q.filter (fun e => decide (e.est < 3)) }) d)
  else d

/-- Entries that have not been issued are discarded, but for commits in flight (step 1). -/
def flushDiscard (n : Nat) (d : Dev) : Dev :=
  updDie n (fun x => { x with
    q := x.q.filter (fun e => decide (3 ≤ e.est) || (match e.own with
      | .clasp c _ _ => c != 0
      | _ => false)) }) d

/-- A flush may start: the service state is SERVICE or TEST and none runs or has run (R427, R432). -/
def mayFlush (d : Dev) : Bool :=
  (od d 0x2000 1 == 1 || od d 0x2000 1 == 2) && d.clasp.flush.isNone && od d 0x2400 1 != 4

/-- The flush starts. -/
def flushStart (d : Dev) : Dev :=
  let sc := flushScope d
  let sv : List FItem × Dev := if sc = 2 then salvageItems d else ([], d)
  let ac : List FItem × Dev := if 1 ≤ sc then accItems sv.2 else ([], sv.2)
  let its := headerItems d sc ++ ac.1 ++ sv.1
  let d1 := cntN 0x2403 6 (2 - sc) (cnt 0x2403 5 (put 0x2400 1 3 ac.2))
  let d2 := (allDies d.cfg).foldl (fun x n => flushResetDie n (flushDiscard n x)) d1
  let d3 := updClasp (fun c => { c with
    flush := some { items := its, stage := 0, room := [], recs := [], scope := sc, ended := false },
    ckptTrig := false, ckpt := none }) d2
  (List.range d.cfg.channels).foldl (fun x ch => kick ch x) (claspFeed d3)

/-- EMERGENCY_FLUSH (R427): on the latched warning. -/
def execEmergencyFlush (s : State) : Host.Outcome State Fault Refusal :=
  run (fun d => if d.tele.pf ∧ mayFlush d then flushStart d else d) s

/-! ### The waves (R428 steps 6 and 7, R430) -/

/-- Page units a die's flush blocks hold. -/
def flushRoom (d : Dev) (n : Nat) : Nat := (sysDie d n).flushB.length * pagesOf d

/-- Page units of a die used so far. -/
def flushUsed (f : Flush) (n : Nat) : Nat := tabGet 0 f.room n

/-- A die may take a unit: not one that holds or failed it, for a second copy one of another channel. -/
def mayTake (d : Dev) (f : Flush) (n : Nat) (i : FItem) : Bool :=
  present d n && decide (flushUsed f n < flushRoom d n) && (match i.fixed with
    | some m => m == n
    | none => true) && !i.done.contains n && !i.failed.contains n && i.done.all (fun m => dieCh m != dieCh n)

/-- Step 2 has ended on every die: no program runs and every commit in flight is written. -/
def programsEnded (d : Dev) : Bool :=
  d.clasp.commits.all (fun c => c.units.all (fun u => u.copies.all (fun k => k.passed || !k.queued || !present d k.die))) &&
  (allDies d.cfg).all (fun n => (die d n).st != .prog && !((die d n).q.any (fun e => e.op == 1 && decide (3 ≤ e.est))))

/-- Units that no die can take are not written (R430). -/
def dropStuck (d : Dev) : Dev :=
  match d.clasp.flush with
  | none => d
  | some f =>
    let stuck := f.items.filter (fun i => !((flushDies d).any (fun n => mayTake d f n i)))
    cntN 0x2403 6 stuck.length (updClasp (fun c => { c with
      flush := some { f with items := f.items.filter (fun i => !stuck.contains i) } }) d)

/-- The journal tail is known once step 2 has ended: every record that waits, in sectors that go on from the journal. -/
def flushTail (f : Flush) (d : Dev) : Dev :=
  let l := jSectors d (d.clasp.jsn + 1) 2 d.clasp.jbuf
  put 0x2404 3 (d.clasp.jsn + l.length) (updClasp (fun c => { c with
    jsn := c.jsn + l.length, jbuf := [],
    flush := some { f with stage := 1, items := f.items ++ tailItems 1 l } }) d)

/-- The index follows everything else. -/
def flushIndex (f : Flush) (d : Dev) : Dev :=
  let l := jSectors d (d.clasp.jsn + 1) 2 f.recs
  put 0x2404 3 (d.clasp.jsn + l.length) (updClasp (fun c => { c with
    jsn := c.jsn + l.length, flush := some { f with stage := 2, items := tailItems 4 l } }) d)

/-- The flush goes to its next stage when it can. -/
def flushAdvance (d : Dev) : Dev :=
  let d1 := dropStuck d
  match d1.clasp.flush with
  | none => d1
  | some f =>
    if f.stage = 0 ∧ programsEnded d1 then dropStuck (flushTail f d1)
    else if f.stage = 1 ∧ f.items.isEmpty then dropStuck (flushIndex f d1)
    else d1

/-- The order in which a die takes what is left: header, journal tail, accumulators, salvage, index (R428). -/
def flushNext (d : Dev) (f : Flush) (n : Nat) : Option FItem :=
  [0, 1, 2, 3, 4].findSome? (fun c => f.items.find? (fun i => i.cls == c && mayTake d f n i))

/-- The place of a die's next flush unit. -/
def flushPlace (d : Dev) (f : Flush) (n : Nat) : Nat :=
  let u := flushUsed f n
  let b := (sysDie d n).flushB.getD (u / max 1 (pagesOf d)) (0, 0)
  mkAddr n b.2 b.1 (u % max 1 (pagesOf d)) 0

/-- The unit's bytes go to the pins (R358, R402). -/
def flushDrive (d : Dev) (n at_ : Nat) (i : FItem) : Dev :=
  let go := i.cws.foldl (fun (a : Bytes × Dev) s =>
    let q := claspPayload s a.2
    (a.1 ++ encodeCw a.2 0 at_ q.1, q.2)) ([], d)
  updChan (dieCh n) (fun c => { c with driven := go.1 }) go.2

/-- FLUSH_WAVE (R428, R430): a die whose own operations have ended programs its next unit. -/
def flushWave (n : Nat) (ok : Bool) (d0 : Dev) : Dev :=
  let d := flushAdvance d0
  match d.clasp.flush with
  | none => d
  | some f =>
    if ¬ dieInCfg d.cfg n ∨ ¬ supplies d ∨ (die d n).st ≠ .idle ∨ (die d n).cur.isSome then d
    else match flushNext d f n with
      | none => d
      | some i =>
        let at_ := flushPlace d f n
        let d1 := flushDrive d n at_ i
        let i1 := if ok then { i with done := i.done ++ [n] } else { i with failed := i.failed ++ [n] }
        let keep := decide (i1.done.length < i.need)
        let rec' : List JRec := if ok ∧ i.cls = 2 then [jrec 0x0B i.acc at_ 0] else []
        let f1 := { f with
          room := tabSet 0 f.room n (flushUsed f n + 1), recs := f.recs ++ rec',
          items := (f.items.map (fun x => if x = i then i1 else x)).filter (fun x => keep || x != i1) }
        let d2 := updClasp (fun c => { c with flush := some f1 }) d1
        flushAdvance (if ok then d2 else cnt 0x2403 0x0C d2)

def execFlushWave (n : Nat) (ok : Bool) (s : State) : Host.Outcome State Fault Refusal := run (flushWave n ok) s

/-- Step 7 has passed. -/
def flushOver (d : Dev) : Bool :=
  match d.clasp.flush with
  | some f => f.stage == 2 && f.items.isEmpty && !f.ended
  | none => false

/-- Clasp enters FLUSHED (step 8). -/
def flushEnd (d : Dev) : Dev :=
  put 0x2400 1 4 (updClasp (fun c => { c with flush := c.flush.map (fun f => { f with ended := true }) }) d)

end Sys2Proof.Machine
end

