-- ==== Sys2Proof/Machine/Admin.lean ====
section
/-! DEFINITION. Lantern's configuration, quiescing, exclusion, map_init and replay
(05_lantern_placement.md R196 to R201, R211, R212, R235 to R240; 11 R433 to R442; 18 R583). -/

namespace Sys2Proof.Machine

/-! ### Configuration (R196 to R201, R212) -/

/-- The valid regions of the table as written. -/
def cfgRegions (d : Dev) : List Nat := ((List.range 16).map (fun i => od d 0x2101 (i + 1))).filter (bit · 63)

/-- Ascending first sectors, each a multiple of its granule. -/
def regionsAsc : List Nat → Bool
  | [] => true
  | [r] => bits r 0 40 % 2 ^ bits r 48 4 == 0
  | r :: s :: t => bits r 0 40 % 2 ^ bits r 48 4 == 0 && decide (bits r 0 40 < bits s 0 40) && regionsAsc (s :: t)

/-- The region table obeys R197. -/
def regionsOk (d : Dev) : Bool :=
  let l := cfgRegions d
  bit (od d 0x2101 1) 63 && bits (od d 0x2101 1) 0 40 == 0 &&
  (List.range 16).all (fun i => bit (od d 0x2101 (i + 1)) 63 == decide (i < l.length)) && regionsAsc l

/-- A record's 32 slots of sset_table (R201). -/
def ssetSlots (b : Bytes) : List Nat := (List.range 32).map (fun i => leAt b (2 * i) 2)

/-- The members of a record. -/
def ssetMembers (b : Bytes) : List Nat := (ssetSlots b).takeWhile (· ≠ 0xFFFF)

/-- The records of a table. -/
def ssetRecs (b : Bytes) : List (List Nat) :=
  (List.range (b.length / 64)).map (fun i => ssetMembers ((b.drop (64 * i)).take 64))

/-- A table that R201 takes, for n data members. -/
def ssetOk (d : Dev) (n : Nat) (b : Bytes) : Bool :=
  let rs := ssetRecs b
  decide (rs.length ≤ 1024) && rs.all (fun r => r.length == n + 1 && r.all (dieInCfg d.cfg) &&
    decide ((r.map dieCh).Nodup)) && decide (rs.flatten.Nodup)

/-- The default build of R200. -/
def defaultSets (d : Dev) (n : Nat) : List (List Nat) :=
  let h := d.cfg.channels / (n + 1)
  (List.range (diesPerCh d.cfg)).flatMap (fun k => (List.range h).map (fun i =>
    (List.range (n + 1)).map (fun j => dieAt d.cfg (i * (n + 1) + j) k)))

/-- The sets that the written configuration gives. -/
def cfgSets (d : Dev) : List (List Nat) :=
  let b := getB d 0x2102 2
  if b.isEmpty then defaultSets d (od d 0x2102 1) else ssetRecs b

/-- B of R212: the most blocks per plane of an identified die. -/
def bitBlocks (d : Dev) : Nat :=
  ((allDies d.cfg).filterMap (fun n => (die d n).geom.map (·.blocks))).foldl max 0

/-- map_need by the configuration as written (R212). -/
def mapNeed (d : Dev) : Nat :=
  let b := bitBlocks d
  let n := ((regionList (cfgRegions d) (od d 0x2100 1)).map (fun r => cdiv (r.2.2 - r.1) (2 ^ r.2.1))).sum
  up4k (8 * n) + up4k (16 * dieCount d.cfg * b) + up4k (4 * dieCount d.cfg * b) +
    up4k ((cfgSets d).length * b * (od d 0x2102 1 + 1) * 8)

/-- The written configuration is put in force over empty structures. A written logical_cap_sec, which R198 does not list,
comes into force here with the rest: at the next map_init or replay (DESIGN CHOICE, log 83). -/
def applyConfig (d : Dev) : Dev :=
  let d0 := (List.range d.cfg.channels).foldl (fun x ch =>
    put (chIdx ch 6) 4 (od x (chIdx ch 6) 2) (put (chIdx ch 6) 3 (od x (chIdx ch 6) 1) x)) d
  let d1 := put 0x2100 8 1 (put 0x2100 0x0A 0 (put 0x2102 3 (cfgSets d).length (put 0x2100 9 (bitBlocks d) d0)))
  updLan (fun l => { Lan.reset with
    regions := cfgRegions d, cap := od d 0x2100 1, n := od d 0x2102 1, sets := cfgSets d, ids := l.ids,
    wseq := l.wseq, mem := l.mem, flips := l.flips, res := l.res.filter (fun r => r.own == .raw), uecc := l.uecc, uHeld := l.uHeld, decLast := l.decLast, lmq := l.lmq }) d1

/-! ### Quiescing (R239) -/

/-- A write of lt_quiesce that passed its checks. -/
def ltQuiesce (v : Nat) (d : Dev) : Dev :=
  let st := od d 0x2100 8
  if v = 1 then (if st = 2 then put 0x2100 8 3 (put 0x2100 6 1 d) else d)
  else if st = 3 ∨ st = 4 then put 0x2100 8 2 (put 0x2100 6 0 d)
  else d

/-- LANTERN_QUIESCED (R216, R239): the commands in flight have finished; the map cache is written back, and QUIESCED
shows once the write-backs are answered. -/
def lanternQuiesced (d : Dev) : Dev :=
  if od d 0x2100 8 = 3 ∧ d.cmds.all (fun c => c.2.st == .met) ∧ d.lan.wjobs.isEmpty ∧ d.lan.rjobs.isEmpty ∧
      d.lan.relocs.isEmpty ∧ d.lan.want.isEmpty ∧ d.lan.misses.isEmpty then
    let d1 := writeBackAll d
    if d1.lan.wbs.isEmpty then put 0x2100 8 4 d1 else d1
  else d

def execLanternQuiesced (s : State) : Host.Outcome State Fault Refusal := run lanternQuiesced s

/-! ### Exclusion (R235 to R238) -/

/-- Open bands with an excluded die are closed at their open rows (R236). -/
def closeExcluded (d : Dev) : Dev :=
  feedBands ((openBands d).foldl (fun x b =>
    if b.mem.any (fun m => dieExcluded x m.1) then closeBand b.id x else x) d)

/-- Excluded ways of the map cache are written back and emptied (R236). -/
def dropWays (v : Nat) (d : Dev) : Dev :=
  (d.lan.lines.filter (fun l => bit v l.way && !l.lost)).foldl (fun x l =>
    updLan (fun k => { k with lines := k.lines.filter (fun z => !(z.addr == l.addr && !z.lost)) }) (writeBack l x)) d

/-- failed_units (R235): dies of a channel with a FAILED domain, decoders, SB banks and map-cache quarters. -/
def failedUnits (d : Dev) : Nat :=
  let bad := fun (n : Nat) => (dom d n).st == .failed
  ((List.range d.cfg.channels).filter (fun ch => (List.range 4).any (fun k => bad (domCh ch k)))).length * diesPerCh d.cfg +
  ((List.range d.cfg.decoders).filter (fun k => bad (domDec d.cfg k))).length +
  4 * ((List.range (d.cfg.sbMib / 2)).filter (fun g => bad (domSb d.cfg g))).length +
  ((List.range 4).filter (fun i => bad (domMapc d.cfg i))).length

/-! ### Clasp's pools from the census (R402, R434 step 1) -/

/-- A region-0 block takes its place in its die's pools as the census found it. -/
def poolBlock (flushP : List (Nat × Nat)) (c : Option CensusBlk) (b : Nat × Nat) (y : SysDie) : SysDie :=
  match c with
  | some k =>
    if k.cls = 0 then
      (if flushP.contains b then { y with flushB := y.flushB ++ [b] } else { y with free := y.free ++ [b] })
    else if (k.cls = 1 ∨ k.cls = 2) ∧ ¬ flushP.contains b then
      { y with used := y.used ++ [(b.1, b.2, if k.cls = 2 then ckMark k.last else k.last)] }
    else { y with dirty := y.dirty ++ [b] }
  | none => { y with dirty := y.dirty ++ [b] }

/-- The pools of every PRESENT die; a block that the census does not name is erased before use. -/
def poolsFrom (cs : List CensusBlk) (d : Dev) : Dev :=
  (presentDies d).foldl (fun x n =>
    let fp := flushPool d n
    updSys n (fun _ => (fp ++ sysPool d n).foldl (fun y b =>
      poolBlock fp (cs.find? (fun c => c.die == n && c.block == b.1 && c.plane == b.2)) b y)
      { SysDie.reset with flushP := fp }) x) d

/-- The newest checkpoint that passes, then the older one (R434 step 2). -/
def bestCkpt (l : List CkptImage) : Option CkptImage :=
  (l.filter (·.ok)).foldl (fun b c => match b with
    | none => some c
    | some x => if x.num < c.num then some c else some x) none

/-- The highest journal number seen, which is never used again (R407). -/
def topJsn (m : Media) : Nat :=
  ((m.journal ++ m.tail).map (·.jsn) ++ (m.census.filter (fun c => c.cls == 1)).map (·.last)).foldl max 0

/-- The highest checkpoint number seen. -/
def topCkpt (m : Media) : Nat :=
  (m.ckpts.map (·.num) ++ (m.census.filter (fun c => c.cls == 2)).map (·.last)).foldl max 0

/-- The block record of a checkpoint, by its key. -/
def ckptBlk (c : Option CkptImage) (k : Nat) : Blk :=
  match c.bind (fun c => c.blocks.find? (fun x => x.1 == k)) with
  | some x => Blk.ofWord x.2
  | none => Blk.reset

/-! ### map_init (R239, R583) -/

/-- map_init ends: Lantern serves. -/
def enterService (d : Dev) : Dev := put 0x2400 1 2 (put 0x2100 6 0 (put 0x2100 8 2 d))

/-- MAP_INIT (R583): the configuration in force, every block ERASE_Q but the RETIRED ones, whose state the newest
passing checkpoint keeps with pe, and Clasp's pools to be erased. -/
def mapInit (m : Media) (d : Dev) : Dev :=
  let c := bestCkpt m.ckpts
  let d1 := applyConfig d
  let d2 := (allDies d.cfg).foldl (fun x n => (List.range (blocksOf d n)).foldl (fun y b =>
    let k := ckptBlk c (blkKey d.cfg n b)
    updBlk n b (fun _ => { Blk.reset with pe := k.pe, bstate := if k.bstate = 5 then 5 else 4 }) y) x) d1
  let d3 := updClasp (fun k => { Clasp.reset with
    jsn := max k.jsn (topJsn m), ckptNum := max k.ckptNum (topCkpt m), recNo := k.recNo, durRec := k.recNo,
    commitNo := k.commitNo, unitNo := k.unitNo, probeLog := k.probeLog }) d2
  let d4 := eraseDirty (claspStart d3)
  claspFeed (ckptTrigger (enterService
    { d4 with groups := d4.groups.map (fun g => { g with chg := [] }) }))

/-! ### Replay: the journal (R434 step 3, R435) -/

/-- A sector counts when it passes j_crc and holds no record of a reserved type (R409, R435). -/
def sectorOk (s : JSector) : Bool := s.ok && s.recs.all (fun r => decide (r.typ ≤ 0x0B))

/-- The commits of a run of sectors: those whose last sector was reached with no gap and no failing sector. -/
def takeCommits : List JSector → Nat → List JRec → List (List JRec × Nat)
  | [], _, _ => []
  | s :: t, next, acc =>
    if ¬ sectorOk s ∨ s.jsn ≠ next then []
    else if s.last then (acc ++ s.recs, s.jsn) :: takeCommits t (next + 1) []
    else takeCommits t (next + 1) (acc ++ s.recs)

/-- One record applied (R435). -/
def applyRec (r : JRec) (d : Dev) : Dev :=
  let n := bits r.a 0 16
  let b := bits r.a 16 16
  match r.typ with
  | 1 => updLan (fun l => { l with
      map := tabSet entry0 l.map (r.a % 2 ^ 40) r.b, wseq := max l.wseq (r.c % 2 ^ 48) }) d
  | 2 => updBlk n b (fun _ => Blk.ofWord (r.b + r.c * 2 ^ 64)) d
  | 3 => putBandMem n b (bits r.a 32 5) r.b d
  | _ => d

/-- A commit applied: member records only with their group's end. -/
def applyCommit (rs : List JRec) (d : Dev) : Dev :=
  let ended := fun (g : Nat) => rs.any (fun r => r.typ == 4 && r.grp == g)
  rs.foldl (fun x r => if bit r.flags 0 ∧ r.typ ≠ 4 ∧ ¬ ended r.grp then x else applyRec r x) d

/-- The checkpoint's arrays (R434 step 2). -/
def loadCkpt (c : CkptImage) (d : Dev) : Dev :=
  let d1 := updLan (fun l => { l with
    map := c.map.foldl (fun t x => tabSet entry0 t x.1 x.2) [],
    blk := c.blocks.foldl (fun t x => tabSet Blk.reset t x.1 (Blk.ofWord x.2)) [] }) d
  let d2 := c.bands.foldl (fun x b => (b.2.zipIdx).foldl (fun y m =>
    putBandMem (b.1 / 65536) (b.1 % 65536) m.2 m.1 y) x) d1
  c.cells.foldl (fun x k =>
    let i := k.1 / 2048 + 1
    putB 0x2304 i (patchBytes (getB x 0x2304 i) (16 * (k.1 % 2048)) (leBytes 16 k.2)) x) d2

/-- A checkpoint's header agrees with the configuration written (R436). -/
def ckptFits (c : CkptImage) (d : Dev) : Bool :=
  c.regions == cfgRegions d && c.cap == od d 0x2100 1 && c.stripeN == od d 0x2102 1 &&
  c.ssetCrc == crc32c (getB d 0x2102 2) && c.bitBlocks == bitBlocks d

/-! ### Replay: bands (R434 step 4, R437) -/

/-- The bands that the block records tell of: those of a set and index with a member in use. -/
def bandKeys (d : Dev) : List (Nat × Nat) :=
  ((d.lan.blk.filter (fun x => [1, 2, 3].contains x.2.bstate)).map (fun x => (x.2.sset, x.2.bidx))).eraseDups

/-- A band as its records give it, CLOSED. -/
def bandFrom (k : Nat × Nat) (d : Dev) : Dev :=
  let mem := (List.range (d.lan.n + 1)).map (fun m =>
    let w := bandMem d k.1 k.2 m
    (bits w 16 12, bits w 0 16))
  let h : Blk := ((mem.map (fun p => blk d p.1 p.2)).find? (fun x => [1, 2, 3].contains x.bstate)).getD Blk.reset
  let (id, d1) := freshId d
  let b : Band :=
    { id := id, set := k.1, bidx := k.2,
      key := { glog := 0, slc := h.slc, grp := lifeGrp h.life, rheavy := h.rheavy, zfam := h.zfam },
      life := h.life, temp := h.temp, mem := mem, st := .closed, rows := [], next := pagesOf d, reloc := none,
      order := id, lastW := 0 }
  updLan (fun l => { l with bands := l.bands ++ [b] }) d1

/-- The valid units of every block counted from the map (R213). -/
def recount (d : Dev) : Dev :=
  let d1 := d.lan.blk.foldl (fun x k =>
    updBlk (dieOfRank x.cfg (k.1 / 65536)) (k.1 % 65536) (fun b => { b with vunits := 0 }) x) d
  d1.lan.map.foldl (fun x e => match granIdx x e.1 with
    | some g => moveUnits true e.2 g x
    | none => x) d1

/-- A granule placed again, or a salvaged one, as a write of its own with its data at hand. -/
def heldWrite (g : Gran) (key : Key) (life temp stream rset bad : Nat) (data : List Bytes) (d : Dev) : Dev :=
  let (id, d1) := freshId d
  let all := 2 ^ 2 ^ g.glog - 1
  let w : WJob :=
    { id := id, tag := none, reloc := none, no := d.fetchNo, gran := g.idx, first := g.first, nsec := g.nsec,
      mask := 2 ^ g.nsec - 1, host := 0, landed := all, bad := bad, key := key,
      life := life, temp := temp, stream := stream, rset := rset, sb := [], merging := false, reads := 0, given := true,
      pieces := [], gen := 0, wseq := 0, spaceWait := false, dead := false, src := 0, metas := [], driven := 0, hold := data }
  updLan (fun l => { l with wjobs := l.wjobs ++ [w] }) d1

/-- What closing a band found (R437): a unit to be placed again, or a member cut. -/
def applyClose (f : CloseFinding) (d : Dev) : Dev :=
  match f with
  | .cut s bi mp row => (match d.lan.bands.find? (fun b => b.set == s && b.bidx == bi) with
    | some b => cutMember b mp row d
    | none => d)
  | .repair gi data bad => (match granIdx d gi with
    | none => d
    | some g =>
      let a := eAddr (mapE d gi)
      let h := blk d (aDie a) (aBlock a)
      cnt 0x2403 0x0E (heldWrite g (mkKey d g.glog h.life h.temp h.rheavy h.zfam) h.life h.temp 0 0 bad data d))

/-- Every open band becomes CLOSED. -/
def closeAll (d : Dev) : Dev :=
  (d.lan.blk.filter (fun x => x.2.bstate == 1)).foldl (fun x k =>
    setBstate (dieOfRank x.cfg (k.1 / 65536)) (k.1 % 65536) 2 x) d

/-! ### Replay: relocations, probes, salvage (R438 to R440) -/

/-- The records of a type that name a die and block. -/
def recsOf (typ : Nat) (rs : List JRec) : List (Nat × Nat × Nat) :=
  (rs.filter (fun r => r.typ == typ)).map (fun r => (bits r.a 0 16, bits r.a 16 16, r.b))

/-- The destination blocks of a relocation job (R408, R416). -/
def jobBlocks (job : Nat) (rs : List JRec) : List (Nat × Nat) :=
  ((rs.filter (fun r => r.typ == 2 && r.aux % 65536 == job)).map (fun r => (bits r.a 0 16, bits r.a 16 16))).eraseDups

/-- A block whose contents nothing names is torn and queued for erase. -/
def tearErase (n b : Nat) (d : Dev) : Dev :=
  queueErase n b (setBstate n b 6 (updLan (fun l => { l with
    bands := l.bands.filter (fun x => !(x.mem.contains (n, b))) }) d))

/-- One unit's switch by the test of R210. -/
def settleUnit (u : RelUnit) (d : Dev) : Dev :=
  let e := mapE d u.granule
  if eTrim e ∨ eGen e ≠ u.gen ∨ eAddr e ≠ u.src then d
  else match granIdx d u.granule with
    | none => d
    | some g =>
      let e1 := mkEntry u.gen (blk d (aDie u.addr) (aBlock u.addr)).sset u.addr
      jMap u.granule e1 0 2 (putMap u.granule e1 (moveUnits true e1 g (moveUnits false e g d)))

/-- Relocations settled (R439). -/
def settleRelocs (rs : List JRec) (us : List RelUnit) (d : Dev) : Dev :=
  let intents := recsOf 5 rs
  let dones := recsOf 6 rs
  let open_ := intents.filter (fun i => !(dones.contains i))
  let d1 := us.foldl (fun x u => if dones.any (fun k => k.2.2 % 65536 == u.job) then settleUnit u x else x) d
  let d2 := (dones.filter (fun k => (blk d k.1 k.2.1).bstate == 3)).foldl (fun x k => queueErase k.1 k.2.1
    (updLan (fun l => { l with bands := l.bands.filter (fun b => !(b.mem.contains (k.1, k.2.1))) }) x)) d1
  let d3 := open_.foldl (fun x i =>
    let y := if (blk x i.1 i.2.1).bstate = 3 then setBstate i.1 i.2.1 2 x else x
    cnt 0x2108 0x0B ((jobBlocks (i.2.2 % 65536) rs).foldl (fun z b =>
      if dones.any (fun k => k.2.2 % 65536 == i.2.2 % 65536) then z else tearErase b.1 b.2 z) y)) d2
  (d3.lan.blk.filter (fun x => x.2.bstate == 3)).foldl (fun x k =>
    setBstate (dieOfRank x.cfg (k.1 / 65536)) (k.1 % 65536) 2 x) d3

/-- The result of an erase-state probe (R438): 0 COMPLETE, 1 NOT_STARTED, 2 PARTIAL. -/
def probeResult (d : Dev) (p : ProbeRead) : Nat :=
  let lo := od d 0x2400 0x0E
  let hi := od d 0x2400 0x0F
  let all := p.page0 :: p.others
  if all.all (· ≤ lo) then 0
  else if hi ≤ p.page0 ∧ all.all (fun c => decide (c ≤ lo) || decide (hi ≤ c)) then 1
  else 2

/-- A probe's 16-byte record. -/
def probeRec (d : Dev) (p : ProbeRead) : Bytes :=
  leBytes 2 p.die ++ leBytes 2 p.block ++ leBytes 1 (probeResult d p) ++ leBytes 1 0 ++
    leBytes 2 (satTo ((p.page0 :: p.others).foldl max 0) 0xFFFF) ++ leBytes 8 d.ts

/-- Every erase begun and not recorded as ended is probed and done again (R438). -/
def probeErases (rs : List JRec) (ps : List ProbeRead) (d : Dev) : Dev :=
  let ended := recsOf 8 rs
  let left := ((recsOf 7 rs).map (fun x => (x.1, x.2.1))).eraseDups.filter (fun x =>
    decide (ended.countP (fun e => (e.1, e.2.1) == x) < (recsOf 7 rs).countP (fun e => (e.1, e.2.1) == x)))
  left.foldl (fun x k =>
    let y := match ps.find? (fun p => p.die == k.1 && p.block == k.2) with
      | some p => cnt 0x2403 0x10 (updClasp (fun c => { c with
          probeLog := (c.probeLog ++ [probeRec x p]).drop (c.probeLog.length + 1 - 32) }) x)
      | none => x
    if inSystem y k.1 k.2 then y else queueErase k.1 k.2 y) d

/-- The salvage unit of highest m_wseq of each granule (R440). -/
def bestSalvage (l : List SalvUnit) : List SalvUnit :=
  ((l.map (·.granule)).eraseDups).filterMap (fun g => (l.filter (fun u => u.granule == g)).foldl (fun b u => match b with
    | none => some u
    | some x => if x.wseq < u.wseq then some u else some x) none)

/-- A salvaged granule is placed as a new write (R440), by the hint of its stream. -/
def applySalvage (u : SalvUnit) (d : Dev) : Dev :=
  match granIdx d u.granule with
  | none => d
  | some g =>
    let h := hint d (16 * u.rset) u.stream
    cnt 0x2403 0x0D (heldWrite g (hintKey d g.glog h) (bits h 0 3) (bits h 4 2) u.stream u.rset
      (2 ^ 2 ^ g.glog - 2 ^ g.nsec) u.data (updLan (fun l => { l with wseq := max l.wseq u.wseq }) d))

/-! ### Replay (R433 to R436) -/

/-- Replay fails (R436): Lantern stays UNCONFIGURED. -/
def replayFail (cause : Nat) (d : Dev) : Dev :=
  fault 9 cause (domLan d.cfg) (od d 0x2404 3 % 2 ^ 32) 0 (put 0x2404 1 8 (put 0x2404 2 cause (put 0x2400 1 0 d)))

/-- The flush's tail goes on from the journal in number and epoch (R434 step 3). -/
def tailFits (m : Media) (last epoch : Nat) : Bool :=
  match m.tail with
  | [] => false
  | s :: _ => s.jsn == last + 1 && m.tail.all (fun x => x.epoch == epoch)

/-- last_flush (R443). -/
def flushFound (m : Media) (tail salv : Bool) : Nat :=
  b2n (!m.tail.isEmpty || m.census.any (fun c => c.cls == 3)) + fld (b2n tail) 1 1 + fld (b2n (m.accs != 0)) 2 1 +
    fld (b2n salv) 3 1 + fld (b2n m.index) 4 1

/-- REPLAY_GO's effect (R434): the steps over what the dies hold, in one go; the programs that steps 4 to 6 call for
follow as writes (log 25). -/
def replay (m : Media) (d : Dev) : Dev :=
  let d0 := put 0x2404 8 m.millis (cnt 0x2403 0x0F d)
  match bestCkpt m.ckpts with
  | none => replayFail 1 d0
  | some c =>
    if ¬ ckptFits c d0 then replayFail 2 d0
    else
      let d1 := loadCkpt c (applyConfig d0)
      let js := m.journal.filter (fun s => decide (c.beginJsn ≤ s.jsn))
      let cs := takeCommits js c.beginJsn []
      let last := match cs.getLast? with
        | some x => x.2
        | none => c.beginJsn - 1
      let epoch := (js.filter (fun s => decide (s.jsn ≤ last))).foldl (fun a s => max a s.epoch) (od d 0x2404 5)
      let tl := if tailFits m last epoch then takeCommits m.tail (last + 1) [] else []
      let last2 := match tl.getLast? with
        | some x => x.2
        | none => last
      let rs := (cs ++ tl).flatMap (·.1)
      let d2 := (cs ++ tl).foldl (fun x k => applyCommit k.1 x) d1
      let top := max last2 (topJsn m)
      let d3 := updClasp (fun k => { Clasp.reset with
        jsn := top, ckptNum := topCkpt m, firstErased := true, recNo := k.recNo, durRec := k.recNo,
        commitNo := k.commitNo, unitNo := k.unitNo, probeLog := k.probeLog,
        kept := (c.num, c.beginJsn) :: ((m.ckpts.filter (fun x => x.ok && decide (x.num < c.num))).map
          (fun x => (x.num, x.beginJsn))).take 1 }) d2
      let d4 := poolsFrom m.census (claspStart d3)
      let d5 := recount ((bandKeys d4).foldl (fun x k => bandFrom k x) d4)
      let d6 := closeAll (m.closes.foldl (fun x f => applyClose f x) d5)
      let d7 := probeErases rs m.probes (settleRelocs rs m.relUnits d6)
      let sv := bestSalvage m.salvage
      let d8 := sv.foldl (fun x u => applySalvage u x) d7
      let d9 := put 0x2404 6 (flushFound m (!tl.isEmpty) (!sv.isEmpty)) (put 0x2404 5 (epoch + 1)
        (put 0x2404 4 c.beginJsn (put 0x2404 3 last2 (put 0x2404 2 0 (put 0x2404 1 7 d8)))))
      claspFeed (ckptTrigger (eraseDirty (enterService d9)))

end Sys2Proof.Machine
end

