-- ==== Sys2Proof/Machine/Inbound.lean ====
section
/-! DEFINITION. The target side of a port: its requests pass the ingress queue in arrival order, and doorbells, refused
requests and the bad headers are answered (02_ports.md R45 to R69, R72, R75 to R79). -/

namespace Sys2Proof.Machine

/-- A request that cannot be served yet stands in the ingress queue and keeps its credit (R46, R47, R76). -/
def queueIn (p : Nat) (k : YppClass) (c : Instr) (d : Dev) : Dev :=
  xoffUpdate p (updPort p (fun x => { x with iCr := x.iCr.set k (x.iCr.get k - 1), inQ := x.inQ ++ [c], inPeak := max x.inPeak (x.inQ.length + 1) }) d)

/-- A flit of the target side arrives at a port (R45, R60, R72 to R75): with the link down nothing is taken; without a
credit outstanding it is a framing violation; it waits until the port holds two RSP credits, behind what waits already,
and while its destination cannot take it; else it is served, and its slot is free again (R46). -/
def inbound (p : Nat) (k : YppClass) (c : Instr) (waits : Dev → Bool)
    (f : State → Host.Outcome State Fault Refusal) (s : State) : Host.Outcome State Fault Refusal :=
  let x := port s.dev p
  if ¬ x.linkUp then run id s
  else if x.iCr.get k = 0 then run (framing p) s
  else if ¬ x.rspMet ∨ ¬ x.inQ.isEmpty ∨ waits s.dev then run (queueIn p k c) s
  else f { s with dev := creditPulse p k 1 s.dev }

/-- A request that no destination can hold up. -/
def never (_ : Dev) : Bool := false

/-! ### Requests the target side does not take (R64, R69) -/

/-- INBOUND_WRITE_REFUSED (R64): answered UNSUPPORTED; its DAT flits are taken and discarded, and their credits
returned. -/
def writeRefused (p : Nat) (h : ReqHdr) (d : Dev) : Dev :=
  cnt (ptIdx p) 0x0A (cntN (ptIdx p) 0x0D h.len (answer p 9 3 h.txid (creditPulse p .dat (datFlits h.addr h.len) d)))

def execInboundWriteRefused (p : Nat) (h : ReqHdr) (s : State) : Host.Outcome State Fault Refusal :=
  if h.cls = .req ∧ h.op = 2 then inbound p .req (.inboundWriteRefused p h) never (run (writeRefused p h)) s else run id s

/-- INBOUND_BAD_HEADER (R69): a reserved opcode, or one of another class. No header comes in class DAT: a DAT flit that no
header awaits is a framing violation (R72). -/
def badHeader (p : Nat) (cls : YppClass) (op txid : Nat) (d : Dev) : Dev :=
  match cls with
  | .rsp => cnt (ptIdx p) 0x0A (creditPulse p .rsp 1 d)
  | k => cnt (ptIdx p) 0x0A (answer p (rspOp k op) 3 txid d)

def execInboundBadHeader (p : Nat) (cls : YppClass) (op txid : Nat) (s : State) : Host.Outcome State Fault Refusal :=
  if opOk cls op then run id s
  else if cls = .dat then run (fun d => if (port d p).linkUp then framing p d else d) s
  else if cls = .rsp then run (fun d => if ¬ (port d p).linkUp then d
    else if (port d p).iCr.rsp = 0 then framing p d else badHeader p cls op txid d) s
  else inbound p cls (.inboundBadHeader p cls op txid) never (run (badHeader p cls op txid)) s

/-! ### Doorbells (R61, R63, R147 to R149, R502, R514, R517) -/

/-- A doorbell's answer: OK for a ring of the configuration, DECODE otherwise (R62, R147). -/
def dbAnswer (p r txid : Nat) (f : Dev → Dev) (d : Dev) : Dev :=
  if r < d.cfg.rings then f (answer p 0xA 0 txid d) else cnt (ptIdx p) 0x0A (answer p 0xA 2 txid d)

/-- The halves that a doorbell writes: DB_SQ first (R147); DB_CQ's upper half is reserved in both formats. -/
def dbHalves (r : Nat) (sq cq : Option (BitVec 32)) (d : Dev) : Dev :=
  let d1 := match sq with
    | some v => dbSqWord r v.toNat d
    | none => d
  match cq with
  | some v => newCqHead r (v.toNat % 65536) d1
  | none => d1

/-- The slice of the port that serves the ring is not ON: the doorbell waits at its sender (R29, R63). -/
def dbWaits (r : Nat) (d : Dev) : Bool := decide (r < d.cfg.rings) && !isOn d (domPort d.cfg (od d (rgIdx r 0) 3))

/-- One doorbell arrives. -/
def oneDb (r : Nat) (x : SameDb) (s : State) : Host.Outcome State Fault Refusal :=
  let c : Instr := match x.sq, x.cq with
    | some a, some b => .dbBoth x.p r a b ⟨x.txid, []⟩
    | some a, none => .dbSq x.p r a ⟨x.txid, []⟩
    | none, some b => .dbCq x.p r b ⟨x.txid, []⟩
    | none, none => .inboundBadHeader x.p .msg 0 x.txid
  inbound x.p .msg c (dbWaits r) (run (dbAnswer x.p r x.txid (dbHalves r x.sq x.cq))) s

/-- The doorbells of one ring that arrive in one cycle, in increasing port number (R61, R149). -/
def byPort (l : List SameDb) : List SameDb :=
  l.foldl (fun a x => a.takeWhile (fun y => decide (y.p ≤ x.p)) ++ x :: a.dropWhile (fun y => decide (y.p ≤ x.p))) []

def doorbells (r : Nat) (l : List SameDb) (s : State) : Host.Outcome State Fault Refusal :=
  (byPort l).foldl (fun o x => match o with
    | .next t => oneDb r x t
    | e => e) (.next s)

/-- DB_SQ (R147, R149). -/
def execDbSq (p r : Nat) (v : BitVec 32) (cyc : DbCycle) (s : State) : Host.Outcome State Fault Refusal :=
  doorbells r (⟨p, cyc.txid, some v, none⟩ :: cyc.same) s

/-- DB_CQ (R147). -/
def execDbCq (p r : Nat) (v : BitVec 32) (cyc : DbCycle) (s : State) : Host.Outcome State Fault Refusal :=
  doorbells r (⟨p, cyc.txid, none, some v⟩ :: cyc.same) s

/-- DB_BOTH (R147): DB_SQ first. -/
def execDbBoth (p r : Nat) (sq cq : BitVec 32) (cyc : DbCycle) (s : State) :
    Host.Outcome State Fault Refusal :=
  doorbells r (⟨p, cyc.txid, some sq, some cq⟩ :: cyc.same) s

/-- Bell's domain is not ON: writes for it wait in the ingress queue, a wake source of the domain (R502, R517). -/
def bellWaits (d : Dev) : Bool := !isOn d (domBell d.cfg)

/-- A write for Bell: one that has to wait is a flit for its domain (R29). -/
def toBell (p : Nat) (c : Instr) (f : Dev → Dev) (s : State) : Host.Outcome State Fault Refusal :=
  inbound p .msg c bellWaits (run f)
    (if (port s.dev p).linkUp ∧ bellWaits s.dev then
      { s with dev := updDom (domBell s.dev.cfg) (fun x => { x with flit := true }) s.dev } else s)

/-- BL_DB (R502, R503): the port answers OK as the write passes to Bell, which checks it. -/
def execBlDb (p : Nat) (v : BitVec 32) (txid : Nat) (s : State) : Host.Outcome State Fault Refusal :=
  toBell p (.blDb p v txid) (fun d => bellExt v (answer p 0xA 0 txid d)) s

/-- BL_EOI (R514). -/
def execBlEoi (p : Nat) (v : BitVec 32) (txid : Nat) (s : State) : Host.Outcome State Fault Refusal :=
  toBell p (.blEoi p v txid) (fun d => bellEoi v (answer p 0xA 0 txid d)) s

/-! ### The ingress queue goes on -/

/-- The destination of a waiting request can take it now. -/
def servable (d : Dev) (c : Instr) : Bool :=
  match c with
  | .blDb _ _ _ | .blEoi _ _ _ => !bellWaits d
  | .dbSq _ r _ _ | .dbCq _ r _ _ | .dbBoth _ r _ _ _ => !dbWaits r d
  | _ => true

/-- The class whose credit a waiting request holds. -/
def heldClass (c : Instr) : YppClass :=
  match c with
  | .inboundWriteRefused _ _ => .req
  | .inboundBadHeader _ k _ _ => k
  | .targetDecodeError _ h => h.cls
  | _ => .msg

/-- The request that a port serves next from its ingress queue (R60), with the state in which it is served: its slot is
free, and those behind it stand aside. -/
def nextIn (d : Dev) (p : Nat) : Option (Instr × List Instr × Dev) :=
  match (port d p).inQ with
  | [] => none
  | c :: rest =>
    if (port d p).linkUp ∧ (port d p).rspMet ∧ servable d c then
      let k := heldClass c
      some (c, rest, updPort p (fun x => { x with iCr := x.iCr.set k (x.iCr.get k + 1), inQ := [] }) d)
    else none

/-- Those behind the request served stand in the queue again, unless the link fell meanwhile. -/
def afterIn (p : Nat) (rest : List Instr) (d : Dev) : Dev :=
  if (port d p).linkUp then xoffUpdate p (updPort p (fun x => { x with inQ := rest ++ x.inQ }) d) else d

end Sys2Proof.Machine
end

