-- ==== Sys2Proof/Machine/Keeper.lean ====
section
/-! DEFINITION. Keeper: requests, refusals, transitions and what each domain keeps
(15_keeper_power_domains.md R520 to R535; 18 R571, R572). -/

namespace Sys2Proof.Machine

/-! ### Domain numbers (R520) -/

/-- What a domain number names. -/
inductive DomOf where
  | chan (ch k : Nat)
  | decoder (k : Nat)
  | sb (g : Nat)
  | mapc (i : Nat)
  | lantern
  | seg (s : Nat)
  | tender (h : Nat)
  | port (p : Nat)
  | bell
  deriving DecidableEq, Repr

/-- The rows of R520, in order. -/
def domOf (c : Params) (n : Nat) : DomOf :=
  if n < domDec c 0 then .chan (n / 4) (n % 4)
  else if n < domSb c 0 then .decoder (n - domDec c 0)
  else if n < domMapc c 0 then .sb (n - domSb c 0)
  else if n < domLan c then .mapc (n - domMapc c 0)
  else if n = domLan c then .lantern
  else if n < domTender c 0 then .seg (n - domSeg c 0)
  else if n < domPort c 0 then .tender (n - domTender c 0)
  else if n < domBell c then .port (n - domPort c 0)
  else .bell

/-- The Necklace segment of a domain's stop (R17). -/
def domSegOf (c : Params) (n : Nat) : Nat :=
  match domOf c n with
  | .chan ch _ => segCh c ch
  | .decoder k => segDec c k
  | .sb g => segBank c (4 * g)
  | .seg s => s
  | .tender h => segHalf c h
  | .port p => segPort c p
  | _ => 0

/-- kp_map (R520): group, instance, segment, 0. -/
def kpMap (c : Params) : Bytes :=
  (List.range (domainCount c)).flatMap (fun n =>
    let gi : Nat × Nat := match domOf c n with
      | .chan ch _ => (0, ch)
      | .decoder k => (1, k)
      | .sb g => (2, g)
      | .mapc i => (3, i)
      | .lantern => (4, 0)
      | .seg s => (5, s)
      | .tender h => (6, h)
      | .port p => (7, p)
      | .bell => (8, 0)
    [BitVec.ofNat 8 gi.1, BitVec.ofNat 8 gi.2, BitVec.ofNat 8 (domSegOf c n), 0])

/-- The per-domain entries (R535). -/
def kpIdx (base n : Nat) : Nat := base + n / 64
def kpSub (n : Nat) : Nat := n % 64 + 1
def kpGet (d : Dev) (base n : Nat) : Nat := od d (kpIdx base n) (kpSub n)
def kpPut (base n v : Nat) (d : Dev) : Dev := put (kpIdx base n) (kpSub n) v d
def kpCnt (base n : Nat) (d : Dev) : Dev := cnt (kpIdx base n) (kpSub n) d

/-- ds_state (R521). -/
def DomSt.code : DomSt → Nat
  | .off => 0 | .ret => 1 | .on => 2 | .drain => 3 | .goingDown => 4 | .waking => 5 | .wakeRetry => 6 | .failed => 7

/-- A target code of dom_req (R523). -/
def reqSt (v : Nat) : DomSt := if v = 0 then .off else if v = 1 then .ret else .on

/-- A transition is in flight. -/
def Dom.moving (x : Dom) : Bool := x.st == .drain || x.st == .goingDown || x.st == .waking || x.st == .wakeRetry

/-- pc_req of a state's encoding (R94, R530). -/
def pcEnc : DomSt → Nat
  | .on => 3 | .ret => 1 | _ => 0

/-- dom_state (R535). -/
def domStateWord (x : Dom) : Nat :=
  let p : Nat × Nat := match x.pend with
    | some (t, _, _) => (1, t.code)
    | none => (0, 0)
  fld p.1 8 1 + fld p.2 6 2 + fld (if x.moving then x.tgt.code else 0) 4 2 + x.st.code

/-! ### Refusals and aborts (R533) -/

/-- A refused request: its refuser code and detail. -/
def refuseReq (n tgt m code detail : Nat) (d : Dev) : Dev :=
  kpPut 0x2760 n (fld code 24 8 + fld detail 8 16 + fld tgt 4 2 + fld m 0 3) (cnt 0x2700 7 (kpCnt 0x2740 n d))

/-- An aborted request. -/
def abortReq (n tgt m code detail : Nat) (d : Dev) : Dev :=
  kpPut 0x2760 n (fld code 24 8 + fld detail 8 16 + 128 + fld tgt 4 2 + fld m 0 3) (cnt 0x2700 8 (kpCnt 0x2750 n d))

/-! ### Conditions that keep a domain in ON (R526, R268, R464, R497, R517) -/

/-- lt_state is UNCONFIGURED or QUIESCED. -/
def lanternIdle (d : Dev) : Bool := od d 0x2100 8 == 0 || od d 0x2100 8 == 4

/-- A die of a journal pair in use on a channel (R403). -/
def journalDie (d : Dev) (ch : Nat) : Option Nat :=
  (d.clasp.pairs.flatMap (fun p => [p.1, p.2])).find? (fun n => dieCh n == ch)

/-- Segments that reach segment 0 over segments in ON, without one (R526): the ring is walked both ways. -/
def segReach (d : Dev) (without : Nat) (s : Nat) : Bool :=
  let c := d.cfg.segments
  let on := fun (x : Nat) => x != without && isOn d (domSeg d.cfg x)
  (List.range (s + 1)).all on || (on 0 && (List.range (c - s)).all (fun i => on (s + i)))

/-- Why a Necklace segment other than 0 stays in ON: a domain in ON that has its stop there or loses its path. -/
def segRefuser (d : Dev) (s : Nat) : Option (Nat × Nat) :=
  ((List.range (domainCount d.cfg)).find? (fun n =>
    isOn d n && (match domOf d.cfg n with
      | .seg _ => false
      | _ => domSegOf d.cfg n == s || !segReach d s (domSegOf d.cfg n)))).map (fun n => (7, n))

/-- Why a host port stays in ON. -/
def portRefuser (d : Dev) (p : Nat) (via : Option Nat) : Option (Nat × Nat) :=
  match (List.range d.cfg.rings).find? (fun r => ringState d r != 0 && od d (rgIdx r 0) 3 == p) with
  | some r => some (9, r)
  | none =>
    if (od d 0x2100 2 = p ∧ ¬ lanternIdle d) ∨
        (List.range 64).any (fun n => isProg d n && od d (tcIdx n 0) 5 == p && [1, 2, 3, 4].contains (chState d n)) ∨
        (List.range 8).any (fun t => od d (0x2610 + t) 2 == p && ((tgt d t).run.isSome || !(tgt d t).stack.isEmpty)) ∨
        via = some p then some (9, 0xFFFF)
    else none

/-- The refuser and detail of a request to leave ON; none lets it go. -/
def refuser (d : Dev) (n : Nat) (via : Option Nat) : Option (Nat × Nat) :=
  if od d 0x2400 1 = 3 ∨ od d 0x2400 1 = 4 then some (6, 0)
  else match domOf d.cfg n with
    | .chan ch k =>
      if ¬ chanQuiet d ch ∨ (k = 2 ∧ ¬ (chan d ch).inl.isEmpty) then some (1, ch)
      else (journalDie d ch).map (fun x => (6, x))
    | .decoder k =>
      let rest := (List.range d.cfg.decoders).filter (fun i => i != k && isOn d (domDec d.cfg i))
      if ¬ lanternIdle d ∧ (rest.isEmpty ∨ ¬ rest.any (fun i => bit (od d 0x2106 2) i)) then some (2, k) else none
    | .sb g =>
      let bs := (List.range 4).map (fun i => 4 * g + i)
      match bs.find? (fun b => !(bankRes d b).isEmpty) with
      | some b => some (3, b)
      | none => if bs.any (inWindow d) then some (3, 0xFFFF) else none
    | .mapc _ => if lanternIdle d then none else some (5, od d 0x2100 8)
    | .lantern =>
      if ¬ lanternIdle d then some (5, od d 0x2100 8)
      else if ¬ d.clasp.jbuf.isEmpty ∨ ¬ d.clasp.commits.isEmpty then some (6, 0)
      else none
    | .seg s => if s = 0 then some (0x0B, 0) else segRefuser d s
    | .tender h => ((List.range 32).find? (fun i =>
        !(tch d (32 * h + i)).jobs.isEmpty || [1, 2, 3, 4].contains (chState d (32 * h + i)))).map (fun i => (8, 32 * h + i))
    | .port p => portRefuser d p via
    | .bell => (bellBusy d).map (fun s => (0x0A, s))

/-- An operation queued at Lantern, at a codec or for a Tender channel needs a unit of the domain (R528 DEMAND): a read
of a die, a codeword that waits for a decoder, a line that is wanted, a command whose transfer waits. -/
def unitDemand (d : Dev) (n : Nat) : Bool :=
  match domOf d.cfg n with
  | .chan ch _ => d.lan.rjobs.any (fun r => r.st == .fresh && (match r.own with
      | .part _ => dieCh (aDie r.addr) == ch
      | .rebuild _ => dieCh (aDie r.addr) == ch
      | .acc _ _ => dieCh (aDie r.addr) == ch
      | _ => false))
  | .decoder _ => d.chans.any (fun c => c.2.raw.any (fun y => y.st == .wait))
  | .mapc _ => d.lan.want.any (fun w => mapcDom d w.1 == n)
  | .tender _ => d.cmds.any (fun c => c.2.st == .output && !(c.2.out.isEmpty && c.2.outB.isEmpty))
  | _ => false

/-- The lowest enabled wake source that is asserted (R528). -/
def wakeSource (d : Dev) (n : Nat) : Option Nat :=
  let x := dom d n
  let m := kpGet d 0x2730 n
  if (x.flit ∨ d.net.waitsFor (netCtx d) n) ∧ bit m 0 then some 0
  else if (x.demand ∨ (x.st = .on ∧ unitDemand d n)) ∧ bit m 1 then some 1
  else none

/-! ### Taking a request (R523 to R525, R531) -/

/-- A wake begins (R530). -/
def wake (n m : Nat) (d : Dev) : Dev :=
  updDom n (fun x => { x with st := .waking, tgt := .on, from_ := x.st, attempt := 1, master := m, pcReq := 3 }) d

/-- A request with no transition in flight. -/
def judge (n v m : Nat) (via : Option Nat) (d : Dev) : Dev :=
  let x := dom d n
  let t := reqSt v
  if x.st = t then cnt 0x2700 9 d
  else match x.st, t with
    | .failed, .on => wake n m (updDom n (fun y => { y with cold := true }) d)
    | .failed, .off => updDom n (fun y => { y with st := .off, pcReq := 0, cold := true }) d
    | .failed, _ => refuseReq n v m 0x0D x.st.code d
    | .off, .ret => refuseReq n v m 0x0D x.st.code d
    | .on, _ =>
      (match refuser d n via with
      | some (c, k) => refuseReq n v m c k d
      | none => match wakeSource d n with
        | some b => refuseReq n v m 0x0C b d
        | none => sendVia .ao (domUnit d.cfg n) .msg 1 (updDom n (fun y => { y with st := .drain, tgt := t, from_ := .on, master := m }) d))
    | .ret, .off =>
      (match wakeSource d n with
      | some b => refuseReq n v m 0x0C b d
      | none => updDom n (fun y => { y with st := .goingDown, tgt := .off, from_ := .ret, master := m, pcReq := 0 }) d)
    | _, _ => wake n m d

/-- A request as Keeper takes it (R524): it is stored in dom_req and leaves the power-on queue (R572). -/
def takeReq (n v m : Nat) (via : Option Nat) (d0 : Dev) : Dev :=
  let d := kpPut 0x2710 n v { d0 with pwrq := d0.pwrq.filter (· ≠ n) }
  let x := dom d n
  let t := reqSt v
  if ¬ x.moving then judge n v m via d
  else match x.pend with
    | none => if x.tgt = t then cnt 0x2700 9 d else updDom n (fun y => { y with pend := some (t, m, via) }) d
    | some (p, pm, _) =>
      if x.tgt = t ∨ p = t then cnt 0x2700 9 d
      else abortReq n p.code pm 0x0E m (updDom n (fun y => { y with pend := some (t, m, via) }) d)

/-- When a transition ends, the pending request is taken as a new one (R524). -/
def takePend (n : Nat) (d : Dev) : Dev :=
  match (dom d n).pend with
  | none => d
  | some (t, m, via) => judge n t.code m via (updDom n (fun y => { y with pend := none }) d)

/-- A wake ended: the power-on queue starts its next one (R572). -/
def nextPower (d : Dev) : Dev :=
  match d.pwrq with
  | [] => d
  | n :: t => wake n 0 { d with pwrq := t }

/-! ### What a domain does on leaving and entering ON (R522) -/

/-- A channel's dies with their sequencer not in ON (R249). -/
def diesOff (ch : Nat) (d : Dev) : Dev :=
  (List.range (diesPerCh d.cfg)).foldl (fun x k =>
    let n := dieAt x.cfg ch k
    markFailed n false (updDie n (fun y => { y with st := .off }) x)) d

/-- ch_state 0 OFF, and 1 SERVICE once the sequencer is back. -/
def domLeave (n : Nat) (d : Dev) : Dev :=
  match domOf d.cfg n with
  | .chan ch k =>
    if k = 0 then updSeq ch (fun s => { s with ce := none, cycle := 0, dq := 0 }) (updChan ch (fun c => { c with
      armed := false, forced := false, held := false, zqNew := none, state := if c.state = 2 then 1 else c.state }) d)
    else if k = 1 then updChan ch (fun c => { c with state := 0 }) (diesOff ch d)
    else d
  | .port p => linkDown p 0 d
  | _ => d

/-- The dies of a channel whose sequencer starts from reset (R249, R288): physical facts about them stay. -/
def diesCold (ch : Nat) (d : Dev) : Dev :=
  (List.range (diesPerCh d.cfg)).foldl (fun x k =>
    let n := dieAt x.cfg ch k
    markFailed n false (updDie n (fun y => { Die.reset with
      st := .reset, geom := y.geom, nextPage := y.nextPage, start := x.up }) x)) d

/-- A sequencer that starts from reset: patches from the copy, identification in the power-up set (R288, R297, R343). -/
def seqCold (ch : Nat) (d : Dev) : Dev :=
  let first := d.geom.isNone
  startIdent ch (timingReset ch (updChan ch (fun c => { c with firstRound := c.firstRound || first, trainWait := [] })
    (seqOn ch (updSeq ch (fun _ => Seq.reset) (diesCold ch d)))))

/-- A sequencer that comes back from RET: each die is reset (R249). -/
def seqWarm (ch : Nat) (d : Dev) : Dev :=
  updChan ch (fun c => { c with state := 1 })
    ((List.range (diesPerCh d.cfg)).foldl (fun x k =>
      updDie (dieAt x.cfg ch k) (fun y => { y with st := .reset, rstDue := true }) x) d)

/-- Lantern and Clasp as after a reset (R578), with the SB contents, the logs of failed reads and the raw path's space. -/
def lanternReset (d : Dev) : Dev :=
  let c := d.clasp
  let keep := d.lan.res.filter (fun r => match r.own with
    | .raw => true
    | _ => false)
  put 0x2400 1 0 (put 0x2100 8 0
    { d with
      lan := { Lan.reset with mem := d.lan.mem, flips := d.lan.flips, ids := d.lan.ids, uecc := d.lan.uecc, uHeld := d.lan.uHeld, res := keep },
      clasp := { Clasp.reset with unitNo := c.unitNo, jobNo := c.jobNo } })

/-- The bytes of SB bank group g lose what they held (R522; log 6). -/
def sbErase (g : Nat) (d : Dev) : Dev :=
  updLan (fun l => { l with
    mem := l.mem.filter (fun x => x.1 / 2097152 ≠ g), flips := l.flips.filter (fun x => x.1 / 262144 ≠ g),
    res := l.res.filter (fun r => r.at_ / 32768 ≠ g) }) d

/-- Entry to ON (R522): from reset when `cold`. -/
def domOn (n : Nat) (cold : Bool) (d : Dev) : Dev :=
  match domOf d.cfg n with
  | .chan ch k =>
    let d1 := if k = 0 then (List.range d.cfg.targets).foldl (fun x t => wantTrain ch t x)
          (if cold then put (0x300D + 0x40 * ch) 2 0 (updChan ch (fun c => { c with trains := [] }) d) else d)
      else if k = 1 then (if cold then seqCold ch d else seqWarm ch d)
      else if k = 2 then updChan ch (fun c => { c with raw := [], inl := [] }) d
      else d
    kick ch d1
  | .decoder k => if cold then updDec k (fun _ => Dec.reset) d else d
  | .sb g => if cold then sbErase g d else d
  | .mapc i => askWanted (updLan (fun l => { l with
      lines := l.lines.filter (fun x => x.lost || setOf d.cfg x.addr % 4 != i) }) d)
  | .lantern => if cold then lanternReset d else d
  | .seg _ => d
  | .tender h => if cold then (List.range 32).foldl (fun x i =>
      put (tcIdx (32 * h + i) 1) 1 0 (updTch (32 * h + i) (fun c => { TCh.reset with chain := c.chain + 1, no := c.no + 1 }) x)) d
      else settle d
  | .port p => linkUp p d
  | .bell => if cold then bellReset d else d

/-! ### FAILED (R532) -/

/-- Reads of a decoder's jobs go to another decoder. -/
def decoderLost (k : Nat) (d : Dev) : Dev :=
  let js := (dec d k).jobs
  let ch := fun (x : Dev) (j : DecJob) => updChan j.ch (fun c => { c with
    raw := updWhere (fun y => y.id == j.cw && y.st == .sent) (fun y => { y with st := .wait }) c.raw }) x
  js.foldl ch (updDec k (fun _ => Dec.reset) d)

/-- A copy of write data in a lost bank group (R486, R532): a host WRITE's is fetched again into new space; of any other,
the sectors no codec has driven are programmed as no data. -/
def lostCopy (g : Nat) (w : WJob) (d : Dev) : Dev :=
  if w.dead ∨ ¬ w.sb.any (fun a => a / 2097152 == g) then d
  else if w.host ≠ 0 then fetchAgain w d
  else
    let hit := fun (i : Nat) => (w.sb[i]?).any (fun a => a / 2097152 == g) && !bit w.driven i
    updWjob w.id (fun x => { x with bad := ((List.range x.nsec).filter hit).foldl (fun m i => setBit m i true) x.bad }) d

/-- An accumulator in a lost bank group gets new space and is rebuilt (R486, R532). -/
def lostAcc (b : Nat) (rw : Row) (d : Dev) : Dev :=
  match band d b with
  | none => d
  | some bd => match sbAlloc (segCh d.cfg (dieCh (member bd (parPos d bd)).1)) (accLen d / 64) (.acc b rw.row)
      (sbFree (.acc b rw.row) d) with
    | none => d
    | some (a, d1) =>
      let d2 := updBand b (fun x => { x with rows := updWhere (fun r => r.row == rw.row) (fun r => { r with acc := a }) x.rows }) d1
      (List.range (planes d)).foldl (fun x p => (List.range 4).foldl (fun y s => accFix b rw.row p s y) x) d2

/-- A bank group is lost (R486, R532): every access to it is answered as uncorrectable from now on. -/
def sbLost (g : Nat) (d : Dev) : Dev :=
  let d1 := d.lan.wjobs.foldl (fun x w => lostCopy g w x) d
  (d1.lan.bands.flatMap (fun b => (b.rows.filter (fun r => r.acc / 2097152 == g && r.par != .passed)).map (fun r => (b.id, r)))).foldl
    (fun x y => lostAcc y.1 y.2 x) d1

/-- A map-cache quarter is lost: its dirty lines are lost, its clean ones invalid (R489, R490); a lost line of read
counts is zeros. -/
def mapcLost (i : Nat) (d : Dev) : Dev :=
  let mine := fun (x : Line) => setOf d.cfg x.addr % 4 == i
  let dirty := d.lan.lines.filter (fun x => mine x && x.dirty)
  let d1 := updLan (fun l => { l with lines := l.lines.filter (fun x => !mine x || x.dirty || x.lost) }) d
  dirty.foldl (fun x l =>
    let y := loseLine l 0 0 x
    if rdCntLine y l.addr then updLan (fun k => { k with lines := k.lines.filter (fun z => z.addr ≠ l.addr) }) y else y) d1

/-- The effects of a domain in FAILED. -/
def domFailed (n : Nat) (d : Dev) : Dev :=
  match domOf d.cfg n with
  | .chan ch _ => (List.range (diesPerCh d.cfg)).foldl (fun x k =>
      let m := dieAt x.cfg ch k
      if (die x m).st = .failed then x else dieDown m x)
      (updChan ch (fun c => { c with armed := false, bus := none, trainWait := [] }) d)
  | .decoder k => decoderLost k d
  | .sb g => sbLost g d
  | .mapc i => mapcLost i d
  | .port p => linkDown p 0 d
  | .tender h => settle ((List.range 32).foldl (fun x i =>
      let c := 32 * h + i
      (tch x c).jobs.foldl (fun y j => failJob c j.id y) (failCh c 2 x)) d)
  | .bell => bellReset d
  | .lantern => lanternReset d
  | .seg _ => d

/-- A domain enters FAILED with a POWER fault of a cause. -/
def domFail (n cause a : Nat) (d : Dev) : Dev :=
  domFailed n (fault 7 cause n a 0
    (linksOff n (updDom n (fun x => { x with
      st := .failed, pcReq := 0, isolated := true, cold := true, tgt := .off, attempt := 0 }) d)))

/-! ### The handshake (R530) -/

/-- Step 1 of an exit is over when every link is idle (R29) and the unit holds no work: a decoder finishes its jobs (R371). -/
def drained (d : Dev) (n : Nat) : Bool :=
  d.net.quietOf (netCtx d) n && (match domOf d.cfg n with
    | .decoder k => (dec d k).jobs.isEmpty
    | _ => true)

/-- DRAIN_COMPLETE (R530): isolation, then pc_req at the target. -/
def drainComplete (n : Nat) (d : Dev) : Dev :=
  let x := dom d n
  if x.st ≠ .drain ∨ ¬ drained d n then d
  else domLeave n (linksOff n (updDom n (fun y => { y with st := .goingDown, isolated := true, pcReq := pcEnc y.tgt }) d))

def execDrainComplete (n : Nat) (s : State) : Host.Outcome State Fault Refusal := run (drainComplete n) s

/-- The target state is reached. -/
def downDone (n : Nat) (d : Dev) : Dev :=
  let x := dom d n
  if x.st ≠ .goingDown then d
  else takePend n (kpCnt 0x2780 n (updDom n (fun y => { y with
    st := y.tgt, cold := y.cold || y.tgt == .off }) d))

/-- DOMAIN_DOWN_ACK (R530): pc_ckrdy low, and for OFF pc_pg low. -/
def execDomainDownAck (n : Nat) (s : State) : Host.Outcome State Fault Refusal := run (downDone n) s

/-- DOWN_LATE (R530): reached all the same, and counted. -/
def execDownLate (n : Nat) (s : State) : Host.Outcome State Fault Refusal :=
  run (fun d => if (dom d n).st = .goingDown then downDone n (cnt 0x2700 0x0B d) else d) s

/-- DOMAIN_WAKE_ACK (R530 steps 3 and 4): the island is restored, its links reset (R28), its
wake bit clears. -/
def wakeAck (n : Nat) (d : Dev) : Dev :=
  let x := dom d n
  if x.st ≠ .waking then d
  else
    let cold := x.cold || x.from_ != .ret
    let d1 := updDom n (fun y => { y with
      st := .on, tgt := .on, attempt := 0, isolated := false, flit := false, demand := false, cold := false }) d
    let d2 := { d1 with wakeP := setBit d1.wakeP n false }
    takePend n (nextPower (domOn n cold (sendVia (domUnit d.cfg n) .ao .msg 1 (kpCnt 0x2780 n (linksReset n d2)))))

def execDomainWakeAck (n : Nat) (s : State) : Host.Outcome State Fault Refusal := run (wakeAck n) s

/-- WAKE_TIMEOUT (R530 steps 5 and 7): WAKE_RETRY, then FAILED with fault POWER. -/
def wakeTimeout (n : Nat) (d : Dev) : Dev :=
  let x := dom d n
  if x.st ≠ .waking then d
  else
    let d1 := kpCnt 0x2770 n d
    if x.attempt ≤ 1 then updDom n (fun y => { y with st := .wakeRetry, pcReq := pcEnc y.from_ }) d1
    else takePend n (nextPower (domFail n 3 x.st.code d1))

def execWakeTimeout (n : Nat) (s : State) : Host.Outcome State Fault Refusal := run (wakeTimeout n) s

/-- WAKE_RETRY_END (R530 step 6). -/
def execWakeRetryEnd (n : Nat) (s : State) : Host.Outcome State Fault Refusal :=
  run (fun d => if (dom d n).st = .wakeRetry then
    updDom n (fun y => { y with st := .waking, attempt := 2, pcReq := 3 }) d else d) s

/-- PG_FALL (R95, R531): ON is FAILED at once, RET is OFF; during a transition it is expected. -/
def pgFall (n : Nat) (d : Dev) : Dev :=
  if domainCount d.cfg ≤ n then d
  else match (dom d n).st with
    | .on => domFail n 1 2 (domLeave n (cnt 0x2700 0x0A d))
    | .ret => updDom n (fun y => { y with st := .off, pcReq := 0, cold := true }) (fault 7 2 n 1 0 (cnt 0x2700 0x0A d))
    | _ => d

def execPgFall (n : Nat) (s : State) : Host.Outcome State Fault Refusal := run (pgFall n) s

/-- WAKE_SOURCE_ASSERT (R529): a source of a domain that is not ON is asserted. -/
def wakeAssert (n b : Nat) (d : Dev) : Dev := if domainCount d.cfg ≤ n ∨ 2 ≤ b then d else assertWake n b d

def execWakeSourceAssert (n b : Nat) (s : State) : Host.Outcome State Fault Refusal := run (wakeAssert n b) s

/-- The order of the power-on requests (R572). -/
def powerOrder (c : Params) : List Nat :=
  (List.range c.segments).map (domSeg c) ++ (List.range c.ports).map (domPort c) ++ [domBell c, domLan c] ++
  (List.range 4).map (domMapc c) ++ (List.range (c.sbMib / 2)).map (domSb c) ++ [domTender c 0, domTender c 1] ++
  (List.range c.decoders).map (domDec c) ++ List.range (4 * c.channels)

/-- MU_READY (R572): the defaults of dom_req are queued and the first pwr_stagger wakes start. -/
def muReady (d : Dev) : Dev :=
  if ¬ d.doms.isEmpty ∨ ¬ d.pwrq.isEmpty then d
  else
    let k := od d 0x2000 9
    (List.range k).foldl (fun x _ => nextPower x) { d with pwrq := powerOrder d.cfg }

def execMuReady (s : State) : Host.Outcome State Fault Refusal := run muReady s

end Sys2Proof.Machine
end

