-- ==== Sys2Proof/Machine/Startup.lean ====
section
/-! DEFINITION. Resets, supplies and the service state (18_startup_and_reset.md R570 to R587; 02 R81, R96, R102;
11 R428 step 8, R432). -/

namespace Sys2Proof.Machine

/-! ### Power-on (R570, R571) -/

/-- POWER_ON_RESET: everything at its default; the synthesis stays what it is. -/
def execPowerOnReset (s : State) : Host.Outcome State Fault Refusal :=
  run (fun d => { Dev.reset with cfg := d.cfg, up := d.up, free := d.free }) s

/-! ### Supplies (R101, R102) -/

/-- A rail in or out of range. -/
def setRail (r : Rail) (b : Bool) (d : Dev) : Dev :=
  { d with
      tele := match r with
    | .vdd => { d.tele with vdd := b }
    | .vddp => { d.tele with vddp := b }
    | .vccq => { d.tele with vccq := b } }

/-- SUPPLY_OUT_OF_RANGE: without VDD every link is down and fx_xoff low; the pads follow `supplies` (R81). -/
def supplyOut (r : Rail) (d : Dev) : Dev :=
  let d1 := setRail r false d
  if r = .vdd then (List.range d.cfg.ports).foldl (fun x p =>
    updPort p (fun y => { y with xoff := false }) (if (port x p).linkUp then linkDown p 0 x else x)) d1
  else d1

def execSupplyOutOfRange (rail : Rail) (s : State) : Host.Outcome State Fault Refusal := run (supplyOut rail) s

/-- Ports in ON whose link is down come up. -/
def linksUp (d : Dev) : Dev :=
  (List.range d.cfg.ports).foldl (fun x p =>
    if isOn x (domPort x.cfg p) ∧ ¬ (port x p).linkUp ∧ ¬ (port x p).framing then linkUp p x else x) d

/-- SUPPLY_IN_RANGE. -/
def supplyIn (r : Rail) (d : Dev) : Dev :=
  let d1 := setRail r true d
  let d2 := if r = .vdd then linksUp d1 else d1
  (List.range d.cfg.channels).foldl (fun x ch => kick ch x) d2

def execSupplyInRange (rail : Rail) (s : State) : Host.Outcome State Fault Refusal := run (supplyIn rail) s

/-- The WP_n pad of a channel is high (R81). -/
def wpHigh (d : Dev) (ch : Nat) : Bool :=
  supplies d && isOn d (domCh ch 0) && isOn d (domCh ch 1) && !(d.rst.kind.isSome && od d 0x2000 0x0B == 2)

/-- A channel's output pads (R80, R81); none where a pad is not driven. -/
structure Pads where
  ceN : List Bool
  wpN : Bool
  weN : Bool
  reT : Bool
  reC : Option Bool
  cle : Option Bool
  ale : Option Bool
  dq : Option Byte
  deriving DecidableEq, Repr

/-- The pads between two bus cycles (R80, R81, R320): the target selected, and the latch enables and byte of a command,
address or data cycle; the levels of R81 while the PHY domain is not ON or a supply is out of range. DQS moves only
inside a transfer, which is one step here. -/
def pads (d : Dev) (ch : Nat) : Pads :=
  let up := supplies d && isOn d (domCh ch 0)
  let s := seq d ch
  let drive := fun (b : Bool) => if up then some b else none
  { ceN := (List.range d.cfg.targets).map (fun t => !(up && (s.ce.any (fun x => x.1 == t)))),
    wpN := wpHigh d ch, weN := true, reT := true, reC := drive false, cle := drive (s.cycle == 1),
    ale := drive (s.cycle == 2), dq := if up ∧ [1, 2, 8].contains s.cycle then some s.dq else none }

/-! ### A block or soft reset is taken (R573 to R575) -/

/-- Entries of a die that have not been issued are discarded, but for commits in flight (R575 step 1). -/
def rstDiscard (n : Nat) (d : Dev) : Dev :=
  updDie n (fun x => { x with
    resumeDue := x.resumeDue || x.st == .suspended,
    q := x.q.filter (fun e => decide (3 ≤ e.est) || (match e.own with
      | .clasp c _ _ => c != 0
      | _ => false)) }) d

/-- Tender asks for nothing more. -/
def tenderStop (d : Dev) : Dev :=
  (List.range 64).foldl (fun x n =>
    let c := tch x n
    let y := updTch n (fun _ => { TCh.reset with chain := c.chain + 1, no := c.no + 1 }) x
    put (tcIdx n 1) 5 0 (put (tcIdx n 1) 4 0 (put (tcIdx n 1) 2 0 (put (tcIdx n 1) 1 0 y))))
    { d with tender := { d.tender with owner := [], lastOwner := [], gone := [] } }

/-- A reset starts to drain: fetched commands are dropped, never completed. -/
def rstBegin (k : RstKind) (cause : Nat) (d : Dev) : Dev :=
  let d1 := put 0x2000 6 cause (put 0x2000 0x0B 1 { d with
    rst := { d.rst with kind := some k, cause := cause, held := none },
    cmds := [], groups := [],
    rings := d.rings.map (fun r => (r.1, { r.2 with
                           fetched := [], failed := false, starved := false, cqWait := false, discard := decide (0 < r.2.fetching) })) })
  let d2 := updClasp (fun c => { c with ckpt := none, ckptTrig := false, groupQ := [], want := false, erases := [] })
    (updLan (fun l => { l with relocs := [], relWant := [], rjobs := [], rebs := [] }) (tenderStop d1))
  let d3 := (allDies d.cfg).foldl (fun x n => rstDiscard n x)
    { d2 with rawp := { d2.rawp with todo := [] }, therm := { d2.therm with queued := [] } }
  (List.range d.cfg.channels).foldl (fun x ch => kick ch (updChan ch (fun c => { c with raw := [], inl := [] }) x)) d3

/-- A block or soft reset (R574): held while a flush runs, merged with one that runs. -/
def rstTake (k : RstKind) (cause : Nat) (d : Dev) : Dev :=
  if od d 0x2400 1 = 3 then
    match d.rst.held with
    | some (.block, c) => { d with rst := { d.rst with held := some (.block, if cause = 1 then 1 else c) } }
    | _ => { d with rst := { d.rst with held := some (k, cause) } }
  else match d.rst.kind, k with
    | none, _ => rstBegin k cause d
    | some .soft, .block => put 0x2000 6 cause { d with rst := { d.rst with kind := some .block, cause := cause } }
    | some .block, .block => if cause = 1 then put 0x2000 6 1 { d with rst := { d.rst with cause := 1 } } else d
    | some _, .soft => d

/-- WRST (R96, R573). -/
def execWrst (s : State) : Host.Outcome State Fault Refusal := run (rstTake .block 1) s

/-- FLUSHED (R428 step 8, R432): the flush has ended; a reset that was held acts. -/
def flushedStep (d : Dev) : Dev :=
  let d1 := flushAdvance d
  if ¬ flushOver d1 then d1
  else
    let d2 := flushEnd d1
    match d2.rst.held with
    | none => d2
    | some (k, c) => rstTake k c d2

def execFlushed (s : State) : Host.Outcome State Fault Refusal := run flushedStep s

/-! ### RESET_DRAINED (R575 steps 3 and 4, R576, R578, R579) -/

/-- No die operation is in progress and nothing is queued. -/
def diesEnded (d : Dev) (l : List Nat) : Bool :=
  l.all (fun n => (die d n).q.isEmpty && ([.idle, .failed, .off].contains (die d n).st ||
    ((die d n).st == .reset && (chan d (dieCh n)).idTgts.contains (dieTgt n))) && (chan d (dieCh n)).bus.isNone)

/-- A link falls with a reset: what was outstanding is abandoned (R73, R74). -/
def linkAbandon (p : Nat) (d : Dev) : Dev := put (ptIdx p) 1 0 (updPort p (fun _ => Port.reset) d)

/-- Pending requests are aborted (R533), and after a block reset a domain in RET starts from reset later (R575). -/
def keeperReset (block : Bool) (d : Dev) : Dev :=
  d.doms.foldl (fun x e =>
    let x1 := match e.2.pend with
      | some (t, m, _) => abortReq e.1 t.code m 0x0F 0 (updDom e.1 (fun y => { y with pend := none }) x)
      | none => x
    if block ∧ e.2.st = .ret then updDom e.1 (fun y => { y with cold := true }) x1 else x1) d

/-- Entries that return to their defaults (R579). -/
def odReset (block : Bool) (d : Dev) : Dev :=
  let d1 := (List.range d.cfg.rings).foldl (fun x r => put (rgIdx r 1) 1 0 (put (rgIdx r 0) 1 0 x)) d
  let d2 := put 0x2052 2 0 (putB 0x2052 1 (domDefault d.cfg 0x2052 1) d1)
  let d3 := put 0x2050 5 0 (put 0x2050 6 0 (put 0x2050 9 0 d2))
  let d4 := [1, 2, 3, 4, 5, 8].foldl (fun x i => put 0x2404 i 0 x) (put 0x2100 6 0 (put 0x2100 0x0A 0 d3))
  let d5 := put 0x2109 3 0 (put 0x2400 0x11 0 (put 0x2404 6 0 d4))
  if block then put 0x6001 5 0 d5 else d5

/-- The loader after a block reset (R343, R578). -/
def loaderReset (d : Dev) : Dev :=
  let d1 := showCopy { d with loader := { Loader.reset with ackHigh := d.loader.ackHigh } }
  putB 0x6001 1 [] (put 0x6000 2 0 (put 0x6000 0x0C 0 (put 0x6000 0x0D 0 (put 0x6001 3 0 (put 0x6001 4 0 d1)))))

/-- A channel at a soft reset (R576): timing, training and identification stay, each die gets one LUN reset. -/
def chanSoft (ch : Nat) (d : Dev) : Dev :=
  let d1 := updSeq ch (fun s => { s with running := false, stack := [], timer := none }) (updChan ch (fun c => { c with
    bus := none, multi := [], raw := [], inl := [], levels := [], lvlUsed := [], driven := [] }) d)
  if ¬ isOn d (domCh ch 1) then d1
  else (List.range (diesPerCh d.cfg)).foldl (fun x k =>
    updDie (dieAt x.cfg ch k) (fun y => if y.st = .failed ∨ y.st = .off then { y with q := [] } else { y with
      st := .reset, rstDue := true, q := [], cur := none, prev := none, cacheRdy := false, statusDue := false, outLeft := [],
      inLeft := [], suspReq := false, resumeDue := false, lvlSlot := none, trim := false }) x) d1

/-- A channel at a block reset: its islands in ON wait in RESETTING for step 5. -/
def chanBlock (ch : Nat) (d : Dev) : Dev :=
  updChan ch (fun c => { c with
    bus := none, multi := [], raw := [], inl := [], levels := [], lvlUsed := [], driven := [],
    state := if isOn d (domCh ch 1) then 3 else 0 }) d

/-- The islands in ON are in reset: what they were to send, and what their queues and links held, is lost. -/
def linksLost (d : Dev) : Dev :=
  let keep := fun (u : NUnit) => match unitDom d.cfg u with
    | some n => !isOn d n
    | none => true
  let d1 := { d with net := { d.net with out := d.net.out.filter (fun p => keep p.src) } }
  (List.range (domainCount d.cfg)).foldl (fun x n => if isOn x n then linksOff n x else x) d1

/-- RESET_DRAINED. -/
def resetDrained (d : Dev) : Dev :=
  match d.rst.kind with
  | none => d
  | some k =>
    if od d 0x2000 0x0B ≠ 1 ∨ ¬ diesEnded d (allDies d.cfg) ∨ ¬ d.clasp.commits.isEmpty then d
    else
      let blk := k == .block
      let d1 := (List.range d.cfg.ports).foldl (fun x p => linkAbandon p x) d
      let d2 := keeperReset blk (odReset blk (bellReset (lanternReset d1)))
      let d3 := (List.range (d.cfg.sbMib / 2)).foldl (fun x g => if isOn x (domSb x.cfg g) then sbErase g x else x) <|
        linksLost
        { d2 with
          rawp := RawPath.reset, rings := [], decs := [], rrRing := [], tele := { d2.tele with pf := false },
          dbq := d2.dbq.filter (fun i => match i with
                      | .flt _ => true
                      | .memlog _ => true
                      | _ => false),
          rst := { d2.rst with chans := [] } }
      let d4 := (List.range d.cfg.channels).foldl (fun x ch => if blk then chanBlock ch x else chanSoft ch x) d3
      put 0x2000 0x0B 2 (put 0x2000 5 0 (if blk then loaderReset d4 else d4))

def execResetDrained (s : State) : Host.Outcome State Fault Refusal := run resetDrained s

/-! ### RESET_DONE (R575 step 5) -/

/-- Every island in ON leaves reset: its links reset (R28). -/
def linksBack (d : Dev) : Dev :=
  (List.range (domainCount d.cfg)).foldl (fun x n => if isOn x n then linksReset n x else x) d

/-- The channel islands in ON come back, from reset after a block reset. -/
def chansBack (block : Bool) (d : Dev) : Dev :=
  if block then (List.range (4 * d.cfg.channels)).foldl (fun x n => if isOn x n then domOn n true x else x) d
  else (List.range d.cfg.channels).foldl (fun x ch => kick ch x) d

/-- RESET_DONE: START, links up, identification after a block reset, counted. -/
def resetDone (d : Dev) : Dev :=
  match d.rst.kind with
  | none => d
  | some k =>
    if od d 0x2000 0x0B ≠ 2 then d
    else
      let d1 := put 0x2000 8 d.ts (put 0x2000 0x0B 0 (put 0x2000 1 0 (cnt 0x2000 7
        { d with rst := { kind := none, cause := 0, held := none, chans := [] } })))
      chansBack (k == .block) (linksUp (linksBack d1))

def execResetDone (s : State) : Host.Outcome State Fault Refusal := run resetDone s

/-! ### Channel reset (R577, R267) -/

/-- A queued entry that was not issued ends as not done for its owner. -/
def undo (n : Nat) (e : BEnt) (d : Dev) : Dev :=
  match e.own with
  | .slot _ _ _ => progFailed n e d
  | .parity _ _ => progFailed n e d
  | .reads l => updLan (fun x => { x with
      rjobs := updWhere (fun r => l.contains r.id) (fun r => { r with st := .fresh }) x.rjobs }) d
  | .erase => updClasp (fun c => { c with
      erases := updWhere (fun j => j.die == n && j.block == e.block) (fun j => { j with queued := false }) c.erases }) d
  | .clasp c u i => updCopy c u i (fun k => { k with queued := false }) d
  | .raw => rawEnd 0 3 d
  | .temp => { d with therm := { d.therm with queued := d.therm.queued.filter (· ≠ n) } }
  | .train => d

/-- Entries of a die not issued are discarded. -/
def undoDie (n : Nat) (d : Dev) : Dev :=
  let l := (die d n).q.filter (fun e => decide (e.est < 3))
  l.foldl (fun x e => undo n e x)
    (updDie n (fun x => { x with
      resumeDue := x.resumeDue || x.st == .suspended, q := x.q.filter (fun e => decide (3 ≤ e.est)) }) d)

/-- The dies of a channel. -/
def chanDies (d : Dev) (ch : Nat) : List Nat := (List.range (diesPerCh d.cfg)).map (dieAt d.cfg ch)

/-- The words of wp_map of a channel's dies at their default. -/
def wpDefault (ch : Nat) (d : Dev) : Dev :=
  (chanDies d ch).foldl (fun x n => putB 0x2052 1 (patchBytes (getB x 0x2052 1) (8 * rank x.cfg n) (leBytes 8 1)) x) d

/-- The four islands of a channel are reset once its operations have ended, and it identifies. -/
def chanResetGo (ch : Nat) (d : Dev) : Dev :=
  if ¬ d.rst.chans.contains ch ∨ ¬ diesEnded d (chanDies d ch) then d
  else
    let rids := (chan d ch).raw.map (·.rid)
    let d1 := updLan (fun l => { l with
      rjobs := updWhere (fun r => rids.contains r.id) (fun r => { r with st := .fresh }) l.rjobs }) d
    let d2 := chanBlock ch { d1 with rst := { d1.rst with chans := d1.rst.chans.filter (· ≠ ch) } }
    (List.range 4).foldl (fun x k => if isOn x (domCh ch k) then domOn (domCh ch k) true (linksReset (domCh ch k) x) else x) d2

/-- A bit of rst_channel is written 1 (R577). -/
def chanReset (ch : Nat) (d : Dev) : Dev :=
  if d.rst.kind.isSome ∨ d.rst.chans.contains ch ∨ bit (od d 0x2000 5) ch then d
  else
    let d1 := cnt 0x2000 0x0A (putBit 0x2000 5 ch true { d with rst := { d.rst with chans := d.rst.chans ++ [ch] } })
    let d2 := rawLockUp (put 0x2052 2 0 (wpDefault ch (updChan ch (fun c => { c with trainWait := [] }) d1)))
    chanResetGo ch (kick ch (feedBands ((chanDies d ch).foldl (fun x n => undoDie n x) d2)))

/-- CHANNEL_IDENTIFY (R288, R577): a channel reset's identification begins once its operations have ended. -/
def execChannelIdentify (ch : Nat) (answers : List TargetAnswer) (s : State) : Host.Outcome State Fault Refusal :=
  run (fun d => if ch < d.cfg.channels then
      let d1 := chanResetGo ch d
      if d1.rst.chans.contains ch then d1 else identify ch answers d1
    else d) s

/-! ### The service state (R581) -/

/-- A request that is neither refused nor without effect changes svc_state; entering SERVICE lets held Tender
writes and waiting channels go on. -/
def svcSet (v : Nat) (d : Dev) : Dev := settle (put 0x2000 1 v d)

/-- The requests of R581 that are aborted STATE. -/
def svcBad (v : Nat) (d : Dev) : Bool :=
  let s := od d 0x2000 1
  if v = s then false
  else
    d.tele.pf || (match s, v with
      | 0, 3 => od d 0x6001 3 == 1
      | 0, 1 => od d 0x2100 8 != 2
      | 0, 2 => od d 0x2100 8 != 2
      | 3, 1 => od d 0x2100 8 != 2
      | 3, 2 => od d 0x2100 8 != 2
      | 1, 2 => false
      | 2, 1 => false
      | _, _ => true)

end Sys2Proof.Machine
end

