-- ==== Sys2Proof/Machine/OdRead.lean ====
section
/-! DEFINITION. What a read of a dictionary entry returns: the stored value, or the unit's own state where the entry
shows it (03_object_dictionary.md R104, R106, R114; the entry tables of every chapter). -/

namespace Sys2Proof.Machine

/-! ### Entries of fixed size that show a unit's state -/

/-- master_open (R126). -/
def openMask (d : Dev) : Nat := ((List.range 8).map (fun m => if (tabGet Master.reset d.masters m).xfer.isSome then 2 ^ m else 0)).sum

/-- Sensors that meet a test, a bit each. -/
def sensorMask (d : Dev) (f : Sensor → Bool) : Nat := ((List.range 64).map (fun i => if f (sensor d i) then 2 ^ i else 0)).sum

/-- Views of the global, Lantern, recovery and Clasp entries (R269, R202, R204, R212, R238, R420, R422, R423). -/
def viewCore (d : Dev) (key : Nat) : Option Nat :=
  match key with
  | 0x120003 => some (openMask d)
  | 0x205004 => some (rawLockCode d)
  | 0x210005 => some (mapNeed d)
  | 0x210009 => if od d 0x2100 8 = 0 then some (bitBlocks d) else none
  | 0x21000B => some (if d.geom.isSome then planes d else 0)
  | 0x21030A => some (openBands d).length
  | 0x21040D => some (freeBands d)
  | 0x21040E => some (totalBands d)
  | 0x21040F => some d.lan.relocs.length
  | 0x210410 => some (peMin d)
  | 0x210411 => some (peMax d)
  | 0x210412 => some (peMean d)
  | 0x210706 => some (failedUnits d)
  | 0x210904 => some (nAndNot (od d 0x2107 5) (((d.lan.wbs.map (·.2)).eraseDups.filter (· < 16)).map (2 ^ ·)).sum)
  | 0x240105 => some (huStatus d.tele)
  | 0x240106 => some (reserveUj d)
  | 0x240209 => some (tWait d)
  | 0x24020A => some (flushPrice d)
  | 0x24020B => some (flushUnits d)
  | _ => none

/-- Views of the Bell, Keeper, thermal and fault entries (R519, R534, R551, R566). -/
def viewUnits (d : Dev) (key : Nat) : Option Nat :=
  match key with
  | 0x260001 => some (d.srcs.filter (fun s => s.2.st == .pending)).length
  | 0x270002 => some ((List.range (domainCount d.cfg)).filter (fun n => (dom d n).moving)).length
  | 0x270003 => some ((List.range (domainCount d.cfg)).filter (fun n => (dom d n).st == .failed)).length
  | 0x28000C => some (sensorMask d (·.suspect))
  | 0x28000D => some (sensorMask d (·.stale))
  | 0x290302 => some d.sat.length
  | _ => none

/-- Views of the entries of an instance: base, instance, sub-index (R79, R190, R279, R294, R316, R373, R468, R500,
R518, R519, R535). -/
def viewInst (d : Dev) (b i sub : Nat) : Option Nat :=
  match b * 256 + sub with
  | 0x261004 => some (tgt d i).stack.length
  | 0x261005 => some (match (tgt d i).stack with
      | e :: _ => stackWord e
      | [] => 0)
  | 0x261008 => some (b2n (tgt d i).frozen)
  | 0x26100C => some (b2n (tgt d i).awake)
  | 0x300301 => some (chan d i).state
  | 0x300302 => some (poolUsed d i)
  | 0x300A02 => some (tsStatus d i)
  | 0x300B06 => some (trainWord d i)
  | 0x400106 => some (tch d i).jobs.length
  | 0x500005 => some (ingress d i)
  | 0x50000E =>
    let c := (port d i).got
    some (fld c.msg 48 16 + fld c.dat 32 16 + fld c.rsp 16 16 + fld c.req 0 16)
  | 0x510107 => some (inflight d i)
  | 0x510108 => some (openGroups d i)
  | 0x700001 =>
    let x := tabGet Dec.reset d.decs i
    let st := (dom d (domDec d.cfg i)).st
    some (if st ≠ .on ∧ st ≠ .drain then 0 else if x.jobs.isEmpty then 1
      else if st = .drain ∨ bit (od d 0x2107 3) i = true then 3 else 2)
  | 0x700002 => some (decUsed (tabGet Dec.reset d.decs i))
  | 0x780001 => some (sbState d i)
  | 0x780002 => some (sbUsedKib d i)
  | _ => none

/-- A unit's own value of an entry of fixed size, if the entry shows one. -/
def odView (d : Dev) (idx sub : Nat) : Option Nat :=
  match odBase d.cfg idx with
  | none => none
  | some (b, i) =>
    if b = 0x2650 then some (srcStateWord (src d (i * 64 + sub - 1)))
    else if b = 0x2720 then some (domStateWord (dom d (i * 64 + sub - 1)))
    else if b < 0x2600 then viewCore d (b * 256 + sub)
    else match viewUnits d (b * 256 + sub) with
      | some v => some v
      | none => viewInst d b i sub

/-- The value of an entry of fixed size; sub-index 0 holds the highest sub-index (R104). -/
def odNum (d : Dev) (idx sub : Nat) : Nat :=
  if sub = 0 then
    match odBase d.cfg idx with
    | some (b, i) => odHighest d.cfg b i
    | none => 0
  else (odView d idx sub).getD (od d idx sub)

/-! ### Byte strings -/

/-- A fault record's bytes (R559). -/
def Flt.bytes (r : Flt) : Bytes :=
  leBytes 8 r.ts ++ leBytes 2 r.seq ++ leBytes 1 (b2n r.phase + 2 * bits r.tb 0 2) ++ leBytes 1 r.cls ++
    leBytes 1 r.cause ++ [0] ++ leBytes 2 r.unit ++ leBytes 4 r.a ++ leBytes 4 r.b ++ leBytes 2 r.rep ++ zeros 6

/-- A memory-error record's bytes (R493). -/
def MemRec.bytes (r : MemRec) : Bytes :=
  leBytes 8 r.ts ++ leBytes 1 r.kind ++ leBytes 1 r.syn ++ leBytes 2 r.rep ++ leBytes 4 r.where_

/-- A lane queue's record of q_summary (R500). -/
def laneBytes (q k : Nat) (x : LaneQ) : Bytes :=
  leBytes 2 q ++ leBytes 2 x.ce ++ leBytes 1 (b2n x.under + 2 * b2n x.ceSat + 4 * b2n x.ue + 8 * b2n x.hi) ++ leBytes 1 k ++
    leBytes 2 x.peak

/-- q_summary (R500, log 16): the queues that links feed, then each port's ingress queue of 64 flits (R30, R475). -/
def queueSummary (d : Dev) : Bytes :=
  (layout d.cfg).queues.flatMap (fun q => laneBytes q (laneK q) (d.net.lane q)) ++
  (List.range d.cfg.ports).flatMap (fun p =>
    laneBytes (queueNo (some (domPort d.cfg p)) 4) 6 { LaneQ.reset with hi := (port d p).xoff, peak := (port d p).inPeak })

/-- The die state codes (R248). -/
def DieSt.code : DieSt → Nat
  | .idle => 0 | .read => 1 | .prog => 2 | .erase => 3 | .suspending => 4 | .suspended => 5 | .reset => 6
  | .failed => 7 | .off => 8

/-- A counter's sat_list record (R566). -/
def satBytes (key : Nat) : Bytes := leBytes 2 (key / 65536) ++ leBytes 1 (key / 256) ++ leBytes 1 key

/-- A node's reported temperature in 1/16 degree (R539, R550): the default before the first loop. -/
def nodeT16 (d : Dev) (n : Nat) : Nat := if d.therm.loopDone then ofInt (tdiv (nodeT d n) 4096) 16 else 0

/-- The byte strings of single entries (R372, R401, R438, R489, R493, R500, R534, R541, R550, R559, R566). -/
def bytesCore (d : Dev) (key : Nat) : Option Bytes :=
  match key with
  | 0x220101 => some (hmatBytes 0)
  | 0x220102 => some (hmatBytes 1)
  | 0x220103 => some (hmatBytes 2)
  | 0x210901 => some (fit 64 (getB d 0x2109 1))
  | 0x23030C => some (fit 256 d.lan.uecc.flatten)
  | 0x240407 => some (fit 512 d.clasp.probeLog.flatten)
  | 0x27000C => some (kpMap d.cfg)
  | 0x27000D => some (leBytes 32 d.wakeP)
  | 0x280408 => some ((List.range 6).flatMap (fun i => leBytes 4 (eMeasured d i)))
  | 0x280601 => some ((List.range 288).flatMap (fun n => leBytes 2 (nodeT16 d n)))
  | 0x280602 => some ((List.range 288).map (fun n => BitVec.ofNat 8 (nodeLevel d n)))
  | 0x280603 => some ((List.range 288).flatMap (fun n => leBytes 2 (node d n).gain))
  | 0x280604 => some ((List.range 64).flatMap (fun s => leBytes 2 (ofInt (sensor d s).last 16)))
  | 0x290001 => some (fit 2048 (d.flt.log.flatMap Flt.bytes))
  | 0x290301 => some ((d.sat.take 256).flatMap satBytes)
  | 0x291001 => some (fit 512 (d.memLog.log.flatMap MemRec.bytes))
  | 0x291101 => some (queueSummary d)
  | 0x600008 => some d.loader.mcRec
  | 0x600009 => some (fit 128 (getB d 0x6000 9))
  | _ => none

/-- The byte strings of an instance (R248, R263, R279, R288, R310, R384, R518). -/
def bytesInst (d : Dev) (b i idx sub : Nat) : Option Bytes :=
  match b * 256 + sub with
  | 0x230401 => some (fit 32768 (getB d idx sub))
  | 0x230402 => some (fit 32768 (getB d idx sub))
  | 0x230403 => some (fit 32768 (getB d idx sub))
  | 0x230404 => some (fit 32768 (getB d idx sub))
  | 0x261006 => some (fit 64 ((tgt d i).stack.reverse.flatMap (fun e => leBytes 4 (stackWord e))))
  | 0x300303 => some ((chanDies d i).map (fun n =>
      BitVec.ofNat 8 (if isOn d (domCh i 1) then (die d n).st.code else 8)))
  | 0x300304 => some ((chanDies d i).flatMap (fun n => (die d n).means.flatMap (leBytes 4)))
  | 0x300306 => some (chan d i).snap
  | 0x300307 => some (fit 16 (getB d idx sub))
  | 0x300501 => some (fit (diesPerCh d.cfg) (getB d idx sub))
  | 0x300502 => some (fit (diesPerCh d.cfg) (getB d idx sub))
  | 0x300C01 => some ((List.range d.cfg.targets).flatMap (trRec d i))
  | _ => none

/-- The present value of a STR or DOMAIN entry. -/
def odBytes (d : Dev) (idx sub : Nat) : Bytes :=
  match odBase d.cfg idx with
  | none => []
  | some (b, i) => match bytesCore d (b * 256 + sub) with
    | some v => v
    | none => (bytesInst d b i idx sub).getD (getB d idx sub)

/-! ### What INFO tells (R105, R106, R114) -/

/-- Type, access class and fixed size of an entry; sub-index 0 is a U8 CONST. -/
def odKind (c : Params) (idx sub : Nat) : Option (OdTy × OdAcc) :=
  if sub = 0 then (if odDefined c idx then some (.u8, .const) else none)
  else (odRow c idx sub).map (fun x => (x.1.ty, x.1.acc))

/-- The size INFO reports: the type's, or the present length. -/
def odLen (d : Dev) (idx sub : Nat) (t : OdTy) : Nat := if t.fixed then t.size else (odBytes d idx sub).length

end Sys2Proof.Machine
end

