-- ==== Sys2Proof/Machine/OdWrite.lean ====
section
/-! DEFINITION. The checks a write of a dictionary entry passes: ownership, access class, quiescing and locks, range
(03_object_dictionary.md R105 to R110, R127 to R130, R597; the entry tables of every chapter). -/

namespace Sys2Proof.Machine

/-- The abort codes (R125). -/
def Abort.code : Abort → Nat
  | .toggle => 0x05030000 | .timeout => 0x05040000 | .unknownCmd => 0x05040001 | .version => 0x05040002
  | .crc => 0x05040004 | .noXfer => 0x05040005 | .writeOnly => 0x06010001 | .readOnly => 0x06010002
  | .noObject => 0x06020000 | .hwError => 0x06060000 | .length => 0x06070010 | .noSubindex => 0x06090011
  | .valueRange => 0x06090030 | .notOwner => 0x08000020 | .notQuiesced => 0x08000021 | .conflict => 0x08000022
  | .locked => 0x08000023 | .superseded => 0x08000024 | .busy => 0x08000025 | .size => 0x08000026
  | .state => 0x08000027 | .disabled => 0x08000028

/-- A master's context. -/
def master (d : Dev) (m : Nat) : Master := tabGet Master.reset d.masters m

/-- Changes a master's context. -/
def updMaster (m : Nat) (f : Master → Master) (d : Dev) : Dev :=
  { d with masters := tabSet Master.reset d.masters m (f (master d m)) }

/-- A master may issue commands (R128). -/
def enabled (d : Dev) (m : Nat) : Bool := bit (od d 0x1200 1) m

/-! ### Ownership and conflicts (R126, R127, R130) -/

/-- The owner of a group; 0xFF none. -/
def grpOwner (d : Dev) (g : Nat) : Nat := od d 0x1201 (g + 1)

/-- A master owns the group of an index. -/
def owns (d : Dev) (m idx : Nat) : Bool := grpOwner d (odGroup idx) == m

/-- The group of the index is closed to the master: only its owner writes there, but an owner may always release its
own group (R127). -/
def notOwner (d : Dev) (m idx sub : Nat) (v : Option Nat) : Bool :=
  od d 0x1202 (odGroup idx + 1) == 1 && !owns d m idx &&
  !(idx == 0x1201 && 1 ≤ sub && v == some 0xFF && od d 0x1201 sub == m)

/-- The other master whose open block write holds an entry (R130). -/
def holder (d : Dev) (m key : Nat) : Option Nat :=
  (d.masters.find? (fun x => x.1 != m && (match x.2.xfer with
    | some t => t.wr && t.key == key
    | none => false))).map (·.1)

/-- The hold turns a write away (R130). -/
def held (d : Dev) (m idx sub : Nat) : Bool :=
  match holder d m (ek idx sub) with
  | none => false
  | some h => !(owns d m idx && !owns d h idx)

/-! ### Quiescing (R107, R239, R279, R285, R356, R362, R395, R444, R457, R519) -/

/-- Programmed channels at rest (R457). -/
def progIdle (d : Dev) : Bool :=
  (List.range 64).all (fun n => !(isProg d n && [1, 2, 3, 4].contains (chState d n)))

/-- The owning domain of an RWQ entry is quiesced: it is not ON, or its unit's condition holds. -/
def quiesced (d : Dev) (b i : Nat) : Bool :=
  if b = 0x1100 then od d 0x1100 1 == 0
  else if 0x2100 ≤ b ∧ b < 0x2300 then lanternIdle d || !isOn d (domLan d.cfg)
  else if 0x2300 ≤ b ∧ b < 0x2400 then od d 0x2301 1 != 0 || !isOn d (domLan d.cfg)
  else if b = 0x2402 then od d 0x2402 1 == 1
  else if b = 0x2500 then (lanternIdle d && progIdle d) || (!isOn d (domTender d.cfg 0) && !isOn d (domTender d.cfg 1))
  else if b = 0x2610 then ((tgt d i).stack.isEmpty && (tgt d i).run.isNone) || !isOn d (domBell d.cfg)
  else if b = 0x3005 then
    !isOn d (domCh i 0) || (!(chan d i).armed && decide (activeTs d i 2 ≤ 3600))
  else if b = 0x3006 then lanternIdle d || !isOn d (domCh i 2)
  else if 0x3000 ≤ b ∧ b < 0x4000 then lanternIdle d || !isOn d (domCh i 1)
  else if b = 0x5100 then ringState d i == 0
  else true

/-! ### Access classes (R106, R109) -/

/-- RO entries of four bytes that are no event counters. -/
def noClear (b sub : Nat) : Bool :=
  [0x210009, 0x21040D, 0x21040E, 0x240104, 0x240106, 0x240209, 0x24020A, 0x24020B, 0x240405, 0x240408, 0x28000E,
   0x400105].contains (b * 256 + sub) || b == 0x6002 || b == 0x6003

/-- An RO entry that takes a write of 0: an event counter (R109), or src_state (R504, R518). -/
def clearable (b sub : Nat) (t : OdTy) : Bool := (t == .u32 && !noClear b sub) || b == 0x2650

/-- The access class turns a write of a value away; `zero` says that the value is 0. -/
def accessAbort (b sub : Nat) (t : OdTy) (a : OdAcc) (zero : Bool) : Option Abort :=
  match a with
  | .ro => if zero && (clearable b sub t || b * 256 + sub == 0x210901) then none else some .readOnly
  | .const => some .readOnly
  | _ => none

/-! ### Service states and locks (R201, R239, R262, R269, R278, R293, R296, R340, R344, R427, R433, R446, R462, R492,
R581) -/

/-- The timing set's arm changes the mode while the channel is not empty, or its channel reset runs (R296). -/
def armState (d : Dev) (ch : Nat) : Bool :=
  !(chan d ch).armed && modeChange d ch && (!chanQuiet d ch || d.rst.chans.contains ch)

/-- The stored sset_table fits stripe_n (R197, R201). -/
def ssetFits (d : Dev) : Bool :=
  let b := getB d 0x2102 2
  b.isEmpty || (b.length % 64 == 0 && ssetOk d (od d 0x2102 1) b)

/-- A write that the present state turns away, by entry and value. -/
def stateAbort (d : Dev) (b i sub v : Nat) : Option Abort :=
  let st := fun (bad : Bool) => if bad then some Abort.state else none
  match b * 256 + sub with
  | 0x200002 => if v ≤ 3 then st (svcBad v d) else none
  | 0x205002 => st (d.rawp.lock != .opened)
  | 0x205201 => if od d 0x2052 2 = 1 then some .locked else none
  | 0x205202 => if od d 0x2052 2 = 1 then some .locked else none
  | 0x210006 => st (v == 1 && (od d 0x2100 8 == 0 || od d 0x2100 8 == 1))
  | 0x210007 => if v = 1 ∧ ¬ lanternIdle d then some .notQuiesced else none
  | 0x240002 => st (v == 1 && !(od d 0x2000 1 == 1 || od d 0x2000 1 == 2))
  | 0x240003 => st (v == 1 && od d 0x2109 3 != 0)
  | 0x240409 => st (v == 1 && !(od d 0x2000 1 == 3 && od d 0x2100 8 == 0))
  | 0x300507 => st (v == 1 && !chanQuiet d i)
  | 0x300A01 => st (v == 1 && armState d i)
  | 0x400002 => st (v == 1 && (!isProg d i || [1, 2, 3, 4].contains (chState d i)))
  | 0x400003 => st (v == 1 && !isProg d i)
  | 0x60000A => st (v == 1 && d.loader.busy)
  | 0x600101 => st d.loader.busy
  | 0x600102 => st (v == 1 && (od d 0x2000 1 != 0 || d.loader.busy))
  | _ => none

/-! ### Ranges -/

/-- A power of two. -/
def pow2 (v : Nat) : Bool := (List.range 17).any (fun k => v == 2 ^ k)

/-- A set of bounds starts at its least value and ascends strictly (R383). -/
def boundsOk (least : Int) (l : List Int) : Bool := l.head? == some least && decide (l.Pairwise (· < ·))

/-- Bits outside a mask. -/
def outside (v mask : Nat) : Bool := nAndNot v mask != 0

/-- The rates of an interface by R281 and R282. -/
def rateRange (d : Dev) (i v : Nat) : Bool :=
  decide ([10, 40, 66, 66, 66, 66].getD i 0 ≤ v) && decide (v ≤ [50, 200, 800, 1600, 4800, 3200].getD i 0) &&
    decide (v ≤ d.cfg.rate)

/-- Threshold order with one of the five replaced (R545). -/
def threshOk (d : Dev) (idx sub v : Nat) : Bool :=
  let t := fun (s : Nat) => if s = sub then sext v 8 else odI d idx s
  decide (t 5 < t 4) && decide (t 4 < t 1) && decide (t 1 < t 2) && decide (t 2 < t 3)

/-- A value outside what a global, Lantern, recovery, Clasp or Tender entry documents, beyond its row's range. -/
def coreRange (d : Dev) (m b sub v : Nat) : Bool :=
  match b * 256 + sub with
  | 0x110002 => v != 0 && !(8 ≤ v && v ≤ 0x77)
  | 0x110004 => v / 2 ^ 48 != 0
  | 0x120001 => !bit v m
  | 0x200003 => v != 0xB10C
  | 0x200004 => v != 0x50F7
  | 0x200005 => (List.range 32).any (fun ch => bit v ch && (decide (d.cfg.channels ≤ ch) || !bit (od d 0x2107 2) ch))
  | 0x205002 => !rawOk d (v % 256) (rawFields (.od m) (od d 0x2050 3) v)
  | 0x210002 => decide (d.cfg.ports ≤ v)
  | 0x210003 => v % 4096 != 0
  | 0x210007 => v == 1 && !(regionsOk d && ssetFits d)
  | 0x210201 => v < 3 || decide (d.cfg.channels - 1 < v)
  | 0x210307 => v / 16 != 0
  | 0x210402 => v < 1 || decide (od d 0x2104 1 ≤ v)
  | 0x210404 => decide (v < od d 0x2104 3) || 100 < v
  | 0x210602 => v % 2 ^ d.cfg.decoders == 0
  | 0x210705 => v == 0xFFFF
  | 0x230001 => outside v 0x3E
  | 0x230007 => outside v 0x77
  | 0x230008 => outside v 0x7777
  | 0x230106 => !boundsOk 0 ((List.range 4).map (fun k => (bits v (8 * k) 8 : Int)))
  | 0x230109 => !boundsOk (-128) ((List.range 4).map (fun k => sext (bits v (8 * k) 8) 8))
  | 0x24000F => decide (v ≤ od d 0x2400 0x0E)
  | 0x250002 => 48 < (setBits v 64).length
  | 0x250005 => v % 512 != 0 || decide (d.cfg.sbMib * 1024 < v + od d 0x2500 6)
  | 0x250006 => v % 512 != 0 || decide (d.cfg.sbMib * 1024 < v + od d 0x2500 5)
  | 0x280004 => 63 < v && v != 0xFF
  | 0x290006 => outside v 0x3FF
  | 0x600105 => decide (v < od d 0x6001 5)
  | _ => b == 0x1201 && 7 < v && v != 0xFF || b == 0x2101 && outside v 0x800F00FFFFFFFFFF ||
      b == 0x2101 && 8 < bits v 48 4

/-- A value outside what an entry of an instance documents, beyond its row's range. -/
def instRange (d : Dev) (b i idx sub v : Nat) : Bool :=
  match b * 256 + sub with
  | 0x231003 => (List.range 4).any (fun k => bits v (8 * k) 8 / 2 ^ od d idx 1 != 0)
  | 0x261002 => decide (d.cfg.ports ≤ v)
  | 0x300308 => decide (diesPerCh d.cfg ≤ v)
  | 0x300601 => v == 2 && decide (od d (chIdx i 5) 4 < 2432)
  | 0x300602 => v == 2 && decide (od d (chIdx i 5) 4 < 2432)
  | 0x300802 => !rateRange d (shadowTs d i 1) v
  | 0x30080A => 4 < bits v 0 4 || 4 < bits v 4 4
  | 0x30080B => 4 < bits v 0 4 || 4 < bits v 4 4
  | 0x300A01 => v == 1 && !(chan d i).armed && !armOk d i
  | 0x400005 => decide (d.cfg.ports ≤ v)
  | 0x500003 => decide (od d idx 2 ≤ v)
  | 0x510001 => v == 1 && (decide (d.cfg.ports ≤ od d idx 3) ||
      (od d idx 2 == 1 && (decide (4096 < od d idx 6) || decide (4096 < od d idx 7))))
  | 0x510003 => decide (d.cfg.ports ≤ v)
  | 0x510004 => v % 4096 != 0
  | 0x510005 => v % 4096 != 0
  | 0x510006 => !pow2 v
  | 0x510007 => !pow2 v
  | _ => b == 0x2640 && outside v 0xC007070F || b == 0x2730 && outside v 3 ||
      b == 0x2801 && sub ≤ 5 && !threshOk d idx sub v ||
      b == 0x5107 && (outside v 0x0CFFF0B7 || bits v 26 2 == 3)

/-- A value outside an entry's documented range (R110). -/
def rangeAbort (d : Dev) (m idx b i sub v : Nat) (x : OdRow) : Option Abort :=
  let s : Int := if x.ty = .i8 then sext v 8 else (v : Int)
  if s < x.lo ∨ x.hi < s ∨ coreRange d m b sub v ∨ instRange d b i idx sub v then some .valueRange else none

/-- map_size is smaller than map_need at map_init (R211). -/
def sizeAbort (d : Dev) (b sub v : Nat) : Option Abort :=
  if b * 256 + sub = 0x210007 ∧ v = 1 ∧ od d 0x2100 4 < mapNeed d then some .size else none

/-! ### The checks of a write in order -/

/-- The first of a list of checks that turns a write away. -/
def firstAbort (l : List (Option Abort)) : Option Abort := l.findSome? id

/-- A write of an entry of fixed size, `len` bytes given: form, hold, ownership, class, state, value (the order by
log 20). `none`: the write proceeds. -/
def numAbort (d : Dev) (m idx sub len v : Nat) : Option Abort :=
  match odKind d.cfg idx sub with
  | none => if odDefined d.cfg idx then none else some .noObject
  | some (t, a) =>
    let form := if t = .dom ∨ (t = .str ∧ 8 < (odBytes d idx sub).length) ∨ (t.fixed ∧ len ≠ t.size) then some Abort.length
      else none
    match odBase d.cfg idx with
    | none => some .noObject
    | some (b, i) =>
      firstAbort [form, if held d m idx sub then some .conflict else none,
        if notOwner d m idx sub (some v) then some .notOwner else none,
        accessAbort b sub t a (v == 0),
        stateAbort d b i sub v,
        if a = .rwq ∧ ¬ quiesced d b i then some .notQuiesced else none,
        (odRow d.cfg idx sub).bind (fun x => if a = .ro then none else rangeAbort d m idx b i sub v x.1),
        sizeAbort d b sub v]

/-- The length of a byte string does not fit the entry (R597). -/
def lenAbort (c : Params) (b sub len : Nat) (t : OdTy) : Option Abort :=
  if t = .str then (if 4096 < len then some .size else none)
  else match domLen c b sub with
    | .exact n => if len = n then none else some .length
    | .max n => if len ≤ n then none else some .size

/-- The opening checks of a write of a byte string of a length: form, hold, ownership, class, state. -/
def openAbort (d : Dev) (m idx sub len : Nat) (zero : Bool) : Option Abort :=
  match odKind d.cfg idx sub with
  | none => if odDefined d.cfg idx then none else some .noObject
  | some (t, a) =>
    match odBase d.cfg idx with
    | none => some .noObject
    | some (b, i) =>
      firstAbort [if t.fixed then some .length else none,
        if held d m idx sub then some .conflict else none,
        if notOwner d m idx sub none then some .notOwner else none,
        accessAbort b sub t a zero,
        stateAbort d b i sub 0,
        if a = .rwq ∧ ¬ quiesced d b i then some .notQuiesced else none,
        lenAbort d.cfg b sub len t]

/-- Values of byte strings that R201 and R383 turn away; a STR holds printable characters (R597). -/
def bytesRange (d : Dev) (idx sub : Nat) (bs : Bytes) : Option Abort :=
  match idx * 256 + sub with
  | 0x100003 => if bs.all (fun c => 0x20 ≤ c.toNat && c.toNat ≤ 0x7E) then none else some .valueRange
  | 0x210202 => if bs.length % 64 ≠ 0 then some .length
      else if ssetOk d (od d 0x2102 1) bs then none else some .valueRange
  | 0x230107 => if boundsOk 0 ((List.range 8).map (fun k => (leAt bs (2 * k) 2 : Int))) then none else some .valueRange
  | 0x230108 => if boundsOk 0 ((List.range 8).map (fun k => (leAt bs (4 * k) 4 : Int))) then none else some .valueRange
  | 0x210901 => if bs.all (· == 0) then none else some .readOnly
  | _ => none

/-- Every check of a write of a whole byte string. -/
def bytesAbort (d : Dev) (m idx sub : Nat) (bs : Bytes) : Option Abort :=
  firstAbort [openAbort d m idx sub bs.length (bs.all (· == 0)), bytesRange d idx sub bs]

/-! ### Writes the spec calls unpredictable (R110, R271) -/

/-- The rule under which a write that names an entry, and that no check turns away, is a host-made error. -/
def writeError (d : Dev) (m idx sub : Nat) : Option Nat :=
  match odKind d.cfg idx sub with
  | none => if odDefined d.cfg idx then (if enabled d m then some 110 else none) else none
  | some _ =>
    if idx = 0x2050 ∧ (sub = 2 ∨ sub = 3 ∨ sub = 7) ∧ od d 0x2050 5 = 1 then some 271 else none

/-- A write of a number is a host-made error. -/
def numError (d : Dev) (m idx sub len v : Nat) : Option Nat :=
  if enabled d m && (numAbort d m idx sub len v).isNone then writeError d m idx sub else none

/-- A write of a byte string is a host-made error. -/
def bytesError (d : Dev) (m idx sub : Nat) (bs : Bytes) : Option Nat :=
  if enabled d m && (bytesAbort d m idx sub bs).isNone then writeError d m idx sub else none

end Sys2Proof.Machine
end

