-- ==== Sys2Proof/Machine/OdEffect.lean ====
section
/-! DEFINITION. What a write of a dictionary entry does once it has passed its checks (03_object_dictionary.md R109,
R122, R126 to R128; the entry tables of every chapter). -/

namespace Sys2Proof.Machine

/-! ### Transfers that close (R119 to R123) -/

/-- What the MU held for a block read that closed is applied (R123, R401, R493, R562). -/
def applyHeld (key : Nat) (d : Dev) : Dev :=
  if readHeld d key then d
  else if key = ek 0x2900 1 then fltRelease d
  else if key = ek 0x2910 1 then memRelease d
  else if key = ek 0x2303 0x0C then
    updLan (fun l => { l with
      uecc := (l.uecc ++ l.uHeld).drop (l.uecc.length + l.uHeld.length - 16), uHeld := [] }) d
  else if key = ek 0x2050 7 then (match d.rawp.hold with
    | some bs => putB 0x2050 7 bs { d with rawp := { d.rawp with hold := none } }
    | none => d)
  else d

/-- A master's open transfer closes; what its next continuation is told otherwise than NO_XFER. -/
def closeXfer (m : Nat) (why : Option Abort) (d : Dev) : Dev :=
  match (master d m).xfer with
  | none => d
  | some x => applyHeld x.key (updMaster m (fun c => { c with xfer := none, closed := why }) d)

/-- The same as an initiating command does it: counted as a supersession (R120, R128, R130). -/
def closeCounted (m : Nat) (d : Dev) : Dev :=
  closeXfer m none (if (master d m).xfer.isSome then cnt 0x1100 0x10 d else d)

/-! ### Masters and ownership (R126 to R128) -/

/-- grp_owner is written (R127): a release also clears grp_exclusive. -/
def setOwner (g v : Nat) (d : Dev) : Dev :=
  let d1 := put 0x1201 (g + 1) v d
  if v = 0xFF then put 0x1202 (g + 1) 0 d1 else d1

/-- A master loses its enable bit: its transfer closes and its groups are released (R128). -/
def dropMaster (m : Nat) (d : Dev) : Dev :=
  ((List.range 0x30).filter (groupDefined d.cfg)).foldl (fun x g => if grpOwner x g = m then setOwner g 0xFF x else x)
    (closeCounted m d)

/-- master_enable is written (R128). -/
def setEnable (v : Nat) (d : Dev) : Dev :=
  ((List.range 8).filter (fun m => bit (od d 0x1200 1) m && !bit v m)).foldl (fun x m => dropMaster m x) (put 0x1200 1 v d)

/-! ### Entries with an effect of their own -/

/-- id_rerun (R293). -/
def idRerun (ch : Nat) (d : Dev) : Dev := startIdent ch d

/-- A completion written to tgt_eoi (R503, R514): counted when out of range; it waits while Bell is not in ON. -/
def tgtEoi (t v : Nat) (d : Dev) : Dev :=
  let w := BitVec.ofNat 32 (fld t 16 3 + v % 65536)
  if isOn d (domBell d.cfg) then bellEoi w d else { d with dbq := d.dbq ++ [.eoi w] }

/-- The global entries (R122, R269, R271, R573, R577, R581). -/
def effGlobal (m key v : Nat) (d : Dev) : Dev :=
  match key with
  | 0x120001 => setEnable v d
  | 0x200002 => if v = od d 0x2000 1 then d else svcSet v d
  | 0x200003 => rstTake .block 2 d
  | 0x200004 => rstTake .soft 3 d
  | 0x200005 => (setBits v 32).foldl (fun x ch => chanReset ch x) d
  | 0x205001 => rawUnlock m v d
  | 0x205002 => rawOd m v (put 0x2050 2 v d)
  | _ => putK key v d

/-- The Lantern, recovery and Clasp entries (R198, R235 to R240, R356, R418, R427, R433). -/
def effLantern (key v : Nat) (d : Dev) : Dev :=
  match key with
  | 0x210006 => ltQuiesce v d
  | 0x210007 => if v = 1 then put 0x2100 8 1 d else d
  | 0x210201 => put 0x2100 0x0A 1 (putK key v d)
  | 0x210702 => closeExcluded (putK key v d)
  | 0x210705 => dropWays v (putK key v d)
  | 0x240002 => if v = 1 ∧ mayFlush d then flushStart d else d
  | 0x240003 => if v = 1 then ckptTrigger d else d
  | 0x240409 => if v = 1 then put 0x2100 8 1 (put 0x2400 1 1 (put 0x2404 1 1 d)) else d
  | _ => if key / 256 = 0x2101 then put 0x2100 0x0A 1 (putK key v d) else putK key v d

/-- q_clear (R500): every queue's corrected count, flags and peak. -/
def qClear (d : Dev) : Dev :=
  let clear := fun (q : LaneQ) => { q with ce := 0, ceSat := false, under := false, ue := false, peak := 0 }
  let ls := d.net.lanes.map (fun (q : Nat × LaneQ) => (q.1, clear q.2))
  (List.range d.cfg.ports).foldl (fun x p => updPort p (fun y => { y with inPeak := 0 }) x)
    { d with net := { d.net with lanes := ls.filter (fun q => decide (q.2 ≠ LaneQ.reset)) } }

/-- The Bell, Keeper, thermal and fault entries (R504, R508, R514, R515, R524, R544, R563, R500). -/
def effUnits (m : Nat) (via : Option Nat) (b i sub key v : Nat) (d : Dev) : Dev :=
  if b = 0x2640 then updSrc (i * 64 + sub - 1) (fun x => { x with redir := false }) (putK key v d)
  else if b = 0x2650 then updSrc (i * 64 + sub - 1) (fun x => { x with ovf := false }) d
  else if b = 0x2710 then takeReq (i * 64 + sub - 1) v m via d
  else if b = 0x2730 then wakeRing (i * 64 + sub - 1) (putK key v d)
  else match b * 256 + sub with
    | 0x261007 => tgtEoi i v d
    | 0x261009 => if v = 1 then unfreeze i d else d
    | 0x28000B => (setBits v 64).foldl (fun x s => updSensor s (fun y => { y with suspect := false, fails := 0 }) x) d
    | 0x290004 => put 0x2900 3 (nAndNot (od d 0x2900 3) v) d
    | 0x291102 => if v = 1 then qClear d else d
    | _ => putK key v d

/-- The entries of an instance (R76, R189, R262, R279, R293, R296, R300, R308, R340, R344, R455, R462, R463). -/
def effInst (b i sub key v : Nat) (d : Dev) : Dev :=
  match b * 256 + sub with
  | 0x251001 => tmrEnable i v (putK key v d)
  | 0x300305 => if v = 1 then updChan i (fun c => { c with snap := buoySnap d i }) d else d
  | 0x300308 => reviveDie i v d
  | 0x300507 => if v = 1 then idRerun i d else d
  | 0x300601 => put 0x2100 0x0A 1 (putK key v d)
  | 0x300602 => put 0x2100 0x0A 1 (putK key v d)
  | 0x300A01 => if v = 1 then armSwap i d else d
  | 0x300B01 => trainReq i v d
  | 0x400002 => if v = 1 then chStart i d else d
  | 0x400003 => if v = 1 then chStop i d else d
  | 0x500002 => xoffUpdate i (putK key v d)
  | 0x500003 => xoffUpdate i (putK key v d)
  | 0x510001 => ringEnable i v d
  | 0x60000A => if v = 1 then mcRevert d else d
  | 0x600102 => if v = 1 then lktStart d else d
  | _ =>
    let d1 := putK key v d
    if b = 0x3008 then putBit (chIdx i 0x0A) 2 1 true d1 else d1

/-- The effect of an accepted write of an entry of fixed size (R122): a counter clears, an entry with a behaviour of
its own acts, any other stores the value. -/
def odEffect (m : Nat) (via : Option Nat) (idx sub v : Nat) (d : Dev) : Dev :=
  match odKind d.cfg idx sub, odBase d.cfg idx with
  | some (t, a), some (b, i) =>
    if a = .ro then (if b = 0x2650 then effUnits m via b i sub (ek idx sub) v d
      else if clearable b sub t then clearCnt idx sub d else d)
    else if idx = 0x1201 then setOwner (sub - 1) v d
    else if b < 0x2100 then effGlobal m (ek idx sub) v d
    else if b < 0x2500 ∧ b ≠ 0x2310 then effLantern (ek idx sub) v d
    else if 0x2600 ≤ b ∧ b < 0x3000 then effUnits m via b i sub (ek idx sub) v d
    else effInst b i sub (ek idx sub) v d
  | _, _ => d

/-- A stored value is written anew: an error in it is gone (R125, log 74). -/
def rewrite (idx sub : Nat) (d : Dev) : Dev := { d with odBad := d.odBad.filter (· ≠ ek idx sub) }

/-- The effect of an accepted write of a byte string (R118, R198, R236, R489). -/
def bytesEffect (idx sub : Nat) (bs : Bytes) (d : Dev) : Dev :=
  let d1 := putB idx sub bs (rewrite idx sub d)
  match idx * 256 + sub with
  | 0x210202 => put 0x2100 0x0A 1 d1
  | 0x210701 => closeExcluded d1
  | 0x210901 =>
    let d2 := putB idx sub [] (rewrite idx sub d)
    { d2 with sat := d2.sat.filter (fun x => x / 256 ≠ ek idx sub) }
  | _ => d1

/-- An accepted write closes the transfer of a holder that gave way (R130). -/
def closeHolder (m key : Nat) (d : Dev) : Dev :=
  match holder d m key with
  | none => d
  | some h => closeCounted h d

/-- A master writes a number to an entry. -/
def writeNum (m : Nat) (via : Option Nat) (idx sub len v : Nat) (d : Dev) : Option Abort × Dev :=
  match numAbort d m idx sub len v with
  | some a => (some a, d)
  | none => (none, odEffect m via idx sub v (rewrite idx sub (closeHolder m (ek idx sub) d)))

/-- A master replaces a byte string. -/
def writeBytes (m idx sub : Nat) (bs : Bytes) (d : Dev) : Option Abort × Dev :=
  match bytesAbort d m idx sub bs with
  | some a => (some a, d)
  | none => (none, bytesEffect idx sub bs (closeHolder m (ek idx sub) d))

/-! ### Commands end (R113, R124, R133, R141) -/

/-- A command ends: counted, with its abort, and od_done_source rings. -/
def countEnd (a : Option Abort) (d : Dev) : Dev :=
  let d1 := cnt 0x1100 0x0F d
  let d2 := match a with
    | none => d1
    | some x => if x = .conflict then cnt 0x1100 0x11 (cnt 0x1100 0x10 d1) else cnt 0x1100 0x10 d1
  ringUnit .ao (od d 0x1100 0x12) d2

/-- A master has issued a command (R126). -/
def seen (m : Nat) (d : Dev) : Dev := putBit 0x1200 2 m true d

/-- A write that a row of its own stands for: a whole write command of the master, whose window registers the row does
not name (log 21). -/
def rowNum (m : Nat) (via : Option Nat) (idx sub v : Nat) (d : Dev) : Dev :=
  let r := if enabled d m then writeNum m via idx sub (odSize d.cfg (ek idx sub)) v (seen m d) else (some .disabled, seen m d)
  countEnd r.1 r.2

/-- The same with a byte string. -/
def rowBytes (m idx sub : Nat) (bs : Bytes) (d : Dev) : Dev :=
  let r := if enabled d m then writeBytes m idx sub bs (seen m d) else (some .disabled, seen m d)
  countEnd r.1 r.2

end Sys2Proof.Machine
end

