-- ==== Sys2Proof/Machine/Od.lean ====
section
/-! DEFINITION. The transfer protocol of the object dictionary: one command of a master, whole (03_object_dictionary.md
R112 to R133). -/

namespace Sys2Proof.Machine

/-- How a command ends: its abort code if it is aborted, the bytes valid, a result and a data part where it returns
one. -/
structure OdAns where
  abort : Option Abort
  len : Nat
  result : Option Nat
  data : Option Bytes

/-- An aborted command. -/
def OdAns.bad (a : Abort) : OdAns := { abort := some a, len := 0, result := none, data := none }

/-- A command that ends DONE and returns nothing. -/
def OdAns.ok : OdAns := { abort := none, len := 0, result := none, data := none }

/-- A write's outcome. -/
def OdAns.ofWrite (a : Option Abort) : OdAns :=
  match a with
  | none => OdAns.ok
  | some x => OdAns.bad x

/-- The command word (R112). -/
def cmdWord (c : OdCmd) (q : OdReq) : Nat :=
  fld c.tag 56 8 + fld q.len 40 13 + fld q.seq 32 8 + fld q.cmd 24 8 + fld c.sub 16 8 + fld c.idx 0 16

/-- The status word (R113): DONE or ABORTED. -/
def statWord (c : OdCmd) (q : OdReq) (a : OdAns) : Nat :=
  fld c.tag 56 8 + fld a.len 40 13 + fld q.seq 32 8 + fld q.cmd 24 8 + (if a.abort.isSome then 3 else 2)

/-- Bytes written into ODW_BUF. -/
def putBuf (m off : Nat) (bs : Bytes) (d : Dev) : Dev :=
  updMaster m (fun c => { c with buf := tabWriteBytes (Config.bufByte m) c.buf off bs }) d

/-- A byte of ODW_BUF as it reads (R131): beyond the status word's len, 0. -/
def bufByte (d : Dev) (m off : Nat) : Byte :=
  if off < bits (master d m).stat 40 13 then tabGet (Config.bufByte m off) (master d m).buf off else 0

/-- The master's registers hold what a command sent (R131, R133); the words of the buffer it wrote are good again. -/
def takeCmd (c : OdCmd) (q : OdReq) (d : Dev) : Dev :=
  let own := match c.via with
    | some v => v.regs
    | none => false
  let d1 := seen c.m (updMaster c.m (fun x => { x with
    cmd := cmdWord c q, arg := if q.cmd = 2 ∨ q.cmd = 6 ∨ q.cmd = 9 then q.arg else x.arg,
    bufBad := if own then x.bufBad else x.bufBad.filter (fun w => decide (q.data.length ≤ 8 * w)) }) d)
  if own then d1 else putBuf c.m 0 q.data d1

/-- The command ends (R113, R124): status, abort code, result and data part; a register it returns nothing for keeps
its value. -/
def endCmd (c : OdCmd) (q : OdReq) (a : OdAns) (d : Dev) : Dev :=
  let d1 := updMaster c.m (fun x => { x with
    stat := statWord c q a, job := none,
    abort := match a.abort with
          | none => 0
          | some y => y.code,
    result := a.result.getD x.result }) d
  countEnd a.abort (match a.data with
    | none => d1
    | some bs => putBuf c.m 0 bs (updMaster c.m (fun x => { x with bufBad := x.bufBad.filter (fun w => decide (bs.length ≤ 8 * w)) }) d1))

/-! ### Reads -/

/-- What keeps an entry from being read: it does not exist, it is WO, or its stored value has an uncorrectable error
(R106, R110, R125). -/
def readAbort (d : Dev) (idx sub : Nat) : Option Abort :=
  match odKind d.cfg idx sub with
  | none => if odDefined d.cfg idx then some .noSubindex else some .noObject
  | some (_, a) => if a = .wo then some .writeOnly else if d.odBad.contains (ek idx sub) then some .hwError else none

/-- The form of a read: expedited takes no DOMAIN and no long STR, the others no fixed-size type (R115, R116). -/
def readForm (d : Dev) (idx sub : Nat) (exp : Bool) : Option Abort :=
  match odKind d.cfg idx sub with
  | none => none
  | some (t, _) =>
    if exp then (if t = .dom ∨ (t = .str ∧ 8 < (odBytes d idx sub).length) then some .length else none)
    else if t.fixed then some .length else none

/-- The value of a byte string as every reader sees it: while a block read of an entry that hardware updates is open,
what it holds (R123). -/
def heldBytes (d : Dev) (idx sub : Nat) : Bytes :=
  match odKind d.cfg idx sub with
  | some (_, .ro) =>
    (match d.masters.findSome? (fun x => x.2.xfer.bind (fun t =>
        if ¬ t.wr ∧ t.key = ek idx sub then some t.got else none)) with
    | some bs => bs
    | none => odBytes d idx sub)
  | _ => odBytes d idx sub

/-- EXP_READ (R115). -/
def expRead (idx sub : Nat) (d : Dev) : OdAns :=
  match firstAbort [readAbort d idx sub, readForm d idx sub true] with
  | some a => OdAns.bad a
  | none =>
    match odKind d.cfg idx sub with
    | some (t, _) =>
      if t.fixed then { abort := none, len := t.size, result := some (odNum d idx sub), data := none }
      else
        let bs := odBytes d idx sub
        { abort := none, len := bs.length, result := some (leNat bs), data := none }
    | none => OdAns.ok

/-- SEG_READ (R116). -/
def segRead (idx sub : Nat) (d : Dev) : OdAns :=
  match firstAbort [readAbort d idx sub, readForm d idx sub false] with
  | some a => OdAns.bad a
  | none =>
    let bs := heldBytes d idx sub
    if 4096 < bs.length then OdAns.bad .size
    else { abort := none, len := bs.length, result := none, data := some bs }

/-- INFO (R114). -/
def infoAns (idx sub : Nat) (d : Dev) : OdAns :=
  match odKind d.cfg idx sub with
  | none => OdAns.bad (if odDefined d.cfg idx then .noSubindex else .noObject)
  | some (t, a) =>
    { abort := none, len := 8, data := none,
      result := some (fld (odGroup idx) 48 8 + fld (odLen d idx sub t) 16 25 + fld a.code 8 8 + fld t.code 0 8) }

/-! ### Block transfers (R117 to R121) -/

/-- An initiating command closes an open transfer and counts it (R120). -/
def supersede (m : Nat) (d : Dev) : Dev :=
  updMaster m (fun c => { c with closed := none }) (closeCounted m d)

/-- A transfer opens. -/
def openXfer (m : Nat) (x : Xfer) (d : Dev) : Dev := updMaster m (fun c => { c with xfer := some x, closed := none }) d

/-- BLK_READ_INIT (R117). -/
def blkReadInit (m idx sub : Nat) (d0 : Dev) : OdAns × Dev :=
  let d := supersede m d0
  match firstAbort [readAbort d idx sub, readForm d idx sub false] with
  | some a => (OdAns.bad a, d)
  | none =>
    let bs := heldBytes d idx sub
    ({ abort := none, len := 4, result := some bs.length, data := none },
      openXfer m { wr := false, key := ek idx sub, total := bs.length, seq := 0, got := bs, done := 0 } d)

/-- BLK_WRITE_INIT (R118). -/
def blkWriteInit (m idx sub total : Nat) (d0 : Dev) : OdAns × Dev :=
  let d := supersede m d0
  match openAbort d m idx sub total true with
  | some a => (OdAns.bad a, d)
  | none => (OdAns.ok, openXfer m { wr := true, key := ek idx sub, total := total, seq := 0, got := [], done := 0 }
      (closeHolder m (ek idx sub) d))

/-- A continuation without a matching open transfer (R119 to R121): TIMEOUT once after an idle close, else NO_XFER; an
open transfer stays. -/
def noXfer (m : Nat) (d : Dev) : OdAns × Dev :=
  (OdAns.bad ((master d m).closed.getD .noXfer), updMaster m (fun c => { c with closed := none }) d)

/-- An aborted continuation closes the transfer (R119). -/
def contBad (m : Nat) (a : Abort) (d : Dev) : OdAns × Dev := (OdAns.bad a, closeXfer m none d)

/-- The open transfer of a master that a continuation matches. -/
def matching (d : Dev) (m idx sub : Nat) (dir : Option Bool) : Option Xfer :=
  (master d m).xfer.bind (fun x => if x.key = ek idx sub ∧ (dir = none ∨ dir = some x.wr) then some x else none)

/-- BLK_READ_NEXT (R117, R119). -/
def blkReadNext (m idx sub seq : Nat) (d : Dev) : OdAns × Dev :=
  match matching d m idx sub (some false) with
  | none => noXfer m d
  | some x =>
    if seq % 256 ≠ x.seq then contBad m .toggle d
    else
      let bs := (x.got.drop x.done).take 4096
      ({ abort := none, len := bs.length, result := none, data := some bs },
        openXfer m { x with seq := (x.seq + 1) % 256, done := x.done + bs.length } d)

/-- A data part that came from the master's buffer holds a word with an uncorrectable error (R125). -/
def badBuf (d : Dev) (m n : Nat) : Bool := (master d m).bufBad.any (fun w => decide (8 * w < n))

/-- BLK_WRITE_NEXT (R118, R119): `len` is the command word's, which the data part has to match (R137). A block of 0
bytes, which R118 does not speak of, is aborted LENGTH (DESIGN CHOICE, log 83). -/
def blkWriteNext (m idx sub seq len : Nat) (bs : Bytes) (d : Dev) : OdAns × Dev :=
  match matching d m idx sub (some true) with
  | none => noXfer m d
  | some x =>
    if seq % 256 ≠ x.seq then contBad m .toggle d
    else if badBuf d m bs.length then contBad m .hwError d
    else if len ≠ bs.length ∨ bs.isEmpty ∨ bs.length ≠ min 4096 (x.total - x.got.length) then contBad m .length d
    else (OdAns.ok, openXfer m { x with seq := (x.seq + 1) % 256, got := x.got ++ bs } d)

/-- BLK_END (R117, R118): the CRC of a read; length, CRC and value of a write. The transfer closes. -/
def blkEnd (m idx sub crc : Nat) (d0 : Dev) : OdAns × Dev :=
  match matching d0 m idx sub none with
  | none => noXfer m d0
  | some x =>
    let d := closeXfer m none d0
    if ¬ x.wr then ({ abort := none, len := 4, result := some (crc32c x.got), data := none }, d)
    else if x.got.length ≠ x.total then (OdAns.bad .length, d)
    else if crc % 2 ^ 32 ≠ crc32c x.got then (OdAns.bad .crc, d)
    else
      let r := writeBytes m idx sub x.got d
      (OdAns.ofWrite r.1, r.2)

/-- XFER_ABORT (R120). -/
def xferAbort (m : Nat) (d : Dev) : OdAns × Dev := (OdAns.ok, closeXfer m none d)

/-! ### One command -/

/-- What the commands of R114 do. A SEG_WRITE or block write carries its bytes in the data part. -/
def odCommand (c : OdCmd) (q : OdReq) (d : Dev) : OdAns × Dev :=
  match q.cmd with
  | 0x01 => (expRead c.idx c.sub d, d)
  | 0x02 =>
    let r := writeNum c.m (c.via.map (·.p)) c.idx c.sub q.len (q.arg % 2 ^ (8 * q.len)) d
    (OdAns.ofWrite r.1, r.2)
  | 0x03 =>
    let d1 := supersede c.m d
    (segRead c.idx c.sub d1, d1)
  | 0x04 =>
    let d1 := supersede c.m d
    if q.len ≠ q.data.length then (OdAns.bad .length, d1)
    else if badBuf d1 c.m q.len then (OdAns.bad .hwError, d1)
    else
      let r := writeBytes c.m c.idx c.sub q.data d1
      (OdAns.ofWrite r.1, r.2)
  | 0x05 => blkReadInit c.m c.idx c.sub d
  | 0x06 => blkWriteInit c.m c.idx c.sub (q.arg % 2 ^ 32) d
  | 0x07 => blkReadNext c.m c.idx c.sub q.seq d
  | 0x08 => blkWriteNext c.m c.idx c.sub q.seq q.len q.data d
  | 0x09 => blkEnd c.m c.idx c.sub q.arg d
  | 0x0A => xferAbort c.m d
  | 0x0B => (infoAns c.idx c.sub d, d)
  | _ => (OdAns.bad .unknownCmd, d)

/-- A command that has been taken runs and ends (R124, R128), with its answer. -/
def odFinish (c : OdCmd) (q : OdReq) (d : Dev) : OdAns × Dev :=
  let r := if enabled d c.m then odCommand c q d else (OdAns.bad .disabled, d)
  (r.1, endCmd c q r.1 r.2)

/-- A command from its write of ODW_CMD, or its MCTP request, to its end (R133), with its answer. -/
def odServe (c : OdCmd) (q : OdReq) (d : Dev) : OdAns × Dev := odFinish c q (takeCmd c q d)

/-! ### Host-made errors of the dictionary (R11, R110, R141, R271, R553, R554) -/

/-- The bytes a BLK_END of a write would store. -/
def endBytes (d : Dev) (c : OdCmd) (arg : Nat) : Option Bytes :=
  match matching d c.m c.idx c.sub (some true) with
  | none => none
  | some x => if x.got.length = x.total ∧ arg % 2 ^ 32 = crc32c x.got then some x.got else none

/-- A command is a host-made error: a write of R110 or R271, or a fabric agent under the master ID of the I3C
link while that link is in use (R141). -/
def odError (c : OdCmd) (q : OdReq) (d : Dev) : Option Nat :=
  if c.via.isSome ∧ c.m = od d 0x1100 6 ∧ od d 0x1100 1 = 1 then some 141
  else match q.cmd with
    | 0x02 => numError d c.m c.idx c.sub q.len (q.arg % 2 ^ (8 * q.len))
    | 0x04 => bytesError d c.m c.idx c.sub q.data
    | 0x06 => (match odKind d.cfg c.idx c.sub with
      | none => if odDefined d.cfg c.idx ∧ enabled d c.m then some 110 else none
      | some _ => none)
    | 0x09 => (match endBytes d c q.arg with
      | none => none
      | some bs => bytesError (closeXfer c.m none d) c.m c.idx c.sub bs)
    | _ => none

/-- A write to an undefined sub-index leaves every entry of that index undefined (R110, R554): free values. CONST
entries are fixed, and master_enable stays, so that the OD stays reachable (R11). -/
def freeIndex (idx : Nat) (d : Dev) : Dev :=
  (List.range 255).foldl (fun x i => match odKind x.cfg idx (i + 1) with
    | some (t, a) =>
      if a = .const ∨ ek idx (i + 1) = 0x120001 then x
      else if t.fixed then
        let v := freeWide x
        put idx (i + 1) v.1 v.2
      else
        let v := freeBytes (getB x idx (i + 1)).length x
        putB idx (i + 1) v.1 v.2
    | none => x) d

/-- Two users of one transfer context: whether its transfer is open, its registers and its buffer are free (R141). -/
def freeMaster (m : Nat) (d : Dev) : Dev :=
  let a := freeWide d
  let b := freeWide a.2
  let c := freeWide b.2
  updMaster m (fun x => { x with stat := a.1, result := b.1, abort := c.1 % 2 ^ 32, buf := [],
                                 xfer := if bit (c.1 / 2 ^ 32) 0 then x.xfer else none }) c.2

/-- The raw operation in progress and the one written end with free results (R271, R554). -/
def rawFree (d : Dev) : Dev := { d with rawp := { d.rawp with wild := true } }

/-- What the error's row leaves undefined, by its rule: the entries of the index (110), the transfers of the master
(141), the raw operation in progress and the one written (271). The errors of descriptors, SQ entries and Bell's targets
have their free values where they act (log 26). -/
def odFree (c : OdCmd) (rule : Nat) (d : Dev) : Dev :=
  match rule with
  | 110 => freeIndex c.idx d
  | 141 => freeMaster c.m d
  | 271 => rawFree d
  | _ => d

/-- The state after a command. -/
def odRun (c : OdCmd) (q : OdReq) (d : Dev) : Dev :=
  let d1 := (odServe c q d).2
  match odError c q d with
  | none => d1
  | some r => odFree c r d1

/-! ### Transports (R131 to R133) -/

/-- The command's argument and data part, from the registers where the master wrote them before (R133). -/
def withRegs (c : OdCmd) (q : OdReq) (d : Dev) : OdReq :=
  match c.via with
  | some v =>
    let b := if q.cmd = 4 ∨ q.cmd = 8 then tabBytes (Config.bufByte c.m) (master d c.m).buf 0 q.len else q.data
    if v.regs then { q with arg := (master d c.m).arg, data := b } else q
  | none => q

/-- A write of ODW_CMD that the port has taken (R132, R133): REFUSED while the master's command before has not ended;
else answered OK, and it ends at once or, where the MU takes longer, with the next cycle that brings no command. -/
def windowCmd (v : Via) (c : OdCmd) (q0 : OdReq) (d : Dev) : Dev :=
  if (master d c.m).job.isSome then answer v.p 0xA 5 v.txid d
  else
    let q := withRegs c q0 d
    let d1 := answer v.p 0xA 0 v.txid d
    if ¬ v.later then odRun c q d1
    else updMaster c.m (fun x => { x with job := some (c, q), stat := fld c.tag 56 8 + fld q.seq 32 8 + fld q.cmd 24 8 + 1 })
      (takeCmd c q d1)

/-- A master's command that the MU has not ended yet ends (R124). -/
def endJobOf (m : Nat) (d : Dev) : Dev :=
  match (master d m).job with
  | none => d
  | some (c, q) =>
    let d1 := (odFinish c q d).2
    match odError c q d with
    | none => d1
    | some r => odFree c r d1

/-- Every command under way ends. -/
def endJobs (d : Dev) : Dev := (List.range 8).foldl (fun x m => endJobOf m x) d

/-- A row of the transfer protocol: through a window, or from the I3C link. -/
def odExec (i : Instr) (c : OdCmd) (q : OdReq) (s : State) : Host.Outcome State Fault Refusal :=
  match c.via with
  | none => run (odRun c q) s
  | some v => inbound v.p .msg i never (run (windowCmd v c q)) s

/-! ### The rows -/

/-- A request with nothing sent. -/
def bareReq (cmd seq : Nat) : OdReq := { cmd := cmd, seq := seq, len := 0, arg := 0, data := [] }

/-- EXP_READ (R115). -/
def execExpRead (c : OdCmd) (s : State) : Host.Outcome State Fault Refusal := odExec (.expRead c) c (bareReq 1 c.seq) s

/-- The request of a write in one of its forms (R114). -/
def formReq (seq : Nat) (f : WrForm) : OdReq :=
  match f with
  | .exp len arg => { cmd := 2, seq := seq, len := len, arg := arg, data := [] }
  | .seg data => { cmd := 4, seq := seq, len := data.length, arg := 0, data := data }
  | .init total => { cmd := 6, seq := seq, len := 4, arg := total, data := [] }

/-- Two masters write one entry in one window (R129): the owner of its group wins, else the lower ID. -/
def firstWins (d : Dev) (a b idx : Nat) : Bool := owns d a idx || (!owns d b idx && a < b)

/-- The write that loses ends CONFLICT and has no effect (R129). -/
def loseCmd (c : OdCmd) (q : OdReq) (d : Dev) : Dev := endCmd c q (OdAns.bad .conflict) (takeCmd c q d)

/-- A write through its window, if it came through one, is answered OK. -/
def viaOkAnswer (v : Option Via) (d : Dev) : Dev :=
  match v with
  | some w => answer w.p 0xA 0 w.txid d
  | none => d

/-- A write of an entry, alone or against a rival of the same window (R129, R130). -/
def writeRow (i : Instr) (c : OdCmd) (f : WrForm) (rival : Option Rival) (s : State) : Host.Outcome State Fault Refusal :=
  match rival with
  | none => odExec i c (formReq c.seq f) s
  | some r =>
    let c2 : OdCmd := { c with m := r.m, tag := r.tag, seq := r.seq, via := r.via }
    run (fun d0 =>
      let d := viaOkAnswer r.via (viaOkAnswer c.via d0)
      let q := withRegs c (formReq c.seq f) d
      let q2 := withRegs c2 (formReq r.seq r.form) d
      if r.m = c.m ∨ ¬ enabled d r.m ∨ ¬ enabled d c.m then odRun c q (odRun c2 q2 d)
      else if firstWins d c.m r.m c.idx then loseCmd c2 q2 (odRun c q d)
      else loseCmd c q (odRun c2 q2 d)) s

/-- EXP_WRITE (R115), alone or against a rival of the same window (R129). -/
def execExpWrite (c : OdCmd) (len arg : Nat) (rival : Option Rival) (s : State) : Host.Outcome State Fault Refusal :=
  writeRow (.expWrite c len arg rival) c (.exp len arg) rival s

/-- SEG_READ (R116). -/
def execSegRead (c : OdCmd) (s : State) : Host.Outcome State Fault Refusal := odExec (.segRead c) c (bareReq 3 c.seq) s

/-- SEG_WRITE (R116), alone or against a rival (R129, R130). -/
def execSegWrite (c : OdCmd) (data : Contested Bytes) (s : State) : Host.Outcome State Fault Refusal :=
  writeRow (.segWrite c data) c (.seg data.val) data.rival s

/-- BLK_READ_INIT (R117). -/
def execBlkReadInit (c : OdCmd) (s : State) : Host.Outcome State Fault Refusal := odExec (.blkReadInit c) c (bareReq 5 c.seq) s

/-- BLK_WRITE_INIT (R118), alone or against a rival (R129, R130). -/
def execBlkWriteInit (c : OdCmd) (total : Contested Nat) (s : State) : Host.Outcome State Fault Refusal :=
  writeRow (.blkWriteInit c total) c (.init total.val) total.rival s

/-- BLK_READ_NEXT (R117). -/
def execBlkReadNext (c : OdCmd) (seq : Nat) (s : State) : Host.Outcome State Fault Refusal :=
  odExec (.blkReadNext c seq) c (bareReq 7 seq) s

/-- BLK_WRITE_NEXT (R118). -/
def execBlkWriteNext (c : OdCmd) (seq : Nat) (data : Bytes) (s : State) : Host.Outcome State Fault Refusal :=
  odExec (.blkWriteNext c seq data) c { cmd := 8, seq := seq, len := data.length, arg := 0, data := data } s

/-- BLK_END (R117, R118). -/
def execBlkEnd (c : OdCmd) (crc : Nat) (s : State) : Host.Outcome State Fault Refusal :=
  odExec (.blkEnd c crc) c { cmd := 9, seq := c.seq, len := 4, arg := crc, data := [] } s

/-- XFER_ABORT (R120). -/
def execXferAbort (c : OdCmd) (s : State) : Host.Outcome State Fault Refusal := odExec (.xferAbort c) c (bareReq 10 c.seq) s

/-- INFO (R114). -/
def execInfo (c : OdCmd) (s : State) : Host.Outcome State Fault Refusal := odExec (.info c) c (bareReq 11 c.seq) s

/-- UNKNOWN_CMD (R114): a code that R114 does not define. A code that it defines names another row. -/
def execUnknownCmd (c : OdCmd) (code : Nat) (s : State) : Host.Outcome State Fault Refusal :=
  if 1 ≤ code % 256 ∧ code % 256 ≤ 11 then run id s
  else odExec (.unknownCmd c code) c (bareReq (code % 256) c.seq) s

/-- XFER_TIMEOUT (R121). -/
def execXferTimeout (m : Nat) (s : State) : Host.Outcome State Fault Refusal :=
  run (closeXfer m (some .timeout)) s

/-! ### The window's registers (R62, R131, R132) -/

/-- What a READ of the window returns: bytes, and whether they hold a word with an uncorrectable error (R67, R131). -/
def windowRead (d : Dev) (mid off len : Nat) : Bytes × Bool :=
  let x := master d mid
  match off with
  | 0x10 => (leBytes len x.stat, false)
  | 0x18 => (leBytes len x.result, false)
  | 0x20 => (leBytes len x.abort, false)
  | 0x8000 => (leBytes len 0x00030200, false)
  | 0x8004 => (leBytes len (od d 0x2000 1), false)
  | 0x8008 => (leBytes len mid, false)
  | _ => ((List.range len).map (fun i => bufByte d mid (off - 0x1000 + i)),
      x.bufBad.any (fun w => decide (8 * w < off - 0x1000 + len) && decide (off - 0x1000 < 8 * w + 8)))

/-- The answer of the target-side window to a request it does not take; none for one that it takes (R62, R131, R147). -/
def windowStatus (d : Dev) (h : ReqHdr) : Option Nat :=
  let m4 := h.cls == .msg && h.op == 4 && !h.msz
  let m8 := h.cls == .msg && h.op == 4 && h.msz
  let rd := fun (n : Nat) => h.cls == .req && h.op == 1 && h.len == n
  let kind := fun (ok : Bool) => if ok then none else some 3
  let o := h.addr % 2 ^ 24
  if o < 0x4000 then
    if d.cfg.rings ≤ o / 64 then some 2
    else if o % 64 = 0 then kind (m4 || m8)
    else if o % 64 = 4 then kind m4
    else some 2
  else if o < 0x4008 then kind (m4 && o % 4 == 0)
  else if o < 0x10000 ∨ 0x20000 ≤ o then some 2
  else
    let w := o - 0x10000
    if w = 0 ∨ w = 8 then kind m8
    else if w = 0x10 ∨ w = 0x18 then kind (rd 8)
    else if w = 0x20 ∨ w = 0x8000 ∨ w = 0x8004 ∨ w = 0x8008 then kind (rd 4)
    else if 0x1000 ≤ w ∧ w < 0x2000 then kind (m4 || m8 || rd 4 || rd 8)
    else some 2

/-- A request of the window: turned away (R62), or a READ answered with its data; a bad word makes it BUS_ERROR with
poison (R66, R67). Writes that the window takes have rows of their own. -/
def windowReq (p : Nat) (h : ReqHdr) (d : Dev) : Dev :=
  match windowStatus d h with
  | some st => cnt (ptIdx p) 0x0A (if h.cls = .req ∧ h.op = 1 then answerRead p h.addr h.len st h.txid d
      else answer p (rspOp h.cls h.op) st h.txid d)
  | none =>
    if h.cls = .req then
      let r := windowRead d h.mid (h.addr % 2 ^ 24 - 0x10000) h.len
      answerData p h.addr (b2n r.2) h.txid r.1 (if r.2 then [(0, h.len)] else []) d
    else d

/-- TARGET_DECODE_ERROR (R62): a request by its header. -/
def execTargetDecodeError (p : Nat) (h : ReqHdr) (s : State) : Host.Outcome State Fault Refusal :=
  if ¬ opOk h.cls h.op ∨ (h.cls = .req ∧ h.op = 2) ∨ h.cls = .rsp then run id s
  else inbound p h.cls (.targetDecodeError p h) never (run (windowReq p h)) s

end Sys2Proof.Machine
end

