-- ==== Sys2Proof/Machine/OdRows.lean ====
section
/-! DEFINITION. The rows that are a write of one entry: each is a whole write command of a master, with the checks and
the effect of that entry (03_object_dictionary.md R106 to R110, R122; log 21). -/

namespace Sys2Proof.Machine

/-- A write that a row of its own stands for, with what a host-made error leaves undefined (R110, R271, R554). -/
def rowFree (m idx sub v : Nat) (d : Dev) : Dev :=
  let d1 := rowNum m none idx sub v d
  match numError d m idx sub (odSize d.cfg (ek idx sub)) v with
  | some 110 => freeIndex idx d1
  | some _ => rawFree d1
  | none => d1

/-- A write of a number to an entry by a row of its own. -/
def rowWrite (m : Nat) (idx sub v : Nat) (s : State) : Host.Outcome State Fault Refusal :=
  run (rowFree m idx sub v) s

/-- The same to an entry of an instance: an instance the configuration does not have is an index without entry (R110). -/
def rowAt (m i : Nat) (count : Params → Nat) (idx sub v : Nat) (s : State) : Host.Outcome State Fault Refusal :=
  rowWrite m (if i < count s.dev.cfg then idx else 0xFFFF) sub v s

/-- A window register other than ODW_CMD is written (R131, R132): REFUSED while the master's state is BUSY, else answered
OK. -/
def regWrite (m : Nat) (via : Option Win) (f : Dev → Dev) (d : Dev) : Dev :=
  match via with
  | some w => if (master d m).job.isSome then answer w.via.p 0xA 5 w.via.txid d else answer w.via.p 0xA 0 w.via.txid (f d)
  | none => if (master d m).job.isSome then d else f d

/-- A row that is a write of the window passes the ingress queue of its port. -/
def viaPort (i : Instr) (via : Option Win) (f : Dev → Dev) (s : State) : Host.Outcome State Fault Refusal :=
  match via with
  | some w => inbound w.via.p .msg i never (run f) s
  | none => run f s

/-- Words of ODW_BUF that a write covers whole are good again (R125). -/
def mendBuf (m off size : Nat) (d : Dev) : Dev :=
  updMaster m (fun x => { x with bufBad := x.bufBad.filter (fun w => !(decide (off ≤ 8 * w) && decide (8 * w + 8 ≤ off + size))) }) d

/-- A whole write command of an entry of fixed size through a window (R115, R133). -/
def winWrite (i : Instr) (m : Nat) (w : Win) (idx sub size v : Nat) (s : State) : Host.Outcome State Fault Refusal :=
  odExec i { m := m, via := some w.via, tag := w.tag, seq := w.seq, idx := idx, sub := sub }
    { cmd := 2, seq := w.seq, len := size, arg := v, data := [] } s

/-- OD_ENTRY_WRITE (R122, R131): an entry without a behaviour of its own, ODW_ARG, or 4 or 8 bytes of ODW_BUF. -/
def execOdEntryWrite (m : Nat) (via : Option Win) (t : WriteTarget) (v : Nat) (s : State) :
    Host.Outcome State Fault Refusal :=
  match t, via with
  | .entry idx sub, some w => winWrite (.odEntryWrite m via t v) m w idx sub (odSize s.dev.cfg (ek idx sub)) v s
  | .entry idx sub, none => rowWrite m idx sub v s
  | .arg, _ => viaPort (.odEntryWrite m via t v) via (regWrite m via (updMaster m (fun x => { x with arg := v % 2 ^ 64 }))) s
  | .buf off size, _ =>
    viaPort (.odEntryWrite m via t v) via (regWrite m via (fun d =>
      if off + size ≤ 4096 ∧ (size = 4 ∨ size = 8) then putBuf m off (leBytes size v) (mendBuf m off size d) else d)) s

/-- COUNTER_CLEAR (R109, R565 to R567): a counter entry, or mapc_way_ce as a whole. -/
def execCounterClear (m key v : Nat) (s : State) : Host.Outcome State Fault Refusal :=
  if key = 0x210901 then run (rowBytes m 0x2109 1 (leBytes 64 v)) s else rowWrite m (key / 256) (key % 256) v s

/-- MASTER_ENABLE (R128). -/
def execMasterEnable (m v : Nat) (s : State) : Host.Outcome State Fault Refusal := rowWrite m 0x1200 1 v s

/-- GRP_OWNER (R126, R127): the owner of group g. -/
def execGrpOwner (m g v : Nat) (s : State) : Host.Outcome State Fault Refusal := rowAt m g (fun _ => 0x30) 0x1201 (g + 1) v s

/-- I3C_ENABLE (R141). -/
def execI3cEnable (m v : Nat) (s : State) : Host.Outcome State Fault Refusal := rowWrite m 0x1100 1 v s

/-- RST_BLOCK (R573 to R575). -/
def execRstBlock (m v : Nat) (s : State) : Host.Outcome State Fault Refusal := rowWrite m 0x2000 3 v s

/-- RST_SOFT (R573, R574, R576). -/
def execRstSoft (m v : Nat) (s : State) : Host.Outcome State Fault Refusal := rowWrite m 0x2000 4 v s

/-- RST_CHANNEL (R573, R577). -/
def execRstChannel (m v : Nat) (s : State) : Host.Outcome State Fault Refusal := rowWrite m 0x2000 5 v s

/-- SVC_REQ (R581). -/
def execSvcReq (m v : Nat) (s : State) : Host.Outcome State Fault Refusal := rowWrite m 0x2000 2 v s

/-- RING_ENABLE (R189). -/
def execRingEnable (m r v : Nat) (s : State) : Host.Outcome State Fault Refusal := rowAt m r (·.rings) (rgIdx r 0) 1 v s

/-- MAP_INIT (R583): the write, if map_init does not run already, and what it does with the media. -/
def execMapInit (m v : Nat) (media : Media) (s : State) : Host.Outcome State Fault Refusal :=
  run (fun d =>
    let d1 := if od d 0x2100 8 = 1 ∧ od d 0x2404 1 ≠ 1 then d else rowNum m none 0x2100 7 v d
    if od d1 0x2100 8 = 1 ∧ od d1 0x2404 1 ≠ 1 then mapInit media d1 else d1) s

/-- LT_QUIESCE (R239). -/
def execLtQuiesce (m v : Nat) (s : State) : Host.Outcome State Fault Refusal := rowWrite m 0x2100 6 v s

/-- EX_DIE (R236). -/
def execExDie (m : Nat) (mask : Bytes) (s : State) : Host.Outcome State Fault Refusal := run (rowBytes m 0x2107 1 mask) s

/-- EX_CHANNEL (R236). -/
def execExChannel (m v : Nat) (s : State) : Host.Outcome State Fault Refusal := rowWrite m 0x2107 2 v s

/-- EX_DECODER (R236). -/
def execExDecoder (m v : Nat) (s : State) : Host.Outcome State Fault Refusal := rowWrite m 0x2107 3 v s

/-- EX_SB_BANK (R236). -/
def execExSbBank (m v : Nat) (s : State) : Host.Outcome State Fault Refusal := rowWrite m 0x2107 4 v s

/-- EX_MAPC_WAY (R236). -/
def execExMapcWay (m v : Nat) (s : State) : Host.Outcome State Fault Refusal := rowWrite m 0x2107 5 v s

/-- DIE_REVIVE (R262). -/
def execDieRevive (m ch k : Nat) (s : State) : Host.Outcome State Fault Refusal := rowAt m ch (·.channels) (chIdx ch 3) 8 k s

/-- SNAP_REQ (R279). -/
def execSnapReq (m ch v : Nat) (s : State) : Host.Outcome State Fault Refusal := rowAt m ch (·.channels) (chIdx ch 3) 5 v s

/-- RAW_UNLOCK (R269). -/
def execRawUnlock (m v : Nat) (s : State) : Host.Outcome State Fault Refusal := rowWrite m 0x2050 1 v s

/-- WP_LOCK (R278). -/
def execWpLock (m v : Nat) (s : State) : Host.Outcome State Fault Refusal := rowWrite m 0x2052 2 v s

/-- ID_RERUN (R293). -/
def execIdRerun (m ch v : Nat) (s : State) : Host.Outcome State Fault Refusal := rowAt m ch (·.channels) (chIdx ch 5) 7 v s

/-- TS_ARM (R296). -/
def execTsArm (m ch v : Nat) (s : State) : Host.Outcome State Fault Refusal := rowAt m ch (·.channels) (chIdx ch 0x0A) 1 v s

/-- TRAIN_REQ (R308). -/
def execTrainReq (m ch v : Nat) (s : State) : Host.Outcome State Fault Refusal := rowAt m ch (·.channels) (chIdx ch 0x0B) 1 v s

/-- LKT_LOAD (R340). -/
def execLktLoad (m v : Nat) (s : State) : Host.Outcome State Fault Refusal := rowWrite m 0x6001 2 v s

/-- MC_REVERT (R344). -/
def execMcRevert (m v : Nat) (s : State) : Host.Outcome State Fault Refusal := rowWrite m 0x6000 0x0A v s

/-- LM_MODE (R395). -/
def execLmMode (m v : Nat) (s : State) : Host.Outcome State Fault Refusal := rowWrite m 0x2301 1 v s

/-- CKPT_NOW (R418, R492). -/
def execCkptNow (m v : Nat) (s : State) : Host.Outcome State Fault Refusal := rowWrite m 0x2400 3 v s

/-- FLUSH_NOW (R427). -/
def execFlushNow (m v : Nat) (s : State) : Host.Outcome State Fault Refusal := rowWrite m 0x2400 2 v s

/-- REPLAY_GO (R433): the write, if replay does not run already, and what it does with the media. -/
def execReplayGo (m v : Nat) (media : Media) (s : State) : Host.Outcome State Fault Refusal :=
  run (fun d =>
    let d1 := if od d 0x2404 1 = 1 then d else rowNum m none 0x2404 9 v d
    if od d1 0x2404 1 = 1 then replay media d1 else d1) s

/-- CH_START (R446, R462). -/
def execChStart (m n v : Nat) (s : State) : Host.Outcome State Fault Refusal := rowAt m n (fun _ => 64) (tcIdx n 0) 2 v s

/-- CH_STOP (R446, R463). -/
def execChStop (m n v : Nat) (s : State) : Host.Outcome State Fault Refusal := rowAt m n (fun _ => 64) (tcIdx n 0) 3 v s

/-- TMR_ENABLE (R455). -/
def execTmrEnable (m k v : Nat) (s : State) : Host.Outcome State Fault Refusal := rowAt m k (fun _ => 8) (0x2510 + k) 1 v s

/-- Q_CLEAR (R500). -/
def execQClear (m v : Nat) (s : State) : Host.Outcome State Fault Refusal := rowWrite m 0x2911 2 v s

/-- TGT_EOI (R514). -/
def execTgtEoi (m t v : Nat) (s : State) : Host.Outcome State Fault Refusal := rowAt m t (fun _ => 8) (0x2610 + t) 7 v s

/-- TGT_UNFREEZE (R515). -/
def execTgtUnfreeze (m t v : Nat) (s : State) : Host.Outcome State Fault Refusal := rowAt m t (fun _ => 8) (0x2610 + t) 9 v s

/-- SRC_CFG (R508, R518). -/
def execSrcCfg (m src v : Nat) (s : State) : Host.Outcome State Fault Refusal :=
  rowAt m src (fun _ => 1024) (0x2640 + src / 64) (src % 64 + 1) v s

/-- SRC_STATE (R504, R518). -/
def execSrcState (m src v : Nat) (s : State) : Host.Outcome State Fault Refusal :=
  rowAt m src (fun _ => 1024) (0x2650 + src / 64) (src % 64 + 1) v s

/-- DOM_REQ (R523, R524, R526): through a port's window, or not. -/
def execDomReq (m : Nat) (via : Option Win) (n v : Nat) (s : State) : Host.Outcome State Fault Refusal :=
  let idx := if n < domainCount s.dev.cfg then kpIdx 0x2710 n else 0xFFFF
  match via with
  | some w => winWrite (.domReq m via n v) m w idx (kpSub n) 1 v s
  | none => run (rowFree m idx (kpSub n) v) s

/-- TS_UNSUSPECT (R544). -/
def execTsUnsuspect (m v : Nat) (s : State) : Host.Outcome State Fault Refusal := rowWrite m 0x2800 0x0B v s

/-- FLT_ACK (R563). -/
def execFltAck (m v : Nat) (s : State) : Host.Outcome State Fault Refusal := rowWrite m 0x2900 4 v s

/-! ### Raw operations (R271 to R275) -/

/-- A raw operation: over the dictionary, a write of raw_addr and then of raw_cmd by the master; on a ring, that of
the RAW command that passed its checks. -/
def rawOp (op : Nat) (r : RawReq) (s : State) : Host.Outcome State Fault Refusal :=
  match r.src with
  | .ring tag => run (rawRing op tag) s
  | .od m => run (fun d => rowFree m 0x2050 2 (rawWord op r) (rowFree m 0x2050 3 (r.addr % 2 ^ 64) d)) s

/-- READ_PAGE (R273, R274). -/
def execReadPage (r : RawReq) (s : State) : Host.Outcome State Fault Refusal := rawOp 1 r s

/-- PROGRAM_PAGE (R273, R274, R276). -/
def execProgramPage (r : RawReq) (s : State) : Host.Outcome State Fault Refusal := rawOp 2 r s

/-- ERASE_BLOCK (R273, R276). -/
def execEraseBlock (r : RawReq) (s : State) : Host.Outcome State Fault Refusal := rawOp 3 r s

/-- READ_STATUS (R273). -/
def execReadStatus (r : RawReq) (s : State) : Host.Outcome State Fault Refusal := rawOp 4 r s

/-- GET_FEATURES (R273). -/
def execGetFeatures (r : RawReq) (s : State) : Host.Outcome State Fault Refusal := rawOp 5 r s

/-- SET_FEATURES (R273). -/
def execSetFeatures (r : RawReq) (s : State) : Host.Outcome State Fault Refusal := rawOp 6 r s

/-- RESET_LUN (R273). -/
def execResetLun (r : RawReq) (s : State) : Host.Outcome State Fault Refusal := rawOp 7 r s

/-- READ_ID (R273). -/
def execReadId (r : RawReq) (s : State) : Host.Outcome State Fault Refusal := rawOp 8 r s

/-- READ_PARAM (R273). -/
def execReadParam (r : RawReq) (s : State) : Host.Outcome State Fault Refusal := rawOp 9 r s

end Sys2Proof.Machine
end

