-- ==== Sys2Proof/Machine/I3cTarget.lean ====
section
/-! DEFINITION. The out-of-band transport: the I3C target and the MCTP endpoint (03_object_dictionary.md R134 to R141).
Packet and control-message layouts are those of DSP0236 and DSP0233, which the spec names (log 14, log 22). -/

namespace Sys2Proof.Machine

/-- The dynamic address and the EID; 0 none. -/
def dynAddr (d : Dev) : Nat := od d 0x1100 3
def ownEid (d : Dev) : Nat := od d 0x1100 7

/-- The target takes part on the bus: enabled, and not waiting for an HDR exit (R134, R141). -/
def onBus (d : Dev) : Bool := od d 0x1100 1 == 1 && !d.i3c.hdr

/-- Changes the I3C logic. -/
def updI3c (f : I3c → I3c) (d : Dev) : Dev := { d with i3c := f d.i3c }

/-! ### A response (R138, R139) -/

/-- A response takes the place of one still unread, which is counted as dropped; the IBI is raised if enabled. -/
def setRsp (dst tag : Nat) (body : Bytes) (d : Dev) : Dev :=
  let d1 := if d.i3c.rsp.isSome then cnt 0x1100 0x0D d else d
  updI3c (fun x => { x with rsp := some { dst := dst, tag := tag, body := body, off := 0, seq := 0 }, ibi := x.ibiEn }) d1

/-- The packet error code over the address byte and the packet. -/
def pecOf (d : Dev) (rd : Bool) (pkt : Bytes) : Byte := crc8 (BitVec.ofNat 8 (2 * dynAddr d + b2n rd) :: pkt)

/-- I3C_PRIVATE_READ (R138, R140): one packet of the response with its PEC; none pending, not acknowledged. -/
def privateRead (d : Dev) : Dev :=
  match d.i3c.rsp with
  | none => updI3c (fun x => { x with out := [] }) d
  | some r =>
    let part := (r.body.drop r.off).take 64
    let eom := decide (r.body.length ≤ r.off + 64)
    let flags := 128 * b2n (r.off == 0) + 64 * b2n eom + 16 * r.seq + r.tag
    let pkt : Bytes := [1, BitVec.ofNat 8 r.dst, BitVec.ofNat 8 (ownEid d), BitVec.ofNat 8 flags] ++ part
    updI3c (fun x => { x with
      out := pkt ++ [pecOf d true pkt], ibi := false,
      rsp := if eom then none else some { r with off := r.off + 64, seq := (r.seq + 1) % 4 } }) d

def execI3cPrivateRead (s : State) : Host.Outcome State Fault Refusal :=
  run (fun d => if onBus d ∧ dynAddr d ≠ 0 then privateRead d else d) s

/-- IBI_RETRY (R134, R138): an IBI that is accepted sends its mandatory data byte 0xAE and is over; one that is not
stays pending. -/
def execIbiRetry (accepted : Bool) (s : State) : Host.Outcome State Fault Refusal :=
  run (fun d => if onBus d ∧ accepted ∧ d.i3c.ibi then updI3c (fun x => { x with ibi := false, out := [0xAE] }) d else d) s

/-- RESPONSE_TIMEOUT (R138). -/
def execResponseTimeout (s : State) : Host.Outcome State Fault Refusal :=
  run (fun d => if d.i3c.rsp.isSome then
    cnt 0x1100 0x0D (updI3c (fun x => { x with rsp := none, ibi := false }) d) else d) s

/-! ### Control messages (R136) -/

/-- A control response: completion code and data. -/
def ctlRsp (inst code cc : Nat) (data : Bytes) : Bytes :=
  [0, BitVec.ofNat 8 (inst % 32), BitVec.ofNat 8 code, BitVec.ofNat 8 cc] ++ data

/-- Set Endpoint ID: a set or forced set of a usable EID is accepted (DSP0236). -/
def ctlSetEid (inst op eid : Nat) (d : Dev) : Bytes × Dev :=
  if op ≤ 1 ∧ 8 ≤ eid ∧ eid ≤ 254 then (ctlRsp inst 1 0 [0, BitVec.ofNat 8 eid, 0], put 0x1100 7 eid d)
  else (ctlRsp inst 1 2 [], d)

/-- Get MCTP Version Support: 1.3 for the base and control specifications (R136). The version of the vendor-defined
messages' type is not stated: a free value (log 4). -/
def ctlVersion (inst mtype : Nat) (d : Dev) : Bytes × Dev :=
  if mtype = 0xFF ∨ mtype = 0 then (ctlRsp inst 4 0 [1, 0xF1, 0xF3, 0xFF, 0], d)
  else if mtype = 0x7F then
    let f := freeVal d
    (ctlRsp inst 4 0 ([1] ++ leBytes 4 f.1.toNat), f.2)
  else (ctlRsp inst 4 0x80 [], d)

/-- Get Vendor Defined Message Support: one entry, IANA, 0x0000_F1B1, version 0x0001. -/
def ctlVendor (inst sel : Nat) : Bytes :=
  if sel = 0 then ctlRsp inst 6 0 ([0xFF, 1] ++ beBytes 4 0xF1B1 ++ beBytes 2 1) else ctlRsp inst 6 2 []

/-- A control request by its command code and data. -/
def ctlServe (inst code : Nat) (data : Bytes) (d : Dev) : Bytes × Dev :=
  match code with
  | 1 => ctlSetEid inst (leAt data 0 1 % 4) (leAt data 1 1) d
  | 2 => (ctlRsp inst 2 0 [BitVec.ofNat 8 (ownEid d), 0, 0], d)
  | 4 => ctlVersion inst (leAt data 0 1) d
  | 5 => (ctlRsp inst 5 0 [2, 0, 0x7F], d)
  | 6 => (ctlVendor inst (leAt data 0 1), d)
  | _ => (ctlRsp inst code 5 [], d)

/-- A destination the endpoint takes (R136): its own EID; the null EID for control messages while it has none. -/
def eidOk (d : Dev) (dst : Nat) (ctl : Bool) : Bool := if ownEid d = 0 then ctl && dst == 0 else dst == ownEid d

/-- A control request as a row of its own: addressed wrongly, it is discarded and counted (R140). -/
def ctlRow (c : MctpCtl) (code : Nat) (data : Bytes) (s : State) : Host.Outcome State Fault Refusal :=
  run (fun d =>
    if ¬ onBus d ∨ dynAddr d = 0 then d
    else if ¬ eidOk d c.dst true then cnt 0x1100 0x0C (updI3c (fun x => { x with asm := none }) d)
    else
      let r := ctlServe 0 code data d
      setRsp c.src (c.tag % 8) r.1 r.2) s

/-- SET_ENDPOINT_ID (R136). -/
def execSetEndpointId (c : MctpCtl) (op eid : Nat) (s : State) : Host.Outcome State Fault Refusal :=
  ctlRow c 1 (leBytes 1 op ++ leBytes 1 eid) s

/-- GET_ENDPOINT_ID (R136). -/
def execGetEndpointId (c : MctpCtl) (s : State) : Host.Outcome State Fault Refusal := ctlRow c 2 [] s

/-- GET_MCTP_VERSION_SUPPORT (R136). -/
def execGetMctpVersionSupport (c : MctpCtl) (mtype : Nat) (s : State) : Host.Outcome State Fault Refusal :=
  ctlRow c 4 (leBytes 1 mtype) s

/-- GET_MESSAGE_TYPE_SUPPORT (R136). -/
def execGetMessageTypeSupport (c : MctpCtl) (s : State) : Host.Outcome State Fault Refusal := ctlRow c 5 [] s

/-- GET_VENDOR_DEFINED_MESSAGE_SUPPORT (R136). -/
def execGetVendorDefinedMessageSupport (c : MctpCtl) (sel : Nat) (s : State) : Host.Outcome State Fault Refusal :=
  ctlRow c 6 (leBytes 1 sel) s

/-- MCTP_UNSUPPORTED_CMD (R136): any code but those five. -/
def execMctpUnsupportedCmd (c : MctpCtl) (code : Nat) (s : State) : Host.Outcome State Fault Refusal :=
  if [1, 2, 4, 5, 6].contains (code % 256) then run id s else ctlRow c (code % 256) [] s

/-! ### Requests of the transfer protocol (R137, R139) -/

/-- The command of a request body under the I3C master ID, and what it sends. -/
def odOfBody (d : Dev) (b : Bytes) : OdCmd × OdReq :=
  let w := leAt b 6 8
  let code := bits w 24 8
  ({ m := od d 0x1100 6, via := none, tag := bits w 56 8, seq := bits w 32 8, idx := bits w 0 16, sub := bits w 16 8 },
    { cmd := code, seq := bits w 32 8, len := bits w 40 13, arg := leAt b 14 8,
      data := if code = 4 ∨ code = 8 then b.drop 22 else [] })

/-- The response body (R137). -/
def odRspBody (d : Dev) (m : Nat) (a : OdAns) : Bytes :=
  let x := master d m
  [0x7F] ++ beBytes 4 0xF1B1 ++ [1] ++ leBytes 8 x.stat ++ leBytes 4 x.abort ++ leBytes 8 x.result ++ a.data.getD []

/-- Another requester's transfer is open on the I3C context (R139). -/
def i3cBusy (d : Dev) (src m : Nat) : Bool :=
  (master d m).xfer.isSome && d.i3c.srcEid != none && d.i3c.srcEid != some src

/-- A request in another protocol version (R137) ends VERSION, a disabled master's DISABLED (R128). It is a command all
the same: an initiating one closes the open transfer and counts it (R120), an aborted continuation closes it (R119). -/
def badVersion (c : OdCmd) (q : OdReq) (d : Dev) : OdAns × Dev :=
  let a := if enabled d c.m then Abort.version else Abort.disabled
  let d1 := if 3 ≤ q.cmd ∧ q.cmd ≤ 6 then supersede c.m d
    else if 7 ≤ q.cmd ∧ q.cmd ≤ 9 then closeXfer c.m none d
    else d
  (OdAns.bad a, endCmd c q (OdAns.bad a) d1)

/-- A request as the I3C context serves it: BUSY before all else, with the open transfer left as it stands (R139), then
its version, then the command. -/
def i3cServe (src : Nat) (b : Bytes) (c : OdCmd) (q : OdReq) (d : Dev) : OdAns × Dev :=
  if i3cBusy d src c.m then (OdAns.bad .busy, endCmd c q (OdAns.bad .busy) (seen c.m d))
  else
    let d1 := takeCmd c q (updI3c (fun x => { x with srcEid := some src }) d)
    if leAt b 5 1 ≠ 1 then badVersion c q d1
    else
      let r := odFinish c q d1
      match odError c q d1 with
      | none => r
      | some e => (r.1, odFree c e r.2)

/-- A request is served and its response waits. -/
def odRequest (src tag : Nat) (b : Bytes) (d : Dev) : Dev :=
  let c := (odOfBody d b).1
  let r := i3cServe src b c (odOfBody d b).2 d
  setRsp src tag (odRspBody r.2 c.m r.1) r.2

/-- A message whose type, integrity bit, length and vendor ID are in order (R137, R140). A vendor-defined message of
fewer than 22 bytes, or a control message of fewer than 3, of which R140's table does not speak, is dropped like those
it names (DESIGN CHOICE, log 83). -/
def msgOk (b : Bytes) : Bool :=
  let t := leAt b 0 1
  decide (b.length ≤ 4118) && (t == 0 && decide (3 ≤ b.length) || t == 0x7F && decide (22 ≤ b.length) && beNat ((b.drop 1).take 4) == 0xF1B1)

/-- A whole message: discarded and counted, or served. -/
def message (src tag : Nat) (b : Bytes) (d : Dev) : Dev :=
  if ¬ msgOk b then cnt 0x1100 0x0D d
  else if leAt b 0 1 = 0 then
    let r := ctlServe (leAt b 1 1) (leAt b 2 1) (b.drop 3) d
    setRsp src tag r.1 r.2
  else odRequest src tag b d

/-! ### Packets (R136, R140) -/

/-- A packet's header fields: version, destination, source, start, end, sequence number, tag. -/
structure PktHdr where
  ver : Nat
  dst : Nat
  src : Nat
  som : Bool
  eom : Bool
  seq : Nat
  tag : Nat

/-- The header of a packet. -/
def pktHdr (p : Bytes) : PktHdr :=
  let f := leAt p 3 1
  { ver := leAt p 0 1 % 16, dst := leAt p 1 1, src := leAt p 2 1, som := bit f 7, eom := bit f 6, seq := bits f 4 2,
    tag := f % 8 }

/-- The message so far with a packet's bytes; `none`: a header, destination or sequence error (R140). A packet of fewer
than 5 or more than 68 bytes, of which R140's table does not speak, counts as such an error (DESIGN CHOICE, log 83). -/
def assemble (d : Dev) (p : Bytes) : Option Asm :=
  let h := pktHdr p
  let part := p.drop 4
  if p.length < 5 ∨ 68 < p.length ∨ h.ver ≠ 1 then none
  else if h.som then
    if eidOk d h.dst (leAt part 0 1 % 128 == 0) then some { src := h.src, tag := h.tag, seq := h.seq, body := part } else none
  else match d.i3c.asm with
    | none => none
    | some a =>
      if eidOk d h.dst (leAt a.body 0 1 % 128 == 0) ∧ a.src = h.src ∧ a.tag = h.tag ∧ h.seq = (a.seq + 1) % 4 then
        some { a with seq := h.seq, body := (a.body ++ part).take 4119 }
      else none

/-- I3C_PRIVATE_WRITE (R136, R140). -/
def privateWrite (p : Bytes) (pec : Byte) (d : Dev) : Dev :=
  if pec ≠ pecOf d false p then cnt 0x1100 0x0B d
  else match assemble d p with
    | none => cnt 0x1100 0x0C (updI3c (fun x => { x with asm := none }) d)
    | some a =>
      let d1 := if (pktHdr p).som ∧ d.i3c.asm.isSome then cnt 0x1100 0x0C d else d
      if (pktHdr p).eom then message a.src a.tag a.body (updI3c (fun x => { x with asm := none }) d1)
      else updI3c (fun x => { x with asm := some a }) d1

def execI3cPrivateWrite (pkt : Bytes) (pec : Byte) (s : State) : Host.Outcome State Fault Refusal :=
  run (fun d => if onBus d ∧ dynAddr d ≠ 0 then privateWrite pkt pec d else d) s

/-- MCTP_ASSEMBLY_TIMEOUT (R140). -/
def execMctpAssemblyTimeout (s : State) : Host.Outcome State Fault Refusal :=
  run (fun d => if d.i3c.asm.isSome then cnt 0x1100 0x0D (updI3c (fun x => { x with asm := none }) d) else d) s

/-- SCL_STALL (R140): the packet in transfer is lost with its transfer. -/
def execSclStall (s : State) : Host.Outcome State Fault Refusal := run (fun d => if onBus d then cnt 0x1100 0x0E d else d) s

/-! ### Common command codes (R134, R135) -/

/-- A broadcast code, or a direct one to the target's address. -/
def ccc (direct : Bool) (f : Dev → Dev) (s : State) : Host.Outcome State Fault Refusal :=
  run (fun d => if onBus d ∧ (¬ direct ∨ dynAddr d ≠ 0) then f d else d) s

/-- A direct GET: the bytes the target returns. -/
def cccGet (f : Dev → Bytes) (s : State) : Host.Outcome State Fault Refusal :=
  ccc true (fun d => updI3c (fun x => { x with out := f d }) d) s

/-- ENEC (R135): bit 0 is the interrupt's. -/
def execEnec (events : Byte) (s : State) : Host.Outcome State Fault Refusal :=
  ccc false (updI3c (fun x => { x with ibiEn := x.ibiEn || events.getLsbD 0 })) s

/-- DISEC (R135). -/
def execDisec (events : Byte) (s : State) : Host.Outcome State Fault Refusal :=
  ccc false (updI3c (fun x => { x with ibiEn := x.ibiEn && !events.getLsbD 0, ibi := x.ibi && !events.getLsbD 0 })) s

/-- RSTDAA (R135). -/
def execRstdaa (s : State) : Host.Outcome State Fault Refusal := ccc false (put 0x1100 3 0) s

/-- ENTDAA (R134, R135): a target without an address takes the one it is given. -/
def execEntdaa (addr : Nat) (s : State) : Host.Outcome State Fault Refusal :=
  ccc false (fun d => if dynAddr d = 0 then put 0x1100 3 (addr % 128) d else d) s

/-- SETMWL (R135, R140). -/
def execSetmwl (v : Nat) (s : State) : Host.Outcome State Fault Refusal :=
  ccc false (fun d => if 69 ≤ v then updI3c (fun x => { x with mwl := v }) d else cnt 0x1100 0x0D d) s

/-- SETMRL (R135, R140). -/
def execSetmrl (v : Nat) (s : State) : Host.Outcome State Fault Refusal :=
  ccc false (fun d => if 69 ≤ v then updI3c (fun x => { x with mrl := v }) d else cnt 0x1100 0x0D d) s

/-- SETDASA (R134, R135): by the static address, which 0 turns off. -/
def execSetdasa (static addr : Nat) (s : State) : Host.Outcome State Fault Refusal :=
  ccc false (fun d => if od d 0x1100 2 ≠ 0 ∧ static = od d 0x1100 2 ∧ dynAddr d = 0 then put 0x1100 3 (addr % 128) d else d) s

/-- SETNEWDA (R135). -/
def execSetnewda (addr : Nat) (s : State) : Host.Outcome State Fault Refusal := ccc true (put 0x1100 3 (addr % 128)) s

/-- GETMWL (R135): 69, most significant byte first. -/
def execGetmwl (s : State) : Host.Outcome State Fault Refusal := cccGet (fun _ => beBytes 2 69) s

/-- GETMRL (R135): 69 and an IBI payload of 1. -/
def execGetmrl (s : State) : Host.Outcome State Fault Refusal := cccGet (fun _ => beBytes 2 69 ++ [1]) s

/-- GETPID (R134, R135). -/
def execGetpid (s : State) : Host.Outcome State Fault Refusal := cccGet (fun d => beBytes 6 (od d 0x1100 4)) s

/-- GETBCR (R134). -/
def execGetbcr (s : State) : Host.Outcome State Fault Refusal := cccGet (fun _ => [0x06]) s

/-- GETDCR (R134). -/
def execGetdcr (s : State) : Host.Outcome State Fault Refusal := cccGet (fun d => leBytes 1 (od d 0x1100 5)) s

/-- GETSTATUS (R135). -/
def execGetstatus (s : State) : Host.Outcome State Fault Refusal := cccGet (fun d => beBytes 2 (b2n d.i3c.rsp.isSome)) s

/-- The I3C and MCTP logic is reset; the dictionary and the transfer contexts stay (R135), and so does the EID that
holds the open transfer, so that R139's BUSY goes on (DEDUCED, log 83). -/
def i3cReset (d : Dev) : Dev := { d with i3c := { I3c.reset with srcEid := d.i3c.srcEid } }

/-- RSTACT (R135). -/
def execRstact (defByte : Byte) (s : State) : Host.Outcome State Fault Refusal :=
  ccc false (fun d => if defByte = 0 then d else i3cReset d) s

/-- ENTHDR (R134). -/
def execEnthdr (s : State) : Host.Outcome State Fault Refusal := ccc false (updI3c (fun x => { x with hdr := true })) s

/-- HDR_EXIT (R134). -/
def execHdrExit (s : State) : Host.Outcome State Fault Refusal :=
  run (fun d => if od d 0x1100 1 = 1 then updI3c (fun x => { x with hdr := false }) d else d) s

/-- I3C_TARGET_RESET (R135). -/
def execI3cTargetReset (s : State) : Host.Outcome State Fault Refusal :=
  run (fun d => if od d 0x1100 1 = 1 then i3cReset d else d) s

end Sys2Proof.Machine
end

