-- ==== Sys2Proof/Machine/Dispatch.lean ====
section
/-! DEFINITION. One arm per constructor of Instr: each is one direct call of the command's meaning. -/

namespace Sys2Proof.Machine

/-- The effect of a command on everything but the queue. -/
def exec (i : Instr) (s : State) : Host.Outcome State Fault Refusal :=
  match i with
  | .powerOnReset => Sys2Proof.Machine.execPowerOnReset s
  | .muReady => Sys2Proof.Machine.execMuReady s
  | .supplyOutOfRange rail => Sys2Proof.Machine.execSupplyOutOfRange rail s
  | .wrst => Sys2Proof.Machine.execWrst s
  | .wrstGlitch => Sys2Proof.Machine.execWrstGlitch s
  | .rstBlock m v => Sys2Proof.Machine.execRstBlock m v s
  | .rstSoft m v => Sys2Proof.Machine.execRstSoft m v s
  | .rstChannel m v => Sys2Proof.Machine.execRstChannel m v s
  | .resetDrained => Sys2Proof.Machine.execResetDrained s
  | .resetDone => Sys2Proof.Machine.execResetDone s
  | .svcReq m v => Sys2Proof.Machine.execSvcReq m v s
  | .inboundWriteRefused p h => Sys2Proof.Machine.execInboundWriteRefused p h s
  | .inboundBadHeader p cls op txid => Sys2Proof.Machine.execInboundBadHeader p cls op txid s
  | .targetDecodeError p h => Sys2Proof.Machine.execTargetDecodeError p h s
  | .inboundResponse p r => Sys2Proof.Machine.execInboundResponse p r s
  | .initTimeout p txid => Sys2Proof.Machine.execInitTimeout p txid s
  | .creditReturn p cls => Sys2Proof.Machine.execCreditReturn p cls s
  | .framingViolation p => Sys2Proof.Machine.execFramingViolation p s
  | .framingRestore p => Sys2Proof.Machine.execFramingRestore p s
  | .undercredit p => Sys2Proof.Machine.execUndercredit p s
  | .holdupReport energy seq => Sys2Proof.Machine.execHoldupReport energy seq s
  | .holdupStale => Sys2Proof.Machine.execHoldupStale s
  | .vbusAboveCeiling mvs => Sys2Proof.Machine.execVbusAboveCeiling mvs s
  | .vbusBelowCeiling mvs => Sys2Proof.Machine.execVbusBelowCeiling mvs s
  | .pfWarn => Sys2Proof.Machine.execPfWarn s
  | .pfGlitch => Sys2Proof.Machine.execPfGlitch s
  | .sensorReport id temp => Sys2Proof.Machine.execSensorReport id temp s
  | .sensorStale id => Sys2Proof.Machine.execSensorStale id s
  | .tbSync count => Sys2Proof.Machine.execTbSync count s
  | .tbClockLoss => Sys2Proof.Machine.execTbClockLoss s
  | .tbSyncTimeout => Sys2Proof.Machine.execTbSyncTimeout s
  | .pgFall d => Sys2Proof.Machine.execPgFall d s
  | .pcGlitch d => Sys2Proof.Machine.execPcGlitch d s
  | .rbRise ch tgt => Sys2Proof.Machine.execRbRise ch tgt s
  | .rbGlitch ch tgt => Sys2Proof.Machine.execRbGlitch ch tgt s
  | .keyWordAck data err => Sys2Proof.Machine.execKeyWordAck data err s
  | .keyWordTimeout => Sys2Proof.Machine.execKeyWordTimeout s
  | .expRead c => Sys2Proof.Machine.execExpRead c s
  | .expWrite c len arg rival => Sys2Proof.Machine.execExpWrite c len arg rival s
  | .segRead c => Sys2Proof.Machine.execSegRead c s
  | .segWrite c data => Sys2Proof.Machine.execSegWrite c data s
  | .blkReadInit c => Sys2Proof.Machine.execBlkReadInit c s
  | .blkWriteInit c total => Sys2Proof.Machine.execBlkWriteInit c total s
  | .blkReadNext c seq => Sys2Proof.Machine.execBlkReadNext c seq s
  | .blkWriteNext c seq data => Sys2Proof.Machine.execBlkWriteNext c seq data s
  | .blkEnd c crc => Sys2Proof.Machine.execBlkEnd c crc s
  | .xferAbort c => Sys2Proof.Machine.execXferAbort c s
  | .info c => Sys2Proof.Machine.execInfo c s
  | .unknownCmd c code => Sys2Proof.Machine.execUnknownCmd c code s
  | .xferTimeout m => Sys2Proof.Machine.execXferTimeout m s
  | .odEntryWrite m via t v => Sys2Proof.Machine.execOdEntryWrite m via t v s
  | .counterClear m key v => Sys2Proof.Machine.execCounterClear m key v s
  | .masterEnable m v => Sys2Proof.Machine.execMasterEnable m v s
  | .grpOwner m g v => Sys2Proof.Machine.execGrpOwner m g v s
  | .i3cEnable m v => Sys2Proof.Machine.execI3cEnable m v s
  | .i3cPrivateWrite pkt pec => Sys2Proof.Machine.execI3cPrivateWrite pkt pec s
  | .i3cPrivateRead => Sys2Proof.Machine.execI3cPrivateRead s
  | .ibiRetry accepted => Sys2Proof.Machine.execIbiRetry accepted s
  | .responseTimeout => Sys2Proof.Machine.execResponseTimeout s
  | .mctpAssemblyTimeout => Sys2Proof.Machine.execMctpAssemblyTimeout s
  | .sclStall => Sys2Proof.Machine.execSclStall s
  | .setEndpointId c op eid => Sys2Proof.Machine.execSetEndpointId c op eid s
  | .getEndpointId c => Sys2Proof.Machine.execGetEndpointId c s
  | .getMctpVersionSupport c mtype => Sys2Proof.Machine.execGetMctpVersionSupport c mtype s
  | .getMessageTypeSupport c => Sys2Proof.Machine.execGetMessageTypeSupport c s
  | .getVendorDefinedMessageSupport c sel => Sys2Proof.Machine.execGetVendorDefinedMessageSupport c sel s
  | .mctpUnsupportedCmd c code => Sys2Proof.Machine.execMctpUnsupportedCmd c code s
  | .enec events => Sys2Proof.Machine.execEnec events s
  | .disec events => Sys2Proof.Machine.execDisec events s
  | .rstdaa => Sys2Proof.Machine.execRstdaa s
  | .entdaa addr => Sys2Proof.Machine.execEntdaa addr s
  | .setmwl v => Sys2Proof.Machine.execSetmwl v s
  | .setmrl v => Sys2Proof.Machine.execSetmrl v s
  | .setdasa static addr => Sys2Proof.Machine.execSetdasa static addr s
  | .setnewda addr => Sys2Proof.Machine.execSetnewda addr s
  | .getmwl => Sys2Proof.Machine.execGetmwl s
  | .getmrl => Sys2Proof.Machine.execGetmrl s
  | .getpid => Sys2Proof.Machine.execGetpid s
  | .getbcr => Sys2Proof.Machine.execGetbcr s
  | .getdcr => Sys2Proof.Machine.execGetdcr s
  | .getstatus => Sys2Proof.Machine.execGetstatus s
  | .rstact defByte => Sys2Proof.Machine.execRstact defByte s
  | .enthdr => Sys2Proof.Machine.execEnthdr s
  | .hdrExit => Sys2Proof.Machine.execHdrExit s
  | .i3cTargetReset => Sys2Proof.Machine.execI3cTargetReset s
  | .dbSq p r v cyc => Sys2Proof.Machine.execDbSq p r v cyc s
  | .dbCq p r v cyc => Sys2Proof.Machine.execDbCq p r v cyc s
  | .dbBoth p r sq cq cyc => Sys2Proof.Machine.execDbBoth p r sq cq cyc s
  | .sqFetch p => Sys2Proof.Machine.execSqFetch p s
  | .fetchStarvation r => Sys2Proof.Machine.execFetchStarvation r s
  | .sqFetchComplete r => Sys2Proof.Machine.execSqFetchComplete r s
  | .write tag => Sys2Proof.Machine.execWrite tag s
  | .read tag => Sys2Proof.Machine.execRead tag s
  | .trim tag => Sys2Proof.Machine.execTrim tag s
  | .flush tag => Sys2Proof.Machine.execFlush tag s
  | .commit tag => Sys2Proof.Machine.execCommit tag s
  | .copy tag => Sys2Proof.Machine.execCopy tag s
  | .scan tag => Sys2Proof.Machine.execScan tag s
  | .hash tag => Sys2Proof.Machine.execHash tag s
  | .destageView tag => Sys2Proof.Machine.execDestageView tag s
  | .raw tag => Sys2Proof.Machine.execRaw tag s
  | .completionPost tag => Sys2Proof.Machine.execCompletionPost tag s
  | .completionBell r => Sys2Proof.Machine.execCompletionBell r s
  | .ringEnable m r v => Sys2Proof.Machine.execRingEnable m r v s
  | .ringDrained r => Sys2Proof.Machine.execRingDrained r s
  | .mapInit m v media => Sys2Proof.Machine.execMapInit m v media s
  | .ltQuiesce m v => Sys2Proof.Machine.execLtQuiesce m v s
  | .lanternQuiesced => Sys2Proof.Machine.execLanternQuiesced s
  | .placeWrite job => Sys2Proof.Machine.execPlaceWrite job s
  | .merge job => Sys2Proof.Machine.execMerge job s
  | .spaceWaitTimeout job => Sys2Proof.Machine.execSpaceWaitTimeout job s
  | .rowTimeout band row => Sys2Proof.Machine.execRowTimeout band row s
  | .memberSlotTimeout band row j => Sys2Proof.Machine.execMemberSlotTimeout band row j s
  | .placeRead job => Sys2Proof.Machine.execPlaceRead job s
  | .mapFillComplete slot => Sys2Proof.Machine.execMapFillComplete slot s
  | .relocationStart => Sys2Proof.Machine.execRelocationStart s
  | .relocSwitch job => Sys2Proof.Machine.execRelocSwitch job s
  | .decoderDispatch ch cw => Sys2Proof.Machine.execDecoderDispatch ch cw s
  | .exDie m mask => Sys2Proof.Machine.execExDie m mask s
  | .exChannel m v => Sys2Proof.Machine.execExChannel m v s
  | .exDecoder m v => Sys2Proof.Machine.execExDecoder m v s
  | .exSbBank m v => Sys2Proof.Machine.execExSbBank m v s
  | .exMapcWay m v => Sys2Proof.Machine.execExMapcWay m v s
  | .busBurstEnd ch r => Sys2Proof.Machine.execBusBurstEnd ch r s
  | .statusPoll ch die => Sys2Proof.Machine.execStatusPoll ch die s
  | .dieOpTimeout ch die => Sys2Proof.Machine.execDieOpTimeout ch die s
  | .suspendTimeout ch die => Sys2Proof.Machine.execSuspendTimeout ch die s
  | .suspendGapElapsed ch die => Sys2Proof.Machine.execSuspendGapElapsed ch die s
  | .suspendHoldExpired ch die => Sys2Proof.Machine.execSuspendHoldExpired ch die s
  | .dieRevive m ch k => Sys2Proof.Machine.execDieRevive m ch k s
  | .snapReq m ch v => Sys2Proof.Machine.execSnapReq m ch v s
  | .rawUnlock m v => Sys2Proof.Machine.execRawUnlock m v s
  | .rawKey1Timeout => Sys2Proof.Machine.execRawKey1Timeout s
  | .rawIdleTimeout => Sys2Proof.Machine.execRawIdleTimeout s
  | .readPage r => Sys2Proof.Machine.execReadPage r s
  | .programPage r => Sys2Proof.Machine.execProgramPage r s
  | .eraseBlock r => Sys2Proof.Machine.execEraseBlock r s
  | .readStatus r => Sys2Proof.Machine.execReadStatus r s
  | .getFeatures r => Sys2Proof.Machine.execGetFeatures r s
  | .setFeatures r => Sys2Proof.Machine.execSetFeatures r s
  | .resetLun r => Sys2Proof.Machine.execResetLun r s
  | .readId r => Sys2Proof.Machine.execReadId r s
  | .readParam r => Sys2Proof.Machine.execReadParam r s
  | .wpLock m v => Sys2Proof.Machine.execWpLock m v s
  | .channelIdentify ch answers => Sys2Proof.Machine.execChannelIdentify ch answers s
  | .referenceGeometrySet => Sys2Proof.Machine.execReferenceGeometrySet s
  | .idRerun m ch v => Sys2Proof.Machine.execIdRerun m ch v s
  | .tsArm m ch v => Sys2Proof.Machine.execTsArm m ch v s
  | .timingSwap ch shadowWrite => Sys2Proof.Machine.execTimingSwap ch shadowWrite s
  | .modeChangeSwap ch r => Sys2Proof.Machine.execModeChangeSwap ch r s
  | .swapHoldTimeout ch => Sys2Proof.Machine.execSwapHoldTimeout ch s
  | .swapMiss ch => Sys2Proof.Machine.execSwapMiss ch s
  | .training ch tgt r => Sys2Proof.Machine.execTraining ch tgt r s
  | .trainReq m ch v => Sys2Proof.Machine.execTrainReq m ch v s
  | .retrainAge ch tgt => Sys2Proof.Machine.execRetrainAge ch tgt s
  | .marginalRetrain ch tgt => Sys2Proof.Machine.execMarginalRetrain ch tgt s
  | .driftTrack ch tgt centre => Sys2Proof.Machine.execDriftTrack ch tgt centre s
  | .zqCalibration ch code atEnd => Sys2Proof.Machine.execZqCalibration ch code atEnd s
  | .zqCodeApply ch => Sys2Proof.Machine.execZqCodeApply ch s
  | .next ch w e => Sys2Proof.Machine.execNext ch w e s
  | .branch ch w e => Sys2Proof.Machine.execBranch ch w e s
  | .call ch w e => Sys2Proof.Machine.execCall ch w e s
  | .ret ch w e => Sys2Proof.Machine.execRet ch w e s
  | .dispatch ch w e => Sys2Proof.Machine.execDispatch ch w e s
  | .wait ch w e => Sys2Proof.Machine.execWait ch w e s
  | .endWord ch w e => Sys2Proof.Machine.execEndWord ch w e s
  | .cmd ch w e => Sys2Proof.Machine.execCmd ch w e s
  | .addr ch w e => Sys2Proof.Machine.execAddr ch w e s
  | .din ch w e => Sys2Proof.Machine.execDin ch w e s
  | .dout ch w e => Sys2Proof.Machine.execDout ch w e s
  | .stat ch w e => Sys2Proof.Machine.execStat ch w e s
  | .ceon ch w e => Sys2Proof.Machine.execCeon ch w e s
  | .ceoff ch w e => Sys2Proof.Machine.execCeoff ch w e s
  | .dbo ch w e => Sys2Proof.Machine.execDbo ch w e s
  | .dbi ch w e => Sys2Proof.Machine.execDbi ch w e s
  | .train ch w e => Sys2Proof.Machine.execTrain ch w e s
  | .movi ch w e => Sys2Proof.Machine.execMovi ch w e s
  | .mov ch w e => Sys2Proof.Machine.execMov ch w e s
  | .add ch w e => Sys2Proof.Machine.execAdd ch w e s
  | .sub ch w e => Sys2Proof.Machine.execSub ch w e s
  | .and ch w e => Sys2Proof.Machine.execAnd ch w e s
  | .or ch w e => Sys2Proof.Machine.execOr ch w e s
  | .xor ch w e => Sys2Proof.Machine.execXor ch w e s
  | .shl ch w e => Sys2Proof.Machine.execShl ch w e s
  | .shr ch w e => Sys2Proof.Machine.execShr ch w e s
  | .cmp ch w e => Sys2Proof.Machine.execCmp ch w e s
  | .ldf ch w e => Sys2Proof.Machine.execLdf ch w e s
  | .stf ch w e => Sys2Proof.Machine.execStf ch w e s
  | .timerLoad ch w e => Sys2Proof.Machine.execTimerLoad ch w e s
  | .timerLoadImm ch w e => Sys2Proof.Machine.execTimerLoadImm ch w e s
  | .timerStop ch w e => Sys2Proof.Machine.execTimerStop ch w e s
  | .patchWordRewrite ch => Sys2Proof.Machine.execPatchWordRewrite ch s
  | .patchRemove ch => Sys2Proof.Machine.execPatchRemove ch s
  | .lktLoad m v => Sys2Proof.Machine.execLktLoad m v s
  | .locketInstall ch => Sys2Proof.Machine.execLocketInstall ch s
  | .mcRevert m v => Sys2Proof.Machine.execMcRevert m v s
  | .decodeJob k => Sys2Proof.Machine.execDecodeJob k s
  | .decodeResult k r => Sys2Proof.Machine.execDecodeResult k r s
  | .inlineCheck ch cw => Sys2Proof.Machine.execInlineCheck ch cw s
  | .lmUpdate => Sys2Proof.Machine.execLmUpdate s
  | .lmMode m v => Sys2Proof.Machine.execLmMode m v s
  | .jcommitAge => Sys2Proof.Machine.execJcommitAge s
  | .commitStart => Sys2Proof.Machine.execCommitStart s
  | .commitDone => Sys2Proof.Machine.execCommitDone s
  | .noEnergyTimeout tag => Sys2Proof.Machine.execNoEnergyTimeout tag s
  | .ckptNow m v => Sys2Proof.Machine.execCkptNow m v s
  | .ckptPeriod => Sys2Proof.Machine.execCkptPeriod s
  | .checkpointStart => Sys2Proof.Machine.execCheckpointStart s
  | .checkpointEnd => Sys2Proof.Machine.execCheckpointEnd s
  | .calibrationTick => Sys2Proof.Machine.execCalibrationTick s
  | .flushNow m v => Sys2Proof.Machine.execFlushNow m v s
  | .emergencyFlush => Sys2Proof.Machine.execEmergencyFlush s
  | .flushWave die ok => Sys2Proof.Machine.execFlushWave die ok s
  | .flushed => Sys2Proof.Machine.execFlushed s
  | .replayGo m v media => Sys2Proof.Machine.execReplayGo m v media s
  | .tenderJob tag => Sys2Proof.Machine.execTenderJob tag s
  | .chStart m n v => Sys2Proof.Machine.execChStart m n v s
  | .chStop m n v => Sys2Proof.Machine.execChStop m n v s
  | .descriptorFetched n => Sys2Proof.Machine.execDescriptorFetched n s
  | .descriptorCopy n => Sys2Proof.Machine.execDescriptorCopy n s
  | .fill n => Sys2Proof.Machine.execFill n s
  | .compare n => Sys2Proof.Machine.execCompare n s
  | .descriptorComplete n => Sys2Proof.Machine.execDescriptorComplete n s
  | .tmrEnable m k v => Sys2Proof.Machine.execTmrEnable m k v s
  | .timerTick k => Sys2Proof.Machine.execTimerTick k s
  | .qClear m v => Sys2Proof.Machine.execQClear m v s
  | .blDb p v txid => Sys2Proof.Machine.execBlDb p v txid s
  | .internalDoorbell => Sys2Proof.Machine.execInternalDoorbell s
  | .blEoi p v txid => Sys2Proof.Machine.execBlEoi p v txid s
  | .tgtEoi m t v => Sys2Proof.Machine.execTgtEoi m t v s
  | .deliveryRunStart slot => Sys2Proof.Machine.execDeliveryRunStart slot s
  | .attemptSlot slot => Sys2Proof.Machine.execAttemptSlot slot s
  | .bellAwakeRise t => Sys2Proof.Machine.execBellAwakeRise t s
  | .deliveryResponse p txid status => Sys2Proof.Machine.execDeliveryResponse p txid status s
  | .fallback t => Sys2Proof.Machine.execFallback t s
  | .tgtUnfreeze m t v => Sys2Proof.Machine.execTgtUnfreeze m t v s
  | .srcCfg m src v => Sys2Proof.Machine.execSrcCfg m src v s
  | .srcState m src v => Sys2Proof.Machine.execSrcState m src v s
  | .domReq m via d v => Sys2Proof.Machine.execDomReq m via d v s
  | .drainComplete d => Sys2Proof.Machine.execDrainComplete d s
  | .domainDownAck d => Sys2Proof.Machine.execDomainDownAck d s
  | .downLate d => Sys2Proof.Machine.execDownLate d s
  | .domainWakeAck d => Sys2Proof.Machine.execDomainWakeAck d s
  | .wakeTimeout d => Sys2Proof.Machine.execWakeTimeout d s
  | .wakeRetryEnd d => Sys2Proof.Machine.execWakeRetryEnd d s
  | .wakeSourceAssert d bit => Sys2Proof.Machine.execWakeSourceAssert d bit s
  | .modelStep => Sys2Proof.Machine.execModelStep s
  | .cuEnergyReport ch uj => Sys2Proof.Machine.execCuEnergyReport ch uj s
  | .correctionLoop => Sys2Proof.Machine.execCorrectionLoop s
  | .dieTempReading die r => Sys2Proof.Machine.execDieTempReading die r s
  | .tsUnsuspect m v => Sys2Proof.Machine.execTsUnsuspect m v s
  | .throttleSpacing die => Sys2Proof.Machine.execThrottleSpacing die s
  | .coldDeferExpiry die => Sys2Proof.Machine.execColdDeferExpiry die s
  | .fltAck m v => Sys2Proof.Machine.execFltAck m v s
  | .cuThrottleDuty ch => Sys2Proof.Machine.execCuThrottleDuty ch s
  | .supplyInRange rail => Sys2Proof.Machine.execSupplyInRange rail s
  | .lkAckFall => Sys2Proof.Machine.execLkAckFall s

end Sys2Proof.Machine
end

