-- ==== Sys2Proof/Machine/Tick.lean ====
section
/-! DEFINITION. What a nanosecond brings when no command comes (log 3): the requests that stood
in the ports' ingress queues, the clocks, an error in memory (log 74), two cycles of the Necklace (log 60), and the work that
waited for any of them. -/

namespace Sys2Proof.Machine

/-- The timestamp clock (R90, R92) and the always-on clock count. -/
def clocks (d : Dev) : Dev := { d with ts := (d.ts + 1) % 2 ^ 64, up := d.up + 1 }

/-! ### Errors in memory (R470, R485, R488, R478, R125, R474) -/

/-- Bits of a Staging Buffer word flip. -/
def upsetSb (p m : Nat) (d : Dev) : Dev :=
  let w := p % (banks d.cfg * 65536)
  if bankOn d (w / 65536) then
    updLan (fun l => { l with flips := tabSet 0 l.flips w (nXor (tabGet 0 l.flips w) (m % 2 ^ 72)) }) d
  else d

/-- Bits of a word of a map-cache line flip. -/
def upsetLine (p m : Nat) (d : Dev) : Dev :=
  match d.lan.lines[p / 8 % max 1 d.lan.lines.length]? with
  | none => d
  | some x => updLine x.addr (fun y => { y with flips := tabSet 0 y.flips (p % 8) (nXor (tabGet 0 y.flips (p % 8)) (m % 2 ^ 72)) }) d

/-- Bits of a word of the oldest entry of a lane queue flip. -/
def upsetEnt (p m : Nat) (e : LaneEnt) : LaneEnt :=
  { e with flips := (List.range entWords).map (fun i =>
      if i = p % entWords then nXor (e.flips.getD i 0) (m % 2 ^ 72) else e.flips.getD i 0) }

/-- The same in the network. -/
def upsetLane (p m : Nat) (d : Dev) : Dev :=
  match d.net.lanes[p / entWords % max 1 d.net.lanes.length]? with
  | none => d
  | some (q, _) => { d with net := d.net.updLane q (fun y => { y with ents := match y.ents with
      | [] => []
      | e :: t => upsetEnt p m e :: t }) }

/-- A unit reads an empty lane queue (R474). -/
def underrun (q : Nat) (d : Dev) : Dev :=
  if (layout d.cfg).reads.contains q ∧ (d.net.lane q).ents.isEmpty then
    let r := (d.net.lane q).take q (laneK q)
    { d with net := (d.net.updLane q (fun _ => r.2.2)).tell r.2.1 }
  else d

/-- What goes wrong in memory in this nanosecond, by a free value (log 74). -/
def upset (d0 : Dev) : Dev :=
  let u := Config.upset d0.free
  let p := u.2.1
  let m := u.2.2
  let d := { d0 with free := d0.free + 1 }
  match u.1 with
  | 1 => upsetSb p m d
  | 2 => upsetLine p m d
  | 3 => upsetLane p m d
  | 4 => if (odRow d.cfg (p / 256) (p % 256)).isSome ∧ ¬ d.odBad.contains p then { d with odBad := d.odBad ++ [p] } else d
  | 5 => updMaster (p % 8) (fun x => { x with bufBad := (x.bufBad.filter (· ≠ p / 8 % 512)) ++ [p / 8 % 512] }) d
  | 6 => underrun p d
  | _ => d

/-! ### The Necklace -/

/-- A poisoned flit reached its unit (R68, R478): the operation that it belongs to fails. -/
def flitFails (f : Flit) (d : Dev) : Dev :=
  match f.poison, f.own with
  | true, some no => (match d.cmds.find? (fun c => c.2.no == no && c.2.st != .met) with
    | some (tag, _) => cmdFail tag 0x0401 d
    | none => d)
  | _, _ => d

/-- What the network tells. -/
def netEv (e : NetEv) (d : Dev) : Dev :=
  match e with
  | .got f => flitFails f d
  | .mem k syn w u => memError k syn w u (if k = 7 then cnt 0x2911 3 d else d)

/-- Two cycles of the network at 2.0 GHz, and what they tell. -/
def netGo (d : Dev) : Dev :=
  let x := netCtx d
  let n := if d.net.busy then Net.cycle x (Net.cycle x d.net) else d.net
  n.evs.foldl (fun y e => netEv e y) { d with net := { n with evs := [] } }

/-- A flit that waits for a domain not in ON is a wake source of it (R29, R528, R529). -/
def netWakes (d : Dev) : Dev :=
  ((d.net.out.filterMap (fun p => unitDom d.cfg p.dst)).eraseDups).foldl (fun x n => assertWake n 0 x) d

/-! ### The units go on -/

/-- Host data that waits for a half's data credits (R30). -/
def tenderWaits (d : Dev) : Bool := d.tender.chs.any (fun c => (c.2.jobs.head?).any (fun j => !j.held.isEmpty))

/-- The units go on with what waited. -/
def unitsGo (d : Dev) : Dev :=
  let d1 := ckptGo (askWanted (endJobs d))
  if tenderWaits d1 then settle d1 else d1

/-- The device's part of a nanosecond. -/
def tickDev (d : Dev) : Dev := unitsGo (netWakes (netGo (upset (clocks d))))

/-- The request that a port's ingress queue holds first is served, if its destination can take it (R60). -/
def tickPort (ex : Instr → State → Host.Outcome State Fault Refusal) (p : Nat) (s : State) :
    Host.Outcome State Fault Refusal :=
  match nextIn s.dev p with
  | none => .next s
  | some (c, rest, d) => match ex c { s with dev := d } with
    | .next t => .next { t with dev := afterIn p rest t.dev }
    | o => o

/-- The ports' ingress queues go on. -/
def tickPorts (ex : Instr → State → Host.Outcome State Fault Refusal) (s : State) : Host.Outcome State Fault Refusal :=
  (List.range s.dev.cfg.ports).foldl (fun o p => match o with
    | .next t => tickPort ex p t
    | e => e) (.next s)

/-- A nanosecond without a command. -/
def tick (ex : Instr → State → Host.Outcome State Fault Refusal) (s : State) : Host.Outcome State Fault Refusal :=
  match tickPorts ex s with
  | .next t => .next { t with dev := tickDev t.dev }
  | o => o

end Sys2Proof.Machine
end

