-- ==== Sys2Proof/Safety.lean ====
section
/-! DEFINITION. What statements say about a command: that it completes and what then holds of the block; what it
leaves alone; and what a safe run is. -/

namespace Sys2Proof.Machine

/-- The command completes: exec answers a next state, the commands that wait are the same, and the block then has a
property. -/
def Completes (c : Instr) (s : State) (P : Dev → Prop) : Prop :=
  ∃ t, exec c s = .next t ∧ t.pending = s.pending ∧ P t.dev

/-- Every dictionary entry but those listed by their keys holds what it held. -/
def KeepsEntries (d d' : Dev) (keys : List Nat) : Prop := ∀ k, k ∉ keys → getK d' k = getK d k

/-- Nothing but the listed dictionary entries, and the marks of saturated counters, has changed. -/
def OnlyEntries (d d' : Dev) (keys : List Nat) : Prop :=
  KeepsEntries d d' keys ∧ d' = { d with od := d'.od, sat := d'.sat }

/-- Nothing outside the dictionary has changed but what a change of the rest made. -/
def SameBut (d d' : Dev) (rest : Dev → Dev) (keys : List Nat) : Prop :=
  KeepsEntries d d' keys ∧ d' = { rest d with od := d'.od, sat := d'.sat }

/-- R565, R567: an event counter after n more events: a U32 counter stops at its largest value, a U64 counter wraps. -/
def Counted (d d' : Dev) (idx sub n : Nat) : Prop :=
  od d' idx sub =
    if odSize d.cfg (ek idx sub) = 4 then min (od d idx sub + n) 0xFFFFFFFF
    else (od d idx sub + n) % 2 ^ (8 * odSize d.cfg (ek idx sub))

/-- The dictionary's canonical form: keys strictly rising, no entry listed at its default, every value within the
size of its entry (R105). -/
def DictOk (d : Dev) : Prop :=
  tabWf (odDefault d.cfg) d.od = true ∧ ∀ p ∈ d.od, p.2 < 2 ^ (8 * odSize d.cfg p.1)

/-- The Staging Buffer's canonical form: addresses strictly rising, no byte listed that an unwritten one reads as. -/
def SbOk (d : Dev) : Prop := Memory.wf d.lan.mem = true

/-- The port answers a request: its response is the last header the port sent, or waits in its queue (R53, R57, R69). -/
def Answers (d' : Dev) (p op status txid : Nat) : Prop :=
  let m : OutMsg := { cls := .rsp, op := op, addr := 0, len := 0, status := status, txid := txid, mdata := 0,
                      data := [], bad := [], own := .answer }
  (port d' p).last = some m ∨ m ∈ (port d' p).hdrQ

/-- A port's answer changes nothing else than what the port may send with it: its queues and counters, and the notes
of what departed. -/
def AnswerFrame (d d' : Dev) (p : Nat) (keys : List Nat) : Prop :=
  KeepsEntries d d' (ek (0x5000 + 0x10 * p) 0x0B :: ek (0x5000 + 0x10 * p) 0x0C :: keys) ∧
  (∀ q, q ≠ p → port d' q = port d q) ∧
  d' = { d with od := d'.od, sat := d'.sat, ports := d'.ports, rings := d'.rings, tender := d'.tender }

/-- A port takes a flit of a class as it arrives (R45, R60, R75): the link is up, the fabric holds a credit of the class, the
port may answer, and no request waits before it. -/
def PortTakes (d : Dev) (p : Nat) (k : YppClass) : Prop :=
  (port d p).linkUp = true ∧ (port d p).iCr.get k ≠ 0 ∧ (port d p).rspMet = true ∧ (port d p).inQ = []

/-- The block as a command of the transfer protocol finds it: through a window, with the flit's credit given back (R46)
and the write of ODW_CMD answered OK (R133). -/
def entered (via : Option Via) (d : Dev) : Dev :=
  match via with
  | none => d
  | some v => answer v.p 0xA 0 v.txid (creditPulse v.p .msg 1 d)

/-- The MU ends the command as it comes, with the argument and the data part that it names (R124, R132, R133): it comes
from the I3C link, or through a window whose port takes it while no command of the master is under way. -/
def Runs (via : Option Via) (m : Nat) (d : Dev) : Prop :=
  match via with
  | none => True
  | some v => PortTakes d v.p .msg ∧ (master d m).job = none ∧ v.later = false ∧ v.regs = false

/-- A write of an entry of fixed size is taken: the master is enabled, no check turns the write away, it is no
host-made error, and no block write of another master holds the entry (R106 to R110, R126 to R130). -/
def Accepted (d : Dev) (m idx sub v : Nat) : Prop :=
  enabled d m = true ∧ numError d m idx sub (odSize d.cfg (ek idx sub)) v = none ∧
  numAbort (seen m d) m idx sub (odSize d.cfg (ek idx sub)) v = none ∧ holder d m (ek idx sub) = none

/-- The doorbell of od_done_source, if it has one (R124). -/
def doneBell (d : Dev) : List DbItem := if od d 0x1100 0x12 < 1024 then [.unit (od d 0x1100 0x12)] else []

/-- The network with that doorbell's flit to Bell (R20). -/
def doneNet (d : Dev) : Net := if od d 0x1100 0x12 < 1024 then (send .ao .bell .msg 1 d).net else d.net

/-- A command of the transfer protocol ends DONE (R124, R141): it is counted, od_done_source rings, and nothing else
changes. -/
def Ended (d1 d' : Dev) : Prop :=
  Counted d1 d' 0x1100 0x0F 1 ∧ KeepsEntries d1 d' [ek 0x1100 0x0F] ∧
  d' = { d1 with od := d'.od, sat := d'.sat, dbq := d1.dbq ++ doneBell d1, net := doneNet d1 }

/-- It ends ABORTED: besides, the abort is counted, and a conflict once more (R141). -/
def EndedBad (a : Abort) (d1 d' : Dev) : Prop :=
  Counted d1 d' 0x1100 0x0F 1 ∧ Counted d1 d' 0x1100 0x10 1 ∧
  (if a = .conflict then Counted d1 d' 0x1100 0x11 1 else od d' 0x1100 0x11 = od d1 0x1100 0x11) ∧
  KeepsEntries d1 d' [ek 0x1100 0x0F, ek 0x1100 0x10, ek 0x1100 0x11] ∧
  d' = { d1 with od := d'.od, sat := d'.sat, dbq := d1.dbq ++ doneBell d1, net := doneNet d1 }

/-- An index of an instance that the configuration has; else one without entry (R110). -/
def idxIf (b : Bool) (idx : Nat) : Nat := if b then idx else 0xFFFF

/-- The entry that a write row of an entry of fixed size names: master, index, sub-index, value. -/
def rowEntry (c : Params) : Instr → Option (Nat × Nat × Nat × Nat)
  | .rstBlock m v => some (m, 0x2000, 3, v)
  | .rstSoft m v => some (m, 0x2000, 4, v)
  | .rstChannel m v => some (m, 0x2000, 5, v)
  | .svcReq m v => some (m, 0x2000, 2, v)
  | .masterEnable m v => some (m, 0x1200, 1, v)
  | .grpOwner m g v => some (m, idxIf (g < 0x30) 0x1201, g + 1, v)
  | .i3cEnable m v => some (m, 0x1100, 1, v)
  | .ringEnable m r v => some (m, idxIf (r < c.rings) (rgIdx r 0), 1, v)
  | .ltQuiesce m v => some (m, 0x2100, 6, v)
  | .exChannel m v => some (m, 0x2107, 2, v)
  | .exDecoder m v => some (m, 0x2107, 3, v)
  | .exSbBank m v => some (m, 0x2107, 4, v)
  | .exMapcWay m v => some (m, 0x2107, 5, v)
  | .dieRevive m ch k => some (m, idxIf (ch < c.channels) (chIdx ch 3), 8, k)
  | .snapReq m ch v => some (m, idxIf (ch < c.channels) (chIdx ch 3), 5, v)
  | .rawUnlock m v => some (m, 0x2050, 1, v)
  | .wpLock m v => some (m, 0x2052, 2, v)
  | .idRerun m ch v => some (m, idxIf (ch < c.channels) (chIdx ch 5), 7, v)
  | .tsArm m ch v => some (m, idxIf (ch < c.channels) (chIdx ch 0x0A), 1, v)
  | .trainReq m ch v => some (m, idxIf (ch < c.channels) (chIdx ch 0x0B), 1, v)
  | .lktLoad m v => some (m, 0x6001, 2, v)
  | .mcRevert m v => some (m, 0x6000, 0x0A, v)
  | .lmMode m v => some (m, 0x2301, 1, v)
  | .ckptNow m v => some (m, 0x2400, 3, v)
  | .flushNow m v => some (m, 0x2400, 2, v)
  | .chStart m n v => some (m, idxIf (n < 64) (tcIdx n 0), 2, v)
  | .chStop m n v => some (m, idxIf (n < 64) (tcIdx n 0), 3, v)
  | .tmrEnable m k v => some (m, idxIf (k < 8) (0x2510 + k), 1, v)
  | .qClear m v => some (m, 0x2911, 2, v)
  | .tgtEoi m t v => some (m, idxIf (t < 8) (0x2610 + t), 7, v)
  | .tgtUnfreeze m t v => some (m, idxIf (t < 8) (0x2610 + t), 9, v)
  | .srcCfg m n v => some (m, idxIf (n < 1024) (0x2640 + n / 64), n % 64 + 1, v)
  | .srcState m n v => some (m, idxIf (n < 1024) (0x2650 + n / 64), n % 64 + 1, v)
  | .tsUnsuspect m v => some (m, 0x2800, 0x0B, v)
  | .fltAck m v => some (m, 0x2900, 4, v)
  | .counterClear m key v => if key = 0x210901 then none else some (m, key / 256, key % 256, v)
  | _ => none

/-- A stored value that a write row replaces holds no error any more (R125). -/
def rewritten (c : Instr) (d : Dev) : Dev :=
  match c with
  | .exDie _ _ => rewrite 0x2107 1 d
  | .odEntryWrite _ none (.entry idx sub) _ => rewrite idx sub d
  | .mapInit _ _ _ => rewrite 0x2100 7 d
  | .replayGo _ _ _ => rewrite 0x2404 9 d
  | .domReq _ none n _ => rewrite (idxIf (n < domainCount d.cfg) (kpIdx 0x2710 n)) (kpSub n) d
  | .counterClear _ key _ => rewrite (key / 256) (key % 256) d
  | _ => match rowEntry d.cfg c with
    | some (_, idx, sub, _) => rewrite idx sub d
    | none => d

/-- A write row completes with an effect: the master is marked as seen, the effect happens on the entry written anew, and
the command ends. -/
def WriteDoes (c : Instr) (s : State) (m : Nat) (eff : Dev → Dev → Prop) : Prop :=
  Completes c s (fun d' => ∃ d1, eff (rewritten c (seen m s.dev)) d1 ∧ Ended d1 d')

/-- The entries that no command of the data side writes: those below 0x2050 (the identity, the I3C and window entries,
the masters' and groups' entries, the service and reset entries, the time base's), and from 0x2103 to 0x2107 (the
policies and exclusions of Lantern). -/
def setKey (k : Nat) : Prop := k < 0x205000 ∨ (0x210300 ≤ k ∧ k < 0x210800)

/-- What no command of the data side touches: the parameters, the clocks, the telemetry and time base, the masters and
their transfers, the I3C target, the sensors, the domains that wait to be powered, the wake marks that stand, and those
entries. -/
def ControlKept (d d' : Dev) : Prop :=
  d'.cfg = d.cfg ∧ d'.ts = d.ts ∧ d'.up = d.up ∧ d'.tele = d.tele ∧ d'.masters = d.masters ∧ d'.i3c = d.i3c ∧
  d'.sensors = d.sensors ∧ d'.pwrq = d.pwrq ∧ (∀ n, bit d.wakeP n = true → bit d'.wakeP n = true) ∧ ∀ k, setKey k → getK d' k = getK d k

/-- Of the channels, only this one may have changed, and nothing else. -/
def OnlyChan (d d' : Dev) (ch : Nat) : Prop := (∀ c, c ≠ ch → chan d' c = chan d c) ∧ d' = { d with chans := d'.chans }

/-- Of the dies, only this one may have changed, and nothing else. -/
def OnlyDie (d d' : Dev) (n : Nat) : Prop := (∀ k, k ≠ n → die d' k = die d k) ∧ d' = { d with dies := d'.dies }

/-- Of the sequencers, only this one may have changed. -/
def OnlySeq (d d' : Dev) (ch : Nat) : Prop := ∀ c, c ≠ ch → seq d' c = seq d c

/-- Of Tender's channels, only this one may have changed. -/
def OnlyTch (d d' : Dev) (n : Nat) : Prop := ∀ k, k ≠ n → tch d' k = tch d k

/-- Of Bell's targets, only this one may have changed. -/
def OnlyTgt (d d' : Dev) (t : Nat) : Prop := ∀ k, k ≠ t → tgt d' k = tgt d k

/-- Of Bell's sources, only this one may have changed. -/
def OnlySrc (d d' : Dev) (s : Nat) : Prop := ∀ k, k ≠ s → src d' k = src d k

/-- Of the domains, only this one may have changed, and nothing else. -/
def OnlyDom (d d' : Dev) (n : Nat) : Prop := (∀ k, k ≠ n → dom d' k = dom d k) ∧ d' = { d with doms := d'.doms }

/-- A safe run of k steps: no step stops the block. -/
def SafeRun (k : Nat) (s : State) : Prop := ∃ t, Host.Core.run Sys2Proof.core k s = .next t

end Sys2Proof.Machine
end

