-- ==== Sys2Proof/Certificates/Slice0/Obligations.lean ====
section
/-! DEFINITION. The statements about the model, one Prop each. -/

open Sys2Proof Sys2Proof.Machine

/-! ### The machine -/

/-- The command at the front of the queue takes effect on the state with the queue's rest (log 1). -/
def Obligations.StepTakesFrontCommand : Prop :=
  ∀ (c : Instr) (rest : List Instr) (d : Dev), step { dev := d, pending := c :: rest } = exec c { dev := d, pending := rest }

/-- With no command waiting, a nanosecond passes: the step answers a next state and puts nothing into the queue; with no
request in any port's ingress queue the device's own part is all of it; and that part advances the clocks by one, keeps the
synthesis parameters, and, where no command of the dictionary is under way, the masters, the I3C target and the telemetry.
That the block does so on an empty queue is the model's choice (log 3). -/
def Obligations.EmptyQueueIdles : Prop :=
  (∀ s : State, s.pending = [] → ∃ t, step s = .next t ∧ t.pending = []) ∧
  (∀ s : State, s.pending = [] → (∀ p, p < s.dev.cfg.ports → (port s.dev p).inQ = []) →
    step s = .next { dev := tickDev s.dev, pending := [] }) ∧
  (∀ d : Dev, (∀ m, m < 8 → (master d m).job = none) →
    (tickDev d).ts = (d.ts + 1) % 2 ^ 64 ∧ (tickDev d).up = d.up + 1 ∧ (tickDev d).cfg = d.cfg ∧ (tickDev d).i3c = d.i3c ∧
    (tickDev d).tele = d.tele ∧ ∀ m, (master (tickDev d) m).xfer = (master d m).xfer)

/-- R571, R578: after reset every entry is at its default, the service state is START, the time base NO_SYNC, the
hold-up budget was never valid, the I3C target is off, every domain is off, every link of the Necklace is at rest without a
credit, and nothing waits. -/
def Obligations.ResetState : Prop :=
  (∀ k, getK State.reset.dev k = odDefault Params.d8 k) ∧
  od State.reset.dev 0x2000 1 = 0 ∧ od State.reset.dev 0x2010 2 = 0 ∧ od State.reset.dev 0x1100 1 = 0 ∧
  bit (odNum State.reset.dev 0x2401 5) 4 = true ∧
  (∀ n, (dom State.reset.dev n).st = .off) ∧ (∀ r, r < Params.d8.rings → od State.reset.dev (rgIdx r 1) 1 = 0) ∧
  (∀ l c, (State.reset.dev.net.link l).credit c = 0) ∧ (∀ q, (State.reset.dev.net.lane q).ents = []) ∧
  State.reset.dev.cmds = [] ∧ State.reset.dev.flt.log = [] ∧ State.reset.pending = []

/-- Every command completes, whatever its operands and the state: the block takes it and goes on with a next state (R11: no
error of the host hangs the block), in which the commands that wait are those that waited before. Commands are taken in the
order they wait, one for each step: after k steps the queue is what it was without its first k commands. -/
def Obligations.CommandsAreTakenInOrder : Prop :=
  (∀ (c : Instr) (s : State), ∃ t, exec c s = .next t ∧ t.pending = s.pending) ∧
  ∀ (k : Nat) (s : State), ∃ t, Host.Core.run Sys2Proof.core k s = .next t ∧ t.pending = s.pending.drop k

/-- R105, R122 (and the model's own canonical forms): whatever the command, a step keeps the dictionary canonical, with
every value within the size of its entry, the Staging Buffer's bytes canonical, and the synthesis parameters. -/
def Obligations.StepKeepsDictionaryAndBuffer : Prop :=
  ∀ s t : State, DictOk s.dev → SbOk s.dev → step s = .next t → DictOk t.dev ∧ SbOk t.dev ∧ t.dev.cfg = s.dev.cfg

/-- The reset state has the canonical forms that every step keeps. -/
def Obligations.ResetIsCanonical : Prop := DictOk State.reset.dev ∧ SbOk State.reset.dev

/-! ### Telemetry, time base and filtered inputs -/

/-- R82, R88, R95, R96, R556: a pulse shorter than its filter is discarded: its counter takes one event and nothing
else changes; an I3C clock stall on a bus the target is on is counted the same way (R141). -/
def Obligations.ShortPulsesAreOnlyCounted : Prop :=
  ∀ s : State,
    Completes .wrstGlitch s (fun d' => Counted s.dev d' 0x2902 5 1 ∧ OnlyEntries s.dev d' [ek 0x2902 5]) ∧
    Completes .pfGlitch s (fun d' => Counted s.dev d' 0x2403 0x0B 1 ∧ OnlyEntries s.dev d' [ek 0x2403 0x0B]) ∧
    (∀ n, n < domainCount s.dev.cfg →
      Completes (.pcGlitch n) s (fun d' => Counted s.dev d' 0x2902 3 1 ∧ OnlyEntries s.dev d' [ek 0x2902 3])) ∧
    (∀ ch tgt, ch < s.dev.cfg.channels → tgt < s.dev.cfg.targets →
      Completes (.rbGlitch ch tgt) s (fun d' => Counted s.dev d' 0x2902 4 1 ∧ OnlyEntries s.dev d' [ek 0x2902 4])) ∧
    (onBus s.dev = true →
      Completes .sclStall s (fun d' => Counted s.dev d' 0x1100 0x0E 1 ∧ OnlyEntries s.dev d' [ek 0x1100 0x0E]))

/-- R84 to R86: a hold-up report brings 32 bits of energy and 8 of sequence number. One with the sequence number of the last
one is only counted; a fresh one is taken, a value above 2,147,483,647 µJ as out of range and counted, any other as the
budget, valid from now on. -/
def holdUpReports : Prop :=
  ∀ (s : State) (energy seq : Nat),
    let e := energy % 2 ^ 32
    let q := seq % 2 ^ 8
    (s.dev.tele.lastSeq = some q → Completes (.holdupReport energy seq) s (fun d' =>
      Counted s.dev d' 0x2403 7 1 ∧ OnlyEntries s.dev d' [ek 0x2403 7])) ∧
    (s.dev.tele.lastSeq ≠ some q → 0x7FFFFFFF < e → Completes (.holdupReport energy seq) s (fun d' =>
      Counted s.dev d' 0x2403 8 1 ∧
      SameBut s.dev d' (fun d => { d with tele := { d.tele with lastSeq := some q, stale := false, range := true } })
        [ek 0x2403 8])) ∧
    (s.dev.tele.lastSeq ≠ some q → e ≤ 0x7FFFFFFF → Completes (.holdupReport energy seq) s (fun d' =>
      od d' 0x2401 4 = e ∧
      SameBut s.dev d' (fun d => { d with tele := { d.tele with
        lastSeq := some q, stale := false, range := false, ever := true, takenAt := d.up } }) [ek 0x2401 4]))

/-- R87: one sample of the bus. It is high above its ceiling or above 30,000 mV; the bus counts as above once three samples
running are high, and as below once three running are not; each rise is counted, and each sample above 30,000 mV after
one that is not. -/
def busSampled (v : Nat) (d d' : Dev) : Prop :=
  let mv := v % 2 ^ 16
  let high := od d 0x2401 1 < mv ∨ 30000 < mv
  (high → d'.tele.nHigh = min 3 (d.tele.nHigh + 1) ∧ d'.tele.nLow = 0) ∧
  (¬ high → d'.tele.nHigh = 0 ∧ d'.tele.nLow = min 3 (d.tele.nLow + 1)) ∧
  (d'.tele.above = true ↔ d'.tele.nHigh = 3 ∨ d.tele.above = true ∧ d'.tele.nLow < 3) ∧
  (d'.tele.above = true ∧ d.tele.above = false → Counted d d' 0x2403 0x0A 1) ∧
  (¬ (d'.tele.above = true ∧ d.tele.above = false) → od d' 0x2403 0x0A = od d 0x2403 0x0A) ∧
  (30000 < mv ∧ d.tele.beyond = false → Counted d d' 0x2403 8 1) ∧
  (¬ (30000 < mv ∧ d.tele.beyond = false) → od d' 0x2403 8 = od d 0x2403 8) ∧
  SameBut d d' (fun x => { x with tele := { x.tele with
    above := d'.tele.above, nHigh := d'.tele.nHigh, nLow := d'.tele.nLow, beyond := decide (30000 < mv) } })
    [ek 0x2403 0x0A, ek 0x2403 8]

/-- Samples one after the other. -/
def busSampledAll : List Nat → Dev → Dev → Prop
  | [], d, d' => d' = d
  | v :: l, d, d' => ∃ d1, busSampled v d d1 ∧ busSampledAll l d1 d'

/-- R86 to R88, R423: a budget goes stale once; the bus is judged sample by sample; the power-fail warning is latched. -/
def holdUpConditions : Prop :=
  ∀ s : State,
    (s.dev.tele.lastSeq.isSome → s.dev.tele.stale = false → Completes .holdupStale s (fun d' =>
      Counted s.dev d' 0x2403 9 1 ∧
      SameBut s.dev d' (fun d => { d with tele := { d.tele with stale := true } }) [ek 0x2403 9])) ∧
    (∀ l, Completes (.vbusAboveCeiling l) s (busSampledAll l s.dev) ∧ Completes (.vbusBelowCeiling l) s (busSampledAll l s.dev)) ∧
    Completes .pfWarn s (fun d' => d' = { s.dev with tele := { s.dev.tele with pf := true } })

/-- R89: a sensor's reading within -55 to 150 degrees is taken and makes the sensor fresh; one outside is discarded and
counted; a sensor that stops reporting is marked stale, counted once. -/
def sensorReports : Prop :=
  ∀ (s : State) (id : Nat), id < 64 →
    (∀ temp : Int, -880 ≤ temp → temp ≤ 2400 → Completes (.sensorReport id temp) s (fun d' =>
      sensor d' id = { sensor s.dev id with last := temp, seen := true, stale := false } ∧
      (∀ j, j ≠ id → sensor d' j = sensor s.dev j) ∧ d' = { s.dev with sensors := d'.sensors })) ∧
    (∀ temp : Int, -32768 ≤ temp → temp < 32768 → temp < -880 ∨ 2400 < temp → Completes (.sensorReport id temp) s (fun d' =>
      Counted s.dev d' 0x2902 1 1 ∧ OnlyEntries s.dev d' [ek 0x2902 1])) ∧
    ((sensor s.dev id).stale = false → Completes (.sensorStale id) s (fun d' =>
      Counted s.dev d' 0x2902 2 1 ∧ sensor d' id = { sensor s.dev id with stale := true } ∧
      (∀ j, j ≠ id → sensor d' j = sensor s.dev j) ∧ KeepsEntries s.dev d' [ek 0x2902 2] ∧
      d' = { s.dev with od := d'.od, sat := d'.sat, sensors := d'.sensors }))

/-- R85 to R89: the hold-up reports, the conditions of the budget and of the bus, the power-fail warning, and the
sensors' reports, with what each counts. -/
def Obligations.TelemetryInputs : Prop := holdUpReports ∧ holdUpConditions ∧ sensorReports

/-- What applying a sync changes (R90, R93, R455): the clock, tb_state, tb_last_sync, the ticks that timers skip, and the
number of steps applied. -/
def syncFrame (d d' : Dev) (steps : Nat) (extra : List Nat) : Prop :=
  KeepsEntries d d' ([ek 0x2010 2, ek 0x2010 7] ++ d.tender.tmrs.map (fun t => ek (0x2510 + t.1) 5) ++ extra) ∧
  d' = { d with od := d'.od, sat := d'.sat, ts := d'.ts, tele := { d.tele with tbPend := none, steps := d.tele.steps + steps },
                tender := d'.tender }

/-- R90, R91, R93: a sync within the tolerance of the predicted time sets the clock; one outside it is held in STEP
PENDING; a second one that agrees with the held one applies the step and is counted; one that does not is counted and
judged afresh. -/
def timeBaseSync : Prop :=
  ∀ (s : State) (c : Nat), c < 2 ^ 64 →
    (s.dev.tele.tbPend = none → absDiff c s.dev.ts ≤ od s.dev 0x2010 3 → Completes (.tbSync c) s (fun d' =>
      d'.ts = c ∧ od d' 0x2010 2 = 1 ∧ od d' 0x2010 7 = c ∧ syncFrame s.dev d' 0 [])) ∧
    (s.dev.tele.tbPend = none → od s.dev 0x2010 3 < absDiff c s.dev.ts → Completes (.tbSync c) s (fun d' =>
      od d' 0x2010 2 = 3 ∧
      SameBut s.dev d' (fun d => { d with tele := { d.tele with tbPend := some (c, d.ts) } }) [ek 0x2010 2])) ∧
    (∀ c0 t0, s.dev.tele.tbPend = some (c0, t0) → absDiff c (c0 + (s.dev.ts - t0)) ≤ od s.dev 0x2010 3 →
      Completes (.tbSync c) s (fun d' =>
        d'.ts = c ∧ od d' 0x2010 2 = 1 ∧ od d' 0x2010 7 = c ∧ Counted s.dev d' 0x2010 4 1 ∧
        syncFrame s.dev d' 1 [ek 0x2010 4])) ∧
    (∀ c0 t0, s.dev.tele.tbPend = some (c0, t0) → od s.dev 0x2010 3 < absDiff c (c0 + (s.dev.ts - t0)) →
      Completes (.tbSync c) s (fun d' =>
        Counted s.dev d' 0x2010 5 1 ∧
        (if absDiff c s.dev.ts ≤ od s.dev 0x2010 3 then d'.ts = c ∧ od d' 0x2010 2 = 1 ∧ syncFrame s.dev d' 0 [ek 0x2010 5]
         else d'.ts = s.dev.ts ∧ od d' 0x2010 2 = 3 ∧ d'.tele.tbPend = some (c, s.dev.ts))))

/-- R92: with the time base lost, by its clock or by a missing sync, LOCKED and STEP PENDING go to HOLDOVER, counted on
entry and with the held sync dropped; in NO SYNC and in HOLDOVER nothing changes. -/
def timeBaseHoldover : Prop :=
  ∀ (s : State) (c : Instr), c = .tbClockLoss ∨ c = .tbSyncTimeout →
    ((od s.dev 0x2010 2 = 1 ∨ od s.dev 0x2010 2 = 3) → Completes c s (fun d' =>
      od d' 0x2010 2 = 2 ∧ Counted s.dev d' 0x2010 6 1 ∧
      SameBut s.dev d' (fun d => { d with tele := { d.tele with tbPend := none } }) [ek 0x2010 2, ek 0x2010 6])) ∧
    ((od s.dev 0x2010 2 ≠ 1 ∧ od s.dev 0x2010 2 ≠ 3) → Completes c s (fun d' => d' = s.dev))

/-- R90 to R93: what a sync does, within the tolerance and outside it, and what losing the time base does.
(The model's choices: log 17.) -/
def Obligations.TimeBase : Prop := timeBaseSync ∧ timeBaseHoldover

/-! ### The out-of-band transport -/

/-- R134, R135: what the common command codes do to a target that takes part on the bus. -/
def i3cCommonCommandCodes : Prop :=
  ∀ s : State, onBus s.dev = true →
    (∀ e : Byte, Completes (.enec e) s (fun d' =>
      d' = { s.dev with i3c := { s.dev.i3c with ibiEn := s.dev.i3c.ibiEn || e.getLsbD 0 } })) ∧
    (∀ e : Byte, Completes (.disec e) s (fun d' =>
      d' = { s.dev with i3c := { s.dev.i3c with
        ibiEn := s.dev.i3c.ibiEn && !e.getLsbD 0, ibi := s.dev.i3c.ibi && !e.getLsbD 0 } })) ∧
    Completes .rstdaa s (fun d' => od d' 0x1100 3 = 0 ∧ OnlyEntries s.dev d' [ek 0x1100 3]) ∧
    (∀ a, a < 128 → Completes (.entdaa a) s (fun d' =>
      od d' 0x1100 3 = (if od s.dev 0x1100 3 = 0 then a else od s.dev 0x1100 3) ∧ OnlyEntries s.dev d' [ek 0x1100 3])) ∧
    (∀ st a, a < 128 → Completes (.setdasa st a) s (fun d' =>
      od d' 0x1100 3 = (if od s.dev 0x1100 2 ≠ 0 ∧ st = od s.dev 0x1100 2 ∧ od s.dev 0x1100 3 = 0 then a
        else od s.dev 0x1100 3) ∧ OnlyEntries s.dev d' [ek 0x1100 3])) ∧
    (∀ a, a < 128 → od s.dev 0x1100 3 ≠ 0 → Completes (.setnewda a) s (fun d' =>
      od d' 0x1100 3 = a ∧ OnlyEntries s.dev d' [ek 0x1100 3])) ∧
    (∀ v, 69 ≤ v → Completes (.setmwl v) s (fun d' => d' = { s.dev with i3c := { s.dev.i3c with mwl := v } }) ∧
      Completes (.setmrl v) s (fun d' => d' = { s.dev with i3c := { s.dev.i3c with mrl := v } })) ∧
    (∀ v c, v < 69 → (c = .setmwl v ∨ c = .setmrl v) → Completes c s (fun d' =>
      Counted s.dev d' 0x1100 0x0D 1 ∧ OnlyEntries s.dev d' [ek 0x1100 0x0D])) ∧
    (∀ b : Byte, Completes (.rstact b) s (fun d' => d' = if b = 0 then s.dev else { s.dev with i3c := { I3c.reset with srcEid := s.dev.i3c.srcEid } })) ∧
    Completes .enthdr s (fun d' => d' = { s.dev with i3c := { s.dev.i3c with hdr := true } })

/-- R135: the bytes a target with a dynamic address returns to the direct GET codes. -/
def i3cGetCodes : Prop :=
  ∀ s : State, onBus s.dev = true → od s.dev 0x1100 3 ≠ 0 →
    let returns := fun (c : Instr) (bs : Bytes) => Completes c s (fun d' => d' = { s.dev with i3c := { s.dev.i3c with out := bs } })
    returns .getmwl [0, 69] ∧ returns .getmrl [0, 69, 1] ∧ returns .getpid (beBytes 6 (od s.dev 0x1100 4)) ∧
    returns .getbcr [6] ∧ returns .getdcr [BitVec.ofNat 8 (od s.dev 0x1100 5)] ∧
    returns .getstatus [0, if s.dev.i3c.rsp.isSome then 1 else 0]

/-- R134, R135, R138, R140: an HDR exit, a target reset, a response read packet by packet, and the timeouts of a
response and of a message in assembly. -/
def i3cTargetEvents : Prop :=
  ∀ s : State,
    (od s.dev 0x1100 1 = 1 →
      Completes .hdrExit s (fun d' => d' = { s.dev with i3c := { s.dev.i3c with hdr := false } }) ∧
      Completes .i3cTargetReset s (fun d' =>
        d' = { s.dev with i3c := { I3c.reset with srcEid := s.dev.i3c.srcEid } })) ∧
    (onBus s.dev = true →
      (s.dev.i3c.ibi = true → Completes (.ibiRetry true) s (fun d' =>
        d' = { s.dev with i3c := { s.dev.i3c with ibi := false, out := [0xAE] } })) ∧
      (s.dev.i3c.ibi = false → Completes (.ibiRetry true) s (fun d' => d' = s.dev)) ∧
      Completes (.ibiRetry false) s (fun d' => d' = s.dev)) ∧
    (onBus s.dev = true → od s.dev 0x1100 3 ≠ 0 →
      (s.dev.i3c.rsp = none → Completes .i3cPrivateRead s (fun d' =>
        d' = { s.dev with i3c := { s.dev.i3c with out := [] } })) ∧
      (∀ r, s.dev.i3c.rsp = some r → Completes .i3cPrivateRead s (fun d' =>
        let eom := decide (r.body.length ≤ r.off + 64)
        let flags := (if r.off = 0 then 128 else 0) + (if eom then 64 else 0) + 16 * r.seq + r.tag
        let pkt := [1, BitVec.ofNat 8 r.dst, BitVec.ofNat 8 (od s.dev 0x1100 7), BitVec.ofNat 8 flags] ++
          (r.body.drop r.off).take 64
        d' = { s.dev with i3c := { s.dev.i3c with
          out := pkt ++ [crc8 (BitVec.ofNat 8 (2 * od s.dev 0x1100 3 + 1) :: pkt)], ibi := false,
          rsp := if eom then none else some { r with off := r.off + 64, seq := (r.seq + 1) % 4 } } }))) ∧
    (s.dev.i3c.rsp.isSome → Completes .responseTimeout s (fun d' => Counted s.dev d' 0x1100 0x0D 1 ∧
      SameBut s.dev d' (fun d => { d with i3c := { d.i3c with rsp := none, ibi := false } }) [ek 0x1100 0x0D])) ∧
    (s.dev.i3c.asm.isSome → Completes .mctpAssemblyTimeout s (fun d' => Counted s.dev d' 0x1100 0x0D 1 ∧
      SameBut s.dev d' (fun d => { d with i3c := { d.i3c with asm := none } }) [ek 0x1100 0x0D]))

/-- R134, R135, R138, R140: the common command codes, the direct GET codes, and the target's other events.
(The model's choices: log 7, 70, 83.) -/
def Obligations.I3cBus : Prop := i3cCommonCommandCodes ∧ i3cGetCodes ∧ i3cTargetEvents

/-- A response waits for the bus owner (R138, R139): one still unread is replaced and counted. -/
def responds (d d' : Dev) (dst tag : Nat) (body : Bytes) (keys : List Nat) : Prop :=
  d'.i3c.rsp = some { dst := dst, tag := tag % 8, body := body, off := 0, seq := 0 } ∧ d'.i3c.ibi = d.i3c.ibiEn ∧
  (if d.i3c.rsp.isSome then Counted d d' 0x1100 0x0D 1 else od d' 0x1100 0x0D = od d 0x1100 0x0D) ∧
  KeepsEntries d d' (ek 0x1100 0x0D :: keys) ∧
  d' = { d with od := d'.od, sat := d'.sat, free := d'.free,
                i3c := { d.i3c with rsp := d'.i3c.rsp, ibi := d'.i3c.ibi } }

/-- R136, R140: each MCTP control request addressed to the endpoint is answered; one addressed otherwise is discarded and
counted. The layouts are the model's reading of DSP0236 (log 22). -/
def mctpControlRequests : Prop :=
  ∀ (s : State) (c : MctpCtl), onBus s.dev = true → od s.dev 0x1100 3 ≠ 0 →
    (eidOk s.dev c.dst true = true →
      (∀ op eid, op ≤ 1 → 8 ≤ eid → eid ≤ 254 → Completes (.setEndpointId c op eid) s (fun d' =>
        od d' 0x1100 7 = eid ∧ responds s.dev d' c.src c.tag [0, 0, 1, 0, 0, BitVec.ofNat 8 eid, 0] [ek 0x1100 7])) ∧
      (∀ op eid, op < 4 → eid < 256 → ¬ (op ≤ 1 ∧ 8 ≤ eid ∧ eid ≤ 254) → Completes (.setEndpointId c op eid) s (fun d' =>
        responds s.dev d' c.src c.tag [0, 0, 1, 2] [])) ∧
      Completes (.getEndpointId c) s (fun d' =>
        responds s.dev d' c.src c.tag [0, 0, 2, 0, BitVec.ofNat 8 (od s.dev 0x1100 7), 0, 0] []) ∧
      (∀ t, t = 0xFF ∨ t = 0 → Completes (.getMctpVersionSupport c t) s (fun d' =>
        responds s.dev d' c.src c.tag [0, 0, 4, 0, 1, 0xF1, 0xF3, 0xFF, 0] [])) ∧
      Completes (.getMctpVersionSupport c 0x7F) s (fun d' =>
        ∃ v : BitVec 32, responds s.dev d' c.src c.tag ([0, 0, 4, 0, 1] ++ leBytes 4 v.toNat) []) ∧
      (∀ t, t < 256 → t ≠ 0xFF → t ≠ 0 → t ≠ 0x7F → Completes (.getMctpVersionSupport c t) s (fun d' =>
        responds s.dev d' c.src c.tag [0, 0, 4, 0x80] [])) ∧
      Completes (.getMessageTypeSupport c) s (fun d' => responds s.dev d' c.src c.tag [0, 0, 5, 0, 2, 0, 0x7F] []) ∧
      (∀ n, n < 256 → Completes (.getVendorDefinedMessageSupport c n) s (fun d' =>
        responds s.dev d' c.src c.tag (if n = 0 then [0, 0, 6, 0, 0xFF, 1, 0, 0, 0xF1, 0xB1, 0, 1] else [0, 0, 6, 2]) [])) ∧
      (∀ k, k < 256 → k ∉ [1, 2, 4, 5, 6] → Completes (.mctpUnsupportedCmd c k) s (fun d' =>
        responds s.dev d' c.src c.tag [0, 0, BitVec.ofNat 8 k, 5] []))) ∧
    (eidOk s.dev c.dst true = false → ∀ i,
      (i = .getEndpointId c ∨ i = .getMessageTypeSupport c ∨ (∃ t, i = .getMctpVersionSupport c t) ∨
        (∃ op eid, i = .setEndpointId c op eid) ∨ (∃ n, i = .getVendorDefinedMessageSupport c n) ∨
        (∃ k, k < 256 ∧ k ∉ [1, 2, 4, 5, 6] ∧ i = .mctpUnsupportedCmd c k)) →
      Completes i s (fun d' => Counted s.dev d' 0x1100 0x0C 1 ∧
        SameBut s.dev d' (fun d => { d with i3c := { d.i3c with asm := none } }) [ek 0x1100 0x0C]))

/-- R136, R138 to R140: a packet with a wrong error code is discarded and counted; so is one whose header does not fit,
which also ends the message in assembly; a packet before the last adds to the message; the last one of a message in
order leaves a response for the bus owner, and of one that is not, only a count. -/
def mctpPackets : Prop :=
  ∀ (s : State) (p : Bytes) (pec : Byte), onBus s.dev = true → od s.dev 0x1100 3 ≠ 0 →
    let good := crc8 (BitVec.ofNat 8 (2 * od s.dev 0x1100 3) :: p)
    let som := bit (leAt p 3 1) 7
    let eom := bit (leAt p 3 1) 6
    (pec ≠ good → Completes (.i3cPrivateWrite p pec) s (fun d' =>
      Counted s.dev d' 0x1100 0x0B 1 ∧ OnlyEntries s.dev d' [ek 0x1100 0x0B])) ∧
    (pec = good → assemble s.dev p = none → Completes (.i3cPrivateWrite p pec) s (fun d' =>
      Counted s.dev d' 0x1100 0x0C 1 ∧
      SameBut s.dev d' (fun d => { d with i3c := { d.i3c with asm := none } }) [ek 0x1100 0x0C])) ∧
    (∀ a, pec = good → assemble s.dev p = some a → eom = false → Completes (.i3cPrivateWrite p pec) s (fun d' =>
      (if som = true ∧ s.dev.i3c.asm.isSome then Counted s.dev d' 0x1100 0x0C 1
        else od d' 0x1100 0x0C = od s.dev 0x1100 0x0C) ∧
      SameBut s.dev d' (fun d => { d with i3c := { d.i3c with asm := some a } }) [ek 0x1100 0x0C])) ∧
    (∀ a, pec = good → assemble s.dev p = some a → eom = true → msgOk a.body = false →
      Completes (.i3cPrivateWrite p pec) s (fun d' => Counted s.dev d' 0x1100 0x0D 1 ∧
        SameBut s.dev d' (fun d => { d with i3c := { d.i3c with asm := none } }) [ek 0x1100 0x0C, ek 0x1100 0x0D])) ∧
    (∀ a, pec = good → assemble s.dev p = some a → eom = true → msgOk a.body = true →
      Completes (.i3cPrivateWrite p pec) s (fun d' =>
        d'.i3c.asm = none ∧ ∃ r, d'.i3c.rsp = some r ∧ r.dst = a.src ∧ r.tag = a.tag ∧ r.off = 0 ∧ r.seq = 0))

/-- R136 to R140: MCTP control requests and the packets of messages. (The model's choices: log 14, 22, 70, 83.) -/
def Obligations.MctpMessages : Prop := mctpControlRequests ∧ mctpPackets

/-- R141: with i3c_enable 0 the target takes no part on the bus: nothing that the bus owner does changes the block. -/
def Obligations.I3cOffIgnoresTheBus : Prop :=
  ∀ (s : State) (c : Instr), od s.dev 0x1100 1 = 0 →
    (c ∈ [.rstdaa, .enthdr, .hdrExit, .i3cTargetReset, .i3cPrivateRead, .getmwl, .getmrl, .getpid, .getbcr, .getdcr, .getstatus] ∨
      (∃ v, c = .setmwl v ∨ c = .setmrl v ∨ c = .entdaa v ∨ c = .setnewda v) ∨ (∃ a b, c = .setdasa a b) ∨
      (∃ e, c = .enec e ∨ c = .disec e ∨ c = .rstact e) ∨ (∃ p e, c = .i3cPrivateWrite p e) ∨ (∃ b, c = .ibiRetry b)) →
    Completes c s (fun d' => d' = s.dev)

/-! ### The object dictionary's transfer protocol -/

/-- The status word of a command that has ended (R113): tag, valid length, sequence number, command code, and DONE (2)
or ABORTED (3). -/
def statusOf (c : OdCmd) (q : OdReq) (len : Nat) (aborted : Bool) : Nat :=
  2 ^ 56 * (c.tag % 256) + 2 ^ 40 * (len % 8192) + 2 ^ 32 * (q.seq % 256) + 2 ^ 24 * (q.cmd % 256) +
    (if aborted then 3 else 2)

/-- The command ended DONE: the master's window says so, with the bytes valid. -/
def doneIn (d' : Dev) (c : OdCmd) (q : OdReq) (len : Nat) : Prop :=
  (master d' c.m).stat = statusOf c q len false ∧ (master d' c.m).abort = 0

/-- The command ended ABORTED with a code. -/
def abortedIn (d' : Dev) (c : OdCmd) (q : OdReq) (code : Nat) : Prop :=
  (master d' c.m).stat = statusOf c q 0 true ∧ (master d' c.m).abort = code

/-- What a command that reads may change: its master's registers, its mark as seen, the counts of ended and of aborted
commands, and the done doorbell. -/
def readFrame (d d' : Dev) (c : OdCmd) : Prop :=
  KeepsEntries d d' [ek 0x1200 2, ek 0x1100 0x0F, ek 0x1100 0x10] ∧
  (∀ k, k ≠ c.m → master d' k = master d k) ∧
  d' = { d with od := d'.od, sat := d'.sat, masters := d'.masters, dbq := d.dbq ++ doneBell d, net := doneNet d }

/-- A transfer that has just opened, with what it has so far. -/
def opened (wr : Bool) (key total : Nat) (bs : Bytes) : Xfer :=
  { wr := wr, key := key, total := total, seq := 0, got := bs, done := 0 }

/-- A request without an argument or data part. -/
def plainReq (code seq : Nat) : OdReq := { cmd := code, seq := seq, len := 0, arg := 0, data := [] }

/-- R106, R110, R114, R115, R125, R128: an expedited read of an enabled master returns the entry's value with its size,
and INFO its kind, access, size and group; an entry that is absent, of the wrong kind, or whose stored value is damaged
aborts the read, and a master that is not enabled aborts both. (The model's choices: log 20, 68, 74.) -/
def Obligations.ReadsAndInfo : Prop :=
  ∀ (s : State) (c : OdCmd),
    let d := entered c.via s.dev
    let q1 := plainReq 1 c.seq
    let q11 := plainReq 11 c.seq
    Runs c.via c.m s.dev → odError c q1 d = none →
    (enabled d c.m = true →
      (∀ t a, odKind d.cfg c.idx c.sub = some (t, a) → a ≠ .wo → ek c.idx c.sub ∈ d.odBad → Completes (.expRead c) s (fun d' =>
        abortedIn d' c q1 0x06060000 ∧ readFrame d d' c)) ∧
      (∀ t a, odKind d.cfg c.idx c.sub = some (t, a) → a ≠ .wo → ek c.idx c.sub ∉ d.odBad → t.fixed = true →
        Completes (.expRead c) s (fun d' => doneIn d' c q1 t.size ∧
          (master d' c.m).result = odNum (takeCmd c q1 d) c.idx c.sub ∧ readFrame d d' c)) ∧
      (∀ a, odKind d.cfg c.idx c.sub = some (.str, a) → a ≠ .wo → ek c.idx c.sub ∉ d.odBad →
        let bs := odBytes (takeCmd c q1 d) c.idx c.sub
        (bs.length ≤ 8 → Completes (.expRead c) s (fun d' => doneIn d' c q1 bs.length ∧
          (master d' c.m).result = leNat bs ∧ readFrame d d' c)) ∧
        (8 < bs.length → Completes (.expRead c) s (fun d' => abortedIn d' c q1 0x06070010 ∧ readFrame d d' c))) ∧
      (∀ t, odKind d.cfg c.idx c.sub = some (t, .wo) → Completes (.expRead c) s (fun d' =>
        abortedIn d' c q1 0x06010001 ∧ readFrame d d' c)) ∧
      (∀ a, odKind d.cfg c.idx c.sub = some (.dom, a) → a ≠ .wo → ek c.idx c.sub ∉ d.odBad → Completes (.expRead c) s (fun d' =>
        abortedIn d' c q1 0x06070010 ∧ readFrame d d' c)) ∧
      (odKind d.cfg c.idx c.sub = none → Completes (.expRead c) s (fun d' =>
        abortedIn d' c q1 (if odDefined d.cfg c.idx then 0x06090011 else 0x06020000) ∧ readFrame d d' c)) ∧
      (∀ t a, odKind d.cfg c.idx c.sub = some (t, a) → Completes (.info c) s (fun d' =>
        let len := if t.fixed then t.size else (odBytes (takeCmd c q11 d) c.idx c.sub).length
        doneIn d' c q11 8 ∧
        (master d' c.m).result =
          2 ^ 48 * (odGroup c.idx % 256) + 2 ^ 16 * (len % 2 ^ 25) + 2 ^ 8 * a.code + t.code ∧
        readFrame d d' c)) ∧
      (odKind d.cfg c.idx c.sub = none → Completes (.info c) s (fun d' =>
        abortedIn d' c q11 (if odDefined d.cfg c.idx then 0x06090011 else 0x06020000) ∧ readFrame d d' c))) ∧
    (enabled d c.m = false →
      Completes (.expRead c) s (fun d' => abortedIn d' c q1 0x08000028 ∧ readFrame d d' c) ∧
      Completes (.info c) s (fun d' => abortedIn d' c q11 0x08000028 ∧ readFrame d d' c))

/-- R46, R60, R132, R133: a command that a window carries. While the master's command before runs, it is REFUSED and does
nothing; else it is answered OK, and either ends at once, counted, or leaves the state BUSY with the command to end. Behind
requests that wait at the port it waits too, with its flit's credit. -/
def windowCommandsAreAnswered : Prop :=
  ∀ (s : State) (c : OdCmd) (v : Via), c.via = some v →
    (∀ i, (i = .expRead c ∨ i = .info c ∨ (∃ n, i = .blkReadNext c n)) →
      (Runs c.via c.m s.dev → odError c (plainReq 1 c.seq) (entered c.via s.dev) = none →
        Completes i s (fun d' => Answers d' v.p 0xA 0 v.txid ∧ Counted s.dev d' 0x1100 0x0F 1)) ∧
      (PortTakes s.dev v.p .msg → (master s.dev c.m).job.isSome → Completes i s (fun d' =>
        Answers d' v.p 0xA 5 v.txid ∧ AnswerFrame (creditPulse v.p .msg 1 s.dev) d' v.p [])) ∧
      ((port s.dev v.p).linkUp = true → (port s.dev v.p).iCr.msg ≠ 0 → (port s.dev v.p).inQ ≠ [] → Completes i s (fun d' =>
        (port d' v.p).inQ = (port s.dev v.p).inQ ++ [i] ∧ (port d' v.p).iCr.msg = (port s.dev v.p).iCr.msg - 1 ∧
        (∀ k, k ≠ v.p → port d' k = port s.dev k) ∧ d' = { s.dev with od := d'.od, sat := d'.sat, ports := d'.ports }))) ∧
    (PortTakes s.dev v.p .msg → (master s.dev c.m).job = none → v.later = true → v.regs = false →
      Completes (.expRead c) s (fun d' => Answers d' v.p 0xA 0 v.txid ∧
        (master d' c.m).job = some (c, plainReq 1 c.seq) ∧ (master d' c.m).stat = statusOf c (plainReq 1 c.seq) 0 false - 1))

/-- R114, R120: a code that the protocol does not define aborts UNKNOWN_CMD and leaves an open transfer alone; XFER_ABORT
ends DONE and closes it; after an idle close the next continuation ends TIMEOUT (R121). -/
def abortsAndTimeouts : Prop :=
  ∀ (s : State) (c : OdCmd),
    let d := entered c.via s.dev
    (Runs c.via c.m s.dev → odError c (plainReq 1 c.seq) d = none → enabled d c.m = true →
      (∀ k, k = 0 ∨ 11 < k → k < 256 → Completes (.unknownCmd c k) s (fun d' =>
        abortedIn d' c (plainReq k c.seq) 0x05040001 ∧ (master d' c.m).xfer = (master d c.m).xfer ∧ readFrame d d' c)) ∧
      Completes (.xferAbort c) s (fun d' => doneIn d' c (plainReq 10 c.seq) 0 ∧ (master d' c.m).xfer = none) ∧
      (∀ n, (master d c.m).xfer = none → (master d c.m).closed = some .timeout →
        Completes (.blkReadNext c n) s (fun d' =>
          abortedIn d' c (plainReq 7 n) 0x05040000 ∧ (master d' c.m).closed = none))) ∧
    (∀ m x, (master s.dev m).xfer = some x → Completes (.xferTimeout m) s (fun d' =>
      (master d' m).xfer = none ∧ (master d' m).closed = some .timeout ∧
      (∀ k, k ≠ m → master d' k = master s.dev k))) ∧
    (∀ m, (master s.dev m).xfer = none → Completes (.xferTimeout m) s (fun d' => d' = s.dev))

/-- R124: a command that ran on ends, and the master's state is BUSY no longer. -/
def busyCommandsEnd : Prop :=
  ∀ (d : Dev) (c : OdCmd) (q : OdReq), (master d c.m).job = some (c, q) →
    (master (endJobOf c.m d) c.m).job = none ∧
    (odError c q d = none → (master (endJobOf c.m d) c.m).stat % 2 ^ 24 ∈ [2, 3])

/-- R114, R120, R121, R124, R132, R133: a window's commands are answered on their port; unknown codes, aborts and
timeouts. (The model's choices: log 3, 68.) -/
def Obligations.WindowAnswersAndAborts : Prop := windowCommandsAreAnswered ∧ abortsAndTimeouts ∧ busyCommandsEnd

/-- R116, R117, R119, R120, R125: a segmented read returns a whole byte string of up to 4,096 bytes in the data part; a
block read takes a snapshot as it opens, hands it out in parts of up to 4,096 bytes by sequence number, and closes with
its CRC-32C; a wrong sequence number, or no open transfer, ends it. An open transfer that either of them finds closes,
counted. -/
def segmentedAndBlockReads : Prop :=
  ∀ (s : State) (c : OdCmd),
    let d := entered c.via s.dev
    Runs c.via c.m s.dev → odError c (plainReq 1 c.seq) d = none → enabled d c.m = true →
    (∀ t a, odKind d.cfg c.idx c.sub = some (t, a) → a ≠ .wo → t.fixed = false → ek c.idx c.sub ∉ d.odBad →
      let bs := fun q => heldBytes (supersede c.m (takeCmd c q d)) c.idx c.sub
      let q3 := plainReq 3 c.seq
      let q5 := plainReq 5 c.seq
      ((bs q3).length ≤ 4096 → Completes (.segRead c) s (fun d' =>
        doneIn d' c q3 (bs q3).length ∧ (master d' c.m).xfer = none ∧
        ∀ i, i < (bs q3).length → bufByte d' c.m i = (bs q3).getD i 0)) ∧
      (4096 < (bs q3).length → Completes (.segRead c) s (fun d' => abortedIn d' c q3 0x08000026)) ∧
      Completes (.blkReadInit c) s (fun d' =>
        doneIn d' c q5 4 ∧ (master d' c.m).result = (bs q5).length ∧
        (master d' c.m).xfer = some (opened false (ek c.idx c.sub) (bs q5).length (bs q5)))) ∧
    (∀ x, (master d c.m).xfer = some x → x.key = ek c.idx c.sub → x.wr = false →
      (∀ n, n % 256 = x.seq → Completes (.blkReadNext c n) s (fun d' =>
        let part := (x.got.drop x.done).take 4096
        doneIn d' c (plainReq 7 n) part.length ∧ (∀ i, i < part.length → bufByte d' c.m i = part.getD i 0) ∧
        (master d' c.m).xfer = some { x with seq := (x.seq + 1) % 256, done := x.done + part.length })) ∧
      (∀ n, n % 256 ≠ x.seq → Completes (.blkReadNext c n) s (fun d' =>
        abortedIn d' c (plainReq 7 n) 0x05030000 ∧ (master d' c.m).xfer = none)) ∧
      (∀ crc, Completes (.blkEnd c crc) s (fun d' =>
        doneIn d' c (plainReq 9 c.seq) 4 ∧ (master d' c.m).result = crc32c x.got ∧ (master d' c.m).xfer = none))) ∧
    (∀ n, (master d c.m).xfer = none → (master d c.m).closed = none → Completes (.blkReadNext c n) s (fun d' =>
      abortedIn d' c (plainReq 7 n) 0x05040005 ∧ readFrame d d' c))

/-- An entry without a behaviour of its own: a write of it stores the value and does nothing more. -/
def plainEntry (c : Params) (idx sub : Nat) : Bool :=
  match odKind c idx sub, odBase c idx with
  | some (_, a), some (b, _) =>
    a != .ro && a != .const && idx != 0x1201 && !([0x2101, 0x2640, 0x2650, 0x2710, 0x3008].contains b) &&
    !([0x120001, 0x200002, 0x200003, 0x200004, 0x200005, 0x205001, 0x205002, 0x210006, 0x210007, 0x210201, 0x210702,
       0x210705, 0x240002, 0x240003, 0x240409, 0x251001, 0x261007, 0x261009, 0x28000B, 0x290004, 0x291102, 0x300305,
       0x300308, 0x300507, 0x300601, 0x300602, 0x300A01, 0x300B01, 0x400002, 0x400003, 0x500002, 0x500003, 0x510001,
       0x60000A, 0x600102].contains (b * 256 + sub))
  | _, _ => false

/-- A byte string without a behaviour of its own. -/
def plainBytes (c : Params) (idx sub : Nat) : Bool :=
  (odKind c idx sub).isSome && !([0x210202, 0x210701, 0x210901].contains (idx * 256 + sub))

/-- R117 to R119: a block write gathers its bytes part by part and stores them at its end, once their length and
CRC-32C fit and the checks of a write pass; a segmented write stores its bytes at once. -/
def segmentedAndBlockWrites : Prop :=
  ∀ (s : State) (c : OdCmd),
    let d := entered c.via s.dev
    Runs c.via c.m s.dev → odError c (plainReq 1 c.seq) d = none → enabled d c.m = true →
    (∀ n, n < 2 ^ 32 → (odKind d.cfg c.idx c.sub).isSome →
      let q : OdReq := { plainReq 6 c.seq with len := 4, arg := n }
      let d1 := supersede c.m (takeCmd c q d)
      (openAbort d1 c.m c.idx c.sub n true = none → Completes (.blkWriteInit c ⟨n, none⟩) s (fun d' => doneIn d' c q 0 ∧
        (master d' c.m).xfer = some (opened true (ek c.idx c.sub) n []))) ∧
      (∀ a, openAbort d1 c.m c.idx c.sub n true = some a → Completes (.blkWriteInit c ⟨n, none⟩) s (fun d' =>
        abortedIn d' c q a.code ∧ (master d' c.m).xfer = none))) ∧
    (∀ x, (master d c.m).xfer = some x → x.key = ek c.idx c.sub → x.wr = true →
      (∀ n bs, n % 256 = x.seq → bs ≠ [] → bs.length = min 4096 (x.total - x.got.length) →
        Completes (.blkWriteNext c n bs) s (fun d' =>
          doneIn d' c { plainReq 8 n with len := bs.length, data := bs } 0 ∧
          (master d' c.m).xfer = some { x with seq := (x.seq + 1) % 256, got := x.got ++ bs })) ∧
      (∀ n bs, n % 256 = x.seq → bs.length ≠ min 4096 (x.total - x.got.length) →
        Completes (.blkWriteNext c n bs) s (fun d' =>
          abortedIn d' c { plainReq 8 n with len := bs.length, data := bs } 0x06070010 ∧ (master d' c.m).xfer = none)) ∧
      (∀ crc, crc < 2 ^ 32 → odError c { plainReq 9 c.seq with len := 4, arg := crc } d = none →
        let q : OdReq := { plainReq 9 c.seq with len := 4, arg := crc }
        (x.got.length ≠ x.total → Completes (.blkEnd c crc) s (fun d' =>
          abortedIn d' c q 0x06070010 ∧ (master d' c.m).xfer = none)) ∧
        (x.got.length = x.total → crc ≠ crc32c x.got → Completes (.blkEnd c crc) s (fun d' =>
          abortedIn d' c q 0x05040004 ∧ (master d' c.m).xfer = none)) ∧
        (x.got.length = x.total → crc = crc32c x.got → plainBytes d.cfg c.idx c.sub = true →
          bytesAbort (closeXfer c.m none (takeCmd c q d)) c.m c.idx c.sub x.got = none →
          Completes (.blkEnd c crc) s (fun d' =>
            doneIn d' c q 0 ∧ (master d' c.m).xfer = none ∧ getB d' c.idx c.sub = x.got)))) ∧
    (∀ bs, odError c { plainReq 4 c.seq with len := bs.length, data := bs } d = none →
      let q : OdReq := { plainReq 4 c.seq with len := bs.length, data := bs }
      plainBytes d.cfg c.idx c.sub = true → bytesAbort (supersede c.m (takeCmd c q d)) c.m c.idx c.sub bs = none →
      Completes (.segWrite c ⟨bs, none⟩) s (fun d' =>
        doneIn d' c q 0 ∧ (master d' c.m).xfer = none ∧ getB d' c.idx c.sub = bs))

/-- R116 to R120: segmented and block transfers, read and written. (The model's choices: log 20, 68, 74, 83.) -/
def Obligations.SegmentedAndBlockTransfers : Prop := segmentedAndBlockReads ∧ segmentedAndBlockWrites

/-- The entries that the end of a write command itself changes: the mark of masters seen, and the counts. -/
def endKeys : List Nat := [ek 0x1200 2, ek 0x1100 0x0F, ek 0x1100 0x10, ek 0x1100 0x11]

/-- R115, R122: an expedited write that passes its checks stores its value in an entry without a behaviour of its own; one
that a check turns away ends ABORTED and stores nothing. -/
def expeditedWrites : Prop :=
  ∀ (s : State) (c : OdCmd) (len v : Nat), len ∈ [1, 2, 4, 8] → v < 2 ^ (8 * len) →
    let d := entered c.via s.dev
    let q := formReq c.seq (.exp len v)
    Runs c.via c.m s.dev → odError c q d = none → enabled d c.m = true →
    (plainEntry d.cfg c.idx c.sub = true → numAbort (takeCmd c q d) c.m c.idx c.sub len v = none →
      Completes (.expWrite c len v none) s (fun d' => doneIn d' c q 0 ∧
        (ek c.idx c.sub ∉ endKeys → od d' c.idx c.sub = v ∧ ek c.idx c.sub ∉ d'.odBad))) ∧
    (∀ a, numAbort (takeCmd c q d) c.m c.idx c.sub len v = some a → Completes (.expWrite c len v none) s (fun d' =>
      abortedIn d' c q a.code ∧ KeepsEntries d d' endKeys))

/-- R129, R130: of two masters' writes of one entry in one window, whatever their forms, the owner's stands, else the
lower ID's, and the other ends CONFLICT. -/
def rivalWrites : Prop :=
  ∀ (s : State) (c : OdCmd) (f : WrForm) (r : Rival), r.m ≠ c.m →
    let d := viaOkAnswer r.via (viaOkAnswer c.via s.dev)
    let q := formReq c.seq f
    let c2 : OdCmd := { c with m := r.m, tag := r.tag, seq := r.seq, via := r.via }
    let i : Instr := match f with
      | .exp len arg => .expWrite c len arg (some r)
      | .seg data => .segWrite c ⟨data, some r⟩
      | .init total => .blkWriteInit c ⟨total, some r⟩
    let given := fun (v : Option Via) => ∀ w, v = some w → w.regs = false
    given c.via → given r.via → enabled d r.m = true → enabled d c.m = true →
    ((owns d c.m c.idx = true ∨ owns d r.m c.idx = false ∧ c.m < r.m) → odError c q d = none →
      (∀ len v, f = .exp len v → v < 2 ^ (8 * len) → plainEntry d.cfg c.idx c.sub = true →
        numAbort (takeCmd c q d) c.m c.idx c.sub len v = none → Completes i s (fun d' => doneIn d' c q 0 ∧
          (ek c.idx c.sub ∉ endKeys → od d' c.idx c.sub = v))) ∧
      (∀ bs, f = .seg bs → plainBytes d.cfg c.idx c.sub = true →
        bytesAbort (supersede c.m (takeCmd c q d)) c.m c.idx c.sub bs = none → Completes i s (fun d' => doneIn d' c q 0 ∧
          getB d' c.idx c.sub = bs)) ∧
      (∀ n, f = .init n → n < 2 ^ 32 → openAbort (supersede c.m (takeCmd c q d)) c.m c.idx c.sub n true = none →
        Completes i s (fun d' => doneIn d' c q 0 ∧ (master d' c.m).xfer = some (opened true (ek c.idx c.sub) n []))) ∧
      Completes i s (fun d' => abortedIn d' c2 (formReq r.seq r.form) 0x08000022)) ∧
    (¬ (owns d c.m c.idx = true ∨ owns d r.m c.idx = false ∧ c.m < r.m) →
      Completes i s (fun d' => abortedIn d' c q 0x08000022))

/-- R115, R122, R129, R130: expedited writes, and two masters' writes of one entry. (The model's choices: log 20, 71.) -/
def Obligations.ExpeditedWrites : Prop := expeditedWrites ∧ rivalWrites

/-! ### Writes that have a row of their own -/

/-- R110, R113, R128: a write row whose master is not enabled, or that a check turns away, has no effect but to be counted
as an aborted command. (The model's choices: log 20, 21.) -/
def Obligations.WritesTurnedAwayHaveNoEffect : Prop :=
  ∀ (s : State) (c : Instr) (m idx sub v : Nat), rowEntry s.dev.cfg c = some (m, idx, sub, v) →
    numError s.dev m idx sub (odSize s.dev.cfg (ek idx sub)) v = none →
    (enabled s.dev m = false → Completes c s (fun d' => EndedBad .disabled (seen m s.dev) d')) ∧
    (∀ a, enabled s.dev m = true → numAbort (seen m s.dev) m idx sub (odSize s.dev.cfg (ek idx sub)) v = some a →
      Completes c s (fun d' => EndedBad a (seen m s.dev) d'))

/-- The write rows that only store their value. -/
def storeRow : Instr → Option (Nat × Nat × Nat × Nat)
  | .i3cEnable m v => some (m, 0x1100, 1, v)
  | .wpLock m v => some (m, 0x2052, 2, v)
  | .lmMode m v => some (m, 0x2301, 1, v)
  | .exDecoder m v => some (m, 0x2107, 3, v)
  | .exSbBank m v => some (m, 0x2107, 4, v)
  | _ => none

/-- R122, R141, R236, R278, R395: a write of i3c_enable, wp_lock, lm_mode, ex_decoder or ex_sb_bank that its checks let
through stores its value. -/
def storingWrites : Prop :=
  ∀ (s : State) (c : Instr) (m idx sub v : Nat), storeRow c = some (m, idx, sub, v) → Accepted s.dev m idx sub v →
    WriteDoes c s m (fun d0 d1 =>
      od d1 idx sub = v % 2 ^ (8 * odSize d0.cfg (ek idx sub)) ∧ OnlyEntries d0 d1 [ek idx sub])

/-- R122, R131: OD_ENTRY_WRITE stores its value in an entry without a behaviour of its own; a write of ODW_ARG or of
ODW_BUF stands in the master's window, and is REFUSED while the master's command runs (R132). -/
def entryWrites : Prop :=
  ∀ (s : State) (m v : Nat),
    (∀ idx sub, plainEntry s.dev.cfg idx sub = true → Accepted s.dev m idx sub v →
      WriteDoes (.odEntryWrite m none (.entry idx sub) v) s m (fun d0 d1 =>
        od d1 idx sub = v % 2 ^ (8 * odSize d0.cfg (ek idx sub)) ∧ OnlyEntries d0 d1 [ek idx sub])) ∧
    (∀ idx sub (w : Win),
      let d := entered (some w.via) s.dev
      let c : OdCmd := { m := m, via := some w.via, tag := w.tag, seq := w.seq, idx := idx, sub := sub }
      let n := odSize d.cfg (ek idx sub)
      let q := formReq w.seq (.exp n v)
      Runs (some w.via) m s.dev → odError c q d = none → enabled d m = true → plainEntry d.cfg idx sub = true →
      numAbort (takeCmd c q d) m idx sub n (v % 2 ^ (8 * n)) = none →
      Completes (.odEntryWrite m (some w) (.entry idx sub) v) s (fun d' => doneIn d' c q 0 ∧
        (ek idx sub ∉ endKeys → od d' idx sub = v % 2 ^ (8 * n)))) ∧
    ((master s.dev m).job = none →
      Completes (.odEntryWrite m none .arg v) s (fun d' =>
        master d' m = { master s.dev m with arg := v % 2 ^ 64 } ∧ (∀ k, k ≠ m → master d' k = master s.dev k) ∧
        d' = { s.dev with masters := d'.masters }) ∧
      (∀ off size, off + size ≤ 4096 → size = 4 ∨ size = 8 → Completes (.odEntryWrite m none (.buf off size) v) s (fun d' =>
        (∀ i, tabGet (Config.bufByte m i) (master d' m).buf i =
          if off ≤ i ∧ i < off + size then BitVec.ofNat 8 (v / 256 ^ (i - off))
          else tabGet (Config.bufByte m i) (master s.dev m).buf i) ∧
        (∀ w, off ≤ 8 * w → 8 * w + 8 ≤ off + size → w ∉ (master d' m).bufBad) ∧
        (∀ k, k ≠ m → master d' k = master s.dev k) ∧ d' = { s.dev with masters := d'.masters }))) ∧
    ((master s.dev m).job.isSome → ∀ t, (∀ idx sub, t ≠ .entry idx sub) →
      Completes (.odEntryWrite m none t v) s (fun d' => d' = s.dev)) ∧
    (∀ (w : Win) t, PortTakes s.dev w.via.p .msg →
      (t = .arg ∨ ∃ off size, t = .buf off size ∧ off + size ≤ 4096 ∧ (size = 4 ∨ size = 8)) →
      Completes (.odEntryWrite m (some w) t v) s (fun d' => ∃ u,
        exec (.odEntryWrite m none t v) { s with dev := creditPulse w.via.p .msg 1 s.dev } = .next u ∧
        Answers d' w.via.p 0xA (if (master s.dev m).job.isSome then 5 else 0) w.via.txid ∧ AnswerFrame u.dev d' w.via.p []))

/-- R122, R131, R141, R236, R278, R395: the writes that only store what they write. (The model's choices: log 6, 21.) -/
def Obligations.StoringAndEntryWrites : Prop := storingWrites ∧ entryWrites

/-- R120, R126 to R128: a master that loses its enable bit loses its open transfer, counted, and the groups it owns, and no
other does; a
group takes the owner written, and a release ends its exclusion. (The model's choices: log 21.) -/
def Obligations.MastersAndOwners : Prop :=
  ∀ (s : State) (m v : Nat),
    (Accepted s.dev m 0x1200 1 v → WriteDoes (.masterEnable m v) s m (fun d0 d1 =>
      let loses := fun k => bit (od s.dev 0x1200 1) k && !bit v k
      od d1 0x1200 1 = v % 256 ∧
      (∀ k, k < 8 → loses k = true → (master d1 k).xfer = none) ∧
      (∀ k, k < 8 → loses k = false → master d1 k = master d0 k) ∧
      (∀ g, g < 0x30 → groupDefined s.dev.cfg g = true → grpOwner s.dev g < 8 → loses (grpOwner s.dev g) = true →
        grpOwner d1 g = 0xFF ∧ od d1 0x1202 (g + 1) = 0) ∧
      (∀ g, g < 0x30 → (8 ≤ grpOwner s.dev g ∨ loses (grpOwner s.dev g) = false) →
        grpOwner d1 g = grpOwner s.dev g ∧ od d1 0x1202 (g + 1) = od s.dev 0x1202 (g + 1)) ∧
      Counted d0 d1 0x1100 0x10 ((List.range 8).filter (fun k => loses k && (master d0 k).xfer.isSome)).length)) ∧
    (∀ g, g < 0x30 → Accepted s.dev m 0x1201 (g + 1) v → WriteDoes (.grpOwner m g v) s m (fun d0 d1 =>
      grpOwner d1 g = v % 256 ∧ od d1 0x1202 (g + 1) = (if v = 0xFF then 0 else od s.dev 0x1202 (g + 1)) ∧
      OnlyEntries d0 d1 [ek 0x1201 (g + 1), ek 0x1202 (g + 1)]))

/-- R109, R500, R544, R563, R565, R566: what a write of a clearing row clears: an event counter and its saturation mark,
the counters of the map cache's ways, the lane counters, the suspect marks of the sensors named, and the fault bits
named. (The model's choices: log 21.) -/
def Obligations.ClearingWrites : Prop :=
  ∀ (s : State) (m : Nat),
    (∀ key t b i, key ≠ 0x210901 → odKind s.dev.cfg (key / 256) (key % 256) = some (t, .ro) →
      odBase s.dev.cfg (key / 256) = some (b, i) → b ≠ 0x2650 → Accepted s.dev m (key / 256) (key % 256) 0 →
      WriteDoes (.counterClear m key 0) s m (fun d0 d1 => getK d1 key = 0 ∧ OnlyEntries d0 d1 [key])) ∧
    (enabled s.dev m = true → bytesAbort (seen m s.dev) m 0x2109 1 (leBytes 64 0) = none → holder s.dev m 0x210901 = none →
      WriteDoes (.counterClear m 0x210901 0) s m (fun d0 d1 =>
        getB d1 0x2109 1 = [] ∧ (∀ x ∈ d1.sat, x / 256 ≠ 0x210901) ∧ d1 = { d0 with ods := d1.ods, sat := d1.sat })) ∧
    (tabWf (fun _ => LaneQ.reset) s.dev.net.lanes = true → Accepted s.dev m 0x2911 2 1 → WriteDoes (.qClear m 1) s m (fun d0 d1 =>
      (∀ q, d1.net.lane q = { d0.net.lane q with ce := 0, ceSat := false, under := false, ue := false, peak := 0 }) ∧
      (∀ p, port d1 p = if p < d0.cfg.ports then { port d0 p with inPeak := 0 } else port d0 p) ∧
      d1 = { d0 with net := { d0.net with lanes := d1.net.lanes }, ports := d1.ports })) ∧
    (∀ v, Accepted s.dev m 0x2800 0x0B v → WriteDoes (.tsUnsuspect m v) s m (fun d0 d1 =>
      (∀ j, j < 64 → sensor d1 j =
        if bit v j then { sensor d0 j with suspect := false, fails := 0 } else sensor d0 j) ∧
      d1 = { d0 with sensors := d1.sensors })) ∧
    (∀ v, v < 2 ^ 32 → Accepted s.dev m 0x2900 4 v → WriteDoes (.fltAck m v) s m (fun d0 d1 =>
      (∀ i, i < 16 → bit (od d1 0x2900 3) i = (bit (od d0 0x2900 3) i && !bit v i)) ∧
      OnlyEntries d0 d1 [ek 0x2900 3]))

/-- R573 to R577, R581: an accepted request changes svc_state and the units go on; a block or soft reset starts to drain
and drops every fetched command, waits while a flush runs, or merges with one that runs; rst_channel starts the reset
of each channel named, once. (The model's choices: log 21, 64, 65.) -/
def Obligations.ServiceAndResetWrites : Prop :=
  ∀ (s : State) (m v : Nat),
    (v ≤ 3 → Accepted s.dev m 0x2000 2 v → WriteDoes (.svcReq m v) s m (fun d0 d1 =>
      if v = od s.dev 0x2000 1 then d1 = d0 else od d1 0x2000 1 = v ∧ ControlKept (put 0x2000 1 v d0) d1)) ∧
    (Accepted s.dev m 0x2000 3 v → WriteDoes (.rstBlock m v) s m (fun d0 d1 =>
      if od s.dev 0x2400 1 = 3 then
        d1.rst.held.map (·.1) = some .block ∧ d1 = { d0 with rst := { d0.rst with held := d1.rst.held } }
      else match d0.rst.kind with
        | none => od d1 0x2000 0x0B = 1 ∧ od d1 0x2000 6 = 2 ∧ d1.rst.kind = some .block ∧ d1.cmds = [] ∧ d1.groups = []
        | some .soft => od d1 0x2000 6 = 2 ∧ d1.rst.kind = some .block ∧ KeepsEntries d0 d1 [ek 0x2000 6]
        | some .block => d1 = d0)) ∧
    (Accepted s.dev m 0x2000 4 v → WriteDoes (.rstSoft m v) s m (fun d0 d1 =>
      if od s.dev 0x2400 1 = 3 then
        d1.rst.held.isSome ∧ d1 = { d0 with rst := { d0.rst with held := d1.rst.held } }
      else match d0.rst.kind with
        | none => od d1 0x2000 0x0B = 1 ∧ od d1 0x2000 6 = 3 ∧ d1.rst.kind = some .soft ∧ d1.cmds = [] ∧ d1.groups = []
        | some _ => d1 = d0)) ∧
    (∀ ch, ch < 32 → Accepted s.dev m 0x2000 5 (2 ^ ch) → WriteDoes (.rstChannel m (2 ^ ch)) s m (fun d0 d1 =>
      if d0.rst.kind.isSome ∨ ch ∈ d0.rst.chans ∨ bit (od d0 0x2000 5) ch = true then d1 = d0
      else bit (od d1 0x2000 5) ch = true ∧ Counted d0 d1 0x2000 0x0A 1))

/-- R236: an exclusion mask is stored, open bands that have a die of it are closed at their open rows, and excluded ways
of the map cache are written back and emptied. (The model's choices: log 21.) -/
def Obligations.ExclusionWrites : Prop :=
  ∀ (s : State) (m v : Nat),
    (∀ mask, enabled s.dev m = true → bytesAbort (seen m s.dev) m 0x2107 1 mask = none → holder s.dev m 0x210701 = none →
      WriteDoes (.exDie m mask) s m (fun d0 d1 => d1 = closeExcluded (putB 0x2107 1 mask d0) ∧ ControlKept d0 d1)) ∧
    (∀ mask a, enabled s.dev m = true → bytesAbort (seen m s.dev) m 0x2107 1 mask = some a →
      Completes (.exDie m mask) s (fun d' => EndedBad a (seen m s.dev) d')) ∧
    (Accepted s.dev m 0x2107 2 v → WriteDoes (.exChannel m v) s m (fun d0 d1 =>
      od d1 0x2107 2 = v % 2 ^ (8 * odSize d0.cfg 0x210702) ∧ d1 = closeExcluded (put 0x2107 2 v d0))) ∧
    (Accepted s.dev m 0x2107 5 v → WriteDoes (.exMapcWay m v) s m (fun d0 d1 =>
      od d1 0x2107 5 = v % 2 ^ (8 * odSize d0.cfg 0x210705) ∧ ControlKept (put 0x2107 5 v d0) d1 ∧
      (∀ l ∈ d1.lan.lines, bit v l.way = true → l.lost = true)))

/-- R216, R239: a write of lt_quiesce turns SERVICE to QUIESCING and back, and Lantern is QUIESCED once every command has
ended and no placement, read, fill or relocation is left, with its map cache written back and every write-back answered.
(The model's choices: log 57.) -/
def Obligations.LanternQuiescing : Prop :=
  ∀ (s : State) (m : Nat),
    (Accepted s.dev m 0x2100 6 1 → WriteDoes (.ltQuiesce m 1) s m (fun d0 d1 =>
      if od s.dev 0x2100 8 = 2 then
        od d1 0x2100 8 = 3 ∧ od d1 0x2100 6 = 1 ∧ OnlyEntries d0 d1 [ek 0x2100 8, ek 0x2100 6]
      else d1 = d0)) ∧
    (Accepted s.dev m 0x2100 6 0 → WriteDoes (.ltQuiesce m 0) s m (fun d0 d1 =>
      if od s.dev 0x2100 8 = 3 ∨ od s.dev 0x2100 8 = 4 then
        od d1 0x2100 8 = 2 ∧ od d1 0x2100 6 = 0 ∧ OnlyEntries d0 d1 [ek 0x2100 8, ek 0x2100 6]
      else d1 = d0)) ∧
    (od s.dev 0x2100 8 = 3 → (∀ c ∈ s.dev.cmds, c.2.st = .met) → s.dev.lan.wjobs = [] → s.dev.lan.rjobs = [] →
      s.dev.lan.relocs = [] → s.dev.lan.want = [] → s.dev.lan.misses = [] → Completes .lanternQuiesced s (fun d' =>
        od d' 0x2100 8 = (if d'.lan.wbs = [] then 4 else 3) ∧ (∀ l ∈ d'.lan.lines, l.lost = true ∨ l.dirty = false) ∧
        ControlKept s.dev d')) ∧
    (od s.dev 0x2100 8 ≠ 3 ∨ (∃ c ∈ s.dev.cmds, c.2.st ≠ .met) ∨ s.dev.lan.wjobs ≠ [] ∨ s.dev.lan.rjobs ≠ [] ∨
        s.dev.lan.relocs ≠ [] ∨ s.dev.lan.want ≠ [] ∨ s.dev.lan.misses ≠ [] →
      Completes .lanternQuiesced s (fun d' => d' = s.dev))

/-- R418, R427, R443: ckpt_now asks for a checkpoint unless one runs; flush_now starts the flush, unless Clasp has
flushed or a flush runs; a write of 0 does nothing. (The model's choices: log 21, 55.) -/
def Obligations.ClaspWrites : Prop :=
  ∀ (s : State) (m : Nat),
    (Accepted s.dev m 0x2400 3 1 → WriteDoes (.ckptNow m 1) s m (fun d0 d1 =>
      d1 = if d0.clasp.ckpt.isSome then d0 else { d0 with clasp := { d0.clasp with ckptTrig := true } })) ∧
    (Accepted s.dev m 0x2400 3 0 → WriteDoes (.ckptNow m 0) s m (fun d0 d1 => d1 = d0)) ∧
    (Accepted s.dev m 0x2400 2 1 → WriteDoes (.flushNow m 1) s m (fun d0 d1 =>
      if (od d0 0x2000 1 = 1 ∨ od d0 0x2000 1 = 2) ∧ d0.clasp.flush = none ∧ od d0 0x2400 1 ≠ 4 then
        ControlKept d0 d1 ∧ ∃ x f, od x 0x2400 1 = 3 ∧ Counted d0 x 0x2403 5 1 ∧ x.clasp.flush = some f ∧ f.ended = false ∧
          x.clasp.ckpt = none ∧ x.clasp.ckptTrig = false ∧
          d1 = (List.range d0.cfg.channels).foldl (fun y ch => kick ch y) (claspFeed x)
      else d1 = d0)) ∧
    (Accepted s.dev m 0x2400 2 0 → WriteDoes (.flushNow m 0) s m (fun d0 d1 => d1 = d0))

/-- R262, R279, R293, R296, R308: what the write rows of a channel do: a revived die starts its reset, or its target is
identified first; a snapshot is taken of the channel's queues; an identification starts over every target; a swap is
armed; the targets named wait to be trained, on a channel whose timing can be trained.
(The model's choices: log 21, 52.) -/
def Obligations.ChannelWrites : Prop :=
  ∀ (s : State) (m ch v : Nat), ch < s.dev.cfg.channels →
    (Accepted s.dev m (chIdx ch 3) 8 v → WriteDoes (.dieRevive m ch v) s m (fun d0 d1 =>
      let n := dieAt d0.cfg ch v
      if (die d0 n).st ≠ .failed then d1 = d0
      else if dieByte d0 ch 2 v ≠ 0 then
        chan d1 ch = { chan d0 ch with idTgts := (chan d0 ch).idTgts ++ [v / max 1 d0.cfg.luns] } ∧ OnlyChan d0 d1 ch
      else ∃ x, d1 = kick ch x ∧ die x n = { die d0 n with st := .reset, revive := true, rstDue := true } ∧ OnlyDie d0 x n)) ∧
    (Accepted s.dev m (chIdx ch 3) 5 v → WriteDoes (.snapReq m ch v) s m (fun d0 d1 =>
      if v = 1 then chan d1 ch = { chan d0 ch with snap := buoySnap d0 ch } ∧ OnlyChan d0 d1 ch else d1 = d0)) ∧
    (Accepted s.dev m (chIdx ch 5) 7 v → WriteDoes (.idRerun m ch v) s m (fun d0 d1 =>
      if v = 1 then
        chan d1 ch = { chan d0 ch with idTgts := List.range d0.cfg.targets, identified := false, state := 3 } ∧
        (∀ c, c ≠ ch → chan d1 c = chan d0 c) ∧
        (∀ k, k < diesPerCh d0.cfg → (die d1 (dieAt d0.cfg ch k)).st =
          if (die d0 (dieAt d0.cfg ch k)).st = .failed then .failed else .reset) ∧
        (∀ n, (∀ k, k < diesPerCh d0.cfg → n ≠ dieAt d0.cfg ch k) → die d1 n = die d0 n) ∧
        d1 = { d0 with chans := d1.chans, dies := d1.dies }
      else d1 = d0)) ∧
    (Accepted s.dev m (chIdx ch 0x0A) 1 v → WriteDoes (.tsArm m ch v) s m (fun d0 d1 =>
      if v = 1 ∧ (chan d0 ch).armed = false then
        ∃ x, d1 = kick ch x ∧ chan x ch = { chan d0 ch with armed := true } ∧ OnlyChan d0 x ch
      else d1 = d0)) ∧
    (Accepted s.dev m (chIdx ch 0x0B) 1 v → WriteDoes (.trainReq m ch v) s m (fun d0 d1 =>
      ∃ x, d1 = kick ch x ∧ OnlyChan d0 x ch ∧ chan x ch = { chan d0 ch with trainWait := (chan x ch).trainWait } ∧
        ∀ t, t ∈ (chan x ch).trainWait ↔
          t ∈ (chan d0 ch).trainWait ∨ t < d0.cfg.targets ∧ bit v t = true ∧ trainable d0 ch = true))

/-- R269: two keys written by one master in a row open the raw path; a wrong key is counted and locks it again; any
write locks an open one, and so does the second key's timeout or the time without an operation.
(The model's choices: log 21.) -/
def Obligations.RawPathLock : Prop :=
  ∀ s : State,
    (∀ m v, Accepted s.dev m 0x2050 1 v → WriteDoes (.rawUnlock m v) s m (fun d0 d1 =>
      match s.dev.rawp.lock with
      | .locked =>
        if v = 0x5A3C then d1 = { d0 with rawp := { d0.rawp with lock := .key1 m } }
        else Counted d0 d1 0x2050 0x0A 1 ∧ OnlyEntries d0 d1 [ek 0x2050 0x0A]
      | .key1 k =>
        if v = 0xC3A5 ∧ k = m then d1 = { d0 with rawp := { d0.rawp with lock := .opened } }
        else if v = 0x5A3C then d1 = { d0 with rawp := { d0.rawp with lock := .key1 m } }
        else Counted d0 d1 0x2050 0x0A 1 ∧
          SameBut d0 d1 (fun d => { d with rawp := { d.rawp with lock := .locked } }) [ek 0x2050 0x0A]
      | .opened =>
        d1.rawp = { d0.rawp with lock := .locked, sb := d1.rawp.sb } ∧
        d1 = { d0 with rawp := d1.rawp, lan := { d0.lan with res := d1.lan.res } } ∧
        (d0.rawp.req.isSome ∨ d0.rawp.todo ≠ [] → d1.rawp.sb = d0.rawp.sb ∧ d1.lan.res = d0.lan.res) ∧
        (d0.rawp.req = none → d0.rawp.todo = [] → d1.rawp.sb = none ∧ ∀ r ∈ d1.lan.res, r.own ≠ .raw))) ∧
    (∀ k, s.dev.rawp.lock = .key1 k → Completes .rawKey1Timeout s (fun d' =>
      d' = { s.dev with rawp := { s.dev.rawp with lock := .locked } })) ∧
    ((∀ k, s.dev.rawp.lock ≠ .key1 k) → Completes .rawKey1Timeout s (fun d' => d' = s.dev)) ∧
    (s.dev.rawp.lock = .opened → od s.dev 0x2050 8 ≠ 0 → Completes .rawIdleTimeout s (fun d' =>
      d'.rawp.lock = .locked ∧ ControlKept s.dev d')) ∧
    (s.dev.rawp.lock ≠ .opened ∨ od s.dev 0x2050 8 = 0 → Completes .rawIdleTimeout s (fun d' => d' = s.dev))

/-- The raw operations by their rows, with their codes (R273). -/
def rawRow (r : RawReq) : Nat → Option Instr
  | 1 => some (.readPage r)
  | 2 => some (.programPage r)
  | 3 => some (.eraseBlock r)
  | 4 => some (.readStatus r)
  | 5 => some (.getFeatures r)
  | 6 => some (.setFeatures r)
  | 7 => some (.resetLun r)
  | 8 => some (.readId r)
  | 9 => some (.readParam r)
  | _ => none

/-- R175, R270, R271, R275: an operation whose command passes its checks waits its turn on the raw path, over the
dictionary with the data of raw_buf, raw_state BUSY; a RAW command fails with the path locked or with a wrong field, and
else hands its operation over once. (The model's choices: log 45, 51.) -/
def Obligations.RawOperations : Prop :=
  ∀ s : State,
    (∀ op r c m, rawRow r op = some c → r.src = .od m → r.addr < 2 ^ 45 → r.rlen < 2 ^ 16 → r.rfa < 256 → r.rsvd = false →
      Accepted s.dev m 0x2050 3 r.addr →
      let a := rowNum m none 0x2050 3 r.addr s.dev
      od a 0x2050 3 = r.addr ∧
      (Accepted a m 0x2050 2 (rawWord op r) → Completes c s (fun d' => ∃ x,
        Ended (rawFeed x) d' ∧ od x 0x2050 5 = 1 ∧
        x.rawp = { a.rawp with
          todo := a.rawp.todo ++ [(op, r, if op = 2 ∨ op = 6 then fit r.rlen (getB a 0x2050 7) else [])] } ∧
        SameBut (rewrite 0x2050 2 a) x (fun d => { d with rawp := x.rawp }) [ek 0x1200 2, ek 0x2050 2, ek 0x2050 5]))) ∧
    (∀ op r row tag c, rawRow r op = some row → r.src = .ring tag → cmd? s.dev tag = some c → c.opc = 15 →
      c.q5 % 256 = op →
      (c.st = .running → c.left ≠ 0 → c.fin = false → Completes row s (fun d' => ∃ x, d' = rawFeed x ∧
        cmd? x tag = some { c with fin := true } ∧
        x.rawp = { s.dev.rawp with todo := s.dev.rawp.todo ++ [(op, rawFields (.ring tag) c.q4 c.q5, [])] } ∧
        x = { s.dev with cmds := x.cmds, rawp := x.rawp })) ∧
      ((c.st ≠ .running ∨ c.left = 0 ∨ c.fin = true) → Completes row s (fun d' => d' = s.dev))) ∧
    (∀ tag c, cmd? s.dev tag = some c → c.opc = 15 → canStart s.dev c = true → c.fails = [] →
      let fits := rawOk s.dev (c.q5 % 256) (rawFields (.ring tag) c.q4 c.q5) = true ∧ c.dlen = (rawFields (.ring tag) c.q4 c.q5).rlen
      Completes (.raw tag) s (fun d' => ∃ x, x = { s.dev with cmds := x.cmds } ∧
        if s.dev.rawp.lock = .opened ∧ fits then cmd? x tag = some { c with st := .running, left := 1 } ∧ d' = x
        else cmd? x tag = some { c with
            st := .running, fails := [if s.dev.rawp.lock = .opened then 0x0102 else 0x0104] } ∧
          d' = cmdCheck tag x))

/-- A load of a Locket fails with a cause (R340): lkt_state FAILED, the cause, a LOCKET fault, counted, and the image
discarded. -/
def loadFails (cause : Nat) (d d' : Dev) : Prop :=
  od d' 0x6001 3 = 3 ∧ od d' 0x6001 4 = cause ∧ Counted d d' 0x6001 7 1 ∧ bit (od d' 0x2900 3) 4 = true ∧
  getB d' 0x6001 1 = [] ∧ d'.loader.busy = false ∧ d'.loader.req = false ∧ d'.loader.words = []

/-- R337 to R341: lkt_load checks the header and then asks for the words of the key port; a word is latched as it is
acknowledged, a wrong one or one that does not come ends the load; the next is asked for once lk_ack has fallen.
(The model's choices: log 24, 54.) -/
def Obligations.LocketLoading : Prop :=
  ∀ s : State,
    (∀ m, Accepted s.dev m 0x6001 2 1 → WriteDoes (.lktLoad m 1) s m (fun d0 d1 =>
      if hdrCause s.dev = 0 then
        od d1 0x6001 3 = 1 ∧ d1.loader.busy = true ∧ d1.loader.sel = 1 ∧ d1.loader.words = [] ∧
        (s.dev.loader.req = false → s.dev.loader.ackHigh = false → d1.loader.req = true ∧ d1.loader.idx = 0) ∧
        SameBut d0 d1 (fun d => { d with loader := d1.loader }) [ek 0x6001 3]
      else loadFails (hdrCause s.dev) d0 d1 ∧ ControlKept d0 d1)) ∧
    (∀ w e, s.dev.loader.req = true → s.dev.loader.ackHigh = false →
      let ws := s.dev.loader.words ++ [w]
      (s.dev.loader.busy = true → e = true → Completes (.keyWordAck w e) s (fun d' =>
        loadFails 6 s.dev d' ∧ d'.loader.ackHigh = true ∧ Counted s.dev d' 0x2902 6 1)) ∧
      (s.dev.loader.busy = true → e = false → ws.length < (if s.dev.loader.sel = 1 then 6 else 4) →
        Completes (.keyWordAck w e) s (fun d' => d' = { s.dev with loader := { s.dev.loader with
          req := false, ackHigh := true, words := ws } })) ∧
      (s.dev.loader.busy = true → e = false → s.dev.loader.sel = 1 → ws.length = 6 →
        let c := sigCause (getB s.dev 0x6001 1) (keyBytes ws)
        Completes (.keyWordAck w e) s (fun d' =>
          if c = 0 then d' = { s.dev with loader := { s.dev.loader with
            req := false, ackHigh := true, sel := 0, words := [] } }
          else loadFails c s.dev d')) ∧
      (s.dev.loader.busy = true → e = false → s.dev.loader.sel ≠ 1 → ws.length = 4 →
        Completes (.keyWordAck w e) s (fun d' => d'.loader.busy = false ∧ d'.loader.req = false ∧ ControlKept s.dev d')) ∧
      (s.dev.loader.busy = false → Completes (.keyWordAck w e) s (fun d' =>
        d'.loader = { s.dev.loader with req := false, ackHigh := true }))) ∧
    (∀ w e, s.dev.loader.req = false ∨ s.dev.loader.ackHigh = true →
      Completes (.keyWordAck w e) s (fun d' => d' = s.dev)) ∧
    (s.dev.loader.busy = true → s.dev.loader.req = true → Completes .keyWordTimeout s (fun d' =>
      loadFails 6 s.dev d' ∧ Counted s.dev d' 0x2902 6 1)) ∧
    (s.dev.loader.busy = false ∨ s.dev.loader.req = false → Completes .keyWordTimeout s (fun d' => d' = s.dev)) ∧
    (s.dev.loader.ackHigh = true → Completes .lkAckFall s (fun d' =>
      d' = { s.dev with loader :=
        if s.dev.loader.busy = true ∧ s.dev.loader.req = false then
          { s.dev.loader with ackHigh := false, req := true, idx := s.dev.loader.words.length }
        else { s.dev.loader with ackHigh := false } })) ∧
    (s.dev.loader.ackHigh = false → Completes .lkAckFall s (fun d' => d' = s.dev))

/-- R319, R341, R343, R346: mc_revert drops the copy and tells every sequencer to leave its patches; at a quiet boundary a
sequencer installs the copy, leaves its patches, or rewrites a word found bad from the copy.
(The model's choices: log 54.) -/
def Obligations.PatchesAtABoundary : Prop :=
  ∀ s : State,
    (∀ m, Accepted s.dev m 0x6000 0x0A 1 → WriteDoes (.mcRevert m 1) s m (fun d0 d1 => ∃ x, d1 = kickAll x ∧
      x.loader = { d0.loader with copy := [], faults := [] } ∧ od x 0x6000 2 = 0 ∧ od x 0x6001 6 = 0 ∧
      (∀ ch, ch < d0.cfg.channels → seq x ch = { seq d0 ch with leave := true, install := false }) ∧
      (∀ ch, d0.cfg.channels ≤ ch → seq x ch = seq d0 ch) ∧ ControlKept d0 x)) ∧
    (∀ ch, ch < s.dev.cfg.channels → ch < 32 → quietBoundary s.dev ch = true →
      ((seq s.dev ch).install = true → Completes (.locketInstall ch) s (fun d' => ∃ x, d' = kick ch x ∧
        od x 0x6000 2 = 1 ∧ bit (od x 0x6000 0x0C) ch = true ∧
        seq x ch = { seq s.dev ch with
          ram := (copyWords s.dev).foldl (fun t w => tabSet 0 t w.1 w.2) [], regions := (copyRegions s.dev).map (·.2),
          disp := copyDisp s.dev, install := false, leave := false, rewrite := [] } ∧
        OnlySeq s.dev x ch ∧ SameBut s.dev x (fun d => { d with seqs := x.seqs }) [ek 0x6000 2, ek 0x6000 0x0C])) ∧
      ((seq s.dev ch).leave = true → Completes (.patchRemove ch) s (fun d' => ∃ x, d' = kick ch x ∧
        bit (od x 0x6000 0x0C) ch = false ∧
        seq x ch = { seq s.dev ch with
          ram := [], regions := [], disp := [], leave := false, install := false, rewrite := [] } ∧
        OnlySeq s.dev x ch ∧ SameBut s.dev x (fun d => { d with seqs := x.seqs }) [ek 0x6000 0x0C])) ∧
      (∀ a rest, (seq s.dev ch).rewrite = a :: rest → Completes (.patchWordRewrite ch) s (fun d' => ∃ x, d' = kick ch x ∧
        (seq x ch).rewrite = rest ∧
        (∀ w, (copyWords s.dev).find? (fun y => y.1 == a) = some w → tabGet 0 (seq x ch).ram a = w.2) ∧
        (∀ b, b ≠ a → tabGet 0 (seq x ch).ram b = tabGet 0 (seq s.dev ch).ram b) ∧
        OnlySeq s.dev x ch ∧ x = { s.dev with seqs := x.seqs }))) ∧
    (∀ ch, (quietBoundary s.dev ch = false ∨ (seq s.dev ch).install = false) →
      Completes (.locketInstall ch) s (fun d' => d' = s.dev)) ∧
    (∀ ch, (quietBoundary s.dev ch = false ∨ (seq s.dev ch).leave = false) →
      Completes (.patchRemove ch) s (fun d' => d' = s.dev)) ∧
    (∀ ch, (quietBoundary s.dev ch = false ∨ (seq s.dev ch).rewrite = []) →
      Completes (.patchWordRewrite ch) s (fun d' => d' = s.dev))

/-- R455, R462, R463: ch_start reads the first descriptor of a chain; ch_stop stops a running channel at once, lets a
descriptor that has departed complete first, and does nothing to one at rest; tmr_enable starts a timer at its next
scheduled time or stops it. (The model's choices: log 21, 47.) -/
def Obligations.TenderWrites : Prop :=
  ∀ (s : State) (m n : Nat), n < 64 →
    (Accepted s.dev m (tcIdx n 0) 2 1 → WriteDoes (.chStart m n 1) s m (fun d0 d1 => ∃ x,
      let a := od d0 (tcIdx n 0) 1
      let c := tch d0 n
      d1 = settle (postRead (od d0 (tcIdx n 0) 5) (a / 64 * 64) 64 (.desc n (c.chain + 1) a) x) ∧ chState x n = 1 ∧
      tch x n = { TCh.reset with chain := c.chain + 1, no := c.no + 1, fetching := some a, jobs := c.jobs } ∧
      OnlyTch d0 x n ∧
      SameBut d0 x (fun d => { d with tender := { d.tender with chs := x.tender.chs } }) [ek (tcIdx n 1) 1])) ∧
    (Accepted s.dev m (tcIdx n 0) 3 1 → WriteDoes (.chStop m n 1) s m (fun d0 d1 =>
        (chState d0 n ∉ [1, 2, 3, 4] → d1 = d0) ∧
        (chState d0 n ∈ [1, 2, 3, 4] → (tch d0 n).desc = none →
          chState d1 n = 7 ∧ (tch d1 n).fetching = none ∧ (tch d1 n).ahead = none ∧ OnlyTch d0 d1 n) ∧
        (chState d0 n ∈ [1, 2, 3, 4] → (tch d0 n).desc.isSome → (tch d0 n).departed = true →
          tch d1 n = { tch d0 n with stopReq := true } ∧ OnlyTch d0 d1 n ∧
          d1 = { d0 with tender := { d0.tender with chs := d1.tender.chs } }) ∧
        (chState d0 n ∈ [1, 2, 3, 4] → (tch d0 n).desc.isSome → (tch d0 n).departed = false →
          ControlKept d0 d1 ∧ ∃ x, d1 = settle x ∧ chState x n = 7 ∧ (tch x n).desc = none ∧ od x (tcIdx n 1) 4 = 4 ∧
            od x (tcIdx n 1) 3 = nextSeq (od d0 (tcIdx n 1) 3) % 2 ^ 32 ∧ Counted d0 x (tcIdx n 2) 2 1))) ∧
    (∀ k, k < 8 → Accepted s.dev m (0x2510 + k) 1 1 → WriteDoes (.tmrEnable m k 1) s m (fun d0 d1 =>
      let per := od d0 (0x2510 + k) 2
      od d1 (0x2510 + k) 1 = 1 ∧ od d1 (0x2510 + k) 4 = 0x10000 ∧
      d1.tender.tmrs.find? (fun x => x.1 == k) =
        some (k, { next := nextTick (od d0 (0x2510 + k) 3) per d0.ts, period := per, last := none }) ∧
      SameBut d0 d1 (fun d => { d with tender := { d.tender with tmrs := d1.tender.tmrs } })
        [ek (0x2510 + k) 1, ek (0x2510 + k) 4])) ∧
    (∀ k, k < 8 → Accepted s.dev m (0x2510 + k) 1 0 → WriteDoes (.tmrEnable m k 0) s m (fun d0 d1 =>
      od d1 (0x2510 + k) 1 = 0 ∧ (∀ x ∈ d1.tender.tmrs, x.1 ≠ k) ∧
      SameBut d0 d1 (fun d => { d with tender := { d.tender with tmrs := d1.tender.tmrs } }) [ek (0x2510 + k) 1]))

/-- R451, R454, R455, R462: a descriptor that has arrived is loaded, one with a host-made error as a transfer with free data, and waits for its trigger or runs while the next one is
read; a timer's tick advances its sequence and releases what waits on it. (The model's choices: log 47, 77.) -/
def Obligations.TriggersAndChains : Prop :=
  ∀ (s : State),
    (∀ n a b, n < 64 → (tch s.dev n).ahead = some (a, b) → chState s.dev n = 1 → b.length = 64 →
      let bad := badDesc b || a % 64 != 0
      let t := if bad then tame (parseDesc b) else parseDesc b
      Completes (.descriptorFetched n) s (fun d' => ∃ x,
        tch x n = { tch s.dev n with desc := some (a, t), wild := bad, ahead := none, no := (tch s.dev n).no + 1 } ∧
        od x (tcIdx n 1) 2 = a % 2 ^ 64 ∧ OnlyTch s.dev x n ∧
        SameBut s.dev x (fun d => { d with tender := { d.tender with chs := x.tender.chs } }) [ek (tcIdx n 1) 2] ∧
        if t.tkind ≠ 1 ∧ trigHolds x n t = true then
          ∃ y, d' = settle y ∧ chState y n = 3 ∧ OnlyTch x y n ∧
            tch y n = if t.eoc then tch x n else { tch x n with fetching := some t.next }
        else chState d' n = 2 ∧ OnlyEntries x d' [ek (tcIdx n 1) 1])) ∧
    (∀ n, ((tch s.dev n).ahead = none ∨ chState s.dev n ≠ 1) →
      Completes (.descriptorFetched n) s (fun d' => d' = s.dev)) ∧
    (∀ k t, k < 8 → s.dev.tender.tmrs.find? (fun x => x.1 == k) = some (k, t) → Completes (.timerTick k) s (fun d' =>
      ∃ x, d' = settle (release x) ∧ od x (0x2510 + k) 4 = nextSeq (od s.dev (0x2510 + k) 4) % 2 ^ 32 ∧
        x.tender.tmrs.find? (fun y => y.1 == k) =
          some (k, { next := t.next + od s.dev (0x2510 + k) 2, period := od s.dev (0x2510 + k) 2, last := some t.next }) ∧
        (∀ n, tch x n =
          if chState s.dev n = 2 ∧ (tch s.dev n).desc.any (fun q => q.2.tkind == 1 && q.2.tsrc == k) = true then
            { tch s.dev n with ticked := true } else tch s.dev n) ∧
        SameBut s.dev x (fun d => { d with tender := { d.tender with chs := x.tender.chs, tmrs := x.tender.tmrs } })
          [ek (0x2510 + k) 4])) ∧
    (∀ k, (∀ x ∈ s.dev.tender.tmrs, x.1 ≠ k) → Completes (.timerTick k) s (fun d' => d' = s.dev))

/-- The row of a programmed channel's operation. -/
def opRowOf (n : Nat) : Nat → Option Instr
  | 0 => some (.descriptorCopy n)
  | 1 => some (.fill n)
  | 2 => some (.compare n)
  | _ => none

/-- R447, R448, R453, R457 to R459: a command's next transfer joins the jobs of a command channel; a running channel
asks for what it may and, with its half's path, moves one turn of bytes: the source's, the pattern, or a comparison that
stops at its first mismatch; a descriptor that has departed, or landed where it must, completes.
(The model's choices: log 47, 62, 77.) -/
def Obligations.TenderTransfers : Prop :=
  ∀ (s : State),
    (∀ tag c n, cmd? s.dev tag = some c → pickTch s.dev (segPort s.dev.cfg (od s.dev (rgIdx c.ring 0) 3)) = some n →
      (nextTransfer tag c s.dev = none → Completes (.tenderJob tag) s (fun d' => d' = s.dev)) ∧
      (∀ j x, nextTransfer tag c s.dev = some (j, x) → Completes (.tenderJob tag) s (fun d' =>
        j.tag = tag ∧ ∃ y, d' = settle y ∧ (tch y n).jobs = (tch x n).jobs ++ [j] ∧ OnlyTch x y n ∧
          y = { x with tender := { x.tender with chs := y.tender.chs },
                       net := (sendFor (some c.no) .lantern (.half (n / 32)) .req 1 x).net }))) ∧
    (∀ tag, cmd? s.dev tag = none → Completes (.tenderJob tag) s (fun d' => d' = s.dev)) ∧
    (∀ op n row t a, opRowOf n op = some row → (tch s.dev n).desc = some (a, t) → t.op = op →
      (chState s.dev n = 3 ∨ chState s.dev n = 4) → (tch s.dev n).departed = false → halfOn s.dev n = true →
      Completes row s (fun d' =>
        let r := pathTurn n (askAll n s.dev)
        if r.1 = false then d' = settle r.2
        else
          let k := moveLen r.2 n t
          let i := (tch r.2 n).moved
          let p := takeBytes n false t i k r.2
          let q := takeBytes n true t i k p.2.2
          ∃ y, d' = settle (askAll n y) ∧
            (op = 0 → p.2.1 = 0 → y = giveBytes n t p.1 p.2.2) ∧
            (op = 1 → y = giveBytes n t ((List.range k).map (fun x => (leBytes 8 t.src).getD ((i + x) % 8) 0)) r.2) ∧
            (op ≠ 1 → p.2.1 ≠ 0 → y = failCh n p.2.1 p.2.2) ∧
            (op = 2 → p.2.1 = 0 → q.2.1 ≠ 0 → y = failCh n q.2.1 q.2.2) ∧
            (op = 2 → p.2.1 = 0 → q.2.1 = 0 → ∀ x, firstDiff p.1 q.1 = some x →
              (tch y n).fail = 1 ∧ (tch y n).moff = i + x ∧ (tch y n).departed = true) ∧
            (op = 2 → p.2.1 = 0 → q.2.1 = 0 → firstDiff p.1 q.1 = none →
              (tch y n).moved = i + k ∧ (tch y n).departed = decide (t.dLen * t.dLines ≤ i + k)))) ∧
    (∀ op n row, opRowOf n op = some row →
      ((tch s.dev n).desc = none ∨ (tch s.dev n).departed = true ∨ chState s.dev n ∉ [3, 4] ∨ halfOn s.dev n = false) →
      Completes row s (fun d' => d' = s.dev)) ∧
    (∀ n a t, n < 64 → (tch s.dev n).desc = some (a, t) → (chState s.dev n = 3 ∨ chState s.dev n = 4) →
      (tch s.dev n).departed = true → ((tch s.dev n).land = false ∨ (tch s.dev n).unland = 0) → (tch s.dev n).fail < 4 →
      Completes (.descriptorComplete n) s (fun d' => ∃ x, d' = settle x ∧
        od x (tcIdx n 1) 3 = nextSeq (od s.dev (tcIdx n 1) 3) % 2 ^ 32 ∧ Counted s.dev x (tcIdx n 2) 2 1 ∧
        (t.eoc = true → chState x n = 5 ∧ ((tch s.dev n).wild = false → od x (tcIdx n 1) 4 = (tch s.dev n).fail)) ∧
        (t.eoc = false → (tch s.dev n).stopReq = true → chState x n = 7) ∧
        (t.eoc = false → (tch s.dev n).stopReq = false → (tch s.dev n).ahead = none → chState x n = 1))) ∧
    (∀ n, (chState s.dev n ∉ [3, 4] ∨ (tch s.dev n).departed = false ∨
        (tch s.dev n).land = true ∧ (tch s.dev n).unland ≠ 0) →
      Completes (.descriptorComplete n) s (fun d' => d' = s.dev))

/-! ### Bell -/

/-- A port's message is on its way: the last header the port sent, or one that waits in its queue (R53, R57). -/
def sends (d' : Dev) (p : Nat) (P : OutMsg → Prop) : Prop :=
  ∃ m, P m ∧ ((port d' p).last = some m ∨ m ∈ (port d' p).hdrQ)

/-- R503: what Bell does with an external doorbell: one with reserved bits or an unknown source is rejected, one for a
source that takes none from outside refused, and any other taken. -/
def extTaken (v : BitVec 32) (d d' : Dev) : Prop :=
  let n := v.toNat % 65536
  if v.toNat / 65536 ≠ 0 ∨ 1024 ≤ n then Counted d d' 0x2600 2 1 ∧ OnlyEntries d d' [ek 0x2600 2]
  else if srcExt d n = false then Counted d d' 0x2600 3 1 ∧ OnlyEntries d d' [ek 0x2600 3]
  else Counted d d' 0x2600 4 1 ∧ src d' n = ringSrc (src d n) ∧ OnlySrc d d' n ∧
    SameBut d d' (fun x => { x with srcs := d'.srcs }) [ek 0x2600 4]

/-- R514, R515: a completion that names the top of the stack pops it; any other freezes the target, counted, recorded
and raised as a fault; a frozen target discards it. -/
def eoiTaken (w : Nat) (d d' : Dev) : Prop :=
  let n := w % 65536
  let t := w / 65536
  if 2 ^ 19 ≤ w ∨ 1024 ≤ n then Counted d d' 0x2600 2 1 ∧ OnlyEntries d d' [ek 0x2600 2]
  else if (tgt d t).frozen = true then d' = d
  else if (tgt d t).stack.head?.map (·.1) = some n then
    tgt d' t = { tgt d t with
      stack := (tgt d t).stack.tail, irq := od d (0x2610 + t) 1 == 1 && !(tgt d t).stack.tail.isEmpty } ∧
    src d' n = completeSrc (src d n) ∧ OnlyTgt d d' t ∧ OnlySrc d d' n ∧
    d' = { d with tgts := d'.tgts, srcs := d'.srcs }
  else
    tgt d' t = { tgt d t with frozen := true, run := none } ∧ OnlyTgt d d' t ∧ od d' (0x2610 + t) 0x0B = w ∧
    Counted d d' 0x2600 6 1 ∧ bit (od d' 0x2900 3) 6 = true

/-- R503, R504, R514, R515, R518: a completion written to tgt_eoi is checked by Bell, or waits while Bell is not ON; an
unfrozen target empties its stack and its sources wait again; a source that is configured anew loses its redirection,
and one whose state is written its overflow mark. -/
def bellWrites : Prop :=
  ∀ (s : State) (m v : Nat),
    (∀ t, t < 8 → Accepted s.dev m (0x2610 + t) 7 v → WriteDoes (.tgtEoi m t v) s m (fun d0 d1 =>
      let w := t * 65536 + v % 65536
      if isOn d0 (domBell d0.cfg) = true then eoiTaken w d0 d1
      else d1 = { d0 with dbq := d0.dbq ++ [.eoi (BitVec.ofNat 32 w)] })) ∧
    (∀ t, t < 8 → Accepted s.dev m (0x2610 + t) 9 1 → WriteDoes (.tgtUnfreeze m t 1) s m (fun d0 d1 =>
      if (tgt d0 t).frozen = true then
        tgt d1 t = { tgt d0 t with frozen := false, stack := [], irq := false } ∧ OnlyTgt d0 d1 t ∧
        (∀ n, src d1 n = if n ∈ (tgt d0 t).stack.map (·.1) then { src d0 n with st := .pending } else src d0 n) ∧
        d1 = { d0 with tgts := d1.tgts, srcs := d1.srcs }
      else d1 = d0)) ∧
    (∀ n, n < 1024 → Accepted s.dev m (0x2640 + n / 64) (n % 64 + 1) v → WriteDoes (.srcCfg m n v) s m (fun d0 d1 =>
      srcCfg d1 n = v % 2 ^ 32 ∧ src d1 n = { src d0 n with redir := false } ∧ OnlySrc d0 d1 n ∧
      SameBut d0 d1 (fun d => { d with srcs := d1.srcs }) [ek (0x2640 + n / 64) (n % 64 + 1)])) ∧
    (∀ n, n < 1024 → Accepted s.dev m (0x2650 + n / 64) (n % 64 + 1) 0 → WriteDoes (.srcState m n 0) s m (fun d0 d1 =>
      src d1 n = { src d0 n with ovf := false } ∧ OnlySrc d0 d1 n ∧ d1 = { d0 with srcs := d1.srcs }))

/-- R46, R60, R502 to R504, R514, R517: a doorbell or completion word that its port takes is answered OK and checked by
Bell; while Bell is not ON it waits in the port's ingress queue, a wake source of Bell's domain; an internal doorbell that
waits reaches Bell once it is ON. -/
def doorbellsReachBell : Prop :=
  ∀ (s : State),
    (∀ p v txid, PortTakes s.dev p .msg → isOn s.dev (domBell s.dev.cfg) = true →
      let d := creditPulse p .msg 1 s.dev
      Completes (.blDb p v txid) s (fun d' => ∃ x, Answers x p 0xA 0 txid ∧ AnswerFrame d x p [] ∧ extTaken v x d') ∧
      Completes (.blEoi p v txid) s (fun d' => ∃ x, Answers x p 0xA 0 txid ∧ AnswerFrame d x p [] ∧ eoiTaken v.toNat x d')) ∧
    (∀ p v txid i, (port s.dev p).linkUp = true → (port s.dev p).iCr.msg ≠ 0 → isOn s.dev (domBell s.dev.cfg) = false →
      i = .blDb p v txid ∨ i = .blEoi p v txid → Completes i s (fun d' =>
        (port d' p).inQ = (port s.dev p).inQ ++ [i] ∧ (port d' p).iCr.msg = (port s.dev p).iCr.msg - 1 ∧
        (dom d' (domBell s.dev.cfg)).flit = true ∧
        d' = { s.dev with od := d'.od, sat := d'.sat, ports := d'.ports, doms := d'.doms })) ∧
    (∀ i rest, isOn s.dev (domBell s.dev.cfg) = true → s.dev.dbq = i :: rest → Completes .internalDoorbell s (fun d' =>
      let x : Dev := { s.dev with dbq := rest }
      (∀ n, (i = .unit n ∨ i = .flt n ∨ i = .memlog n) → Counted x d' 0x2600 4 1 ∧ src d' n = ringSrc (src x n) ∧
        OnlySrc x d' n ∧ SameBut x d' (fun d => { d with srcs := d'.srcs }) [ek 0x2600 4]) ∧
      (∀ v, i = .eoi v → eoiTaken v.toNat x d'))) ∧
    ((isOn s.dev (domBell s.dev.cfg) = false ∨ s.dev.dbq = []) → Completes .internalDoorbell s (fun d' => d' = s.dev))

/-- R502 to R504, R514 to R518: what the writes of Bell's entries do, and how doorbells reach it. (The model's choices: log 21, 73.) -/
def Obligations.BellWritesAndDoorbells : Prop := bellWrites ∧ doorbellsReachBell

/-- R504, R509, R513: an accepted delivery goes on the target's stack, its source in service with the doorbells that
the attempt copied taken off, its wire high. -/
def delivered (t : Nat) (r : Run) (d d' : Dev) : Prop :=
  (tgt d' t).stack = (r.src, r.prio) :: (tgt d t).stack ∧ (tgt d' t).run = none ∧
  (tgt d' t).irq = (od d (0x2610 + t) 1 == 1) ∧
  src d' r.src = { src d r.src with st := .inService, cnt := (src d r.src).cnt - r.more, redir := false } ∧
  Counted d d' 0x2600 5 1 ∧ Counted d d' (0x2610 + t) 0x0D 1 ∧ OnlyTgt d d' t ∧ OnlySrc d d' r.src ∧
  SameBut d d' (fun x => { x with tgts := d'.tgts, srcs := d'.srcs }) [ek 0x2600 5, ek (0x2610 + t) 0x0D]

/-- R509, R512: the attempt of a run's slot waits for bl_awake; by wire it is accepted at once, by message its delivery
word is sent; to an address that is not 8-byte aligned, a word with free contents (log 26). -/
def attempted (t : Nat) (d d' : Dev) : Prop :=
  ∀ r, (tgt d t).run = some r →
    let acts := (tgt d t).awake = true ∧ r.acted = false ∧ (tgt d t).frozen = false
    let r1 := { r with acted := true, more := (src d r.src).cnt }
    (¬ acts → d' = d) ∧
    (acts → od d (0x2610 + t) 1 = 1 → delivered t r1 d d') ∧
    (acts → od d (0x2610 + t) 1 ≠ 1 → (tgt d' t).run = some r1 ∧ OnlyTgt d d' t ∧
      sends d' (od d (0x2610 + t) 2) (fun m => m.cls = .msg ∧ m.op = 4 ∧ m.len = 8 ∧ m.addr % 8 = 0 ∧
        m.own = .bell t (od d (0x2610 + t) 0x0A) r.slot ∧
        (od d (0x2610 + t) 3 % 8 = 0 → m.addr = od d (0x2610 + t) 3 ∧ m.mdata = deliveryWord d t r.src r.prio)))

/-- R507, R509 to R513: a run starts with the source chosen and the next delivery sequence number; each slot that ends
without acceptance is counted and the next begins, or the run ends with its source no longer eligible; the end of the
25th turns every eligible source to its other target; a response accepts the attempt, marks it failed, or comes too late
and is counted. (The model's choices: log 8, 50.) -/
def Obligations.DeliveryRuns : Prop :=
  ∀ (s : State) (t : Nat) (aw : Bool), t < 8 →
    let d := setAwake t aw s.dev
    (∀ n p, (tgt d t).run = none → (tgt d t).frozen = false → isOn d (domBell d.cfg) = true →
      chooseSrc d t = some (n, p) → Completes (.deliveryRunStart ⟨t, aw⟩) s (fun d' => ∃ x, attempted t x d' ∧
        od x (0x2610 + t) 0x0A = nextSeq (od d (0x2610 + t) 0x0A) % 2 ^ 32 ∧
        tgt x t = { tgt d t with
          run := some { src := n, slot := 1, acted := false, failed := false, more := 0, prio := p },
          last := tabSet 1024 (tgt d t).last p n } ∧
        OnlyTgt d x t ∧ SameBut d x (fun y => { y with tgts := x.tgts }) [ek (0x2610 + t) 0x0A])) ∧
    (((tgt d t).run.isSome ∨ (tgt d t).frozen = true ∨ isOn d (domBell d.cfg) = false ∨
      chooseSrc d t = none) → Completes (.deliveryRunStart ⟨t, aw⟩) s (fun d' => d' = d)) ∧
    (∀ r, (tgt d t).run = some r → r.slot < 25 → Completes (.attemptSlot ⟨t, aw⟩) s (fun d' => ∃ x,
      Counted d x (0x2610 + t) 0x0E 1 ∧ SameBut d x (fun y => { y with tgts := x.tgts }) [ek (0x2610 + t) 0x0E] ∧
      OnlyTgt d x t ∧
      if eligible d t r.src = true then attempted t x d' ∧ tgt x t = { tgt d t with
        run := some { r with slot := r.slot + 1, acted := false, failed := false, more := 0, prio := srcPrio d r.src } }
      else d' = x ∧ tgt x t = { tgt d t with run := none })) ∧
    ((tgt s.dev t).run = none → Completes (.attemptSlot ⟨t, aw⟩) s (fun d' => d' = d) ∧
      Completes (.fallback t) s (fun d' => d' = s.dev) ∧
      Completes (.bellAwakeRise t) s (fun d' => d' = setAwake t true s.dev)) ∧
    (tgt d t = { tgt s.dev t with awake := aw } ∧ OnlyTgt s.dev d t ∧ d = { s.dev with tgts := d.tgts }) ∧
    ((tgt s.dev t).run.isSome → Completes (.bellAwakeRise t) s (attempted t (setAwake t true s.dev))) ∧
    (∀ r, (tgt s.dev t).run = some r → r.slot = 25 → eligible s.dev t r.src = true → Completes (.fallback t) s (fun d' =>
      Counted s.dev d' (0x2610 + t) 0x0E 1 ∧ tgt d' t = { tgt s.dev t with run := none } ∧ OnlyTgt s.dev d' t ∧
      (∀ n, src d' n = if eligible s.dev t n = true then { src s.dev n with redir := !(src s.dev n).redir }
        else src s.dev n) ∧
      SameBut s.dev d' (fun d => { d with tgts := d'.tgts, srcs := d'.srcs }) [ek (0x2610 + t) 0x0E, ek (0x2610 + t) 0x0F])) ∧
    (∀ p txid st o dseq slot, (port s.dev p).owns txid = some o → o.own = .bell t dseq slot →
      Completes (.deliveryResponse p txid st) s (fun d' => ∃ x, x = { s.dev with ports := x.ports } ∧
        (∀ r, (tgt s.dev t).run = some r → od s.dev (0x2610 + t) 0x0A = dseq → r.slot = slot → r.acted = true →
          r.failed = false →
          if st = 0 then delivered t r x d'
          else tgt d' t = { tgt s.dev t with run := some { r with failed := true } } ∧ OnlyTgt x d' t) ∧
        ((tgt s.dev t).run = none ∨ od s.dev (0x2610 + t) 0x0A ≠ dseq →
          Counted x d' 0x2600 7 1 ∧ OnlyEntries x d' [ek 0x2600 7]))) ∧
    (∀ p txid st, (port s.dev p).owns txid = none → Completes (.deliveryResponse p txid st) s (fun d' =>
      Counted s.dev d' (0x5000 + 0x10 * p) 8 1 ∧ txid ∉ (port d' p).quar))
/-! ### Power, resets and Keeper -/

/-- What a block reset does as it is taken (R573 to R575): held while a flush runs, merged with one that runs. -/
def blockResetTaken (cause : Nat) (d d' : Dev) : Prop :=
  if od d 0x2400 1 = 3 then
    d'.rst.held.map (·.1) = some .block ∧ d' = { d with rst := { d.rst with held := d'.rst.held } }
  else od d' 0x2000 6 = cause ∧ d'.rst.kind = some .block ∧ (d.rst.kind = none → od d' 0x2000 0x0B = 1 ∧ d'.cmds = [] ∧ d'.groups = [])

/-- R108: after a power-on reset every entry holds its default, a number or a byte string, in the same synthesis. -/
def Obligations.PowerOnDefaults : Prop :=
  ∀ s : State, Completes .powerOnReset s (fun d' => d'.cfg = s.dev.cfg ∧ (∀ k, getK d' k = odDefault s.dev.cfg k) ∧
    ∀ idx sub b i, odBase s.dev.cfg idx = some (b, i) → getB d' idx sub = domDefault s.dev.cfg b sub)

/-- R101, R102, R571, R572, R575, R579, R580: power-on leaves every entry at its default and the synthesis as it is; MU_READY
queues the wakes of the domains in order and starts the first; a supply out of range takes the links down and its return
brings those of ports in ON up; a drained reset abandons the ports and clears the rings; at its end START, counted.
(The model's choices: log 64, 66.) -/
def Obligations.PowerAndResets : Prop :=
  ∀ s : State,
    Completes .powerOnReset s (fun d' =>
      d' = { Dev.reset with cfg := s.dev.cfg, up := s.dev.up, free := s.dev.free }) ∧
    (s.dev.doms = [] → s.dev.pwrq = [] → Completes .muReady s (fun d' =>
      let k := od s.dev 0x2000 9
      d'.pwrq = (powerOrder s.dev.cfg).drop k ∧
      (∀ n ∈ (powerOrder s.dev.cfg).take k, (dom d' n).st = .waking ∧ (dom d' n).tgt = .on ∧ (dom d' n).pcReq = 3) ∧
      (∀ n, n ∉ (powerOrder s.dev.cfg).take k → dom d' n = Dom.reset) ∧
      d' = { s.dev with doms := d'.doms, pwrq := d'.pwrq })) ∧
    (s.dev.doms ≠ [] ∨ s.dev.pwrq ≠ [] → Completes .muReady s (fun d' => d' = s.dev)) ∧
    Completes (.supplyOutOfRange .vdd) s (fun d' => d'.tele = { s.dev.tele with vdd := false } ∧
      ∀ p, p < s.dev.cfg.ports → (port d' p).linkUp = false ∧ (port d' p).xoff = false) ∧
    Completes (.supplyOutOfRange .vddp) s (fun d' => d' = { s.dev with tele := { s.dev.tele with vddp := false } }) ∧
    Completes (.supplyOutOfRange .vccq) s (fun d' => d' = { s.dev with tele := { s.dev.tele with vccq := false } }) ∧
    Completes (.supplyInRange .vdd) s (fun d' => d'.tele = { s.dev.tele with vdd := true } ∧
      ∀ p, p < s.dev.cfg.ports → isOn s.dev (domPort s.dev.cfg p) = true → (port s.dev p).framing = false →
        (port d' p).linkUp = true) ∧
    Completes (.supplyInRange .vddp) s (fun d' =>
      d' = kickAll { s.dev with tele := { s.dev.tele with vddp := true } }) ∧
    Completes (.supplyInRange .vccq) s (fun d' =>
      d' = kickAll { s.dev with tele := { s.dev.tele with vccq := true } }) ∧
    Completes .wrst s (blockResetTaken 1 s.dev) ∧
    (∀ k, s.dev.rst.kind = some k → od s.dev 0x2000 0x0B = 1 → diesEnded s.dev (allDies s.dev.cfg) = true →
      s.dev.clasp.commits = [] → Completes .resetDrained s (fun d' =>
        od d' 0x2000 0x0B = 2 ∧ od d' 0x2000 5 = 0 ∧ od d' 0x2100 8 = 0 ∧ od d' 0x2400 1 = 0 ∧
        (∀ p, p < s.dev.cfg.ports → port d' p = Port.reset) ∧ d'.rings = [] ∧ d'.srcs = [] ∧ d'.decs = [] ∧
        d'.rawp = RawPath.reset ∧ d'.tele = { s.dev.tele with pf := false } ∧ d'.rst.kind = some k)) ∧
    (s.dev.rst.kind = none ∨ od s.dev 0x2000 0x0B ≠ 1 → Completes .resetDrained s (fun d' => d' = s.dev)) ∧
    (∀ k, s.dev.rst.kind = some k → od s.dev 0x2000 0x0B = 2 → Completes .resetDone s (fun d' =>
      od d' 0x2000 1 = 0 ∧ od d' 0x2000 0x0B = 0 ∧ od d' 0x2000 8 = s.dev.ts % 2 ^ 64 ∧ Counted s.dev d' 0x2000 7 1 ∧
      d'.rst.kind = none ∧ d'.rst.chans = [])) ∧
    (s.dev.rst.kind = none ∨ od s.dev 0x2000 0x0B ≠ 2 → Completes .resetDone s (fun d' => d' = s.dev)) ∧
    (∀ ch answers, ch < s.dev.cfg.channels → ch ∉ s.dev.rst.chans → (chan s.dev ch).idTgts ≠ [] → chanOn s.dev ch = true →
      Completes (.channelIdentify ch answers) s (fun d' => ∃ x, d' = kick ch x ∧
        (chan x ch).idTgts = [] ∧ (chan x ch).identified = true ∧ (chan x ch).state ≠ 3)) ∧
    (∀ ch answers, ch < s.dev.cfg.channels → ch ∉ s.dev.rst.chans → ((chan s.dev ch).idTgts = [] ∨ chanOn s.dev ch = false) →
      Completes (.channelIdentify ch answers) s (fun d' => d' = s.dev))

/-- R533: a refused request is counted, and recorded with its code and detail. -/
def refusedReq (n v m code detail : Nat) (d d' : Dev) : Prop :=
  kpGet d' 0x2760 n = 2 ^ 24 * (code % 256) + 2 ^ 8 * (detail % 65536) + 2 ^ 4 * (v % 4) + m % 8 ∧
  Counted d d' 0x2700 7 1 ∧ Counted d d' (kpIdx 0x2740 n) (kpSub n) 1 ∧
  OnlyEntries d d' [ek 0x2700 7, ek (kpIdx 0x2740 n) (kpSub n), ek (kpIdx 0x2760 n) (kpSub n)]

/-- R523 to R528, R531: what Keeper does with a request for a domain, which may have come through a port. -/
def requestJudged (n v m : Nat) (via : Option Nat) (d d' : Dev) : Prop :=
  let x := dom d n
  let t := reqSt v
  let moves := fun (y : Dom) => dom d' n = y ∧ OnlyDom d d' n
  let same := Counted d d' 0x2700 9 1 ∧ OnlyEntries d d' [ek 0x2700 9]
  let waking := { x with st := .waking, tgt := .on, from_ := x.st, attempt := 1, master := m, pcReq := 3 }
  if x.moving = true then
    match x.pend with
    | none => if x.tgt = t then same else moves { x with pend := some (t, m, via) }
    | some (p, pm, _) =>
      if x.tgt = t ∨ p = t then same
      else (dom d' n).pend = some (t, m, via) ∧ Counted d d' 0x2700 8 1 ∧
        kpGet d' 0x2760 n = 2 ^ 24 * 0x0E + 2 ^ 8 * (m % 65536) + 128 + 2 ^ 4 * (p.code % 4) + pm % 8
  else if x.st = t then same
  else match x.st, t with
    | .on, _ => (match refuser d n via, wakeSource d n with
      | some (c, k), _ => refusedReq n v m c k d d'
      | none, some b => refusedReq n v m 0x0C b d d'
      | none, none => dom d' n = { x with st := .drain, tgt := t, from_ := .on, master := m } ∧
          (∀ k, k ≠ n → dom d' k = dom d k) ∧
          d' = { d with doms := d'.doms, net := (sendVia .ao (domUnit d.cfg n) .msg 1 d).net })
    | .ret, .off => (match wakeSource d n with
      | some b => refusedReq n v m 0x0C b d d'
      | none => moves { x with st := .goingDown, tgt := .off, from_ := .ret, master := m, pcReq := 0 })
    | .failed, .on => moves { waking with cold := true }
    | .failed, .off => moves { x with st := .off, pcReq := 0, cold := true }
    | .failed, _ => refusedReq n v m 0x0D 7 d d'
    | .off, .ret => refusedReq n v m 0x0D 0 d d'
    | _, _ => moves waking

/-- R523, R524, R572: a request is stored, leaves the power-on queue, and Keeper judges it; the same through a window, whose
port it names. -/
def domainRequests : Prop :=
  ∀ (s : State) (m n v : Nat), n < domainCount s.dev.cfg → n < 256 → v < 3 →
    let stored := fun (d0 x : Dev) => kpGet x 0x2710 n = v ∧
      SameBut d0 x (fun d => { d with pwrq := d.pwrq.filter (· ≠ n) }) [ek (kpIdx 0x2710 n) (kpSub n)]
    (Accepted s.dev m (kpIdx 0x2710 n) (kpSub n) v → WriteDoes (.domReq m none n v) s m (fun d0 d1 =>
      ∃ x, stored d0 x ∧ requestJudged n v m none x d1)) ∧
    (∀ w : Win,
      let d := entered (some w.via) s.dev
      let c : OdCmd := { m := m, via := some w.via, tag := w.tag, seq := w.seq, idx := kpIdx 0x2710 n, sub := kpSub n }
      let q := formReq w.seq (.exp 1 v)
      Runs (some w.via) m s.dev → odError c q d = none → enabled d m = true →
      numAbort (takeCmd c q d) m c.idx c.sub 1 v = none → holder d m (ek c.idx c.sub) = none →
      Completes (.domReq m (some w) n v) s (fun d' => doneIn d' c q 0 ∧ ∃ x d1,
        stored (rewrite c.idx c.sub (takeCmd c q d)) x ∧ requestJudged n v m (some w.via.p) x d1 ∧ d'.doms = d1.doms ∧
        d'.pwrq = d1.pwrq))

/-- R28, R29, R95, R529 to R532: the handshake of a domain, step by step: drained, its links hold no credits, it is isolated
and pc_req goes to its target; acknowledged, it is there; woken, it is restored; a wake that does not come is retried once and then fails the domain; a
fall of pc_pg in ON fails it and in RET turns it off; a wake source is noted and rings once. -/
def domainTransitions : Prop :=
  ∀ (s : State) (n : Nat), n < 256 →
    let y := dom s.dev n
    (y.st = .drain → drained s.dev n = true → Completes (.drainComplete n) s (fun d' => ∃ x, d' = domLeave n (linksOff n x) ∧
      dom x n = { y with st := .goingDown, isolated := true, pcReq := pcEnc y.tgt } ∧ OnlyDom s.dev x n)) ∧
    (y.st ≠ .drain ∨ drained s.dev n = false → Completes (.drainComplete n) s (fun d' => d' = s.dev)) ∧
    (y.st = .goingDown → Completes (.domainDownAck n) s (fun d' => ∃ x, d' = takePend n x ∧
        dom x n = { y with st := y.tgt, cold := y.cold || y.tgt == .off } ∧ Counted s.dev x (kpIdx 0x2780 n) (kpSub n) 1 ∧
        SameBut s.dev x (fun d => { d with doms := x.doms }) [ek (kpIdx 0x2780 n) (kpSub n)]) ∧
      Completes (.downLate n) s (fun d' => ∃ x, d' = takePend n x ∧
        dom x n = { y with st := y.tgt, cold := y.cold || y.tgt == .off } ∧ Counted s.dev x 0x2700 0x0B 1)) ∧
    (y.st ≠ .goingDown → Completes (.domainDownAck n) s (fun d' => d' = s.dev) ∧
      Completes (.downLate n) s (fun d' => d' = s.dev)) ∧
    (y.st = .waking → Completes (.domainWakeAck n) s (fun d' => ∃ x,
      d' = takePend n (nextPower (domOn n (y.cold || y.from_ != .ret) x)) ∧ bit x.wakeP n = false ∧
      dom x n = { y with
        st := .on, tgt := .on, attempt := 0, isolated := false, flit := false, demand := false, cold := false } ∧
      Counted s.dev x (kpIdx 0x2780 n) (kpSub n) 1 ∧
      x.net = (sendVia (domUnit s.dev.cfg n) .ao .msg 1 (linksReset n { s.dev with doms := x.doms })).net ∧
      SameBut s.dev x (fun d => { d with doms := x.doms, wakeP := x.wakeP, net := x.net }) [ek (kpIdx 0x2780 n) (kpSub n)])) ∧
    (y.st = .waking → y.attempt ≤ 1 → Completes (.wakeTimeout n) s (fun d' =>
      dom d' n = { y with st := .wakeRetry, pcReq := pcEnc y.from_ } ∧
      Counted s.dev d' (kpIdx 0x2770 n) (kpSub n) 1 ∧
      SameBut s.dev d' (fun d => { d with doms := d'.doms }) [ek (kpIdx 0x2770 n) (kpSub n)])) ∧
    (y.st = .waking → 1 < y.attempt → Completes (.wakeTimeout n) s (fun d' => ∃ x,
      d' = takePend n (nextPower (domFail n 3 5 x)) ∧ Counted s.dev x (kpIdx 0x2770 n) (kpSub n) 1 ∧
      OnlyEntries s.dev x [ek (kpIdx 0x2770 n) (kpSub n)])) ∧
    (y.st ≠ .waking → Completes (.domainWakeAck n) s (fun d' => d' = s.dev) ∧
      Completes (.wakeTimeout n) s (fun d' => d' = s.dev)) ∧
    (y.st = .wakeRetry → Completes (.wakeRetryEnd n) s (fun d' =>
      dom d' n = { y with st := .waking, attempt := 2, pcReq := 3 } ∧ OnlyDom s.dev d' n)) ∧
    (y.st ≠ .wakeRetry → Completes (.wakeRetryEnd n) s (fun d' => d' = s.dev)) ∧
    (n < domainCount s.dev.cfg → y.st = .on → Completes (.pgFall n) s (fun d' => ∃ x, d' = domFail n 1 2 (domLeave n x) ∧
      Counted s.dev x 0x2700 0x0A 1 ∧ OnlyEntries s.dev x [ek 0x2700 0x0A])) ∧
    (n < domainCount s.dev.cfg → y.st = .ret → Completes (.pgFall n) s (fun d' =>
      dom d' n = { y with st := .off, pcReq := 0, cold := true } ∧ Counted s.dev d' 0x2700 0x0A 1 ∧
      bit (od d' 0x2900 3) 7 = true ∧ ControlKept s.dev d')) ∧
    (y.st ≠ .on → y.st ≠ .ret → Completes (.pgFall n) s (fun d' => d' = s.dev)) ∧
    (∀ b, n < domainCount s.dev.cfg → b < 2 → y.st ≠ .on → Completes (.wakeSourceAssert n b) s (fun d' =>
      let z := if b = 0 then { y with flit := true } else { y with demand := true }
      let on := fun (i : Nat) => bit (kpGet s.dev 0x2730 n) i
      let rings := (z.flit = true ∧ on 0 = true ∨ z.demand = true ∧ on 1 = true) ∧ bit s.dev.wakeP n = false
      let src := od s.dev 0x2700 4
      dom d' n = z ∧ (∀ k, k ≠ n → dom d' k = dom s.dev k) ∧ (rings → bit d'.wakeP n = true) ∧ (¬ rings → d'.wakeP = s.dev.wakeP) ∧
      (rings ∧ src < 1024 → d'.dbq = s.dev.dbq ++ [.unit src] ∧ d'.net = (send .ao .bell .msg 1 s.dev).net) ∧
      (¬ (rings ∧ src < 1024) → d'.dbq = s.dev.dbq ∧ d'.net = s.dev.net) ∧
      d' = { s.dev with doms := d'.doms, wakeP := d'.wakeP, dbq := d'.dbq, net := d'.net })) ∧
    (∀ b, (domainCount s.dev.cfg ≤ n ∨ 2 ≤ b ∨ y.st = .on) → Completes (.wakeSourceAssert n b) s (fun d' => d' = s.dev))

/-- R95, R523, R524, R529 to R532, R572: what is asked of a domain, and how its transitions end. (The model's choices: log 58, 60, 61.) -/
def Obligations.DomainRequestsAndTransitions : Prop := domainRequests ∧ domainTransitions

/-! ### Ports and rings -/

/-- R45, R46, R60, R72, R75: what a port does with a request of its target side that it cannot serve as it comes: with the
link down nothing, without a credit outstanding a framing violation; else it waits behind those that wait, and keeps its
credit. -/
def heldOrRefused (p : Nat) (k : YppClass) (i : Instr) (s : State) : Prop :=
  ((port s.dev p).linkUp = false → Completes i s (fun d' => d' = s.dev)) ∧
  ((port s.dev p).linkUp = true → (port s.dev p).iCr.get k = 0 → Completes i s (fun d' => d' = framing p s.dev)) ∧
  ((port s.dev p).linkUp = true → (port s.dev p).iCr.get k ≠ 0 → (port s.dev p).rspMet = false ∨ (port s.dev p).inQ ≠ [] →
    Completes i s (fun d' => (port d' p).inQ = (port s.dev p).inQ ++ [i] ∧
      (port d' p).iCr = (port s.dev p).iCr.set k ((port s.dev p).iCr.get k - 1) ∧ (∀ q, q ≠ p → port d' q = port s.dev q) ∧
      SameBut s.dev d' (fun d => { d with ports := d'.ports }) [ek (ptIdx p) 6]))

/-- R46, R62, R64, R66, R67, R69, R131: the target side answers a write UNSUPPORTED, takes its data and counts its bytes; a
header with a reserved opcode UNSUPPORTED; an access outside the window or of the wrong kind by the window's rule; each is
counted. A READ that the window takes is answered with its data, BUS_ERROR where they hold a bad word. -/
def requestsNotTaken : Prop :=
  ∀ (s : State) (p : Nat),
    (∀ h, h.cls = .req → h.op = 2 → heldOrRefused p .req (.inboundWriteRefused p h) s ∧
      (0 < h.len → PortTakes s.dev p .req → Completes (.inboundWriteRefused p h) s (fun d' =>
        let d := creditPulse p .dat (datFlits h.addr h.len) (creditPulse p .req 1 s.dev)
        Answers d' p 9 3 h.txid ∧ Counted d d' (ptIdx p) 0x0A 1 ∧ Counted d d' (ptIdx p) 0x0D h.len ∧
        AnswerFrame d d' p [ek (ptIdx p) 0x0A, ek (ptIdx p) 0x0D]))) ∧
    (∀ h, ¬ (h.cls = .req ∧ h.op = 2) → Completes (.inboundWriteRefused p h) s (fun d' => d' = s.dev)) ∧
    (∀ k op txid, opOk k op = false → k = .req ∨ k = .msg → heldOrRefused p k (.inboundBadHeader p k op txid) s ∧
      (PortTakes s.dev p k → Completes (.inboundBadHeader p k op txid) s (fun d' =>
        let d := creditPulse p k 1 s.dev
        Answers d' p (rspOp k op) 3 txid ∧ Counted d d' (ptIdx p) 0x0A 1 ∧ AnswerFrame d d' p [ek (ptIdx p) 0x0A]))) ∧
    (∀ op txid, opOk .rsp op = false → (port s.dev p).linkUp = true → (port s.dev p).iCr.rsp ≠ 0 →
      Completes (.inboundBadHeader p .rsp op txid) s (fun d' =>
        Counted s.dev d' (ptIdx p) 0x0A 1 ∧ SameBut s.dev d' (creditPulse p .rsp 1) [ek (ptIdx p) 0x0A])) ∧
    (∀ op txid, (port s.dev p).linkUp = true → Completes (.inboundBadHeader p .dat op txid) s (fun d' => d' = framing p s.dev)) ∧
    (∀ k op txid, opOk k op = true → Completes (.inboundBadHeader p k op txid) s (fun d' => d' = s.dev)) ∧
    (∀ h, opOk h.cls h.op = true → ¬ (h.cls = .req ∧ h.op = 2) → h.cls ≠ .rsp →
      heldOrRefused p h.cls (.targetDecodeError p h) s ∧
      (PortTakes s.dev p h.cls → 
        let d := creditPulse p h.cls 1 s.dev
        (∀ st, windowStatus s.dev h = some st → Completes (.targetDecodeError p h) s (fun d' =>
          (h.cls = .msg → Answers d' p 0xA st h.txid) ∧
          (h.cls = .req → sends d' p (fun m => m.cls = .rsp ∧ m.op = 8 ∧ m.status = st ∧ m.txid = h.txid ∧ m.len = h.len ∧
            m.data = [])) ∧
          Counted d d' (ptIdx p) 0x0A 1 ∧ AnswerFrame d d' p [ek (ptIdx p) 0x0A])) ∧
        (windowStatus s.dev h = none → h.cls = .req → Completes (.targetDecodeError p h) s (fun d' =>
          let r := windowRead s.dev h.mid (h.addr % 2 ^ 24 - 0x10000) h.len
          sends d' p (fun m => m.cls = .rsp ∧ m.op = 8 ∧ m.status = (if r.2 then 1 else 0) ∧ m.txid = h.txid ∧
            m.data = r.1 ∧ m.len = r.1.length) ∧ AnswerFrame d d' p [])) ∧
        (windowStatus s.dev h = none → h.cls = .msg → Completes (.targetDecodeError p h) s (fun d' => d' = d)))) ∧
    (∀ h, opOk h.cls h.op = false ∨ (h.cls = .req ∧ h.op = 2) ∨ h.cls = .rsp →
      Completes (.targetDecodeError p h) s (fun d' => d' = s.dev))

/-- A response's flits hold credits, and as many come as R54 says; else it is a framing violation (R72). -/
def framed (p : Nat) (r : RspHdr) (d : Dev) : Prop :=
  (port d p).iCr.rsp ≠ 0 ∧ (r.flits = 0 ∨ (port d p).iCr.dat ≠ 0) ∧ flitsOk p r d = true

/-- R46, R68 to R72: a response, or the time without one, ends the request of its txid, whose unit is told how; a response no
request waits for is counted, and gives a quarantined txid free; a reserved opcode is counted. -/
def requestsEnd : Prop :=
  ∀ (s : State) (p : Nat),
    (∀ r : RspHdr, (port s.dev p).linkUp = false → Completes (.inboundResponse p r) s (fun d' => d' = s.dev)) ∧
    (∀ r : RspHdr, (port s.dev p).linkUp = true → ¬ framed p r s.dev →
      Completes (.inboundResponse p r) s (fun d' => d' = framing p s.dev)) ∧
    (∀ r : RspHdr, (port s.dev p).linkUp = true → framed p r s.dev →
      let d := creditPulse p .dat r.flits (creditPulse p .rsp 1 s.dev)
      (opOk .rsp r.op = false → Completes (.inboundResponse p r) s (fun d' =>
        Counted d d' (ptIdx p) 0x0A 1 ∧ OnlyEntries d d' [ek (ptIdx p) 0x0A])) ∧
      (opOk .rsp r.op = true → (port s.dev p).owns r.txid = none → Completes (.inboundResponse p r) s (fun d' =>
        Counted d d' (ptIdx p) 8 1 ∧ r.txid ∉ (port d' p).quar ∧
        SameBut d d' (fun d => { d with ports := d'.ports }) [ek (ptIdx p) 8])) ∧
      (∀ o, opOk .rsp r.op = true → (port s.dev p).owns r.txid = some o →
        Completes (.inboundResponse p r) s (fun d' => ∃ x, (port x p).owns r.txid = none ∧
          SameBut d x (fun d => { d with ports := x.ports }) [ek (ptIdx p) 0x0B, ek (ptIdx p) 0x0D] ∧
          ((∀ t q k, o.own ≠ .bell t q k) →
            if r.status = 0 ∧ r.poison = false then d' = deliver p o 0 r.data x ∧ od x (ptIdx p) 0x0B = od s.dev (ptIdx p) 0x0B
            else d' = deliver p o 2 [] x ∧ Counted d x (ptIdx p) 0x0B 1) ∧
          (∀ t q k, o.own = .bell t q k →
            d' = bellResponse t q k (if r.status = 0 ∧ r.poison = false then 0 else 1) x)))) ∧
    (∀ txid o, (port s.dev p).owns txid = some o → Completes (.initTimeout p txid) s (fun d' => ∃ x,
      d' = kickAll (deliver p o 3 [] x) ∧ (port x p).owns txid = none ∧ txid ∈ (port x p).quar ∧
      Counted s.dev x (ptIdx p) 7 1 ∧ SameBut s.dev x (fun d => { d with ports := x.ports }) [ek (ptIdx p) 7])) ∧
    (∀ txid, (port s.dev p).owns txid = none → Completes (.initTimeout p txid) s (fun d' => d' = kickAll s.dev))

/-- R45, R46, R60 to R72: requests the target side does not take, READs of its window, and how the block's own requests end.
(The model's choices: log 48, 49.) -/
def Obligations.RequestsTurnedAwayAndEnded : Prop := requestsNotTaken ∧ requestsEnd

/-- R46 to R48, R72 to R75: a credit lets what waits go on, and one that completes a port's minimums ends UNDERCREDIT; a
framing violation takes the link down, its restore brings it up with the inbound credits; minimums still missing are a
fault. (The model's choices: log 48, 49.) -/
def Obligations.LinkAndCredits : Prop :=
  ∀ (s : State) (p : Nat), p < 16 →
    (∀ k, (port s.dev p).linkUp = true → Completes (.creditReturn p k) s (fun d' => ∃ x, d' = settle (pump p x) ∧
      (port x p).cr = (port s.dev p).cr.set k (min 2047 ((port s.dev p).cr.get k + 1)) ∧
      (port x p).got = (port s.dev p).got.set k ((port s.dev p).got.get k + 1) ∧
      ((port x p).minMet = true → (port s.dev p).under = true → od x (ptIdx p) 1 = 1 ∧ (port x p).under = false) ∧
      (∀ q, q ≠ p → port x q = port s.dev q) ∧
      SameBut s.dev x (fun d => { d with ports := x.ports }) [ek (ptIdx p) 1])) ∧
    (∀ k, (port s.dev p).linkUp = false → Completes (.creditReturn p k) s (fun d' => d' = s.dev)) ∧
    ((port s.dev p).linkUp = true → Completes (.framingViolation p) s (fun d' => ∃ x,
      d' = kickAll ((port s.dev p).outst.foldl (fun y o => deliver p o 2 [] y) x) ∧
      (port x p).linkUp = false ∧ (port x p).framing = true ∧ (port x p).outst = [] ∧
      (∀ m ∈ (port x p).hdrQ, m.isReq = true) ∧ (port x p).inQ = [] ∧
      od x (ptIdx p) 1 = 3 ∧ Counted s.dev x (ptIdx p) 9 1)) ∧
    ((port s.dev p).linkUp = false → Completes (.framingViolation p) s (fun d' => d' = s.dev)) ∧
    ((port s.dev p).framing = true → s.dev.tele.vdd = true → Completes (.framingRestore p) s (fun d' => ∃ x,
      d' = settle (pump p x) ∧ od x (ptIdx p) 1 = 1 ∧
      port x p = { port s.dev p with linkUp := true, framing := false, iCr := ⟨8, 16, 32, 8⟩ } ∧
      SameBut s.dev x (fun d => { d with ports := x.ports }) [ek (ptIdx p) 1])) ∧
    ((port s.dev p).framing = false ∨ s.dev.tele.vdd = false → Completes (.framingRestore p) s (fun d' => d' = s.dev)) ∧
    ((port s.dev p).linkUp = true → (port s.dev p).minMet = false → (port s.dev p).under = false →
      Completes (.undercredit p) s (fun d' => od d' (ptIdx p) 1 = 2 ∧ (port d' p).under = true ∧
        Counted s.dev d' (ptIdx p) 0x0F 1 ∧ bit (od d' 0x2900 3) 0 = true ∧ ControlKept s.dev d')) ∧
    ((port s.dev p).linkUp = false ∨ (port s.dev p).minMet = true ∨ (port s.dev p).under = true →
      Completes (.undercredit p) s (fun d' => d' = s.dev))

/-- R148: a new sq_tail is taken on an ACTIVE ring when it lies in the ring and does not go back; else it is counted. -/
def tailTaken (r v : Nat) (d d' : Dev) : Prop :=
  let n := max 1 (sqSize d r)
  if ringState d r = 1 ∧ v < sqSize d r ∧ sqPending d r ≤ (v + n - od d (rgIdx r 1) 2) % n then
    od d' (rgIdx r 1) 3 = v ∧ ring d' r = { ring d r with failed := false } ∧ (∀ q, q ≠ r → ring d' q = ring d q) ∧
    SameBut d d' (fun x => { x with rings := d'.rings }) [ek (rgIdx r 1) 3]
  else Counted d d' (rgIdx r 2) 3 1 ∧ OnlyEntries d d' [ek (rgIdx r 2) 3]

/-- R145, R148: the same of a new cq_head, which passes no entry that was not posted; one that repeats the present value ends
no wait for space. -/
def headTaken (r v : Nat) (d d' : Dev) : Prop :=
  let n := max 1 (cqSize d r)
  let old := od d (rgIdx r 1) 5
  if ringState d r = 1 ∧ v < cqSize d r ∧ (v + n - old) % n ≤ (od d (rgIdx r 1) 4 + n - old) % n then
    od d' (rgIdx r 1) 5 = v ∧ ring d' r = { ring d r with cqWait := (ring d r).cqWait && v == old } ∧ (∀ q, q ≠ r → ring d' q = ring d q) ∧
    SameBut d d' (fun x => { x with rings := d'.rings }) [ek (rgIdx r 1) 5]
  else Counted d d' (rgIdx r 2) 3 1 ∧ OnlyEntries d d' [ek (rgIdx r 2) 3]

/-- A DB_SQ word: a v1 ring's also carries cq_head (R147). -/
def sqWordTaken (r : Nat) (v : BitVec 32) (d d' : Dev) : Prop :=
  if od d (rgIdx r 0) 2 = 1 then ∃ y, tailTaken r (v.toNat % 65536) d y ∧ headTaken r (v.toNat / 65536) y d'
  else tailTaken r (v.toNat % 65536) d d'

/-- The halves that a doorbell writes, its answer sent. -/
def dbTaken (p r txid : Nat) (sq cq : Option (BitVec 32)) (d d' : Dev) : Prop :=
  ∃ x y, Answers x p 0xA 0 txid ∧ AnswerFrame d x p [] ∧
    (match sq with
      | some v => sqWordTaken r v x y
      | none => y = x) ∧
    (match cq with
      | some w => headTaken r (w.toNat % 65536) y d'
      | none => d' = y)

/-- A doorbell's row: the halves it writes. -/
def dbRow (p r txid : Nat) (same : List SameDb) : Option (BitVec 32) → Option (BitVec 32) → Option Instr
  | some v, some w => some (.dbBoth p r v w ⟨txid, same⟩)
  | some v, none => some (.dbSq p r v ⟨txid, same⟩)
  | none, some w => some (.dbCq p r w ⟨txid, same⟩)
  | none, none => none

/-- R29, R60 to R63, R147 to R149: a ring's doorbell that its port takes is answered OK and its halves are checked, DB_SQ
first; while the slice that serves the ring is not ON it waits in the ingress queue; one for a ring that is not there is
answered DECODE and counted; of two that come in one cycle the one of the lower port is taken first. -/
def ringDoorbells : Prop :=
  ∀ (s : State) (p r txid : Nat) (sq cq : Option (BitVec 32)),
    (∀ c, dbRow p r txid [] sq cq = some c →
      heldOrRefused p .msg c s ∧
      (r < s.dev.cfg.rings → r < 256 → PortTakes s.dev p .msg → dbWaits r s.dev = false →
        Completes c s (dbTaken p r txid sq cq (creditPulse p .msg 1 s.dev))) ∧
      (r < s.dev.cfg.rings → r < 256 → PortTakes s.dev p .msg → dbWaits r s.dev = true → Completes c s (fun d' =>
        (port d' p).inQ = [c] ∧ (port d' p).iCr.msg = (port s.dev p).iCr.msg - 1 ∧
        SameBut s.dev d' (fun d => { d with ports := d'.ports }) [ek (ptIdx p) 6])) ∧
      (s.dev.cfg.rings ≤ r → PortTakes s.dev p .msg → Completes c s (fun d' =>
        let d := creditPulse p .msg 1 s.dev
        Answers d' p 0xA 2 txid ∧ Counted d d' (ptIdx p) 0x0A 1 ∧ AnswerFrame d d' p [ek (ptIdx p) 0x0A]))) ∧
    (∀ q tq sq2 cq2 a b one two, p < q →
      dbRow p r txid [] sq cq = some a → dbRow q r tq [] sq2 cq2 = some b →
      dbRow q r tq [⟨p, txid, sq, cq⟩] sq2 cq2 = some one → dbRow p r txid [⟨q, tq, sq2, cq2⟩] sq cq = some two →
      ∃ t u, exec a s = .next t ∧ exec b t = .next u ∧ exec one s = .next u ∧ exec two s = .next u)

/-- R144, R150, R152, R156, R189, R601: a fetch READ asks for as many entries as the burst, the tags, the page and the ring
let it; a starved ring is marked; fetched entries pass in order and sq_head passes them, an entry that fails a check
completes with its status. -/
def ringFetches : Prop :=
  ∀ (s : State) (p r : Nat),
    (p < s.dev.cfg.ports → mayFetch s.dev = true → freeTags s.dev ≠ 0 → pickRing s.dev p = some r →
      let at_ := od s.dev (rgIdx r 0) 4 + od s.dev (rgIdx r 1) 2 * sqEntBytes s.dev r
      let n := min (min (min (od s.dev (rgIdx r 0) 9) (sqPending s.dev r)) (freeTags s.dev))
        (min ((4096 - at_ % 4096) / sqEntBytes s.dev r) (sqSize s.dev r - od s.dev (rgIdx r 1) 2))
      Completes (.sqFetch p) s (fun d' =>
        if n = 0 then d' = s.dev
        else ∃ x, d' = postRead p at_ (n * sqEntBytes s.dev r) (.sq r) x ∧
          ring x r = { ring s.dev r with fetching := n, starved := false, fetched := [] } ∧
          (∀ q, q ≠ r → ring x q = ring s.dev q) ∧
          tabGet 0 x.rrRing (rrKey p (od s.dev (rgIdx r 0) 8)) = r + 1 ∧
          (∀ k, k ≠ rrKey p (od s.dev (rgIdx r 0) 8) → tabGet 0 x.rrRing k = tabGet 0 s.dev.rrRing k) ∧
          x = { s.dev with rings := x.rings, rrRing := x.rrRing })) ∧
    ((s.dev.cfg.ports ≤ p ∨ mayFetch s.dev = false ∨ freeTags s.dev = 0 ∨ pickRing s.dev p = none) →
      Completes (.sqFetch p) s (fun d' => d' = s.dev)) ∧
    (r < s.dev.cfg.rings → fetchable s.dev (od s.dev (rgIdx r 0) 3) r = true → Completes (.fetchStarvation r) s (fun d' =>
      ring d' r = { ring s.dev r with starved := true } ∧ d' = { s.dev with rings := d'.rings })) ∧
    (r < s.dev.cfg.rings → r < 256 →
      ((ring s.dev r).fetched = [] → Completes (.sqFetchComplete r) s (fun d' => d' = s.dev)) ∧
      ((ring s.dev r).fetched ≠ [] → (ring s.dev r).discard = true ∨ ringState s.dev r ≠ 1 →
        Completes (.sqFetchComplete r) s (fun d' =>
          ring d' r = { ring s.dev r with fetching := 0, fetched := [], discard := false } ∧
          d' = { s.dev with rings := d'.rings })) ∧
      ((ring s.dev r).fetched ≠ [] → (ring s.dev r).discard = false → ringState s.dev r = 1 →
        od s.dev 0x2100 8 = 2 → s.dev.clasp.flush = none → Completes (.sqFetchComplete r) s (fun d' => ∃ x,
          d' = (ring s.dev r).fetched.foldl (fun y b => passCmd r b y) x ∧
          od x (rgIdx r 1) 2 =
            (od s.dev (rgIdx r 1) 2 + (ring s.dev r).fetched.length) % max 1 (sqSize s.dev r) % 65536 ∧
          ring x r = { ring s.dev r with fetching := 0, fetched := [] } ∧
          SameBut s.dev x (fun d => { d with rings := x.rings }) [ek (rgIdx r 1) 2])) ∧
      (∀ b, (ring s.dev r).fetched = [b] → (ring s.dev r).discard = false → ringState s.dev r = 1 →
        od s.dev 0x2100 8 = 2 → s.dev.clasp.flush = none → cmd? s.dev (lowTag s.dev) = none →
        let c := if od s.dev (rgIdx r 0) 2 = 1 then { parseV1 r (s.dev.fetchNo + 1) b with wild := reservedV1 b }
          else { parseV2 r (s.dev.fetchNo + 1) b with wild := reservedV2 b }
        Completes (.sqFetchComplete r) s (fun d' => d'.fetchNo = s.dev.fetchNo + 1 ∧
          (∀ st, checkCmd s.dev c = some st →
            (cmd? d' (lowTag s.dev)).map (fun x => (x.cid, x.st, x.fails)) = some (c.cid, .met, [st])) ∧
          (checkCmd s.dev c = none → c.cgrp = 0 → c.opc ≠ 5 → cmd? d' (lowTag s.dev) = some c) ∧
          (∀ g, checkCmd s.dev c = none → c.opc = 5 → openGroup s.dev r c.cgrp = some g →
            cmd? d' (lowTag s.dev) = some { c with grp := some g.id, result := g.members }))))

/-- R29, R60 to R63, R144 to R153, R156, R158, R166, R189, R191, R601: a ring's doorbells, and the fetches of its entries. (The model's choices: log 30.) -/
def Obligations.RingDoorbellsAndFetches : Prop := ringDoorbells ∧ ringFetches

/-- R11, R145, R182 to R187, R189: the completion whose condition was met first on its ring is written unless the CQ is full,
which is counted once; cq_tail passes it and the phase turns at the end of the CQ; its doorbell follows once its write
has departed or landed; of an unpredictable command only what it reports is free; ring_enable starts a ring, or drains it, and the last completion ends the drain.
(The model's choices: log 48.) -/
def Obligations.RingCompletions : Prop :=
  ∀ (s : State),
    (∀ tag c, cmd? s.dev tag = some c → c.ring < s.dev.cfg.rings → c.ring < 256 →
      let r := c.ring
      let tail := od s.dev (rgIdx r 1) 4
      let n := max 1 (cqSize s.dev r)
      (nextPost s.dev r ≠ some tag → Completes (.completionPost tag) s (fun d' => d' = s.dev)) ∧
      (nextPost s.dev r = some tag → (tail + 1) % n = od s.dev (rgIdx r 1) 5 → Completes (.completionPost tag) s (fun d' =>
        (ring d' r).cqWait = true ∧ d'.cmds = s.dev.cmds ∧
        ((ring s.dev r).cqWait = false → Counted s.dev d' (rgIdx r 2) 4 1) ∧
        ((ring s.dev r).cqWait = true → d' = s.dev))) ∧
      (nextPost s.dev r = some tag → (tail + 1) % n ≠ od s.dev (rgIdx r 1) 5 → Completes (.completionPost tag) s (fun d' =>
        let q := report c s.dev
        let e := cqEntry s.dev c q.1
        ∃ x, d' = pruneVers (postWrite (od s.dev (rgIdx r 0) 3) (od s.dev (rgIdx r 0) 5 + tail * e.length) e []
            (.cq r c.cid (ring s.dev r).posted) x) ∧
          (c.wild = false → q = ({ status := c.status, v1 := v1Code c.status, result := c.qw1, xinfo := xinfo c }, s.dev)) ∧
          cmd? x tag = none ∧ (∀ k, k ≠ tag → cmd? x k = cmd? s.dev k) ∧ od x (rgIdx r 1) 4 = (tail + 1) % n % 65536 ∧
          ((tail + 1) % n = 0 → od x (rgIdx r 1) 6 = (1 - od s.dev (rgIdx r 1) 6) % 256) ∧
          ((tail + 1) % n ≠ 0 → od x (rgIdx r 1) 6 = od s.dev (rgIdx r 1) 6) ∧ Counted s.dev x (rgIdx r 2) 1 1 ∧
          (ring x r).cseq = ((ring s.dev r).cseq + 1) % 65536 ∧
          (q.1.status ≠ 0 → Counted s.dev x (rgIdx r 2) 2 1)))) ∧
    (∀ tag, cmd? s.dev tag = none → Completes (.completionPost tag) s (fun d' => d' = s.dev)) ∧
    (∀ r, let f := fun (b : RBell) => if od s.dev (rgIdx r 0) 0x0B = 1 then b.departed else b.landed
      ((ring s.dev r).bells.find? f = none → Completes (.completionBell r) s (fun d' => d' = s.dev)) ∧
      (∀ b, (ring s.dev r).bells.find? f = some b → Completes (.completionBell r) s (fun d' =>
        d'.dbq = s.dev.dbq ++ (if b.src < 1024 then [.unit b.src] else []) ∧
        ring d' r = { ring s.dev r with bells := (ring s.dev r).bells.filter (fun y => y.no ≠ b.no) } ∧
        (b.src < 1024 → d'.net = (send (.port (od s.dev (rgIdx r 0) 3)) .bell .msg 1 s.dev).net) ∧
        (1024 ≤ b.src → d'.net = s.dev.net) ∧
        d' = { s.dev with rings := d'.rings, dbq := d'.dbq, net := d'.net }))) ∧
    (∀ m r v, r < s.dev.cfg.rings → r < 256 → Accepted s.dev m (rgIdx r 0) 1 v → WriteDoes (.ringEnable m r v) s m (fun d0 d1 =>
      (v = 1 → ringState d0 r = 0 → ringState d1 r = 1 ∧ (∀ i ∈ [2, 3, 4, 5], od d1 (rgIdx r 1) i = 0) ∧
        od d1 (rgIdx r 1) 6 = 1 ∧ (ring d1 r).cseq = 0 ∧ (ring d1 r).fetched = [] ∧
        (ring d1 r).discard = decide (0 < (ring d1 r).fetching)) ∧
      (v = 0 → ringState d0 r = 1 → ∃ x, d1 = abortRing r x ∧ ringState x r = 2 ∧ od x (rgIdx r 0) 1 = 0 ∧
        (ring x r).discard = decide (0 < (ring d0 r).fetching)) ∧
      (v = 1 ∧ ringState d0 r ≠ 0 ∨ v = 0 ∧ ringState d0 r ≠ 1 →
        od d1 (rgIdx r 0) 1 = v ∧ OnlyEntries d0 d1 [ek (rgIdx r 0) 1]))) ∧
    (∀ r, r < s.dev.cfg.rings → r < 256 → ringState s.dev r = 2 → inflight s.dev r = 0 → Completes (.ringDrained r) s (fun d' =>
      d'.groups = s.dev.groups.filter (fun g => g.ring != r) ∧
      if od s.dev (rgIdx r 0) 1 = 1 then ringState d' r = 1 ∧ (∀ i ∈ [2, 3, 4, 5], od d' (rgIdx r 1) i = 0)
      else ringState d' r = 0 ∧ SameBut s.dev d' (fun d => { d with groups := d'.groups }) [ek (rgIdx r 1) 1])) ∧
    (∀ r, (s.dev.cfg.rings ≤ r ∨ ringState s.dev r ≠ 2 ∨ inflight s.dev r ≠ 0) → Completes (.ringDrained r) s (fun d' => d' = s.dev))

/-! ### Ring commands and Lantern -/

/-- The ring commands by their rows, with their opcodes (R157). -/
def cmdRow (tag : Nat) : Nat → Option Instr
  | 1 => some (.write tag)
  | 2 => some (.read tag)
  | 3 => some (.trim tag)
  | 4 => some (.flush tag)
  | 5 => some (.commit tag)
  | 6 => some (.copy tag)
  | 7 => some (.scan tag)
  | 8 => some (.hash tag)
  | 9 => some (.destageView tag)
  | 15 => some (.raw tag)
  | _ => none

/-- A command has started: it is under way with what its start gave it, and nothing else has changed. -/
def startedAs (tag : Nat) (c : Cmd) (d x : Dev) : Prop := cmd? x tag = some { c with st := .running } ∧ x = { d with cmds := x.cmds }

/-- R156, R168, R181, R239, R428: a command does not start while it may not; one that failed already completes with no
effect. -/
def commandsStartOnce : Prop :=
  ∀ (s : State) (tag op : Nat) (row : Instr), cmdRow tag op = some row →
    (cmd? s.dev tag = none → Completes row s (fun d' => d' = s.dev)) ∧
    (∀ c, cmd? s.dev tag = some c →
      (c.opc ≠ op ∨ canStart s.dev c = false → Completes row s (fun d' => d' = s.dev)) ∧
      (c.opc = op → canStart s.dev c = true → c.fails ≠ [] →
        (op = 9 → mapBehind s.dev c.no c.slba (if bits c.q5 0 40 = 0 then s.dev.lan.cap else c.slba + bits c.q5 0 40) = false) →
        Completes row s (fun d' => ∃ x, startedAs tag c s.dev x ∧ d' = cmdCheck tag x)))

/-- R159 to R163, R166, R167, R169 to R174: what each command begins with: a WRITE or COPY its destination granules, a READ
a read for each granule, a COPY whose ranges overlap being unpredictable, TRIM its trims, FLUSH and COMMIT their waits, SCAN and HASH their first extent, DESTAGE-VIEW its
records. -/
def commandsBegin : Prop :=
  ∀ (s : State) (tag : Nat) (c : Cmd), cmd? s.dev tag = some c → canStart s.dev c = true → c.fails = [] →
    (∀ row, (c.opc = 1 ∧ row = .write tag ∨ c.opc = 6 ∧ row = .copy tag) →
      let gs := granRange s.dev (writeRange c).1 c.nsec
      Completes row s (fun d' => cmd? d' tag = some { c with
          st := .running, left := gs.length, wild := c.wild || (c.opc == 6 && copyOverlaps c) } ∧ ControlKept s.dev d' ∧
        d'.lan.wjobs.length = s.dev.lan.wjobs.length + gs.length ∧
        (d'.lan.wjobs.drop s.dev.lan.wjobs.length).map (fun w => (w.tag, w.no, w.gran, w.first, w.nsec)) =
          gs.map (fun g => (some tag, c.no, g.idx, g.first, g.nsec)) ∧
        (∀ w ∈ d'.lan.wjobs.drop s.dev.lan.wjobs.length, w.host = if c.opc = 1 then w.mask else 0))) ∧
    (c.opc = 2 → let gs := granRange s.dev c.slba c.nsec
      Completes (.read tag) s (fun d' => cmd? d' tag = some { c with st := .running, left := gs.length } ∧
        (d'.lan.rjobs.drop s.dev.lan.rjobs.length).map (fun r => (r.own, r.no, r.gran)) =
          gs.map (fun g => (ROwn.cmd tag, c.no, g.idx)) ∧
        (d'.lan.rjobs.drop s.dev.lan.rjobs.length).map (fun r => r.secs) =
          gs.map (fun g => granSecs g c.slba (c.slba + c.nsec)))) ∧
    (c.opc = 3 → Completes (.trim tag) s (fun d' => ∃ x, d' = trimGo tag x ∧
        cmd? x tag = some { c with st := .running, left := 1 } ∧ x = { s.dev with cmds := x.cmds }) ∧
      ∀ g, entryLost s.dev g.idx = false → tabGet 0 s.dev.lan.verNo g.idx ≤ c.no →
        mapE (trimGran tag c g s.dev) g.idx = mkTrim ((eGen (mapE s.dev g.idx) + 1) % 256)) ∧
    (c.opc = 4 → Completes (.flush tag) s (fun d' => ∃ x, startedAs tag c s.dev x ∧
      d' = feedBands (padUrgent (cmdCheck tag x)))) ∧
    (c.opc = 5 → Completes (.commit tag) s (fun d' => ∃ x, startedAs tag c s.dev x ∧
      match c.grp.bind (group? s.dev) with
      | none => d' = cmdCheck tag x
      | some g =>
        if g.aborted = true then d' = cmdCheck tag (cmdFail tag 0x0201 x)
        else if bits c.q4 0 16 ≠ 0 ∧ bits c.q4 0 16 ≠ g.members then
          d' = cmdCheck tag (cmdFail tag 0x0201 (abortGroup g.id 0x0201 x))
        else d' = feedBands (padUrgent (cmdCheck tag x)))) ∧
    (c.opc = 7 → Completes (.scan tag) s (fun d' => ∃ x, d' = nextGran tag x ∧ x = { s.dev with cmds := x.cmds } ∧
      cmd? x tag = some { c with st := .running, cur := c.slba, fin := false })) ∧
    (c.opc = 8 → Completes (.hash tag) s (fun d' => ∃ x, d' = nextGran tag x ∧ x = { s.dev with cmds := x.cmds } ∧
      cmd? x tag = some { c with
        st := .running, cur := c.slba, fin := false, result := cdiv c.nsec (bits c.q4 16 16 + 1) })) ∧
    (c.opc = 9 → let span := bits c.q5 0 40
      let last := if span = 0 then s.dev.lan.cap else min s.dev.lan.cap (c.slba + span)
      let runs := (destRuns s.dev c.no (bits c.q4 0 12) (bits c.q4 16 24) (last - c.slba) c.slba []).reverse
      let k := c.dlen / 16
      (mapBehind s.dev c.no c.slba (if span = 0 then s.dev.lan.cap else c.slba + span) = true →
        Completes (.destageView tag) s (fun d' => d' = s.dev)) ∧
      (mapBehind s.dev c.no c.slba (if span = 0 then s.dev.lan.cap else c.slba + span) = false →
        Completes (.destageView tag) s (fun d' => ∃ x, d' = cmdCheck tag x ∧ x = { s.dev with cmds := x.cmds } ∧
          (cmd? x tag).map (·.result) = some (min k runs.length + fld (b2n (decide (k < runs.length))) 32 1) ∧
          (cmd? x tag).map (·.left) = some 0)))

/-- R156 to R176, R181, R239, R428: what each command does when it starts, and that none starts twice.
(The model's choices: log 26, 29, 31, 73.) -/
def Obligations.CommandsBeginOnce : Prop := commandsStartOnce ∧ commandsBegin

/-- R434 to R436, R583: map_init leaves Lantern and Clasp in SERVICE with an empty map, and a checkpoint is due; a replay
of media without a checkpoint, or with one of another configuration, fails with its cause, and one that ends leaves both
in SERVICE too. (The model's choices: log 25.) -/
def Obligations.MediaStart : Prop :=
  ∀ (s : State) (m : Nat) (media : Media),
    (∀ a, od s.dev 0x2404 1 ≠ 1 →
      (od s.dev 0x2100 8 = 1 ∧ a = s.dev ∨
        od s.dev 0x2100 8 ≠ 1 ∧ Accepted s.dev m 0x2100 7 1 ∧ a = rowNum m none 0x2100 7 1 s.dev) →
      od a 0x2100 8 = 1 ∧ Completes (.mapInit m 1 media) s (fun d' => ∃ x, d' = claspFeed x ∧
        od x 0x2100 8 = 2 ∧ od x 0x2400 1 = 2 ∧ od x 0x2100 6 = 0 ∧ x.lan.map = [] ∧ x.lan.bands = [] ∧
        x.lan.cap = od a 0x2100 1 ∧ x.clasp.ckptTrig = true)) ∧
    (∀ a, (od s.dev 0x2404 1 = 1 ∧ a = s.dev ∨
        od s.dev 0x2404 1 ≠ 1 ∧ Accepted s.dev m 0x2404 9 1 ∧ a = rowNum m none 0x2404 9 1 s.dev) →
      od a 0x2404 1 = 1 ∧
      (bestCkpt media.ckpts = none → Completes (.replayGo m 1 media) s (fun d' =>
        od d' 0x2404 1 = 8 ∧ od d' 0x2404 2 = 1 ∧ od d' 0x2400 1 = 0 ∧ bit (od d' 0x2900 3) 9 = true ∧ d'.lan = a.lan)) ∧
      (∀ c, bestCkpt media.ckpts = some c →
        let x := put 0x2404 8 media.millis (cnt 0x2403 0x0F a)
        (ckptFits c x = false → Completes (.replayGo m 1 media) s (fun d' =>
          od d' 0x2404 1 = 8 ∧ od d' 0x2404 2 = 2 ∧ od d' 0x2400 1 = 0 ∧ bit (od d' 0x2900 3) 9 = true ∧ d'.lan = a.lan)) ∧
        (ckptFits c x = true → Completes (.replayGo m 1 media) s (fun d' => ∃ y, d' = claspFeed y ∧
          od y 0x2100 8 = 2 ∧ od y 0x2400 1 = 2 ∧ od y 0x2100 6 = 0))))

/-- R220 to R222, R225, R227: a granule that waits for a place takes one, or waits, or with nothing to reclaim fails NO_SPACE,
counted, a relocation's only within its share of the window; a part granule is merged with its other sectors, read once; a row or slot that waited too long is padded.
(The model's choices: log 27, 28, 33, 41.) -/
def Obligations.Placement : Prop :=
  ∀ (s : State) (id : Nat),
    (wjob s.dev id = none → Completes (.placeWrite id) s (fun d' => d' = s.dev) ∧
      Completes (.merge id) s (fun d' => d' = s.dev) ∧ Completes (.spaceWaitTimeout id) s (fun d' => d' = s.dev)) ∧
    (∀ w, wjob s.dev id = some w →
      (wantsPlace w = false ∨ s.dev.clasp.flush.isSome ∨ od s.dev 0x2100 8 ∉ [2, 3] →
        Completes (.placeWrite id) s (fun d' => d' = s.dev)) ∧
      (wantsPlace w = true → s.dev.clasp.flush = none → od s.dev 0x2100 8 ∈ [2, 3] →
        (jobAborted s.dev w = true → Completes (.placeWrite id) s (fun d' => d' = killJob w s.dev)) ∧
        (jobAborted s.dev w = false → w.reloc.isSome → relMay s.dev w = false →
          Completes (.placeWrite id) s (fun d' => d' = s.dev)) ∧
        (jobAborted s.dev w = false → (w.reloc = none ∨ relMay s.dev w = true) →
          Completes (.placeWrite id) s (fun d' => ∃ y x, x = updWjob id (fun _ => y) s.dev ∧
          y = { w with key := y.key, life := y.life, temp := y.temp } ∧
          (∀ t c, w.tag = some t → cmd? s.dev t = some c → y.key = hintKey s.dev w.key.glog (hint s.dev c.ring c.stream)) ∧
          match tryPlace y x with
          | .wait z => d' = z
          | .noBand z =>
            (w.reloc.isSome → d' = z) ∧
            (w.reloc = none → z.lan.bands.any (fun b => b.st == .closed && hasInvalid z b) = true →
              d' = updWjob id (fun v => { v with spaceWait := true }) z) ∧
            (w.reloc = none → z.lan.bands.any (fun b => b.st == .closed && hasInvalid z b) = false → d' = noSpace y z)
          | .done z => ∃ u, d' = feedBands (padUrgent (countPlaced y u)) ∧
            (w.host ≠ 0 ∨ w.reloc.isSome ∨ w.given = true → u = z) ∧
            (w.host = 0 → w.reloc = none → w.given = false →
              u = copyReads id (updWjob id (fun v => { v with given := true }) z))))) ∧
      (wholeGran w = true ∨ w.merging = true ∨ w.reloc.isSome ∨ w.dead = true ∨ s.dev.clasp.flush.isSome →
        Completes (.merge id) s (fun d' => d' = s.dev)) ∧
      (wholeGran w = false → w.merging = false → w.reloc = none → w.dead = false → s.dev.clasp.flush = none →
        let seg := if eTrim (mapE s.dev w.gran) then 0 else segCh s.dev.cfg (dieCh (aDie (eAddr (mapE s.dev w.gran))))
        (reserveJob seg w s.dev = none → Completes (.merge id) s (fun d' => d' = s.dev)) ∧
        (∀ x, reserveJob seg w s.dev = some x → Completes (.merge id) s (fun d' =>
          Counted x d' 0x2108 0x0A 1 ∧ (wjob d' id).map (fun y => (y.merging, y.reads)) = some (true, 1) ∧
          (d'.lan.rjobs.drop x.lan.rjobs.length).map (fun r => (r.own, r.no, r.gran)) = [(ROwn.wjob id, w.no, w.gran)] ∧
          (d'.lan.rjobs.drop x.lan.rjobs.length).flatMap (fun r => r.secs.map (·.slot)) =
            (List.range w.nsec).filter (fun i => !bit w.mask i)))) ∧
      (w.spaceWait = true → ∀ t, w.tag = some t → Completes (.spaceWaitTimeout id) s (fun d' => ∃ x,
        d' = kickAll (killJob w x) ∧ Counted s.dev x 0x2108 0x0E 1 ∧ x.lan = s.dev.lan ∧
        (∀ c, cmd? s.dev t = some c → (cmd? x t).map (fun y => y.fails.contains 0x0302) = some true))) ∧
      (w.spaceWait = false → Completes (.spaceWaitTimeout id) s (fun d' => d' = s.dev))) ∧
    (∀ b bd r rw, band s.dev b = some bd → bd.rows.find? (fun x => x.row == r) = some rw →
      (rowUsed rw = true ∧ rw.par = .no → Completes (.rowTimeout b r) s (fun d' =>
        if rw.slots.all (fun m => m.used == fullMask s.dev) = true then d' = feedBands s.dev
        else ∃ x, d' = feedBands x ∧
          Counted ((List.range rw.slots.length).foldl (fun y j => padSlot b r j y) s.dev) x 0x2108 0x0D 1)) ∧
      (¬ (rowUsed rw = true ∧ rw.par = .no) → Completes (.rowTimeout b r) s (fun d' => d' = s.dev)) ∧
      (∀ j k, rw.slots[j]? = some k →
        (k.st = .filling ∧ k.uses ≠ [] ∧ k.used ≠ fullMask s.dev → Completes (.memberSlotTimeout b r j) s (fun d' =>
          Counted (padSlot b r j s.dev) d' 0x2108 0x0D 1 ∧ OnlyEntries (padSlot b r j s.dev) d' [ek 0x2108 0x0D])) ∧
        (¬ (k.st = .filling ∧ k.uses ≠ [] ∧ k.used ≠ fullMask s.dev) →
          Completes (.memberSlotTimeout b r j) s (fun d' => d' = s.dev))))

/-- R36, R215, R216, R490: a granule's read that has not been looked up. -/
def readLookedUp (id : Nat) (r : RJob) (s : State) : Prop :=
  let ln := mapLine r.gran
  (∀ l, line? s.dev ln = some l → l.lost = false → lineBad l [r.gran % 8] = none →
    (eTrim (readEntry s.dev r) = true ∨ unitsOf r.glog ≤ planes s.dev) →
    Completes (.placeRead id) s (fun d' => ∃ x, d' = kickAll (serveGran id x) ∧ Counted s.dev x 0x2108 1 1 ∧
      rjob x id = some { r with looked := true })) ∧
  (∀ l, line? s.dev ln = some l → l.lost = true → Completes (.placeRead id) s (fun d' => ∃ x,
    d' = kickAll (r.secs.foldl (fun y q => granSec id q.lsec 0x0301 y) x) ∧ x = { s.dev with net := x.net })) ∧
  (line? s.dev ln = none → 
    (mapcOn s.dev ln = false → Completes (.placeRead id) s (fun d' => ∃ x, d' = kickAll x ∧
      (dom x (mapcDom s.dev ln)).demand = true ∧ (∃ c, (ln, c) ∈ x.lan.want) ∧
      x.lan = { s.dev.lan with want := x.lan.want } ∧ ControlKept s.dev x)) ∧
    (mapcOn s.dev ln = true → s.dev.lan.misses.any (fun m => m.addr == ln) = false →
      s.dev.lan.wbs.any (fun w => w.1 == ln) = false → s.dev.lan.misses.length < missSlots s.dev.cfg →
      Completes (.placeRead id) s (fun d' => ∃ x m,
        d' = kickAll (postRead (od s.dev 0x2100 2) (od s.dev 0x2100 3 + 64 * ln) 64 (.mapRd m.slot) x) ∧
        x.lan.misses = s.dev.lan.misses ++ [m] ∧ m.addr = ln ∧ m.fails = 0 ∧ m.ans = none ∧
        m.uncached = (fillWays s.dev ln).isEmpty ∧
        (m.uncached = false → Counted s.dev x 0x2108 2 1) ∧ (m.uncached = true → Counted s.dev x 0x2109 5 1))))

/-- R216, R490 to R492: the answer of a map line's fill: it is put in the cache, or serves those that wait without it, or is
asked for once more, or the line is lost and the reads of its entries fail. -/
def fillAnswered (k : Nat) (m : Miss) (s : State) : Prop :=
  let free := s.dev.lan.misses.filter (fun y => y.slot ≠ k)
  (m.ans = none → Completes (.mapFillComplete k) s (fun d' => d' = kickAll s.dev)) ∧
  (m.ans = some true → m.uncached = false → Completes (.mapFillComplete k) s (fun d' => ∃ x,
    d' = kickAll (askWanted (gotLine m.addr (fillLine m.addr x))) ∧
    x = { s.dev with lan := { s.dev.lan with misses := free } })) ∧
  (m.ans = some true → m.uncached = true → Completes (.mapFillComplete k) s (fun d' => ∃ x, d' = kickAll (askWanted x) ∧
    (∀ r ∈ lineReaders s.dev m.addr, ∀ q ∈ x.lan.rjobs, q.id = r.id → q.looked = true) ∧
    (∀ w ∈ x.lan.want, w.1 ≠ m.addr) ∧ x.lan.lines = s.dev.lan.lines)) ∧
  (m.ans = some false → m.fails = 0 → Completes (.mapFillComplete k) s (fun d' => ∃ x,
    d' = kickAll (postRead (od s.dev 0x2100 2) (od s.dev 0x2100 3 + 64 * m.addr) 64 (.mapRd k) x) ∧
    x.lan.misses.find? (fun y => y.slot == k && !y.back) = some { m with fails := 1, ans := none } ∧
    x = { s.dev with lan := { s.dev.lan with misses := x.lan.misses } })) ∧
  (m.ans = some false → m.fails ≠ 0 → Completes (.mapFillComplete k) s (fun d' => ∃ x,
    d' = kickAll (askWanted (if m.addr * 64 < blkOff s.dev then
      (lineReaders x m.addr).foldl (fun y r => r.secs.foldl (fun z q => granSec r.id q.lsec 0x0301 z) y) x else x)) ∧
    (rdCntLine s.dev m.addr = false → x.clasp.ckpt = none ∧
      (m.uncached = false → ∀ l ∈ x.lan.lines, l.addr = m.addr → l.lost = true)) ∧
    (rdCntLine s.dev m.addr = true → ∀ c ∈ x.lan.rdCnt,
      rdLine s.dev (dieOfRank s.dev.cfg (c.1 / 65536)) (c.1 % 65536) ≠ m.addr)))

/-- R36, R199, R210, R215, R216, R223, R224, R490 to R492: a granule's read looks its map line up: it is served from a line that is
there, waits for one that is filled, and fails with one that is lost; a fill that failed is asked for once more. A
relocation begins with its victim's intent, and its switch changes an entry only if no command has changed it.
(The model's choices: log 18, 34, 40, 41.) -/
def Obligations.ReadsAndRelocations : Prop :=
  ∀ (s : State),
    (∀ id r t, rjob s.dev id = some r → r.own = .cmd t → r.st = .fresh → r.looked = false → readLookedUp id r s) ∧
    (∀ id, rjob s.dev id = none → Completes (.placeRead id) s (fun d' => d' = kickAll s.dev)) ∧
    (∀ k m, s.dev.lan.misses.find? (fun x => x.slot == k && !x.back) = some m → fillAnswered k m s) ∧
    (∀ k, s.dev.lan.misses.find? (fun x => x.slot == k && !x.back) = none →
      Completes (.mapFillComplete k) s (fun d' => d' = kickAll s.dev)) ∧
    (od s.dev 0x2100 8 ≠ 2 ∨ s.dev.clasp.flush.isSome ∨ s.dev.rst.kind.isSome ∨
        od s.dev 0x2104 9 ≤ s.dev.lan.relocs.length ∨ pickVictim s.dev = none →
      Completes .relocationStart s (fun d' => d' = s.dev)) ∧
    (∀ k b, od s.dev 0x2100 8 = 2 → s.dev.clasp.flush = none → s.dev.rst.kind = none →
      s.dev.lan.relocs.length < od s.dev 0x2104 9 → pickVictim s.dev = some (k, b) →
      Completes .relocationStart s (fun d' => d'.clasp.want = true ∧ ControlKept s.dev d' ∧
        (d'.lan.relocs.drop s.dev.lan.relocs.length).map (fun r => (r.band, r.kind, r.mem, r.step)) = [(b.id, k, 0, 0)] ∧
        (∀ x, band d' b.id = some x → x.st = .reloc) ∧ d'.lan.map = s.dev.lan.map)) ∧
    (∀ id, (∀ r, reloc? s.dev id = some r → r.step ≠ 3) → Completes (.relocSwitch id) s (fun d' => d' = s.dev)) ∧
    (∀ id r g c, reloc? s.dev id = some r → r.step = 3 → r.copies = [c] → jbufUsed s.dev < jbufCap s.dev →
      granIdx s.dev c.1 = some g → Completes (.relocSwitch id) s (fun d' => ∃ x, x.clasp.want = true ∧
        d' = (if r.mem + 1 < s.dev.lan.n then relocIntent id x else relocEnd id x) ∧
        let old := mapE s.dev c.1
        if eTrim old = false ∧ eGen old = eGen c.2.1 ∧ eAddr old = eAddr c.2.1 then
          mapE x c.1 = c.2.2.1 ∧ ∀ k, k ≠ c.1 → mapE x k = mapE s.dev k
        else x.lan.map = s.dev.lan.map))

/-! ### Recovery of reads -/

/-- R233, R272, R352, R358, R368, R369, R371, R376, R390, R393, R394: a codeword that waits goes to a decoder with room, read once hard or with its soft values;
the decoder takes its jobs one by one, and a result counts its job, its iterations and its bits; a converged one goes
inline, where the payload's checksum and sector are checked; else the read goes on up the ladder.
(The model's choices: log 13, 37, 42.) -/
def Obligations.Decoding : Prop :=
  ∀ (s : State),
    (∀ ch cw, (chan s.dev ch).raw.find? (fun c => c.id == cw && c.st == .wait) = none →
      Completes (.decoderDispatch ch cw) s (fun d' => d' = s.dev)) ∧
    (∀ ch cw c r, (chan s.dev ch).raw.find? (fun x => x.id == cw && x.st == .wait) = some c → rjob s.dev c.rid = some r →
      let dst := ((r.secs.find? (fun x => x.slot == c.slot)).map (·.dst)).getD 0
      let seed := if r.own = .raw ∧ (s.dev.rawp.req.map (·.norand)).getD false then 0
        else codeSeed (cwAddr r c.slot) (rndKey s.dev (aDie r.addr) (aBlock r.addr))
      let code := codeOf s.dev ch r.slc (inSystem s.dev (aDie r.addr) (aBlock r.addr))
      let pick := pickDecoder s.dev ch (dst / 524288) (decide (3 ≤ c.step))
      (pick = none → Completes (.decoderDispatch ch cw) s (fun d' => d' = s.dev)) ∧
      (∀ k, pick = some k → Completes (.decoderDispatch ch cw) s (fun d' => ∃ j, (dec d' k).jobs = (dec s.dev k).jobs ++ [j] ∧
        j.ch = ch ∧ j.cw = cw ∧ j.mode = (cwMode c).1 ∧ j.started = false ∧
        (c.step < 3 → j.data = randomise seed (c.data.take (codeLen code)) ∧ j.soft = []) ∧
        (3 ≤ c.step → j.data = [] ∧ j.soft = softVals c seed) ∧
        (chan d' ch).raw = updWhere (fun y => y.id == cw) (fun y => { y with st := .sent }) (chan s.dev ch).raw ∧
        (∀ i, i ≠ k → dec d' i = dec s.dev i) ∧ (∀ i, i ≠ ch → chan d' i = chan s.dev i)))) ∧
    (∀ k j t, (dec s.dev k).jobs = j :: t → (dec s.dev k).jobs.any (·.started) = false → Completes (.decodeJob k) s (fun d' =>
      (dec d' k).jobs = { j with started := true, t0 := s.dev.up } :: t ∧ d' = { s.dev with decs := d'.decs })) ∧
    (∀ k, (dec s.dev k).jobs.any (·.started) = true → Completes (.decodeJob k) s (fun d' => d' = s.dev)) ∧
    (∀ k res, ((dec s.dev k).jobs.head?.map (·.started)).getD false = false →
      Completes (.decodeResult k res) s (fun d' => d' = kickAll s.dev)) ∧
    (∀ k res j t, k < 256 → (dec s.dev k).jobs = j :: t → j.started = true → j.mode ≤ 2 → Completes (.decodeResult k res) s (fun d' =>
      ∃ x, (dec x k).jobs = t ∧ Counted s.dev x (0x7001 + 8 * k) (j.mode + 1) 1 ∧
        (res.converged = false → Counted s.dev x (0x7001 + 8 * k) 4 1) ∧
        (0 < res.iters → Counted s.dev x (0x7001 + 8 * k) 5 res.iters) ∧
        (res.converged = true → 0 < res.n01 → Counted s.dev x (0x7001 + 8 * k) 7 (satTo res.n01 4095)) ∧
        (let n := send (.dec k) (.cu j.ch) .rsp 1 s.dev
         x.net = if res.converged = true then (send (.dec k) (.cu j.eng) .data 129 n).net else n.net) ∧
        x = { s.dev with od := x.od, sat := x.sat, decs := x.decs, net := x.net } ∧
        match (chan s.dev j.ch).raw.find? (fun c => c.id == j.cw) with
        | none => d' = kickAll x
        | some c => ∃ y, (2 < c.step → y = x) ∧ OnlyChan x y j.ch ∧
          (chan y j.ch).inl = (chan x j.ch).inl ∧
          (res.converged = false → d' = kickAll (ladderFail j.ch j.cw y)) ∧
          (res.converged = true → ∃ z, d' = kickAll z ∧ OnlyChan y z j.eng ∧
            (chan z j.eng).inl.drop (chan y j.eng).inl.length =
              [{ cw := j.cw, src := j.ch, payload := fit 4128 res.payload, n01 := satTo res.n01 4095,
                 n10 := satTo res.n10 4095, synd := satTo res.synd 511 }]))) ∧
    (∀ ch cw, (chan s.dev ch).inl.find? (fun x => x.cw == cw) = none →
      Completes (.inlineCheck ch cw) s (fun d' => d' = kickAll s.dev)) ∧
    (∀ ch cw q c r, (chan s.dev ch).inl.find? (fun x => x.cw == cw) = some q →
      (chan s.dev q.src).raw.find? (fun x => x.id == cw) = some c → rjob s.dev c.rid = some r →
      let want := ((r.secs.find? (fun x => x.slot == c.slot)).map (·.lsec)).getD noSec
      let named := (match r.own with
        | .part _ => true
        | _ => false)
      let bad := r.parity = false ∧ payCrcOk q.payload = false
      (bad → Completes (.inlineCheck ch cw) s (fun d' => ∃ x, d' = kickAll (ladderFail q.src cw x) ∧
        Counted s.dev x 0x2200 2 1 ∧ SameBut s.dev x (fun d => { d with chans := x.chans }) [ek 0x2200 2])) ∧
      (¬ bad → named = true → payLsec q.payload ≠ want → Completes (.inlineCheck ch cw) s (fun d' => ∃ x,
        d' = kickAll (kick q.src (feedBands (ladder5 c.rid (reread c.rid (leafBad c.rid c.slot 1 0x0301 x))))) ∧
        Counted s.dev x 0x2200 3 1)) ∧
      (¬ bad → (named = false ∨ payLsec q.payload = want) → Completes (.inlineCheck ch cw) s (fun d' => ∃ x,
        d' = kickAll (kick q.src (feedBands (ladder5 c.rid (reread c.rid (leafOk c.rid c.slot q.payload x)))))))) ∧
    (s.dev.lan.lmq = [] → Completes .lmUpdate s (fun d' => d' = s.dev)) ∧
    (∀ u t, s.dev.lan.lmq = u :: t → cellsRead s.dev = true → Completes .lmUpdate s (fun d' => d'.lan.lmq = t ∧
      Counted s.dev d' 0x2303 9 1 ∧ (∀ g, getB d' 0x2304 g = getB s.dev 0x2304 g) ∧ ControlKept s.dev d')) ∧
    (∀ u t, s.dev.lan.lmq = u :: t → cellsRead s.dev = false → Completes .lmUpdate s (fun d' => d'.lan.lmq = t ∧ Counted s.dev d' 0x2303 8 1 ∧
      getB d' 0x2304 (u.grp + 1) = patchBytes (getB s.dev 0x2304 (u.grp + 1)) (16 * u.cell)
        (leBytes 16 (learnCell s.dev u (cellWord s.dev u.grp u.cell))) ∧ ControlKept s.dev d'))

/-! ### Dies, temperatures and timing -/

/-- R253, R256, R258, R260, R265, R546, R547: what ends a wait of a die or a channel, each of which lets the channel choose
again: a status poll or a rising R/B line makes a status read due, a suspend's gap, hold or limit, the throttle's
spacing and duty, and a held program's longest wait; a burst that ends
gives the bus free, and its effect is taken; a training's ends with its result.
(The model's choices: log 3, 8, 52.) -/
def Obligations.DieWaits : Prop :=
  ∀ (s : State) (ch k n : Nat), ch < s.dev.cfg.channels → k < diesPerCh s.dev.cfg → n = dieAt s.dev.cfg ch k →
    let moves := fun (c : Instr) (y : Die) => Completes c s (fun d' => ∃ x, d' = kick ch x ∧ die x n = y ∧ OnlyDie s.dev x n)
    let none' := fun (c : Instr) => Completes c s (fun d' => d' = s.dev)
    let x := die s.dev n
    (dieBusy x = true → polled s.dev n = true → moves (.statusPoll ch k) { x with statusDue := true }) ∧
    (dieBusy x = false ∨ polled s.dev n = false → none' (.statusPoll ch k)) ∧
    (x.st = .erase → moves (.suspendGapElapsed ch k) { x with gapOk := true }) ∧
    (x.st ≠ .erase → none' (.suspendGapElapsed ch k)) ∧
    (x.st = .suspended → moves (.suspendHoldExpired ch k) { x with holdExp := true }) ∧
    (x.st ≠ .suspended → none' (.suspendHoldExpired ch k)) ∧
    (x.st = .suspending → Completes (.suspendTimeout ch k) s (fun d' => ∃ y, d' = kick ch y ∧ Counted s.dev y (chIdx ch 4) 4 1 ∧
      die y n = { x with
        st := .erase, start := x.suspAt, cur := x.prev, prev := none, resumeDue := true, suspReq := false,
        timeouts := x.timeouts + 1, lastOp := 2 } ∧ (∀ j, j ≠ n → die y j = die s.dev j))) ∧
    (x.st ≠ .suspending → none' (.suspendTimeout ch k)) ∧
    (∀ e, (chan s.dev ch).idTgts = [] → x.outLeft = [] → x.st = .read → x.cur.bind (entOf x) = some e → Completes (.dieOpTimeout ch k) s (fun d' =>
      ∃ y z, d' = kickAll (afterBurst (readExpired n e z)) ∧ z = endMulti n y ∧ Counted s.dev y (chIdx (dieCh n) 4) 4 1 ∧
        (die y n).st = .reset ∧ (die y n).timeouts = x.timeouts + 1 ∧ (∀ j, j ≠ n → die y j = die s.dev j))) ∧
    ((chan s.dev ch).idTgts ≠ [] ∨ x.outLeft ≠ [] ∨ x.st = .failed ∨ x.st = .off → none' (.dieOpTimeout ch k)) ∧
    (∀ t, t < s.dev.cfg.targets → od s.dev (chIdx ch 0) 4 = 0 → Completes (.rbRise ch t) s (fun d' => ∃ y, d' = kick ch y ∧
      (∀ l, l < s.dev.cfg.luns → die y (dieNo ch t l) =
        if dieBusy (die s.dev (dieNo ch t l)) = true then { die s.dev (dieNo ch t l) with statusDue := true, rbHigh := true }
        else die s.dev (dieNo ch t l)) ∧ y = { s.dev with dies := y.dies })) ∧
    (∀ t, od s.dev (chIdx ch 0) 4 ≠ 0 → none' (.rbRise ch t)) ∧
    (dieInCfg s.dev.cfg n = true → dieLevel s.dev n = 4 → Completes (.throttleSpacing n) s (fun d' => ∃ y,
      d' = kick (dieCh n) y ∧ die y n = { x with released := true } ∧ OnlyDie s.dev y n)) ∧
    (dieLevel s.dev n ≠ 4 → none' (.throttleSpacing n)) ∧
    (dieInCfg s.dev.cfg n = true → dieLevel s.dev n = 0 → od s.dev 0x2803 3 = 0 →
      x.q.any (fun e => e.op == 1 && thermalHold s.dev n e) = true → Completes (.coldDeferExpiry n) s (fun d' => ∃ y,
        d' = kick (dieCh n) y ∧ die y n = { x with released := true } ∧ Counted s.dev y 0x2807 5 1)) ∧
    (dieLevel s.dev n ≠ 0 → none' (.coldDeferExpiry n)) ∧
    Completes (.cuThrottleDuty ch) s (fun d' => ∃ y, d' = kick ch y ∧
      chan y ch = { chan s.dev ch with duty := false } ∧ OnlyChan s.dev y ch) ∧
    (∀ r, (chan s.dev ch).bus = none → none' (.busBurstEnd ch r)) ∧
    (∀ r k', (chan s.dev ch).bus = some (.train k') → (seq s.dev ch).badStart = false → none' (.busBurstEnd ch r)) ∧
    (∀ r b, (chan s.dev ch).bus = some b → (∀ k', b ≠ .train k') → (seq s.dev ch).badStart = false → Completes (.busBurstEnd ch r) s (fun d' => ∃ y,
      d' = kickAll (afterBurst (burstEffect ch b r y)) ∧ (chan y ch).bus = none ∧
      (0 < s.dev.up - (chan s.dev ch).busT0 → Counted s.dev y (chIdx ch 4) 0x0F (s.dev.up - (chan s.dev ch).busT0)))) ∧
    (∀ r b, (chan s.dev ch).bus = some b → (seq s.dev ch).badStart = true → Completes (.busBurstEnd ch r) s (fun d' =>
      d' = mcFault ch 5 b s.dev))

/-- R538 to R544, R552: a die's reading in range waits for the next correction and one out of range is counted; a model
step moves each node's estimate and takes its energy; a copper report charges its channel; a correction loop corrects
the nodes, and the first one lets the levels act. (The model's choices: log 11, 19.) -/
def Obligations.Temperatures : Prop :=
  ∀ (s : State),
    (∀ n r e, (die s.dev n).cur.bind (entOf (die s.dev n)) = some e → e.own = .temp → dieInCfg s.dev.cfg n = true →
      let v := (r : Option Byte).map (fun b => sext (ofInt ((b.toNat : Int) - odI s.dev 0x2800 9) 8) 8)
      Completes (.dieTempReading n r) s (fun d' => ∃ x, d' = kickAll (afterBurst x) ∧ n ∉ x.therm.queued ∧
        die x n = { die s.dev n with
          q := (die s.dev n).q.filter (fun y => y.qseq ≠ e.qseq),
          cur := if (die s.dev n).cur = some e.qseq then none else (die s.dev n).cur, timeouts := 0 } ∧
        (v.any (fun y => decide (-40 ≤ y) && decide (y ≤ 125)) = true → x.therm.dieRd = s.dev.therm.dieRd ++ [(n, v.getD 0)]) ∧
        (v.any (fun y => decide (-40 ≤ y) && decide (y ≤ 125)) = false →
          x.therm.dieRd = s.dev.therm.dieRd ∧ Counted s.dev x 0x2807 2 1))) ∧
    (∀ n r, (∀ e, (die s.dev n).cur.bind (entOf (die s.dev n)) = some e → e.own ≠ .temp) ∨ dieInCfg s.dev.cfg n = false →
      Completes (.dieTempReading n r) s (fun d' => d' = s.dev)) ∧
    (∀ ch uj, ch < s.dev.cfg.channels → chanOn s.dev ch = true → Completes (.cuEnergyReport ch uj) s (fun d' =>
      d'.therm.cuUj = s.dev.therm.cuUj + uj ∧ 
      (nodeUsed s.dev (cuNode ch) = true →
        (node d' (cuNode ch)).energy = (node s.dev (cuNode ch)).energy + uj * 1000) ∧
      ControlKept s.dev d')) ∧
    (∀ ch uj, (s.dev.cfg.channels ≤ ch ∨ chanOn s.dev ch = false) →
      Completes (.cuEnergyReport ch uj) s (fun d' => d' = s.dev)) ∧
    Completes .modelStep s (fun d' => ControlKept s.dev d' ∧
      ∀ n ∈ usedNodes s.dev, (node d' n).energy = 0 ∧ (s.dev.therm.loopDone = false → (node d' n).level = (node s.dev n).level)) ∧
    Completes .correctionLoop s (fun d' => ∃ x, d' = kickAll x ∧ x.therm.loopDone = true ∧ x.therm.dieRd = [] ∧
      x.therm.cuUj = 0 ∧ x.therm.tabs = some (tmuTabs s.dev) ∧ od x 0x2800 0x0E = s.dev.therm.cuUj / 100 % 2 ^ 32)

/-- What a latch of the shadow set leaves (R299, R300). -/
def latched (ch : Nat) (d x : Dev) : Prop :=
  (∀ i, 1 ≤ i → i ≤ 16 → od x (chIdx ch 9) i = od d (chIdx ch 8) i % 2 ^ (8 * odSize d.cfg (ek (chIdx ch 9) i))) ∧
  (chan x ch).armed = false ∧ Counted d x (chIdx ch 0x0A) 3 1

/-- R289, R298 to R303, R314: the first round's waiting die of lowest number sets the reference geometry; an armed swap
happens at a quiet boundary, with a change of mode the channel waits for its trainings; without one in time bursts are
held, and one that outlasts the hold is a miss; a ZQ code waits for a boundary too. (The model's choices: log 52.) -/
def Obligations.TimingSwaps : Prop :=
  ∀ (s : State) (ch : Nat), ch < s.dev.cfg.channels → ch < 32 →
    let waits := (chan s.dev ch).armed || (chan s.dev ch).zqNew.isSome
    (s.dev.geom.isSome ∨ roundOpen s.dev = true → Completes .referenceGeometrySet s (fun d' => d' = s.dev)) ∧
    (s.dev.geom = none → roundOpen s.dev = false → (List.range s.dev.cfg.channels).any (fun c => (chan s.dev c).firstRound) = true →
      (allDies s.dev.cfg).filter (fun n => (die s.dev n).waitRef) = [] →
      Completes .referenceGeometrySet s (fun d' => d'.geom = none ∧ ∃ x, d' = kickAll x ∧
        ∀ c, c < s.dev.cfg.channels → (chan x c).firstRound = false)) ∧
    (∀ n rest, s.dev.geom = none → roundOpen s.dev = false →
      (List.range s.dev.cfg.channels).any (fun c => (chan s.dev c).firstRound) = true →
      (allDies s.dev.cfg).filter (fun n => (die s.dev n).waitRef) = n :: rest →
      Completes .referenceGeometrySet s (fun d' => d'.geom = (die s.dev n).geom)) ∧
    (∀ sw, (chan s.dev ch).armed = true → modeChange s.dev ch = false → quietBoundary s.dev ch = true →
      Completes (.timingSwap ch sw) s (fun d' => ∃ x, d' = kick ch x ∧ latched ch s.dev x ∧ (chan x ch).state ≠ 2)) ∧
    (∀ sw, (chan s.dev ch).armed = false ∨ modeChange s.dev ch = true ∨ quietBoundary s.dev ch = false →
      Completes (.timingSwap ch sw) s (fun d' => d' = s.dev)) ∧
    (∀ r : SwapResult, r.failed = [] → (chan s.dev ch).armed = true → modeChange s.dev ch = true → quietBoundary s.dev ch = true →
      Completes (.modeChangeSwap ch r) s (fun d' => ∃ x, d' = kick ch x ∧ latched ch s.dev x ∧
        (chan x ch).state = (if (chan x ch).trainWait = [] then 1 else 2))) ∧
    (∀ r, (chan s.dev ch).armed = false ∨ modeChange s.dev ch = false ∨ quietBoundary s.dev ch = false →
      Completes (.modeChangeSwap ch r) s (fun d' => d' = s.dev)) ∧
    (waits = true → (chan s.dev ch).state = 1 → Completes (.swapHoldTimeout ch) s (fun d' =>
      chan d' ch = { chan s.dev ch with state := 2, forced := (chan s.dev ch).armed } ∧ OnlyChan s.dev d' ch)) ∧
    (waits = false ∨ (chan s.dev ch).state ≠ 1 → Completes (.swapHoldTimeout ch) s (fun d' => d' = s.dev)) ∧
    (waits = true → (chan s.dev ch).state = 2 → (chan s.dev ch).bus.isSome → Completes (.swapMiss ch) s (fun d' =>
      chan d' ch = { chan s.dev ch with state := 1, forced := false } ∧
      ((chan s.dev ch).armed = true → Counted s.dev d' (chIdx ch 0x0A) 5 1 ∧ bit (od d' (chIdx ch 0x0A) 2) 4 = true ∧
        SameBut s.dev d' (fun d => { d with chans := d'.chans }) [ek (chIdx ch 0x0A) 5, ek (chIdx ch 0x0A) 2]) ∧
      ((chan s.dev ch).armed = false → OnlyChan s.dev d' ch))) ∧
    (waits = false ∨ (chan s.dev ch).state ≠ 2 ∨ (chan s.dev ch).bus = none →
      Completes (.swapMiss ch) s (fun d' => d' = s.dev)) ∧
    (∀ code e, isOn s.dev (domCh ch 0) = false → Completes (.zqCalibration ch code e) s (fun d' => d' = s.dev)) ∧
    (∀ code, isOn s.dev (domCh ch 0) = true → Completes (.zqCalibration ch code false) s (fun d' => ∃ x, d' = kick ch x ∧
        chan x ch = { chan s.dev ch with zqNew := some code } ∧ OnlyChan s.dev x ch) ∧
      Completes (.zqCalibration ch code true) s (fun d' =>
        Counted s.dev d' (0x300E + 0x40 * ch) 4 1 ∧ OnlyEntries s.dev d' [ek (0x300E + 0x40 * ch) 4])) ∧
    (∀ code, code < 65536 → (chan s.dev ch).zqNew = some code → quietBoundary s.dev ch = true → Completes (.zqCodeApply ch) s (fun d' => ∃ x,
      d' = kick ch x ∧ od x (chIdx ch 0x0D) 2 = code % 2 ^ (8 * odSize s.dev.cfg (ek (chIdx ch 0x0D) 2)) ∧
      chan x ch = { chan s.dev ch with
        zqNew := none
        state := if (chan s.dev ch).state = 2 ∧ (chan s.dev ch).armed = false ∧ (chan s.dev ch).trainWait = [] then 1
          else (chan s.dev ch).state } ∧
      SameBut s.dev x (fun d => { d with chans := x.chans }) [ek (chIdx ch 0x0D) 2])) ∧
    (∀ code, (chan s.dev ch).zqNew = some code → quietBoundary s.dev ch = false →
      Completes (.zqCodeApply ch) s (fun d' => d' = s.dev)) ∧
    ((chan s.dev ch).zqNew = none → Completes (.zqCodeApply ch) s (fun d' => d' = s.dev))

/-- R262, R291, R304 to R312: a training that holds the bus gives it free, is judged and counted; a FAIL is repeated once, and
a second one fails the target's dies; otherwise its record is kept and dies that waited for it are IDLE; an old or marginal training, or a drift at its limit, asks for another.
(The model's choices: log 52.) -/
def Obligations.Training : Prop :=
  ∀ (s : State) (ch t : Nat), ch < s.dev.cfg.channels → ch < 32 → t < s.dev.cfg.targets →
    (∀ r, trainEnt s.dev ch t = none ∨ trainRuns s.dev ch t = false → Completes (.training ch t r) s (fun d' => d' = s.dev)) ∧
    (∀ r n e, trainEnt s.dev ch t = some (n, e) → trainRuns s.dev ch t = true →
      let x := trainFrees ch s.dev
      let j := trainJudge x ch r
      ((chan x ch).bus = none ∧ (∀ c, c ≠ ch → chan x c = chan s.dev c)) ∧
      (j ≠ 3 → Completes (.training ch t r) s (fun d' => ∃ y, d' = trainEnd ch t n e.qseq y ∧
        Counted x y (0x300E + 0x40 * ch) 2 1 ∧ (j ≠ 1 → Counted x y (0x300E + 0x40 * ch) 5 1) ∧
        trRec y ch t = newRec x ch t j r ∧ tabGet 0 (chan y ch).doutCnt t = 0 ∧ (∀ c, c ≠ ch → chan y c = chan x c) ∧
        (∀ l, l < s.dev.cfg.luns → die y (dieNo ch t l) =
          if (die s.dev (dieNo ch t l)).waitTrain = true then
            { die s.dev (dieNo ch t l) with st := .idle, waitTrain := false, revive := false, timeouts := 0 }
          else die s.dev (dieNo ch t l)))) ∧
      (j = 3 → t ∉ (chan x ch).trainTry → Completes (.training ch t r) s (fun d' => ∃ y,
        d' = kick ch y ∧ (chan y ch).trainTry = (chan x ch).trainTry ++ [t] ∧ Counted x y (0x300E + 0x40 * ch) 2 1 ∧
        Counted x y (0x300E + 0x40 * ch) 5 1 ∧ die y n = { die s.dev n with
          q := updWhere (fun z => z.qseq == e.qseq) (fun z => { z with est := 0 }) (die s.dev n).q })) ∧
      (j = 3 → t ∈ (chan x ch).trainTry → Completes (.training ch t r) s (fun d' => ∃ y,
        d' = trainEnd ch t n e.qseq (((List.range s.dev.cfg.luns).filter (fun l => idPresent y (dieNo ch t l))).foldl
          (fun z l => trainFailed (dieNo ch t l) z) (fault 1 4 (domCh ch 1) (dieNo ch t 0) (eyeOf r) y)) ∧
        trRec y ch t = patchBytes (trRec x ch t) 0 [3] ∧ Counted x y (0x300E + 0x40 * ch) 2 1))) ∧
    (∀ c, (c = .retrainAge ch t ∧ od s.dev (chIdx ch 0x0B) 2 ≠ 0 ∧ trainState s.dev ch t ≠ 0 ∨
        c = .marginalRetrain ch t ∧ trainState s.dev ch t = 2) → Completes c s (fun d' => ∃ y, d' = kick ch y ∧
      OnlyChan s.dev y ch ∧ (trainable s.dev ch = true → t ∈ (chan y ch).trainWait) ∧
      (trainable s.dev ch = false → y = s.dev))) ∧
    ((od s.dev (chIdx ch 0x0B) 2 = 0 ∨ trainState s.dev ch t = 0) → Completes (.retrainAge ch t) s (fun d' => d' = s.dev)) ∧
    (trainState s.dev ch t ≠ 2 → Completes (.marginalRetrain ch t) s (fun d' => d' = s.dev)) ∧
    (∀ c : Int, trainState s.dev ch t = 0 ∨ tabGet 0 (chan s.dev ch).doutCnt t < 64 →
      Completes (.driftTrack ch t c) s (fun d' => d' = s.dev)) ∧
    (∀ c : Int, trainState s.dev ch t ≠ 0 → 64 ≤ tabGet 0 (chan s.dev ch).doutCnt t →
      let drift := fun (x : Bytes) => (sext (leAt x 45 1) 8).natAbs
      let lim := od s.dev (chIdx ch 0x0B) 5
      let b := trRec s.dev ch t
      let b1 := driftRec b (decide (0 < c))
      (c.natAbs ≤ 1 ∨ lim ≤ drift b → Completes (.driftTrack ch t c) s (fun d' =>
        tabGet 0 (chan d' ch).doutCnt t = 0 ∧ trRec d' ch t = b ∧ OnlyChan s.dev d' ch)) ∧
      (1 < c.natAbs → drift b < lim → drift b1 < lim → Completes (.driftTrack ch t c) s (fun d' =>
        tabGet 0 (chan d' ch).doutCnt t = 0 ∧ trRec d' ch t = b1 ∧ OnlyChan s.dev d' ch)) ∧
      (1 < c.natAbs → drift b < lim → lim ≤ drift b1 → Completes (.driftTrack ch t c) s (fun d' => ∃ y, d' = kick ch y ∧
        trRec y ch t = b1 ∧ Counted s.dev y (0x300E + 0x40 * ch) 3 1 ∧
        (trainable s.dev ch = true → t ∈ (chan y ch).trainWait))))

/-! ### Microcode -/

/-- The microcode rows: each runs one word, whose field is the row's. -/
def ucRows : List ((Nat → UWord → UEnv → Instr) × (UWord → UWord)) :=
  [(.next, fun w => { w with nx := 0 }), (.branch, fun w => { w with nx := 1 }), (.call, fun w => { w with nx := 2 }),
   (.ret, fun w => { w with nx := 3 }), (.dispatch, fun w => { w with nx := 4 }), (.wait, fun w => { w with nx := 5 }),
   (.endWord, fun w => { w with nx := 6 })] ++
  [(.cmd, fun w => { w with bop := 1 }), (.addr, fun w => { w with bop := 2 }), (.din, fun w => { w with bop := 3 }),
   (.dout, fun w => { w with bop := 4 }), (.stat, fun w => { w with bop := 5 }), (.ceon, fun w => { w with bop := 6 }),
   (.ceoff, fun w => { w with bop := 7 }), (.dbo, fun w => { w with bop := 8 }), (.dbi, fun w => { w with bop := 9 }),
   (.train, fun w => { w with bop := 10 })] ++
  [(.movi, fun w => { w with aop := 1 }), (.mov, fun w => { w with aop := 2 }), (.add, fun w => { w with aop := 3 }),
   (.sub, fun w => { w with aop := 4 }), (.and, fun w => { w with aop := 5 }), (.or, fun w => { w with aop := 6 }),
   (.xor, fun w => { w with aop := 7 }), (.shl, fun w => { w with aop := 8 }), (.shr, fun w => { w with aop := 9 }),
   (.cmp, fun w => { w with aop := 10 }), (.ldf, fun w => { w with aop := 11 }), (.stf, fun w => { w with aop := 12 })] ++
  [(.timerLoad, fun w => { w with top := 1 }), (.timerLoadImm, fun w => { w with top := 2 }),
   (.timerStop, fun w => { w with top := 3 })]

/-- A channel's routine runs and may execute this word: it has no reserved field, it is the word that the ROM image or a
Locket holds there, the image's words keep their contract, and it was fetched without an uncorrectable error. -/
def wordRuns (d : Dev) (ch : Nat) (b : Burst) (w : UWord) (e : UEnv) : Prop :=
  (chan d ch).bus = some b ∧ ch < d.cfg.channels ∧ chanOn d ch = true ∧ (seq d ch).badStart = false ∧
  (seq d ch).running = true ∧ wordFits d ch b w e = true ∧ ((ramAddr (seq d ch)).isSome = true → e.ecc ≠ .double)

/-- The event mask a word leaves by its own field (R318). -/
def wordMask (d : Dev) (ch : Nat) (w : UWord) : Byte := if w.emw then w.emv else (seq d ch).emask

/-- No enabled event is pending as the word begins. -/
def noEvent (d : Dev) (ch : Nat) (w : UWord) : Prop := eventOf (seq d ch).epend (wordMask d ch w) = none

/-- What the word's condition says, of the registers and flags its own register operation left (R320, R322). -/
def wordCond (d d' : Dev) (ch : Nat) (b : Burst) (w : UWord) (e : UEnv) : Bool :=
  condOf d ch b w e { seq d' ch with epend := (seq d ch).epend, emask := wordMask d ch w }

/-- The entry a dispatch word reaches (R321, R324). -/
def wordTarget (d : Dev) (ch : Nat) (w : UWord) (e : UEnv) : Option (BitVec 12) :=
  dispTarget (seq d ch) w.dsel.toNat (((seq (wordBody ch w e d) ch).reg w.ra).toNat % 64)

/-- A word that raises no fault and takes no event: it stays below the limit between safe points, its call and return
find room, and its dispatch finds a valid entry (R323, R324, R327). -/
def wordPlain (d : Dev) (ch : Nat) (b : Burst) (w : UWord) (e : UEnv) : Prop :=
  wordRuns d ch b w e ∧ noEvent d ch w ∧ (w.sp = true ∨ (seq d ch).gap + wordCycles w e < 256) ∧
  (w.nx = 2 → (seq d ch).stack.length < 8) ∧ (w.nx = 3 → (seq d ch).stack ≠ []) ∧
  (w.nx = 4 → (wordTarget d ch w e).isSome = true)

/-- The bytes of SB that a data-in word drives, and the block after that read of SB: its words' errors are counted and
recorded (R322, R470, R485, R486). -/
def dinRead (d d' : Dev) (ch : Nat) : Bytes × Dev :=
  let f := sbFetch (.cu ch) (64 * ((seq d' ch).reg 6).toNat) ((seq d' ch).reg 9).toNat d
  (f.1, f.2.2)

/-- What no plain word changes: other channels, everything of the channel but the bytes it drives, of its sequencer what
belongs to bursts and patches, and of the rest all but what a data-in's read of SB leaves. -/
def wordFrame (d d' : Dev) (ch : Nat) (w : UWord) : Prop :=
  let y := if w.bop = 3 then (dinRead d d' ch).2 else d
  OnlySeq d d' ch ∧ (∀ c, c ≠ ch → chan d' c = chan d c) ∧
  chan d' ch = { chan d ch with driven := (chan d' ch).driven } ∧
  KeepsEntries y d' [ek 0x6000 0x0B, ek 0x6000 0x0D] ∧
  d' = { y with od := d'.od, sat := d'.sat, chans := d'.chans, seqs := d'.seqs, free := d'.free } ∧
  (seq d' ch).burst = (seq d ch).burst ∧ (seq d' ch).badStart = (seq d ch).badStart ∧
  (seq d' ch).ram = (seq d ch).ram ∧ (seq d' ch).disp = (seq d ch).disp ∧ (seq d' ch).regions = (seq d ch).regions ∧
  (seq d' ch).leave = (seq d ch).leave ∧ (seq d' ch).install = (seq d ch).install

/-- R320, R322: a word's register operation: what its destination register holds then, and each other register but the
one a status or data read fills; ZERO and NEG by the result and an addition's CARRY; a move, a load and a store of a
hardware field keep the flags. The CARRY of the other operations is a free value (log 9). -/
def Obligations.MicrocodeRegisters : Prop :=
  ∀ p ∈ ucRows, ∀ (s : State) (ch : Nat) (b : Burst) (w0 : UWord) (e : UEnv), wordPlain s.dev ch b (p.2 w0) e →
    Completes (p.1 ch w0 e) s (fun d' =>
      let w := p.2 w0
      let q := seq s.dev ch
      let q' := seq d' ch
      let a := q.reg w.ra
      let regs := fun (r : BitVec 32) => ∀ k : BitVec 4, q'.reg k =
        if w.bop = 9 ∧ k = w.rb then e.data.setWidth 32 else if w.bop = 5 ∧ k = 0 then e.stat.setWidth 32
        else if k = w.rb then r else q.reg k
      let flags := fun (r : BitVec 32) => (q'.zf = decide (r = 0)) ∧ q'.nf = r.getLsbD 31
      let same := q'.zf = q.zf ∧ q'.nf = q.nf ∧ q'.cf = q.cf
      (w.aop = 0 → regs (q.reg w.rb) ∧ same) ∧
      (w.aop = 1 → regs w.imm ∧ flags w.imm) ∧
      (w.aop = 2 → regs a ∧ same) ∧
      (w.aop = 3 → regs (a + w.imm) ∧ flags (a + w.imm) ∧ q'.cf = decide (2 ^ 32 ≤ a.toNat + w.imm.toNat)) ∧
      (w.aop = 4 → regs (a - w.imm) ∧ flags (a - w.imm)) ∧
      (w.aop = 5 → regs (a &&& w.imm) ∧ flags (a &&& w.imm)) ∧
      (w.aop = 6 → regs (a ||| w.imm) ∧ flags (a ||| w.imm)) ∧
      (w.aop = 7 → regs (a ^^^ w.imm) ∧ flags (a ^^^ w.imm)) ∧
      (w.aop = 8 → regs (a <<< (w.imm.toNat % 32)) ∧ flags (a <<< (w.imm.toNat % 32))) ∧
      (w.aop = 9 → regs (a >>> (w.imm.toNat % 32)) ∧ flags (a >>> (w.imm.toNat % 32))) ∧
      (w.aop = 10 → regs (q.reg w.rb) ∧ flags (a - w.imm)) ∧
      (w.aop = 11 → regs (Config.hwField ch w.imm q.ldfs) ∧ same ∧ q'.ldfs = q.ldfs + 1) ∧
      (w.aop = 12 → regs (q.reg w.rb) ∧ same ∧ tabGet 0 q'.fields w.imm.toNat = a ∧
        ∀ k, k ≠ w.imm.toNat → tabGet 0 q'.fields k = tabGet 0 q.fields k) ∧
      (w.aop ≠ 11 → q'.ldfs = q.ldfs) ∧ (w.aop ≠ 12 → q'.fields = q.fields) ∧ wordFrame s.dev d' ch w)

/-- R294, R318, R320, R322, R485, R486: a word's bus operation, with the registers its register operation left: the cycle and the byte
driven, the target and LUN selected, the data taken from the buffer; its timer, event mask and report.
(The model's choices: log 10, 53.) -/
def Obligations.MicrocodeBusAndTimer : Prop :=
  ∀ p ∈ ucRows, ∀ (s : State) (ch : Nat) (b : Burst) (w0 : UWord) (e : UEnv), wordPlain s.dev ch b (p.2 w0) e →
    Completes (p.1 ch w0 e) s (fun d' =>
      let w := p.2 w0
      let q := seq s.dev ch
      let q' := seq d' ch
      q'.cycle = (if w.bop = 0 then q.cycle else w.bop.toNat) ∧
      q'.dq = (if w.bop = 1 ∨ w.bop = 2 ∨ w.bop = 8 then
        (if w.bsrc = 15 then w.bimm else (q'.reg w.bsrc).setWidth 8) else q.dq) ∧
      q'.ce = (if w.bop = 6 then some ((q'.reg w.ra).toNat / 16 % 16, (q'.reg w.ra).toNat % 16)
        else if w.bop = 7 then none else q.ce) ∧
      (w.bop = 5 → q'.reg 0 = e.stat.setWidth 32) ∧ (w.bop = 9 → q'.reg w.rb = e.data.setWidth 32) ∧
      (chan d' ch).driven = (if w.bop = 3 then (dinRead s.dev d' ch).1 else (chan s.dev ch).driven) ∧
      q'.timer = (match w.top.toNat with
        | 1 => some (timingParam s.dev ch w)
        | 2 => some w.imm.toNat
        | 3 => none
        | _ => q.timer) ∧
      q'.posts = (if w.post = 0 then q.posts else q.posts ++ [w.post.toNat]))

/-- R320, R321, R327: the next address of each mode, with the stack and the mask it leaves; an end word ends the
routine; the cycles since the last safe point, and their peak. (The model's choices: log 10, 53.) -/
def Obligations.MicrocodeNextAddress : Prop :=
  ∀ p ∈ ucRows, ∀ (s : State) (ch : Nat) (b : Burst) (w0 : UWord) (e : UEnv), wordPlain s.dev ch b (p.2 w0) e →
    Completes (p.1 ch w0 e) s (fun d' =>
      let w := p.2 w0
      let q := seq s.dev ch
      let q' := seq d' ch
      let c := wordCond s.dev d' ch b w e
      let goes := fun (a : BitVec 12) (st : List (BitVec 12 × Byte)) (m : Byte) =>
        q'.pc = a ∧ q'.stack = st ∧ q'.emask = m ∧ q'.running = true
      let gap := if w.sp = true ∨ (w.nx = 5 ∧ c = false) then 0 else q.gap + wordCycles w e
      (w.nx = 0 → goes (q.pc + 1) q.stack (wordMask s.dev ch w)) ∧
      (w.nx = 1 → goes (if c then w.nxa else q.pc + 1) q.stack (wordMask s.dev ch w)) ∧
      (w.nx = 2 → goes w.nxa ((q.pc + 1, wordMask s.dev ch w) :: q.stack) (wordMask s.dev ch w)) ∧
      (w.nx = 3 → ∀ a m t, q.stack = (a, m) :: t → goes a t m) ∧
      (w.nx = 4 → ∀ a, wordTarget s.dev ch w e = some a → goes a q.stack (wordMask s.dev ch w)) ∧
      (w.nx = 5 → goes (if c then q.pc + 1 else q.pc) q.stack (wordMask s.dev ch w)) ∧
      (w.nx = 6 → q'.running = false ∧ q'.stack = [] ∧ q'.epend = 0 ∧ q'.gap = 0 ∧ q'.pc = q.pc) ∧
      (w.nx ≠ 6 → q'.gap = gap ∧ q'.epend = q.epend ||| e.events &&& 0x0F) ∧
      (w.cc = 0 → c = !w.ccn) ∧ (w.cc = 1 → c = (q'.zf != w.ccn)) ∧ (w.cc = 2 → c = (q'.nf != w.ccn)) ∧
      (w.cc = 3 → c = (q'.cf != w.ccn)) ∧ (w.cc = 4 → c = (e.rb != w.ccn)) ∧
      (w.cc = 5 → c = ((q'.reg 0).getLsbD 6 != w.ccn)) ∧ (w.cc = 6 → c = ((q'.reg 0).getLsbD 0 != w.ccn)) ∧
      (w.cc = 7 → c = (e.timer != w.ccn)) ∧ (w.cc = 8 → c = (e.xfer != w.ccn)) ∧
      (w.cc = 9 → c = (e.dqs != w.ccn)) ∧ (w.cc = 10 → c = (e.rawRoom != w.ccn)) ∧
      od d' 0x6000 0x0D = (if od s.dev 0x6000 0x0D < gap then min gap 256 else od s.dev 0x6000 0x0D))

/-- What a microcode fault leaves when its routine has stopped (R330, R331): the record, the counter, the routine
ended and the bus free; then each LUN of the target is sent its reset and its issued entries end, and the channel
serves again. -/
def faulted (ch cause : Nat) (b : Burst) (d d' : Dev) : Prop :=
  ∃ x, d' = kickAll (afterBurst ((List.range d.cfg.luns).foldl
      (fun y l => mcResetDie (dieNo ch (burstDie b / max 1 d.cfg.luns) l) y) x)) ∧
    x.loader.mcRec.length = 96 ∧ leAt x.loader.mcRec 0 8 = d.ts % 2 ^ 64 ∧ leAt x.loader.mcRec 8 1 = ch % 256 ∧
    leAt x.loader.mcRec 9 1 = cause ∧ leAt x.loader.mcRec 10 2 = (seq d ch).pc.toNat ∧
    Counted d x 0x6000 7 1 ∧ (chan x ch).bus = none ∧ (seq x ch).running = false ∧ (seq x ch).badStart = false ∧
    (seq x ch).stack = [] ∧ (seq x ch).epend = 0 ∧ (seq x ch).ce = none ∧ x.dies = d.dies ∧
    (∀ c, c ≠ ch → chan x c = chan d c)

/-- An enabled event is pending at a safe point (R327, R328) of a word whose own next address raises no fault. -/
def eventDue (d : Dev) (ch : Nat) (b : Burst) (w : UWord) (e : UEnv) (i : Nat) : Prop :=
  wordRuns d ch b w e ∧ (w.sp = true ∨ (w.nx = 5 ∧ condOf d ch b w e (seq (wordBody ch w e d) ch) = false)) ∧
  eventOf (seq d ch).epend (wordMask d ch w) = some i ∧ w.nx ≠ 6 ∧ (w.nx = 2 → (seq d ch).stack.length < 8) ∧
  (w.nx = 3 → (seq d ch).stack ≠ []) ∧ (w.nx = 4 → (wordTarget d ch w e).isSome = true)

/-- The micro-stack that a word's own next address leaves. -/
def wordStack (d : Dev) (ch : Nat) (w : UWord) : List (BitVec 12 × Byte) :=
  match w.nx.toNat with
  | 2 => ((seq d ch).pc + 1, wordMask d ch w) :: (seq d ch).stack
  | 3 => (seq d ch).stack.tail
  | _ => (seq d ch).stack

/-- R323: the micro-stack holds 8 entries of an address and a mask: a call or an event with 8 there raises STACK_OVER, a
return with none STACK_UNDER, and an end word clears it. -/
def Obligations.MicroStack : Prop :=
  ∀ p ∈ ucRows, ∀ (s : State) (ch : Nat) (b : Burst) (w0 : UWord) (e : UEnv),
    let c := p.1 ch w0 e
    let w := p.2 w0
    let q := seq s.dev ch
    let within := w.sp = true ∨ q.gap + wordCycles w e < 256
    (wordRuns s.dev ch b w e → within → w.nx = 2 → 8 ≤ q.stack.length → Completes c s (fun d' => faulted ch 1 b s.dev d')) ∧
    (wordRuns s.dev ch b w e → within → w.nx = 3 → q.stack = [] → Completes c s (fun d' => faulted ch 2 b s.dev d')) ∧
    (∀ i, eventDue s.dev ch b w e i → 8 ≤ (wordStack s.dev ch w).length →
      Completes c s (fun d' => faulted ch 1 b s.dev d')) ∧
    (wordPlain s.dev ch b w e → w.nx = 2 → Completes c s (fun d' =>
      (seq d' ch).stack = (q.pc + 1, wordMask s.dev ch w) :: q.stack ∧ (seq d' ch).stack.length ≤ 8)) ∧
    (wordRuns s.dev ch b w e → within → w.nx = 6 → Completes c s (fun d' => (seq d' ch).stack = []))

/-- R1, R317, R324, R327, R328, R330, R333: a word of the ROM image is the one image's word, its library vectors jump, its spans
last at most 192 cycles and its library routines keep their callers' registers; an enabled event is taken at a safe point in place of the next address; an invalid entry,
an uncorrectable word and 256 cycles without a safe point raise their faults; a channel without a routine runs no
word. (The model's choices: log 10, 53.) -/
def Obligations.MicrocodeEventsAndFaults : Prop :=
  ∀ p ∈ ucRows, ∀ (s : State) (ch : Nat) (w0 : UWord) (e : UEnv),
    let c := p.1 ch w0 e
    let w := p.2 w0
    let q := seq s.dev ch
    ((chan s.dev ch).bus = none → Completes c s (fun d' => d' = s.dev)) ∧
    (q.running = false → q.badStart = false → Completes c s (fun d' => d' = s.dev)) ∧
    (∀ b, (chan s.dev ch).bus = some b → ch < s.dev.cfg.channels → chanOn s.dev ch = true → q.badStart = true →
      Completes c s (fun d' => faulted ch 5 b s.dev d')) ∧
    (∀ b, (chan s.dev ch).bus = some b → ch < s.dev.cfg.channels → chanOn s.dev ch = true → q.badStart = false →
      q.running = true → wordFits s.dev ch b w e = true → (ramAddr q).isSome = true → e.ecc = .double →
      Completes c s (fun d' => faulted ch 4 b s.dev d')) ∧
    (∀ b, (chan s.dev ch).bus = some b → q.badStart = false → wordFits s.dev ch b w e = false →
      Completes c s (fun d' => d' = s.dev)) ∧
    (∀ b, wordRuns s.dev ch b w e → ramAddr q = none → uword (Config.rom q.pc).toNat = w ∧
      (∀ r, libAt q.pc = some r → w.nx = 1 ∧ w.cc = 0 ∧ w.ccn = false) ∧
      (w.sp = false → w.nx ≠ 5 → q.patched = false → q.gap + wordCycles w e ≤ 192) ∧
      (∀ x t, q.lib = x :: t → x.waived = false → w.nx = 3 → q.stack.length = x.depth →
        libRegs (seq (wordBody ch w e s.dev) ch) = x.keep ∧ x.run + wordCycles w e ≤ libEdge x.routine)) ∧
    (∀ b, wordRuns s.dev ch b w e → w.sp = false → w.nx ≠ 5 → 256 ≤ q.gap + wordCycles w e →
      Completes c s (fun d' => faulted ch 3 b s.dev d')) ∧
    (∀ b, wordRuns s.dev ch b w e → w.sp = true ∨ q.gap + wordCycles w e < 256 → w.nx = 4 → wordTarget s.dev ch w e = none →
      Completes c s (fun d' => faulted ch 5 b s.dev d')) ∧
    (∀ b i, eventDue s.dev ch b w e i → (wordStack s.dev ch w).length < 8 →
      (dispTarget q 1 i = none → Completes c s (fun d' => faulted ch 5 b s.dev d')) ∧
      (∀ h, dispTarget q 1 i = some h → Completes c s (fun d' =>
        (seq d' ch).pc = h ∧ (seq d' ch).emask = 0 ∧ (seq d' ch).stack.tail = wordStack s.dev ch w ∧
        ((seq d' ch).stack.head?).map (·.1) = some (match w.nx.toNat with
          | 1 => if wordCond s.dev d' ch b w e then w.nxa else q.pc + 1
          | 2 => w.nxa
          | 3 => ((q.stack.head?).map (·.1)).getD 0
          | 4 => (wordTarget s.dev ch w e).getD 0
          | 5 => if wordCond s.dev d' ch b w e then q.pc + 1 else q.pc
          | _ => q.pc + 1) ∧
        (seq d' ch).epend = (q.epend &&& ~~~(1#8 <<< i)) ||| e.events &&& 0x0F ∧ wordFrame s.dev d' ch w)))

/-! ### Clasp -/

/-- What a commit of given records leaves when its start comes (R403, R410, R424): with too little budget it waits,
counted once; with no page for it a checkpoint is asked for; else its sectors follow the journal's last one, four to a
unit, each unit with a copy on both dies of a pair. -/
def commitOf (rs : List JRec) (grp : Option Nat) (d d' : Dev) : Prop :=
  let n := max 1 (cdiv rs.length 127)
  let budget := budgetValid d.tele = true ∧ reserveUj d + commitPrice d n ≤ od d 0x2401 4
  (¬ budget → d.clasp.waited = true → d' = d) ∧
  (¬ budget → d.clasp.waited = false → Counted d d' 0x2403 2 1 ∧
    SameBut d d' (fun x => { x with clasp := { x.clasp with waited := true } }) [ek 0x2403 2]) ∧
  (budget → match commitUnits (n + 1) (d.clasp.jsn + 1) (jSectors d (d.clasp.jsn + 1) 0 rs) d with
    | none => d' = { d with clasp := { d.clasp with ckptTrig := true } }
    | some (us, _) => ∃ x, d' = ckptByJournal (claspFeed x) ∧
      x.clasp.commits = d.clasp.commits ++
        [⟨d.clasp.commitNo + 1, d.clasp.jsn + n, d.clasp.recNo - (if grp.isSome then d.clasp.jbuf.length else 0), rs, us, grp⟩] ∧
      us.flatMap (·.cws) = jSectors d (d.clasp.jsn + 1) 0 rs ∧
      (∀ u ∈ us, u.cws.length ≤ 4 ∧ ∃ q ∈ d.clasp.pairs, u.copies.map (·.die) = [q.1, q.2]) ∧
      x.clasp.jbuf = (if grp.isSome then d.clasp.jbuf else []) ∧ x.clasp.jsn = d.clasp.jsn + n ∧
      x.clasp.waited = false ∧ x.clasp.want = (if grp.isSome then d.clasp.want else false) ∧
      od x 0x2404 3 = (d.clasp.jsn + n) % 2 ^ (8 * odSize d.cfg (ek 0x2404 3)) ∧
      KeepsEntries d x [ek 0x2404 3] ∧ x = { d with od := x.od, sat := x.sat, clasp := x.clasp })

/-- R422: the reserve that is shown is the flush price that is shown and the margin, saturating. -/
def Obligations.ReserveIsShown : Prop :=
  ∀ d : Dev, odNum d 0x2401 6 = min (odNum d 0x2402 0x0A + od d 0x2401 3) 0xFFFFFFFF

/-- R410, R412, R414, R418, R424, R425: when a commit is due and may start, the waiting records are committed first,
then a group; the oldest commit ends when every copy has passed, and what waited on it goes on; a command that found no
energy in time fails. (The model's choices: log 43.) -/
def Obligations.JournalCommits : Prop :=
  ∀ s : State,
    let q := s.dev.clasp
    let mayGo := od s.dev 0x2400 1 = 2 ∧ q.commits.length < 4 ∧ q.pairs ≠ [] ∧ s.dev.rst.kind = none
    (q.jbuf = [] → Completes .jcommitAge s (fun d' => d' = s.dev)) ∧
    (q.jbuf ≠ [] → Completes .jcommitAge s (fun d' => d' = { s.dev with clasp := { s.dev.clasp with want := true } })) ∧
    (¬ mayGo → Completes .commitStart s (fun d' => d' = s.dev)) ∧
    (mayGo → q.jbuf ≠ [] → (q.want = true ∨ q.groupQ ≠ [] ∨ od s.dev 0x2400 5 * 127 ≤ q.jbuf.length) →
      Completes .commitStart s (commitOf q.jbuf none s.dev)) ∧
    (mayGo → (q.jbuf = [] ∨ (q.want = false ∧ q.jbuf.length < od s.dev 0x2400 5 * 127)) → q.groupQ = [] →
      Completes .commitStart s (fun d' => d' = s.dev)) ∧
    (∀ g t x, mayGo → q.jbuf = [] → q.groupQ = g :: t → group? s.dev g = some x →
      Completes .commitStart s (commitOf (groupRecs s.dev x) (some g) s.dev)) ∧
    (∀ g t, mayGo → q.jbuf = [] → q.groupQ = g :: t → group? s.dev g = none → Completes .commitStart s (fun d' =>
      d' = { s.dev with clasp := { s.dev.clasp with groupQ := q.groupQ.filter (· ≠ g) } })) ∧
    ((∀ c ∈ q.commits.head?, c.units.all (fun u => u.copies.all (·.passed)) = false) →
      Completes .commitDone s (fun d' => d' = s.dev)) ∧
    (∀ c t, q.commits = c :: t → c.units.all (fun u => u.copies.all (·.passed)) = true → Completes .commitDone s (fun d' =>
      ∃ x y, Counted s.dev x 0x2403 1 1 ∧
        SameBut s.dev x (fun d => { d with clasp := { d.clasp with commits := t, durRec := max d.clasp.durRec c.upto } })
          [ek 0x2403 1] ∧
        y = (let z := (match c.grp with
          | some g => groupCommitted g x
          | none => x)
          finishJobs (releaseWaits (if c.recs.any (fun r => r.typ == 10) then ckptComplete z else z))) ∧
        d' = relocAll (claspFeed (y.cmds.foldl (fun z k => if k.2.opc = 3 then trimGo k.1 z else z) y)))) ∧
    (∀ t, (∀ c ∈ cmd? s.dev t, c.st ≠ .durable) → Completes (.noEnergyTimeout t) s (fun d' => d' = s.dev)) ∧
    (∀ t c, cmd? s.dev t = some c → c.st = .durable → c.opc ≠ 5 → c.need + q.jbuf.length ≤ q.recNo →
      Completes (.noEnergyTimeout t) s (fun d' => d' = s.dev)) ∧
    (∀ t c, cmd? s.dev t = some c → c.st = .durable → c.opc ≠ 5 → q.recNo < c.need + q.jbuf.length →
      Completes (.noEnergyTimeout t) s (fun d' => ∃ x, d' = releaseWait t x ∧ Counted s.dev x 0x2403 3 1 ∧
        (cmd? x t).map (·.fails) = some (if 0x0203 ∈ c.fails then c.fails else c.fails ++ [0x0203]))) ∧
    (∀ t c, cmd? s.dev t = some c → c.st = .durable → c.opc = 5 → (∀ g, c.grp = some g → g ∉ q.groupQ) →
      Completes (.noEnergyTimeout t) s (fun d' => d' = s.dev)) ∧
    (∀ t c g, cmd? s.dev t = some c → c.st = .durable → c.opc = 5 → c.grp = some g → g ∈ q.groupQ →
      Completes (.noEnergyTimeout t) s (fun d' => ∃ x, d' = flushAll (groupCheck g (updCmd t (fun y => { y with st := .running })
        (abortGroup g 0x0203 x))) ∧ Counted s.dev x 0x2403 3 1 ∧ x.clasp.groupQ = q.groupQ.filter (· ≠ g)))

/-- The value a calibration leaves (R421): a sixteenth of the way to the target, and not lowered below half the default. -/
def calibrated (v target dflt : Nat) : Nat :=
  let new := (v : Int) + ((target : Int) - v).tdiv 16
  (if new < v then max new (min (v : Int) ((dflt : Int) / 2)) else new).toNat

/-- R216, R417, R418, R421, R492: a checkpoint starts when one is due in service, with its CKPT_BEGIN, once every dirty line
of the map cache has been written back and none is lost; a running one goes on within its share of the window; it ends with its CKPT_END
once every sector has passed; its period asks for one; a calibration moves the table's energies, time and power.
(The model's choices: log 25, 44.) -/
def Obligations.CheckpointsAndCalibration : Prop :=
  ∀ s : State,
    let q := s.dev.clasp
    (od s.dev 0x2400 8 = 0 ∨ od s.dev 0x2400 1 ≠ 2 ∨ q.ckpt.isSome = true →
      Completes .ckptPeriod s (fun d' => d' = s.dev)) ∧
    (od s.dev 0x2400 8 ≠ 0 → od s.dev 0x2400 1 = 2 → q.ckpt = none →
      Completes .ckptPeriod s (fun d' => d' = { s.dev with clasp := { s.dev.clasp with ckptTrig := true } })) ∧
    (q.ckptTrig = false ∨ q.ckpt.isSome = true ∨ od s.dev 0x2400 1 ≠ 2 ∨ s.dev.rst.kind.isSome = true →
      Completes .checkpointStart s (fun d' => d' = ckptGo s.dev)) ∧
    (q.ckptTrig = true → q.ckpt = none → od s.dev 0x2400 1 = 2 → s.dev.rst.kind = none →
      let z := writeBackAll s.dev
      (od z 0x2109 3 ≠ 0 → Completes .checkpointStart s (fun d' => d' = z)) ∧
      (∀ k x, od z 0x2109 3 = 0 →
        ckptUnit { num := q.ckptNum + 1, begin_ := 0, next := 0, crc := BitVec.allOnes 32, units := [], ended := false }
          z = some (k, x) →
        Completes .checkpointStart s (fun d' => ∃ y, d' = claspFeed y ∧ y.clasp.ckpt = some k ∧ k.num = q.ckptNum + 1 ∧
          k.next = min 4 ((ckptSizes s.dev).sum) ∧ y.clasp.ckptNum = q.ckptNum + 1 ∧ y.clasp.ckptTrig = false ∧
          (y.clasp.jbuf.drop q.jbuf.length).map (fun r => (r.typ, r.a)) = [(9, (q.ckptNum + 1) % 2 ^ 32)] ∧
          y.clasp.recNo = q.recNo + 1 ∧ placedNow y = ((placedNow s.dev).1 + 1, (placedNow s.dev).2.1, (placedNow s.dev).2.2 + 1) ∧
          y = { z with clasp := y.clasp, lan := { z.lan with
            placedMs := y.lan.placedMs, placedAll := y.lan.placedAll, placedRel := y.lan.placedRel, placedCk := y.lan.placedCk } }))) ∧
    ((∀ k, q.ckpt = some k → k.ended = true ∨ k.units.any (fun u => u.copies.any (fun c => !c.passed)) = true ∨
      ckptMay s.dev = false) → ckptGo s.dev = s.dev) ∧
    (∀ k, q.ckpt = some k →
      let open' := k.ended = true ∨ k.units.any (fun u => u.copies.any (fun c => !c.passed)) = true ∨
        k.next < (ckptSizes s.dev).sum
      (open' → Completes .checkpointEnd s (fun d' => d' = s.dev)) ∧
      (¬ open' → Completes .checkpointEnd s (fun d' =>
        let r := jrec 10 (k.num % 2 ^ 32) k.next (~~~ k.crc).toNat
        let k' := { k with ended := true }
        d' = { s.dev with clasp := { q with want := true, ckpt := some k', recNo := q.recNo + 1, jbuf := q.jbuf ++ [r] } }))) ∧
    (q.ckpt = none → Completes .checkpointEnd s (fun d' => d' = s.dev)) ∧
    (od s.dev 0x2402 1 ≠ 0 → Completes .calibrationTick s (fun d' => d' = s.dev)) ∧
    (od s.dev 0x2402 1 = 0 → Completes .calibrationTick s (fun d' =>
      let moves := fun (sub target : Nat) => od d' 0x2402 sub =
        calibrated (od s.dev 0x2402 sub) target (odDefault s.dev.cfg (ek 0x2402 sub)) %
          2 ^ (8 * odSize s.dev.cfg (ek 0x2402 sub))
      let ms := ((presentDies s.dev).map (fun n => (die s.dev n).means.getD 2 0)).filter (· ≠ 0)
      moves 4 (eMeasured s.dev 1) ∧ moves 5 (eMeasured s.dev 2) ∧ moves 6 (eMeasured s.dev 5) ∧ moves 7 (od s.dev 0x2800 0x0E) ∧
      (ms = [] → od d' 0x2402 8 = od s.dev 0x2402 8) ∧ (ms ≠ [] → moves 8 (ms.sum / ms.length)) ∧
      OnlyEntries s.dev d' [ek 0x2402 4, ek 0x2402 5, ek 0x2402 6, ek 0x2402 7, ek 0x2402 8]))

/-- R426 to R432: on the latched warning, in service or test, the flush starts once: Clasp is FLUSHING, what was not
issued is discarded but for commits in flight, erasing dies are reset, and the scope the budget allows is to be written;
each wave programs a die's next unit; when nothing is left Clasp is FLUSHED, and a reset that was held is taken.
(The model's choices: log 46, 55, 56.) -/
def Obligations.EmergencyFlush : Prop :=
  ∀ s : State,
    let starts := s.dev.tele.pf = true ∧ (od s.dev 0x2000 1 = 1 ∨ od s.dev 0x2000 1 = 2) ∧ s.dev.clasp.flush = none ∧
      od s.dev 0x2400 1 ≠ 4
    (¬ starts → Completes .emergencyFlush s (fun d' => d' = s.dev)) ∧
    (starts → Completes .emergencyFlush s (fun d' => ∃ x f,
      d' = (List.range s.dev.cfg.channels).foldl (fun y ch => kick ch y) (claspFeed x) ∧
      od x 0x2400 1 = 3 ∧ Counted s.dev x 0x2403 5 1 ∧ x.clasp.flush = some f ∧ x.clasp.ckpt = none ∧
      x.clasp.ckptTrig = false ∧ x.clasp.commits = s.dev.clasp.commits ∧ x.clasp.jbuf = s.dev.clasp.jbuf ∧
      f.stage = 0 ∧ f.ended = false ∧ f.recs = [] ∧ f.scope = flushScope s.dev ∧
      (f.items.filter (fun i => i.cls == 0)).map (·.fixed) = (presentDies s.dev).map some ∧
      (f.scope = 0 → ∀ i ∈ f.items, i.cls = 0) ∧ (f.scope = 1 → ∀ i ∈ f.items, i.cls ≠ 3) ∧
      (∀ n, dieInCfg s.dev.cfg n = true → (die x n).q.all (fun e => decide (3 ≤ e.est) || (match e.own with
          | .clasp c _ _ => c != 0
          | _ => false)) = true ∧
        (die x n).st = (if (die s.dev n).st = .erase ∨ (die s.dev n).st = .suspending ∨ (die s.dev n).st = .suspended
          then .reset else (die s.dev n).st)))) ∧
    (∀ n ok,
      let x := flushAdvance s.dev
      (x.clasp.flush = none ∨ supplies s.dev = false ∨ (die s.dev n).st ≠ .idle ∨ (die s.dev n).cur.isSome = true →
        Completes (.flushWave n ok) s (fun d' => d' = x)) ∧
      (∀ f, x.clasp.flush = some f → flushNext x f n = none → Completes (.flushWave n ok) s (fun d' => d' = x)) ∧
      (∀ f i, x.clasp.flush = some f → dieInCfg s.dev.cfg n = true → supplies s.dev = true → (die s.dev n).st = .idle →
        (die s.dev n).cur = none → flushNext x f n = some i →
        Completes (.flushWave n ok) s (fun d' => ∃ y g, d' = flushAdvance y ∧ y.clasp.flush = some g ∧
          tabGet 0 g.room n = tabGet 0 f.room n + 1 ∧ (∀ k, k ≠ n → tabGet 0 g.room k = tabGet 0 f.room k) ∧
          (ok = false → Counted x y 0x2403 0x0C 1 ∧ g.recs = f.recs) ∧
          (ok = true → y.od = x.od ∧ g.recs = f.recs ++
            (if i.cls = 2 then [jrec 0x0B i.acc (flushPlace x f n) 0] else [])) ∧
          g.stage = f.stage ∧ g.items.length ≤ f.items.length ∧ (∀ c, c ≠ dieCh n → chan y c = chan x c) ∧
          y.dies = x.dies))) ∧
    (flushOver (flushAdvance s.dev) = false → Completes .flushed s (fun d' => d' = flushAdvance s.dev)) ∧
    (flushOver (flushAdvance s.dev) = true → Completes .flushed s (fun d' => ∃ x,
      od x 0x2400 1 = 4 ∧ x.clasp.flush.map (·.ended) = some true ∧
      SameBut (flushAdvance s.dev) x (fun d => { d with clasp := x.clasp }) [ek 0x2400 1] ∧
      (s.dev.rst.held = none → d' = x) ∧ (∀ k c, s.dev.rst.held = some (k, c) → d' = rstTake k c x)))

/-- R469, R470: a word of 64 data bits is stored with 8 check bits; a word with no wrong bit reads good, with one wrong bit
corrected, data or check bit, and with two it is reported; the wrong bits stay until the word is written.
R472 to R474, R476 to R478: what a write, a read and a drop do to a lane queue. R484, R483: a write that covers a word in part
reads it first; where it is uncorrectable the word keeps its value and its error and the write fails. R354: the payload and
the parity blocks of any payload together meet every parity check. (The model's choices: log 16, 74.) -/
def Obligations.ProtectedWordsAndLaneQueues : Prop :=
  (∀ i j : Nat, i < 72 → j < 72 →
    eccRes 0 = .good ∧ eccRes (2 ^ i) = .corrected ∧ eccWrong (2 ^ i) = 0 ∧
    (i ≠ j → eccRes (2 ^ i + 2 ^ j) = .bad ∧ eccWrong (2 ^ i + 2 ^ j) = (2 ^ i + 2 ^ j) % 2 ^ 64)) ∧
  (∀ data, eccWord data % 2 ^ 64 = data % 2 ^ 64 ∧ eccWord data < 2 ^ 72) ∧
  (∀ (id k : Nat) (q : LaneQ) (f : Flit),
    (q.dropping = true → ∃ x, q.write k f = some x ∧ x.dropping = !f.last ∧ x.ents = q.ents ∧ x.wp = q.wp ∧ x.rp = q.rp ∧
      x.owe + x.held = q.owe + q.held + 1 ∧ (q.hi = true → x.owe = q.owe)) ∧
    (q.dropping = false → q.full = true → q.write k f = none) ∧
    (q.dropping = false → q.full = false → ∃ x, q.write k f = some x ∧ x.ents = q.ents ++ [{ flit := f, flips := [] }] ∧
      x.wp = (q.wp + 1) % 2 ^ (k + 1) ∧ x.rp = q.rp ∧ x.owe = q.owe ∧ x.held = q.held ∧ x.peak = max q.peak (x.occ k)) ∧
    (q.ents = [] → q.read id k = (q.prev.map (·.flit), [.mem 7 0 (laneWhere id k q.rp) (laneUnit id)], { q with under := true })) ∧
    (∀ e t, q.ents = e :: t → ∃ g l x, q.read id k = (some g, l, x) ∧ x.ents = t ∧ x.rp = (q.rp + 1) % 2 ^ (k + 1) ∧
      x.wp = q.wp ∧ x.prev = some e ∧ x.inPkt = !e.flit.last ∧ x.owe + x.held = q.owe + q.held + 1 ∧
      (q.hi = false → x.held = q.held) ∧ (q.hi = true → x.owe = q.owe) ∧
      (e.worst = .good → g = e.flit ∧ l = [] ∧ x.ce = q.ce ∧ x.ue = q.ue) ∧
      (e.worst = .corrected → g = e.flit ∧ x.ce = min (q.ce + 1) 0xFFFF ∧ x.ue = q.ue ∧
        x.ceSat = (q.ceSat || decide (q.ce = 0xFFFE)) ∧
        l = if q.ce = 0xFFFE then [.mem 5 e.syn (laneWhere id k q.rp) (laneUnit id)] else []) ∧
      (e.worst = .bad → g = { e.flit with poison := true } ∧ l = [.mem 6 e.syn (laneWhere id k q.rp) (laneUnit id)] ∧
        x.ue = true ∧ x.ce = q.ce)) ∧
    (q.inPkt = false → q.drop k = q) ∧
    (∀ l g t, q.inPkt = true → q.ents = l ++ g :: t → (∀ e ∈ l, e.flit.last = false) → g.flit.last = true →
      (q.drop k).ents = t ∧ (q.drop k).rp = (q.rp + l.length + 1) % 2 ^ (k + 1) ∧ (q.drop k).inPkt = false ∧
      (q.drop k).dropping = false ∧ (q.drop k).owe + (q.drop k).held = q.owe + q.held + l.length + 1) ∧
    (q.inPkt = true → (∀ e ∈ q.ents, e.flit.last = false) → (q.drop k).ents = [] ∧ (q.drop k).dropping = true ∧
      (q.drop k).rp = (q.rp + q.ents.length) % 2 ^ (k + 1) ∧ (q.drop k).owe + (q.drop k).held = q.owe + q.held + q.ents.length) ∧
    (∀ c, let x := q.start k c
      x.full = decide (q.occ k = 2 ^ k) ∧ (2 ^ k ≤ q.occ k → x.hi = true) ∧ (q.occ k ≤ laneLow k c → x.hi = false) ∧
      (laneLow k c < q.occ k → q.occ k < 2 ^ k → x.hi = q.hi) ∧
      (x.hi = false → x.owe = q.owe + q.held ∧ x.held = 0) ∧ (x.hi = true → x.owe = q.owe ∧ x.held = q.held) ∧
      x.ents = q.ents ∧ x.wp = q.wp ∧ x.rp = q.rp) ∧
    ((q.grant k).owe = 2 ^ k - q.occ k ∧ (q.grant k).held = 0 ∧ (q.grant k).ents = q.ents)) ∧
  (∀ (u : NUnit) (a : Nat) (bs : Bytes) (d : Dev), bs ≠ [] →
    let r := sbStore? u a bs d
    let bad := (partWords a bs.length).filter (fun w => eccRes (tabGet 0 d.lan.flips w) == .bad)
    (r.1 = true ↔ bad = []) ∧
    (bad = [] → ∀ i, i < bs.length → sbRead r.2 (a + i) 1 = [bs.getD i 0]) ∧
    (∀ b, b < a ∨ a + bs.length ≤ b → sbRead r.2 b 1 = sbRead d b 1) ∧
    (∀ w ∈ bad, ∀ i, i < 8 → sbRead r.2 (8 * w + i) 1 = sbRead d (8 * w + i) 1)) ∧
  (∀ code p, p.length = 4128 → codewordOk code (p ++ parityBytes code p) = true)
end

