-- ==== Sys2Proof/Laws/State.lean ====
section
/-! SUPPORT. One lemma for each field and each update of the block's record: an update changes its own field and no
other. A command's effect on the queue is none. -/

namespace Sys2Proof.Machine

variable (d : Dev)

/-! ### putK -/

@[simp] theorem putK_cfg (key v : Nat) : (putK key v d).cfg = d.cfg := rfl
@[simp] theorem putK_ts (key v : Nat) : (putK key v d).ts = d.ts := rfl
@[simp] theorem putK_up (key v : Nat) : (putK key v d).up = d.up := rfl
@[simp] theorem putK_free (key v : Nat) : (putK key v d).free = d.free := rfl
@[simp] theorem putK_ods (key v : Nat) : (putK key v d).ods = d.ods := rfl
@[simp] theorem putK_odBad (key v : Nat) : (putK key v d).odBad = d.odBad := rfl
@[simp] theorem putK_sat (key v : Nat) : (putK key v d).sat = d.sat := rfl
@[simp] theorem putK_ports (key v : Nat) : (putK key v d).ports = d.ports := rfl
@[simp] theorem putK_tele (key v : Nat) : (putK key v d).tele = d.tele := rfl
@[simp] theorem putK_masters (key v : Nat) : (putK key v d).masters = d.masters := rfl
@[simp] theorem putK_i3c (key v : Nat) : (putK key v d).i3c = d.i3c := rfl
@[simp] theorem putK_srcs (key v : Nat) : (putK key v d).srcs = d.srcs := rfl
@[simp] theorem putK_tgts (key v : Nat) : (putK key v d).tgts = d.tgts := rfl
@[simp] theorem putK_dbq (key v : Nat) : (putK key v d).dbq = d.dbq := rfl
@[simp] theorem putK_doms (key v : Nat) : (putK key v d).doms = d.doms := rfl
@[simp] theorem putK_pwrq (key v : Nat) : (putK key v d).pwrq = d.pwrq := rfl
@[simp] theorem putK_wakeP (key v : Nat) : (putK key v d).wakeP = d.wakeP := rfl
@[simp] theorem putK_nodes (key v : Nat) : (putK key v d).nodes = d.nodes := rfl
@[simp] theorem putK_sensors (key v : Nat) : (putK key v d).sensors = d.sensors := rfl
@[simp] theorem putK_therm (key v : Nat) : (putK key v d).therm = d.therm := rfl
@[simp] theorem putK_flt (key v : Nat) : (putK key v d).flt = d.flt := rfl
@[simp] theorem putK_rst (key v : Nat) : (putK key v d).rst = d.rst := rfl
@[simp] theorem putK_rings (key v : Nat) : (putK key v d).rings = d.rings := rfl
@[simp] theorem putK_cmds (key v : Nat) : (putK key v d).cmds = d.cmds := rfl
@[simp] theorem putK_fetchNo (key v : Nat) : (putK key v d).fetchNo = d.fetchNo := rfl
@[simp] theorem putK_metNo (key v : Nat) : (putK key v d).metNo = d.metNo := rfl
@[simp] theorem putK_rrRing (key v : Nat) : (putK key v d).rrRing = d.rrRing := rfl
@[simp] theorem putK_groups (key v : Nat) : (putK key v d).groups = d.groups := rfl
@[simp] theorem putK_lan (key v : Nat) : (putK key v d).lan = d.lan := rfl
@[simp] theorem putK_dies (key v : Nat) : (putK key v d).dies = d.dies := rfl
@[simp] theorem putK_chans (key v : Nat) : (putK key v d).chans = d.chans := rfl
@[simp] theorem putK_geom (key v : Nat) : (putK key v d).geom = d.geom := rfl
@[simp] theorem putK_rawp (key v : Nat) : (putK key v d).rawp = d.rawp := rfl
@[simp] theorem putK_seqs (key v : Nat) : (putK key v d).seqs = d.seqs := rfl
@[simp] theorem putK_loader (key v : Nat) : (putK key v d).loader = d.loader := rfl
@[simp] theorem putK_decs (key v : Nat) : (putK key v d).decs = d.decs := rfl
@[simp] theorem putK_clasp (key v : Nat) : (putK key v d).clasp = d.clasp := rfl
@[simp] theorem putK_tender (key v : Nat) : (putK key v d).tender = d.tender := rfl
@[simp] theorem putK_memLog (key v : Nat) : (putK key v d).memLog = d.memLog := rfl
@[simp] theorem putK_net (key v : Nat) : (putK key v d).net = d.net := rfl

/-! ### put -/

@[simp] theorem put_cfg (i j v : Nat) : (put i j v d).cfg = d.cfg := rfl
@[simp] theorem put_ts (i j v : Nat) : (put i j v d).ts = d.ts := rfl
@[simp] theorem put_up (i j v : Nat) : (put i j v d).up = d.up := rfl
@[simp] theorem put_free (i j v : Nat) : (put i j v d).free = d.free := rfl
@[simp] theorem put_ods (i j v : Nat) : (put i j v d).ods = d.ods := rfl
@[simp] theorem put_odBad (i j v : Nat) : (put i j v d).odBad = d.odBad := rfl
@[simp] theorem put_sat (i j v : Nat) : (put i j v d).sat = d.sat := rfl
@[simp] theorem put_ports (i j v : Nat) : (put i j v d).ports = d.ports := rfl
@[simp] theorem put_tele (i j v : Nat) : (put i j v d).tele = d.tele := rfl
@[simp] theorem put_masters (i j v : Nat) : (put i j v d).masters = d.masters := rfl
@[simp] theorem put_i3c (i j v : Nat) : (put i j v d).i3c = d.i3c := rfl
@[simp] theorem put_srcs (i j v : Nat) : (put i j v d).srcs = d.srcs := rfl
@[simp] theorem put_tgts (i j v : Nat) : (put i j v d).tgts = d.tgts := rfl
@[simp] theorem put_dbq (i j v : Nat) : (put i j v d).dbq = d.dbq := rfl
@[simp] theorem put_doms (i j v : Nat) : (put i j v d).doms = d.doms := rfl
@[simp] theorem put_pwrq (i j v : Nat) : (put i j v d).pwrq = d.pwrq := rfl
@[simp] theorem put_wakeP (i j v : Nat) : (put i j v d).wakeP = d.wakeP := rfl
@[simp] theorem put_nodes (i j v : Nat) : (put i j v d).nodes = d.nodes := rfl
@[simp] theorem put_sensors (i j v : Nat) : (put i j v d).sensors = d.sensors := rfl
@[simp] theorem put_therm (i j v : Nat) : (put i j v d).therm = d.therm := rfl
@[simp] theorem put_flt (i j v : Nat) : (put i j v d).flt = d.flt := rfl
@[simp] theorem put_rst (i j v : Nat) : (put i j v d).rst = d.rst := rfl
@[simp] theorem put_rings (i j v : Nat) : (put i j v d).rings = d.rings := rfl
@[simp] theorem put_cmds (i j v : Nat) : (put i j v d).cmds = d.cmds := rfl
@[simp] theorem put_fetchNo (i j v : Nat) : (put i j v d).fetchNo = d.fetchNo := rfl
@[simp] theorem put_metNo (i j v : Nat) : (put i j v d).metNo = d.metNo := rfl
@[simp] theorem put_rrRing (i j v : Nat) : (put i j v d).rrRing = d.rrRing := rfl
@[simp] theorem put_groups (i j v : Nat) : (put i j v d).groups = d.groups := rfl
@[simp] theorem put_lan (i j v : Nat) : (put i j v d).lan = d.lan := rfl
@[simp] theorem put_dies (i j v : Nat) : (put i j v d).dies = d.dies := rfl
@[simp] theorem put_chans (i j v : Nat) : (put i j v d).chans = d.chans := rfl
@[simp] theorem put_geom (i j v : Nat) : (put i j v d).geom = d.geom := rfl
@[simp] theorem put_rawp (i j v : Nat) : (put i j v d).rawp = d.rawp := rfl
@[simp] theorem put_seqs (i j v : Nat) : (put i j v d).seqs = d.seqs := rfl
@[simp] theorem put_loader (i j v : Nat) : (put i j v d).loader = d.loader := rfl
@[simp] theorem put_decs (i j v : Nat) : (put i j v d).decs = d.decs := rfl
@[simp] theorem put_clasp (i j v : Nat) : (put i j v d).clasp = d.clasp := rfl
@[simp] theorem put_tender (i j v : Nat) : (put i j v d).tender = d.tender := rfl
@[simp] theorem put_memLog (i j v : Nat) : (put i j v d).memLog = d.memLog := rfl
@[simp] theorem put_net (i j v : Nat) : (put i j v d).net = d.net := rfl

/-! ### putB -/

@[simp] theorem putB_cfg (i j : Nat) (v : Bytes) : (putB i j v d).cfg = d.cfg := rfl
@[simp] theorem putB_ts (i j : Nat) (v : Bytes) : (putB i j v d).ts = d.ts := rfl
@[simp] theorem putB_up (i j : Nat) (v : Bytes) : (putB i j v d).up = d.up := rfl
@[simp] theorem putB_free (i j : Nat) (v : Bytes) : (putB i j v d).free = d.free := rfl
@[simp] theorem putB_od (i j : Nat) (v : Bytes) : (putB i j v d).od = d.od := rfl
@[simp] theorem putB_odBad (i j : Nat) (v : Bytes) : (putB i j v d).odBad = d.odBad := rfl
@[simp] theorem putB_sat (i j : Nat) (v : Bytes) : (putB i j v d).sat = d.sat := rfl
@[simp] theorem putB_ports (i j : Nat) (v : Bytes) : (putB i j v d).ports = d.ports := rfl
@[simp] theorem putB_tele (i j : Nat) (v : Bytes) : (putB i j v d).tele = d.tele := rfl
@[simp] theorem putB_masters (i j : Nat) (v : Bytes) : (putB i j v d).masters = d.masters := rfl
@[simp] theorem putB_i3c (i j : Nat) (v : Bytes) : (putB i j v d).i3c = d.i3c := rfl
@[simp] theorem putB_srcs (i j : Nat) (v : Bytes) : (putB i j v d).srcs = d.srcs := rfl
@[simp] theorem putB_tgts (i j : Nat) (v : Bytes) : (putB i j v d).tgts = d.tgts := rfl
@[simp] theorem putB_dbq (i j : Nat) (v : Bytes) : (putB i j v d).dbq = d.dbq := rfl
@[simp] theorem putB_doms (i j : Nat) (v : Bytes) : (putB i j v d).doms = d.doms := rfl
@[simp] theorem putB_pwrq (i j : Nat) (v : Bytes) : (putB i j v d).pwrq = d.pwrq := rfl
@[simp] theorem putB_wakeP (i j : Nat) (v : Bytes) : (putB i j v d).wakeP = d.wakeP := rfl
@[simp] theorem putB_nodes (i j : Nat) (v : Bytes) : (putB i j v d).nodes = d.nodes := rfl
@[simp] theorem putB_sensors (i j : Nat) (v : Bytes) : (putB i j v d).sensors = d.sensors := rfl
@[simp] theorem putB_therm (i j : Nat) (v : Bytes) : (putB i j v d).therm = d.therm := rfl
@[simp] theorem putB_flt (i j : Nat) (v : Bytes) : (putB i j v d).flt = d.flt := rfl
@[simp] theorem putB_rst (i j : Nat) (v : Bytes) : (putB i j v d).rst = d.rst := rfl
@[simp] theorem putB_rings (i j : Nat) (v : Bytes) : (putB i j v d).rings = d.rings := rfl
@[simp] theorem putB_cmds (i j : Nat) (v : Bytes) : (putB i j v d).cmds = d.cmds := rfl
@[simp] theorem putB_fetchNo (i j : Nat) (v : Bytes) : (putB i j v d).fetchNo = d.fetchNo := rfl
@[simp] theorem putB_metNo (i j : Nat) (v : Bytes) : (putB i j v d).metNo = d.metNo := rfl
@[simp] theorem putB_rrRing (i j : Nat) (v : Bytes) : (putB i j v d).rrRing = d.rrRing := rfl
@[simp] theorem putB_groups (i j : Nat) (v : Bytes) : (putB i j v d).groups = d.groups := rfl
@[simp] theorem putB_lan (i j : Nat) (v : Bytes) : (putB i j v d).lan = d.lan := rfl
@[simp] theorem putB_dies (i j : Nat) (v : Bytes) : (putB i j v d).dies = d.dies := rfl
@[simp] theorem putB_chans (i j : Nat) (v : Bytes) : (putB i j v d).chans = d.chans := rfl
@[simp] theorem putB_geom (i j : Nat) (v : Bytes) : (putB i j v d).geom = d.geom := rfl
@[simp] theorem putB_rawp (i j : Nat) (v : Bytes) : (putB i j v d).rawp = d.rawp := rfl
@[simp] theorem putB_seqs (i j : Nat) (v : Bytes) : (putB i j v d).seqs = d.seqs := rfl
@[simp] theorem putB_loader (i j : Nat) (v : Bytes) : (putB i j v d).loader = d.loader := rfl
@[simp] theorem putB_decs (i j : Nat) (v : Bytes) : (putB i j v d).decs = d.decs := rfl
@[simp] theorem putB_clasp (i j : Nat) (v : Bytes) : (putB i j v d).clasp = d.clasp := rfl
@[simp] theorem putB_tender (i j : Nat) (v : Bytes) : (putB i j v d).tender = d.tender := rfl
@[simp] theorem putB_memLog (i j : Nat) (v : Bytes) : (putB i j v d).memLog = d.memLog := rfl
@[simp] theorem putB_net (i j : Nat) (v : Bytes) : (putB i j v d).net = d.net := rfl

/-! ### putBit -/

@[simp] theorem putBit_cfg (i j n : Nat) (b : Bool) : (putBit i j n b d).cfg = d.cfg := rfl
@[simp] theorem putBit_ts (i j n : Nat) (b : Bool) : (putBit i j n b d).ts = d.ts := rfl
@[simp] theorem putBit_up (i j n : Nat) (b : Bool) : (putBit i j n b d).up = d.up := rfl
@[simp] theorem putBit_free (i j n : Nat) (b : Bool) : (putBit i j n b d).free = d.free := rfl
@[simp] theorem putBit_ods (i j n : Nat) (b : Bool) : (putBit i j n b d).ods = d.ods := rfl
@[simp] theorem putBit_odBad (i j n : Nat) (b : Bool) : (putBit i j n b d).odBad = d.odBad := rfl
@[simp] theorem putBit_sat (i j n : Nat) (b : Bool) : (putBit i j n b d).sat = d.sat := rfl
@[simp] theorem putBit_ports (i j n : Nat) (b : Bool) : (putBit i j n b d).ports = d.ports := rfl
@[simp] theorem putBit_tele (i j n : Nat) (b : Bool) : (putBit i j n b d).tele = d.tele := rfl
@[simp] theorem putBit_masters (i j n : Nat) (b : Bool) : (putBit i j n b d).masters = d.masters := rfl
@[simp] theorem putBit_i3c (i j n : Nat) (b : Bool) : (putBit i j n b d).i3c = d.i3c := rfl
@[simp] theorem putBit_srcs (i j n : Nat) (b : Bool) : (putBit i j n b d).srcs = d.srcs := rfl
@[simp] theorem putBit_tgts (i j n : Nat) (b : Bool) : (putBit i j n b d).tgts = d.tgts := rfl
@[simp] theorem putBit_dbq (i j n : Nat) (b : Bool) : (putBit i j n b d).dbq = d.dbq := rfl
@[simp] theorem putBit_doms (i j n : Nat) (b : Bool) : (putBit i j n b d).doms = d.doms := rfl
@[simp] theorem putBit_pwrq (i j n : Nat) (b : Bool) : (putBit i j n b d).pwrq = d.pwrq := rfl
@[simp] theorem putBit_wakeP (i j n : Nat) (b : Bool) : (putBit i j n b d).wakeP = d.wakeP := rfl
@[simp] theorem putBit_nodes (i j n : Nat) (b : Bool) : (putBit i j n b d).nodes = d.nodes := rfl
@[simp] theorem putBit_sensors (i j n : Nat) (b : Bool) : (putBit i j n b d).sensors = d.sensors := rfl
@[simp] theorem putBit_therm (i j n : Nat) (b : Bool) : (putBit i j n b d).therm = d.therm := rfl
@[simp] theorem putBit_flt (i j n : Nat) (b : Bool) : (putBit i j n b d).flt = d.flt := rfl
@[simp] theorem putBit_rst (i j n : Nat) (b : Bool) : (putBit i j n b d).rst = d.rst := rfl
@[simp] theorem putBit_rings (i j n : Nat) (b : Bool) : (putBit i j n b d).rings = d.rings := rfl
@[simp] theorem putBit_cmds (i j n : Nat) (b : Bool) : (putBit i j n b d).cmds = d.cmds := rfl
@[simp] theorem putBit_fetchNo (i j n : Nat) (b : Bool) : (putBit i j n b d).fetchNo = d.fetchNo := rfl
@[simp] theorem putBit_metNo (i j n : Nat) (b : Bool) : (putBit i j n b d).metNo = d.metNo := rfl
@[simp] theorem putBit_rrRing (i j n : Nat) (b : Bool) : (putBit i j n b d).rrRing = d.rrRing := rfl
@[simp] theorem putBit_groups (i j n : Nat) (b : Bool) : (putBit i j n b d).groups = d.groups := rfl
@[simp] theorem putBit_lan (i j n : Nat) (b : Bool) : (putBit i j n b d).lan = d.lan := rfl
@[simp] theorem putBit_dies (i j n : Nat) (b : Bool) : (putBit i j n b d).dies = d.dies := rfl
@[simp] theorem putBit_chans (i j n : Nat) (b : Bool) : (putBit i j n b d).chans = d.chans := rfl
@[simp] theorem putBit_geom (i j n : Nat) (b : Bool) : (putBit i j n b d).geom = d.geom := rfl
@[simp] theorem putBit_rawp (i j n : Nat) (b : Bool) : (putBit i j n b d).rawp = d.rawp := rfl
@[simp] theorem putBit_seqs (i j n : Nat) (b : Bool) : (putBit i j n b d).seqs = d.seqs := rfl
@[simp] theorem putBit_loader (i j n : Nat) (b : Bool) : (putBit i j n b d).loader = d.loader := rfl
@[simp] theorem putBit_decs (i j n : Nat) (b : Bool) : (putBit i j n b d).decs = d.decs := rfl
@[simp] theorem putBit_clasp (i j n : Nat) (b : Bool) : (putBit i j n b d).clasp = d.clasp := rfl
@[simp] theorem putBit_tender (i j n : Nat) (b : Bool) : (putBit i j n b d).tender = d.tender := rfl
@[simp] theorem putBit_memLog (i j n : Nat) (b : Bool) : (putBit i j n b d).memLog = d.memLog := rfl
@[simp] theorem putBit_net (i j n : Nat) (b : Bool) : (putBit i j n b d).net = d.net := rfl

/-! ### updDom -/

@[simp] theorem updDom_cfg (n : Nat) (f : Dom → Dom) : (updDom n f d).cfg = d.cfg := rfl
@[simp] theorem updDom_ts (n : Nat) (f : Dom → Dom) : (updDom n f d).ts = d.ts := rfl
@[simp] theorem updDom_up (n : Nat) (f : Dom → Dom) : (updDom n f d).up = d.up := rfl
@[simp] theorem updDom_free (n : Nat) (f : Dom → Dom) : (updDom n f d).free = d.free := rfl
@[simp] theorem updDom_od (n : Nat) (f : Dom → Dom) : (updDom n f d).od = d.od := rfl
@[simp] theorem updDom_ods (n : Nat) (f : Dom → Dom) : (updDom n f d).ods = d.ods := rfl
@[simp] theorem updDom_odBad (n : Nat) (f : Dom → Dom) : (updDom n f d).odBad = d.odBad := rfl
@[simp] theorem updDom_sat (n : Nat) (f : Dom → Dom) : (updDom n f d).sat = d.sat := rfl
@[simp] theorem updDom_ports (n : Nat) (f : Dom → Dom) : (updDom n f d).ports = d.ports := rfl
@[simp] theorem updDom_tele (n : Nat) (f : Dom → Dom) : (updDom n f d).tele = d.tele := rfl
@[simp] theorem updDom_masters (n : Nat) (f : Dom → Dom) : (updDom n f d).masters = d.masters := rfl
@[simp] theorem updDom_i3c (n : Nat) (f : Dom → Dom) : (updDom n f d).i3c = d.i3c := rfl
@[simp] theorem updDom_srcs (n : Nat) (f : Dom → Dom) : (updDom n f d).srcs = d.srcs := rfl
@[simp] theorem updDom_tgts (n : Nat) (f : Dom → Dom) : (updDom n f d).tgts = d.tgts := rfl
@[simp] theorem updDom_dbq (n : Nat) (f : Dom → Dom) : (updDom n f d).dbq = d.dbq := rfl
@[simp] theorem updDom_pwrq (n : Nat) (f : Dom → Dom) : (updDom n f d).pwrq = d.pwrq := rfl
@[simp] theorem updDom_wakeP (n : Nat) (f : Dom → Dom) : (updDom n f d).wakeP = d.wakeP := rfl
@[simp] theorem updDom_nodes (n : Nat) (f : Dom → Dom) : (updDom n f d).nodes = d.nodes := rfl
@[simp] theorem updDom_sensors (n : Nat) (f : Dom → Dom) : (updDom n f d).sensors = d.sensors := rfl
@[simp] theorem updDom_therm (n : Nat) (f : Dom → Dom) : (updDom n f d).therm = d.therm := rfl
@[simp] theorem updDom_flt (n : Nat) (f : Dom → Dom) : (updDom n f d).flt = d.flt := rfl
@[simp] theorem updDom_rst (n : Nat) (f : Dom → Dom) : (updDom n f d).rst = d.rst := rfl
@[simp] theorem updDom_rings (n : Nat) (f : Dom → Dom) : (updDom n f d).rings = d.rings := rfl
@[simp] theorem updDom_cmds (n : Nat) (f : Dom → Dom) : (updDom n f d).cmds = d.cmds := rfl
@[simp] theorem updDom_fetchNo (n : Nat) (f : Dom → Dom) : (updDom n f d).fetchNo = d.fetchNo := rfl
@[simp] theorem updDom_metNo (n : Nat) (f : Dom → Dom) : (updDom n f d).metNo = d.metNo := rfl
@[simp] theorem updDom_rrRing (n : Nat) (f : Dom → Dom) : (updDom n f d).rrRing = d.rrRing := rfl
@[simp] theorem updDom_groups (n : Nat) (f : Dom → Dom) : (updDom n f d).groups = d.groups := rfl
@[simp] theorem updDom_lan (n : Nat) (f : Dom → Dom) : (updDom n f d).lan = d.lan := rfl
@[simp] theorem updDom_dies (n : Nat) (f : Dom → Dom) : (updDom n f d).dies = d.dies := rfl
@[simp] theorem updDom_chans (n : Nat) (f : Dom → Dom) : (updDom n f d).chans = d.chans := rfl
@[simp] theorem updDom_geom (n : Nat) (f : Dom → Dom) : (updDom n f d).geom = d.geom := rfl
@[simp] theorem updDom_rawp (n : Nat) (f : Dom → Dom) : (updDom n f d).rawp = d.rawp := rfl
@[simp] theorem updDom_seqs (n : Nat) (f : Dom → Dom) : (updDom n f d).seqs = d.seqs := rfl
@[simp] theorem updDom_loader (n : Nat) (f : Dom → Dom) : (updDom n f d).loader = d.loader := rfl
@[simp] theorem updDom_decs (n : Nat) (f : Dom → Dom) : (updDom n f d).decs = d.decs := rfl
@[simp] theorem updDom_clasp (n : Nat) (f : Dom → Dom) : (updDom n f d).clasp = d.clasp := rfl
@[simp] theorem updDom_tender (n : Nat) (f : Dom → Dom) : (updDom n f d).tender = d.tender := rfl
@[simp] theorem updDom_memLog (n : Nat) (f : Dom → Dom) : (updDom n f d).memLog = d.memLog := rfl
@[simp] theorem updDom_net (n : Nat) (f : Dom → Dom) : (updDom n f d).net = d.net := rfl

/-! ### updPort -/

@[simp] theorem updPort_cfg (n : Nat) (f : Port → Port) : (updPort n f d).cfg = d.cfg := rfl
@[simp] theorem updPort_ts (n : Nat) (f : Port → Port) : (updPort n f d).ts = d.ts := rfl
@[simp] theorem updPort_up (n : Nat) (f : Port → Port) : (updPort n f d).up = d.up := rfl
@[simp] theorem updPort_free (n : Nat) (f : Port → Port) : (updPort n f d).free = d.free := rfl
@[simp] theorem updPort_od (n : Nat) (f : Port → Port) : (updPort n f d).od = d.od := rfl
@[simp] theorem updPort_ods (n : Nat) (f : Port → Port) : (updPort n f d).ods = d.ods := rfl
@[simp] theorem updPort_odBad (n : Nat) (f : Port → Port) : (updPort n f d).odBad = d.odBad := rfl
@[simp] theorem updPort_sat (n : Nat) (f : Port → Port) : (updPort n f d).sat = d.sat := rfl
@[simp] theorem updPort_tele (n : Nat) (f : Port → Port) : (updPort n f d).tele = d.tele := rfl
@[simp] theorem updPort_masters (n : Nat) (f : Port → Port) : (updPort n f d).masters = d.masters := rfl
@[simp] theorem updPort_i3c (n : Nat) (f : Port → Port) : (updPort n f d).i3c = d.i3c := rfl
@[simp] theorem updPort_srcs (n : Nat) (f : Port → Port) : (updPort n f d).srcs = d.srcs := rfl
@[simp] theorem updPort_tgts (n : Nat) (f : Port → Port) : (updPort n f d).tgts = d.tgts := rfl
@[simp] theorem updPort_dbq (n : Nat) (f : Port → Port) : (updPort n f d).dbq = d.dbq := rfl
@[simp] theorem updPort_doms (n : Nat) (f : Port → Port) : (updPort n f d).doms = d.doms := rfl
@[simp] theorem updPort_pwrq (n : Nat) (f : Port → Port) : (updPort n f d).pwrq = d.pwrq := rfl
@[simp] theorem updPort_wakeP (n : Nat) (f : Port → Port) : (updPort n f d).wakeP = d.wakeP := rfl
@[simp] theorem updPort_nodes (n : Nat) (f : Port → Port) : (updPort n f d).nodes = d.nodes := rfl
@[simp] theorem updPort_sensors (n : Nat) (f : Port → Port) : (updPort n f d).sensors = d.sensors := rfl
@[simp] theorem updPort_therm (n : Nat) (f : Port → Port) : (updPort n f d).therm = d.therm := rfl
@[simp] theorem updPort_flt (n : Nat) (f : Port → Port) : (updPort n f d).flt = d.flt := rfl
@[simp] theorem updPort_rst (n : Nat) (f : Port → Port) : (updPort n f d).rst = d.rst := rfl
@[simp] theorem updPort_rings (n : Nat) (f : Port → Port) : (updPort n f d).rings = d.rings := rfl
@[simp] theorem updPort_cmds (n : Nat) (f : Port → Port) : (updPort n f d).cmds = d.cmds := rfl
@[simp] theorem updPort_fetchNo (n : Nat) (f : Port → Port) : (updPort n f d).fetchNo = d.fetchNo := rfl
@[simp] theorem updPort_metNo (n : Nat) (f : Port → Port) : (updPort n f d).metNo = d.metNo := rfl
@[simp] theorem updPort_rrRing (n : Nat) (f : Port → Port) : (updPort n f d).rrRing = d.rrRing := rfl
@[simp] theorem updPort_groups (n : Nat) (f : Port → Port) : (updPort n f d).groups = d.groups := rfl
@[simp] theorem updPort_lan (n : Nat) (f : Port → Port) : (updPort n f d).lan = d.lan := rfl
@[simp] theorem updPort_dies (n : Nat) (f : Port → Port) : (updPort n f d).dies = d.dies := rfl
@[simp] theorem updPort_chans (n : Nat) (f : Port → Port) : (updPort n f d).chans = d.chans := rfl
@[simp] theorem updPort_geom (n : Nat) (f : Port → Port) : (updPort n f d).geom = d.geom := rfl
@[simp] theorem updPort_rawp (n : Nat) (f : Port → Port) : (updPort n f d).rawp = d.rawp := rfl
@[simp] theorem updPort_seqs (n : Nat) (f : Port → Port) : (updPort n f d).seqs = d.seqs := rfl
@[simp] theorem updPort_loader (n : Nat) (f : Port → Port) : (updPort n f d).loader = d.loader := rfl
@[simp] theorem updPort_decs (n : Nat) (f : Port → Port) : (updPort n f d).decs = d.decs := rfl
@[simp] theorem updPort_clasp (n : Nat) (f : Port → Port) : (updPort n f d).clasp = d.clasp := rfl
@[simp] theorem updPort_tender (n : Nat) (f : Port → Port) : (updPort n f d).tender = d.tender := rfl
@[simp] theorem updPort_memLog (n : Nat) (f : Port → Port) : (updPort n f d).memLog = d.memLog := rfl
@[simp] theorem updPort_net (n : Nat) (f : Port → Port) : (updPort n f d).net = d.net := rfl

/-! ### updSrc -/

@[simp] theorem updSrc_cfg (n : Nat) (f : Src → Src) : (updSrc n f d).cfg = d.cfg := rfl
@[simp] theorem updSrc_ts (n : Nat) (f : Src → Src) : (updSrc n f d).ts = d.ts := rfl
@[simp] theorem updSrc_up (n : Nat) (f : Src → Src) : (updSrc n f d).up = d.up := rfl
@[simp] theorem updSrc_free (n : Nat) (f : Src → Src) : (updSrc n f d).free = d.free := rfl
@[simp] theorem updSrc_od (n : Nat) (f : Src → Src) : (updSrc n f d).od = d.od := rfl
@[simp] theorem updSrc_ods (n : Nat) (f : Src → Src) : (updSrc n f d).ods = d.ods := rfl
@[simp] theorem updSrc_odBad (n : Nat) (f : Src → Src) : (updSrc n f d).odBad = d.odBad := rfl
@[simp] theorem updSrc_sat (n : Nat) (f : Src → Src) : (updSrc n f d).sat = d.sat := rfl
@[simp] theorem updSrc_ports (n : Nat) (f : Src → Src) : (updSrc n f d).ports = d.ports := rfl
@[simp] theorem updSrc_tele (n : Nat) (f : Src → Src) : (updSrc n f d).tele = d.tele := rfl
@[simp] theorem updSrc_masters (n : Nat) (f : Src → Src) : (updSrc n f d).masters = d.masters := rfl
@[simp] theorem updSrc_i3c (n : Nat) (f : Src → Src) : (updSrc n f d).i3c = d.i3c := rfl
@[simp] theorem updSrc_tgts (n : Nat) (f : Src → Src) : (updSrc n f d).tgts = d.tgts := rfl
@[simp] theorem updSrc_dbq (n : Nat) (f : Src → Src) : (updSrc n f d).dbq = d.dbq := rfl
@[simp] theorem updSrc_doms (n : Nat) (f : Src → Src) : (updSrc n f d).doms = d.doms := rfl
@[simp] theorem updSrc_pwrq (n : Nat) (f : Src → Src) : (updSrc n f d).pwrq = d.pwrq := rfl
@[simp] theorem updSrc_wakeP (n : Nat) (f : Src → Src) : (updSrc n f d).wakeP = d.wakeP := rfl
@[simp] theorem updSrc_nodes (n : Nat) (f : Src → Src) : (updSrc n f d).nodes = d.nodes := rfl
@[simp] theorem updSrc_sensors (n : Nat) (f : Src → Src) : (updSrc n f d).sensors = d.sensors := rfl
@[simp] theorem updSrc_therm (n : Nat) (f : Src → Src) : (updSrc n f d).therm = d.therm := rfl
@[simp] theorem updSrc_flt (n : Nat) (f : Src → Src) : (updSrc n f d).flt = d.flt := rfl
@[simp] theorem updSrc_rst (n : Nat) (f : Src → Src) : (updSrc n f d).rst = d.rst := rfl
@[simp] theorem updSrc_rings (n : Nat) (f : Src → Src) : (updSrc n f d).rings = d.rings := rfl
@[simp] theorem updSrc_cmds (n : Nat) (f : Src → Src) : (updSrc n f d).cmds = d.cmds := rfl
@[simp] theorem updSrc_fetchNo (n : Nat) (f : Src → Src) : (updSrc n f d).fetchNo = d.fetchNo := rfl
@[simp] theorem updSrc_metNo (n : Nat) (f : Src → Src) : (updSrc n f d).metNo = d.metNo := rfl
@[simp] theorem updSrc_rrRing (n : Nat) (f : Src → Src) : (updSrc n f d).rrRing = d.rrRing := rfl
@[simp] theorem updSrc_groups (n : Nat) (f : Src → Src) : (updSrc n f d).groups = d.groups := rfl
@[simp] theorem updSrc_lan (n : Nat) (f : Src → Src) : (updSrc n f d).lan = d.lan := rfl
@[simp] theorem updSrc_dies (n : Nat) (f : Src → Src) : (updSrc n f d).dies = d.dies := rfl
@[simp] theorem updSrc_chans (n : Nat) (f : Src → Src) : (updSrc n f d).chans = d.chans := rfl
@[simp] theorem updSrc_geom (n : Nat) (f : Src → Src) : (updSrc n f d).geom = d.geom := rfl
@[simp] theorem updSrc_rawp (n : Nat) (f : Src → Src) : (updSrc n f d).rawp = d.rawp := rfl
@[simp] theorem updSrc_seqs (n : Nat) (f : Src → Src) : (updSrc n f d).seqs = d.seqs := rfl
@[simp] theorem updSrc_loader (n : Nat) (f : Src → Src) : (updSrc n f d).loader = d.loader := rfl
@[simp] theorem updSrc_decs (n : Nat) (f : Src → Src) : (updSrc n f d).decs = d.decs := rfl
@[simp] theorem updSrc_clasp (n : Nat) (f : Src → Src) : (updSrc n f d).clasp = d.clasp := rfl
@[simp] theorem updSrc_tender (n : Nat) (f : Src → Src) : (updSrc n f d).tender = d.tender := rfl
@[simp] theorem updSrc_memLog (n : Nat) (f : Src → Src) : (updSrc n f d).memLog = d.memLog := rfl
@[simp] theorem updSrc_net (n : Nat) (f : Src → Src) : (updSrc n f d).net = d.net := rfl

/-! ### updTgt -/

@[simp] theorem updTgt_cfg (n : Nat) (f : Tgt → Tgt) : (updTgt n f d).cfg = d.cfg := rfl
@[simp] theorem updTgt_ts (n : Nat) (f : Tgt → Tgt) : (updTgt n f d).ts = d.ts := rfl
@[simp] theorem updTgt_up (n : Nat) (f : Tgt → Tgt) : (updTgt n f d).up = d.up := rfl
@[simp] theorem updTgt_free (n : Nat) (f : Tgt → Tgt) : (updTgt n f d).free = d.free := rfl
@[simp] theorem updTgt_od (n : Nat) (f : Tgt → Tgt) : (updTgt n f d).od = d.od := rfl
@[simp] theorem updTgt_ods (n : Nat) (f : Tgt → Tgt) : (updTgt n f d).ods = d.ods := rfl
@[simp] theorem updTgt_odBad (n : Nat) (f : Tgt → Tgt) : (updTgt n f d).odBad = d.odBad := rfl
@[simp] theorem updTgt_sat (n : Nat) (f : Tgt → Tgt) : (updTgt n f d).sat = d.sat := rfl
@[simp] theorem updTgt_ports (n : Nat) (f : Tgt → Tgt) : (updTgt n f d).ports = d.ports := rfl
@[simp] theorem updTgt_tele (n : Nat) (f : Tgt → Tgt) : (updTgt n f d).tele = d.tele := rfl
@[simp] theorem updTgt_masters (n : Nat) (f : Tgt → Tgt) : (updTgt n f d).masters = d.masters := rfl
@[simp] theorem updTgt_i3c (n : Nat) (f : Tgt → Tgt) : (updTgt n f d).i3c = d.i3c := rfl
@[simp] theorem updTgt_srcs (n : Nat) (f : Tgt → Tgt) : (updTgt n f d).srcs = d.srcs := rfl
@[simp] theorem updTgt_dbq (n : Nat) (f : Tgt → Tgt) : (updTgt n f d).dbq = d.dbq := rfl
@[simp] theorem updTgt_doms (n : Nat) (f : Tgt → Tgt) : (updTgt n f d).doms = d.doms := rfl
@[simp] theorem updTgt_pwrq (n : Nat) (f : Tgt → Tgt) : (updTgt n f d).pwrq = d.pwrq := rfl
@[simp] theorem updTgt_wakeP (n : Nat) (f : Tgt → Tgt) : (updTgt n f d).wakeP = d.wakeP := rfl
@[simp] theorem updTgt_nodes (n : Nat) (f : Tgt → Tgt) : (updTgt n f d).nodes = d.nodes := rfl
@[simp] theorem updTgt_sensors (n : Nat) (f : Tgt → Tgt) : (updTgt n f d).sensors = d.sensors := rfl
@[simp] theorem updTgt_therm (n : Nat) (f : Tgt → Tgt) : (updTgt n f d).therm = d.therm := rfl
@[simp] theorem updTgt_flt (n : Nat) (f : Tgt → Tgt) : (updTgt n f d).flt = d.flt := rfl
@[simp] theorem updTgt_rst (n : Nat) (f : Tgt → Tgt) : (updTgt n f d).rst = d.rst := rfl
@[simp] theorem updTgt_rings (n : Nat) (f : Tgt → Tgt) : (updTgt n f d).rings = d.rings := rfl
@[simp] theorem updTgt_cmds (n : Nat) (f : Tgt → Tgt) : (updTgt n f d).cmds = d.cmds := rfl
@[simp] theorem updTgt_fetchNo (n : Nat) (f : Tgt → Tgt) : (updTgt n f d).fetchNo = d.fetchNo := rfl
@[simp] theorem updTgt_metNo (n : Nat) (f : Tgt → Tgt) : (updTgt n f d).metNo = d.metNo := rfl
@[simp] theorem updTgt_rrRing (n : Nat) (f : Tgt → Tgt) : (updTgt n f d).rrRing = d.rrRing := rfl
@[simp] theorem updTgt_groups (n : Nat) (f : Tgt → Tgt) : (updTgt n f d).groups = d.groups := rfl
@[simp] theorem updTgt_lan (n : Nat) (f : Tgt → Tgt) : (updTgt n f d).lan = d.lan := rfl
@[simp] theorem updTgt_dies (n : Nat) (f : Tgt → Tgt) : (updTgt n f d).dies = d.dies := rfl
@[simp] theorem updTgt_chans (n : Nat) (f : Tgt → Tgt) : (updTgt n f d).chans = d.chans := rfl
@[simp] theorem updTgt_geom (n : Nat) (f : Tgt → Tgt) : (updTgt n f d).geom = d.geom := rfl
@[simp] theorem updTgt_rawp (n : Nat) (f : Tgt → Tgt) : (updTgt n f d).rawp = d.rawp := rfl
@[simp] theorem updTgt_seqs (n : Nat) (f : Tgt → Tgt) : (updTgt n f d).seqs = d.seqs := rfl
@[simp] theorem updTgt_loader (n : Nat) (f : Tgt → Tgt) : (updTgt n f d).loader = d.loader := rfl
@[simp] theorem updTgt_decs (n : Nat) (f : Tgt → Tgt) : (updTgt n f d).decs = d.decs := rfl
@[simp] theorem updTgt_clasp (n : Nat) (f : Tgt → Tgt) : (updTgt n f d).clasp = d.clasp := rfl
@[simp] theorem updTgt_tender (n : Nat) (f : Tgt → Tgt) : (updTgt n f d).tender = d.tender := rfl
@[simp] theorem updTgt_memLog (n : Nat) (f : Tgt → Tgt) : (updTgt n f d).memLog = d.memLog := rfl
@[simp] theorem updTgt_net (n : Nat) (f : Tgt → Tgt) : (updTgt n f d).net = d.net := rfl

/-! ### updDie -/

@[simp] theorem updDie_cfg (n : Nat) (f : Die → Die) : (updDie n f d).cfg = d.cfg := rfl
@[simp] theorem updDie_ts (n : Nat) (f : Die → Die) : (updDie n f d).ts = d.ts := rfl
@[simp] theorem updDie_up (n : Nat) (f : Die → Die) : (updDie n f d).up = d.up := rfl
@[simp] theorem updDie_free (n : Nat) (f : Die → Die) : (updDie n f d).free = d.free := rfl
@[simp] theorem updDie_od (n : Nat) (f : Die → Die) : (updDie n f d).od = d.od := rfl
@[simp] theorem updDie_ods (n : Nat) (f : Die → Die) : (updDie n f d).ods = d.ods := rfl
@[simp] theorem updDie_odBad (n : Nat) (f : Die → Die) : (updDie n f d).odBad = d.odBad := rfl
@[simp] theorem updDie_sat (n : Nat) (f : Die → Die) : (updDie n f d).sat = d.sat := rfl
@[simp] theorem updDie_ports (n : Nat) (f : Die → Die) : (updDie n f d).ports = d.ports := rfl
@[simp] theorem updDie_tele (n : Nat) (f : Die → Die) : (updDie n f d).tele = d.tele := rfl
@[simp] theorem updDie_masters (n : Nat) (f : Die → Die) : (updDie n f d).masters = d.masters := rfl
@[simp] theorem updDie_i3c (n : Nat) (f : Die → Die) : (updDie n f d).i3c = d.i3c := rfl
@[simp] theorem updDie_srcs (n : Nat) (f : Die → Die) : (updDie n f d).srcs = d.srcs := rfl
@[simp] theorem updDie_tgts (n : Nat) (f : Die → Die) : (updDie n f d).tgts = d.tgts := rfl
@[simp] theorem updDie_dbq (n : Nat) (f : Die → Die) : (updDie n f d).dbq = d.dbq := rfl
@[simp] theorem updDie_doms (n : Nat) (f : Die → Die) : (updDie n f d).doms = d.doms := rfl
@[simp] theorem updDie_pwrq (n : Nat) (f : Die → Die) : (updDie n f d).pwrq = d.pwrq := rfl
@[simp] theorem updDie_wakeP (n : Nat) (f : Die → Die) : (updDie n f d).wakeP = d.wakeP := rfl
@[simp] theorem updDie_nodes (n : Nat) (f : Die → Die) : (updDie n f d).nodes = d.nodes := rfl
@[simp] theorem updDie_sensors (n : Nat) (f : Die → Die) : (updDie n f d).sensors = d.sensors := rfl
@[simp] theorem updDie_therm (n : Nat) (f : Die → Die) : (updDie n f d).therm = d.therm := rfl
@[simp] theorem updDie_flt (n : Nat) (f : Die → Die) : (updDie n f d).flt = d.flt := rfl
@[simp] theorem updDie_rst (n : Nat) (f : Die → Die) : (updDie n f d).rst = d.rst := rfl
@[simp] theorem updDie_rings (n : Nat) (f : Die → Die) : (updDie n f d).rings = d.rings := rfl
@[simp] theorem updDie_cmds (n : Nat) (f : Die → Die) : (updDie n f d).cmds = d.cmds := rfl
@[simp] theorem updDie_fetchNo (n : Nat) (f : Die → Die) : (updDie n f d).fetchNo = d.fetchNo := rfl
@[simp] theorem updDie_metNo (n : Nat) (f : Die → Die) : (updDie n f d).metNo = d.metNo := rfl
@[simp] theorem updDie_rrRing (n : Nat) (f : Die → Die) : (updDie n f d).rrRing = d.rrRing := rfl
@[simp] theorem updDie_groups (n : Nat) (f : Die → Die) : (updDie n f d).groups = d.groups := rfl
@[simp] theorem updDie_lan (n : Nat) (f : Die → Die) : (updDie n f d).lan = d.lan := rfl
@[simp] theorem updDie_chans (n : Nat) (f : Die → Die) : (updDie n f d).chans = d.chans := rfl
@[simp] theorem updDie_geom (n : Nat) (f : Die → Die) : (updDie n f d).geom = d.geom := rfl
@[simp] theorem updDie_rawp (n : Nat) (f : Die → Die) : (updDie n f d).rawp = d.rawp := rfl
@[simp] theorem updDie_seqs (n : Nat) (f : Die → Die) : (updDie n f d).seqs = d.seqs := rfl
@[simp] theorem updDie_loader (n : Nat) (f : Die → Die) : (updDie n f d).loader = d.loader := rfl
@[simp] theorem updDie_decs (n : Nat) (f : Die → Die) : (updDie n f d).decs = d.decs := rfl
@[simp] theorem updDie_clasp (n : Nat) (f : Die → Die) : (updDie n f d).clasp = d.clasp := rfl
@[simp] theorem updDie_tender (n : Nat) (f : Die → Die) : (updDie n f d).tender = d.tender := rfl
@[simp] theorem updDie_memLog (n : Nat) (f : Die → Die) : (updDie n f d).memLog = d.memLog := rfl
@[simp] theorem updDie_net (n : Nat) (f : Die → Die) : (updDie n f d).net = d.net := rfl

/-! ### updChan -/

@[simp] theorem updChan_cfg (n : Nat) (f : Chan → Chan) : (updChan n f d).cfg = d.cfg := rfl
@[simp] theorem updChan_ts (n : Nat) (f : Chan → Chan) : (updChan n f d).ts = d.ts := rfl
@[simp] theorem updChan_up (n : Nat) (f : Chan → Chan) : (updChan n f d).up = d.up := rfl
@[simp] theorem updChan_free (n : Nat) (f : Chan → Chan) : (updChan n f d).free = d.free := rfl
@[simp] theorem updChan_od (n : Nat) (f : Chan → Chan) : (updChan n f d).od = d.od := rfl
@[simp] theorem updChan_ods (n : Nat) (f : Chan → Chan) : (updChan n f d).ods = d.ods := rfl
@[simp] theorem updChan_odBad (n : Nat) (f : Chan → Chan) : (updChan n f d).odBad = d.odBad := rfl
@[simp] theorem updChan_sat (n : Nat) (f : Chan → Chan) : (updChan n f d).sat = d.sat := rfl
@[simp] theorem updChan_ports (n : Nat) (f : Chan → Chan) : (updChan n f d).ports = d.ports := rfl
@[simp] theorem updChan_tele (n : Nat) (f : Chan → Chan) : (updChan n f d).tele = d.tele := rfl
@[simp] theorem updChan_masters (n : Nat) (f : Chan → Chan) : (updChan n f d).masters = d.masters := rfl
@[simp] theorem updChan_i3c (n : Nat) (f : Chan → Chan) : (updChan n f d).i3c = d.i3c := rfl
@[simp] theorem updChan_srcs (n : Nat) (f : Chan → Chan) : (updChan n f d).srcs = d.srcs := rfl
@[simp] theorem updChan_tgts (n : Nat) (f : Chan → Chan) : (updChan n f d).tgts = d.tgts := rfl
@[simp] theorem updChan_dbq (n : Nat) (f : Chan → Chan) : (updChan n f d).dbq = d.dbq := rfl
@[simp] theorem updChan_doms (n : Nat) (f : Chan → Chan) : (updChan n f d).doms = d.doms := rfl
@[simp] theorem updChan_pwrq (n : Nat) (f : Chan → Chan) : (updChan n f d).pwrq = d.pwrq := rfl
@[simp] theorem updChan_wakeP (n : Nat) (f : Chan → Chan) : (updChan n f d).wakeP = d.wakeP := rfl
@[simp] theorem updChan_nodes (n : Nat) (f : Chan → Chan) : (updChan n f d).nodes = d.nodes := rfl
@[simp] theorem updChan_sensors (n : Nat) (f : Chan → Chan) : (updChan n f d).sensors = d.sensors := rfl
@[simp] theorem updChan_therm (n : Nat) (f : Chan → Chan) : (updChan n f d).therm = d.therm := rfl
@[simp] theorem updChan_flt (n : Nat) (f : Chan → Chan) : (updChan n f d).flt = d.flt := rfl
@[simp] theorem updChan_rst (n : Nat) (f : Chan → Chan) : (updChan n f d).rst = d.rst := rfl
@[simp] theorem updChan_rings (n : Nat) (f : Chan → Chan) : (updChan n f d).rings = d.rings := rfl
@[simp] theorem updChan_cmds (n : Nat) (f : Chan → Chan) : (updChan n f d).cmds = d.cmds := rfl
@[simp] theorem updChan_fetchNo (n : Nat) (f : Chan → Chan) : (updChan n f d).fetchNo = d.fetchNo := rfl
@[simp] theorem updChan_metNo (n : Nat) (f : Chan → Chan) : (updChan n f d).metNo = d.metNo := rfl
@[simp] theorem updChan_rrRing (n : Nat) (f : Chan → Chan) : (updChan n f d).rrRing = d.rrRing := rfl
@[simp] theorem updChan_groups (n : Nat) (f : Chan → Chan) : (updChan n f d).groups = d.groups := rfl
@[simp] theorem updChan_lan (n : Nat) (f : Chan → Chan) : (updChan n f d).lan = d.lan := rfl
@[simp] theorem updChan_dies (n : Nat) (f : Chan → Chan) : (updChan n f d).dies = d.dies := rfl
@[simp] theorem updChan_geom (n : Nat) (f : Chan → Chan) : (updChan n f d).geom = d.geom := rfl
@[simp] theorem updChan_rawp (n : Nat) (f : Chan → Chan) : (updChan n f d).rawp = d.rawp := rfl
@[simp] theorem updChan_seqs (n : Nat) (f : Chan → Chan) : (updChan n f d).seqs = d.seqs := rfl
@[simp] theorem updChan_loader (n : Nat) (f : Chan → Chan) : (updChan n f d).loader = d.loader := rfl
@[simp] theorem updChan_decs (n : Nat) (f : Chan → Chan) : (updChan n f d).decs = d.decs := rfl
@[simp] theorem updChan_clasp (n : Nat) (f : Chan → Chan) : (updChan n f d).clasp = d.clasp := rfl
@[simp] theorem updChan_tender (n : Nat) (f : Chan → Chan) : (updChan n f d).tender = d.tender := rfl
@[simp] theorem updChan_memLog (n : Nat) (f : Chan → Chan) : (updChan n f d).memLog = d.memLog := rfl
@[simp] theorem updChan_net (n : Nat) (f : Chan → Chan) : (updChan n f d).net = d.net := rfl

/-! ### updMaster -/

@[simp] theorem updMaster_cfg (n : Nat) (f : Master → Master) : (updMaster n f d).cfg = d.cfg := rfl
@[simp] theorem updMaster_ts (n : Nat) (f : Master → Master) : (updMaster n f d).ts = d.ts := rfl
@[simp] theorem updMaster_up (n : Nat) (f : Master → Master) : (updMaster n f d).up = d.up := rfl
@[simp] theorem updMaster_free (n : Nat) (f : Master → Master) : (updMaster n f d).free = d.free := rfl
@[simp] theorem updMaster_od (n : Nat) (f : Master → Master) : (updMaster n f d).od = d.od := rfl
@[simp] theorem updMaster_ods (n : Nat) (f : Master → Master) : (updMaster n f d).ods = d.ods := rfl
@[simp] theorem updMaster_odBad (n : Nat) (f : Master → Master) : (updMaster n f d).odBad = d.odBad := rfl
@[simp] theorem updMaster_sat (n : Nat) (f : Master → Master) : (updMaster n f d).sat = d.sat := rfl
@[simp] theorem updMaster_ports (n : Nat) (f : Master → Master) : (updMaster n f d).ports = d.ports := rfl
@[simp] theorem updMaster_tele (n : Nat) (f : Master → Master) : (updMaster n f d).tele = d.tele := rfl
@[simp] theorem updMaster_i3c (n : Nat) (f : Master → Master) : (updMaster n f d).i3c = d.i3c := rfl
@[simp] theorem updMaster_srcs (n : Nat) (f : Master → Master) : (updMaster n f d).srcs = d.srcs := rfl
@[simp] theorem updMaster_tgts (n : Nat) (f : Master → Master) : (updMaster n f d).tgts = d.tgts := rfl
@[simp] theorem updMaster_dbq (n : Nat) (f : Master → Master) : (updMaster n f d).dbq = d.dbq := rfl
@[simp] theorem updMaster_doms (n : Nat) (f : Master → Master) : (updMaster n f d).doms = d.doms := rfl
@[simp] theorem updMaster_pwrq (n : Nat) (f : Master → Master) : (updMaster n f d).pwrq = d.pwrq := rfl
@[simp] theorem updMaster_wakeP (n : Nat) (f : Master → Master) : (updMaster n f d).wakeP = d.wakeP := rfl
@[simp] theorem updMaster_nodes (n : Nat) (f : Master → Master) : (updMaster n f d).nodes = d.nodes := rfl
@[simp] theorem updMaster_sensors (n : Nat) (f : Master → Master) : (updMaster n f d).sensors = d.sensors := rfl
@[simp] theorem updMaster_therm (n : Nat) (f : Master → Master) : (updMaster n f d).therm = d.therm := rfl
@[simp] theorem updMaster_flt (n : Nat) (f : Master → Master) : (updMaster n f d).flt = d.flt := rfl
@[simp] theorem updMaster_rst (n : Nat) (f : Master → Master) : (updMaster n f d).rst = d.rst := rfl
@[simp] theorem updMaster_rings (n : Nat) (f : Master → Master) : (updMaster n f d).rings = d.rings := rfl
@[simp] theorem updMaster_cmds (n : Nat) (f : Master → Master) : (updMaster n f d).cmds = d.cmds := rfl
@[simp] theorem updMaster_fetchNo (n : Nat) (f : Master → Master) : (updMaster n f d).fetchNo = d.fetchNo := rfl
@[simp] theorem updMaster_metNo (n : Nat) (f : Master → Master) : (updMaster n f d).metNo = d.metNo := rfl
@[simp] theorem updMaster_rrRing (n : Nat) (f : Master → Master) : (updMaster n f d).rrRing = d.rrRing := rfl
@[simp] theorem updMaster_groups (n : Nat) (f : Master → Master) : (updMaster n f d).groups = d.groups := rfl
@[simp] theorem updMaster_lan (n : Nat) (f : Master → Master) : (updMaster n f d).lan = d.lan := rfl
@[simp] theorem updMaster_dies (n : Nat) (f : Master → Master) : (updMaster n f d).dies = d.dies := rfl
@[simp] theorem updMaster_chans (n : Nat) (f : Master → Master) : (updMaster n f d).chans = d.chans := rfl
@[simp] theorem updMaster_geom (n : Nat) (f : Master → Master) : (updMaster n f d).geom = d.geom := rfl
@[simp] theorem updMaster_rawp (n : Nat) (f : Master → Master) : (updMaster n f d).rawp = d.rawp := rfl
@[simp] theorem updMaster_seqs (n : Nat) (f : Master → Master) : (updMaster n f d).seqs = d.seqs := rfl
@[simp] theorem updMaster_loader (n : Nat) (f : Master → Master) : (updMaster n f d).loader = d.loader := rfl
@[simp] theorem updMaster_decs (n : Nat) (f : Master → Master) : (updMaster n f d).decs = d.decs := rfl
@[simp] theorem updMaster_clasp (n : Nat) (f : Master → Master) : (updMaster n f d).clasp = d.clasp := rfl
@[simp] theorem updMaster_tender (n : Nat) (f : Master → Master) : (updMaster n f d).tender = d.tender := rfl
@[simp] theorem updMaster_memLog (n : Nat) (f : Master → Master) : (updMaster n f d).memLog = d.memLog := rfl
@[simp] theorem updMaster_net (n : Nat) (f : Master → Master) : (updMaster n f d).net = d.net := rfl

/-! ### updDec -/

@[simp] theorem updDec_cfg (n : Nat) (f : Dec → Dec) : (updDec n f d).cfg = d.cfg := rfl
@[simp] theorem updDec_ts (n : Nat) (f : Dec → Dec) : (updDec n f d).ts = d.ts := rfl
@[simp] theorem updDec_up (n : Nat) (f : Dec → Dec) : (updDec n f d).up = d.up := rfl
@[simp] theorem updDec_free (n : Nat) (f : Dec → Dec) : (updDec n f d).free = d.free := rfl
@[simp] theorem updDec_od (n : Nat) (f : Dec → Dec) : (updDec n f d).od = d.od := rfl
@[simp] theorem updDec_ods (n : Nat) (f : Dec → Dec) : (updDec n f d).ods = d.ods := rfl
@[simp] theorem updDec_odBad (n : Nat) (f : Dec → Dec) : (updDec n f d).odBad = d.odBad := rfl
@[simp] theorem updDec_sat (n : Nat) (f : Dec → Dec) : (updDec n f d).sat = d.sat := rfl
@[simp] theorem updDec_ports (n : Nat) (f : Dec → Dec) : (updDec n f d).ports = d.ports := rfl
@[simp] theorem updDec_tele (n : Nat) (f : Dec → Dec) : (updDec n f d).tele = d.tele := rfl
@[simp] theorem updDec_masters (n : Nat) (f : Dec → Dec) : (updDec n f d).masters = d.masters := rfl
@[simp] theorem updDec_i3c (n : Nat) (f : Dec → Dec) : (updDec n f d).i3c = d.i3c := rfl
@[simp] theorem updDec_srcs (n : Nat) (f : Dec → Dec) : (updDec n f d).srcs = d.srcs := rfl
@[simp] theorem updDec_tgts (n : Nat) (f : Dec → Dec) : (updDec n f d).tgts = d.tgts := rfl
@[simp] theorem updDec_dbq (n : Nat) (f : Dec → Dec) : (updDec n f d).dbq = d.dbq := rfl
@[simp] theorem updDec_doms (n : Nat) (f : Dec → Dec) : (updDec n f d).doms = d.doms := rfl
@[simp] theorem updDec_pwrq (n : Nat) (f : Dec → Dec) : (updDec n f d).pwrq = d.pwrq := rfl
@[simp] theorem updDec_wakeP (n : Nat) (f : Dec → Dec) : (updDec n f d).wakeP = d.wakeP := rfl
@[simp] theorem updDec_nodes (n : Nat) (f : Dec → Dec) : (updDec n f d).nodes = d.nodes := rfl
@[simp] theorem updDec_sensors (n : Nat) (f : Dec → Dec) : (updDec n f d).sensors = d.sensors := rfl
@[simp] theorem updDec_therm (n : Nat) (f : Dec → Dec) : (updDec n f d).therm = d.therm := rfl
@[simp] theorem updDec_flt (n : Nat) (f : Dec → Dec) : (updDec n f d).flt = d.flt := rfl
@[simp] theorem updDec_rst (n : Nat) (f : Dec → Dec) : (updDec n f d).rst = d.rst := rfl
@[simp] theorem updDec_rings (n : Nat) (f : Dec → Dec) : (updDec n f d).rings = d.rings := rfl
@[simp] theorem updDec_cmds (n : Nat) (f : Dec → Dec) : (updDec n f d).cmds = d.cmds := rfl
@[simp] theorem updDec_fetchNo (n : Nat) (f : Dec → Dec) : (updDec n f d).fetchNo = d.fetchNo := rfl
@[simp] theorem updDec_metNo (n : Nat) (f : Dec → Dec) : (updDec n f d).metNo = d.metNo := rfl
@[simp] theorem updDec_rrRing (n : Nat) (f : Dec → Dec) : (updDec n f d).rrRing = d.rrRing := rfl
@[simp] theorem updDec_groups (n : Nat) (f : Dec → Dec) : (updDec n f d).groups = d.groups := rfl
@[simp] theorem updDec_lan (n : Nat) (f : Dec → Dec) : (updDec n f d).lan = d.lan := rfl
@[simp] theorem updDec_dies (n : Nat) (f : Dec → Dec) : (updDec n f d).dies = d.dies := rfl
@[simp] theorem updDec_chans (n : Nat) (f : Dec → Dec) : (updDec n f d).chans = d.chans := rfl
@[simp] theorem updDec_geom (n : Nat) (f : Dec → Dec) : (updDec n f d).geom = d.geom := rfl
@[simp] theorem updDec_rawp (n : Nat) (f : Dec → Dec) : (updDec n f d).rawp = d.rawp := rfl
@[simp] theorem updDec_seqs (n : Nat) (f : Dec → Dec) : (updDec n f d).seqs = d.seqs := rfl
@[simp] theorem updDec_loader (n : Nat) (f : Dec → Dec) : (updDec n f d).loader = d.loader := rfl
@[simp] theorem updDec_clasp (n : Nat) (f : Dec → Dec) : (updDec n f d).clasp = d.clasp := rfl
@[simp] theorem updDec_tender (n : Nat) (f : Dec → Dec) : (updDec n f d).tender = d.tender := rfl
@[simp] theorem updDec_memLog (n : Nat) (f : Dec → Dec) : (updDec n f d).memLog = d.memLog := rfl
@[simp] theorem updDec_net (n : Nat) (f : Dec → Dec) : (updDec n f d).net = d.net := rfl

/-! ### updRing -/

@[simp] theorem updRing_cfg (n : Nat) (f : Ring → Ring) : (updRing n f d).cfg = d.cfg := rfl
@[simp] theorem updRing_ts (n : Nat) (f : Ring → Ring) : (updRing n f d).ts = d.ts := rfl
@[simp] theorem updRing_up (n : Nat) (f : Ring → Ring) : (updRing n f d).up = d.up := rfl
@[simp] theorem updRing_free (n : Nat) (f : Ring → Ring) : (updRing n f d).free = d.free := rfl
@[simp] theorem updRing_od (n : Nat) (f : Ring → Ring) : (updRing n f d).od = d.od := rfl
@[simp] theorem updRing_ods (n : Nat) (f : Ring → Ring) : (updRing n f d).ods = d.ods := rfl
@[simp] theorem updRing_odBad (n : Nat) (f : Ring → Ring) : (updRing n f d).odBad = d.odBad := rfl
@[simp] theorem updRing_sat (n : Nat) (f : Ring → Ring) : (updRing n f d).sat = d.sat := rfl
@[simp] theorem updRing_ports (n : Nat) (f : Ring → Ring) : (updRing n f d).ports = d.ports := rfl
@[simp] theorem updRing_tele (n : Nat) (f : Ring → Ring) : (updRing n f d).tele = d.tele := rfl
@[simp] theorem updRing_masters (n : Nat) (f : Ring → Ring) : (updRing n f d).masters = d.masters := rfl
@[simp] theorem updRing_i3c (n : Nat) (f : Ring → Ring) : (updRing n f d).i3c = d.i3c := rfl
@[simp] theorem updRing_srcs (n : Nat) (f : Ring → Ring) : (updRing n f d).srcs = d.srcs := rfl
@[simp] theorem updRing_tgts (n : Nat) (f : Ring → Ring) : (updRing n f d).tgts = d.tgts := rfl
@[simp] theorem updRing_dbq (n : Nat) (f : Ring → Ring) : (updRing n f d).dbq = d.dbq := rfl
@[simp] theorem updRing_doms (n : Nat) (f : Ring → Ring) : (updRing n f d).doms = d.doms := rfl
@[simp] theorem updRing_pwrq (n : Nat) (f : Ring → Ring) : (updRing n f d).pwrq = d.pwrq := rfl
@[simp] theorem updRing_wakeP (n : Nat) (f : Ring → Ring) : (updRing n f d).wakeP = d.wakeP := rfl
@[simp] theorem updRing_nodes (n : Nat) (f : Ring → Ring) : (updRing n f d).nodes = d.nodes := rfl
@[simp] theorem updRing_sensors (n : Nat) (f : Ring → Ring) : (updRing n f d).sensors = d.sensors := rfl
@[simp] theorem updRing_therm (n : Nat) (f : Ring → Ring) : (updRing n f d).therm = d.therm := rfl
@[simp] theorem updRing_flt (n : Nat) (f : Ring → Ring) : (updRing n f d).flt = d.flt := rfl
@[simp] theorem updRing_rst (n : Nat) (f : Ring → Ring) : (updRing n f d).rst = d.rst := rfl
@[simp] theorem updRing_cmds (n : Nat) (f : Ring → Ring) : (updRing n f d).cmds = d.cmds := rfl
@[simp] theorem updRing_fetchNo (n : Nat) (f : Ring → Ring) : (updRing n f d).fetchNo = d.fetchNo := rfl
@[simp] theorem updRing_metNo (n : Nat) (f : Ring → Ring) : (updRing n f d).metNo = d.metNo := rfl
@[simp] theorem updRing_rrRing (n : Nat) (f : Ring → Ring) : (updRing n f d).rrRing = d.rrRing := rfl
@[simp] theorem updRing_groups (n : Nat) (f : Ring → Ring) : (updRing n f d).groups = d.groups := rfl
@[simp] theorem updRing_lan (n : Nat) (f : Ring → Ring) : (updRing n f d).lan = d.lan := rfl
@[simp] theorem updRing_dies (n : Nat) (f : Ring → Ring) : (updRing n f d).dies = d.dies := rfl
@[simp] theorem updRing_chans (n : Nat) (f : Ring → Ring) : (updRing n f d).chans = d.chans := rfl
@[simp] theorem updRing_geom (n : Nat) (f : Ring → Ring) : (updRing n f d).geom = d.geom := rfl
@[simp] theorem updRing_rawp (n : Nat) (f : Ring → Ring) : (updRing n f d).rawp = d.rawp := rfl
@[simp] theorem updRing_seqs (n : Nat) (f : Ring → Ring) : (updRing n f d).seqs = d.seqs := rfl
@[simp] theorem updRing_loader (n : Nat) (f : Ring → Ring) : (updRing n f d).loader = d.loader := rfl
@[simp] theorem updRing_decs (n : Nat) (f : Ring → Ring) : (updRing n f d).decs = d.decs := rfl
@[simp] theorem updRing_clasp (n : Nat) (f : Ring → Ring) : (updRing n f d).clasp = d.clasp := rfl
@[simp] theorem updRing_tender (n : Nat) (f : Ring → Ring) : (updRing n f d).tender = d.tender := rfl
@[simp] theorem updRing_memLog (n : Nat) (f : Ring → Ring) : (updRing n f d).memLog = d.memLog := rfl
@[simp] theorem updRing_net (n : Nat) (f : Ring → Ring) : (updRing n f d).net = d.net := rfl

/-! ### updLan -/

@[simp] theorem updLan_cfg (f : Lan → Lan) : (updLan f d).cfg = d.cfg := rfl
@[simp] theorem updLan_ts (f : Lan → Lan) : (updLan f d).ts = d.ts := rfl
@[simp] theorem updLan_up (f : Lan → Lan) : (updLan f d).up = d.up := rfl
@[simp] theorem updLan_free (f : Lan → Lan) : (updLan f d).free = d.free := rfl
@[simp] theorem updLan_od (f : Lan → Lan) : (updLan f d).od = d.od := rfl
@[simp] theorem updLan_ods (f : Lan → Lan) : (updLan f d).ods = d.ods := rfl
@[simp] theorem updLan_odBad (f : Lan → Lan) : (updLan f d).odBad = d.odBad := rfl
@[simp] theorem updLan_sat (f : Lan → Lan) : (updLan f d).sat = d.sat := rfl
@[simp] theorem updLan_ports (f : Lan → Lan) : (updLan f d).ports = d.ports := rfl
@[simp] theorem updLan_tele (f : Lan → Lan) : (updLan f d).tele = d.tele := rfl
@[simp] theorem updLan_masters (f : Lan → Lan) : (updLan f d).masters = d.masters := rfl
@[simp] theorem updLan_i3c (f : Lan → Lan) : (updLan f d).i3c = d.i3c := rfl
@[simp] theorem updLan_srcs (f : Lan → Lan) : (updLan f d).srcs = d.srcs := rfl
@[simp] theorem updLan_tgts (f : Lan → Lan) : (updLan f d).tgts = d.tgts := rfl
@[simp] theorem updLan_dbq (f : Lan → Lan) : (updLan f d).dbq = d.dbq := rfl
@[simp] theorem updLan_doms (f : Lan → Lan) : (updLan f d).doms = d.doms := rfl
@[simp] theorem updLan_pwrq (f : Lan → Lan) : (updLan f d).pwrq = d.pwrq := rfl
@[simp] theorem updLan_wakeP (f : Lan → Lan) : (updLan f d).wakeP = d.wakeP := rfl
@[simp] theorem updLan_nodes (f : Lan → Lan) : (updLan f d).nodes = d.nodes := rfl
@[simp] theorem updLan_sensors (f : Lan → Lan) : (updLan f d).sensors = d.sensors := rfl
@[simp] theorem updLan_therm (f : Lan → Lan) : (updLan f d).therm = d.therm := rfl
@[simp] theorem updLan_flt (f : Lan → Lan) : (updLan f d).flt = d.flt := rfl
@[simp] theorem updLan_rst (f : Lan → Lan) : (updLan f d).rst = d.rst := rfl
@[simp] theorem updLan_rings (f : Lan → Lan) : (updLan f d).rings = d.rings := rfl
@[simp] theorem updLan_cmds (f : Lan → Lan) : (updLan f d).cmds = d.cmds := rfl
@[simp] theorem updLan_fetchNo (f : Lan → Lan) : (updLan f d).fetchNo = d.fetchNo := rfl
@[simp] theorem updLan_metNo (f : Lan → Lan) : (updLan f d).metNo = d.metNo := rfl
@[simp] theorem updLan_rrRing (f : Lan → Lan) : (updLan f d).rrRing = d.rrRing := rfl
@[simp] theorem updLan_groups (f : Lan → Lan) : (updLan f d).groups = d.groups := rfl
@[simp] theorem updLan_dies (f : Lan → Lan) : (updLan f d).dies = d.dies := rfl
@[simp] theorem updLan_chans (f : Lan → Lan) : (updLan f d).chans = d.chans := rfl
@[simp] theorem updLan_geom (f : Lan → Lan) : (updLan f d).geom = d.geom := rfl
@[simp] theorem updLan_rawp (f : Lan → Lan) : (updLan f d).rawp = d.rawp := rfl
@[simp] theorem updLan_seqs (f : Lan → Lan) : (updLan f d).seqs = d.seqs := rfl
@[simp] theorem updLan_loader (f : Lan → Lan) : (updLan f d).loader = d.loader := rfl
@[simp] theorem updLan_decs (f : Lan → Lan) : (updLan f d).decs = d.decs := rfl
@[simp] theorem updLan_clasp (f : Lan → Lan) : (updLan f d).clasp = d.clasp := rfl
@[simp] theorem updLan_tender (f : Lan → Lan) : (updLan f d).tender = d.tender := rfl
@[simp] theorem updLan_memLog (f : Lan → Lan) : (updLan f d).memLog = d.memLog := rfl
@[simp] theorem updLan_net (f : Lan → Lan) : (updLan f d).net = d.net := rfl

/-! ### updClasp -/

@[simp] theorem updClasp_cfg (f : Clasp → Clasp) : (updClasp f d).cfg = d.cfg := rfl
@[simp] theorem updClasp_ts (f : Clasp → Clasp) : (updClasp f d).ts = d.ts := rfl
@[simp] theorem updClasp_up (f : Clasp → Clasp) : (updClasp f d).up = d.up := rfl
@[simp] theorem updClasp_free (f : Clasp → Clasp) : (updClasp f d).free = d.free := rfl
@[simp] theorem updClasp_od (f : Clasp → Clasp) : (updClasp f d).od = d.od := rfl
@[simp] theorem updClasp_ods (f : Clasp → Clasp) : (updClasp f d).ods = d.ods := rfl
@[simp] theorem updClasp_odBad (f : Clasp → Clasp) : (updClasp f d).odBad = d.odBad := rfl
@[simp] theorem updClasp_sat (f : Clasp → Clasp) : (updClasp f d).sat = d.sat := rfl
@[simp] theorem updClasp_ports (f : Clasp → Clasp) : (updClasp f d).ports = d.ports := rfl
@[simp] theorem updClasp_tele (f : Clasp → Clasp) : (updClasp f d).tele = d.tele := rfl
@[simp] theorem updClasp_masters (f : Clasp → Clasp) : (updClasp f d).masters = d.masters := rfl
@[simp] theorem updClasp_i3c (f : Clasp → Clasp) : (updClasp f d).i3c = d.i3c := rfl
@[simp] theorem updClasp_srcs (f : Clasp → Clasp) : (updClasp f d).srcs = d.srcs := rfl
@[simp] theorem updClasp_tgts (f : Clasp → Clasp) : (updClasp f d).tgts = d.tgts := rfl
@[simp] theorem updClasp_dbq (f : Clasp → Clasp) : (updClasp f d).dbq = d.dbq := rfl
@[simp] theorem updClasp_doms (f : Clasp → Clasp) : (updClasp f d).doms = d.doms := rfl
@[simp] theorem updClasp_pwrq (f : Clasp → Clasp) : (updClasp f d).pwrq = d.pwrq := rfl
@[simp] theorem updClasp_wakeP (f : Clasp → Clasp) : (updClasp f d).wakeP = d.wakeP := rfl
@[simp] theorem updClasp_nodes (f : Clasp → Clasp) : (updClasp f d).nodes = d.nodes := rfl
@[simp] theorem updClasp_sensors (f : Clasp → Clasp) : (updClasp f d).sensors = d.sensors := rfl
@[simp] theorem updClasp_therm (f : Clasp → Clasp) : (updClasp f d).therm = d.therm := rfl
@[simp] theorem updClasp_flt (f : Clasp → Clasp) : (updClasp f d).flt = d.flt := rfl
@[simp] theorem updClasp_rst (f : Clasp → Clasp) : (updClasp f d).rst = d.rst := rfl
@[simp] theorem updClasp_rings (f : Clasp → Clasp) : (updClasp f d).rings = d.rings := rfl
@[simp] theorem updClasp_cmds (f : Clasp → Clasp) : (updClasp f d).cmds = d.cmds := rfl
@[simp] theorem updClasp_fetchNo (f : Clasp → Clasp) : (updClasp f d).fetchNo = d.fetchNo := rfl
@[simp] theorem updClasp_metNo (f : Clasp → Clasp) : (updClasp f d).metNo = d.metNo := rfl
@[simp] theorem updClasp_rrRing (f : Clasp → Clasp) : (updClasp f d).rrRing = d.rrRing := rfl
@[simp] theorem updClasp_groups (f : Clasp → Clasp) : (updClasp f d).groups = d.groups := rfl
@[simp] theorem updClasp_lan (f : Clasp → Clasp) : (updClasp f d).lan = d.lan := rfl
@[simp] theorem updClasp_dies (f : Clasp → Clasp) : (updClasp f d).dies = d.dies := rfl
@[simp] theorem updClasp_chans (f : Clasp → Clasp) : (updClasp f d).chans = d.chans := rfl
@[simp] theorem updClasp_geom (f : Clasp → Clasp) : (updClasp f d).geom = d.geom := rfl
@[simp] theorem updClasp_rawp (f : Clasp → Clasp) : (updClasp f d).rawp = d.rawp := rfl
@[simp] theorem updClasp_seqs (f : Clasp → Clasp) : (updClasp f d).seqs = d.seqs := rfl
@[simp] theorem updClasp_loader (f : Clasp → Clasp) : (updClasp f d).loader = d.loader := rfl
@[simp] theorem updClasp_decs (f : Clasp → Clasp) : (updClasp f d).decs = d.decs := rfl
@[simp] theorem updClasp_tender (f : Clasp → Clasp) : (updClasp f d).tender = d.tender := rfl
@[simp] theorem updClasp_memLog (f : Clasp → Clasp) : (updClasp f d).memLog = d.memLog := rfl
@[simp] theorem updClasp_net (f : Clasp → Clasp) : (updClasp f d).net = d.net := rfl

/-! ### updSeq -/

@[simp] theorem updSeq_cfg (n : Nat) (f : Seq → Seq) : (updSeq n f d).cfg = d.cfg := rfl
@[simp] theorem updSeq_ts (n : Nat) (f : Seq → Seq) : (updSeq n f d).ts = d.ts := rfl
@[simp] theorem updSeq_up (n : Nat) (f : Seq → Seq) : (updSeq n f d).up = d.up := rfl
@[simp] theorem updSeq_free (n : Nat) (f : Seq → Seq) : (updSeq n f d).free = d.free := rfl
@[simp] theorem updSeq_od (n : Nat) (f : Seq → Seq) : (updSeq n f d).od = d.od := rfl
@[simp] theorem updSeq_ods (n : Nat) (f : Seq → Seq) : (updSeq n f d).ods = d.ods := rfl
@[simp] theorem updSeq_odBad (n : Nat) (f : Seq → Seq) : (updSeq n f d).odBad = d.odBad := rfl
@[simp] theorem updSeq_sat (n : Nat) (f : Seq → Seq) : (updSeq n f d).sat = d.sat := rfl
@[simp] theorem updSeq_ports (n : Nat) (f : Seq → Seq) : (updSeq n f d).ports = d.ports := rfl
@[simp] theorem updSeq_tele (n : Nat) (f : Seq → Seq) : (updSeq n f d).tele = d.tele := rfl
@[simp] theorem updSeq_masters (n : Nat) (f : Seq → Seq) : (updSeq n f d).masters = d.masters := rfl
@[simp] theorem updSeq_i3c (n : Nat) (f : Seq → Seq) : (updSeq n f d).i3c = d.i3c := rfl
@[simp] theorem updSeq_srcs (n : Nat) (f : Seq → Seq) : (updSeq n f d).srcs = d.srcs := rfl
@[simp] theorem updSeq_tgts (n : Nat) (f : Seq → Seq) : (updSeq n f d).tgts = d.tgts := rfl
@[simp] theorem updSeq_dbq (n : Nat) (f : Seq → Seq) : (updSeq n f d).dbq = d.dbq := rfl
@[simp] theorem updSeq_doms (n : Nat) (f : Seq → Seq) : (updSeq n f d).doms = d.doms := rfl
@[simp] theorem updSeq_pwrq (n : Nat) (f : Seq → Seq) : (updSeq n f d).pwrq = d.pwrq := rfl
@[simp] theorem updSeq_wakeP (n : Nat) (f : Seq → Seq) : (updSeq n f d).wakeP = d.wakeP := rfl
@[simp] theorem updSeq_nodes (n : Nat) (f : Seq → Seq) : (updSeq n f d).nodes = d.nodes := rfl
@[simp] theorem updSeq_sensors (n : Nat) (f : Seq → Seq) : (updSeq n f d).sensors = d.sensors := rfl
@[simp] theorem updSeq_therm (n : Nat) (f : Seq → Seq) : (updSeq n f d).therm = d.therm := rfl
@[simp] theorem updSeq_flt (n : Nat) (f : Seq → Seq) : (updSeq n f d).flt = d.flt := rfl
@[simp] theorem updSeq_rst (n : Nat) (f : Seq → Seq) : (updSeq n f d).rst = d.rst := rfl
@[simp] theorem updSeq_rings (n : Nat) (f : Seq → Seq) : (updSeq n f d).rings = d.rings := rfl
@[simp] theorem updSeq_cmds (n : Nat) (f : Seq → Seq) : (updSeq n f d).cmds = d.cmds := rfl
@[simp] theorem updSeq_fetchNo (n : Nat) (f : Seq → Seq) : (updSeq n f d).fetchNo = d.fetchNo := rfl
@[simp] theorem updSeq_metNo (n : Nat) (f : Seq → Seq) : (updSeq n f d).metNo = d.metNo := rfl
@[simp] theorem updSeq_rrRing (n : Nat) (f : Seq → Seq) : (updSeq n f d).rrRing = d.rrRing := rfl
@[simp] theorem updSeq_groups (n : Nat) (f : Seq → Seq) : (updSeq n f d).groups = d.groups := rfl
@[simp] theorem updSeq_lan (n : Nat) (f : Seq → Seq) : (updSeq n f d).lan = d.lan := rfl
@[simp] theorem updSeq_dies (n : Nat) (f : Seq → Seq) : (updSeq n f d).dies = d.dies := rfl
@[simp] theorem updSeq_chans (n : Nat) (f : Seq → Seq) : (updSeq n f d).chans = d.chans := rfl
@[simp] theorem updSeq_geom (n : Nat) (f : Seq → Seq) : (updSeq n f d).geom = d.geom := rfl
@[simp] theorem updSeq_rawp (n : Nat) (f : Seq → Seq) : (updSeq n f d).rawp = d.rawp := rfl
@[simp] theorem updSeq_loader (n : Nat) (f : Seq → Seq) : (updSeq n f d).loader = d.loader := rfl
@[simp] theorem updSeq_decs (n : Nat) (f : Seq → Seq) : (updSeq n f d).decs = d.decs := rfl
@[simp] theorem updSeq_clasp (n : Nat) (f : Seq → Seq) : (updSeq n f d).clasp = d.clasp := rfl
@[simp] theorem updSeq_tender (n : Nat) (f : Seq → Seq) : (updSeq n f d).tender = d.tender := rfl
@[simp] theorem updSeq_memLog (n : Nat) (f : Seq → Seq) : (updSeq n f d).memLog = d.memLog := rfl
@[simp] theorem updSeq_net (n : Nat) (f : Seq → Seq) : (updSeq n f d).net = d.net := rfl

/-! ### updSensor -/

@[simp] theorem updSensor_cfg (n : Nat) (f : Sensor → Sensor) : (updSensor n f d).cfg = d.cfg := rfl
@[simp] theorem updSensor_ts (n : Nat) (f : Sensor → Sensor) : (updSensor n f d).ts = d.ts := rfl
@[simp] theorem updSensor_up (n : Nat) (f : Sensor → Sensor) : (updSensor n f d).up = d.up := rfl
@[simp] theorem updSensor_free (n : Nat) (f : Sensor → Sensor) : (updSensor n f d).free = d.free := rfl
@[simp] theorem updSensor_od (n : Nat) (f : Sensor → Sensor) : (updSensor n f d).od = d.od := rfl
@[simp] theorem updSensor_ods (n : Nat) (f : Sensor → Sensor) : (updSensor n f d).ods = d.ods := rfl
@[simp] theorem updSensor_odBad (n : Nat) (f : Sensor → Sensor) : (updSensor n f d).odBad = d.odBad := rfl
@[simp] theorem updSensor_sat (n : Nat) (f : Sensor → Sensor) : (updSensor n f d).sat = d.sat := rfl
@[simp] theorem updSensor_ports (n : Nat) (f : Sensor → Sensor) : (updSensor n f d).ports = d.ports := rfl
@[simp] theorem updSensor_tele (n : Nat) (f : Sensor → Sensor) : (updSensor n f d).tele = d.tele := rfl
@[simp] theorem updSensor_masters (n : Nat) (f : Sensor → Sensor) : (updSensor n f d).masters = d.masters := rfl
@[simp] theorem updSensor_i3c (n : Nat) (f : Sensor → Sensor) : (updSensor n f d).i3c = d.i3c := rfl
@[simp] theorem updSensor_srcs (n : Nat) (f : Sensor → Sensor) : (updSensor n f d).srcs = d.srcs := rfl
@[simp] theorem updSensor_tgts (n : Nat) (f : Sensor → Sensor) : (updSensor n f d).tgts = d.tgts := rfl
@[simp] theorem updSensor_dbq (n : Nat) (f : Sensor → Sensor) : (updSensor n f d).dbq = d.dbq := rfl
@[simp] theorem updSensor_doms (n : Nat) (f : Sensor → Sensor) : (updSensor n f d).doms = d.doms := rfl
@[simp] theorem updSensor_pwrq (n : Nat) (f : Sensor → Sensor) : (updSensor n f d).pwrq = d.pwrq := rfl
@[simp] theorem updSensor_wakeP (n : Nat) (f : Sensor → Sensor) : (updSensor n f d).wakeP = d.wakeP := rfl
@[simp] theorem updSensor_nodes (n : Nat) (f : Sensor → Sensor) : (updSensor n f d).nodes = d.nodes := rfl
@[simp] theorem updSensor_therm (n : Nat) (f : Sensor → Sensor) : (updSensor n f d).therm = d.therm := rfl
@[simp] theorem updSensor_flt (n : Nat) (f : Sensor → Sensor) : (updSensor n f d).flt = d.flt := rfl
@[simp] theorem updSensor_rst (n : Nat) (f : Sensor → Sensor) : (updSensor n f d).rst = d.rst := rfl
@[simp] theorem updSensor_rings (n : Nat) (f : Sensor → Sensor) : (updSensor n f d).rings = d.rings := rfl
@[simp] theorem updSensor_cmds (n : Nat) (f : Sensor → Sensor) : (updSensor n f d).cmds = d.cmds := rfl
@[simp] theorem updSensor_fetchNo (n : Nat) (f : Sensor → Sensor) : (updSensor n f d).fetchNo = d.fetchNo := rfl
@[simp] theorem updSensor_metNo (n : Nat) (f : Sensor → Sensor) : (updSensor n f d).metNo = d.metNo := rfl
@[simp] theorem updSensor_rrRing (n : Nat) (f : Sensor → Sensor) : (updSensor n f d).rrRing = d.rrRing := rfl
@[simp] theorem updSensor_groups (n : Nat) (f : Sensor → Sensor) : (updSensor n f d).groups = d.groups := rfl
@[simp] theorem updSensor_lan (n : Nat) (f : Sensor → Sensor) : (updSensor n f d).lan = d.lan := rfl
@[simp] theorem updSensor_dies (n : Nat) (f : Sensor → Sensor) : (updSensor n f d).dies = d.dies := rfl
@[simp] theorem updSensor_chans (n : Nat) (f : Sensor → Sensor) : (updSensor n f d).chans = d.chans := rfl
@[simp] theorem updSensor_geom (n : Nat) (f : Sensor → Sensor) : (updSensor n f d).geom = d.geom := rfl
@[simp] theorem updSensor_rawp (n : Nat) (f : Sensor → Sensor) : (updSensor n f d).rawp = d.rawp := rfl
@[simp] theorem updSensor_seqs (n : Nat) (f : Sensor → Sensor) : (updSensor n f d).seqs = d.seqs := rfl
@[simp] theorem updSensor_loader (n : Nat) (f : Sensor → Sensor) : (updSensor n f d).loader = d.loader := rfl
@[simp] theorem updSensor_decs (n : Nat) (f : Sensor → Sensor) : (updSensor n f d).decs = d.decs := rfl
@[simp] theorem updSensor_clasp (n : Nat) (f : Sensor → Sensor) : (updSensor n f d).clasp = d.clasp := rfl
@[simp] theorem updSensor_tender (n : Nat) (f : Sensor → Sensor) : (updSensor n f d).tender = d.tender := rfl
@[simp] theorem updSensor_memLog (n : Nat) (f : Sensor → Sensor) : (updSensor n f d).memLog = d.memLog := rfl
@[simp] theorem updSensor_net (n : Nat) (f : Sensor → Sensor) : (updSensor n f d).net = d.net := rfl

/-! ### updTch -/

@[simp] theorem updTch_cfg (n : Nat) (f : TCh → TCh) : (updTch n f d).cfg = d.cfg := rfl
@[simp] theorem updTch_ts (n : Nat) (f : TCh → TCh) : (updTch n f d).ts = d.ts := rfl
@[simp] theorem updTch_up (n : Nat) (f : TCh → TCh) : (updTch n f d).up = d.up := rfl
@[simp] theorem updTch_free (n : Nat) (f : TCh → TCh) : (updTch n f d).free = d.free := rfl
@[simp] theorem updTch_od (n : Nat) (f : TCh → TCh) : (updTch n f d).od = d.od := rfl
@[simp] theorem updTch_ods (n : Nat) (f : TCh → TCh) : (updTch n f d).ods = d.ods := rfl
@[simp] theorem updTch_odBad (n : Nat) (f : TCh → TCh) : (updTch n f d).odBad = d.odBad := rfl
@[simp] theorem updTch_sat (n : Nat) (f : TCh → TCh) : (updTch n f d).sat = d.sat := rfl
@[simp] theorem updTch_ports (n : Nat) (f : TCh → TCh) : (updTch n f d).ports = d.ports := rfl
@[simp] theorem updTch_tele (n : Nat) (f : TCh → TCh) : (updTch n f d).tele = d.tele := rfl
@[simp] theorem updTch_masters (n : Nat) (f : TCh → TCh) : (updTch n f d).masters = d.masters := rfl
@[simp] theorem updTch_i3c (n : Nat) (f : TCh → TCh) : (updTch n f d).i3c = d.i3c := rfl
@[simp] theorem updTch_srcs (n : Nat) (f : TCh → TCh) : (updTch n f d).srcs = d.srcs := rfl
@[simp] theorem updTch_tgts (n : Nat) (f : TCh → TCh) : (updTch n f d).tgts = d.tgts := rfl
@[simp] theorem updTch_dbq (n : Nat) (f : TCh → TCh) : (updTch n f d).dbq = d.dbq := rfl
@[simp] theorem updTch_doms (n : Nat) (f : TCh → TCh) : (updTch n f d).doms = d.doms := rfl
@[simp] theorem updTch_pwrq (n : Nat) (f : TCh → TCh) : (updTch n f d).pwrq = d.pwrq := rfl
@[simp] theorem updTch_wakeP (n : Nat) (f : TCh → TCh) : (updTch n f d).wakeP = d.wakeP := rfl
@[simp] theorem updTch_nodes (n : Nat) (f : TCh → TCh) : (updTch n f d).nodes = d.nodes := rfl
@[simp] theorem updTch_sensors (n : Nat) (f : TCh → TCh) : (updTch n f d).sensors = d.sensors := rfl
@[simp] theorem updTch_therm (n : Nat) (f : TCh → TCh) : (updTch n f d).therm = d.therm := rfl
@[simp] theorem updTch_flt (n : Nat) (f : TCh → TCh) : (updTch n f d).flt = d.flt := rfl
@[simp] theorem updTch_rst (n : Nat) (f : TCh → TCh) : (updTch n f d).rst = d.rst := rfl
@[simp] theorem updTch_rings (n : Nat) (f : TCh → TCh) : (updTch n f d).rings = d.rings := rfl
@[simp] theorem updTch_cmds (n : Nat) (f : TCh → TCh) : (updTch n f d).cmds = d.cmds := rfl
@[simp] theorem updTch_fetchNo (n : Nat) (f : TCh → TCh) : (updTch n f d).fetchNo = d.fetchNo := rfl
@[simp] theorem updTch_metNo (n : Nat) (f : TCh → TCh) : (updTch n f d).metNo = d.metNo := rfl
@[simp] theorem updTch_rrRing (n : Nat) (f : TCh → TCh) : (updTch n f d).rrRing = d.rrRing := rfl
@[simp] theorem updTch_groups (n : Nat) (f : TCh → TCh) : (updTch n f d).groups = d.groups := rfl
@[simp] theorem updTch_lan (n : Nat) (f : TCh → TCh) : (updTch n f d).lan = d.lan := rfl
@[simp] theorem updTch_dies (n : Nat) (f : TCh → TCh) : (updTch n f d).dies = d.dies := rfl
@[simp] theorem updTch_chans (n : Nat) (f : TCh → TCh) : (updTch n f d).chans = d.chans := rfl
@[simp] theorem updTch_geom (n : Nat) (f : TCh → TCh) : (updTch n f d).geom = d.geom := rfl
@[simp] theorem updTch_rawp (n : Nat) (f : TCh → TCh) : (updTch n f d).rawp = d.rawp := rfl
@[simp] theorem updTch_seqs (n : Nat) (f : TCh → TCh) : (updTch n f d).seqs = d.seqs := rfl
@[simp] theorem updTch_loader (n : Nat) (f : TCh → TCh) : (updTch n f d).loader = d.loader := rfl
@[simp] theorem updTch_decs (n : Nat) (f : TCh → TCh) : (updTch n f d).decs = d.decs := rfl
@[simp] theorem updTch_clasp (n : Nat) (f : TCh → TCh) : (updTch n f d).clasp = d.clasp := rfl
@[simp] theorem updTch_memLog (n : Nat) (f : TCh → TCh) : (updTch n f d).memLog = d.memLog := rfl
@[simp] theorem updTch_net (n : Nat) (f : TCh → TCh) : (updTch n f d).net = d.net := rfl

/-! ### updNode -/

@[simp] theorem updNode_cfg (n : Nat) (f : Node → Node) : (updNode n f d).cfg = d.cfg := rfl
@[simp] theorem updNode_ts (n : Nat) (f : Node → Node) : (updNode n f d).ts = d.ts := rfl
@[simp] theorem updNode_up (n : Nat) (f : Node → Node) : (updNode n f d).up = d.up := rfl
@[simp] theorem updNode_free (n : Nat) (f : Node → Node) : (updNode n f d).free = d.free := rfl
@[simp] theorem updNode_od (n : Nat) (f : Node → Node) : (updNode n f d).od = d.od := rfl
@[simp] theorem updNode_ods (n : Nat) (f : Node → Node) : (updNode n f d).ods = d.ods := rfl
@[simp] theorem updNode_odBad (n : Nat) (f : Node → Node) : (updNode n f d).odBad = d.odBad := rfl
@[simp] theorem updNode_sat (n : Nat) (f : Node → Node) : (updNode n f d).sat = d.sat := rfl
@[simp] theorem updNode_ports (n : Nat) (f : Node → Node) : (updNode n f d).ports = d.ports := rfl
@[simp] theorem updNode_tele (n : Nat) (f : Node → Node) : (updNode n f d).tele = d.tele := rfl
@[simp] theorem updNode_masters (n : Nat) (f : Node → Node) : (updNode n f d).masters = d.masters := rfl
@[simp] theorem updNode_i3c (n : Nat) (f : Node → Node) : (updNode n f d).i3c = d.i3c := rfl
@[simp] theorem updNode_srcs (n : Nat) (f : Node → Node) : (updNode n f d).srcs = d.srcs := rfl
@[simp] theorem updNode_tgts (n : Nat) (f : Node → Node) : (updNode n f d).tgts = d.tgts := rfl
@[simp] theorem updNode_dbq (n : Nat) (f : Node → Node) : (updNode n f d).dbq = d.dbq := rfl
@[simp] theorem updNode_doms (n : Nat) (f : Node → Node) : (updNode n f d).doms = d.doms := rfl
@[simp] theorem updNode_pwrq (n : Nat) (f : Node → Node) : (updNode n f d).pwrq = d.pwrq := rfl
@[simp] theorem updNode_wakeP (n : Nat) (f : Node → Node) : (updNode n f d).wakeP = d.wakeP := rfl
@[simp] theorem updNode_sensors (n : Nat) (f : Node → Node) : (updNode n f d).sensors = d.sensors := rfl
@[simp] theorem updNode_therm (n : Nat) (f : Node → Node) : (updNode n f d).therm = d.therm := rfl
@[simp] theorem updNode_flt (n : Nat) (f : Node → Node) : (updNode n f d).flt = d.flt := rfl
@[simp] theorem updNode_rst (n : Nat) (f : Node → Node) : (updNode n f d).rst = d.rst := rfl
@[simp] theorem updNode_rings (n : Nat) (f : Node → Node) : (updNode n f d).rings = d.rings := rfl
@[simp] theorem updNode_cmds (n : Nat) (f : Node → Node) : (updNode n f d).cmds = d.cmds := rfl
@[simp] theorem updNode_fetchNo (n : Nat) (f : Node → Node) : (updNode n f d).fetchNo = d.fetchNo := rfl
@[simp] theorem updNode_metNo (n : Nat) (f : Node → Node) : (updNode n f d).metNo = d.metNo := rfl
@[simp] theorem updNode_rrRing (n : Nat) (f : Node → Node) : (updNode n f d).rrRing = d.rrRing := rfl
@[simp] theorem updNode_groups (n : Nat) (f : Node → Node) : (updNode n f d).groups = d.groups := rfl
@[simp] theorem updNode_lan (n : Nat) (f : Node → Node) : (updNode n f d).lan = d.lan := rfl
@[simp] theorem updNode_dies (n : Nat) (f : Node → Node) : (updNode n f d).dies = d.dies := rfl
@[simp] theorem updNode_chans (n : Nat) (f : Node → Node) : (updNode n f d).chans = d.chans := rfl
@[simp] theorem updNode_geom (n : Nat) (f : Node → Node) : (updNode n f d).geom = d.geom := rfl
@[simp] theorem updNode_rawp (n : Nat) (f : Node → Node) : (updNode n f d).rawp = d.rawp := rfl
@[simp] theorem updNode_seqs (n : Nat) (f : Node → Node) : (updNode n f d).seqs = d.seqs := rfl
@[simp] theorem updNode_loader (n : Nat) (f : Node → Node) : (updNode n f d).loader = d.loader := rfl
@[simp] theorem updNode_decs (n : Nat) (f : Node → Node) : (updNode n f d).decs = d.decs := rfl
@[simp] theorem updNode_clasp (n : Nat) (f : Node → Node) : (updNode n f d).clasp = d.clasp := rfl
@[simp] theorem updNode_tender (n : Nat) (f : Node → Node) : (updNode n f d).tender = d.tender := rfl
@[simp] theorem updNode_memLog (n : Nat) (f : Node → Node) : (updNode n f d).memLog = d.memLog := rfl
@[simp] theorem updNode_net (n : Nat) (f : Node → Node) : (updNode n f d).net = d.net := rfl

/-! ### updCmd -/

@[simp] theorem updCmd_cfg (n : Nat) (f : Cmd → Cmd) : (updCmd n f d).cfg = d.cfg := rfl
@[simp] theorem updCmd_ts (n : Nat) (f : Cmd → Cmd) : (updCmd n f d).ts = d.ts := rfl
@[simp] theorem updCmd_up (n : Nat) (f : Cmd → Cmd) : (updCmd n f d).up = d.up := rfl
@[simp] theorem updCmd_free (n : Nat) (f : Cmd → Cmd) : (updCmd n f d).free = d.free := rfl
@[simp] theorem updCmd_od (n : Nat) (f : Cmd → Cmd) : (updCmd n f d).od = d.od := rfl
@[simp] theorem updCmd_ods (n : Nat) (f : Cmd → Cmd) : (updCmd n f d).ods = d.ods := rfl
@[simp] theorem updCmd_odBad (n : Nat) (f : Cmd → Cmd) : (updCmd n f d).odBad = d.odBad := rfl
@[simp] theorem updCmd_sat (n : Nat) (f : Cmd → Cmd) : (updCmd n f d).sat = d.sat := rfl
@[simp] theorem updCmd_ports (n : Nat) (f : Cmd → Cmd) : (updCmd n f d).ports = d.ports := rfl
@[simp] theorem updCmd_tele (n : Nat) (f : Cmd → Cmd) : (updCmd n f d).tele = d.tele := rfl
@[simp] theorem updCmd_masters (n : Nat) (f : Cmd → Cmd) : (updCmd n f d).masters = d.masters := rfl
@[simp] theorem updCmd_i3c (n : Nat) (f : Cmd → Cmd) : (updCmd n f d).i3c = d.i3c := rfl
@[simp] theorem updCmd_srcs (n : Nat) (f : Cmd → Cmd) : (updCmd n f d).srcs = d.srcs := rfl
@[simp] theorem updCmd_tgts (n : Nat) (f : Cmd → Cmd) : (updCmd n f d).tgts = d.tgts := rfl
@[simp] theorem updCmd_dbq (n : Nat) (f : Cmd → Cmd) : (updCmd n f d).dbq = d.dbq := rfl
@[simp] theorem updCmd_doms (n : Nat) (f : Cmd → Cmd) : (updCmd n f d).doms = d.doms := rfl
@[simp] theorem updCmd_pwrq (n : Nat) (f : Cmd → Cmd) : (updCmd n f d).pwrq = d.pwrq := rfl
@[simp] theorem updCmd_wakeP (n : Nat) (f : Cmd → Cmd) : (updCmd n f d).wakeP = d.wakeP := rfl
@[simp] theorem updCmd_nodes (n : Nat) (f : Cmd → Cmd) : (updCmd n f d).nodes = d.nodes := rfl
@[simp] theorem updCmd_sensors (n : Nat) (f : Cmd → Cmd) : (updCmd n f d).sensors = d.sensors := rfl
@[simp] theorem updCmd_therm (n : Nat) (f : Cmd → Cmd) : (updCmd n f d).therm = d.therm := rfl
@[simp] theorem updCmd_flt (n : Nat) (f : Cmd → Cmd) : (updCmd n f d).flt = d.flt := rfl
@[simp] theorem updCmd_rst (n : Nat) (f : Cmd → Cmd) : (updCmd n f d).rst = d.rst := rfl
@[simp] theorem updCmd_rings (n : Nat) (f : Cmd → Cmd) : (updCmd n f d).rings = d.rings := rfl
@[simp] theorem updCmd_fetchNo (n : Nat) (f : Cmd → Cmd) : (updCmd n f d).fetchNo = d.fetchNo := rfl
@[simp] theorem updCmd_metNo (n : Nat) (f : Cmd → Cmd) : (updCmd n f d).metNo = d.metNo := rfl
@[simp] theorem updCmd_rrRing (n : Nat) (f : Cmd → Cmd) : (updCmd n f d).rrRing = d.rrRing := rfl
@[simp] theorem updCmd_groups (n : Nat) (f : Cmd → Cmd) : (updCmd n f d).groups = d.groups := rfl
@[simp] theorem updCmd_lan (n : Nat) (f : Cmd → Cmd) : (updCmd n f d).lan = d.lan := rfl
@[simp] theorem updCmd_dies (n : Nat) (f : Cmd → Cmd) : (updCmd n f d).dies = d.dies := rfl
@[simp] theorem updCmd_chans (n : Nat) (f : Cmd → Cmd) : (updCmd n f d).chans = d.chans := rfl
@[simp] theorem updCmd_geom (n : Nat) (f : Cmd → Cmd) : (updCmd n f d).geom = d.geom := rfl
@[simp] theorem updCmd_rawp (n : Nat) (f : Cmd → Cmd) : (updCmd n f d).rawp = d.rawp := rfl
@[simp] theorem updCmd_seqs (n : Nat) (f : Cmd → Cmd) : (updCmd n f d).seqs = d.seqs := rfl
@[simp] theorem updCmd_loader (n : Nat) (f : Cmd → Cmd) : (updCmd n f d).loader = d.loader := rfl
@[simp] theorem updCmd_decs (n : Nat) (f : Cmd → Cmd) : (updCmd n f d).decs = d.decs := rfl
@[simp] theorem updCmd_clasp (n : Nat) (f : Cmd → Cmd) : (updCmd n f d).clasp = d.clasp := rfl
@[simp] theorem updCmd_tender (n : Nat) (f : Cmd → Cmd) : (updCmd n f d).tender = d.tender := rfl
@[simp] theorem updCmd_memLog (n : Nat) (f : Cmd → Cmd) : (updCmd n f d).memLog = d.memLog := rfl
@[simp] theorem updCmd_net (n : Nat) (f : Cmd → Cmd) : (updCmd n f d).net = d.net := rfl

/-! ### updGroup -/

@[simp] theorem updGroup_cfg (n : Nat) (f : Group → Group) : (updGroup n f d).cfg = d.cfg := rfl
@[simp] theorem updGroup_ts (n : Nat) (f : Group → Group) : (updGroup n f d).ts = d.ts := rfl
@[simp] theorem updGroup_up (n : Nat) (f : Group → Group) : (updGroup n f d).up = d.up := rfl
@[simp] theorem updGroup_free (n : Nat) (f : Group → Group) : (updGroup n f d).free = d.free := rfl
@[simp] theorem updGroup_od (n : Nat) (f : Group → Group) : (updGroup n f d).od = d.od := rfl
@[simp] theorem updGroup_ods (n : Nat) (f : Group → Group) : (updGroup n f d).ods = d.ods := rfl
@[simp] theorem updGroup_odBad (n : Nat) (f : Group → Group) : (updGroup n f d).odBad = d.odBad := rfl
@[simp] theorem updGroup_sat (n : Nat) (f : Group → Group) : (updGroup n f d).sat = d.sat := rfl
@[simp] theorem updGroup_ports (n : Nat) (f : Group → Group) : (updGroup n f d).ports = d.ports := rfl
@[simp] theorem updGroup_tele (n : Nat) (f : Group → Group) : (updGroup n f d).tele = d.tele := rfl
@[simp] theorem updGroup_masters (n : Nat) (f : Group → Group) : (updGroup n f d).masters = d.masters := rfl
@[simp] theorem updGroup_i3c (n : Nat) (f : Group → Group) : (updGroup n f d).i3c = d.i3c := rfl
@[simp] theorem updGroup_srcs (n : Nat) (f : Group → Group) : (updGroup n f d).srcs = d.srcs := rfl
@[simp] theorem updGroup_tgts (n : Nat) (f : Group → Group) : (updGroup n f d).tgts = d.tgts := rfl
@[simp] theorem updGroup_dbq (n : Nat) (f : Group → Group) : (updGroup n f d).dbq = d.dbq := rfl
@[simp] theorem updGroup_doms (n : Nat) (f : Group → Group) : (updGroup n f d).doms = d.doms := rfl
@[simp] theorem updGroup_pwrq (n : Nat) (f : Group → Group) : (updGroup n f d).pwrq = d.pwrq := rfl
@[simp] theorem updGroup_wakeP (n : Nat) (f : Group → Group) : (updGroup n f d).wakeP = d.wakeP := rfl
@[simp] theorem updGroup_nodes (n : Nat) (f : Group → Group) : (updGroup n f d).nodes = d.nodes := rfl
@[simp] theorem updGroup_sensors (n : Nat) (f : Group → Group) : (updGroup n f d).sensors = d.sensors := rfl
@[simp] theorem updGroup_therm (n : Nat) (f : Group → Group) : (updGroup n f d).therm = d.therm := rfl
@[simp] theorem updGroup_flt (n : Nat) (f : Group → Group) : (updGroup n f d).flt = d.flt := rfl
@[simp] theorem updGroup_rst (n : Nat) (f : Group → Group) : (updGroup n f d).rst = d.rst := rfl
@[simp] theorem updGroup_rings (n : Nat) (f : Group → Group) : (updGroup n f d).rings = d.rings := rfl
@[simp] theorem updGroup_cmds (n : Nat) (f : Group → Group) : (updGroup n f d).cmds = d.cmds := rfl
@[simp] theorem updGroup_fetchNo (n : Nat) (f : Group → Group) : (updGroup n f d).fetchNo = d.fetchNo := rfl
@[simp] theorem updGroup_metNo (n : Nat) (f : Group → Group) : (updGroup n f d).metNo = d.metNo := rfl
@[simp] theorem updGroup_rrRing (n : Nat) (f : Group → Group) : (updGroup n f d).rrRing = d.rrRing := rfl
@[simp] theorem updGroup_lan (n : Nat) (f : Group → Group) : (updGroup n f d).lan = d.lan := rfl
@[simp] theorem updGroup_dies (n : Nat) (f : Group → Group) : (updGroup n f d).dies = d.dies := rfl
@[simp] theorem updGroup_chans (n : Nat) (f : Group → Group) : (updGroup n f d).chans = d.chans := rfl
@[simp] theorem updGroup_geom (n : Nat) (f : Group → Group) : (updGroup n f d).geom = d.geom := rfl
@[simp] theorem updGroup_rawp (n : Nat) (f : Group → Group) : (updGroup n f d).rawp = d.rawp := rfl
@[simp] theorem updGroup_seqs (n : Nat) (f : Group → Group) : (updGroup n f d).seqs = d.seqs := rfl
@[simp] theorem updGroup_loader (n : Nat) (f : Group → Group) : (updGroup n f d).loader = d.loader := rfl
@[simp] theorem updGroup_decs (n : Nat) (f : Group → Group) : (updGroup n f d).decs = d.decs := rfl
@[simp] theorem updGroup_clasp (n : Nat) (f : Group → Group) : (updGroup n f d).clasp = d.clasp := rfl
@[simp] theorem updGroup_tender (n : Nat) (f : Group → Group) : (updGroup n f d).tender = d.tender := rfl
@[simp] theorem updGroup_memLog (n : Nat) (f : Group → Group) : (updGroup n f d).memLog = d.memLog := rfl
@[simp] theorem updGroup_net (n : Nat) (f : Group → Group) : (updGroup n f d).net = d.net := rfl

/-! ### updI3c -/

@[simp] theorem updI3c_cfg (f : I3c → I3c) : (updI3c f d).cfg = d.cfg := rfl
@[simp] theorem updI3c_ts (f : I3c → I3c) : (updI3c f d).ts = d.ts := rfl
@[simp] theorem updI3c_up (f : I3c → I3c) : (updI3c f d).up = d.up := rfl
@[simp] theorem updI3c_free (f : I3c → I3c) : (updI3c f d).free = d.free := rfl
@[simp] theorem updI3c_od (f : I3c → I3c) : (updI3c f d).od = d.od := rfl
@[simp] theorem updI3c_ods (f : I3c → I3c) : (updI3c f d).ods = d.ods := rfl
@[simp] theorem updI3c_odBad (f : I3c → I3c) : (updI3c f d).odBad = d.odBad := rfl
@[simp] theorem updI3c_sat (f : I3c → I3c) : (updI3c f d).sat = d.sat := rfl
@[simp] theorem updI3c_ports (f : I3c → I3c) : (updI3c f d).ports = d.ports := rfl
@[simp] theorem updI3c_tele (f : I3c → I3c) : (updI3c f d).tele = d.tele := rfl
@[simp] theorem updI3c_masters (f : I3c → I3c) : (updI3c f d).masters = d.masters := rfl
@[simp] theorem updI3c_srcs (f : I3c → I3c) : (updI3c f d).srcs = d.srcs := rfl
@[simp] theorem updI3c_tgts (f : I3c → I3c) : (updI3c f d).tgts = d.tgts := rfl
@[simp] theorem updI3c_dbq (f : I3c → I3c) : (updI3c f d).dbq = d.dbq := rfl
@[simp] theorem updI3c_doms (f : I3c → I3c) : (updI3c f d).doms = d.doms := rfl
@[simp] theorem updI3c_pwrq (f : I3c → I3c) : (updI3c f d).pwrq = d.pwrq := rfl
@[simp] theorem updI3c_wakeP (f : I3c → I3c) : (updI3c f d).wakeP = d.wakeP := rfl
@[simp] theorem updI3c_nodes (f : I3c → I3c) : (updI3c f d).nodes = d.nodes := rfl
@[simp] theorem updI3c_sensors (f : I3c → I3c) : (updI3c f d).sensors = d.sensors := rfl
@[simp] theorem updI3c_therm (f : I3c → I3c) : (updI3c f d).therm = d.therm := rfl
@[simp] theorem updI3c_flt (f : I3c → I3c) : (updI3c f d).flt = d.flt := rfl
@[simp] theorem updI3c_rst (f : I3c → I3c) : (updI3c f d).rst = d.rst := rfl
@[simp] theorem updI3c_rings (f : I3c → I3c) : (updI3c f d).rings = d.rings := rfl
@[simp] theorem updI3c_cmds (f : I3c → I3c) : (updI3c f d).cmds = d.cmds := rfl
@[simp] theorem updI3c_fetchNo (f : I3c → I3c) : (updI3c f d).fetchNo = d.fetchNo := rfl
@[simp] theorem updI3c_metNo (f : I3c → I3c) : (updI3c f d).metNo = d.metNo := rfl
@[simp] theorem updI3c_rrRing (f : I3c → I3c) : (updI3c f d).rrRing = d.rrRing := rfl
@[simp] theorem updI3c_groups (f : I3c → I3c) : (updI3c f d).groups = d.groups := rfl
@[simp] theorem updI3c_lan (f : I3c → I3c) : (updI3c f d).lan = d.lan := rfl
@[simp] theorem updI3c_dies (f : I3c → I3c) : (updI3c f d).dies = d.dies := rfl
@[simp] theorem updI3c_chans (f : I3c → I3c) : (updI3c f d).chans = d.chans := rfl
@[simp] theorem updI3c_geom (f : I3c → I3c) : (updI3c f d).geom = d.geom := rfl
@[simp] theorem updI3c_rawp (f : I3c → I3c) : (updI3c f d).rawp = d.rawp := rfl
@[simp] theorem updI3c_seqs (f : I3c → I3c) : (updI3c f d).seqs = d.seqs := rfl
@[simp] theorem updI3c_loader (f : I3c → I3c) : (updI3c f d).loader = d.loader := rfl
@[simp] theorem updI3c_decs (f : I3c → I3c) : (updI3c f d).decs = d.decs := rfl
@[simp] theorem updI3c_clasp (f : I3c → I3c) : (updI3c f d).clasp = d.clasp := rfl
@[simp] theorem updI3c_tender (f : I3c → I3c) : (updI3c f d).tender = d.tender := rfl
@[simp] theorem updI3c_memLog (f : I3c → I3c) : (updI3c f d).memLog = d.memLog := rfl
@[simp] theorem updI3c_net (f : I3c → I3c) : (updI3c f d).net = d.net := rfl

/-! ### sendFor, linksReset, linksOff -/

@[simp] theorem sendFor_cfg (o : Option Nat) (a b : NUnit) (c : NClass) (n : Nat) :
    (sendFor o a b c n d).cfg = d.cfg := by unfold sendFor; split <;> rfl
@[simp] theorem sendFor_ts (o : Option Nat) (a b : NUnit) (c : NClass) (n : Nat) :
    (sendFor o a b c n d).ts = d.ts := by unfold sendFor; split <;> rfl
@[simp] theorem sendFor_up (o : Option Nat) (a b : NUnit) (c : NClass) (n : Nat) :
    (sendFor o a b c n d).up = d.up := by unfold sendFor; split <;> rfl
@[simp] theorem sendFor_free (o : Option Nat) (a b : NUnit) (c : NClass) (n : Nat) :
    (sendFor o a b c n d).free = d.free := by unfold sendFor; split <;> rfl
@[simp] theorem sendFor_od (o : Option Nat) (a b : NUnit) (c : NClass) (n : Nat) :
    (sendFor o a b c n d).od = d.od := by unfold sendFor; split <;> rfl
@[simp] theorem sendFor_ods (o : Option Nat) (a b : NUnit) (c : NClass) (n : Nat) :
    (sendFor o a b c n d).ods = d.ods := by unfold sendFor; split <;> rfl
@[simp] theorem sendFor_odBad (o : Option Nat) (a b : NUnit) (c : NClass) (n : Nat) :
    (sendFor o a b c n d).odBad = d.odBad := by unfold sendFor; split <;> rfl
@[simp] theorem sendFor_sat (o : Option Nat) (a b : NUnit) (c : NClass) (n : Nat) :
    (sendFor o a b c n d).sat = d.sat := by unfold sendFor; split <;> rfl
@[simp] theorem sendFor_ports (o : Option Nat) (a b : NUnit) (c : NClass) (n : Nat) :
    (sendFor o a b c n d).ports = d.ports := by unfold sendFor; split <;> rfl
@[simp] theorem sendFor_tele (o : Option Nat) (a b : NUnit) (c : NClass) (n : Nat) :
    (sendFor o a b c n d).tele = d.tele := by unfold sendFor; split <;> rfl
@[simp] theorem sendFor_masters (o : Option Nat) (a b : NUnit) (c : NClass) (n : Nat) :
    (sendFor o a b c n d).masters = d.masters := by unfold sendFor; split <;> rfl
@[simp] theorem sendFor_i3c (o : Option Nat) (a b : NUnit) (c : NClass) (n : Nat) :
    (sendFor o a b c n d).i3c = d.i3c := by unfold sendFor; split <;> rfl
@[simp] theorem sendFor_srcs (o : Option Nat) (a b : NUnit) (c : NClass) (n : Nat) :
    (sendFor o a b c n d).srcs = d.srcs := by unfold sendFor; split <;> rfl
@[simp] theorem sendFor_tgts (o : Option Nat) (a b : NUnit) (c : NClass) (n : Nat) :
    (sendFor o a b c n d).tgts = d.tgts := by unfold sendFor; split <;> rfl
@[simp] theorem sendFor_dbq (o : Option Nat) (a b : NUnit) (c : NClass) (n : Nat) :
    (sendFor o a b c n d).dbq = d.dbq := by unfold sendFor; split <;> rfl
@[simp] theorem sendFor_doms (o : Option Nat) (a b : NUnit) (c : NClass) (n : Nat) :
    (sendFor o a b c n d).doms = d.doms := by unfold sendFor; split <;> rfl
@[simp] theorem sendFor_pwrq (o : Option Nat) (a b : NUnit) (c : NClass) (n : Nat) :
    (sendFor o a b c n d).pwrq = d.pwrq := by unfold sendFor; split <;> rfl
@[simp] theorem sendFor_wakeP (o : Option Nat) (a b : NUnit) (c : NClass) (n : Nat) :
    (sendFor o a b c n d).wakeP = d.wakeP := by unfold sendFor; split <;> rfl
@[simp] theorem sendFor_nodes (o : Option Nat) (a b : NUnit) (c : NClass) (n : Nat) :
    (sendFor o a b c n d).nodes = d.nodes := by unfold sendFor; split <;> rfl
@[simp] theorem sendFor_sensors (o : Option Nat) (a b : NUnit) (c : NClass) (n : Nat) :
    (sendFor o a b c n d).sensors = d.sensors := by unfold sendFor; split <;> rfl
@[simp] theorem sendFor_therm (o : Option Nat) (a b : NUnit) (c : NClass) (n : Nat) :
    (sendFor o a b c n d).therm = d.therm := by unfold sendFor; split <;> rfl
@[simp] theorem sendFor_flt (o : Option Nat) (a b : NUnit) (c : NClass) (n : Nat) :
    (sendFor o a b c n d).flt = d.flt := by unfold sendFor; split <;> rfl
@[simp] theorem sendFor_rst (o : Option Nat) (a b : NUnit) (c : NClass) (n : Nat) :
    (sendFor o a b c n d).rst = d.rst := by unfold sendFor; split <;> rfl
@[simp] theorem sendFor_rings (o : Option Nat) (a b : NUnit) (c : NClass) (n : Nat) :
    (sendFor o a b c n d).rings = d.rings := by unfold sendFor; split <;> rfl
@[simp] theorem sendFor_cmds (o : Option Nat) (a b : NUnit) (c : NClass) (n : Nat) :
    (sendFor o a b c n d).cmds = d.cmds := by unfold sendFor; split <;> rfl
@[simp] theorem sendFor_fetchNo (o : Option Nat) (a b : NUnit) (c : NClass) (n : Nat) :
    (sendFor o a b c n d).fetchNo = d.fetchNo := by unfold sendFor; split <;> rfl
@[simp] theorem sendFor_metNo (o : Option Nat) (a b : NUnit) (c : NClass) (n : Nat) :
    (sendFor o a b c n d).metNo = d.metNo := by unfold sendFor; split <;> rfl
@[simp] theorem sendFor_rrRing (o : Option Nat) (a b : NUnit) (c : NClass) (n : Nat) :
    (sendFor o a b c n d).rrRing = d.rrRing := by unfold sendFor; split <;> rfl
@[simp] theorem sendFor_groups (o : Option Nat) (a b : NUnit) (c : NClass) (n : Nat) :
    (sendFor o a b c n d).groups = d.groups := by unfold sendFor; split <;> rfl
@[simp] theorem sendFor_lan (o : Option Nat) (a b : NUnit) (c : NClass) (n : Nat) :
    (sendFor o a b c n d).lan = d.lan := by unfold sendFor; split <;> rfl
@[simp] theorem sendFor_dies (o : Option Nat) (a b : NUnit) (c : NClass) (n : Nat) :
    (sendFor o a b c n d).dies = d.dies := by unfold sendFor; split <;> rfl
@[simp] theorem sendFor_chans (o : Option Nat) (a b : NUnit) (c : NClass) (n : Nat) :
    (sendFor o a b c n d).chans = d.chans := by unfold sendFor; split <;> rfl
@[simp] theorem sendFor_geom (o : Option Nat) (a b : NUnit) (c : NClass) (n : Nat) :
    (sendFor o a b c n d).geom = d.geom := by unfold sendFor; split <;> rfl
@[simp] theorem sendFor_rawp (o : Option Nat) (a b : NUnit) (c : NClass) (n : Nat) :
    (sendFor o a b c n d).rawp = d.rawp := by unfold sendFor; split <;> rfl
@[simp] theorem sendFor_seqs (o : Option Nat) (a b : NUnit) (c : NClass) (n : Nat) :
    (sendFor o a b c n d).seqs = d.seqs := by unfold sendFor; split <;> rfl
@[simp] theorem sendFor_loader (o : Option Nat) (a b : NUnit) (c : NClass) (n : Nat) :
    (sendFor o a b c n d).loader = d.loader := by unfold sendFor; split <;> rfl
@[simp] theorem sendFor_decs (o : Option Nat) (a b : NUnit) (c : NClass) (n : Nat) :
    (sendFor o a b c n d).decs = d.decs := by unfold sendFor; split <;> rfl
@[simp] theorem sendFor_clasp (o : Option Nat) (a b : NUnit) (c : NClass) (n : Nat) :
    (sendFor o a b c n d).clasp = d.clasp := by unfold sendFor; split <;> rfl
@[simp] theorem sendFor_tender (o : Option Nat) (a b : NUnit) (c : NClass) (n : Nat) :
    (sendFor o a b c n d).tender = d.tender := by unfold sendFor; split <;> rfl
@[simp] theorem sendFor_memLog (o : Option Nat) (a b : NUnit) (c : NClass) (n : Nat) :
    (sendFor o a b c n d).memLog = d.memLog := by unfold sendFor; split <;> rfl
@[simp] theorem send_cfg (a b : NUnit) (c : NClass) (n : Nat) : (send a b c n d).cfg = d.cfg := by simp [send]
@[simp] theorem send_ts (a b : NUnit) (c : NClass) (n : Nat) : (send a b c n d).ts = d.ts := by simp [send]
@[simp] theorem send_up (a b : NUnit) (c : NClass) (n : Nat) : (send a b c n d).up = d.up := by simp [send]
@[simp] theorem send_free (a b : NUnit) (c : NClass) (n : Nat) : (send a b c n d).free = d.free := by simp [send]
@[simp] theorem send_od (a b : NUnit) (c : NClass) (n : Nat) : (send a b c n d).od = d.od := by simp [send]
@[simp] theorem send_ods (a b : NUnit) (c : NClass) (n : Nat) : (send a b c n d).ods = d.ods := by simp [send]
@[simp] theorem send_odBad (a b : NUnit) (c : NClass) (n : Nat) : (send a b c n d).odBad = d.odBad := by simp [send]
@[simp] theorem send_sat (a b : NUnit) (c : NClass) (n : Nat) : (send a b c n d).sat = d.sat := by simp [send]
@[simp] theorem send_ports (a b : NUnit) (c : NClass) (n : Nat) : (send a b c n d).ports = d.ports := by simp [send]
@[simp] theorem send_tele (a b : NUnit) (c : NClass) (n : Nat) : (send a b c n d).tele = d.tele := by simp [send]
@[simp] theorem send_masters (a b : NUnit) (c : NClass) (n : Nat) : (send a b c n d).masters = d.masters := by simp [send]
@[simp] theorem send_i3c (a b : NUnit) (c : NClass) (n : Nat) : (send a b c n d).i3c = d.i3c := by simp [send]
@[simp] theorem send_srcs (a b : NUnit) (c : NClass) (n : Nat) : (send a b c n d).srcs = d.srcs := by simp [send]
@[simp] theorem send_tgts (a b : NUnit) (c : NClass) (n : Nat) : (send a b c n d).tgts = d.tgts := by simp [send]
@[simp] theorem send_dbq (a b : NUnit) (c : NClass) (n : Nat) : (send a b c n d).dbq = d.dbq := by simp [send]
@[simp] theorem send_doms (a b : NUnit) (c : NClass) (n : Nat) : (send a b c n d).doms = d.doms := by simp [send]
@[simp] theorem send_pwrq (a b : NUnit) (c : NClass) (n : Nat) : (send a b c n d).pwrq = d.pwrq := by simp [send]
@[simp] theorem send_wakeP (a b : NUnit) (c : NClass) (n : Nat) : (send a b c n d).wakeP = d.wakeP := by simp [send]
@[simp] theorem send_nodes (a b : NUnit) (c : NClass) (n : Nat) : (send a b c n d).nodes = d.nodes := by simp [send]
@[simp] theorem send_sensors (a b : NUnit) (c : NClass) (n : Nat) : (send a b c n d).sensors = d.sensors := by simp [send]
@[simp] theorem send_therm (a b : NUnit) (c : NClass) (n : Nat) : (send a b c n d).therm = d.therm := by simp [send]
@[simp] theorem send_flt (a b : NUnit) (c : NClass) (n : Nat) : (send a b c n d).flt = d.flt := by simp [send]
@[simp] theorem send_rst (a b : NUnit) (c : NClass) (n : Nat) : (send a b c n d).rst = d.rst := by simp [send]
@[simp] theorem send_rings (a b : NUnit) (c : NClass) (n : Nat) : (send a b c n d).rings = d.rings := by simp [send]
@[simp] theorem send_cmds (a b : NUnit) (c : NClass) (n : Nat) : (send a b c n d).cmds = d.cmds := by simp [send]
@[simp] theorem send_fetchNo (a b : NUnit) (c : NClass) (n : Nat) : (send a b c n d).fetchNo = d.fetchNo := by simp [send]
@[simp] theorem send_metNo (a b : NUnit) (c : NClass) (n : Nat) : (send a b c n d).metNo = d.metNo := by simp [send]
@[simp] theorem send_rrRing (a b : NUnit) (c : NClass) (n : Nat) : (send a b c n d).rrRing = d.rrRing := by simp [send]
@[simp] theorem send_groups (a b : NUnit) (c : NClass) (n : Nat) : (send a b c n d).groups = d.groups := by simp [send]
@[simp] theorem send_lan (a b : NUnit) (c : NClass) (n : Nat) : (send a b c n d).lan = d.lan := by simp [send]
@[simp] theorem send_dies (a b : NUnit) (c : NClass) (n : Nat) : (send a b c n d).dies = d.dies := by simp [send]
@[simp] theorem send_chans (a b : NUnit) (c : NClass) (n : Nat) : (send a b c n d).chans = d.chans := by simp [send]
@[simp] theorem send_geom (a b : NUnit) (c : NClass) (n : Nat) : (send a b c n d).geom = d.geom := by simp [send]
@[simp] theorem send_rawp (a b : NUnit) (c : NClass) (n : Nat) : (send a b c n d).rawp = d.rawp := by simp [send]
@[simp] theorem send_seqs (a b : NUnit) (c : NClass) (n : Nat) : (send a b c n d).seqs = d.seqs := by simp [send]
@[simp] theorem send_loader (a b : NUnit) (c : NClass) (n : Nat) : (send a b c n d).loader = d.loader := by simp [send]
@[simp] theorem send_decs (a b : NUnit) (c : NClass) (n : Nat) : (send a b c n d).decs = d.decs := by simp [send]
@[simp] theorem send_clasp (a b : NUnit) (c : NClass) (n : Nat) : (send a b c n d).clasp = d.clasp := by simp [send]
@[simp] theorem send_tender (a b : NUnit) (c : NClass) (n : Nat) : (send a b c n d).tender = d.tender := by simp [send]
@[simp] theorem send_memLog (a b : NUnit) (c : NClass) (n : Nat) : (send a b c n d).memLog = d.memLog := by simp [send]
@[simp] theorem linksReset_cfg (n : Nat) : (linksReset n d).cfg = d.cfg := rfl
@[simp] theorem linksReset_ts (n : Nat) : (linksReset n d).ts = d.ts := rfl
@[simp] theorem linksReset_up (n : Nat) : (linksReset n d).up = d.up := rfl
@[simp] theorem linksReset_free (n : Nat) : (linksReset n d).free = d.free := rfl
@[simp] theorem linksReset_od (n : Nat) : (linksReset n d).od = d.od := rfl
@[simp] theorem linksReset_ods (n : Nat) : (linksReset n d).ods = d.ods := rfl
@[simp] theorem linksReset_odBad (n : Nat) : (linksReset n d).odBad = d.odBad := rfl
@[simp] theorem linksReset_sat (n : Nat) : (linksReset n d).sat = d.sat := rfl
@[simp] theorem linksReset_ports (n : Nat) : (linksReset n d).ports = d.ports := rfl
@[simp] theorem linksReset_tele (n : Nat) : (linksReset n d).tele = d.tele := rfl
@[simp] theorem linksReset_masters (n : Nat) : (linksReset n d).masters = d.masters := rfl
@[simp] theorem linksReset_i3c (n : Nat) : (linksReset n d).i3c = d.i3c := rfl
@[simp] theorem linksReset_srcs (n : Nat) : (linksReset n d).srcs = d.srcs := rfl
@[simp] theorem linksReset_tgts (n : Nat) : (linksReset n d).tgts = d.tgts := rfl
@[simp] theorem linksReset_dbq (n : Nat) : (linksReset n d).dbq = d.dbq := rfl
@[simp] theorem linksReset_doms (n : Nat) : (linksReset n d).doms = d.doms := rfl
@[simp] theorem linksReset_pwrq (n : Nat) : (linksReset n d).pwrq = d.pwrq := rfl
@[simp] theorem linksReset_wakeP (n : Nat) : (linksReset n d).wakeP = d.wakeP := rfl
@[simp] theorem linksReset_nodes (n : Nat) : (linksReset n d).nodes = d.nodes := rfl
@[simp] theorem linksReset_sensors (n : Nat) : (linksReset n d).sensors = d.sensors := rfl
@[simp] theorem linksReset_therm (n : Nat) : (linksReset n d).therm = d.therm := rfl
@[simp] theorem linksReset_flt (n : Nat) : (linksReset n d).flt = d.flt := rfl
@[simp] theorem linksReset_rst (n : Nat) : (linksReset n d).rst = d.rst := rfl
@[simp] theorem linksReset_rings (n : Nat) : (linksReset n d).rings = d.rings := rfl
@[simp] theorem linksReset_cmds (n : Nat) : (linksReset n d).cmds = d.cmds := rfl
@[simp] theorem linksReset_fetchNo (n : Nat) : (linksReset n d).fetchNo = d.fetchNo := rfl
@[simp] theorem linksReset_metNo (n : Nat) : (linksReset n d).metNo = d.metNo := rfl
@[simp] theorem linksReset_rrRing (n : Nat) : (linksReset n d).rrRing = d.rrRing := rfl
@[simp] theorem linksReset_groups (n : Nat) : (linksReset n d).groups = d.groups := rfl
@[simp] theorem linksReset_lan (n : Nat) : (linksReset n d).lan = d.lan := rfl
@[simp] theorem linksReset_dies (n : Nat) : (linksReset n d).dies = d.dies := rfl
@[simp] theorem linksReset_chans (n : Nat) : (linksReset n d).chans = d.chans := rfl
@[simp] theorem linksReset_geom (n : Nat) : (linksReset n d).geom = d.geom := rfl
@[simp] theorem linksReset_rawp (n : Nat) : (linksReset n d).rawp = d.rawp := rfl
@[simp] theorem linksReset_seqs (n : Nat) : (linksReset n d).seqs = d.seqs := rfl
@[simp] theorem linksReset_loader (n : Nat) : (linksReset n d).loader = d.loader := rfl
@[simp] theorem linksReset_decs (n : Nat) : (linksReset n d).decs = d.decs := rfl
@[simp] theorem linksReset_clasp (n : Nat) : (linksReset n d).clasp = d.clasp := rfl
@[simp] theorem linksReset_tender (n : Nat) : (linksReset n d).tender = d.tender := rfl
@[simp] theorem linksReset_memLog (n : Nat) : (linksReset n d).memLog = d.memLog := rfl
@[simp] theorem linksOff_cfg (n : Nat) : (linksOff n d).cfg = d.cfg := rfl
@[simp] theorem linksOff_ts (n : Nat) : (linksOff n d).ts = d.ts := rfl
@[simp] theorem linksOff_up (n : Nat) : (linksOff n d).up = d.up := rfl
@[simp] theorem linksOff_free (n : Nat) : (linksOff n d).free = d.free := rfl
@[simp] theorem linksOff_od (n : Nat) : (linksOff n d).od = d.od := rfl
@[simp] theorem linksOff_ods (n : Nat) : (linksOff n d).ods = d.ods := rfl
@[simp] theorem linksOff_odBad (n : Nat) : (linksOff n d).odBad = d.odBad := rfl
@[simp] theorem linksOff_sat (n : Nat) : (linksOff n d).sat = d.sat := rfl
@[simp] theorem linksOff_ports (n : Nat) : (linksOff n d).ports = d.ports := rfl
@[simp] theorem linksOff_tele (n : Nat) : (linksOff n d).tele = d.tele := rfl
@[simp] theorem linksOff_masters (n : Nat) : (linksOff n d).masters = d.masters := rfl
@[simp] theorem linksOff_i3c (n : Nat) : (linksOff n d).i3c = d.i3c := rfl
@[simp] theorem linksOff_srcs (n : Nat) : (linksOff n d).srcs = d.srcs := rfl
@[simp] theorem linksOff_tgts (n : Nat) : (linksOff n d).tgts = d.tgts := rfl
@[simp] theorem linksOff_dbq (n : Nat) : (linksOff n d).dbq = d.dbq := rfl
@[simp] theorem linksOff_doms (n : Nat) : (linksOff n d).doms = d.doms := rfl
@[simp] theorem linksOff_pwrq (n : Nat) : (linksOff n d).pwrq = d.pwrq := rfl
@[simp] theorem linksOff_wakeP (n : Nat) : (linksOff n d).wakeP = d.wakeP := rfl
@[simp] theorem linksOff_nodes (n : Nat) : (linksOff n d).nodes = d.nodes := rfl
@[simp] theorem linksOff_sensors (n : Nat) : (linksOff n d).sensors = d.sensors := rfl
@[simp] theorem linksOff_therm (n : Nat) : (linksOff n d).therm = d.therm := rfl
@[simp] theorem linksOff_flt (n : Nat) : (linksOff n d).flt = d.flt := rfl
@[simp] theorem linksOff_rst (n : Nat) : (linksOff n d).rst = d.rst := rfl
@[simp] theorem linksOff_rings (n : Nat) : (linksOff n d).rings = d.rings := rfl
@[simp] theorem linksOff_cmds (n : Nat) : (linksOff n d).cmds = d.cmds := rfl
@[simp] theorem linksOff_fetchNo (n : Nat) : (linksOff n d).fetchNo = d.fetchNo := rfl
@[simp] theorem linksOff_metNo (n : Nat) : (linksOff n d).metNo = d.metNo := rfl
@[simp] theorem linksOff_rrRing (n : Nat) : (linksOff n d).rrRing = d.rrRing := rfl
@[simp] theorem linksOff_groups (n : Nat) : (linksOff n d).groups = d.groups := rfl
@[simp] theorem linksOff_lan (n : Nat) : (linksOff n d).lan = d.lan := rfl
@[simp] theorem linksOff_dies (n : Nat) : (linksOff n d).dies = d.dies := rfl
@[simp] theorem linksOff_chans (n : Nat) : (linksOff n d).chans = d.chans := rfl
@[simp] theorem linksOff_geom (n : Nat) : (linksOff n d).geom = d.geom := rfl
@[simp] theorem linksOff_rawp (n : Nat) : (linksOff n d).rawp = d.rawp := rfl
@[simp] theorem linksOff_seqs (n : Nat) : (linksOff n d).seqs = d.seqs := rfl
@[simp] theorem linksOff_loader (n : Nat) : (linksOff n d).loader = d.loader := rfl
@[simp] theorem linksOff_decs (n : Nat) : (linksOff n d).decs = d.decs := rfl
@[simp] theorem linksOff_clasp (n : Nat) : (linksOff n d).clasp = d.clasp := rfl
@[simp] theorem linksOff_tender (n : Nat) : (linksOff n d).tender = d.tender := rfl
@[simp] theorem linksOff_memLog (n : Nat) : (linksOff n d).memLog = d.memLog := rfl

end Sys2Proof.Machine
end

