-- ==== Sys2Proof/Laws/Tab.lean ====
section
/-! SUPPORT. The laws of the sparse tables: a read after a write, and the canonical form that every write keeps. -/

namespace Sys2Proof.Machine

variable {α : Type}

@[simp] theorem tabGet_nil (v : α) (k : Nat) : tabGet v [] k = v := rfl

theorem tabGet_tabErase_self (v : α) (t : Tab α) (k : Nat) : tabGet v (tabErase t k) k = v := by
  induction t with
  | nil => rfl
  | cons p t ih =>
    obtain ⟨j, w⟩ := p
    by_cases h : j = k <;> simp [tabErase, tabGet, h, ih]

theorem tabGet_tabErase_ne (v : α) (t : Tab α) {k j : Nat} (h : j ≠ k) :
    tabGet v (tabErase t k) j = tabGet v t j := by
  induction t with
  | nil => rfl
  | cons p t ih =>
    obtain ⟨i, w⟩ := p
    by_cases hi : i = k
    · subst hi
      simp [tabErase, tabGet, ih, Ne.symm h]
    · simp [tabErase, tabGet, hi, ih]

theorem tabGet_tabInsert_ne (v : α) (t : Tab α) {k j : Nat} (w : α) (h : j ≠ k) :
    tabGet v (tabInsert t k w) j = tabGet v t j := by
  induction t with
  | nil => simp [tabInsert, tabGet, Ne.symm h]
  | cons p t ih =>
    obtain ⟨i, x⟩ := p
    by_cases hi : k < i
    · simp [tabInsert, tabGet, hi, Ne.symm h]
    · simp [tabInsert, tabGet, hi, ih]

/-- No key of a table is k. -/
theorem tabGet_tabInsert_self (v : α) (t : Tab α) (k : Nat) (w : α) (h : ∀ p ∈ t, p.1 ≠ k) :
    tabGet v (tabInsert t k w) k = w := by
  induction t with
  | nil => simp [tabInsert, tabGet]
  | cons p t ih =>
    obtain ⟨i, x⟩ := p
    have hi : i ≠ k := h (i, x) (by simp)
    by_cases hk : k < i
    · simp [tabInsert, tabGet, hk]
    · simp [tabInsert, tabGet, hk, hi, ih (fun p hp => h p (List.mem_cons_of_mem _ hp))]

theorem tabErase_ne_key (t : Tab α) (k : Nat) : ∀ p ∈ tabErase t k, p.1 ≠ k := by
  induction t with
  | nil => simp [tabErase]
  | cons p t ih =>
    obtain ⟨i, x⟩ := p
    by_cases hi : i = k
    · simpa [tabErase, hi] using ih
    · simp only [tabErase, hi, if_false, List.mem_cons]
      rintro q (rfl | hq)
      · exact hi
      · exact ih q hq

/-- A read of the written key gives what was written. -/
@[simp] theorem tabGet_tabSet_self [DecidableEq α] (v : α) (t : Tab α) (k : Nat) (w : α) :
    tabGet v (tabSet v t k w) k = w := by
  unfold tabSet
  split
  · next h => rw [tabGet_tabErase_self, h]
  · exact tabGet_tabInsert_self v _ k w (tabErase_ne_key t k)

/-- A write leaves every other key alone, whatever default either uses. -/
theorem tabGet_tabSet_ne [DecidableEq α] (u v : α) (t : Tab α) {k j : Nat} (w : α) (h : j ≠ k) :
    tabGet u (tabSet v t k w) j = tabGet u t j := by
  unfold tabSet
  split
  · exact tabGet_tabErase_ne u t h
  · rw [tabGet_tabInsert_ne u _ w h, tabGet_tabErase_ne u t h]

/-- Keys strictly rising, as a pairwise relation. -/
theorem tabSorted_iff (t : Tab α) : tabSorted t = true ↔ t.Pairwise (fun p q => p.1 < q.1) := by
  induction t with
  | nil => simp [tabSorted]
  | cons p t ih =>
    cases t with
    | nil => simp [tabSorted]
    | cons q t =>
      rw [List.pairwise_cons]
      simp only [tabSorted, Bool.and_eq_true, decide_eq_true_eq, ih]
      constructor
      · rintro ⟨h1, h2⟩
        refine ⟨?_, h2⟩
        intro r hr
        rcases List.mem_cons.mp hr with rfl | hr
        · exact h1
        · exact lt_trans h1 ((List.pairwise_cons.mp h2).1 r hr)
      · rintro ⟨h1, h2⟩
        exact ⟨h1 q (by simp), h2⟩

theorem tabErase_eq_filter (t : Tab α) (k : Nat) : tabErase t k = t.filter (fun p => p.1 ≠ k) := by
  induction t with
  | nil => rfl
  | cons p t ih =>
    obtain ⟨i, x⟩ := p
    by_cases hi : i = k <;> simp [tabErase, hi, ih]

theorem mem_tabInsert (t : Tab α) (k : Nat) (w : α) (p : Nat × α) :
    p ∈ tabInsert t k w ↔ p = (k, w) ∨ p ∈ t := by
  induction t with
  | nil => simp [tabInsert]
  | cons q t ih =>
    obtain ⟨i, x⟩ := q
    by_cases hk : k < i
    · simp [tabInsert, hk]
    · simp only [tabInsert, hk, if_false, List.mem_cons, ih]
      tauto

theorem tabSorted_tabErase {t : Tab α} (k : Nat) (h : tabSorted t = true) : tabSorted (tabErase t k) = true := by
  rw [tabSorted_iff] at *
  rw [tabErase_eq_filter]
  exact h.filter _

theorem tabSorted_tabInsert {t : Tab α} (k : Nat) (w : α) (h : tabSorted t = true) (hk : ∀ p ∈ t, p.1 ≠ k) :
    tabSorted (tabInsert t k w) = true := by
  rw [tabSorted_iff] at *
  induction t with
  | nil => simp [tabInsert]
  | cons q t ih =>
    obtain ⟨i, x⟩ := q
    have h1 := (List.pairwise_cons.mp h).1
    have h2 := (List.pairwise_cons.mp h).2
    by_cases hlt : k < i
    · simp only [tabInsert, hlt, if_true, List.pairwise_cons]
      refine ⟨?_, h1, h2⟩
      intro r hr
      rcases List.mem_cons.mp hr with rfl | hr
      · exact hlt
      · exact lt_trans hlt (h1 r hr)
    · simp only [tabInsert, hlt, if_false, List.pairwise_cons]
      have hi : i ≠ k := hk (i, x) (by simp)
      refine ⟨?_, ih h2 (fun p hp => hk p (List.mem_cons_of_mem _ hp))⟩
      intro r hr
      rcases (mem_tabInsert t k w r).mp hr with rfl | hr
      · show i < k
        omega
      · exact h1 r hr

/-- A write keeps the canonical form: keys strictly rising, no entry equal to its default. -/
theorem tabWf_tabSet [DecidableEq α] (dflt : Nat → α) {t : Tab α} (k : Nat) (w : α) (h : tabWf dflt t = true) :
    tabWf dflt (tabSet (dflt k) t k w) = true := by
  unfold tabWf at *
  rw [Bool.and_eq_true, List.all_eq_true] at *
  obtain ⟨h1, h2⟩ := h
  have he : ∀ p ∈ tabErase t k, decide (p.2 ≠ dflt p.1) = true := by
    intro p hp
    rw [tabErase_eq_filter] at hp
    exact h2 p (List.mem_filter.mp hp).1
  unfold tabSet
  split
  · exact ⟨tabSorted_tabErase k h1, he⟩
  · next hw =>
    refine ⟨tabSorted_tabInsert k w (tabSorted_tabErase k h1) (tabErase_ne_key t k), ?_⟩
    intro p hp
    rcases (mem_tabInsert _ k w p).mp hp with rfl | hp
    · simpa using hw
    · exact he p hp

/-! ### Tables of bytes -/

theorem byteEntries_keys (dflt : Nat → Byte) (bs : Bytes) (a : Nat) :
    ∀ p ∈ byteEntries dflt a bs, a ≤ p.1 ∧ p.1 < a + bs.length ∧ p.2 ≠ dflt p.1 := by
  induction bs generalizing a with
  | nil => simp [byteEntries]
  | cons b bs ih =>
    intro p hp
    unfold byteEntries at hp
    split at hp
    · obtain ⟨h1, h2, h3⟩ := ih (a + 1) p hp
      simp only [List.length_cons]
      exact ⟨by omega, by omega, h3⟩
    · next hb =>
      rcases List.mem_cons.mp hp with rfl | hp
      · simp only [List.length_cons]
        exact ⟨le_refl _, by omega, hb⟩
      · obtain ⟨h1, h2, h3⟩ := ih (a + 1) p hp
        simp only [List.length_cons]
        exact ⟨by omega, by omega, h3⟩

theorem byteEntries_sorted (dflt : Nat → Byte) (bs : Bytes) (a : Nat) :
    (byteEntries dflt a bs).Pairwise (fun p q => p.1 < q.1) := by
  induction bs generalizing a with
  | nil => simp [byteEntries]
  | cons b bs ih =>
    unfold byteEntries
    split
    · exact ih (a + 1)
    · rw [List.pairwise_cons]
      refine ⟨?_, ih (a + 1)⟩
      intro p hp
      have := byteEntries_keys dflt bs (a + 1) p hp
      show a < p.1
      omega

/-- Writing bytes keeps the canonical form. -/
theorem tabWf_tabWriteBytes (dflt : Nat → Byte) {t : Tab Byte} (a : Nat) (bs : Bytes) (h : tabWf dflt t = true) :
    tabWf dflt (tabWriteBytes dflt t a bs) = true := by
  unfold tabWf at *
  rw [Bool.and_eq_true, List.all_eq_true] at *
  obtain ⟨h1, h2⟩ := h
  rw [tabSorted_iff] at *
  unfold tabWriteBytes
  constructor
  · rw [List.append_assoc, List.pairwise_append, List.pairwise_append]
    refine ⟨h1.filter _, ⟨byteEntries_sorted dflt bs a, h1.filter _, ?_⟩, ?_⟩
    · intro p hp q hq
      have hp := byteEntries_keys dflt bs a p hp
      have hq := (List.mem_filter.mp hq).2
      simp only [decide_eq_true_eq] at hq
      omega
    · intro p hp q hq
      have hp := (List.mem_filter.mp hp).2
      simp only [decide_eq_true_eq] at hp
      rcases List.mem_append.mp hq with hq | hq
      · have hq := byteEntries_keys dflt bs a q hq
        omega
      · have hq := (List.mem_filter.mp hq).2
        simp only [decide_eq_true_eq] at hq
        omega
  · intro p hp
    rcases List.mem_append.mp hp with hp | hp
    · rcases List.mem_append.mp hp with hp | hp
      · exact h2 p (List.mem_filter.mp hp).1
      · simpa using (byteEntries_keys dflt bs a p hp).2.2
    · exact h2 p (List.mem_filter.mp hp).1

theorem tabGet_append (v : α) (t u : Tab α) (k : Nat) (h : ∀ p ∈ t, p.1 ≠ k) :
    tabGet v (t ++ u) k = tabGet v u k := by
  induction t with
  | nil => rfl
  | cons p t ih =>
    obtain ⟨i, x⟩ := p
    have hi : i ≠ k := h (i, x) (by simp)
    simp [tabGet, hi, ih (fun p hp => h p (List.mem_cons_of_mem _ hp))]

theorem tabGet_append_left (v : α) (t u : Tab α) (k : Nat) (h : ∀ p ∈ u, p.1 ≠ k) :
    tabGet v (t ++ u) k = tabGet v t k := by
  induction t with
  | nil =>
    simp only [List.nil_append, tabGet_nil]
    simpa using tabGet_append v u [] k h
  | cons p t ih =>
    obtain ⟨i, x⟩ := p
    by_cases hi : i = k <;> simp [tabGet, hi, ih]

theorem tabGet_filter_in (v : α) (t : Tab α) (k : Nat) (f : Nat → Bool) (h : f k = true) :
    tabGet v (t.filter (fun p => f p.1)) k = tabGet v t k := by
  induction t with
  | nil => rfl
  | cons p t ih =>
    obtain ⟨i, x⟩ := p
    by_cases hi : i = k
    · subst hi
      simp [h, tabGet]
    · by_cases hf : f i = true <;> simp [hf, tabGet, hi, ih]

theorem tabGet_byteEntries (dflt : Nat → Byte) (bs : Bytes) (a i : Nat) (h : i < bs.length) :
    tabGet (dflt (a + i)) (byteEntries dflt a bs) (a + i) = bs.getD i 0 := by
  induction bs generalizing a i with
  | nil => simp at h
  | cons b bs ih =>
    cases i with
    | zero =>
      unfold byteEntries
      split
      · next hb =>
        have hk : ∀ p ∈ byteEntries dflt (a + 1) bs, p.1 ≠ a + 0 := by
          intro p hp
          have := byteEntries_keys dflt bs (a + 1) p hp
          omega
        have := tabGet_append (dflt (a + 0)) (byteEntries dflt (a + 1) bs) [] (a + 0) hk
        simp only [List.append_nil, tabGet_nil] at this
        rw [this]
        simp [hb]
      · simp [tabGet]
    | succ i =>
      have h' : i < bs.length := by simpa using h
      have := ih (a + 1) i h'
      have e : a + 1 + i = a + (i + 1) := by omega
      rw [e] at this
      unfold byteEntries
      split
      · simpa using this
      · have : a ≠ a + (i + 1) := by omega
        simp [tabGet, *]

/-- A byte read inside the written bytes is the byte written there. -/
theorem tabGet_tabWriteBytes_in (dflt : Nat → Byte) (t : Tab Byte) (a i : Nat) (bs : Bytes) (h : i < bs.length) :
    tabGet (dflt (a + i)) (tabWriteBytes dflt t a bs) (a + i) = bs.getD i 0 := by
  unfold tabWriteBytes
  rw [List.append_assoc, tabGet_append, tabGet_append_left]
  · exact tabGet_byteEntries dflt bs a i h
  · intro p hp
    have := (List.mem_filter.mp hp).2
    simp only [decide_eq_true_eq] at this
    omega
  · intro p hp
    have := (List.mem_filter.mp hp).2
    simp only [decide_eq_true_eq] at this
    omega

/-- A byte read outside the written bytes is what it was. -/
theorem tabGet_tabWriteBytes_out (dflt : Nat → Byte) (t : Tab Byte) (v : Byte) (a j : Nat) (bs : Bytes)
    (h : j < a ∨ a + bs.length ≤ j) : tabGet v (tabWriteBytes dflt t a bs) j = tabGet v t j := by
  unfold tabWriteBytes
  have hb : ∀ p ∈ byteEntries dflt a bs, p.1 ≠ j := by
    intro p hp
    have := byteEntries_keys dflt bs a p hp
    omega
  rcases h with h | h
  · rw [tabGet_append_left, tabGet_append_left _ _ _ _ hb]
    · exact tabGet_filter_in v t j (fun k => decide (k < a)) (by simpa using h)
    · intro p hp
      have := (List.mem_filter.mp hp).2
      simp only [decide_eq_true_eq] at this
      omega
  · rw [List.append_assoc, tabGet_append, tabGet_append _ _ _ _ hb]
    · exact tabGet_filter_in v t j (fun k => decide (a + bs.length ≤ k)) (by simpa using h)
    · intro p hp
      have := (List.mem_filter.mp hp).2
      simp only [decide_eq_true_eq] at this
      omega

end Sys2Proof.Machine
end

