-- ==== Sys2Proof/Laws/Ops.lean ====
section
/-! SUPPORT. What the shared operations do, each said once: entries read and written, counters, and the two ways a
meaning answers. -/

namespace Sys2Proof.Machine

/-! ### Answers -/

theorem run_next {f : Dev → Dev} {s t : State} (h : run f s = .next t) : t.pending = s.pending ∧ t.dev = f s.dev := by
  simp only [run, Host.Outcome.next.injEq] at h
  subst h
  exact ⟨rfl, rfl⟩

theorem completes_run {c : Instr} {s : State} {f : Dev → Dev} {P : Dev → Prop} (h : exec c s = run f s) :
    Completes c s P ↔ P (f s.dev) := by
  unfold Completes
  rw [h]
  constructor
  · rintro ⟨t, ht, -, hp⟩
    rw [← (run_next ht).2]
    exact hp
  · intro hp
    exact ⟨{ s with dev := f s.dev }, rfl, rfl, hp⟩

/-! ### The Necklace -/

/-- Sending changes the network alone. -/
theorem sendFor_spec (o : Option Nat) (a b : NUnit) (c : NClass) (n : Nat) (d : Dev) :
    ∃ x, sendFor o a b c n d = { d with net := x } := by
  unfold sendFor
  split
  · exact ⟨d.net, rfl⟩
  · exact ⟨_, rfl⟩

theorem send_spec (a b : NUnit) (c : NClass) (n : Nat) (d : Dev) : ∃ x, send a b c n d = { d with net := x } :=
  sendFor_spec none a b c n d

theorem sendVia_spec (a b : NUnit) (c : NClass) (n : Nat) (d : Dev) : ∃ x, sendVia a b c n d = { d with net := x } := by
  have st : ∀ {p : Prop} [Decidable p] {a b : NUnit} {y : Dev}, (∃ x, y = { d with net := x }) →
      ∃ x, (if p then y else send a b c n y) = { d with net := x } := by
    rintro p _ a b y ⟨x, rfl⟩
    split
    · exact ⟨x, rfl⟩
    · obtain ⟨w, hw⟩ := send_spec a b c n { d with net := x }
      exact ⟨w, hw⟩
  exact st (st (st ⟨d.net, rfl⟩))

/-! ### Entries -/

theorem getK_putK_self (key v : Nat) (d : Dev) : getK (putK key v d) key = v % 2 ^ (8 * odSize d.cfg key) := by
  simp [getK, putK]

theorem getK_putK_ne {key k : Nat} (v : Nat) (d : Dev) (h : k ≠ key) : getK (putK key v d) k = getK d k := by
  simp only [getK, putK]
  exact tabGet_tabSet_ne _ _ _ _ h

theorem getK_put_ne {i j k : Nat} (v : Nat) (d : Dev) (h : k ≠ ek i j) : getK (put i j v d) k = getK d k :=
  getK_putK_ne v d h

/-- A written entry reads as what was written, cut to its size. -/
@[simp] theorem od_put_self (i j v : Nat) (d : Dev) : od (put i j v d) i j = v % 2 ^ (8 * odSize d.cfg (ek i j)) :=
  getK_putK_self _ _ _

/-- A write leaves every other entry alone. -/
theorem od_put_ne {i j a b : Nat} (v : Nat) (d : Dev) (h : ek a b ≠ ek i j) : od (put i j v d) a b = od d a b :=
  getK_putK_ne v d h

theorem keeps_refl (d : Dev) (keys : List Nat) : KeepsEntries d d keys := fun _ _ => rfl

theorem keeps_trans {d d1 d2 : Dev} {keys : List Nat} (h1 : KeepsEntries d d1 keys) (h2 : KeepsEntries d1 d2 keys) :
    KeepsEntries d d2 keys := fun k hk => (h2 k hk).trans (h1 k hk)

theorem keeps_put {i j v : Nat} (d : Dev) {keys : List Nat} (h : ek i j ∈ keys) : KeepsEntries d (put i j v d) keys :=
  fun _ hk => getK_put_ne v d (fun e => hk (e ▸ h))

/-! ### Counters -/

/-- What adding events to a counter does: the counter takes them, and nothing else changes. -/
theorem cntN_spec (i j n : Nat) (d : Dev) :
    Counted d (cntN i j n d) i j n ∧ OnlyEntries d (cntN i j n d) [ek i j] := by
  unfold Counted OnlyEntries cntN
  split
  · next h4 =>
    split
    · next hle =>
      refine ⟨?_, keeps_put d (by simp), rfl⟩
      rw [od_put_self, h4, Nat.min_eq_left hle]
      exact Nat.mod_eq_of_lt (by omega)
    · next hgt =>
      refine ⟨?_, ?_, rfl⟩
      · show od (put i j 0xFFFFFFFF d) i j = _
        rw [od_put_self, h4, Nat.min_eq_right (by omega)]
        rfl
      · intro k hk
        exact getK_put_ne _ d (fun e => hk (by simp [e]))
  · exact ⟨by rw [od_put_self], keeps_put d (by simp), rfl⟩

theorem cnt_spec (i j : Nat) (d : Dev) : Counted d (cnt i j d) i j 1 ∧ OnlyEntries d (cnt i j d) [ek i j] :=
  cntN_spec i j 1 d

@[simp] theorem cntN_cfg (i j n : Nat) (d : Dev) : (cntN i j n d).cfg = d.cfg := by
  unfold cntN
  split
  · split <;> rfl
  · rfl

@[simp] theorem cnt_cfg (i j : Nat) (d : Dev) : (cnt i j d).cfg = d.cfg := cntN_cfg i j 1 d

theorem od_cntN_ne {i j a b : Nat} (n : Nat) (d : Dev) (h : ek a b ≠ ek i j) : od (cntN i j n d) a b = od d a b :=
  (cntN_spec i j n d).2.1 _ (by simpa using h)

/-- Clearing a counter (R566): it reads 0, and nothing else changes. -/
theorem clearCnt_spec (i j : Nat) (d : Dev) :
    od (clearCnt i j d) i j = 0 ∧ OnlyEntries d (clearCnt i j d) [ek i j] := by
  refine ⟨?_, ?_, rfl⟩
  · show od (put i j 0 d) i j = 0
    simp
  · intro k hk
    exact getK_put_ne 0 d (fun e => hk (by simp [e]))

end Sys2Proof.Machine
end

