-- ==== Sys2Proof/Laws/Mem.lean ====
section
/-! SUPPORT. The Staging Buffer's bytes: what a write changes, and the canonical form every write keeps. -/

namespace Sys2Proof.Machine

/-- A write of bytes keeps the canonical form. -/
theorem sbWrite_wf (a : Nat) (bs : Bytes) {d : Dev} (h : SbOk d) : SbOk (sbWrite a bs d) :=
  tabWf_tabWriteBytes _ a bs h

theorem cntN_lan (i j n : Nat) (d : Dev) : (cntN i j n d).lan = d.lan := by
  unfold cntN
  split
  · split <;> rfl
  · rfl

@[simp] theorem cnt_lan (i j : Nat) (d : Dev) : (cnt i j d).lan = d.lan := cntN_lan i j 1 d

@[simp] theorem sendVia_lan (a b : NUnit) (c : NClass) (n : Nat) (d : Dev) : (sendVia a b c n d).lan = d.lan := by
  obtain ⟨x, hx⟩ := sendVia_spec a b c n d
  rw [hx]

@[simp] theorem fltBell_lan (cls : Nat) (d : Dev) : (fltBell cls d).lan = d.lan := by
  unfold fltBell
  split <;> simp [send_lan]

/-- Raising a fault leaves Lantern's memory alone. -/
@[simp] theorem fault_lan (cls cause unit a b : Nat) (d : Dev) : (fault cls cause unit a b d).lan = d.lan := by
  have fw : ∀ (r : Flt) (x : Dev), (fltWrite r x).lan = x.lan := fun r x => by unfold fltWrite; simp
  unfold fault
  dsimp only
  repeat' split
  all_goals simp [fw]

/-- A memory error leaves it alone. -/
@[simp] theorem memError_lan (k syn w u : Nat) (d : Dev) : (memError k syn w u d).lan = d.lan := by
  have mb : ∀ (k : Nat) (x : Dev), (memBell k x).lan = x.lan := fun k x => by
    unfold memBell
    split <;> simp [send_lan]
  have mw : ∀ (r : MemRec) (x : Dev), (memWrite r x).lan = x.lan := fun r x => by unfold memWrite; simp [mb]
  unfold memError
  dsimp only
  repeat' split
  all_goals simp [mw]

/-- A word that a read finds wrong is reported; Lantern's memory stays. -/
@[simp] theorem sbNote_lan (w flips : Nat) (d : Dev) : (sbNote w flips d).lan = d.lan := by
  unfold sbNote
  split <;> simp

/-- A store through a bank's port keeps the canonical form too (R483, R484). -/
theorem sbStore_wf (u : NUnit) (a : Nat) (bs : Bytes) {d : Dev} (h : SbOk d) : SbOk (sbStore u a bs d) := by
  have notes : ∀ (l : List Nat) (x : Dev),
      (l.foldl (fun x w => sbNote w (tabGet 0 x.lan.flips w) x) x).lan = x.lan := by
    intro l
    induction l with
    | nil => intro x; rfl
    | cons w t ih => intro x; rw [List.foldl_cons, ih, sbNote_lan]
  unfold SbOk sbStore sbStore?
  dsimp only
  refine sbWrite_wf _ _ ?_
  unfold SbOk
  rw [cntN_lan, notes, send_lan, send_lan, send_lan]
  exact h

/-- The reset state has it. -/
theorem sbOk_reset : SbOk Dev.reset := rfl

/-- The bytes of a store read back as they were written. -/
theorem sbRead_sbWrite_self (a : Nat) (bs : Bytes) (d : Dev) : sbRead (sbWrite a bs d) a bs.length = bs := by
  unfold sbRead sbWrite updLan tabBytes
  apply List.ext_getElem
  · simp
  · intro i h1 h2
    have hi : i < bs.length := h2
    simp only [List.getElem_map, List.getElem_range]
    unfold tabPart
    rw [tabGet_filter_in _ _ _ (fun k => decide (a ≤ k) && decide (k < a + bs.length)) (by simp [hi]),
      tabGet_tabWriteBytes_in _ _ _ _ _ hi]
    simp [List.getD, hi]

/-- Bytes outside a store read as before. -/
theorem sbRead_sbWrite_out (a b n : Nat) (bs : Bytes) (d : Dev) (h : b + n ≤ a ∨ a + bs.length ≤ b) :
    sbRead (sbWrite a bs d) b n = sbRead d b n := by
  unfold sbRead sbWrite updLan tabBytes
  apply List.map_congr_left
  intro i hi
  have hi := List.mem_range.mp hi
  unfold tabPart
  rw [tabGet_filter_in _ _ _ (fun k => decide (b ≤ k) && decide (k < b + n)) (by simp [hi]),
    tabGet_filter_in _ _ _ (fun k => decide (b ≤ k) && decide (k < b + n)) (by simp [hi]),
    tabGet_tabWriteBytes_out _ _ _ _ _ _ (by omega)]

end Sys2Proof.Machine
end

