-- ==== Sys2Proof/Laws/Keep.lean ====
section
/-! SUPPORT. What the block's functions leave alone, as relations between the block before and after: `Sound` (the
parameters stay, the dictionary and the Staging Buffer keep their canonical forms) and `Keep` (besides, the clocks, the
telemetry, the masters, the I3C target, the sensors, the power-on queue and the global entries stay). -/

namespace Sys2Proof.Machine

/-- The parameters stay, and canonical forms are kept. -/
structure Sound (d0 d : Dev) : Prop where
  cfg : d.cfg = d0.cfg
  dict : DictOk d0 → DictOk d
  buf : SbOk d0 → SbOk d

/-- The control side of the record. -/
def Dev.ctl (d : Dev) : Nat × Nat × Tele × Tab Master × I3c × Tab Sensor × List Nat :=
  (d.ts, d.up, d.tele, d.masters, d.i3c, d.sensors, d.pwrq)

/-- The place of an entry that commands of the data side may write. -/
def dataIdx (i j : Nat) : Prop := 0x2050 ≤ i ∧ (i < 0x2103 ∧ j < 256 ∨ 0x2108 ≤ i)

/-- Besides, the control side and the entries below 0x2050 and from 0x2103 to 0x2107 stay. -/
structure Keep (d0 d : Dev) : Prop extends Sound d0 d where
  ctl : d.ctl = d0.ctl
  wake : ∀ n, bit d0.wakeP n = true → bit d.wakeP n = true
  glob : ∀ k, setKey k → getK d k = getK d0 k

/-- What `Keep` says of the control side. -/
theorem Keep.control {d0 d : Dev} (h : Keep d0 d) : ControlKept d0 d := by
  have hc := h.ctl
  simp only [Dev.ctl, Prod.mk.injEq] at hc
  obtain ⟨h1, h2, h3, h4, h5, h6, h7⟩ := hc
  exact ⟨h.cfg, h1, h2, h3, h4, h5, h6, h7, h.wake, h.glob⟩

theorem Sound.refl (d : Dev) : Sound d d := ⟨rfl, id, id⟩

theorem Sound.trans {a b c : Dev} (h1 : Sound a b) (h2 : Sound b c) : Sound a c :=
  ⟨h2.cfg.trans h1.cfg, fun h => h2.dict (h1.dict h), fun h => h2.buf (h1.buf h)⟩

theorem Keep.refl (d : Dev) : Keep d d := ⟨Sound.refl d, rfl, fun _ => id, fun _ _ => rfl⟩

theorem Keep.trans {a b c : Dev} (h1 : Keep a b) (h2 : Keep b c) : Keep a c :=
  ⟨h1.toSound.trans h2.toSound, h2.ctl.trans h1.ctl, fun n hn => h2.wake n (h1.wake n hn), fun k hk => (h2.glob k hk).trans (h1.glob k hk)⟩

/-- The fields that `Sound` reads. -/
def Dev.core (d : Dev) : Params × Tab Nat × Tab Byte := (d.cfg, d.od, d.lan.mem)

theorem sound_same {d0 d d' : Dev} (h : Sound d0 d) (e : d'.core = d.core) : Sound d0 d' := by
  simp only [Dev.core, Prod.mk.injEq] at e
  obtain ⟨e1, e2, e3⟩ := e
  refine ⟨e1.trans h.cfg, fun hd => ?_, fun hb => ?_⟩
  · have := h.dict hd
    unfold DictOk at *
    rw [e1, e2]
    exact this
  · have := h.buf hb
    unfold SbOk at *
    rw [e3]
    exact this

theorem keep_same {d0 d d' : Dev} (h : Keep d0 d) (e : (d'.core, d'.ctl, d'.wakeP) = (d.core, d.ctl, d.wakeP)) : Keep d0 d' := by
  obtain ⟨e1, e4⟩ := Prod.mk.inj e
  obtain ⟨e2, e3⟩ := Prod.mk.inj e4
  refine ⟨sound_same h.toSound e1, e2.trans h.ctl, fun n hn => by rw [e3]; exact h.wake n hn, fun k hk => ?_⟩
  simp only [Dev.core, Prod.mk.injEq] at e1
  rw [← h.glob k hk]
  unfold getK
  rw [e1.1, e1.2.1]

/-! ### Record updates -/

theorem sound_mk {d0 x : Dev} {ts1 : Nat} {up1 : Nat} {free1 : Nat} {ods1 : Tab Bytes} {odBad1 : List Nat} {sat1 : List Nat} {ports1 : Tab
    Port} {tele1 : Tele} {masters1 : Tab Master} {i3c1 : I3c} {srcs1 : Tab Src} {tgts1 : Tab Tgt} {dbq1 : List DbItem}
    {doms1 : Tab Dom} {pwrq1 : List Nat} {wakeP1 : Nat} {nodes1 : Tab Node} {sensors1 : Tab Sensor} {therm1 : Thermal}
    {flt1 : FltLog} {rst1 : Rst} {rings1 : Tab Ring} {cmds1 : Tab Cmd} {fetchNo1 : Nat} {metNo1 : Nat} {rrRing1 : Tab
    Nat} {groups1 : List Group} {l : Lan} {dies1 : Tab Die} {chans1 : Tab Chan} {geom1 : Option Geom} {rawp1 :
    RawPath} {seqs1 : Tab Seq} {loader1 : Loader} {decs1 : Tab Dec} {clasp1 : Clasp} {tender1 : Tender} {memLog1 :
    MemLog} {net1 : Net}
    (h : Sound d0 x) (hm : l.mem = x.lan.mem) :
    Sound d0 (Dev.mk x.cfg ts1 up1 free1 x.od ods1 odBad1 sat1 ports1 tele1 masters1 i3c1 srcs1 tgts1 dbq1 doms1 pwrq1 wakeP1
    nodes1 sensors1 therm1 flt1 rst1 rings1 cmds1 fetchNo1 metNo1 rrRing1 groups1 l dies1 chans1 geom1 rawp1 seqs1
    loader1 decs1 clasp1 tender1 memLog1 net1) :=
  sound_same h (by simp only [Dev.core, hm])

theorem keep_mk {d0 x : Dev} {free1 : Nat} {ods1 : Tab Bytes} {odBad1 : List Nat} {sat1 : List Nat} {ports1 : Tab Port} {srcs1 : Tab Src}
    {tgts1 : Tab Tgt} {dbq1 : List DbItem} {doms1 : Tab Dom} {nodes1 : Tab Node} {therm1 : Thermal} {flt1 : FltLog}
    {rst1 : Rst} {rings1 : Tab Ring} {cmds1 : Tab Cmd} {fetchNo1 : Nat} {metNo1 : Nat} {rrRing1 : Tab Nat} {groups1 :
    List Group} {l : Lan} {dies1 : Tab Die} {chans1 : Tab Chan} {geom1 : Option Geom} {rawp1 : RawPath} {seqs1 : Tab
    Seq} {loader1 : Loader} {decs1 : Tab Dec} {clasp1 : Clasp} {tender1 : Tender} {memLog1 : MemLog} {net1 : Net}
    (h : Keep d0 x) (hm : l.mem = x.lan.mem) :
    Keep d0 (Dev.mk x.cfg x.ts x.up free1 x.od ods1 odBad1 sat1 ports1 x.tele x.masters x.i3c srcs1 tgts1 dbq1 doms1 x.pwrq
    x.wakeP nodes1 x.sensors therm1 flt1 rst1 rings1 cmds1 fetchNo1 metNo1 rrRing1 groups1 l dies1 chans1 geom1 rawp1
    seqs1 loader1 decs1 clasp1 tender1 memLog1 net1) :=
  keep_same h (by simp only [Dev.core, Dev.ctl, hm])

/-! ### Entries -/

theorem dictOk_putK (key v : Nat) {d : Dev} (h : DictOk d) : DictOk (putK key v d) := by
  refine ⟨tabWf_tabSet (odDefault d.cfg) key _ h.1, ?_⟩
  intro p hp
  have hp : p ∈ tabSet (odDefault d.cfg key) d.od key (v % 2 ^ (8 * odSize d.cfg key)) := hp
  unfold tabSet at hp
  split at hp
  · rw [tabErase_eq_filter] at hp
    exact h.2 p (List.mem_filter.mp hp).1
  · rcases (mem_tabInsert _ _ _ _).mp hp with rfl | hp
    · exact Nat.mod_lt _ (by positivity)
    · rw [tabErase_eq_filter] at hp
      exact h.2 p (List.mem_filter.mp hp).1

theorem sound_putK {d0 d : Dev} {key v : Nat} (h : Sound d0 d) : Sound d0 (putK key v d) :=
  ⟨h.cfg, fun hd => dictOk_putK key v (h.dict hd), h.buf⟩

theorem keep_putK {d0 d : Dev} {key v : Nat} (h : Keep d0 d) (hk : ¬ setKey key) : Keep d0 (putK key v d) :=
  ⟨sound_putK h.toSound, h.ctl, h.wake, fun k hlt => (getK_putK_ne v d (by rintro rfl; exact hk hlt)).trans (h.glob k hlt)⟩

theorem sound_put {d0 d : Dev} {i j v : Nat} (h : Sound d0 d) : Sound d0 (put i j v d) := sound_putK h

theorem keep_put {d0 d : Dev} {i j v : Nat} (h : Keep d0 d) (hk : dataIdx i j) : Keep d0 (put i j v d) :=
  keep_putK h (by unfold dataIdx at hk; unfold setKey ek; omega)

theorem sound_putBit {d0 d : Dev} {i j n : Nat} {b : Bool} (h : Sound d0 d) : Sound d0 (putBit i j n b d) := sound_putK h

theorem keep_putBit {d0 d : Dev} {i j n : Nat} {b : Bool} (h : Keep d0 d) (hk : dataIdx i j) : Keep d0 (putBit i j n b d) :=
  keep_putK h (by unfold dataIdx at hk; unfold setKey ek; omega)

theorem sound_putB {d0 d : Dev} {i j : Nat} {v : Bytes} (h : Sound d0 d) : Sound d0 (putB i j v d) := sound_same h rfl

theorem keep_putB {d0 d : Dev} {i j : Nat} {v : Bytes} (h : Keep d0 d) : Keep d0 (putB i j v d) := keep_same h rfl

theorem sound_cntN {d0 d : Dev} {i j n : Nat} (h : Sound d0 d) : Sound d0 (cntN i j n d) := by
  unfold cntN
  split
  · split
    · exact sound_put h
    · exact sound_same (sound_put h) rfl
  · exact sound_put h

theorem keep_cntN {d0 d : Dev} {i j n : Nat} (h : Keep d0 d) (hk : dataIdx i j) : Keep d0 (cntN i j n d) := by
  unfold cntN
  split
  · split
    · exact keep_put h hk
    · exact keep_same (keep_put h hk) rfl
  · exact keep_put h hk

theorem sound_cnt {d0 d : Dev} {i j : Nat} (h : Sound d0 d) : Sound d0 (cnt i j d) := sound_cntN h

theorem keep_cnt {d0 d : Dev} {i j : Nat} (h : Keep d0 d) (hk : dataIdx i j) : Keep d0 (cnt i j d) := keep_cntN h hk

theorem sound_clearCnt {d0 d : Dev} {i j : Nat} (h : Sound d0 d) : Sound d0 (clearCnt i j d) :=
  sound_same (sound_put h) rfl

/-! ### The Staging Buffer -/

theorem keep_sbWrite {d0 d : Dev} {a : Nat} {bs : Bytes} (h : Keep d0 d) : Keep d0 (sbWrite a bs d) :=
  ⟨⟨h.cfg, h.dict, fun hb => sbWrite_wf a bs (h.buf hb)⟩, h.ctl, h.wake, h.glob⟩

theorem tabWf_filter {α : Type} [DecidableEq α] (dflt : Nat → α) {t : Tab α} (f : Nat × α → Bool) (h : tabWf dflt t = true) :
    tabWf dflt (t.filter f) = true := by
  unfold tabWf at *
  rw [Bool.and_eq_true, List.all_eq_true] at *
  refine ⟨?_, fun p hp => h.2 p (List.mem_filter.mp hp).1⟩
  have := h.1
  rw [tabSorted_iff] at *
  exact this.filter _

/-! ### Ways through a function -/

theorem keep_ite {d0 a b : Dev} {c : Prop} [Decidable c] (ha : Keep d0 a) (hb : Keep d0 b) : Keep d0 (if c then a else b) := by
  split <;> assumption

theorem sound_ite {d0 a b : Dev} {c : Prop} [Decidable c] (ha : Sound d0 a) (hb : Sound d0 b) :
    Sound d0 (if c then a else b) := by
  split <;> assumption

theorem keep_foldl {α : Type} {d0 : Dev} {f : Dev → α → Dev} (l : List α) {d : Dev} (h : Keep d0 d)
    (hf : ∀ x a, Keep d0 x → Keep d0 (f x a)) : Keep d0 (l.foldl f d) := by
  induction l generalizing d with
  | nil => exact h
  | cons a l ih => exact ih (hf d a h)

theorem sound_foldl {α : Type} {d0 : Dev} {f : Dev → α → Dev} (l : List α) {d : Dev} (h : Sound d0 d)
    (hf : ∀ x a, Sound d0 x → Sound d0 (f x a)) : Sound d0 (l.foldl f d) := by
  induction l generalizing d with
  | nil => exact h
  | cons a l ih => exact ih (hf d a h)

theorem keep_foldl_fst {α β : Type} {d0 : Dev} {f : Dev × β → α → Dev × β} (l : List α) {s : Dev × β} (h : Keep d0 s.1)
    (hf : ∀ x a, Keep d0 x.1 → Keep d0 (f x a).1) : Keep d0 (l.foldl f s).1 := by
  induction l generalizing s with
  | nil => exact h
  | cons a l ih => exact ih (hf s a h)

theorem keep_foldl_snd {α β : Type} {d0 : Dev} {f : β × Dev → α → β × Dev} (l : List α) {s : β × Dev} (h : Keep d0 s.2)
    (hf : ∀ x a, Keep d0 x.2 → Keep d0 (f x a).2) : Keep d0 (l.foldl f s).2 := by
  induction l generalizing s with
  | nil => exact h
  | cons a l ih => exact ih (hf s a h)

theorem sound_foldl_fst {α β : Type} {d0 : Dev} {f : Dev × β → α → Dev × β} (l : List α) {s : Dev × β} (h : Sound d0 s.1)
    (hf : ∀ x a, Sound d0 x.1 → Sound d0 (f x a).1) : Sound d0 (l.foldl f s).1 := by
  induction l generalizing s with
  | nil => exact h
  | cons a l ih => exact ih (hf s a h)

theorem sound_foldl_snd {α β : Type} {d0 : Dev} {f : β × Dev → α → β × Dev} (l : List α) {s : β × Dev} (h : Sound d0 s.2)
    (hf : ∀ x a, Sound d0 x.2 → Sound d0 (f x a).2) : Sound d0 (l.foldl f s).2 := by
  induction l generalizing s with
  | nil => exact h
  | cons a l ih => exact ih (hf s a h)

end Sys2Proof.Machine
end

