-- ==== Sys2Proof/Laws/KeepOps.lean ====
section
/-! SUPPORT. What the functions of Machine/Ops.lean leave alone (Laws/Keep.lean). -/

set_option linter.unusedTactic false
set_option linter.unreachableTactic false
set_option linter.unusedSimpArgs false

namespace Sys2Proof.Machine

theorem keep_freeVal {d0 d : Dev} (h : Keep d0 d) : Keep d0 (freeVal d).2 := by
  unfold freeVal
  repeat' (first
      | with_reducible exact h | dsimp only
      | fail_if_no_progress (with_reducible refine keep_mk ?_ ?_ <;> [skip; first | rfl | simp_all only]))

theorem keep_freeValE {d0 d : Dev} {r9 : BitVec 32 × Dev} (h : Keep d0 d) (e9 : (freeVal d) = r9)
    : Keep d0 r9.2 := e9 ▸ keep_freeVal h

theorem keep_freeWide {d0 d : Dev} (h : Keep d0 d) : Keep d0 (freeWide d).2 := by
  unfold freeWide
  with_reducible repeat' (first | exact h | refine keep_freeVal ?_)

theorem keep_freeWideE {d0 d : Dev} {r9 : Nat × Dev} (h : Keep d0 d) (e9 : (freeWide d) = r9) : Keep d0 r9.2 :=
    e9 ▸ keep_freeWide h

theorem soundk_freeWide {d0 d : Dev} (h : Sound d0 d) : Sound d0 (freeWide d).2 :=
    h.trans (keep_freeWide (Keep.refl d)).toSound

theorem keep_freeBytes {d0 d : Dev} {n : Nat} (h : Keep d0 d) : Keep d0 (freeBytes n d).2 := by
  unfold freeBytes
  repeat' (first
      | with_reducible exact h | dsimp only
      | fail_if_no_progress (with_reducible refine keep_mk ?_ ?_ <;> [skip; first | rfl | simp_all only]))

theorem keep_freeBytesE {d0 d : Dev} {n : Nat} {r9 : Bytes × Dev} (h : Keep d0 d) (e9 : (freeBytes n d) = r9)
    : Keep d0 r9.2 := e9 ▸ keep_freeBytes h

theorem soundk_freeBytes {d0 d : Dev} {n : Nat} (h : Sound d0 d) : Sound d0 (freeBytes n d).2 :=
    h.trans (keep_freeBytes (Keep.refl d)).toSound

theorem keep_updDom {d0 d : Dev} {n : Nat} {f : Dom → Dom} (h : Keep d0 d) : Keep d0 (updDom n f d) := by
  unfold updDom
  repeat' (first
      | with_reducible exact h
      | fail_if_no_progress (with_reducible refine keep_mk ?_ ?_ <;> [skip; first | rfl | simp_all only]))

theorem soundk_updDom {d0 d : Dev} {n : Nat} {f : Dom → Dom} (h : Sound d0 d) : Sound d0 (updDom n f d) :=
    h.trans (keep_updDom (Keep.refl d)).toSound

theorem keep_sendFor {d0 d : Dev} {own : Option Nat} {a : NUnit} {b : NUnit} {c : NClass} {n : Nat} (h : Keep d0 d)
    : Keep d0 (sendFor own a b c n d) := by
  unfold sendFor
  repeat' (first
      | with_reducible exact h | with_reducible refine keep_ite ?_ ?_ | dsimp only
      | fail_if_no_progress (with_reducible refine keep_mk ?_ ?_ <;> [skip; first | rfl | simp_all only]))

theorem keep_send {d0 d : Dev} {a : NUnit} {b : NUnit} {c : NClass} {n : Nat} (h : Keep d0 d)
    : Keep d0 (send a b c n d) := by
  unfold send
  with_reducible repeat' (first | exact h | refine keep_sendFor ?_)

theorem keep_linksReset {d0 d : Dev} {n : Nat} (h : Keep d0 d) : Keep d0 (linksReset n d) := by
  unfold linksReset
  repeat' (first
      | with_reducible exact h
      | fail_if_no_progress (with_reducible refine keep_mk ?_ ?_ <;> [skip; first | rfl | simp_all only]))

theorem soundk_linksReset {d0 d : Dev} {n : Nat} (h : Sound d0 d) : Sound d0 (linksReset n d) :=
    h.trans (keep_linksReset (Keep.refl d)).toSound

theorem keep_linksOff {d0 d : Dev} {n : Nat} (h : Keep d0 d) : Keep d0 (linksOff n d) := by
  unfold linksOff
  repeat' (first
      | with_reducible exact h
      | fail_if_no_progress (with_reducible refine keep_mk ?_ ?_ <;> [skip; first | rfl | simp_all only]))

theorem keep_sendVia {d0 d : Dev} {a : NUnit} {b : NUnit} {c : NClass} {n : Nat} (h : Keep d0 d)
    : Keep d0 (sendVia a b c n d) := by
  unfold sendVia
  with_reducible repeat' (first | exact h | refine keep_send ?_ | refine keep_ite ?_ ?_)

theorem soundk_sendVia {d0 d : Dev} {a : NUnit} {b : NUnit} {c : NClass} {n : Nat} (h : Sound d0 d)
    : Sound d0 (sendVia a b c n d) := h.trans (keep_sendVia (Keep.refl d)).toSound

theorem keep_ringUnit {d0 d : Dev} {u : NUnit} {src : Nat} (h : Keep d0 d) : Keep d0 (ringUnit u src d) := by
  unfold ringUnit
  repeat' (first
      | with_reducible exact h | with_reducible refine keep_send ?_ | with_reducible refine keep_ite ?_ ?_
      | fail_if_no_progress (with_reducible refine keep_mk ?_ ?_ <;> [skip; first | rfl | simp_all only]))

theorem soundk_ringUnit {d0 d : Dev} {u : NUnit} {src : Nat} (h : Sound d0 d) : Sound d0 (ringUnit u src d) :=
    h.trans (keep_ringUnit (Keep.refl d)).toSound

theorem bit_setBit_true {v k n : Nat} (h : bit v k = true) : bit (setBit v n true) k = true := by
  unfold setBit
  split
  · exact h
  · next hn =>
    simp only [if_true]
    unfold bit at *
    have h1 : v / 2 ^ k % 2 = 1 := by simpa using h
    have h2 : v / 2 ^ n % 2 = 0 := by
      have : ¬ v / 2 ^ n % 2 = 1 := by simpa using hn
      omega
    suffices hs : (v + 2 ^ n) / 2 ^ k % 2 = 1 by simpa using hs
    have hne : k ≠ n := by rintro rfl; omega
    rcases Nat.lt_or_gt_of_ne hne with hk | hk
    · obtain ⟨j, rfl⟩ := Nat.exists_eq_add_of_lt hk
      rw [show 2 ^ (k + j + 1) = 2 ^ k * (2 * 2 ^ j) by ring, Nat.add_mul_div_left _ _ (by positivity)]
      omega
    · obtain ⟨j, rfl⟩ := Nat.exists_eq_add_of_lt hk
      have e : (v + 2 ^ n) / 2 ^ (n + 1) = v / 2 ^ (n + 1) := by
        rw [pow_succ, ← Nat.div_div_eq_div_mul, ← Nat.div_div_eq_div_mul, Nat.add_div_right _ (by positivity)]
        omega
      rw [show n + j + 1 = (n + 1) + j by ring, pow_add 2 (n + 1) j, ← Nat.div_div_eq_div_mul] at h1 ⊢
      rw [e]
      exact h1

theorem keep_wakeRing {d0 d : Dev} {n : Nat} (h : Keep d0 d) : Keep d0 (wakeRing n d) := by
  unfold wakeRing
  dsimp only
  split
  · refine keep_ringUnit ?_
    exact ⟨sound_same h.toSound rfl, h.ctl, fun k hk => bit_setBit_true (h.wake k hk), h.glob⟩
  · exact h

theorem soundk_wakeRing {d0 d : Dev} {n : Nat} (h : Sound d0 d) : Sound d0 (wakeRing n d) :=
  h.trans (keep_wakeRing (Keep.refl d)).toSound

theorem keep_assertWake {d0 d : Dev} {n : Nat} {b : Nat} (h : Keep d0 d) : Keep d0 (assertWake n b d) := by
  unfold assertWake
  with_reducible repeat' (first | exact h | refine keep_wakeRing ?_ | refine keep_updDom ?_ | refine keep_ite ?_ ?_)

theorem keep_fltBell {d0 d : Dev} {cls : Nat} (h : Keep d0 d) : Keep d0 (fltBell cls d) := by
  unfold fltBell
  repeat' (first
      | with_reducible exact h | with_reducible refine keep_send ?_ | with_reducible refine keep_ite ?_ ?_
      | fail_if_no_progress (with_reducible refine keep_mk ?_ ?_ <;> [skip; first | rfl | simp_all only]))

theorem keep_fltWrite {d0 d : Dev} {r : Flt} (h : Keep d0 d) : Keep d0 (fltWrite r d) := by
  unfold fltWrite
  repeat' (first
      | with_reducible exact h | with_reducible refine keep_put ?_ ?_
      | (show dataIdx _ _; unfold dataIdx; (first | decide | (simp only [rgIdx, chIdx, tcIdx, lgIdx, ptIdx, kpIdx]; omega) | omega))
      | dsimp only
      | fail_if_no_progress (with_reducible refine keep_mk ?_ ?_ <;> [skip; first | rfl | simp_all only]))

theorem keep_fault {d0 d : Dev} {cls : Nat} {cause : Nat} {unit : Nat} {a : Nat} {b : Nat} (h : Keep d0 d)
    : Keep d0 (fault cls cause unit a b d) := by
  unfold fault
  repeat' (first
      | with_reducible exact h | with_reducible refine keep_sendVia ?_ | with_reducible refine keep_fltBell ?_
      | with_reducible refine keep_fltWrite ?_ | with_reducible refine keep_putBit ?_ ?_
      | with_reducible refine keep_cnt ?_ ?_ | with_reducible refine keep_ite ?_ ?_
      | (show dataIdx _ _; unfold dataIdx; (first | decide | (simp only [rgIdx, chIdx, tcIdx, lgIdx, ptIdx, kpIdx]; omega) | omega))
      | dsimp only | split
      | fail_if_no_progress (with_reducible refine keep_mk ?_ ?_ <;> [skip; first | rfl | simp_all only]))

theorem keep_fltRelease {d0 d : Dev} (h : Keep d0 d) : Keep d0 (fltRelease d) := by
  unfold fltRelease
  repeat' (first
      | with_reducible exact h | with_reducible assumption | with_reducible refine keep_fltBell ?_
      | with_reducible refine keep_fltWrite ?_ | with_reducible refine keep_foldl _ ?_ (fun _ _ _ => ?_) | dsimp only
      | fail_if_no_progress (with_reducible refine keep_mk ?_ ?_ <;> [skip; first | rfl | simp_all only]))

theorem keep_updPort {d0 d : Dev} {p : Nat} {f : Port → Port} (h : Keep d0 d) : Keep d0 (updPort p f d) := by
  unfold updPort
  repeat' (first
      | with_reducible exact h
      | fail_if_no_progress (with_reducible refine keep_mk ?_ ?_ <;> [skip; first | rfl | simp_all only]))

theorem soundk_updPort {d0 d : Dev} {p : Nat} {f : Port → Port} (h : Sound d0 d) : Sound d0 (updPort p f d) :=
    h.trans (keep_updPort (Keep.refl d)).toSound

end Sys2Proof.Machine
end

