-- ==== Sys2Proof/Laws/KeepSend.lean ====
section
/-! SUPPORT. What the functions of Machine/Send.lean leave alone (Laws/Keep.lean). -/

set_option linter.unusedTactic false
set_option linter.unreachableTactic false
set_option linter.unusedSimpArgs false

namespace Sys2Proof.Machine

theorem keep_updBell {d0 d : Dev} {r : Nat} {no : Nat} {f : RBell → RBell} (h : Keep d0 d)
    : Keep d0 (updBell r no f d) := by
  unfold updBell
  repeat' (first
      | with_reducible exact h | dsimp only
      | fail_if_no_progress (with_reducible refine keep_mk ?_ ?_ <;> [skip; first | rfl | simp_all only]))

theorem keep_depart {d0 d : Dev} {o : Owner} (h : Keep d0 d) : Keep d0 (depart o d) := by
  unfold depart
  repeat' (first
      | with_reducible exact h | with_reducible refine keep_updBell ?_ | dsimp only | split
      | fail_if_no_progress (with_reducible refine keep_mk ?_ ?_ <;> [skip; first | rfl | simp_all only]))

theorem keep_pump {d0 d : Dev} {p : Nat} (h : Keep d0 d) : Keep d0 (pump p d) := by
  unfold pump
  repeat' (first
      | with_reducible exact h | with_reducible assumption | with_reducible refine keep_updPort ?_
      | with_reducible refine keep_depart ?_ | with_reducible refine keep_cntN ?_ ?_
      | with_reducible refine keep_foldl _ ?_ (fun _ _ _ => ?_)
      | (show dataIdx _ _; unfold dataIdx; (first | decide | (simp only [rgIdx, chIdx, tcIdx, lgIdx, ptIdx, kpIdx]; omega) | omega)))

theorem keep_sendReq {d0 d : Dev} {p : Nat} {m : OutMsg} (h : Keep d0 d) : Keep d0 (sendReq p m d) := by
  unfold sendReq
  repeat' (first
      | with_reducible exact h | with_reducible refine keep_sendFor ?_ | with_reducible refine keep_ite ?_ ?_
      | dsimp only | split)

theorem keep_sendRsp {d0 d : Dev} {p : Nat} {o : Owner} {n : Nat} (h : Keep d0 d) : Keep d0 (sendRsp p o n d) := by
  unfold sendRsp
  repeat' (first | with_reducible exact h | with_reducible refine keep_sendFor ?_ | split)

theorem keep_post {d0 d : Dev} {p : Nat} {m : OutMsg} (h : Keep d0 d) : Keep d0 (post p m d) := by
  unfold post
  with_reducible repeat' (first | exact h | refine keep_pump ?_ | refine keep_updPort ?_ | refine keep_sendReq ?_)

theorem keep_postRead {d0 d : Dev} {p : Nat} {addr : Nat} {len : Nat} {o : Owner} (h : Keep d0 d)
    : Keep d0 (postRead p addr len o d) := by
  unfold postRead
  with_reducible repeat' (first | exact h | refine keep_post ?_)

theorem keep_postWrite {d0 d : Dev} {p : Nat} {addr : Nat} {bs : Bytes} {bad : List (Nat × Nat)} {o : Owner}
    (h : Keep d0 d) : Keep d0 (postWrite p addr bs bad o d) := by
  unfold postWrite
  with_reducible repeat' (first | exact h | refine keep_post ?_)

theorem keep_answer {d0 d : Dev} {p : Nat} {op : Nat} {status : Nat} {txid : Nat} (h : Keep d0 d)
    : Keep d0 (answer p op status txid d) := by
  unfold answer
  with_reducible repeat' (first | exact h | refine keep_post ?_)

theorem soundk_answer {d0 d : Dev} {p : Nat} {op : Nat} {status : Nat} {txid : Nat} (h : Sound d0 d)
    : Sound d0 (answer p op status txid d) := h.trans (keep_answer (Keep.refl d)).toSound

theorem keep_answerRead {d0 d : Dev} {p : Nat} {addr : Nat} {len : Nat} {status : Nat} {txid : Nat} (h : Keep d0 d)
    : Keep d0 (answerRead p addr len status txid d) := by
  unfold answerRead
  with_reducible repeat' (first | exact h | refine keep_post ?_)

theorem keep_answerData {d0 d : Dev} {p : Nat} {addr : Nat} {status : Nat} {txid : Nat} {bs : Bytes}
    {bad : List (Nat × Nat)} (h : Keep d0 d) : Keep d0 (answerData p addr status txid bs bad d) := by
  unfold answerData
  with_reducible repeat' (first | exact h | refine keep_post ?_)

theorem keep_readHost {d0 d : Dev} {p : Nat} {addr : Nat} {len : Nat} {o : Nat → Owner} (h : Keep d0 d)
    : Keep d0 (readHost p addr len o d) := by
  unfold readHost
  with_reducible repeat' (first
      | exact h | assumption | refine keep_postRead ?_ | refine keep_foldl _ ?_ (fun _ _ _ => ?_))

theorem keep_xoffUpdate {d0 d : Dev} {p : Nat} (h : Keep d0 d) : Keep d0 (xoffUpdate p d) := by
  unfold xoffUpdate
  repeat' (first
      | with_reducible exact h | with_reducible refine keep_updPort ?_ | with_reducible refine keep_cnt ?_ ?_
      | with_reducible refine keep_ite ?_ ?_
      | (show dataIdx _ _; unfold dataIdx; (first | decide | (simp only [rgIdx, chIdx, tcIdx, lgIdx, ptIdx, kpIdx]; omega) | omega)))

theorem soundk_xoffUpdate {d0 d : Dev} {p : Nat} (h : Sound d0 d) : Sound d0 (xoffUpdate p d) :=
    h.trans (keep_xoffUpdate (Keep.refl d)).toSound

theorem keep_strayRsp {d0 d : Dev} {p : Nat} {txid : Nat} (h : Keep d0 d) : Keep d0 (strayRsp p txid d) := by
  unfold strayRsp
  repeat' (first
      | with_reducible exact h | with_reducible refine keep_updPort ?_ | with_reducible refine keep_cnt ?_ ?_
      | (show dataIdx _ _; unfold dataIdx; (first | decide | (simp only [rgIdx, chIdx, tcIdx, lgIdx, ptIdx, kpIdx]; omega) | omega)))

end Sys2Proof.Machine
end

