-- ==== Sys2Proof/Laws/KeepBell.lean ====
section
/-! SUPPORT. What the functions of Machine/Bell.lean leave alone (Laws/Keep.lean). -/

set_option linter.unusedTactic false
set_option linter.unreachableTactic false
set_option linter.unusedSimpArgs false

namespace Sys2Proof.Machine

theorem keep_updSrc {d0 d : Dev} {s : Nat} {f : Src → Src} (h : Keep d0 d) : Keep d0 (updSrc s f d) := by
  unfold updSrc
  repeat' (first
      | with_reducible exact h
      | fail_if_no_progress (with_reducible refine keep_mk ?_ ?_ <;> [skip; first | rfl | simp_all only]))

theorem soundk_updSrc {d0 d : Dev} {s : Nat} {f : Src → Src} (h : Sound d0 d) : Sound d0 (updSrc s f d) :=
    h.trans (keep_updSrc (Keep.refl d)).toSound

theorem keep_updTgt {d0 d : Dev} {t : Nat} {f : Tgt → Tgt} (h : Keep d0 d) : Keep d0 (updTgt t f d) := by
  unfold updTgt
  repeat' (first
      | with_reducible exact h
      | fail_if_no_progress (with_reducible refine keep_mk ?_ ?_ <;> [skip; first | rfl | simp_all only]))

theorem keep_takeDoorbell {d0 d : Dev} {s : Nat} (h : Keep d0 d) : Keep d0 (takeDoorbell s d) := by
  unfold takeDoorbell
  repeat' (first
      | with_reducible exact h | with_reducible refine keep_updSrc ?_ | with_reducible refine keep_cnt ?_ ?_
      | (show dataIdx _ _; unfold dataIdx; (first | decide | (simp only [rgIdx, chIdx, tcIdx, lgIdx, ptIdx, kpIdx]; omega) | omega)))

theorem keep_irqUpdate {d0 d : Dev} {t : Nat} (h : Keep d0 d) : Keep d0 (irqUpdate t d) := by
  unfold irqUpdate
  with_reducible repeat' (first | exact h | refine keep_updTgt ?_)

theorem keep_bellExt {d0 d : Dev} {v : BitVec 32} (h : Keep d0 d) : Keep d0 (bellExt v d) := by
  unfold bellExt
  repeat' (first
      | with_reducible exact h | with_reducible refine keep_takeDoorbell ?_ | with_reducible refine keep_cnt ?_ ?_
      | with_reducible refine keep_ite ?_ ?_
      | (show dataIdx _ _; unfold dataIdx; (first | decide | (simp only [rgIdx, chIdx, tcIdx, lgIdx, ptIdx, kpIdx]; omega) | omega)))

theorem keep_eoi {d0 d : Dev} {t : Nat} {s : Nat} {word : Nat} (h : Keep d0 d) : Keep d0 (eoi t s word d) := by
  unfold eoi
  repeat' (first
      | with_reducible exact h | with_reducible refine keep_irqUpdate ?_ | with_reducible refine keep_updSrc ?_
      | with_reducible refine keep_updTgt ?_ | with_reducible refine keep_fault ?_
      | with_reducible refine keep_put ?_ ?_ | with_reducible refine keep_cnt ?_ ?_
      | with_reducible refine keep_ite ?_ ?_
      | (show dataIdx _ _; unfold dataIdx; (first | decide | (simp only [rgIdx, chIdx, tcIdx, lgIdx, ptIdx, kpIdx]; omega) | omega))
      | unfold eoi.eoiBad | split)

theorem keep_bellEoi {d0 d : Dev} {v : BitVec 32} (h : Keep d0 d) : Keep d0 (bellEoi v d) := by
  unfold bellEoi
  repeat' (first
      | with_reducible exact h | with_reducible refine keep_eoi ?_ | with_reducible refine keep_cnt ?_ ?_
      | with_reducible refine keep_ite ?_ ?_
      | (show dataIdx _ _; unfold dataIdx; (first | decide | (simp only [rgIdx, chIdx, tcIdx, lgIdx, ptIdx, kpIdx]; omega) | omega)))

theorem keep_accept {d0 d : Dev} {t : Nat} {r : Run} (h : Keep d0 d) : Keep d0 (accept t r d) := by
  unfold accept
  repeat' (first
      | with_reducible exact h | with_reducible refine keep_updTgt ?_ | with_reducible refine keep_updSrc ?_
      | with_reducible refine keep_irqUpdate ?_ | with_reducible refine keep_cnt ?_ ?_
      | (show dataIdx _ _; unfold dataIdx; (first | decide | (simp only [rgIdx, chIdx, tcIdx, lgIdx, ptIdx, kpIdx]; omega) | omega)))

theorem keep_attemptAct {d0 d : Dev} {t : Nat} (h : Keep d0 d) : Keep d0 (attemptAct t d) := by
  unfold attemptAct
  repeat' (first
      | with_reducible exact h | with_reducible refine keep_accept ?_ | with_reducible refine keep_freeWide ?_
      | with_reducible refine keep_post ?_ | with_reducible refine keep_updTgt ?_
      | with_reducible refine keep_ite ?_ ?_ | dsimp only | split)

theorem keep_startRun {d0 d : Dev} {t : Nat} (h : Keep d0 d) : Keep d0 (startRun t d) := by
  unfold startRun
  repeat' (first
      | with_reducible exact h | with_reducible refine keep_attemptAct ?_ | with_reducible refine keep_updTgt ?_
      | with_reducible refine keep_put ?_ ?_ | with_reducible refine keep_ite ?_ ?_
      | (show dataIdx _ _; unfold dataIdx; (first | decide | (simp only [rgIdx, chIdx, tcIdx, lgIdx, ptIdx, kpIdx]; omega) | omega))
      | dsimp only | split)

theorem keep_nextSlot {d0 d : Dev} {t : Nat} (h : Keep d0 d) : Keep d0 (nextSlot t d) := by
  unfold nextSlot
  repeat' (first
      | with_reducible exact h | with_reducible refine keep_updTgt ?_ | with_reducible refine keep_attemptAct ?_
      | with_reducible refine keep_cnt ?_ ?_ | with_reducible refine keep_ite ?_ ?_
      | (show dataIdx _ _; unfold dataIdx; (first | decide | (simp only [rgIdx, chIdx, tcIdx, lgIdx, ptIdx, kpIdx]; omega) | omega))
      | dsimp only | split)

theorem keep_fallBack {d0 d : Dev} {t : Nat} (h : Keep d0 d) : Keep d0 (fallBack t d) := by
  unfold fallBack
  repeat' (first
      | with_reducible exact h | with_reducible assumption | with_reducible refine keep_updTgt ?_
      | with_reducible refine keep_updSrc ?_ | with_reducible refine keep_cntN ?_ ?_
      | with_reducible refine keep_cnt ?_ ?_ | with_reducible refine keep_foldl _ ?_ (fun _ _ _ => ?_)
      | (show dataIdx _ _; unfold dataIdx; (first | decide | (simp only [rgIdx, chIdx, tcIdx, lgIdx, ptIdx, kpIdx]; omega) | omega)))

theorem keep_bellResponse {d0 d : Dev} {t : Nat} {dseq : Nat} {slot : Nat} {status : Nat} (h : Keep d0 d)
    : Keep d0 (bellResponse t dseq slot status d) := by
  unfold bellResponse
  repeat' (first
      | with_reducible exact h | with_reducible refine keep_accept ?_ | with_reducible refine keep_updTgt ?_
      | with_reducible refine keep_cnt ?_ ?_ | with_reducible refine keep_ite ?_ ?_
      | (show dataIdx _ _; unfold dataIdx; (first | decide | (simp only [rgIdx, chIdx, tcIdx, lgIdx, ptIdx, kpIdx]; omega) | omega))
      | split)

theorem keep_unfreeze {d0 d : Dev} {t : Nat} (h : Keep d0 d) : Keep d0 (unfreeze t d) := by
  unfold unfreeze
  with_reducible repeat' (first
      | exact h | assumption | refine keep_irqUpdate ?_ | refine keep_updTgt ?_ | refine keep_updSrc ?_
      | refine keep_ite ?_ ?_ | refine keep_foldl _ ?_ (fun _ _ _ => ?_))

theorem soundk_unfreeze {d0 d : Dev} {t : Nat} (h : Sound d0 d) : Sound d0 (unfreeze t d) :=
    h.trans (keep_unfreeze (Keep.refl d)).toSound

theorem keep_bellTakeNext {d0 d : Dev} (h : Keep d0 d) : Keep d0 (bellTakeNext d) := by
  unfold bellTakeNext
  repeat' (first
      | with_reducible exact h | with_reducible refine keep_takeDoorbell ?_ | with_reducible refine keep_bellEoi ?_
      | with_reducible refine keep_ite ?_ ?_ | dsimp only | split
      | fail_if_no_progress (with_reducible refine keep_mk ?_ ?_ <;> [skip; first | rfl | simp_all only]))

theorem keep_bellReset {d0 d : Dev} (h : Keep d0 d) : Keep d0 (bellReset d) := by
  unfold bellReset
  repeat' (first
      | with_reducible exact h | with_reducible assumption | with_reducible refine keep_put ?_ ?_
      | with_reducible refine keep_foldl _ ?_ (fun _ _ _ => ?_)
      | (show dataIdx _ _; unfold dataIdx; (first | decide | (simp only [rgIdx, chIdx, tcIdx, lgIdx, ptIdx, kpIdx]; omega) | omega))
      | dsimp only
      | fail_if_no_progress (with_reducible refine keep_mk ?_ ?_ <;> [skip; first | rfl | simp_all only]))

theorem soundk_bellReset {d0 d : Dev} (h : Sound d0 d) : Sound d0 (bellReset d) :=
    h.trans (keep_bellReset (Keep.refl d)).toSound

theorem keep_setAwake {d0 d : Dev} {t : Nat} {a : Bool} (h : Keep d0 d) : Keep d0 (setAwake t a d) := by
  unfold setAwake
  with_reducible repeat' (first | exact h | refine keep_updTgt ?_ | refine keep_ite ?_ ?_)

theorem keep_slotEnd {d0 d : Dev} {t : Nat} (h : Keep d0 d) : Keep d0 (slotEnd t d) := by
  unfold slotEnd
  repeat' (first
      | with_reducible exact h | with_reducible refine keep_nextSlot ?_ | with_reducible refine keep_ite ?_ ?_
      | split)

theorem keep_awakeRise {d0 d : Dev} {t : Nat} (h : Keep d0 d) : Keep d0 (awakeRise t d) := by
  unfold awakeRise
  with_reducible repeat' (first
      | exact h | refine keep_attemptAct ?_ | refine keep_setAwake ?_ | refine keep_ite ?_ ?_)

end Sys2Proof.Machine
end

