-- ==== Sys2Proof/Laws/KeepSb.lean ====
section
/-! SUPPORT. What the functions of Machine/Sb.lean leave alone (Laws/Keep.lean). -/

set_option linter.unusedTactic false
set_option linter.unreachableTactic false
set_option linter.unusedSimpArgs false

namespace Sys2Proof.Machine

theorem keep_updLan {d0 d : Dev} {f : Lan → Lan} (h : Keep d0 d) (hf : ∀ l, (f l).mem = l.mem) : Keep d0 (updLan f d)
    := by
  unfold updLan
  repeat' (first
      | with_reducible exact h
      | fail_if_no_progress (with_reducible refine keep_mk ?_ ?_ <;> [skip; first | rfl | simp_all only]))

theorem soundk_updLan {d0 d : Dev} {f : Lan → Lan} (h : Sound d0 d) (hf : ∀ l, (f l).mem = l.mem)
    : Sound d0 (updLan f d) := h.trans (keep_updLan (Keep.refl d) hf).toSound

theorem keep_updClasp {d0 d : Dev} {f : Clasp → Clasp} (h : Keep d0 d) : Keep d0 (updClasp f d) := by
  unfold updClasp
  repeat' (first
      | with_reducible exact h
      | fail_if_no_progress (with_reducible refine keep_mk ?_ ?_ <;> [skip; first | rfl | simp_all only]))

theorem soundk_updClasp {d0 d : Dev} {f : Clasp → Clasp} (h : Sound d0 d) : Sound d0 (updClasp f d) :=
    h.trans (keep_updClasp (Keep.refl d)).toSound

theorem keep_freshId {d0 d : Dev} (h : Keep d0 d) : Keep d0 (freshId d).2 := by
  unfold freshId
  with_reducible repeat' (first | exact h | refine keep_updLan ?_ (fun _ => rfl))

theorem keep_freshIdE {d0 d : Dev} {r9 : Nat × Dev} (h : Keep d0 d) (e9 : (freshId d) = r9) : Keep d0 r9.2 :=
    e9 ▸ keep_freshId h

theorem keep_sbAlloc {d0 d : Dev} {seg : Nat} {len : Nat} {own : SbOwn} {r9 : (Nat × Dev)} (h : Keep d0 d)
    (e9 : (sbAlloc seg len own d) = some r9) : Keep d0 r9.2 := by
  unfold sbAlloc at e9
  repeat' (first
      | split at e9
      | simp only [Option.map_eq_some_iff, Option.bind_eq_some_iff, Option.some.injEq, reduceCtorEq] at e9
      | (obtain ⟨_, _, e9⟩ := e9))
  all_goals (try subst e9)
  all_goals repeat' (first | with_reducible exact h | with_reducible refine keep_updLan ?_ (fun _ => rfl))

theorem keep_sbAllocs {seg : Nat} {own : SbOwn} {ns : List Nat} : ∀ {d0 d : Dev} {r : List Nat × Dev}, Keep d0 d →
    sbAllocs seg own ns d = some r → Keep d0 r.2 := by
  induction ns with
  | nil =>
    intro d0 d r h e
    simp only [sbAllocs, Option.some.injEq] at e
    subst e
    exact h
  | cons n ns ih =>
    intro d0 d r h e
    unfold sbAllocs at e
    split at e
    · cases e
    · next a d1 heq =>
      simp only [Option.map_eq_some_iff] at e
      obtain ⟨w, hw, rfl⟩ := e
      have k : Keep d0 w.2 := ih (d := d1) (keep_sbAlloc (r9 := (_, _)) h heq) hw
      exact k

theorem keep_sbFree {d0 d : Dev} {own : SbOwn} (h : Keep d0 d) : Keep d0 (sbFree own d) := by
  unfold sbFree
  with_reducible repeat' (first | exact h | refine keep_updLan ?_ (fun _ => rfl))

theorem keep_memBell {d0 d : Dev} {kind : Nat} (h : Keep d0 d) : Keep d0 (memBell kind d) := by
  unfold memBell
  repeat' (first
      | with_reducible exact h | with_reducible refine keep_send ?_ | with_reducible refine keep_ite ?_ ?_
      | fail_if_no_progress (with_reducible refine keep_mk ?_ ?_ <;> [skip; first | rfl | simp_all only]))

theorem keep_memWrite {d0 d : Dev} {r : MemRec} (h : Keep d0 d) : Keep d0 (memWrite r d) := by
  unfold memWrite
  repeat' (first
      | with_reducible exact h | with_reducible refine keep_memBell ?_ | with_reducible refine keep_cnt ?_ ?_
      | (show dataIdx _ _; unfold dataIdx; (first | decide | (simp only [rgIdx, chIdx, tcIdx, lgIdx, ptIdx, kpIdx]; omega) | omega))
      | dsimp only
      | fail_if_no_progress (with_reducible refine keep_mk ?_ ?_ <;> [skip; first | rfl | simp_all only]))

theorem keep_memError {d0 d : Dev} {kind : Nat} {syn : Nat} {where_ : Nat} {unit : Nat} (h : Keep d0 d)
    : Keep d0 (memError kind syn where_ unit d) := by
  unfold memError
  repeat' (first
      | with_reducible exact h | with_reducible refine keep_memWrite ?_ | with_reducible refine keep_fault ?_
      | with_reducible refine keep_ite ?_ ?_ | dsimp only | split
      | fail_if_no_progress (with_reducible refine keep_mk ?_ ?_ <;> [skip; first | rfl | simp_all only]))

theorem keep_memRelease {d0 d : Dev} (h : Keep d0 d) : Keep d0 (memRelease d) := by
  unfold memRelease
  repeat' (first
      | with_reducible exact h | with_reducible assumption | with_reducible refine keep_memWrite ?_
      | with_reducible refine keep_foldl _ ?_ (fun _ _ _ => ?_) | dsimp only
      | fail_if_no_progress (with_reducible refine keep_mk ?_ ?_ <;> [skip; first | rfl | simp_all only]))

theorem keep_sbNote {d0 d : Dev} {w : Nat} {flips : Nat} (h : Keep d0 d) : Keep d0 (sbNote w flips d) := by
  unfold sbNote
  repeat' (first
      | with_reducible exact h | with_reducible refine keep_memError ?_ | with_reducible refine keep_cnt ?_ ?_
      | (show dataIdx _ _; unfold dataIdx; (first | decide | (simp only [rgIdx, chIdx, tcIdx, lgIdx, ptIdx, kpIdx]; omega) | omega))
      | split)

theorem keep_sbNotes {d0 d : Dev} {l : List (Nat × Nat)} (h : Keep d0 d) : Keep d0 (sbNotes l d) := by
  unfold sbNotes
  with_reducible repeat' (first
      | exact h | assumption | refine keep_sbNote ?_ | refine keep_foldl _ ?_ (fun _ _ _ => ?_))

theorem keep_sbFetch {d0 d : Dev} {u : NUnit} {a : Nat} {n : Nat} (h : Keep d0 d) : Keep d0 (sbFetch u a n d).2.2 := by
  unfold sbFetch
  repeat' (first
      | with_reducible exact h | with_reducible refine keep_send ?_ | with_reducible refine keep_sbNotes ?_
      | with_reducible refine keep_memError ?_ | with_reducible refine keep_cnt ?_ ?_
      | (show dataIdx _ _; unfold dataIdx; (first | decide | (simp only [rgIdx, chIdx, tcIdx, lgIdx, ptIdx, kpIdx]; omega) | omega))
      | dsimp only | split)

theorem keep_sbFetchE {d0 d : Dev} {u : NUnit} {a : Nat} {n : Nat} {r9 : Bytes × List (Nat × Nat) × Dev}
    (h : Keep d0 d) (e9 : (sbFetch u a n d) = r9) : Keep d0 r9.2.2 := e9 ▸ keep_sbFetch h

theorem keep_sbStoreQ {d0 d : Dev} {u : NUnit} {a : Nat} {bs : Bytes} (h : Keep d0 d)
    : Keep d0 (sbStore? u a bs d).2 := by
  unfold sbStore?
  repeat' (first
      | with_reducible exact h | with_reducible assumption | with_reducible refine keep_send ?_
      | with_reducible refine keep_sbNote ?_ | with_reducible refine keep_updLan ?_ (fun _ => rfl)
      | with_reducible refine keep_cntN ?_ ?_ | with_reducible refine keep_sbWrite ?_
      | with_reducible refine keep_foldl _ ?_ (fun _ _ _ => ?_)
      | (show dataIdx _ _; unfold dataIdx; (first | decide | (simp only [rgIdx, chIdx, tcIdx, lgIdx, ptIdx, kpIdx]; omega) | omega)))

theorem keep_sbStoreQE {d0 d : Dev} {u : NUnit} {a : Nat} {bs : Bytes} {r9 : Bool × Dev} (h : Keep d0 d)
    (e9 : (sbStore? u a bs d) = r9) : Keep d0 r9.2 := e9 ▸ keep_sbStoreQ h

theorem keep_sbStore {d0 d : Dev} {u : NUnit} {a : Nat} {bs : Bytes} (h : Keep d0 d) : Keep d0 (sbStore u a bs d) := by
  unfold sbStore
  with_reducible repeat' (first | exact h | refine keep_sbStoreQ ?_)

end Sys2Proof.Machine
end

