-- ==== Sys2Proof/Laws/KeepMap.lean ====
section
/-! SUPPORT. What the functions of Machine/Map.lean leave alone (Laws/Keep.lean). -/

set_option linter.unusedTactic false
set_option linter.unreachableTactic false
set_option linter.unusedSimpArgs false

namespace Sys2Proof.Machine

theorem keep_updDie {d0 d : Dev} {n : Nat} {f : Die → Die} (h : Keep d0 d) : Keep d0 (updDie n f d) := by
  unfold updDie
  repeat' (first
      | with_reducible exact h
      | fail_if_no_progress (with_reducible refine keep_mk ?_ ?_ <;> [skip; first | rfl | simp_all only]))

theorem keep_updChan {d0 d : Dev} {ch : Nat} {f : Chan → Chan} (h : Keep d0 d) : Keep d0 (updChan ch f d) := by
  unfold updChan
  repeat' (first
      | with_reducible exact h
      | fail_if_no_progress (with_reducible refine keep_mk ?_ ?_ <;> [skip; first | rfl | simp_all only]))

theorem soundk_updChan {d0 d : Dev} {ch : Nat} {f : Chan → Chan} (h : Sound d0 d) : Sound d0 (updChan ch f d) :=
    h.trans (keep_updChan (Keep.refl d)).toSound

theorem keep_putMap {d0 d : Dev} {g : Nat} {e : Nat} (h : Keep d0 d) : Keep d0 (putMap g e d) := by
  unfold putMap
  with_reducible repeat' (first | exact h | refine keep_updLan ?_ (fun _ => rfl))

theorem keep_updLine {d0 d : Dev} {ln : Nat} {f : Line → Line} (h : Keep d0 d) : Keep d0 (updLine ln f d) := by
  unfold updLine
  with_reducible repeat' (first | exact h | refine keep_updLan ?_ (fun _ => rfl))

theorem keep_lineCe {d0 d : Dev} {x : Line} {w : Nat} {flips : Nat} (h : Keep d0 d) : Keep d0 (lineCe x w flips d) := by
  unfold lineCe
  with_reducible repeat' (first | exact h | refine keep_memError ?_ | refine keep_putB ?_)

theorem keep_loseLine {d0 d : Dev} {x : Line} {syn : Nat} {w : Nat} (h : Keep d0 d) : Keep d0 (loseLine x syn w d) := by
  unfold loseLine
  repeat' (first
      | with_reducible exact h | with_reducible refine keep_updLine ?_
      | with_reducible refine keep_updLan ?_ (fun _ => rfl) | with_reducible refine keep_updClasp ?_
      | with_reducible refine keep_memError ?_ | with_reducible refine keep_cnt ?_ ?_
      | with_reducible refine keep_ite ?_ ?_
      | (show dataIdx _ _; unfold dataIdx; (first | decide | (simp only [rgIdx, chIdx, tcIdx, lgIdx, ptIdx, kpIdx]; omega) | omega)))

theorem keep_lineRead {d0 d : Dev} {x : Line} {ws : List Nat} (h : Keep d0 d) : Keep d0 (lineRead x ws d) := by
  unfold lineRead
  repeat' (first
      | with_reducible exact h | with_reducible assumption | with_reducible refine keep_lineCe ?_
      | with_reducible refine keep_loseLine ?_ | with_reducible refine keep_memError ?_
      | with_reducible refine keep_updLan ?_ (fun _ => rfl) | with_reducible refine keep_cnt ?_ ?_
      | with_reducible refine keep_ite ?_ ?_ | with_reducible refine keep_foldl _ ?_ (fun _ _ _ => ?_)
      | (show dataIdx _ _; unfold dataIdx; (first | decide | (simp only [rgIdx, chIdx, tcIdx, lgIdx, ptIdx, kpIdx]; omega) | omega))
      | dsimp only | split)

theorem keep_writeBack {d0 d : Dev} {x : Line} (h : Keep d0 d) : Keep d0 (writeBack x d) := by
  unfold writeBack
  repeat' (first
      | with_reducible exact h | with_reducible refine keep_lineRead ?_ | with_reducible refine keep_postWrite ?_
      | with_reducible refine keep_updLine ?_ | with_reducible refine keep_updLan ?_ (fun _ => rfl)
      | with_reducible refine keep_cnt ?_ ?_ | with_reducible refine keep_ite ?_ ?_
      | (show dataIdx _ _; unfold dataIdx; (first | decide | (simp only [rgIdx, chIdx, tcIdx, lgIdx, ptIdx, kpIdx]; omega) | omega)))

theorem keep_writeBackAll {d0 d : Dev} (h : Keep d0 d) : Keep d0 (writeBackAll d) := by
  unfold writeBackAll
  with_reducible repeat' (first
      | exact h | assumption | refine keep_writeBack ?_ | refine keep_foldl _ ?_ (fun _ _ _ => ?_))

theorem keep_putLine {d0 d : Dev} {ln : Nat} {w : Nat} (h : Keep d0 d) : Keep d0 (putLine ln w d) := by
  unfold putLine
  with_reducible repeat' (first | exact h | refine keep_updLan ?_ (fun _ => rfl))

theorem keep_fillLine {d0 d : Dev} {ln : Nat} (h : Keep d0 d) : Keep d0 (fillLine ln d) := by
  unfold fillLine
  repeat' (first
      | with_reducible exact h | with_reducible refine keep_putLine ?_ | with_reducible refine keep_writeBack ?_
      | with_reducible refine keep_updLan ?_ (fun _ => rfl) | with_reducible refine keep_ite ?_ ?_ | dsimp only
      | split)

theorem keep_touchLine {d0 d : Dev} {ln : Nat} {dirty : Bool} (h : Keep d0 d) : Keep d0 (touchLine ln dirty d) := by
  unfold touchLine
  with_reducible repeat' (first | exact h | refine keep_updLan ?_ (fun _ => rfl) | refine keep_updLine ?_)

theorem keep_askLine {d0 d : Dev} {ln : Nat} (h : Keep d0 d) : Keep d0 (askLine ln d) := by
  unfold askLine
  repeat' (first
      | with_reducible exact h | with_reducible refine keep_assertWake ?_
      | with_reducible refine keep_updLan ?_ (fun _ => rfl) | with_reducible refine keep_postRead ?_
      | with_reducible refine keep_cnt ?_ ?_ | with_reducible refine keep_ite ?_ ?_
      | (show dataIdx _ _; unfold dataIdx; (first | decide | (simp only [rgIdx, chIdx, tcIdx, lgIdx, ptIdx, kpIdx]; omega) | omega)))

theorem keep_wantLine {d0 d : Dev} {ln : Nat} {change : Bool} (h : Keep d0 d) : Keep d0 (wantLine ln change d) := by
  unfold wantLine
  with_reducible repeat' (first | exact h | refine keep_askLine ?_ | refine keep_updLan ?_ (fun _ => rfl))

theorem keep_askWanted {d0 d : Dev} (h : Keep d0 d) : Keep d0 (askWanted d) := by
  unfold askWanted
  with_reducible repeat' (first
      | exact h | assumption | refine keep_askLine ?_ | refine keep_foldl _ ?_ (fun _ _ _ => ?_))

theorem soundk_askWanted {d0 d : Dev} (h : Sound d0 d) : Sound d0 (askWanted d) :=
    h.trans (keep_askWanted (Keep.refl d)).toSound

theorem keep_gotLine {d0 d : Dev} {ln : Nat} (h : Keep d0 d) : Keep d0 (gotLine ln d) := by
  unfold gotLine
  with_reducible repeat' (first | exact h | refine keep_touchLine ?_ | refine keep_updLan ?_ (fun _ => rfl))

theorem keep_mendLine {d0 d : Dev} {ln : Nat} {ws : List Nat} (h : Keep d0 d) : Keep d0 (mendLine ln ws d) := by
  unfold mendLine
  with_reducible repeat' (first | exact h | refine keep_updLine ?_)

theorem keep_changeLine {d0 d : Dev} {ln : Nat} {ws : List Nat} {part : Bool} (h : Keep d0 d)
    : Keep d0 (changeLine ln ws part d) := by
  unfold changeLine
  repeat' (first
      | with_reducible exact h | with_reducible refine keep_lineRead ?_ | with_reducible refine keep_mendLine ?_
      | with_reducible refine keep_touchLine ?_ | with_reducible refine keep_wantLine ?_
      | with_reducible refine keep_cnt ?_ ?_ | with_reducible refine keep_ite ?_ ?_
      | (show dataIdx _ _; unfold dataIdx; (first | decide | (simp only [rgIdx, chIdx, tcIdx, lgIdx, ptIdx, kpIdx]; omega) | omega))
      | dsimp only | split)

theorem keep_lookup {d0 d : Dev} {ln : Nat} {ws : List Nat} (h : Keep d0 d) : Keep d0 (lookup ln ws d).2 := by
  unfold lookup
  repeat' (first
      | with_reducible exact h | with_reducible refine keep_send ?_ | with_reducible refine keep_lineRead ?_
      | with_reducible refine keep_touchLine ?_ | with_reducible refine keep_wantLine ?_
      | with_reducible refine keep_cnt ?_ ?_ | with_reducible refine keep_ite ?_ ?_
      | (show dataIdx _ _; unfold dataIdx; (first | decide | (simp only [rgIdx, chIdx, tcIdx, lgIdx, ptIdx, kpIdx]; omega) | omega))
      | dsimp only | split)

theorem keep_lookupE {d0 d : Dev} {ln : Nat} {ws : List Nat} {r9 : Look × Dev} (h : Keep d0 d) (e9 : (lookup ln ws d)
    = r9) : Keep d0 r9.2 := e9 ▸ keep_lookup h

theorem keep_updBlk {d0 d : Dev} {n : Nat} {b : Nat} {f : Blk → Blk} (h : Keep d0 d) : Keep d0 (updBlk n b f d) := by
  unfold updBlk
  with_reducible repeat' (first | exact h | refine keep_changeLine ?_ | refine keep_updLan ?_ (fun _ => rfl))

theorem keep_putRdCount {d0 d : Dev} {n : Nat} {b : Nat} {v : Nat} (h : Keep d0 d) : Keep d0 (putRdCount n b v d) := by
  unfold putRdCount
  with_reducible repeat' (first | exact h | refine keep_changeLine ?_ | refine keep_updLan ?_ (fun _ => rfl))

theorem keep_putBandMem {d0 d : Dev} {s : Nat} {b : Nat} {m : Nat} {v : Nat} (h : Keep d0 d)
    : Keep d0 (putBandMem s b m v d) := by
  unfold putBandMem
  with_reducible repeat' (first | exact h | refine keep_changeLine ?_ | refine keep_updLan ?_ (fun _ => rfl))

theorem keep_dirtyEntry {d0 d : Dev} {g : Nat} (h : Keep d0 d) : Keep d0 (dirtyEntry g d) := by
  unfold dirtyEntry
  with_reducible repeat' (first | exact h | refine keep_changeLine ?_)

theorem keep_jAppend {d0 d : Dev} {r : JRec} (h : Keep d0 d) : Keep d0 (jAppend r d) := by
  unfold jAppend
  with_reducible repeat' (first | exact h | refine keep_updClasp ?_)

theorem keep_jBlock {d0 d : Dev} {n : Nat} {b : Nat} {job : Nat} (h : Keep d0 d) : Keep d0 (jBlock n b job d) := by
  unfold jBlock
  with_reducible repeat' (first | exact h | refine keep_jAppend ?_)

theorem keep_setBstate {d0 d : Dev} {n : Nat} {b : Nat} {v : Nat} (h : Keep d0 d) : Keep d0 (setBstate n b v d) := by
  unfold setBstate
  with_reducible repeat' (first | exact h | refine keep_jBlock ?_ | refine keep_updBlk ?_)

theorem keep_jBand {d0 d : Dev} {s : Nat} {b : Nat} {m : Nat} (h : Keep d0 d) : Keep d0 (jBand s b m d) := by
  unfold jBand
  with_reducible repeat' (first | exact h | refine keep_jAppend ?_)

theorem keep_cutMember {d0 d : Dev} {bd : Band} {m : Nat} {row : Nat} (h : Keep d0 d)
    : Keep d0 (cutMember bd m row d) := by
  unfold cutMember
  with_reducible repeat' (first | exact h | refine keep_jBand ?_ | refine keep_putBandMem ?_ | refine keep_ite ?_ ?_)

theorem keep_moveUnits {d0 d : Dev} {add : Bool} {e : Nat} {g : Gran} (h : Keep d0 d) : Keep d0 (moveUnits add e g d)
    := by
  unfold moveUnits
  repeat' (first
      | with_reducible exact h | with_reducible assumption | with_reducible refine keep_updBlk ?_
      | with_reducible refine keep_ite ?_ ?_ | with_reducible refine keep_foldl _ ?_ (fun _ _ _ => ?_) | split)

theorem keep_pruneVers {d0 d : Dev} (h : Keep d0 d) : Keep d0 (pruneVers d) := by
  unfold pruneVers
  repeat' (first
      | with_reducible exact h | with_reducible assumption | with_reducible refine keep_updLan ?_ (fun _ => rfl)
      | with_reducible refine keep_moveUnits ?_ | with_reducible refine keep_foldl _ ?_ (fun _ _ _ => ?_) | split)

theorem keep_jMap {d0 d : Dev} {g : Nat} {e : Nat} {wseq : Nat} {flags : Nat} (h : Keep d0 d)
    : Keep d0 (jMap g e wseq flags d) := by
  unfold jMap
  with_reducible repeat' (first | exact h | refine keep_jAppend ?_)

theorem keep_changeEntry {d0 d : Dev} {g : Gran} {no : Nat} {e : Nat} (h : Keep d0 d)
    : Keep d0 (changeEntry g no e d) := by
  unfold changeEntry
  with_reducible repeat' (first
      | exact h | refine keep_moveUnits ?_ | refine keep_pruneVers ?_ | refine keep_updLan ?_ (fun _ => rfl)
      | refine keep_putMap ?_ | refine keep_ite ?_ ?_)

end Sys2Proof.Machine
end

