-- ==== Sys2Proof/Laws/KeepSeq.lean ====
section
/-! SUPPORT. What the functions of Machine/Seq.lean leave alone (Laws/Keep.lean). -/

set_option linter.unusedTactic false
set_option linter.unreachableTactic false
set_option linter.unusedSimpArgs false

namespace Sys2Proof.Machine

theorem keep_updSeq {d0 d : Dev} {ch : Nat} {f : Seq → Seq} (h : Keep d0 d) : Keep d0 (updSeq ch f d) := by
  unfold updSeq
  repeat' (first
      | with_reducible exact h
      | fail_if_no_progress (with_reducible refine keep_mk ?_ ?_ <;> [skip; first | rfl | simp_all only]))

theorem keep_seqStart {d0 d : Dev} {ch : Nat} {idx : Nat} {k : Nat} {plane : Nat} {e : Option BEnt} (h : Keep d0 d)
    : Keep d0 (seqStart ch idx k plane e d) := by
  unfold seqStart
  repeat' (first
      | with_reducible exact h | with_reducible refine keep_updSeq ?_
      | fail_if_no_progress (with_reducible refine keep_mk ?_ ?_ <;> [skip; first | rfl | simp_all only]))

theorem keep_seqStop {d0 d : Dev} {ch : Nat} (h : Keep d0 d) : Keep d0 (seqStop ch d) := by
  unfold seqStop
  with_reducible repeat' (first | exact h | refine keep_updSeq ?_)

end Sys2Proof.Machine
end

