-- ==== Sys2Proof/Laws/KeepTelemetry.lean ====
section
/-! SUPPORT. What the functions of Machine/Telemetry.lean leave alone (Laws/Keep.lean). -/

set_option linter.unusedTactic false
set_option linter.unreachableTactic false
set_option linter.unusedSimpArgs false

namespace Sys2Proof.Machine

theorem sound_updSensor {d0 d : Dev} {i : Nat} {f : Sensor → Sensor} (h : Sound d0 d) : Sound d0 (updSensor i f d) := by
  unfold updSensor
  repeat' (first
      | with_reducible exact h
      | fail_if_no_progress (with_reducible refine sound_mk ?_ ?_ <;> [skip; first | rfl | simp_all only]))

theorem sound_takeReport {d0 d : Dev} {energy0 : Nat} {seq0 : Nat} (h : Sound d0 d)
    : Sound d0 (takeReport energy0 seq0 d) := by
  unfold takeReport
  repeat' (first
      | with_reducible exact h | with_reducible refine sound_put ?_ | with_reducible refine sound_cnt ?_
      | with_reducible refine sound_ite ?_ ?_ | dsimp only
      | fail_if_no_progress (with_reducible refine sound_mk ?_ ?_ <;> [skip; first | rfl | simp_all only]))

theorem sound_busSample {d0 d : Dev} {mv0 : Nat} (h : Sound d0 d) : Sound d0 (busSample mv0 d) := by
  unfold busSample
  repeat' (first
      | with_reducible exact h | with_reducible refine sound_cnt ?_ | dsimp only | split
      | fail_if_no_progress (with_reducible refine sound_mk ?_ ?_ <;> [skip; first | rfl | simp_all only]))

theorem sound_busSamples {d0 d : Dev} {mvs : List Nat} (h : Sound d0 d) : Sound d0 (busSamples mvs d) := by
  unfold busSamples
  with_reducible repeat' (first
      | exact h | assumption | refine sound_busSample ?_ | refine sound_foldl _ ?_ (fun _ _ _ => ?_))

theorem keep_setTmr {d0 d : Dev} {k : Nat} {t : Tmr} (h : Keep d0 d) : Keep d0 (setTmr k t d) := by
  unfold setTmr
  repeat' (first
      | with_reducible exact h | dsimp only
      | fail_if_no_progress (with_reducible refine keep_mk ?_ ?_ <;> [skip; first | rfl | simp_all only]))

theorem keep_skipTicks {d0 d : Dev} {now : Nat} (h : Keep d0 d) : Keep d0 (skipTicks now d) := by
  unfold skipTicks
  repeat' (first
      | with_reducible exact h | with_reducible assumption | with_reducible refine keep_setTmr ?_
      | with_reducible refine keep_cntN ?_ ?_ | with_reducible refine keep_ite ?_ ?_
      | with_reducible refine keep_foldl _ ?_ (fun _ _ _ => ?_)
      | (show dataIdx _ _; unfold dataIdx; (first | decide | (simp only [rgIdx, chIdx, tcIdx, lgIdx, ptIdx, kpIdx]; omega) | omega)))

theorem soundk_skipTicks {d0 d : Dev} {now : Nat} (h : Sound d0 d) : Sound d0 (skipTicks now d) :=
    h.trans (keep_skipTicks (Keep.refl d)).toSound

theorem sound_applySync {d0 d : Dev} {count : Nat} (h : Sound d0 d) : Sound d0 (applySync count d) := by
  unfold applySync
  repeat' (first
      | with_reducible exact h | with_reducible refine soundk_skipTicks ?_ | with_reducible refine sound_put ?_
      | dsimp only | split
      | fail_if_no_progress (with_reducible refine sound_mk ?_ ?_ <;> [skip; first | rfl | simp_all only]))

theorem sound_sync {d0 d : Dev} {count : Nat} (h : Sound d0 d) : Sound d0 (sync count d) := by
  unfold sync
  repeat' (first
      | with_reducible exact h | with_reducible refine sound_applySync ?_ | with_reducible refine sound_put ?_
      | with_reducible refine sound_cnt ?_ | with_reducible refine sound_ite ?_ ?_ | unfold sync.judge | dsimp only
      | split | fail_if_no_progress (with_reducible refine sound_mk ?_ ?_ <;> [skip; first | rfl | simp_all only]))

theorem sound_holdover {d0 d : Dev} (h : Sound d0 d) : Sound d0 (holdover d) := by
  unfold holdover
  repeat' (first
      | with_reducible exact h | with_reducible refine sound_put ?_ | with_reducible refine sound_cnt ?_
      | with_reducible refine sound_ite ?_ ?_ | dsimp only
      | fail_if_no_progress (with_reducible refine sound_mk ?_ ?_ <;> [skip; first | rfl | simp_all only]))

end Sys2Proof.Machine
end

