-- ==== Sys2Proof/Laws/KeepTherm.lean ====
section
/-! SUPPORT. What the functions of Machine/Therm.lean leave alone (Laws/Keep.lean). -/

set_option linter.unusedTactic false
set_option linter.unreachableTactic false
set_option linter.unusedSimpArgs false

namespace Sys2Proof.Machine

theorem keep_updNode {d0 d : Dev} {n : Nat} {f : Node → Node} (h : Keep d0 d) : Keep d0 (updNode n f d) := by
  unfold updNode
  repeat' (first
      | with_reducible exact h
      | fail_if_no_progress (with_reducible refine keep_mk ?_ ?_ <;> [skip; first | rfl | simp_all only]))

theorem keep_charge {d0 d : Dev} {n : Nat} {nj : Nat} (h : Keep d0 d) : Keep d0 (charge n nj d) := by
  unfold charge
  with_reducible repeat' (first | exact h | refine keep_updNode ?_ | refine keep_ite ?_ ?_)

theorem keep_chargeDie {d0 d : Dev} {n : Nat} {nj : Nat} (h : Keep d0 d) : Keep d0 (chargeDie n nj d) := by
  unfold chargeDie
  with_reducible repeat' (first | exact h | refine keep_charge ?_)

theorem keep_chargeXfer {d0 d : Dev} {n : Nat} {bytes : Nat} (h : Keep d0 d) : Keep d0 (chargeXfer n bytes d) := by
  unfold chargeXfer
  with_reducible repeat' (first | exact h | refine keep_chargeDie ?_)

theorem keep_setLevel {d0 d : Dev} {n : Nat} {lvl : Nat} (h : Keep d0 d) : Keep d0 (setLevel n lvl d) := by
  unfold setLevel
  repeat' (first
      | with_reducible exact h | with_reducible refine keep_ringUnit ?_ | with_reducible refine keep_updNode ?_
      | with_reducible refine keep_fault ?_ | with_reducible refine keep_cnt ?_ ?_
      | with_reducible refine keep_ite ?_ ?_
      | (show dataIdx _ _; unfold dataIdx; (first | decide | (simp only [rgIdx, chIdx, tcIdx, lgIdx, ptIdx, kpIdx]; omega) | omega)))

theorem keep_stepNode {d0 d : Dev} {n : Nat} (h : Keep d0 d) : Keep d0 (stepNode n d) := by
  unfold stepNode
  with_reducible repeat' (first | exact h | refine keep_updNode ?_ | refine keep_setLevel ?_ | refine keep_ite ?_ ?_)

theorem keep_wantTrain {d0 d : Dev} {ch : Nat} {t : Nat} (h : Keep d0 d) : Keep d0 (wantTrain ch t d) := by
  unfold wantTrain
  with_reducible repeat' (first | exact h | refine keep_updChan ?_ | refine keep_ite ?_ ?_)

theorem soundk_wantTrain {d0 d : Dev} {ch : Nat} {t : Nat} (h : Sound d0 d) : Sound d0 (wantTrain ch t d) :=
    h.trans (keep_wantTrain (Keep.refl d)).toSound

theorem keep_modelStep {d0 d : Dev} (h : Keep d0 d) : Keep d0 (modelStep d) := by
  unfold modelStep
  with_reducible repeat' (first
      | exact h | assumption | refine keep_stepNode ?_ | refine keep_wantTrain ?_ | refine keep_ite ?_ ?_
      | refine keep_foldl _ ?_ (fun _ _ _ => ?_))

theorem keep_correct {d0 d : Dev} {d0_ : Dev} {n : Nat} (h : Keep d0 d) : Keep d0 (correct d0_ n d) := by
  unfold correct
  with_reducible repeat' (first | exact h | refine keep_updNode ?_ | refine keep_ite ?_ ?_)

theorem soundk_correct {d0 d : Dev} {d0_ : Dev} {n : Nat} (h : Sound d0 d) : Sound d0 (correct d0_ n d) :=
    h.trans (keep_correct (Keep.refl d)).toSound

theorem sound_crossCheck {d0 d : Dev} {d0_ : Dev} {s : Nat} (h : Sound d0 d) : Sound d0 (crossCheck d0_ s d) := by
  unfold crossCheck
  with_reducible repeat' (first
      | exact h | refine sound_updSensor ?_ | refine soundk_ringUnit ?_ | refine sound_cnt ?_
      | refine sound_ite ?_ ?_)

end Sys2Proof.Machine
end

