-- ==== Sys2Proof/Laws/KeepBuoy.lean ====
section
/-! SUPPORT. What the functions of Machine/Buoy.lean leave alone (Laws/Keep.lean). -/

set_option linter.unusedTactic false
set_option linter.unreachableTactic false
set_option linter.unusedSimpArgs false

namespace Sys2Proof.Machine

theorem keep_updEnt {d0 d : Dev} {n : Nat} {s : Nat} {f : BEnt → BEnt} (h : Keep d0 d) : Keep d0 (updEnt n s f d) := by
  unfold updEnt
  with_reducible repeat' (first | exact h | refine keep_updDie ?_)

theorem keep_pageFaults {d0 d : Dev} {n : Nat} (h : Keep d0 d) : Keep d0 (pageFaults n d) := by
  unfold pageFaults
  with_reducible repeat' (first
      | exact h | assumption | refine keep_fault ?_ | refine keep_updEnt ?_
      | refine keep_foldl _ ?_ (fun _ _ _ => ?_))

theorem keep_markHeld {d0 d : Dev} {n : Nat} (h : Keep d0 d) : Keep d0 (markHeld n d) := by
  unfold markHeld
  repeat' (first
      | with_reducible exact h | with_reducible refine keep_updDie ?_ | with_reducible refine keep_cntN ?_ ?_
      | (show dataIdx _ _; unfold dataIdx; (first | decide | (simp only [rgIdx, chIdx, tcIdx, lgIdx, ptIdx, kpIdx]; omega) | omega)))

theorem keep_mergeReads {d0 d : Dev} {n : Nat} {s : Nat} (h : Keep d0 d) : Keep d0 (mergeReads n s d) := by
  unfold mergeReads
  repeat' (first
      | with_reducible exact h | with_reducible refine keep_updDie ?_ | with_reducible refine keep_ite ?_ ?_
      | dsimp only | split)

theorem keep_takeEnt {d0 d : Dev} {n : Nat} {e : BEnt} {aged : Bool} (h : Keep d0 d) : Keep d0 (takeEnt n e aged d)
    := by
  unfold takeEnt
  repeat' (first
      | with_reducible exact h | with_reducible refine keep_mergeReads ?_ | with_reducible refine keep_updEnt ?_
      | with_reducible refine keep_updDie ?_ | with_reducible refine keep_cnt ?_ ?_
      | with_reducible refine keep_ite ?_ ?_
      | (show dataIdx _ _; unfold dataIdx; (first | decide | (simp only [rgIdx, chIdx, tcIdx, lgIdx, ptIdx, kpIdx]; omega) | omega)))

theorem keep_takeBurst {d0 d : Dev} {ch : Nat} {cls : Nat} {k : Nat} {b : Burst} (h : Keep d0 d)
    : Keep d0 (takeBurst ch cls k b d) := by
  unfold takeBurst
  repeat' (first
      | with_reducible exact h | with_reducible refine keep_sendVia ?_ | with_reducible refine keep_updChan ?_
      | with_reducible refine keep_takeEnt ?_ | with_reducible refine keep_updDie ?_ | dsimp only | split)

theorem keep_startBurst {d0 d : Dev} {ch : Nat} {cls : Nat} {k : Nat} {b : Burst} (h : Keep d0 d)
    : Keep d0 (startBurst ch cls k b d) := by
  unfold startBurst
  with_reducible repeat' (first | exact h | refine keep_takeBurst ?_ | refine keep_seqStart ?_)

theorem keep_atBoundary {d0 d : Dev} {ch : Nat} (h : Keep d0 d) : Keep d0 (atBoundary ch d) := by
  unfold atBoundary
  with_reducible repeat' (first | exact h | refine keep_updChan ?_)

theorem keep_pushEnt {d0 d : Dev} {n : Nat} {e : BEnt} (h : Keep d0 d) : Keep d0 (pushEnt n e d) := by
  unfold pushEnt
  with_reducible repeat' (first | exact h | refine keep_updDie ?_)

theorem keep_feedTrain {d0 d : Dev} {ch : Nat} (h : Keep d0 d) : Keep d0 (feedTrain ch d) := by
  unfold feedTrain
  repeat' (first
      | with_reducible exact h | with_reducible assumption | with_reducible refine keep_updChan ?_
      | with_reducible refine keep_pushEnt ?_ | with_reducible refine keep_ite ?_ ?_
      | with_reducible refine keep_foldl _ ?_ (fun _ _ _ => ?_) | split)

theorem keep_kick {d0 d : Dev} {ch : Nat} (h : Keep d0 d) : Keep d0 (kick ch d) := by
  unfold kick
  repeat' (first
      | with_reducible exact h | with_reducible assumption | with_reducible refine keep_feedTrain ?_
      | with_reducible refine keep_pageFaults ?_ | with_reducible refine keep_markHeld ?_
      | with_reducible refine keep_updChan ?_ | with_reducible refine keep_startBurst ?_
      | with_reducible refine keep_atBoundary ?_ | with_reducible refine keep_ite ?_ ?_
      | with_reducible refine keep_foldl _ ?_ (fun _ _ _ => ?_) | dsimp only | split)

theorem soundk_kick {d0 d : Dev} {ch : Nat} (h : Sound d0 d) : Sound d0 (kick ch d) :=
    h.trans (keep_kick (Keep.refl d)).toSound

theorem keep_kickAll {d0 d : Dev} (h : Keep d0 d) : Keep d0 (kickAll d) := by
  unfold kickAll
  with_reducible repeat' (first
      | exact h | assumption | refine keep_kick ?_ | refine keep_foldl _ ?_ (fun _ _ _ => ?_))

theorem keep_enqueue {d0 d : Dev} {n : Nat} {e : BEnt} (h : Keep d0 d) : Keep d0 (enqueue n e d) := by
  unfold enqueue
  with_reducible repeat' (first | exact h | refine keep_kick ?_ | refine keep_pushEnt ?_ | refine keep_sendVia ?_)

theorem soundk_enqueue {d0 d : Dev} {n : Nat} {e : BEnt} (h : Sound d0 d) : Sound d0 (enqueue n e d) :=
    h.trans (keep_enqueue (Keep.refl d)).toSound

theorem keep_dropEnt {d0 d : Dev} {n : Nat} {s : Nat} (h : Keep d0 d) : Keep d0 (dropEnt n s d) := by
  unfold dropEnt
  with_reducible repeat' (first | exact h | refine keep_sendVia ?_ | refine keep_updDie ?_)

theorem keep_rbLow {d0 d : Dev} {n : Nat} (h : Keep d0 d) : Keep d0 (rbLow n d) := by
  unfold rbLow
  with_reducible repeat' (first
      | exact h | assumption | refine keep_updDie ?_ | refine keep_foldl _ ?_ (fun _ _ _ => ?_))

theorem sound_correctionLoop {d0 d : Dev} (h : Sound d0 d) : Sound d0 (correctionLoop d) := by
  unfold correctionLoop
  repeat' (first
      | with_reducible exact h | with_reducible assumption | with_reducible refine soundk_correct ?_
      | with_reducible refine sound_crossCheck ?_ | with_reducible refine soundk_enqueue ?_
      | with_reducible refine sound_put ?_ | with_reducible refine sound_cnt ?_
      | with_reducible refine sound_ite ?_ ?_ | with_reducible refine sound_foldl _ ?_ (fun _ _ _ => ?_) | dsimp only
      | fail_if_no_progress (with_reducible refine sound_mk ?_ ?_ <;> [skip; first | rfl | simp_all only]))

end Sys2Proof.Machine
end

