-- ==== Sys2Proof/Laws/KeepPlace.lean ====
section
/-! SUPPORT. What the functions of Machine/Place.lean leave alone (Laws/Keep.lean). -/

set_option linter.unusedTactic false
set_option linter.unreachableTactic false
set_option linter.unusedSimpArgs false

namespace Sys2Proof.Machine

theorem keep_updBand {d0 d : Dev} {id : Nat} {f : Band → Band} (h : Keep d0 d) : Keep d0 (updBand id f d) := by
  unfold updBand
  with_reducible repeat' (first | exact h | refine keep_updLan ?_ (fun _ => rfl))

theorem keep_updRow {d0 d : Dev} {id : Nat} {r : Nat} {f : Row → Row} (h : Keep d0 d) : Keep d0 (updRow id r f d) := by
  unfold updRow
  with_reducible repeat' (first | exact h | refine keep_updBand ?_)

theorem keep_updSlot {d0 d : Dev} {id : Nat} {r : Nat} {j : Nat} {f : MSlot → MSlot} (h : Keep d0 d)
    : Keep d0 (updSlot id r j f d) := by
  unfold updSlot
  with_reducible repeat' (first | exact h | refine keep_updRow ?_)

theorem keep_openRow {d0 d : Dev} {id : Nat} (h : Keep d0 d) : Keep d0 (openRow id d) := by
  unfold openRow
  repeat' (first
      | with_reducible exact h | with_reducible refine keep_sbAlloc (r9 := (_, _)) ?_ (by assumption)
      | with_reducible refine keep_updBand ?_ | with_reducible refine keep_sbStore ?_
      | with_reducible refine keep_ite ?_ ?_ | dsimp only | split)

theorem keep_openRows {d0 d : Dev} {id : Nat} (h : Keep d0 d) : Keep d0 (openRows id d) := by
  unfold openRows
  repeat' (first
      | with_reducible exact h | with_reducible assumption | with_reducible refine keep_openRow ?_
      | with_reducible refine keep_foldl _ ?_ (fun _ _ _ => ?_) | split)

theorem keep_openBand {d0 d : Dev} {key : Key} {life : Nat} {temp : Nat} {reloc : Option Nat} {r9 : Dev}
    (h : Keep d0 d) (e9 : (openBand key life temp reloc d) = some r9) : Keep d0 r9 := by
  unfold openBand at e9
  repeat' (first
      | split at e9
      | simp only [Option.map_eq_some_iff, Option.bind_eq_some_iff, Option.some.injEq, reduceCtorEq] at e9
      | (obtain ⟨_, _, e9⟩ := e9))
  all_goals (try subst e9)
  all_goals repeat' (first
      | with_reducible exact h | with_reducible assumption
      | with_reducible refine keep_freshIdE (r9 := (_, _)) ?_ (by assumption) | with_reducible refine keep_jBand ?_
      | with_reducible refine keep_putBandMem ?_ | with_reducible refine keep_jBlock ?_
      | with_reducible refine keep_updBlk ?_ | with_reducible refine keep_openRows ?_
      | with_reducible refine keep_updLan ?_ (fun _ => rfl) | with_reducible refine keep_foldl _ ?_ (fun _ _ _ => ?_))

theorem keep_feedSlot {d0 d : Dev} {id : Nat} {r : Nat} {j : Nat} (h : Keep d0 d) : Keep d0 (feedSlot id r j d) := by
  unfold feedSlot
  repeat' (first
      | with_reducible exact h | with_reducible refine keep_enqueue ?_ | with_reducible refine keep_updSlot ?_
      | with_reducible refine keep_ite ?_ ?_ | dsimp only | split)

theorem keep_feedParity {d0 d : Dev} {id : Nat} {r : Nat} (h : Keep d0 d) : Keep d0 (feedParity id r d) := by
  unfold feedParity
  repeat' (first
      | with_reducible exact h | with_reducible refine keep_updRow ?_ | with_reducible refine keep_enqueue ?_
      | with_reducible refine keep_ite ?_ ?_ | dsimp only | split)

theorem keep_closeIfDone {d0 d : Dev} {id : Nat} (h : Keep d0 d) : Keep d0 (closeIfDone id d) := by
  unfold closeIfDone
  repeat' (first
      | with_reducible exact h | with_reducible assumption | with_reducible refine keep_setBstate ?_
      | with_reducible refine keep_updBand ?_ | with_reducible refine keep_ite ?_ ?_
      | with_reducible refine keep_foldl _ ?_ (fun _ _ _ => ?_) | split)

theorem keep_retireRows {d0 d : Dev} {id : Nat} (h : Keep d0 d) : Keep d0 (retireRows id d) := by
  unfold retireRows
  repeat' (first
      | with_reducible exact h | with_reducible assumption | with_reducible refine keep_sbFree ?_
      | with_reducible refine keep_closeIfDone ?_ | with_reducible refine keep_openRows ?_
      | with_reducible refine keep_updBand ?_ | with_reducible refine keep_foldl _ ?_ (fun _ _ _ => ?_) | dsimp only
      | split)

theorem keep_feedBands {d0 d : Dev} (h : Keep d0 d) : Keep d0 (feedBands d) := by
  unfold feedBands
  with_reducible repeat' (first
      | exact h | assumption | refine keep_feedParity ?_ | refine keep_feedSlot ?_ | refine keep_retireRows ?_
      | refine keep_foldl _ ?_ (fun _ _ _ => ?_))

theorem soundk_feedBands {d0 d : Dev} (h : Sound d0 d) : Sound d0 (feedBands d) :=
    h.trans (keep_feedBands (Keep.refl d)).toSound

theorem keep_padSlot {d0 d : Dev} {id : Nat} {r : Nat} {j : Nat} (h : Keep d0 d) : Keep d0 (padSlot id r j d) := by
  unfold padSlot
  with_reducible repeat' (first
      | exact h | refine keep_updLan ?_ (fun _ => rfl) | refine keep_feedSlot ?_ | refine keep_updSlot ?_
      | refine keep_ite ?_ ?_)

theorem keep_padRow {d0 d : Dev} {id : Nat} {r : Nat} (h : Keep d0 d) : Keep d0 (padRow id r d) := by
  unfold padRow
  repeat' (first
      | with_reducible exact h | with_reducible assumption | with_reducible refine keep_padSlot ?_
      | with_reducible refine keep_cnt ?_ ?_ | with_reducible refine keep_ite ?_ ?_
      | with_reducible refine keep_foldl _ ?_ (fun _ _ _ => ?_)
      | (show dataIdx _ _; unfold dataIdx; (first | decide | (simp only [rgIdx, chIdx, tcIdx, lgIdx, ptIdx, kpIdx]; omega) | omega))
      | split)

theorem keep_closeRow {d0 d : Dev} {id : Nat} {r : Nat} (h : Keep d0 d) : Keep d0 (closeRow id r d) := by
  unfold closeRow
  repeat' (first
      | with_reducible exact h | with_reducible assumption | with_reducible refine keep_padSlot ?_
      | with_reducible refine keep_cntN ?_ ?_ | with_reducible refine keep_foldl _ ?_ (fun _ _ _ => ?_)
      | (show dataIdx _ _; unfold dataIdx; (first | decide | (simp only [rgIdx, chIdx, tcIdx, lgIdx, ptIdx, kpIdx]; omega) | omega))
      | dsimp only | split)

theorem keep_closeBand {d0 d : Dev} {id : Nat} (h : Keep d0 d) : Keep d0 (closeBand id d) := by
  unfold closeBand
  repeat' (first
      | with_reducible exact h | with_reducible assumption | with_reducible refine keep_closeIfDone ?_
      | with_reducible refine keep_closeRow ?_ | with_reducible refine keep_updBand ?_
      | with_reducible refine keep_ite ?_ ?_ | with_reducible refine keep_foldl _ ?_ (fun _ _ _ => ?_) | split)

theorem keep_updWjob {d0 d : Dev} {id : Nat} {f : WJob → WJob} (h : Keep d0 d) : Keep d0 (updWjob id f d) := by
  unfold updWjob
  with_reducible repeat' (first | exact h | refine keep_updLan ?_ (fun _ => rfl))

theorem keep_reserveJob {d0 d : Dev} {seg : Nat} {w : WJob} {r9 : Dev} (h : Keep d0 d) (e9 : (reserveJob seg w d)
    = some r9) : Keep d0 r9 := by
  unfold reserveJob at e9
  repeat' (first
      | split at e9
      | simp only [Option.map_eq_some_iff, Option.bind_eq_some_iff, Option.some.injEq, reduceCtorEq] at e9
      | (obtain ⟨_, _, e9⟩ := e9))
  all_goals (try subst e9)
  all_goals repeat' (first
      | with_reducible exact h | with_reducible assumption | with_reducible refine keep_sbAllocs ?_ (by assumption)
      | with_reducible refine keep_sbStore ?_ | with_reducible refine keep_updWjob ?_
      | with_reducible refine keep_foldl _ ?_ (fun _ _ _ => ?_))

theorem keep_takePlace {d0 d : Dev} {w : WJob} {b : Band} {c : Cand} (h : Keep d0 d) : Keep d0 (takePlace w b c d) := by
  unfold takePlace
  with_reducible repeat' (first
      | exact h | assumption | refine keep_updLan ?_ (fun _ => rfl) | refine keep_updWjob ?_ | refine keep_updBand ?_
      | refine keep_feedSlot ?_ | refine keep_updSlot ?_ | refine keep_foldl _ ?_ (fun _ _ _ => ?_))

/-- The block as a try to place leaves it. -/
def placedDev : Placed → Dev
  | .done d => d
  | .wait d => d
  | .noBand d => d

theorem keep_tryPlace {d0 d : Dev} {w : WJob} (h : Keep d0 d) : Keep d0 (placedDev (tryPlace w d)) := by
  have hgo : ∀ (c : Cand) (x : Dev), Keep d0 x → Keep d0 (placedDev (match band x c.id with
      | none => Placed.wait x
      | some b => match reserveJob (segCh x.cfg (dieCh (member b (dataPos x b c.j)).1)) w x with
        | none => .wait x
        | some y => .done (takePlace w b c y))) := by
    intro c x hx
    split
    · exact hx
    · split
      · exact hx
      · next y hy => exact keep_takePlace (keep_reserveJob hx hy)
  unfold tryPlace
  dsimp only
  split
  · exact hgo _ _ h
  · split
    · exact h
    · split
      · split
        · split
          · exact h
          · exact keep_cnt (keep_closeBand h) (by unfold dataIdx; decide)
        · exact h
      · split
        · split <;> exact h
        · next d1 hd1 =>
          have h1 := keep_openBand h hd1
          split
          · exact hgo _ _ h1
          · exact h1

theorem keep_tryPlace_done {d0 d d1 : Dev} {w : WJob} (h : Keep d0 d) (e : tryPlace w d = .done d1) : Keep d0 d1 := by
  have := keep_tryPlace (w := w) h
  rw [e] at this
  exact this

theorem keep_tryPlace_wait {d0 d d1 : Dev} {w : WJob} (h : Keep d0 d) (e : tryPlace w d = .wait d1) : Keep d0 d1 := by
  have := keep_tryPlace (w := w) h
  rw [e] at this
  exact this

theorem keep_tryPlace_noBand {d0 d d1 : Dev} {w : WJob} (h : Keep d0 d) (e : tryPlace w d = .noBand d1)
    : Keep d0 d1 := by
  have := keep_tryPlace (w := w) h
  rw [e] at this
  exact this

end Sys2Proof.Machine
end

