-- ==== Sys2Proof/Laws/KeepCmd.lean ====
section
/-! SUPPORT. What the functions of Machine/Cmd.lean leave alone (Laws/Keep.lean). -/

set_option linter.unusedTactic false
set_option linter.unreachableTactic false
set_option linter.unusedSimpArgs false

namespace Sys2Proof.Machine

theorem keep_updCmd {d0 d : Dev} {tag : Nat} {f : Cmd → Cmd} (h : Keep d0 d) : Keep d0 (updCmd tag f d) := by
  unfold updCmd
  repeat' (first
      | with_reducible exact h
      | fail_if_no_progress (with_reducible refine keep_mk ?_ ?_ <;> [skip; first | rfl | simp_all only]))

theorem keep_cmdFail {d0 d : Dev} {tag : Nat} {status : Nat} (h : Keep d0 d) : Keep d0 (cmdFail tag status d) := by
  unfold cmdFail
  with_reducible repeat' (first | exact h | refine keep_updCmd ?_)

theorem keep_cmdBad {d0 d : Dev} {tag : Nat} {sec : Nat} {status : Nat} (h : Keep d0 d)
    : Keep d0 (cmdBad tag sec status d) := by
  unfold cmdBad
  with_reducible repeat' (first | exact h | refine keep_cmdFail ?_ | refine keep_updCmd ?_)

theorem keep_meet {d0 d : Dev} {tag : Nat} (h : Keep d0 d) : Keep d0 (meet tag d) := by
  unfold meet
  repeat' (first
      | with_reducible exact h | with_reducible refine keep_send ?_ | with_reducible refine keep_updCmd ?_
      | dsimp only | split
      | fail_if_no_progress (with_reducible refine keep_mk ?_ ?_ <;> [skip; first | rfl | simp_all only]))

theorem keep_waitDurable {d0 d : Dev} {tag : Nat} {need : Nat} (h : Keep d0 d) : Keep d0 (waitDurable tag need d) := by
  unfold waitDurable
  with_reducible repeat' (first
      | exact h | refine keep_meet ?_ | refine keep_updClasp ?_ | refine keep_updCmd ?_ | refine keep_ite ?_ ?_)

theorem keep_updGroup {d0 d : Dev} {id : Nat} {f : Group → Group} (h : Keep d0 d) : Keep d0 (updGroup id f d) := by
  unfold updGroup
  repeat' (first
      | with_reducible exact h
      | fail_if_no_progress (with_reducible refine keep_mk ?_ ?_ <;> [skip; first | rfl | simp_all only]))

theorem keep_restore {d0 d : Dev} {c : GChange} (h : Keep d0 d) : Keep d0 (restore c d) := by
  unfold restore
  repeat' (first
      | with_reducible exact h | with_reducible refine keep_moveUnits ?_ | with_reducible refine keep_jMap ?_
      | with_reducible refine keep_dirtyEntry ?_ | with_reducible refine keep_putMap ?_
      | with_reducible refine keep_ite ?_ ?_ | dsimp only | split
      | fail_if_no_progress (with_reducible refine keep_mk ?_ ?_ <;> [skip; first | rfl | simp_all only]))

theorem keep_restoreAll {d0 : Dev} {z0 : Nat} {z1 : Nat} : ∀ {d : Dev}, Keep d0 d → Keep d0 (restoreAll z0 z1 d) := by
  induction z1 with
  | zero => intro _ h; exact h
  | succ n ih =>
    intro d h
    unfold restoreAll
    repeat' (first
        | with_reducible refine ih ?_ | with_reducible exact h | with_reducible refine keep_pruneVers ?_
        | with_reducible refine keep_restore ?_ | with_reducible refine keep_updGroup ?_ | split)

theorem keep_abortGroup {d0 d : Dev} {id : Nat} {status : Nat} (h : Keep d0 d) : Keep d0 (abortGroup id status d) := by
  unfold abortGroup
  repeat' (first
      | with_reducible exact h | with_reducible assumption | with_reducible refine keep_updGroup ?_
      | with_reducible refine keep_restoreAll ?_ | with_reducible refine keep_cmdFail ?_
      | with_reducible refine keep_ite ?_ ?_ | with_reducible refine keep_foldl _ ?_ (fun _ _ _ => ?_) | dsimp only
      | split)

theorem keep_groupCheck {d0 d : Dev} {id : Nat} (h : Keep d0 d) : Keep d0 (groupCheck id d) := by
  unfold groupCheck
  repeat' (first
      | with_reducible exact h | with_reducible refine keep_meet ?_ | with_reducible refine keep_updCmd ?_
      | with_reducible refine keep_updClasp ?_ | with_reducible refine keep_ite ?_ ?_ | split)

theorem keep_memberDone {d0 d : Dev} {c : Cmd} (h : Keep d0 d) : Keep d0 (memberDone c d) := by
  unfold memberDone
  repeat' (first
      | with_reducible exact h | with_reducible refine keep_groupCheck ?_ | with_reducible refine keep_updGroup ?_
      | with_reducible refine keep_ite ?_ ?_ | split)

theorem keep_flushCheck {d0 d : Dev} {tag : Nat} (h : Keep d0 d) : Keep d0 (flushCheck tag d) := by
  unfold flushCheck
  repeat' (first
      | with_reducible exact h | with_reducible refine keep_waitDurable ?_ | with_reducible refine keep_ite ?_ ?_
      | split)

theorem keep_flushAll {d0 d : Dev} (h : Keep d0 d) : Keep d0 (flushAll d) := by
  unfold flushAll
  with_reducible repeat' (first
      | exact h | assumption | refine keep_flushCheck ?_ | refine keep_ite ?_ ?_
      | refine keep_foldl _ ?_ (fun _ _ _ => ?_))

theorem keep_cmdCheck {d0 d : Dev} {tag : Nat} (h : Keep d0 d) : Keep d0 (cmdCheck tag d) := by
  unfold cmdCheck
  repeat' (first
      | with_reducible exact h | with_reducible refine keep_flushCheck ?_ | with_reducible refine keep_groupCheck ?_
      | with_reducible refine keep_meet ?_ | with_reducible refine keep_waitDurable ?_
      | with_reducible refine keep_flushAll ?_ | with_reducible refine keep_memberDone ?_
      | with_reducible refine keep_ite ?_ ?_ | dsimp only | split)

theorem keep_workDone {d0 d : Dev} {tag : Nat} (h : Keep d0 d) : Keep d0 (workDone tag d) := by
  unfold workDone
  with_reducible repeat' (first | exact h | refine keep_cmdCheck ?_ | refine keep_updCmd ?_)

theorem keep_changeMap {d0 d : Dev} {g : Gran} {no : Nat} {e : Nat} {wseq : Nat} {grp : Option Nat} (h : Keep d0 d)
    : Keep d0 (changeMap g no e wseq grp d) := by
  unfold changeMap
  repeat' (first
      | with_reducible exact h | with_reducible refine keep_updGroup ?_ | with_reducible refine keep_jMap ?_
      | with_reducible refine keep_dirtyEntry ?_ | with_reducible refine keep_changeEntry ?_
      | with_reducible refine keep_ite ?_ ?_ | dsimp only | split)

theorem keep_mapWrite {d0 d : Dev} {w : WJob} {g : Gran} (h : Keep d0 d) : Keep d0 (mapWrite w g d) := by
  unfold mapWrite
  with_reducible repeat' (first | exact h | refine keep_changeMap ?_)

theorem keep_failGran {d0 d : Dev} {tag : Nat} {secs : List Nat} (h : Keep d0 d) : Keep d0 (failGran tag secs d) := by
  unfold failGran
  with_reducible repeat' (first
      | exact h | assumption | refine keep_cmdBad ?_ | refine keep_foldl _ ?_ (fun _ _ _ => ?_))

theorem keep_dropJob {d0 d : Dev} {w : WJob} (h : Keep d0 d) : Keep d0 (dropJob w d) := by
  unfold dropJob
  repeat' (first
      | with_reducible exact h | with_reducible refine keep_updLan ?_ (fun _ => rfl)
      | with_reducible refine keep_sbFree ?_ | dsimp only | split)

theorem keep_finishJob {d0 d : Dev} {w : WJob} (h : Keep d0 d) : Keep d0 (finishJob w d) := by
  unfold finishJob
  repeat' (first
      | with_reducible exact h | with_reducible refine keep_updLan ?_ (fun _ => rfl)
      | with_reducible refine keep_dropJob ?_ | with_reducible refine keep_failGran ?_
      | with_reducible refine keep_mapWrite ?_ | with_reducible refine keep_workDone ?_
      | with_reducible refine keep_updCmd ?_ | with_reducible refine keep_cntN ?_ ?_
      | with_reducible refine keep_ite ?_ ?_
      | (show dataIdx _ _; unfold dataIdx; (first | decide | (simp only [rgIdx, chIdx, tcIdx, lgIdx, ptIdx, kpIdx]; omega) | omega))
      | dsimp only | split)

theorem keep_finishJobs {d0 d : Dev} (h : Keep d0 d) : Keep d0 (finishJobs d) := by
  unfold finishJobs
  with_reducible repeat' (first
      | exact h | assumption | refine keep_finishJob ?_ | refine keep_ite ?_ ?_
      | refine keep_foldl _ ?_ (fun _ _ _ => ?_))

theorem keep_killJob {d0 d : Dev} {w : WJob} (h : Keep d0 d) : Keep d0 (killJob w d) := by
  unfold killJob
  repeat' (first
      | with_reducible exact h | with_reducible refine keep_dropJob ?_ | with_reducible refine keep_workDone ?_
      | with_reducible refine keep_updWjob ?_ | with_reducible refine keep_ite ?_ ?_ | dsimp only | split)

theorem keep_slotPassed {d0 d : Dev} {b : Nat} {r : Nat} {j : Nat} (h : Keep d0 d) : Keep d0 (slotPassed b r j d) := by
  unfold slotPassed
  with_reducible repeat' (first
      | exact h | assumption | refine keep_updSlot ?_ | refine keep_updWjob ?_
      | refine keep_foldl _ ?_ (fun _ _ _ => ?_))

end Sys2Proof.Machine
end

