-- ==== Sys2Proof/Laws/KeepLevel.lean ====
section
/-! SUPPORT. What the functions of Machine/Level.lean leave alone (Laws/Keep.lean). -/

set_option linter.unusedTactic false
set_option linter.unreachableTactic false
set_option linter.unusedSimpArgs false

namespace Sys2Proof.Machine

theorem keep_useSlot {d0 d : Dev} {ch : Nat} {s : Nat} (h : Keep d0 d) : Keep d0 (useSlot ch s d) := by
  unfold useSlot
  with_reducible repeat' (first | exact h | refine keep_updChan ?_)

theorem keep_takeLevel {d0 d : Dev} {ch : Nat} {lv : List Int} {r9 : (Nat × Dev)} (h : Keep d0 d)
    (e9 : (takeLevel ch lv d) = some r9) : Keep d0 r9.2 := by
  unfold takeLevel at e9
  repeat' (first
      | split at e9
      | simp only [Option.map_eq_some_iff, Option.bind_eq_some_iff, Option.some.injEq, reduceCtorEq] at e9
      | (obtain ⟨_, _, e9⟩ := e9))
  all_goals (try subst e9)
  all_goals repeat' (first
      | with_reducible exact h | with_reducible assumption | with_reducible refine keep_useSlot ?_
      | with_reducible refine keep_updChan ?_ | with_reducible refine keep_updDie ?_
      | with_reducible refine keep_foldl _ ?_ (fun _ _ _ => ?_))

theorem keep_teach {d0 d : Dev} {u : LmUpd} (h : Keep d0 d) : Keep d0 (teach u d) := by
  unfold teach
  repeat' (first
      | with_reducible exact h | with_reducible refine keep_updLan ?_ (fun _ => rfl)
      | with_reducible refine keep_cnt ?_ ?_ | with_reducible refine keep_ite ?_ ?_
      | (show dataIdx _ _; unfold dataIdx; (first | decide | (simp only [rgIdx, chIdx, tcIdx, lgIdx, ptIdx, kpIdx]; omega) | omega)))

theorem keep_lmUpdate {d0 d : Dev} (h : Keep d0 d) : Keep d0 (lmUpdate d) := by
  unfold lmUpdate
  repeat' (first
      | with_reducible exact h | with_reducible refine keep_updLan ?_ (fun _ => rfl)
      | with_reducible refine keep_cnt ?_ ?_ | with_reducible refine keep_putB ?_
      | with_reducible refine keep_ite ?_ ?_
      | (show dataIdx _ _; unfold dataIdx; (first | decide | (simp only [rgIdx, chIdx, tcIdx, lgIdx, ptIdx, kpIdx]; omega) | omega))
      | dsimp only | split)

end Sys2Proof.Machine
end

