-- ==== Sys2Proof/Laws/KeepWork.lean ====
section
/-! SUPPORT. What the functions of Machine/Work.lean leave alone (Laws/Keep.lean). -/

set_option linter.unusedTactic false
set_option linter.unreachableTactic false
set_option linter.unusedSimpArgs false

namespace Sys2Proof.Machine

theorem keep_updRjob {d0 d : Dev} {id : Nat} {f : RJob → RJob} (h : Keep d0 d) : Keep d0 (updRjob id f d) := by
  unfold updRjob
  with_reducible repeat' (first | exact h | refine keep_updLan ?_ (fun _ => rfl))

theorem keep_dropRjob {d0 d : Dev} {id : Nat} (h : Keep d0 d) : Keep d0 (dropRjob id d) := by
  unfold dropRjob
  with_reducible repeat' (first | exact h | refine keep_updLan ?_ (fun _ => rfl))

theorem keep_addRead {d0 d : Dev} {own : ROwn} {no : Nat} {cls : Nat} {gran : Nat} {addr : Nat} {glog : Nat}
    {parity : Bool} {secs : List RSec} (h : Keep d0 d)
    : Keep d0 (addRead own no cls gran addr glog parity secs d).2 := by
  unfold addRead
  with_reducible repeat' (first | exact h | refine keep_freshId ?_ | refine keep_updLan ?_ (fun _ => rfl))

theorem keep_addReadE {d0 d : Dev} {own : ROwn} {no : Nat} {cls : Nat} {gran : Nat} {addr : Nat} {glog : Nat}
    {parity : Bool} {secs : List RSec} {r9 : Nat × Dev} (h : Keep d0 d)
    (e9 : (addRead own no cls gran addr glog parity secs d) = r9) : Keep d0 r9.2 := e9 ▸ keep_addRead h

theorem keep_readGranules {d0 d : Dev} {tag : Nat} {c : Cmd} (h : Keep d0 d) : Keep d0 (readGranules tag c d) := by
  unfold readGranules
  with_reducible repeat' (first
      | exact h | assumption | refine keep_addRead ?_ | refine keep_updCmd ?_
      | refine keep_foldl _ ?_ (fun _ _ _ => ?_))

theorem keep_nextGran {d0 d : Dev} {tag : Nat} (h : Keep d0 d) : Keep d0 (nextGran tag d) := by
  unfold nextGran
  repeat' (first
      | with_reducible exact h | with_reducible refine keep_cmdCheck ?_ | with_reducible refine keep_updCmd ?_
      | with_reducible refine keep_addRead ?_ | with_reducible refine keep_ite ?_ ?_ | dsimp only | split)

theorem keep_scanGran {d0 d : Dev} {tag : Nat} {c : Cmd} {xs : List (Nat × Nat × Bytes)} (h : Keep d0 d)
    : Keep d0 (scanGran tag c xs d) := by
  unfold scanGran
  with_reducible repeat' (first | exact h | refine keep_updCmd ?_ | refine keep_cmdFail ?_ | refine keep_ite ?_ ?_)

theorem keep_digest {d0 d : Dev} {c : Cmd} {bad : Bool} {ext : Bytes} (h : Keep d0 d)
    : Keep d0 (digest c bad ext d).2 := by
  unfold digest
  repeat' (first
      | with_reducible exact h | dsimp only | split
      | fail_if_no_progress (with_reducible refine keep_mk ?_ ?_ <;> [skip; first | rfl | simp_all only]))

theorem keep_digestE {d0 d : Dev} {c : Cmd} {bad : Bool} {ext : Bytes} {r9 : Bytes × Dev} (h : Keep d0 d)
    (e9 : (digest c bad ext d) = r9) : Keep d0 r9.2 := e9 ▸ keep_digest h

theorem keep_hashSector {d0 d : Dev} {tag : Nat} {sec : Nat} {data : Bytes} (h : Keep d0 d)
    : Keep d0 (hashSector tag sec data d) := by
  unfold hashSector
  repeat' (first
      | with_reducible exact h | with_reducible refine keep_digest ?_ | with_reducible refine keep_updCmd ?_
      | with_reducible refine keep_ite ?_ ?_ | dsimp only | split)

theorem keep_consume {d0 d : Dev} {tag : Nat} {xs : List (Nat × Nat × Option Bytes)} (h : Keep d0 d)
    : Keep d0 (consume tag xs d) := by
  unfold consume
  repeat' (first
      | with_reducible exact h | with_reducible assumption | with_reducible refine keep_nextGran ?_
      | with_reducible refine keep_scanGran ?_ | with_reducible refine keep_hashSector ?_
      | with_reducible refine keep_ite ?_ ?_ | with_reducible refine keep_foldl _ ?_ (fun _ _ _ => ?_) | split)

theorem keep_destageView {d0 d : Dev} {tag : Nat} {c : Cmd} (h : Keep d0 d) : Keep d0 (destageView tag c d) := by
  unfold destageView
  with_reducible repeat' (first | exact h | refine keep_updCmd ?_)

theorem keep_putRaw {d0 d : Dev} {bs : Bytes} (h : Keep d0 d) : Keep d0 (putRaw bs d) := by
  unfold putRaw
  repeat' (first
      | with_reducible exact h | with_reducible refine keep_putB ?_ | with_reducible refine keep_ite ?_ ?_
      | dsimp only
      | fail_if_no_progress (with_reducible refine keep_mk ?_ ?_ <;> [skip; first | rfl | simp_all only]))

theorem keep_rawWild {d0 d : Dev} (h : Keep d0 d) : Keep d0 (rawWild d).1 := by
  unfold rawWild
  repeat' (first
      | with_reducible exact h | with_reducible refine keep_freeVal ?_ | with_reducible refine keep_freeBytes ?_
      | dsimp only
      | fail_if_no_progress (with_reducible refine keep_mk ?_ ?_ <;> [skip; first | rfl | simp_all only]))

theorem keep_rawDone {d0 d : Dev} {status : Nat} {cause : Nat} (h : Keep d0 d) : Keep d0 (rawDone status cause d) := by
  unfold rawDone
  repeat' (first
      | with_reducible exact h | with_reducible refine keep_putRaw ?_ | with_reducible refine keep_updCmd ?_
      | with_reducible refine keep_cmdFail ?_ | with_reducible refine keep_workDone ?_
      | with_reducible refine keep_put ?_ ?_ | with_reducible refine keep_cnt ?_ ?_
      | with_reducible refine keep_ite ?_ ?_
      | (show dataIdx _ _; unfold dataIdx; (first | decide | (simp only [rgIdx, chIdx, tcIdx, lgIdx, ptIdx, kpIdx]; omega) | omega))
      | dsimp only | split
      | fail_if_no_progress (with_reducible refine keep_mk ?_ ?_ <;> [skip; first | rfl | simp_all only]))

theorem keep_rawEnd {d0 d : Dev} {status : Nat} {cause : Nat} (h : Keep d0 d) : Keep d0 (rawEnd status cause d) := by
  unfold rawEnd
  with_reducible repeat' (first | exact h | refine keep_rawWild ?_ | refine keep_rawDone ?_ | refine keep_ite ?_ ?_)

theorem keep_engineSecs {d0 d : Dev} {tag : Nat} {c : Cmd} {secs : List RSec} (h : Keep d0 d)
    : Keep d0 (engineSecs tag c secs d).2 := by
  unfold engineSecs
  repeat' (first
      | with_reducible exact h | with_reducible assumption | with_reducible refine keep_sbFetch ?_
      | with_reducible refine keep_cmdBad ?_ | with_reducible refine keep_ite ?_ ?_
      | with_reducible refine keep_foldl_snd _ ?_ (fun _ _ _ => ?_) | dsimp only | split)

theorem keep_engineSecsE {d0 d : Dev} {tag : Nat} {c : Cmd} {secs : List RSec} {r9 : List (Nat × Nat × Option Bytes)
    × Dev} (h : Keep d0 d) (e9 : (engineSecs tag c secs d) = r9) : Keep d0 r9.2 := e9 ▸ keep_engineSecs h

theorem keep_granEnd {d0 d : Dev} {r : RJob} (h : Keep d0 d) : Keep d0 (granEnd r d) := by
  unfold granEnd
  repeat' (first
      | with_reducible exact h | with_reducible refine keep_sbFree ?_ | with_reducible refine keep_dropRjob ?_
      | with_reducible refine keep_workDone ?_ | with_reducible refine keep_updCmd ?_
      | with_reducible refine keep_engineSecs ?_ | with_reducible refine keep_consume ?_
      | with_reducible refine keep_updWjob ?_ | with_reducible refine keep_ite ?_ ?_ | dsimp only | split)

theorem keep_wjobSec {d0 d : Dev} {id : Nat} {x : RSec} {bad : Nat} (h : Keep d0 d) : Keep d0 (wjobSec id x bad d) := by
  unfold wjobSec
  repeat' (first
      | with_reducible exact h | with_reducible refine keep_freeBytes ?_ | with_reducible refine keep_sbStore ?_
      | with_reducible refine keep_updWjob ?_ | with_reducible refine keep_cmdBad ?_
      | with_reducible refine keep_addRead ?_ | with_reducible refine keep_ite ?_ ?_ | dsimp only | split)

theorem keep_granSec {d0 d : Dev} {pid : Nat} {lsec : Nat} {bad : Nat} (h : Keep d0 d)
    : Keep d0 (granSec pid lsec bad d) := by
  unfold granSec
  repeat' (first
      | with_reducible exact h | with_reducible refine keep_updRjob ?_ | with_reducible refine keep_cmdBad ?_
      | with_reducible refine keep_wjobSec ?_ | with_reducible refine keep_granEnd ?_
      | with_reducible refine keep_ite ?_ ?_ | dsimp only | split)

theorem keep_demandCh {d0 d : Dev} {ch : Nat} (h : Keep d0 d) : Keep d0 (demandCh ch d) := by
  unfold demandCh
  with_reducible repeat' (first
      | exact h | assumption | refine keep_assertWake ?_ | refine keep_foldl _ ?_ (fun _ _ _ => ?_))

end Sys2Proof.Machine
end

