-- ==== Sys2Proof/Laws/KeepLadder.lean ====
section
/-! SUPPORT. What the functions of Machine/Ladder.lean leave alone (Laws/Keep.lean). -/

set_option linter.unusedTactic false
set_option linter.unreachableTactic false
set_option linter.unusedSimpArgs false

namespace Sys2Proof.Machine

theorem keep_updTags {d0 d : Dev} {r : RJob} {f : Cmd → Cmd} (h : Keep d0 d) : Keep d0 (updTags r f d) := by
  unfold updTags
  with_reducible repeat' (first
      | exact h | assumption | refine keep_updCmd ?_ | refine keep_foldl _ ?_ (fun _ _ _ => ?_))

theorem keep_askSuspend {d0 d : Dev} {n : Nat} {pol : Nat} (h : Keep d0 d) : Keep d0 (askSuspend n pol d) := by
  unfold askSuspend
  repeat' (first
      | with_reducible exact h | with_reducible refine keep_updDie ?_ | with_reducible refine keep_cnt ?_ ?_
      | with_reducible refine keep_ite ?_ ?_
      | (show dataIdx _ _; unfold dataIdx; (first | decide | (simp only [rgIdx, chIdx, tcIdx, lgIdx, ptIdx, kpIdx]; omega) | omega)))

theorem keep_slotWait {d0 d : Dev} {r : RJob} (h : Keep d0 d) : Keep d0 (slotWait r d) := by
  unfold slotWait
  repeat' (first
      | with_reducible exact h | with_reducible refine keep_updRjob ?_ | with_reducible refine keep_cnt ?_ ?_
      | with_reducible refine keep_ite ?_ ?_
      | (show dataIdx _ _; unfold dataIdx; (first | decide | (simp only [rgIdx, chIdx, tcIdx, lgIdx, ptIdx, kpIdx]; omega) | omega)))

theorem keep_issueRead {d0 d : Dev} {id : Nat} (h : Keep d0 d) : Keep d0 (issueRead id d) := by
  unfold issueRead
  repeat' (first
      | with_reducible exact h | with_reducible refine keep_takeLevel (r9 := (_, _)) ?_ (by assumption)
      | with_reducible refine keep_slotWait ?_ | with_reducible refine keep_updRjob ?_
      | with_reducible refine keep_updTags ?_ | with_reducible refine keep_enqueue ?_
      | with_reducible refine keep_cnt ?_ ?_ | with_reducible refine keep_ite ?_ ?_
      | (show dataIdx _ _; unfold dataIdx; (first | decide | (simp only [rgIdx, chIdx, tcIdx, lgIdx, ptIdx, kpIdx]; omega) | omega))
      | dsimp only | split)

theorem keep_issueUnit {d0 d : Dev} {id : Nat} (h : Keep d0 d) : Keep d0 (issueUnit id d) := by
  unfold issueUnit
  repeat' (first
      | with_reducible exact h | with_reducible refine keep_demandCh ?_ | with_reducible refine keep_updTags ?_
      | with_reducible refine keep_updRjob ?_ | with_reducible refine keep_issueRead ?_
      | with_reducible refine keep_askSuspend ?_ | with_reducible refine keep_cnt ?_ ?_
      | with_reducible refine keep_ite ?_ ?_
      | (show dataIdx _ _; unfold dataIdx; (first | decide | (simp only [rgIdx, chIdx, tcIdx, lgIdx, ptIdx, kpIdx]; omega) | omega))
      | dsimp only | split)

theorem keep_updRebuild {d0 d : Dev} {id : Nat} {f : Rebuild → Rebuild} (h : Keep d0 d) : Keep d0 (updRebuild id f d)
    := by
  unfold updRebuild
  with_reducible repeat' (first | exact h | refine keep_updLan ?_ (fun _ => rfl))

theorem keep_dropRebuild {d0 d : Dev} {id : Nat} (h : Keep d0 d) : Keep d0 (dropRebuild id d) := by
  unfold dropRebuild
  with_reducible repeat' (first
      | exact h | assumption | refine keep_sbFree ?_ | refine keep_updLan ?_ (fun _ => rfl)
      | refine keep_foldl _ ?_ (fun _ _ _ => ?_))

theorem keep_rebuildSpace {d0 : Dev} {seg rb n : Nat} {l : List Nat} : ∀ {d r : Dev}, Keep d0 d →
    rebuildSpace seg rb n l d = some r → Keep d0 r := by
  induction l with
  | nil =>
    intro d r h e
    simp only [rebuildSpace, Option.some.injEq] at e
    exact e ▸ h
  | cons s t ih =>
    intro d r h e
    unfold rebuildSpace at e
    split at e
    · cases e
    · next a d1 heq => exact ih (d := d1) (keep_sbAllocs h heq) e

theorem keep_startRebuild {d0 d : Dev} {id : Nat} {ladder : Bool} {around : Bool} (h : Keep d0 d)
    : Keep d0 (startRebuild id ladder around d) := by
  unfold startRebuild
  repeat' (first
      | with_reducible exact h | with_reducible assumption | with_reducible refine keep_freshId ?_
      | with_reducible refine keep_rebuildSpace ?_ (by assumption) | with_reducible refine keep_updTags ?_
      | with_reducible refine keep_updRjob ?_ | with_reducible refine keep_updLan ?_ (fun _ => rfl)
      | with_reducible refine keep_addRead ?_ | with_reducible refine keep_issueUnit ?_
      | with_reducible refine keep_cnt ?_ ?_ | with_reducible refine keep_ite ?_ ?_
      | with_reducible refine keep_foldl _ ?_ (fun _ _ _ => ?_)
      | (show dataIdx _ _; unfold dataIdx; (first | decide | (simp only [rgIdx, chIdx, tcIdx, lgIdx, ptIdx, kpIdx]; omega) | omega))
      | dsimp only | split)

theorem keep_endStep {d0 d : Dev} {r : RJob} {s : Nat} (h : Keep d0 d) : Keep d0 (endStep r s d) := by
  unfold endStep
  repeat' (first
      | with_reducible exact h | with_reducible refine keep_updTags ?_
      | with_reducible refine keep_updLan ?_ (fun _ => rfl) | with_reducible refine keep_cnt ?_ ?_
      | with_reducible refine keep_ite ?_ ?_
      | (show dataIdx _ _; unfold dataIdx; (first | decide | (simp only [rgIdx, chIdx, tcIdx, lgIdx, ptIdx, kpIdx]; omega) | omega))
      | dsimp only | split)

theorem keep_ueccRec {d0 d : Dev} {r : RJob} {slot : Nat} {cause : Nat} (h : Keep d0 d)
    : Keep d0 (ueccRec r slot cause d) := by
  unfold ueccRec
  with_reducible repeat' (first | exact h | refine keep_updLan ?_ (fun _ => rfl) | refine keep_ite ?_ ?_)

theorem keep_step6 {d0 d : Dev} {r : RJob} {slot : Nat} {cause : Nat} (h : Keep d0 d)
    : Keep d0 (step6 r slot cause d) := by
  unfold step6
  with_reducible repeat' (first | exact h | refine keep_endStep ?_ | refine keep_ueccRec ?_)

theorem keep_rawSec {d0 d : Dev} {r : RJob} {slot : Nat} {res : LeafRes} (h : Keep d0 d)
    : Keep d0 (rawSec r slot res d) := by
  unfold rawSec
  repeat' (first
      | with_reducible exact h | with_reducible refine keep_rawEnd ?_ | with_reducible refine keep_dropRjob ?_
      | with_reducible refine keep_ite ?_ ?_ | dsimp only | split
      | fail_if_no_progress (with_reducible refine keep_mk ?_ ?_ <;> [skip; first | rfl | simp_all only]))

theorem keep_partSec {d0 d : Dev} {p : Nat} {x : RSec} {res : LeafRes} (h : Keep d0 d) : Keep d0 (partSec p x res d)
    := by
  unfold partSec
  repeat' (first
      | with_reducible exact h | with_reducible refine keep_granSec ?_ | with_reducible refine keep_sbStore ?_
      | with_reducible refine keep_updWjob ?_ | with_reducible refine keep_ite ?_ ?_ | dsimp only | split)

theorem keep_accSec {d0 d : Dev} {b : Nat} {r : Nat} {plane : Nat} {slot : Nat} {res : LeafRes} (h : Keep d0 d)
    : Keep d0 (accSec b r plane slot res d) := by
  unfold accSec
  repeat' (first | with_reducible exact h | with_reducible refine keep_sbStore ?_ | split)

theorem keep_leafEnd {d0 : Dev} {z0 : Nat} : ∀ {z1 : Nat} {z2 : Nat} {z3 : LeafRes}
    {d : Dev}, Keep d0 d → Keep d0 (leafEnd z0 z1 z2 z3 d) := by
  induction z0 with
  | zero => intro _ _ _ _ h; exact h
  | succ n ih =>
    intro _ _ _ d h
    unfold leafEnd
    repeat' (first
        | with_reducible refine ih ?_ | with_reducible exact h | with_reducible assumption
        | with_reducible refine keep_updRjob ?_ | with_reducible refine keep_partSec ?_
        | with_reducible refine keep_rawSec ?_ | with_reducible refine keep_accSec ?_
        | with_reducible refine keep_updRebuild ?_ | with_reducible refine keep_issueUnit ?_
        | with_reducible refine keep_dropRebuild ?_ | with_reducible refine keep_sbFree ?_
        | with_reducible refine keep_step6 ?_ | with_reducible refine keep_endStep ?_
        | with_reducible refine keep_dropRjob ?_ | with_reducible refine keep_feedBands ?_
        | with_reducible refine keep_cnt ?_ ?_ | with_reducible refine keep_ite ?_ ?_
        | with_reducible refine keep_foldl _ ?_ (fun _ _ _ => ?_)
        | (show dataIdx _ _; unfold dataIdx; (first | decide | (simp only [rgIdx, chIdx, tcIdx, lgIdx, ptIdx, kpIdx]; omega) | omega))
        | dsimp only | split)

theorem keep_leafOk {d0 d : Dev} {id : Nat} {slot : Nat} {p : Bytes} (h : Keep d0 d) : Keep d0 (leafOk id slot p d)
    := by
  unfold leafOk
  with_reducible repeat' (first | exact h | refine keep_leafEnd ?_)

theorem keep_leafBad {d0 d : Dev} {id : Nat} {slot : Nat} {cause : Nat} {status : Nat} (h : Keep d0 d)
    : Keep d0 (leafBad id slot cause status d) := by
  unfold leafBad
  repeat' (first
      | with_reducible exact h | with_reducible refine keep_leafEnd ?_ | with_reducible refine keep_step6 ?_ | split)

theorem keep_unitBad {d0 d : Dev} {id : Nat} {cause : Nat} {status : Nat} (h : Keep d0 d)
    : Keep d0 (unitBad id cause status d) := by
  unfold unitBad
  repeat' (first
      | with_reducible exact h | with_reducible assumption | with_reducible refine keep_leafBad ?_
      | with_reducible refine keep_foldl _ ?_ (fun _ _ _ => ?_) | split)

theorem keep_settleRebuild {d0 d : Dev} {id : Nat} (h : Keep d0 d) : Keep d0 (settleRebuild id d) := by
  unfold settleRebuild
  repeat' (first
      | with_reducible exact h | with_reducible assumption | with_reducible refine keep_addRead ?_
      | with_reducible refine keep_leafOk ?_ | with_reducible refine keep_foldl _ ?_ (fun _ _ _ => ?_) | dsimp only
      | split)

theorem keep_partsBad {d0 d : Dev} {r : RJob} (h : Keep d0 d) : Keep d0 (partsBad r d).2 := by
  unfold partsBad
  with_reducible repeat' (first
      | exact h | assumption | refine keep_sbFetch ?_ | refine keep_foldl_snd _ ?_ (fun _ _ _ => ?_))

theorem keep_partsBadE {d0 d : Dev} {r : RJob} {r9 : Bool × Dev} (h : Keep d0 d) (e9 : (partsBad r d) = r9)
    : Keep d0 r9.2 := e9 ▸ keep_partsBad h

theorem keep_goAround {d0 d : Dev} {id : Nat} {ladder : Bool} {around : Bool} (h : Keep d0 d)
    : Keep d0 (goAround id ladder around d) := by
  unfold goAround
  repeat' (first
      | with_reducible exact h | with_reducible refine keep_partsBad ?_ | with_reducible refine keep_settleRebuild ?_
      | with_reducible refine keep_startRebuild ?_ | with_reducible refine keep_unitBad ?_
      | with_reducible refine keep_issueUnit ?_ | with_reducible refine keep_updRjob ?_
      | with_reducible refine keep_ite ?_ ?_ | dsimp only | split)

theorem keep_ladder5 {d0 d : Dev} {id : Nat} (h : Keep d0 d) : Keep d0 (ladder5 id d) := by
  unfold ladder5
  repeat' (first
      | with_reducible exact h | with_reducible refine keep_unitBad ?_ | with_reducible refine keep_goAround ?_
      | with_reducible refine keep_ite ?_ ?_ | dsimp only | split)

theorem keep_failedUnit {d0 d : Dev} {id : Nat} (h : Keep d0 d) : Keep d0 (failedUnit id d) := by
  unfold failedUnit
  repeat' (first
      | with_reducible exact h | with_reducible refine keep_goAround ?_ | with_reducible refine keep_unitBad ?_
      | with_reducible refine keep_ite ?_ ?_ | split)

theorem keep_placeUnit {d0 d : Dev} {id : Nat} (h : Keep d0 d) : Keep d0 (placeUnit id d) := by
  unfold placeUnit
  repeat' (first
      | with_reducible exact h | with_reducible refine keep_updRjob ?_ | with_reducible refine keep_issueUnit ?_
      | with_reducible refine keep_failedUnit ?_ | with_reducible refine keep_goAround ?_
      | with_reducible refine keep_demandCh ?_ | with_reducible refine keep_cnt ?_ ?_
      | with_reducible refine keep_ite ?_ ?_
      | (show dataIdx _ _; unfold dataIdx; (first | decide | (simp only [rgIdx, chIdx, tcIdx, lgIdx, ptIdx, kpIdx]; omega) | omega))
      | dsimp only | split)

theorem keep_reread {d0 d : Dev} {id : Nat} (h : Keep d0 d) : Keep d0 (reread id d) := by
  unfold reread
  repeat' (first
      | with_reducible exact h | with_reducible refine keep_takeLevel (r9 := (_, _)) ?_ (by assumption)
      | with_reducible refine keep_slotWait ?_ | with_reducible refine keep_enqueue ?_
      | with_reducible refine keep_askSuspend ?_ | with_reducible refine keep_updRjob ?_
      | with_reducible refine keep_ite ?_ ?_ | dsimp only | split)

theorem keep_dropCw {d0 d : Dev} {ch : Nat} {cw : Nat} (h : Keep d0 d) : Keep d0 (dropCw ch cw d) := by
  unfold dropCw
  with_reducible repeat' (first | exact h | refine keep_updChan ?_)

theorem keep_ladderFail {d0 d : Dev} {ch : Nat} {cw : Nat} (h : Keep d0 d) : Keep d0 (ladderFail ch cw d) := by
  unfold ladderFail
  repeat' (first
      | with_reducible exact h | with_reducible refine keep_dropCw ?_ | with_reducible refine keep_ladder5 ?_
      | with_reducible refine keep_kick ?_ | with_reducible refine keep_updChan ?_
      | with_reducible refine keep_reread ?_ | with_reducible refine keep_updTags ?_ | dsimp only | split)

theorem keep_attemptLost {d0 d : Dev} {id : Nat} {mask : Nat} (h : Keep d0 d) : Keep d0 (attemptLost id mask d) := by
  unfold attemptLost
  repeat' (first
      | with_reducible exact h | with_reducible refine keep_reread ?_ | with_reducible refine keep_ladder5 ?_
      | with_reducible refine keep_updChan ?_ | dsimp only | split)

end Sys2Proof.Machine
end

