-- ==== Sys2Proof/Laws/KeepFold.lean ====
section
/-! SUPPORT. What the functions of Machine/Fold.lean leave alone (Laws/Keep.lean). -/

set_option linter.unusedTactic false
set_option linter.unreachableTactic false
set_option linter.unusedSimpArgs false

namespace Sys2Proof.Machine

theorem keep_accFix {d0 d : Dev} {b : Nat} {r : Nat} {plane : Nat} {s : Nat} (h : Keep d0 d)
    : Keep d0 (accFix b r plane s d) := by
  unfold accFix
  repeat' (first
      | with_reducible exact h | with_reducible assumption | with_reducible refine keep_updLan ?_ (fun _ => rfl)
      | with_reducible refine keep_sbStore ?_ | with_reducible refine keep_addRead ?_
      | with_reducible refine keep_issueUnit ?_ | with_reducible refine keep_foldl _ ?_ (fun _ _ _ => ?_) | dsimp only
      | split)

theorem keep_foldIn {d0 d : Dev} {b : Nat} {r : Nat} {plane : Nat} {s : Nat} {p : Bytes} (h : Keep d0 d)
    : Keep d0 (foldIn b r plane s p d) := by
  unfold foldIn
  repeat' (first
      | with_reducible exact h | with_reducible refine keep_sbFetch ?_ | with_reducible refine keep_sbStore ?_
      | with_reducible refine keep_accFix ?_ | with_reducible refine keep_ite ?_ ?_ | dsimp only | split)

theorem keep_renameUses {d0 d : Dev} {old : Nat} {new : Nat} (h : Keep d0 d) : Keep d0 (renameUses old new d) := by
  unfold renameUses
  with_reducible repeat' (first | exact h | refine keep_updLan ?_ (fun _ => rfl))

theorem keep_leaveGhost {d0 d : Dev} {w : WJob} (h : Keep d0 d) : Keep d0 (leaveGhost w d).2 := by
  unfold leaveGhost
  repeat' (first
      | with_reducible exact h | with_reducible refine keep_freshId ?_ | with_reducible refine keep_renameUses ?_
      | with_reducible refine keep_updLan ?_ (fun _ => rfl) | dsimp only | split)

theorem keep_leaveGhostE {d0 d : Dev} {w : WJob} {r9 : Option Nat × Dev} (h : Keep d0 d) (e9 : (leaveGhost w d) = r9)
    : Keep d0 r9.2 := e9 ▸ keep_leaveGhost h

theorem keep_placeAgain {d0 d : Dev} {id : Nat} (h : Keep d0 d) : Keep d0 (placeAgain id d) := by
  unfold placeAgain
  repeat' (first
      | with_reducible exact h | with_reducible refine keep_updWjob ?_ | with_reducible refine keep_leaveGhost ?_
      | split)

theorem keep_fetchAgain {d0 d : Dev} {w : WJob} (h : Keep d0 d) : Keep d0 (fetchAgain w d) := by
  unfold fetchAgain
  repeat' (first
      | with_reducible exact h | with_reducible refine keep_leaveGhost ?_
      | with_reducible refine keep_updLan ?_ (fun _ => rfl) | with_reducible refine keep_sbFree ?_
      | with_reducible refine keep_updWjob ?_ | split)

theorem keep_codeSector {d0 d : Dev} {u : NUnit} {id : Nat} {i : Nat} (h : Keep d0 d)
    : Keep d0 (codeSector u id i d).2 := by
  unfold codeSector
  repeat' (first
      | with_reducible exact h | with_reducible refine keep_sbFetch ?_ | with_reducible refine keep_updWjob ?_
      | with_reducible refine keep_fetchAgain ?_ | dsimp only | split)

theorem keep_codeSectorE {d0 d : Dev} {u : NUnit} {id : Nat} {i : Nat} {r9 : Bytes × Dev} (h : Keep d0 d)
    (e9 : (codeSector u id i d) = r9) : Keep d0 r9.2 := e9 ▸ keep_codeSector h

theorem keep_codeSlot {d0 d : Dev} {v : NUnit} {m : MSlot} {cw : Nat} (h : Keep d0 d)
    : Keep d0 (codeSlot v m cw d).2 := by
  unfold codeSlot
  repeat' (first | with_reducible exact h | with_reducible refine keep_codeSector ?_ | split)

theorem keep_codeSlotE {d0 d : Dev} {v : NUnit} {m : MSlot} {cw : Nat} {r9 : Bytes × Dev} (h : Keep d0 d)
    (e9 : (codeSlot v m cw d) = r9) : Keep d0 r9.2 := e9 ▸ keep_codeSlot h

theorem keep_driveSlot {d0 d : Dev} {b : Nat} {r : Nat} {j : Nat} {plane : Nat} (h : Keep d0 d)
    : Keep d0 (driveSlot b r j plane d).2 := by
  unfold driveSlot
  repeat' (first
      | with_reducible exact h | with_reducible assumption | with_reducible refine keep_codeSlot ?_
      | with_reducible refine keep_foldIn ?_ | with_reducible refine keep_updSlot ?_
      | with_reducible refine keep_foldl_snd _ ?_ (fun _ _ _ => ?_) | dsimp only | split)

theorem keep_driveSlotE {d0 d : Dev} {b : Nat} {r : Nat} {j : Nat} {plane : Nat} {r9 : List Bytes × Dev}
    (h : Keep d0 d) (e9 : (driveSlot b r j plane d) = r9) : Keep d0 r9.2 := e9 ▸ keep_driveSlot h

theorem keep_driveParity {d0 d : Dev} {b : Nat} {r : Nat} {plane : Nat} (h : Keep d0 d)
    : Keep d0 (driveParity b r plane d).2 := by
  unfold driveParity
  repeat' (first
      | with_reducible exact h | with_reducible assumption | with_reducible refine keep_sbFetch ?_
      | with_reducible refine keep_accFix ?_ | with_reducible refine keep_foldl_snd _ ?_ (fun _ _ _ => ?_)
      | dsimp only | split)

theorem keep_driveParityE {d0 d : Dev} {b : Nat} {r : Nat} {plane : Nat} {r9 : Option (List Bytes) × Dev}
    (h : Keep d0 d) (e9 : (driveParity b r plane d) = r9) : Keep d0 r9.2 := e9 ▸ keep_driveParity h

theorem keep_cutSlot {d0 d : Dev} {b : Nat} {r : Nat} {j : Nat} (h : Keep d0 d) : Keep d0 (cutSlot b r j d) := by
  unfold cutSlot
  repeat' (first
      | with_reducible exact h | with_reducible assumption | with_reducible refine keep_foldIn ?_
      | with_reducible refine keep_updSlot ?_ | with_reducible refine keep_foldl _ ?_ (fun _ _ _ => ?_) | dsimp only
      | split)

theorem keep_cutSlots {d0 d : Dev} {bd : Band} {pos : Nat} {row : Nat} (h : Keep d0 d)
    : Keep d0 (cutSlots bd pos row d) := by
  unfold cutSlots
  with_reducible repeat' (first
      | exact h | assumption | refine keep_cutMember ?_ | refine keep_cutSlot ?_ | refine keep_placeAgain ?_
      | refine keep_ite ?_ ?_ | refine keep_foldl _ ?_ (fun _ _ _ => ?_))

theorem keep_dropSlotEnts {d0 d : Dev} {bd : Band} {n : Nat} {row : Nat} (h : Keep d0 d)
    : Keep d0 (dropSlotEnts bd n row d) := by
  unfold dropSlotEnts
  with_reducible repeat' (first | exact h | refine keep_updDie ?_)

theorem keep_dieFailedBands {d0 d : Dev} {n : Nat} (h : Keep d0 d) : Keep d0 (dieFailedBands n d) := by
  unfold dieFailedBands
  repeat' (first
      | with_reducible exact h | with_reducible assumption | with_reducible refine keep_closeBand ?_
      | with_reducible refine keep_cutSlots ?_ | with_reducible refine keep_ite ?_ ?_
      | with_reducible refine keep_foldl _ ?_ (fun _ _ _ => ?_) | dsimp only | split)

end Sys2Proof.Machine
end

