-- ==== Sys2Proof/Laws/KeepRead.lean ====
section
/-! SUPPORT. What the functions of Machine/Read.lean leave alone (Laws/Keep.lean). -/

set_option linter.unusedTactic false
set_option linter.unreachableTactic false
set_option linter.unusedSimpArgs false

namespace Sys2Proof.Machine

theorem keep_reserveRead {d0 d : Dev} {r : RJob} {e : Nat} {r9 : Dev} (h : Keep d0 d) (e9 : (reserveRead r e d)
    = some r9) : Keep d0 r9 := by
  unfold reserveRead at e9
  repeat' (first
      | split at e9
      | simp only [Option.map_eq_some_iff, Option.bind_eq_some_iff, Option.some.injEq, reduceCtorEq] at e9
      | (obtain ⟨_, _, e9⟩ := e9))
  all_goals (try subst e9)
  all_goals repeat' (first
      | with_reducible exact h | with_reducible refine keep_updRjob ?_
      | with_reducible refine keep_sbAllocs ?_ (by assumption))

theorem keep_serveSb {d0 d : Dev} {id : Nat} {w : WJob} {x : RSec} (h : Keep d0 d) : Keep d0 (serveSb id w x d) := by
  unfold serveSb
  with_reducible repeat' (first
      | exact h | refine keep_granSec ?_ | refine keep_sbFetch ?_ | refine keep_sbStore ?_ | refine keep_ite ?_ ?_)

theorem keep_serveGran {d0 d : Dev} {id : Nat} (h : Keep d0 d) : Keep d0 (serveGran id d) := by
  unfold serveGran
  repeat' (first
      | with_reducible exact h | with_reducible assumption | with_reducible refine keep_consume ?_
      | with_reducible refine keep_dropRjob ?_ | with_reducible refine keep_reserveRead ?_ (by assumption)
      | with_reducible refine keep_updRjob ?_ | with_reducible refine keep_serveSb ?_
      | with_reducible refine keep_granSec ?_ | with_reducible refine keep_sbStore ?_
      | with_reducible refine keep_addRead ?_ | with_reducible refine keep_placeUnit ?_
      | with_reducible refine keep_ite ?_ ?_ | with_reducible refine keep_foldl _ ?_ (fun _ _ _ => ?_) | dsimp only
      | split)

theorem keep_placeGran {d0 d : Dev} {id : Nat} (h : Keep d0 d) : Keep d0 (placeGran id d) := by
  unfold placeGran
  repeat' (first
      | with_reducible exact h | with_reducible assumption | with_reducible refine keep_serveGran ?_
      | with_reducible refine keep_lookup ?_ | with_reducible refine keep_lookupE (r9 := (_, _)) ?_ (by assumption)
      | with_reducible refine keep_granSec ?_ | with_reducible refine keep_updRjob ?_
      | with_reducible refine keep_ite ?_ ?_ | with_reducible refine keep_foldl _ ?_ (fun _ _ _ => ?_)
      | with_reducible refine keep_foldl_snd _ ?_ (fun _ _ _ => ?_) | dsimp only | split)

theorem keep_placeRead {d0 d : Dev} {id : Nat} (h : Keep d0 d) : Keep d0 (placeRead id d) := by
  unfold placeRead
  repeat' (first
      | with_reducible exact h | with_reducible refine keep_placeGran ?_ | with_reducible refine keep_placeUnit ?_
      | with_reducible refine keep_issueUnit ?_ | with_reducible refine keep_reread ?_
      | with_reducible refine keep_ladder5 ?_ | with_reducible refine keep_ite ?_ ?_ | split)

theorem keep_fillLost {d0 d : Dev} {m : Miss} (h : Keep d0 d) : Keep d0 (fillLost m d) := by
  unfold fillLost
  with_reducible repeat' (first
      | exact h | refine keep_fillLine ?_ | refine keep_loseLine ?_ | refine keep_updLan ?_ (fun _ => rfl)
      | refine keep_ite ?_ ?_)

theorem keep_serveUncached {d0 d : Dev} {m : Miss} (h : Keep d0 d) : Keep d0 (serveUncached m d) := by
  unfold serveUncached
  repeat' (first
      | with_reducible exact h | with_reducible refine keep_updLan ?_ (fun _ => rfl)
      | with_reducible refine keep_postWrite ?_ | with_reducible refine keep_cnt ?_ ?_
      | with_reducible refine keep_ite ?_ ?_
      | (show dataIdx _ _; unfold dataIdx; (first | decide | (simp only [rgIdx, chIdx, tcIdx, lgIdx, ptIdx, kpIdx]; omega) | omega)))

theorem keep_mapFillComplete {d0 d : Dev} {slot : Nat} (h : Keep d0 d) : Keep d0 (mapFillComplete slot d) := by
  unfold mapFillComplete
  repeat' (first
      | with_reducible exact h | with_reducible assumption | with_reducible refine keep_updLan ?_ (fun _ => rfl)
      | with_reducible refine keep_askWanted ?_ | with_reducible refine keep_serveUncached ?_
      | with_reducible refine keep_gotLine ?_ | with_reducible refine keep_fillLine ?_
      | with_reducible refine keep_postRead ?_ | with_reducible refine keep_fillLost ?_
      | with_reducible refine keep_granSec ?_ | with_reducible refine keep_ite ?_ ?_
      | with_reducible refine keep_foldl _ ?_ (fun _ _ _ => ?_) | dsimp only | split)

theorem keep_updDec {d0 d : Dev} {k : Nat} {f : Dec → Dec} (h : Keep d0 d) : Keep d0 (updDec k f d) := by
  unfold updDec
  repeat' (first
      | with_reducible exact h
      | fail_if_no_progress (with_reducible refine keep_mk ?_ ?_ <;> [skip; first | rfl | simp_all only]))

theorem keep_decoderDispatch {d0 d : Dev} {ch : Nat} {cw : Nat} (h : Keep d0 d) : Keep d0 (decoderDispatch ch cw d)
    := by
  unfold decoderDispatch
  repeat' (first
      | with_reducible exact h | with_reducible refine keep_updLan ?_ (fun _ => rfl)
      | with_reducible refine keep_updChan ?_ | with_reducible refine keep_updDec ?_
      | with_reducible refine keep_send ?_ | dsimp only | split)

theorem keep_decodeJob {d0 d : Dev} {k : Nat} (h : Keep d0 d) : Keep d0 (decodeJob k d) := by
  unfold decodeJob
  with_reducible repeat' (first | exact h | refine keep_updDec ?_ | refine keep_ite ?_ ?_)

theorem keep_decodeResult {d0 d : Dev} {k : Nat} {r : DecRes} (h : Keep d0 d) : Keep d0 (decodeResult k r d) := by
  unfold decodeResult
  repeat' (first
      | with_reducible exact h | with_reducible refine keep_send ?_ | with_reducible refine keep_updDec ?_
      | with_reducible refine keep_updChan ?_ | with_reducible refine keep_ladderFail ?_
      | with_reducible refine keep_cntN ?_ ?_ | with_reducible refine keep_cnt ?_ ?_
      | with_reducible refine keep_ite ?_ ?_
      | (show dataIdx _ _; unfold dataIdx; (first | decide | (simp only [rgIdx, chIdx, tcIdx, lgIdx, ptIdx, kpIdx]; omega) | omega))
      | dsimp only | split)

theorem keep_teachFrom {d0 d : Dev} {r : RJob} {c : RawCw} {n01 : Nat} {n10 : Nat} (h : Keep d0 d)
    : Keep d0 (teachFrom r c n01 n10 d) := by
  unfold teachFrom
  repeat' (first
      | with_reducible exact h | with_reducible refine keep_teach ?_ | with_reducible refine keep_ite ?_ ?_ | split)

theorem keep_inlineCheck {d0 d : Dev} {ch : Nat} {cw : Nat} (h : Keep d0 d) : Keep d0 (inlineCheck ch cw d) := by
  unfold inlineCheck
  repeat' (first
      | with_reducible exact h | with_reducible refine keep_updChan ?_ | with_reducible refine keep_dropCw ?_
      | with_reducible refine keep_ladderFail ?_ | with_reducible refine keep_kick ?_
      | with_reducible refine keep_feedBands ?_ | with_reducible refine keep_ladder5 ?_
      | with_reducible refine keep_reread ?_ | with_reducible refine keep_leafBad ?_
      | with_reducible refine keep_leafOk ?_ | with_reducible refine keep_endStep ?_
      | with_reducible refine keep_teachFrom ?_ | with_reducible refine keep_cnt ?_ ?_
      | with_reducible refine keep_ite ?_ ?_
      | (show dataIdx _ _; unfold dataIdx; (first | decide | (simp only [rgIdx, chIdx, tcIdx, lgIdx, ptIdx, kpIdx]; omega) | omega))
      | dsimp only | split)

end Sys2Proof.Machine
end

