-- ==== Sys2Proof/Laws/KeepRing.lean ====
section
/-! SUPPORT. What the functions of Machine/Ring.lean leave alone (Laws/Keep.lean). -/

set_option linter.unusedTactic false
set_option linter.unreachableTactic false
set_option linter.unusedSimpArgs false

namespace Sys2Proof.Machine

theorem keep_updRing {d0 d : Dev} {r : Nat} {f : Ring → Ring} (h : Keep d0 d) : Keep d0 (updRing r f d) := by
  unfold updRing
  repeat' (first
      | with_reducible exact h
      | fail_if_no_progress (with_reducible refine keep_mk ?_ ?_ <;> [skip; first | rfl | simp_all only]))

theorem keep_badDb {d0 d : Dev} {r : Nat} (h : Keep d0 d) : Keep d0 (badDb r d) := by
  unfold badDb
  repeat' (first
      | with_reducible exact h | with_reducible refine keep_cnt ?_ ?_
      | (show dataIdx _ _; unfold dataIdx; (first | decide | (simp only [rgIdx, chIdx, tcIdx, lgIdx, ptIdx, kpIdx]; omega) | omega)))

theorem keep_newTail {d0 d : Dev} {r : Nat} {v : Nat} (h : Keep d0 d) : Keep d0 (newTail r v d) := by
  unfold newTail
  repeat' (first
      | with_reducible exact h | with_reducible refine keep_updRing ?_ | with_reducible refine keep_badDb ?_
      | with_reducible refine keep_put ?_ ?_ | with_reducible refine keep_ite ?_ ?_
      | (show dataIdx _ _; unfold dataIdx; (first | decide | (simp only [rgIdx, chIdx, tcIdx, lgIdx, ptIdx, kpIdx]; omega) | omega)))

theorem keep_newCqHead {d0 d : Dev} {r : Nat} {v : Nat} (h : Keep d0 d) : Keep d0 (newCqHead r v d) := by
  unfold newCqHead
  repeat' (first
      | with_reducible exact h | with_reducible refine keep_updRing ?_ | with_reducible refine keep_badDb ?_
      | with_reducible refine keep_put ?_ ?_ | with_reducible refine keep_ite ?_ ?_
      | (show dataIdx _ _; unfold dataIdx; (first | decide | (simp only [rgIdx, chIdx, tcIdx, lgIdx, ptIdx, kpIdx]; omega) | omega)))

theorem keep_dbSqWord {d0 d : Dev} {r : Nat} {v : Nat} (h : Keep d0 d) : Keep d0 (dbSqWord r v d) := by
  unfold dbSqWord
  with_reducible repeat' (first | exact h | refine keep_newTail ?_ | refine keep_newCqHead ?_ | refine keep_ite ?_ ?_)

theorem keep_sqFetch {d0 d : Dev} {p : Nat} (h : Keep d0 d) : Keep d0 (sqFetch p d) := by
  unfold sqFetch
  repeat' (first
      | with_reducible exact h | with_reducible refine keep_postRead ?_ | with_reducible refine keep_updRing ?_
      | with_reducible refine keep_ite ?_ ?_ | dsimp only | split
      | fail_if_no_progress (with_reducible refine keep_mk ?_ ?_ <;> [skip; first | rfl | simp_all only]))

theorem keep_fetchFailed {d0 d : Dev} {r : Nat} (h : Keep d0 d) : Keep d0 (fetchFailed r d) := by
  unfold fetchFailed
  repeat' (first
      | with_reducible exact h | with_reducible refine keep_updRing ?_ | with_reducible refine keep_cnt ?_ ?_
      | (show dataIdx _ _; unfold dataIdx; (first | decide | (simp only [rgIdx, chIdx, tcIdx, lgIdx, ptIdx, kpIdx]; omega) | omega)))

theorem keep_memberOut {d0 d : Dev} {tag : Nat} {st : Nat} (h : Keep d0 d) : Keep d0 (memberOut tag st d) := by
  unfold memberOut
  with_reducible repeat' (first | exact h | refine keep_meet ?_ | refine keep_cmdFail ?_)

theorem keep_joinGroup {d0 d : Dev} {tag : Nat} {c : Cmd} (h : Keep d0 d) : Keep d0 (joinGroup tag c d) := by
  unfold joinGroup
  repeat' (first
      | with_reducible exact h | with_reducible refine keep_freshId ?_ | with_reducible refine keep_memberOut ?_
      | with_reducible refine keep_updCmd ?_ | with_reducible refine keep_abortGroup ?_
      | with_reducible refine keep_updGroup ?_ | with_reducible refine keep_ite ?_ ?_ | dsimp only | split
      | fail_if_no_progress (with_reducible refine keep_mk ?_ ?_ <;> [skip; first | rfl | simp_all only]))

theorem keep_passCmd {d0 d : Dev} {r : Nat} {b : Bytes} (h : Keep d0 d) : Keep d0 (passCmd r b d) := by
  unfold passCmd
  repeat' (first
      | with_reducible exact h | with_reducible refine keep_sendFor ?_ | with_reducible refine keep_meet ?_
      | with_reducible refine keep_updCmd ?_ | with_reducible refine keep_joinGroup ?_
      | with_reducible refine keep_updGroup ?_ | with_reducible refine keep_ite ?_ ?_ | dsimp only | split
      | fail_if_no_progress (with_reducible refine keep_mk ?_ ?_ <;> [skip; first | rfl | simp_all only]))

theorem keep_sqFetchComplete {d0 d : Dev} {r : Nat} (h : Keep d0 d) : Keep d0 (sqFetchComplete r d) := by
  unfold sqFetchComplete
  repeat' (first
      | with_reducible exact h | with_reducible assumption | with_reducible refine keep_updRing ?_
      | with_reducible refine keep_passCmd ?_ | with_reducible refine keep_put ?_ ?_
      | with_reducible refine keep_ite ?_ ?_ | with_reducible refine keep_foldl _ ?_ (fun _ _ _ => ?_)
      | (show dataIdx _ _; unfold dataIdx; (first | decide | (simp only [rgIdx, chIdx, tcIdx, lgIdx, ptIdx, kpIdx]; omega) | omega)))

theorem keep_fetchArrived {d0 d : Dev} {r : Nat} {ok : Bool} {bs : Bytes} (h : Keep d0 d)
    : Keep d0 (fetchArrived r ok bs d) := by
  unfold fetchArrived
  with_reducible repeat' (first
      | exact h | refine keep_fetchFailed ?_ | refine keep_updRing ?_ | refine keep_ite ?_ ?_)

theorem keep_report {d0 d : Dev} {c : Cmd} (h : Keep d0 d) : Keep d0 (report c d).2 := by
  unfold report
  repeat' (first
      | with_reducible exact h | with_reducible refine keep_freeVal ?_ | with_reducible refine keep_freeWide ?_
      | dsimp only | split)

theorem keep_reportE {d0 d : Dev} {c : Cmd} {r9 : Report × Dev} (h : Keep d0 d) (e9 : (report c d) = r9)
    : Keep d0 r9.2 := e9 ▸ keep_report h

theorem keep_completionPost {d0 d : Dev} {tag : Nat} (h : Keep d0 d) : Keep d0 (completionPost tag d) := by
  unfold completionPost
  repeat' (first
      | with_reducible exact h | with_reducible refine keep_updRing ?_ | with_reducible refine keep_report ?_
      | with_reducible refine keep_pruneVers ?_ | with_reducible refine keep_postWrite ?_
      | with_reducible refine keep_put ?_ ?_ | with_reducible refine keep_cnt ?_ ?_
      | with_reducible refine keep_ite ?_ ?_
      | (show dataIdx _ _; unfold dataIdx; (first | decide | (simp only [rgIdx, chIdx, tcIdx, lgIdx, ptIdx, kpIdx]; omega) | omega))
      | dsimp only | split
      | fail_if_no_progress (with_reducible refine keep_mk ?_ ?_ <;> [skip; first | rfl | simp_all only]))

theorem keep_completionBell {d0 d : Dev} {r : Nat} (h : Keep d0 d) : Keep d0 (completionBell r d) := by
  unfold completionBell
  repeat' (first
      | with_reducible exact h | with_reducible refine keep_ringUnit ?_ | with_reducible refine keep_updRing ?_
      | split)

theorem keep_ringStart {d0 d : Dev} {r : Nat} (h : Keep d0 d) : Keep d0 (ringStart r d) := by
  unfold ringStart
  repeat' (first
      | with_reducible exact h | with_reducible refine keep_updRing ?_ | with_reducible refine keep_put ?_ ?_
      | (show dataIdx _ _; unfold dataIdx; (first | decide | (simp only [rgIdx, chIdx, tcIdx, lgIdx, ptIdx, kpIdx]; omega) | omega)))

theorem keep_abortRing {d0 d : Dev} {r : Nat} (h : Keep d0 d) : Keep d0 (abortRing r d) := by
  unfold abortRing
  repeat' (first
      | with_reducible exact h | with_reducible assumption | with_reducible refine keep_abortGroup ?_
      | with_reducible refine keep_groupCheck ?_ | with_reducible refine keep_updClasp ?_
      | with_reducible refine keep_updCmd ?_ | with_reducible refine keep_ite ?_ ?_
      | with_reducible refine keep_foldl _ ?_ (fun _ _ _ => ?_) | split)

theorem keep_ringEnable {d0 d : Dev} {r : Nat} {v : Nat} (h : Keep d0 d) : Keep d0 (ringEnable r v d) := by
  unfold ringEnable
  repeat' (first
      | with_reducible exact h | with_reducible refine keep_ringStart ?_ | with_reducible refine keep_abortRing ?_
      | with_reducible refine keep_updRing ?_ | with_reducible refine keep_put ?_ ?_
      | with_reducible refine keep_ite ?_ ?_
      | (show dataIdx _ _; unfold dataIdx; (first | decide | (simp only [rgIdx, chIdx, tcIdx, lgIdx, ptIdx, kpIdx]; omega) | omega)))

theorem soundk_ringEnable {d0 d : Dev} {r : Nat} {v : Nat} (h : Sound d0 d) : Sound d0 (ringEnable r v d) :=
    h.trans (keep_ringEnable (Keep.refl d)).toSound

theorem keep_ringDrained {d0 d : Dev} {r : Nat} (h : Keep d0 d) : Keep d0 (ringDrained r d) := by
  unfold ringDrained
  repeat' (first
      | with_reducible exact h | with_reducible refine keep_ringStart ?_ | with_reducible refine keep_put ?_ ?_
      | with_reducible refine keep_ite ?_ ?_
      | (show dataIdx _ _; unfold dataIdx; (first | decide | (simp only [rgIdx, chIdx, tcIdx, lgIdx, ptIdx, kpIdx]; omega) | omega))
      | fail_if_no_progress (with_reducible refine keep_mk ?_ ?_ <;> [skip; first | rfl | simp_all only]))

end Sys2Proof.Machine
end

