-- ==== Sys2Proof/Laws/KeepCommands.lean ====
section
/-! SUPPORT. What the functions of Machine/Commands.lean leave alone (Laws/Keep.lean). -/

set_option linter.unusedTactic false
set_option linter.unreachableTactic false
set_option linter.unusedSimpArgs false

namespace Sys2Proof.Machine

theorem keep_startCmd {d0 d : Dev} {opc : Nat} {tag : Nat} {f : Cmd → Dev → Dev} (h : Keep d0 d)
    (hf : ∀ y0 y1, Keep d0 y1 → Keep d0 (f y0 y1)) : Keep d0 (startCmd opc tag f d) := by
  unfold startCmd
  repeat' (first
      | with_reducible exact h | with_reducible apply hf | with_reducible refine keep_updCmd ?_
      | with_reducible refine keep_cmdCheck ?_ | with_reducible refine keep_ite ?_ ?_ | dsimp only | split)

theorem keep_padUrgent {d0 d : Dev} (h : Keep d0 d) : Keep d0 (padUrgent d) := by
  unfold padUrgent
  repeat' (first
      | with_reducible exact h | with_reducible assumption | with_reducible refine keep_padSlot ?_
      | with_reducible refine keep_cnt ?_ ?_ | with_reducible refine keep_ite ?_ ?_
      | with_reducible refine keep_foldl _ ?_ (fun _ _ _ => ?_)
      | (show dataIdx _ _; unfold dataIdx; (first | decide | (simp only [rgIdx, chIdx, tcIdx, lgIdx, ptIdx, kpIdx]; omega) | omega))
      | dsimp only | split)

theorem keep_addWjob {d0 d : Dev} {tag : Nat} {c : Cmd} {lo : Nat} {hi : Nat} {g : Gran} (h : Keep d0 d)
    : Keep d0 (addWjob tag c lo hi g d) := by
  unfold addWjob
  with_reducible repeat' (first | exact h | refine keep_freshId ?_ | refine keep_updLan ?_ (fun _ => rfl))

theorem keep_writeGranules {d0 d : Dev} {tag : Nat} {c : Cmd} (h : Keep d0 d) : Keep d0 (writeGranules tag c d) := by
  unfold writeGranules
  with_reducible repeat' (first
      | exact h | assumption | refine keep_addWjob ?_ | refine keep_updCmd ?_
      | refine keep_foldl _ ?_ (fun _ _ _ => ?_))

theorem keep_merge {d0 d : Dev} {id : Nat} (h : Keep d0 d) : Keep d0 (merge id d) := by
  unfold merge
  repeat' (first
      | with_reducible exact h | with_reducible refine keep_reserveJob ?_ (by assumption)
      | with_reducible refine keep_addRead ?_ | with_reducible refine keep_updWjob ?_
      | with_reducible refine keep_cnt ?_ ?_ | with_reducible refine keep_ite ?_ ?_
      | (show dataIdx _ _; unfold dataIdx; (first | decide | (simp only [rgIdx, chIdx, tcIdx, lgIdx, ptIdx, kpIdx]; omega) | omega))
      | dsimp only | split)

theorem keep_copyReads {d0 d : Dev} {id : Nat} (h : Keep d0 d) : Keep d0 (copyReads id d) := by
  unfold copyReads
  repeat' (first
      | with_reducible exact h | with_reducible assumption | with_reducible refine keep_addRead ?_
      | with_reducible refine keep_updWjob ?_ | with_reducible refine keep_ite ?_ ?_
      | with_reducible refine keep_foldl _ ?_ (fun _ _ _ => ?_) | dsimp only | split)

theorem keep_noSpace {d0 d : Dev} {w : WJob} (h : Keep d0 d) : Keep d0 (noSpace w d) := by
  unfold noSpace
  repeat' (first
      | with_reducible exact h | with_reducible refine keep_killJob ?_ | with_reducible refine keep_cmdFail ?_
      | with_reducible refine keep_cnt ?_ ?_
      | (show dataIdx _ _; unfold dataIdx; (first | decide | (simp only [rgIdx, chIdx, tcIdx, lgIdx, ptIdx, kpIdx]; omega) | omega))
      | split)

theorem keep_countUnits {d0 d : Dev} {all : Nat} {rel : Nat} {ck : Nat} (h : Keep d0 d)
    : Keep d0 (countUnits all rel ck d) := by
  unfold countUnits
  with_reducible repeat' (first | exact h | refine keep_updLan ?_ (fun _ => rfl))

theorem keep_countPlaced {d0 d : Dev} {w : WJob} (h : Keep d0 d) : Keep d0 (countPlaced w d) := by
  unfold countPlaced
  with_reducible repeat' (first | exact h | refine keep_countUnits ?_)

theorem keep_placeWrite {d0 d : Dev} {id : Nat} (h : Keep d0 d) : Keep d0 (placeWrite id d) := by
  unfold placeWrite
  repeat' (first
      | with_reducible exact h | with_reducible refine keep_killJob ?_ | with_reducible refine keep_updWjob ?_
      | with_reducible refine keep_copyReads ?_ | with_reducible refine keep_feedBands ?_
      | with_reducible refine keep_padUrgent ?_ | with_reducible refine keep_countPlaced ?_
      | with_reducible refine keep_noSpace ?_ | with_reducible refine keep_tryPlace_done ?_ (by assumption)
      | with_reducible refine keep_tryPlace_wait ?_ (by assumption)
      | with_reducible refine keep_tryPlace_noBand ?_ (by assumption) | with_reducible refine keep_ite ?_ ?_
      | dsimp only | split)

theorem keep_trimGran {d0 d : Dev} {tag : Nat} {c : Cmd} {g : Gran} (h : Keep d0 d) : Keep d0 (trimGran tag c g d) := by
  unfold trimGran
  with_reducible repeat' (first
      | exact h | refine keep_failGran ?_ | refine keep_changeMap ?_ | refine keep_updCmd ?_ | refine keep_ite ?_ ?_)

theorem keep_trimGo {d0 d : Dev} {tag : Nat} (h : Keep d0 d) : Keep d0 (trimGo tag d) := by
  unfold trimGo
  repeat' (first
      | with_reducible exact h | with_reducible assumption | with_reducible refine keep_updCmd ?_
      | with_reducible refine keep_trimGran ?_ | with_reducible refine keep_cmdCheck ?_
      | with_reducible refine keep_ite ?_ ?_ | with_reducible refine keep_foldl _ ?_ (fun _ _ _ => ?_) | dsimp only
      | split)

theorem keep_commitCmd {d0 d : Dev} {tag : Nat} {c : Cmd} (h : Keep d0 d) : Keep d0 (commitCmd tag c d) := by
  unfold commitCmd
  repeat' (first
      | with_reducible exact h | with_reducible refine keep_cmdCheck ?_ | with_reducible refine keep_cmdFail ?_
      | with_reducible refine keep_abortGroup ?_ | with_reducible refine keep_feedBands ?_
      | with_reducible refine keep_padUrgent ?_ | with_reducible refine keep_ite ?_ ?_ | dsimp only | split)

end Sys2Proof.Machine
end

