-- ==== Sys2Proof/Laws/KeepClasp.lean ====
section
/-! SUPPORT. What the functions of Machine/Clasp.lean leave alone (Laws/Keep.lean). -/

set_option linter.unusedTactic false
set_option linter.unreachableTactic false
set_option linter.unusedSimpArgs false

namespace Sys2Proof.Machine

theorem keep_updSys {d0 d : Dev} {n : Nat} {f : SysDie → SysDie} (h : Keep d0 d) : Keep d0 (updSys n f d) := by
  unfold updSys
  with_reducible repeat' (first | exact h | refine keep_updClasp ?_)

theorem keep_setPairs {d0 d : Dev} {l : List (Nat × Nat)} (h : Keep d0 d) : Keep d0 (setPairs l d) := by
  unfold setPairs
  repeat' (first
      | with_reducible exact h | with_reducible refine keep_updClasp ?_ | with_reducible refine keep_put ?_ ?_
      | (show dataIdx _ _; unfold dataIdx; (first | decide | (simp only [rgIdx, chIdx, tcIdx, lgIdx, ptIdx, kpIdx]; omega) | omega)))

theorem keep_sysTake {d0 d : Dev} {n : Nat} {num : Nat} {r9 : ((Nat × Nat × Nat) × Dev)} (h : Keep d0 d)
    (e9 : (sysTake n num d) = some r9) : Keep d0 r9.2 := by
  unfold sysTake at e9
  repeat' (first
      | split at e9
      | simp only [Option.map_eq_some_iff, Option.bind_eq_some_iff, Option.some.injEq, reduceCtorEq] at e9
      | (obtain ⟨_, _, e9⟩ := e9))
  all_goals (try subst e9)
  all_goals repeat' (first | with_reducible exact h | with_reducible refine keep_updSys ?_)

theorem keep_sysLeave {d0 d : Dev} {n : Nat} (h : Keep d0 d) : Keep d0 (sysLeave n d) := by
  unfold sysLeave
  with_reducible repeat' (first | exact h | refine keep_updSys ?_)

theorem keep_mkUnit {d0 d : Dev} {num : Nat} {cws : List CwSrc} {dies : List Nat} {r9 : CUnit × Dev} (h : Keep d0 d)
    (e9 : mkUnit num cws dies d = some r9) : Keep d0 r9.2 := by
  have go : ∀ (l : List Nat) (a : Option (List CCopy × Dev)), (∀ r, a = some r → Keep d0 r.2) →
      ∀ r, l.foldl (fun (a : Option (List CCopy × Dev)) n => match a with
        | none => none
        | some (l, x) => (sysTake n num x).map (fun r =>
            (l ++ [⟨n, r.1.1, r.1.2.1, r.1.2.2, false, false⟩], r.2))) a = some r → Keep d0 r.2 := by
    intro l
    induction l with
    | nil => intro a ha r hr; exact ha r hr
    | cons n l ih =>
      intro a ha r hr
      refine ih _ ?_ r hr
      intro q hq
      dsimp only at hq
      split at hq
      · cases hq
      · simp only [Option.map_eq_some_iff] at hq
        obtain ⟨w, hw, rfl⟩ := hq
        exact keep_sysTake (ha _ rfl) hw
  unfold mkUnit at e9
  simp only [Option.map_eq_some_iff] at e9
  obtain ⟨w, hw, rfl⟩ := e9
  dsimp only
  refine keep_updClasp (go dies _ ?_ w hw)
  intro r hr
  cases hr
  exact h

theorem keep_calOne {d0 d : Dev} {sub : Nat} {target : Nat} {dflt : Nat} (h : Keep d0 d)
    : Keep d0 (calOne sub target dflt d) := by
  unfold calOne
  repeat' (first
      | with_reducible exact h | with_reducible refine keep_put ?_ ?_
      | (show dataIdx _ _; unfold dataIdx; (first | decide | (simp only [rgIdx, chIdx, tcIdx, lgIdx, ptIdx, kpIdx]; omega) | omega)))

theorem keep_calibrate {d0 d : Dev} (h : Keep d0 d) : Keep d0 (calibrate d) := by
  unfold calibrate
  with_reducible repeat' (first | exact h | refine keep_calOne ?_ | refine keep_ite ?_ ?_)

theorem keep_updUnit {d0 d : Dev} {c : Nat} {u : Nat} {f : CUnit → CUnit} (h : Keep d0 d) : Keep d0 (updUnit c u f d)
    := by
  unfold updUnit
  with_reducible repeat' (first | exact h | refine keep_updClasp ?_)

theorem keep_updCopy {d0 d : Dev} {c : Nat} {u : Nat} {i : Nat} {f : CCopy → CCopy} (h : Keep d0 d)
    : Keep d0 (updCopy c u i f d) := by
  unfold updCopy
  with_reducible repeat' (first | exact h | refine keep_updUnit ?_)

theorem keep_feedCopy {d0 d : Dev} {c : Nat} {u : Nat} {i : Nat} {k : CCopy} (h : Keep d0 d)
    : Keep d0 (feedCopy c u i k d) := by
  unfold feedCopy
  with_reducible repeat' (first | exact h | refine keep_enqueue ?_ | refine keep_updCopy ?_ | refine keep_ite ?_ ?_)

theorem keep_feedUnits {d0 d : Dev} {c : Nat} {us : List CUnit} (h : Keep d0 d) : Keep d0 (feedUnits c us d) := by
  unfold feedUnits
  with_reducible repeat' (first
      | exact h | assumption | refine keep_feedCopy ?_ | refine keep_foldl _ ?_ (fun _ _ _ => ?_))

theorem keep_queueErase {d0 d : Dev} {n : Nat} {b : Nat} (h : Keep d0 d) : Keep d0 (queueErase n b d) := by
  unfold queueErase
  with_reducible repeat' (first
      | exact h | refine keep_jAppend ?_ | refine keep_setBstate ?_ | refine keep_updClasp ?_ | refine keep_ite ?_ ?_)

theorem keep_queueSysErase {d0 d : Dev} {n : Nat} {b : Nat} {p : Nat} (h : Keep d0 d)
    : Keep d0 (queueSysErase n b p d) := by
  unfold queueSysErase
  with_reducible repeat' (first | exact h | refine keep_updClasp ?_ | refine keep_jAppend ?_ | refine keep_ite ?_ ?_)

theorem keep_feedErases {d0 d : Dev} (h : Keep d0 d) : Keep d0 (feedErases d) := by
  unfold feedErases
  with_reducible repeat' (first
      | exact h | assumption | refine keep_enqueue ?_ | refine keep_updClasp ?_ | refine keep_ite ?_ ?_
      | refine keep_foldl _ ?_ (fun _ _ _ => ?_))

theorem keep_feedEraseQ {d0 d : Dev} (h : Keep d0 d) : Keep d0 (feedEraseQ d) := by
  unfold feedEraseQ
  with_reducible repeat' (first
      | exact h | assumption | refine keep_queueErase ?_ | refine keep_ite ?_ ?_
      | refine keep_foldl _ ?_ (fun _ _ _ => ?_))

theorem keep_claspFeed {d0 d : Dev} (h : Keep d0 d) : Keep d0 (claspFeed d) := by
  unfold claspFeed
  repeat' (first
      | with_reducible exact h | with_reducible assumption | with_reducible refine keep_feedUnits ?_
      | with_reducible refine keep_feedErases ?_ | with_reducible refine keep_feedEraseQ ?_
      | with_reducible refine keep_ite ?_ ?_ | with_reducible refine keep_foldl _ ?_ (fun _ _ _ => ?_) | split)

theorem keep_commitUnits : ∀ {f jsn : Nat} {cws : List CwSrc} {d0 d : Dev} {r : List CUnit × Dev}, Keep d0 d →
    commitUnits f jsn cws d = some r → Keep d0 r.2
  | 0, _, _, d0, d, r, h, e => by
    simp only [commitUnits, Option.some.injEq] at e
    subst e
    exact h
  | f + 1, jsn, cws, d0, d, r, h, e => by
    unfold commitUnits at e
    split at e
    · simp only [Option.some.injEq] at e
      subst e
      exact h
    · split at e
      · cases e
      · split at e
        · cases e
        · next p _ u d1 heq =>
          simp only [Option.map_eq_some_iff] at e
          obtain ⟨w, hw, rfl⟩ := e
          have k : Keep d0 w.2 :=
            keep_commitUnits (keep_updClasp (keep_mkUnit (r9 := (_, _)) h heq)) hw
          exact k

theorem keep_noteBegin {d0 d : Dev} {first : Nat} {rs : List JRec} (h : Keep d0 d) : Keep d0 (noteBegin first rs d)
    := by
  unfold noteBegin
  repeat' (first | with_reducible exact h | with_reducible refine keep_updClasp ?_ | split)

theorem keep_ckptTrigger {d0 d : Dev} (h : Keep d0 d) : Keep d0 (ckptTrigger d) := by
  unfold ckptTrigger
  with_reducible repeat' (first | exact h | refine keep_updClasp ?_ | refine keep_ite ?_ ?_)

theorem soundk_ckptTrigger {d0 d : Dev} (h : Sound d0 d) : Sound d0 (ckptTrigger d) :=
    h.trans (keep_ckptTrigger (Keep.refl d)).toSound

theorem keep_ckptByJournal {d0 d : Dev} (h : Keep d0 d) : Keep d0 (ckptByJournal d) := by
  unfold ckptByJournal
  with_reducible repeat' (first | exact h | refine keep_ckptTrigger ?_ | refine keep_ite ?_ ?_)

theorem keep_startCommit {d0 d : Dev} {rs : List JRec} {grp : Option Nat} (h : Keep d0 d)
    : Keep d0 (startCommit rs grp d) := by
  unfold startCommit
  repeat' (first
      | with_reducible exact h | with_reducible refine keep_updClasp ?_
      | with_reducible refine keep_commitUnits ?_ (by assumption) | with_reducible refine keep_ckptByJournal ?_
      | with_reducible refine keep_claspFeed ?_ | with_reducible refine keep_noteBegin ?_
      | with_reducible refine keep_put ?_ ?_ | with_reducible refine keep_cnt ?_ ?_
      | with_reducible refine keep_ite ?_ ?_
      | (show dataIdx _ _; unfold dataIdx; (first | decide | (simp only [rgIdx, chIdx, tcIdx, lgIdx, ptIdx, kpIdx]; omega) | omega))
      | dsimp only | split)

theorem keep_commitStart {d0 d : Dev} (h : Keep d0 d) : Keep d0 (commitStart d) := by
  unfold commitStart
  repeat' (first
      | with_reducible exact h | with_reducible refine keep_startCommit ?_ | with_reducible refine keep_updClasp ?_
      | with_reducible refine keep_ite ?_ ?_ | split)

theorem keep_releaseWait {d0 d : Dev} {tag : Nat} (h : Keep d0 d) : Keep d0 (releaseWait tag d) := by
  unfold releaseWait
  repeat' (first
      | with_reducible exact h | with_reducible refine keep_flushAll ?_ | with_reducible refine keep_memberDone ?_
      | with_reducible refine keep_meet ?_ | split)

theorem keep_releaseWaits {d0 d : Dev} (h : Keep d0 d) : Keep d0 (releaseWaits d) := by
  unfold releaseWaits
  with_reducible repeat' (first
      | exact h | assumption | refine keep_releaseWait ?_ | refine keep_foldl _ ?_ (fun _ _ _ => ?_))

theorem keep_reclaimSys {d0 d : Dev} (h : Keep d0 d) : Keep d0 (reclaimSys d) := by
  unfold reclaimSys
  with_reducible repeat' (first
      | exact h | assumption | refine keep_queueSysErase ?_ | refine keep_updSys ?_
      | refine keep_foldl _ ?_ (fun _ _ _ => ?_))

theorem keep_ckptComplete {d0 d : Dev} (h : Keep d0 d) : Keep d0 (ckptComplete d) := by
  unfold ckptComplete
  repeat' (first
      | with_reducible exact h | with_reducible refine keep_reclaimSys ?_ | with_reducible refine keep_updClasp ?_
      | with_reducible refine keep_put ?_ ?_ | with_reducible refine keep_cnt ?_ ?_
      | (show dataIdx _ _; unfold dataIdx; (first | decide | (simp only [rgIdx, chIdx, tcIdx, lgIdx, ptIdx, kpIdx]; omega) | omega))
      | split)

theorem keep_groupCommitted {d0 d : Dev} {g : Nat} (h : Keep d0 d) : Keep d0 (groupCommitted g d) := by
  unfold groupCommitted
  repeat' (first
      | with_reducible exact h | with_reducible refine keep_flushAll ?_ | with_reducible refine keep_meet ?_
      | with_reducible refine keep_updGroup ?_ | split)

theorem keep_commitDone {d0 d : Dev} (h : Keep d0 d) : Keep d0 (commitDone d) := by
  unfold commitDone
  repeat' (first
      | with_reducible exact h | with_reducible assumption | with_reducible refine keep_updClasp ?_
      | with_reducible refine keep_groupCommitted ?_ | with_reducible refine keep_ckptComplete ?_
      | with_reducible refine keep_finishJobs ?_ | with_reducible refine keep_releaseWaits ?_
      | with_reducible refine keep_claspFeed ?_ | with_reducible refine keep_trimGo ?_
      | with_reducible refine keep_cnt ?_ ?_ | with_reducible refine keep_ite ?_ ?_
      | with_reducible refine keep_foldl _ ?_ (fun _ _ _ => ?_)
      | (show dataIdx _ _; unfold dataIdx; (first | decide | (simp only [rgIdx, chIdx, tcIdx, lgIdx, ptIdx, kpIdx]; omega) | omega))
      | dsimp only | split)

theorem keep_noEnergy {d0 d : Dev} {tag : Nat} (h : Keep d0 d) : Keep d0 (noEnergy tag d) := by
  unfold noEnergy
  repeat' (first
      | with_reducible exact h | with_reducible refine keep_updClasp ?_ | with_reducible refine keep_flushAll ?_
      | with_reducible refine keep_groupCheck ?_ | with_reducible refine keep_updCmd ?_
      | with_reducible refine keep_abortGroup ?_ | with_reducible refine keep_releaseWait ?_
      | with_reducible refine keep_cmdFail ?_ | with_reducible refine keep_cnt ?_ ?_
      | with_reducible refine keep_ite ?_ ?_
      | (show dataIdx _ _; unfold dataIdx; (first | decide | (simp only [rgIdx, chIdx, tcIdx, lgIdx, ptIdx, kpIdx]; omega) | omega))
      | dsimp only | split)

theorem keep_rewriteCopy {d0 d : Dev} {c u i : Nat} {dies : List Nat} (h : Keep d0 d) :
    Keep d0 (rewriteCopy c u i dies d) := by
  unfold rewriteCopy
  split
  · exact h
  · dsimp only
    have h1 : ∀ k, Keep d0 (cnt 0x2403 0x0C (sysLeave k d)) := fun k => keep_cnt (keep_sysLeave h) (by unfold dataIdx; decide)
    split
    · exact keep_updClasp (keep_updCopy (h1 _))
    · next hr =>
      obtain ⟨a, -, ha⟩ := List.exists_of_findSome?_eq_some hr
      simp only [Option.map_eq_some_iff, Prod.mk.injEq] at ha
      obtain ⟨w, hw, -, rfl⟩ := ha
      exact keep_claspFeed (keep_updCopy (keep_sysTake (h1 _) hw))

theorem keep_retireSys {d0 d : Dev} {n : Nat} {b : Nat} {p : Nat} (h : Keep d0 d) : Keep d0 (retireSys n b p d) := by
  unfold retireSys
  with_reducible repeat' (first | exact h | refine keep_setBstate ?_ | refine keep_updSys ?_)

theorem keep_claspProgramEnd {d0 d : Dev} {c : Nat} {u : Nat} {i : Nat} {n : Nat} {b : Nat} {p : Nat} {ok : Bool}
    (h : Keep d0 d) : Keep d0 (claspProgramEnd c u i n b p ok d) := by
  unfold claspProgramEnd
  with_reducible repeat' (first
      | exact h | refine keep_updCopy ?_ | refine keep_rewriteCopy ?_ | refine keep_retireSys ?_
      | refine keep_ite ?_ ?_)

theorem keep_claspDieFailed {d0 d : Dev} {n : Nat} (h : Keep d0 d) : Keep d0 (claspDieFailed n d) := by
  unfold claspDieFailed
  repeat' (first
      | with_reducible exact h | with_reducible assumption | with_reducible refine keep_rewriteCopy ?_
      | with_reducible refine keep_sysLeave ?_ | with_reducible refine keep_setPairs ?_
      | with_reducible refine keep_updClasp ?_ | with_reducible refine keep_ite ?_ ?_
      | with_reducible refine keep_foldl _ ?_ (fun _ _ _ => ?_) | split)

theorem keep_sysErased {d0 d : Dev} {n : Nat} {b : Nat} {p : Nat} {ok : Bool} (h : Keep d0 d)
    : Keep d0 (sysErased n b p ok d) := by
  unfold sysErased
  with_reducible repeat' (first
      | exact h | refine keep_putRdCount ?_ | refine keep_updBlk ?_ | refine keep_updClasp ?_ | refine keep_updSys ?_
      | refine keep_retireSys ?_ | refine keep_ite ?_ ?_)

theorem keep_claspStart {d0 d : Dev} (h : Keep d0 d) : Keep d0 (claspStart d) := by
  unfold claspStart
  with_reducible repeat' (first
      | exact h | assumption | refine keep_setPairs ?_ | refine keep_updBlk ?_ | refine keep_updSys ?_
      | refine keep_foldl _ ?_ (fun _ _ _ => ?_))

theorem keep_eraseDirty {d0 d : Dev} (h : Keep d0 d) : Keep d0 (eraseDirty d) := by
  unfold eraseDirty
  with_reducible repeat' (first
      | exact h | assumption | refine keep_queueSysErase ?_ | refine keep_ite ?_ ?_
      | refine keep_foldl _ ?_ (fun _ _ _ => ?_))

theorem keep_ckptUnit {d0 d : Dev} {k : Ckpt} {r9 : Ckpt × Dev} (h : Keep d0 d) (e9 : ckptUnit k d = some r9) :
    Keep d0 r9.2 := by
  unfold ckptUnit at e9
  dsimp only at e9
  split at e9
  · cases e9
  · split at e9
    · cases e9
    · next hr =>
      obtain ⟨a, -, ha⟩ := List.exists_of_findSome?_eq_some hr
      simp only [Option.some.injEq] at e9
      subst e9
      exact keep_mkUnit (r9 := (_, _)) h ha

theorem keep_ckptGo {d0 d : Dev} (h : Keep d0 d) : Keep d0 (ckptGo d) := by
  unfold ckptGo
  repeat' (first
      | with_reducible exact h | with_reducible refine keep_ckptUnit (r9 := (_, _)) ?_ (by assumption)
      | with_reducible refine keep_claspFeed ?_ | with_reducible refine keep_updClasp ?_
      | with_reducible refine keep_countUnits ?_ | with_reducible refine keep_ite ?_ ?_ | split)

theorem soundk_ckptGo {d0 d : Dev} (h : Sound d0 d) : Sound d0 (ckptGo d) := h.trans (keep_ckptGo (Keep.refl d)).toSound

theorem keep_checkpointStart {d0 d : Dev} (h : Keep d0 d) : Keep d0 (checkpointStart d) := by
  unfold checkpointStart
  repeat' (first
      | with_reducible exact h | with_reducible refine keep_writeBackAll ?_ | with_reducible refine keep_ckptGo ?_
      | with_reducible refine keep_ckptUnit (r9 := (_, _)) ?_ (by assumption)
      | with_reducible refine keep_claspFeed ?_ | with_reducible refine keep_jAppend ?_
      | with_reducible refine keep_updClasp ?_ | with_reducible refine keep_countUnits ?_
      | with_reducible refine keep_ite ?_ ?_ | dsimp only | split)

theorem keep_checkpointEnd {d0 d : Dev} (h : Keep d0 d) : Keep d0 (checkpointEnd d) := by
  unfold checkpointEnd
  repeat' (first
      | with_reducible exact h | with_reducible refine keep_updClasp ?_ | with_reducible refine keep_jAppend ?_
      | with_reducible refine keep_ite ?_ ?_ | split)

end Sys2Proof.Machine
end

