-- ==== Sys2Proof/Laws/KeepRelocate.lean ====
section
/-! SUPPORT. What the functions of Machine/Relocate.lean leave alone (Laws/Keep.lean). -/

set_option linter.unusedTactic false
set_option linter.unreachableTactic false
set_option linter.unusedSimpArgs false

namespace Sys2Proof.Machine

theorem keep_updReloc {d0 d : Dev} {id : Nat} {f : Reloc → Reloc} (h : Keep d0 d) : Keep d0 (updReloc id f d) := by
  unfold updReloc
  with_reducible repeat' (first | exact h | refine keep_updLan ?_ (fun _ => rfl))

theorem keep_relocIntent {d0 d : Dev} {id : Nat} (h : Keep d0 d) : Keep d0 (relocIntent id d) := by
  unfold relocIntent
  repeat' (first
      | with_reducible exact h | with_reducible refine keep_jAppend ?_ | with_reducible refine keep_updClasp ?_
      | with_reducible refine keep_updReloc ?_ | dsimp only | split)

theorem keep_relocCopy {d0 d : Dev} {r : Reloc} {b : Band} {gran : Nat} {r9 : Dev} (h : Keep d0 d)
    (e9 : (relocCopy r b gran d) = some r9) : Keep d0 r9 := by
  unfold relocCopy at e9
  repeat' (first
      | split at e9
      | simp only [Option.map_eq_some_iff, Option.bind_eq_some_iff, Option.some.injEq, reduceCtorEq] at e9
      | (obtain ⟨_, _, e9⟩ := e9))
  all_goals (try subst e9)
  all_goals repeat' (first
      | with_reducible exact h | with_reducible refine keep_freshIdE (r9 := (_, _)) ?_ (by assumption)
      | with_reducible refine keep_updLan ?_ (fun _ => rfl) | with_reducible refine keep_addRead ?_
      | with_reducible refine keep_updReloc ?_ | with_reducible refine keep_reserveJob ?_ (by assumption))

theorem keep_relocCopies {d0 : Dev} {z0 : Nat} {z1 : Nat} : ∀ {d : Dev}, Keep d0 d → Keep d0 (relocCopies z0 z1 d) := by
  induction z1 with
  | zero => intro _ h; exact h
  | succ n ih =>
    intro d h
    unfold relocCopies
    repeat' (first
        | with_reducible refine ih ?_ | with_reducible exact h
        | with_reducible refine keep_relocCopy ?_ (by assumption) | with_reducible refine keep_updReloc ?_
        | with_reducible refine keep_ite ?_ ?_ | split)

theorem keep_reclaimMember {d0 d : Dev} {b : Band} {pos : Nat} (h : Keep d0 d) : Keep d0 (reclaimMember b pos d) := by
  unfold reclaimMember
  with_reducible repeat' (first
      | exact h | refine keep_setBstate ?_ | refine keep_queueErase ?_ | refine keep_ite ?_ ?_)

theorem keep_relocEnd {d0 d : Dev} {id : Nat} (h : Keep d0 d) : Keep d0 (relocEnd id d) := by
  unfold relocEnd
  repeat' (first
      | with_reducible exact h | with_reducible assumption | with_reducible refine keep_updLan ?_ (fun _ => rfl)
      | with_reducible refine keep_reclaimMember ?_ | with_reducible refine keep_closeBand ?_
      | with_reducible refine keep_cnt ?_ ?_ | with_reducible refine keep_ite ?_ ?_
      | with_reducible refine keep_foldl _ ?_ (fun _ _ _ => ?_)
      | (show dataIdx _ _; unfold dataIdx; (first | decide | (simp only [rgIdx, chIdx, tcIdx, lgIdx, ptIdx, kpIdx]; omega) | omega))
      | dsimp only | split)

theorem keep_relocGo {d0 d : Dev} {id : Nat} (h : Keep d0 d) : Keep d0 (relocGo id d) := by
  unfold relocGo
  repeat' (first
      | with_reducible exact h | with_reducible refine keep_relocCopies ?_ | with_reducible refine keep_updReloc ?_
      | with_reducible refine keep_jAppend ?_ | with_reducible refine keep_updClasp ?_
      | with_reducible refine keep_relocEnd ?_ | with_reducible refine keep_ite ?_ ?_ | dsimp only | split)

theorem keep_relocAll {d0 d : Dev} (h : Keep d0 d) : Keep d0 (relocAll d) := by
  unfold relocAll
  with_reducible repeat' (first
      | exact h | assumption | refine keep_relocGo ?_ | refine keep_foldl _ ?_ (fun _ _ _ => ?_))

theorem keep_relocationStart {d0 d : Dev} (h : Keep d0 d) : Keep d0 (relocationStart d) := by
  unfold relocationStart
  repeat' (first
      | with_reducible exact h | with_reducible assumption | with_reducible refine keep_updClasp ?_
      | with_reducible refine keep_updBand ?_ | with_reducible refine keep_updLan ?_ (fun _ => rfl)
      | with_reducible refine keep_relocIntent ?_ | with_reducible refine keep_setBstate ?_
      | with_reducible refine keep_ite ?_ ?_ | with_reducible refine keep_foldl _ ?_ (fun _ _ _ => ?_) | dsimp only
      | split)

theorem keep_switchOne {d0 d : Dev} {c : Nat × Nat × Nat × Nat} (h : Keep d0 d) : Keep d0 (switchOne c d) := by
  unfold switchOne
  repeat' (first
      | with_reducible exact h | with_reducible refine keep_jMap ?_ | with_reducible refine keep_dirtyEntry ?_
      | with_reducible refine keep_putMap ?_ | with_reducible refine keep_moveUnits ?_
      | with_reducible refine keep_ite ?_ ?_ | dsimp only | split)

theorem keep_relocSwitch {d0 d : Dev} {id : Nat} (h : Keep d0 d) : Keep d0 (relocSwitch id d) := by
  unfold relocSwitch
  repeat' (first
      | with_reducible exact h | with_reducible assumption | with_reducible refine keep_switchOne ?_
      | with_reducible refine keep_updClasp ?_ | with_reducible refine keep_updReloc ?_
      | with_reducible refine keep_relocIntent ?_ | with_reducible refine keep_relocEnd ?_
      | with_reducible refine keep_ite ?_ ?_ | with_reducible refine keep_foldl_fst _ ?_ (fun _ _ _ => ?_)
      | dsimp only | split)

end Sys2Proof.Machine
end

