-- ==== Sys2Proof/Laws/KeepRawPath.lean ====
section
/-! SUPPORT. What the functions of Machine/RawPath.lean leave alone (Laws/Keep.lean). -/

set_option linter.unusedTactic false
set_option linter.unreachableTactic false
set_option linter.unusedSimpArgs false

namespace Sys2Proof.Machine

theorem keep_rawLockUp {d0 d : Dev} (h : Keep d0 d) : Keep d0 (rawLockUp d) := by
  unfold rawLockUp
  repeat' (first
      | with_reducible exact h | with_reducible refine keep_sbFree ?_ | with_reducible refine keep_ite ?_ ?_
      | dsimp only
      | fail_if_no_progress (with_reducible refine keep_mk ?_ ?_ <;> [skip; first | rfl | simp_all only]))

theorem soundk_rawLockUp {d0 d : Dev} (h : Sound d0 d) : Sound d0 (rawLockUp d) :=
    h.trans (keep_rawLockUp (Keep.refl d)).toSound

theorem keep_rawUnlock {d0 d : Dev} {m : Nat} {v : Nat} (h : Keep d0 d) : Keep d0 (rawUnlock m v d) := by
  unfold rawUnlock
  repeat' (first
      | with_reducible exact h | with_reducible refine keep_rawLockUp ?_ | with_reducible refine keep_cnt ?_ ?_
      | with_reducible refine keep_ite ?_ ?_
      | (show dataIdx _ _; unfold dataIdx; (first | decide | (simp only [rgIdx, chIdx, tcIdx, lgIdx, ptIdx, kpIdx]; omega) | omega))
      | dsimp only | split
      | fail_if_no_progress (with_reducible refine keep_mk ?_ ?_ <;> [skip; first | rfl | simp_all only]))

theorem soundk_rawUnlock {d0 d : Dev} {m : Nat} {v : Nat} (h : Sound d0 d) : Sound d0 (rawUnlock m v d) :=
    h.trans (keep_rawUnlock (Keep.refl d)).toSound

theorem keep_rawDecoded {d0 d : Dev} {q : RawReq} (h : Keep d0 d) : Keep d0 (rawDecoded q d) := by
  unfold rawDecoded
  with_reducible repeat' (first
      | exact h | refine keep_rawEnd ?_ | refine keep_addRead ?_ | refine keep_issueRead ?_ | refine keep_updRjob ?_
      | refine keep_ite ?_ ?_)

theorem keep_rawQueue {d0 d : Dev} (h : Keep d0 d) : Keep d0 (rawQueue d) := by
  unfold rawQueue
  repeat' (first
      | with_reducible exact h | with_reducible refine keep_rawEnd ?_ | with_reducible refine keep_rawDecoded ?_
      | with_reducible refine keep_enqueue ?_ | with_reducible refine keep_ite ?_ ?_ | dsimp only | split
      | fail_if_no_progress (with_reducible refine keep_mk ?_ ?_ <;> [skip; first | rfl | simp_all only]))
  all_goals
    rename_i e9
    split at e9
    · cases e9
      exact h
    · simp only [Option.map_eq_some_iff] at e9
      obtain ⟨w, hw, rfl⟩ := e9
      exact keep_mk (keep_sbAlloc h hw) rfl

theorem keep_rawGate {d0 d : Dev} (h : Keep d0 d) : Keep d0 (rawGate d) := by
  unfold rawGate
  repeat' (first
      | with_reducible exact h | with_reducible refine keep_rawEnd ?_ | with_reducible refine keep_dropEnt ?_
      | with_reducible refine keep_updEnt ?_ | with_reducible refine keep_kick ?_
      | with_reducible refine keep_setBstate ?_ | with_reducible refine keep_ite ?_ ?_ | dsimp only | split)

theorem keep_rawTake {d0 d : Dev} (h : Keep d0 d) : Keep d0 (rawTake d) := by
  unfold rawTake
  repeat' (first
      | with_reducible exact h | dsimp only | split
      | fail_if_no_progress (with_reducible refine keep_mk ?_ ?_ <;> [skip; first | rfl | simp_all only]))

theorem keep_rawFeed {d0 d : Dev} (h : Keep d0 d) : Keep d0 (rawFeed d) := by
  unfold rawFeed
  with_reducible repeat' (first
      | exact h | refine keep_rawGate ?_ | refine keep_rawQueue ?_ | refine keep_rawTake ?_ | refine keep_rawLockUp ?_
      | refine keep_ite ?_ ?_)

theorem keep_rawStart {d0 d : Dev} {op : Nat} {q : RawReq} {bs : Bytes} (h : Keep d0 d)
    : Keep d0 (rawStart op q bs d) := by
  unfold rawStart
  repeat' (first
      | with_reducible exact h | with_reducible refine keep_rawFeed ?_ | dsimp only
      | fail_if_no_progress (with_reducible refine keep_mk ?_ ?_ <;> [skip; first | rfl | simp_all only]))

theorem keep_rawOd {d0 d : Dev} {m : Nat} {word : Nat} (h : Keep d0 d) : Keep d0 (rawOd m word d) := by
  unfold rawOd
  repeat' (first
      | with_reducible exact h | with_reducible refine keep_rawStart ?_ | with_reducible refine keep_put ?_ ?_
      | (show dataIdx _ _; unfold dataIdx; (first | decide | (simp only [rgIdx, chIdx, tcIdx, lgIdx, ptIdx, kpIdx]; omega) | omega)))

theorem soundk_rawOd {d0 d : Dev} {m : Nat} {word : Nat} (h : Sound d0 d) : Sound d0 (rawOd m word d) :=
    h.trans (keep_rawOd (Keep.refl d)).toSound

theorem keep_rawData {d0 d : Dev} {tag : Nat} {bs : Bytes} (h : Keep d0 d) : Keep d0 (rawData tag bs d) := by
  unfold rawData
  repeat' (first
      | with_reducible exact h | with_reducible refine keep_rawFeed ?_ | with_reducible refine keep_ite ?_ ?_
      | dsimp only | split
      | fail_if_no_progress (with_reducible refine keep_mk ?_ ?_ <;> [skip; first | rfl | simp_all only]))

theorem keep_rawCmd {d0 d : Dev} {tag : Nat} {c : Cmd} (h : Keep d0 d) : Keep d0 (rawCmd tag c d) := by
  unfold rawCmd
  with_reducible repeat' (first
      | exact h | refine keep_cmdCheck ?_ | refine keep_cmdFail ?_ | refine keep_updCmd ?_ | refine keep_ite ?_ ?_)

theorem keep_rawRing {d0 d : Dev} {op : Nat} {tag : Nat} (h : Keep d0 d) : Keep d0 (rawRing op tag d) := by
  unfold rawRing
  repeat' (first
      | with_reducible exact h | with_reducible refine keep_rawStart ?_ | with_reducible refine keep_updCmd ?_
      | with_reducible refine keep_ite ?_ ?_ | split)

end Sys2Proof.Machine
end

