-- ==== Sys2Proof/Laws/KeepBus.lean ====
section
/-! SUPPORT. What the functions of Machine/Bus.lean leave alone (Laws/Keep.lean). -/

set_option linter.unusedTactic false
set_option linter.unreachableTactic false
set_option linter.unusedSimpArgs false

namespace Sys2Proof.Machine

theorem keep_newMean {d0 d : Dev} {n : Nat} {i : Nat} {us : Nat} (h : Keep d0 d) : Keep d0 (newMean n i us d) := by
  unfold newMean
  with_reducible repeat' (first | exact h | refine keep_updDie ?_)

theorem keep_chargeOp {d0 d : Dev} {n : Nat} {kind : Nat} {e : BEnt} (h : Keep d0 d) : Keep d0 (chargeOp n kind e d)
    := by
  unfold chargeOp
  with_reducible repeat' (first | exact h | refine keep_chargeDie ?_)

theorem keep_moveBytes {d0 d : Dev} {n : Nat} {cws : List Bytes} (h : Keep d0 d) : Keep d0 (moveBytes n cws d) := by
  unfold moveBytes
  with_reducible repeat' (first | exact h | refine keep_chargeXfer ?_)

theorem keep_dutyRest {d0 d : Dev} {ch : Nat} (h : Keep d0 d) : Keep d0 (dutyRest ch d) := by
  unfold dutyRest
  with_reducible repeat' (first | exact h | refine keep_updChan ?_ | refine keep_ite ?_ ?_)

theorem keep_readOnFailed {d0 d : Dev} {n : Nat} {id : Nat} (h : Keep d0 d) : Keep d0 (readOnFailed n id d) := by
  unfold readOnFailed
  repeat' (first
      | with_reducible exact h | with_reducible refine keep_updChan ?_ | with_reducible refine keep_goAround ?_
      | with_reducible refine keep_unitBad ?_ | with_reducible refine keep_ite ?_ ?_ | dsimp only | split)

theorem keep_failEnt {d0 d : Dev} {n : Nat} {e : BEnt} (h : Keep d0 d) : Keep d0 (failEnt n e d) := by
  unfold failEnt
  repeat' (first
      | with_reducible exact h | with_reducible assumption | with_reducible refine keep_readOnFailed ?_
      | with_reducible refine keep_rawEnd ?_ | with_reducible refine keep_foldl _ ?_ (fun _ _ _ => ?_) | dsimp only
      | split | fail_if_no_progress (with_reducible refine keep_mk ?_ ?_ <;> [skip; first | rfl | simp_all only]))

theorem keep_endMulti {d0 d : Dev} {n : Nat} (h : Keep d0 d) : Keep d0 (endMulti n d) := by
  unfold endMulti
  with_reducible repeat' (first | exact h | refine keep_updChan ?_)

theorem keep_markFailed {d0 d : Dev} {n : Nat} {b : Bool} (h : Keep d0 d) : Keep d0 (markFailed n b d) := by
  unfold markFailed
  with_reducible repeat' (first | exact h | refine keep_putB ?_)

theorem keep_dieDown {d0 d : Dev} {n : Nat} (h : Keep d0 d) : Keep d0 (dieDown n d) := by
  unfold dieDown
  repeat' (first
      | with_reducible exact h | with_reducible assumption | with_reducible refine keep_markFailed ?_
      | with_reducible refine keep_endMulti ?_ | with_reducible refine keep_updDie ?_
      | with_reducible refine keep_updClasp ?_ | with_reducible refine keep_claspDieFailed ?_
      | with_reducible refine keep_dieFailedBands ?_ | with_reducible refine keep_failEnt ?_
      | with_reducible refine keep_feedBands ?_ | with_reducible refine keep_readOnFailed ?_
      | with_reducible refine keep_failedUnit ?_ | with_reducible refine keep_cnt ?_ ?_
      | with_reducible refine keep_foldl _ ?_ (fun _ _ _ => ?_)
      | (show dataIdx _ _; unfold dataIdx; (first | decide | (simp only [rgIdx, chIdx, tcIdx, lgIdx, ptIdx, kpIdx]; omega) | omega)))

theorem keep_dieFail {d0 d : Dev} {n : Nat} {cause : Nat} (h : Keep d0 d) : Keep d0 (dieFail n cause d) := by
  unfold dieFail
  with_reducible repeat' (first | exact h | refine keep_dieDown ?_ | refine keep_fault ?_)

theorem keep_nandUnits {d0 d : Dev} {e : BEnt} (h : Keep d0 d) : Keep d0 (nandUnits e d) := by
  unfold nandUnits
  repeat' (first
      | with_reducible exact h | with_reducible refine keep_cntN ?_ ?_
      | (show dataIdx _ _; unfold dataIdx; (first | decide | (simp only [rgIdx, chIdx, tcIdx, lgIdx, ptIdx, kpIdx]; omega) | omega)))

theorem keep_progPassed {d0 d : Dev} {n : Nat} {e : BEnt} (h : Keep d0 d) : Keep d0 (progPassed n e d) := by
  unfold progPassed
  repeat' (first
      | with_reducible exact h | with_reducible refine keep_nandUnits ?_ | with_reducible refine keep_jBlock ?_
      | with_reducible refine keep_slotPassed ?_ | with_reducible refine keep_updRow ?_
      | with_reducible refine keep_ckptGo ?_ | with_reducible refine keep_claspProgramEnd ?_
      | with_reducible refine keep_ite ?_ ?_ | dsimp only | split)

theorem keep_progFailed {d0 d : Dev} {n : Nat} {e : BEnt} (h : Keep d0 d) : Keep d0 (progFailed n e d) := by
  unfold progFailed
  repeat' (first
      | with_reducible exact h | with_reducible refine keep_dropSlotEnts ?_ | with_reducible refine keep_cutSlots ?_
      | with_reducible refine keep_updRow ?_ | with_reducible refine keep_claspProgramEnd ?_ | split)

theorem keep_progEnd {d0 d : Dev} {n : Nat} {s : Nat} {fail : Bool} {st : Byte} {us : Nat} (h : Keep d0 d)
    : Keep d0 (progEnd n s fail st us d) := by
  unfold progEnd
  repeat' (first
      | with_reducible exact h | with_reducible refine keep_chargeOp ?_ | with_reducible refine keep_newMean ?_
      | with_reducible refine keep_dropEnt ?_ | with_reducible refine keep_rawEnd ?_
      | with_reducible refine keep_progFailed ?_ | with_reducible refine keep_progPassed ?_
      | with_reducible refine keep_cnt ?_ ?_ | with_reducible refine keep_ite ?_ ?_
      | (show dataIdx _ _; unfold dataIdx; (first | decide | (simp only [rgIdx, chIdx, tcIdx, lgIdx, ptIdx, kpIdx]; omega) | omega))
      | dsimp only | split)

theorem keep_eraseResult {d0 d : Dev} {n : Nat} {e : BEnt} {ok : Bool} (h : Keep d0 d)
    : Keep d0 (eraseResult n e ok d) := by
  unfold eraseResult
  repeat' (first
      | with_reducible exact h | with_reducible refine keep_updClasp ?_ | with_reducible refine keep_jAppend ?_
      | with_reducible refine keep_sysErased ?_ | with_reducible refine keep_updDie ?_
      | with_reducible refine keep_setBstate ?_ | with_reducible refine keep_putRdCount ?_
      | with_reducible refine keep_updBlk ?_ | with_reducible refine keep_ite ?_ ?_ | dsimp only | split)

theorem keep_eraseEnd {d0 d : Dev} {n : Nat} {s : Nat} {fail : Bool} {st : Byte} {us : Nat} (h : Keep d0 d)
    : Keep d0 (eraseEnd n s fail st us d) := by
  unfold eraseEnd
  repeat' (first
      | with_reducible exact h | with_reducible refine keep_chargeOp ?_ | with_reducible refine keep_newMean ?_
      | with_reducible refine keep_dropEnt ?_ | with_reducible refine keep_rawEnd ?_
      | with_reducible refine keep_updDie ?_ | with_reducible refine keep_claspFeed ?_
      | with_reducible refine keep_eraseResult ?_ | with_reducible refine keep_cnt ?_ ?_
      | with_reducible refine keep_ite ?_ ?_
      | (show dataIdx _ _; unfold dataIdx; (first | decide | (simp only [rgIdx, chIdx, tcIdx, lgIdx, ptIdx, kpIdx]; omega) | omega))
      | dsimp only | split)

theorem keep_readReady {d0 d : Dev} {n : Nat} {e : BEnt} {fail : Bool} {us : Nat} (h : Keep d0 d)
    : Keep d0 (readReady n e fail us d) := by
  unfold readReady
  repeat' (first
      | with_reducible exact h | with_reducible refine keep_putRdCount ?_
      | with_reducible refine keep_updLan ?_ (fun _ => rfl) | with_reducible refine keep_updDie ?_
      | with_reducible refine keep_chargeOp ?_ | with_reducible refine keep_newMean ?_
      | with_reducible refine keep_cnt ?_ ?_ | with_reducible refine keep_ite ?_ ?_
      | (show dataIdx _ _; unfold dataIdx; (first | decide | (simp only [rgIdx, chIdx, tcIdx, lgIdx, ptIdx, kpIdx]; omega) | omega))
      | split)

theorem keep_putCw {d0 d : Dev} {ch : Nat} {rid : Nat} {slot : Nat} {bs : Bytes} (h : Keep d0 d)
    : Keep d0 (putCw ch rid slot bs d) := by
  unfold putCw
  repeat' (first | with_reducible exact h | with_reducible refine keep_updChan ?_ | dsimp only | split)

theorem keep_planeData {d0 d : Dev} {ch : Nat} {e : BEnt} {plane : Nat} {cws : List Bytes} (h : Keep d0 d)
    : Keep d0 (planeData ch e plane cws d) := by
  unfold planeData
  repeat' (first
      | with_reducible exact h | with_reducible assumption | with_reducible refine keep_putCw ?_
      | with_reducible refine keep_reread ?_ | with_reducible refine keep_ite ?_ ?_
      | with_reducible refine keep_foldl _ ?_ (fun _ _ _ => ?_) | dsimp only | split
      | fail_if_no_progress (with_reducible refine keep_mk ?_ ?_ <;> [skip; first | rfl | simp_all only]))

theorem keep_readDone {d0 d : Dev} {n : Nat} {s : Nat} (h : Keep d0 d) : Keep d0 (readDone n s d) := by
  unfold readDone
  repeat' (first
      | with_reducible exact h | with_reducible assumption | with_reducible refine keep_dropEnt ?_
      | with_reducible refine keep_updDie ?_ | with_reducible refine keep_rawEnd ?_
      | with_reducible refine keep_reread ?_ | with_reducible refine keep_foldl _ ?_ (fun _ _ _ => ?_) | dsimp only
      | split)

theorem keep_expire {d0 d : Dev} {n : Nat} {op : Nat} (h : Keep d0 d) : Keep d0 (expire n op d) := by
  unfold expire
  repeat' (first
      | with_reducible exact h | with_reducible refine keep_endMulti ?_ | with_reducible refine keep_updDie ?_
      | with_reducible refine keep_cnt ?_ ?_
      | (show dataIdx _ _; unfold dataIdx; (first | decide | (simp only [rgIdx, chIdx, tcIdx, lgIdx, ptIdx, kpIdx]; omega) | omega)))

theorem keep_readExpired {d0 d : Dev} {n : Nat} {e : BEnt} (h : Keep d0 d) : Keep d0 (readExpired n e d) := by
  unfold readExpired
  repeat' (first
      | with_reducible exact h | with_reducible assumption | with_reducible refine keep_rawEnd ?_
      | with_reducible refine keep_dropEnt ?_ | with_reducible refine keep_updDie ?_
      | with_reducible refine keep_updEnt ?_ | with_reducible refine keep_attemptLost ?_
      | with_reducible refine keep_ite ?_ ?_ | with_reducible refine keep_foldl _ ?_ (fun _ _ _ => ?_) | split)

theorem keep_progExpired {d0 d : Dev} {n : Nat} {s : Nat} (h : Keep d0 d) : Keep d0 (progExpired n s d) := by
  unfold progExpired
  repeat' (first
      | with_reducible exact h | with_reducible refine keep_dropEnt ?_ | with_reducible refine keep_rawEnd ?_
      | with_reducible refine keep_progFailed ?_ | with_reducible refine keep_ite ?_ ?_ | dsimp only | split)

theorem keep_eraseExpired {d0 d : Dev} {n : Nat} {s : Nat} (h : Keep d0 d) : Keep d0 (eraseExpired n s d) := by
  unfold eraseExpired
  repeat' (first
      | with_reducible exact h | with_reducible refine keep_dropEnt ?_ | with_reducible refine keep_rawEnd ?_
      | with_reducible refine keep_updClasp ?_ | with_reducible refine keep_retireSys ?_
      | with_reducible refine keep_queueSysErase ?_ | with_reducible refine keep_updBlk ?_
      | with_reducible refine keep_setBstate ?_ | with_reducible refine keep_queueErase ?_
      | with_reducible refine keep_ite ?_ ?_ | dsimp only | split)

theorem keep_readTimeout {d0 d : Dev} {n : Nat} {e : BEnt} (h : Keep d0 d) : Keep d0 (readTimeout n e d) := by
  unfold readTimeout
  repeat' (first
      | with_reducible exact h | with_reducible refine keep_readExpired ?_ | with_reducible refine keep_expire ?_
      | with_reducible refine keep_eraseExpired ?_ | with_reducible refine keep_updDie ?_
      | with_reducible refine keep_ite ?_ ?_ | split)

theorem keep_dataOutEnd {d0 d : Dev} {ch : Nat} {n : Nat} {plane : Nat} {r : BurstResult} (h : Keep d0 d)
    : Keep d0 (dataOutEnd ch n plane r d) := by
  unfold dataOutEnd
  repeat' (first
      | with_reducible exact h | with_reducible refine keep_wantTrain ?_ | with_reducible refine keep_updDie ?_
      | with_reducible refine keep_readTimeout ?_ | with_reducible refine keep_updChan ?_
      | with_reducible refine keep_moveBytes ?_ | with_reducible refine keep_dutyRest ?_
      | with_reducible refine keep_planeData ?_ | with_reducible refine keep_send ?_
      | with_reducible refine keep_readDone ?_ | with_reducible refine keep_cnt ?_ ?_
      | with_reducible refine keep_ite ?_ ?_
      | (show dataIdx _ _; unfold dataIdx; (first | decide | (simp only [rgIdx, chIdx, tcIdx, lgIdx, ptIdx, kpIdx]; omega) | omega))
      | dsimp only | split)

theorem keep_claspPayload {d0 d : Dev} {s : CwSrc} (h : Keep d0 d) : Keep d0 (claspPayload s d).2 := by
  unfold claspPayload
  repeat' (first | with_reducible exact h | with_reducible refine keep_updLan ?_ (fun _ => rfl) | dsimp only | split)

theorem keep_claspPayloadE {d0 d : Dev} {s : CwSrc} {r9 : Bytes × Dev} (h : Keep d0 d) (e9 : (claspPayload s d) = r9)
    : Keep d0 r9.2 := e9 ▸ keep_claspPayload h

theorem keep_planePayloads {d0 d : Dev} {e : BEnt} {plane : Nat} (h : Keep d0 d)
    : Keep d0 (planePayloads e plane d).2 := by
  unfold planePayloads
  repeat' (first
      | with_reducible exact h | with_reducible assumption | with_reducible refine keep_driveSlot ?_
      | with_reducible refine keep_driveParity ?_ | with_reducible refine keep_claspPayload ?_
      | with_reducible refine keep_cntN ?_ ?_ | with_reducible refine keep_ite ?_ ?_
      | with_reducible refine keep_foldl_snd _ ?_ (fun _ _ _ => ?_)
      | (show dataIdx _ _; unfold dataIdx; (first | decide | (simp only [rgIdx, chIdx, tcIdx, lgIdx, ptIdx, kpIdx]; omega) | omega))
      | dsimp only | split)

theorem keep_planePayloadsE {d0 d : Dev} {e : BEnt} {plane : Nat} {r9 : Option (List Bytes) × Dev} (h : Keep d0 d)
    (e9 : (planePayloads e plane d) = r9) : Keep d0 r9.2 := e9 ▸ keep_planePayloads h

theorem keep_planeBytes {d0 d : Dev} {n : Nat} {e : BEnt} {plane : Nat} (h : Keep d0 d)
    : Keep d0 (planeBytes n e plane d).2 := by
  unfold planeBytes
  repeat' (first | with_reducible exact h | with_reducible refine keep_planePayloads ?_ | dsimp only | split)

theorem keep_planeBytesE {d0 d : Dev} {n : Nat} {e : BEnt} {plane : Nat} {r9 : Option Bytes × Dev} (h : Keep d0 d)
    (e9 : (planeBytes n e plane d) = r9) : Keep d0 r9.2 := e9 ▸ keep_planeBytes h

theorem keep_unissue {d0 d : Dev} {n : Nat} {e : BEnt} (h : Keep d0 d) : Keep d0 (unissue n e d) := by
  unfold unissue
  with_reducible repeat' (first | exact h | refine keep_endMulti ?_ | refine keep_updEnt ?_ | refine keep_updDie ?_)

theorem keep_dataInEnd {d0 d : Dev} {ch : Nat} {n : Nat} {plane : Nat} (h : Keep d0 d)
    : Keep d0 (dataInEnd ch n plane d) := by
  unfold dataInEnd
  repeat' (first
      | with_reducible exact h | with_reducible refine keep_planeBytes ?_ | with_reducible refine keep_unissue ?_
      | with_reducible refine keep_updChan ?_ | with_reducible refine keep_send ?_
      | with_reducible refine keep_moveBytes ?_ | with_reducible refine keep_updDie ?_
      | with_reducible refine keep_updEnt ?_ | with_reducible refine keep_dutyRest ?_
      | with_reducible refine keep_ite ?_ ?_ | dsimp only | split)

theorem keep_noteProgram {d0 d : Dev} {n : Nat} {e : BEnt} (h : Keep d0 d) : Keep d0 (noteProgram n e d) := by
  unfold noteProgram
  with_reducible repeat' (first | exact h | refine keep_updBlk ?_)

theorem keep_confirmEnd {d0 d : Dev} {n : Nat} (h : Keep d0 d) : Keep d0 (confirmEnd n d) := by
  unfold confirmEnd
  repeat' (first
      | with_reducible exact h | with_reducible refine keep_rbLow ?_ | with_reducible refine keep_endMulti ?_
      | with_reducible refine keep_updEnt ?_ | with_reducible refine keep_updDie ?_
      | with_reducible refine keep_noteProgram ?_ | with_reducible refine keep_updSlot ?_
      | with_reducible refine keep_ite ?_ ?_ | dsimp only | split)

theorem keep_readCmdEnd {d0 d : Dev} {n : Nat} (h : Keep d0 d) : Keep d0 (readCmdEnd n d) := by
  unfold readCmdEnd
  with_reducible repeat' (first | exact h | refine keep_rbLow ?_ | refine keep_updDie ?_)

theorem keep_eraseCmdEnd {d0 d : Dev} {n : Nat} (h : Keep d0 d) : Keep d0 (eraseCmdEnd n d) := by
  unfold eraseCmdEnd
  with_reducible repeat' (first | exact h | refine keep_rbLow ?_ | refine keep_updDie ?_)

theorem keep_progCmdEnd {d0 d : Dev} {n : Nat} {e : BEnt} (h : Keep d0 d) : Keep d0 (progCmdEnd n e d) := by
  unfold progCmdEnd
  with_reducible repeat' (first | exact h | refine keep_updDie ?_)

theorem keep_rawCmdEnd {d0 d : Dev} {n : Nat} {e : BEnt} {r : BurstResult} (h : Keep d0 d)
    : Keep d0 (rawCmdEnd n e r d) := by
  unfold rawCmdEnd
  repeat' (first
      | with_reducible exact h | with_reducible refine keep_dropEnt ?_ | with_reducible refine keep_updDie ?_
      | with_reducible refine keep_readCmdEnd ?_ | with_reducible refine keep_eraseCmdEnd ?_
      | with_reducible refine keep_rawEnd ?_ | dsimp only | split
      | fail_if_no_progress (with_reducible refine keep_mk ?_ ?_ <;> [skip; first | rfl | simp_all only]))

theorem keep_otherCmdEnd {d0 d : Dev} {n : Nat} {r : BurstResult} (h : Keep d0 d) : Keep d0 (otherCmdEnd n r d) := by
  unfold otherCmdEnd
  repeat' (first
      | with_reducible exact h | with_reducible refine keep_eraseCmdEnd ?_ | with_reducible refine keep_readCmdEnd ?_
      | with_reducible refine keep_rawCmdEnd ?_ | with_reducible refine keep_ite ?_ ?_ | split)

theorem keep_resetEnd {d0 d : Dev} {n : Nat} (h : Keep d0 d) : Keep d0 (resetEnd n d) := by
  unfold resetEnd
  repeat' (first
      | with_reducible exact h | with_reducible refine keep_updDie ?_ | with_reducible refine keep_dieFail ?_
      | with_reducible refine keep_rawEnd ?_ | with_reducible refine keep_dropEnt ?_
      | with_reducible refine keep_putB ?_ | with_reducible refine keep_ite ?_ ?_ | dsimp only | split)

theorem keep_dieReady {d0 d : Dev} {n : Nat} {st : Byte} {us : Nat} (h : Keep d0 d) : Keep d0 (dieReady n st us d) := by
  unfold dieReady
  repeat' (first
      | with_reducible exact h | with_reducible refine keep_readReady ?_ | with_reducible refine keep_updDie ?_
      | with_reducible refine keep_eraseEnd ?_ | with_reducible refine keep_progEnd ?_
      | with_reducible refine keep_updEnt ?_ | with_reducible refine keep_resetEnd ?_
      | with_reducible refine keep_cnt ?_ ?_ | with_reducible refine keep_ite ?_ ?_
      | (show dataIdx _ _; unfold dataIdx; (first | decide | (simp only [rgIdx, chIdx, tcIdx, lgIdx, ptIdx, kpIdx]; omega) | omega))
      | dsimp only | split
      | fail_if_no_progress (with_reducible refine keep_mk ?_ ?_ <;> [skip; first | rfl | simp_all only]))

theorem keep_statusEnd {d0 d : Dev} {n : Nat} {r : BurstResult} (h : Keep d0 d) : Keep d0 (statusEnd n r d) := by
  unfold statusEnd
  repeat' (first
      | with_reducible exact h | with_reducible refine keep_updDie ?_ | with_reducible refine keep_dieReady ?_
      | with_reducible refine keep_cnt ?_ ?_ | with_reducible refine keep_ite ?_ ?_
      | (show dataIdx _ _; unfold dataIdx; (first | decide | (simp only [rgIdx, chIdx, tcIdx, lgIdx, ptIdx, kpIdx]; omega) | omega)))

theorem keep_afterBurst {d0 d : Dev} (h : Keep d0 d) : Keep d0 (afterBurst d) := by
  unfold afterBurst
  with_reducible repeat' (first
      | exact h | refine keep_rawFeed ?_ | refine keep_claspFeed ?_ | refine keep_relocAll ?_
      | refine keep_feedBands ?_ | refine keep_finishJobs ?_)

theorem keep_heldBurst {d0 d : Dev} {n : Nat} (h : Keep d0 d) : Keep d0 (heldBurst n d) := by
  unfold heldBurst
  repeat' (first
      | with_reducible exact h | with_reducible refine keep_unissue ?_ | with_reducible refine keep_ite ?_ ?_ | split)

theorem keep_burstEffect {d0 d : Dev} {ch : Nat} {b : Burst} {r : BurstResult} (h : Keep d0 d)
    : Keep d0 (burstEffect ch b r d) := by
  unfold burstEffect
  repeat' (first
      | with_reducible exact h | with_reducible refine keep_heldBurst ?_ | with_reducible refine keep_statusEnd ?_
      | with_reducible refine keep_dataOutEnd ?_ | with_reducible refine keep_updDie ?_
      | with_reducible refine keep_readCmdEnd ?_ | with_reducible refine keep_progCmdEnd ?_
      | with_reducible refine keep_dataInEnd ?_ | with_reducible refine keep_confirmEnd ?_
      | with_reducible refine keep_otherCmdEnd ?_ | with_reducible refine keep_updChan ?_
      | with_reducible refine keep_rbLow ?_ | with_reducible refine keep_cnt ?_ ?_
      | with_reducible refine keep_ite ?_ ?_
      | (show dataIdx _ _; unfold dataIdx; (first | decide | (simp only [rgIdx, chIdx, tcIdx, lgIdx, ptIdx, kpIdx]; omega) | omega))
      | dsimp only | split)

theorem keep_burstEnd {d0 d : Dev} {ch : Nat} {r : BurstResult} (h : Keep d0 d) : Keep d0 (burstEnd ch r d) := by
  unfold burstEnd
  repeat' (first
      | with_reducible exact h | with_reducible refine keep_sendVia ?_ | with_reducible refine keep_updChan ?_
      | with_reducible refine keep_seqStop ?_ | with_reducible refine keep_kickAll ?_
      | with_reducible refine keep_afterBurst ?_ | with_reducible refine keep_burstEffect ?_
      | with_reducible refine keep_cntN ?_ ?_
      | (show dataIdx _ _; unfold dataIdx; (first | decide | (simp only [rgIdx, chIdx, tcIdx, lgIdx, ptIdx, kpIdx]; omega) | omega))
      | dsimp only | split)

theorem keep_dieTimeout {d0 d : Dev} {ch : Nat} {k : Nat} (h : Keep d0 d) : Keep d0 (dieTimeout ch k d) := by
  unfold dieTimeout
  repeat' (first
      | with_reducible exact h | with_reducible refine keep_kickAll ?_ | with_reducible refine keep_afterBurst ?_
      | with_reducible refine keep_readTimeout ?_ | with_reducible refine keep_updDie ?_
      | with_reducible refine keep_expire ?_ | with_reducible refine keep_progExpired ?_
      | with_reducible refine keep_eraseExpired ?_ | with_reducible refine keep_rawEnd ?_
      | with_reducible refine keep_dropEnt ?_ | with_reducible refine keep_dieFail ?_
      | with_reducible refine keep_cnt ?_ ?_ | with_reducible refine keep_ite ?_ ?_
      | (show dataIdx _ _; unfold dataIdx; (first | decide | (simp only [rgIdx, chIdx, tcIdx, lgIdx, ptIdx, kpIdx]; omega) | omega))
      | dsimp only | split
      | fail_if_no_progress (with_reducible refine keep_mk ?_ ?_ <;> [skip; first | rfl | simp_all only]))

theorem keep_suspendTimeout {d0 d : Dev} {ch : Nat} {k : Nat} (h : Keep d0 d) : Keep d0 (suspendTimeout ch k d) := by
  unfold suspendTimeout
  repeat' (first
      | with_reducible exact h | with_reducible refine keep_kick ?_ | with_reducible refine keep_updDie ?_
      | with_reducible refine keep_cnt ?_ ?_ | with_reducible refine keep_ite ?_ ?_
      | (show dataIdx _ _; unfold dataIdx; (first | decide | (simp only [rgIdx, chIdx, tcIdx, lgIdx, ptIdx, kpIdx]; omega) | omega)))

theorem keep_dieTempReading {d0 d : Dev} {n : Nat} {r : Option Byte} (h : Keep d0 d) : Keep d0 (dieTempReading n r d)
    := by
  unfold dieTempReading
  repeat' (first
      | with_reducible exact h | with_reducible refine keep_updDie ?_ | with_reducible refine keep_dropEnt ?_
      | with_reducible refine keep_kickAll ?_ | with_reducible refine keep_afterBurst ?_
      | with_reducible refine keep_cnt ?_ ?_ | with_reducible refine keep_ite ?_ ?_
      | (show dataIdx _ _; unfold dataIdx; (first | decide | (simp only [rgIdx, chIdx, tcIdx, lgIdx, ptIdx, kpIdx]; omega) | omega))
      | dsimp only | split
      | fail_if_no_progress (with_reducible refine keep_mk ?_ ?_ <;> [skip; first | rfl | simp_all only]))

end Sys2Proof.Machine
end

