-- ==== Sys2Proof/Laws/KeepTender.lean ====
section
/-! SUPPORT. What the functions of Machine/Tender.lean leave alone (Laws/Keep.lean). -/

set_option linter.unusedTactic false
set_option linter.unreachableTactic false
set_option linter.unusedSimpArgs false

namespace Sys2Proof.Machine

theorem keep_updTch {d0 d : Dev} {n : Nat} {f : TCh → TCh} (h : Keep d0 d) : Keep d0 (updTch n f d) := by
  unfold updTch
  repeat' (first
      | with_reducible exact h | dsimp only
      | fail_if_no_progress (with_reducible refine keep_mk ?_ ?_ <;> [skip; first | rfl | simp_all only]))

theorem keep_putChState {d0 d : Dev} {n : Nat} {v : Nat} (h : Keep d0 d) : Keep d0 (putChState n v d) := by
  unfold putChState
  repeat' (first
      | with_reducible exact h | with_reducible refine keep_put ?_ ?_
      | (show dataIdx _ _; unfold dataIdx; (first | decide | (simp only [rgIdx, chIdx, tcIdx, lgIdx, ptIdx, kpIdx]; omega) | omega)))

theorem keep_moved {d0 d : Dev} {n : Nat} {k : Nat} (h : Keep d0 d) : Keep d0 (moved n k d) := by
  unfold moved
  repeat' (first
      | with_reducible exact h | with_reducible refine keep_cntN ?_ ?_
      | (show dataIdx _ _; unfold dataIdx; (first | decide | (simp only [rgIdx, chIdx, tcIdx, lgIdx, ptIdx, kpIdx]; omega) | omega)))

theorem keep_nextTransfer {d0 d : Dev} {tag : Nat} {c : Cmd} {r9 : (TJob × Dev)} (h : Keep d0 d)
    (e9 : (nextTransfer tag c d) = some r9) : Keep d0 r9.2 := by
  unfold nextTransfer at e9
  repeat' (first
      | split at e9
      | simp only [Option.map_eq_some_iff, Option.bind_eq_some_iff, Option.some.injEq, reduceCtorEq] at e9
      | (obtain ⟨_, _, e9⟩ := e9))
  all_goals (try subst e9)
  all_goals repeat' (first
      | with_reducible exact h | with_reducible refine keep_updWjob ?_ | with_reducible refine keep_updClasp ?_
      | with_reducible refine keep_updCmd ?_ | with_reducible refine keep_sbAlloc (r9 := (_, _)) ?_ (by assumption)
      | with_reducible refine keep_sbStore ?_ | dsimp only
      | fail_if_no_progress (with_reducible refine keep_mk ?_ ?_ <;> [skip; first | rfl | simp_all only]))
  all_goals
    rename_i e8
    subst e8
    dsimp only
    exact keep_updClasp h

theorem keep_updTJob {d0 d : Dev} {n : Nat} {id : Nat} {f : TJob → TJob} (h : Keep d0 d) : Keep d0 (updTJob n id f d)
    := by
  unfold updTJob
  with_reducible repeat' (first | exact h | refine keep_updTch ?_)

theorem keep_badPiece {d0 d : Dev} {j : TJob} {p : TPiece} {r : Nat × Nat} (h : Keep d0 d)
    : Keep d0 (badPiece j p d r) := by
  unfold badPiece
  repeat' (first
      | with_reducible exact h | with_reducible refine keep_cmdBad ?_ | with_reducible refine keep_cmdFail ?_
      | with_reducible refine keep_ite ?_ ?_ | split)

theorem keep_wildBytes {d0 d : Dev} {tag : Nat} {bs : Bytes} (h : Keep d0 d) : Keep d0 (wildBytes tag bs d).2 := by
  unfold wildBytes
  repeat' (first | with_reducible exact h | with_reducible refine keep_freeBytes ?_ | split)

theorem keep_wildBytesE {d0 d : Dev} {tag : Nat} {bs : Bytes} {r9 : Bytes × Dev} (h : Keep d0 d)
    (e9 : (wildBytes tag bs d) = r9) : Keep d0 r9.2 := e9 ▸ keep_wildBytes h

theorem keep_issuePiece {d0 d : Dev} {n : Nat} {j : TJob} {p : TPiece} (h : Keep d0 d) : Keep d0 (issuePiece n j p d)
    := by
  unfold issuePiece
  repeat' (first
      | with_reducible exact h | with_reducible assumption | with_reducible refine keep_updTJob ?_
      | with_reducible refine keep_postRead ?_ | with_reducible refine keep_sbFetch ?_
      | with_reducible refine keep_wildBytes ?_ | with_reducible refine keep_badPiece ?_
      | with_reducible refine keep_postWrite ?_ | with_reducible refine keep_moved ?_
      | with_reducible refine keep_cntN ?_ ?_ | with_reducible refine keep_ite ?_ ?_
      | with_reducible refine keep_foldl _ ?_ (fun _ _ _ => ?_)
      | (show dataIdx _ _; unfold dataIdx; (first | decide | (simp only [rgIdx, chIdx, tcIdx, lgIdx, ptIdx, kpIdx]; omega) | omega)))

theorem keep_issuePieces {d0 : Dev} {z0 : Nat} {z1 : Nat} {z2 : List TPiece}
    : ∀ {d : Dev}, Keep d0 d → Keep d0 (issuePieces z0 z1 z2 d) := by
  induction z2 with
  | nil => intro _ h; exact h
  | cons a l ih =>
    intro d h
    unfold issuePieces
    repeat' (first
        | with_reducible refine ih ?_ | with_reducible exact h | with_reducible refine keep_issuePiece ?_
        | with_reducible refine keep_ite ?_ ?_ | split)

theorem keep_endJob {d0 d : Dev} {n : Nat} {j : TJob} (h : Keep d0 d) : Keep d0 (endJob n j d) := by
  unfold endJob
  repeat' (first
      | with_reducible exact h | with_reducible assumption | with_reducible refine keep_send ?_
      | with_reducible refine keep_updTch ?_ | with_reducible refine keep_sbFree ?_
      | with_reducible refine keep_cmdFail ?_ | with_reducible refine keep_workDone ?_
      | with_reducible refine keep_feedBands ?_ | with_reducible refine keep_killJob ?_
      | with_reducible refine keep_updWjob ?_ | with_reducible refine keep_rawFeed ?_
      | with_reducible refine keep_sbFetch ?_ | with_reducible refine keep_rawData ?_
      | with_reducible refine keep_rawEnd ?_ | with_reducible refine keep_cnt ?_ ?_
      | with_reducible refine keep_ite ?_ ?_ | with_reducible refine keep_foldl _ ?_ (fun _ _ _ => ?_)
      | (show dataIdx _ _; unfold dataIdx; (first | decide | (simp only [rgIdx, chIdx, tcIdx, lgIdx, ptIdx, kpIdx]; omega) | omega))
      | dsimp only | split
      | fail_if_no_progress (with_reducible refine keep_mk ?_ ?_ <;> [skip; first | rfl | simp_all only]))

theorem keep_displace {d0 d : Dev} {n : Nat} (h : Keep d0 d) : Keep d0 (displace n d) := by
  unfold displace
  repeat' (first
      | with_reducible exact h | with_reducible refine keep_putChState ?_ | with_reducible refine keep_cnt ?_ ?_
      | (show dataIdx _ _; unfold dataIdx; (first | decide | (simp only [rgIdx, chIdx, tcIdx, lgIdx, ptIdx, kpIdx]; omega) | omega)))

theorem keep_cmdPath {d0 d : Dev} {n : Nat} {j : TJob} (h : Keep d0 d) : Keep d0 (cmdPath n j d) := by
  unfold cmdPath
  repeat' (first
      | with_reducible exact h | with_reducible refine keep_displace ?_ | with_reducible refine keep_ite ?_ ?_
      | dsimp only
      | fail_if_no_progress (with_reducible refine keep_mk ?_ ?_ <;> [skip; first | rfl | simp_all only]))

theorem keep_landJob {d0 d : Dev} {id : Nat} (h : Keep d0 d) : Keep d0 (landJob id d) := by
  unfold landJob
  repeat' (first
      | with_reducible exact h | with_reducible refine keep_feedBands ?_ | with_reducible refine keep_updWjob ?_
      | with_reducible refine keep_ite ?_ ?_ | dsimp only | split)

theorem keep_moveHeld {d0 d : Dev} {n : Nat} {id : Nat} (h : Keep d0 d) : Keep d0 (moveHeld n id d) := by
  unfold moveHeld
  repeat' (first
      | with_reducible exact h | with_reducible assumption | with_reducible refine keep_landJob ?_
      | with_reducible refine keep_wildBytes ?_ | with_reducible refine keep_moved ?_
      | with_reducible refine keep_sbStore ?_ | with_reducible refine keep_updTJob ?_
      | with_reducible refine keep_cntN ?_ ?_ | with_reducible refine keep_foldl _ ?_ (fun _ _ _ => ?_)
      | (show dataIdx _ _; unfold dataIdx; (first | decide | (simp only [rgIdx, chIdx, tcIdx, lgIdx, ptIdx, kpIdx]; omega) | omega))
      | dsimp only | split)

theorem keep_headMove {d0 d : Dev} {n : Nat} {j : TJob} (h : Keep d0 d) : Keep d0 (headMove n j d) := by
  unfold headMove
  with_reducible repeat' (first
      | exact h | refine keep_moveHeld ?_ | refine keep_cmdPath ?_ | refine keep_issuePieces ?_
      | refine keep_ite ?_ ?_)

theorem keep_headStep {d0 d : Dev} {n : Nat} (h : Keep d0 d) : Keep d0 (headStep n d) := by
  unfold headStep
  repeat' (first
      | with_reducible exact h | with_reducible refine keep_endJob ?_ | with_reducible refine keep_postRead ?_
      | with_reducible refine keep_updTJob ?_ | with_reducible refine keep_headMove ?_
      | with_reducible refine keep_ite ?_ ?_ | split)

theorem keep_toRun {d0 d : Dev} {n : Nat} (h : Keep d0 d) : Keep d0 (toRun n d) := by
  unfold toRun
  repeat' (first
      | with_reducible exact h | with_reducible refine keep_putChState ?_ | with_reducible refine keep_postRead ?_
      | with_reducible refine keep_updTch ?_ | with_reducible refine keep_ite ?_ ?_ | dsimp only | split)

theorem keep_release {d0 d : Dev} (h : Keep d0 d) : Keep d0 (release d) := by
  unfold release
  repeat' (first
      | with_reducible exact h | with_reducible assumption | with_reducible refine keep_toRun ?_
      | with_reducible refine keep_ite ?_ ?_ | with_reducible refine keep_foldl _ ?_ (fun _ _ _ => ?_) | split)

theorem keep_recordBell {d0 d : Dev} {n : Nat} {t : TDesc} {status : Nat} {moff : Nat} {irq : Bool} (h : Keep d0 d)
    : Keep d0 (recordBell n t status moff irq d) := by
  unfold recordBell
  with_reducible repeat' (first
      | exact h | refine keep_ringUnit ?_ | refine keep_postWrite ?_ | refine keep_ite ?_ ?_)

theorem keep_chRest {d0 d : Dev} {n : Nat} {st : Nat} (h : Keep d0 d) : Keep d0 (chRest n st d) := by
  unfold chRest
  repeat' (first
      | with_reducible exact h | with_reducible refine keep_putChState ?_ | with_reducible refine keep_updTch ?_
      | with_reducible refine keep_ite ?_ ?_ | dsimp only
      | fail_if_no_progress (with_reducible refine keep_mk ?_ ?_ <;> [skip; first | rfl | simp_all only]))

theorem keep_failCh {d0 d : Dev} {n : Nat} {status : Nat} (h : Keep d0 d) : Keep d0 (failCh n status d) := by
  unfold failCh
  repeat' (first
      | with_reducible exact h | with_reducible refine keep_recordBell ?_ | with_reducible refine keep_ringUnit ?_
      | with_reducible refine keep_chRest ?_ | with_reducible refine keep_put ?_ ?_
      | with_reducible refine keep_cnt ?_ ?_ | with_reducible refine keep_ite ?_ ?_
      | (show dataIdx _ _; unfold dataIdx; (first | decide | (simp only [rgIdx, chIdx, tcIdx, lgIdx, ptIdx, kpIdx]; omega) | omega))
      | split)

theorem keep_completeCh {d0 d : Dev} {n : Nat} {status0 : Nat} {moff0 : Nat} (h : Keep d0 d)
    : Keep d0 (completeCh n status0 moff0 d) := by
  unfold completeCh
  repeat' (first
      | with_reducible exact h | with_reducible refine keep_freeVal ?_ | with_reducible refine keep_recordBell ?_
      | with_reducible refine keep_chRest ?_ | with_reducible refine keep_putChState ?_
      | with_reducible refine keep_updTch ?_ | with_reducible refine keep_failCh ?_
      | with_reducible refine keep_release ?_ | with_reducible refine keep_put ?_ ?_
      | with_reducible refine keep_cnt ?_ ?_ | with_reducible refine keep_ite ?_ ?_
      | (show dataIdx _ _; unfold dataIdx; (first | decide | (simp only [rgIdx, chIdx, tcIdx, lgIdx, ptIdx, kpIdx]; omega) | omega))
      | dsimp only | split
      | fail_if_no_progress (with_reducible refine keep_mk ?_ ?_ <;> [skip; first | rfl | simp_all only]))

theorem keep_checkDepart {d0 d : Dev} {n : Nat} (h : Keep d0 d) : Keep d0 (checkDepart n d) := by
  unfold checkDepart
  repeat' (first
      | with_reducible exact h | with_reducible refine keep_updTch ?_ | with_reducible refine keep_cnt ?_ ?_
      | with_reducible refine keep_ite ?_ ?_
      | (show dataIdx _ _; unfold dataIdx; (first | decide | (simp only [rgIdx, chIdx, tcIdx, lgIdx, ptIdx, kpIdx]; omega) | omega))
      | dsimp only | split)

theorem keep_applyGone {d0 d : Dev} {o : Owner} (h : Keep d0 d) : Keep d0 (applyGone o d) := by
  unfold applyGone
  repeat' (first
      | with_reducible exact h | with_reducible refine keep_updTJob ?_ | with_reducible refine keep_checkDepart ?_
      | with_reducible refine keep_updTch ?_ | with_reducible refine keep_ringUnit ?_
      | with_reducible refine keep_ite ?_ ?_ | split)

theorem keep_tenderLoop {d0 : Dev} {z0 : Nat} : ∀ {d : Dev}, Keep d0 d → Keep d0 (tenderLoop z0 d) := by
  induction z0 with
  | zero => intro _ h; exact h
  | succ n ih =>
    intro d h
    unfold tenderLoop
    repeat' (first
        | with_reducible refine ih ?_ | with_reducible exact h | with_reducible assumption
        | with_reducible refine keep_applyGone ?_ | with_reducible refine keep_headStep ?_
        | with_reducible refine keep_ite ?_ ?_ | with_reducible refine keep_foldl _ ?_ (fun _ _ _ => ?_) | dsimp only
        | fail_if_no_progress (with_reducible refine keep_mk ?_ ?_ <;> [skip; first | rfl | simp_all only]))

theorem keep_settle {d0 d : Dev} (h : Keep d0 d) : Keep d0 (settle d) := by
  unfold settle
  with_reducible repeat' (first | exact h | refine keep_kickAll ?_ | refine keep_tenderLoop ?_)

theorem soundk_settle {d0 d : Dev} (h : Sound d0 d) : Sound d0 (settle d) := h.trans (keep_settle (Keep.refl d)).toSound

theorem keep_tenderJob {d0 d : Dev} {tag : Nat} (h : Keep d0 d) : Keep d0 (tenderJob tag d) := by
  unfold tenderJob
  repeat' (first
      | with_reducible exact h | with_reducible assumption | with_reducible refine keep_assertWake ?_
      | with_reducible refine keep_nextTransfer (r9 := (_, _)) ?_ (by assumption)
      | with_reducible refine keep_settle ?_ | with_reducible refine keep_sendFor ?_
      | with_reducible refine keep_updTch ?_ | with_reducible refine keep_foldl _ ?_ (fun _ _ _ => ?_) | split)

theorem keep_failJob {d0 d : Dev} {n : Nat} {id : Nat} (h : Keep d0 d) : Keep d0 (failJob n id d) := by
  unfold failJob
  with_reducible repeat' (first | exact h | refine keep_updTJob ?_)

theorem keep_jobDescArrived {d0 d : Dev} {id : Nat} {ok : Bool} {bs : Bytes} (h : Keep d0 d)
    : Keep d0 (jobDescArrived id ok bs d) := by
  unfold jobDescArrived
  repeat' (first
      | with_reducible exact h | with_reducible refine keep_updTJob ?_ | with_reducible refine keep_failJob ?_
      | with_reducible refine keep_updCmd ?_ | with_reducible refine keep_ite ?_ ?_ | dsimp only | split)

theorem keep_jobDataArrived {d0 d : Dev} {id : Nat} {sb : Nat} {len : Nat} {ok : Bool} {bs : Bytes} (h : Keep d0 d)
    : Keep d0 (jobDataArrived id sb len ok bs d) := by
  unfold jobDataArrived
  repeat' (first
      | with_reducible exact h | with_reducible refine keep_updTJob ?_ | with_reducible refine keep_failJob ?_
      | with_reducible refine keep_ite ?_ ?_ | split)

theorem keep_askReads {d0 : Dev} {z0 : Nat} {z1 : Bool} {z2 : Nat}
    : ∀ {d : Dev}, Keep d0 d → Keep d0 (askReads z0 z1 z2 d) := by
  induction z2 with
  | zero => intro _ h; exact h
  | succ n ih =>
    intro d h
    unfold askReads
    repeat' (first
        | with_reducible refine ih ?_ | with_reducible exact h | with_reducible refine keep_postRead ?_
        | with_reducible refine keep_updTch ?_ | with_reducible refine keep_ite ?_ ?_ | dsimp only | split)

theorem keep_askAll {d0 d : Dev} {n : Nat} (h : Keep d0 d) : Keep d0 (askAll n d) := by
  unfold askAll
  repeat' (first
      | with_reducible exact h | with_reducible refine keep_askReads ?_ | with_reducible refine keep_ite ?_ ?_
      | dsimp only | split)

theorem keep_takePath {d0 d : Dev} {n : Nat} (h : Keep d0 d) : Keep d0 (takePath n d) := by
  unfold takePath
  repeat' (first
      | with_reducible exact h | with_reducible refine keep_putChState ?_ | dsimp only
      | fail_if_no_progress (with_reducible refine keep_mk ?_ ?_ <;> [skip; first | rfl | simp_all only]))

theorem keep_pathTurn {d0 d : Dev} {n : Nat} (h : Keep d0 d) : Keep d0 (pathTurn n d).2 := by
  unfold pathTurn
  repeat' (first
      | with_reducible exact h | with_reducible refine keep_displace ?_ | with_reducible refine keep_takePath ?_
      | with_reducible refine keep_ite ?_ ?_ | dsimp only | split
      | fail_if_no_progress (with_reducible refine keep_mk ?_ ?_ <;> [skip; first | rfl | simp_all only]))

theorem keep_pathTurnE {d0 d : Dev} {n : Nat} {r9 : Bool × Dev} (h : Keep d0 d) (e9 : (pathTurn n d) = r9)
    : Keep d0 r9.2 := e9 ▸ keep_pathTurn h

theorem keep_takeBytes {d0 d : Dev} {n : Nat} {second : Bool} {t : TDesc} {i : Nat} {k : Nat} (h : Keep d0 d)
    : Keep d0 (takeBytes n second t i k d).2.2 := by
  unfold takeBytes
  repeat' (first | with_reducible exact h | with_reducible refine keep_sbFetch ?_ | dsimp only | split)

theorem keep_takeBytesE {d0 d : Dev} {n : Nat} {second : Bool} {t : TDesc} {i : Nat} {k : Nat}
    {r9 : Bytes × Nat × Dev} (h : Keep d0 d) (e9 : (takeBytes n second t i k d) = r9) : Keep d0 r9.2.2 :=
    e9 ▸ keep_takeBytes h

theorem keep_giveBytes {d0 d : Dev} {n : Nat} {t : TDesc} {bs0 : Bytes} (h : Keep d0 d)
    : Keep d0 (giveBytes n t bs0 d) := by
  unfold giveBytes
  repeat' (first
      | with_reducible exact h | with_reducible refine keep_freeBytes ?_ | with_reducible refine keep_moved ?_
      | with_reducible refine keep_updTch ?_ | with_reducible refine keep_failCh ?_
      | with_reducible refine keep_sbStoreQ ?_ | with_reducible refine keep_checkDepart ?_
      | with_reducible refine keep_postWrite ?_ | with_reducible refine keep_ite ?_ ?_ | split)

theorem keep_copyStep {d0 d : Dev} {n : Nat} {t : TDesc} (h : Keep d0 d) : Keep d0 (copyStep n t d) := by
  unfold copyStep
  repeat' (first
      | with_reducible exact h | with_reducible refine keep_takeBytes ?_ | with_reducible refine keep_failCh ?_
      | with_reducible refine keep_giveBytes ?_ | with_reducible refine keep_ite ?_ ?_ | split)

theorem keep_compareStep {d0 d : Dev} {n : Nat} {t : TDesc} (h : Keep d0 d) : Keep d0 (compareStep n t d) := by
  unfold compareStep
  repeat' (first
      | with_reducible exact h | with_reducible refine keep_takeBytes ?_ | with_reducible refine keep_failCh ?_
      | with_reducible refine keep_moved ?_ | with_reducible refine keep_updTch ?_
      | with_reducible refine keep_ite ?_ ?_ | dsimp only | split)

theorem keep_opRow {d0 d : Dev} {op : Nat} {n : Nat} {step : Nat → TDesc → Dev → Dev} (h : Keep d0 d)
    (hstep : ∀ y0 y1 y2, Keep d0 y2 → Keep d0 (step y0 y1 y2)) : Keep d0 (opRow op n step d) := by
  unfold opRow
  repeat' (first
      | with_reducible exact h | with_reducible apply hstep | with_reducible refine keep_pathTurn ?_
      | with_reducible refine keep_askAll ?_ | with_reducible refine keep_settle ?_
      | with_reducible refine keep_ite ?_ ?_ | dsimp only | split)

theorem keep_descriptorComplete {d0 d : Dev} {n : Nat} (h : Keep d0 d) : Keep d0 (descriptorComplete n d) := by
  unfold descriptorComplete
  with_reducible repeat' (first | exact h | refine keep_settle ?_ | refine keep_completeCh ?_ | refine keep_ite ?_ ?_)

theorem keep_loadDesc {d0 d : Dev} {n : Nat} (h : Keep d0 d) : Keep d0 (loadDesc n d) := by
  unfold loadDesc
  repeat' (first
      | with_reducible exact h | with_reducible refine keep_updTch ?_ | with_reducible refine keep_settle ?_
      | with_reducible refine keep_toRun ?_ | with_reducible refine keep_putChState ?_
      | with_reducible refine keep_put ?_ ?_ | with_reducible refine keep_ite ?_ ?_
      | (show dataIdx _ _; unfold dataIdx; (first | decide | (simp only [rgIdx, chIdx, tcIdx, lgIdx, ptIdx, kpIdx]; omega) | omega))
      | dsimp only | split)

theorem keep_descArrived {d0 d : Dev} {n : Nat} {chain : Nat} {addr : Nat} {status : Nat} {bs : Bytes}
    (h : Keep d0 d) : Keep d0 (descArrived n chain addr status bs d) := by
  unfold descArrived
  with_reducible repeat' (first | exact h | refine keep_updTch ?_ | refine keep_failCh ?_ | refine keep_ite ?_ ?_)

theorem keep_chDataArrived {d0 d : Dev} {n : Nat} {no : Nat} {pos : Nat} {status : Nat} {second : Bool} {bs : Bytes}
    (h : Keep d0 d) : Keep d0 (chDataArrived n no pos status second bs d) := by
  unfold chDataArrived
  with_reducible repeat' (first | exact h | refine keep_failCh ?_ | refine keep_updTch ?_ | refine keep_ite ?_ ?_)

theorem keep_chStart {d0 d : Dev} {n : Nat} (h : Keep d0 d) : Keep d0 (chStart n d) := by
  unfold chStart
  with_reducible repeat' (first
      | exact h | refine keep_settle ?_ | refine keep_postRead ?_ | refine keep_putChState ?_ | refine keep_updTch ?_)

theorem soundk_chStart {d0 d : Dev} {n : Nat} (h : Sound d0 d) : Sound d0 (chStart n d) :=
    h.trans (keep_chStart (Keep.refl d)).toSound

theorem keep_chStop {d0 d : Dev} {n : Nat} (h : Keep d0 d) : Keep d0 (chStop n d) := by
  unfold chStop
  with_reducible repeat' (first
      | exact h | refine keep_chRest ?_ | refine keep_updTch ?_ | refine keep_settle ?_ | refine keep_completeCh ?_
      | refine keep_ite ?_ ?_)

theorem soundk_chStop {d0 d : Dev} {n : Nat} (h : Sound d0 d) : Sound d0 (chStop n d) :=
    h.trans (keep_chStop (Keep.refl d)).toSound

theorem keep_tmrEnable {d0 d : Dev} {k : Nat} {v : Nat} (h : Keep d0 d) : Keep d0 (tmrEnable k v d) := by
  unfold tmrEnable
  repeat' (first
      | with_reducible exact h | with_reducible refine keep_setTmr ?_ | with_reducible refine keep_put ?_ ?_
      | with_reducible refine keep_ite ?_ ?_
      | (show dataIdx _ _; unfold dataIdx; (first | decide | (simp only [rgIdx, chIdx, tcIdx, lgIdx, ptIdx, kpIdx]; omega) | omega))
      | dsimp only
      | fail_if_no_progress (with_reducible refine keep_mk ?_ ?_ <;> [skip; first | rfl | simp_all only]))

theorem soundk_tmrEnable {d0 d : Dev} {k : Nat} {v : Nat} (h : Sound d0 d) : Sound d0 (tmrEnable k v d) :=
    h.trans (keep_tmrEnable (Keep.refl d)).toSound

theorem keep_timerTick {d0 d : Dev} {k : Nat} (h : Keep d0 d) : Keep d0 (timerTick k d) := by
  unfold timerTick
  repeat' (first
      | with_reducible exact h | with_reducible assumption | with_reducible refine keep_setTmr ?_
      | with_reducible refine keep_updTch ?_ | with_reducible refine keep_settle ?_
      | with_reducible refine keep_release ?_ | with_reducible refine keep_put ?_ ?_
      | with_reducible refine keep_ite ?_ ?_ | with_reducible refine keep_foldl _ ?_ (fun _ _ _ => ?_)
      | (show dataIdx _ _; unfold dataIdx; (first | decide | (simp only [rgIdx, chIdx, tcIdx, lgIdx, ptIdx, kpIdx]; omega) | omega))
      | dsimp only | split)

end Sys2Proof.Machine
end

