-- ==== Sys2Proof/Laws/KeepPorts.lean ====
section
/-! SUPPORT. What the functions of Machine/Ports.lean leave alone (Laws/Keep.lean). -/

set_option linter.unusedTactic false
set_option linter.unreachableTactic false
set_option linter.unusedSimpArgs false

namespace Sys2Proof.Machine

theorem keep_lateWrite {d0 d : Dev} {p : Nat} {a : Nat} {b : Nat} (h : Keep d0 d) : Keep d0 (lateWrite p a b d) := by
  unfold lateWrite
  with_reducible repeat' (first | exact h | refine keep_fault ?_)

theorem keep_mapWbEnd {d0 d : Dev} {p : Nat} {o : Outst} {ok : Bool} {ln : Nat} (h : Keep d0 d)
    : Keep d0 (mapWbEnd p o ok ln d) := by
  unfold mapWbEnd
  with_reducible repeat' (first
      | exact h | refine keep_askWanted ?_ | refine keep_updLan ?_ (fun _ => rfl) | refine keep_postWrite ?_
      | refine keep_ite ?_ ?_)

theorem keep_deliver {d0 d : Dev} {p : Nat} {o : Outst} {st : Nat} {bs : Bytes} (h : Keep d0 d)
    : Keep d0 (deliver p o st bs d) := by
  unfold deliver
  repeat' (first
      | with_reducible exact h | with_reducible refine keep_sendRsp ?_ | with_reducible refine keep_fetchArrived ?_
      | with_reducible refine keep_updBell ?_ | with_reducible refine keep_lateWrite ?_
      | with_reducible refine keep_updRing ?_ | with_reducible refine keep_settle ?_
      | with_reducible refine keep_jobDataArrived ?_ | with_reducible refine keep_updTJob ?_
      | with_reducible refine keep_failJob ?_ | with_reducible refine keep_cmdFail ?_
      | with_reducible refine keep_jobDescArrived ?_ | with_reducible refine keep_descArrived ?_
      | with_reducible refine keep_chDataArrived ?_ | with_reducible refine keep_updTch ?_
      | with_reducible refine keep_failCh ?_ | with_reducible refine keep_ringUnit ?_
      | with_reducible refine keep_updLan ?_ (fun _ => rfl) | with_reducible refine keep_mapWbEnd ?_
      | with_reducible refine keep_bellResponse ?_ | with_reducible refine keep_ite ?_ ?_ | dsimp only | split)

theorem keep_initTimeout {d0 d : Dev} {p : Nat} {txid : Nat} (h : Keep d0 d) : Keep d0 (initTimeout p txid d) := by
  unfold initTimeout
  repeat' (first
      | with_reducible exact h | with_reducible refine keep_deliver ?_ | with_reducible refine keep_updPort ?_
      | with_reducible refine keep_cnt ?_ ?_
      | (show dataIdx _ _; unfold dataIdx; (first | decide | (simp only [rgIdx, chIdx, tcIdx, lgIdx, ptIdx, kpIdx]; omega) | omega))
      | dsimp only | split)

theorem keep_creditReturn {d0 d : Dev} {p : Nat} {k : YppClass} (h : Keep d0 d) : Keep d0 (creditReturn p k d) := by
  unfold creditReturn
  repeat' (first
      | with_reducible exact h | with_reducible refine keep_updPort ?_ | with_reducible refine keep_settle ?_
      | with_reducible refine keep_pump ?_ | with_reducible refine keep_put ?_ ?_
      | with_reducible refine keep_ite ?_ ?_
      | (show dataIdx _ _; unfold dataIdx; (first | decide | (simp only [rgIdx, chIdx, tcIdx, lgIdx, ptIdx, kpIdx]; omega) | omega)))

theorem keep_undercredit {d0 d : Dev} {p : Nat} (h : Keep d0 d) : Keep d0 (undercredit p d) := by
  unfold undercredit
  repeat' (first
      | with_reducible exact h | with_reducible refine keep_fault ?_ | with_reducible refine keep_updPort ?_
      | with_reducible refine keep_put ?_ ?_ | with_reducible refine keep_cnt ?_ ?_
      | with_reducible refine keep_ite ?_ ?_
      | (show dataIdx _ _; unfold dataIdx; (first | decide | (simp only [rgIdx, chIdx, tcIdx, lgIdx, ptIdx, kpIdx]; omega) | omega)))

theorem keep_linkDown {d0 d : Dev} {p : Nat} {st : Nat} (h : Keep d0 d) : Keep d0 (linkDown p st d) := by
  unfold linkDown
  repeat' (first
      | with_reducible exact h | with_reducible assumption | with_reducible refine keep_updPort ?_
      | with_reducible refine keep_deliver ?_ | with_reducible refine keep_put ?_ ?_
      | with_reducible refine keep_foldl _ ?_ (fun _ _ _ => ?_)
      | (show dataIdx _ _; unfold dataIdx; (first | decide | (simp only [rgIdx, chIdx, tcIdx, lgIdx, ptIdx, kpIdx]; omega) | omega)))

theorem soundk_linkDown {d0 d : Dev} {p : Nat} {st : Nat} (h : Sound d0 d) : Sound d0 (linkDown p st d) :=
    h.trans (keep_linkDown (Keep.refl d)).toSound

theorem keep_linkUp {d0 d : Dev} {p : Nat} (h : Keep d0 d) : Keep d0 (linkUp p d) := by
  unfold linkUp
  repeat' (first
      | with_reducible exact h | with_reducible refine keep_settle ?_ | with_reducible refine keep_pump ?_
      | with_reducible refine keep_updPort ?_ | with_reducible refine keep_put ?_ ?_
      | with_reducible refine keep_ite ?_ ?_
      | (show dataIdx _ _; unfold dataIdx; (first | decide | (simp only [rgIdx, chIdx, tcIdx, lgIdx, ptIdx, kpIdx]; omega) | omega)))

theorem keep_framing {d0 d : Dev} {p : Nat} (h : Keep d0 d) : Keep d0 (framing p d) := by
  unfold framing
  repeat' (first
      | with_reducible exact h | with_reducible refine keep_kickAll ?_ | with_reducible refine keep_linkDown ?_
      | with_reducible refine keep_cnt ?_ ?_
      | (show dataIdx _ _; unfold dataIdx; (first | decide | (simp only [rgIdx, chIdx, tcIdx, lgIdx, ptIdx, kpIdx]; omega) | omega)))

theorem keep_creditPulse {d0 d : Dev} {p : Nat} {k : YppClass} {n : Nat} (h : Keep d0 d)
    : Keep d0 (creditPulse p k n d) := by
  unfold creditPulse
  with_reducible repeat' (first | exact h | refine keep_updPort ?_)

theorem keep_inboundResponse {d0 d : Dev} {p : Nat} {r : RspHdr} (h : Keep d0 d) : Keep d0 (inboundResponse p r d) := by
  unfold inboundResponse
  repeat' (first
      | with_reducible exact h | with_reducible refine keep_framing ?_ | with_reducible refine keep_creditPulse ?_
      | with_reducible refine keep_strayRsp ?_ | with_reducible refine keep_updPort ?_
      | with_reducible refine keep_bellResponse ?_ | with_reducible refine keep_deliver ?_
      | with_reducible refine keep_cntN ?_ ?_ | with_reducible refine keep_cnt ?_ ?_
      | with_reducible refine keep_ite ?_ ?_
      | (show dataIdx _ _; unfold dataIdx; (first | decide | (simp only [rgIdx, chIdx, tcIdx, lgIdx, ptIdx, kpIdx]; omega) | omega))
      | dsimp only | split)

end Sys2Proof.Machine
end

