-- ==== Sys2Proof/Laws/KeepNand.lean ====
section
/-! SUPPORT. What the functions of Machine/Nand.lean leave alone (Laws/Keep.lean). -/

set_option linter.unusedTactic false
set_option linter.unreachableTactic false
set_option linter.unusedSimpArgs false

namespace Sys2Proof.Machine

theorem keep_setDieByte {d0 d : Dev} {ch : Nat} {sub : Nat} {k : Nat} {v : Nat} (h : Keep d0 d)
    : Keep d0 (setDieByte ch sub k v d) := by
  unfold setDieByte
  with_reducible repeat' (first | exact h | refine keep_putB ?_)

theorem keep_idReject {d0 d : Dev} {n : Nat} {cause : Nat} (h : Keep d0 d) : Keep d0 (idReject n cause d) := by
  unfold idReject
  repeat' (first
      | with_reducible exact h | with_reducible refine keep_setDieByte ?_ | with_reducible refine keep_fault ?_
      | with_reducible refine keep_updDie ?_ | with_reducible refine keep_dieDown ?_
      | with_reducible refine keep_cnt ?_ ?_ | with_reducible refine keep_ite ?_ ?_
      | (show dataIdx _ _; unfold dataIdx; (first | decide | (simp only [rgIdx, chIdx, tcIdx, lgIdx, ptIdx, kpIdx]; omega) | omega)))

theorem keep_idAccept {d0 d : Dev} {n : Nat} (h : Keep d0 d) : Keep d0 (idAccept n d) := by
  unfold idAccept
  with_reducible repeat' (first
      | exact h | refine keep_setDieByte ?_ | refine keep_updDie ?_ | refine keep_markFailed ?_
      | refine keep_ite ?_ ?_)

theorem keep_trainPassed {d0 d : Dev} {ch : Nat} {t : Nat} (h : Keep d0 d) : Keep d0 (trainPassed ch t d) := by
  unfold trainPassed
  with_reducible repeat' (first
      | exact h | assumption | refine keep_updDie ?_ | refine keep_markFailed ?_ | refine keep_ite ?_ ?_
      | refine keep_foldl _ ?_ (fun _ _ _ => ?_))

theorem keep_idSummary {d0 d : Dev} {ch : Nat} (h : Keep d0 d) : Keep d0 (idSummary ch d) := by
  unfold idSummary
  repeat' (first
      | with_reducible exact h | with_reducible refine keep_put ?_ ?_
      | (show dataIdx _ _; unfold dataIdx; (first | decide | (simp only [rgIdx, chIdx, tcIdx, lgIdx, ptIdx, kpIdx]; omega) | omega)))

theorem soundk_idSummary {d0 d : Dev} {ch : Nat} (h : Sound d0 d) : Sound d0 (idSummary ch d) :=
    h.trans (keep_idSummary (Keep.refl d)).toSound

theorem keep_idLun {d0 d : Dev} {ch : Nat} {t : Nat} {l : Nat} {a : TargetAnswer} (h : Keep d0 d)
    : Keep d0 (idLun ch t l a d) := by
  unfold idLun
  repeat' (first
      | with_reducible exact h | with_reducible refine keep_updDie ?_ | with_reducible refine keep_idReject ?_
      | with_reducible refine keep_idAccept ?_ | with_reducible refine keep_ite ?_ ?_ | split
      | fail_if_no_progress (with_reducible refine keep_mk ?_ ?_ <;> [skip; first | rfl | simp_all only]))

theorem soundk_idLun {d0 d : Dev} {ch : Nat} {t : Nat} {l : Nat} {a : TargetAnswer} (h : Sound d0 d)
    : Sound d0 (idLun ch t l a d) := h.trans (keep_idLun (Keep.refl d)).toSound

theorem keep_idParam {d0 d : Dev} {ch : Nat} {answers : List TargetAnswer} (h : Keep d0 d)
    : Keep d0 (idParam ch answers d) := by
  unfold idParam
  repeat' (first
      | with_reducible exact h | with_reducible refine keep_putB ?_ | with_reducible refine keep_ite ?_ ?_ | split)

theorem soundk_idParam {d0 d : Dev} {ch : Nat} {answers : List TargetAnswer} (h : Sound d0 d)
    : Sound d0 (idParam ch answers d) := h.trans (keep_idParam (Keep.refl d)).toSound

theorem keep_startIdent {d0 d : Dev} {ch : Nat} (h : Keep d0 d) : Keep d0 (startIdent ch d) := by
  unfold startIdent
  with_reducible repeat' (first
      | exact h | assumption | refine keep_updDie ?_ | refine keep_updChan ?_
      | refine keep_foldl _ ?_ (fun _ _ _ => ?_))

theorem sound_identDone {d0 d : Dev} {ch : Nat} {tgts : List Nat} (h : Sound d0 d) : Sound d0 (identDone ch tgts d)
    := by
  unfold identDone
  with_reducible repeat' (first
      | exact h | assumption | refine soundk_updChan ?_ | refine soundk_idSummary ?_ | refine soundk_wantTrain ?_
      | refine soundk_kick ?_ | refine sound_put ?_ | refine sound_ite ?_ ?_
      | refine sound_foldl _ ?_ (fun _ _ _ => ?_))

theorem sound_identify {d0 d : Dev} {ch : Nat} {answers : List TargetAnswer} (h : Sound d0 d)
    : Sound d0 (identify ch answers d) := by
  unfold identify
  with_reducible repeat' (first
      | exact h | assumption | refine soundk_idLun ?_ | refine sound_identDone ?_ | refine soundk_idParam ?_
      | refine sound_ite ?_ ?_ | refine sound_foldl _ ?_ (fun _ _ _ => ?_))

theorem keep_referenceSet {d0 d : Dev} (h : Keep d0 d) : Keep d0 (referenceSet d) := by
  unfold referenceSet
  repeat' (first
      | with_reducible exact h | with_reducible assumption | with_reducible refine keep_idAccept ?_
      | with_reducible refine keep_idReject ?_ | with_reducible refine keep_idSummary ?_
      | with_reducible refine keep_updChan ?_ | with_reducible refine keep_kick ?_
      | with_reducible refine keep_ite ?_ ?_ | with_reducible refine keep_foldl _ ?_ (fun _ _ _ => ?_)
      | fail_if_no_progress (with_reducible refine keep_mk ?_ ?_ <;> [skip; first | rfl | simp_all only]))

theorem keep_reviveDie {d0 d : Dev} {ch : Nat} {k : Nat} (h : Keep d0 d) : Keep d0 (reviveDie ch k d) := by
  unfold reviveDie
  with_reducible repeat' (first
      | exact h | refine keep_updChan ?_ | refine keep_kick ?_ | refine keep_updDie ?_ | refine keep_ite ?_ ?_)

theorem soundk_reviveDie {d0 d : Dev} {ch : Nat} {k : Nat} (h : Sound d0 d) : Sound d0 (reviveDie ch k d) :=
    h.trans (keep_reviveDie (Keep.refl d)).toSound

theorem keep_timingReset {d0 d : Dev} {ch : Nat} (h : Keep d0 d) : Keep d0 (timingReset ch d) := by
  unfold timingReset
  repeat' (first
      | with_reducible exact h | with_reducible assumption | with_reducible refine keep_updChan ?_
      | with_reducible refine keep_put ?_ ?_ | with_reducible refine keep_putBit ?_ ?_
      | with_reducible refine keep_foldl _ ?_ (fun _ _ _ => ?_)
      | (show dataIdx _ _; unfold dataIdx; (first | decide | (simp only [rgIdx, chIdx, tcIdx, lgIdx, ptIdx, kpIdx]; omega) | omega)))

theorem keep_armSwap {d0 d : Dev} {ch : Nat} (h : Keep d0 d) : Keep d0 (armSwap ch d) := by
  unfold armSwap
  with_reducible repeat' (first | exact h | refine keep_kick ?_ | refine keep_updChan ?_ | refine keep_ite ?_ ?_)

theorem soundk_armSwap {d0 d : Dev} {ch : Nat} (h : Sound d0 d) : Sound d0 (armSwap ch d) :=
    h.trans (keep_armSwap (Keep.refl d)).toSound

theorem keep_latchSet {d0 d : Dev} {ch : Nat} {sw : Option ShadowWrite} (h : Keep d0 d) : Keep d0 (latchSet ch sw d)
    := by
  unfold latchSet
  repeat' (first
      | with_reducible exact h | with_reducible assumption | with_reducible refine keep_updChan ?_
      | with_reducible refine keep_put ?_ ?_ | with_reducible refine keep_putBit ?_ ?_
      | with_reducible refine keep_cnt ?_ ?_ | with_reducible refine keep_ite ?_ ?_
      | with_reducible refine keep_foldl _ ?_ (fun _ _ _ => ?_)
      | (show dataIdx _ _; unfold dataIdx; (first | decide | (simp only [rgIdx, chIdx, tcIdx, lgIdx, ptIdx, kpIdx]; omega) | omega))
      | dsimp only | split)

theorem keep_swapFailed {d0 d : Dev} {ch : Nat} {k : Nat} (h : Keep d0 d) : Keep d0 (swapFailed ch k d) := by
  unfold swapFailed
  with_reducible repeat' (first
      | exact h | refine keep_freeVal ?_ | refine keep_setDieByte ?_ | refine keep_dieDown ?_ | refine keep_fault ?_
      | refine keep_ite ?_ ?_)

theorem keep_modeSwap {d0 d : Dev} {ch : Nat} {r : SwapResult} (h : Keep d0 d) : Keep d0 (modeSwap ch r d) := by
  unfold modeSwap
  with_reducible repeat' (first
      | exact h | assumption | refine keep_swapFailed ?_ | refine keep_latchSet ?_ | refine keep_wantTrain ?_
      | refine keep_kick ?_ | refine keep_updChan ?_ | refine keep_foldl _ ?_ (fun _ _ _ => ?_))

theorem keep_putTrRec {d0 d : Dev} {ch : Nat} {t : Nat} {b : Bytes} (h : Keep d0 d) : Keep d0 (putTrRec ch t b d) := by
  unfold putTrRec
  with_reducible repeat' (first | exact h | refine keep_updChan ?_)

theorem keep_trainFrees {d0 d : Dev} {ch : Nat} (h : Keep d0 d) : Keep d0 (trainFrees ch d) := by
  unfold trainFrees
  repeat' (first
      | with_reducible exact h | with_reducible refine keep_updChan ?_ | with_reducible refine keep_seqStop ?_
      | with_reducible refine keep_cntN ?_ ?_
      | (show dataIdx _ _; unfold dataIdx; (first | decide | (simp only [rgIdx, chIdx, tcIdx, lgIdx, ptIdx, kpIdx]; omega) | omega)))

theorem keep_trainFailed {d0 d : Dev} {n : Nat} (h : Keep d0 d) : Keep d0 (trainFailed n d) := by
  unfold trainFailed
  with_reducible repeat' (first
      | exact h | refine keep_setDieByte ?_ | refine keep_updDie ?_ | refine keep_dieDown ?_ | refine keep_ite ?_ ?_)

theorem keep_trainEnd {d0 d : Dev} {ch : Nat} {t : Nat} {n : Nat} {s : Nat} (h : Keep d0 d)
    : Keep d0 (trainEnd ch t n s d) := by
  unfold trainEnd
  with_reducible repeat' (first | exact h | refine keep_dropEnt ?_ | refine keep_updChan ?_ | refine keep_kick ?_)

theorem keep_training {d0 d : Dev} {ch : Nat} {t : Nat} {r : TrainResult} (h : Keep d0 d)
    : Keep d0 (training ch t r d) := by
  unfold training
  repeat' (first
      | with_reducible exact h | with_reducible assumption | with_reducible refine keep_trainFrees ?_
      | with_reducible refine keep_trainEnd ?_ | with_reducible refine keep_updChan ?_
      | with_reducible refine keep_trainPassed ?_ | with_reducible refine keep_putTrRec ?_
      | with_reducible refine keep_kick ?_ | with_reducible refine keep_updEnt ?_
      | with_reducible refine keep_fault ?_ | with_reducible refine keep_trainFailed ?_
      | with_reducible refine keep_cnt ?_ ?_ | with_reducible refine keep_ite ?_ ?_
      | with_reducible refine keep_foldl _ ?_ (fun _ _ _ => ?_)
      | (show dataIdx _ _; unfold dataIdx; (first | decide | (simp only [rgIdx, chIdx, tcIdx, lgIdx, ptIdx, kpIdx]; omega) | omega))
      | dsimp only | split)

theorem keep_trainReq {d0 d : Dev} {ch : Nat} {v : Nat} (h : Keep d0 d) : Keep d0 (trainReq ch v d) := by
  unfold trainReq
  with_reducible repeat' (first
      | exact h | assumption | refine keep_kick ?_ | refine keep_wantTrain ?_ | refine keep_ite ?_ ?_
      | refine keep_foldl _ ?_ (fun _ _ _ => ?_))

theorem soundk_trainReq {d0 d : Dev} {ch : Nat} {v : Nat} (h : Sound d0 d) : Sound d0 (trainReq ch v d) :=
    h.trans (keep_trainReq (Keep.refl d)).toSound

theorem keep_driftTrack {d0 d : Dev} {ch : Nat} {t : Nat} {centre : Int} (h : Keep d0 d)
    : Keep d0 (driftTrack ch t centre d) := by
  unfold driftTrack
  repeat' (first
      | with_reducible exact h | with_reducible refine keep_updChan ?_ | with_reducible refine keep_putTrRec ?_
      | with_reducible refine keep_kick ?_ | with_reducible refine keep_wantTrain ?_
      | with_reducible refine keep_cnt ?_ ?_ | with_reducible refine keep_ite ?_ ?_
      | (show dataIdx _ _; unfold dataIdx; (first | decide | (simp only [rgIdx, chIdx, tcIdx, lgIdx, ptIdx, kpIdx]; omega) | omega)))

end Sys2Proof.Machine
end

