-- ==== Sys2Proof/Laws/KeepUcode.lean ====
section
/-! SUPPORT. What the functions of Machine/Ucode.lean leave alone (Laws/Keep.lean). -/

set_option linter.unusedTactic false
set_option linter.unreachableTactic false
set_option linter.unusedSimpArgs false

namespace Sys2Proof.Machine

theorem keep_streamOp {d0 d : Dev} {ch : Nat} {w : UWord} (h : Keep d0 d) : Keep d0 (streamOp ch w d) := by
  unfold streamOp
  with_reducible repeat' (first | exact h | refine keep_sbFetch ?_ | refine keep_updChan ?_ | refine keep_ite ?_ ?_)

theorem keep_mcExpire {d0 d : Dev} {n : Nat} {e : BEnt} (h : Keep d0 d) : Keep d0 (mcExpire n e d) := by
  unfold mcExpire
  repeat' (first
      | with_reducible exact h | with_reducible refine keep_dropEnt ?_ | with_reducible refine keep_rawEnd ?_
      | with_reducible refine keep_readExpired ?_ | with_reducible refine keep_progExpired ?_
      | with_reducible refine keep_eraseExpired ?_ | with_reducible refine keep_cnt ?_ ?_
      | with_reducible refine keep_ite ?_ ?_
      | (show dataIdx _ _; unfold dataIdx; (first | decide | (simp only [rgIdx, chIdx, tcIdx, lgIdx, ptIdx, kpIdx]; omega) | omega))
      | dsimp only | split
      | fail_if_no_progress (with_reducible refine keep_mk ?_ ?_ <;> [skip; first | rfl | simp_all only]))

theorem keep_mcResetDie {d0 d : Dev} {n : Nat} (h : Keep d0 d) : Keep d0 (mcResetDie n d) := by
  unfold mcResetDie
  repeat' (first
      | with_reducible exact h | with_reducible assumption | with_reducible refine keep_endMulti ?_
      | with_reducible refine keep_updDie ?_ | with_reducible refine keep_mcExpire ?_
      | with_reducible refine keep_cntN ?_ ?_ | with_reducible refine keep_ite ?_ ?_
      | with_reducible refine keep_foldl _ ?_ (fun _ _ _ => ?_)
      | (show dataIdx _ _; unfold dataIdx; (first | decide | (simp only [rgIdx, chIdx, tcIdx, lgIdx, ptIdx, kpIdx]; omega) | omega)))

theorem keep_mcFallback {d0 d : Dev} (h : Keep d0 d) : Keep d0 (mcFallback d) := by
  unfold mcFallback
  repeat' (first
      | with_reducible exact h | with_reducible assumption | with_reducible refine keep_updSeq ?_
      | with_reducible refine keep_fault ?_ | with_reducible refine keep_put ?_ ?_
      | with_reducible refine keep_ite ?_ ?_ | with_reducible refine keep_foldl _ ?_ (fun _ _ _ => ?_)
      | (show dataIdx _ _; unfold dataIdx; (first | decide | (simp only [rgIdx, chIdx, tcIdx, lgIdx, ptIdx, kpIdx]; omega) | omega))
      | dsimp only
      | fail_if_no_progress (with_reducible refine keep_mk ?_ ?_ <;> [skip; first | rfl | simp_all only]))

theorem keep_mcFault {d0 d : Dev} {ch : Nat} {cause : Nat} {b : Burst} (h : Keep d0 d)
    : Keep d0 (mcFault ch cause b d) := by
  unfold mcFault
  repeat' (first
      | with_reducible exact h | with_reducible assumption | with_reducible refine keep_mcFallback ?_
      | with_reducible refine keep_fault ?_ | with_reducible refine keep_updSeq ?_
      | with_reducible refine keep_updChan ?_ | with_reducible refine keep_mcResetDie ?_
      | with_reducible refine keep_kickAll ?_ | with_reducible refine keep_afterBurst ?_
      | with_reducible refine keep_cnt ?_ ?_ | with_reducible refine keep_foldl _ ?_ (fun _ _ _ => ?_)
      | (show dataIdx _ _; unfold dataIdx; (first | decide | (simp only [rgIdx, chIdx, tcIdx, lgIdx, ptIdx, kpIdx]; omega) | omega))
      | dsimp only
      | fail_if_no_progress (with_reducible refine keep_mk ?_ ?_ <;> [skip; first | rfl | simp_all only]))

theorem keep_wordBody {d0 d : Dev} {ch : Nat} {w : UWord} {e : UEnv} (h : Keep d0 d) : Keep d0 (wordBody ch w e d) := by
  unfold wordBody
  repeat' (first
      | with_reducible exact h | with_reducible refine keep_freeVal ?_ | with_reducible refine keep_updSeq ?_
      | with_reducible refine keep_streamOp ?_ | split)

theorem keep_wordNext {d0 d : Dev} {ch : Nat} {b : Burst} {w : UWord} {e : UEnv} {pend : Byte} (h : Keep d0 d)
    : Keep d0 (wordNext ch b w e pend d) := by
  unfold wordNext
  repeat' (first
      | with_reducible exact h | with_reducible refine keep_updSeq ?_ | with_reducible refine keep_mcFault ?_
      | with_reducible refine keep_put ?_ ?_ | with_reducible refine keep_ite ?_ ?_
      | (show dataIdx _ _; unfold dataIdx; (first | decide | (simp only [rgIdx, chIdx, tcIdx, lgIdx, ptIdx, kpIdx]; omega) | omega))
      | dsimp only | split)

theorem keep_wordRun {d0 d : Dev} {ch : Nat} {b : Burst} {w : UWord} {e : UEnv} (h : Keep d0 d)
    : Keep d0 (wordRun ch b w e d) := by
  unfold wordRun
  repeat' (first
      | with_reducible exact h | with_reducible refine keep_updSeq ?_ | with_reducible refine keep_mcFault ?_
      | with_reducible refine keep_wordBody ?_ | with_reducible refine keep_wordNext ?_
      | with_reducible refine keep_put ?_ ?_ | with_reducible refine keep_cnt ?_ ?_
      | with_reducible refine keep_ite ?_ ?_
      | (show dataIdx _ _; unfold dataIdx; (first | decide | (simp only [rgIdx, chIdx, tcIdx, lgIdx, ptIdx, kpIdx]; omega) | omega)))

theorem keep_ucWord {d0 d : Dev} {ch : Nat} {w : UWord} {e : UEnv} (h : Keep d0 d) : Keep d0 (ucWord ch w e d) := by
  unfold ucWord
  repeat' (first
      | with_reducible exact h | with_reducible refine keep_mcFault ?_ | with_reducible refine keep_wordRun ?_
      | with_reducible refine keep_ite ?_ ?_ | split)

end Sys2Proof.Machine
end

