-- ==== Sys2Proof/Laws/KeepLocket.lean ====
section
/-! SUPPORT. What the functions of Machine/Locket.lean leave alone (Laws/Keep.lean). -/

set_option linter.unusedTactic false
set_option linter.unreachableTactic false
set_option linter.unusedSimpArgs false

namespace Sys2Proof.Machine

theorem keep_showCopy {d0 d : Dev} (h : Keep d0 d) : Keep d0 (showCopy d) := by
  unfold showCopy
  repeat' (first
      | with_reducible exact h | with_reducible assumption | with_reducible refine keep_put ?_ ?_
      | with_reducible refine keep_putB ?_ | with_reducible refine keep_foldl _ ?_ (fun _ _ _ => ?_)
      | (show dataIdx _ _; unfold dataIdx; (first | decide | (simp only [rgIdx, chIdx, tcIdx, lgIdx, ptIdx, kpIdx]; omega) | omega)))

theorem keep_seqInstall {d0 d : Dev} {ch : Nat} (h : Keep d0 d) : Keep d0 (seqInstall ch d) := by
  unfold seqInstall
  repeat' (first
      | with_reducible exact h | with_reducible refine keep_updSeq ?_ | with_reducible refine keep_put ?_ ?_
      | with_reducible refine keep_putBit ?_ ?_
      | (show dataIdx _ _; unfold dataIdx; (first | decide | (simp only [rgIdx, chIdx, tcIdx, lgIdx, ptIdx, kpIdx]; omega) | omega)))

theorem keep_seqLeave {d0 d : Dev} {ch : Nat} (h : Keep d0 d) : Keep d0 (seqLeave ch d) := by
  unfold seqLeave
  repeat' (first
      | with_reducible exact h | with_reducible refine keep_updSeq ?_ | with_reducible refine keep_putBit ?_ ?_
      | (show dataIdx _ _; unfold dataIdx; (first | decide | (simp only [rgIdx, chIdx, tcIdx, lgIdx, ptIdx, kpIdx]; omega) | omega)))

theorem keep_seqOn {d0 d : Dev} {ch : Nat} (h : Keep d0 d) : Keep d0 (seqOn ch d) := by
  unfold seqOn
  with_reducible repeat' (first | exact h | refine keep_seqInstall ?_ | refine keep_ite ?_ ?_)

theorem keep_lktEnd {d0 d : Dev} (h : Keep d0 d) : Keep d0 (lktEnd d) := by
  unfold lktEnd
  repeat' (first
      | with_reducible exact h | with_reducible refine keep_putB ?_ | dsimp only
      | fail_if_no_progress (with_reducible refine keep_mk ?_ ?_ <;> [skip; first | rfl | simp_all only]))

theorem keep_lktFail {d0 d : Dev} {cause : Nat} (h : Keep d0 d) : Keep d0 (lktFail cause d) := by
  unfold lktFail
  repeat' (first
      | with_reducible exact h | with_reducible refine keep_lktEnd ?_ | with_reducible refine keep_fault ?_
      | with_reducible refine keep_put ?_ ?_ | with_reducible refine keep_cnt ?_ ?_
      | (show dataIdx _ _; unfold dataIdx; (first | decide | (simp only [rgIdx, chIdx, tcIdx, lgIdx, ptIdx, kpIdx]; omega) | omega)))

theorem keep_keyNext {d0 d : Dev} (h : Keep d0 d) : Keep d0 (keyNext d) := by
  unfold keyNext
  repeat' (first
      | with_reducible exact h | with_reducible refine keep_ite ?_ ?_ | dsimp only
      | fail_if_no_progress (with_reducible refine keep_mk ?_ ?_ <;> [skip; first | rfl | simp_all only]))

theorem keep_lktStart {d0 d : Dev} (h : Keep d0 d) : Keep d0 (lktStart d) := by
  unfold lktStart
  repeat' (first
      | with_reducible exact h | with_reducible refine keep_lktFail ?_ | with_reducible refine keep_keyNext ?_
      | with_reducible refine keep_put ?_ ?_ | with_reducible refine keep_ite ?_ ?_
      | (show dataIdx _ _; unfold dataIdx; (first | decide | (simp only [rgIdx, chIdx, tcIdx, lgIdx, ptIdx, kpIdx]; omega) | omega))
      | dsimp only
      | fail_if_no_progress (with_reducible refine keep_mk ?_ ?_ <;> [skip; first | rfl | simp_all only]))

theorem soundk_lktStart {d0 d : Dev} (h : Sound d0 d) : Sound d0 (lktStart d) :=
    h.trans (keep_lktStart (Keep.refl d)).toSound

theorem keep_lktAccept {d0 d : Dev} {rs : List LktRec} (h : Keep d0 d) : Keep d0 (lktAccept rs d) := by
  unfold lktAccept
  repeat' (first
      | with_reducible exact h | with_reducible assumption | with_reducible refine keep_showCopy ?_
      | with_reducible refine keep_updSeq ?_ | with_reducible refine keep_kickAll ?_
      | with_reducible refine keep_lktEnd ?_ | with_reducible refine keep_put ?_ ?_
      | with_reducible refine keep_ite ?_ ?_ | with_reducible refine keep_foldl _ ?_ (fun _ _ _ => ?_)
      | (show dataIdx _ _; unfold dataIdx; (first | decide | (simp only [rgIdx, chIdx, tcIdx, lgIdx, ptIdx, kpIdx]; omega) | omega))
      | dsimp only
      | fail_if_no_progress (with_reducible refine keep_mk ?_ ?_ <;> [skip; first | rfl | simp_all only]))

theorem keep_lktOpen {d0 d : Dev} {key : Bytes} (h : Keep d0 d) : Keep d0 (lktOpen key d) := by
  unfold lktOpen
  repeat' (first
      | with_reducible exact h | with_reducible refine keep_lktFail ?_ | with_reducible refine keep_lktAccept ?_
      | with_reducible refine keep_ite ?_ ?_ | dsimp only | split)

theorem keep_keyWord {d0 d : Dev} {w : BitVec 64} (h : Keep d0 d) : Keep d0 (keyWord w d) := by
  unfold keyWord
  repeat' (first
      | with_reducible exact h | with_reducible refine keep_lktFail ?_ | with_reducible refine keep_lktOpen ?_
      | with_reducible refine keep_ite ?_ ?_ | dsimp only
      | fail_if_no_progress (with_reducible refine keep_mk ?_ ?_ <;> [skip; first | rfl | simp_all only]))

theorem keep_mcRevert {d0 d : Dev} (h : Keep d0 d) : Keep d0 (mcRevert d) := by
  unfold mcRevert
  repeat' (first
      | with_reducible exact h | with_reducible assumption | with_reducible refine keep_showCopy ?_
      | with_reducible refine keep_kickAll ?_ | with_reducible refine keep_updSeq ?_
      | with_reducible refine keep_put ?_ ?_ | with_reducible refine keep_foldl _ ?_ (fun _ _ _ => ?_)
      | (show dataIdx _ _; unfold dataIdx; (first | decide | (simp only [rgIdx, chIdx, tcIdx, lgIdx, ptIdx, kpIdx]; omega) | omega))
      | dsimp only
      | fail_if_no_progress (with_reducible refine keep_mk ?_ ?_ <;> [skip; first | rfl | simp_all only]))

theorem soundk_mcRevert {d0 d : Dev} (h : Sound d0 d) : Sound d0 (mcRevert d) :=
    h.trans (keep_mcRevert (Keep.refl d)).toSound

end Sys2Proof.Machine
end

