-- ==== Sys2Proof/Laws/KeepFlush.lean ====
section
/-! SUPPORT. What the functions of Machine/Flush.lean leave alone (Laws/Keep.lean). -/

set_option linter.unusedTactic false
set_option linter.unreachableTactic false
set_option linter.unusedSimpArgs false

namespace Sys2Proof.Machine

theorem keep_flushRead {d0 d : Dev} {u : NUnit} {a : Nat} {n : Nat} (h : Keep d0 d)
    : Keep d0 (flushRead u a n d).2 := by
  unfold flushRead
  with_reducible repeat' (first | exact h | refine keep_sbFetch ?_)

theorem keep_flushReadE {d0 d : Dev} {u : NUnit} {a : Nat} {n : Nat} {r9 : Option Bytes × Dev} (h : Keep d0 d)
    (e9 : (flushRead u a n d) = r9) : Keep d0 r9.2 := e9 ▸ keep_flushRead h

theorem keep_flushReads {d0 d : Dev} {u : NUnit} {l : List (Nat × Nat)} (h : Keep d0 d)
    : Keep d0 (flushReads u l d).2 := by
  unfold flushReads
  with_reducible repeat' (first
      | exact h | assumption | refine keep_flushRead ?_ | refine keep_foldl_snd _ ?_ (fun _ _ _ => ?_))

theorem keep_flushReadsE {d0 d : Dev} {u : NUnit} {l : List (Nat × Nat)} {r9 : Option (List Bytes) × Dev}
    (h : Keep d0 d) (e9 : (flushReads u l d) = r9) : Keep d0 r9.2 := e9 ▸ keep_flushReads h

theorem keep_accItems {d0 d : Dev} (h : Keep d0 d) : Keep d0 (accItems d).2 := by
  unfold accItems
  repeat' (first
      | with_reducible exact h | with_reducible assumption | with_reducible refine keep_flushReads ?_
      | with_reducible refine keep_foldl_snd _ ?_ (fun _ _ _ => ?_) | dsimp only | split)

theorem keep_accItemsE {d0 d : Dev} {r9 : List FItem × Dev} (h : Keep d0 d) (e9 : (accItems d) = r9)
    : Keep d0 r9.2 := e9 ▸ keep_accItems h

theorem keep_salvageItems {d0 d : Dev} (h : Keep d0 d) : Keep d0 (salvageItems d).2 := by
  unfold salvageItems
  repeat' (first
      | with_reducible exact h | with_reducible assumption | with_reducible refine keep_flushReads ?_
      | with_reducible refine keep_updLan ?_ (fun _ => rfl) | with_reducible refine keep_ite ?_ ?_
      | with_reducible refine keep_foldl_snd _ ?_ (fun _ _ _ => ?_) | dsimp only | split)

theorem keep_salvageItemsE {d0 d : Dev} {r9 : List FItem × Dev} (h : Keep d0 d) (e9 : (salvageItems d) = r9)
    : Keep d0 r9.2 := e9 ▸ keep_salvageItems h

theorem keep_flushResetDie {d0 d : Dev} {n : Nat} (h : Keep d0 d) : Keep d0 (flushResetDie n d) := by
  unfold flushResetDie
  with_reducible repeat' (first | exact h | refine keep_endMulti ?_ | refine keep_updDie ?_ | refine keep_ite ?_ ?_)

theorem keep_flushDiscard {d0 d : Dev} {n : Nat} (h : Keep d0 d) : Keep d0 (flushDiscard n d) := by
  unfold flushDiscard
  with_reducible repeat' (first | exact h | refine keep_updDie ?_)

theorem keep_flushStart {d0 d : Dev} (h : Keep d0 d) : Keep d0 (flushStart d) := by
  unfold flushStart
  repeat' (first
      | with_reducible exact h | with_reducible assumption | with_reducible refine keep_salvageItems ?_
      | with_reducible refine keep_accItems ?_ | with_reducible refine keep_flushResetDie ?_
      | with_reducible refine keep_flushDiscard ?_ | with_reducible refine keep_updClasp ?_
      | with_reducible refine keep_kick ?_ | with_reducible refine keep_claspFeed ?_
      | with_reducible refine keep_put ?_ ?_ | with_reducible refine keep_cntN ?_ ?_
      | with_reducible refine keep_cnt ?_ ?_ | with_reducible refine keep_foldl _ ?_ (fun _ _ _ => ?_)
      | (show dataIdx _ _; unfold dataIdx; (first | decide | (simp only [rgIdx, chIdx, tcIdx, lgIdx, ptIdx, kpIdx]; omega) | omega))
      | dsimp only | split)

theorem soundk_flushStart {d0 d : Dev} (h : Sound d0 d) : Sound d0 (flushStart d) :=
    h.trans (keep_flushStart (Keep.refl d)).toSound

theorem keep_dropStuck {d0 d : Dev} (h : Keep d0 d) : Keep d0 (dropStuck d) := by
  unfold dropStuck
  repeat' (first
      | with_reducible exact h | with_reducible refine keep_updClasp ?_ | with_reducible refine keep_cntN ?_ ?_
      | (show dataIdx _ _; unfold dataIdx; (first | decide | (simp only [rgIdx, chIdx, tcIdx, lgIdx, ptIdx, kpIdx]; omega) | omega))
      | dsimp only | split)

theorem keep_flushTail {d0 d : Dev} {f : Flush} (h : Keep d0 d) : Keep d0 (flushTail f d) := by
  unfold flushTail
  repeat' (first
      | with_reducible exact h | with_reducible refine keep_updClasp ?_ | with_reducible refine keep_put ?_ ?_
      | (show dataIdx _ _; unfold dataIdx; (first | decide | (simp only [rgIdx, chIdx, tcIdx, lgIdx, ptIdx, kpIdx]; omega) | omega)))

theorem keep_flushIndex {d0 d : Dev} {f : Flush} (h : Keep d0 d) : Keep d0 (flushIndex f d) := by
  unfold flushIndex
  repeat' (first
      | with_reducible exact h | with_reducible refine keep_updClasp ?_ | with_reducible refine keep_put ?_ ?_
      | (show dataIdx _ _; unfold dataIdx; (first | decide | (simp only [rgIdx, chIdx, tcIdx, lgIdx, ptIdx, kpIdx]; omega) | omega)))

theorem keep_flushAdvance {d0 d : Dev} (h : Keep d0 d) : Keep d0 (flushAdvance d) := by
  unfold flushAdvance
  repeat' (first
      | with_reducible exact h | with_reducible refine keep_dropStuck ?_ | with_reducible refine keep_flushTail ?_
      | with_reducible refine keep_flushIndex ?_ | with_reducible refine keep_ite ?_ ?_ | dsimp only | split)

theorem soundk_flushAdvance {d0 d : Dev} (h : Sound d0 d) : Sound d0 (flushAdvance d) :=
    h.trans (keep_flushAdvance (Keep.refl d)).toSound

theorem keep_flushDrive {d0 d : Dev} {n : Nat} {at_ : Nat} {i : FItem} (h : Keep d0 d)
    : Keep d0 (flushDrive d n at_ i) := by
  unfold flushDrive
  with_reducible repeat' (first
      | exact h | assumption | refine keep_claspPayload ?_ | refine keep_updChan ?_
      | refine keep_foldl_snd _ ?_ (fun _ _ _ => ?_))

theorem keep_flushWave {d0 d : Dev} {n : Nat} {ok : Bool} (h : Keep d0 d) : Keep d0 (flushWave n ok d) := by
  unfold flushWave
  repeat' (first
      | with_reducible exact h | with_reducible refine keep_flushAdvance ?_ | with_reducible refine keep_flushDrive ?_
      | with_reducible refine keep_updClasp ?_ | with_reducible refine keep_cnt ?_ ?_
      | with_reducible refine keep_ite ?_ ?_
      | (show dataIdx _ _; unfold dataIdx; (first | decide | (simp only [rgIdx, chIdx, tcIdx, lgIdx, ptIdx, kpIdx]; omega) | omega))
      | dsimp only | split)

theorem keep_flushEnd {d0 d : Dev} (h : Keep d0 d) : Keep d0 (flushEnd d) := by
  unfold flushEnd
  repeat' (first
      | with_reducible exact h | with_reducible refine keep_updClasp ?_ | with_reducible refine keep_put ?_ ?_
      | (show dataIdx _ _; unfold dataIdx; (first | decide | (simp only [rgIdx, chIdx, tcIdx, lgIdx, ptIdx, kpIdx]; omega) | omega)))

theorem soundk_flushEnd {d0 d : Dev} (h : Sound d0 d) : Sound d0 (flushEnd d) :=
    h.trans (keep_flushEnd (Keep.refl d)).toSound

end Sys2Proof.Machine
end

