-- ==== Sys2Proof/Laws/KeepAdmin.lean ====
section
/-! SUPPORT. What the functions of Machine/Admin.lean leave alone (Laws/Keep.lean). -/

set_option linter.unusedTactic false
set_option linter.unreachableTactic false
set_option linter.unusedSimpArgs false

namespace Sys2Proof.Machine

theorem keep_applyConfig {d0 d : Dev} (h : Keep d0 d) : Keep d0 (applyConfig d) := by
  unfold applyConfig
  repeat' (first
      | with_reducible exact h | with_reducible assumption | with_reducible refine keep_updLan ?_ (fun _ => rfl)
      | with_reducible refine keep_put ?_ ?_ | with_reducible refine keep_foldl _ ?_ (fun _ _ _ => ?_)
      | (show dataIdx _ _; unfold dataIdx; (first | decide | (simp only [rgIdx, chIdx, tcIdx, lgIdx, ptIdx, kpIdx]; omega) | omega)))

theorem keep_ltQuiesce {d0 d : Dev} {v : Nat} (h : Keep d0 d) : Keep d0 (ltQuiesce v d) := by
  unfold ltQuiesce
  repeat' (first
      | with_reducible exact h | with_reducible refine keep_put ?_ ?_ | with_reducible refine keep_ite ?_ ?_
      | (show dataIdx _ _; unfold dataIdx; (first | decide | (simp only [rgIdx, chIdx, tcIdx, lgIdx, ptIdx, kpIdx]; omega) | omega)))

theorem soundk_ltQuiesce {d0 d : Dev} {v : Nat} (h : Sound d0 d) : Sound d0 (ltQuiesce v d) :=
    h.trans (keep_ltQuiesce (Keep.refl d)).toSound

theorem keep_lanternQuiesced {d0 d : Dev} (h : Keep d0 d) : Keep d0 (lanternQuiesced d) := by
  unfold lanternQuiesced
  repeat' (first
      | with_reducible exact h | with_reducible refine keep_writeBackAll ?_ | with_reducible refine keep_put ?_ ?_
      | with_reducible refine keep_ite ?_ ?_
      | (show dataIdx _ _; unfold dataIdx; (first | decide | (simp only [rgIdx, chIdx, tcIdx, lgIdx, ptIdx, kpIdx]; omega) | omega)))

theorem keep_closeExcluded {d0 d : Dev} (h : Keep d0 d) : Keep d0 (closeExcluded d) := by
  unfold closeExcluded
  with_reducible repeat' (first
      | exact h | assumption | refine keep_feedBands ?_ | refine keep_closeBand ?_ | refine keep_ite ?_ ?_
      | refine keep_foldl _ ?_ (fun _ _ _ => ?_))

theorem soundk_closeExcluded {d0 d : Dev} (h : Sound d0 d) : Sound d0 (closeExcluded d) :=
    h.trans (keep_closeExcluded (Keep.refl d)).toSound

theorem keep_dropWays {d0 d : Dev} {v : Nat} (h : Keep d0 d) : Keep d0 (dropWays v d) := by
  unfold dropWays
  with_reducible repeat' (first
      | exact h | assumption | refine keep_updLan ?_ (fun _ => rfl) | refine keep_writeBack ?_
      | refine keep_foldl _ ?_ (fun _ _ _ => ?_))

theorem soundk_dropWays {d0 d : Dev} {v : Nat} (h : Sound d0 d) : Sound d0 (dropWays v d) :=
    h.trans (keep_dropWays (Keep.refl d)).toSound

theorem keep_poolsFrom {d0 d : Dev} {cs : List CensusBlk} (h : Keep d0 d) : Keep d0 (poolsFrom cs d) := by
  unfold poolsFrom
  with_reducible repeat' (first
      | exact h | assumption | refine keep_updSys ?_ | refine keep_foldl _ ?_ (fun _ _ _ => ?_))

theorem keep_enterService {d0 d : Dev} (h : Keep d0 d) : Keep d0 (enterService d) := by
  unfold enterService
  repeat' (first
      | with_reducible exact h | with_reducible refine keep_put ?_ ?_
      | (show dataIdx _ _; unfold dataIdx; (first | decide | (simp only [rgIdx, chIdx, tcIdx, lgIdx, ptIdx, kpIdx]; omega) | omega)))

theorem keep_mapInit {d0 d : Dev} {m : Media} (h : Keep d0 d) : Keep d0 (mapInit m d) := by
  unfold mapInit
  repeat' (first
      | with_reducible exact h | with_reducible assumption | with_reducible refine keep_applyConfig ?_
      | with_reducible refine keep_updBlk ?_ | with_reducible refine keep_updClasp ?_
      | with_reducible refine keep_eraseDirty ?_ | with_reducible refine keep_claspStart ?_
      | with_reducible refine keep_claspFeed ?_ | with_reducible refine keep_ckptTrigger ?_
      | with_reducible refine keep_enterService ?_ | with_reducible refine keep_foldl _ ?_ (fun _ _ _ => ?_)
      | dsimp only
      | fail_if_no_progress (with_reducible refine keep_mk ?_ ?_ <;> [skip; first | rfl | simp_all only]))

theorem keep_applyRec {d0 d : Dev} {r : JRec} (h : Keep d0 d) : Keep d0 (applyRec r d) := by
  unfold applyRec
  repeat' (first
      | with_reducible exact h | with_reducible refine keep_updLan ?_ (fun _ => rfl)
      | with_reducible refine keep_updBlk ?_ | with_reducible refine keep_putBandMem ?_ | dsimp only | split)

theorem keep_applyCommit {d0 d : Dev} {rs : List JRec} (h : Keep d0 d) : Keep d0 (applyCommit rs d) := by
  unfold applyCommit
  with_reducible repeat' (first
      | exact h | assumption | refine keep_applyRec ?_ | refine keep_ite ?_ ?_
      | refine keep_foldl _ ?_ (fun _ _ _ => ?_))

theorem keep_loadCkpt {d0 d : Dev} {c : CkptImage} (h : Keep d0 d) : Keep d0 (loadCkpt c d) := by
  unfold loadCkpt
  with_reducible repeat' (first
      | exact h | assumption | refine keep_updLan ?_ (fun _ => rfl) | refine keep_putBandMem ?_ | refine keep_putB ?_
      | refine keep_foldl _ ?_ (fun _ _ _ => ?_))

theorem keep_bandFrom {d0 d : Dev} {k : Nat × Nat} (h : Keep d0 d) : Keep d0 (bandFrom k d) := by
  unfold bandFrom
  with_reducible repeat' (first | exact h | refine keep_freshId ?_ | refine keep_updLan ?_ (fun _ => rfl))

theorem keep_recount {d0 d : Dev} (h : Keep d0 d) : Keep d0 (recount d) := by
  unfold recount
  repeat' (first
      | with_reducible exact h | with_reducible assumption | with_reducible refine keep_updBlk ?_
      | with_reducible refine keep_moveUnits ?_ | with_reducible refine keep_foldl _ ?_ (fun _ _ _ => ?_) | split)

theorem keep_heldWrite {d0 d : Dev} {g : Gran} {key : Key} {life : Nat} {temp : Nat} {stream : Nat} {rset : Nat}
    {bad : Nat} {data : List Bytes} (h : Keep d0 d) : Keep d0 (heldWrite g key life temp stream rset bad data d) := by
  unfold heldWrite
  with_reducible repeat' (first | exact h | refine keep_freshId ?_ | refine keep_updLan ?_ (fun _ => rfl))

theorem keep_applyClose {d0 d : Dev} {f : CloseFinding} (h : Keep d0 d) : Keep d0 (applyClose f d) := by
  unfold applyClose
  repeat' (first
      | with_reducible exact h | with_reducible refine keep_cutMember ?_ | with_reducible refine keep_heldWrite ?_
      | with_reducible refine keep_cnt ?_ ?_
      | (show dataIdx _ _; unfold dataIdx; (first | decide | (simp only [rgIdx, chIdx, tcIdx, lgIdx, ptIdx, kpIdx]; omega) | omega))
      | dsimp only | split)

theorem keep_closeAll {d0 d : Dev} (h : Keep d0 d) : Keep d0 (closeAll d) := by
  unfold closeAll
  with_reducible repeat' (first
      | exact h | assumption | refine keep_setBstate ?_ | refine keep_foldl _ ?_ (fun _ _ _ => ?_))

theorem keep_tearErase {d0 d : Dev} {n : Nat} {b : Nat} (h : Keep d0 d) : Keep d0 (tearErase n b d) := by
  unfold tearErase
  with_reducible repeat' (first
      | exact h | refine keep_queueErase ?_ | refine keep_setBstate ?_ | refine keep_updLan ?_ (fun _ => rfl))

theorem keep_settleUnit {d0 d : Dev} {u : RelUnit} (h : Keep d0 d) : Keep d0 (settleUnit u d) := by
  unfold settleUnit
  repeat' (first
      | with_reducible exact h | with_reducible refine keep_jMap ?_ | with_reducible refine keep_putMap ?_
      | with_reducible refine keep_moveUnits ?_ | with_reducible refine keep_ite ?_ ?_ | dsimp only | split)

theorem keep_settleRelocs {d0 d : Dev} {rs : List JRec} {us : List RelUnit} (h : Keep d0 d)
    : Keep d0 (settleRelocs rs us d) := by
  unfold settleRelocs
  repeat' (first
      | with_reducible exact h | with_reducible assumption | with_reducible refine keep_settleUnit ?_
      | with_reducible refine keep_queueErase ?_ | with_reducible refine keep_updLan ?_ (fun _ => rfl)
      | with_reducible refine keep_setBstate ?_ | with_reducible refine keep_tearErase ?_
      | with_reducible refine keep_cnt ?_ ?_ | with_reducible refine keep_ite ?_ ?_
      | with_reducible refine keep_foldl _ ?_ (fun _ _ _ => ?_)
      | (show dataIdx _ _; unfold dataIdx; (first | decide | (simp only [rgIdx, chIdx, tcIdx, lgIdx, ptIdx, kpIdx]; omega) | omega)))

theorem keep_probeErases {d0 d : Dev} {rs : List JRec} {ps : List ProbeRead} (h : Keep d0 d)
    : Keep d0 (probeErases rs ps d) := by
  unfold probeErases
  repeat' (first
      | with_reducible exact h | with_reducible assumption | with_reducible refine keep_updClasp ?_
      | with_reducible refine keep_queueErase ?_ | with_reducible refine keep_cnt ?_ ?_
      | with_reducible refine keep_ite ?_ ?_ | with_reducible refine keep_foldl _ ?_ (fun _ _ _ => ?_)
      | (show dataIdx _ _; unfold dataIdx; (first | decide | (simp only [rgIdx, chIdx, tcIdx, lgIdx, ptIdx, kpIdx]; omega) | omega))
      | split)

theorem keep_applySalvage {d0 d : Dev} {u : SalvUnit} (h : Keep d0 d) : Keep d0 (applySalvage u d) := by
  unfold applySalvage
  repeat' (first
      | with_reducible exact h | with_reducible refine keep_heldWrite ?_
      | with_reducible refine keep_updLan ?_ (fun _ => rfl) | with_reducible refine keep_cnt ?_ ?_
      | (show dataIdx _ _; unfold dataIdx; (first | decide | (simp only [rgIdx, chIdx, tcIdx, lgIdx, ptIdx, kpIdx]; omega) | omega))
      | dsimp only | split)

theorem keep_replayFail {d0 d : Dev} {cause : Nat} (h : Keep d0 d) : Keep d0 (replayFail cause d) := by
  unfold replayFail
  repeat' (first
      | with_reducible exact h | with_reducible refine keep_fault ?_ | with_reducible refine keep_put ?_ ?_
      | (show dataIdx _ _; unfold dataIdx; (first | decide | (simp only [rgIdx, chIdx, tcIdx, lgIdx, ptIdx, kpIdx]; omega) | omega)))

theorem keep_replay {d0 d : Dev} {m : Media} (h : Keep d0 d) : Keep d0 (replay m d) := by
  unfold replay
  repeat' (first
      | with_reducible exact h | with_reducible assumption | with_reducible refine keep_replayFail ?_
      | with_reducible refine keep_loadCkpt ?_ | with_reducible refine keep_applyConfig ?_
      | with_reducible refine keep_applyCommit ?_ | with_reducible refine keep_updClasp ?_
      | with_reducible refine keep_poolsFrom ?_ | with_reducible refine keep_claspStart ?_
      | with_reducible refine keep_recount ?_ | with_reducible refine keep_bandFrom ?_
      | with_reducible refine keep_closeAll ?_ | with_reducible refine keep_applyClose ?_
      | with_reducible refine keep_probeErases ?_ | with_reducible refine keep_settleRelocs ?_
      | with_reducible refine keep_applySalvage ?_ | with_reducible refine keep_claspFeed ?_
      | with_reducible refine keep_ckptTrigger ?_ | with_reducible refine keep_eraseDirty ?_
      | with_reducible refine keep_enterService ?_ | with_reducible refine keep_put ?_ ?_
      | with_reducible refine keep_cnt ?_ ?_ | with_reducible refine keep_ite ?_ ?_
      | with_reducible refine keep_foldl _ ?_ (fun _ _ _ => ?_)
      | (show dataIdx _ _; unfold dataIdx; (first | decide | (simp only [rgIdx, chIdx, tcIdx, lgIdx, ptIdx, kpIdx]; omega) | omega))
      | dsimp only | split)

end Sys2Proof.Machine
end

