-- ==== Sys2Proof/Laws/KeepInbound.lean ====
section
/-! SUPPORT. What the functions of Machine/Inbound.lean leave alone (Laws/Keep.lean). -/

set_option linter.unusedTactic false
set_option linter.unreachableTactic false
set_option linter.unusedSimpArgs false

namespace Sys2Proof.Machine

theorem keep_queueIn {d0 d : Dev} {p : Nat} {k : YppClass} {c : Instr} (h : Keep d0 d) : Keep d0 (queueIn p k c d) := by
  unfold queueIn
  with_reducible repeat' (first | exact h | refine keep_xoffUpdate ?_ | refine keep_updPort ?_)

theorem keep_writeRefused {d0 d : Dev} {p : Nat} {h_ : ReqHdr} (h : Keep d0 d) : Keep d0 (writeRefused p h_ d) := by
  unfold writeRefused
  repeat' (first
      | with_reducible exact h | with_reducible refine keep_answer ?_ | with_reducible refine keep_creditPulse ?_
      | with_reducible refine keep_cntN ?_ ?_ | with_reducible refine keep_cnt ?_ ?_
      | (show dataIdx _ _; unfold dataIdx; (first | decide | (simp only [rgIdx, chIdx, tcIdx, lgIdx, ptIdx, kpIdx]; omega) | omega)))

theorem keep_badHeader {d0 d : Dev} {p : Nat} {cls : YppClass} {op : Nat} {txid : Nat} (h : Keep d0 d)
    : Keep d0 (badHeader p cls op txid d) := by
  unfold badHeader
  repeat' (first
      | with_reducible exact h | with_reducible refine keep_creditPulse ?_ | with_reducible refine keep_answer ?_
      | with_reducible refine keep_cnt ?_ ?_
      | (show dataIdx _ _; unfold dataIdx; (first | decide | (simp only [rgIdx, chIdx, tcIdx, lgIdx, ptIdx, kpIdx]; omega) | omega))
      | split)

theorem keep_dbAnswer {d0 d : Dev} {p : Nat} {r : Nat} {txid : Nat} {f : Dev → Dev} (h : Keep d0 d)
    (hf : ∀ y0, Keep d0 y0 → Keep d0 (f y0)) : Keep d0 (dbAnswer p r txid f d) := by
  unfold dbAnswer
  repeat' (first
      | with_reducible exact h | with_reducible apply hf | with_reducible refine keep_answer ?_
      | with_reducible refine keep_cnt ?_ ?_ | with_reducible refine keep_ite ?_ ?_
      | (show dataIdx _ _; unfold dataIdx; (first | decide | (simp only [rgIdx, chIdx, tcIdx, lgIdx, ptIdx, kpIdx]; omega) | omega)))

theorem keep_dbHalves {d0 d : Dev} {r : Nat} {sq : Option (BitVec 32)} {cq : Option (BitVec 32)} (h : Keep d0 d)
    : Keep d0 (dbHalves r sq cq d) := by
  unfold dbHalves
  repeat' (first
      | with_reducible exact h | with_reducible refine keep_dbSqWord ?_ | with_reducible refine keep_newCqHead ?_
      | dsimp only | split)

theorem keep_nextIn {d0 d : Dev} {p : Nat} {r9 : (Instr × List Instr × Dev)} (h : Keep d0 d) (e9 : (nextIn d p)
    = some r9) : Keep d0 r9.2.2 := by
  unfold nextIn at e9
  repeat' (first
      | split at e9
      | simp only [Option.map_eq_some_iff, Option.bind_eq_some_iff, Option.some.injEq, reduceCtorEq] at e9
      | (obtain ⟨_, _, e9⟩ := e9))
  all_goals (try subst e9)
  all_goals repeat' (first | with_reducible exact h | with_reducible refine keep_updPort ?_)

theorem keep_afterIn {d0 d : Dev} {p : Nat} {rest : List Instr} (h : Keep d0 d) : Keep d0 (afterIn p rest d) := by
  unfold afterIn
  with_reducible repeat' (first
      | exact h | refine keep_xoffUpdate ?_ | refine keep_updPort ?_ | refine keep_ite ?_ ?_)

end Sys2Proof.Machine
end

