-- ==== Sys2Proof/Laws/KeepKeeper.lean ====
section
/-! SUPPORT. What the functions of Machine/Keeper.lean leave alone (Laws/Keep.lean). -/

set_option linter.unusedTactic false
set_option linter.unreachableTactic false
set_option linter.unusedSimpArgs false

namespace Sys2Proof.Machine

theorem keep_kpPut {d0 d : Dev} {base n v : Nat} (h : Keep d0 d) (hb : 0x2108 ≤ base) : Keep d0 (kpPut base n v d) :=
  keep_put h (by unfold dataIdx kpIdx; omega)

theorem soundk_kpPut {d0 d : Dev} {base n v : Nat} (h : Sound d0 d) : Sound d0 (kpPut base n v d) := sound_put h

theorem keep_kpCnt {d0 d : Dev} {base n : Nat} (h : Keep d0 d) (hb : 0x2108 ≤ base) : Keep d0 (kpCnt base n d) :=
  keep_cnt h (by unfold dataIdx kpIdx; omega)

theorem soundk_kpCnt {d0 d : Dev} {base n : Nat} (h : Sound d0 d) : Sound d0 (kpCnt base n d) := sound_cnt h

theorem keep_refuseReq {d0 d : Dev} {n : Nat} {tgt : Nat} {m : Nat} {code : Nat} {detail : Nat} (h : Keep d0 d)
    : Keep d0 (refuseReq n tgt m code detail d) := by
  unfold refuseReq
  repeat' (first
      | with_reducible exact h | with_reducible refine keep_kpPut ?_ ?_ | with_reducible refine keep_kpCnt ?_ ?_
      | with_reducible refine keep_cnt ?_ ?_ | (show 0x2108 ≤ _; decide)
      | (show dataIdx _ _; unfold dataIdx; (first | decide | (simp only [rgIdx, chIdx, tcIdx, lgIdx, ptIdx, kpIdx]; omega) | omega)))

theorem keep_abortReq {d0 d : Dev} {n : Nat} {tgt : Nat} {m : Nat} {code : Nat} {detail : Nat} (h : Keep d0 d)
    : Keep d0 (abortReq n tgt m code detail d) := by
  unfold abortReq
  repeat' (first
      | with_reducible exact h | with_reducible refine keep_kpPut ?_ ?_ | with_reducible refine keep_kpCnt ?_ ?_
      | with_reducible refine keep_cnt ?_ ?_ | (show 0x2108 ≤ _; decide)
      | (show dataIdx _ _; unfold dataIdx; (first | decide | (simp only [rgIdx, chIdx, tcIdx, lgIdx, ptIdx, kpIdx]; omega) | omega)))

theorem soundk_abortReq {d0 d : Dev} {n : Nat} {tgt : Nat} {m : Nat} {code : Nat} {detail : Nat} (h : Sound d0 d)
    : Sound d0 (abortReq n tgt m code detail d) := h.trans (keep_abortReq (Keep.refl d)).toSound

theorem keep_wake {d0 d : Dev} {n : Nat} {m : Nat} (h : Keep d0 d) : Keep d0 (wake n m d) := by
  unfold wake
  with_reducible repeat' (first | exact h | refine keep_updDom ?_)

theorem soundk_wake {d0 d : Dev} {n : Nat} {m : Nat} (h : Sound d0 d) : Sound d0 (wake n m d) :=
    h.trans (keep_wake (Keep.refl d)).toSound

theorem keep_judge {d0 d : Dev} {n : Nat} {v : Nat} {m : Nat} {via : Option Nat} (h : Keep d0 d)
    : Keep d0 (judge n v m via d) := by
  unfold judge
  repeat' (first
      | with_reducible exact h | with_reducible refine keep_wake ?_ | with_reducible refine keep_updDom ?_
      | with_reducible refine keep_refuseReq ?_ | with_reducible refine keep_sendVia ?_
      | with_reducible refine keep_cnt ?_ ?_ | with_reducible refine keep_ite ?_ ?_
      | (show dataIdx _ _; unfold dataIdx; (first | decide | (simp only [rgIdx, chIdx, tcIdx, lgIdx, ptIdx, kpIdx]; omega) | omega))
      | split)

theorem soundk_judge {d0 d : Dev} {n : Nat} {v : Nat} {m : Nat} {via : Option Nat} (h : Sound d0 d)
    : Sound d0 (judge n v m via d) := h.trans (keep_judge (Keep.refl d)).toSound

theorem sound_takeReq {d0 d : Dev} {n : Nat} {v : Nat} {m : Nat} {via : Option Nat} (h : Sound d0 d)
    : Sound d0 (takeReq n v m via d) := by
  unfold takeReq
  repeat' (first
      | with_reducible exact h | with_reducible refine soundk_kpPut ?_ | with_reducible refine soundk_judge ?_
      | with_reducible refine soundk_updDom ?_ | with_reducible refine soundk_abortReq ?_
      | with_reducible refine sound_cnt ?_ | with_reducible refine sound_ite ?_ ?_ | split
      | fail_if_no_progress (with_reducible refine sound_mk ?_ ?_ <;> [skip; first | rfl | simp_all only]))

theorem keep_takePend {d0 d : Dev} {n : Nat} (h : Keep d0 d) : Keep d0 (takePend n d) := by
  unfold takePend
  repeat' (first
      | with_reducible exact h | with_reducible refine keep_judge ?_ | with_reducible refine keep_updDom ?_ | split)

theorem soundk_takePend {d0 d : Dev} {n : Nat} (h : Sound d0 d) : Sound d0 (takePend n d) :=
    h.trans (keep_takePend (Keep.refl d)).toSound

theorem sound_nextPower {d0 d : Dev} (h : Sound d0 d) : Sound d0 (nextPower d) := by
  unfold nextPower
  repeat' (first
      | with_reducible exact h | with_reducible refine soundk_wake ?_ | split
      | fail_if_no_progress (with_reducible refine sound_mk ?_ ?_ <;> [skip; first | rfl | simp_all only]))

theorem keep_diesOff {d0 d : Dev} {ch : Nat} (h : Keep d0 d) : Keep d0 (diesOff ch d) := by
  unfold diesOff
  with_reducible repeat' (first
      | exact h | assumption | refine keep_markFailed ?_ | refine keep_updDie ?_
      | refine keep_foldl _ ?_ (fun _ _ _ => ?_))

theorem keep_domLeave {d0 d : Dev} {n : Nat} (h : Keep d0 d) : Keep d0 (domLeave n d) := by
  unfold domLeave
  repeat' (first
      | with_reducible exact h | with_reducible refine keep_updSeq ?_ | with_reducible refine keep_updChan ?_
      | with_reducible refine keep_diesOff ?_ | with_reducible refine keep_linkDown ?_
      | with_reducible refine keep_ite ?_ ?_ | split)

theorem keep_diesCold {d0 d : Dev} {ch : Nat} (h : Keep d0 d) : Keep d0 (diesCold ch d) := by
  unfold diesCold
  with_reducible repeat' (first
      | exact h | assumption | refine keep_markFailed ?_ | refine keep_updDie ?_
      | refine keep_foldl _ ?_ (fun _ _ _ => ?_))

theorem keep_seqCold {d0 d : Dev} {ch : Nat} (h : Keep d0 d) : Keep d0 (seqCold ch d) := by
  unfold seqCold
  with_reducible repeat' (first
      | exact h | refine keep_startIdent ?_ | refine keep_timingReset ?_ | refine keep_updChan ?_
      | refine keep_seqOn ?_ | refine keep_updSeq ?_ | refine keep_diesCold ?_)

theorem keep_seqWarm {d0 d : Dev} {ch : Nat} (h : Keep d0 d) : Keep d0 (seqWarm ch d) := by
  unfold seqWarm
  with_reducible repeat' (first
      | exact h | assumption | refine keep_updChan ?_ | refine keep_updDie ?_
      | refine keep_foldl _ ?_ (fun _ _ _ => ?_))

theorem keep_lanternReset {d0 d : Dev} (h : Keep d0 d) : Keep d0 (lanternReset d) := by
  unfold lanternReset
  repeat' (first
      | with_reducible exact h | with_reducible refine keep_put ?_ ?_
      | (show dataIdx _ _; unfold dataIdx; (first | decide | (simp only [rgIdx, chIdx, tcIdx, lgIdx, ptIdx, kpIdx]; omega) | omega))
      | dsimp only
      | fail_if_no_progress (with_reducible refine keep_mk ?_ ?_ <;> [skip; first | rfl | simp_all only]))

theorem soundk_lanternReset {d0 d : Dev} (h : Sound d0 d) : Sound d0 (lanternReset d) :=
    h.trans (keep_lanternReset (Keep.refl d)).toSound

theorem keep_sbErase {d0 d : Dev} {g : Nat} (h : Keep d0 d) : Keep d0 (sbErase g d) :=
  ⟨⟨h.cfg, h.dict, fun hb => tabWf_filter _ _ (h.buf hb)⟩, h.ctl, h.wake, h.glob⟩

theorem soundk_sbErase {d0 d : Dev} {g : Nat} (h : Sound d0 d) : Sound d0 (sbErase g d) :=
    h.trans (keep_sbErase (Keep.refl d)).toSound

theorem keep_domOn {d0 d : Dev} {n : Nat} {cold : Bool} (h : Keep d0 d) : Keep d0 (domOn n cold d) := by
  unfold domOn
  repeat' (first
      | with_reducible exact h | with_reducible assumption | with_reducible refine keep_wantTrain ?_
      | with_reducible refine keep_updChan ?_ | with_reducible refine keep_seqCold ?_
      | with_reducible refine keep_seqWarm ?_ | with_reducible refine keep_kick ?_
      | with_reducible refine keep_updDec ?_ | with_reducible refine keep_sbErase ?_
      | with_reducible refine keep_askWanted ?_ | with_reducible refine keep_updLan ?_ (fun _ => rfl)
      | with_reducible refine keep_lanternReset ?_ | with_reducible refine keep_updTch ?_
      | with_reducible refine keep_settle ?_ | with_reducible refine keep_linkUp ?_
      | with_reducible refine keep_bellReset ?_ | with_reducible refine keep_put ?_ ?_
      | with_reducible refine keep_ite ?_ ?_ | with_reducible refine keep_foldl _ ?_ (fun _ _ _ => ?_)
      | (show dataIdx _ _; unfold dataIdx; (first | decide | (simp only [rgIdx, chIdx, tcIdx, lgIdx, ptIdx, kpIdx]; omega) | omega))
      | dsimp only | split)

theorem soundk_domOn {d0 d : Dev} {n : Nat} {cold : Bool} (h : Sound d0 d) : Sound d0 (domOn n cold d) :=
    h.trans (keep_domOn (Keep.refl d)).toSound

theorem keep_decoderLost {d0 d : Dev} {k : Nat} (h : Keep d0 d) : Keep d0 (decoderLost k d) := by
  unfold decoderLost
  with_reducible repeat' (first
      | exact h | assumption | refine keep_updChan ?_ | refine keep_updDec ?_
      | refine keep_foldl _ ?_ (fun _ _ _ => ?_))

theorem keep_lostCopy {d0 d : Dev} {g : Nat} {w : WJob} (h : Keep d0 d) : Keep d0 (lostCopy g w d) := by
  unfold lostCopy
  with_reducible repeat' (first
      | exact h | refine keep_fetchAgain ?_ | refine keep_updWjob ?_ | refine keep_ite ?_ ?_)

theorem keep_lostAcc {d0 d : Dev} {b : Nat} {rw : Row} (h : Keep d0 d) : Keep d0 (lostAcc b rw d) := by
  unfold lostAcc
  repeat' (first
      | with_reducible exact h | with_reducible assumption
      | with_reducible refine keep_sbAlloc (r9 := (_, _)) ?_ (by assumption) | with_reducible refine keep_sbFree ?_
      | with_reducible refine keep_updBand ?_ | with_reducible refine keep_accFix ?_
      | with_reducible refine keep_foldl _ ?_ (fun _ _ _ => ?_) | dsimp only | split)

theorem keep_sbLost {d0 d : Dev} {g : Nat} (h : Keep d0 d) : Keep d0 (sbLost g d) := by
  unfold sbLost
  with_reducible repeat' (first
      | exact h | assumption | refine keep_lostCopy ?_ | refine keep_lostAcc ?_
      | refine keep_foldl _ ?_ (fun _ _ _ => ?_))

theorem keep_mapcLost {d0 d : Dev} {i : Nat} (h : Keep d0 d) : Keep d0 (mapcLost i d) := by
  unfold mapcLost
  with_reducible repeat' (first
      | exact h | assumption | refine keep_updLan ?_ (fun _ => rfl) | refine keep_loseLine ?_ | refine keep_ite ?_ ?_
      | refine keep_foldl _ ?_ (fun _ _ _ => ?_))

theorem keep_domFailed {d0 d : Dev} {n : Nat} (h : Keep d0 d) : Keep d0 (domFailed n d) := by
  unfold domFailed
  repeat' (first
      | with_reducible exact h | with_reducible assumption | with_reducible refine keep_dieDown ?_
      | with_reducible refine keep_updChan ?_ | with_reducible refine keep_decoderLost ?_
      | with_reducible refine keep_sbLost ?_ | with_reducible refine keep_mapcLost ?_
      | with_reducible refine keep_linkDown ?_ | with_reducible refine keep_settle ?_
      | with_reducible refine keep_failJob ?_ | with_reducible refine keep_failCh ?_
      | with_reducible refine keep_bellReset ?_ | with_reducible refine keep_lanternReset ?_
      | with_reducible refine keep_ite ?_ ?_ | with_reducible refine keep_foldl _ ?_ (fun _ _ _ => ?_) | dsimp only
      | split)

theorem keep_domFail {d0 d : Dev} {n : Nat} {cause : Nat} {a : Nat} (h : Keep d0 d) : Keep d0 (domFail n cause a d)
    := by
  unfold domFail
  with_reducible repeat' (first
      | exact h | refine keep_domFailed ?_ | refine keep_fault ?_ | refine keep_linksOff ?_ | refine keep_updDom ?_)

theorem soundk_domFail {d0 d : Dev} {n : Nat} {cause : Nat} {a : Nat} (h : Sound d0 d)
    : Sound d0 (domFail n cause a d) := h.trans (keep_domFail (Keep.refl d)).toSound

theorem keep_drainComplete {d0 d : Dev} {n : Nat} (h : Keep d0 d) : Keep d0 (drainComplete n d) := by
  unfold drainComplete
  with_reducible repeat' (first
      | exact h | refine keep_domLeave ?_ | refine keep_linksOff ?_ | refine keep_updDom ?_ | refine keep_ite ?_ ?_)

theorem keep_downDone {d0 d : Dev} {n : Nat} (h : Keep d0 d) : Keep d0 (downDone n d) := by
  unfold downDone
  repeat' (first
      | with_reducible exact h | with_reducible refine keep_takePend ?_ | with_reducible refine keep_kpCnt ?_ ?_
      | with_reducible refine keep_updDom ?_ | with_reducible refine keep_ite ?_ ?_ | (show 0x2108 ≤ _; decide))

theorem sound_wakeAck {d0 d : Dev} {n : Nat} (h : Sound d0 d) : Sound d0 (wakeAck n d) := by
  unfold wakeAck
  repeat' (first
      | with_reducible exact h | with_reducible refine soundk_updDom ?_ | with_reducible refine soundk_takePend ?_
      | with_reducible refine sound_nextPower ?_ | with_reducible refine soundk_domOn ?_
      | with_reducible refine soundk_sendVia ?_ | with_reducible refine soundk_kpCnt ?_
      | with_reducible refine soundk_linksReset ?_ | with_reducible refine sound_ite ?_ ?_
      | fail_if_no_progress (with_reducible refine sound_mk ?_ ?_ <;> [skip; first | rfl | simp_all only]))

theorem sound_wakeTimeout {d0 d : Dev} {n : Nat} (h : Sound d0 d) : Sound d0 (wakeTimeout n d) := by
  unfold wakeTimeout
  with_reducible repeat' (first
      | exact h | refine soundk_kpCnt ?_ | refine soundk_updDom ?_ | refine soundk_takePend ?_
      | refine sound_nextPower ?_ | refine soundk_domFail ?_ | refine sound_ite ?_ ?_)

theorem keep_pgFall {d0 d : Dev} {n : Nat} (h : Keep d0 d) : Keep d0 (pgFall n d) := by
  unfold pgFall
  repeat' (first
      | with_reducible exact h | with_reducible refine keep_domFail ?_ | with_reducible refine keep_domLeave ?_
      | with_reducible refine keep_updDom ?_ | with_reducible refine keep_fault ?_
      | with_reducible refine keep_cnt ?_ ?_ | with_reducible refine keep_ite ?_ ?_
      | (show dataIdx _ _; unfold dataIdx; (first | decide | (simp only [rgIdx, chIdx, tcIdx, lgIdx, ptIdx, kpIdx]; omega) | omega))
      | split)

theorem keep_wakeAssert {d0 d : Dev} {n : Nat} {b : Nat} (h : Keep d0 d) : Keep d0 (wakeAssert n b d) := by
  unfold wakeAssert
  with_reducible repeat' (first | exact h | refine keep_assertWake ?_ | refine keep_ite ?_ ?_)

theorem sound_muReady {d0 d : Dev} (h : Sound d0 d) : Sound d0 (muReady d) := by
  unfold muReady
  repeat' (first
      | with_reducible exact h | with_reducible assumption | with_reducible refine sound_nextPower ?_
      | with_reducible refine sound_ite ?_ ?_ | with_reducible refine sound_foldl _ ?_ (fun _ _ _ => ?_)
      | fail_if_no_progress (with_reducible refine sound_mk ?_ ?_ <;> [skip; first | rfl | simp_all only]))

end Sys2Proof.Machine
end

