-- ==== Sys2Proof/Laws/KeepStartup.lean ====
section
/-! SUPPORT. What the functions of Machine/Startup.lean leave alone (Laws/Keep.lean). -/

set_option linter.unusedTactic false
set_option linter.unreachableTactic false
set_option linter.unusedSimpArgs false

namespace Sys2Proof.Machine

theorem sound_setRail {d0 d : Dev} {r : Rail} {b : Bool} (h : Sound d0 d) : Sound d0 (setRail r b d) := by
  unfold setRail
  repeat' (first
      | with_reducible exact h | dsimp only | split
      | fail_if_no_progress (with_reducible refine sound_mk ?_ ?_ <;> [skip; first | rfl | simp_all only]))

theorem sound_supplyOut {d0 d : Dev} {r : Rail} (h : Sound d0 d) : Sound d0 (supplyOut r d) := by
  unfold supplyOut
  with_reducible repeat' (first
      | exact h | assumption | refine sound_setRail ?_ | refine soundk_updPort ?_ | refine soundk_linkDown ?_
      | refine sound_ite ?_ ?_ | refine sound_foldl _ ?_ (fun _ _ _ => ?_))

theorem keep_linksUp {d0 d : Dev} (h : Keep d0 d) : Keep d0 (linksUp d) := by
  unfold linksUp
  with_reducible repeat' (first
      | exact h | assumption | refine keep_linkUp ?_ | refine keep_ite ?_ ?_
      | refine keep_foldl _ ?_ (fun _ _ _ => ?_))

theorem soundk_linksUp {d0 d : Dev} (h : Sound d0 d) : Sound d0 (linksUp d) :=
    h.trans (keep_linksUp (Keep.refl d)).toSound

theorem sound_supplyIn {d0 d : Dev} {r : Rail} (h : Sound d0 d) : Sound d0 (supplyIn r d) := by
  unfold supplyIn
  with_reducible repeat' (first
      | exact h | assumption | refine sound_setRail ?_ | refine soundk_linksUp ?_ | refine soundk_kick ?_
      | refine sound_ite ?_ ?_ | refine sound_foldl _ ?_ (fun _ _ _ => ?_))

theorem keep_rstDiscard {d0 d : Dev} {n : Nat} (h : Keep d0 d) : Keep d0 (rstDiscard n d) := by
  unfold rstDiscard
  with_reducible repeat' (first | exact h | refine keep_updDie ?_)

theorem soundk_rstDiscard {d0 d : Dev} {n : Nat} (h : Sound d0 d) : Sound d0 (rstDiscard n d) :=
    h.trans (keep_rstDiscard (Keep.refl d)).toSound

theorem keep_tenderStop {d0 d : Dev} (h : Keep d0 d) : Keep d0 (tenderStop d) := by
  unfold tenderStop
  repeat' (first
      | with_reducible exact h | with_reducible assumption | with_reducible refine keep_updTch ?_
      | with_reducible refine keep_put ?_ ?_ | with_reducible refine keep_foldl _ ?_ (fun _ _ _ => ?_)
      | (show dataIdx _ _; unfold dataIdx; (first | decide | (simp only [rgIdx, chIdx, tcIdx, lgIdx, ptIdx, kpIdx]; omega) | omega))
      | dsimp only
      | fail_if_no_progress (with_reducible refine keep_mk ?_ ?_ <;> [skip; first | rfl | simp_all only]))

theorem soundk_tenderStop {d0 d : Dev} (h : Sound d0 d) : Sound d0 (tenderStop d) :=
    h.trans (keep_tenderStop (Keep.refl d)).toSound

theorem sound_rstBegin {d0 d : Dev} {k : RstKind} {cause : Nat} (h : Sound d0 d) : Sound d0 (rstBegin k cause d) := by
  unfold rstBegin
  repeat' (first
      | with_reducible exact h | with_reducible assumption | with_reducible refine soundk_updClasp ?_
      | with_reducible refine soundk_updLan ?_ (fun _ => rfl) | with_reducible refine soundk_tenderStop ?_
      | with_reducible refine soundk_rstDiscard ?_ | with_reducible refine soundk_kick ?_
      | with_reducible refine soundk_updChan ?_ | with_reducible refine sound_put ?_
      | with_reducible refine sound_foldl _ ?_ (fun _ _ _ => ?_) | dsimp only
      | fail_if_no_progress (with_reducible refine sound_mk ?_ ?_ <;> [skip; first | rfl | simp_all only]))

theorem sound_rstTake {d0 d : Dev} {k : RstKind} {cause : Nat} (h : Sound d0 d) : Sound d0 (rstTake k cause d) := by
  unfold rstTake
  repeat' (first
      | with_reducible exact h | with_reducible refine sound_rstBegin ?_ | with_reducible refine sound_put ?_
      | with_reducible refine sound_ite ?_ ?_ | dsimp only | split
      | fail_if_no_progress (with_reducible refine sound_mk ?_ ?_ <;> [skip; first | rfl | simp_all only]))

theorem sound_flushedStep {d0 d : Dev} (h : Sound d0 d) : Sound d0 (flushedStep d) := by
  unfold flushedStep
  repeat' (first
      | with_reducible exact h | with_reducible refine soundk_flushAdvance ?_
      | with_reducible refine soundk_flushEnd ?_ | with_reducible refine sound_rstTake ?_
      | with_reducible refine sound_ite ?_ ?_ | dsimp only | split)

theorem keep_linkAbandon {d0 d : Dev} {p : Nat} (h : Keep d0 d) : Keep d0 (linkAbandon p d) := by
  unfold linkAbandon
  repeat' (first
      | with_reducible exact h | with_reducible refine keep_updPort ?_ | with_reducible refine keep_put ?_ ?_
      | (show dataIdx _ _; unfold dataIdx; (first | decide | (simp only [rgIdx, chIdx, tcIdx, lgIdx, ptIdx, kpIdx]; omega) | omega)))

theorem soundk_linkAbandon {d0 d : Dev} {p : Nat} (h : Sound d0 d) : Sound d0 (linkAbandon p d) :=
    h.trans (keep_linkAbandon (Keep.refl d)).toSound

theorem keep_keeperReset {d0 d : Dev} {block : Bool} (h : Keep d0 d) : Keep d0 (keeperReset block d) := by
  unfold keeperReset
  repeat' (first
      | with_reducible exact h | with_reducible assumption | with_reducible refine keep_abortReq ?_
      | with_reducible refine keep_updDom ?_ | with_reducible refine keep_ite ?_ ?_
      | with_reducible refine keep_foldl _ ?_ (fun _ _ _ => ?_) | split)

theorem soundk_keeperReset {d0 d : Dev} {block : Bool} (h : Sound d0 d) : Sound d0 (keeperReset block d) :=
    h.trans (keep_keeperReset (Keep.refl d)).toSound

theorem keep_odReset {d0 d : Dev} {block : Bool} (h : Keep d0 d) : Keep d0 (odReset block d) := by
  unfold odReset
  repeat' (first
      | with_reducible exact h | with_reducible assumption | with_reducible refine keep_put ?_ ?_
      | with_reducible refine keep_putB ?_ | with_reducible refine keep_ite ?_ ?_
      | with_reducible refine keep_foldl _ ?_ (fun _ _ _ => ?_)
      | (show dataIdx _ _; unfold dataIdx; (first | decide | (simp only [rgIdx, chIdx, tcIdx, lgIdx, ptIdx, kpIdx]; omega) | omega)))

theorem soundk_odReset {d0 d : Dev} {block : Bool} (h : Sound d0 d) : Sound d0 (odReset block d) :=
    h.trans (keep_odReset (Keep.refl d)).toSound

theorem keep_loaderReset {d0 d : Dev} (h : Keep d0 d) : Keep d0 (loaderReset d) := by
  unfold loaderReset
  repeat' (first
      | with_reducible exact h | with_reducible refine keep_showCopy ?_ | with_reducible refine keep_put ?_ ?_
      | with_reducible refine keep_putB ?_
      | (show dataIdx _ _; unfold dataIdx; (first | decide | (simp only [rgIdx, chIdx, tcIdx, lgIdx, ptIdx, kpIdx]; omega) | omega))
      | dsimp only
      | fail_if_no_progress (with_reducible refine keep_mk ?_ ?_ <;> [skip; first | rfl | simp_all only]))

theorem soundk_loaderReset {d0 d : Dev} (h : Sound d0 d) : Sound d0 (loaderReset d) :=
    h.trans (keep_loaderReset (Keep.refl d)).toSound

theorem keep_chanSoft {d0 d : Dev} {ch : Nat} (h : Keep d0 d) : Keep d0 (chanSoft ch d) := by
  unfold chanSoft
  with_reducible repeat' (first
      | exact h | assumption | refine keep_updSeq ?_ | refine keep_updChan ?_ | refine keep_updDie ?_
      | refine keep_ite ?_ ?_ | refine keep_foldl _ ?_ (fun _ _ _ => ?_))

theorem soundk_chanSoft {d0 d : Dev} {ch : Nat} (h : Sound d0 d) : Sound d0 (chanSoft ch d) :=
    h.trans (keep_chanSoft (Keep.refl d)).toSound

theorem keep_chanBlock {d0 d : Dev} {ch : Nat} (h : Keep d0 d) : Keep d0 (chanBlock ch d) := by
  unfold chanBlock
  with_reducible repeat' (first | exact h | refine keep_updChan ?_)

theorem soundk_chanBlock {d0 d : Dev} {ch : Nat} (h : Sound d0 d) : Sound d0 (chanBlock ch d) :=
    h.trans (keep_chanBlock (Keep.refl d)).toSound

theorem keep_linksLost {d0 d : Dev} (h : Keep d0 d) : Keep d0 (linksLost d) := by
  unfold linksLost
  repeat' (first
      | with_reducible exact h | with_reducible assumption | with_reducible refine keep_linksOff ?_
      | with_reducible refine keep_ite ?_ ?_ | with_reducible refine keep_foldl _ ?_ (fun _ _ _ => ?_) | dsimp only
      | fail_if_no_progress (with_reducible refine keep_mk ?_ ?_ <;> [skip; first | rfl | simp_all only]))

theorem soundk_linksLost {d0 d : Dev} (h : Sound d0 d) : Sound d0 (linksLost d) :=
    h.trans (keep_linksLost (Keep.refl d)).toSound

theorem sound_resetDrained {d0 d : Dev} (h : Sound d0 d) : Sound d0 (resetDrained d) := by
  unfold resetDrained
  repeat' (first
      | with_reducible exact h | with_reducible assumption | with_reducible refine soundk_linkAbandon ?_
      | with_reducible refine soundk_keeperReset ?_ | with_reducible refine soundk_odReset ?_
      | with_reducible refine soundk_bellReset ?_ | with_reducible refine soundk_lanternReset ?_
      | with_reducible refine soundk_sbErase ?_ | with_reducible refine soundk_linksLost ?_
      | with_reducible refine soundk_chanBlock ?_ | with_reducible refine soundk_chanSoft ?_
      | with_reducible refine soundk_loaderReset ?_ | with_reducible refine sound_put ?_
      | with_reducible refine sound_ite ?_ ?_ | with_reducible refine sound_foldl _ ?_ (fun _ _ _ => ?_) | dsimp only
      | split | fail_if_no_progress (with_reducible refine sound_mk ?_ ?_ <;> [skip; first | rfl | simp_all only]))

theorem keep_linksBack {d0 d : Dev} (h : Keep d0 d) : Keep d0 (linksBack d) := by
  unfold linksBack
  with_reducible repeat' (first
      | exact h | assumption | refine keep_linksReset ?_ | refine keep_ite ?_ ?_
      | refine keep_foldl _ ?_ (fun _ _ _ => ?_))

theorem soundk_linksBack {d0 d : Dev} (h : Sound d0 d) : Sound d0 (linksBack d) :=
    h.trans (keep_linksBack (Keep.refl d)).toSound

theorem keep_chansBack {d0 d : Dev} {block : Bool} (h : Keep d0 d) : Keep d0 (chansBack block d) := by
  unfold chansBack
  with_reducible repeat' (first
      | exact h | assumption | refine keep_domOn ?_ | refine keep_kick ?_ | refine keep_ite ?_ ?_
      | refine keep_foldl _ ?_ (fun _ _ _ => ?_))

theorem soundk_chansBack {d0 d : Dev} {block : Bool} (h : Sound d0 d) : Sound d0 (chansBack block d) :=
    h.trans (keep_chansBack (Keep.refl d)).toSound

theorem sound_resetDone {d0 d : Dev} (h : Sound d0 d) : Sound d0 (resetDone d) := by
  unfold resetDone
  repeat' (first
      | with_reducible exact h | with_reducible refine soundk_chansBack ?_ | with_reducible refine soundk_linksUp ?_
      | with_reducible refine soundk_linksBack ?_ | with_reducible refine sound_put ?_
      | with_reducible refine sound_cnt ?_ | with_reducible refine sound_ite ?_ ?_ | dsimp only | split
      | fail_if_no_progress (with_reducible refine sound_mk ?_ ?_ <;> [skip; first | rfl | simp_all only]))

theorem keep_undo {d0 d : Dev} {n : Nat} {e : BEnt} (h : Keep d0 d) : Keep d0 (undo n e d) := by
  unfold undo
  repeat' (first
      | with_reducible exact h | with_reducible refine keep_progFailed ?_
      | with_reducible refine keep_updLan ?_ (fun _ => rfl) | with_reducible refine keep_updClasp ?_
      | with_reducible refine keep_updCopy ?_ | with_reducible refine keep_rawEnd ?_ | dsimp only | split
      | fail_if_no_progress (with_reducible refine keep_mk ?_ ?_ <;> [skip; first | rfl | simp_all only]))

theorem keep_undoDie {d0 d : Dev} {n : Nat} (h : Keep d0 d) : Keep d0 (undoDie n d) := by
  unfold undoDie
  with_reducible repeat' (first
      | exact h | assumption | refine keep_undo ?_ | refine keep_updDie ?_ | refine keep_foldl _ ?_ (fun _ _ _ => ?_))

theorem soundk_undoDie {d0 d : Dev} {n : Nat} (h : Sound d0 d) : Sound d0 (undoDie n d) :=
    h.trans (keep_undoDie (Keep.refl d)).toSound

theorem keep_wpDefault {d0 d : Dev} {ch : Nat} (h : Keep d0 d) : Keep d0 (wpDefault ch d) := by
  unfold wpDefault
  with_reducible repeat' (first
      | exact h | assumption | refine keep_putB ?_ | refine keep_foldl _ ?_ (fun _ _ _ => ?_))

theorem soundk_wpDefault {d0 d : Dev} {ch : Nat} (h : Sound d0 d) : Sound d0 (wpDefault ch d) :=
    h.trans (keep_wpDefault (Keep.refl d)).toSound

theorem keep_chanResetGo {d0 d : Dev} {ch : Nat} (h : Keep d0 d) : Keep d0 (chanResetGo ch d) := by
  unfold chanResetGo
  repeat' (first
      | with_reducible exact h | with_reducible assumption | with_reducible refine keep_updLan ?_ (fun _ => rfl)
      | with_reducible refine keep_chanBlock ?_ | with_reducible refine keep_domOn ?_
      | with_reducible refine keep_linksReset ?_ | with_reducible refine keep_ite ?_ ?_
      | with_reducible refine keep_foldl _ ?_ (fun _ _ _ => ?_) | dsimp only
      | fail_if_no_progress (with_reducible refine keep_mk ?_ ?_ <;> [skip; first | rfl | simp_all only]))

theorem soundk_chanResetGo {d0 d : Dev} {ch : Nat} (h : Sound d0 d) : Sound d0 (chanResetGo ch d) :=
    h.trans (keep_chanResetGo (Keep.refl d)).toSound

theorem sound_chanReset {d0 d : Dev} {ch : Nat} (h : Sound d0 d) : Sound d0 (chanReset ch d) := by
  unfold chanReset
  repeat' (first
      | with_reducible exact h | with_reducible assumption | with_reducible refine soundk_rawLockUp ?_
      | with_reducible refine soundk_wpDefault ?_ | with_reducible refine soundk_updChan ?_
      | with_reducible refine soundk_chanResetGo ?_ | with_reducible refine soundk_kick ?_
      | with_reducible refine soundk_feedBands ?_ | with_reducible refine soundk_undoDie ?_
      | with_reducible refine sound_put ?_ | with_reducible refine sound_putBit ?_
      | with_reducible refine sound_cnt ?_ | with_reducible refine sound_ite ?_ ?_
      | with_reducible refine sound_foldl _ ?_ (fun _ _ _ => ?_) | dsimp only
      | fail_if_no_progress (with_reducible refine sound_mk ?_ ?_ <;> [skip; first | rfl | simp_all only]))

theorem sound_svcSet {d0 d : Dev} {v : Nat} (h : Sound d0 d) : Sound d0 (svcSet v d) := by
  unfold svcSet
  with_reducible repeat' (first | exact h | refine soundk_settle ?_ | refine sound_put ?_)

end Sys2Proof.Machine
end

