-- ==== Sys2Proof/Laws/KeepOdWrite.lean ====
section
/-! SUPPORT. What the functions of Machine/OdWrite.lean leave alone (Laws/Keep.lean). -/

set_option linter.unusedTactic false
set_option linter.unreachableTactic false
set_option linter.unusedSimpArgs false

namespace Sys2Proof.Machine

theorem sound_updMaster {d0 d : Dev} {m : Nat} {f : Master → Master} (h : Sound d0 d) : Sound d0 (updMaster m f d) := by
  unfold updMaster
  repeat' (first
      | with_reducible exact h
      | fail_if_no_progress (with_reducible refine sound_mk ?_ ?_ <;> [skip; first | rfl | simp_all only]))

end Sys2Proof.Machine
end

