-- ==== Sys2Proof/Laws/KeepOdEffect.lean ====
section
/-! SUPPORT. What the functions of Machine/OdEffect.lean leave alone (Laws/Keep.lean). -/

set_option linter.unusedTactic false
set_option linter.unreachableTactic false
set_option linter.unusedSimpArgs false

namespace Sys2Proof.Machine

theorem keep_applyHeld {d0 d : Dev} {key : Nat} (h : Keep d0 d) : Keep d0 (applyHeld key d) := by
  unfold applyHeld
  repeat' (first
      | with_reducible exact h | with_reducible refine keep_fltRelease ?_ | with_reducible refine keep_memRelease ?_
      | with_reducible refine keep_updLan ?_ (fun _ => rfl) | with_reducible refine keep_putB ?_
      | with_reducible refine keep_ite ?_ ?_ | dsimp only | split
      | fail_if_no_progress (with_reducible refine keep_mk ?_ ?_ <;> [skip; first | rfl | simp_all only]))

theorem soundk_applyHeld {d0 d : Dev} {key : Nat} (h : Sound d0 d) : Sound d0 (applyHeld key d) :=
    h.trans (keep_applyHeld (Keep.refl d)).toSound

theorem sound_closeXfer {d0 d : Dev} {m : Nat} {why : Option Abort} (h : Sound d0 d) : Sound d0 (closeXfer m why d)
    := by
  unfold closeXfer
  repeat' (first
      | with_reducible exact h | with_reducible refine soundk_applyHeld ?_ | with_reducible refine sound_updMaster ?_
      | split)

theorem sound_closeCounted {d0 d : Dev} {m : Nat} (h : Sound d0 d) : Sound d0 (closeCounted m d) := by
  unfold closeCounted
  with_reducible repeat' (first | exact h | refine sound_closeXfer ?_ | refine sound_cnt ?_ | refine sound_ite ?_ ?_)

theorem sound_setOwner {d0 d : Dev} {g : Nat} {v : Nat} (h : Sound d0 d) : Sound d0 (setOwner g v d) := by
  unfold setOwner
  with_reducible repeat' (first | exact h | refine sound_put ?_ | refine sound_ite ?_ ?_)

theorem sound_dropMaster {d0 d : Dev} {m : Nat} (h : Sound d0 d) : Sound d0 (dropMaster m d) := by
  unfold dropMaster
  with_reducible repeat' (first
      | exact h | assumption | refine sound_setOwner ?_ | refine sound_closeCounted ?_ | refine sound_ite ?_ ?_
      | refine sound_foldl _ ?_ (fun _ _ _ => ?_))

theorem sound_setEnable {d0 d : Dev} {v : Nat} (h : Sound d0 d) : Sound d0 (setEnable v d) := by
  unfold setEnable
  with_reducible repeat' (first
      | exact h | assumption | refine sound_dropMaster ?_ | refine sound_put ?_
      | refine sound_foldl _ ?_ (fun _ _ _ => ?_))

theorem keep_idRerun {d0 d : Dev} {ch : Nat} (h : Keep d0 d) : Keep d0 (idRerun ch d) := by
  unfold idRerun
  with_reducible repeat' (first | exact h | refine keep_startIdent ?_)

theorem soundk_idRerun {d0 d : Dev} {ch : Nat} (h : Sound d0 d) : Sound d0 (idRerun ch d) :=
    h.trans (keep_idRerun (Keep.refl d)).toSound

theorem keep_tgtEoi {d0 d : Dev} {t : Nat} {v : Nat} (h : Keep d0 d) : Keep d0 (tgtEoi t v d) := by
  unfold tgtEoi
  repeat' (first
      | with_reducible exact h | with_reducible refine keep_bellEoi ?_ | with_reducible refine keep_ite ?_ ?_
      | fail_if_no_progress (with_reducible refine keep_mk ?_ ?_ <;> [skip; first | rfl | simp_all only]))

theorem soundk_tgtEoi {d0 d : Dev} {t : Nat} {v : Nat} (h : Sound d0 d) : Sound d0 (tgtEoi t v d) :=
    h.trans (keep_tgtEoi (Keep.refl d)).toSound

theorem sound_effGlobal {d0 d : Dev} {m : Nat} {key : Nat} {v : Nat} (h : Sound d0 d)
    : Sound d0 (effGlobal m key v d) := by
  unfold effGlobal
  repeat' (first
      | with_reducible exact h | with_reducible assumption | with_reducible refine sound_setEnable ?_
      | with_reducible refine sound_svcSet ?_ | with_reducible refine sound_rstTake ?_
      | with_reducible refine sound_chanReset ?_ | with_reducible refine soundk_rawUnlock ?_
      | with_reducible refine soundk_rawOd ?_ | with_reducible refine sound_putK ?_
      | with_reducible refine sound_put ?_ | with_reducible refine sound_ite ?_ ?_
      | with_reducible refine sound_foldl _ ?_ (fun _ _ _ => ?_) | split)

theorem sound_effLantern {d0 d : Dev} {key : Nat} {v : Nat} (h : Sound d0 d) : Sound d0 (effLantern key v d) := by
  unfold effLantern
  repeat' (first
      | with_reducible exact h | with_reducible refine soundk_ltQuiesce ?_
      | with_reducible refine soundk_closeExcluded ?_ | with_reducible refine soundk_dropWays ?_
      | with_reducible refine soundk_flushStart ?_ | with_reducible refine soundk_ckptTrigger ?_
      | with_reducible refine sound_putK ?_ | with_reducible refine sound_put ?_
      | with_reducible refine sound_ite ?_ ?_ | split)

theorem keep_qClear {d0 d : Dev} (h : Keep d0 d) : Keep d0 (qClear d) := by
  unfold qClear
  repeat' (first
      | with_reducible exact h | with_reducible assumption | with_reducible refine keep_updPort ?_
      | with_reducible refine keep_foldl _ ?_ (fun _ _ _ => ?_) | dsimp only
      | fail_if_no_progress (with_reducible refine keep_mk ?_ ?_ <;> [skip; first | rfl | simp_all only]))

theorem soundk_qClear {d0 d : Dev} (h : Sound d0 d) : Sound d0 (qClear d) := h.trans (keep_qClear (Keep.refl d)).toSound

theorem sound_effUnits {d0 d : Dev} {m : Nat} {via : Option Nat} {b : Nat} {i : Nat} {sub : Nat} {key : Nat}
    {v : Nat} (h : Sound d0 d) : Sound d0 (effUnits m via b i sub key v d) := by
  unfold effUnits
  repeat' (first
      | with_reducible exact h | with_reducible assumption | with_reducible refine soundk_updSrc ?_
      | with_reducible refine sound_takeReq ?_ | with_reducible refine soundk_wakeRing ?_
      | with_reducible refine soundk_tgtEoi ?_ | with_reducible refine soundk_unfreeze ?_
      | with_reducible refine sound_updSensor ?_ | with_reducible refine soundk_qClear ?_
      | with_reducible refine sound_putK ?_ | with_reducible refine sound_put ?_
      | with_reducible refine sound_ite ?_ ?_ | with_reducible refine sound_foldl _ ?_ (fun _ _ _ => ?_) | split)

theorem sound_effInst {d0 d : Dev} {b : Nat} {i : Nat} {sub : Nat} {key : Nat} {v : Nat} (h : Sound d0 d)
    : Sound d0 (effInst b i sub key v d) := by
  unfold effInst
  repeat' (first
      | with_reducible exact h | with_reducible refine soundk_tmrEnable ?_ | with_reducible refine soundk_updChan ?_
      | with_reducible refine soundk_reviveDie ?_ | with_reducible refine soundk_idRerun ?_
      | with_reducible refine soundk_armSwap ?_ | with_reducible refine soundk_trainReq ?_
      | with_reducible refine soundk_chStart ?_ | with_reducible refine soundk_chStop ?_
      | with_reducible refine soundk_xoffUpdate ?_ | with_reducible refine soundk_ringEnable ?_
      | with_reducible refine soundk_mcRevert ?_ | with_reducible refine soundk_lktStart ?_
      | with_reducible refine sound_putK ?_ | with_reducible refine sound_put ?_
      | with_reducible refine sound_putBit ?_ | with_reducible refine sound_ite ?_ ?_ | dsimp only | split)

theorem sound_odEffect {d0 d : Dev} {m : Nat} {via : Option Nat} {idx : Nat} {sub : Nat} {v : Nat} (h : Sound d0 d)
    : Sound d0 (odEffect m via idx sub v d) := by
  unfold odEffect
  repeat' (first
      | with_reducible exact h | with_reducible refine sound_effUnits ?_ | with_reducible refine sound_setOwner ?_
      | with_reducible refine sound_effGlobal ?_ | with_reducible refine sound_effLantern ?_
      | with_reducible refine sound_effInst ?_ | with_reducible refine sound_clearCnt ?_
      | with_reducible refine sound_ite ?_ ?_ | split)

theorem keep_rewrite {d0 d : Dev} {idx : Nat} {sub : Nat} (h : Keep d0 d) : Keep d0 (rewrite idx sub d) := by
  unfold rewrite
  repeat' (first
      | with_reducible exact h
      | fail_if_no_progress (with_reducible refine keep_mk ?_ ?_ <;> [skip; first | rfl | simp_all only]))

theorem soundk_rewrite {d0 d : Dev} {idx : Nat} {sub : Nat} (h : Sound d0 d) : Sound d0 (rewrite idx sub d) :=
    h.trans (keep_rewrite (Keep.refl d)).toSound

theorem keep_bytesEffect {d0 d : Dev} {idx : Nat} {sub : Nat} {bs : Bytes} (h : Keep d0 d)
    : Keep d0 (bytesEffect idx sub bs d) := by
  unfold bytesEffect
  repeat' (first
      | with_reducible exact h | with_reducible refine keep_rewrite ?_ | with_reducible refine keep_closeExcluded ?_
      | with_reducible refine keep_put ?_ ?_ | with_reducible refine keep_putB ?_
      | (show dataIdx _ _; unfold dataIdx; (first | decide | (simp only [rgIdx, chIdx, tcIdx, lgIdx, ptIdx, kpIdx]; omega) | omega))
      | dsimp only | split
      | fail_if_no_progress (with_reducible refine keep_mk ?_ ?_ <;> [skip; first | rfl | simp_all only]))

theorem soundk_bytesEffect {d0 d : Dev} {idx : Nat} {sub : Nat} {bs : Bytes} (h : Sound d0 d)
    : Sound d0 (bytesEffect idx sub bs d) := h.trans (keep_bytesEffect (Keep.refl d)).toSound

theorem sound_closeHolder {d0 d : Dev} {m : Nat} {key : Nat} (h : Sound d0 d) : Sound d0 (closeHolder m key d) := by
  unfold closeHolder
  repeat' (first | with_reducible exact h | with_reducible refine sound_closeCounted ?_ | split)

theorem sound_writeNum {d0 d : Dev} {m : Nat} {via : Option Nat} {idx : Nat} {sub : Nat} {len : Nat} {v : Nat}
    (h : Sound d0 d) : Sound d0 (writeNum m via idx sub len v d).2 := by
  unfold writeNum
  repeat' (first
      | with_reducible exact h | with_reducible refine sound_odEffect ?_ | with_reducible refine soundk_rewrite ?_
      | with_reducible refine sound_closeHolder ?_ | split)

theorem sound_writeNumE {d0 d : Dev} {m : Nat} {via : Option Nat} {idx : Nat} {sub : Nat} {len : Nat} {v : Nat}
    {r9 : Option Abort × Dev} (h : Sound d0 d) (e9 : (writeNum m via idx sub len v d) = r9) : Sound d0 r9.2 :=
    e9 ▸ sound_writeNum h

theorem sound_writeBytes {d0 d : Dev} {m : Nat} {idx : Nat} {sub : Nat} {bs : Bytes} (h : Sound d0 d)
    : Sound d0 (writeBytes m idx sub bs d).2 := by
  unfold writeBytes
  repeat' (first
      | with_reducible exact h | with_reducible refine soundk_bytesEffect ?_
      | with_reducible refine sound_closeHolder ?_ | split)

theorem sound_writeBytesE {d0 d : Dev} {m : Nat} {idx : Nat} {sub : Nat} {bs : Bytes} {r9 : Option Abort × Dev}
    (h : Sound d0 d) (e9 : (writeBytes m idx sub bs d) = r9) : Sound d0 r9.2 := e9 ▸ sound_writeBytes h

theorem sound_countEnd {d0 d : Dev} {a : Option Abort} (h : Sound d0 d) : Sound d0 (countEnd a d) := by
  unfold countEnd
  repeat' (first
      | with_reducible exact h | with_reducible refine soundk_ringUnit ?_ | with_reducible refine sound_cnt ?_
      | with_reducible refine sound_ite ?_ ?_ | split)

theorem sound_seen {d0 d : Dev} {m : Nat} (h : Sound d0 d) : Sound d0 (seen m d) := by
  unfold seen
  with_reducible repeat' (first | exact h | refine sound_putBit ?_)

theorem sound_rowNum {d0 d : Dev} {m : Nat} {via : Option Nat} {idx : Nat} {sub : Nat} {v : Nat} (h : Sound d0 d)
    : Sound d0 (rowNum m via idx sub v d) := by
  unfold rowNum
  repeat' (first
      | with_reducible exact h | with_reducible refine sound_writeNum ?_ | with_reducible refine sound_seen ?_
      | with_reducible refine sound_countEnd ?_ | split)

theorem sound_rowBytes {d0 d : Dev} {m : Nat} {idx : Nat} {sub : Nat} {bs : Bytes} (h : Sound d0 d)
    : Sound d0 (rowBytes m idx sub bs d) := by
  unfold rowBytes
  repeat' (first
      | with_reducible exact h | with_reducible refine sound_writeBytes ?_ | with_reducible refine sound_seen ?_
      | with_reducible refine sound_countEnd ?_ | split)

end Sys2Proof.Machine
end

