-- ==== Sys2Proof/Laws/KeepOd.lean ====
section
/-! SUPPORT. What the functions of Machine/Od.lean leave alone (Laws/Keep.lean). -/

set_option linter.unusedTactic false
set_option linter.unreachableTactic false
set_option linter.unusedSimpArgs false

namespace Sys2Proof.Machine

theorem sound_putBuf {d0 d : Dev} {m : Nat} {off : Nat} {bs : Bytes} (h : Sound d0 d) : Sound d0 (putBuf m off bs d)
    := by
  unfold putBuf
  with_reducible repeat' (first | exact h | refine sound_updMaster ?_)

theorem sound_takeCmd {d0 d : Dev} {c : OdCmd} {q : OdReq} (h : Sound d0 d) : Sound d0 (takeCmd c q d) := by
  unfold takeCmd
  with_reducible repeat' (first
      | exact h | refine sound_seen ?_ | refine sound_updMaster ?_ | refine sound_putBuf ?_ | refine sound_ite ?_ ?_)

theorem sound_endCmd {d0 d : Dev} {c : OdCmd} {q : OdReq} {a : OdAns} (h : Sound d0 d) : Sound d0 (endCmd c q a d) := by
  unfold endCmd
  repeat' (first
      | with_reducible exact h | with_reducible refine sound_updMaster ?_ | with_reducible refine sound_countEnd ?_
      | with_reducible refine sound_putBuf ?_ | split)

theorem sound_supersede {d0 d : Dev} {m : Nat} (h : Sound d0 d) : Sound d0 (supersede m d) := by
  unfold supersede
  with_reducible repeat' (first | exact h | refine sound_updMaster ?_ | refine sound_closeCounted ?_)

theorem sound_openXfer {d0 d : Dev} {m : Nat} {x : Xfer} (h : Sound d0 d) : Sound d0 (openXfer m x d) := by
  unfold openXfer
  with_reducible repeat' (first | exact h | refine sound_updMaster ?_)

theorem sound_blkReadInit {d0 d : Dev} {m : Nat} {idx : Nat} {sub : Nat} (h : Sound d0 d)
    : Sound d0 (blkReadInit m idx sub d).2 := by
  unfold blkReadInit
  repeat' (first
      | with_reducible exact h | with_reducible refine sound_supersede ?_ | with_reducible refine sound_openXfer ?_
      | dsimp only | split)

theorem sound_blkReadInitE {d0 d : Dev} {m : Nat} {idx : Nat} {sub : Nat} {r9 : OdAns × Dev} (h : Sound d0 d)
    (e9 : (blkReadInit m idx sub d) = r9) : Sound d0 r9.2 := e9 ▸ sound_blkReadInit h

theorem sound_blkWriteInit {d0 d : Dev} {m : Nat} {idx : Nat} {sub : Nat} {total : Nat} (h : Sound d0 d)
    : Sound d0 (blkWriteInit m idx sub total d).2 := by
  unfold blkWriteInit
  repeat' (first
      | with_reducible exact h | with_reducible refine sound_supersede ?_ | with_reducible refine sound_openXfer ?_
      | with_reducible refine sound_closeHolder ?_ | dsimp only | split)

theorem sound_blkWriteInitE {d0 d : Dev} {m : Nat} {idx : Nat} {sub : Nat} {total : Nat} {r9 : OdAns × Dev}
    (h : Sound d0 d) (e9 : (blkWriteInit m idx sub total d) = r9) : Sound d0 r9.2 := e9 ▸ sound_blkWriteInit h

theorem sound_noXfer {d0 d : Dev} {m : Nat} (h : Sound d0 d) : Sound d0 (noXfer m d).2 := by
  unfold noXfer
  with_reducible repeat' (first | exact h | refine sound_updMaster ?_)

theorem sound_noXferE {d0 d : Dev} {m : Nat} {r9 : OdAns × Dev} (h : Sound d0 d) (e9 : (noXfer m d) = r9)
    : Sound d0 r9.2 := e9 ▸ sound_noXfer h

theorem sound_contBad {d0 d : Dev} {m : Nat} {a : Abort} (h : Sound d0 d) : Sound d0 (contBad m a d).2 := by
  unfold contBad
  with_reducible repeat' (first | exact h | refine sound_closeXfer ?_)

theorem sound_contBadE {d0 d : Dev} {m : Nat} {a : Abort} {r9 : OdAns × Dev} (h : Sound d0 d) (e9 : (contBad m a d)
    = r9) : Sound d0 r9.2 := e9 ▸ sound_contBad h

theorem sound_blkReadNext {d0 d : Dev} {m : Nat} {idx : Nat} {sub : Nat} {seq : Nat} (h : Sound d0 d)
    : Sound d0 (blkReadNext m idx sub seq d).2 := by
  unfold blkReadNext
  repeat' (first
      | with_reducible exact h | with_reducible refine sound_noXfer ?_ | with_reducible refine sound_contBad ?_
      | with_reducible refine sound_openXfer ?_ | dsimp only | split)

theorem sound_blkReadNextE {d0 d : Dev} {m : Nat} {idx : Nat} {sub : Nat} {seq : Nat} {r9 : OdAns × Dev}
    (h : Sound d0 d) (e9 : (blkReadNext m idx sub seq d) = r9) : Sound d0 r9.2 := e9 ▸ sound_blkReadNext h

theorem sound_blkWriteNext {d0 d : Dev} {m : Nat} {idx : Nat} {sub : Nat} {seq : Nat} {len : Nat} {bs : Bytes}
    (h : Sound d0 d) : Sound d0 (blkWriteNext m idx sub seq len bs d).2 := by
  unfold blkWriteNext
  repeat' (first
      | with_reducible exact h | with_reducible refine sound_noXfer ?_ | with_reducible refine sound_contBad ?_
      | with_reducible refine sound_openXfer ?_ | split)

theorem sound_blkWriteNextE {d0 d : Dev} {m : Nat} {idx : Nat} {sub : Nat} {seq : Nat} {len : Nat} {bs : Bytes}
    {r9 : OdAns × Dev} (h : Sound d0 d) (e9 : (blkWriteNext m idx sub seq len bs d) = r9) : Sound d0 r9.2 :=
    e9 ▸ sound_blkWriteNext h

theorem sound_blkEnd {d0 d : Dev} {m : Nat} {idx : Nat} {sub : Nat} {crc : Nat} (h : Sound d0 d)
    : Sound d0 (blkEnd m idx sub crc d).2 := by
  unfold blkEnd
  repeat' (first
      | with_reducible exact h | with_reducible refine sound_noXfer ?_ | with_reducible refine sound_closeXfer ?_
      | with_reducible refine sound_writeBytes ?_ | dsimp only | split)

theorem sound_blkEndE {d0 d : Dev} {m : Nat} {idx : Nat} {sub : Nat} {crc : Nat} {r9 : OdAns × Dev} (h : Sound d0 d)
    (e9 : (blkEnd m idx sub crc d) = r9) : Sound d0 r9.2 := e9 ▸ sound_blkEnd h

theorem sound_xferAbort {d0 d : Dev} {m : Nat} (h : Sound d0 d) : Sound d0 (xferAbort m d).2 := by
  unfold xferAbort
  with_reducible repeat' (first | exact h | refine sound_closeXfer ?_)

theorem sound_xferAbortE {d0 d : Dev} {m : Nat} {r9 : OdAns × Dev} (h : Sound d0 d) (e9 : (xferAbort m d) = r9)
    : Sound d0 r9.2 := e9 ▸ sound_xferAbort h

theorem sound_odCommand {d0 d : Dev} {c : OdCmd} {q : OdReq} (h : Sound d0 d) : Sound d0 (odCommand c q d).2 := by
  unfold odCommand
  repeat' (first
      | with_reducible exact h | with_reducible refine sound_writeNum ?_ | with_reducible refine sound_supersede ?_
      | with_reducible refine sound_writeBytes ?_ | with_reducible refine sound_blkReadInit ?_
      | with_reducible refine sound_blkWriteInit ?_ | with_reducible refine sound_blkReadNext ?_
      | with_reducible refine sound_blkWriteNext ?_ | with_reducible refine sound_blkEnd ?_
      | with_reducible refine sound_xferAbort ?_ | dsimp only | split)

theorem sound_odCommandE {d0 d : Dev} {c : OdCmd} {q : OdReq} {r9 : OdAns × Dev} (h : Sound d0 d)
    (e9 : (odCommand c q d) = r9) : Sound d0 r9.2 := e9 ▸ sound_odCommand h

theorem sound_odFinish {d0 d : Dev} {c : OdCmd} {q : OdReq} (h : Sound d0 d) : Sound d0 (odFinish c q d).2 := by
  unfold odFinish
  repeat' (first
      | with_reducible exact h | with_reducible refine sound_odCommand ?_ | with_reducible refine sound_endCmd ?_
      | split)

theorem sound_odFinishE {d0 d : Dev} {c : OdCmd} {q : OdReq} {r9 : OdAns × Dev} (h : Sound d0 d)
    (e9 : (odFinish c q d) = r9) : Sound d0 r9.2 := e9 ▸ sound_odFinish h

theorem sound_odServe {d0 d : Dev} {c : OdCmd} {q : OdReq} (h : Sound d0 d) : Sound d0 (odServe c q d).2 := by
  unfold odServe
  with_reducible repeat' (first | exact h | refine sound_odFinish ?_ | refine sound_takeCmd ?_)

theorem sound_odServeE {d0 d : Dev} {c : OdCmd} {q : OdReq} {r9 : OdAns × Dev} (h : Sound d0 d) (e9 : (odServe c q d)
    = r9) : Sound d0 r9.2 := e9 ▸ sound_odServe h

theorem sound_freeIndex {d0 d : Dev} {idx : Nat} (h : Sound d0 d) : Sound d0 (freeIndex idx d) := by
  unfold freeIndex
  repeat' (first
      | with_reducible exact h | with_reducible assumption | with_reducible refine soundk_freeWide ?_
      | with_reducible refine soundk_freeBytes ?_ | with_reducible refine sound_put ?_
      | with_reducible refine sound_putB ?_ | with_reducible refine sound_ite ?_ ?_
      | with_reducible refine sound_foldl _ ?_ (fun _ _ _ => ?_) | dsimp only | split)

theorem sound_freeMaster {d0 d : Dev} {m : Nat} (h : Sound d0 d) : Sound d0 (freeMaster m d) := by
  unfold freeMaster
  with_reducible repeat' (first | exact h | refine soundk_freeWide ?_ | refine sound_updMaster ?_)

theorem keep_rawFree {d0 d : Dev} (h : Keep d0 d) : Keep d0 (rawFree d) := by
  unfold rawFree
  repeat' (first
      | with_reducible exact h | dsimp only
      | fail_if_no_progress (with_reducible refine keep_mk ?_ ?_ <;> [skip; first | rfl | simp_all only]))

theorem soundk_rawFree {d0 d : Dev} (h : Sound d0 d) : Sound d0 (rawFree d) :=
    h.trans (keep_rawFree (Keep.refl d)).toSound

theorem sound_odFree {d0 d : Dev} {c : OdCmd} {rule : Nat} (h : Sound d0 d) : Sound d0 (odFree c rule d) := by
  unfold odFree
  repeat' (first
      | with_reducible exact h | with_reducible refine sound_freeIndex ?_ | with_reducible refine sound_freeMaster ?_
      | with_reducible refine soundk_rawFree ?_ | split)

theorem sound_odRun {d0 d : Dev} {c : OdCmd} {q : OdReq} (h : Sound d0 d) : Sound d0 (odRun c q d) := by
  unfold odRun
  repeat' (first
      | with_reducible exact h | with_reducible refine sound_odServe ?_ | with_reducible refine sound_odFree ?_
      | dsimp only | split)

theorem sound_windowCmd {d0 d : Dev} {v : Via} {c : OdCmd} {q0 : OdReq} (h : Sound d0 d)
    : Sound d0 (windowCmd v c q0 d) := by
  unfold windowCmd
  with_reducible repeat' (first
      | exact h | refine soundk_answer ?_ | refine sound_odRun ?_ | refine sound_updMaster ?_
      | refine sound_takeCmd ?_ | refine sound_ite ?_ ?_)

theorem sound_endJobOf {d0 d : Dev} {m : Nat} (h : Sound d0 d) : Sound d0 (endJobOf m d) := by
  unfold endJobOf
  repeat' (first
      | with_reducible exact h | with_reducible refine sound_odFinish ?_ | with_reducible refine sound_odFree ?_
      | dsimp only | split)

theorem sound_endJobs {d0 d : Dev} (h : Sound d0 d) : Sound d0 (endJobs d) := by
  unfold endJobs
  with_reducible repeat' (first
      | exact h | assumption | refine sound_endJobOf ?_ | refine sound_foldl _ ?_ (fun _ _ _ => ?_))

theorem sound_loseCmd {d0 d : Dev} {c : OdCmd} {q : OdReq} (h : Sound d0 d) : Sound d0 (loseCmd c q d) := by
  unfold loseCmd
  with_reducible repeat' (first | exact h | refine sound_endCmd ?_ | refine sound_takeCmd ?_)

theorem keep_viaOkAnswer {d0 d : Dev} {v : Option Via} (h : Keep d0 d) : Keep d0 (viaOkAnswer v d) := by
  unfold viaOkAnswer
  repeat' (first | with_reducible exact h | with_reducible refine keep_answer ?_ | split)

theorem keep_windowReq {d0 d : Dev} {p : Nat} {h_ : ReqHdr} (h : Keep d0 d) : Keep d0 (windowReq p h_ d) := by
  unfold windowReq
  repeat' (first
      | with_reducible exact h | with_reducible refine keep_answerRead ?_ | with_reducible refine keep_answer ?_
      | with_reducible refine keep_answerData ?_ | with_reducible refine keep_cnt ?_ ?_
      | with_reducible refine keep_ite ?_ ?_
      | (show dataIdx _ _; unfold dataIdx; (first | decide | (simp only [rgIdx, chIdx, tcIdx, lgIdx, ptIdx, kpIdx]; omega) | omega))
      | dsimp only | split)

end Sys2Proof.Machine
end

