-- ==== Sys2Proof/Laws/KeepOdRows.lean ====
section
/-! SUPPORT. What the functions of Machine/OdRows.lean leave alone (Laws/Keep.lean). -/

set_option linter.unusedTactic false
set_option linter.unreachableTactic false
set_option linter.unusedSimpArgs false

namespace Sys2Proof.Machine

theorem sound_rowFree {d0 d : Dev} {m : Nat} {idx : Nat} {sub : Nat} {v : Nat} (h : Sound d0 d)
    : Sound d0 (rowFree m idx sub v d) := by
  unfold rowFree
  repeat' (first
      | with_reducible exact h | with_reducible refine sound_rowNum ?_ | with_reducible refine sound_freeIndex ?_
      | with_reducible refine soundk_rawFree ?_ | dsimp only | split)

theorem keep_regWrite {d0 d : Dev} {m : Nat} {via : Option Win} {f : Dev → Dev} (h : Keep d0 d)
    (hf : ∀ y0, Keep d0 y0 → Keep d0 (f y0)) : Keep d0 (regWrite m via f d) := by
  unfold regWrite
  repeat' (first
      | with_reducible exact h | with_reducible apply hf | with_reducible refine keep_answer ?_
      | with_reducible refine keep_ite ?_ ?_ | split)

theorem sound_mendBuf {d0 d : Dev} {m : Nat} {off : Nat} {size : Nat} (h : Sound d0 d)
    : Sound d0 (mendBuf m off size d) := by
  unfold mendBuf
  with_reducible repeat' (first | exact h | refine sound_updMaster ?_)

end Sys2Proof.Machine
end

