-- ==== Sys2Proof/Laws/KeepI3cTarget.lean ====
section
/-! SUPPORT. What the functions of Machine/I3cTarget.lean leave alone (Laws/Keep.lean). -/

set_option linter.unusedTactic false
set_option linter.unreachableTactic false
set_option linter.unusedSimpArgs false

namespace Sys2Proof.Machine

theorem sound_updI3c {d0 d : Dev} {f : I3c → I3c} (h : Sound d0 d) : Sound d0 (updI3c f d) := by
  unfold updI3c
  repeat' (first
      | with_reducible exact h
      | fail_if_no_progress (with_reducible refine sound_mk ?_ ?_ <;> [skip; first | rfl | simp_all only]))

theorem sound_setRsp {d0 d : Dev} {dst : Nat} {tag : Nat} {body : Bytes} (h : Sound d0 d)
    : Sound d0 (setRsp dst tag body d) := by
  unfold setRsp
  with_reducible repeat' (first | exact h | refine sound_updI3c ?_ | refine sound_cnt ?_ | refine sound_ite ?_ ?_)

theorem sound_privateRead {d0 d : Dev} (h : Sound d0 d) : Sound d0 (privateRead d) := by
  unfold privateRead
  repeat' (first | with_reducible exact h | with_reducible refine sound_updI3c ?_ | dsimp only | split)

theorem sound_ctlSetEid {d0 d : Dev} {inst : Nat} {op : Nat} {eid : Nat} (h : Sound d0 d)
    : Sound d0 (ctlSetEid inst op eid d).2 := by
  unfold ctlSetEid
  repeat' (first | with_reducible exact h | with_reducible refine sound_put ?_ | split)

theorem sound_ctlSetEidE {d0 d : Dev} {inst : Nat} {op : Nat} {eid : Nat} {r9 : Bytes × Dev} (h : Sound d0 d)
    (e9 : (ctlSetEid inst op eid d) = r9) : Sound d0 r9.2 := e9 ▸ sound_ctlSetEid h

theorem keep_ctlVersion {d0 d : Dev} {inst : Nat} {mtype : Nat} (h : Keep d0 d)
    : Keep d0 (ctlVersion inst mtype d).2 := by
  unfold ctlVersion
  repeat' (first | with_reducible exact h | with_reducible refine keep_freeVal ?_ | dsimp only | split)

theorem keep_ctlVersionE {d0 d : Dev} {inst : Nat} {mtype : Nat} {r9 : Bytes × Dev} (h : Keep d0 d)
    (e9 : (ctlVersion inst mtype d) = r9) : Keep d0 r9.2 := e9 ▸ keep_ctlVersion h

theorem soundk_ctlVersion {d0 d : Dev} {inst : Nat} {mtype : Nat} (h : Sound d0 d)
    : Sound d0 (ctlVersion inst mtype d).2 := h.trans (keep_ctlVersion (Keep.refl d)).toSound

theorem sound_ctlServe {d0 d : Dev} {inst : Nat} {code : Nat} {data : Bytes} (h : Sound d0 d)
    : Sound d0 (ctlServe inst code data d).2 := by
  unfold ctlServe
  repeat' (first
      | with_reducible exact h | with_reducible refine sound_ctlSetEid ?_ | with_reducible refine soundk_ctlVersion ?_
      | split)

theorem sound_ctlServeE {d0 d : Dev} {inst : Nat} {code : Nat} {data : Bytes} {r9 : Bytes × Dev} (h : Sound d0 d)
    (e9 : (ctlServe inst code data d) = r9) : Sound d0 r9.2 := e9 ▸ sound_ctlServe h

theorem sound_badVersion {d0 d : Dev} {c : OdCmd} {q : OdReq} (h : Sound d0 d) : Sound d0 (badVersion c q d).2 := by
  unfold badVersion
  with_reducible repeat' (first
      | exact h | refine sound_supersede ?_ | refine sound_closeXfer ?_ | refine sound_endCmd ?_
      | refine sound_ite ?_ ?_)

theorem sound_badVersionE {d0 d : Dev} {c : OdCmd} {q : OdReq} {r9 : OdAns × Dev} (h : Sound d0 d)
    (e9 : (badVersion c q d) = r9) : Sound d0 r9.2 := e9 ▸ sound_badVersion h

theorem sound_i3cServe {d0 d : Dev} {src : Nat} {b : Bytes} {c : OdCmd} {q : OdReq} (h : Sound d0 d)
    : Sound d0 (i3cServe src b c q d).2 := by
  unfold i3cServe
  repeat' (first
      | with_reducible exact h | with_reducible refine sound_endCmd ?_ | with_reducible refine sound_seen ?_
      | with_reducible refine sound_takeCmd ?_ | with_reducible refine sound_updI3c ?_
      | with_reducible refine sound_badVersion ?_ | with_reducible refine sound_odFinish ?_
      | with_reducible refine sound_odFree ?_ | dsimp only | split)

theorem sound_i3cServeE {d0 d : Dev} {src : Nat} {b : Bytes} {c : OdCmd} {q : OdReq} {r9 : OdAns × Dev}
    (h : Sound d0 d) (e9 : (i3cServe src b c q d) = r9) : Sound d0 r9.2 := e9 ▸ sound_i3cServe h

theorem sound_odRequest {d0 d : Dev} {src : Nat} {tag : Nat} {b : Bytes} (h : Sound d0 d)
    : Sound d0 (odRequest src tag b d) := by
  unfold odRequest
  with_reducible repeat' (first | exact h | refine sound_i3cServe ?_ | refine sound_setRsp ?_)

theorem sound_message {d0 d : Dev} {src : Nat} {tag : Nat} {b : Bytes} (h : Sound d0 d)
    : Sound d0 (message src tag b d) := by
  unfold message
  with_reducible repeat' (first
      | exact h | refine sound_ctlServe ?_ | refine sound_setRsp ?_ | refine sound_odRequest ?_ | refine sound_cnt ?_
      | refine sound_ite ?_ ?_)

theorem sound_privateWrite {d0 d : Dev} {p : Bytes} {pec : Byte} (h : Sound d0 d) : Sound d0 (privateWrite p pec d)
    := by
  unfold privateWrite
  repeat' (first
      | with_reducible exact h | with_reducible refine sound_updI3c ?_ | with_reducible refine sound_message ?_
      | with_reducible refine sound_cnt ?_ | with_reducible refine sound_ite ?_ ?_ | dsimp only | split)

theorem sound_i3cReset {d0 d : Dev} (h : Sound d0 d) : Sound d0 (i3cReset d) := by
  unfold i3cReset
  repeat' (first
      | with_reducible exact h | dsimp only
      | fail_if_no_progress (with_reducible refine sound_mk ?_ ?_ <;> [skip; first | rfl | simp_all only]))

end Sys2Proof.Machine
end

