-- ==== Sys2Proof/Laws/KeepTick.lean ====
section
/-! SUPPORT. What the functions of Machine/Tick.lean leave alone (Laws/Keep.lean). -/

set_option linter.unusedTactic false
set_option linter.unreachableTactic false
set_option linter.unusedSimpArgs false

namespace Sys2Proof.Machine

theorem sound_clocks {d0 d : Dev} (h : Sound d0 d) : Sound d0 (clocks d) := by
  unfold clocks
  repeat' (first
      | with_reducible exact h
      | fail_if_no_progress (with_reducible refine sound_mk ?_ ?_ <;> [skip; first | rfl | simp_all only]))

theorem keep_upsetSb {d0 d : Dev} {p : Nat} {m : Nat} (h : Keep d0 d) : Keep d0 (upsetSb p m d) := by
  unfold upsetSb
  with_reducible repeat' (first | exact h | refine keep_updLan ?_ (fun _ => rfl) | refine keep_ite ?_ ?_)

theorem soundk_upsetSb {d0 d : Dev} {p : Nat} {m : Nat} (h : Sound d0 d) : Sound d0 (upsetSb p m d) :=
    h.trans (keep_upsetSb (Keep.refl d)).toSound

theorem keep_upsetLine {d0 d : Dev} {p : Nat} {m : Nat} (h : Keep d0 d) : Keep d0 (upsetLine p m d) := by
  unfold upsetLine
  repeat' (first | with_reducible exact h | with_reducible refine keep_updLine ?_ | split)

theorem soundk_upsetLine {d0 d : Dev} {p : Nat} {m : Nat} (h : Sound d0 d) : Sound d0 (upsetLine p m d) :=
    h.trans (keep_upsetLine (Keep.refl d)).toSound

theorem keep_upsetLane {d0 d : Dev} {p : Nat} {m : Nat} (h : Keep d0 d) : Keep d0 (upsetLane p m d) := by
  unfold upsetLane
  repeat' (first
      | with_reducible exact h | split
      | fail_if_no_progress (with_reducible refine keep_mk ?_ ?_ <;> [skip; first | rfl | simp_all only]))

theorem soundk_upsetLane {d0 d : Dev} {p : Nat} {m : Nat} (h : Sound d0 d) : Sound d0 (upsetLane p m d) :=
    h.trans (keep_upsetLane (Keep.refl d)).toSound

theorem keep_underrun {d0 d : Dev} {q : Nat} (h : Keep d0 d) : Keep d0 (underrun q d) := by
  unfold underrun
  repeat' (first
      | with_reducible exact h | with_reducible refine keep_ite ?_ ?_ | dsimp only
      | fail_if_no_progress (with_reducible refine keep_mk ?_ ?_ <;> [skip; first | rfl | simp_all only]))

theorem soundk_underrun {d0 d : Dev} {q : Nat} (h : Sound d0 d) : Sound d0 (underrun q d) :=
    h.trans (keep_underrun (Keep.refl d)).toSound

theorem sound_upset {d0 d : Dev} (h : Sound d0 d) : Sound d0 (upset d) := by
  unfold upset
  repeat' (first
      | with_reducible exact h | with_reducible refine soundk_upsetSb ?_ | with_reducible refine soundk_upsetLine ?_
      | with_reducible refine soundk_upsetLane ?_ | with_reducible refine sound_updMaster ?_
      | with_reducible refine soundk_underrun ?_ | with_reducible refine sound_ite ?_ ?_ | dsimp only | split
      | fail_if_no_progress (with_reducible refine sound_mk ?_ ?_ <;> [skip; first | rfl | simp_all only]))

theorem keep_flitFails {d0 d : Dev} {f : Flit} (h : Keep d0 d) : Keep d0 (flitFails f d) := by
  unfold flitFails
  repeat' (first | with_reducible exact h | with_reducible refine keep_cmdFail ?_ | split)

theorem keep_netEv {d0 d : Dev} {e : NetEv} (h : Keep d0 d) : Keep d0 (netEv e d) := by
  unfold netEv
  repeat' (first
      | with_reducible exact h | with_reducible refine keep_flitFails ?_ | with_reducible refine keep_memError ?_
      | with_reducible refine keep_cnt ?_ ?_ | with_reducible refine keep_ite ?_ ?_
      | (show dataIdx _ _; unfold dataIdx; (first | decide | (simp only [rgIdx, chIdx, tcIdx, lgIdx, ptIdx, kpIdx]; omega) | omega))
      | split)

theorem keep_netGo {d0 d : Dev} (h : Keep d0 d) : Keep d0 (netGo d) := by
  unfold netGo
  repeat' (first
      | with_reducible exact h | with_reducible assumption | with_reducible refine keep_netEv ?_
      | with_reducible refine keep_foldl _ ?_ (fun _ _ _ => ?_) | split
      | fail_if_no_progress (with_reducible refine keep_mk ?_ ?_ <;> [skip; first | rfl | simp_all only]))

theorem soundk_netGo {d0 d : Dev} (h : Sound d0 d) : Sound d0 (netGo d) := h.trans (keep_netGo (Keep.refl d)).toSound

theorem keep_netWakes {d0 d : Dev} (h : Keep d0 d) : Keep d0 (netWakes d) := by
  unfold netWakes
  with_reducible repeat' (first
      | exact h | assumption | refine keep_assertWake ?_ | refine keep_foldl _ ?_ (fun _ _ _ => ?_))

theorem soundk_netWakes {d0 d : Dev} (h : Sound d0 d) : Sound d0 (netWakes d) :=
    h.trans (keep_netWakes (Keep.refl d)).toSound

theorem sound_unitsGo {d0 d : Dev} (h : Sound d0 d) : Sound d0 (unitsGo d) := by
  unfold unitsGo
  with_reducible repeat' (first
      | exact h | refine soundk_ckptGo ?_ | refine soundk_askWanted ?_ | refine sound_endJobs ?_
      | refine soundk_settle ?_ | refine sound_ite ?_ ?_)

theorem sound_tickDev {d0 d : Dev} (h : Sound d0 d) : Sound d0 (tickDev d) := by
  unfold tickDev
  with_reducible repeat' (first
      | exact h | refine sound_unitsGo ?_ | refine soundk_netWakes ?_ | refine soundk_netGo ?_ | refine sound_upset ?_
      | refine sound_clocks ?_)

end Sys2Proof.Machine
end

