-- ==== Sys2Proof/Laws/KeepExec.lean ====
section
/-! SUPPORT. Every command keeps the canonical forms (`Sound` of Laws/Keep.lean). -/

set_option linter.unusedTactic false
set_option linter.unreachableTactic false
set_option linter.unusedSimpArgs false

namespace Sys2Proof.Machine

theorem soundk_strayRsp {d0 d : Dev} {p : Nat} {txid : Nat} (h : Sound d0 d) : Sound d0 (strayRsp p txid d) :=
    h.trans (keep_strayRsp (Keep.refl d)).toSound

theorem soundk_bellExt {d0 d : Dev} {v : BitVec 32} (h : Sound d0 d) : Sound d0 (bellExt v d) :=
    h.trans (keep_bellExt (Keep.refl d)).toSound

theorem soundk_bellEoi {d0 d : Dev} {v : BitVec 32} (h : Sound d0 d) : Sound d0 (bellEoi v d) :=
    h.trans (keep_bellEoi (Keep.refl d)).toSound

theorem soundk_startRun {d0 d : Dev} {t : Nat} (h : Sound d0 d) : Sound d0 (startRun t d) :=
    h.trans (keep_startRun (Keep.refl d)).toSound

theorem soundk_nextSlot {d0 d : Dev} {t : Nat} (h : Sound d0 d) : Sound d0 (nextSlot t d) :=
    h.trans (keep_nextSlot (Keep.refl d)).toSound

theorem soundk_fallBack {d0 d : Dev} {t : Nat} (h : Sound d0 d) : Sound d0 (fallBack t d) :=
    h.trans (keep_fallBack (Keep.refl d)).toSound

theorem soundk_bellResponse {d0 d : Dev} {t : Nat} {dseq : Nat} {slot : Nat} {status : Nat} (h : Sound d0 d)
    : Sound d0 (bellResponse t dseq slot status d) := h.trans (keep_bellResponse (Keep.refl d)).toSound

theorem soundk_bellTakeNext {d0 d : Dev} (h : Sound d0 d) : Sound d0 (bellTakeNext d) :=
    h.trans (keep_bellTakeNext (Keep.refl d)).toSound

theorem soundk_setAwake {d0 d : Dev} {t : Nat} {a : Bool} (h : Sound d0 d) : Sound d0 (setAwake t a d) :=
    h.trans (keep_setAwake (Keep.refl d)).toSound

theorem soundk_slotEnd {d0 d : Dev} {t : Nat} (h : Sound d0 d) : Sound d0 (slotEnd t d) :=
    h.trans (keep_slotEnd (Keep.refl d)).toSound

theorem soundk_awakeRise {d0 d : Dev} {t : Nat} (h : Sound d0 d) : Sound d0 (awakeRise t d) :=
    h.trans (keep_awakeRise (Keep.refl d)).toSound

theorem soundk_updDie {d0 d : Dev} {n : Nat} {f : Die → Die} (h : Sound d0 d) : Sound d0 (updDie n f d) :=
    h.trans (keep_updDie (Keep.refl d)).toSound

theorem soundk_updSeq {d0 d : Dev} {ch : Nat} {f : Seq → Seq} (h : Sound d0 d) : Sound d0 (updSeq ch f d) :=
    h.trans (keep_updSeq (Keep.refl d)).toSound

theorem soundk_charge {d0 d : Dev} {n : Nat} {nj : Nat} (h : Sound d0 d) : Sound d0 (charge n nj d) :=
    h.trans (keep_charge (Keep.refl d)).toSound

theorem soundk_modelStep {d0 d : Dev} (h : Sound d0 d) : Sound d0 (modelStep d) :=
    h.trans (keep_modelStep (Keep.refl d)).toSound

theorem soundk_kickAll {d0 d : Dev} (h : Sound d0 d) : Sound d0 (kickAll d) :=
    h.trans (keep_kickAll (Keep.refl d)).toSound

theorem soundk_padSlot {d0 d : Dev} {id : Nat} {r : Nat} {j : Nat} (h : Sound d0 d) : Sound d0 (padSlot id r j d)
    := h.trans (keep_padSlot (Keep.refl d)).toSound

theorem soundk_padRow {d0 d : Dev} {id : Nat} {r : Nat} (h : Sound d0 d) : Sound d0 (padRow id r d) :=
    h.trans (keep_padRow (Keep.refl d)).toSound

theorem soundk_updCmd {d0 d : Dev} {tag : Nat} {f : Cmd → Cmd} (h : Sound d0 d) : Sound d0 (updCmd tag f d) :=
    h.trans (keep_updCmd (Keep.refl d)).toSound

theorem soundk_cmdCheck {d0 d : Dev} {tag : Nat} (h : Sound d0 d) : Sound d0 (cmdCheck tag d) :=
    h.trans (keep_cmdCheck (Keep.refl d)).toSound

theorem soundk_lmUpdate {d0 d : Dev} (h : Sound d0 d) : Sound d0 (lmUpdate d) :=
    h.trans (keep_lmUpdate (Keep.refl d)).toSound

theorem soundk_readGranules {d0 d : Dev} {tag : Nat} {c : Cmd} (h : Sound d0 d) : Sound d0 (readGranules tag c d)
    := h.trans (keep_readGranules (Keep.refl d)).toSound

theorem soundk_nextGran {d0 d : Dev} {tag : Nat} (h : Sound d0 d) : Sound d0 (nextGran tag d) :=
    h.trans (keep_nextGran (Keep.refl d)).toSound

theorem soundk_destageView {d0 d : Dev} {tag : Nat} {c : Cmd} (h : Sound d0 d) : Sound d0 (destageView tag c d)
    := h.trans (keep_destageView (Keep.refl d)).toSound

theorem soundk_placeRead {d0 d : Dev} {id : Nat} (h : Sound d0 d) : Sound d0 (placeRead id d) :=
    h.trans (keep_placeRead (Keep.refl d)).toSound

theorem soundk_mapFillComplete {d0 d : Dev} {slot : Nat} (h : Sound d0 d) : Sound d0 (mapFillComplete slot d) :=
    h.trans (keep_mapFillComplete (Keep.refl d)).toSound

theorem soundk_decoderDispatch {d0 d : Dev} {ch : Nat} {cw : Nat} (h : Sound d0 d)
    : Sound d0 (decoderDispatch ch cw d) := h.trans (keep_decoderDispatch (Keep.refl d)).toSound

theorem soundk_decodeJob {d0 d : Dev} {k : Nat} (h : Sound d0 d) : Sound d0 (decodeJob k d) :=
    h.trans (keep_decodeJob (Keep.refl d)).toSound

theorem soundk_decodeResult {d0 d : Dev} {k : Nat} {r : DecRes} (h : Sound d0 d) : Sound d0 (decodeResult k r d)
    := h.trans (keep_decodeResult (Keep.refl d)).toSound

theorem soundk_inlineCheck {d0 d : Dev} {ch : Nat} {cw : Nat} (h : Sound d0 d) : Sound d0 (inlineCheck ch cw d)
    := h.trans (keep_inlineCheck (Keep.refl d)).toSound

theorem soundk_updRing {d0 d : Dev} {r : Nat} {f : Ring → Ring} (h : Sound d0 d) : Sound d0 (updRing r f d) :=
    h.trans (keep_updRing (Keep.refl d)).toSound

theorem soundk_sqFetch {d0 d : Dev} {p : Nat} (h : Sound d0 d) : Sound d0 (sqFetch p d) :=
    h.trans (keep_sqFetch (Keep.refl d)).toSound

theorem soundk_sqFetchComplete {d0 d : Dev} {r : Nat} (h : Sound d0 d) : Sound d0 (sqFetchComplete r d) :=
    h.trans (keep_sqFetchComplete (Keep.refl d)).toSound

theorem soundk_completionPost {d0 d : Dev} {tag : Nat} (h : Sound d0 d) : Sound d0 (completionPost tag d) :=
    h.trans (keep_completionPost (Keep.refl d)).toSound

theorem soundk_completionBell {d0 d : Dev} {r : Nat} (h : Sound d0 d) : Sound d0 (completionBell r d) :=
    h.trans (keep_completionBell (Keep.refl d)).toSound

theorem soundk_ringDrained {d0 d : Dev} {r : Nat} (h : Sound d0 d) : Sound d0 (ringDrained r d) :=
    h.trans (keep_ringDrained (Keep.refl d)).toSound

theorem soundk_padUrgent {d0 d : Dev} (h : Sound d0 d) : Sound d0 (padUrgent d) :=
    h.trans (keep_padUrgent (Keep.refl d)).toSound

theorem soundk_writeGranules {d0 d : Dev} {tag : Nat} {c : Cmd} (h : Sound d0 d) : Sound d0 (writeGranules tag c d)
    := h.trans (keep_writeGranules (Keep.refl d)).toSound

theorem soundk_merge {d0 d : Dev} {id : Nat} (h : Sound d0 d) : Sound d0 (merge id d) :=
    h.trans (keep_merge (Keep.refl d)).toSound

theorem soundk_noSpace {d0 d : Dev} {w : WJob} (h : Sound d0 d) : Sound d0 (noSpace w d) :=
    h.trans (keep_noSpace (Keep.refl d)).toSound

theorem soundk_placeWrite {d0 d : Dev} {id : Nat} (h : Sound d0 d) : Sound d0 (placeWrite id d) :=
    h.trans (keep_placeWrite (Keep.refl d)).toSound

theorem soundk_trimGo {d0 d : Dev} {tag : Nat} (h : Sound d0 d) : Sound d0 (trimGo tag d) :=
    h.trans (keep_trimGo (Keep.refl d)).toSound

theorem soundk_commitCmd {d0 d : Dev} {tag : Nat} {c : Cmd} (h : Sound d0 d) : Sound d0 (commitCmd tag c d) :=
    h.trans (keep_commitCmd (Keep.refl d)).toSound

theorem soundk_calibrate {d0 d : Dev} (h : Sound d0 d) : Sound d0 (calibrate d) :=
    h.trans (keep_calibrate (Keep.refl d)).toSound

theorem soundk_commitStart {d0 d : Dev} (h : Sound d0 d) : Sound d0 (commitStart d) :=
    h.trans (keep_commitStart (Keep.refl d)).toSound

theorem soundk_commitDone {d0 d : Dev} (h : Sound d0 d) : Sound d0 (commitDone d) :=
    h.trans (keep_commitDone (Keep.refl d)).toSound

theorem soundk_noEnergy {d0 d : Dev} {tag : Nat} (h : Sound d0 d) : Sound d0 (noEnergy tag d) :=
    h.trans (keep_noEnergy (Keep.refl d)).toSound

theorem soundk_checkpointStart {d0 d : Dev} (h : Sound d0 d) : Sound d0 (checkpointStart d) :=
    h.trans (keep_checkpointStart (Keep.refl d)).toSound

theorem soundk_checkpointEnd {d0 d : Dev} (h : Sound d0 d) : Sound d0 (checkpointEnd d) :=
    h.trans (keep_checkpointEnd (Keep.refl d)).toSound

theorem soundk_relocAll {d0 d : Dev} (h : Sound d0 d) : Sound d0 (relocAll d) :=
    h.trans (keep_relocAll (Keep.refl d)).toSound

theorem soundk_relocationStart {d0 d : Dev} (h : Sound d0 d) : Sound d0 (relocationStart d) :=
    h.trans (keep_relocationStart (Keep.refl d)).toSound

theorem soundk_relocSwitch {d0 d : Dev} {id : Nat} (h : Sound d0 d) : Sound d0 (relocSwitch id d) :=
    h.trans (keep_relocSwitch (Keep.refl d)).toSound

theorem soundk_rawCmd {d0 d : Dev} {tag : Nat} {c : Cmd} (h : Sound d0 d) : Sound d0 (rawCmd tag c d) :=
    h.trans (keep_rawCmd (Keep.refl d)).toSound

theorem soundk_rawRing {d0 d : Dev} {op : Nat} {tag : Nat} (h : Sound d0 d) : Sound d0 (rawRing op tag d) :=
    h.trans (keep_rawRing (Keep.refl d)).toSound

theorem soundk_burstEnd {d0 d : Dev} {ch : Nat} {r : BurstResult} (h : Sound d0 d) : Sound d0 (burstEnd ch r d)
    := h.trans (keep_burstEnd (Keep.refl d)).toSound

theorem soundk_dieTimeout {d0 d : Dev} {ch : Nat} {k : Nat} (h : Sound d0 d) : Sound d0 (dieTimeout ch k d) :=
    h.trans (keep_dieTimeout (Keep.refl d)).toSound

theorem soundk_suspendTimeout {d0 d : Dev} {ch : Nat} {k : Nat} (h : Sound d0 d) : Sound d0 (suspendTimeout ch k d)
    := h.trans (keep_suspendTimeout (Keep.refl d)).toSound

theorem soundk_dieTempReading {d0 d : Dev} {n : Nat} {r : Option Byte} (h : Sound d0 d)
    : Sound d0 (dieTempReading n r d) := h.trans (keep_dieTempReading (Keep.refl d)).toSound

theorem soundk_tenderJob {d0 d : Dev} {tag : Nat} (h : Sound d0 d) : Sound d0 (tenderJob tag d) :=
    h.trans (keep_tenderJob (Keep.refl d)).toSound

theorem soundk_askAll {d0 d : Dev} {n : Nat} (h : Sound d0 d) : Sound d0 (askAll n d) :=
    h.trans (keep_askAll (Keep.refl d)).toSound

theorem soundk_pathTurn {d0 d : Dev} {n : Nat} (h : Sound d0 d) : Sound d0 (pathTurn n d).2 :=
    h.trans (keep_pathTurn (Keep.refl d)).toSound

theorem soundk_copyStep {d0 d : Dev} {n : Nat} {t : TDesc} (h : Sound d0 d) : Sound d0 (copyStep n t d) :=
    h.trans (keep_copyStep (Keep.refl d)).toSound

theorem soundk_compareStep {d0 d : Dev} {n : Nat} {t : TDesc} (h : Sound d0 d) : Sound d0 (compareStep n t d) :=
    h.trans (keep_compareStep (Keep.refl d)).toSound

theorem soundk_descriptorComplete {d0 d : Dev} {n : Nat} (h : Sound d0 d) : Sound d0 (descriptorComplete n d) :=
    h.trans (keep_descriptorComplete (Keep.refl d)).toSound

theorem soundk_loadDesc {d0 d : Dev} {n : Nat} (h : Sound d0 d) : Sound d0 (loadDesc n d) :=
    h.trans (keep_loadDesc (Keep.refl d)).toSound

theorem soundk_timerTick {d0 d : Dev} {k : Nat} (h : Sound d0 d) : Sound d0 (timerTick k d) :=
    h.trans (keep_timerTick (Keep.refl d)).toSound

theorem soundk_initTimeout {d0 d : Dev} {p : Nat} {txid : Nat} (h : Sound d0 d) : Sound d0 (initTimeout p txid d)
    := h.trans (keep_initTimeout (Keep.refl d)).toSound

theorem soundk_creditReturn {d0 d : Dev} {p : Nat} {k : YppClass} (h : Sound d0 d) : Sound d0 (creditReturn p k d)
    := h.trans (keep_creditReturn (Keep.refl d)).toSound

theorem soundk_undercredit {d0 d : Dev} {p : Nat} (h : Sound d0 d) : Sound d0 (undercredit p d) :=
    h.trans (keep_undercredit (Keep.refl d)).toSound

theorem soundk_linkUp {d0 d : Dev} {p : Nat} (h : Sound d0 d) : Sound d0 (linkUp p d) :=
    h.trans (keep_linkUp (Keep.refl d)).toSound

theorem soundk_framing {d0 d : Dev} {p : Nat} (h : Sound d0 d) : Sound d0 (framing p d) :=
    h.trans (keep_framing (Keep.refl d)).toSound

theorem soundk_creditPulse {d0 d : Dev} {p : Nat} {k : YppClass} {n : Nat} (h : Sound d0 d)
    : Sound d0 (creditPulse p k n d) := h.trans (keep_creditPulse (Keep.refl d)).toSound

theorem soundk_inboundResponse {d0 d : Dev} {p : Nat} {r : RspHdr} (h : Sound d0 d)
    : Sound d0 (inboundResponse p r d) := h.trans (keep_inboundResponse (Keep.refl d)).toSound

theorem soundk_referenceSet {d0 d : Dev} (h : Sound d0 d) : Sound d0 (referenceSet d) :=
    h.trans (keep_referenceSet (Keep.refl d)).toSound

theorem soundk_latchSet {d0 d : Dev} {ch : Nat} {sw : Option ShadowWrite} (h : Sound d0 d)
    : Sound d0 (latchSet ch sw d) := h.trans (keep_latchSet (Keep.refl d)).toSound

theorem soundk_modeSwap {d0 d : Dev} {ch : Nat} {r : SwapResult} (h : Sound d0 d) : Sound d0 (modeSwap ch r d) :=
    h.trans (keep_modeSwap (Keep.refl d)).toSound

theorem soundk_training {d0 d : Dev} {ch : Nat} {t : Nat} {r : TrainResult} (h : Sound d0 d)
    : Sound d0 (training ch t r d) := h.trans (keep_training (Keep.refl d)).toSound

theorem soundk_driftTrack {d0 d : Dev} {ch : Nat} {t : Nat} {centre : Int} (h : Sound d0 d)
    : Sound d0 (driftTrack ch t centre d) := h.trans (keep_driftTrack (Keep.refl d)).toSound

theorem soundk_mcFault {d0 d : Dev} {ch : Nat} {cause : Nat} {b : Burst} (h : Sound d0 d)
    : Sound d0 (mcFault ch cause b d) := h.trans (keep_mcFault (Keep.refl d)).toSound

theorem soundk_ucWord {d0 d : Dev} {ch : Nat} {w : UWord} {e : UEnv} (h : Sound d0 d) : Sound d0 (ucWord ch w e d)
    := h.trans (keep_ucWord (Keep.refl d)).toSound

theorem soundk_seqInstall {d0 d : Dev} {ch : Nat} (h : Sound d0 d) : Sound d0 (seqInstall ch d) :=
    h.trans (keep_seqInstall (Keep.refl d)).toSound

theorem soundk_seqLeave {d0 d : Dev} {ch : Nat} (h : Sound d0 d) : Sound d0 (seqLeave ch d) :=
    h.trans (keep_seqLeave (Keep.refl d)).toSound

theorem soundk_lktFail {d0 d : Dev} {cause : Nat} (h : Sound d0 d) : Sound d0 (lktFail cause d) :=
    h.trans (keep_lktFail (Keep.refl d)).toSound

theorem soundk_keyNext {d0 d : Dev} (h : Sound d0 d) : Sound d0 (keyNext d) :=
    h.trans (keep_keyNext (Keep.refl d)).toSound

theorem soundk_keyWord {d0 d : Dev} {w : BitVec 64} (h : Sound d0 d) : Sound d0 (keyWord w d) :=
    h.trans (keep_keyWord (Keep.refl d)).toSound

theorem soundk_flushWave {d0 d : Dev} {n : Nat} {ok : Bool} (h : Sound d0 d) : Sound d0 (flushWave n ok d) :=
    h.trans (keep_flushWave (Keep.refl d)).toSound

theorem soundk_lanternQuiesced {d0 d : Dev} (h : Sound d0 d) : Sound d0 (lanternQuiesced d) :=
    h.trans (keep_lanternQuiesced (Keep.refl d)).toSound

theorem soundk_mapInit {d0 d : Dev} {m : Media} (h : Sound d0 d) : Sound d0 (mapInit m d) :=
    h.trans (keep_mapInit (Keep.refl d)).toSound

theorem soundk_replay {d0 d : Dev} {m : Media} (h : Sound d0 d) : Sound d0 (replay m d) :=
    h.trans (keep_replay (Keep.refl d)).toSound

theorem soundk_queueIn {d0 d : Dev} {p : Nat} {k : YppClass} {c : Instr} (h : Sound d0 d)
    : Sound d0 (queueIn p k c d) := h.trans (keep_queueIn (Keep.refl d)).toSound

theorem soundk_writeRefused {d0 d : Dev} {p : Nat} {h_ : ReqHdr} (h : Sound d0 d) : Sound d0 (writeRefused p h_ d)
    := h.trans (keep_writeRefused (Keep.refl d)).toSound

theorem soundk_badHeader {d0 d : Dev} {p : Nat} {cls : YppClass} {op : Nat} {txid : Nat} (h : Sound d0 d)
    : Sound d0 (badHeader p cls op txid d) := h.trans (keep_badHeader (Keep.refl d)).toSound

theorem soundk_dbHalves {d0 d : Dev} {r : Nat} {sq : Option (BitVec 32)} {cq : Option (BitVec 32)} (h : Sound d0 d)
    : Sound d0 (dbHalves r sq cq d) := h.trans (keep_dbHalves (Keep.refl d)).toSound

theorem soundk_afterIn {d0 d : Dev} {p : Nat} {rest : List Instr} (h : Sound d0 d) : Sound d0 (afterIn p rest d)
    := h.trans (keep_afterIn (Keep.refl d)).toSound

theorem soundk_drainComplete {d0 d : Dev} {n : Nat} (h : Sound d0 d) : Sound d0 (drainComplete n d) :=
    h.trans (keep_drainComplete (Keep.refl d)).toSound

theorem soundk_downDone {d0 d : Dev} {n : Nat} (h : Sound d0 d) : Sound d0 (downDone n d) :=
    h.trans (keep_downDone (Keep.refl d)).toSound

theorem soundk_pgFall {d0 d : Dev} {n : Nat} (h : Sound d0 d) : Sound d0 (pgFall n d) :=
    h.trans (keep_pgFall (Keep.refl d)).toSound

theorem soundk_wakeAssert {d0 d : Dev} {n : Nat} {b : Nat} (h : Sound d0 d) : Sound d0 (wakeAssert n b d) :=
    h.trans (keep_wakeAssert (Keep.refl d)).toSound

theorem soundk_viaOkAnswer {d0 d : Dev} {v : Option Via} (h : Sound d0 d) : Sound d0 (viaOkAnswer v d) :=
    h.trans (keep_viaOkAnswer (Keep.refl d)).toSound

theorem soundk_windowReq {d0 d : Dev} {p : Nat} {h_ : ReqHdr} (h : Sound d0 d) : Sound d0 (windowReq p h_ d) :=
    h.trans (keep_windowReq (Keep.refl d)).toSound

/-- Where the outcome is a next state, it is sound. -/
def SoundOut (d0 : Dev) (o : Host.Outcome State Fault Refusal) : Prop := ∀ t, o = .next t → Sound d0 t.dev

theorem out_run {d0 : Dev} {f : Dev → Dev} {s : State} (h : Sound d0 (f s.dev)) : SoundOut d0 (run f s) := by
  intro t e
  unfold run at e
  cases e
  exact h

theorem out_next {d0 : Dev} {s : State} (h : Sound d0 s.dev) : SoundOut d0 (.next s) := by
  intro t e
  cases e
  exact h

theorem out_ite {d0 : Dev} {c : Prop} [Decidable c] {a b : Host.Outcome State Fault Refusal} (ha : SoundOut d0 a)
    (hb : SoundOut d0 b) : SoundOut d0 (if c then a else b) := by
  split
  · exact ha
  · exact hb

theorem out_bind {d0 : Dev} {f : State → Host.Outcome State Fault Refusal} {o : Host.Outcome State Fault Refusal}
    (h : SoundOut d0 o) (hf : ∀ y, Sound d0 y.dev → SoundOut d0 (f y)) :
    SoundOut d0 (match o with | .next t => f t | e => e) := by
  cases o with
  | next t => exact hf t (h t rfl)
  | fault f => exact h
  | refused r => exact h

theorem out_foldl {d0 : Dev} {α : Type} (f : α → State → Host.Outcome State Fault Refusal) {l : List α}
    (hf : ∀ x y, Sound d0 y.dev → SoundOut d0 (f x y)) : ∀ {o : Host.Outcome State Fault Refusal}, SoundOut d0 o →
    SoundOut d0 (l.foldl (fun o x => match o with | .next t => f x t | e => e) o) := by
  induction l with
  | nil => intro o h; exact h
  | cons a l ih => intro o h; exact ih (out_bind h (hf a))

theorem sound_startCmd {d0 d : Dev} {opc : Nat} {tag : Nat} {f : Cmd → Dev → Dev} (h : Sound d0 d)
    (hf : ∀ y0 y1, Sound d0 y1 → Sound d0 (f y0 y1)) : Sound d0 (startCmd opc tag f d) := by
  unfold startCmd
  repeat' (first
      | with_reducible exact h | with_reducible apply hf | with_reducible refine soundk_updCmd ?_
      | with_reducible refine soundk_cmdCheck ?_ | with_reducible refine sound_ite ?_ ?_ | dsimp only | split)

theorem sound_opRow {d0 d : Dev} {op : Nat} {n : Nat} {step : Nat → TDesc → Dev → Dev} (h : Sound d0 d)
    (hstep : ∀ y0 y1 y2, Sound d0 y2 → Sound d0 (step y0 y1 y2)) : Sound d0 (opRow op n step d) := by
  unfold opRow
  repeat' (first
      | with_reducible exact h | with_reducible apply hstep | with_reducible refine soundk_pathTurn ?_
      | with_reducible refine soundk_askAll ?_ | with_reducible refine soundk_settle ?_
      | with_reducible refine sound_ite ?_ ?_ | dsimp only | split)

theorem sound_dbAnswer {d0 d : Dev} {p : Nat} {r : Nat} {txid : Nat} {f : Dev → Dev} (h : Sound d0 d)
    (hf : ∀ y0, Sound d0 y0 → Sound d0 (f y0)) : Sound d0 (dbAnswer p r txid f d) := by
  unfold dbAnswer
  with_reducible repeat' (first
      | exact h | apply hf | refine soundk_answer ?_ | refine sound_cnt ?_ | refine sound_ite ?_ ?_)

theorem sound_regWrite {d0 d : Dev} {m : Nat} {via : Option Win} {f : Dev → Dev} (h : Sound d0 d)
    (hf : ∀ y0, Sound d0 y0 → Sound d0 (f y0)) : Sound d0 (regWrite m via f d) := by
  unfold regWrite
  repeat' (first
      | with_reducible exact h | with_reducible apply hf | with_reducible refine soundk_answer ?_
      | with_reducible refine sound_ite ?_ ?_ | split)

theorem out_execInternalDoorbell {d0 : Dev} {s : State} (h : Sound d0 s.dev) :
    SoundOut d0 (execInternalDoorbell s) := by
  unfold execInternalDoorbell
  with_reducible repeat' (first | exact h | refine out_run ?_ | refine soundk_bellTakeNext ?_)

theorem out_execDeliveryRunStart {d0 : Dev} {slot : SlotAt} {s : State} (h : Sound d0 s.dev) :
    SoundOut d0 (execDeliveryRunStart slot s) := by
  unfold execDeliveryRunStart
  with_reducible repeat' (first | exact h | refine out_run ?_ | refine soundk_startRun ?_ | refine soundk_setAwake ?_)

theorem out_execAttemptSlot {d0 : Dev} {slot : SlotAt} {s : State} (h : Sound d0 s.dev) :
    SoundOut d0 (execAttemptSlot slot s) := by
  unfold execAttemptSlot
  with_reducible repeat' (first | exact h | refine out_run ?_ | refine soundk_slotEnd ?_ | refine soundk_setAwake ?_)

theorem out_execBellAwakeRise {d0 : Dev} {t : Nat} {s : State} (h : Sound d0 s.dev) :
    SoundOut d0 (execBellAwakeRise t s) := by
  unfold execBellAwakeRise
  with_reducible repeat' (first | exact h | refine out_run ?_ | refine soundk_awakeRise ?_)

theorem out_execDeliveryResponse {d0 : Dev} {p : Nat} {txid : Nat} {status : Nat} {s : State} (h : Sound d0 s.dev) :
    SoundOut d0 (execDeliveryResponse p txid status s) := by
  unfold execDeliveryResponse
  repeat' (first
      | with_reducible exact h | with_reducible refine out_run ?_ | with_reducible refine soundk_bellResponse ?_
      | with_reducible refine soundk_updPort ?_ | with_reducible refine soundk_strayRsp ?_ | split)

theorem out_execFallback {d0 : Dev} {t : Nat} {s : State} (h : Sound d0 s.dev) :
    SoundOut d0 (execFallback t s) := by
  unfold execFallback
  repeat' (first
      | with_reducible exact h | with_reducible refine out_run ?_ | with_reducible refine soundk_fallBack ?_
      | with_reducible refine soundk_nextSlot ?_ | with_reducible refine sound_ite ?_ ?_ | split)

theorem out_execHoldupReport {d0 : Dev} {energy : Nat} {seq : Nat} {s : State} (h : Sound d0 s.dev) :
    SoundOut d0 (execHoldupReport energy seq s) := by
  unfold execHoldupReport
  with_reducible repeat' (first | exact h | refine out_run ?_ | refine sound_takeReport ?_)

theorem out_execHoldupStale {d0 : Dev} {s : State} (h : Sound d0 s.dev) :
    SoundOut d0 (execHoldupStale s) := by
  unfold execHoldupStale
  repeat' (first
      | with_reducible exact h | with_reducible refine out_run ?_ | with_reducible refine sound_cnt ?_
      | with_reducible refine sound_ite ?_ ?_ | dsimp only [id]
      | fail_if_no_progress (with_reducible refine sound_mk ?_ ?_ <;> [skip; first | rfl | simp_all only]))

theorem out_execVbusAboveCeiling {d0 : Dev} {mvs : List Nat} {s : State} (h : Sound d0 s.dev) :
    SoundOut d0 (execVbusAboveCeiling mvs s) := by
  unfold execVbusAboveCeiling
  with_reducible repeat' (first | exact h | refine out_run ?_ | refine sound_busSamples ?_)

theorem out_execVbusBelowCeiling {d0 : Dev} {mvs : List Nat} {s : State} (h : Sound d0 s.dev) :
    SoundOut d0 (execVbusBelowCeiling mvs s) := by
  unfold execVbusBelowCeiling
  with_reducible repeat' (first | exact h | refine out_run ?_ | refine sound_busSamples ?_)

theorem out_execPfWarn {d0 : Dev} {s : State} (h : Sound d0 s.dev) :
    SoundOut d0 (execPfWarn s) := by
  unfold execPfWarn
  repeat' (first
      | with_reducible exact h | with_reducible refine out_run ?_ | dsimp only [id]
      | fail_if_no_progress (with_reducible refine sound_mk ?_ ?_ <;> [skip; first | rfl | simp_all only]))

theorem out_execPfGlitch {d0 : Dev} {s : State} (h : Sound d0 s.dev) :
    SoundOut d0 (execPfGlitch s) := by
  unfold execPfGlitch
  with_reducible repeat' (first | exact h | refine out_run ?_ | refine sound_cnt ?_)

theorem out_execSensorReport {d0 : Dev} {id : Nat} {temp : Int} {s : State} (h : Sound d0 s.dev) :
    SoundOut d0 (execSensorReport id temp s) := by
  unfold execSensorReport
  with_reducible repeat' (first
      | exact h | refine out_run ?_ | refine sound_updSensor ?_ | refine sound_cnt ?_ | refine sound_ite ?_ ?_)

theorem out_execSensorStale {d0 : Dev} {id : Nat} {s : State} (h : Sound d0 s.dev) :
    SoundOut d0 (execSensorStale id s) := by
  unfold execSensorStale
  with_reducible repeat' (first
      | exact h | refine out_run ?_ | refine sound_updSensor ?_ | refine sound_cnt ?_ | refine sound_ite ?_ ?_)

theorem out_execTbSync {d0 : Dev} {count : Nat} {s : State} (h : Sound d0 s.dev) :
    SoundOut d0 (execTbSync count s) := by
  unfold execTbSync
  with_reducible repeat' (first | exact h | refine out_run ?_ | refine sound_sync ?_)

theorem out_execTbClockLoss {d0 : Dev} {s : State} (h : Sound d0 s.dev) :
    SoundOut d0 (execTbClockLoss s) := by
  unfold execTbClockLoss
  with_reducible repeat' (first | exact h | refine out_run ?_ | refine sound_holdover ?_)

theorem out_execTbSyncTimeout {d0 : Dev} {s : State} (h : Sound d0 s.dev) :
    SoundOut d0 (execTbSyncTimeout s) := by
  unfold execTbSyncTimeout
  with_reducible repeat' (first | exact h | refine out_run ?_ | refine sound_holdover ?_)

theorem out_execPcGlitch {d0 : Dev} {n : Nat} {s : State} (h : Sound d0 s.dev) :
    SoundOut d0 (execPcGlitch n s) := by
  unfold execPcGlitch
  with_reducible repeat' (first | exact h | refine out_run ?_ | refine sound_cnt ?_ | refine sound_ite ?_ ?_)

theorem out_execRbGlitch {d0 : Dev} {ch : Nat} {t : Nat} {s : State} (h : Sound d0 s.dev) :
    SoundOut d0 (execRbGlitch ch t s) := by
  unfold execRbGlitch
  with_reducible repeat' (first | exact h | refine out_run ?_ | refine sound_cnt ?_ | refine sound_ite ?_ ?_)

theorem out_execWrstGlitch {d0 : Dev} {s : State} (h : Sound d0 s.dev) :
    SoundOut d0 (execWrstGlitch s) := by
  unfold execWrstGlitch
  with_reducible repeat' (first | exact h | refine out_run ?_ | refine sound_cnt ?_)

theorem out_execCuEnergyReport {d0 : Dev} {ch : Nat} {uj : Nat} {s : State} (h : Sound d0 s.dev) :
    SoundOut d0 (execCuEnergyReport ch uj s) := by
  unfold execCuEnergyReport
  repeat' (first
      | with_reducible exact h | with_reducible refine out_run ?_ | with_reducible refine soundk_charge ?_
      | with_reducible refine sound_ite ?_ ?_ | dsimp only [id]
      | fail_if_no_progress (with_reducible refine sound_mk ?_ ?_ <;> [skip; first | rfl | simp_all only]))

theorem out_execModelStep {d0 : Dev} {s : State} (h : Sound d0 s.dev) :
    SoundOut d0 (execModelStep s) := by
  unfold execModelStep
  with_reducible repeat' (first | exact h | refine out_run ?_ | refine soundk_modelStep ?_)

theorem out_execStatusPoll {d0 : Dev} {ch : Nat} {k : Nat} {s : State} (h : Sound d0 s.dev) :
    SoundOut d0 (execStatusPoll ch k s) := by
  unfold execStatusPoll
  with_reducible repeat' (first
      | exact h | refine out_run ?_ | refine soundk_kick ?_ | refine soundk_updDie ?_ | refine sound_ite ?_ ?_)

theorem out_execRbRise {d0 : Dev} {ch : Nat} {t : Nat} {s : State} (h : Sound d0 s.dev) :
    SoundOut d0 (execRbRise ch t s) := by
  unfold execRbRise
  with_reducible repeat' (first
      | exact h | assumption | refine out_run ?_ | refine soundk_kick ?_ | refine soundk_updDie ?_
      | refine sound_ite ?_ ?_ | refine sound_foldl _ ?_ (fun _ _ _ => ?_))

theorem out_execSuspendGapElapsed {d0 : Dev} {ch : Nat} {k : Nat} {s : State} (h : Sound d0 s.dev) :
    SoundOut d0 (execSuspendGapElapsed ch k s) := by
  unfold execSuspendGapElapsed
  with_reducible repeat' (first
      | exact h | refine out_run ?_ | refine soundk_kick ?_ | refine soundk_updDie ?_ | refine sound_ite ?_ ?_)

theorem out_execSuspendHoldExpired {d0 : Dev} {ch : Nat} {k : Nat} {s : State} (h : Sound d0 s.dev) :
    SoundOut d0 (execSuspendHoldExpired ch k s) := by
  unfold execSuspendHoldExpired
  with_reducible repeat' (first
      | exact h | refine out_run ?_ | refine soundk_kick ?_ | refine soundk_updDie ?_ | refine sound_ite ?_ ?_)

theorem out_execThrottleSpacing {d0 : Dev} {n : Nat} {s : State} (h : Sound d0 s.dev) :
    SoundOut d0 (execThrottleSpacing n s) := by
  unfold execThrottleSpacing
  with_reducible repeat' (first
      | exact h | refine out_run ?_ | refine soundk_kick ?_ | refine soundk_updDie ?_ | refine sound_ite ?_ ?_)

theorem out_execColdDeferExpiry {d0 : Dev} {n : Nat} {s : State} (h : Sound d0 s.dev) :
    SoundOut d0 (execColdDeferExpiry n s) := by
  unfold execColdDeferExpiry
  with_reducible repeat' (first
      | exact h | refine out_run ?_ | refine soundk_kick ?_ | refine soundk_updDie ?_ | refine sound_cnt ?_
      | refine sound_ite ?_ ?_)

theorem out_execCuThrottleDuty {d0 : Dev} {ch : Nat} {s : State} (h : Sound d0 s.dev) :
    SoundOut d0 (execCuThrottleDuty ch s) := by
  unfold execCuThrottleDuty
  with_reducible repeat' (first
      | exact h | refine out_run ?_ | refine soundk_kick ?_ | refine soundk_updChan ?_ | refine sound_ite ?_ ?_)

theorem out_execCorrectionLoop {d0 : Dev} {s : State} (h : Sound d0 s.dev) :
    SoundOut d0 (execCorrectionLoop s) := by
  unfold execCorrectionLoop
  with_reducible repeat' (first
      | exact h | refine out_run ?_ | refine soundk_kickAll ?_ | refine sound_correctionLoop ?_)

theorem out_execRowTimeout {d0 : Dev} {b : Nat} {r : Nat} {s : State} (h : Sound d0 s.dev) :
    SoundOut d0 (execRowTimeout b r s) := by
  unfold execRowTimeout
  repeat' (first
      | with_reducible exact h | with_reducible refine out_run ?_ | with_reducible refine soundk_feedBands ?_
      | with_reducible refine soundk_padRow ?_ | with_reducible refine sound_ite ?_ ?_ | split)

theorem out_execMemberSlotTimeout {d0 : Dev} {b : Nat} {r : Nat} {j : Nat} {s : State} (h : Sound d0 s.dev) :
    SoundOut d0 (execMemberSlotTimeout b r j s) := by
  unfold execMemberSlotTimeout
  repeat' (first
      | with_reducible exact h | with_reducible refine out_run ?_ | with_reducible refine soundk_padSlot ?_
      | with_reducible refine sound_cnt ?_ | with_reducible refine sound_ite ?_ ?_ | split)

theorem out_execLmUpdate {d0 : Dev} {s : State} (h : Sound d0 s.dev) :
    SoundOut d0 (execLmUpdate s) := by
  unfold execLmUpdate
  with_reducible repeat' (first | exact h | refine out_run ?_ | refine soundk_lmUpdate ?_)

theorem out_execPlaceRead {d0 : Dev} {job : Nat} {s : State} (h : Sound d0 s.dev) :
    SoundOut d0 (execPlaceRead job s) := by
  unfold execPlaceRead
  with_reducible repeat' (first | exact h | refine out_run ?_ | refine soundk_kickAll ?_ | refine soundk_placeRead ?_)

theorem out_execMapFillComplete {d0 : Dev} {slot : Nat} {s : State} (h : Sound d0 s.dev) :
    SoundOut d0 (execMapFillComplete slot s) := by
  unfold execMapFillComplete
  with_reducible repeat' (first
      | exact h | refine out_run ?_ | refine soundk_kickAll ?_ | refine soundk_mapFillComplete ?_)

theorem out_execDecoderDispatch {d0 : Dev} {ch : Nat} {cw : Nat} {s : State} (h : Sound d0 s.dev) :
    SoundOut d0 (execDecoderDispatch ch cw s) := by
  unfold execDecoderDispatch
  with_reducible repeat' (first | exact h | refine out_run ?_ | refine soundk_decoderDispatch ?_)

theorem out_execDecodeJob {d0 : Dev} {k : Nat} {s : State} (h : Sound d0 s.dev) :
    SoundOut d0 (execDecodeJob k s) := by
  unfold execDecodeJob
  with_reducible repeat' (first | exact h | refine out_run ?_ | refine soundk_decodeJob ?_)

theorem out_execDecodeResult {d0 : Dev} {k : Nat} {r : DecRes} {s : State} (h : Sound d0 s.dev) :
    SoundOut d0 (execDecodeResult k r s) := by
  unfold execDecodeResult
  with_reducible repeat' (first
      | exact h | refine out_run ?_ | refine soundk_kickAll ?_ | refine soundk_decodeResult ?_)

theorem out_execInlineCheck {d0 : Dev} {ch : Nat} {cw : Nat} {s : State} (h : Sound d0 s.dev) :
    SoundOut d0 (execInlineCheck ch cw s) := by
  unfold execInlineCheck
  with_reducible repeat' (first
      | exact h | refine out_run ?_ | refine soundk_kickAll ?_ | refine soundk_inlineCheck ?_)

theorem out_execSqFetch {d0 : Dev} {p : Nat} {s : State} (h : Sound d0 s.dev) :
    SoundOut d0 (execSqFetch p s) := by
  unfold execSqFetch
  with_reducible repeat' (first | exact h | refine out_run ?_ | refine soundk_sqFetch ?_ | refine sound_ite ?_ ?_)

theorem out_execFetchStarvation {d0 : Dev} {r : Nat} {s : State} (h : Sound d0 s.dev) :
    SoundOut d0 (execFetchStarvation r s) := by
  unfold execFetchStarvation
  with_reducible repeat' (first | exact h | refine out_run ?_ | refine soundk_updRing ?_ | refine sound_ite ?_ ?_)

theorem out_execSqFetchComplete {d0 : Dev} {r : Nat} {s : State} (h : Sound d0 s.dev) :
    SoundOut d0 (execSqFetchComplete r s) := by
  unfold execSqFetchComplete
  with_reducible repeat' (first | exact h | refine out_run ?_ | refine soundk_sqFetchComplete ?_)

theorem out_execCompletionPost {d0 : Dev} {tag : Nat} {s : State} (h : Sound d0 s.dev) :
    SoundOut d0 (execCompletionPost tag s) := by
  unfold execCompletionPost
  with_reducible repeat' (first | exact h | refine out_run ?_ | refine soundk_completionPost ?_)

theorem out_execCompletionBell {d0 : Dev} {r : Nat} {s : State} (h : Sound d0 s.dev) :
    SoundOut d0 (execCompletionBell r s) := by
  unfold execCompletionBell
  with_reducible repeat' (first | exact h | refine out_run ?_ | refine soundk_completionBell ?_)

theorem out_execRingDrained {d0 : Dev} {r : Nat} {s : State} (h : Sound d0 s.dev) :
    SoundOut d0 (execRingDrained r s) := by
  unfold execRingDrained
  with_reducible repeat' (first | exact h | refine out_run ?_ | refine soundk_ringDrained ?_)

theorem out_execWrite {d0 : Dev} {tag : Nat} {s : State} (h : Sound d0 s.dev) :
    SoundOut d0 (execWrite tag s) := by
  unfold execWrite
  with_reducible repeat' (first
      | exact h | assumption | refine out_run ?_ | refine sound_startCmd ?_ (fun _ _ _ => ?_)
      | refine soundk_writeGranules ?_)

theorem out_execRead {d0 : Dev} {tag : Nat} {s : State} (h : Sound d0 s.dev) :
    SoundOut d0 (execRead tag s) := by
  unfold execRead
  with_reducible repeat' (first
      | exact h | assumption | refine out_run ?_ | refine sound_startCmd ?_ (fun _ _ _ => ?_)
      | refine soundk_readGranules ?_)

theorem out_execCopy {d0 : Dev} {tag : Nat} {s : State} (h : Sound d0 s.dev) :
    SoundOut d0 (execCopy tag s) := by
  unfold execCopy
  with_reducible repeat' (first
      | exact h | assumption | refine out_run ?_ | refine sound_startCmd ?_ (fun _ _ _ => ?_)
      | refine soundk_writeGranules ?_ | refine soundk_updCmd ?_)

theorem out_execMerge {d0 : Dev} {job : Nat} {s : State} (h : Sound d0 s.dev) :
    SoundOut d0 (execMerge job s) := by
  unfold execMerge
  with_reducible repeat' (first | exact h | refine out_run ?_ | refine soundk_merge ?_)

theorem out_execPlaceWrite {d0 : Dev} {job : Nat} {s : State} (h : Sound d0 s.dev) :
    SoundOut d0 (execPlaceWrite job s) := by
  unfold execPlaceWrite
  with_reducible repeat' (first | exact h | refine out_run ?_ | refine soundk_placeWrite ?_)

theorem out_execSpaceWaitTimeout {d0 : Dev} {job : Nat} {s : State} (h : Sound d0 s.dev) :
    SoundOut d0 (execSpaceWaitTimeout job s) := by
  unfold execSpaceWaitTimeout
  repeat' (first
      | with_reducible exact h | with_reducible refine out_run ?_ | with_reducible refine soundk_kickAll ?_
      | with_reducible refine soundk_noSpace ?_ | with_reducible refine sound_ite ?_ ?_ | split)

theorem out_execTrim {d0 : Dev} {tag : Nat} {s : State} (h : Sound d0 s.dev) :
    SoundOut d0 (execTrim tag s) := by
  unfold execTrim
  with_reducible repeat' (first
      | exact h | assumption | refine out_run ?_ | refine sound_startCmd ?_ (fun _ _ _ => ?_)
      | refine soundk_trimGo ?_ | refine soundk_updCmd ?_)

theorem out_execFlush {d0 : Dev} {tag : Nat} {s : State} (h : Sound d0 s.dev) :
    SoundOut d0 (execFlush tag s) := by
  unfold execFlush
  with_reducible repeat' (first
      | exact h | assumption | refine out_run ?_ | refine sound_startCmd ?_ (fun _ _ _ => ?_)
      | refine soundk_feedBands ?_ | refine soundk_padUrgent ?_ | refine soundk_cmdCheck ?_)

theorem out_execCommit {d0 : Dev} {tag : Nat} {s : State} (h : Sound d0 s.dev) :
    SoundOut d0 (execCommit tag s) := by
  unfold execCommit
  with_reducible repeat' (first
      | exact h | assumption | refine out_run ?_ | refine sound_startCmd ?_ (fun _ _ _ => ?_)
      | refine soundk_commitCmd ?_)

theorem out_execScan {d0 : Dev} {tag : Nat} {s : State} (h : Sound d0 s.dev) :
    SoundOut d0 (execScan tag s) := by
  unfold execScan
  with_reducible repeat' (first
      | exact h | assumption | refine out_run ?_ | refine sound_startCmd ?_ (fun _ _ _ => ?_)
      | refine soundk_nextGran ?_ | refine soundk_updCmd ?_)

theorem out_execHash {d0 : Dev} {tag : Nat} {s : State} (h : Sound d0 s.dev) :
    SoundOut d0 (execHash tag s) := by
  unfold execHash
  with_reducible repeat' (first
      | exact h | assumption | refine out_run ?_ | refine sound_startCmd ?_ (fun _ _ _ => ?_)
      | refine soundk_nextGran ?_ | refine soundk_updCmd ?_)

theorem out_execDestageView {d0 : Dev} {tag : Nat} {s : State} (h : Sound d0 s.dev) :
    SoundOut d0 (execDestageView tag s) := by
  unfold execDestageView
  repeat' (first
      | with_reducible exact h | with_reducible assumption | with_reducible refine out_run ?_
      | with_reducible refine sound_startCmd ?_ (fun _ _ _ => ?_) | with_reducible refine soundk_cmdCheck ?_
      | with_reducible refine soundk_destageView ?_ | with_reducible refine sound_ite ?_ ?_ | dsimp only [id] | split)

theorem out_execCalibrationTick {d0 : Dev} {s : State} (h : Sound d0 s.dev) :
    SoundOut d0 (execCalibrationTick s) := by
  unfold execCalibrationTick
  with_reducible repeat' (first | exact h | refine out_run ?_ | refine soundk_calibrate ?_)

theorem out_execCommitStart {d0 : Dev} {s : State} (h : Sound d0 s.dev) :
    SoundOut d0 (execCommitStart s) := by
  unfold execCommitStart
  with_reducible repeat' (first | exact h | refine out_run ?_ | refine soundk_commitStart ?_)

theorem out_execJcommitAge {d0 : Dev} {s : State} (h : Sound d0 s.dev) :
    SoundOut d0 (execJcommitAge s) := by
  unfold execJcommitAge
  with_reducible repeat' (first | exact h | refine out_run ?_ | refine soundk_updClasp ?_ | refine sound_ite ?_ ?_)

theorem out_execNoEnergyTimeout {d0 : Dev} {tag : Nat} {s : State} (h : Sound d0 s.dev) :
    SoundOut d0 (execNoEnergyTimeout tag s) := by
  unfold execNoEnergyTimeout
  with_reducible repeat' (first | exact h | refine out_run ?_ | refine soundk_noEnergy ?_)

theorem out_execCheckpointStart {d0 : Dev} {s : State} (h : Sound d0 s.dev) :
    SoundOut d0 (execCheckpointStart s) := by
  unfold execCheckpointStart
  with_reducible repeat' (first | exact h | refine out_run ?_ | refine soundk_checkpointStart ?_)

theorem out_execCheckpointEnd {d0 : Dev} {s : State} (h : Sound d0 s.dev) :
    SoundOut d0 (execCheckpointEnd s) := by
  unfold execCheckpointEnd
  with_reducible repeat' (first | exact h | refine out_run ?_ | refine soundk_checkpointEnd ?_)

theorem out_execCkptPeriod {d0 : Dev} {s : State} (h : Sound d0 s.dev) :
    SoundOut d0 (execCkptPeriod s) := by
  unfold execCkptPeriod
  with_reducible repeat' (first | exact h | refine out_run ?_ | refine soundk_ckptTrigger ?_ | refine sound_ite ?_ ?_)

theorem out_execRelocationStart {d0 : Dev} {s : State} (h : Sound d0 s.dev) :
    SoundOut d0 (execRelocationStart s) := by
  unfold execRelocationStart
  with_reducible repeat' (first | exact h | refine out_run ?_ | refine soundk_relocationStart ?_)

theorem out_execRelocSwitch {d0 : Dev} {job : Nat} {s : State} (h : Sound d0 s.dev) :
    SoundOut d0 (execRelocSwitch job s) := by
  unfold execRelocSwitch
  with_reducible repeat' (first | exact h | refine out_run ?_ | refine soundk_relocSwitch ?_)

theorem out_execCommitDone {d0 : Dev} {s : State} (h : Sound d0 s.dev) :
    SoundOut d0 (execCommitDone s) := by
  unfold execCommitDone
  with_reducible repeat' (first
      | exact h | refine out_run ?_ | refine soundk_relocAll ?_ | refine soundk_commitDone ?_
      | refine sound_ite ?_ ?_)

theorem out_execRawKey1Timeout {d0 : Dev} {s : State} (h : Sound d0 s.dev) :
    SoundOut d0 (execRawKey1Timeout s) := by
  unfold execRawKey1Timeout
  repeat' (first
      | with_reducible exact h | with_reducible refine out_run ?_ | dsimp only [id] | split
      | fail_if_no_progress (with_reducible refine sound_mk ?_ ?_ <;> [skip; first | rfl | simp_all only]))

theorem out_execRawIdleTimeout {d0 : Dev} {s : State} (h : Sound d0 s.dev) :
    SoundOut d0 (execRawIdleTimeout s) := by
  unfold execRawIdleTimeout
  with_reducible repeat' (first | exact h | refine out_run ?_ | refine soundk_rawLockUp ?_ | refine sound_ite ?_ ?_)

theorem out_execRaw {d0 : Dev} {tag : Nat} {s : State} (h : Sound d0 s.dev) :
    SoundOut d0 (execRaw tag s) := by
  unfold execRaw
  with_reducible repeat' (first
      | exact h | assumption | refine out_run ?_ | refine sound_startCmd ?_ (fun _ _ _ => ?_)
      | refine soundk_rawCmd ?_)

theorem out_execDieOpTimeout {d0 : Dev} {ch : Nat} {k : Nat} {s : State} (h : Sound d0 s.dev) :
    SoundOut d0 (execDieOpTimeout ch k s) := by
  unfold execDieOpTimeout
  with_reducible repeat' (first | exact h | refine out_run ?_ | refine soundk_dieTimeout ?_ | refine sound_ite ?_ ?_)

theorem out_execSuspendTimeout {d0 : Dev} {ch : Nat} {k : Nat} {s : State} (h : Sound d0 s.dev) :
    SoundOut d0 (execSuspendTimeout ch k s) := by
  unfold execSuspendTimeout
  with_reducible repeat' (first
      | exact h | refine out_run ?_ | refine soundk_suspendTimeout ?_ | refine sound_ite ?_ ?_)

theorem out_execDieTempReading {d0 : Dev} {n : Nat} {r : Option Byte} {s : State} (h : Sound d0 s.dev) :
    SoundOut d0 (execDieTempReading n r s) := by
  unfold execDieTempReading
  with_reducible repeat' (first | exact h | refine out_run ?_ | refine soundk_dieTempReading ?_)

theorem out_execTenderJob {d0 : Dev} {tag : Nat} {s : State} (h : Sound d0 s.dev) :
    SoundOut d0 (execTenderJob tag s) := by
  unfold execTenderJob
  with_reducible repeat' (first | exact h | refine out_run ?_ | refine soundk_tenderJob ?_)

theorem out_execDescriptorCopy {d0 : Dev} {n : Nat} {s : State} (h : Sound d0 s.dev) :
    SoundOut d0 (execDescriptorCopy n s) := by
  unfold execDescriptorCopy
  with_reducible repeat' (first
      | exact h | assumption | refine out_run ?_ | refine sound_opRow ?_ (fun _ _ _ _ => ?_)
      | refine soundk_copyStep ?_)

theorem out_execFill {d0 : Dev} {n : Nat} {s : State} (h : Sound d0 s.dev) :
    SoundOut d0 (execFill n s) := by
  unfold execFill
  with_reducible repeat' (first
      | exact h | assumption | refine out_run ?_ | refine sound_opRow ?_ (fun _ _ _ _ => ?_)
      | refine soundk_copyStep ?_)

theorem out_execCompare {d0 : Dev} {n : Nat} {s : State} (h : Sound d0 s.dev) :
    SoundOut d0 (execCompare n s) := by
  unfold execCompare
  with_reducible repeat' (first
      | exact h | assumption | refine out_run ?_ | refine sound_opRow ?_ (fun _ _ _ _ => ?_)
      | refine soundk_compareStep ?_)

theorem out_execDescriptorComplete {d0 : Dev} {n : Nat} {s : State} (h : Sound d0 s.dev) :
    SoundOut d0 (execDescriptorComplete n s) := by
  unfold execDescriptorComplete
  with_reducible repeat' (first | exact h | refine out_run ?_ | refine soundk_descriptorComplete ?_)

theorem out_execDescriptorFetched {d0 : Dev} {n : Nat} {s : State} (h : Sound d0 s.dev) :
    SoundOut d0 (execDescriptorFetched n s) := by
  unfold execDescriptorFetched
  with_reducible repeat' (first | exact h | refine out_run ?_ | refine soundk_loadDesc ?_)

theorem out_execTimerTick {d0 : Dev} {k : Nat} {s : State} (h : Sound d0 s.dev) :
    SoundOut d0 (execTimerTick k s) := by
  unfold execTimerTick
  with_reducible repeat' (first | exact h | refine out_run ?_ | refine soundk_timerTick ?_)

theorem out_execInitTimeout {d0 : Dev} {p : Nat} {txid : Nat} {s : State} (h : Sound d0 s.dev) :
    SoundOut d0 (execInitTimeout p txid s) := by
  unfold execInitTimeout
  with_reducible repeat' (first
      | exact h | refine out_run ?_ | refine soundk_kickAll ?_ | refine soundk_initTimeout ?_)

theorem out_execCreditReturn {d0 : Dev} {p : Nat} {cls : YppClass} {s : State} (h : Sound d0 s.dev) :
    SoundOut d0 (execCreditReturn p cls s) := by
  unfold execCreditReturn
  with_reducible repeat' (first | exact h | refine out_run ?_ | refine soundk_creditReturn ?_)

theorem out_execUndercredit {d0 : Dev} {p : Nat} {s : State} (h : Sound d0 s.dev) :
    SoundOut d0 (execUndercredit p s) := by
  unfold execUndercredit
  with_reducible repeat' (first | exact h | refine out_run ?_ | refine soundk_undercredit ?_)

theorem out_execInboundResponse {d0 : Dev} {p : Nat} {r : RspHdr} {s : State} (h : Sound d0 s.dev) :
    SoundOut d0 (execInboundResponse p r s) := by
  unfold execInboundResponse
  with_reducible repeat' (first | exact h | refine out_run ?_ | refine soundk_inboundResponse ?_)

theorem out_execFramingViolation {d0 : Dev} {p : Nat} {s : State} (h : Sound d0 s.dev) :
    SoundOut d0 (execFramingViolation p s) := by
  unfold execFramingViolation
  with_reducible repeat' (first | exact h | refine out_run ?_ | refine soundk_framing ?_ | refine sound_ite ?_ ?_)

theorem out_execFramingRestore {d0 : Dev} {p : Nat} {s : State} (h : Sound d0 s.dev) :
    SoundOut d0 (execFramingRestore p s) := by
  unfold execFramingRestore
  with_reducible repeat' (first | exact h | refine out_run ?_ | refine soundk_linkUp ?_ | refine sound_ite ?_ ?_)

theorem out_execReferenceGeometrySet {d0 : Dev} {s : State} (h : Sound d0 s.dev) :
    SoundOut d0 (execReferenceGeometrySet s) := by
  unfold execReferenceGeometrySet
  with_reducible repeat' (first | exact h | refine out_run ?_ | refine soundk_referenceSet ?_)

theorem out_execTimingSwap {d0 : Dev} {ch : Nat} {shadowWrite : Option ShadowWrite} {s : State} (h : Sound d0 s.dev) :
    SoundOut d0 (execTimingSwap ch shadowWrite s) := by
  unfold execTimingSwap
  with_reducible repeat' (first
      | exact h | refine out_run ?_ | refine soundk_kick ?_ | refine soundk_updChan ?_ | refine soundk_latchSet ?_
      | refine sound_ite ?_ ?_)

theorem out_execModeChangeSwap {d0 : Dev} {ch : Nat} {r : SwapResult} {s : State} (h : Sound d0 s.dev) :
    SoundOut d0 (execModeChangeSwap ch r s) := by
  unfold execModeChangeSwap
  with_reducible repeat' (first | exact h | refine out_run ?_ | refine soundk_modeSwap ?_ | refine sound_ite ?_ ?_)

theorem out_execSwapHoldTimeout {d0 : Dev} {ch : Nat} {s : State} (h : Sound d0 s.dev) :
    SoundOut d0 (execSwapHoldTimeout ch s) := by
  unfold execSwapHoldTimeout
  with_reducible repeat' (first | exact h | refine out_run ?_ | refine soundk_updChan ?_ | refine sound_ite ?_ ?_)

theorem out_execSwapMiss {d0 : Dev} {ch : Nat} {s : State} (h : Sound d0 s.dev) :
    SoundOut d0 (execSwapMiss ch s) := by
  unfold execSwapMiss
  with_reducible repeat' (first
      | exact h | refine out_run ?_ | refine soundk_updChan ?_ | refine sound_putBit ?_ | refine sound_cnt ?_
      | refine sound_ite ?_ ?_)

theorem out_execTraining {d0 : Dev} {ch : Nat} {tgt : Nat} {r : TrainResult} {s : State} (h : Sound d0 s.dev) :
    SoundOut d0 (execTraining ch tgt r s) := by
  unfold execTraining
  with_reducible repeat' (first | exact h | refine out_run ?_ | refine soundk_training ?_ | refine sound_ite ?_ ?_)

theorem out_execRetrainAge {d0 : Dev} {ch : Nat} {tgt : Nat} {s : State} (h : Sound d0 s.dev) :
    SoundOut d0 (execRetrainAge ch tgt s) := by
  unfold execRetrainAge
  with_reducible repeat' (first
      | exact h | refine out_run ?_ | refine soundk_kick ?_ | refine soundk_wantTrain ?_ | refine sound_ite ?_ ?_)

theorem out_execMarginalRetrain {d0 : Dev} {ch : Nat} {tgt : Nat} {s : State} (h : Sound d0 s.dev) :
    SoundOut d0 (execMarginalRetrain ch tgt s) := by
  unfold execMarginalRetrain
  with_reducible repeat' (first
      | exact h | refine out_run ?_ | refine soundk_kick ?_ | refine soundk_wantTrain ?_ | refine sound_ite ?_ ?_)

theorem out_execDriftTrack {d0 : Dev} {ch : Nat} {tgt : Nat} {centre : Int} {s : State} (h : Sound d0 s.dev) :
    SoundOut d0 (execDriftTrack ch tgt centre s) := by
  unfold execDriftTrack
  with_reducible repeat' (first | exact h | refine out_run ?_ | refine soundk_driftTrack ?_ | refine sound_ite ?_ ?_)

theorem out_execZqCalibration {d0 : Dev} {ch : Nat} {code : Nat} {atEnd : Bool} {s : State} (h : Sound d0 s.dev) :
    SoundOut d0 (execZqCalibration ch code atEnd s) := by
  unfold execZqCalibration
  with_reducible repeat' (first
      | exact h | refine out_run ?_ | refine soundk_kick ?_ | refine soundk_updChan ?_ | refine sound_cnt ?_
      | refine sound_ite ?_ ?_)

theorem out_execZqCodeApply {d0 : Dev} {ch : Nat} {s : State} (h : Sound d0 s.dev) :
    SoundOut d0 (execZqCodeApply ch s) := by
  unfold execZqCodeApply
  repeat' (first
      | with_reducible exact h | with_reducible refine out_run ?_ | with_reducible refine soundk_kick ?_
      | with_reducible refine soundk_updChan ?_ | with_reducible refine sound_put ?_
      | with_reducible refine sound_ite ?_ ?_ | split)

theorem out_execBusBurstEnd {d0 : Dev} {ch : Nat} {r : BurstResult} {s : State} (h : Sound d0 s.dev) :
    SoundOut d0 (execBusBurstEnd ch r s) := by
  unfold execBusBurstEnd
  repeat' (first
      | with_reducible exact h | with_reducible refine out_run ?_ | with_reducible refine soundk_mcFault ?_
      | with_reducible refine soundk_burstEnd ?_ | with_reducible refine sound_ite ?_ ?_ | split)

theorem out_execNext {d0 : Dev} {ch : Nat} {w : UWord} {e : UEnv} {s : State} (h : Sound d0 s.dev) :
    SoundOut d0 (execNext ch w e s) := by
  unfold execNext
  with_reducible repeat' (first | exact h | refine out_run ?_ | refine soundk_ucWord ?_)

theorem out_execBranch {d0 : Dev} {ch : Nat} {w : UWord} {e : UEnv} {s : State} (h : Sound d0 s.dev) :
    SoundOut d0 (execBranch ch w e s) := by
  unfold execBranch
  with_reducible repeat' (first | exact h | refine out_run ?_ | refine soundk_ucWord ?_)

theorem out_execCall {d0 : Dev} {ch : Nat} {w : UWord} {e : UEnv} {s : State} (h : Sound d0 s.dev) :
    SoundOut d0 (execCall ch w e s) := by
  unfold execCall
  with_reducible repeat' (first | exact h | refine out_run ?_ | refine soundk_ucWord ?_)

theorem out_execRet {d0 : Dev} {ch : Nat} {w : UWord} {e : UEnv} {s : State} (h : Sound d0 s.dev) :
    SoundOut d0 (execRet ch w e s) := by
  unfold execRet
  with_reducible repeat' (first | exact h | refine out_run ?_ | refine soundk_ucWord ?_)

theorem out_execDispatch {d0 : Dev} {ch : Nat} {w : UWord} {e : UEnv} {s : State} (h : Sound d0 s.dev) :
    SoundOut d0 (execDispatch ch w e s) := by
  unfold execDispatch
  with_reducible repeat' (first | exact h | refine out_run ?_ | refine soundk_ucWord ?_)

theorem out_execWait {d0 : Dev} {ch : Nat} {w : UWord} {e : UEnv} {s : State} (h : Sound d0 s.dev) :
    SoundOut d0 (execWait ch w e s) := by
  unfold execWait
  with_reducible repeat' (first | exact h | refine out_run ?_ | refine soundk_ucWord ?_)

theorem out_execEndWord {d0 : Dev} {ch : Nat} {w : UWord} {e : UEnv} {s : State} (h : Sound d0 s.dev) :
    SoundOut d0 (execEndWord ch w e s) := by
  unfold execEndWord
  with_reducible repeat' (first | exact h | refine out_run ?_ | refine soundk_ucWord ?_)

theorem out_execCmd {d0 : Dev} {ch : Nat} {w : UWord} {e : UEnv} {s : State} (h : Sound d0 s.dev) :
    SoundOut d0 (execCmd ch w e s) := by
  unfold execCmd
  with_reducible repeat' (first | exact h | refine out_run ?_ | refine soundk_ucWord ?_)

theorem out_execAddr {d0 : Dev} {ch : Nat} {w : UWord} {e : UEnv} {s : State} (h : Sound d0 s.dev) :
    SoundOut d0 (execAddr ch w e s) := by
  unfold execAddr
  with_reducible repeat' (first | exact h | refine out_run ?_ | refine soundk_ucWord ?_)

theorem out_execDin {d0 : Dev} {ch : Nat} {w : UWord} {e : UEnv} {s : State} (h : Sound d0 s.dev) :
    SoundOut d0 (execDin ch w e s) := by
  unfold execDin
  with_reducible repeat' (first | exact h | refine out_run ?_ | refine soundk_ucWord ?_)

theorem out_execDout {d0 : Dev} {ch : Nat} {w : UWord} {e : UEnv} {s : State} (h : Sound d0 s.dev) :
    SoundOut d0 (execDout ch w e s) := by
  unfold execDout
  with_reducible repeat' (first | exact h | refine out_run ?_ | refine soundk_ucWord ?_)

theorem out_execStat {d0 : Dev} {ch : Nat} {w : UWord} {e : UEnv} {s : State} (h : Sound d0 s.dev) :
    SoundOut d0 (execStat ch w e s) := by
  unfold execStat
  with_reducible repeat' (first | exact h | refine out_run ?_ | refine soundk_ucWord ?_)

theorem out_execCeon {d0 : Dev} {ch : Nat} {w : UWord} {e : UEnv} {s : State} (h : Sound d0 s.dev) :
    SoundOut d0 (execCeon ch w e s) := by
  unfold execCeon
  with_reducible repeat' (first | exact h | refine out_run ?_ | refine soundk_ucWord ?_)

theorem out_execCeoff {d0 : Dev} {ch : Nat} {w : UWord} {e : UEnv} {s : State} (h : Sound d0 s.dev) :
    SoundOut d0 (execCeoff ch w e s) := by
  unfold execCeoff
  with_reducible repeat' (first | exact h | refine out_run ?_ | refine soundk_ucWord ?_)

theorem out_execDbo {d0 : Dev} {ch : Nat} {w : UWord} {e : UEnv} {s : State} (h : Sound d0 s.dev) :
    SoundOut d0 (execDbo ch w e s) := by
  unfold execDbo
  with_reducible repeat' (first | exact h | refine out_run ?_ | refine soundk_ucWord ?_)

theorem out_execDbi {d0 : Dev} {ch : Nat} {w : UWord} {e : UEnv} {s : State} (h : Sound d0 s.dev) :
    SoundOut d0 (execDbi ch w e s) := by
  unfold execDbi
  with_reducible repeat' (first | exact h | refine out_run ?_ | refine soundk_ucWord ?_)

theorem out_execTrain {d0 : Dev} {ch : Nat} {w : UWord} {e : UEnv} {s : State} (h : Sound d0 s.dev) :
    SoundOut d0 (execTrain ch w e s) := by
  unfold execTrain
  with_reducible repeat' (first | exact h | refine out_run ?_ | refine soundk_ucWord ?_)

theorem out_execMovi {d0 : Dev} {ch : Nat} {w : UWord} {e : UEnv} {s : State} (h : Sound d0 s.dev) :
    SoundOut d0 (execMovi ch w e s) := by
  unfold execMovi
  with_reducible repeat' (first | exact h | refine out_run ?_ | refine soundk_ucWord ?_)

theorem out_execMov {d0 : Dev} {ch : Nat} {w : UWord} {e : UEnv} {s : State} (h : Sound d0 s.dev) :
    SoundOut d0 (execMov ch w e s) := by
  unfold execMov
  with_reducible repeat' (first | exact h | refine out_run ?_ | refine soundk_ucWord ?_)

theorem out_execAdd {d0 : Dev} {ch : Nat} {w : UWord} {e : UEnv} {s : State} (h : Sound d0 s.dev) :
    SoundOut d0 (execAdd ch w e s) := by
  unfold execAdd
  with_reducible repeat' (first | exact h | refine out_run ?_ | refine soundk_ucWord ?_)

theorem out_execSub {d0 : Dev} {ch : Nat} {w : UWord} {e : UEnv} {s : State} (h : Sound d0 s.dev) :
    SoundOut d0 (execSub ch w e s) := by
  unfold execSub
  with_reducible repeat' (first | exact h | refine out_run ?_ | refine soundk_ucWord ?_)

theorem out_execAnd {d0 : Dev} {ch : Nat} {w : UWord} {e : UEnv} {s : State} (h : Sound d0 s.dev) :
    SoundOut d0 (execAnd ch w e s) := by
  unfold execAnd
  with_reducible repeat' (first | exact h | refine out_run ?_ | refine soundk_ucWord ?_)

theorem out_execOr {d0 : Dev} {ch : Nat} {w : UWord} {e : UEnv} {s : State} (h : Sound d0 s.dev) :
    SoundOut d0 (execOr ch w e s) := by
  unfold execOr
  with_reducible repeat' (first | exact h | refine out_run ?_ | refine soundk_ucWord ?_)

theorem out_execXor {d0 : Dev} {ch : Nat} {w : UWord} {e : UEnv} {s : State} (h : Sound d0 s.dev) :
    SoundOut d0 (execXor ch w e s) := by
  unfold execXor
  with_reducible repeat' (first | exact h | refine out_run ?_ | refine soundk_ucWord ?_)

theorem out_execShl {d0 : Dev} {ch : Nat} {w : UWord} {e : UEnv} {s : State} (h : Sound d0 s.dev) :
    SoundOut d0 (execShl ch w e s) := by
  unfold execShl
  with_reducible repeat' (first | exact h | refine out_run ?_ | refine soundk_ucWord ?_)

theorem out_execShr {d0 : Dev} {ch : Nat} {w : UWord} {e : UEnv} {s : State} (h : Sound d0 s.dev) :
    SoundOut d0 (execShr ch w e s) := by
  unfold execShr
  with_reducible repeat' (first | exact h | refine out_run ?_ | refine soundk_ucWord ?_)

theorem out_execCmp {d0 : Dev} {ch : Nat} {w : UWord} {e : UEnv} {s : State} (h : Sound d0 s.dev) :
    SoundOut d0 (execCmp ch w e s) := by
  unfold execCmp
  with_reducible repeat' (first | exact h | refine out_run ?_ | refine soundk_ucWord ?_)

theorem out_execLdf {d0 : Dev} {ch : Nat} {w : UWord} {e : UEnv} {s : State} (h : Sound d0 s.dev) :
    SoundOut d0 (execLdf ch w e s) := by
  unfold execLdf
  with_reducible repeat' (first | exact h | refine out_run ?_ | refine soundk_ucWord ?_)

theorem out_execStf {d0 : Dev} {ch : Nat} {w : UWord} {e : UEnv} {s : State} (h : Sound d0 s.dev) :
    SoundOut d0 (execStf ch w e s) := by
  unfold execStf
  with_reducible repeat' (first | exact h | refine out_run ?_ | refine soundk_ucWord ?_)

theorem out_execTimerLoad {d0 : Dev} {ch : Nat} {w : UWord} {e : UEnv} {s : State} (h : Sound d0 s.dev) :
    SoundOut d0 (execTimerLoad ch w e s) := by
  unfold execTimerLoad
  with_reducible repeat' (first | exact h | refine out_run ?_ | refine soundk_ucWord ?_)

theorem out_execTimerLoadImm {d0 : Dev} {ch : Nat} {w : UWord} {e : UEnv} {s : State} (h : Sound d0 s.dev) :
    SoundOut d0 (execTimerLoadImm ch w e s) := by
  unfold execTimerLoadImm
  with_reducible repeat' (first | exact h | refine out_run ?_ | refine soundk_ucWord ?_)

theorem out_execTimerStop {d0 : Dev} {ch : Nat} {w : UWord} {e : UEnv} {s : State} (h : Sound d0 s.dev) :
    SoundOut d0 (execTimerStop ch w e s) := by
  unfold execTimerStop
  with_reducible repeat' (first | exact h | refine out_run ?_ | refine soundk_ucWord ?_)

theorem out_execKeyWordAck {d0 : Dev} {data : BitVec 64} {err : Bool} {s : State} (h : Sound d0 s.dev) :
    SoundOut d0 (execKeyWordAck data err s) := by
  unfold execKeyWordAck
  repeat' (first
      | with_reducible exact h | with_reducible refine out_run ?_ | with_reducible refine soundk_lktFail ?_
      | with_reducible refine soundk_keyWord ?_ | with_reducible refine sound_cnt ?_
      | with_reducible refine sound_ite ?_ ?_ | dsimp only [id]
      | fail_if_no_progress (with_reducible refine sound_mk ?_ ?_ <;> [skip; first | rfl | simp_all only]))

theorem out_execKeyWordTimeout {d0 : Dev} {s : State} (h : Sound d0 s.dev) :
    SoundOut d0 (execKeyWordTimeout s) := by
  unfold execKeyWordTimeout
  with_reducible repeat' (first
      | exact h | refine out_run ?_ | refine soundk_lktFail ?_ | refine sound_cnt ?_ | refine sound_ite ?_ ?_)

theorem out_execLkAckFall {d0 : Dev} {s : State} (h : Sound d0 s.dev) :
    SoundOut d0 (execLkAckFall s) := by
  unfold execLkAckFall
  repeat' (first
      | with_reducible exact h | with_reducible refine out_run ?_ | with_reducible refine soundk_keyNext ?_
      | with_reducible refine sound_ite ?_ ?_ | dsimp only [id]
      | fail_if_no_progress (with_reducible refine sound_mk ?_ ?_ <;> [skip; first | rfl | simp_all only]))

theorem out_execLocketInstall {d0 : Dev} {ch : Nat} {s : State} (h : Sound d0 s.dev) :
    SoundOut d0 (execLocketInstall ch s) := by
  unfold execLocketInstall
  with_reducible repeat' (first
      | exact h | refine out_run ?_ | refine soundk_kick ?_ | refine soundk_seqInstall ?_ | refine sound_ite ?_ ?_)

theorem out_execPatchRemove {d0 : Dev} {ch : Nat} {s : State} (h : Sound d0 s.dev) :
    SoundOut d0 (execPatchRemove ch s) := by
  unfold execPatchRemove
  with_reducible repeat' (first
      | exact h | refine out_run ?_ | refine soundk_kick ?_ | refine soundk_seqLeave ?_ | refine sound_ite ?_ ?_)

theorem out_execPatchWordRewrite {d0 : Dev} {ch : Nat} {s : State} (h : Sound d0 s.dev) :
    SoundOut d0 (execPatchWordRewrite ch s) := by
  unfold execPatchWordRewrite
  repeat' (first
      | with_reducible exact h | with_reducible refine out_run ?_ | with_reducible refine soundk_kick ?_
      | with_reducible refine soundk_updSeq ?_ | with_reducible refine sound_ite ?_ ?_ | dsimp only [id] | split)

theorem out_execEmergencyFlush {d0 : Dev} {s : State} (h : Sound d0 s.dev) :
    SoundOut d0 (execEmergencyFlush s) := by
  unfold execEmergencyFlush
  with_reducible repeat' (first | exact h | refine out_run ?_ | refine soundk_flushStart ?_ | refine sound_ite ?_ ?_)

theorem out_execFlushWave {d0 : Dev} {n : Nat} {ok : Bool} {s : State} (h : Sound d0 s.dev) :
    SoundOut d0 (execFlushWave n ok s) := by
  unfold execFlushWave
  with_reducible repeat' (first | exact h | refine out_run ?_ | refine soundk_flushWave ?_)

theorem out_execLanternQuiesced {d0 : Dev} {s : State} (h : Sound d0 s.dev) :
    SoundOut d0 (execLanternQuiesced s) := by
  unfold execLanternQuiesced
  with_reducible repeat' (first | exact h | refine out_run ?_ | refine soundk_lanternQuiesced ?_)

theorem out_inbound {d0 : Dev} {p : Nat} {k : YppClass} {c : Instr} {waits : Dev → Bool}
    {f : State → Host.Outcome State Fault Refusal} {s : State} (h : Sound d0 s.dev)
    (hf : ∀ y, Sound d0 y.dev → SoundOut d0 (f y)) :
    SoundOut d0 (inbound p k c waits f s) := by
  unfold inbound
  repeat' (first
      | with_reducible exact h | with_reducible refine out_run ?_ | with_reducible refine out_ite ?_ ?_
      | with_reducible apply hf | with_reducible refine soundk_framing ?_ | with_reducible refine soundk_queueIn ?_
      | with_reducible refine soundk_creditPulse ?_ | dsimp only [id])

theorem out_execInboundWriteRefused {d0 : Dev} {p : Nat} {hd : ReqHdr} {s : State} (h : Sound d0 s.dev) :
    SoundOut d0 (execInboundWriteRefused p hd s) := by
  unfold execInboundWriteRefused
  repeat' (first
      | with_reducible exact h | with_reducible assumption | with_reducible refine out_run ?_
      | with_reducible refine out_ite ?_ ?_ | with_reducible refine out_inbound ?_ (fun _ _ => ?_)
      | with_reducible refine soundk_writeRefused ?_ | dsimp only [id])

theorem out_execInboundBadHeader {d0 : Dev} {p : Nat} {cls : YppClass} {op : Nat} {txid : Nat} {s : State}
    (h : Sound d0 s.dev) :
    SoundOut d0 (execInboundBadHeader p cls op txid s) := by
  unfold execInboundBadHeader
  repeat' (first
      | with_reducible exact h | with_reducible assumption | with_reducible refine out_run ?_
      | with_reducible refine out_ite ?_ ?_ | with_reducible refine soundk_framing ?_
      | with_reducible refine soundk_badHeader ?_ | with_reducible refine out_inbound ?_ (fun _ _ => ?_)
      | with_reducible refine sound_ite ?_ ?_ | dsimp only [id])

theorem out_oneDb {d0 : Dev} {r : Nat} {x : SameDb} {s : State} (h : Sound d0 s.dev) :
    SoundOut d0 (oneDb r x s) := by
  unfold oneDb
  with_reducible repeat' (first
      | exact h | assumption | refine out_run ?_ | refine out_inbound ?_ (fun _ _ => ?_)
      | refine sound_dbAnswer ?_ (fun _ _ => ?_) | refine soundk_dbHalves ?_)

theorem out_doorbells {d0 : Dev} {r : Nat} {l : List SameDb} {s : State} (h : Sound d0 s.dev) :
    SoundOut d0 (doorbells r l s) :=
  out_foldl (oneDb r) (fun _ _ hy => out_oneDb hy) (out_next h)

theorem out_execDbSq {d0 : Dev} {p : Nat} {r : Nat} {v : BitVec 32} {cyc : DbCycle} {s : State} (h : Sound d0 s.dev) :
    SoundOut d0 (execDbSq p r v cyc s) := by
  unfold execDbSq
  with_reducible repeat' (first | exact h | refine out_doorbells ?_)

theorem out_execDbCq {d0 : Dev} {p : Nat} {r : Nat} {v : BitVec 32} {cyc : DbCycle} {s : State} (h : Sound d0 s.dev) :
    SoundOut d0 (execDbCq p r v cyc s) := by
  unfold execDbCq
  with_reducible repeat' (first | exact h | refine out_doorbells ?_)

theorem out_execDbBoth {d0 : Dev} {p : Nat} {r : Nat} {sq : BitVec 32} {cq : BitVec 32} {cyc : DbCycle} {s : State}
    (h : Sound d0 s.dev) :
    SoundOut d0 (execDbBoth p r sq cq cyc s) := by
  unfold execDbBoth
  with_reducible repeat' (first | exact h | refine out_doorbells ?_)

theorem out_toBell {d0 : Dev} {p : Nat} {c : Instr} {f : Dev → Dev} {s : State} (h : Sound d0 s.dev)
    (hf : ∀ y, Sound d0 y → Sound d0 (f y)) :
    SoundOut d0 (toBell p c f s) := by
  unfold toBell
  repeat' (first
      | with_reducible exact h | with_reducible assumption | with_reducible refine out_run ?_
      | with_reducible apply hf | with_reducible refine out_inbound ?_ (fun _ _ => ?_)
      | with_reducible refine soundk_updDom ?_ | split)

theorem out_execBlDb {d0 : Dev} {p : Nat} {v : BitVec 32} {txid : Nat} {s : State} (h : Sound d0 s.dev) :
    SoundOut d0 (execBlDb p v txid s) := by
  unfold execBlDb
  with_reducible repeat' (first
      | exact h | assumption | refine out_toBell ?_ (fun _ _ => ?_) | refine soundk_bellExt ?_
      | refine soundk_answer ?_)

theorem out_execBlEoi {d0 : Dev} {p : Nat} {v : BitVec 32} {txid : Nat} {s : State} (h : Sound d0 s.dev) :
    SoundOut d0 (execBlEoi p v txid s) := by
  unfold execBlEoi
  with_reducible repeat' (first
      | exact h | assumption | refine out_toBell ?_ (fun _ _ => ?_) | refine soundk_bellEoi ?_
      | refine soundk_answer ?_)

theorem out_execDrainComplete {d0 : Dev} {n : Nat} {s : State} (h : Sound d0 s.dev) :
    SoundOut d0 (execDrainComplete n s) := by
  unfold execDrainComplete
  with_reducible repeat' (first | exact h | refine out_run ?_ | refine soundk_drainComplete ?_)

theorem out_execDomainDownAck {d0 : Dev} {n : Nat} {s : State} (h : Sound d0 s.dev) :
    SoundOut d0 (execDomainDownAck n s) := by
  unfold execDomainDownAck
  with_reducible repeat' (first | exact h | refine out_run ?_ | refine soundk_downDone ?_)

theorem out_execDownLate {d0 : Dev} {n : Nat} {s : State} (h : Sound d0 s.dev) :
    SoundOut d0 (execDownLate n s) := by
  unfold execDownLate
  with_reducible repeat' (first
      | exact h | refine out_run ?_ | refine soundk_downDone ?_ | refine sound_cnt ?_ | refine sound_ite ?_ ?_)

theorem out_execDomainWakeAck {d0 : Dev} {n : Nat} {s : State} (h : Sound d0 s.dev) :
    SoundOut d0 (execDomainWakeAck n s) := by
  unfold execDomainWakeAck
  with_reducible repeat' (first | exact h | refine out_run ?_ | refine sound_wakeAck ?_)

theorem out_execWakeTimeout {d0 : Dev} {n : Nat} {s : State} (h : Sound d0 s.dev) :
    SoundOut d0 (execWakeTimeout n s) := by
  unfold execWakeTimeout
  with_reducible repeat' (first | exact h | refine out_run ?_ | refine sound_wakeTimeout ?_)

theorem out_execWakeRetryEnd {d0 : Dev} {n : Nat} {s : State} (h : Sound d0 s.dev) :
    SoundOut d0 (execWakeRetryEnd n s) := by
  unfold execWakeRetryEnd
  with_reducible repeat' (first | exact h | refine out_run ?_ | refine soundk_updDom ?_ | refine sound_ite ?_ ?_)

theorem out_execPgFall {d0 : Dev} {n : Nat} {s : State} (h : Sound d0 s.dev) :
    SoundOut d0 (execPgFall n s) := by
  unfold execPgFall
  with_reducible repeat' (first | exact h | refine out_run ?_ | refine soundk_pgFall ?_)

theorem out_execWakeSourceAssert {d0 : Dev} {n : Nat} {b : Nat} {s : State} (h : Sound d0 s.dev) :
    SoundOut d0 (execWakeSourceAssert n b s) := by
  unfold execWakeSourceAssert
  with_reducible repeat' (first | exact h | refine out_run ?_ | refine soundk_wakeAssert ?_)

theorem out_execMuReady {d0 : Dev} {s : State} (h : Sound d0 s.dev) :
    SoundOut d0 (execMuReady s) := by
  unfold execMuReady
  with_reducible repeat' (first | exact h | refine out_run ?_ | refine sound_muReady ?_)

theorem out_execPowerOnReset {d0 : Dev} {s : State} (h : Sound d0 s.dev) : SoundOut d0 (execPowerOnReset s) := by
  refine out_run ⟨h.cfg, fun _ => ⟨rfl, fun p hp => ?_⟩, fun _ => rfl⟩
  cases hp

theorem out_execSupplyOutOfRange {d0 : Dev} {rail : Rail} {s : State} (h : Sound d0 s.dev) :
    SoundOut d0 (execSupplyOutOfRange rail s) := by
  unfold execSupplyOutOfRange
  with_reducible repeat' (first | exact h | refine out_run ?_ | refine sound_supplyOut ?_)

theorem out_execSupplyInRange {d0 : Dev} {rail : Rail} {s : State} (h : Sound d0 s.dev) :
    SoundOut d0 (execSupplyInRange rail s) := by
  unfold execSupplyInRange
  with_reducible repeat' (first | exact h | refine out_run ?_ | refine sound_supplyIn ?_)

theorem out_execWrst {d0 : Dev} {s : State} (h : Sound d0 s.dev) :
    SoundOut d0 (execWrst s) := by
  unfold execWrst
  with_reducible repeat' (first | exact h | refine out_run ?_ | refine sound_rstTake ?_)

theorem out_execFlushed {d0 : Dev} {s : State} (h : Sound d0 s.dev) :
    SoundOut d0 (execFlushed s) := by
  unfold execFlushed
  with_reducible repeat' (first | exact h | refine out_run ?_ | refine sound_flushedStep ?_)

theorem out_execResetDrained {d0 : Dev} {s : State} (h : Sound d0 s.dev) :
    SoundOut d0 (execResetDrained s) := by
  unfold execResetDrained
  with_reducible repeat' (first | exact h | refine out_run ?_ | refine sound_resetDrained ?_)

theorem out_execResetDone {d0 : Dev} {s : State} (h : Sound d0 s.dev) :
    SoundOut d0 (execResetDone s) := by
  unfold execResetDone
  with_reducible repeat' (first | exact h | refine out_run ?_ | refine sound_resetDone ?_)

theorem out_execChannelIdentify {d0 : Dev} {ch : Nat} {answers : List TargetAnswer} {s : State} (h : Sound d0 s.dev) :
    SoundOut d0 (execChannelIdentify ch answers s) := by
  unfold execChannelIdentify
  with_reducible repeat' (first
      | exact h | refine out_run ?_ | refine soundk_chanResetGo ?_ | refine sound_identify ?_
      | refine sound_ite ?_ ?_)

theorem out_odExec {d0 : Dev} {i : Instr} {c : OdCmd} {q : OdReq} {s : State} (h : Sound d0 s.dev) :
    SoundOut d0 (odExec i c q s) := by
  unfold odExec
  repeat' (first
      | with_reducible exact h | with_reducible assumption | with_reducible refine out_run ?_
      | with_reducible refine sound_odRun ?_ | with_reducible refine out_inbound ?_ (fun _ _ => ?_)
      | with_reducible refine sound_windowCmd ?_ | split)

theorem out_execExpRead {d0 : Dev} {c : OdCmd} {s : State} (h : Sound d0 s.dev) :
    SoundOut d0 (execExpRead c s) := by
  unfold execExpRead
  with_reducible repeat' (first | exact h | refine out_odExec ?_)

theorem out_writeRow {d0 : Dev} {i : Instr} {c : OdCmd} {f : WrForm} {rival : Option Rival} {s : State}
    (h : Sound d0 s.dev) :
    SoundOut d0 (writeRow i c f rival s) := by
  unfold writeRow
  repeat' (first
      | with_reducible exact h | with_reducible refine out_run ?_ | with_reducible refine out_odExec ?_
      | with_reducible refine soundk_viaOkAnswer ?_ | with_reducible refine sound_odRun ?_
      | with_reducible refine sound_loseCmd ?_ | with_reducible refine sound_ite ?_ ?_ | dsimp only [id] | split)

theorem out_execExpWrite {d0 : Dev} {c : OdCmd} {len : Nat} {arg : Nat} {rival : Option Rival} {s : State}
    (h : Sound d0 s.dev) :
    SoundOut d0 (execExpWrite c len arg rival s) := by
  unfold execExpWrite
  with_reducible repeat' (first | exact h | refine out_writeRow ?_)

theorem out_execSegRead {d0 : Dev} {c : OdCmd} {s : State} (h : Sound d0 s.dev) :
    SoundOut d0 (execSegRead c s) := by
  unfold execSegRead
  with_reducible repeat' (first | exact h | refine out_odExec ?_)

theorem out_execSegWrite {d0 : Dev} {c : OdCmd} {data : Contested Bytes} {s : State} (h : Sound d0 s.dev) :
    SoundOut d0 (execSegWrite c data s) := by
  unfold execSegWrite
  with_reducible repeat' (first | exact h | refine out_writeRow ?_)

theorem out_execBlkReadInit {d0 : Dev} {c : OdCmd} {s : State} (h : Sound d0 s.dev) :
    SoundOut d0 (execBlkReadInit c s) := by
  unfold execBlkReadInit
  with_reducible repeat' (first | exact h | refine out_odExec ?_)

theorem out_execBlkWriteInit {d0 : Dev} {c : OdCmd} {total : Contested Nat} {s : State} (h : Sound d0 s.dev) :
    SoundOut d0 (execBlkWriteInit c total s) := by
  unfold execBlkWriteInit
  with_reducible repeat' (first | exact h | refine out_writeRow ?_)

theorem out_execBlkReadNext {d0 : Dev} {c : OdCmd} {seq : Nat} {s : State} (h : Sound d0 s.dev) :
    SoundOut d0 (execBlkReadNext c seq s) := by
  unfold execBlkReadNext
  with_reducible repeat' (first | exact h | refine out_odExec ?_)

theorem out_execBlkWriteNext {d0 : Dev} {c : OdCmd} {seq : Nat} {data : Bytes} {s : State} (h : Sound d0 s.dev) :
    SoundOut d0 (execBlkWriteNext c seq data s) := by
  unfold execBlkWriteNext
  with_reducible repeat' (first | exact h | refine out_odExec ?_)

theorem out_execBlkEnd {d0 : Dev} {c : OdCmd} {crc : Nat} {s : State} (h : Sound d0 s.dev) :
    SoundOut d0 (execBlkEnd c crc s) := by
  unfold execBlkEnd
  with_reducible repeat' (first | exact h | refine out_odExec ?_)

theorem out_execXferAbort {d0 : Dev} {c : OdCmd} {s : State} (h : Sound d0 s.dev) :
    SoundOut d0 (execXferAbort c s) := by
  unfold execXferAbort
  with_reducible repeat' (first | exact h | refine out_odExec ?_)

theorem out_execInfo {d0 : Dev} {c : OdCmd} {s : State} (h : Sound d0 s.dev) :
    SoundOut d0 (execInfo c s) := by
  unfold execInfo
  with_reducible repeat' (first | exact h | refine out_odExec ?_)

theorem out_execUnknownCmd {d0 : Dev} {c : OdCmd} {code : Nat} {s : State} (h : Sound d0 s.dev) :
    SoundOut d0 (execUnknownCmd c code s) := by
  unfold execUnknownCmd
  repeat' (first
      | with_reducible exact h | with_reducible refine out_run ?_ | with_reducible refine out_ite ?_ ?_
      | with_reducible refine out_odExec ?_ | dsimp only [id])

theorem out_execXferTimeout {d0 : Dev} {m : Nat} {s : State} (h : Sound d0 s.dev) :
    SoundOut d0 (execXferTimeout m s) := by
  unfold execXferTimeout
  with_reducible repeat' (first | exact h | refine out_run ?_ | refine sound_closeXfer ?_)

theorem out_execTargetDecodeError {d0 : Dev} {p : Nat} {hd : ReqHdr} {s : State} (h : Sound d0 s.dev) :
    SoundOut d0 (execTargetDecodeError p hd s) := by
  unfold execTargetDecodeError
  repeat' (first
      | with_reducible exact h | with_reducible assumption | with_reducible refine out_run ?_
      | with_reducible refine out_ite ?_ ?_ | with_reducible refine out_inbound ?_ (fun _ _ => ?_)
      | with_reducible refine soundk_windowReq ?_ | dsimp only [id])

theorem out_rowWrite {d0 : Dev} {m : Nat} {idx : Nat} {sub : Nat} {v : Nat} {s : State} (h : Sound d0 s.dev) :
    SoundOut d0 (rowWrite m idx sub v s) := by
  unfold rowWrite
  with_reducible repeat' (first | exact h | refine out_run ?_ | refine sound_rowFree ?_)

theorem out_rowAt {d0 : Dev} {m : Nat} {i : Nat} {count : Params → Nat} {idx : Nat} {sub : Nat} {v : Nat} {s : State}
    (h : Sound d0 s.dev) :
    SoundOut d0 (rowAt m i count idx sub v s) := by
  unfold rowAt
  with_reducible repeat' (first | exact h | refine out_rowWrite ?_)

theorem out_viaPort {d0 : Dev} {i : Instr} {via : Option Win} {f : Dev → Dev} {s : State} (h : Sound d0 s.dev)
    (hf : ∀ y, Sound d0 y → Sound d0 (f y)) :
    SoundOut d0 (viaPort i via f s) := by
  unfold viaPort
  repeat' (first
      | with_reducible exact h | with_reducible assumption | with_reducible refine out_run ?_
      | with_reducible apply hf | with_reducible refine out_inbound ?_ (fun _ _ => ?_) | split)

theorem out_winWrite {d0 : Dev} {i : Instr} {m : Nat} {w : Win} {idx : Nat} {sub : Nat} {size : Nat} {v : Nat}
    {s : State} (h : Sound d0 s.dev) :
    SoundOut d0 (winWrite i m w idx sub size v s) := by
  unfold winWrite
  with_reducible repeat' (first | exact h | refine out_odExec ?_)

theorem out_execOdEntryWrite {d0 : Dev} {m : Nat} {via : Option Win} {t : WriteTarget} {v : Nat} {s : State}
    (h : Sound d0 s.dev) :
    SoundOut d0 (execOdEntryWrite m via t v s) := by
  unfold execOdEntryWrite
  repeat' (first
      | with_reducible exact h | with_reducible assumption | with_reducible refine out_winWrite ?_
      | with_reducible refine out_rowWrite ?_ | with_reducible refine out_viaPort ?_ (fun _ _ => ?_)
      | with_reducible refine sound_regWrite ?_ (fun _ _ => ?_) | with_reducible refine sound_updMaster ?_
      | with_reducible refine sound_putBuf ?_ | with_reducible refine sound_mendBuf ?_
      | with_reducible refine sound_ite ?_ ?_ | split)

theorem out_execCounterClear {d0 : Dev} {m : Nat} {key : Nat} {v : Nat} {s : State} (h : Sound d0 s.dev) :
    SoundOut d0 (execCounterClear m key v s) := by
  unfold execCounterClear
  with_reducible repeat' (first
      | exact h | refine out_run ?_ | refine out_ite ?_ ?_ | refine sound_rowBytes ?_ | refine out_rowWrite ?_)

theorem out_execMasterEnable {d0 : Dev} {m : Nat} {v : Nat} {s : State} (h : Sound d0 s.dev) :
    SoundOut d0 (execMasterEnable m v s) := by
  unfold execMasterEnable
  with_reducible repeat' (first | exact h | refine out_rowWrite ?_)

theorem out_execGrpOwner {d0 : Dev} {m : Nat} {g : Nat} {v : Nat} {s : State} (h : Sound d0 s.dev) :
    SoundOut d0 (execGrpOwner m g v s) := by
  unfold execGrpOwner
  with_reducible repeat' (first | exact h | refine out_rowAt ?_)

theorem out_execI3cEnable {d0 : Dev} {m : Nat} {v : Nat} {s : State} (h : Sound d0 s.dev) :
    SoundOut d0 (execI3cEnable m v s) := by
  unfold execI3cEnable
  with_reducible repeat' (first | exact h | refine out_rowWrite ?_)

theorem out_execRstBlock {d0 : Dev} {m : Nat} {v : Nat} {s : State} (h : Sound d0 s.dev) :
    SoundOut d0 (execRstBlock m v s) := by
  unfold execRstBlock
  with_reducible repeat' (first | exact h | refine out_rowWrite ?_)

theorem out_execRstSoft {d0 : Dev} {m : Nat} {v : Nat} {s : State} (h : Sound d0 s.dev) :
    SoundOut d0 (execRstSoft m v s) := by
  unfold execRstSoft
  with_reducible repeat' (first | exact h | refine out_rowWrite ?_)

theorem out_execRstChannel {d0 : Dev} {m : Nat} {v : Nat} {s : State} (h : Sound d0 s.dev) :
    SoundOut d0 (execRstChannel m v s) := by
  unfold execRstChannel
  with_reducible repeat' (first | exact h | refine out_rowWrite ?_)

theorem out_execSvcReq {d0 : Dev} {m : Nat} {v : Nat} {s : State} (h : Sound d0 s.dev) :
    SoundOut d0 (execSvcReq m v s) := by
  unfold execSvcReq
  with_reducible repeat' (first | exact h | refine out_rowWrite ?_)

theorem out_execRingEnable {d0 : Dev} {m : Nat} {r : Nat} {v : Nat} {s : State} (h : Sound d0 s.dev) :
    SoundOut d0 (execRingEnable m r v s) := by
  unfold execRingEnable
  with_reducible repeat' (first | exact h | refine out_rowAt ?_)

theorem out_execMapInit {d0 : Dev} {m : Nat} {v : Nat} {media : Media} {s : State} (h : Sound d0 s.dev) :
    SoundOut d0 (execMapInit m v media s) := by
  unfold execMapInit
  with_reducible repeat' (first
      | exact h | refine out_run ?_ | refine sound_rowNum ?_ | refine soundk_mapInit ?_ | refine sound_ite ?_ ?_)

theorem out_execLtQuiesce {d0 : Dev} {m : Nat} {v : Nat} {s : State} (h : Sound d0 s.dev) :
    SoundOut d0 (execLtQuiesce m v s) := by
  unfold execLtQuiesce
  with_reducible repeat' (first | exact h | refine out_rowWrite ?_)

theorem out_execExDie {d0 : Dev} {m : Nat} {mask : Bytes} {s : State} (h : Sound d0 s.dev) :
    SoundOut d0 (execExDie m mask s) := by
  unfold execExDie
  with_reducible repeat' (first | exact h | refine out_run ?_ | refine sound_rowBytes ?_)

theorem out_execExChannel {d0 : Dev} {m : Nat} {v : Nat} {s : State} (h : Sound d0 s.dev) :
    SoundOut d0 (execExChannel m v s) := by
  unfold execExChannel
  with_reducible repeat' (first | exact h | refine out_rowWrite ?_)

theorem out_execExDecoder {d0 : Dev} {m : Nat} {v : Nat} {s : State} (h : Sound d0 s.dev) :
    SoundOut d0 (execExDecoder m v s) := by
  unfold execExDecoder
  with_reducible repeat' (first | exact h | refine out_rowWrite ?_)

theorem out_execExSbBank {d0 : Dev} {m : Nat} {v : Nat} {s : State} (h : Sound d0 s.dev) :
    SoundOut d0 (execExSbBank m v s) := by
  unfold execExSbBank
  with_reducible repeat' (first | exact h | refine out_rowWrite ?_)

theorem out_execExMapcWay {d0 : Dev} {m : Nat} {v : Nat} {s : State} (h : Sound d0 s.dev) :
    SoundOut d0 (execExMapcWay m v s) := by
  unfold execExMapcWay
  with_reducible repeat' (first | exact h | refine out_rowWrite ?_)

theorem out_execDieRevive {d0 : Dev} {m : Nat} {ch : Nat} {k : Nat} {s : State} (h : Sound d0 s.dev) :
    SoundOut d0 (execDieRevive m ch k s) := by
  unfold execDieRevive
  with_reducible repeat' (first | exact h | refine out_rowAt ?_)

theorem out_execSnapReq {d0 : Dev} {m : Nat} {ch : Nat} {v : Nat} {s : State} (h : Sound d0 s.dev) :
    SoundOut d0 (execSnapReq m ch v s) := by
  unfold execSnapReq
  with_reducible repeat' (first | exact h | refine out_rowAt ?_)

theorem out_execRawUnlock {d0 : Dev} {m : Nat} {v : Nat} {s : State} (h : Sound d0 s.dev) :
    SoundOut d0 (execRawUnlock m v s) := by
  unfold execRawUnlock
  with_reducible repeat' (first | exact h | refine out_rowWrite ?_)

theorem out_execWpLock {d0 : Dev} {m : Nat} {v : Nat} {s : State} (h : Sound d0 s.dev) :
    SoundOut d0 (execWpLock m v s) := by
  unfold execWpLock
  with_reducible repeat' (first | exact h | refine out_rowWrite ?_)

theorem out_execIdRerun {d0 : Dev} {m : Nat} {ch : Nat} {v : Nat} {s : State} (h : Sound d0 s.dev) :
    SoundOut d0 (execIdRerun m ch v s) := by
  unfold execIdRerun
  with_reducible repeat' (first | exact h | refine out_rowAt ?_)

theorem out_execTsArm {d0 : Dev} {m : Nat} {ch : Nat} {v : Nat} {s : State} (h : Sound d0 s.dev) :
    SoundOut d0 (execTsArm m ch v s) := by
  unfold execTsArm
  with_reducible repeat' (first | exact h | refine out_rowAt ?_)

theorem out_execTrainReq {d0 : Dev} {m : Nat} {ch : Nat} {v : Nat} {s : State} (h : Sound d0 s.dev) :
    SoundOut d0 (execTrainReq m ch v s) := by
  unfold execTrainReq
  with_reducible repeat' (first | exact h | refine out_rowAt ?_)

theorem out_execLktLoad {d0 : Dev} {m : Nat} {v : Nat} {s : State} (h : Sound d0 s.dev) :
    SoundOut d0 (execLktLoad m v s) := by
  unfold execLktLoad
  with_reducible repeat' (first | exact h | refine out_rowWrite ?_)

theorem out_execMcRevert {d0 : Dev} {m : Nat} {v : Nat} {s : State} (h : Sound d0 s.dev) :
    SoundOut d0 (execMcRevert m v s) := by
  unfold execMcRevert
  with_reducible repeat' (first | exact h | refine out_rowWrite ?_)

theorem out_execLmMode {d0 : Dev} {m : Nat} {v : Nat} {s : State} (h : Sound d0 s.dev) :
    SoundOut d0 (execLmMode m v s) := by
  unfold execLmMode
  with_reducible repeat' (first | exact h | refine out_rowWrite ?_)

theorem out_execCkptNow {d0 : Dev} {m : Nat} {v : Nat} {s : State} (h : Sound d0 s.dev) :
    SoundOut d0 (execCkptNow m v s) := by
  unfold execCkptNow
  with_reducible repeat' (first | exact h | refine out_rowWrite ?_)

theorem out_execFlushNow {d0 : Dev} {m : Nat} {v : Nat} {s : State} (h : Sound d0 s.dev) :
    SoundOut d0 (execFlushNow m v s) := by
  unfold execFlushNow
  with_reducible repeat' (first | exact h | refine out_rowWrite ?_)

theorem out_execReplayGo {d0 : Dev} {m : Nat} {v : Nat} {media : Media} {s : State} (h : Sound d0 s.dev) :
    SoundOut d0 (execReplayGo m v media s) := by
  unfold execReplayGo
  with_reducible repeat' (first
      | exact h | refine out_run ?_ | refine sound_rowNum ?_ | refine soundk_replay ?_ | refine sound_ite ?_ ?_)

theorem out_execChStart {d0 : Dev} {m : Nat} {n : Nat} {v : Nat} {s : State} (h : Sound d0 s.dev) :
    SoundOut d0 (execChStart m n v s) := by
  unfold execChStart
  with_reducible repeat' (first | exact h | refine out_rowAt ?_)

theorem out_execChStop {d0 : Dev} {m : Nat} {n : Nat} {v : Nat} {s : State} (h : Sound d0 s.dev) :
    SoundOut d0 (execChStop m n v s) := by
  unfold execChStop
  with_reducible repeat' (first | exact h | refine out_rowAt ?_)

theorem out_execTmrEnable {d0 : Dev} {m : Nat} {k : Nat} {v : Nat} {s : State} (h : Sound d0 s.dev) :
    SoundOut d0 (execTmrEnable m k v s) := by
  unfold execTmrEnable
  with_reducible repeat' (first | exact h | refine out_rowAt ?_)

theorem out_execQClear {d0 : Dev} {m : Nat} {v : Nat} {s : State} (h : Sound d0 s.dev) :
    SoundOut d0 (execQClear m v s) := by
  unfold execQClear
  with_reducible repeat' (first | exact h | refine out_rowWrite ?_)

theorem out_execTgtEoi {d0 : Dev} {m : Nat} {t : Nat} {v : Nat} {s : State} (h : Sound d0 s.dev) :
    SoundOut d0 (execTgtEoi m t v s) := by
  unfold execTgtEoi
  with_reducible repeat' (first | exact h | refine out_rowAt ?_)

theorem out_execTgtUnfreeze {d0 : Dev} {m : Nat} {t : Nat} {v : Nat} {s : State} (h : Sound d0 s.dev) :
    SoundOut d0 (execTgtUnfreeze m t v s) := by
  unfold execTgtUnfreeze
  with_reducible repeat' (first | exact h | refine out_rowAt ?_)

theorem out_execSrcCfg {d0 : Dev} {m : Nat} {src : Nat} {v : Nat} {s : State} (h : Sound d0 s.dev) :
    SoundOut d0 (execSrcCfg m src v s) := by
  unfold execSrcCfg
  with_reducible repeat' (first | exact h | refine out_rowAt ?_)

theorem out_execSrcState {d0 : Dev} {m : Nat} {src : Nat} {v : Nat} {s : State} (h : Sound d0 s.dev) :
    SoundOut d0 (execSrcState m src v s) := by
  unfold execSrcState
  with_reducible repeat' (first | exact h | refine out_rowAt ?_)

theorem out_execDomReq {d0 : Dev} {m : Nat} {via : Option Win} {n : Nat} {v : Nat} {s : State} (h : Sound d0 s.dev) :
    SoundOut d0 (execDomReq m via n v s) := by
  unfold execDomReq
  repeat' (first
      | with_reducible exact h | with_reducible refine out_run ?_ | with_reducible refine out_winWrite ?_
      | with_reducible refine sound_rowFree ?_ | dsimp only [id] | split)

theorem out_execTsUnsuspect {d0 : Dev} {m : Nat} {v : Nat} {s : State} (h : Sound d0 s.dev) :
    SoundOut d0 (execTsUnsuspect m v s) := by
  unfold execTsUnsuspect
  with_reducible repeat' (first | exact h | refine out_rowWrite ?_)

theorem out_execFltAck {d0 : Dev} {m : Nat} {v : Nat} {s : State} (h : Sound d0 s.dev) :
    SoundOut d0 (execFltAck m v s) := by
  unfold execFltAck
  with_reducible repeat' (first | exact h | refine out_rowWrite ?_)

theorem out_rawOp {d0 : Dev} {op : Nat} {r : RawReq} {s : State} (h : Sound d0 s.dev) :
    SoundOut d0 (rawOp op r s) := by
  unfold rawOp
  repeat' (first
      | with_reducible exact h | with_reducible refine out_run ?_ | with_reducible refine soundk_rawRing ?_
      | with_reducible refine sound_rowFree ?_ | split)

theorem out_execReadPage {d0 : Dev} {r : RawReq} {s : State} (h : Sound d0 s.dev) :
    SoundOut d0 (execReadPage r s) := by
  unfold execReadPage
  with_reducible repeat' (first | exact h | refine out_rawOp ?_)

theorem out_execProgramPage {d0 : Dev} {r : RawReq} {s : State} (h : Sound d0 s.dev) :
    SoundOut d0 (execProgramPage r s) := by
  unfold execProgramPage
  with_reducible repeat' (first | exact h | refine out_rawOp ?_)

theorem out_execEraseBlock {d0 : Dev} {r : RawReq} {s : State} (h : Sound d0 s.dev) :
    SoundOut d0 (execEraseBlock r s) := by
  unfold execEraseBlock
  with_reducible repeat' (first | exact h | refine out_rawOp ?_)

theorem out_execReadStatus {d0 : Dev} {r : RawReq} {s : State} (h : Sound d0 s.dev) :
    SoundOut d0 (execReadStatus r s) := by
  unfold execReadStatus
  with_reducible repeat' (first | exact h | refine out_rawOp ?_)

theorem out_execGetFeatures {d0 : Dev} {r : RawReq} {s : State} (h : Sound d0 s.dev) :
    SoundOut d0 (execGetFeatures r s) := by
  unfold execGetFeatures
  with_reducible repeat' (first | exact h | refine out_rawOp ?_)

theorem out_execSetFeatures {d0 : Dev} {r : RawReq} {s : State} (h : Sound d0 s.dev) :
    SoundOut d0 (execSetFeatures r s) := by
  unfold execSetFeatures
  with_reducible repeat' (first | exact h | refine out_rawOp ?_)

theorem out_execResetLun {d0 : Dev} {r : RawReq} {s : State} (h : Sound d0 s.dev) :
    SoundOut d0 (execResetLun r s) := by
  unfold execResetLun
  with_reducible repeat' (first | exact h | refine out_rawOp ?_)

theorem out_execReadId {d0 : Dev} {r : RawReq} {s : State} (h : Sound d0 s.dev) :
    SoundOut d0 (execReadId r s) := by
  unfold execReadId
  with_reducible repeat' (first | exact h | refine out_rawOp ?_)

theorem out_execReadParam {d0 : Dev} {r : RawReq} {s : State} (h : Sound d0 s.dev) :
    SoundOut d0 (execReadParam r s) := by
  unfold execReadParam
  with_reducible repeat' (first | exact h | refine out_rawOp ?_)

theorem out_execI3cPrivateRead {d0 : Dev} {s : State} (h : Sound d0 s.dev) :
    SoundOut d0 (execI3cPrivateRead s) := by
  unfold execI3cPrivateRead
  with_reducible repeat' (first | exact h | refine out_run ?_ | refine sound_privateRead ?_ | refine sound_ite ?_ ?_)

theorem out_execIbiRetry {d0 : Dev} {accepted : Bool} {s : State} (h : Sound d0 s.dev) :
    SoundOut d0 (execIbiRetry accepted s) := by
  unfold execIbiRetry
  with_reducible repeat' (first | exact h | refine out_run ?_ | refine sound_updI3c ?_ | refine sound_ite ?_ ?_)

theorem out_execResponseTimeout {d0 : Dev} {s : State} (h : Sound d0 s.dev) :
    SoundOut d0 (execResponseTimeout s) := by
  unfold execResponseTimeout
  with_reducible repeat' (first
      | exact h | refine out_run ?_ | refine sound_updI3c ?_ | refine sound_cnt ?_ | refine sound_ite ?_ ?_)

theorem out_ctlRow {d0 : Dev} {c : MctpCtl} {code : Nat} {data : Bytes} {s : State} (h : Sound d0 s.dev) :
    SoundOut d0 (ctlRow c code data s) := by
  unfold ctlRow
  with_reducible repeat' (first
      | exact h | refine out_run ?_ | refine sound_updI3c ?_ | refine sound_ctlServe ?_ | refine sound_setRsp ?_
      | refine sound_cnt ?_ | refine sound_ite ?_ ?_)

theorem out_execSetEndpointId {d0 : Dev} {c : MctpCtl} {op : Nat} {eid : Nat} {s : State} (h : Sound d0 s.dev) :
    SoundOut d0 (execSetEndpointId c op eid s) := by
  unfold execSetEndpointId
  with_reducible repeat' (first | exact h | refine out_ctlRow ?_)

theorem out_execGetEndpointId {d0 : Dev} {c : MctpCtl} {s : State} (h : Sound d0 s.dev) :
    SoundOut d0 (execGetEndpointId c s) := by
  unfold execGetEndpointId
  with_reducible repeat' (first | exact h | refine out_ctlRow ?_)

theorem out_execGetMctpVersionSupport {d0 : Dev} {c : MctpCtl} {mtype : Nat} {s : State} (h : Sound d0 s.dev) :
    SoundOut d0 (execGetMctpVersionSupport c mtype s) := by
  unfold execGetMctpVersionSupport
  with_reducible repeat' (first | exact h | refine out_ctlRow ?_)

theorem out_execGetMessageTypeSupport {d0 : Dev} {c : MctpCtl} {s : State} (h : Sound d0 s.dev) :
    SoundOut d0 (execGetMessageTypeSupport c s) := by
  unfold execGetMessageTypeSupport
  with_reducible repeat' (first | exact h | refine out_ctlRow ?_)

theorem out_execGetVendorDefinedMessageSupport {d0 : Dev} {c : MctpCtl} {sel : Nat} {s : State} (h : Sound d0 s.dev) :
    SoundOut d0 (execGetVendorDefinedMessageSupport c sel s) := by
  unfold execGetVendorDefinedMessageSupport
  with_reducible repeat' (first | exact h | refine out_ctlRow ?_)

theorem out_execMctpUnsupportedCmd {d0 : Dev} {c : MctpCtl} {code : Nat} {s : State} (h : Sound d0 s.dev) :
    SoundOut d0 (execMctpUnsupportedCmd c code s) := by
  unfold execMctpUnsupportedCmd
  repeat' (first
      | with_reducible exact h | with_reducible refine out_run ?_ | with_reducible refine out_ite ?_ ?_
      | with_reducible refine out_ctlRow ?_ | dsimp only [id])

theorem out_execI3cPrivateWrite {d0 : Dev} {pkt : Bytes} {pec : Byte} {s : State} (h : Sound d0 s.dev) :
    SoundOut d0 (execI3cPrivateWrite pkt pec s) := by
  unfold execI3cPrivateWrite
  with_reducible repeat' (first | exact h | refine out_run ?_ | refine sound_privateWrite ?_ | refine sound_ite ?_ ?_)

theorem out_execMctpAssemblyTimeout {d0 : Dev} {s : State} (h : Sound d0 s.dev) :
    SoundOut d0 (execMctpAssemblyTimeout s) := by
  unfold execMctpAssemblyTimeout
  with_reducible repeat' (first
      | exact h | refine out_run ?_ | refine sound_updI3c ?_ | refine sound_cnt ?_ | refine sound_ite ?_ ?_)

theorem out_execSclStall {d0 : Dev} {s : State} (h : Sound d0 s.dev) :
    SoundOut d0 (execSclStall s) := by
  unfold execSclStall
  with_reducible repeat' (first | exact h | refine out_run ?_ | refine sound_cnt ?_ | refine sound_ite ?_ ?_)

theorem out_ccc {d0 : Dev} {direct : Bool} {f : Dev → Dev} {s : State} (h : Sound d0 s.dev)
    (hf : ∀ y, Sound d0 y → Sound d0 (f y)) :
    SoundOut d0 (ccc direct f s) := by
  unfold ccc
  with_reducible repeat' (first | exact h | refine out_run ?_ | apply hf | refine sound_ite ?_ ?_)

theorem out_cccGet {d0 : Dev} {f : Dev → Bytes} {s : State} (h : Sound d0 s.dev) :
    SoundOut d0 (cccGet f s) := by
  unfold cccGet
  with_reducible repeat' (first | exact h | assumption | refine out_ccc ?_ (fun _ _ => ?_) | refine sound_updI3c ?_)

theorem out_execEnec {d0 : Dev} {events : Byte} {s : State} (h : Sound d0 s.dev) :
    SoundOut d0 (execEnec events s) := by
  unfold execEnec
  with_reducible repeat' (first | exact h | assumption | refine out_ccc ?_ (fun _ _ => ?_) | refine sound_updI3c ?_)

theorem out_execDisec {d0 : Dev} {events : Byte} {s : State} (h : Sound d0 s.dev) :
    SoundOut d0 (execDisec events s) := by
  unfold execDisec
  with_reducible repeat' (first | exact h | assumption | refine out_ccc ?_ (fun _ _ => ?_) | refine sound_updI3c ?_)

theorem out_execRstdaa {d0 : Dev} {s : State} (h : Sound d0 s.dev) :
    SoundOut d0 (execRstdaa s) := by
  unfold execRstdaa
  with_reducible repeat' (first | exact h | assumption | refine out_ccc ?_ (fun _ _ => ?_) | refine sound_put ?_)

theorem out_execEntdaa {d0 : Dev} {addr : Nat} {s : State} (h : Sound d0 s.dev) :
    SoundOut d0 (execEntdaa addr s) := by
  unfold execEntdaa
  with_reducible repeat' (first
      | exact h | assumption | refine out_ccc ?_ (fun _ _ => ?_) | refine sound_put ?_ | refine sound_ite ?_ ?_)

theorem out_execSetmwl {d0 : Dev} {v : Nat} {s : State} (h : Sound d0 s.dev) :
    SoundOut d0 (execSetmwl v s) := by
  unfold execSetmwl
  with_reducible repeat' (first
      | exact h | assumption | refine out_ccc ?_ (fun _ _ => ?_) | refine sound_updI3c ?_ | refine sound_cnt ?_
      | refine sound_ite ?_ ?_)

theorem out_execSetmrl {d0 : Dev} {v : Nat} {s : State} (h : Sound d0 s.dev) :
    SoundOut d0 (execSetmrl v s) := by
  unfold execSetmrl
  with_reducible repeat' (first
      | exact h | assumption | refine out_ccc ?_ (fun _ _ => ?_) | refine sound_updI3c ?_ | refine sound_cnt ?_
      | refine sound_ite ?_ ?_)

theorem out_execSetdasa {d0 : Dev} {static : Nat} {addr : Nat} {s : State} (h : Sound d0 s.dev) :
    SoundOut d0 (execSetdasa static addr s) := by
  unfold execSetdasa
  with_reducible repeat' (first
      | exact h | assumption | refine out_ccc ?_ (fun _ _ => ?_) | refine sound_put ?_ | refine sound_ite ?_ ?_)

theorem out_execSetnewda {d0 : Dev} {addr : Nat} {s : State} (h : Sound d0 s.dev) :
    SoundOut d0 (execSetnewda addr s) := by
  unfold execSetnewda
  with_reducible repeat' (first | exact h | assumption | refine out_ccc ?_ (fun _ _ => ?_) | refine sound_put ?_)

theorem out_execGetmwl {d0 : Dev} {s : State} (h : Sound d0 s.dev) :
    SoundOut d0 (execGetmwl s) := by
  unfold execGetmwl
  with_reducible repeat' (first | exact h | refine out_cccGet ?_)

theorem out_execGetmrl {d0 : Dev} {s : State} (h : Sound d0 s.dev) :
    SoundOut d0 (execGetmrl s) := by
  unfold execGetmrl
  with_reducible repeat' (first | exact h | refine out_cccGet ?_)

theorem out_execGetpid {d0 : Dev} {s : State} (h : Sound d0 s.dev) :
    SoundOut d0 (execGetpid s) := by
  unfold execGetpid
  with_reducible repeat' (first | exact h | refine out_cccGet ?_)

theorem out_execGetbcr {d0 : Dev} {s : State} (h : Sound d0 s.dev) :
    SoundOut d0 (execGetbcr s) := by
  unfold execGetbcr
  with_reducible repeat' (first | exact h | refine out_cccGet ?_)

theorem out_execGetdcr {d0 : Dev} {s : State} (h : Sound d0 s.dev) :
    SoundOut d0 (execGetdcr s) := by
  unfold execGetdcr
  with_reducible repeat' (first | exact h | refine out_cccGet ?_)

theorem out_execGetstatus {d0 : Dev} {s : State} (h : Sound d0 s.dev) :
    SoundOut d0 (execGetstatus s) := by
  unfold execGetstatus
  with_reducible repeat' (first | exact h | refine out_cccGet ?_)

theorem out_execRstact {d0 : Dev} {defByte : Byte} {s : State} (h : Sound d0 s.dev) :
    SoundOut d0 (execRstact defByte s) := by
  unfold execRstact
  with_reducible repeat' (first
      | exact h | assumption | refine out_ccc ?_ (fun _ _ => ?_) | refine sound_i3cReset ?_ | refine sound_ite ?_ ?_)

theorem out_execEnthdr {d0 : Dev} {s : State} (h : Sound d0 s.dev) :
    SoundOut d0 (execEnthdr s) := by
  unfold execEnthdr
  with_reducible repeat' (first | exact h | assumption | refine out_ccc ?_ (fun _ _ => ?_) | refine sound_updI3c ?_)

theorem out_execHdrExit {d0 : Dev} {s : State} (h : Sound d0 s.dev) :
    SoundOut d0 (execHdrExit s) := by
  unfold execHdrExit
  with_reducible repeat' (first | exact h | refine out_run ?_ | refine sound_updI3c ?_ | refine sound_ite ?_ ?_)

theorem out_execI3cTargetReset {d0 : Dev} {s : State} (h : Sound d0 s.dev) :
    SoundOut d0 (execI3cTargetReset s) := by
  unfold execI3cTargetReset
  with_reducible repeat' (first | exact h | refine out_run ?_ | refine sound_i3cReset ?_ | refine sound_ite ?_ ?_)

theorem out_tickPort {d0 : Dev} {ex : Instr → State → Host.Outcome State Fault Refusal} {p : Nat} {s : State}
    (h : Sound d0 s.dev) (hex : ∀ c (y : State), Sound d0 y.dev → SoundOut d0 (ex c y)) : SoundOut d0 (tickPort ex p s) := by
  unfold tickPort
  split
  · exact out_next h
  · next c rest d e =>
    have hd : Sound d0 d := h.trans (keep_nextIn (r9 := (_, _, _)) (Keep.refl _) e).toSound
    exact out_bind (f := fun t => .next { t with dev := afterIn p rest t.dev }) (hex c { s with dev := d } hd)
      (fun y hy => out_next (soundk_afterIn hy))

theorem out_tickPorts {d0 : Dev} {ex : Instr → State → Host.Outcome State Fault Refusal} {s : State}
    (h : Sound d0 s.dev) (hex : ∀ c (y : State), Sound d0 y.dev → SoundOut d0 (ex c y)) : SoundOut d0 (tickPorts ex s) :=
  out_foldl (tickPort ex) (fun _ _ hy => out_tickPort hy hex) (out_next h)

theorem out_tick {d0 : Dev} {ex : Instr → State → Host.Outcome State Fault Refusal} {s : State}
    (h : Sound d0 s.dev) (hex : ∀ c (y : State), Sound d0 y.dev → SoundOut d0 (ex c y)) : SoundOut d0 (tick ex s) := by
  have h1 := out_tickPorts h hex
  unfold tick
  generalize tickPorts ex s = o at h1 ⊢
  have hk : ∀ d, Sound d0 d → Sound d0 (tickDev d) := fun _ => sound_tickDev
  generalize tickDev = f at hk ⊢
  exact out_bind (f := fun t => .next { t with dev := f t.dev }) h1 (fun _ hy => out_next (hk _ hy))

theorem out_exec {d0 : Dev} (c : Instr) {s : State} (h : Sound d0 s.dev) : SoundOut d0 (exec c s) := by
  cases c with
  | powerOnReset => exact out_execPowerOnReset h
  | muReady => exact out_execMuReady h
  | supplyOutOfRange => exact out_execSupplyOutOfRange h
  | wrst => exact out_execWrst h
  | wrstGlitch => exact out_execWrstGlitch h
  | rstBlock => exact out_execRstBlock h
  | rstSoft => exact out_execRstSoft h
  | rstChannel => exact out_execRstChannel h
  | resetDrained => exact out_execResetDrained h
  | resetDone => exact out_execResetDone h
  | svcReq => exact out_execSvcReq h
  | inboundWriteRefused => exact out_execInboundWriteRefused h
  | inboundBadHeader => exact out_execInboundBadHeader h
  | targetDecodeError => exact out_execTargetDecodeError h
  | inboundResponse => exact out_execInboundResponse h
  | initTimeout => exact out_execInitTimeout h
  | creditReturn => exact out_execCreditReturn h
  | framingViolation => exact out_execFramingViolation h
  | framingRestore => exact out_execFramingRestore h
  | undercredit => exact out_execUndercredit h
  | holdupReport => exact out_execHoldupReport h
  | holdupStale => exact out_execHoldupStale h
  | vbusAboveCeiling => exact out_execVbusAboveCeiling h
  | vbusBelowCeiling => exact out_execVbusBelowCeiling h
  | pfWarn => exact out_execPfWarn h
  | pfGlitch => exact out_execPfGlitch h
  | sensorReport => exact out_execSensorReport h
  | sensorStale => exact out_execSensorStale h
  | tbSync => exact out_execTbSync h
  | tbClockLoss => exact out_execTbClockLoss h
  | tbSyncTimeout => exact out_execTbSyncTimeout h
  | pgFall => exact out_execPgFall h
  | pcGlitch => exact out_execPcGlitch h
  | rbRise => exact out_execRbRise h
  | rbGlitch => exact out_execRbGlitch h
  | keyWordAck => exact out_execKeyWordAck h
  | keyWordTimeout => exact out_execKeyWordTimeout h
  | expRead => exact out_execExpRead h
  | expWrite => exact out_execExpWrite h
  | segRead => exact out_execSegRead h
  | segWrite => exact out_execSegWrite h
  | blkReadInit => exact out_execBlkReadInit h
  | blkWriteInit => exact out_execBlkWriteInit h
  | blkReadNext => exact out_execBlkReadNext h
  | blkWriteNext => exact out_execBlkWriteNext h
  | blkEnd => exact out_execBlkEnd h
  | xferAbort => exact out_execXferAbort h
  | info => exact out_execInfo h
  | unknownCmd => exact out_execUnknownCmd h
  | xferTimeout => exact out_execXferTimeout h
  | odEntryWrite => exact out_execOdEntryWrite h
  | counterClear => exact out_execCounterClear h
  | masterEnable => exact out_execMasterEnable h
  | grpOwner => exact out_execGrpOwner h
  | i3cEnable => exact out_execI3cEnable h
  | i3cPrivateWrite => exact out_execI3cPrivateWrite h
  | i3cPrivateRead => exact out_execI3cPrivateRead h
  | ibiRetry => exact out_execIbiRetry h
  | responseTimeout => exact out_execResponseTimeout h
  | mctpAssemblyTimeout => exact out_execMctpAssemblyTimeout h
  | sclStall => exact out_execSclStall h
  | setEndpointId => exact out_execSetEndpointId h
  | getEndpointId => exact out_execGetEndpointId h
  | getMctpVersionSupport => exact out_execGetMctpVersionSupport h
  | getMessageTypeSupport => exact out_execGetMessageTypeSupport h
  | getVendorDefinedMessageSupport => exact out_execGetVendorDefinedMessageSupport h
  | mctpUnsupportedCmd => exact out_execMctpUnsupportedCmd h
  | enec => exact out_execEnec h
  | disec => exact out_execDisec h
  | rstdaa => exact out_execRstdaa h
  | entdaa => exact out_execEntdaa h
  | setmwl => exact out_execSetmwl h
  | setmrl => exact out_execSetmrl h
  | setdasa => exact out_execSetdasa h
  | setnewda => exact out_execSetnewda h
  | getmwl => exact out_execGetmwl h
  | getmrl => exact out_execGetmrl h
  | getpid => exact out_execGetpid h
  | getbcr => exact out_execGetbcr h
  | getdcr => exact out_execGetdcr h
  | getstatus => exact out_execGetstatus h
  | rstact => exact out_execRstact h
  | enthdr => exact out_execEnthdr h
  | hdrExit => exact out_execHdrExit h
  | i3cTargetReset => exact out_execI3cTargetReset h
  | dbSq => exact out_execDbSq h
  | dbCq => exact out_execDbCq h
  | dbBoth => exact out_execDbBoth h
  | sqFetch => exact out_execSqFetch h
  | fetchStarvation => exact out_execFetchStarvation h
  | sqFetchComplete => exact out_execSqFetchComplete h
  | write => exact out_execWrite h
  | read => exact out_execRead h
  | trim => exact out_execTrim h
  | flush => exact out_execFlush h
  | commit => exact out_execCommit h
  | copy => exact out_execCopy h
  | scan => exact out_execScan h
  | hash => exact out_execHash h
  | destageView => exact out_execDestageView h
  | raw => exact out_execRaw h
  | completionPost => exact out_execCompletionPost h
  | completionBell => exact out_execCompletionBell h
  | ringEnable => exact out_execRingEnable h
  | ringDrained => exact out_execRingDrained h
  | mapInit => exact out_execMapInit h
  | ltQuiesce => exact out_execLtQuiesce h
  | lanternQuiesced => exact out_execLanternQuiesced h
  | placeWrite => exact out_execPlaceWrite h
  | merge => exact out_execMerge h
  | spaceWaitTimeout => exact out_execSpaceWaitTimeout h
  | rowTimeout => exact out_execRowTimeout h
  | memberSlotTimeout => exact out_execMemberSlotTimeout h
  | placeRead => exact out_execPlaceRead h
  | mapFillComplete => exact out_execMapFillComplete h
  | relocationStart => exact out_execRelocationStart h
  | relocSwitch => exact out_execRelocSwitch h
  | decoderDispatch => exact out_execDecoderDispatch h
  | exDie => exact out_execExDie h
  | exChannel => exact out_execExChannel h
  | exDecoder => exact out_execExDecoder h
  | exSbBank => exact out_execExSbBank h
  | exMapcWay => exact out_execExMapcWay h
  | busBurstEnd => exact out_execBusBurstEnd h
  | statusPoll => exact out_execStatusPoll h
  | dieOpTimeout => exact out_execDieOpTimeout h
  | suspendTimeout => exact out_execSuspendTimeout h
  | suspendGapElapsed => exact out_execSuspendGapElapsed h
  | suspendHoldExpired => exact out_execSuspendHoldExpired h
  | dieRevive => exact out_execDieRevive h
  | snapReq => exact out_execSnapReq h
  | rawUnlock => exact out_execRawUnlock h
  | rawKey1Timeout => exact out_execRawKey1Timeout h
  | rawIdleTimeout => exact out_execRawIdleTimeout h
  | readPage => exact out_execReadPage h
  | programPage => exact out_execProgramPage h
  | eraseBlock => exact out_execEraseBlock h
  | readStatus => exact out_execReadStatus h
  | getFeatures => exact out_execGetFeatures h
  | setFeatures => exact out_execSetFeatures h
  | resetLun => exact out_execResetLun h
  | readId => exact out_execReadId h
  | readParam => exact out_execReadParam h
  | wpLock => exact out_execWpLock h
  | channelIdentify => exact out_execChannelIdentify h
  | referenceGeometrySet => exact out_execReferenceGeometrySet h
  | idRerun => exact out_execIdRerun h
  | tsArm => exact out_execTsArm h
  | timingSwap => exact out_execTimingSwap h
  | modeChangeSwap => exact out_execModeChangeSwap h
  | swapHoldTimeout => exact out_execSwapHoldTimeout h
  | swapMiss => exact out_execSwapMiss h
  | training => exact out_execTraining h
  | trainReq => exact out_execTrainReq h
  | retrainAge => exact out_execRetrainAge h
  | marginalRetrain => exact out_execMarginalRetrain h
  | driftTrack => exact out_execDriftTrack h
  | zqCalibration => exact out_execZqCalibration h
  | zqCodeApply => exact out_execZqCodeApply h
  | next => exact out_execNext h
  | branch => exact out_execBranch h
  | call => exact out_execCall h
  | ret => exact out_execRet h
  | dispatch => exact out_execDispatch h
  | wait => exact out_execWait h
  | endWord => exact out_execEndWord h
  | cmd => exact out_execCmd h
  | addr => exact out_execAddr h
  | din => exact out_execDin h
  | dout => exact out_execDout h
  | stat => exact out_execStat h
  | ceon => exact out_execCeon h
  | ceoff => exact out_execCeoff h
  | dbo => exact out_execDbo h
  | dbi => exact out_execDbi h
  | train => exact out_execTrain h
  | movi => exact out_execMovi h
  | mov => exact out_execMov h
  | add => exact out_execAdd h
  | sub => exact out_execSub h
  | and => exact out_execAnd h
  | or => exact out_execOr h
  | xor => exact out_execXor h
  | shl => exact out_execShl h
  | shr => exact out_execShr h
  | cmp => exact out_execCmp h
  | ldf => exact out_execLdf h
  | stf => exact out_execStf h
  | timerLoad => exact out_execTimerLoad h
  | timerLoadImm => exact out_execTimerLoadImm h
  | timerStop => exact out_execTimerStop h
  | patchWordRewrite => exact out_execPatchWordRewrite h
  | patchRemove => exact out_execPatchRemove h
  | lktLoad => exact out_execLktLoad h
  | locketInstall => exact out_execLocketInstall h
  | mcRevert => exact out_execMcRevert h
  | decodeJob => exact out_execDecodeJob h
  | decodeResult => exact out_execDecodeResult h
  | inlineCheck => exact out_execInlineCheck h
  | lmUpdate => exact out_execLmUpdate h
  | lmMode => exact out_execLmMode h
  | jcommitAge => exact out_execJcommitAge h
  | commitStart => exact out_execCommitStart h
  | commitDone => exact out_execCommitDone h
  | noEnergyTimeout => exact out_execNoEnergyTimeout h
  | ckptNow => exact out_execCkptNow h
  | ckptPeriod => exact out_execCkptPeriod h
  | checkpointStart => exact out_execCheckpointStart h
  | checkpointEnd => exact out_execCheckpointEnd h
  | calibrationTick => exact out_execCalibrationTick h
  | flushNow => exact out_execFlushNow h
  | emergencyFlush => exact out_execEmergencyFlush h
  | flushWave => exact out_execFlushWave h
  | flushed => exact out_execFlushed h
  | replayGo => exact out_execReplayGo h
  | tenderJob => exact out_execTenderJob h
  | chStart => exact out_execChStart h
  | chStop => exact out_execChStop h
  | descriptorFetched => exact out_execDescriptorFetched h
  | descriptorCopy => exact out_execDescriptorCopy h
  | fill => exact out_execFill h
  | compare => exact out_execCompare h
  | descriptorComplete => exact out_execDescriptorComplete h
  | tmrEnable => exact out_execTmrEnable h
  | timerTick => exact out_execTimerTick h
  | qClear => exact out_execQClear h
  | blDb => exact out_execBlDb h
  | internalDoorbell => exact out_execInternalDoorbell h
  | blEoi => exact out_execBlEoi h
  | tgtEoi => exact out_execTgtEoi h
  | deliveryRunStart => exact out_execDeliveryRunStart h
  | attemptSlot => exact out_execAttemptSlot h
  | bellAwakeRise => exact out_execBellAwakeRise h
  | deliveryResponse => exact out_execDeliveryResponse h
  | fallback => exact out_execFallback h
  | tgtUnfreeze => exact out_execTgtUnfreeze h
  | srcCfg => exact out_execSrcCfg h
  | srcState => exact out_execSrcState h
  | domReq => exact out_execDomReq h
  | drainComplete => exact out_execDrainComplete h
  | domainDownAck => exact out_execDomainDownAck h
  | downLate => exact out_execDownLate h
  | domainWakeAck => exact out_execDomainWakeAck h
  | wakeTimeout => exact out_execWakeTimeout h
  | wakeRetryEnd => exact out_execWakeRetryEnd h
  | wakeSourceAssert => exact out_execWakeSourceAssert h
  | modelStep => exact out_execModelStep h
  | cuEnergyReport => exact out_execCuEnergyReport h
  | correctionLoop => exact out_execCorrectionLoop h
  | dieTempReading => exact out_execDieTempReading h
  | tsUnsuspect => exact out_execTsUnsuspect h
  | throttleSpacing => exact out_execThrottleSpacing h
  | coldDeferExpiry => exact out_execColdDeferExpiry h
  | fltAck => exact out_execFltAck h
  | cuThrottleDuty => exact out_execCuThrottleDuty h
  | supplyInRange => exact out_execSupplyInRange h
  | lkAckFall => exact out_execLkAckFall h

end Sys2Proof.Machine
end

