-- ==== Sys2Proof/WellFormed.lean ====
section
/-! DEFINITION. Well-formed commands: every port, channel, target, die, ring, tag, domain, decoder and master
that a command names exists in the configuration (00_scope.md R2; 02 R51; 06 R242; 15 R520). The meanings are total:
they give an ill-formed command an effect too (log 12). -/

namespace Sys2Proof

/-- R51, R65: a master ID has 3 bits. -/
def masterOk (m : Nat) : Bool := decide (m < 8)

/-- R51: a transaction ID has 12 bits. -/
def txidOk (t : Nat) : Bool := decide (t < 4096)

/-- A port of the configuration. -/
def portOk (c : Params) (p : Nat) : Bool := decide (p < c.ports)

/-- A channel of the configuration. -/
def chanOk (c : Params) (ch : Nat) : Bool := decide (ch < c.channels)

/-- R242: a die number is channel (5 bits), target (4 bits) and LUN (3 bits). -/
def dieOk (c : Params) (n : Nat) : Bool :=
  decide (n / 128 < c.channels) && decide (n / 8 % 16 < c.targets) && decide (n % 8 < c.luns)

/-- R520: the domains' numbers run without a gap. -/
def domainOk (c : Params) (d : Nat) : Bool :=
  decide (d ≤ 4 * c.channels + c.decoders + c.sbMib / 2 + 7 + c.segments + c.ports)

/-- The window that carried a command is a port's. -/
def viaOk (c : Params) : Option Via → Bool
  | none => true
  | some v => portOk c v.p && txidOk v.txid

/-- R112: a command word that a row of its own stands for. -/
def winOk (c : Params) : Option Win → Bool
  | none => true
  | some w => viaOk c (some w.via) && decide (w.tag < 256) && decide (w.seq < 256)

/-- R112: the fields of a command word. -/
def odCmdOk (c : Params) (x : OdCmd) : Bool :=
  masterOk x.m && viaOk c x.via && decide (x.tag < 256) && decide (x.seq < 256) && decide (x.idx < 65536) &&
    decide (x.sub < 256)

/-- R129: a rival is another master of the same window, with its command word's tag and seq. -/
def rivalOk (c : Params) : Option Rival → Bool
  | none => true
  | some x => masterOk x.m && viaOk c x.via && decide (x.tag < 256) && decide (x.seq < 256)

/-- R61: the doorbells of one cycle come through different ports of the configuration. -/
def sameOk (c : Params) (p : Nat) (l : List SameDb) : Bool :=
  decide ((p :: l.map (·.p)).Nodup) && l.all (fun x => portOk c x.p && txidOk x.txid)

/-- R51: the fields of a request header. -/
def hdrOk (x : ReqHdr) : Bool :=
  masterOk x.mid && txidOk x.txid && decide (x.op < 16) && decide (x.addr < 2 ^ 64) && decide (x.len ≤ 4096)

/-- R53: the fields of a response header. -/
def rspOk (x : RspHdr) : Bool :=
  txidOk x.txid && decide (x.op < 16) && decide (x.status < 8) && decide (x.lenM1 < 4096)

/-- R272, R273: where a raw operation comes from and its address. -/
def rawReqOk (c : Params) (x : RawReq) : Bool :=
  (match x.src with
    | .od m => masterOk m
    | .ring tag => decide (tag < c.tags)) && decide (x.addr < 2 ^ 64)

/-- A command names only what the configuration has. -/
def Instr.wf (c : Params) : Instr → Bool
  | .powerOnReset | .muReady | .supplyOutOfRange _ | .wrst | .wrstGlitch | .resetDrained | .resetDone
  | .holdupStale | .pfWarn | .pfGlitch | .tbClockLoss | .tbSyncTimeout | .keyWordAck _ _ | .keyWordTimeout | .i3cPrivateWrite _ _
  | .i3cPrivateRead | .ibiRetry _ | .responseTimeout | .mctpAssemblyTimeout | .sclStall | .setEndpointId _ _ _
  | .getEndpointId _ | .getMctpVersionSupport _ _ | .getMessageTypeSupport _
  | .getVendorDefinedMessageSupport _ _ | .mctpUnsupportedCmd _ _ | .enec _ | .disec _ | .rstdaa | .setmwl _
  | .setmrl _ | .getmwl | .getmrl | .getpid | .getbcr | .getdcr | .getstatus | .rstact _ | .enthdr | .hdrExit
  | .i3cTargetReset | .lanternQuiesced | .placeWrite _ | .merge _ | .spaceWaitTimeout _ | .rowTimeout _ _
  | .memberSlotTimeout _ _ _ | .placeRead _ | .mapFillComplete _ | .relocationStart | .relocSwitch _
  | .rawKey1Timeout | .rawIdleTimeout | .referenceGeometrySet | .lmUpdate | .jcommitAge | .commitStart
  | .commitDone | .ckptPeriod | .checkpointStart | .checkpointEnd | .calibrationTick | .emergencyFlush
  | .flushed | .internalDoorbell | .modelStep | .correctionLoop | .supplyInRange _ | .lkAckFall => true
  | .rstBlock m _ | .rstSoft m _ | .rstChannel m _ | .svcReq m _ | .xferTimeout m | .counterClear m _ _
  | .masterEnable m _ | .i3cEnable m _ | .mapInit m _ _ | .ltQuiesce m _ | .exDie m _ | .exChannel m _
  | .exDecoder m _ | .exSbBank m _ | .exMapcWay m _ | .rawUnlock m _ | .wpLock m _ | .lktLoad m _
  | .mcRevert m _ | .lmMode m _ | .ckptNow m _ | .flushNow m _ | .replayGo m _ _ | .qClear m _
  | .tsUnsuspect m _ | .fltAck m _ => masterOk m
  | .inboundWriteRefused p x | .targetDecodeError p x => portOk c p && hdrOk x
  | .inboundBadHeader p _ _ txid | .initTimeout p txid | .blDb p _ txid | .blEoi p _ txid
  | .deliveryResponse p txid _ => portOk c p && txidOk txid
  | .inboundResponse p x => portOk c p && rspOk x
  | .creditReturn p _ | .framingViolation p | .framingRestore p | .undercredit p | .sqFetch p => portOk c p
  | .holdupReport energy seq => decide (energy < 2 ^ 32) && decide (seq < 2 ^ 8)
  | .vbusAboveCeiling mvs | .vbusBelowCeiling mvs => mvs.all (fun v => decide (v < 2 ^ 16))
  | .tbSync n => decide (n < 2 ^ 64)
  | .sensorReport id t => decide (id < 64) && decide (-2 ^ 15 ≤ t) && decide (t < 2 ^ 15)
  | .sensorStale id => decide (id < 64)
  | .pgFall d | .pcGlitch d | .drainComplete d | .domainDownAck d | .downLate d | .domainWakeAck d
  | .wakeTimeout d | .wakeRetryEnd d | .wakeSourceAssert d _ => domainOk c d
  | .rbRise ch tgt | .rbGlitch ch tgt | .training ch tgt _ | .retrainAge ch tgt | .marginalRetrain ch tgt
  | .driftTrack ch tgt _ => chanOk c ch && decide (tgt < c.targets)
  | .expRead x | .segRead x | .blkReadInit x | .blkReadNext x _
  | .blkWriteNext x _ _ | .blkEnd x _ | .xferAbort x | .info x | .unknownCmd x _ => odCmdOk c x
  | .expWrite x _ _ rival | .segWrite x ⟨_, rival⟩ | .blkWriteInit x ⟨_, rival⟩ => odCmdOk c x && rivalOk c rival
  | .odEntryWrite m via _ _ => masterOk m && winOk c via
  | .grpOwner m g _ => masterOk m && decide (g < 48)
  | .entdaa a | .setdasa _ a | .setnewda a => decide (a < 128)
  | .dbSq p r _ ⟨txid, same⟩ | .dbCq p r _ ⟨txid, same⟩ | .dbBoth p r _ _ ⟨txid, same⟩ =>
    portOk c p && decide (r < c.rings) && txidOk txid && sameOk c p same
  | .fetchStarvation r | .sqFetchComplete r | .completionBell r | .ringDrained r => decide (r < c.rings)
  | .write tag | .read tag | .trim tag | .flush tag | .commit tag | .copy tag | .scan tag | .hash tag
  | .destageView tag | .raw tag | .completionPost tag | .noEnergyTimeout tag | .tenderJob tag => decide (tag < c.tags)
  | .ringEnable m r _ => masterOk m && decide (r < c.rings)
  | .decoderDispatch ch _ | .busBurstEnd ch _ | .channelIdentify ch _ | .timingSwap ch _ | .modeChangeSwap ch _
  | .swapHoldTimeout ch | .swapMiss ch | .zqCalibration ch _ _ | .zqCodeApply ch | .next ch _ _ | .branch ch _ _
  | .call ch _ _ | .ret ch _ _ | .dispatch ch _ _ | .wait ch _ _ | .endWord ch _ _ | .cmd ch _ _ | .addr ch _ _
  | .din ch _ _ | .dout ch _ _ | .stat ch _ _ | .ceon ch _ _ | .ceoff ch _ _ | .dbo ch _ _ | .dbi ch _ _
  | .train ch _ _ | .movi ch _ _ | .mov ch _ _ | .add ch _ _ | .sub ch _ _ | .and ch _ _ | .or ch _ _
  | .xor ch _ _ | .shl ch _ _ | .shr ch _ _ | .cmp ch _ _ | .ldf ch _ _ | .stf ch _ _ | .timerLoad ch _ _
  | .timerLoadImm ch _ _ | .timerStop ch _ _ | .patchWordRewrite ch | .patchRemove ch | .locketInstall ch
  | .inlineCheck ch _ | .cuEnergyReport ch _ | .cuThrottleDuty ch => chanOk c ch
  | .statusPoll ch die | .dieOpTimeout ch die | .suspendTimeout ch die | .suspendGapElapsed ch die
  | .suspendHoldExpired ch die => chanOk c ch && decide (die < c.targets * c.luns)
  | .dieRevive m ch _ | .snapReq m ch _ | .idRerun m ch _ | .tsArm m ch _ | .trainReq m ch _ => masterOk m && chanOk c ch
  | .readPage x | .programPage x | .eraseBlock x | .readStatus x | .getFeatures x | .setFeatures x | .resetLun x
  | .readId x | .readParam x => rawReqOk c x
  | .decodeJob k | .decodeResult k _ => decide (k < c.decoders)
  | .flushWave die _ | .dieTempReading die _ | .throttleSpacing die | .coldDeferExpiry die => dieOk c die
  | .chStart m n _ | .chStop m n _ => masterOk m && decide (n < 64)
  | .descriptorFetched n | .descriptorCopy n | .fill n | .compare n | .descriptorComplete n => decide (n < 64)
  | .tmrEnable m k _ => masterOk m && decide (k < 8)
  | .timerTick k => decide (k < 8)
  | .tgtEoi m t _ | .tgtUnfreeze m t _ => masterOk m && decide (t < 8)
  | .deliveryRunStart ⟨t, _⟩ | .attemptSlot ⟨t, _⟩ | .bellAwakeRise t | .fallback t => decide (t < 8)
  | .srcCfg m src _ | .srcState m src _ => masterOk m && decide (src < 1024)
  | .domReq m via d _ => masterOk m && winOk c via && domainOk c d

end Sys2Proof
end

