-- ==== Sys2Proof/Tests/Slice0.lean ====
section
/-! SUPPORT. Small tests: ill-formed commands are refused, single steps have the effects that the spec's tables and rules
name, and for every statement with hypotheses a theorem named wit_ with states and operands that meet them. -/

open Sys2Proof Sys2Proof.Machine

namespace Sys2Proof.Tests

set_option Elab.async false

/-! ### States for the witnesses -/

/-- The block after reset. -/
def r0 : Dev := State.reset.dev

/-- A block with no command waiting. -/
def at_ (d : Dev) : State := { dev := d, pending := [] }

/-- The block that a command leaves. -/
def after (c : Instr) (d : Dev) : Dev :=
  match exec c (at_ d) with
  | .next t => t.dev
  | _ => d

/-- A domain that is ON. -/
def onDom : Dom :=
  { Dom.reset with st := .on, tgt := .on, pcReq := 3, isolated := false, cold := false }

/-- Every domain ON. -/
def allOn (d : Dev) : Dev := { d with doms := (List.range (domainCount d.cfg)).map (fun n => (n, onDom)) }

/-- The block in service: every domain ON, the service state SERVICE, Lantern and Clasp in SERVICE. -/
def svc : Dev := put 0x2400 1 2 (put 0x2100 8 2 (put 0x2000 1 1 (allOn r0)))

/-- The I3C target on, with the dynamic address 0x10 and the endpoint ID 9. -/
def i3cOn : Dev := put 0x1100 7 9 (put 0x1100 3 0x10 (put 0x1100 1 1 r0))

/-- A command of master 0 over I3C. -/
def oc (idx sub : Nat) : OdCmd := { m := 0, via := none, tag := 1, seq := 0, idx := idx, sub := sub }

/-! ### Ill-formed commands are refused -/

/-- A request header. -/
def hd : ReqHdr := { cls := .req, op := 1, addr := 0, len := 4, txid := 0, mid := 0, msz := false, data := 0 }

/-- A response header. -/
def rs : RspHdr := { op := 8, status := 0, txid := 0, lenM1 := 0, data := [], poison := false, flits := 0 }

/-- A raw operation. -/
def rq : RawReq :=
  { src := .od 0, addr := 0, rlen := 0, rfa := 0, noecc := false, norand := false, slc := false, rsvd := false }

/-- A converged decode. -/
def dr : DecRes := { converged := true, iters := 1, n01 := 0, n10 := 0, synd := 0, payload := [] }

theorem test_wf_master : Instr.wf Params.d8 (.svcReq 8 1) = false ∧ Instr.wf Params.d8 (.svcReq 7 1) = true := by decide
theorem test_wf_window :
    Instr.wf Params.d8 (.expRead { oc 0x2000 1 with via := some ⟨1, 0, false, false⟩ }) = false ∧
    Instr.wf Params.d8 (.expRead { oc 0x2000 1 with via := some ⟨0, 4096, false, false⟩ }) = false ∧
    Instr.wf Params.d8 (.expRead { oc 0x2000 1 with via := some ⟨0, 4095, false, false⟩ }) = true := by decide
theorem test_wf_command_word :
    Instr.wf Params.d8 (.expRead { oc 0x2000 1 with tag := 256 }) = false ∧
    Instr.wf Params.d8 (.expRead (oc 65536 1)) = false ∧ Instr.wf Params.d8 (.expRead (oc 0x2000 256)) = false := by decide
theorem test_wf_rival :
    Instr.wf Params.d8 (.expWrite (oc 0x2000 1) 1 0 (some ⟨8, none, 0, 0, .exp 1 0⟩)) = false ∧
    Instr.wf Params.d8 (.expWrite (oc 0x2000 1) 1 0 (some ⟨1, none, 256, 0, .exp 1 0⟩)) = false := by decide
theorem test_wf_request_header :
    Instr.wf Params.d8 (.targetDecodeError 1 hd) = false ∧
    Instr.wf Params.d8 (.targetDecodeError 0 { hd with mid := 8 }) = false ∧
    Instr.wf Params.d8 (.targetDecodeError 0 { hd with txid := 4096 }) = false ∧
    Instr.wf Params.d8 (.targetDecodeError 0 { hd with op := 16 }) = false ∧
    Instr.wf Params.d8 (.targetDecodeError 0 { hd with addr := 2 ^ 64 }) = false ∧
    Instr.wf Params.d8 (.targetDecodeError 0 { hd with len := 4097 }) = false := by decide
theorem test_wf_response_header :
    Instr.wf Params.d8 (.inboundResponse 0 { rs with txid := 4096 }) = false ∧
    Instr.wf Params.d8 (.inboundResponse 0 { rs with op := 16 }) = false ∧
    Instr.wf Params.d8 (.inboundResponse 0 { rs with status := 8 }) = false := by decide
theorem test_wf_same_cycle :
    Instr.wf Params.d8 (.dbSq 0 0 0 ⟨0, [⟨0, 0, none, none⟩]⟩) = false ∧ Instr.wf Params.w32 (.dbSq 0 0 0 ⟨0, [⟨1, 0, none, none⟩]⟩) = true := by
  decide
theorem test_wf_report : Instr.wf Params.d8 (.holdupReport (2 ^ 32) 0) = false ∧ Instr.wf Params.d8 (.holdupReport 0 256) = false ∧
    Instr.wf Params.d8 (.vbusAboveCeiling [2 ^ 16]) = false := by decide
theorem test_wf_port : Instr.wf Params.d8 (.framingViolation 1) = false ∧ Instr.wf Params.d8 (.framingViolation 0) = true := by
  decide
theorem test_wf_sensor : Instr.wf Params.d8 (.sensorReport 64 0) = false ∧ Instr.wf Params.d8 (.sensorReport 63 0) = true := by
  decide
theorem test_wf_domain : Instr.wf Params.d8 (.pgFall 50) = false ∧ Instr.wf Params.d8 (.pgFall 49) = true := by decide
theorem test_wf_domain_port : Instr.wf Params.d8 (.domReq 0 (some ⟨⟨1, 0, false, false⟩, 0, 0⟩) 0 2) = false := by decide
theorem test_wf_channel : Instr.wf Params.d8 (.swapMiss 8) = false ∧ Instr.wf Params.d8 (.swapMiss 7) = true := by decide
theorem test_wf_target : Instr.wf Params.d8 (.rbRise 0 2) = false ∧ Instr.wf Params.d8 (.rbRise 7 1) = true := by decide
theorem test_wf_rank : Instr.wf Params.d8 (.statusPoll 0 4) = false ∧ Instr.wf Params.d8 (.statusPoll 0 3) = true := by decide
theorem test_wf_die :
    Instr.wf Params.d8 (.throttleSpacing (8 * 128)) = false ∧ Instr.wf Params.d8 (.throttleSpacing (2 * 8)) = false ∧
    Instr.wf Params.d8 (.throttleSpacing 2) = false ∧ Instr.wf Params.d8 (.throttleSpacing (7 * 128 + 8 + 1)) = true := by
  decide
theorem test_wf_ring : Instr.wf Params.d8 (.ringDrained 64) = false ∧ Instr.wf Params.d8 (.ringDrained 63) = true := by decide
theorem test_wf_doorbell :
    Instr.wf Params.d8 (.dbSq 0 64 0 ⟨0, []⟩) = false ∧ Instr.wf Params.d8 (.dbSq 1 0 0 ⟨0, []⟩) = false ∧
    Instr.wf Params.d8 (.dbSq 0 0 0 ⟨4096, []⟩) = false := by decide
theorem test_wf_tag : Instr.wf Params.d8 (.write 2048) = false ∧ Instr.wf Params.d8 (.write 2047) = true := by decide
theorem test_wf_group : Instr.wf Params.d8 (.grpOwner 0 48 0) = false ∧ Instr.wf Params.d8 (.grpOwner 0 47 0) = true := by decide
theorem test_wf_address : Instr.wf Params.d8 (.entdaa 128) = false ∧ Instr.wf Params.d8 (.entdaa 127) = true := by decide
theorem test_wf_decoder : Instr.wf Params.d8 (.decodeJob 4) = false ∧ Instr.wf Params.d8 (.decodeJob 3) = true := by decide
theorem test_wf_raw :
    Instr.wf Params.d8 (.readPage { rq with src := .od 8 }) = false ∧
    Instr.wf Params.d8 (.readPage { rq with src := .ring 2048 }) = false ∧
    Instr.wf Params.d8 (.readPage { rq with addr := 2 ^ 64 }) = false ∧ Instr.wf Params.d8 (.readPage rq) = true := by decide
theorem test_wf_tender :
    Instr.wf Params.d8 (.fill 64) = false ∧ Instr.wf Params.d8 (.chStart 0 64 1) = false ∧
    Instr.wf Params.d8 (.timerTick 8) = false ∧ Instr.wf Params.d8 (.fill 63) = true := by decide
theorem test_wf_bell :
    Instr.wf Params.d8 (.fallback 8) = false ∧ Instr.wf Params.d8 (.srcCfg 0 1024 0) = false ∧
    Instr.wf Params.d8 (.srcCfg 0 1023 0) = true := by decide

/-! ### Telemetry, time base and the out-of-band transport -/

theorem wit_ShortPulsesAreOnlyCounted :
    49 < domainCount r0.cfg ∧ 7 < r0.cfg.channels ∧ 1 < r0.cfg.targets ∧ onBus i3cOn = true := by decide +kernel

/-- The block after a hold-up report with the sequence number 5. -/
def reported : Dev := { r0 with tele := { r0.tele with lastSeq := some 5 } }

theorem wit_TelemetryInputs :
    (at_ reported).dev.tele.lastSeq = some 5 ∧ reported.tele.lastSeq ≠ some 6 ∧ 0x7FFFFFFF < 0x80000000 ∧
    0x7FFFFFFF ≤ 0x7FFFFFFF ∧ reported.tele.lastSeq.isSome = true ∧ reported.tele.stale = false ∧
    od r0 0x2401 1 < 14001 ∧ (14000 ≤ od r0 0x2401 1 ∧ 14000 ≤ 30000) ∧ r0.tele.above = false ∧
    (30000 < 30001 ∧ r0.tele.beyond = false) ∧ 63 < 64 ∧ (sensor r0 63).stale = false := by decide +kernel

theorem test_holdup_duplicate : od (after (.holdupReport 100 5) reported) 0x2403 7 = 1 := by decide +kernel
theorem test_holdup_fresh : od (after (.holdupReport 0x7FFFFFFF 6) reported) 0x2401 4 = 0x7FFFFFFF := by decide +kernel
theorem test_sensor_out_of_range : od (after (.sensorReport 0 2401) r0) 0x2902 1 = 1 := by decide +kernel

/-- The time base is LOCKED. -/
def locked : Dev := put 0x2010 2 1 r0

/-- A sync of 5,000 is held. -/
def stepping : Dev := put 0x2010 2 3 { r0 with tele := { r0.tele with tbPend := some (5000, 0) } }

theorem wit_TimeBase :
    (r0.tele.tbPend = none ∧ absDiff 1000 r0.ts ≤ od r0 0x2010 3) ∧
    (r0.tele.tbPend = none ∧ od r0 0x2010 3 < absDiff 1001 r0.ts) ∧
    (stepping.tele.tbPend = some (5000, 0) ∧ absDiff 6000 (5000 + (stepping.ts - 0)) ≤ od stepping 0x2010 3) ∧
    (stepping.tele.tbPend = some (5000, 0) ∧ od stepping 0x2010 3 < absDiff 6001 (5000 + (stepping.ts - 0))) ∧
    od locked 0x2010 2 = 1 ∧ od stepping 0x2010 2 = 3 ∧ (od r0 0x2010 2 ≠ 1 ∧ od r0 0x2010 2 ≠ 3) := by decide +kernel

theorem test_sync_sets_the_clock : (after (.tbSync 1000) r0).ts = 1000 ∧ od (after (.tbSync 1000) r0) 0x2010 2 = 1 := by
  decide +kernel
theorem test_sync_held : (after (.tbSync 1001) r0).ts = 0 ∧ od (after (.tbSync 1001) r0) 0x2010 2 = 3 := by decide +kernel
theorem test_holdover_counted : od (after .tbClockLoss locked) 0x2010 6 = 1 := by decide +kernel

/-- A response of 70 bytes that waits for the bus owner, and a message in assembly. -/
def i3cBusy : Dev :=
  { i3cOn with i3c := { i3cOn.i3c with
      rsp := some { dst := 3, tag := 1, body := zeros 70, off := 0, seq := 0 }, asm := some { src := 3, tag := 1, seq := 0, body := [0] } } }

theorem wit_I3cBus :
    onBus i3cOn = true ∧ 127 < 128 ∧ od i3cOn 0x1100 3 ≠ 0 ∧ od i3cOn 0x1100 1 = 1 ∧ 69 ≤ 69 ∧ 68 < 69 ∧
    i3cOn.i3c.rsp = none ∧ i3cBusy.i3c.rsp.isSome = true ∧ onBus i3cBusy = true ∧ od i3cBusy 0x1100 3 ≠ 0 ∧
    i3cBusy.i3c.asm.isSome = true ∧
    ({ i3cOn with i3c := { i3cOn.i3c with ibi := true } } : Dev).i3c.ibi = true ∧ i3cOn.i3c.ibi = false := by decide +kernel

theorem test_entdaa : od (after (.entdaa 0x33) (put 0x1100 3 0 i3cOn)) 0x1100 3 = 0x33 := by decide +kernel
theorem test_private_read_first_packet : (after .i3cPrivateRead i3cBusy).i3c.out.length = 69 := by decide +kernel

/-- A packet to the endpoint 9 from 3, with its flags, and its error code. -/
def pkt (flags : Byte) (body : Bytes) : Bytes := [1, 9, 3, flags] ++ body

/-- The error code of a packet. -/
def pec (p : Bytes) : Byte := crc8 (0x20 :: p)

/-- A transfer-protocol request that reads 0x2000 sub-index 1: its type, vendor, version, command word and argument. -/
def msgBody : Bytes := [0x7F, 0, 0, 0xF1, 0xB1, 1] ++ leBytes 8 (2 ^ 56 + 2 ^ 24 + 0x012000) ++ zeros 8

theorem wit_MctpMessages :
    (onBus i3cOn = true ∧ od i3cOn 0x1100 3 ≠ 0) ∧ eidOk i3cOn 9 true = true ∧ eidOk i3cOn 10 true = false ∧
    (1 ≤ 1 ∧ 8 ≤ 8 ∧ 8 ≤ 254) ∧ (3 < 4 ∧ 255 < 256 ∧ ¬ (3 ≤ 1 ∧ 8 ≤ 255 ∧ 255 ≤ 254)) ∧
    (254 < 256 ∧ 254 ≠ 0xFF ∧ 254 ≠ 0 ∧ 254 ≠ 0x7F) ∧ 255 < 256 ∧ (255 < 256 ∧ 255 ∉ [1, 2, 4, 5, 6]) ∧
    (0 ≠ crc8 (BitVec.ofNat 8 (2 * od i3cOn 0x1100 3) :: pkt 0xC8 msgBody)) ∧
    (pec [] = crc8 (BitVec.ofNat 8 (2 * od i3cOn 0x1100 3) :: []) ∧ assemble i3cOn [] = none) ∧
    ((assemble i3cOn (pkt 0x88 msgBody)).isSome = true ∧ bit (leAt (pkt 0x88 msgBody) 3 1) 6 = false) ∧
    ((assemble i3cOn (pkt 0xC8 [0, 1])).map (fun a => msgOk a.body) = some false ∧ bit (leAt (pkt 0xC8 [0, 1]) 3 1) 6 = true) ∧
    (pec (pkt 0xC8 msgBody) = crc8 (BitVec.ofNat 8 (2 * od i3cOn 0x1100 3) :: pkt 0xC8 msgBody) ∧
      (assemble i3cOn (pkt 0xC8 msgBody)).map (fun a => msgOk a.body) = some true ∧
      bit (leAt (pkt 0xC8 msgBody) 3 1) 6 = true) := by decide +kernel

theorem test_mctp_read : (after (.i3cPrivateWrite (pkt 0xC8 msgBody) (pec (pkt 0xC8 msgBody))) i3cOn).i3c.rsp.isSome = true := by
  decide +kernel
theorem test_endpoint_id : od (after (.setEndpointId ⟨3, 9, 0⟩ 0 254) i3cOn) 0x1100 7 = 254 := by decide +kernel

theorem wit_I3cOffIgnoresTheBus : od r0 0x1100 1 = 0 ∧ Instr.enthdr ∈ [Instr.rstdaa, .enthdr] := by decide +kernel

/-! ### The transfer protocol -/

/-- A dictionary whose device name has 9 bytes. -/
def longName : Dev := { r0 with ods := [(ek 0x1000 3, zeros 9)] }

/-- Masters 0 and 3 are not enabled. -/
def someOff : Dev := put 0x1200 1 0xF6 r0

theorem wit_ReadsAndInfo :
    (odError (oc 0x2000 1) (plainReq 1 0) r0 = none ∧ enabled r0 0 = true) ∧
    odKind r0.cfg 0x2000 1 = some (.u8, .ro) ∧ (odKind r0.cfg 0x1000 3 = some (.str, .const) ∧
      (odBytes (takeCmd (oc 0x1000 3) (plainReq 1 0) r0) 0x1000 3).length ≤ 8) ∧
    8 < (odBytes (takeCmd (oc 0x1000 3) (plainReq 1 0) longName) 0x1000 3).length ∧
    (ek 0x2000 1 ∉ r0.odBad ∧ ek 0x2000 1 ∈ ({ r0 with odBad := [ek 0x2000 1] } : Dev).odBad) ∧
    odKind r0.cfg 0x2000 2 = some (.u8, .wo) ∧ odKind r0.cfg 0x2052 1 = some (.dom, .rw) ∧
    (odDefined r0.cfg 0x2999 = false ∧ odKind r0.cfg 0x2999 1 = none) ∧
    (odDefined r0.cfg 0x2000 = true ∧ odKind r0.cfg 0x2000 0xFF = none) ∧ enabled someOff 0 = false := by decide +kernel

theorem test_exp_read_name : (master (after (.expRead (oc 0x1000 3)) r0) 0).result = 0x32335846 := by decide +kernel
theorem test_exp_read_absent : (master (after (.expRead (oc 0x2999 1)) r0) 0).abort = 0x06020000 := by decide +kernel

/-- A command of master 0 through the window of port 0. -/
def woc (idx sub : Nat) : OdCmd := { oc idx sub with via := some ⟨0, 7, false, false⟩ }

/-- Master 0 has a block read of raw_buf open. -/
def reading : Dev := after (.blkReadInit (oc 0x2050 7)) (putB 0x2050 7 (zeros 5000) r0)

/-- The transfer timed out. -/
def timedOut : Dev := after (.xferTimeout 0) reading

/-- Port 0 is up, with its credits on both sides, and its ingress queue empty. -/
def portUp (d : Dev) : Dev :=
  { d with ports := [(0, { Port.reset with linkUp := true, cr := ⟨8, 8, 8, 8⟩, iCr := ⟨8, 8, 8, 8⟩, minMet := true, rspMet := true })] }

/-- A command of master 0 is under way. -/
def busyOd : Dev := updMaster 0 (fun x => { x with job := some (woc 0x2000 1, plainReq 1 0) }) (portUp r0)

theorem wit_WindowAnswersAndAborts :
    ((woc 0x2000 1).via = some ⟨0, 7, false, false⟩ ∧ Runs (some ⟨0, 7, false, false⟩) 0 (portUp r0) ∧
      odError (woc 0x2000 1) (plainReq 1 0) (entered (woc 0x2000 1).via (portUp r0)) = none) ∧
    (PortTakes busyOd 0 .msg ∧ (master busyOd 0).job.isSome = true) ∧
    ((port { busyOd with ports := [(0, { Port.reset with linkUp := true, iCr := ⟨0, 0, 0, 1⟩, inQ := [.pfWarn] })] } 0).inQ ≠ []) ∧
    (odError (oc 0 0) (plainReq 1 0) r0 = none ∧ enabled r0 0 = true ∧ (0 = 0 ∨ 11 < 0) ∧ 11 < 255 ∧ 255 < 256) ∧
    (master reading 0).xfer.isSome = true ∧ (master r0 0).xfer = none ∧
    (odError (oc 0x2050 7) (plainReq 1 0) timedOut = none ∧ enabled timedOut 0 = true ∧ (master timedOut 0).xfer = none ∧
      (master timedOut 0).closed = some .timeout) ∧
    ((master busyOd 0).job = some (woc 0x2000 1, plainReq 1 0) ∧ odError (woc 0x2000 1) (plainReq 1 0) busyOd = none) := by
  unfold Runs PortTakes
  dsimp only
  decide +kernel

/-- Master 0 has a block write of three bytes of raw_buf open. -/
def writing : Dev := after (.blkWriteInit (oc 0x2050 7) ⟨3, none⟩) r0

/-- All three bytes have come. -/
def written : Dev := after (.blkWriteNext (oc 0x2050 7) 0 [1, 2, 3]) writing

/-- BLK_END with a checksum. -/
def endReq (crc : Nat) : OdReq := { plainReq 9 0 with len := 4, arg := crc }

theorem wit_SegmentedAndBlockTransfers_reads :
    (odError (oc 0x2900 1) (plainReq 1 0) r0 = none ∧ enabled r0 0 = true ∧ odKind r0.cfg 0x2900 1 = some (.dom, .ro)) ∧
    (heldBytes (supersede 0 (takeCmd (oc 0x2900 1) (plainReq 3 0) r0)) 0x2900 1).length ≤ 4096 ∧
    4096 < (heldBytes (supersede 0 (takeCmd (oc 0x2050 7) (plainReq 3 0) reading)) 0x2050 7).length ∧
    ((master reading 0).xfer.map (fun x => (x.key, x.wr, x.seq)) = some (ek 0x2050 7, false, 0) ∧ 256 % 256 = 0 ∧ 1 % 256 ≠ 0) ∧
    ((master r0 0).xfer = none ∧ (master r0 0).closed = none) := by decide +kernel

theorem wit_SegmentedAndBlockTransfers_writes :
    (odError (oc 0x2050 7) (plainReq 1 0) r0 = none ∧ (odKind r0.cfg 0x2050 7).isSome = true ∧
      openAbort (supersede 0 (takeCmd (oc 0x2050 7) { plainReq 6 0 with len := 4, arg := 3 } r0)) 0 0x2050 7 3 true = none) ∧
    (openAbort (supersede 0 (takeCmd (oc 0x2050 7) { plainReq 6 0 with len := 4, arg := 2 ^ 32 - 1 } r0)) 0 0x2050 7
      (2 ^ 32 - 1) true).isSome = true ∧
    ((master writing 0).xfer.map (fun x => (x.key, x.wr, x.seq, min 4096 (x.total - x.got.length))) =
      some (ek 0x2050 7, true, 0, 3)) ∧
    (odError (oc 0x2050 7) (endReq 0) writing = none ∧
      (master writing 0).xfer.map (fun x => (x.got.length, x.total)) = some (0, 3)) ∧
    (odError (oc 0x2050 7) (endReq 0) written = none ∧
      (master written 0).xfer.map (fun x => (x.got.length, x.total, decide (0 = crc32c x.got))) = some (3, 3, false)) ∧
    (odError (oc 0x2050 7) (endReq (crc32c [1, 2, 3])) written = none ∧
      (master written 0).xfer.map (·.got) = some [1, 2, 3] ∧ crc32c [1, 2, 3] < 2 ^ 32 ∧
      plainBytes written.cfg 0x2050 7 = true ∧
      bytesAbort (closeXfer 0 none (takeCmd (oc 0x2050 7) (endReq (crc32c [1, 2, 3])) written)) 0 0x2050 7 [1, 2, 3] = none) ∧
    (odError (oc 0x2050 7) { plainReq 4 0 with len := 2, data := [1, 2] } r0 = none ∧
      bytesAbort (supersede 0 (takeCmd (oc 0x2050 7) { plainReq 4 0 with len := 2, data := [1, 2] } r0)) 0 0x2050 7 [1, 2] =
        none) := by decide +kernel

theorem test_block_write : getB (after (.blkEnd (oc 0x2050 7) (crc32c [1, 2, 3])) written) 0x2050 7 = [1, 2, 3] := by
  decide +kernel
theorem test_crc32c_check_value : crc32c [0x31, 0x32, 0x33, 0x34, 0x35, 0x36, 0x37, 0x38, 0x39] = 0xE3069283 := by decide +kernel

/-- An expedited write of four bytes. -/
def wq (v : Nat) : OdReq := formReq 0 (.exp 4 v)

theorem wit_ExpeditedWrites :
    (4 ∈ [1, 2, 4, 8] ∧ 2 ^ 32 - 1 < 2 ^ (8 * 4) ∧ odError (oc 0x2010 3) (wq 7) r0 = none ∧ enabled r0 0 = true) ∧
    (plainEntry r0.cfg 0x2010 3 = true ∧ numAbort (takeCmd (oc 0x2010 3) (wq 7) r0) 0 0x2010 3 4 7 = none) ∧
    (odError (oc 0x2010 1) (wq 1) r0 = none ∧ (numAbort (takeCmd (oc 0x2010 1) (wq 1) r0) 0 0x2010 1 4 1).isSome = true) ∧
    ((3 ≠ 0 ∧ enabled r0 3 = true ∧ owns r0 3 0x2010 = false ∧ 0 < 3) ∧ ek 0x2010 3 ∉ endKeys) ∧
    owns (put 0x1201 (odGroup 0x2010 + 1) 0 r0) 0 0x2010 = true := by decide +kernel

theorem test_exp_write : od (after (.expWrite (oc 0x2010 3) 4 1234 none) r0) 0x2010 3 = 1234 := by decide +kernel
theorem test_exp_write_range : (master (after (.expWrite (oc 0x2010 1) 4 1 none) r0) 0).abort = 0x06090030 := by decide +kernel

/-! ### Writes that have a row of their own -/

/-- Master 0 has written the first key to raw_unlock. -/
def key1 : Dev := after (.rawUnlock 0 0x5A3C) svc

/-- It has written both. -/
def opened_ : Dev := after (.rawUnlock 0 0xC3A5) key1

theorem wit_WritesTurnedAwayHaveNoEffect :
    (rowEntry r0.cfg (.svcReq 0 1) = some (0, 0x2000, 2, 1) ∧
      numError someOff 0 0x2000 2 (odSize r0.cfg (ek 0x2000 2)) 1 = none ∧ enabled someOff 0 = false) ∧
    (rowEntry r0.cfg (.svcReq 0 4) = some (0, 0x2000, 2, 4) ∧ numError r0 0 0x2000 2 (odSize r0.cfg (ek 0x2000 2)) 4 = none ∧
      enabled r0 0 = true ∧ (numAbort (seen 0 r0) 0 0x2000 2 (odSize r0.cfg (ek 0x2000 2)) 4).isSome = true) := by
  decide +kernel

theorem test_write_of_a_master_not_enabled : (after (.wpLock 0 1) someOff).lan = r0.lan ∧
    od (after (.wpLock 0 1) someOff) 0x2052 2 = 0 ∧ od (after (.wpLock 0 1) someOff) 0x1100 0x10 = 1 := by decide +kernel

/-- A write of ODW_CMD through the window of port 0, and the command it stands for. -/
def win0 : Win := { via := ⟨0, 7, false, false⟩, tag := 1, seq := 0 }

theorem wit_StoringAndEntryWrites :
    (storeRow (.wpLock 0 1) = some (0, 0x2052, 2, 1) ∧ Accepted r0 0 0x2052 2 1) ∧
    (plainEntry r0.cfg 0x2010 3 = true ∧ Accepted r0 0 0x2010 3 (2 ^ 32 - 1)) ∧
    (Runs (some win0.via) 0 (portUp r0) ∧ odError (woc 0x2010 3) (wq 5) (entered (some win0.via) (portUp r0)) = none ∧
      enabled (entered (some win0.via) (portUp r0)) 0 = true ∧
      numAbort (takeCmd (woc 0x2010 3) (wq 5) (entered (some win0.via) (portUp r0))) 0 0x2010 3 4 5 = none) ∧
    ((master r0 0).job = none ∧ (master busyOd 0).job.isSome = true) ∧
    (4088 + 8 ≤ 4096 ∧ (8 = 4 ∨ 8 = 8) ∧ PortTakes busyOd win0.via.p .msg) := by
  unfold Accepted Runs PortTakes
  dsimp only
  decide +kernel

theorem test_window_argument : (master (after (.odEntryWrite 0 none .arg 0x1122) r0) 0).arg = 0x1122 := by decide +kernel

/-- Master 0 owns the group of 0x2010. -/
def owning : Dev := put 0x1201 (odGroup 0x2010 + 1) 0 r0

theorem wit_MastersAndOwners :
    (Accepted owning 7 0x1200 1 0xFE ∧ (bit (od owning 0x1200 1) 0 && !bit 0xFE 0) = true ∧
      (bit (od owning 0x1200 1) 7 && !bit 0xFE 7) = false ∧ groupDefined owning.cfg (odGroup 0x2010) = true ∧
      grpOwner owning (odGroup 0x2010) = 0 ∧ 8 ≤ grpOwner owning 0) ∧
    (odGroup 0x2010 < 0x30 ∧ Accepted owning 0 0x1201 (odGroup 0x2010 + 1) 0xFF) := by
  unfold Accepted
  decide +kernel

theorem test_release : grpOwner (after (.masterEnable 7 0xFE) owning) (odGroup 0x2010) = 0xFF := by decide +kernel

theorem wit_ClearingWrites :
    (0x290205 ≠ 0x210901 ∧ odKind r0.cfg (0x290205 / 256) (0x290205 % 256) = some (.u32, .ro) ∧
      odBase r0.cfg 0x2902 = some (0x2902, 0) ∧ 0x2902 ≠ 0x2650 ∧ Accepted r0 0 (0x290205 / 256) (0x290205 % 256) 0) ∧
    (enabled r0 0 = true ∧ bytesAbort (seen 0 r0) 0 0x2109 1 (leBytes 64 0) = none ∧ holder r0 0 0x210901 = none) ∧
    (tabWf (fun _ => LaneQ.reset) r0.net.lanes = true ∧ Accepted r0 0 0x2911 2 1) ∧ Accepted r0 0 0x2800 0x0B (2 ^ 64 - 1) ∧
    (0xFFFF < 2 ^ 32 ∧ Accepted r0 0 0x2900 4 0xFFFF) := by
  unfold Accepted
  decide +kernel

theorem test_counter_clear : od (after (.counterClear 0 0x290205 0) (put 0x2902 5 9 r0)) 0x2902 5 = 0 := by decide +kernel

/-- A flush runs. -/
def flushing : Dev := put 0x2400 1 3 svc

/-- A soft reset drains. -/
def draining_ : Dev := { svc with rst := { svc.rst with kind := some .soft } }

/-- Channel 7 is excluded. -/
def excluded : Dev := put 0x2107 2 0x80 svc

theorem wit_ServiceAndResetWrites :
    Accepted (put 0x2000 1 3 r0) 0 0x2000 2 3 ∧ Accepted svc 0 0x2000 2 2 ∧ Accepted (put 0x2000 1 0 svc) 0 0x2000 2 1 ∧
      Accepted svc 0 0x2000 3 0xB10C ∧
    (Accepted flushing 0 0x2000 3 0xB10C ∧ od flushing 0x2400 1 = 3) ∧ Accepted draining_ 0 0x2000 3 0xB10C ∧
    Accepted svc 0 0x2000 4 0x50F7 ∧ Accepted draining_ 0 0x2000 4 0x50F7 ∧ Accepted flushing 0 0x2000 4 0x50F7 ∧
    (7 < 32 ∧ Accepted excluded 0 0x2000 5 (2 ^ 7)) := by
  unfold Accepted
  decide +kernel

theorem test_block_reset_starts : od (after (.rstBlock 0 0xB10C) svc) 0x2000 0x0B = 1 ∧
    od (after (.rstBlock 0 0xB10C) svc) 0x2000 6 = 2 := by decide +kernel

theorem wit_ExclusionWrites :
    (enabled svc 0 = true ∧ bytesAbort (seen 0 svc) 0 0x2107 1 (zeros 512) = none ∧ holder svc 0 0x210701 = none) ∧
    (bytesAbort (seen 0 svc) 0 0x2107 1 [0]).isSome = true ∧ Accepted svc 0 0x2107 2 0x80 ∧ Accepted svc 0 0x2107 5 1 ∧
    bit 1 0 = true := by
  unfold Accepted
  decide +kernel

theorem wit_LanternQuiescing :
    (Accepted svc 0 0x2100 6 1 ∧ od svc 0x2100 8 = 2) ∧ Accepted (put 0x2100 8 4 svc) 0 0x2100 6 1 ∧
    (Accepted (put 0x2100 8 3 svc) 0 0x2100 6 0 ∧ od (put 0x2100 8 3 svc) 0x2100 8 = 3) ∧
    od (put 0x2100 8 4 svc) 0x2100 8 = 4 ∧
    (od (put 0x2100 8 3 svc) 0x2100 8 = 3 ∧ (∀ c ∈ svc.cmds, c.2.st = .met) ∧ svc.lan.wjobs = [] ∧ svc.lan.rjobs = [] ∧
      svc.lan.relocs = [] ∧
      svc.lan.want = [] ∧ svc.lan.misses = []) ∧ od svc 0x2100 8 ≠ 3 := by
  unfold Accepted
  decide +kernel

theorem test_quiesce : od (after (.ltQuiesce 0 1) svc) 0x2100 8 = 3 := by decide +kernel

theorem wit_ClaspWrites :
    Accepted svc 0 0x2400 3 1 ∧ Accepted svc 0 0x2400 3 0 ∧ Accepted svc 0 0x2400 2 0 ∧
    (Accepted svc 0 0x2400 2 1 ∧ od svc 0x2000 1 = 1 ∧ svc.clasp.flush = none ∧ od svc 0x2400 1 ≠ 4) ∧
    Accepted (put 0x2400 1 4 svc) 0 0x2400 2 1 := by
  unfold Accepted
  decide +kernel

/-- A geometry. -/
def geom0 : Geom := ⟨2208, 576, 1024, 4, 7⟩

/-- Every die present and idle. -/
def idleDies (d : Dev) : Dev :=
  { d with dies := (allDies d.cfg).map (fun n => (n, { Die.reset with st := .idle, geom := some geom0 })) }

/-- The die 0 of channel 7 has failed. -/
def failed7 : Dev := { svc with dies := [(dieAt svc.cfg 7 0, { Die.reset with st := .failed })] }

theorem wit_ChannelWrites :
    (7 < svc.cfg.channels ∧ Accepted failed7 0 (chIdx 7 3) 8 0 ∧ (die failed7 (dieAt failed7.cfg 7 0)).st = .failed ∧
      dieByte failed7 7 2 0 = 0) ∧
    (Accepted (setDieByte 7 2 3 5 svc) 0 (chIdx 7 3) 8 3 ∧ dieByte (setDieByte 7 2 3 5 svc) 7 2 3 ≠ 0) ∧
    Accepted svc 0 (chIdx 7 3) 5 1 ∧ Accepted (idleDies svc) 0 (chIdx 7 5) 7 1 ∧ Accepted svc 0 (chIdx 7 0x0A) 1 1 ∧
    (Accepted svc 0 (chIdx 7 0x0B) 1 2 ∧ 1 < svc.cfg.targets ∧ bit 2 1 = true) := by
  unfold Accepted
  decide +kernel

/-- A command under tag 5 on ring 0. -/
def cmd5 (c : Cmd) (d : Dev) : Dev := { d with cmds := [(5, c)] }

/-- A WRITE of one sector, waiting. -/
def wr1 : Cmd := { blankCmd 0 1 false with opc := 1, cid := 7, nsec := 1, dlen := 4096 }

/-- A RAW command that reads a status. -/
def cmdRaw : Cmd := { wr1 with opc := 15, nsec := 0, dlen := 0, q5 := 4 }

/-- The raw path is open. -/
def rawOpen : Dev := { svc with rawp := { svc.rawp with lock := .opened } }

/-- The address of die 0 has been written to raw_addr. -/
def rawAddr : Dev := rowNum 0 none 0x2050 3 0 rawOpen

theorem wit_RawPathLock :
    (Accepted svc 0 0x2050 1 0x5A3C ∧ svc.rawp.lock = .locked) ∧ (Accepted key1 0 0x2050 1 0xC3A5 ∧ key1.rawp.lock = .key1 0) ∧
    (Accepted key1 3 0x2050 1 0x5A3C ∧ Accepted key1 3 0x2050 1 0xC3A5) ∧ (Accepted opened_ 0 0x2050 1 0 ∧
      opened_.rawp.lock = .opened) ∧
    (rawOpen.rawp.req = none ∧ rawOpen.rawp.todo = []) ∧ od opened_ 0x2050 8 ≠ 0 ∧ od (put 0x2050 8 0 svc) 0x2050 8 = 0 := by
  unfold Accepted
  decide +kernel

theorem wit_RawOperations :
    (rawRow rq 4 = some (.readStatus rq) ∧ rq.src = .od 0 ∧ rq.addr < 2 ^ 45 ∧ rq.rlen < 2 ^ 16 ∧ rq.rfa < 256 ∧ rq.rsvd = false ∧
      Accepted rawOpen 0 0x2050 3 rq.addr ∧ Accepted rawAddr 0 0x2050 2 (rawWord 4 rq)) ∧
    (rawRow { rq with src := .ring 5 } 4 = some (.readStatus { rq with src := .ring 5 }) ∧
      cmd? (cmd5 { cmdRaw with st := .running, left := 1 } rawOpen) 5 = some { cmdRaw with st := .running, left := 1 } ∧
      cmdRaw.opc = 15 ∧ cmdRaw.q5 % 256 = 4) ∧
    (cmd? (cmd5 cmdRaw rawOpen) 5 = some cmdRaw ∧ canStart (cmd5 cmdRaw rawOpen) cmdRaw = true ∧ cmdRaw.fails = [] ∧
      rawOk (cmd5 cmdRaw rawOpen) 4 (rawFields (.ring 5) cmdRaw.q4 cmdRaw.q5) = true ∧ cmdRaw.dlen = 0) ∧
    canStart (cmd5 cmdRaw svc) cmdRaw = true := by
  unfold Accepted
  decide +kernel

theorem test_raw_locked : (cmd? (after (.raw 5) (cmd5 cmdRaw svc)) 5).map (·.fails) = some [0x0104] := by decide +kernel

/-- A Locket file of one word whose header is right. -/
def locket : Bytes :=
  leBytes 4 0x544B434C ++ leBytes 2 1 ++ leBytes 2 256 ++ [3, 0, 0, 0] ++ leBytes 4 (od r0 0x6000 1) ++ leBytes 4 0 ++
    leBytes 4 8 ++ zeros 240

/-- The block in START with that file. -/
def loadable : Dev := putB 0x6001 1 locket (put 0x2000 1 0 svc)

/-- A load runs and asks for the word after those latched. -/
def asks (sel : Nat) (ws : List (BitVec 64)) : Dev :=
  { loadable with loader := { loadable.loader with busy := true, sel := sel, req := true, words := ws } }

theorem wit_LocketLoading :
    (Accepted loadable 0 0x6001 2 1 ∧ hdrCause loadable = 0 ∧ loadable.loader.req = false ∧ loadable.loader.ackHigh = false) ∧
    (Accepted (put 0x2000 1 0 svc) 0 0x6001 2 1 ∧ hdrCause (put 0x2000 1 0 svc) ≠ 0) ∧
    ((asks 1 []).loader.req = true ∧ (asks 1 []).loader.ackHigh = false ∧ (asks 1 []).loader.busy = true ∧
      ((asks 1 []).loader.words ++ [0]).length < 6) ∧
    ((asks 1 (List.replicate 5 0)).loader.words ++ [0]).length = 6 ∧
    ((asks 0 (List.replicate 3 0)).loader.sel ≠ 1 ∧ ((asks 0 (List.replicate 3 0)).loader.words ++ [0]).length = 4) ∧
    r0.loader.req = false ∧ r0.loader.busy = false ∧ r0.loader.ackHigh = false := by
  unfold Accepted
  decide +kernel

theorem test_key_error : od (after (.keyWordAck 0 true) (asks 1 [])) 0x6001 4 = 6 := by decide +kernel

/-- Channel 7's sequencer is to install the copy, to leave its patches, or to rewrite a word. -/
def patching : Dev :=
  { svc with seqs := [(7, { Seq.reset with install := true, leave := true, rewrite := [0] })],
             loader := { svc.loader with copy := [{ level := 0, sig := 0, words := [(0, 5)], regions := [], disp := [] }] } }

theorem wit_PatchesAtABoundary :
    Accepted svc 0 0x6000 0x0A 1 ∧
    (7 < patching.cfg.channels ∧ 7 < 32 ∧ quietBoundary patching 7 = true ∧ (seq patching 7).install = true ∧
      (seq patching 7).leave = true ∧ (seq patching 7).rewrite = [0] ∧
      (copyWords patching).find? (fun x => x.1 == 0) = some (0, 5)) ∧ quietBoundary r0 7 = false := by
  unfold Accepted
  decide +kernel

/-- Tender's channel 63 is a programmed one. -/
def prog : Dev := put 0x2500 2 (2 ^ 63) svc

/-- A descriptor that fills 64 bytes of host memory, the last of its chain. -/
def fillDesc : TDesc :=
  { parseDesc (zeros 64) with op := 1, eoc := true, dst := 4096, dLen := 64, sLen := 64 }

/-- Channel 63 in a state, with that descriptor. -/
def running (st : Nat) (c : TCh) : Dev :=
  putChState 63 st { prog with tender := { prog.tender with chs := [(63, { c with desc := some (4096, fillDesc) })] } }

theorem wit_TenderWrites :
    (63 < 64 ∧ Accepted prog 0 (tcIdx 63 0) 2 1) ∧ (Accepted prog 0 (tcIdx 63 0) 3 1 ∧ chState prog 63 ∉ [1, 2, 3, 4]) ∧
    (Accepted (putChState 63 1 prog) 0 (tcIdx 63 0) 3 1 ∧ chState (putChState 63 1 prog) 63 ∈ [1, 2, 3, 4] ∧
      (tch (putChState 63 1 prog) 63).desc = none) ∧
    (Accepted (running 4 { TCh.reset with departed := true }) 0 (tcIdx 63 0) 3 1 ∧
      (tch (running 4 { TCh.reset with departed := true }) 63).desc.isSome = true ∧
      (tch (running 4 { TCh.reset with departed := true }) 63).departed = true) ∧
    (chState (running 3 TCh.reset) 63 ∈ [1, 2, 3, 4] ∧ (tch (running 3 TCh.reset) 63).departed = false) ∧
    (7 < 8 ∧ Accepted prog 0 (0x2510 + 7) 1 1 ∧ Accepted prog 0 (0x2510 + 7) 1 0) := by
  unfold Accepted
  decide +kernel

/-- A descriptor as it lies in memory: a fill of one line of 64 bytes, with a trigger kind and source. -/
def descBytes (tkind tsrc : Nat) : Bytes :=
  leBytes 8 1 ++ leBytes 8 (1 + 2 ^ 40 * tkind + 2 ^ 42 * tsrc) ++ leBytes 8 0 ++ leBytes 8 4096 ++ leBytes 8 63 ++
    leBytes 8 63 ++ zeros 16

/-- Channel 63 reads a descriptor, which has arrived. -/
def arrived (tkind tsrc : Nat) : Dev :=
  putChState 63 1 { prog with tender := { prog.tender with
    chs := [(63, { TCh.reset with ahead := some (4096, descBytes tkind tsrc) })] } }

/-- Timer 7 ticks for a channel that waits on it. -/
def ticking : Dev := after (.tmrEnable 0 7 1) prog

theorem wit_TriggersAndChains :
    (63 < 64 ∧ (tch (arrived 0 0) 63).ahead = some (4096, descBytes 0 0) ∧ chState (arrived 0 0) 63 = 1 ∧
      (descBytes 0 0).length = 64 ∧ badDesc (descBytes 0 0) = false ∧ (parseDesc (descBytes 0 0)).tkind ≠ 1 ∧
      trigHolds (arrived 0 0) 63 (parseDesc (descBytes 0 0)) = true) ∧
    (badDesc (descBytes 1 7) = false ∧ ¬ (parseDesc (descBytes 1 7)).tkind ≠ 1) ∧ (tch prog 63).ahead = none ∧
    (7 < 8 ∧ ((ticking.tender.tmrs.find? (fun x => x.1 == 7)).map (·.1)) = some 7) ∧
    (∀ x ∈ prog.tender.tmrs, x.1 ≠ 7) := by decide +kernel

theorem test_descriptor_waits : chState (after (.descriptorFetched 63) (arrived 1 7)) 63 = 2 := by decide +kernel
theorem test_descriptor_runs : chState (after (.descriptorFetched 63) (arrived 0 0)) 63 = 3 := by decide +kernel
theorem test_tick : od (after (.timerTick 7) ticking) 0x2517 4 = nextSeq 0x10000 % 2 ^ 32 := by decide +kernel


/-- A granule of the command under tag 5: one sector of the host's, at the start of granule 0. -/
def job1 : WJob :=
  { id := 1, tag := some 5, reloc := none, no := 1, gran := 0, first := 0, nsec := 1, mask := 1, host := 1, landed := 0, bad := 0,
    key := ⟨0, false, 0, false, 0xFFF⟩, life := 0, temp := 0, stream := 0, rset := 0, sb := [0], merging := false, reads := 0,
    given := false, pieces := [], gen := 0, wseq := 0, spaceWait := false, dead := false, src := 0, metas := [], hold := [], driven := 0 }

/-- The command under tag 5 runs, with that granule. -/
def writing5 (w : WJob) : Dev := cmd5 { wr1 with st := .running, left := 1 } (updLan (fun l => { l with wjobs := [w] }) svc)

/-- Channel 63 runs a copy, a fill or a comparison of 64 bytes. -/
def moving (op : Nat) : Dev :=
  let c : TCh := { TCh.reset with desc := some (4096, { fillDesc with op := op }) }
  putChState 63 3 { prog with ports := [(0, { Port.reset with linkUp := true })], tender := { prog.tender with chs := [(63, c)] } }

theorem wit_TenderTransfers :
    ((cmd? (writing5 job1) 5).isSome = true ∧ (pickTch (writing5 job1) (segPort svc.cfg (od svc (rgIdx 0 0) 3))).isSome = true ∧
      (nextTransfer 5 wr1 (writing5 job1)).isSome = true ∧ nextTransfer 5 wr1 (cmd5 wr1 svc) = none) ∧
    (∀ op ∈ [0, 1, 2], (tch (moving op) 63).desc = some (4096, { fillDesc with op := op }) ∧ chState (moving op) 63 = 3 ∧
      (tch (moving op) 63).departed = false ∧ halfOn (moving op) 63 = true ∧ (opRowOf 63 op).isSome = true) ∧
    ((pathTurn 63 (askAll 63 (moving 1))).1 = true) ∧
    (63 < 64 ∧ (tch (running 4 { TCh.reset with departed := true }) 63).desc = some (4096, fillDesc) ∧
      chState (running 4 { TCh.reset with departed := true }) 63 = 4 ∧ fillDesc.eoc = true ∧
      (tch (running 4 { TCh.reset with departed := true }) 63).land = false ∧
      (tch (running 4 { TCh.reset with departed := true }) 63).fail < 4) ∧
    ((tch (running 4 { TCh.reset with departed := true, land := true, unland := 1 }) 63).land = true ∧
      (tch (running 4 { TCh.reset with departed := true, land := true, unland := 1 }) 63).unland ≠ 0) ∧
    chState prog 63 ∉ [3, 4] := by
  decide +kernel

theorem test_descriptor_completes : chState (after (.descriptorComplete 63) (running 4 { TCh.reset with departed := true })) 63 = 5 := by
  decide +kernel

/-! ### Bell -/

/-- Bell with an enabled source 1023 of priority 15 that takes outside doorbells, in a state, for target 7, by wire. -/
def bell (st : SrcSt) (t : Tgt) : Dev :=
  { put (0x2640 + 1023 / 64) (1023 % 64 + 1) (2 ^ 31 + 2 ^ 30 + 0x70F) (put 0x2617 1 1 svc) with
    srcs := [(1023, { Src.reset with st := st })], tgts := [(7, t)] }

/-- A run of that source at a slot. -/
def runAt (slot : Nat) : Run := { src := 1023, slot := slot, acted := false, failed := false, more := 0, prio := 15 }

/-- The source in service on top of target 7's stack. -/
def served : Dev := bell .inService { Tgt.reset with stack := [(1023, 15)], irq := true }

theorem wit_BellWritesAndDoorbells :
    (7 < 8 ∧ Accepted served 0 (0x2610 + 7) 7 1023 ∧ isOn served (domBell served.cfg) = true ∧
      isOn r0 (domBell r0.cfg) = false ∧ Accepted r0 0 (0x2610 + 7) 7 1023) ∧
    (Accepted (bell .pending { Tgt.reset with frozen := true }) 0 (0x2610 + 7) 9 1 ∧
      (tgt (bell .pending { Tgt.reset with frozen := true }) 7).frozen = true ∧ Accepted served 0 (0x2610 + 7) 9 1) ∧
    (1023 < 1024 ∧ Accepted svc 0 (0x2640 + 1023 / 64) (1023 % 64 + 1) (2 ^ 31)) ∧
    Accepted svc 0 (0x2650 + 1023 / 64) (1023 % 64 + 1) 0 ∧
    (PortTakes (portUp svc) 0 .msg ∧ isOn (portUp svc) (domBell svc.cfg) = true) ∧
    ((port (portUp r0) 0).linkUp = true ∧ (port (portUp r0) 0).iCr.msg ≠ 0 ∧ isOn (portUp r0) (domBell r0.cfg) = false) ∧
    ({ svc with dbq := [.unit 1023] } : Dev).dbq = [.unit 1023] := by
  unfold Accepted PortTakes
  decide +kernel

theorem test_eoi_pops : (tgt (after (.tgtEoi 0 7 1023) served) 7).stack = [] ∧
    (src (after (.tgtEoi 0 7 1023) served) 1023).st = .idle := by
  decide +kernel
theorem test_eoi_freezes : (tgt (after (.tgtEoi 0 7 1022) served) 7).frozen = true := by decide +kernel
theorem test_external_doorbell : (src (after (.blDb 0 1023 0) (portUp (bell .idle Tgt.reset))) 1023).st = .pending := by decide +kernel

/-- A delivery word of target 7 has been sent on port 0 with txid 3. -/
def sent7 : Dev :=
  { bell .pending { Tgt.reset with run := some { runAt 1 with acted := true } } with
    ports := [(0, { Port.reset with outst := [{ txid := 3, own := .bell 7 0x10000 1, op := 4, addr := 0, len := 8, departed := true }] })] }

/-- Bell with target 7 awake and a run at a slot. -/
def bellRun (st : SrcSt) (slot : Nat) : Dev := setAwake 7 true (bell st { Tgt.reset with run := some (runAt slot) })

theorem wit_DeliveryRuns :
    ((tgt (setAwake 7 true (bell .pending Tgt.reset)) 7).run = none ∧ (tgt (setAwake 7 true (bell .pending Tgt.reset)) 7).frozen = false ∧
      isOn (setAwake 7 true (bell .pending Tgt.reset)) (domBell svc.cfg) = true ∧
      chooseSrc (setAwake 7 true (bell .pending Tgt.reset)) 7 = some (1023, 15)) ∧
    chooseSrc (setAwake 7 true (bell .idle Tgt.reset)) 7 = none ∧
    ((tgt (bellRun .pending 24) 7).run = some (runAt 24) ∧ (runAt 24).slot < 25 ∧
      eligible (bellRun .pending 24) 7 1023 = true ∧ eligible (bellRun .idle 24) 7 1023 = false) ∧
    ((tgt (bellRun .pending 1) 7).awake = true ∧ (runAt 1).acted = false ∧ od (bellRun .pending 1) (0x2610 + 7) 1 = 1 ∧
      od (put 0x2617 1 0 (bellRun .pending 1)) (0x2610 + 7) 1 ≠ 1 ∧ od (bellRun .pending 1) (0x2610 + 7) 3 % 8 = 0) ∧
    ((tgt (bellRun .pending 25) 7).run = some (runAt 25) ∧ (runAt 25).slot = 25 ∧ eligible (bellRun .pending 25) 7 1023 = true) ∧
    (((port sent7 0).owns 3).map (·.own) = some (.bell 7 0x10000 1) ∧ od sent7 (0x2610 + 7) 0x0A = 0x10000 ∧
      (tgt sent7 7).run.map (fun r => (r.slot, r.acted, r.failed)) = some (1, true, false)) ∧
    ((tgt svc 7).run = none ∧ (port svc 0).owns 3 = none) := by decide +kernel

theorem test_run_starts : (tgt (after (.deliveryRunStart ⟨7, false⟩) (bell .pending Tgt.reset)) 7).run.map (·.slot) = some 1 ∧
    (tgt (after (.deliveryRunStart ⟨7, true⟩) (bell .pending Tgt.reset)) 7).stack = [(1023, 15)] := by
  decide +kernel
theorem test_fallback_redirects :
    (src (after (.fallback 7) (bell .pending { Tgt.reset with run := some (runAt 25) })) 1023).redir = true := by decide +kernel

/-! ### Power, resets and ports -/

/-- A block reset in a state of rst_state. -/
def resetting (st : Nat) : Dev :=
  put 0x2000 0x0B st { idleDies svc with rst := { svc.rst with kind := some .block, cause := 2 } }

/-- Channel 7 is to identify its targets. -/
def identifying : Dev := { idleDies svc with chans := [(7, { Chan.reset with idTgts := [0, 1] })] }

theorem wit_PowerAndResets :
    (r0.doms = [] ∧ r0.pwrq = []) ∧ svc.doms ≠ [] ∧
    (0 < svc.cfg.ports ∧ isOn svc (domPort svc.cfg 0) = true ∧ (port svc 0).framing = false) ∧
    ((resetting 1).rst.kind = some .block ∧ od (resetting 1) 0x2000 0x0B = 1 ∧
      diesEnded (resetting 1) (allDies svc.cfg) = true ∧ (resetting 1).clasp.commits = []) ∧ svc.rst.kind = none ∧
    ((resetting 2).rst.kind = some .block ∧ od (resetting 2) 0x2000 0x0B = 2) ∧
    (7 < svc.cfg.channels ∧ 7 ∉ identifying.rst.chans ∧ (chan identifying 7).idTgts ≠ [] ∧ chanOn identifying 7 = true) ∧
    (chan svc 7).idTgts = [] := by decide +kernel

theorem test_power_wakes : (dom (after .muReady r0) (domBell r0.cfg)).st = .waking := by decide +kernel
theorem test_reset_done : od (after .resetDone (resetting 2)) 0x2000 7 = 1 := by decide +kernel

/-- The last domain, Bell's, in a state. -/
def dom49 (y : Dom) : Dev := { svc with doms := svc.doms.map (fun x => if x.1 = 49 then (49, y) else x) }

/-- It goes down to RET. -/
def going : Dom := { onDom with st := .goingDown, tgt := .ret }

/-- An attempt to wake it. -/
def waking49 (n : Nat) : Dom := { onDom with st := .waking, attempt := n }

theorem wit_DomainRequestsAndTransitions :
    (49 < domainCount svc.cfg ∧ 49 < 256 ∧ 2 < 3 ∧ Accepted svc 0 (kpIdx 0x2710 49) (kpSub 49) 2) ∧
    Accepted svc 0 (kpIdx 0x2710 49) (kpSub 49) 0 ∧
    ((dom (dom49 { onDom with st := .drain, tgt := .off }) 49).st = .drain ∧
      drained (dom49 { onDom with st := .drain, tgt := .off }) 49 = true) ∧ (dom svc 49).st ≠ .drain ∧
    (dom (dom49 going) 49).st = .goingDown ∧
    ((dom (dom49 (waking49 1)) 49).st = .waking ∧ (dom (dom49 (waking49 1)) 49).attempt ≤ 1) ∧
    1 < (dom (dom49 (waking49 2)) 49).attempt ∧ (dom (dom49 { onDom with st := .wakeRetry }) 49).st = .wakeRetry ∧
    (dom svc 49).st = .on ∧ (dom (dom49 { onDom with st := .ret }) 49).st = .ret ∧
    ((dom (dom49 { onDom with st := .failed }) 49).st ≠ .on ∧ (dom (dom49 { onDom with st := .failed }) 49).st ≠ .ret) ∧
    (1 < 2 ∧ (dom r0 49).st ≠ .on) := by
  unfold Accepted
  decide +kernel

theorem test_down : (dom (after (.domainDownAck 49) (dom49 going)) 49).st = .ret := by decide +kernel
theorem test_wake_retry : (dom (after (.wakeTimeout 49) (dom49 (waking49 1))) 49).st = .wakeRetry := by decide +kernel
theorem test_pg_fall_in_ret : (dom (after (.pgFall 49) (dom49 { onDom with st := .ret })) 49).st = .off := by decide +kernel

/-- Port 0 with its link up and a READ of txid 9 out. -/
def linked : Dev :=
  let o : Outst := { txid := 9, own := .chRec 63 0, op := 2, addr := 4096, len := 32, departed := true }
  { svc with ports := [(0, { Port.reset with linkUp := true, cr := ⟨8, 16, 32, 8⟩, iCr := ⟨8, 16, 32, 8⟩, rspMet := true, outst := [o] })] }

/-- The fabric holds no credit of port 0, or a request waits there. -/
def dryPort : Dev := { svc with ports := [(0, { Port.reset with linkUp := true })] }
def heldPort : Dev := { svc with ports := [(0, { Port.reset with linkUp := true, iCr := ⟨1, 1, 1, 1⟩, inQ := [.pfWarn] })] }

theorem wit_RequestsTurnedAwayAndEnded :
    (({ hd with op := 2 } : ReqHdr).cls = .req ∧ ({ hd with op := 2 } : ReqHdr).op = 2 ∧ 0 < hd.len ∧ PortTakes linked 0 .req) ∧
    ((port svc 0).linkUp = false ∧ ((port dryPort 0).linkUp = true ∧ (port dryPort 0).iCr.get .req = 0) ∧
      ((port heldPort 0).linkUp = true ∧ (port heldPort 0).iCr.get .req ≠ 0 ∧ (port heldPort 0).inQ ≠ [])) ∧
    ¬ (hd.cls = .req ∧ hd.op = 2) ∧ (opOk .req 15 = false ∧ opOk .msg 15 = false ∧ opOk .rsp 0 = false ∧ opOk .req 1 = true) ∧
    (PortTakes linked 0 .msg ∧ (port linked 0).iCr.rsp ≠ 0) ∧
    (windowStatus linked { hd with addr := 0xFFFFFF } = some 2 ∧ opOk hd.cls hd.op = true ∧ hd.cls ≠ .rsp) ∧
    (windowStatus linked { hd with addr := 0x10020 } = none ∧ hd.cls = .req) ∧
    (windowStatus linked { hd with cls := .msg, op := 4, addr := 0x10000, len := 8, msz := true } = none ∧ opOk .msg 4 = true) ∧
    (framed 0 { rs with txid := 9, data := zeros 32, lenM1 := 31, flits := 1 } linked ∧ ¬ framed 0 { rs with txid := 9 } dryPort) ∧
    ((port linked 0).owns 9).isSome = true ∧ (∀ t q k, ((port linked 0).owns 9).map (·.own) ≠ some (.bell t q k)) ∧
    ((port sent7 0).owns 3).map (·.own) = some (.bell 7 0x10000 1) ∧ (port svc 0).owns 4095 = none := by
  unfold PortTakes framed
  refine ⟨by decide +kernel, by decide +kernel, by decide, by decide +kernel, by decide +kernel, by decide +kernel,
    by decide +kernel, by decide +kernel, by decide +kernel, by decide +kernel, fun t q k h => ?_, by decide +kernel, by decide +kernel⟩
  simp [linked, port, Port.owns, tabGet] at h

theorem test_write_refused : od (after (.inboundWriteRefused 0 { hd with op := 2, len := 64 }) linked) 0x5000 0x0D = 64 := by
  decide +kernel
theorem test_init_timeout : (port (after (.initTimeout 0 9) linked) 0).quar = [9] := by decide +kernel

theorem wit_LinkAndCredits :
    0 < 16 ∧ 15 < 16 ∧ (port linked 0).linkUp = true ∧ (port svc 0).linkUp = false ∧
    ((port { svc with ports := [(0, { Port.reset with linkUp := true, minMet := false, under := true })] } 0).under = true) ∧
    ((port { svc with ports := [(0, { Port.reset with framing := true })] } 0).framing = true ∧ svc.tele.vdd = true) ∧
    ((port linked 0).minMet = false ∧ (port linked 0).under = false) := by decide +kernel

theorem test_framing : od (after (.framingViolation 0) linked) 0x5000 9 = 1 ∧
    (port (after (.framingViolation 0) linked) 0).outst = [] := by
  decide +kernel

/-! ### Rings and their commands -/

/-- Ring 63 ACTIVE on port 0 with queues of 16 entries, three of them new. -/
def ringOn : Dev :=
  put (rgIdx 63 1) 3 3 (put (rgIdx 63 1) 1 1 (put (rgIdx 63 0) 1 1 (put (rgIdx 63 0) 7 16 (put (rgIdx 63 0) 6 16
    { svc with lan := { svc.lan with cap := 1024, regions := cfgRegions r0 } }))))

/-- A FLUSH entry of ring 63, command ID 7. -/
def flushEnt : Bytes := leBytes 8 (4 + 2 ^ 32 * 7) ++ zeros 56

/-- Port 0 of that block is up. -/
def ringUp : Dev := portUp ringOn

/-- Its fetch has brought entries, or is to be dropped. -/
def fetchedBy (l : List Bytes) (drop : Bool) : Dev :=
  { ringOn with rings := [(63, { Ring.reset with fetching := l.length, fetched := l, discard := drop })] }

/-- A COMMIT entry of ring 63 for the group ID 1, whose group is open. -/
def commitEnt : Bytes := leBytes 8 (5 + 2 ^ 24 + 2 ^ 32 * 8) ++ zeros 56
def openGrp : Dev :=
  { fetchedBy [commitEnt] false with
    groups := [{ id := 3, ring := 63, cgrp := 1, members := 1, entries := 0, left := 0, aborted := false, close := none, chg := [] }] }

theorem wit_RingDoorbellsAndFetches :
    63 < r0.cfg.rings ∧ r0.cfg.rings ≤ 64 ∧ 63 < ringOn.cfg.rings ∧ 63 < 256 ∧
    (PortTakes ringUp 0 .msg ∧ dbWaits 63 ringUp = false ∧ PortTakes (portUp r0) 0 .msg ∧ dbWaits 63 (portUp r0) = true) ∧
    (dbRow 0 63 0 [] (some 5) none).isSome = true ∧ (dbRow 1 63 0 [⟨0, 0, some 5, none⟩] none (some 1)).isSome = true ∧
    (0 < ringOn.cfg.ports ∧ mayFetch ringOn = true ∧ freeTags ringOn ≠ 0 ∧ pickRing ringOn 0 = some 63) ∧
    (r0.cfg.ports ≤ 1 ∧ mayFetch r0 = false ∧ pickRing svc 0 = none) ∧
    fetchable ringOn (od ringOn (rgIdx 63 0) 3) 63 = true ∧ (ring ringOn 63).fetched = [] ∧
    (ring (fetchedBy [flushEnt] true) 63).discard = true ∧
    ((ring (fetchedBy [flushEnt] false) 63).fetched = [flushEnt] ∧
      (ring (fetchedBy [flushEnt] false) 63).discard = false ∧ ringState (fetchedBy [flushEnt] false) 63 = 1 ∧
      od (fetchedBy [flushEnt] false) 0x2100 8 = 2 ∧ (fetchedBy [flushEnt] false).clasp.flush = none ∧
      cmd? (fetchedBy [flushEnt] false) (lowTag (fetchedBy [flushEnt] false)) = none ∧
      checkCmd (fetchedBy [flushEnt] false) (parseV2 63 1 flushEnt) = none ∧ (parseV2 63 1 flushEnt).cgrp = 0 ∧
      (parseV2 63 1 flushEnt).opc ≠ 5) ∧
    (checkCmd openGrp (parseV2 63 1 commitEnt) = none ∧ (parseV2 63 1 commitEnt).opc = 5 ∧
      (openGroup openGrp 63 (parseV2 63 1 commitEnt).cgrp).isSome = true) ∧
    (checkCmd ringOn (parseV2 63 1 (zeros 64))).isSome = true := by
  unfold PortTakes
  decide +kernel

theorem test_doorbell : od (after (.dbSq 0 63 5 ⟨0, []⟩) ringUp) (rgIdx 63 1) 3 = 5 := by decide +kernel
theorem test_bad_doorbell : od (after (.dbSq 0 63 16 ⟨0, []⟩) ringUp) (rgIdx 63 2) 3 = 1 := by decide +kernel
theorem test_fetched : (after (.sqFetchComplete 63) (fetchedBy [flushEnt] false)).cmds.map (fun c => (c.1, c.2.opc, c.2.cid)) = [(0, 4, 7)] := by
  decide +kernel

/-- A command of ring 63 whose condition is met waits under tag 2047; cq_tail and cq_head. -/
def toPost (tail head : Nat) : Dev :=
  put (rgIdx 63 1) 4 tail (put (rgIdx 63 1) 5 head { ringOn with cmds := [(2047, { blankCmd 63 1 false with st := .met })] })

theorem wit_RingCompletions :
    ((cmd? (toPost 15 1) 2047).isSome = true ∧ (blankCmd 63 1 false).ring = 63 ∧ 63 < (toPost 15 1).cfg.rings ∧ 63 < 256 ∧
      nextPost (toPost 15 1) 63 = some 2047 ∧
      (15 + 1) % max 1 (cqSize (toPost 15 1) 63) ≠ od (toPost 15 1) (rgIdx 63 1) 5) ∧
    ((0 + 1) % max 1 (cqSize (toPost 0 1) 63) = od (toPost 0 1) (rgIdx 63 1) 5 ∧ (ring (toPost 0 1) 63).cqWait = false) ∧
    nextPost (cmd5 { wr1 with ring := 63 } ringOn) 63 ≠ some 5 ∧ cmd? svc 2047 = none ∧
    ({ svc with rings := [(63, { Ring.reset with bells := [⟨1, 4, true, true⟩] })] } : Dev).rings.length = 1 ∧
    (63 < svc.cfg.rings ∧ Accepted svc 0 (rgIdx 63 0) 1 1 ∧ ringState svc 63 = 0) ∧
    (Accepted ringOn 0 (rgIdx 63 0) 1 0 ∧ ringState ringOn 63 = 1) ∧ Accepted ringOn 0 (rgIdx 63 0) 1 1 ∧
    ((ring ({ toPost 0 1 with rings := [(63, { Ring.reset with cqWait := true })] } : Dev) 63).cqWait = true) ∧
    (ringState (put (rgIdx 63 1) 1 2 ringOn) 63 = 2 ∧ inflight ringOn 63 = 0) := by
  unfold Accepted
  decide +kernel

theorem test_post_wraps : od (after (.completionPost 2047) (toPost 15 1)) (rgIdx 63 1) 4 = 0 ∧
    od (after (.completionPost 2047) (toPost 15 1)) (rgIdx 63 1) 6 = (1 - od (toPost 15 1) (rgIdx 63 1) 6) % 256 := by
  decide +kernel
theorem test_cq_full : od (after (.completionPost 2047) (toPost 0 1)) (rgIdx 63 2) 4 = 1 := by decide +kernel

/-- A command of one sector with an opcode. -/
def opc5 (op : Nat) : Cmd := { wr1 with opc := op, dlen := 64, q4 := if op = 6 then 512 else 0, q5 := 0 }

/-- It waits to start, in service. -/
def start (op : Nat) : Dev := cmd5 (opc5 op) ringOn

theorem wit_CommandsBeginOnce :
    (∀ op ∈ [1, 2, 3, 4, 5, 6, 7, 8, 9, 15], (cmdRow 5 op).isSome = true ∧ cmd? (start op) 5 = some (opc5 op) ∧
      (opc5 op).opc = op ∧ canStart (start op) (opc5 op) = true ∧ (opc5 op).fails = []) ∧
    canStart r0 (opc5 1) = false ∧
    (canStart svc { opc5 9 with fails := [0x0101] } = true ∧ mapBehind (start 9) 1 0 (start 9).lan.cap = false) ∧
    mapBehind { start 9 with lan := { (start 9).lan with wjobs := [{ job1 with no := 0 }] } } 1 0 1024 = true ∧
    (entryLost (start 3) 0 = false ∧ tabGet 0 (start 3).lan.verNo 0 ≤ (opc5 3).no) := by decide +kernel

theorem test_flush_completes : (cmd? (after (.flush 5) (start 4)) 5).map (·.st) = some .met := by decide +kernel
theorem test_write_begins : (after (.write 5) (start 1)).lan.wjobs.map (fun w => (w.gran, w.mask)) = [(0, 1)] := by decide +kernel

/-! ### Lantern -/

/-- Every domain ON in RECOVERY, Lantern not configured. -/
def fresh : Dev := put 0x2100 8 0 (put 0x2000 1 3 svc)

/-- Media with nothing on them but the checkpoints given. -/
def media (l : List CkptImage) : Media := ⟨[], l, [], [], 0, false, [], [], [], [], 5⟩

/-- A checkpoint of the configuration in force but for its stripe. -/
def ckpt0 (n : Nat) : CkptImage := ⟨1, 1, true, cfgRegions fresh, od fresh 0x2100 1, n, crc32c [], bitBlocks fresh, [], [], [], []⟩

/-- The replay as its checkpoint is judged. -/
def judged : Dev := put 0x2404 8 5 (cnt 0x2403 0x0F (rowNum 0 none 0x2404 9 1 fresh))

theorem wit_MediaStart :
    (od fresh 0x2404 1 ≠ 1 ∧ od fresh 0x2100 8 ≠ 1 ∧ Accepted fresh 0 0x2100 7 1) ∧ od (put 0x2100 8 1 fresh) 0x2100 8 = 1 ∧
    Accepted fresh 0 0x2404 9 1 ∧ od (put 0x2404 1 1 fresh) 0x2404 1 = 1 ∧ bestCkpt (media []).ckpts = none ∧
    (bestCkpt (media [ckpt0 6]).ckpts = some (ckpt0 6) ∧ ckptFits (ckpt0 6) judged = false) ∧
    (bestCkpt (media [ckpt0 7]).ckpts = some (ckpt0 7) ∧ ckptFits (ckpt0 7) judged = true) := by
  unfold Accepted
  decide +kernel

theorem test_replay_without_checkpoint : od (after (.replayGo 0 1 (media [])) fresh) 0x2404 2 = 1 := by decide +kernel
theorem test_replay_of_another_configuration : od (after (.replayGo 0 1 (media [ckpt0 6])) fresh) 0x2404 2 = 2 := by
  decide +kernel

/-- The job 1 in service, over a map with regions. -/
def placing (w : WJob) : Dev :=
  cmd5 { wr1 with st := .running, left := 1 } (updLan (fun l => { l with wjobs := [w] }) ringOn)

/-- A granule of four sectors of which one is written. -/
def part1 : WJob := { job1 with key := ⟨2, false, 0, false, 0xFFF⟩, nsec := 4, sb := [] }

/-- A group whose abort ends its members' granules. -/
def aborted5 : Dev :=
  { placing job1 with cmds := [(5, { wr1 with grp := some 3 })],
                      groups := [{ id := 3, ring := 0, cgrp := 1, members := 1, entries := 0, left := 1, aborted := true, close := none, chg := [] }] }

/-- A slot being filled by a granule's piece. -/
def slot1 : MSlot := { used := 1, queued := false, st := .filling, uses := [⟨1, 0, 0, 1⟩], pad := 0, fold := 0 }

/-- Row 0 with one data member. -/
def row0 (m : MSlot) : Row := { row := 0, slots := [m], acc := 0, par := .no }

/-- A band of one data member and its parity, in a state. -/
def band0 (st : BandSt) (rows : List Row) : Band :=
  { id := 9, set := 0, bidx := 0, key := ⟨2, false, 0, false, 0xFFF⟩, life := 0, temp := 0, mem := [(0, 4), (128, 4)], st := st,
    rows := rows, next := 1, reloc := none, order := 1, lastW := 0 }

/-- Lantern with that band. -/
def banded (b : Band) : Dev := { svc with lan := { svc.lan with n := 1, bands := [b] } }

theorem wit_Placement :
    wjob svc 1 = none ∧ (wjob (placing job1) 1 = some job1 ∧ wantsPlace job1 = true ∧ (placing job1).clasp.flush = none ∧
      od (placing job1) 0x2100 8 ∈ [2, 3] ∧ jobAborted (placing job1) job1 = false) ∧ wantsPlace part1 = false ∧
    jobAborted aborted5 job1 = true ∧ wholeGran job1 = true ∧
    (wjob (placing part1) 1 = some part1 ∧ wholeGran part1 = false ∧ part1.merging = false ∧ part1.reloc = none ∧
      part1.dead = false ∧ (reserveJob 0 part1 (placing part1)).isSome = true) ∧
    ((wjob (placing { job1 with spaceWait := true }) 1).map (·.spaceWait) = some true ∧ job1.tag = some 5 ∧
      job1.spaceWait = false) ∧
    (band (banded (band0 .opened [row0 slot1])) 9 = some (band0 .opened [row0 slot1]) ∧ rowUsed (row0 slot1) = true ∧
      (row0 slot1).par = .no ∧ (row0 slot1).slots[0]? = some slot1 ∧ slot1.st = .filling ∧ slot1.uses ≠ [] ∧
      slot1.used ≠ fullMask (banded (band0 .opened [row0 slot1]))) ∧
    ¬ (rowUsed (row0 { slot1 with uses := [] }) = true) ∧
    (∀ w ∈ [job1, part1], w.reloc = none ∧ w.given = false) := by decide +kernel

theorem test_part_granule_merges : (wjob (after (.merge 1) (placing part1)) 1).map (fun w => (w.merging, w.reads)) = some (true, 1) := by
  decide +kernel
theorem test_slot_padded : od (after (.memberSlotTimeout 9 0 0) (banded (band0 .opened [row0 slot1]))) 0x2108 0x0D = 1 := by
  decide +kernel

/-- A read of granule 8 for the command under tag 5, over the map lines given. -/
def looking (ls : List Line) (d : Dev) : Dev :=
  (addRead (.cmd 5) 1 2 8 0 2 false [⟨32, 0, 0, false, 0⟩]
    (cmd5 { opc5 2 with st := .running, left := 1 } { d with lan := { d.lan with lines := ls } })).2

/-- The line of the granule. -/
def line1 (lost : Bool) : Line := { addr := 1, way := 0, dirty := false, lost := lost, used := 0, flips := [] }

/-- A miss slot, answered or not. -/
def missing (ans : Option Bool) (fails : Nat) (unc : Bool) : Dev :=
  updLan (fun l => { l with misses := [{ slot := 0, addr := 1, fails := fails, ans := ans, uncached := unc, back := false }] }) (looking [] ringOn)

/-- A relocation whose copies of one granule are done. -/
def switching : Dev :=
  updLan (fun l => { l with relocs := [{ id := 2, band := 9, kind := 1, mem := 0, step := 3, need := 0, todo := [], copies := [(0, 5, 6, 1)], left := 0 }] })
    ringOn

/-- A closed band that is to be relocated. -/
def victim : Dev := updLan (fun l => { l with relWant := [9] }) (banded (band0 .closed []))

theorem wit_ReadsAndRelocations :
    ((rjob (looking [] ringOn) 1).map (fun r => (r.own, r.st, r.looked, r.gran)) = some (.cmd 5, .fresh, false, 8) ∧
      mapcOn (looking [] ringOn) (mapLine 8) = true ∧
      line? (looking [] ringOn) (mapLine 8) = none ∧ (looking [] ringOn).lan.wbs = [] ∧
      (looking [] ringOn).lan.misses.any (fun m => m.addr == mapLine 8) = false ∧
      (looking [] ringOn).lan.misses.length < missSlots ringOn.cfg) ∧
    (rjob (looking [] r0) 1).map (·.st) = some .fresh ∧ mapcOn (looking [] r0) (mapLine 8) = false ∧
    (line? (looking [line1 false] ringOn) (mapLine 8) = some (line1 false) ∧ lineBad (line1 false) [0] = none ∧ unitsOf 2 ≤ planes ringOn) ∧
    line? (looking [line1 true] ringOn) (mapLine 8) = some (line1 true) ∧ rjob svc 1 = none ∧
    (∀ p ∈ [(none, 0, false), (some true, 0, false), (some false, 0, false), (some false, 1, false), (some false, 1, true)],
      ((missing p.1 p.2.1 p.2.2).lan.misses.find? (fun x => x.slot == 0 && !x.back)).map (fun m => (m.ans, m.fails, m.uncached)) = some p) ∧
    pickVictim svc = none ∧
    (od victim 0x2100 8 = 2 ∧ victim.clasp.flush = none ∧ victim.rst.kind = none ∧
      victim.lan.relocs.length < od victim 0x2104 9 ∧ pickVictim victim = some (1, band0 .closed [])) ∧
    reloc? svc 2 = none ∧
    ((reloc? switching 2).map (fun r => (r.step, r.copies)) = some (3, [(0, 5, 6, 1)]) ∧ jbufUsed switching < jbufCap switching ∧
      (granIdx switching 0).isSome = true) := by and_intros <;> decide +kernel

theorem test_lost_line_fails_the_read : ((cmd? (after (.placeRead 1) (looking [line1 true] ringOn)) 5).map (·.fails)) = some [0x0301] := by
  decide +kernel
theorem test_relocation_begins : (after .relocationStart victim).lan.relocs.map (fun r => (r.band, r.kind)) = [(9, 1)] := by
  decide +kernel

/-! ### Recovery of reads, dies and temperatures -/

/-- A read of die 896 (channel 7) for the command under tag 5, its codeword 3 in a state, the decoder jobs and the inline
results given. -/
def decoding (st : CwSt) (jobs : List DecJob) (inl : List InlRes) : Dev :=
  let d := (addRead (.cmd 5) 1 2 8 (896 * 2 ^ 33) 2 false [⟨32, 0, 0, false, 0⟩] (cmd5 { opc5 2 with st := .running, left := 1 } svc)).2
  let cw : RawCw := { id := 3, rid := 1, slot := 0, data := [], step := 0, k := 0, ms := false, st := st, tries := [], soft := [], shifts := [], retry := [], ents := 1, bf := 0, mi := 0, si := 0, mag := 0 }
  { d with chans := [(7, { Chan.reset with raw := [cw], inl := inl })], decs := [(3, { Dec.reset with jobs := jobs })] }

/-- A job of that codeword. -/
def djob (started : Bool) : DecJob :=
  { hdr := 0, ch := 7, cw := 3, eng := 7, mode := 2, data := [], soft := [], started := started, t0 := 0 }

/-- An inline result with a payload. -/
def inl3 (p : Bytes) : InlRes := { cw := 3, src := 7, payload := p, n01 := 0, n10 := 0, synd := 0 }

/-- Every decoder excluded, so that none has room. -/
def noDecoder : Dev := put 0x2107 3 15 (decoding .wait [] [])

theorem wit_Decoding :
    (chan svc 7).raw.find? (fun c => c.id == 3 && c.st == .wait) = none ∧
    (((chan (decoding .wait [] []) 7).raw.find? (fun x => x.id == 3 && x.st == .wait)).map (·.rid) = some 1 ∧
      (rjob (decoding .wait [] []) 1).isSome = true ∧ (pickDecoder (decoding .wait [] []) 7 0 false).isSome = true) ∧
    pickDecoder noDecoder 7 0 false = none ∧
    ((dec (decoding .sent [djob false] []) 3).jobs = [djob false] ∧
      (dec (decoding .sent [djob false] []) 3).jobs.any (·.started) = false) ∧
    (3 < 256 ∧ (dec (decoding .sent [djob true] []) 3).jobs = [djob true] ∧ (djob true).started = true ∧ (djob true).mode ≤ 2) ∧
    dr.converged = true ∧ 0 < dr.iters ∧
    (((chan (decoding .sent [] [inl3 (zeros 4128)]) 7).inl.find? (fun x => x.cw == 3)).map (·.src) = some 7 ∧
      (chan svc 7).inl.find? (fun x => x.cw == 3) = none) ∧ svc.lan.lmq = [] ∧ cellsRead svc = false ∧
    cellsRead (after (.blkReadInit (oc 0x2304 1)) svc) = true := by decide +kernel

theorem test_decoder_takes_its_job : (dec (after (.decodeJob 3) (decoding .sent [djob false] [])) 3).jobs.map (·.started) = [true] := by
  decide +kernel
theorem test_decode_counts : od (after (.decodeResult 3 { dr with converged := false }) (decoding .sent [djob true] [])) 0x7019 4 = 1 := by
  decide +kernel

/-- Die 3 of channel 7 in a state, with a read in hand or waiting. -/
def die3 (y : Die) : Dev := { idleDies svc with dies := (idleDies svc).dies.map (fun p => if p.1 = dieAt svc.cfg 7 3 then (p.1, y) else p) }

/-- A die in a state with one entry, which it runs. -/
def runs (st : DieSt) (own : EOwn) : Die :=
  { Die.reset with st := st, q := [{ ent 0 2 own with qseq := 1 }], qseq := 1, cur := some 1 }

/-- Channel 7's bus carries a status read of die 3. -/
def bursting (bad : Bool) : Dev :=
  { die3 (runs .read (.reads [])) with
    chans := [(7, { Chan.reset with bus := some (.status 3) })], seqs := [(7, { Seq.reset with badStart := bad })] }

/-- The thermal node of die 3 at a level, with a program waiting. -/
def hot (level : Nat) : Dev :=
  let d := die3 { Die.reset with st := .idle, q := [{ ent 1 2 (.slot 0 0 0) with qseq := 1 }], qseq := 1 }
  { d with nodes := [(dieNode d (dieAt d.cfg 7 3), { Node.reset with level := level })] }

theorem wit_DieWaits :
    (7 < svc.cfg.channels ∧ 3 < diesPerCh svc.cfg) ∧
    (dieBusy (die (die3 (runs .read (.reads []))) (dieAt svc.cfg 7 3)) = true ∧ dieBusy (die svc (dieAt svc.cfg 7 3)) = false ∧
      polled (put (chIdx 7 0) 4 1 (die3 (runs .read (.reads [])))) (dieAt svc.cfg 7 3) = true ∧ polled svc (dieAt svc.cfg 7 3) = false) ∧
    (∀ st ∈ [DieSt.erase, .suspended, .suspending, .read, .failed], (die (die3 (runs st .erase)) (dieAt svc.cfg 7 3)).st = st) ∧
    ((chan (die3 (runs .read (.reads []))) 7).idTgts = [] ∧ (runs .read (.reads [])).outLeft = [] ∧
      (runs .read (.reads [])).cur.bind (entOf (runs .read (.reads []))) ≠ none) ∧
    (1 < svc.cfg.targets ∧ od svc (chIdx 7 0) 4 = 0 ∧ od (put (chIdx 7 0) 4 1 svc) (chIdx 7 0) 4 ≠ 0) ∧
    (dieInCfg svc.cfg (dieAt svc.cfg 7 3) = true ∧ dieLevel (hot 4) (dieAt svc.cfg 7 3) = 4) ∧
    (dieLevel (hot 0) (dieAt svc.cfg 7 3) = 0 ∧ od (hot 0) 0x2803 3 = 0 ∧
      (die (hot 0) (dieAt svc.cfg 7 3)).q.any (fun e => e.op == 1 && thermalHold (hot 0) (dieAt svc.cfg 7 3) e) = true) ∧
    (chan svc 7).bus = none ∧ ((chan (bursting false) 7).bus = some (.status 3) ∧ (seq (bursting false) 7).badStart = false ∧
      (seq (bursting true) 7).badStart = true) ∧
    ((chan { svc with chans := [(7, { Chan.reset with bus := some (.train 3) })] } 7).bus = some (.train 3)) := by decide +kernel

theorem test_poll :
    (die (after (.statusPoll 7 3) (put (chIdx 7 0) 4 1 (die3 (runs .read (.reads []))))) (dieAt svc.cfg 7 3)).statusDue = true := by decide +kernel

/-- The die 3 of channel 7 reads its temperature. -/
def sensing : Dev := die3 (runs .read .temp)

theorem wit_Temperatures :
    (((die sensing (dieAt svc.cfg 7 3)).cur.bind (entOf (die sensing (dieAt svc.cfg 7 3)))).map (·.own) = some .temp ∧
      dieInCfg svc.cfg (dieAt svc.cfg 7 3) = true) ∧ (die svc 0).cur = none ∧
    (7 < svc.cfg.channels ∧ chanOn svc 7 = true ∧ nodeUsed svc (cuNode 7) = true ∧ chanOn r0 7 = false) := by decide +kernel

theorem test_copper_energy : (node (after (.cuEnergyReport 7 5) svc) (cuNode 7)).energy = 5000 := by decide +kernel

/-- Channel 7 armed, in a state, with a set that changes the mode or not. -/
def armedAs (state : Nat) (mode : Bool) : Dev :=
  let d := { idleDies svc with chans := [(7, { Chan.reset with armed := true, state := state, zqNew := some 65535 })] }
  if mode then put (chIdx 7 8) 1 2 d else d

/-- The first round of identification is over but for the reference; the die 0 waits for it. -/
def firstRound (waits : Bool) : Dev :=
  { idleDies svc with chans := [(7, { Chan.reset with firstRound := true })],
                      dies := [(0, { Die.reset with st := .reset, waitRef := waits, geom := some geom0 })] }

theorem wit_TimingSwaps :
    (7 < svc.cfg.channels ∧ 7 < 32 ∧ svc.geom = none) ∧
    (roundOpen (firstRound true) = false ∧ (List.range 8).any (fun c => (chan (firstRound true) c).firstRound) = true ∧
      (allDies svc.cfg).filter (fun n => (die (firstRound true) n).waitRef) = [0]) ∧
    (allDies svc.cfg).filter (fun n => (die (firstRound false) n).waitRef) = [] ∧
    ((chan (armedAs 1 false) 7).armed = true ∧ modeChange (armedAs 1 false) 7 = false ∧
      quietBoundary (armedAs 1 false) 7 = true) ∧
    (modeChange (armedAs 1 true) 7 = true ∧ quietBoundary (armedAs 1 true) 7 = true) ∧ (chan (armedAs 1 false) 7).state = 1 ∧
    ((chan { armedAs 2 false with chans := [(7, { Chan.reset with armed := true, state := 2, bus := some (.status 0) })] } 7).bus.isSome = true) ∧
    (chan svc 7).armed = false ∧ isOn svc (domCh 7 0) = true ∧
    (65535 < 65536 ∧ (chan (armedAs 1 false) 7).zqNew = some 65535) ∧ (chan svc 7).zqNew = none := by decide +kernel

theorem test_swap_hold : (chan (after (.swapHoldTimeout 7) (armedAs 1 false)) 7).state = 2 := by decide +kernel
theorem test_swap_counted : od (after (.timingSwap 7 none) (armedAs 1 false)) (chIdx 7 0x0A) 3 = 1 := by decide +kernel

/-- Measurements with an eye. -/
def eye (n : Nat) : TrainResult :=
  { rdEye := n, wrEye := n, lanesOk := true, vrefEnd := false, gate := 0, wl := 0, vref := 0, rdDly := [], wrDly := [] }

/-- Channel 7 trains target 1, tried before or not; the record of its last training. -/
def toTrain (tried : List Nat) (rec : Bytes) : Dev :=
  put (chIdx 7 9) 1 2 { idleDies svc with
    dies := (idleDies svc).dies.map (fun p => if p.1 = dieNo 7 1 0 then
      (p.1, { Die.reset with st := .idle, geom := some geom0, q := [{ ent 0 2 .train with qseq := 1 }], qseq := 1 }) else p)
    chans := [(7, { Chan.reset with
      state := 2, identified := true, trainWait := [1], trainTry := tried, trains := [(1, rec)], doutCnt := [(1, 64)],
      bus := some (.train svc.cfg.luns) })] }

theorem wit_Training :
    (7 < svc.cfg.channels ∧ 7 < 32 ∧ 1 < svc.cfg.targets ∧ trainEnt svc 7 1 = none) ∧
    ((trainEnt (toTrain [] (zeros 48)) 7 1).isSome = true ∧ trainRuns (toTrain [] (zeros 48)) 7 1 = true ∧
      trainJudge (trainFrees 7 (toTrain [] (zeros 48))) 7 (eye 0) = 3 ∧
        1 ∉ (chan (trainFrees 7 (toTrain [] (zeros 48))) 7).trainTry ∧
      trainJudge (trainFrees 7 (toTrain [] (zeros 48))) 7 (eye 255) ≠ 3) ∧
    1 ∈ (chan (trainFrees 7 (toTrain [1] (zeros 48))) 7).trainTry ∧
    (od svc (chIdx 7 0x0B) 2 ≠ 0 ∧ trainState (toTrain [] (1 :: zeros 47)) 7 1 ≠ 0 ∧
      trainState (toTrain [] (2 :: zeros 47)) 7 1 = 2) ∧
    (trainState svc 7 1 = 0 ∧ 64 ≤ tabGet 0 (chan (toTrain [] (1 :: zeros 47)) 7).doutCnt 1) ∧
    ((1 : Int).natAbs ≤ 1 ∧ 1 < (2 : Int).natAbs ∧
      (sext (leAt (trRec (toTrain [] (1 :: zeros 47)) 7 1) 45 1) 8).natAbs < od svc (chIdx 7 0x0B) 5) ∧
    od (put (chIdx 7 0x0B) 5 1 svc) (chIdx 7 0x0B) 5 ≤
      (sext (leAt (driftRec (trRec (put (chIdx 7 0x0B) 5 1 (toTrain [] (1 :: zeros 47))) 7 1) true) 45 1) 8).natAbs := by
  decide +kernel

/-! ### Microcode -/

/-- A word with no operation. -/
def nop : UWord :=
  { nx := 0, nxa := 0x123, cc := 0, ccn := false, sp := true, dsel := 0, bop := 0, bimm := 0, bsrc := 15, aop := 0, ra := 1, rb := 2,
    imm := 7, emv := 0, emw := false, tsel := 0, top := 0, post := 0 }

/-- What the sequencer sees. -/
def env0 : UEnv :=
  { rb := false, timer := false, xfer := false, dqs := false, rawRoom := false, stat := 0xE0, data := 0x5A, ecc := .ok, hold := 0, events := 0 }

/-- Channel 7 runs a routine for a status burst, in patch RAM, with a sequencer given; its dispatch table 0 has entry 0. -/
def ucode (f : Seq → Seq) : Dev :=
  { svc with
    chans := [(7, { Chan.reset with bus := some (.status 0) })],
    seqs := [(7, f { Seq.reset with running := true, pc := 0xC00, stack := [(0x456, 1)], disp := [(0, 0x8789)] })] }

theorem wit_MicrocodeRegisters :
    (∀ p ∈ ucRows, wordPlain (ucode id) 7 (.status 0) (p.2 nop) env0) ∧
    (∀ k ∈ List.range 13, wordPlain (ucode id) 7 (.status 0) { nop with aop := BitVec.ofNat 4 k, bop := 9 } env0) := by
  simp only [wordPlain, wordRuns, noEvent]
  and_intros <;> decide +kernel

theorem wit_MicrocodeBusAndTimer :
    (∀ k ∈ List.range 11, wordPlain (ucode id) 7 (.status 0) { nop with bop := BitVec.ofNat 4 k, aop := 3 } env0) ∧
    (∀ k ∈ List.range 4, wordPlain (ucode id) 7 (.status 0) { nop with top := BitVec.ofNat 2 k, tsel := 5, post := 4 } env0) := by
  simp only [wordPlain, wordRuns, noEvent]
  and_intros <;> decide +kernel

theorem wit_MicrocodeNextAddress :
    (∀ k ∈ List.range 7, wordPlain (ucode id) 7 (.status 0) { nop with nx := BitVec.ofNat 3 k } env0) ∧
    (∀ k ∈ List.range 11, wordPlain (ucode id) 7 (.status 0) { nop with nx := 1, cc := BitVec.ofNat 6 k, ccn := true } env0) ∧
    wordPlain (ucode (fun q => { q with gap := 254 })) 7 (.status 0) { nop with sp := false } env0 ∧
    wordTarget (ucode id) 7 { nop with nx := 4 } env0 = some 0x789 := by
  simp only [wordPlain, wordRuns, noEvent]
  and_intros <;> decide +kernel

theorem test_add : (seq (after (.add 7 { nop with imm := 0xFFFFFFFF } env0) (ucode (fun q => { q with g := [(1, 2)] }))) 7).reg 2 = 1 ∧
    (seq (after (.add 7 { nop with imm := 0xFFFFFFFF } env0) (ucode (fun q => { q with g := [(1, 2)] }))) 7).cf = true := by
  decide +kernel
theorem test_shr : (seq (after (.shr 7 { nop with imm := 33 } env0) (ucode (fun q => { q with g := [(1, 0x80000000)] }))) 7).reg 2 = 0x40000000 := by
  decide +kernel
theorem test_branch : (seq (after (.branch 7 nop env0) (ucode id)) 7).pc = 0x123 ∧
    (seq (after (.branch 7 { nop with ccn := true } env0) (ucode id)) 7).pc = 0xC01 := by
  decide +kernel
theorem test_return : (seq (after (.ret 7 nop env0) (ucode id)) 7).pc = 0x456 ∧
    (seq (after (.ret 7 nop env0) (ucode id)) 7).emask = 1 := by
  decide +kernel
theorem test_status_byte : (seq (after (.stat 7 nop env0) (ucode id)) 7).reg 0 = 0xE0 := by decide +kernel

/-- A stack of eight entries. -/
def full (q : Seq) : Seq := { q with stack := List.replicate 8 (0, 0) }

/-- An event 1 pending and enabled. -/
def event1 (q : Seq) : Seq := { q with epend := 2, emask := 2, disp := [(64 + 1, 0x8321)] }

theorem wit_MicroStack :
    (wordRuns (ucode full) 7 (.status 0) { nop with nx := 2 } env0 ∧ 8 ≤ (seq (ucode full) 7).stack.length) ∧
    (wordRuns (ucode (fun q => { q with stack := [] })) 7 (.status 0) { nop with nx := 3 } env0 ∧
      (seq (ucode (fun q => { q with stack := [] })) 7).stack = []) ∧
    (eventDue (ucode (fun q => event1 (full q))) 7 (.status 0) nop env0 1 ∧
      8 ≤ (wordStack (ucode (fun q => event1 (full q))) 7 nop).length) ∧
    wordPlain (ucode id) 7 (.status 0) { nop with nx := 2 } env0 ∧
      wordRuns (ucode id) 7 (.status 0) { nop with nx := 6, sp := false } env0 := by
  simp only [wordPlain, wordRuns, noEvent, eventDue]
  and_intros <;> decide +kernel

theorem test_stack_over : (after (.call 7 nop env0) (ucode full)).loader.mcRec.take 10 = zeros 8 ++ [7, 1] := by decide +kernel

/-- The word at an address that a patch's region holds. -/
def patched (q : Seq) : Seq := { q with pc := 0x010, regions := [(0x010, 1, 0xC00)] }

theorem wit_MicrocodeEventsAndFaults :
    (chan svc 7).bus = none ∧ ((seq (ucode (fun q => { q with running := false })) 7).running = false) ∧
    ((chan (ucode (fun q => { q with badStart := true })) 7).bus = some (.status 0) ∧ chanOn (ucode id) 7 = true ∧
      7 < svc.cfg.channels) ∧
    (wordFits (ucode patched) 7 (.status 0) nop { env0 with ecc := .double } = true ∧ (ramAddr (seq (ucode patched) 7)).isSome = true) ∧
    (wordRuns (ucode (fun q => { q with gap := 255 })) 7 (.status 0) { nop with sp := false } env0 ∧
      256 ≤ (seq (ucode (fun q => { q with gap := 255 })) 7).gap + wordCycles { nop with sp := false } env0) ∧
    (wordRuns (ucode (fun q => { q with disp := [(0, 0)] })) 7 (.status 0) { nop with nx := 4 } env0 ∧
      wordTarget (ucode (fun q => { q with disp := [(0, 0)] })) 7 { nop with nx := 4 } env0 = none) ∧
    (eventDue (ucode event1) 7 (.status 0) nop env0 1 ∧ (wordStack (ucode event1) 7 nop).length < 8 ∧
      dispTarget (seq (ucode event1) 7) 1 1 = some 0x321) ∧
    (eventDue (ucode (fun q => { event1 q with disp := [(64 + 1, 0)] })) 7 (.status 0) nop env0 1 ∧
      dispTarget (seq (ucode (fun q => { event1 q with disp := [(64 + 1, 0)] })) 7) 1 1 = none) ∧
    eventDue (ucode event1) 7 (.status 0) { nop with sp := false, nx := 5, ccn := true } env0 1 ∧
    (wordFits (ucode id) 7 (.status 0) { nop with nx := 7 } env0 = false ∧ (seq (ucode id) 7).badStart = false) := by
  simp only [wordRuns, eventDue]
  and_intros <;> decide +kernel

/-- The channel at a word of the ROM image. -/
def inRom (q : Seq) : Seq := { q with pc := 0x7FF, regions := [] }

theorem wit_MicrocodeEventsAndFaults_rom (h : uword (Config.rom 0x7FF).toNat = nop) :
    wordRuns (ucode inRom) 7 (.status 0) nop env0 ∧ ramAddr (seq (ucode inRom) 7) = none := by
  have a : storedWord (seq (ucode inRom) 7) = some (Config.rom 0x7FF).toNat := by rfl
  have b : (ramAddr (seq (ucode inRom) 7)).isSome = false := by decide +kernel
  simp only [wordRuns, wordFits, a, b, h]
  and_intros <;> decide +kernel

theorem test_event_taken : (seq (after (.next 7 nop env0) (ucode event1)) 7).pc = 0x321 ∧
    (seq (after (.next 7 nop env0) (ucode event1)) 7).epend = 0 := by
  decide +kernel

/-! ### Clasp -/

/-- A record. -/
def rec1 : JRec := jrec 1 0 0 0

/-- Clasp in service with a pair of dies, records and commits given, and a budget. -/
def clasp (js : List JRec) (cs : List Commit) (uj : Nat) : Dev :=
  put 0x2401 4 uj { idleDies ringOn with
    tele := { r0.tele with ever := true },
    clasp := { r0.clasp with jbuf := js, recNo := js.length, commits := cs, pairs := [(0, 128)], want := true } }

/-- A commit whose copy has passed or not. -/
def done1 (passed : Bool) : Commit := ⟨1, 1, 1, [rec1], [⟨1, [], [⟨0, 0, 0, 0, true, passed⟩]⟩], none⟩

/-- A group that waits for its commit. -/
def group3 : Group :=
  { id := 3, ring := 63, cgrp := 1, members := 1, entries := 0, left := 0, aborted := false, close := some 5, chg := [] }

/-- A command that waits for durability, of a group or not, and the groups that wait to be committed. -/
def durable5 (op : Nat) (grp : Option Nat) (q : List Nat) : Dev :=
  { cmd5 { opc5 op with st := .durable, need := 1, grp := grp } (clasp [] [] 0) with
    groups := [group3], clasp := { (clasp [] [] 0).clasp with groupQ := q } }

theorem wit_JournalCommits :
    (svc.clasp.jbuf = [] ∧ (clasp [rec1] [] 0).clasp.jbuf ≠ []) ∧ od r0 0x2400 1 ≠ 2 ∧
    (od (clasp [rec1] [] 0) 0x2400 1 = 2 ∧ (clasp [rec1] [] 0).clasp.commits.length < 4 ∧ (clasp [rec1] [] 0).clasp.pairs ≠ [] ∧
      (clasp [rec1] [] 0).rst.kind = none ∧ (clasp [rec1] [] 0).clasp.want = true) ∧
    (budgetValid (clasp [rec1] [] 0x7FFFFFFF).tele = true ∧
      reserveUj (clasp [rec1] [] 0x7FFFFFFF) + commitPrice (clasp [rec1] [] 0x7FFFFFFF) 1 ≤ od (clasp [rec1] [] 0x7FFFFFFF) 0x2401 4) ∧
    ¬ (reserveUj (clasp [rec1] [] 0) + commitPrice (clasp [rec1] [] 0) 1 ≤ od (clasp [rec1] [] 0) 0x2401 4) ∧
    ((clasp [] [] 0).clasp.jbuf = [] ∧ (clasp [] [] 0).clasp.groupQ = []) ∧
    ((durable5 5 (some 3) [3]).clasp.groupQ = [3] ∧ group? (durable5 5 (some 3) [3]) 3 = some group3 ∧
      group? (durable5 5 (some 3) [4]) 4 = none) ∧
    ((clasp [] [done1 false] 0).clasp.commits.head?.map (fun c => c.units.all (fun u => u.copies.all (·.passed))) = some false ∧
      (done1 true).units.all (fun u => u.copies.all (·.passed)) = true) ∧
    (((cmd? (durable5 4 none []) 5).map (fun c => (c.st, c.opc, c.need))) = some (.durable, 4, 1) ∧
      (durable5 4 none []).clasp.recNo < 1) ∧
    1 + (clasp [] [] 0).clasp.jbuf.length ≤ { (clasp [] [] 0).clasp with recNo := 1 }.recNo ∧
    ((cmd? (durable5 5 (some 3) [3]) 5).map (fun c => (c.st, c.opc, c.grp)) = some (.durable, 5, some 3) ∧
      3 ∈ (durable5 5 (some 3) [3]).clasp.groupQ ∧ 3 ∉ (durable5 5 (some 3) []).clasp.groupQ) := by decide +kernel

theorem test_commit_waits_for_energy : od (after .commitStart (clasp [rec1] [] 0)) 0x2403 2 = 1 := by decide +kernel
theorem test_commit_ends : od (after .commitDone (clasp [] [done1 true] 0)) 0x2403 1 = 1 := by decide +kernel

/-- Clasp with erased blocks on die 1, and a checkpoint due. -/
def due : Dev :=
  { clasp [] [] 0 with geom := some geom0, clasp := { (clasp [] [] 0).clasp with
      ckptTrig := true, sys := [(1, { SysDie.reset with free := [(0, 0), (1, 0)] })] } }

/-- A checkpoint under way at a sector. -/
def ckpting (next : Nat) : Dev :=
  { due with clasp := { due.clasp with ckptTrig := false, ckpt := some { num := 1, begin_ := 1, next := next, crc := 0, units := [], ended := false } } }

theorem wit_CheckpointsAndCalibration :
    (od r0 0x2400 1 ≠ 2 ∧ od svc 0x2400 8 ≠ 0 ∧ od svc 0x2400 1 = 2 ∧ svc.clasp.ckpt = none ∧ svc.clasp.ckptTrig = false) ∧
    (due.clasp.ckptTrig = true ∧ due.clasp.ckpt = none ∧ od due 0x2400 1 = 2 ∧ od due 0x2109 3 = 0 ∧ due.rst.kind = none ∧
      (ckptUnit { num := due.clasp.ckptNum + 1, begin_ := 0, next := 0, crc := BitVec.allOnes 32, units := [], ended := false } due).isSome = true) ∧
    ((ckpting 0).clasp.ckpt.isSome = true ∧ 0 < (ckptSizes (ckpting 0)).sum) ∧
    ¬ (1000000 < (ckptSizes (ckpting 1000000)).sum) ∧ od svc 0x2402 1 = 0 ∧
      od (put 0x2402 1 1 svc) 0x2402 1 ≠ 0 := by decide +kernel

/-- The power-fail warning is latched. -/
def warned : Dev := { svc with tele := { svc.tele with pf := true } }

/-- A flush runs in a stage with what it has still to write. -/
def flushRun (stage : Nat) (items : List FItem) : Dev :=
  put 0x2400 1 3 { idleDies svc with geom := some geom0, clasp := { svc.clasp with
    flush := some { items := items, stage := stage, room := [], recs := [], scope := 0, ended := false },
    sys := [(0, { SysDie.reset with flushB := [(9, 0)] })] } }

/-- The header of die 0. -/
def head0 : FItem := { cls := 0, cws := [], need := 1, fixed := some 0, done := [], failed := [], acc := 0 }

theorem wit_EmergencyFlush :
    (warned.tele.pf = true ∧ od warned 0x2000 1 = 1 ∧ warned.clasp.flush = none ∧ od warned 0x2400 1 ≠ 4) ∧
    ¬ (svc.tele.pf = true) ∧ (flushAdvance svc).clasp.flush = none ∧
    (match (flushAdvance (flushRun 1 [head0])).clasp.flush with
      | some f => flushNext (flushAdvance (flushRun 1 [head0])) f 0 = some head0 ∧
          flushNext (flushAdvance (flushRun 1 [head0])) f 1 = none
      | none => False) ∧
    (dieInCfg svc.cfg 0 = true ∧ supplies (flushRun 1 [head0]) = true ∧ (die (flushRun 1 [head0]) 0).st = .idle ∧
      (die (flushRun 1 [head0]) 0).cur = none) ∧
    flushOver (flushAdvance (flushRun 1 [head0])) = false ∧ flushOver (flushAdvance (flushRun 2 [])) = true ∧
    ({ flushRun 2 [] with rst := { svc.rst with held := some (.block, 2) } } : Dev).rst.held = some (.block, 2) := by
  and_intros <;> decide +kernel

theorem test_flush_starts : od (after .emergencyFlush warned) 0x2400 1 = 3 := by decide +kernel
theorem test_flushed : od (after .flushed (flushRun 2 [])) 0x2400 1 = 4 := by decide +kernel

/-! ### The whole block, protected words and lane queues -/

theorem wit_EmptyQueueIdles :
    (at_ r0).pending = [] ∧ (∀ p ∈ List.range r0.cfg.ports, (port r0 p).inQ = []) ∧ ∀ m ∈ List.range 8, (master r0 m).job = none := by
  decide +kernel

theorem wit_StepKeepsDictionaryAndBuffer :
    DictOk r0 ∧ SbOk r0 ∧ (match step { dev := r0, pending := [.tbSync 1000] } with | .next t => decide (t.dev.ts = 1000) | _ => false) = true := by
  unfold DictOk SbOk
  and_intros <;> decide +kernel

/-- A flit of a packet, the last or not. -/
def flit0 (last : Bool) : Flit :=
  { src := .cu 0, dst := .cu 1, cls := .req, up := true, last := last, poison := false, own := none }

/-- A queue of entries, each with wrong bits. -/
def queue0 (es : List (Bool × Nat)) : LaneQ :=
  { LaneQ.reset with ents := es.map (fun e => ⟨flit0 e.1, [e.2]⟩), wp := es.length, inPkt := true }

theorem wit_ProtectedWordsAndLaneQueues :
    (0 < 72 ∧ 71 < 72 ∧ 0 ≠ 71) ∧
    ({ LaneQ.reset with dropping := true } : LaneQ).dropping = true ∧
    (({ LaneQ.reset with full := true } : LaneQ).dropping = false ∧ ({ LaneQ.reset with full := true } : LaneQ).full = true) ∧
    (LaneQ.reset.dropping = false ∧ LaneQ.reset.full = false ∧ LaneQ.reset.ents = [] ∧ LaneQ.reset.inPkt = false) ∧
    ((queue0 [(false, 0)]).ents.map (·.worst) = [.good] ∧ (queue0 [(false, 1)]).ents.map (·.worst) = [.corrected] ∧
      (queue0 [(false, 3)]).ents.map (·.worst) = [.bad]) ∧
    ((queue0 [(false, 0), (true, 0), (false, 0)]).inPkt = true ∧
      (queue0 [(false, 0), (true, 0), (false, 0)]).ents = [⟨flit0 false, [0]⟩] ++ ⟨flit0 true, [0]⟩ :: [⟨flit0 false, [0]⟩]) ∧
    ((queue0 [(false, 0)]).inPkt = true ∧ ∀ e ∈ (queue0 [(false, 0)]).ents, e.flit.last = false) ∧
    (2 ^ 2 ≤ (queue0 (List.replicate 4 (false, 0))).occ 2 ∧ (queue0 [(false, 0), (false, 0)]).occ 2 ≤ laneLow 2 .req ∧
      laneLow 2 .req < (queue0 (List.replicate 3 (false, 0))).occ 2 ∧ (queue0 (List.replicate 3 (false, 0))).occ 2 < 2 ^ 2) ∧
    (([5] : Bytes) ≠ [] ∧
      (partWords 1 1).filter (fun w => eccRes (tabGet 0 (updLan (fun l => { l with flips := [(0, 3)] }) r0).lan.flips w) == .bad) = [0] ∧
      (partWords 1 1).filter (fun w => eccRes (tabGet 0 r0.lan.flips w) == .bad) = []) ∧
    (zeros 4128).length = 4128 := by decide +kernel

theorem test_lane_full : ({ queue0 (List.replicate 4 (false, 0)) with full := true } : LaneQ).write 2 (flit0 true) = none := by decide
theorem test_lane_underrun : (LaneQ.reset.read 0xFF00 2).2.1.length = 1 := by decide +kernel

end Sys2Proof.Tests
end

section
/-! SUPPORT. The entries of a ring (04_work_rings.md R190): their keys, their sizes, and the ring's record beside them. -/

namespace Sys2Proof.Machine

/-! ### Keys and sizes -/

/-- The size that the ring table's row for a place gives (R190). -/
def ringRowSize (i j : Nat) : Nat :=
  ((rowsRing.find? (fun x => x.base == 0x5100 + i && x.sub0 ≤ j && j ≤ x.sub1)).map (·.ty.size)).getD 8

theorem odBase_rgIdx {c : Params} {r i : Nat} (hr : r < c.rings) (h256 : r < 256) (hi : i < 7) :
    odBase c (rgIdx r i) = some (0x5100 + i, r) := by
  have hdiv : (rgIdx r i - 0x5100) / 8 = r := by unfold rgIdx; omega
  have hmod : rgIdx r i % 8 = i := by unfold rgIdx; omega
  have hlo : 0x5100 ≤ rgIdx r i := by unfold rgIdx; omega
  have hhi : rgIdx r i < 0x5900 := by unfold rgIdx; omega
  unfold odBase
  rw [hdiv, hmod]
  repeat rw [if_neg (by omega)]
  rw [if_pos hhi, if_pos ⟨hr, .inl (by omega)⟩]

theorem odRow_rgIdx {c : Params} {r i j : Nat} (hr : r < c.rings) (h256 : r < 256) (hi : i < 7) :
    odRow c (rgIdx r i) j =
      (rowsRing.find? (fun x => x.base == 0x5100 + i && x.sub0 ≤ j && j ≤ x.sub1)).map (·, r) := by
  have hs : spread (0x5100 + i) = false := by
    unfold spread
    simp
    omega
  have hrows : rowsOf (0x5100 + i) = rowsRing := by
    unfold rowsOf
    repeat rw [if_neg (by omega)]
    rw [if_pos (by omega)]
  unfold odRow
  simp only [odBase_rgIdx hr h256 hi, hs, hrows]
  simp
  omega

theorem odSize_rgIdx {c : Params} {r i j : Nat} (hr : r < c.rings) (h256 : r < 256) (hi : i < 7) (hj : j < 256) :
    odSize c (ek (rgIdx r i) j) = ringRowSize i j := by
  have hidx : ek (rgIdx r i) j / 256 = rgIdx r i := by unfold ek; omega
  have hsub : ek (rgIdx r i) j % 256 = j := by unfold ek; omega
  unfold odSize ringRowSize
  rw [hidx, hsub, odRow_rgIdx hr h256 hi]
  cases rowsRing.find? _ <;> rfl

theorem ek_rgIdx_ne {r i j a b : Nat} (hj : j < 256) (hb : b < 256) (h : i ≠ a ∨ j ≠ b) :
    ek (rgIdx r a) b ≠ ek (rgIdx r i) j := by
  unfold ek rgIdx
  omega

/-! ### Reads after writes -/

/-- A ring's entry reads as it was written, cut to the size of its row. -/
theorem od_put_ring_self {r i j v : Nat} {d : Dev} (hr : r < d.cfg.rings) (h256 : r < 256) (hi : i < 7) (hj : j < 256) :
    od (put (rgIdx r i) j v d) (rgIdx r i) j = v % 2 ^ (8 * ringRowSize i j) := by
  rw [od_put_self, odSize_rgIdx hr h256 hi hj]

theorem od_put_ring_ne {r i j a b v : Nat} {d : Dev} (hj : j < 256) (hb : b < 256) (h : i ≠ a ∨ j ≠ b) :
    od (put (rgIdx r i) j v d) (rgIdx r a) b = od d (rgIdx r a) b :=
  od_put_ne v d (ek_rgIdx_ne hj hb h)

theorem od_cnt_ring_ne {r i j a b : Nat} {d : Dev} (hj : j < 256) (hb : b < 256) (h : i ≠ a ∨ j ≠ b) :
    od (cnt (rgIdx r i) j d) (rgIdx r a) b = od d (rgIdx r a) b :=
  od_cntN_ne 1 d (ek_rgIdx_ne hj hb h)

/-- What two blocks with one dictionary and one configuration read is the same. -/
theorem od_congr {x d : Dev} (hc : x.cfg = d.cfg) (ho : x.od = d.od) (i j : Nat) : od x i j = od d i j := by
  unfold od getK
  rw [hc, ho]

@[simp] theorem od_updRing (n : Nat) (f : Ring → Ring) (d : Dev) (i j : Nat) : od (updRing n f d) i j = od d i j := rfl

@[simp] theorem ring_updRing_self (r : Nat) (f : Ring → Ring) (d : Dev) : ring (updRing r f d) r = f (ring d r) := by
  simp [ring, updRing]

@[simp] theorem ring_put (i j v r : Nat) (d : Dev) : ring (put i j v d) r = ring d r := rfl

/-- An event counted changes no field but the dictionary and the marks. -/
theorem cnt_eq (i j : Nat) (d : Dev) : cnt i j d = { d with od := (cnt i j d).od, sat := (cnt i j d).sat } :=
  (cnt_spec i j d).2.2

@[simp] theorem cnt_cmds (i j : Nat) (d : Dev) : (cnt i j d).cmds = d.cmds := by rw [cnt_eq]

@[simp] theorem ring_cnt (i j r : Nat) (d : Dev) : ring (cnt i j d) r = ring d r := by
  unfold ring
  rw [cnt_eq]

/-- A counter of a ring counts what the block that is compared holds there, whatever else has changed since. -/
theorem counted_of_od_eq {d0 d d' : Dev} {i j n : Nat} (hc : d.cfg = d0.cfg) (ho : od d i j = od d0 i j)
    (h : Counted d d' i j n) : Counted d0 d' i j n := by
  unfold Counted at *
  rwa [hc, ho] at h

/-! ### Commands under way -/

theorem cmd?_of_cmds_erased {x d : Dev} {tag : Nat} (h : x.cmds = tabErase d.cmds tag) : cmd? x tag = none := by
  simp [cmd?, h, tabErase_eq_filter]

theorem cmd?_of_cmds_erased_ne {x d : Dev} {tag k : Nat} (h : x.cmds = tabErase d.cmds tag) (hk : k ≠ tag) :
    cmd? x k = cmd? d k := by
  unfold cmd?
  rw [h, tabErase_eq_filter, List.find?_filter]
  congr 2
  funext c
  by_cases hc : c.1 = k <;> simp [hc, hk]

end Sys2Proof.Machine
end

section
/-! SUPPORT. Completions of a ring (04_work_rings.md R145, R182 to R187): what posting one does, stage by stage. -/

namespace Sys2Proof.Machine

/-! ### The stages of a completion -/

/-- The tag is given back and the ring's record moves on: its sequence number, and the doorbell that is due (R187). -/
def tagReturned (tag : Nat) (c : Cmd) (d : Dev) : Dev :=
  let src := od d (rgIdx c.ring 0) 0x0A
  updRing c.ring (fun y => { y with
      cseq := (y.cseq + 1) % 65536, posted := y.posted + 1,
      bells := if c.nobell ∨ 1024 ≤ src then y.bells else y.bells ++ [⟨(ring d c.ring).posted, src, false, false⟩] })
    { (report c d).2 with
      cmds := tabErase d.cmds tag
      groups := d.groups.filter (fun g => !(c.opc == 5 && c.grp == some g.id)) }

/-- cq_tail passes the entry, which is counted; the phase turns at the end of the CQ (R145, R184). -/
def tailPassed (r next phase : Nat) (d : Dev) : Dev :=
  let d1 := put (rgIdx r 1) 4 next (cnt (rgIdx r 2) 1 d)
  if next = 0 then put (rgIdx r 1) 6 (1 - phase) d1 else d1

/-- A status that is not 0 is counted and kept (R190). -/
def statusNoted (r cid status : Nat) (d : Dev) : Dev :=
  if status ≠ 0 then put (rgIdx r 2) 7 (fld cid 16 16 + fld status 0 16) (cnt (rgIdx r 2) 2 d) else d

/-- The place in the CQ after the one that is written next. -/
def nextTail (d : Dev) (r : Nat) : Nat := (od d (rgIdx r 1) 4 + 1) % max 1 (cqSize d r)

/-- The block as a completion leaves it, but for its entry's write. -/
def completed (tag : Nat) (c : Cmd) (d : Dev) : Dev :=
  statusNoted c.ring c.cid (report c d).1.status
    (tailPassed c.ring (nextTail d c.ring) (od d (rgIdx c.ring 1) 6) (tagReturned tag c d))

/-! ### completionPost by its cases -/

theorem completionPost_of_no_cmd {tag : Nat} {d : Dev} (h : cmd? d tag = none) : completionPost tag d = d := by
  unfold completionPost
  rw [h]

section
variable {tag : Nat} {d : Dev} {c : Cmd} (hc : cmd? d tag = some c)
include hc

theorem completionPost_of_not_next (hn : nextPost d c.ring ≠ some tag) : completionPost tag d = d := by
  unfold completionPost
  simp only [hc]
  rw [if_pos hn]

theorem completionPost_of_full (hn : nextPost d c.ring = some tag) (hf : nextTail d c.ring = od d (rgIdx c.ring 1) 5) :
    completionPost tag d = if (ring d c.ring).cqWait then d
      else cnt (rgIdx c.ring 2) 4 (updRing c.ring (fun x => { x with cqWait := true }) d) := by
  unfold nextTail at hf
  unfold completionPost
  simp only [hc]
  rw [if_neg (not_not.mpr hn), if_pos hf]

theorem completionPost_of_room (hn : nextPost d c.ring = some tag) (hf : nextTail d c.ring ≠ od d (rgIdx c.ring 1) 5) :
    completionPost tag d =
      pruneVers (postWrite (od d (rgIdx c.ring 0) 3)
        (od d (rgIdx c.ring 0) 5 + od d (rgIdx c.ring 1) 4 * (cqEntry d c (report c d).1).length)
        (cqEntry d c (report c d).1) [] (.cq c.ring c.cid (ring d c.ring).posted) (completed tag c d)) := by
  unfold nextTail at hf
  unfold completionPost
  simp only [hc]
  rw [if_neg (not_not.mpr hn), if_neg hf]
  rfl

end

/-! ### What each stage leaves -/

/-- A report takes free values, and nothing else (R11). -/
theorem report_state (c : Cmd) (d : Dev) : ∃ n, (report c d).2 = { d with free := n } := by
  unfold report
  split
  · exact ⟨_, rfl⟩
  · exact ⟨d.free, rfl⟩

theorem report_of_tame {c : Cmd} (d : Dev) (h : c.wild = false) :
    report c d = ({ status := c.status, v1 := v1Code c.status, result := c.qw1, xinfo := xinfo c }, d) := by
  simp [report, h]

section
variable (tag : Nat) (c : Cmd) (d : Dev)

@[simp] theorem tagReturned_cfg : (tagReturned tag c d).cfg = d.cfg := by
  obtain ⟨n, hn⟩ := report_state c d
  simp [tagReturned, hn]

@[simp] theorem od_tagReturned (i j : Nat) : od (tagReturned tag c d) i j = od d i j := by
  obtain ⟨n, hn⟩ := report_state c d
  exact od_congr (by simp) (by simp [tagReturned, hn]) i j

@[simp] theorem tagReturned_cmds : (tagReturned tag c d).cmds = tabErase d.cmds tag := by simp [tagReturned]

theorem ring_tagReturned_cseq : (ring (tagReturned tag c d) c.ring).cseq = ((ring d c.ring).cseq + 1) % 65536 := by
  obtain ⟨n, hn⟩ := report_state c d
  simp [tagReturned, hn]
  rfl

end

section
variable (r next phase : Nat) (d : Dev)

@[simp] theorem tailPassed_cfg : (tailPassed r next phase d).cfg = d.cfg := by
  unfold tailPassed
  split <;> simp

@[simp] theorem tailPassed_cmds : (tailPassed r next phase d).cmds = d.cmds := by
  unfold tailPassed
  split <;> simp

@[simp] theorem ring_tailPassed : ring (tailPassed r next phase d) r = ring d r := by
  unfold tailPassed
  split <;> simp

theorem od_tailPassed_errors : od (tailPassed r next phase d) (rgIdx r 2) 2 = od d (rgIdx r 2) 2 := by
  unfold tailPassed
  split <;> simp [od_put_ring_ne, od_cnt_ring_ne]

theorem counted_tailPassed : Counted d (tailPassed r next phase d) (rgIdx r 2) 1 1 := by
  have hc : od (tailPassed r next phase d) (rgIdx r 2) 1 = od (cnt (rgIdx r 2) 1 d) (rgIdx r 2) 1 := by
    unfold tailPassed
    split <;> simp [od_put_ring_ne]
  unfold Counted
  rw [hc]
  exact (cnt_spec (rgIdx r 2) 1 d).1

variable {r next phase d} (hr : r < d.cfg.rings) (h256 : r < 256)
include hr h256

theorem od_tailPassed_tail : od (tailPassed r next phase d) (rgIdx r 1) 4 = next % 65536 := by
  have hput : od (put (rgIdx r 1) 4 next (cnt (rgIdx r 2) 1 d)) (rgIdx r 1) 4 = next % 65536 :=
    od_put_ring_self (by simpa using hr) h256 (by decide) (by decide)
  unfold tailPassed
  split
  · rw [od_put_ring_ne (by decide) (by decide) (by decide), hput]
  · exact hput

theorem od_tailPassed_phase : od (tailPassed r next phase d) (rgIdx r 1) 6 =
    if next = 0 then (1 - phase) % 256 else od d (rgIdx r 1) 6 := by
  unfold tailPassed
  split
  · exact od_put_ring_self (by simpa using hr) h256 (by decide) (by decide)
  · rw [od_put_ring_ne (by decide) (by decide) (by decide), od_cnt_ring_ne (by decide) (by decide) (by decide)]

end

section
variable (r cid status : Nat) (d : Dev)

@[simp] theorem statusNoted_cmds : (statusNoted r cid status d).cmds = d.cmds := by
  unfold statusNoted
  split <;> simp

@[simp] theorem ring_statusNoted : ring (statusNoted r cid status d) r = ring d r := by
  unfold statusNoted
  split <;> simp

/-- The status kept and its count are all that it changes of the ring's entries. -/
theorem od_statusNoted_ne {a b : Nat} (hb : b < 256) (h : a ≠ 2 ∨ b ≠ 2 ∧ b ≠ 7) :
    od (statusNoted r cid status d) (rgIdx r a) b = od d (rgIdx r a) b := by
  unfold statusNoted
  split
  · rw [od_put_ring_ne (by decide) hb (by omega), od_cnt_ring_ne (by decide) hb (by omega)]
  · rfl

theorem counted_statusNoted (hs : status ≠ 0) : Counted d (statusNoted r cid status d) (rgIdx r 2) 2 1 := by
  unfold statusNoted
  rw [if_pos hs]
  unfold Counted
  rw [od_put_ring_ne (by decide) (by decide) (by decide)]
  exact (cnt_spec (rgIdx r 2) 2 d).1

end

/-! ### What a completion leaves -/

section
variable (tag : Nat) (c : Cmd) (d : Dev)

theorem completed_cmds : (completed tag c d).cmds = tabErase d.cmds tag := by simp [completed]

theorem ring_completed_cseq : (ring (completed tag c d) c.ring).cseq = ((ring d c.ring).cseq + 1) % 65536 := by
  simp [completed, ring_tagReturned_cseq]

theorem counted_completed : Counted d (completed tag c d) (rgIdx c.ring 2) 1 1 := by
  unfold completed
  unfold Counted
  rw [od_statusNoted_ne _ _ _ _ (by decide) (by decide)]
  exact counted_of_od_eq (by simp) (by simp) (counted_tailPassed _ _ _ _)

theorem counted_completed_errors (hs : (report c d).1.status ≠ 0) : Counted d (completed tag c d) (rgIdx c.ring 2) 2 1 :=
  counted_of_od_eq (by simp) (by rw [od_tailPassed_errors, od_tagReturned]) (counted_statusNoted _ _ _ _ hs)

variable {c d} (hr : c.ring < d.cfg.rings) (h256 : c.ring < 256)
include hr h256

theorem od_completed_tail : od (completed tag c d) (rgIdx c.ring 1) 4 = nextTail d c.ring % 65536 := by
  unfold completed
  rw [od_statusNoted_ne _ _ _ _ (by decide) (by decide), od_tailPassed_tail (by simpa using hr) h256]

theorem od_completed_phase : od (completed tag c d) (rgIdx c.ring 1) 6 =
    if nextTail d c.ring = 0 then (1 - od d (rgIdx c.ring 1) 6) % 256 else od d (rgIdx c.ring 1) 6 := by
  unfold completed
  rw [od_statusNoted_ne _ _ _ _ (by decide) (by decide), od_tailPassed_phase (by simpa using hr) h256, od_tagReturned]

end

end Sys2Proof.Machine
end

section
/-! SUPPORT. A write row that its checks accept: the effect of its entry, and the end of its command (03_object_dictionary.md
R122, R124). -/

namespace Sys2Proof.Machine

/-! ### Doorbells of internal units -/

/-- R501: a source below 1,024 leaves a doorbell and its flit to Bell, and nothing else changes. -/
theorem ringUnit_eq (u : NUnit) (src : Nat) (d : Dev) : ringUnit u src d = { d with
    dbq := d.dbq ++ (if src < 1024 then [.unit src] else [])
    net := if src < 1024 then (send u .bell .msg 1 d).net else d.net } := by
  unfold ringUnit
  split
  · rfl
  · rw [List.append_nil]

/-! ### Commands end -/

/-- R124: a command that is not aborted is counted, and od_done_source rings. -/
theorem ended_countEnd (d : Dev) : Ended d (countEnd none d) := by
  have hend : countEnd none d = ringUnit .ao (od d 0x1100 0x12) (cnt 0x1100 0x0F d) := rfl
  obtain ⟨hcnt, hkeep, hrest⟩ := cnt_spec 0x1100 0x0F d
  rw [hend, ringUnit_eq]
  refine ⟨hcnt, hkeep, ?_⟩
  rw [hrest]
  rfl

/-! ### Accepted writes -/

theorem holder_seen (m k key : Nat) (d : Dev) : holder (seen m d) k key = holder d k key := rfl

theorem closeHolder_of_none {m key : Nat} {d : Dev} (h : holder d m key = none) : closeHolder m key d = d := by
  unfold closeHolder
  rw [h]

/-- A write that is accepted takes effect on the entry written anew, and its command ends. -/
theorem rowFree_of_accepted {m idx sub v : Nat} {d : Dev} (h : Accepted d m idx sub v) :
    rowFree m idx sub v d = countEnd none (odEffect m none idx sub v (rewrite idx sub (seen m d))) := by
  obtain ⟨hen, herr, hab, hhold⟩ := h
  unfold rowFree rowNum writeNum
  simp only [herr, hen, hab, if_true, closeHolder_of_none ((holder_seen m m _ d).trans hhold)]

/-- A write row whose write is accepted does what its entry's effect does. -/
theorem writeDoes_of_accepted {c : Instr} {s : State} {m idx sub v : Nat} {eff : Dev → Dev → Prop}
    (hrun : exec c s = rowWrite m idx sub v s)
    (hnew : rewritten c (seen m s.dev) = rewrite idx sub (seen m s.dev)) (hacc : Accepted s.dev m idx sub v)
    (heff : eff (rewrite idx sub (seen m s.dev)) (odEffect m none idx sub v (rewrite idx sub (seen m s.dev)))) :
    WriteDoes c s m eff := by
  unfold WriteDoes
  rw [completes_run hrun, hnew, rowFree_of_accepted hacc]
  exact ⟨_, heff, ended_countEnd _⟩

end Sys2Proof.Machine
end

section
/-! SUPPORT. Enabling and draining a ring (04_work_rings.md R146, R189). -/

namespace Sys2Proof.Machine

/-! ### A write of ring_enable -/

theorem odEffect_ringEnable {m r v : Nat} {via : Option Nat} {d : Dev} (hr : r < d.cfg.rings) (h256 : r < 256) :
    odEffect m via (rgIdx r 0) 1 v d = ringEnable r v d := by
  have hkind : odKind d.cfg (rgIdx r 0) 1 = some (.bool, .rw) := by
    unfold odKind
    rw [if_neg (by decide), odRow_rgIdx hr h256 (by decide)]
    rfl
  have hidx : rgIdx r 0 ≠ 0x1201 := by unfold rgIdx; omega
  unfold odEffect
  simp only [hkind, odBase_rgIdx hr h256 (show 0 < 7 by decide), if_neg hidx]
  rfl

theorem rewritten_ringEnable {m r v : Nat} {d : Dev} (hr : r < d.cfg.rings) :
    rewritten (.ringEnable m r v) d = rewrite (rgIdx r 0) 1 d := by
  simp only [rewritten, rowEntry, idxIf, hr, decide_true, if_true]

/-! ### A ring enters ACTIVE -/

section
variable {r : Nat} {d : Dev} (hr : r < d.cfg.rings) (h256 : r < 256)
include hr h256

/-- R146: pointers at 0, the phase at 1. -/
theorem od_ringStart : ringState (ringStart r d) r = 1 ∧ (∀ i ∈ [2, 3, 4, 5], od (ringStart r d) (rgIdx r 1) i = 0) ∧
    od (ringStart r d) (rgIdx r 1) 6 = 1 := by
  unfold ringState ringStart
  simp (disch := simp [hr, h256]) only [List.forall_mem_cons, List.not_mem_nil, false_imp_iff, implies_true, and_true,
    od_put_ring_self, od_put_ring_ne]
  decide

end

/-- R189: what the ring held of an earlier life is dropped; a fetch still out is for it. -/
theorem ring_ringStart (r : Nat) (d : Dev) :
    (ring (ringStart r d) r).cseq = 0 ∧ (ring (ringStart r d) r).fetched = [] ∧
      (ring (ringStart r d) r).discard = decide (0 < (ring (ringStart r d) r).fetching) := by
  unfold ringStart
  simp only [ring_put, ring_updRing_self, and_true]
  exact ⟨rfl, rfl⟩

@[simp] theorem ringStart_groups (r : Nat) (d : Dev) : (ringStart r d).groups = d.groups := by simp [ringStart]

/-! ### ringEnable by its cases -/

theorem ringEnable_of_off {r : Nat} {d : Dev} (h : ringState d r = 0) :
    ringEnable r 1 d = ringStart r (put (rgIdx r 0) 1 1 d) := by
  simp [ringEnable, h]

/-- The ring as its drain begins: ring_enable and rg_state are written, and a fetch under way is for nothing. -/
def drainBegun (r : Nat) (d : Dev) : Dev :=
  updRing r (fun x => { x with discard := decide (0 < x.fetching) }) (put (rgIdx r 1) 1 2 (put (rgIdx r 0) 1 0 d))

theorem ringEnable_of_active {r : Nat} {d : Dev} (h : ringState d r = 1) : ringEnable r 0 d = abortRing r (drainBegun r d) := by
  simp [ringEnable, drainBegun, h]

theorem ringEnable_of_other {r v : Nat} {d : Dev} (h : v = 1 ∧ ringState d r ≠ 0 ∨ v = 0 ∧ ringState d r ≠ 1) :
    ringEnable r v d = put (rgIdx r 0) 1 v d := by
  rcases h with ⟨rfl, h⟩ | ⟨rfl, h⟩ <;> simp [ringEnable, h]

section
variable {r : Nat} {d : Dev} (hr : r < d.cfg.rings) (h256 : r < 256)
include hr h256

/-- ring_enable reads as it was written. -/
theorem od_put_enable {v : Nat} (hv : v < 256) : od (put (rgIdx r 0) 1 v d) (rgIdx r 0) 1 = v := by
  rw [od_put_ring_self hr h256 (by decide) (by decide)]
  exact Nat.mod_eq_of_lt hv

theorem drainBegun_spec : ringState (drainBegun r d) r = 2 ∧ od (drainBegun r d) (rgIdx r 0) 1 = 0 ∧
    (ring (drainBegun r d) r).discard = decide (0 < (ring d r).fetching) := by
  unfold drainBegun ringState
  refine ⟨?_, ?_, ?_⟩
  · rw [od_updRing, od_put_ring_self (by simpa using hr) h256 (by decide) (by decide)]
    decide
  · rw [od_updRing, od_put_ring_ne (by decide) (by decide) (by decide), od_put_enable hr h256 (by decide)]
  · rw [ring_updRing_self]
    rfl

end

/-! ### A drain ends -/

theorem ringDrained_of_idle {r : Nat} {d : Dev} (h : d.cfg.rings ≤ r ∨ ringState d r ≠ 2 ∨ inflight d r ≠ 0) :
    ringDrained r d = d := by
  unfold ringDrained
  rw [if_neg]
  rintro ⟨hr, hs, hi⟩
  rcases h with h | h | h
  · omega
  · exact h hs
  · exact h hi

/-- The groups of a ring that its drain aborted are gone. -/
def groupsGone (r : Nat) (d : Dev) : Dev := { d with groups := d.groups.filter (fun g => g.ring != r) }

theorem ringDrained_of_drained {r : Nat} {d : Dev} (hr : r < d.cfg.rings) (hs : ringState d r = 2) (hi : inflight d r = 0) :
    ringDrained r d = if od d (rgIdx r 0) 1 = 1 then ringStart r (groupsGone r d)
      else put (rgIdx r 1) 1 0 (groupsGone r d) := by
  unfold ringDrained
  rw [if_pos ⟨hr, hs, hi⟩]
  rfl

end Sys2Proof.Machine
end

section
/-! SUPPORT. Completions posted, their doorbells, ring_enable and drains (04_work_rings.md R182 to R189): the statement, from
what posting, ringing, enabling and draining do. -/

namespace Sys2Proof.Machine

/-! ### The rows -/

theorem completes_completionPost {tag : Nat} {s : State} {P : Dev → Prop} :
    Completes (.completionPost tag) s P ↔ P (completionPost tag s.dev) := completes_run rfl

theorem completes_completionBell {r : Nat} {s : State} {P : Dev → Prop} :
    Completes (.completionBell r) s P ↔ P (completionBell r s.dev) := completes_run rfl

theorem completes_ringDrained {r : Nat} {s : State} {P : Dev → Prop} :
    Completes (.ringDrained r) s P ↔ P (ringDrained r s.dev) := completes_run rfl

theorem exec_ringEnable {m r v : Nat} {s : State} (hr : r < s.dev.cfg.rings) :
    exec (.ringEnable m r v) s = rowWrite m (rgIdx r 0) 1 v s := by
  show rowAt m r (·.rings) (rgIdx r 0) 1 v s = _
  unfold rowAt
  rw [if_pos hr]

/-! ### The CQ is full -/

/-- R145: a completion that finds no room waits, counted once. -/
theorem completionPost_full_spec {tag : Nat} {c : Cmd} {d : Dev} (hc : cmd? d tag = some c)
    (hn : nextPost d c.ring = some tag) (hf : nextTail d c.ring = od d (rgIdx c.ring 1) 5) :
    (ring (completionPost tag d) c.ring).cqWait = true ∧ (completionPost tag d).cmds = d.cmds ∧
      ((ring d c.ring).cqWait = false → Counted d (completionPost tag d) (rgIdx c.ring 2) 4 1) ∧
      ((ring d c.ring).cqWait = true → completionPost tag d = d) := by
  rw [completionPost_of_full hc hn hf]
  cases hw : (ring d c.ring).cqWait with
  | true => simp [hw]
  | false =>
    simp only [Bool.false_eq_true, if_false, ring_cnt, ring_updRing_self, cnt_cmds, updRing_cmds, false_imp_iff, and_true,
      true_and, true_imp_iff]
    exact counted_of_od_eq (updRing_cfg _ _ _) (od_updRing _ _ _ _ _) (cnt_spec _ _ _).1

/-! ### The doorbell -/

/-- The ring's record without a doorbell that was due. -/
def bellGone (r : Nat) (b : RBell) (d : Dev) : Dev :=
  updRing r (fun x => { x with bells := x.bells.filter (fun y => y.no ≠ b.no) }) d

theorem ring_bellGone (r : Nat) (b : RBell) (d : Dev) :
    ring (bellGone r b d) r = { ring d r with bells := (ring d r).bells.filter (fun y => y.no ≠ b.no) } :=
  ring_updRing_self _ _ _

/-- R187: the first completion whose write has departed, or landed, rings once, from its ring's port. -/
theorem completionBell_of_some {r : Nat} {d : Dev} {b : RBell}
    (hb : (ring d r).bells.find? (fun b => if od d (rgIdx r 0) 0x0B = 1 then b.departed else b.landed) = some b) :
    completionBell r d = ringUnit (.port (od d (rgIdx r 0) 3)) b.src (bellGone r b d) := by
  unfold completionBell
  simp only [hb]
  rfl

theorem completionBell_of_none {r : Nat} {d : Dev}
    (hb : (ring d r).bells.find? (fun b => if od d (rgIdx r 0) 0x0B = 1 then b.departed else b.landed) = none) :
    completionBell r d = d := by
  unfold completionBell
  rw [hb]

/-! ### The statement -/

/-- Settles O41: each clause is what one of the functions does in one of its cases. -/
theorem ringCompletions : Obligations.RingCompletions := by
  unfold Obligations.RingCompletions
  intro s
  refine ⟨?post, ?absent, ?bell, ?enable, ?drained, ?idle⟩
  case post =>
    intro tag c hc hr h256
    refine ⟨fun hn => ?_, fun hn hf => ?_, fun hn hf => ?_⟩
    · exact completes_completionPost.mpr (completionPost_of_not_next hc hn)
    · exact completes_completionPost.mpr (completionPost_full_spec hc hn hf)
    · refine completes_completionPost.mpr ⟨completed tag c s.dev, completionPost_of_room hc hn hf, ?_⟩
      have hphase := od_completed_phase tag hr h256
      refine ⟨fun hw => report_of_tame _ hw, cmd?_of_cmds_erased (completed_cmds _ _ _),
        fun k hk => cmd?_of_cmds_erased_ne (completed_cmds _ _ _) hk, od_completed_tail tag hr h256,
        fun h0 => hphase.trans (if_pos h0), fun h0 => hphase.trans (if_neg h0), counted_completed _ _ _,
        ring_completed_cseq _ _ _, fun hs => counted_completed_errors _ _ _ hs⟩
  case absent => exact fun tag hn => completes_completionPost.mpr (completionPost_of_no_cmd hn)
  case bell =>
    intro r
    refine ⟨fun hn => completes_completionBell.mpr (completionBell_of_none hn), fun b hb => ?_⟩
    rw [completes_completionBell, completionBell_of_some hb, ringUnit_eq]
    exact ⟨rfl, ring_bellGone r b s.dev, fun hlt => if_pos hlt, fun hge => if_neg (Nat.not_lt.mpr hge), rfl⟩
  case enable =>
    intro m r v hr h256 hacc
    refine writeDoes_of_accepted (exec_ringEnable hr) (rewritten_ringEnable hr) hacc ?_
    generalize hd : rewrite (rgIdx r 0) 1 (seen m s.dev) = d
    have hr : r < d.cfg.rings := by subst hd; exact hr
    rw [odEffect_ringEnable hr h256]
    refine ⟨fun hv h0 => ?_, fun hv h1 => ?_, fun h => ?_⟩
    · subst hv
      rw [ringEnable_of_off h0]
      obtain ⟨hst, hptr, hph⟩ := od_ringStart (d := put (rgIdx r 0) 1 1 d) hr h256
      exact ⟨hst, hptr, hph, ring_ringStart _ _⟩
    · subst hv
      exact ⟨drainBegun r d, ringEnable_of_active h1, drainBegun_spec hr h256⟩
    · have hv : v < 256 := by omega
      rw [ringEnable_of_other h]
      exact ⟨od_put_enable hr h256 hv, keeps_put d (by simp), rfl⟩
  case drained =>
    intro r hr h256 hs hi
    have hgone : r < (groupsGone r s.dev).cfg.rings := hr
    rw [completes_ringDrained, ringDrained_of_drained hr hs hi]
    by_cases he : od s.dev (rgIdx r 0) 1 = 1
    · simp only [he, if_true]
      obtain ⟨hst, hptr, -⟩ := od_ringStart hgone h256
      exact ⟨ringStart_groups _ _, hst, hptr⟩
    · simp only [he, if_false]
      refine ⟨put_groups _ _ _ _, od_put_ring_self hgone h256 (by decide) (by decide), ?_, rfl⟩
      exact keeps_put (groupsGone r s.dev) (by simp)
  case idle => exact fun r h => completes_ringDrained.mpr (ringDrained_of_idle h)

end Sys2Proof.Machine
end

section
/-! SUPPORT. A configuration of 289 channels, which R2 does not support and which the statement on microcode events does not
exclude. Channel 288's active timing set stands at 0x3009 + 0x40 * 288 = 0x7809, the index of the counters of SB bank 2
(13_queues_and_buffers.md R499): a data-in that corrects a word of that bank changes what the channel's own condition 15
reads (08_microcode.md R322), so that the word's condition is not the one of the block before it. -/

namespace Sys2Proof.Machine

/-- A domain that is ON. -/
def onDom : Dom := { Dom.reset with st := .on }

/-- The D8 configuration but for its 289 channels. -/
def wideParams : Params := { Params.d8 with channels := 289 }

/-- Channel 288 runs a routine for a status burst in patch RAM; event 1 is pending, enabled and has a handler; a data-in
reads one byte of SB bank 2, whose word has one wrong check bit; one corrected error of the bank is counted. -/
def wideDev : Dev :=
  { Dev.reset with
    cfg := wideParams
    od := [(ek 0x7809 1, 1)]
    doms := [(domCh 288 0, onDom), (domCh 288 1, onDom), (domCh 288 2, onDom), (domCh 288 3, onDom),
      (domSb wideParams 0, onDom)]
    lan := { Lan.reset with flips := [(2 * 65536, 2 ^ 64)] }
    chans := [(288, { Chan.reset with bus := some (.status 0) })]
    seqs := [(288, { Seq.reset with
      running := true, pc := 0xC00, g := [(6, 16384), (9, 1)], epend := 2, emask := 2, disp := [(64 + 1, 0x8321)] })] }

/-- A branch to 0x123 on a timing set whose mode is above 1, with a data-in, at a safe point. -/
def wideWord : UWord :=
  { nx := 1, nxa := 0x123, cc := 15, ccn := false, sp := true, dsel := 0, bop := 3, bimm := 0, bsrc := 15, aop := 0, ra := 1,
    rb := 2, imm := 0, emv := 0, emw := false, tsel := 0, top := 0, post := 0 }

/-- Nothing happens on the channel's bus beside the word. -/
def quietEnv : UEnv :=
  { rb := false, timer := false, xfer := false, dqs := false, rawRoom := false, stat := 0, data := 0, ecc := .ok, hold := 0,
    events := 0 }

theorem eventDue_wide : eventDue wideDev 288 (.status 0) wideWord quietEnv 1 := by
  unfold eventDue wordRuns
  decide +kernel

/-- The condition that the block before the word gives does not hold, so the statement has the event return to 0xC01. -/
theorem wordCond_wide :
    wordCond wideDev (ucWord 288 wideWord quietEnv wideDev) 288 (.status 0) wideWord quietEnv = false := by
  decide +kernel

/-- The data-in has counted a second corrected error, the condition holds, and the event returns to 0x123. -/
theorem return_wide :
    ((seq (ucWord 288 wideWord quietEnv wideDev) 288).stack.head?).map (·.1) = some 0x123 := by
  decide +kernel

/-- Refutes O55: with 289 channels the address an event returns to is not the one that the block before the word gives. The
statement bounds a channel by the configuration's channels only, not by the 32 of R2, within which no entry of a channel is one
of a bank. -/
theorem not_microcodeEventsAndFaults : ¬ Obligations.MicrocodeEventsAndFaults := by
  unfold Obligations.MicrocodeEventsAndFaults
  intro h
  have hrow : (Instr.branch, fun w : UWord => { w with nx := 1 }) ∈ ucRows := by simp [ucRows]
  obtain ⟨-, -, -, -, -, -, -, -, hevent⟩ := h _ hrow { dev := wideDev, pending := [] } 288 wideWord quietEnv
  obtain ⟨-, htaken⟩ := hevent (.status 0) 1 eventDue_wide (by decide +kernel)
  obtain ⟨-, -, -, hreturn, -⟩ := (completes_run rfl).mp (htaken 0x321 (by decide +kernel))
  have hnext : (seq wideDev 288).pc + 1 = 0x123 := by
    have hif : some (if wordCond wideDev (ucWord 288 wideWord quietEnv wideDev) 288 (.status 0) wideWord quietEnv then
        wideWord.nxa else (seq wideDev 288).pc + 1) = some 0x123 := hreturn.symm.trans return_wide
    rw [wordCond_wide] at hif
    exact Option.some.inj hif
  exact absurd hnext (by decide +kernel)

end Sys2Proof.Machine
end

section
/-! SUPPORT. What a port sends (02_ports.md R45, R53, R55, R57): the frame of a header posted, and that an answer is the last
header sent or waits in its queue. -/

namespace Sys2Proof.Machine

/-! ### A port's record -/

@[simp] theorem port_updPort_self (p : Nat) (f : Port → Port) (d : Dev) : port (updPort p f d) p = f (port d p) := by
  simp [port, updPort]

theorem port_updPort_ne {p q : Nat} (f : Port → Port) (d : Dev) (h : q ≠ p) : port (updPort p f d) q = port d q :=
  tabGet_tabSet_ne _ _ _ _ h

/-- A ring's record other than the one changed stays. -/
theorem ring_updRing_ne {r q : Nat} (f : Ring → Ring) (d : Dev) (h : q ≠ r) : ring (updRing r f d) q = ring d q :=
  tabGet_tabSet_ne _ _ _ _ h

/-- An event counted leaves the ports alone. -/
@[simp] theorem port_cntN (i j n p : Nat) (d : Dev) : port (cntN i j n d) p = port d p := by
  unfold port
  rw [(cntN_spec i j n d).2.2]

/-! ### Headers leave in order -/

/-- A response that stands last in a port's queue leaves as the last header, or still waits (R57). -/
theorem sendAll_last_or_waits {m : OutMsg} (hm : m.isReq = false) (l : List OutMsg) (x : Port) (blk : List YppClass)
    (dep : List Owner) (n : Nat) :
    (Port.sendAll x (l ++ [m]) blk dep n).1.last = some m ∨ m ∈ (Port.sendAll x (l ++ [m]) blk dep n).2.1 := by
  induction l generalizing x blk dep n with
  | nil =>
    simp only [List.nil_append, Port.sendAll]
    split
    · exact .inr (List.mem_cons_self ..)
    · exact .inl (by simp [Port.sendHdr, hm])
  | cons y l ih =>
    simp only [List.cons_append, Port.sendAll]
    split
    · exact (ih ..).imp_right (List.mem_cons_of_mem _)
    · exact ih ..

/-- So a response put in the queue is the last header after the queues have run, or waits. -/
theorem pump_last_or_waits {m : OutMsg} (hm : m.isReq = false) (x : Port) :
    (Port.pump { x with hdrQ := x.hdrQ ++ [m] }).1.last = some m ∨ m ∈ (Port.pump { x with hdrQ := x.hdrQ ++ [m] }).1.hdrQ :=
  sendAll_last_or_waits hm x.hdrQ { x with hdrQ := [] } [] [] 0

/-! ### What running a port's queues leaves alone -/

/-- A departure is noted in a ring's record or at Tender. -/
theorem depart_eq (o : Owner) (d : Dev) : depart o d = { d with rings := (depart o d).rings, tender := (depart o d).tender } := by
  cases o <;> rfl

theorem foldl_depart_eq (l : List Owner) (d : Dev) : ∃ r t, l.foldl (fun y o => depart o y) d = { d with rings := r, tender := t } := by
  induction l generalizing d with
  | nil => exact ⟨d.rings, d.tender, rfl⟩
  | cons o l ih =>
    obtain ⟨r, t, h⟩ := ih (depart o d)
    refine ⟨r, t, ?_⟩
    rw [List.foldl_cons, h, depart_eq o d]

/-- The entries that count what a port sends (R79). -/
def sentKeys (p : Nat) : List Nat := [ek (0x5000 + 0x10 * p) 0x0B, ek (0x5000 + 0x10 * p) 0x0C]

/-- The port's record after its queues have run, and all else that running them changes. -/
theorem pump_spec (p : Nat) (d : Dev) :
    port (pump p d) p = (port d p).pump.1 ∧ (∀ q, q ≠ p → port (pump p d) q = port d q) ∧
    KeepsEntries d (pump p d) (sentKeys p) ∧
    pump p d = { d with
      od := (pump p d).od, sat := (pump p d).sat, ports := (pump p d).ports, rings := (pump p d).rings,
      tender := (pump p d).tender } := by
  let d1 := updPort p (fun _ => (port d p).pump.1) d
  let d2 := cntN (0x5000 + 0x10 * p) 0x0C (port d p).pump.2.2.1 d1
  let d3 := cntN (0x5000 + 0x10 * p) 0x0B (port d p).pump.2.2.2 d2
  obtain ⟨r, t, h⟩ := foldl_depart_eq (port d p).pump.2.1 d3
  have hp : pump p d = { d3 with rings := r, tender := t } := h
  obtain ⟨-, hk2, he2⟩ := cntN_spec (0x5000 + 0x10 * p) 0x0C (port d p).pump.2.2.1 d1
  obtain ⟨-, hk3, he3⟩ := cntN_spec (0x5000 + 0x10 * p) 0x0B (port d p).pump.2.2.2 d2
  have hports : ∀ q, port (pump p d) q = port d1 q := by
    intro q
    rw [hp]
    exact (port_cntN _ _ _ _ _).trans (port_cntN _ _ _ _ _)
  refine ⟨by rw [hports, port_updPort_self], fun q hq => by rw [hports, port_updPort_ne _ _ hq], fun k hk => ?_, ?_⟩
  · simp only [sentKeys, List.mem_cons, List.not_mem_nil, or_false, not_or] at hk
    rw [hp]
    exact (hk3 k (by simpa using hk.1)).trans (hk2 k (by simpa using hk.2))
  · rw [hp]
    show ({ d3 with rings := r, tender := t } : Dev) = _
    rw [show d3 = _ from he3, show d2 = _ from he2]
    rfl

/-! ### A header posted -/

/-- The unit's request flits travel to the port. -/
theorem sendReq_eq (p : Nat) (m : OutMsg) (d : Dev) : sendReq p m d = { d with net := (sendReq p m d).net } := by
  have hone : ∀ o a b c n (x : Dev), sendFor o a b c n x = { x with net := (sendFor o a b c n x).net } := by
    intro o a b c n x
    obtain ⟨y, hy⟩ := sendFor_spec o a b c n x
    rw [hy]
  unfold sendReq
  split
  · rfl
  · dsimp only
    split
    · rw [hone, hone]
    · rw [hone]

/-- Posting a header changes its port's record, what counts the sent, the notes of what departed and the network. -/
theorem post_spec (p : Nat) (m : OutMsg) (d : Dev) :
    (∀ q, q ≠ p → port (post p m d) q = port d q) ∧ KeepsEntries d (post p m d) (sentKeys p) ∧
    post p m d = { d with
      od := (post p m d).od, sat := (post p m d).sat, ports := (post p m d).ports, rings := (post p m d).rings,
      tender := (post p m d).tender, net := (sendReq p m d).net } := by
  obtain ⟨-, hne, hk, he⟩ := pump_spec p (updPort p (fun x => { x with hdrQ := x.hdrQ ++ [m] }) (sendReq p m d))
  have hreq := sendReq_eq p m d
  refine ⟨fun q hq => ?_, fun k hk' => ?_, ?_⟩
  · refine (hne q hq).trans ((port_updPort_ne _ _ hq).trans ?_)
    rw [hreq]
    rfl
  · refine (hk k hk').trans ?_
    show getK (sendReq p m d) k = _
    rw [hreq]
    rfl
  · unfold post
    rw [he, hreq]
    rfl

@[simp] theorem post_lan (p : Nat) (m : OutMsg) (d : Dev) : (post p m d).lan = d.lan := by
  obtain ⟨-, -, he⟩ := post_spec p m d
  rw [he]

@[simp] theorem postWrite_lan (p a : Nat) (bs : Bytes) (bad : List (Nat × Nat)) (o : Owner) (d : Dev) :
    (postWrite p a bs bad o d).lan = d.lan := post_lan ..

/-! ### Answers (R53, R69) -/

/-- An answer is sent, or waits, and only what a port sends with it changes. -/
theorem answer_spec {p op status txid : Nat} {d : Dev} (hop : op ≠ 1 ∧ op ≠ 2 ∧ op ≠ 4) :
    Answers (answer p op status txid d) p op status txid ∧ AnswerFrame d (answer p op status txid d) p [] := by
  let m : OutMsg :=
    { cls := .rsp, op := op, addr := 0, len := 0, status := status, txid := txid, mdata := 0, data := [], bad := [],
      own := .answer }
  have hm : m.isReq = false := by simp [m, OutMsg.isReq, hop]
  obtain ⟨hne, hk, he⟩ := post_spec p m d
  refine ⟨?_, hk, hne, he⟩
  unfold Answers
  show (port (post p m d) p).last = some m ∨ m ∈ (port (post p m d) p).hdrQ
  have hport : port (post p m d) p = (Port.pump { port d p with hdrQ := (port d p).hdrQ ++ [m] }).1 := by
    unfold post
    rw [(pump_spec _ _).1, port_updPort_self]
    rfl
  rw [hport]
  exact pump_last_or_waits hm _

end Sys2Proof.Machine
end

section
/-! SUPPORT. What a port does with a flit of its target side that it does not serve as it comes (02_ports.md R45, R46, R60, R72,
R75). -/

namespace Sys2Proof.Machine

/-! ### The ingress queue's watermarks -/

/-- R76, R78: the watermarks move fx_xoff and its count, and no more. -/
theorem xoffUpdate_spec (p : Nat) (d : Dev) :
    (port (xoffUpdate p d) p).inQ = (port d p).inQ ∧ (port (xoffUpdate p d) p).iCr = (port d p).iCr ∧
    (∀ q, q ≠ p → port (xoffUpdate p d) q = port d q) ∧ KeepsEntries d (xoffUpdate p d) [ek (0x5000 + 0x10 * p) 6] ∧
    xoffUpdate p d = { d with
      od := (xoffUpdate p d).od, sat := (xoffUpdate p d).sat, ports := (xoffUpdate p d).ports } := by
  have hset : ∀ b : Bool, port (updPort p (fun y => { y with xoff := b }) d) p = { port d p with xoff := b } :=
    fun b => port_updPort_self _ _ _
  have hne : ∀ b : Bool, ∀ q, q ≠ p → port (updPort p (fun y => { y with xoff := b }) d) q = port d q :=
    fun b q hq => port_updPort_ne _ _ hq
  obtain ⟨-, hk, he⟩ := cnt_spec (0x5000 + 0x10 * p) 6 (updPort p (fun y => { y with xoff := true }) d)
  unfold xoffUpdate
  dsimp only
  split
  · exact ⟨by rw [hset], by rw [hset], hne false, keeps_refl _ _, rfl⟩
  · split
    · refine ⟨?_, ?_, fun q hq => ?_, hk, ?_⟩
      · rw [cnt, port_cntN, hset]
      · rw [cnt, port_cntN, hset]
      · rw [cnt, port_cntN, hne true q hq]
      · rw [he]
        rfl
    · split
      · exact ⟨by rw [hset], by rw [hset], hne false, keeps_refl _ _, rfl⟩
      · exact ⟨rfl, rfl, fun _ _ => rfl, keeps_refl _ _, rfl⟩

/-- R46: a request that waits stands last in the ingress queue and keeps its credit. -/
theorem queueIn_spec (p : Nat) (k : YppClass) (c : Instr) (d : Dev) :
    (port (queueIn p k c d) p).inQ = (port d p).inQ ++ [c] ∧
    (port (queueIn p k c d) p).iCr = (port d p).iCr.set k ((port d p).iCr.get k - 1) ∧
    (∀ q, q ≠ p → port (queueIn p k c d) q = port d q) ∧
    SameBut d (queueIn p k c d) (fun x => { x with ports := (queueIn p k c d).ports }) [ek (ptIdx p) 6] := by
  unfold queueIn
  generalize hf : (fun x : Port => { x with
    iCr := x.iCr.set k (x.iCr.get k - 1), inQ := x.inQ ++ [c], inPeak := max x.inPeak (x.inQ.length + 1) }) = f
  obtain ⟨hq, hc, hne, hk, he⟩ := xoffUpdate_spec p (updPort p f d)
  rw [port_updPort_self] at hq hc
  subst hf
  refine ⟨hq, hc, fun q hq' => (hne q hq').trans (port_updPort_ne _ _ hq'), hk, ?_⟩
  rw [he]
  rfl

/-! ### The ways of a flit -/

section
variable {c i : Instr} {s : State} {p : Nat} {k : YppClass} {waits : Dev → Bool}
  {f : State → Host.Outcome State Fault Refusal}

/-- A flit whose port takes it, and whose destination does not wait, is served. -/
theorem inbound_of_taken (h : PortTakes s.dev p k) (hw : waits s.dev = false) :
    inbound p k i waits f s = f { s with dev := creditPulse p k 1 s.dev } := by
  obtain ⟨hl, hc, hr, hq⟩ := h
  simp [inbound, hl, hc, hr, hq, hw]

theorem completes_of_taken {g : Dev → Dev} {P : Dev → Prop} (hx : exec c s = inbound p k i waits (run g) s)
    (h : PortTakes s.dev p k) (hw : waits s.dev = false) : Completes c s P ↔ P (g (creditPulse p k 1 s.dev)) :=
  completes_run (f := fun d => g (creditPulse p k 1 d)) (hx.trans (inbound_of_taken h hw))

/-- One whose destination waits stands in the ingress queue. -/
theorem completes_of_waits {P : Dev → Prop} (hx : exec c s = inbound p k i waits f s) (h : PortTakes s.dev p k)
    (hw : waits s.dev = true) : Completes c s P ↔ P (queueIn p k i s.dev) := by
  obtain ⟨hl, hc, -, -⟩ := h
  refine completes_run (hx.trans ?_)
  simp [inbound, hl, hc, hw]

/-- R45, R46, R60, R72, R75: what a port does with a flit that it does not serve as it comes. -/
theorem heldOrRefused_of_inbound (h : exec c s = inbound p k c waits f s) : heldOrRefused p k c s := by
  refine ⟨fun hl => ?_, fun hl hc => ?_, fun hl hc hw => ?_⟩
  · refine (completes_run (f := id) ?_).mpr rfl
    rw [h]
    simp [inbound, hl]
  · refine (completes_run (f := framing p) ?_).mpr rfl
    rw [h]
    simp [inbound, hl, hc]
  · refine (completes_run (f := queueIn p k c) ?_).mpr (queueIn_spec p k c s.dev)
    rw [h]
    rcases hw with hw | hw <;> simp [inbound, hl, hc, hw]

end

end Sys2Proof.Machine
end

section
/-! SUPPORT. Doorbells of a ring (02_ports.md R61 to R63, 04_work_rings.md R147 to R149). -/

namespace Sys2Proof.Machine

/-! ### New pointers (R148) -/

theorem tailTaken_newTail {r v : Nat} {d : Dev} (hr : r < d.cfg.rings) (h256 : r < 256) (hv : v < 65536) :
    tailTaken r v d (newTail r v d) := by
  unfold tailTaken newTail
  dsimp only
  split
  · refine ⟨?_, by rw [ring_updRing_self, ring_put], fun q hq => ring_updRing_ne _ _ hq, keeps_put d (by simp), rfl⟩
    rw [od_updRing, od_put_ring_self hr h256 (by decide) (by decide)]
    exact Nat.mod_eq_of_lt hv
  · exact cnt_spec _ _ d

theorem headTaken_newCqHead {r v : Nat} {d : Dev} (hr : r < d.cfg.rings) (h256 : r < 256) (hv : v < 65536) :
    headTaken r v d (newCqHead r v d) := by
  unfold headTaken newCqHead
  dsimp only
  split
  · refine ⟨?_, by rw [ring_updRing_self, ring_put], fun q hq => ring_updRing_ne _ _ hq, keeps_put d (by simp), rfl⟩
    rw [od_updRing, od_put_ring_self hr h256 (by decide) (by decide)]
    exact Nat.mod_eq_of_lt hv
  · exact cnt_spec _ _ d

@[simp] theorem newTail_cfg (r v : Nat) (d : Dev) : (newTail r v d).cfg = d.cfg := by
  unfold newTail badDb
  dsimp only
  split <;> simp

@[simp] theorem newCqHead_cfg (r v : Nat) (d : Dev) : (newCqHead r v d).cfg = d.cfg := by
  unfold newCqHead badDb
  dsimp only
  split <;> simp

@[simp] theorem dbSqWord_cfg (r v : Nat) (d : Dev) : (dbSqWord r v d).cfg = d.cfg := by
  unfold dbSqWord
  dsimp only
  split <;> simp

/-- R147: a DB_SQ word is a new sq_tail, and on a v1 ring a new cq_head too. -/
theorem sqWordTaken_dbSqWord {r : Nat} {v : BitVec 32} {d : Dev} (hr : r < d.cfg.rings) (h256 : r < 256) :
    sqWordTaken r v d (dbSqWord r v.toNat d) := by
  have hv := v.isLt
  have htail : tailTaken r (v.toNat % 65536) d (newTail r (v.toNat % 65536) d) := tailTaken_newTail hr h256 (by omega)
  unfold sqWordTaken dbSqWord
  dsimp only
  split
  · exact ⟨_, htail, headTaken_newCqHead (by simpa using hr) h256 (by omega)⟩
  · exact htail

/-! ### One doorbell arrives -/

theorem dbAnswer_taken {p r txid : Nat} {sq cq : Option (BitVec 32)} {d : Dev} (hr : r < d.cfg.rings) (h256 : r < 256) :
    dbTaken p r txid sq cq d (dbAnswer p r txid (dbHalves r sq cq) d) := by
  unfold dbAnswer
  rw [if_pos hr]
  obtain ⟨hans, hframe⟩ := answer_spec (p := p) (op := 0xA) (status := 0) (txid := txid) (d := d) (by decide)
  generalize answer p 0xA 0 txid d = x at hans hframe
  have hx : r < x.cfg.rings := by
    rw [hframe.2.2]
    exact hr
  have hcq : ∀ (w : BitVec 32) (y : Dev), r < y.cfg.rings → headTaken r (w.toNat % 65536) y (newCqHead r (w.toNat % 65536) y) :=
    fun w y hy => headTaken_newCqHead hy h256 (Nat.mod_lt _ (by decide))
  unfold dbTaken dbHalves
  cases sq with
  | none =>
    refine ⟨x, x, hans, hframe, rfl, ?_⟩
    cases cq with
    | none => rfl
    | some w => exact hcq w x hx
  | some v =>
    refine ⟨x, dbSqWord r v.toNat x, hans, hframe, sqWordTaken_dbSqWord hx h256, ?_⟩
    cases cq with
    | none => rfl
    | some w => exact hcq w _ (by simpa using hx)

/-- R62: a doorbell for a ring that is not there is answered DECODE and counted. -/
theorem dbAnswer_absent {p r txid : Nat} {f : Dev → Dev} {d : Dev} (hr : d.cfg.rings ≤ r) :
    Answers (dbAnswer p r txid f d) p 0xA 2 txid ∧ Counted d (dbAnswer p r txid f d) (ptIdx p) 0x0A 1 ∧
      AnswerFrame d (dbAnswer p r txid f d) p [ek (ptIdx p) 0x0A] := by
  unfold dbAnswer
  rw [if_neg (by omega)]
  obtain ⟨hans, hkeep, hne, heq⟩ := answer_spec (p := p) (op := 0xA) (status := 2) (txid := txid) (d := d) (by decide)
  generalize answer p 0xA 2 txid d = x at hans hkeep hne heq
  obtain ⟨hcnt, honly, hsame⟩ := cnt_spec (ptIdx p) 0x0A x
  have hport : ∀ q, port (cnt (ptIdx p) 0x0A x) q = port x q := fun q => port_cntN _ _ _ _ _
  refine ⟨?_, counted_of_od_eq (by rw [heq]) (hkeep _ ?_) hcnt, fun k hk => ?_, fun q hq => (hport q).trans (hne q hq), ?_⟩
  · unfold Answers
    rw [hport]
    exact hans
  · simp only [ptIdx, ek, List.mem_cons, List.not_mem_nil, or_false]
    omega
  · simp only [List.mem_cons, List.not_mem_nil, or_false, not_or] at hk
    obtain ⟨hb, hc, ha⟩ := hk
    exact (honly k (by simpa using ha)).trans (hkeep k (by simp [hb, hc]))
  · rw [hsame, heq]

/-! ### The rows -/

/-- The row of a doorbell by the halves it writes. -/
theorem dbRow_cases {p r txid : Nat} {same : List SameDb} {sq cq : Option (BitVec 32)} {c : Instr}
    (hc : dbRow p r txid same sq cq = some c) :
    (∃ v w, sq = some v ∧ cq = some w ∧ c = .dbBoth p r v w ⟨txid, same⟩) ∨
    (∃ v, sq = some v ∧ cq = none ∧ c = .dbSq p r v ⟨txid, same⟩) ∨
    (∃ w, sq = none ∧ cq = some w ∧ c = .dbCq p r w ⟨txid, same⟩) := by
  match sq, cq with
  | some v, some w => exact .inl ⟨v, w, rfl, rfl, (Option.some.inj hc).symm⟩
  | some v, none => exact .inr (.inl ⟨v, rfl, rfl, (Option.some.inj hc).symm⟩)
  | none, some w => exact .inr (.inr ⟨w, rfl, rfl, (Option.some.inj hc).symm⟩)
  | none, none => exact nomatch hc

/-- A doorbell's row, alone or with another, takes its doorbells in increasing port number (R61). -/
theorem exec_dbRow {p r txid : Nat} {same : List SameDb} {sq cq : Option (BitVec 32)} {c : Instr} (s : State)
    (hc : dbRow p r txid same sq cq = some c) : exec c s = doorbells r (⟨p, txid, sq, cq⟩ :: same) s := by
  obtain ⟨v, w, rfl, rfl, rfl⟩ | ⟨v, rfl, rfl, rfl⟩ | ⟨w, rfl, rfl, rfl⟩ := dbRow_cases hc <;> rfl

/-- A doorbell that comes alone. -/
theorem oneDb_eq {p r txid : Nat} {sq cq : Option (BitVec 32)} {c : Instr} (s : State)
    (hc : dbRow p r txid [] sq cq = some c) :
    oneDb r ⟨p, txid, sq, cq⟩ s = inbound p .msg c (dbWaits r) (run (dbAnswer p r txid (dbHalves r sq cq))) s := by
  obtain ⟨v, w, rfl, rfl, rfl⟩ | ⟨v, rfl, rfl, rfl⟩ | ⟨w, rfl, rfl, rfl⟩ := dbRow_cases hc <;> rfl

theorem exec_dbRow_alone {p r txid : Nat} {sq cq : Option (BitVec 32)} {c : Instr} (s : State)
    (hc : dbRow p r txid [] sq cq = some c) :
    exec c s = inbound p .msg c (dbWaits r) (run (dbAnswer p r txid (dbHalves r sq cq))) s :=
  (exec_dbRow s hc).trans (oneDb_eq s hc)

/-- An arriving flit leads to a next state, whatever its port does with it. -/
theorem inbound_next {p : Nat} {k : YppClass} {c : Instr} {waits : Dev → Bool} {f : Dev → Dev} (s : State) :
    ∃ t, inbound p k c waits (run f) s = .next t := by
  unfold inbound
  dsimp only
  split
  · exact ⟨_, rfl⟩
  · split
    · exact ⟨_, rfl⟩
    · split <;> exact ⟨_, rfl⟩

/-- R61, R149: of two doorbells in one cycle the lower port's comes first, however the row lists them. -/
theorem doorbells_pair {r : Nat} {x y : SameDb} {s t : State} (h : x.p < y.p) (hx : oneDb r x s = .next t) :
    doorbells r [x, y] s = oneDb r y t ∧ doorbells r [y, x] s = oneDb r y t := by
  have hxy : byPort [x, y] = [x, y] := by simp [byPort, h.le]
  have hyx : byPort [y, x] = [x, y] := by simp [byPort, Nat.not_le.mpr h]
  simp [doorbells, hxy, hyx, hx]

/-- R29, R60 to R63, R147 to R149: what a ring's doorbell does. -/
theorem ringDoorbells_holds : ringDoorbells := by
  intro s p r txid sq cq
  refine ⟨fun c hc => ?_, fun q tq sq2 cq2 a b one two hpq ha hb hone htwo => ?_⟩
  · have hexec := exec_dbRow_alone s hc
    refine ⟨heldOrRefused_of_inbound hexec, fun hr h256 ht hw => ?_, fun hr h256 ht hw => ?_, fun hr ht => ?_⟩
    · exact (completes_of_taken hexec ht hw).mpr (dbAnswer_taken hr h256)
    · obtain ⟨hq, hcr, -, hsame⟩ := queueIn_spec p .msg c s.dev
      have ⟨_, _, _, hempty⟩ := ht
      refine (completes_of_waits hexec ht hw).mpr ⟨by rw [hq, hempty]; rfl, by rw [hcr]; rfl, hsame⟩
    · exact (completes_of_taken hexec ht (by simp [dbWaits, Nat.not_lt.mpr hr])).mpr (dbAnswer_absent hr)
  · obtain ⟨t, ht⟩ := inbound_next (p := p) (k := .msg) (c := a) (waits := dbWaits r)
      (f := dbAnswer p r txid (dbHalves r sq cq)) s
    obtain ⟨u, hu⟩ := inbound_next (p := q) (k := .msg) (c := b) (waits := dbWaits r)
      (f := dbAnswer q r tq (dbHalves r sq2 cq2)) t
    obtain ⟨hpair, hswap⟩ := doorbells_pair (y := ⟨q, tq, sq2, cq2⟩) hpq ((oneDb_eq s ha).trans ht)
    have hlast := (oneDb_eq t hb).trans hu
    refine ⟨t, u, (exec_dbRow_alone s ha).trans ht, (exec_dbRow_alone t hb).trans hu, ?_, ?_⟩
    · exact (exec_dbRow s hone).trans (hswap.trans hlast)
    · exact (exec_dbRow s htwo).trans (hpair.trans hlast)

end Sys2Proof.Machine
end

section
/-! SUPPORT. What the map cache's work leaves alone (05_lantern_placement.md R215, R216; 13_queues_and_buffers.md R488 to R492):
a line is read, lost, written back, asked for or made dirty while the map, the bands, the relocations, the commands and the
entries below a bound stay as they are. -/

namespace Sys2Proof.Machine

/-! ### The part of the block that stays -/

/-- Lantern without its map cache, and without the records whose lines a change goes through. -/
def Lan.asideCache (l : Lan) : Lan :=
  { l with blk := [], rdCnt := [], bandRec := [], lines := [], misses := [], wbs := [], want := [], useNo := 0 }

/-- What the map cache's work leaves alone, with the entries below a bound. -/
def Dev.aside (b : Nat) (d : Dev) : Params × Nat × Option Geom × Lan × (Nat → Nat) :=
  (d.cfg, d.fetchNo, d.geom, d.lan.asideCache, fun k => if k < b then getK d k else 0)

section
variable {b : Nat} {x d : Dev}

/-- One block stands aside as another does when these parts agree. -/
theorem aside_of_eq (hc : x.cfg = d.cfg) (hf : x.fetchNo = d.fetchNo) (hg : x.geom = d.geom)
    (hl : x.lan.asideCache = d.lan.asideCache) (he : ∀ k, k < b → getK x k = getK d k) : x.aside b = d.aside b := by
  have hfun : (fun k => if k < b then getK x k else 0) = (fun k => if k < b then getK d k else 0) := by
    funext k
    split
    · next hk => exact he k hk
    · rfl
  simp only [Dev.aside, hc, hf, hg, hl, hfun]

/-- Entries, parameters and Lantern apart from the cache decide it. -/
theorem aside_of_same (hc : x.cfg = d.cfg) (ho : x.od = d.od) (hf : x.fetchNo = d.fetchNo) (hg : x.geom = d.geom)
    (hl : x.lan.asideCache = d.lan.asideCache) : x.aside b = d.aside b :=
  aside_of_eq hc hf hg hl (fun k _ => by unfold getK; rw [hc, ho])

theorem aside_mono {a : Nat} (h : x.aside b = d.aside b) (hab : a ≤ b) : x.aside a = d.aside a := by
  simp only [Dev.aside, Prod.mk.injEq] at h
  obtain ⟨hc, hf, hg, hl, he⟩ := h
  refine aside_of_eq hc hf hg hl (fun k hk => ?_)
  have := congrFun he k
  simpa [show k < b by omega] using this

variable (h : x.aside b = d.aside b)
include h

theorem cfg_of_aside : x.cfg = d.cfg := congrArg (·.1) h
theorem fetchNo_of_aside : x.fetchNo = d.fetchNo := congrArg (·.2.1) h
theorem geom_of_aside : x.geom = d.geom := congrArg (·.2.2.1) h
theorem asideCache_of_aside : x.lan.asideCache = d.lan.asideCache := congrArg (·.2.2.2.1) h

theorem getK_of_aside {k : Nat} (hk : k < b) : getK x k = getK d k := by
  have he : (fun k => if k < b then getK x k else 0) = (fun k => if k < b then getK d k else 0) := congrArg (·.2.2.2.2) h
  simpa [hk] using congrFun he k

theorem od_of_aside {i j : Nat} (hk : ek i j < b) : od x i j = od d i j := getK_of_aside h hk

end

/-! ### Steps that keep it -/

section
variable (b : Nat) (d : Dev)

theorem aside_foldl {α : Type} {f : Dev → α → Dev} (l : List α) (hf : ∀ x a, (f x a).aside b = x.aside b) :
    (l.foldl f d).aside b = d.aside b := by
  induction l generalizing d with
  | nil => rfl
  | cons a l ih => exact (ih (f d a)).trans (hf d a)

@[simp] theorem aside_updClasp (f : Clasp → Clasp) : (updClasp f d).aside b = d.aside b := rfl
@[simp] theorem aside_putB (i j : Nat) (v : Bytes) : (putB i j v d).aside b = d.aside b := rfl
@[simp] theorem aside_updLine (ln : Nat) (f : Line → Line) : (updLine ln f d).aside b = d.aside b := rfl
@[simp] theorem aside_touchLine (ln : Nat) (c : Bool) : (touchLine ln c d).aside b = d.aside b := rfl
@[simp] theorem aside_mendLine (ln : Nat) (ws : List Nat) : (mendLine ln ws d).aside b = d.aside b := rfl
@[simp] theorem aside_putLine (ln w : Nat) : (putLine ln w d).aside b = d.aside b := rfl
@[simp] theorem aside_jAppend (r : JRec) : (jAppend r d).aside b = d.aside b := rfl

/-- A change of Lantern stays aside when it is one of the cache. -/
theorem aside_updLan {f : Lan → Lan} (h : (f d.lan).asideCache = d.lan.asideCache) : (updLan f d).aside b = d.aside b :=
  aside_of_same rfl rfl rfl rfl h

@[simp] theorem aside_sendFor (o : Option Nat) (u v : NUnit) (c : NClass) (n : Nat) : (sendFor o u v c n d).aside b = d.aside b := by
  obtain ⟨x, hx⟩ := sendFor_spec o u v c n d
  rw [hx]
  rfl

@[simp] theorem aside_send (u v : NUnit) (c : NClass) (n : Nat) : (send u v c n d).aside b = d.aside b := aside_sendFor ..

@[simp] theorem aside_sendVia (u v : NUnit) (c : NClass) (n : Nat) : (sendVia u v c n d).aside b = d.aside b := by
  obtain ⟨x, hx⟩ := sendVia_spec u v c n d
  rw [hx]
  rfl

variable {b}

/-- An entry from the bound on may change. -/
theorem aside_put {i j v : Nat} (h : b ≤ 256 * i) : (put i j v d).aside b = d.aside b :=
  aside_of_eq rfl rfl rfl rfl (fun k hk => getK_put_ne v d (by unfold ek; omega))

theorem aside_cntN {i j n : Nat} (h : b ≤ 256 * i) : (cntN i j n d).aside b = d.aside b := by
  obtain ⟨-, hk, he⟩ := cntN_spec i j n d
  refine aside_of_eq ?_ ?_ ?_ ?_ (fun k hlt => hk k (by simp only [ek, List.mem_singleton]; omega)) <;> rw [he]

theorem aside_cnt {i j : Nat} (h : b ≤ 256 * i) : (cnt i j d).aside b = d.aside b := aside_cntN d h

theorem aside_post {p : Nat} {m : OutMsg} (h : b ≤ 0x500000) : (post p m d).aside b = d.aside b := by
  obtain ⟨-, hk, he⟩ := post_spec p m d
  have hlow : ∀ k, k < b → k ∉ sentKeys p := by
    intro k hlt
    simp only [sentKeys, ek, List.mem_cons, List.not_mem_nil, or_false]
    omega
  refine aside_of_eq ?_ ?_ ?_ ?_ (fun k hlt => hk k (hlow k hlt)) <;> rw [he]

theorem aside_postRead {p a n : Nat} {o : Owner} (h : b ≤ 0x500000) : (postRead p a n o d).aside b = d.aside b :=
  aside_post d h

theorem aside_postWrite {p a : Nat} {bs : Bytes} {bad : List (Nat × Nat)} {o : Owner} (h : b ≤ 0x500000) :
    (postWrite p a bs bad o d).aside b = d.aside b := aside_post d h

@[simp] theorem aside_ringUnit (u : NUnit) (src : Nat) : (ringUnit u src d).aside b = d.aside b := by
  unfold ringUnit
  split
  · exact aside_send ..
  · rfl

@[simp] theorem aside_wakeRing (n : Nat) : (wakeRing n d).aside b = d.aside b := by
  unfold wakeRing
  dsimp only
  split
  · exact aside_ringUnit ..
  · rfl

@[simp] theorem aside_assertWake (n w : Nat) : (assertWake n w d).aside b = d.aside b := by
  unfold assertWake
  split
  · rfl
  · exact aside_wakeRing ..

/-! ### Faults and memory errors (R493, R558) -/

@[simp] theorem aside_fltBell (cls : Nat) : (fltBell cls d).aside b = d.aside b := by
  unfold fltBell
  split
  · exact aside_send ..
  · rfl

theorem aside_fltWrite {r : Flt} (h : b ≤ 0x290000) : (fltWrite r d).aside b = d.aside b := aside_put _ h

theorem aside_fault {cls cause unit u v : Nat} (h : b ≤ 0x290000) : (fault cls cause unit u v d).aside b = d.aside b := by
  have hmark : ∀ x : Dev, (cnt 0x2901 (cls + 1) (putBit 0x2900 3 cls true x)).aside b = x.aside b :=
    fun x => (aside_cnt _ (by omega)).trans (aside_put x h)
  have hstart : (if unit = 0xFFFF then d else sendVia (domUnit d.cfg unit) .ao .msg 1 d).aside b = d.aside b := by
    split
    · rfl
    · exact aside_sendVia ..
  unfold fault
  dsimp only
  generalize (if unit = 0xFFFF then d else sendVia (domUnit d.cfg unit) .ao .msg 1 d) = x at hstart ⊢
  split
  all_goals
    split
    · exact (hmark _).trans hstart
    · split
      · split
        · exact (hmark _).trans hstart
        · exact (aside_fltBell _ _).trans ((hmark _).trans ((aside_cnt _ h).trans hstart))
      · exact (aside_fltBell _ _).trans ((hmark _).trans ((aside_fltWrite _ h).trans hstart))

@[simp] theorem aside_memBell (kind : Nat) : (memBell kind d).aside b = d.aside b := by
  unfold memBell
  split
  · exact aside_send ..
  · rfl

theorem aside_memWrite {r : MemRec} (h : b ≤ 0x290000) : (memWrite r d).aside b = d.aside b :=
  (aside_memBell _ _).trans (aside_cnt _ (by omega))

theorem aside_memError {kind syn w u : Nat} (h : b ≤ 0x290000) : (memError kind syn w u d).aside b = d.aside b := by
  have hfault : ∀ x : Dev, x.aside b = d.aside b →
      (if kind = 1 ∨ kind = 4 ∨ kind = 6 ∨ kind = 7 then fault 5 kind u w syn x else x).aside b = d.aside b := by
    intro x hx
    split
    · exact (aside_fault x h).trans hx
    · exact hx
  unfold memError
  refine hfault _ ?_
  split
  · split
    · rfl
    · split <;> rfl
  · split
    · rfl
    · split
      · rfl
      · exact aside_memWrite d h
  · split
    · rfl
    · exact aside_memWrite d h

end

/-! ### Lines (R488 to R491) -/

section
variable {b : Nat} (d : Dev)

theorem aside_lineCe {x : Line} {w flips : Nat} (h : b ≤ 0x290000) : (lineCe x w flips d).aside b = d.aside b :=
  (aside_memError _ h).trans (aside_putB ..)

theorem aside_loseLine {x : Line} {syn w : Nat} (h : b ≤ 0x210900) : (loseLine x syn w d).aside b = d.aside b := by
  unfold loseLine
  split
  · exact (aside_updLine ..).trans (aside_updLan _ _ rfl)
  · exact (aside_updClasp ..).trans ((aside_memError _ (by omega)).trans ((aside_cnt _ h).trans (aside_updLine ..)))

/-- Corrected errors of a line's words are counted beside all this. -/
theorem aside_lineCes {x : Line} {ws : List Nat} (h : b ≤ 0x290000) :
    (ws.foldl (fun y w => lineCe x w (tabGet 0 x.flips w) y) d).aside b = d.aside b :=
  aside_foldl b d ws (fun y _ => aside_lineCe y h)

theorem aside_lineRead {x : Line} {ws : List Nat} (h : b ≤ 0x210900) : (lineRead x ws d).aside b = d.aside b := by
  have hce := aside_lineCes d (x := x) (ws := ws.filter (fun w => eccRes (tabGet 0 x.flips w) == .corrected))
    (show b ≤ 0x290000 by omega)
  unfold lineRead
  dsimp only
  split
  · exact hce
  · split
    · exact (aside_loseLine _ h).trans hce
    · exact (aside_memError _ (by omega)).trans ((aside_cnt _ h).trans ((aside_updLan _ _ rfl).trans hce))

variable (h : b ≤ 0x210800)
include h

theorem aside_writeBack {x : Line} : (writeBack x d).aside b = d.aside b := by
  have hread := aside_lineRead d (x := x) (ws := List.range 8) (show b ≤ 0x210900 by omega)
  unfold writeBack
  dsimp only
  split
  · split
    · exact hread
    · exact (aside_cnt _ h).trans ((aside_postWrite _ (by omega)).trans
        ((aside_updLine ..).trans ((aside_updLan _ _ rfl).trans hread)))
  · rfl

theorem aside_fillLine {ln : Nat} : (fillLine ln d).aside b = d.aside b := by
  unfold fillLine
  split
  · exact aside_putLine ..
  · split
    · rfl
    · dsimp only
      split
      · exact aside_writeBack d h
      · exact (aside_putLine ..).trans ((aside_updLan _ _ rfl).trans (aside_writeBack d h))

theorem aside_askLine {ln : Nat} : (askLine ln d).aside b = d.aside b := by
  unfold askLine
  split
  · exact aside_assertWake ..
  · split
    · rfl
    · dsimp only
      refine (aside_postRead _ (by omega)).trans ?_
      split <;> exact (aside_cnt _ (by omega)).trans (aside_updLan _ _ rfl)

theorem aside_wantLine {ln : Nat} {c : Bool} : (wantLine ln c d).aside b = d.aside b :=
  (aside_askLine _ h).trans (aside_updLan _ _ rfl)

theorem aside_changeLine {ln : Nat} {ws : List Nat} {part : Bool} : (changeLine ln ws part d).aside b = d.aside b := by
  have hchange : ∀ y : Dev, y.aside b = d.aside b → (match line? y ln with
      | some x => if x.lost then y else cnt 0x2108 1 (mendLine ln ws (touchLine ln true y))
      | none => wantLine ln true y).aside b = d.aside b := by
    intro y hy
    split
    · split
      · exact hy
      · exact (aside_cnt _ h).trans ((aside_mendLine ..).trans ((aside_touchLine ..).trans hy))
    · exact (aside_wantLine _ h).trans hy
  unfold changeLine
  split
  · rfl
  · refine hchange _ ?_
    split
    · split
      · exact aside_lineRead d (by omega)
      · rfl
    · rfl

/-! ### Records and entries -/

theorem aside_updBlk {n k : Nat} {f : Blk → Blk} : (updBlk n k f d).aside b = d.aside b :=
  (aside_changeLine _ h).trans (aside_updLan _ _ rfl)

theorem aside_setBstate {n k v : Nat} : (setBstate n k v d).aside b = d.aside b :=
  (aside_jAppend ..).trans (aside_updBlk d h)

theorem aside_moveUnits {add : Bool} {e : Nat} {g : Gran} : (moveUnits add e g d).aside b = d.aside b := by
  unfold moveUnits
  split
  · rfl
  · refine aside_foldl b d _ (fun x i => ?_)
    split
    · rfl
    · exact aside_updBlk x h

theorem aside_dirtyEntry {g : Nat} : (dirtyEntry g d).aside b = d.aside b := aside_changeLine d h

end

end Sys2Proof.Machine
end

section
/-! SUPPORT. Entries pass to Lantern (04_work_rings.md R152 to R156, R164 to R168): what passing one leaves of the commands, and
that its number in fetch order is the only one taken. -/

namespace Sys2Proof.Machine

/-! ### The number of the latest entry fetched -/

section
variable (d : Dev)

theorem foldl_fetchNo {α : Type} {f : Dev → α → Dev} (l : List α) (hf : ∀ x a, (f x a).fetchNo = x.fetchNo) :
    (l.foldl f d).fetchNo = d.fetchNo := by
  induction l generalizing d with
  | nil => rfl
  | cons a l ih => exact (ih _).trans (hf d a)

@[simp] theorem moveUnits_fetchNo (add : Bool) (e : Nat) (g : Gran) : (moveUnits add e g d).fetchNo = d.fetchNo :=
  fetchNo_of_aside (b := 0) (aside_moveUnits d (by decide))

@[simp] theorem putMap_fetchNo (g e : Nat) : (putMap g e d).fetchNo = d.fetchNo := rfl

@[simp] theorem jMap_fetchNo (g e wseq flags : Nat) : (jMap g e wseq flags d).fetchNo = d.fetchNo := rfl

@[simp] theorem dirtyEntry_fetchNo (g : Nat) : (dirtyEntry g d).fetchNo = d.fetchNo :=
  fetchNo_of_aside (b := 0) (aside_dirtyEntry d (by decide))

@[simp] theorem pruneVers_fetchNo : (pruneVers d).fetchNo = d.fetchNo := by
  unfold pruneVers
  dsimp only
  refine (foldl_fetchNo _ _ (fun x v => ?_)).trans (updLan_fetchNo _ _)
  split
  · exact moveUnits_fetchNo ..
  · rfl

@[simp] theorem restore_fetchNo (c : GChange) : (restore c d).fetchNo = d.fetchNo := by
  unfold restore
  extract_lets stood
  split
  · rfl
  · split
    · rfl
    · split
      · rfl
      · rw [jMap_fetchNo, dirtyEntry_fetchNo, putMap_fetchNo, moveUnits_fetchNo, moveUnits_fetchNo]

@[simp] theorem restoreAll_fetchNo (id n : Nat) : (restoreAll id n d).fetchNo = d.fetchNo := by
  induction n generalizing d with
  | zero => rfl
  | succ n ih =>
    unfold restoreAll
    split
    · rfl
    · simp [ih]

@[simp] theorem abortGroup_fetchNo (id status : Nat) : (abortGroup id status d).fetchNo = d.fetchNo := by
  unfold abortGroup
  split
  · rfl
  · split
    · rfl
    · refine (foldl_fetchNo _ _ (fun x c => ?_)).trans (by simp)
      split <;> rfl

@[simp] theorem meet_fetchNo (tag : Nat) : (meet tag d).fetchNo = d.fetchNo := by
  unfold meet
  split
  · rfl
  · simp

@[simp] theorem memberOut_fetchNo (tag st : Nat) : (memberOut tag st d).fetchNo = d.fetchNo := by
  simp [memberOut, cmdFail]

@[simp] theorem joinGroup_fetchNo (tag : Nat) (c : Cmd) : (joinGroup tag c d).fetchNo = d.fetchNo := by
  unfold joinGroup
  split
  · dsimp only
    split <;> simp [freshId]
  · split
    · simp
    · split <;> simp

end

/-! ### The command of a tag -/

/-- A command inserted under a tag that was free is found there. -/
theorem cmd?_of_inserted {x d : Dev} {tag : Nat} {c : Cmd} (hx : x.cmds = tabInsert d.cmds tag c) (h : cmd? d tag = none) :
    cmd? x tag = some c := by
  have hfree : ∀ p ∈ d.cmds, p.1 ≠ tag := by simpa [cmd?] using h
  unfold cmd?
  rw [hx]
  generalize d.cmds = l at hfree
  clear hx h
  induction l with
  | nil => simp [tabInsert]
  | cons p t ih =>
    have hp : p.1 ≠ tag := hfree p (by simp)
    unfold tabInsert
    split
    · simp
    · simpa [hp] using ih (fun q hq => hfree q (by simp [hq]))

/-- A command changed is found changed. -/
theorem cmd?_updCmd_self {d : Dev} {tag : Nat} {c : Cmd} (f : Cmd → Cmd) (h : cmd? d tag = some c) :
    cmd? (updCmd tag f d) tag = some (f c) := by
  unfold cmd? updCmd at *
  rw [List.find?_map]
  have htest : ((fun c : Nat × Cmd => c.1 == tag) ∘ fun c => if c.1 = tag then (c.1, f c.2) else c) = fun c => c.1 == tag := by
    funext c
    by_cases hc : c.1 = tag <;> simp [hc]
  rw [htest]
  cases hfind : d.cmds.find? (fun c => c.1 == tag) with
  | none => simp [hfind] at h
  | some y =>
    have hy : y.1 = tag := by simpa using List.find?_some hfind
    simp only [hfind, Option.map_some, Option.some.injEq] at h
    simp [hy, h]

theorem cmd?_congr {x d : Dev} (h : x.cmds = d.cmds) (tag : Nat) : cmd? x tag = cmd? d tag := by
  unfold cmd?
  rw [h]

/-- R182: a command whose condition is met keeps its ID and its failures. -/
theorem cmd?_meet_self {d : Dev} {tag : Nat} {c : Cmd} (h : cmd? d tag = some c) :
    (cmd? (meet tag d) tag).map (fun x => (x.cid, x.st, x.fails)) = some (c.cid, .met, c.fails) := by
  unfold meet
  rw [h]
  dsimp only
  rw [cmd?_congr (send_cmds _ _ _ _ _)]
  refine (congrArg (Option.map _) (cmd?_updCmd_self (c := c) _ ?_)).trans rfl
  exact h

/-! ### An entry passes (R152, R156) -/

/-- The command that a fetched entry spells, with its number in fetch order. -/
def entryCmd (r : Nat) (b : Bytes) (d : Dev) : Cmd :=
  if od d (rgIdx r 0) 2 = 1 then { parseV1 r (d.fetchNo + 1) b with wild := reservedV1 b }
  else { parseV2 r (d.fetchNo + 1) b with wild := reservedV2 b }

/-- The block with the entry's command under its tag. -/
def entryTaken (r : Nat) (b : Bytes) (d : Dev) : Dev :=
  sendFor (some (d.fetchNo + 1)) (.port (od d (rgIdx r 0) 3)) .lantern .req 1
    { d with fetchNo := d.fetchNo + 1, cmds := tabInsert d.cmds (lowTag d) (entryCmd r b d) }

/-- The block with a COMMIT's group closed by it (R164, R166). -/
def commitTaken (r : Nat) (b : Bytes) (d : Dev) : Dev :=
  match openGroup (entryTaken r b d) r (entryCmd r b d).cgrp with
  | some g => updCmd (lowTag d) (fun x => { x with grp := some g.id, result := g.members })
      (updGroup g.id (fun y => { y with close := some (lowTag d) }) (entryTaken r b d))
  | none => entryTaken r b d

/-- How passCmd writes the entry's command. -/
theorem entryCmd_eq (r : Nat) (b : Bytes) (d : Dev) :
    (if (od d (rgIdx r 0) 2 == 1) = true then { parseV1 r (d.fetchNo + 1) b with wild := reservedV1 b }
      else { parseV2 r (d.fetchNo + 1) b with wild := reservedV2 b }) = entryCmd r b d := by simp [entryCmd]

theorem passCmd_of_failed_eq {r st : Nat} {b : Bytes} {d : Dev} (h : checkCmd d (entryCmd r b d) = some st) :
    passCmd r b d = meet (lowTag d) (updCmd (lowTag d) (fun x => { x with fails := [st] }) (entryTaken r b d)) := by
  unfold passCmd
  simp only [entryCmd_eq, h]
  rfl

theorem passCmd_of_ok_eq {r : Nat} {b : Bytes} {d : Dev} (h : checkCmd d (entryCmd r b d) = none) : passCmd r b d =
    if [1, 3, 6].contains (entryCmd r b d).opc ∧ (entryCmd r b d).cgrp ≠ 0 then
      joinGroup (lowTag d) (entryCmd r b d) (entryTaken r b d)
    else if (entryCmd r b d).opc = 5 then commitTaken r b d
    else entryTaken r b d := by
  unfold passCmd
  simp only [entryCmd_eq, h]
  rfl

@[simp] theorem entryTaken_fetchNo (r : Nat) (b : Bytes) (d : Dev) : (entryTaken r b d).fetchNo = d.fetchNo + 1 := by
  simp [entryTaken]

theorem cmd?_entryTaken {r : Nat} {b : Bytes} {d : Dev} (h : cmd? d (lowTag d) = none) :
    cmd? (entryTaken r b d) (lowTag d) = some (entryCmd r b d) :=
  cmd?_of_inserted (sendFor_cmds ..) h

@[simp] theorem commitTaken_fetchNo (r : Nat) (b : Bytes) (d : Dev) : (commitTaken r b d).fetchNo = d.fetchNo + 1 := by
  unfold commitTaken
  split <;> simp

@[simp] theorem passCmd_fetchNo (r : Nat) (b : Bytes) (d : Dev) : (passCmd r b d).fetchNo = d.fetchNo + 1 := by
  cases h : checkCmd d (entryCmd r b d) with
  | some st => simp [passCmd_of_failed_eq h]
  | none =>
    rw [passCmd_of_ok_eq h]
    split
    · simp
    · split <;> simp

section
variable {r : Nat} {b : Bytes} {d : Dev} (h : cmd? d (lowTag d) = none)
include h

/-- R156: an entry that fails a check completes with its status. -/
theorem passCmd_of_failed {st : Nat} (hst : checkCmd d (entryCmd r b d) = some st) :
    (cmd? (passCmd r b d) (lowTag d)).map (fun x => (x.cid, x.st, x.fails)) = some ((entryCmd r b d).cid, .met, [st]) := by
  rw [passCmd_of_failed_eq hst]
  exact cmd?_meet_self (cmd?_updCmd_self _ (cmd?_entryTaken h))

/-- A command of no group waits as it was fetched. -/
theorem passCmd_of_single (hok : checkCmd d (entryCmd r b d) = none) (hg : (entryCmd r b d).cgrp = 0)
    (ho : (entryCmd r b d).opc ≠ 5) : cmd? (passCmd r b d) (lowTag d) = some (entryCmd r b d) := by
  rw [passCmd_of_ok_eq hok, if_neg (by simp [hg]), if_neg ho]
  exact cmd?_entryTaken h

/-- R164, R166: a COMMIT closes the open group of its name, and reports its members. -/
theorem passCmd_of_commit {g : Group} (hok : checkCmd d (entryCmd r b d) = none) (ho : (entryCmd r b d).opc = 5)
    (hg : openGroup d r (entryCmd r b d).cgrp = some g) :
    cmd? (passCmd r b d) (lowTag d) = some { entryCmd r b d with grp := some g.id, result := g.members } := by
  have hopen : openGroup (entryTaken r b d) r (entryCmd r b d).cgrp = some g := by
    rw [← hg]
    unfold openGroup
    rw [show (entryTaken r b d).groups = d.groups from sendFor_groups ..]
  have hmember : ¬ ([1, 3, 6].contains (entryCmd r b d).opc = true ∧ (entryCmd r b d).cgrp ≠ 0) := by simp [ho]
  rw [passCmd_of_ok_eq hok, if_neg hmember, if_pos ho]
  unfold commitTaken
  simp only [hopen]
  exact cmd?_updCmd_self _ (show cmd? (updGroup _ _ _) _ = _ from cmd?_entryTaken h)

end

end Sys2Proof.Machine
end

section
/-! SUPPORT. Doorbells of rings and the fetches of their entries (04_work_rings.md R144 to R156): the statement. -/

namespace Sys2Proof.Machine

/-! ### A fetch READ (R150) -/

/-- Where the entry at sq_head stands in host memory. -/
def headAddr (d : Dev) (r : Nat) : Nat := od d (rgIdx r 0) 4 + od d (rgIdx r 1) 2 * sqEntBytes d r

/-- The entries that one READ of a ring asks for. -/
def fetchCount (d : Dev) (r : Nat) : Nat :=
  min (min (min (od d (rgIdx r 0) 9) (sqPending d r)) (freeTags d))
    (min ((4096 - headAddr d r % 4096) / sqEntBytes d r) (sqSize d r - od d (rgIdx r 1) 2))

/-- The block as a ring's READ leaves: the ring waits for its entries, and is the one its slice served last. -/
def fetchBegun (p r n : Nat) (d : Dev) : Dev :=
  updRing r (fun x => { x with fetching := n, starved := false, fetched := [] })
    { d with rrRing := tabSet 0 d.rrRing (rrKey p (od d (rgIdx r 0) 8)) (r + 1) }

theorem rrRing_fetchBegun (p r n : Nat) (d : Dev) :
    (fetchBegun p r n d).rrRing = tabSet 0 d.rrRing (rrKey p (od d (rgIdx r 0) 8)) (r + 1) := rfl

theorem sqFetch_of_picked {p r : Nat} {d : Dev} (hm : mayFetch d = true) (hf : freeTags d ≠ 0) (hp : pickRing d p = some r) :
    sqFetch p d = if fetchCount d r = 0 then d
      else postRead p (headAddr d r) (fetchCount d r * sqEntBytes d r) (.sq r) (fetchBegun p r (fetchCount d r) d) := by
  unfold sqFetch
  rw [if_neg (by simp [hm, hf])]
  simp only [hp]
  rfl

theorem sqFetch_of_idle {p : Nat} {d : Dev} (h : mayFetch d = false ∨ freeTags d = 0 ∨ pickRing d p = none) :
    sqFetch p d = d := by
  unfold sqFetch
  by_cases hgo : ¬ mayFetch d ∨ freeTags d = 0
  · rw [if_pos hgo]
  · rw [if_neg hgo]
    simp only [not_or, Bool.not_eq_true, Bool.not_eq_false] at hgo
    rcases h with h | h | h
    · simp [h] at hgo
    · simp [h] at hgo
    · simp only [h]

/-! ### Fetched entries (R144, R152, R189) -/

/-- The block as entries begin to pass: the ring holds none of them, and sq_head has passed them. -/
def headPassed (r : Nat) (d : Dev) : Dev :=
  put (rgIdx r 1) 2 ((od d (rgIdx r 1) 2 + (ring d r).fetched.length) % max 1 (sqSize d r))
    (updRing r (fun y => { y with fetching := 0, fetched := [] }) d)

section
variable {r : Nat} {d : Dev}

theorem sqFetchComplete_of_none (h : (ring d r).fetched = []) : sqFetchComplete r d = d := by
  simp [sqFetchComplete, h]

theorem sqFetchComplete_of_overtaken (h : (ring d r).fetched ≠ []) (ho : (ring d r).discard = true ∨ ringState d r ≠ 1) :
    sqFetchComplete r d = updRing r (fun y => { y with fetching := 0, fetched := [], discard := false }) d := by
  unfold sqFetchComplete
  dsimp only
  rw [if_neg (by simpa using h), if_pos ho]

theorem sqFetchComplete_of_accepted (h : (ring d r).fetched ≠ []) (hd : (ring d r).discard = false) (hs : ringState d r = 1)
    (hl : od d 0x2100 8 = 2) (hf : d.clasp.flush = none) :
    sqFetchComplete r d = (ring d r).fetched.foldl (fun y b => passCmd r b y) (headPassed r d) := by
  unfold sqFetchComplete
  dsimp only
  rw [if_neg (by simpa using h), if_neg (by simp [hd, hs]), if_neg (by simp [hl, hf])]
  rfl

theorem headPassed_spec (hr : r < d.cfg.rings) (h256 : r < 256) :
    od (headPassed r d) (rgIdx r 1) 2 =
      (od d (rgIdx r 1) 2 + (ring d r).fetched.length) % max 1 (sqSize d r) % 65536 ∧
    ring (headPassed r d) r = { ring d r with fetching := 0, fetched := [] } ∧
    SameBut d (headPassed r d) (fun x => { x with rings := (headPassed r d).rings }) [ek (rgIdx r 1) 2] := by
  refine ⟨?_, ?_, keeps_put d (by simp), rfl⟩
  · exact od_put_ring_self (d := updRing r (fun y => { y with fetching := 0, fetched := [] }) d) hr h256 (by decide) (by decide)
  · rw [headPassed, ring_put, ring_updRing_self]

/-- sq_head moves past an entry without a change of what the entry spells. -/
theorem entryCmd_headPassed (b : Bytes) : entryCmd r b (headPassed r d) = entryCmd r b d := by
  have hfmt : od (headPassed r d) (rgIdx r 0) 2 = od d (rgIdx r 0) 2 :=
    (od_put_ring_ne (by decide) (by decide) (by decide)).trans (od_updRing ..)
  unfold entryCmd
  rw [hfmt]
  rfl

end

/-! ### The rows -/

theorem completes_sqFetch {p : Nat} {s : State} {P : Dev → Prop} :
    Completes (.sqFetch p) s P ↔ P (if p < s.dev.cfg.ports then sqFetch p s.dev else s.dev) := completes_run rfl

theorem completes_fetchStarvation {r : Nat} {s : State} {P : Dev → Prop} :
    Completes (.fetchStarvation r) s P ↔ P (if r < s.dev.cfg.rings ∧ fetchable s.dev (od s.dev (rgIdx r 0) 3) r then
      updRing r (fun x => { x with starved := true }) s.dev else s.dev) := completes_run rfl

theorem completes_sqFetchComplete {r : Nat} {s : State} {P : Dev → Prop} :
    Completes (.sqFetchComplete r) s P ↔ P (sqFetchComplete r s.dev) := completes_run rfl

/-- R144, R150, R152, R156, R189, R601: what fetches and fetched entries do. -/
theorem ringFetches_holds : ringFetches := by
  intro s p r
  refine ⟨fun hp hm hf hpick => ?fetch, fun h => ?idle, fun hr hstarve => ?starve, fun hr h256 => ⟨fun h => ?none,
    fun h ho => ?overtaken, fun h hd hs hl hflush => ?accepted, fun b hb hd hs hl hflush hfree => ?single⟩⟩
  case fetch =>
    rw [completes_sqFetch, if_pos hp, sqFetch_of_picked hm hf hpick]
    change if fetchCount s.dev r = 0 then _ else _
    split
    · rfl
    · exact ⟨fetchBegun p r (fetchCount s.dev r) s.dev, rfl, ring_updRing_self .., fun q hq => ring_updRing_ne _ _ hq,
        by rw [rrRing_fetchBegun, tabGet_tabSet_self], fun k hk => by rw [rrRing_fetchBegun, tabGet_tabSet_ne _ _ _ _ hk], rfl⟩
  case idle =>
    rw [completes_sqFetch]
    split
    · next hp => exact sqFetch_of_idle (h.resolve_left (Nat.not_le.mpr hp))
    · rfl
  case starve =>
    rw [completes_fetchStarvation, if_pos ⟨hr, hstarve⟩]
    exact ⟨ring_updRing_self .., rfl⟩
  case none => exact completes_sqFetchComplete.mpr (sqFetchComplete_of_none h)
  case overtaken =>
    rw [completes_sqFetchComplete, sqFetchComplete_of_overtaken h ho]
    exact ⟨ring_updRing_self .., rfl⟩
  case accepted =>
    rw [completes_sqFetchComplete, sqFetchComplete_of_accepted h hd hs hl hflush]
    exact ⟨headPassed r s.dev, rfl, headPassed_spec hr h256⟩
  case single =>
    intro c
    have hc : c = entryCmd r b (headPassed r s.dev) := (entryCmd_headPassed b).symm
    have hfree' : cmd? (headPassed r s.dev) (lowTag (headPassed r s.dev)) = none := hfree
    rw [completes_sqFetchComplete, sqFetchComplete_of_accepted (by simp [hb]) hd hs hl hflush, hb, hc]
    exact ⟨passCmd_fetchNo .., fun st hst => passCmd_of_failed hfree' hst, fun hok hg ho => passCmd_of_single hfree' hok hg ho,
      fun g hok ho hg => passCmd_of_commit hfree' hok ho hg⟩

/-- Settles O40: a doorbell is answered and its halves are checked, or it waits; a fetch asks for what the ring and the page
let it, and each fetched entry becomes a command. -/
theorem ringDoorbellsAndFetches : Obligations.RingDoorbellsAndFetches := ⟨ringDoorbells_holds, ringFetches_holds⟩

end Sys2Proof.Machine
end

section
/-! SUPPORT. Lookups of map lines, and the fills that they wait for (05_lantern_placement.md R215, R216; 13_queues_and_buffers.md
R488 to R492). -/

namespace Sys2Proof.Machine

/-! ### Lists changed in place -/

/-- A change that a test does not see leaves what the test finds in its place. -/
theorem find?_updWhere {α : Type} {p q : α → Bool} {f : α → α} (h : ∀ x, q (f x) = q x) (l : List α) :
    (updWhere p f l).find? q = (l.find? q).map (fun x => if p x then f x else x) := by
  have hq : (q ∘ fun x => if p x then f x else x) = q := by
    funext x
    by_cases hp : p x <;> simp [hp, h]
  unfold updWhere
  rw [List.find?_map, hq]

/-! ### Parts of Lantern that stand aside -/

section
variable {b : Nat} {x d : Dev} (h : x.aside b = d.aside b)
include h

theorem map_of_aside : x.lan.map = d.lan.map := (congrArg Lan.map (asideCache_of_aside h) :)
theorem hist_of_aside : x.lan.hist = d.lan.hist := (congrArg Lan.hist (asideCache_of_aside h) :)
theorem verNo_of_aside : x.lan.verNo = d.lan.verNo := (congrArg Lan.verNo (asideCache_of_aside h) :)
theorem regions_of_aside : x.lan.regions = d.lan.regions := (congrArg Lan.regions (asideCache_of_aside h) :)
theorem cap_of_aside : x.lan.cap = d.lan.cap := (congrArg Lan.cap (asideCache_of_aside h) :)
theorem bands_of_aside : x.lan.bands = d.lan.bands := (congrArg Lan.bands (asideCache_of_aside h) :)
theorem relocs_of_aside : x.lan.relocs = d.lan.relocs := (congrArg Lan.relocs (asideCache_of_aside h) :)

theorem mapE_of_aside (g : Nat) : mapE x g = mapE d g := by
  unfold mapE
  rw [map_of_aside h]

theorem planes_of_aside : planes x = planes d := by
  unfold planes
  rw [geom_of_aside h]

/-- A command's read follows the same entry. -/
theorem readEntry_of_aside {r : RJob} {t : Nat} (hown : r.own = .cmd t) : readEntry x r = readEntry d r := by
  have hentry : entryAt x r.gran r.no = entryAt d r.gran r.no := by
    unfold entryAt
    simp only [hist_of_aside h, verNo_of_aside h, mapE_of_aside h]
  unfold readEntry
  simp only [hown]
  exact hentry

end

section
variable {x d : Dev} (h : x.aside 0x210800 = d.aside 0x210800)
include h

theorem rdOff_of_aside : rdOff x = rdOff d := by
  unfold rdOff blkOff mapCount
  rw [regions_of_aside h, cap_of_aside h, cfg_of_aside h, od_of_aside h (by decide)]

theorem rdLine_of_aside (n k : Nat) : rdLine x n k = rdLine d n k := by
  unfold rdLine areaB
  rw [rdOff_of_aside h, cfg_of_aside h, od_of_aside h (by decide)]

theorem rdCntLine_of_aside (ln : Nat) : rdCntLine x ln = rdCntLine d ln := by
  unfold rdCntLine bandOff
  rw [rdOff_of_aside h, cfg_of_aside h, od_of_aside h (by decide)]

end

/-! ### What a lookup meets -/

section
variable {ln : Nat} {ws : List Nat} {d : Dev}

/-- The lookup's flits travel to the line's quarter and back; nothing else has changed as it reads the line. -/
theorem lookup_sent (ln : Nat) (d : Dev) : ∃ n, send (.mapq (setOf d.cfg ln % 4)) .lantern .rsp 1
    (send .lantern (.mapq (setOf d.cfg ln % 4)) .req 1 d) = { d with net := n } := by
  obtain ⟨a, ha⟩ := send_spec .lantern (.mapq (setOf d.cfg ln % 4)) .req 1 d
  obtain ⟨c, hc⟩ := send_spec (.mapq (setOf d.cfg ln % 4)) .lantern .rsp 1 { d with net := a }
  exact ⟨c, by rw [ha, hc]⟩

theorem lookup_of_lost {l : Line} (h : line? d ln = some l) (hl : l.lost = true) :
    ∃ n, lookup ln ws d = (.lost, { d with net := n }) := by
  obtain ⟨n, hn⟩ := lookup_sent ln d
  have hline : line? { d with net := n } ln = some l := h
  refine ⟨n, ?_⟩
  unfold lookup
  simp only [hn, hline, hl, if_true]

theorem lookup_of_absent (h : line? d ln = none) :
    ∃ n, lookup ln ws d = (.wait, wantLine ln false { d with net := n }) := by
  obtain ⟨n, hn⟩ := lookup_sent ln d
  have hline : line? { d with net := n } ln = none := h
  refine ⟨n, ?_⟩
  unfold lookup
  simp only [hn, hline]

@[simp] theorem lineCe_lan (x : Line) (w flips : Nat) (d : Dev) : (lineCe x w flips d).lan = d.lan := by simp [lineCe]

theorem lineCes_lan (x : Line) (ws : List Nat) (d : Dev) :
    (ws.foldl (fun y w => lineCe x w (tabGet 0 x.flips w) y) d).lan = d.lan := by
  induction ws generalizing d with
  | nil => rfl
  | cons w ws ih => rw [List.foldl_cons, ih, lineCe_lan]

/-- A hit is counted; the corrected errors of the words read are counted before it (R488). -/
theorem lookup_of_hit {l : Line} (h : line? d ln = some l) (hl : l.lost = false) (hb : lineBad l ws = none) :
    ∃ y, lookup ln ws d = (.hit, cnt 0x2108 1 (touchLine ln false y)) ∧ y.aside 0x290000 = d.aside 0x290000 ∧ y.lan = d.lan := by
  obtain ⟨n, hn⟩ := lookup_sent ln d
  let y := (ws.filter (fun w => eccRes (tabGet 0 l.flips w) == .corrected)).foldl
    (fun z w => lineCe l w (tabGet 0 l.flips w) z) { d with net := n }
  have hlan : y.lan = d.lan := lineCes_lan ..
  have hline : line? { d with net := n } ln = some l := h
  have hread : lineRead l ws { d with net := n } = y := by
    unfold lineRead
    simp only [hb]
    rfl
  have hafter : line? y ln = some l := by
    rw [← h]
    unfold line?
    rw [hlan]
  refine ⟨y, ?_, aside_lineCes { d with net := n } (by decide), hlan⟩
  unfold lookup
  simp only [hn, hline, hl, hread, hafter, Bool.false_eq_true, if_false]

end

/-! ### A line is wanted (R216) -/

/-- The wants with one more: a line wanted already keeps its place, and a change that it waits for. -/
def wantsWith (ln : Nat) (change : Bool) (l : List (Nat × Bool)) : List (Nat × Bool) :=
  if l.any (fun x => x.1 == ln) then updWhere (fun x => x.1 == ln) (fun x => (x.1, x.2 || change)) l else l ++ [(ln, change)]

theorem mem_wantsWith (ln : Nat) (change : Bool) (l : List (Nat × Bool)) : ∃ c, (ln, c) ∈ wantsWith ln change l := by
  unfold wantsWith
  split
  · next h =>
    obtain ⟨x, hx, hln⟩ := List.any_eq_true.mp h
    have hln : x.1 = ln := by simpa using hln
    refine ⟨x.2 || change, List.mem_map.mpr ⟨x, hx, ?_⟩⟩
    simp [hln]
  · exact ⟨change, by simp⟩

/-- The block with a line among those wanted. -/
def wanted (ln : Nat) (change : Bool) (d : Dev) : Dev := updLan (fun l => { l with want := wantsWith ln change l.want }) d

theorem wantLine_eq (ln : Nat) (change : Bool) (d : Dev) : wantLine ln change d = askLine ln (wanted ln change d) := rfl

/-- A wake source's bit, its note and its doorbell leave the domain's record and Lantern alone. -/
theorem wakeRing_doms_lan (n : Nat) (d : Dev) : (wakeRing n d).doms = d.doms ∧ (wakeRing n d).lan = d.lan := by
  unfold wakeRing
  dsimp only
  split
  · rw [ringUnit_eq]
    exact ⟨rfl, rfl⟩
  · exact ⟨rfl, rfl⟩

/-- R528: a demand on a domain that is not ON is noted there. -/
theorem assertWake_demand {n : Nat} {d : Dev} (h : isOn d n = false) :
    (dom (assertWake n 1 d) n).demand = true ∧ (assertWake n 1 d).lan = d.lan := by
  unfold assertWake
  rw [if_neg (by simp [h])]
  obtain ⟨hdoms, hlan⟩ := wakeRing_doms_lan n (updDom n (fun y => { y with demand := true }) d)
  refine ⟨?_, hlan⟩
  have hdom : dom (updDom n (fun y => { y with demand := true }) d) n = { dom d n with demand := true } := by
    simp [dom, updDom]
  show (tabGet Dom.reset (wakeRing n (updDom n (fun y => { y with demand := true }) d)).doms n).demand = true
  rw [hdoms]
  exact congrArg Dom.demand hdom

theorem askLine_of_off {ln : Nat} {d : Dev} (h : mapcOn d ln = false) : askLine ln d = assertWake (mapcDom d ln) 1 d := by
  unfold askLine
  rw [if_pos (by simp [h])]

/-- The miss slot that a line takes. -/
def newMiss (ln : Nat) (d : Dev) : Miss :=
  { slot := ((List.range (missSlots d.cfg)).find? (fun s => !(d.lan.misses.any (fun m => m.slot == s)))).getD 0,
    addr := ln, fails := 0, ans := none, uncached := (fillWays d ln).isEmpty, back := false }

/-- The block with that slot taken, and the miss counted. -/
def missTaken (ln : Nat) (d : Dev) : Dev :=
  let x := updLan (fun l => { l with misses := l.misses ++ [newMiss ln d] }) d
  if (fillWays d ln).isEmpty then cnt 0x2109 5 x else cnt 0x2108 2 x

theorem askLine_of_free {ln : Nat} {d : Dev} (hon : mapcOn d ln = true) (hm : d.lan.misses.any (fun m => m.addr == ln) = false)
    (hw : d.lan.wbs.any (fun w => w.1 == ln) = false) (hroom : d.lan.misses.length < missSlots d.cfg) :
    askLine ln d =
      postRead (od d 0x2100 2) (od d 0x2100 3 + 64 * ln) 64 (.mapRd (newMiss ln d).slot) (missTaken ln d) := by
  unfold askLine
  rw [if_neg (by simp [hon]), if_neg (by simp only [hm, hw, Bool.false_eq_true, false_or]; omega)]
  rfl

theorem missTaken_spec (ln : Nat) (d : Dev) : (missTaken ln d).lan.misses = d.lan.misses ++ [newMiss ln d] ∧
    ((newMiss ln d).uncached = false → Counted d (missTaken ln d) 0x2108 2 1) ∧
    ((newMiss ln d).uncached = true → Counted d (missTaken ln d) 0x2109 5 1) := by
  unfold missTaken
  dsimp only
  split
  · next hun =>
    refine ⟨by rw [cnt_lan]; rfl, fun h => absurd (hun.symm.trans h) (by decide), fun _ => ?_⟩
    exact counted_of_od_eq rfl rfl (cnt_spec _ _ _).1
  · next hun =>
    refine ⟨by rw [cnt_lan]; rfl, fun _ => ?_, fun h => absurd h hun⟩
    exact counted_of_od_eq rfl rfl (cnt_spec _ _ _).1

end Sys2Proof.Machine
end

section
/-! SUPPORT. A granule's read meets its map line (01_anatomy.md R36; 05_lantern_placement.md R215, R216). -/

namespace Sys2Proof.Machine

theorem completes_placeRead {id : Nat} {s : State} {P : Dev → Prop} :
    Completes (.placeRead id) s P ↔ P (kickAll (placeRead id s.dev)) := completes_run (f := fun d => kickAll (placeRead id d)) rfl

theorem placeRead_of_absent {id : Nat} {d : Dev} (h : rjob d id = none) : placeRead id d = d := by
  unfold placeRead
  rw [h]

section
variable {id t : Nat} {r : RJob} {d x : Dev} (hr : rjob d id = some r) (hown : r.own = .cmd t) (hst : r.st = .fresh)
include hr hown hst

/-- A command's fresh read is a granule's. -/
theorem placeRead_of_fresh : placeRead id d = placeGran id d := by
  unfold placeRead
  simp only [hr, hown, hst]

variable (hlook : r.looked = false)
include hlook

theorem placeRead_of_lost (h : lookup (mapLine r.gran) [r.gran % 8] d = (.lost, x)) :
    placeRead id d = r.secs.foldl (fun y q => granSec id q.lsec 0x0301 y) x := by
  rw [placeRead_of_fresh hr hown hst]
  unfold placeGran
  simp only [hr, hlook, h, Bool.false_eq_true, if_false]

theorem placeRead_of_wait (h : lookup (mapLine r.gran) [r.gran % 8] d = (.wait, x)) : placeRead id d = x := by
  rw [placeRead_of_fresh hr hown hst]
  unfold placeGran
  simp only [hr, hlook, h, Bool.false_eq_true, if_false]

/-- A granule whose page units one member slot holds needs no line but its entry's (R209). -/
theorem placeRead_of_hit (h : lookup (mapLine r.gran) [r.gran % 8] d = (.hit, x))
    (hu : eTrim (readEntry x r) = true ∨ unitsOf r.glog ≤ planes x) :
    placeRead id d = serveGran id (updRjob id (fun q => { q with looked := true }) x) := by
  have hlines : unitLines x r = [] := by
    unfold unitLines
    exact if_pos hu
  rw [placeRead_of_fresh hr hown hst]
  unfold placeGran
  simp only [hr, hlook, h, hlines, Bool.false_eq_true, if_false, List.foldl_nil, if_true]

end

/-- A read's record after a change of it. -/
theorem rjob_updRjob_self {id : Nat} {r : RJob} {d : Dev} {f : RJob → RJob} (hf : ∀ q, (f q).id = q.id) (h : rjob d id = some r) :
    rjob (updRjob id f d) id = some (f r) := by
  have hid : r.id = id := by simpa using List.find?_some h
  have hfind : rjob (updRjob id f d) id = (rjob d id).map (fun q => if q.id == id then f q else q) :=
    find?_updWhere (fun q => by rw [hf]) _
  rw [hfind, h]
  simp [hid]

/-- R36, R215, R216, R490: what a lookup of a command's fresh read does. -/
theorem readLookedUp_holds {id t : Nat} {r : RJob} {s : State} (hr : rjob s.dev id = some r) (hown : r.own = .cmd t)
    (hst : r.st = .fresh) (hlook : r.looked = false) : readLookedUp id r s := by
  refine ⟨fun l hline hlost hbad hunits => ?hit, fun l hline hlost => ?lost, fun hline => ⟨fun hoff => ?off,
    fun hon hmiss hwb hroom => ?miss⟩⟩
  case hit =>
    obtain ⟨y, hlookup, haside, hlan⟩ := lookup_of_hit hline hlost hbad
    let z := cnt 0x2108 1 (touchLine (mapLine r.gran) false y)
    have hz : z.aside 0 = s.dev.aside 0 :=
      (aside_cnt _ (by decide)).trans ((aside_touchLine ..).trans (aside_mono haside (by decide)))
    have hjobs : z.lan.rjobs = s.dev.lan.rjobs := (congrArg Lan.rjobs (asideCache_of_aside hz) :)
    have hjob : rjob z id = some r := by
      unfold rjob at hr ⊢
      rw [hjobs, hr]
    rw [completes_placeRead, placeRead_of_hit hr hown hst hlook hlookup
      (by rwa [readEntry_of_aside hz hown, planes_of_aside hz])]
    refine ⟨updRjob id (fun q => { q with looked := true }) z, rfl, ?_, rjob_updRjob_self (fun _ => rfl) hjob⟩
    refine counted_of_od_eq (d := touchLine (mapLine r.gran) false y) ?_ ?_ (cnt_spec _ _ _).1
    · exact cfg_of_aside (b := 0x290000) haside
    · exact od_of_aside haside (by decide)
  case lost =>
    obtain ⟨n, hn⟩ := lookup_of_lost hline hlost
    rw [completes_placeRead, placeRead_of_lost hr hown hst hlook hn]
    exact ⟨_, rfl, rfl⟩
  case off =>
    obtain ⟨n, hn⟩ := lookup_of_absent (ws := [r.gran % 8]) hline
    have hask : wantLine (mapLine r.gran) false { s.dev with net := n } =
        assertWake (mapcDom s.dev (mapLine r.gran)) 1 (wanted (mapLine r.gran) false { s.dev with net := n }) :=
      askLine_of_off hoff
    obtain ⟨hdemand, hlan⟩ := assertWake_demand (d := wanted (mapLine r.gran) false { s.dev with net := n }) hoff
    have hcontrol := (keep_lookup (ln := mapLine r.gran) (ws := [r.gran % 8]) (Keep.refl s.dev)).control
    rw [hn] at hcontrol
    rw [completes_placeRead, placeRead_of_wait hr hown hst hlook hn]
    refine ⟨_, rfl, ?_, ?_, ?_, hcontrol⟩
    · rw [hask]
      exact hdemand
    · rw [hask, hlan]
      exact mem_wantsWith ..
    · rw [hask, hlan]
      rfl
  case miss =>
    obtain ⟨n, hn⟩ := lookup_of_absent (ws := [r.gran % 8]) hline
    have hask := askLine_of_free (d := wanted (mapLine r.gran) false { s.dev with net := n }) hon hmiss hwb hroom
    obtain ⟨hmisses, hcached, huncached⟩ :=
      missTaken_spec (mapLine r.gran) (wanted (mapLine r.gran) false { s.dev with net := n })
    rw [completes_placeRead, placeRead_of_wait hr hown hst hlook hn, wantLine_eq, hask]
    exact ⟨_, _, rfl, hmisses, rfl, rfl, rfl, rfl, hcached, huncached⟩

end Sys2Proof.Machine
end

section
/-! SUPPORT. The answers of fills (05_lantern_placement.md R216; 13_queues_and_buffers.md R490 to R492). -/

namespace Sys2Proof.Machine

/-! ### A miss slot's answer by its cases -/

/-- The block with a miss slot free. -/
def slotFreed (k : Nat) (d : Dev) : Dev := updLan (fun l => { l with misses := l.misses.filter (fun y => y.slot ≠ k) }) d

/-- A miss slot after the first failure of its fill: it waits for an answer again. -/
def Miss.retried (y : Miss) : Miss := { y with fails := 1, ans := none }

/-- The block with a failed fill noted in its slot. -/
def slotRetried (k : Nat) (d : Dev) : Dev :=
  updLan (fun l => { l with misses := updWhere (fun y => y.slot == k) Miss.retried l.misses }) d

theorem completes_mapFillComplete {k : Nat} {s : State} {P : Dev → Prop} :
    Completes (.mapFillComplete k) s P ↔ P (kickAll (mapFillComplete k s.dev)) :=
  completes_run (f := fun d => kickAll (mapFillComplete k d)) rfl

theorem mapFillComplete_of_absent {k : Nat} {d : Dev} (h : d.lan.misses.find? (fun x => x.slot == k && !x.back) = none) :
    mapFillComplete k d = d := by
  unfold mapFillComplete
  rw [h]

section
variable {k : Nat} {m : Miss} {d : Dev} (h : d.lan.misses.find? (fun x => x.slot == k && !x.back) = some m)
include h

theorem mapFillComplete_of_unanswered (ha : m.ans = none) : mapFillComplete k d = d := by
  unfold mapFillComplete
  simp only [h, ha]

theorem mapFillComplete_of_cached (ha : m.ans = some true) (hu : m.uncached = false) :
    mapFillComplete k d = askWanted (gotLine m.addr (fillLine m.addr (slotFreed k d))) := by
  unfold mapFillComplete
  simp only [h, ha, hu, Bool.false_eq_true, if_false]
  rfl

theorem mapFillComplete_of_uncached (ha : m.ans = some true) (hu : m.uncached = true) :
    mapFillComplete k d = askWanted (serveUncached m d) := by
  unfold mapFillComplete
  simp only [h, ha, hu, if_true]

theorem mapFillComplete_of_retry (ha : m.ans = some false) (hf : m.fails = 0) :
    mapFillComplete k d = postRead (od d 0x2100 2) (od d 0x2100 3 + 64 * m.addr) 64 (.mapRd k) (slotRetried k d) := by
  unfold mapFillComplete
  simp only [h, ha, hf, if_true]
  rfl

theorem mapFillComplete_of_failed (ha : m.ans = some false) (hf : m.fails ≠ 0) :
    mapFillComplete k d = askWanted (if m.addr * 64 < blkOff d then
      (lineReaders (fillLost m (slotFreed k d)) m.addr).foldl
        (fun y r => r.secs.foldl (fun z q => granSec r.id q.lsec 0x0301 z) y) (fillLost m (slotFreed k d))
      else fillLost m (slotFreed k d)) := by
  unfold mapFillComplete
  simp only [h, ha, if_neg hf]
  rfl

/-- The slot that is asked for once more has failed once. -/
theorem find?_slotRetried : (slotRetried k d).lan.misses.find? (fun y => y.slot == k && !y.back) =
    some m.retried := by
  have hslot : m.slot = k := by
    have htest := List.find?_some h
    simp only [Bool.and_eq_true, beq_iff_eq] at htest
    exact htest.1
  refine (find?_updWhere (f := Miss.retried) (fun _ => rfl) d.lan.misses).trans ?_
  rw [h]
  simp [hslot]

end

/-! ### A line served uncached (R491) -/

theorem serveUncached_lan (m : Miss) (d : Dev) :
    (serveUncached m d).lan.rjobs = updWhere (fun r => ((lineReaders d m.addr).map (·.id)).contains r.id)
      (fun r => { r with looked := true }) d.lan.rjobs ∧
    (serveUncached m d).lan.want = d.lan.want.filter (fun x => x.1 ≠ m.addr) ∧
    (serveUncached m d).lan.lines = d.lan.lines := by
  unfold serveUncached
  dsimp only
  split
  · rw [cnt_lan, postWrite_lan]
    exact ⟨rfl, rfl, rfl⟩
  · exact ⟨rfl, rfl, rfl⟩

/-- The reads that waited for the line have been looked up. -/
theorem looked_of_serveUncached {m : Miss} {d : Dev} {r q : RJob} (hr : r ∈ lineReaders d m.addr)
    (hq : q ∈ (serveUncached m d).lan.rjobs) (hid : q.id = r.id) : q.looked = true := by
  obtain ⟨hjobs, -, -⟩ := serveUncached_lan m d
  rw [hjobs] at hq
  obtain ⟨y, -, rfl⟩ := List.mem_map.mp hq
  split at hid
  · next hy => rw [if_pos hy]
  · next hy =>
    have hmem : y.id ∈ (lineReaders d m.addr).map (·.id) := List.mem_map.mpr ⟨r, hr, hid.symm⟩
    exact absurd (by simpa using hmem) (by simpa using hy)

/-! ### A line is lost (R490) -/

/-- A line of read counts is filled with zeros; any other is marked lost, and the checkpoint under way ends (R492). -/
theorem loseLine_spec (x : Line) (syn w : Nat) (d : Dev) :
    (rdCntLine d x.addr = false → (loseLine x syn w d).clasp.ckpt = none ∧
      ∀ l ∈ (loseLine x syn w d).lan.lines, l.addr = x.addr → l.lost = true) ∧
    (rdCntLine d x.addr = true → ∀ c ∈ (loseLine x syn w d).lan.rdCnt,
      rdLine d (dieOfRank d.cfg (c.1 / 65536)) (c.1 % 65536) ≠ x.addr) := by
  unfold loseLine
  refine ⟨fun h => ?_, fun h => ?_⟩
  · rw [if_neg (by simp [h])]
    refine ⟨rfl, fun l hl ha => ?_⟩
    have hl : l ∈ updWhere (fun y : Line => y.addr == x.addr) (fun y => { y with lost := true, dirty := false, flips := [] })
        d.lan.lines := by
      rw [updClasp_lan, memError_lan, cnt_lan] at hl
      exact hl
    obtain ⟨y, -, rfl⟩ := List.mem_map.mp hl
    split at ha
    · next hy => rw [if_pos hy]
    · next hy => exact absurd (by simpa using ha) hy
  · rw [if_pos h]
    intro c hc
    obtain ⟨-, hne⟩ := List.mem_filter.mp hc
    simpa using hne

/-- The line that a failed fill loses, as it stands after the fill. -/
def filledLine (m : Miss) (d : Dev) : Line :=
  (line? d m.addr).getD { addr := m.addr, way := 0, dirty := false, lost := false, used := 0, flips := [] }

theorem filledLine_addr (m : Miss) (d : Dev) : (filledLine m d).addr = m.addr := by
  unfold filledLine
  cases h : line? d m.addr with
  | none => rfl
  | some l => simpa using List.find?_some h

/-- A second failure of a fill loses the line. -/
theorem fillLost_spec (m : Miss) (d : Dev) :
    (rdCntLine d m.addr = false → (fillLost m d).clasp.ckpt = none ∧
      ∀ l ∈ (fillLost m d).lan.lines, l.addr = m.addr → l.lost = true) ∧
    (rdCntLine d m.addr = true → ∀ c ∈ (fillLost m d).lan.rdCnt,
      rdLine d (dieOfRank d.cfg (c.1 / 65536)) (c.1 % 65536) ≠ m.addr) := by
  let y := if m.uncached then d else fillLine m.addr d
  let z := updLan (fun l => { l with want := l.want.filter (fun x => x.1 ≠ m.addr) }) y
  have hz : z.aside 0x210800 = d.aside 0x210800 := by
    refine (aside_updLan _ _ rfl).trans ?_
    show (if m.uncached then d else fillLine m.addr d).aside _ = _
    split
    · rfl
    · exact aside_fillLine d (by decide)
  have hlost : fillLost m d = loseLine (filledLine m y) 0 0 z := rfl
  have hspec := loseLine_spec (filledLine m y) 0 0 z
  rw [filledLine_addr, rdCntLine_of_aside hz, cfg_of_aside hz] at hspec
  simp only [rdLine_of_aside hz] at hspec
  rw [hlost]
  exact hspec

/-! ### What an answer does -/

/-- R216, R490 to R492: the answer of a fill. -/
theorem fillAnswered_holds {k : Nat} {m : Miss} {s : State}
    (h : s.dev.lan.misses.find? (fun x => x.slot == k && !x.back) = some m) : fillAnswered k m s := by
  refine ⟨fun ha => ?none, fun ha hu => ?cached, fun ha hu => ?uncached, fun ha hf => ?retry, fun ha hf => ?lost⟩
  case none => rw [completes_mapFillComplete, mapFillComplete_of_unanswered h ha]
  case cached =>
    rw [completes_mapFillComplete, mapFillComplete_of_cached h ha hu]
    exact ⟨slotFreed k s.dev, rfl, rfl⟩
  case uncached =>
    rw [completes_mapFillComplete, mapFillComplete_of_uncached h ha hu]
    obtain ⟨-, hwant, hlines⟩ := serveUncached_lan m s.dev
    refine ⟨serveUncached m s.dev, rfl, fun r hr q hq hid => looked_of_serveUncached hr hq hid, fun w hw => ?_, hlines⟩
    rw [hwant] at hw
    simpa using (List.mem_filter.mp hw).2
  case retry =>
    rw [completes_mapFillComplete, mapFillComplete_of_retry h ha hf]
    exact ⟨slotRetried k s.dev, rfl, find?_slotRetried h, rfl⟩
  case lost =>
    rw [completes_mapFillComplete, mapFillComplete_of_failed h ha hf]
    obtain ⟨hline, hcount⟩ := fillLost_spec m (slotFreed k s.dev)
    exact ⟨fillLost m (slotFreed k s.dev), rfl, fun hc => ⟨(hline hc).1, fun _ => (hline hc).2⟩, hcount⟩

end Sys2Proof.Machine
end

section
/-! SUPPORT. Relocations begin and switch (01_anatomy.md R39; 05_lantern_placement.md R210, R223, R224), and the statement on
reads and relocations. -/

namespace Sys2Proof.Machine

/-! ### A relocation's records -/

/-- A relocation as its member in hand begins: nothing of it is copied, and it waits for a record. -/
def Reloc.intended (need : Nat) (x : Reloc) : Reloc := { x with step := 0, need := need, todo := [], copies := [], left := 0 }

/-- A member's intent is journaled for a commit that is wanted, and of Lantern only the relocation changes (R416). -/
theorem relocIntent_spec {id : Nat} {r : Reloc} {d : Dev} (h : reloc? d id = some r) :
    (relocIntent id d).clasp.want = true ∧ ∃ need, (relocIntent id d).lan =
      { d.lan with relocs := updWhere (fun x => x.id == id) (Reloc.intended need) d.lan.relocs } := by
  unfold relocIntent
  simp only [h]
  exact ⟨rfl, _, rfl⟩

/-! ### A relocation begins (R223, R224) -/

theorem completes_relocationStart {s : State} {P : Dev → Prop} :
    Completes .relocationStart s P ↔ P (relocationStart s.dev) := completes_run rfl

theorem relocationStart_of_idle {d : Dev} (h : od d 0x2100 8 ≠ 2 ∨ d.clasp.flush.isSome ∨ d.rst.kind.isSome ∨
    od d 0x2104 9 ≤ d.lan.relocs.length ∨ pickVictim d = none) : relocationStart d = d := by
  unfold relocationStart
  split
  · rfl
  · next hgo =>
    have hnone : pickVictim d = none := by tauto
    rw [hnone]

/-- A relocation as it begins. -/
def newReloc (id k : Nat) (b : Band) : Reloc :=
  { id := id, band := b.id, kind := k, mem := 0, step := 0, need := 0, todo := [], copies := [], left := 0 }

/-- The block with the relocation of a band under way, and the band out of service for writes. -/
def relocBegun (k : Nat) (b : Band) (d : Dev) : Dev :=
  updBand b.id (fun x => { x with st := .reloc }) (updLan (fun l => { l with
    relWant := l.relWant.filter (· ≠ b.id), relocs := l.relocs ++ [newReloc (d.clasp.jobNo + 1) k b] })
    (updClasp (fun c => { c with jobNo := if d.clasp.jobNo + 1 = 0xFFFE then 0 else d.clasp.jobNo + 1 }) d))

/-- Besides, its blocks have taken RELOC. -/
def blocksTaken (k : Nat) (b : Band) (d : Dev) : Dev := b.mem.foldl (fun x m => setBstate m.1 m.2 3 x) (relocBegun k b d)

theorem relocationStart_of_victim {k : Nat} {b : Band} {d : Dev} (hs : od d 0x2100 8 = 2) (hf : d.clasp.flush = none)
    (hr : d.rst.kind = none) (hn : d.lan.relocs.length < od d 0x2104 9) (hv : pickVictim d = some (k, b)) :
    relocationStart d = relocIntent (d.clasp.jobNo + 1) (blocksTaken k b d) := by
  unfold relocationStart
  rw [if_neg (by simp only [hs, hf, hr]; simpa using hn)]
  simp only [hv]
  rfl

theorem aside_blocksTaken (k : Nat) (b : Band) (d : Dev) : (blocksTaken k b d).aside 0 = (relocBegun k b d).aside 0 :=
  aside_foldl 0 _ _ (fun x _ => aside_setBstate x (by decide))

theorem reloc?_blocksTaken (k : Nat) (b : Band) (d : Dev) : ∃ r, reloc? (blocksTaken k b d) (d.clasp.jobNo + 1) = some r := by
  unfold reloc?
  rw [relocs_of_aside (aside_blocksTaken k b d)]
  refine Option.isSome_iff_exists.mp (List.find?_isSome.mpr ⟨newReloc (d.clasp.jobNo + 1) k b, ?_, by simp [newReloc]⟩)
  show _ ∈ d.lan.relocs ++ [newReloc (d.clasp.jobNo + 1) k b]
  simp

/-- R224, R416: the new relocation's intent is recorded, its band takes RELOC, and no map entry changes. -/
theorem relocationStart_spec {k : Nat} {b : Band} {d : Dev} (hs : od d 0x2100 8 = 2) (hf : d.clasp.flush = none)
    (hr : d.rst.kind = none) (hn : d.lan.relocs.length < od d 0x2104 9) (hv : pickVictim d = some (k, b)) :
    (relocationStart d).clasp.want = true ∧
    ((relocationStart d).lan.relocs.drop d.lan.relocs.length).map (fun r => (r.band, r.kind, r.mem, r.step)) = [(b.id, k, 0, 0)] ∧
    (∀ x, band (relocationStart d) b.id = some x → x.st = .reloc) ∧ (relocationStart d).lan.map = d.lan.map := by
  obtain ⟨r, hrel⟩ := reloc?_blocksTaken k b d
  obtain ⟨hwant, need, hlan⟩ := relocIntent_spec hrel
  have haside := aside_blocksTaken k b d
  have hrelocs : (blocksTaken k b d).lan.relocs = d.lan.relocs ++ [newReloc (d.clasp.jobNo + 1) k b] :=
    (relocs_of_aside haside :)
  have hbands : (blocksTaken k b d).lan.bands = updWhere (fun x => x.id == b.id) (fun x => { x with st := .reloc }) d.lan.bands :=
    (bands_of_aside haside :)
  have hmap : (blocksTaken k b d).lan.map = d.lan.map := (map_of_aside haside :)
  rw [relocationStart_of_victim hs hf hr hn hv]
  unfold band
  rw [hlan]
  refine ⟨hwant, ?_, fun x hx => ?_, hmap⟩
  · simp [hrelocs, updWhere, newReloc, Reloc.intended]
  · have hfind := find?_updWhere (p := fun x => x.id == b.id) (q := fun x => x.id == b.id)
      (f := fun x => { x with st := .reloc }) (fun _ => rfl) d.lan.bands
    rw [hbands, hfind] at hx
    obtain ⟨y, hy, rfl⟩ := Option.map_eq_some_iff.mp hx
    rw [if_pos (List.find?_some hy)]

/-! ### A switch (R210) -/

theorem completes_relocSwitch {id : Nat} {s : State} {P : Dev → Prop} :
    Completes (.relocSwitch id) s P ↔ P (relocSwitch id s.dev) := completes_run rfl

theorem relocSwitch_of_not_ready {id : Nat} {d : Dev} (h : ∀ r, reloc? d id = some r → r.step ≠ 3) : relocSwitch id d = d := by
  unfold relocSwitch
  split
  · rfl
  · next r hr => exact if_pos (h r hr)

theorem mapE_putMap_self (g e : Nat) (d : Dev) : mapE (putMap g e d) g = e := tabGet_tabSet_self ..

theorem mapE_putMap_ne {g k : Nat} (e : Nat) (d : Dev) (h : k ≠ g) : mapE (putMap g e d) k = mapE d k :=
  tabGet_tabSet_ne _ _ _ _ h

/-- An entry that still names the copy's source takes the copy's place; one that a command has changed stays, and so does
every other. -/
theorem switchOne_spec {c : Nat × Nat × Nat × Nat} {g : Gran} {d : Dev} (hg : granIdx d c.1 = some g) :
    if eTrim (mapE d c.1) = false ∧ eGen (mapE d c.1) = eGen c.2.1 ∧ eAddr (mapE d c.1) = eAddr c.2.1 then
      mapE (switchOne c d) c.1 = c.2.2.1 ∧ ∀ k, k ≠ c.1 → mapE (switchOne c d) k = mapE d k
    else (switchOne c d).lan.map = d.lan.map := by
  unfold switchOne
  simp only [hg]
  split
  · next hsame =>
    obtain ⟨ht, hgen, haddr⟩ := hsame
    rw [if_neg (by simp [ht, hgen, haddr])]
    generalize hx : moveUnits false (mapE d c.1) g (moveUnits true c.2.2.1 g d) = x
    have hmoved : x.aside 0 = d.aside 0 := by
      subst hx
      exact (aside_moveUnits _ (by decide)).trans (aside_moveUnits d (by decide))
    have hswitched : (jMap c.1 c.2.2.1 c.2.2.2 2 (dirtyEntry c.1 (putMap c.1 c.2.2.1 x))).aside 0 = (putMap c.1 c.2.2.1 x).aside 0 :=
      (aside_jAppend ..).trans (aside_dirtyEntry _ (by decide))
    refine ⟨?_, fun k hk => ?_⟩
    · rw [mapE_of_aside hswitched, mapE_putMap_self]
    · rw [mapE_of_aside hswitched, mapE_putMap_ne _ _ hk, mapE_of_aside hmoved]
  · next hsame =>
    rw [if_pos (by
      by_contra hn
      simp only [not_or, Bool.not_eq_true, not_not] at hn
      exact hsame hn)]

/-- The block with a relocation's one copy switched, as its next member begins or its source awaits its erase. -/
def copySwitched (id : Nat) (r : Reloc) (c : Nat × Nat × Nat × Nat) (d : Dev) : Dev :=
  let x := updClasp (fun c => { c with want := true }) (updReloc id (fun x => { x with copies := [] }) (switchOne c d))
  if r.mem + 1 < d.lan.n then updReloc id (fun x => { x with mem := x.mem + 1 }) x
  else updReloc id (fun x => { x with step := 4 }) x

theorem relocSwitch_of_copy {id : Nat} {r : Reloc} {c : Nat × Nat × Nat × Nat} {d : Dev} (h : reloc? d id = some r)
    (hs : r.step = 3) (hc : r.copies = [c]) (hj : jbufUsed d < jbufCap d) :
    relocSwitch id d = if r.mem + 1 < d.lan.n then relocIntent id (copySwitched id r c d) else relocEnd id (copySwitched id r c d) := by
  unfold relocSwitch copySwitched
  simp only [h, hs, hc, List.foldl_cons, List.foldl_nil, hj, if_true, List.isEmpty_nil, not_true_eq_false, if_false, ne_eq]
  split <;> rfl

theorem map_copySwitched (id : Nat) (r : Reloc) (c : Nat × Nat × Nat × Nat) (d : Dev) :
    (copySwitched id r c d).lan.map = (switchOne c d).lan.map ∧ (copySwitched id r c d).clasp.want = true := by
  unfold copySwitched
  dsimp only
  split <;> exact ⟨rfl, rfl⟩

/-! ### The statement -/

/-- Settles O45: lookups and fills by what their line meets; a relocation begins with its intent, and its switch goes by R210's
test. -/
theorem readsAndRelocations : Obligations.ReadsAndRelocations := by
  intro s
  refine ⟨fun id r t hr hown hst hlook => readLookedUp_holds hr hown hst hlook, fun id h => ?absent,
    fun k m h => fillAnswered_holds h, fun k h => ?unasked, fun h => ?idle, fun k b hs hf hr hn hv => ?start,
    fun id h => ?notReady, fun id r g c h hs hc hj hg => ?switch⟩
  case absent => rw [completes_placeRead, placeRead_of_absent h]
  case unasked => rw [completes_mapFillComplete, mapFillComplete_of_absent h]
  case idle => exact completes_relocationStart.mpr (relocationStart_of_idle h)
  case start =>
    obtain ⟨hwant, hrelocs, hband, hmap⟩ := relocationStart_spec hs hf hr hn hv
    exact completes_relocationStart.mpr ⟨hwant, (keep_relocationStart (Keep.refl s.dev)).control, hrelocs, hband, hmap⟩
  case notReady => exact completes_relocSwitch.mpr (relocSwitch_of_not_ready h)
  case switch =>
    obtain ⟨hmap, hwant⟩ := map_copySwitched id r c s.dev
    refine completes_relocSwitch.mpr ⟨copySwitched id r c s.dev, hwant, relocSwitch_of_copy h hs hc hj, ?_⟩
    have hspec := switchOne_spec hg
    unfold mapE at hspec ⊢
    rw [hmap]
    exact hspec

end Sys2Proof.Machine
end

section
/-! SUPPORT. Filtered pulses, hold-up reports, the bus, sensors and the time base (02_ports.md R82 to R96): what an input of the
telemetry changes and counts. -/

namespace Sys2Proof.Machine

/-! ### Short pulses -/

/-- Settles O7: each filter's discarded pulse is one event of its counter. -/
theorem shortPulsesAreOnlyCounted : Obligations.ShortPulsesAreOnlyCounted := by
  intro s
  refine ⟨(completes_run rfl).mpr (cnt_spec ..), (completes_run rfl).mpr (cnt_spec ..), fun n hn => (completes_run rfl).mpr ?_,
    fun ch t hch ht => (completes_run rfl).mpr ?_, fun hbus => (completes_run rfl).mpr ?_⟩
  · rw [if_pos hn]
    exact cnt_spec ..
  · rw [if_pos ⟨hch, ht⟩]
    exact cnt_spec ..
  · rw [if_pos hbus]
    exact cnt_spec ..

/-! ### Hold-up reports (R84 to R86) -/

theorem holdUpReports_holds : holdUpReports := by
  intro s energy seq e q
  have hrun : exec (.holdupReport energy seq) s = run (takeReport energy seq) s := rfl
  refine ⟨fun hs => ?repeated, fun hs he => ?outOfRange, fun hs he => ?taken⟩
  case repeated =>
    rw [completes_run hrun, takeReport, if_pos hs]
    exact cnt_spec ..
  case outOfRange =>
    rw [completes_run hrun, takeReport, if_neg hs, if_pos he]
    exact cnt_spec 0x2403 8 _
  case taken =>
    rw [completes_run hrun, takeReport, if_neg hs, if_neg (Nat.not_lt.mpr he)]
    have hsize : odSize s.dev.cfg (ek 0x2401 4) = 4 := rfl
    refine ⟨?_, keeps_put (i := 0x2401) (j := 4) _ (by simp), rfl⟩
    rw [od_put_self]
    show e % 2 ^ (8 * odSize s.dev.cfg (ek 0x2401 4)) = e
    rw [hsize]
    exact Nat.mod_mod _ _

/-! ### The bus (R87) -/

/-- An event counted on a condition. -/
theorem cnt_if_spec (i j : Nat) (p : Prop) [Decidable p] (d : Dev) :
    (p → Counted d (if p then cnt i j d else d) i j 1) ∧ (¬ p → od (if p then cnt i j d else d) i j = od d i j) ∧
    OnlyEntries d (if p then cnt i j d else d) [ek i j] := by
  split
  · next h => exact ⟨fun _ => (cnt_spec i j d).1, fun hn => absurd h hn, (cnt_spec i j d).2⟩
  · next h => exact ⟨fun hp => absurd hp h, fun _ => rfl, keeps_refl _ _, rfl⟩

theorem busSampled_busSample (v : Nat) (d : Dev) : busSampled v d (busSample v d) := by
  unfold busSample
  extract_lets mv beyond high nHigh nLow above d1 d2
  obtain ⟨hbeyond, hnot, hk1, he1⟩ := cnt_if_spec 0x2403 8 (beyond = true ∧ ¬ d.tele.beyond = true) d
  obtain ⟨habove, hnota, hk2, he2⟩ := cnt_if_spec 0x2403 0x0A (above = true ∧ ¬ d.tele.above = true) d1
  change KeepsEntries d d1 _ at hk1
  change d1 = _ at he1
  change KeepsEntries d1 d2 _ at hk2
  change d2 = _ at he2
  have hcfg : d1.cfg = d.cfg := by rw [he1]
  have htele : d2.tele = d.tele := by rw [he2, he1]
  have h8 : od d2 0x2403 8 = od d1 0x2403 8 := hk2 _ (by decide)
  have hA : od d1 0x2403 0x0A = od d 0x2403 0x0A := hk1 _ (by decide)
  have hhigh : high = true ↔ (od d 0x2401 1 < mv ∨ 30000 < mv) := by simp [high, beyond, or_comm]
  refine ⟨fun h => ?_, fun h => ?_, ?_, ?_, ?_, ?_, ?_, ?_, ?_⟩
  · simp [nHigh, nLow, hhigh.mpr h]
  · simp [nHigh, nLow, mt hhigh.mp h]
  · simp [above, nHigh, nLow]
  · intro h
    exact counted_of_od_eq hcfg hA (habove (by simpa using h))
  · intro h
    exact (hnota (by simpa using h)).trans hA
  · intro h
    show od d2 0x2403 8 = _
    rw [h8]
    exact hbeyond ⟨decide_eq_true h.1, by simp [h.2]⟩
  · intro h
    exact h8.trans (hnot fun hb => h ⟨of_decide_eq_true hb.1, by simpa using hb.2⟩)
  · intro k hk
    simp only [List.mem_cons, List.not_mem_nil, or_false, not_or] at hk
    exact (hk2 k (by simpa using hk.1)).trans (hk1 k (by simpa using hk.2))
  · show { d2 with tele := { d2.tele with above := above, nHigh := nHigh, nLow := nLow, beyond := beyond } } = _
    rw [htele]
    rw [he2, he1]

/-- Samples one after the other are judged one by one. -/
theorem busSampledAll_busSamples (l : List Nat) (d : Dev) : busSampledAll l d (busSamples l d) := by
  induction l generalizing d with
  | nil => rfl
  | cons v l ih => exact ⟨busSample v d, busSampled_busSample v d, ih _⟩

theorem holdUpConditions_holds : holdUpConditions := by
  intro s
  refine ⟨fun hs ht => (completes_run rfl).mpr ?_, fun l => ⟨(completes_run rfl).mpr ?_, (completes_run rfl).mpr ?_⟩,
    (completes_run (f := fun d => { d with tele := { d.tele with pf := true } }) rfl).mpr rfl⟩
  · rw [if_pos ⟨hs, by simp [ht]⟩]
    exact cnt_spec 0x2403 9 _
  · exact busSampledAll_busSamples l s.dev
  · exact busSampledAll_busSamples l s.dev

/-! ### Sensors (R89) -/

@[simp] theorem sensor_updSensor_self (i : Nat) (f : Sensor → Sensor) (d : Dev) : sensor (updSensor i f d) i = f (sensor d i) := by
  simp [sensor, updSensor]

theorem sensor_updSensor_ne {i j : Nat} (f : Sensor → Sensor) (d : Dev) (h : j ≠ i) : sensor (updSensor i f d) j = sensor d j :=
  tabGet_tabSet_ne _ _ _ _ h

/-- A number that 16 bits hold reads back from its two's complement. -/
theorem sext_ofInt_16 {t : Int} (hlo : -32768 ≤ t) (hhi : t < 32768) : sext (ofInt t 16) 16 = t := by
  have hv : ((ofInt t 16 : Nat) : Int) = t % 65536 := by
    unfold ofInt
    rw [Int.toNat_of_nonneg (Int.emod_nonneg _ (by decide))]
    rfl
  unfold sext bit
  generalize ofInt t 16 = v at hv
  split
  · next h =>
    simp only [beq_iff_eq] at h
    omega
  · next h =>
    simp only [beq_iff_eq] at h
    omega

/-- A reading of a sensor, in 1/16 degrees. -/
def takeReading (id : Nat) (t : Int) (d : Dev) : Dev :=
  if t < -55 * 16 ∨ 150 * 16 < t then cnt 0x2902 1 d
  else updSensor (id % 64) (fun x => { x with last := t, seen := true, stale := false }) d

theorem exec_sensorReport {id : Nat} {t : Int} (s : State) (hlo : -32768 ≤ t) (hhi : t < 32768) :
    exec (.sensorReport id t) s = run (takeReading id t) s := by
  have h : exec (.sensorReport id t) s = run (takeReading id (sext (ofInt t 16) 16)) s := rfl
  rw [h, sext_ofInt_16 hlo hhi]

theorem sensorReports_holds : sensorReports := by
  intro s id hid
  have hmod : id % 64 = id := Nat.mod_eq_of_lt hid
  refine ⟨fun temp hlo hhi => ?_, fun temp hlo hhi hout => ?_, fun hs => (completes_run rfl).mpr ?_⟩
  · rw [completes_run (exec_sensorReport s (by omega) (by omega)), takeReading, if_neg (by omega), hmod]
    exact ⟨sensor_updSensor_self .., fun j hj => sensor_updSensor_ne _ _ hj, rfl⟩
  · rw [completes_run (exec_sensorReport s hlo hhi), takeReading, if_pos (by omega)]
    exact cnt_spec ..
  · rw [if_pos ⟨hid, by simp [hs]⟩]
    obtain ⟨hc, hk, he⟩ := cnt_spec 0x2902 2 (updSensor id (fun x => { x with stale := true }) s.dev)
    generalize cnt 0x2902 2 (updSensor id (fun x => { x with stale := true }) s.dev) = x at hc hk he
    have hsensor : ∀ j, sensor x j = sensor (updSensor id (fun x => { x with stale := true }) s.dev) j := by
      intro j
      rw [he]
      rfl
    exact ⟨hc, by rw [hsensor, sensor_updSensor_self], fun j hj => by rw [hsensor, sensor_updSensor_ne _ _ hj], hk, by rw [he]; rfl⟩

/-- Settles O8: each input by what it brings, the bus sample by sample. -/
theorem telemetryInputs : Obligations.TelemetryInputs := ⟨holdUpReports_holds, holdUpConditions_holds, sensorReports_holds⟩

/-! ### The time base (R90 to R93) -/

/-- The count of a timer's skipped ticks (R455). -/
def skippedKey (t : Nat × Tmr) : Nat := ek (0x2510 + t.1) 5

/-- What a change of the timers and of entries leaves alone. -/
def TimersFrame (d d' : Dev) (keys : List Nat) : Prop :=
  KeepsEntries d d' keys ∧ d' = { d with od := d'.od, sat := d'.sat, tender := d'.tender }

theorem TimersFrame.trans {a b c : Dev} {keys : List Nat} (h1 : TimersFrame a b keys) (h2 : TimersFrame b c keys) :
    TimersFrame a c keys := ⟨keeps_trans h1.1 h2.1, by rw [h2.2, h1.2]⟩

/-- The ticks of one timer that a step passes over (R455). -/
def skipTick (now : Nat) (x : Dev) (t : Nat × Tmr) : Dev :=
  if now ≤ t.2.next then x
  else
    let k := (now - 1 - t.2.next) / max 1 t.2.period + 1
    cntN (0x2510 + t.1) 5 k (setTmr t.1 { t.2 with next := t.2.next + k * t.2.period } x)

theorem skipTick_frame {now : Nat} {x : Dev} {t : Nat × Tmr} {keys : List Nat} (h : skippedKey t ∈ keys) :
    TimersFrame x (skipTick now x t) keys := by
  unfold skipTick
  split
  · exact ⟨keeps_refl _ _, rfl⟩
  · extract_lets k
    obtain ⟨-, hk, he⟩ := cntN_spec (0x2510 + t.1) 5 k (setTmr t.1 { t.2 with next := t.2.next + k * t.2.period } x)
    refine ⟨fun j hj => hk j ?_, ?_⟩
    · simp only [List.mem_singleton]
      rintro rfl
      exact hj h
    · rw [he]
      rfl

theorem skipTicks_frame (now : Nat) (d : Dev) : TimersFrame d (skipTicks now d) (d.tender.tmrs.map skippedKey) := by
  have hfold : ∀ (keys : List Nat) (l : Tab Tmr), (∀ t ∈ l, skippedKey t ∈ keys) → ∀ x : Dev,
      TimersFrame x (l.foldl (skipTick now) x) keys := by
    intro keys l
    induction l with
    | nil => exact fun _ x => ⟨keeps_refl _ _, rfl⟩
    | cons t l ih =>
      intro hl x
      exact (skipTick_frame (hl t (by simp))).trans (ih (fun u hu => hl u (by simp [hu])) _)
  exact hfold _ _ (fun t ht => List.mem_map_of_mem ht) d

/-- R90, R93: a sync applied sets the clock, and the time base is LOCKED with the time of the sync. -/
theorem applySync_spec {c : Nat} (d : Dev) (hc : c < 2 ^ 64) :
    (applySync c d).ts = c ∧ od (applySync c d) 0x2010 2 = 1 ∧ od (applySync c d) 0x2010 7 = c ∧
    KeepsEntries d (applySync c d) ([ek 0x2010 2, ek 0x2010 7] ++ d.tender.tmrs.map skippedKey) ∧
    applySync c d = { d with
      od := (applySync c d).od, sat := (applySync c d).sat, ts := c, tele := { d.tele with tbPend := none },
      tender := (applySync c d).tender } := by
  have hskip : TimersFrame d (if d.ts < c then skipTicks c d else d) (d.tender.tmrs.map skippedKey) := by
    split
    · exact skipTicks_frame c d
    · exact ⟨keeps_refl _ _, rfl⟩
  unfold applySync
  generalize (if d.ts < c then skipTicks c d else d) = x at hskip
  obtain ⟨hk, he⟩ := hskip
  have hmod : c % 2 ^ 64 = c := Nat.mod_eq_of_lt hc
  refine ⟨hmod, ?_, ?_, fun k hk' => ?_, ?_⟩
  · rw [od_put_self]
    rfl
  · rw [od_put_ne _ _ (by decide), od_put_self]
    exact hmod
  · simp only [List.mem_append, List.mem_cons, List.not_mem_nil, or_false, not_or] at hk'
    obtain ⟨⟨h2, h7⟩, ht⟩ := hk'
    rw [getK_put_ne _ _ h2, getK_put_ne _ _ h7]
    exact hk k ht
  · dsimp only [put, putK]
    rw [hmod]
    rw [he]

/-- A sync within the tolerance is applied (R91). -/
theorem judge_of_near {c : Nat} {d : Dev} (h : absDiff c d.ts ≤ od d 0x2010 3) : sync.judge c d = applySync c d := if_pos h

/-- One outside it is held in STEP PENDING (R91). -/
theorem judge_of_far {c : Nat} {d : Dev} (h : od d 0x2010 3 < absDiff c d.ts) :
    od (sync.judge c d) 0x2010 2 = 3 ∧
    SameBut d (sync.judge c d) (fun d => { d with tele := { d.tele with tbPend := some (c, d.ts) } }) [ek 0x2010 2] := by
  unfold sync.judge
  rw [if_neg (Nat.not_le.mpr h)]
  refine ⟨?_, keeps_put (i := 0x2010) (j := 2) _ (by simp), rfl⟩
  rw [od_put_self]
  rfl

theorem sync_of_none {c : Nat} {d : Dev} (h : d.tele.tbPend = none) : sync c d = sync.judge c d := by
  unfold sync
  rw [h]

theorem sync_of_held {c c0 t0 : Nat} {d : Dev} (h : d.tele.tbPend = some (c0, t0)) :
    sync c d = if absDiff c (c0 + (d.ts - t0)) ≤ od d 0x2010 3 then
        cnt 0x2010 4 (applySync c { d with tele := { d.tele with steps := d.tele.steps + 1 } })
      else sync.judge c (cnt 0x2010 5 { d with tele := { d.tele with tbPend := none } }) := by
  unfold sync
  rw [h]

/-- The keys of the timers' counts lie above those of the time base. -/
theorem ek_not_skipped {j : Nat} (hj : j < 256) (l : Tab Tmr) : ek 0x2010 j ∉ l.map skippedKey := by
  simp only [List.mem_map, not_exists, not_and, skippedKey, ek]
  intro t _
  omega

theorem timeBaseSync_holds : timeBaseSync := by
  intro s c hc
  have hrun : exec (.tbSync c) s = run (sync c) s := by
    have h : exec (.tbSync c) s = run (sync (c % 2 ^ 64)) s := rfl
    rw [h, Nat.mod_eq_of_lt hc]
  refine ⟨fun hp hnear => ?near, fun hp hfar => ?far, fun c0 t0 hp hnear => ?step, fun c0 t0 hp hfar => ?afresh⟩
  case near =>
    rw [completes_run hrun, sync_of_none hp, judge_of_near hnear]
    obtain ⟨hts, h2, h7, hk, he⟩ := applySync_spec s.dev hc
    exact ⟨hts, h2, h7, fun k hk' => hk k (fun h => hk' (List.mem_append_left _ h)), by rw [he]; rfl⟩
  case far =>
    rw [completes_run hrun, sync_of_none hp]
    exact judge_of_far hfar
  case step =>
    rw [completes_run hrun, sync_of_held hp, if_pos hnear]
    obtain ⟨hts, h2, h7, hk, he⟩ := applySync_spec { s.dev with tele := { s.dev.tele with steps := s.dev.tele.steps + 1 } } hc
    generalize applySync c { s.dev with tele := { s.dev.tele with steps := s.dev.tele.steps + 1 } } = x at hts h2 h7 hk he
    have h4 : od x 0x2010 4 = od s.dev 0x2010 4 := hk _ (by simp [ek_not_skipped]; decide)
    obtain ⟨hcnt, hkc, hec⟩ := cnt_spec 0x2010 4 x
    refine ⟨by rw [hec]; exact hts, (hkc _ (by decide)).trans h2, (hkc _ (by decide)).trans h7,
      counted_of_od_eq (by rw [he]) h4 hcnt, fun k hk' => ?_, by rw [hec, he]⟩
    exact (hkc k (fun h => hk' (List.mem_append_right _ h))).trans (hk k (fun h => hk' (List.mem_append_left _ h)))
  case afresh =>
    rw [completes_run hrun, sync_of_held hp, if_neg (Nat.not_le.mpr hfar)]
    obtain ⟨hcnt, hkc, hec⟩ := cnt_spec 0x2010 5 { s.dev with tele := { s.dev.tele with tbPend := none } }
    generalize cnt 0x2010 5 { s.dev with tele := { s.dev.tele with tbPend := none } } = x at hcnt hkc hec
    have hts : x.ts = s.dev.ts := by rw [hec]
    have hcfg : x.cfg = s.dev.cfg := by rw [hec]
    have htmrs : x.tender = s.dev.tender := by rw [hec]
    have hle : od x 0x2010 3 = od s.dev 0x2010 3 := hkc _ (by decide)
    rw [← hts, ← hle]
    split
    · next hnear =>
      rw [judge_of_near hnear]
      obtain ⟨hts', h2, -, hk, he⟩ := applySync_spec x hc
      have h5 : od (applySync c x) 0x2010 5 = od x 0x2010 5 := hk _ (by simp [ek_not_skipped]; decide)
      refine ⟨?_, hts', h2, fun k hk' => ?_, by rw [he, hec]; rfl⟩
      · unfold Counted
        rw [h5]
        exact hcnt
      · rw [htmrs] at hk
        exact (hk k (fun h => hk' (List.mem_append_left _ h))).trans (hkc k (fun h => hk' (List.mem_append_right _ h)))
    · next hfar =>
      obtain ⟨h2, hk, he⟩ := judge_of_far (Nat.not_le.mp hfar)
      refine ⟨?_, by rw [he], h2, by rw [he]⟩
      have h5 : od (sync.judge c x) 0x2010 5 = od x 0x2010 5 := hk _ (by decide)
      unfold Counted
      rw [h5]
      exact hcnt

theorem timeBaseHoldover_holds : timeBaseHoldover := by
  intro s c hc
  have hrun : exec c s = run holdover s := by
    obtain rfl | rfl := hc <;> rfl
  refine ⟨fun h => ?_, fun h => ?_⟩
  · rw [completes_run hrun, holdover, if_pos h]
    obtain ⟨hcnt, hkc, hec⟩ := cnt_spec 0x2010 6 (put 0x2010 2 2 { s.dev with tele := { s.dev.tele with tbPend := none } })
    have hput : KeepsEntries s.dev (put 0x2010 2 2 { s.dev with tele := { s.dev.tele with tbPend := none } }) [ek 0x2010 2] :=
      keeps_put (i := 0x2010) (j := 2) _ (by simp)
    have h6 : od (put 0x2010 2 2 { s.dev with tele := { s.dev.tele with tbPend := none } }) 0x2010 6 = od s.dev 0x2010 6 :=
      hput _ (by decide)
    refine ⟨?_, counted_of_od_eq (by rfl) h6 hcnt, fun k hk => ?_, by rw [hec]; rfl⟩
    · refine (hkc (ek 0x2010 2) (by decide)).trans ?_
      exact od_put_self 0x2010 2 2 _
    · simp only [List.mem_cons, List.not_mem_nil, or_false, not_or] at hk
      exact (hkc k (by simpa using hk.2)).trans (hput k (by simpa using hk.1))
  · rw [completes_run hrun, holdover, if_neg (by omega)]

/-- Settles O9: a sync by whether one is held and by the tolerance; the loss of the time base by its state. -/
theorem timeBase : Obligations.TimeBase := ⟨timeBaseSync_holds, timeBaseHoldover_holds⟩

end Sys2Proof.Machine
end

section
/-! SUPPORT. A port's link and its credits (02_ports.md R46 to R48, R72 to R75), and the frame of a fault (17_faults_and_limits.md
R558). -/

namespace Sys2Proof.Machine

/-! ### What raising a fault changes (R558 to R564) -/

/-- The entries that raising a fault of a class writes: the log's sequence number, the class's bit and count, and the records
lost. -/
def faultKeys (cls : Nat) : List Nat := [ek 0x2900 2, ek 0x2900 3, ek 0x2900 7, ek 0x2901 (cls + 1)]

/-- A change of these entries, of the log and of the doorbells that wait. -/
def FaultFrame (cls : Nat) (d d' : Dev) : Prop :=
  KeepsEntries d d' (faultKeys cls) ∧
  d' = { d with od := d'.od, sat := d'.sat, flt := d'.flt, dbq := d'.dbq, net := d'.net }

section
variable {cls : Nat}

theorem FaultFrame.refl (d : Dev) : FaultFrame cls d d := ⟨keeps_refl _ _, rfl⟩

theorem FaultFrame.trans {a b c : Dev} (h1 : FaultFrame cls a b) (h2 : FaultFrame cls b c) : FaultFrame cls a c :=
  ⟨keeps_trans h1.1 h2.1, by rw [h2.2, h1.2]⟩

theorem faultFrame_sendVia (u v : NUnit) (c : NClass) (n : Nat) (d : Dev) : FaultFrame cls d (sendVia u v c n d) := by
  obtain ⟨x, hx⟩ := sendVia_spec u v c n d
  rw [hx]
  exact ⟨fun _ _ => rfl, rfl⟩

theorem faultFrame_fltBell (d : Dev) : FaultFrame cls d (fltBell cls d) := by
  unfold fltBell
  split
  · obtain ⟨x, hx⟩ := send_spec .ao .bell .msg 1 { d with dbq := d.dbq ++ [.flt (od d 0x2900 5)] }
    rw [hx]
    exact ⟨fun _ _ => rfl, rfl⟩
  · exact FaultFrame.refl d

theorem faultFrame_fltWrite (r : Flt) (d : Dev) : FaultFrame cls d (fltWrite r d) :=
  ⟨keeps_put (i := 0x2900) (j := 2) _ (by simp [faultKeys]), rfl⟩

/-- The class's bit and count. -/
def faultMark (cls : Nat) (d : Dev) : Dev := cnt 0x2901 (cls + 1) (putBit 0x2900 3 cls true d)

theorem faultFrame_faultMark (d : Dev) : FaultFrame cls d (faultMark cls d) := by
  obtain ⟨-, hk, he⟩ := cnt_spec 0x2901 (cls + 1) (putBit 0x2900 3 cls true d)
  have hput : FaultFrame cls d (putBit 0x2900 3 cls true d) := ⟨keeps_put (i := 0x2900) (j := 3) _ (by simp [faultKeys]), rfl⟩
  refine hput.trans ⟨fun k hk' => hk k ?_, by rw [faultMark, he]⟩
  simp only [faultKeys, List.mem_cons, not_or] at hk' ⊢
  tauto

theorem faultFrame_lost (d : Dev) : FaultFrame cls d (cnt 0x2900 7 d) := by
  obtain ⟨-, hk, he⟩ := cnt_spec 0x2900 7 d
  refine ⟨fun k hk' => hk k ?_, by rw [he]⟩
  simp only [faultKeys, List.mem_cons, not_or] at hk' ⊢
  tauto

theorem bit_setBit_self (v n : Nat) : bit (setBit v n true) n = true := by
  unfold setBit
  split
  · assumption
  · next h =>
    simp only [if_true]
    unfold bit at *
    rw [Nat.add_div_right _ (by positivity)]
    simp only [beq_iff_eq] at *
    omega

theorem bit_mod {v n k : Nat} (h : k < n) : bit (v % 2 ^ n) k = bit v k := by
  unfold bit
  have hsplit : (2 : Nat) ^ n = 2 ^ k * (2 * 2 ^ (n - k - 1)) := by
    rw [← pow_succ', ← pow_add]
    congr 1
    omega
  rw [hsplit, Nat.mod_mul_right_div_self, Nat.mod_mul_right_mod]

/-- The class's bit is set. -/
theorem bit_faultMark {d : Dev} (h : cls < 16) : bit (od (faultMark cls d) 0x2900 3) cls = true := by
  have hne : ek 0x2900 3 ≠ ek 0x2901 (cls + 1) := by
    unfold ek
    omega
  have hsize : odSize d.cfg (ek 0x2900 3) = 2 := rfl
  unfold faultMark
  rw [cnt, od_cntN_ne _ _ hne, putBit, od_put_self, hsize, bit_mod h, bit_setBit_self]

/-- A fault marks its class in the state that its record leaves; its doorbell follows. -/
theorem fault_eq_marked (cls cause unit a b : Nat) (d : Dev) :
    ∃ y, FaultFrame cls d y ∧ (fault cls cause unit a b d = faultMark cls y ∨ fault cls cause unit a b d = fltBell cls (faultMark cls y)) := by
  have hstart : FaultFrame cls d (if unit = 0xFFFF then d else sendVia (domUnit d.cfg unit) .ao .msg 1 d) := by
    split
    · exact FaultFrame.refl d
    · exact faultFrame_sendVia ..
  unfold fault
  extract_lets x rec0 same mark
  change FaultFrame cls d x at hstart
  split
  · exact ⟨{ x with flt := fltRepeat x.flt }, hstart.trans ⟨fun _ _ => rfl, rfl⟩, .inl rfl⟩
  · split
    · split
      · exact ⟨{ x with flt := { x.flt with held := x.flt.held ++ [rec0] } }, hstart.trans ⟨fun _ _ => rfl, rfl⟩, .inl rfl⟩
      · exact ⟨_, hstart.trans (faultFrame_lost x), .inr rfl⟩
    · exact ⟨_, hstart.trans (faultFrame_fltWrite rec0 x), .inr rfl⟩

/-- What a fault leaves alone. -/
theorem faultFrame_fault (cause unit a b : Nat) (d : Dev) : FaultFrame cls d (fault cls cause unit a b d) := by
  obtain ⟨y, hy, h | h⟩ := fault_eq_marked cls cause unit a b d
  · rw [h]
    exact hy.trans (faultFrame_faultMark y)
  · rw [h]
    exact (hy.trans (faultFrame_faultMark y)).trans (faultFrame_fltBell _)

/-- A fault's class is active. -/
theorem bit_fault (cause unit a b : Nat) (d : Dev) (h : cls < 16) :
    bit (od (fault cls cause unit a b d) 0x2900 3) cls = true := by
  obtain ⟨y, -, he | he⟩ := fault_eq_marked cls cause unit a b d
  · rw [he, bit_faultMark h]
  · have hbell : od (fltBell cls (faultMark cls y)) 0x2900 3 = od (faultMark cls y) 0x2900 3 :=
      od_congr (by rw [(faultFrame_fltBell _).2]) (by
        unfold fltBell
        split
        · obtain ⟨x, hx⟩ := send_spec .ao .bell .msg 1 { faultMark cls y with dbq := (faultMark cls y).dbq ++ [.flt (od (faultMark cls y) 0x2900 5)] }
          rw [hx]
        · rfl) _ _
    rw [he, hbell, bit_faultMark h]

end

/-! ### The state that a port's entry shows -/

theorem odSize_portState {c : Params} {p : Nat} (hp : p < 16) : odSize c (ek (ptIdx p) 1) = if p < c.ports then 1 else 8 := by
  have hidx : ek (ptIdx p) 1 / 256 = ptIdx p := by unfold ek; omega
  have hsub : ek (ptIdx p) 1 % 256 = 1 := by unfold ek; omega
  have hbase : odBase c (ptIdx p) = if p < c.ports then some (0x5000, p) else none := by
    have hdiv : (ptIdx p - 0x5000) / 0x10 = p := by unfold ptIdx; omega
    have hmod : ptIdx p % 0x10 = 0 := by unfold ptIdx; omega
    have hlo : 0x5000 ≤ ptIdx p := by unfold ptIdx; omega
    have hhi : ptIdx p < 0x5100 := by unfold ptIdx; omega
    unfold odBase
    rw [hdiv, hmod]
    repeat rw [if_neg (by omega)]
    rw [if_pos hhi]
  unfold odSize odRow
  rw [hidx, hsub, hbase]
  by_cases h : p < c.ports
  · rw [if_pos h, if_pos h]
    rfl
  · rw [if_neg h, if_neg h]

/-- A port's state reads as it was written. -/
theorem od_put_portState {p v : Nat} {d : Dev} (hp : p < 16) (hv : v < 256) : od (put (ptIdx p) 1 v d) (ptIdx p) 1 = v := by
  rw [od_put_self, odSize_portState hp]
  split
  · exact Nat.mod_eq_of_lt hv
  · exact Nat.mod_eq_of_lt (by omega)

@[simp] theorem port_put (i j v p : Nat) (d : Dev) : port (put i j v d) p = port d p := rfl

@[simp] theorem port_cnt (i j p : Nat) (d : Dev) : port (cnt i j d) p = port d p := port_cntN ..

theorem port_of_ports {x d : Dev} (h : x.ports = d.ports) (p : Nat) : port x p = port d p := by
  unfold port
  rw [h]

/-! ### Credits (R46, R48, R75) -/

/-- A port's record with one more credit of a class. -/
def Port.credited (k : YppClass) (x : Port) : Port :=
  let y := { x with cr := x.cr.set k (min 2047 (x.cr.get k + 1)), got := x.got.set k (x.got.get k + 1) }
  { y with
    minMet := y.minMet || allClasses.all (fun c => decide (minCred c ≤ y.got.get c)),
    rspMet := y.rspMet || decide (2 ≤ y.got.rsp) }

/-- The block with a credit taken, before what waits goes on: the last of the minimums ends UNDERCREDIT. -/
def credited (p : Nat) (k : YppClass) (d : Dev) : Dev :=
  let d1 := updPort p (Port.credited k) d
  if (port d1 p).minMet ∧ (port d1 p).under then put (ptIdx p) 1 1 (updPort p (fun x => { x with under := false }) d1) else d1

theorem creditReturn_of_up {p : Nat} {k : YppClass} {d : Dev} (h : (port d p).linkUp = true) :
    creditReturn p k d = settle (pump p (credited p k d)) := by
  unfold creditReturn
  rw [if_neg (not_not.mpr h)]
  rfl

theorem creditReturn_of_down {p : Nat} {k : YppClass} {d : Dev} (h : (port d p).linkUp = false) : creditReturn p k d = d :=
  if_pos (by simp [h])

/-- What the credit itself changes: the port's record, and its state where UNDERCREDIT ends. -/
theorem credited_spec {p : Nat} {k : YppClass} {d : Dev} (hp : p < 16) :
    (∃ u, port (credited p k d) p = { (port d p).credited k with under := u } ∧
      (((port d p).credited k).minMet = true → (port d p).under = true → u = false ∧ od (credited p k d) (ptIdx p) 1 = 1)) ∧
    (∀ q, q ≠ p → port (credited p k d) q = port d q) ∧
    SameBut d (credited p k d) (fun x => { x with ports := (credited p k d).ports }) [ek (ptIdx p) 1] := by
  unfold credited
  dsimp only
  rw [port_updPort_self]
  split
  · refine ⟨⟨false, ?_, fun _ _ => ⟨rfl, od_put_portState hp (by decide)⟩⟩, fun q hq => ?_,
      fun k hk => getK_put_ne _ _ (by simpa using hk), rfl⟩
    · rw [port_put, port_updPort_self, port_updPort_self]
    · rw [port_put, port_updPort_ne _ _ hq, port_updPort_ne _ _ hq]
  · next h =>
    exact ⟨⟨_, by rw [port_updPort_self], fun hm hu => absurd ⟨hm, hu⟩ h⟩, fun q hq => port_updPort_ne _ _ hq, keeps_refl _ _, rfl⟩

/-! ### The link (R72 to R74) -/

/-- A port's record as its link falls: only its requests that have not left stay (R73, R74). -/
def Port.fallen (st : Nat) (x : Port) : Port :=
  { Port.reset with framing := decide (st = 3), hdrQ := x.hdrQ.filter (·.isReq), nextTxid := x.nextTxid }

/-- The block with a port's link down, before its requests fail. -/
def linkFallen (p st : Nat) (d : Dev) : Dev := put (ptIdx p) 1 st (updPort p (Port.fallen st) d)

theorem linkDown_eq (p st : Nat) (d : Dev) :
    linkDown p st d = (port d p).outst.foldl (fun y o => deliver p o 2 [] y) (linkFallen p st d) := rfl

theorem port_linkFallen (p st : Nat) (d : Dev) : port (linkFallen p st d) p = (port d p).fallen st := by
  rw [linkFallen, port_put, port_updPort_self]

/-- The block with a port's link up, before what waits goes on. -/
def linkRisen (p : Nat) (d : Dev) : Dev :=
  put (ptIdx p) 1 1 (updPort p (fun x => { x with linkUp := true, framing := false, iCr := ⟨8, 16, 32, 8⟩ }) d)

theorem linkUp_of_vdd {p : Nat} {d : Dev} (h : d.tele.vdd = true) : linkUp p d = settle (pump p (linkRisen p d)) :=
  if_neg (not_not.mpr h)

theorem linkUp_of_no_vdd {p : Nat} {d : Dev} (h : d.tele.vdd = false) : linkUp p d = d := if_pos (by simp [h])

/-! ### UNDERCREDIT (R75) -/

theorem undercredit_of_met {p : Nat} {d : Dev} (h : (port d p).linkUp = false ∨ (port d p).minMet = true ∨ (port d p).under = true) :
    undercredit p d = d := by
  unfold undercredit
  rw [if_pos (by simpa using h)]

theorem undercredit_spec {p : Nat} {d : Dev} (hp : p < 16) (hl : (port d p).linkUp = true) (hm : (port d p).minMet = false)
    (hu : (port d p).under = false) :
    od (undercredit p d) (ptIdx p) 1 = 2 ∧ (port (undercredit p d) p).under = true ∧
    Counted d (undercredit p d) (ptIdx p) 0x0F 1 ∧ bit (od (undercredit p d) 0x2900 3) 0 = true := by
  unfold undercredit
  rw [if_neg (by simp [hl, hm, hu])]
  extract_lets miss
  generalize hy : put (ptIdx p) 1 2 (updPort p (fun y => { y with under := true }) d) = y
  obtain ⟨hcnt, hkc, hec⟩ := cnt_spec (ptIdx p) 0x0F y
  obtain ⟨hkf, hef⟩ := faultFrame_fault (cls := 0) 1 (domPort d.cfg p) p miss (cnt (ptIdx p) 0x0F y)
  have hlow : ∀ j, j < 256 → ek (ptIdx p) j ∉ faultKeys 0 := by
    intro j hj
    simp only [faultKeys, ek, ptIdx, List.mem_cons, List.not_mem_nil, or_false]
    omega
  have hstate : od y (ptIdx p) 1 = 2 := by
    rw [← hy]
    exact od_put_portState hp (by decide)
  have hold : od y (ptIdx p) 0x0F = od d (ptIdx p) 0x0F := by
    rw [← hy]
    exact od_put_ne _ _ (by unfold ek; omega)
  have hcfg : y.cfg = d.cfg := by rw [← hy]; rfl
  refine ⟨?_, ?_, ?_, bit_fault _ _ _ _ _ (by decide)⟩
  · refine (hkf _ (hlow 1 (by decide))).trans ((hkc _ ?_).trans hstate)
    simp [ek]
  · have hports : port (fault 0 1 (domPort d.cfg p) p miss (cnt (ptIdx p) 0x0F y)) p = port (cnt (ptIdx p) 0x0F y) p :=
      port_of_ports (by rw [hef]) p
    rw [hports, port_cnt, ← hy, port_put, port_updPort_self]
  · refine counted_of_od_eq hcfg hold ?_
    unfold Counted
    exact (hkf _ (hlow 0x0F (by decide))).trans hcnt

/-! ### The statement -/

/-- Settles O39: each row by the port's link and its minimums. -/
theorem linkAndCredits : Obligations.LinkAndCredits := by
  intro s p hp
  refine ⟨fun k hl => ?credit, fun k hl => ?creditDown, fun hl => ?violation, fun hl => ?violationDown, fun hf hv => ?restore,
    fun h => ?noRestore, fun hl hm hu => ?missing, fun h => ?met⟩
  case credit =>
    obtain ⟨⟨u, hport, hends⟩, hne, hsame⟩ := credited_spec (k := k) (d := s.dev) hp
    refine (completes_run (f := creditReturn p k) rfl).mpr ⟨credited p k s.dev, creditReturn_of_up hl, by rw [hport]; rfl,
      by rw [hport]; rfl, fun hm hu => ?_, hne, hsame⟩
    rw [hport] at hm ⊢
    obtain ⟨hu', hstate⟩ := hends hm hu
    exact ⟨hstate, hu'⟩
  case creditDown => exact (completes_run (f := creditReturn p k) rfl).mpr (creditReturn_of_down hl)
  case violation =>
    refine (completes_run (f := fun d => if (port d p).linkUp then framing p d else d) rfl).mpr ?_
    rw [if_pos hl]
    refine ⟨linkFallen p 3 (cnt (ptIdx p) 9 s.dev), ?_, ?_, ?_, ?_, ?_, ?_, od_put_portState hp (by decide), ?_⟩
    · rw [framing, linkDown_eq, port_cnt]
    · rw [port_linkFallen]
      rfl
    · rw [port_linkFallen]
      rfl
    · rw [port_linkFallen]
      rfl
    · rw [port_linkFallen]
      exact fun m hm => (List.mem_filter.mp hm).2
    · rw [port_linkFallen]
      rfl
    · have h9 : od (linkFallen p 3 (cnt (ptIdx p) 9 s.dev)) (ptIdx p) 9 = od (cnt (ptIdx p) 9 s.dev) (ptIdx p) 9 :=
        od_put_ne _ _ (by unfold ek; omega)
      unfold Counted
      rw [h9]
      exact (cnt_spec (ptIdx p) 9 s.dev).1
  case violationDown =>
    refine (completes_run (f := fun d => if (port d p).linkUp then framing p d else d) rfl).mpr ?_
    rw [if_neg (by simp [hl])]
  case restore =>
    refine (completes_run (f := fun d => if (port d p).framing then linkUp p d else d) rfl).mpr ?_
    rw [if_pos hf]
    exact ⟨linkRisen p s.dev, linkUp_of_vdd hv, od_put_portState hp (by decide), by rw [linkRisen, port_put, port_updPort_self],
      fun k hk => getK_put_ne _ _ (by simpa using hk), rfl⟩
  case noRestore =>
    refine (completes_run (f := fun d => if (port d p).framing then linkUp p d else d) rfl).mpr ?_
    split
    · next hf => exact linkUp_of_no_vdd (h.resolve_left (by simp [hf]))
    · rfl
  case missing =>
    obtain ⟨hstate, hunder, hcnt, hbit⟩ := undercredit_spec hp hl hm hu
    exact (completes_run (f := undercredit p) rfl).mpr ⟨hstate, hunder, hcnt, hbit, (keep_undercredit (Keep.refl s.dev)).control⟩
  case met => exact (completes_run (f := undercredit p) rfl).mpr (undercredit_of_met h)

end Sys2Proof.Machine
end

section
/-! SUPPORT. Requests that the target side turns away, READs of its window, and the ends of a port's own requests (02_ports.md R46,
R62 to R72, R131). -/

namespace Sys2Proof.Machine

/-! ### Answers that are counted -/

/-- A response of the target side is the last header sent, or waits, and only what a port sends with it changes. -/
theorem post_answer_spec {p : Nat} {m : OutMsg} {d : Dev} (hm : m.isReq = false) (hown : m.own = .answer) :
    ((port (post p m d) p).last = some m ∨ m ∈ (port (post p m d) p).hdrQ) ∧ AnswerFrame d (post p m d) p [] := by
  obtain ⟨hne, hk, he⟩ := post_spec p m d
  have hreq : sendReq p m d = d := by
    unfold sendReq ownUnit
    rw [hown]
  rw [hreq] at he
  refine ⟨?_, hk, hne, he⟩
  have hport : port (post p m d) p = (Port.pump { port d p with hdrQ := (port d p).hdrQ ++ [m] }).1 := by
    unfold post
    rw [(pump_spec _ _).1, port_updPort_self, hreq]
  rw [hport]
  exact pump_last_or_waits hm _

section
variable {d x : Dev} {p : Nat} {keys : List Nat}

/-- An event counted after an answer stays in its frame, with its counter. -/
theorem AnswerFrame.cntN {i j : Nat} (n : Nat) (h : AnswerFrame d x p keys) : AnswerFrame d (cntN i j n x) p (ek i j :: keys) := by
  obtain ⟨hk, hne, he⟩ := h
  obtain ⟨-, hkc, hec⟩ := cntN_spec i j n x
  refine ⟨fun k hk' => ?_, fun q hq => (port_cntN ..).trans (hne q hq), by rw [hec, he]⟩
  simp only [List.mem_cons, not_or] at hk'
  obtain ⟨hB, hC, hij, hkeys⟩ := hk'
  exact (hkc k (by simpa using hij)).trans (hk k (by simp [hB, hC, hkeys]))

theorem AnswerFrame.cnt {i j : Nat} (h : AnswerFrame d x p keys) : AnswerFrame d (cnt i j x) p (ek i j :: keys) := h.cntN 1

/-- What an answer leaves of a port's counters. -/
theorem od_of_answerFrame (h : AnswerFrame d x p keys) {j : Nat} (hB : j ≠ 0x0B) (hC : j ≠ 0x0C) (hj : ek (ptIdx p) j ∉ keys) :
    od x (ptIdx p) j = od d (ptIdx p) j := by
  refine h.1 _ ?_
  simp only [List.mem_cons, not_or, ek, ptIdx] at hj ⊢
  exact ⟨by omega, by omega, hj⟩

theorem cfg_of_answerFrame (h : AnswerFrame d x p keys) : x.cfg = d.cfg := by rw [h.2.2]

theorem Answers.cntN {op st txid i j n : Nat} (h : Answers x p op st txid) : Answers (cntN i j n x) p op st txid := by
  unfold Answers at *
  rwa [port_cntN]

theorem Answers.cnt {op st txid i j : Nat} (h : Answers x p op st txid) : Answers (cnt i j x) p op st txid := h.cntN

theorem sends_cnt {P : OutMsg → Prop} {i j : Nat} (h : sends x p P) : sends (cnt i j x) p P := by
  unfold sends at *
  rwa [port_cnt]

/-- The counter of requests that a port did not take, after an answer. -/
theorem counted_after_answer {j : Nat} (h : AnswerFrame d x p keys) (hB : j ≠ 0x0B) (hC : j ≠ 0x0C)
    (hj : ek (ptIdx p) j ∉ keys) (n : Nat) : Counted d (cntN (ptIdx p) j n x) (ptIdx p) j n :=
  counted_of_od_eq (cfg_of_answerFrame h) (od_of_answerFrame h hB hC hj) (cntN_spec _ _ _ _).1

end

/-! ### WRITEs and reserved opcodes (R46, R64, R69) -/

theorem exec_writeRefused {p : Nat} {h : ReqHdr} (s : State) (hc : h.cls = .req) (ho : h.op = 2) :
    exec (.inboundWriteRefused p h) s = inbound p .req (.inboundWriteRefused p h) never (run (writeRefused p h)) s :=
  if_pos ⟨hc, ho⟩

/-- A WRITE is answered UNSUPPORTED, counted with its bytes, and its flits' credits go back. -/
theorem writeRefused_spec (p : Nat) (h : ReqHdr) (d0 : Dev) :
    let d := creditPulse p .dat (datFlits h.addr h.len) d0
    Answers (writeRefused p h d0) p 9 3 h.txid ∧ Counted d (writeRefused p h d0) (ptIdx p) 0x0A 1 ∧
    Counted d (writeRefused p h d0) (ptIdx p) 0x0D h.len ∧
    AnswerFrame d (writeRefused p h d0) p [ek (ptIdx p) 0x0A, ek (ptIdx p) 0x0D] := by
  intro d
  obtain ⟨hans, hframe⟩ := answer_spec (p := p) (op := 9) (status := 3) (txid := h.txid) (d := d) (by decide)
  unfold writeRefused
  generalize answer p 9 3 h.txid d = x at hans hframe
  have hbytes : AnswerFrame d (cntN (ptIdx p) 0x0D h.len x) p [ek (ptIdx p) 0x0D] := hframe.cntN h.len
  refine ⟨hans.cntN.cnt, counted_after_answer hbytes (by decide) (by decide) (by simp [ek]) 1, ?_, hbytes.cnt⟩
  have hlast : od (cnt (ptIdx p) 0x0A (cntN (ptIdx p) 0x0D h.len x)) (ptIdx p) 0x0D = od (cntN (ptIdx p) 0x0D h.len x) (ptIdx p) 0x0D :=
    od_cntN_ne 1 _ (by simp [ek])
  unfold Counted
  rw [hlast]
  exact counted_after_answer hframe (by decide) (by decide) (by simp) h.len

theorem exec_badHeader {p op txid : Nat} {k : YppClass} (s : State) (ho : opOk k op = false) (hk : k = .req ∨ k = .msg) :
    exec (.inboundBadHeader p k op txid) s =
      inbound p k (.inboundBadHeader p k op txid) never (run (badHeader p k op txid)) s := by
  have hexec : exec (.inboundBadHeader p k op txid) s = execInboundBadHeader p k op txid s := rfl
  rw [hexec, execInboundBadHeader, if_neg (by simp [ho]), if_neg (by rintro rfl; simp at hk), if_neg (by rintro rfl; simp at hk)]

/-- A request with a reserved opcode is answered UNSUPPORTED and counted. -/
theorem badHeader_spec {p op txid : Nat} {k : YppClass} (d : Dev) (hk : k = .req ∨ k = .msg) :
    Answers (badHeader p k op txid d) p (rspOp k op) 3 txid ∧ Counted d (badHeader p k op txid d) (ptIdx p) 0x0A 1 ∧
    AnswerFrame d (badHeader p k op txid d) p [ek (ptIdx p) 0x0A] := by
  have hop : rspOp k op ≠ 1 ∧ rspOp k op ≠ 2 ∧ rspOp k op ≠ 4 := by
    obtain rfl | rfl := hk
    · unfold rspOp
      dsimp only
      split <;> decide
    · exact (by decide : (0xA : Nat) ≠ 1 ∧ (0xA : Nat) ≠ 2 ∧ (0xA : Nat) ≠ 4)
  have heq : badHeader p k op txid d = cnt (ptIdx p) 0x0A (answer p (rspOp k op) 3 txid d) := by
    obtain rfl | rfl := hk <;> rfl
  obtain ⟨hans, hframe⟩ := answer_spec (p := p) (status := 3) (txid := txid) (d := d) hop
  rw [heq]
  exact ⟨hans.cnt, counted_after_answer hframe (by decide) (by decide) (by simp) 1, hframe.cnt⟩

/-! ### The window's requests (R62, R66, R67, R131) -/

theorem exec_targetDecodeError {p : Nat} {h : ReqHdr} (s : State) (ho : opOk h.cls h.op = true) (hw : ¬ (h.cls = .req ∧ h.op = 2))
    (hr : h.cls ≠ .rsp) :
    exec (.targetDecodeError p h) s = inbound p h.cls (.targetDecodeError p h) never (run (windowReq p h)) s :=
  if_neg (by simp [ho, hr]; simpa using hw)

/-- The READ_RSP to a READ of the window (R53, R66). -/
def readRsp (h : ReqHdr) (st len : Nat) (bs : Bytes) (bad : List (Nat × Nat)) : OutMsg :=
  { cls := .rsp, op := 8, addr := h.addr, len := len, status := st, txid := h.txid, mdata := 0, data := bs, bad := bad,
    own := .answer }

theorem answerRead_eq (p st : Nat) (h : ReqHdr) (d : Dev) :
    answerRead p h.addr h.len st h.txid d = post p (readRsp h st h.len [] []) d := rfl

theorem answerData_eq (p st : Nat) (h : ReqHdr) (bs : Bytes) (bad : List (Nat × Nat)) (d : Dev) :
    answerData p h.addr st h.txid bs bad d = post p (readRsp h st bs.length bs bad) d := rfl

/-- A request of the window that is turned away is answered with the window's status, a READ with the copy of its length. -/
theorem windowReq_refused {p st : Nat} {h : ReqHdr} {d : Dev} (hs : windowStatus d h = some st) (ho : opOk h.cls h.op = true)
    (hw : ¬ (h.cls = .req ∧ h.op = 2)) (hr : h.cls ≠ .rsp) :
    (h.cls = .msg → Answers (windowReq p h d) p 0xA st h.txid) ∧
    (h.cls = .req → sends (windowReq p h d) p (fun m => m.cls = .rsp ∧ m.op = 8 ∧ m.status = st ∧ m.txid = h.txid ∧ m.len = h.len ∧
      m.data = [])) ∧
    Counted d (windowReq p h d) (ptIdx p) 0x0A 1 ∧ AnswerFrame d (windowReq p h d) p [ek (ptIdx p) 0x0A] := by
  unfold windowReq
  rw [hs]
  dsimp only
  split
  · next hreq =>
    obtain ⟨hsent, hframe⟩ := post_answer_spec (p := p) (d := d) (m := readRsp h st h.len [] []) rfl rfl
    rw [answerRead_eq]
    exact ⟨fun hm => by simp [hm] at hreq, fun _ => sends_cnt ⟨_, ⟨rfl, rfl, rfl, rfl, rfl, rfl⟩, hsent⟩,
      counted_after_answer hframe (by decide) (by decide) (by simp) 1, hframe.cnt⟩
  · next hreq =>
    have hmsg : h.cls = .msg := by
      cases hc : h.cls with
      | msg => rfl
      | rsp => exact absurd hc hr
      | dat => simp [hc, opOk] at ho
      | req =>
        simp only [hc, opOk, Bool.or_eq_true, beq_iff_eq, true_and] at ho hw hreq
        omega
    have hop : rspOp h.cls h.op = 0xA := by rw [hmsg]; rfl
    obtain ⟨hans, hframe⟩ := answer_spec (p := p) (op := 0xA) (status := st) (txid := h.txid) (d := d) (by decide)
    rw [hop]
    exact ⟨fun _ => hans.cnt, fun hc => by simp [hmsg] at hc, counted_after_answer hframe (by decide) (by decide) (by simp) 1, hframe.cnt⟩

/-- A READ that the window takes is answered with its data. -/
theorem windowReq_read {p : Nat} {h : ReqHdr} {r : Bytes × Bool} {d : Dev} (hs : windowStatus d h = none) (hc : h.cls = .req)
    (hr : windowRead d h.mid (h.addr % 2 ^ 24 - 0x10000) h.len = r) :
    sends (windowReq p h d) p (fun m => m.cls = .rsp ∧ m.op = 8 ∧ m.status = (if r.2 then 1 else 0) ∧ m.txid = h.txid ∧
      m.data = r.1 ∧ m.len = r.1.length) ∧ AnswerFrame d (windowReq p h d) p [] := by
  unfold windowReq
  rw [hs]
  dsimp only
  rw [if_pos hc, hr]
  obtain ⟨hsent, hframe⟩ := post_answer_spec (p := p) (d := d)
    (m := readRsp h (b2n r.2) r.1.length r.1 (if r.2 then [(0, h.len)] else [])) rfl rfl
  exact ⟨⟨_, ⟨rfl, rfl, rfl, rfl, rfl, rfl⟩, hsent⟩, hframe⟩

theorem windowReq_written {p : Nat} {h : ReqHdr} {d : Dev} (hs : windowStatus d h = none) (hc : h.cls ≠ .req) :
    windowReq p h d = d := by
  unfold windowReq
  rw [hs]
  exact if_neg hc

/-- Credit pulses change nothing that the window shows. -/
theorem windowRead_creditPulse (p n mid off len : Nat) (k : YppClass) (d : Dev) :
    windowRead (creditPulse p k n d) mid off len = windowRead d mid off len := rfl

theorem requestsNotTaken_holds : requestsNotTaken := by
  intro s p
  refine ⟨fun h hc ho => ⟨heldOrRefused_of_inbound (exec_writeRefused s hc ho), fun _ ht => ?write⟩, fun h hn => ?notWrite,
    fun k op txid ho hk => ⟨heldOrRefused_of_inbound (exec_badHeader s ho hk), fun ht => ?reserved⟩, fun op txid ho hl hc => ?badRsp,
    fun op txid hl => ?dat, fun k op txid ho => ?goodHeader,
    fun h ho hw hr => ⟨heldOrRefused_of_inbound (exec_targetDecodeError s ho hw hr), fun ht => ?window⟩, fun h hn => ?notWindow⟩
  case write => exact (completes_of_taken (exec_writeRefused s hc ho) ht rfl).mpr (writeRefused_spec p h _)
  case notWrite =>
    have hexec : exec (.inboundWriteRefused p h) s = run id s := if_neg hn
    exact (completes_run hexec).mpr rfl
  case reserved => exact (completes_of_taken (exec_badHeader s ho hk) ht rfl).mpr (badHeader_spec _ hk)
  case badRsp =>
    have hexec : exec (.inboundBadHeader p .rsp op txid) s = run (fun d => if ¬ (port d p).linkUp then d
        else if (port d p).iCr.rsp = 0 then framing p d else badHeader p .rsp op txid d) s := by
      show execInboundBadHeader p .rsp op txid s = _
      rw [execInboundBadHeader, if_neg (by simp [ho]), if_neg (by decide), if_pos rfl]
    refine (completes_run hexec).mpr ?_
    rw [if_neg (not_not.mpr hl), if_neg hc]
    exact cnt_spec (ptIdx p) 0x0A (creditPulse p .rsp 1 s.dev)
  case dat =>
    refine (completes_run (f := fun d => if (port d p).linkUp then framing p d else d) rfl).mpr ?_
    rw [if_pos hl]
  case goodHeader =>
    have hexec : exec (.inboundBadHeader p k op txid) s = run id s := if_pos ho
    exact (completes_run hexec).mpr rfl
  case window =>
    have hexec := exec_targetDecodeError (p := p) s ho hw hr
    refine ⟨fun st hs => ?_, fun hs hc => ?_, fun hs hc => ?_⟩
    · exact (completes_of_taken hexec ht rfl).mpr (windowReq_refused hs ho hw hr)
    · exact (completes_of_taken hexec ht rfl).mpr (windowReq_read hs hc (windowRead_creditPulse ..))
    · exact (completes_of_taken hexec ht rfl).mpr (windowReq_written hs (by simp [hc]))
  case notWindow =>
    have hexec : exec (.targetDecodeError p h) s = run id s := if_pos (by simpa using hn)
    exact (completes_run hexec).mpr rfl

/-! ### Responses (R46, R68 to R72) -/

theorem port_creditPulse (p n : Nat) (k : YppClass) (d : Dev) :
    port (creditPulse p k n d) p = { port d p with iPulse := (port d p).iPulse.set k ((port d p).iPulse.get k + n) } :=
  port_updPort_self ..

/-- A txid taken off the list waits for no response. -/
theorem owns_drop (x : Port) (txid : Nat) : (x.drop txid).owns txid = none := by
  simp [Port.owns, Port.drop]

/-- What a response does whose flits agree with R54, its credits given back. -/
def responded (p : Nat) (r : RspHdr) (d : Dev) : Dev :=
  if ¬ opOk .rsp r.op then cnt (ptIdx p) 0x0A d
  else match (port d p).owns r.txid with
    | none => strayRsp p r.txid d
    | some o =>
      let ok := r.status == 0 && !r.poison
      let d1 := updPort p (fun x => x.drop r.txid) d
      match o.own with
      | .bell t dseq slot => bellResponse t dseq slot (if ok then 0 else 1) d1
      | _ =>
        let d2 := if r.op = 8 ∧ 8 < o.len ∧ r.status ≤ 1 then cntN (ptIdx p) 0x0D o.len d1 else d1
        if ok then deliver p o 0 r.data d2 else deliver p o 2 [] (cnt (ptIdx p) 0x0B d2)

section
variable {p : Nat} {r : RspHdr} {d : Dev}

theorem inboundResponse_of_down (h : (port d p).linkUp = false) : inboundResponse p r d = d := if_pos (by simp [h])

theorem inboundResponse_of_unframed (hl : (port d p).linkUp = true) (h : ¬ framed p r d) : inboundResponse p r d = framing p d := by
  unfold inboundResponse
  rw [if_neg (not_not.mpr hl), if_pos]
  by_contra hn
  simp only [not_or, not_and, not_not] at hn
  obtain ⟨hrsp, hdat, hflits⟩ := hn
  exact h ⟨hrsp, by rw [or_iff_not_imp_left]; exact fun hf => hdat (Nat.pos_of_ne_zero hf), hflits⟩

theorem inboundResponse_of_framed (hl : (port d p).linkUp = true) (h : framed p r d) :
    inboundResponse p r d = responded p r (creditPulse p .dat r.flits (creditPulse p .rsp 1 d)) := by
  obtain ⟨hrsp, hdat, hflits⟩ := h
  unfold inboundResponse
  rw [if_neg (not_not.mpr hl), if_neg]
  · rfl
  · simp only [not_or, not_and, not_not]
    exact ⟨hrsp, fun hf => hdat.resolve_left (by omega), hflits⟩

theorem responded_of_reserved (h : opOk .rsp r.op = false) : responded p r d = cnt (ptIdx p) 0x0A d := if_pos (by simp [h])

/-- A response that no request waits for is counted, and its txid is no longer quarantined (R70, R71). -/
theorem responded_of_stray (ho : opOk .rsp r.op = true) (h : (port d p).owns r.txid = none) :
    Counted d (responded p r d) (ptIdx p) 8 1 ∧ r.txid ∉ (port (responded p r d) p).quar ∧
    SameBut d (responded p r d) (fun x => { x with ports := (responded p r d).ports }) [ek (ptIdx p) 8] := by
  have heq : responded p r d = strayRsp p r.txid d := by
    unfold responded
    rw [if_neg (not_not.mpr ho), h]
  rw [heq]
  unfold strayRsp
  obtain ⟨hcnt, hk, he⟩ := cnt_spec (0x5000 + 0x10 * p) 8 (updPort p (fun x => { x with quar := x.quar.filter (· ≠ r.txid) }) d)
  refine ⟨hcnt, ?_, hk, ?_⟩
  · rw [port_cnt, port_updPort_self]
    simp
  · rw [he]
    rfl

/-- The block as a response finds its unit: the request is off the list, and the bytes of a READ are counted (R79). -/
def answered (p : Nat) (r : RspHdr) (o : Outst) (d : Dev) : Dev :=
  let d1 := updPort p (fun x => x.drop r.txid) d
  if r.op = 8 ∧ 8 < o.len ∧ r.status ≤ 1 then cntN (ptIdx p) 0x0D o.len d1 else d1

theorem answered_spec (o : Outst) :
    (port (answered p r o d) p).owns r.txid = none ∧
    SameBut d (answered p r o d) (fun x => { x with ports := (answered p r o d).ports }) [ek (ptIdx p) 0x0D] := by
  unfold answered
  dsimp only
  split
  · obtain ⟨-, hk, he⟩ := cntN_spec (ptIdx p) 0x0D o.len (updPort p (fun x => x.drop r.txid) d)
    refine ⟨?_, hk, ?_⟩
    · rw [port_cntN, port_updPort_self, owns_drop]
    · rw [he]
      rfl
  · exact ⟨by rw [port_updPort_self, owns_drop], keeps_refl _ _, rfl⟩

variable {o : Outst} (ho : opOk .rsp r.op = true) (h : (port d p).owns r.txid = some o)
include ho h

theorem responded_of_bell {t q k : Nat} (hb : o.own = .bell t q k) :
    responded p r d = bellResponse t q k (if r.status = 0 ∧ r.poison = false then 0 else 1) (updPort p (fun x => x.drop r.txid) d) := by
  unfold responded
  rw [if_neg (not_not.mpr ho), h]
  dsimp only
  rw [hb]
  simp

theorem responded_of_owner (hb : ∀ t q k, o.own ≠ .bell t q k) :
    responded p r d = if r.status = 0 ∧ r.poison = false then deliver p o 0 r.data (answered p r o d)
      else deliver p o 2 [] (cnt (ptIdx p) 0x0B (answered p r o d)) := by
  unfold responded
  rw [if_neg (not_not.mpr ho), h]
  dsimp only
  split
  · next t q k hbell => exact absurd hbell (hb t q k)
  · simp only [Bool.and_eq_true, beq_iff_eq, Bool.not_eq_true']
    rfl

/-- A response ends the request of its txid, whose unit is told how (R68). -/
theorem responded_of_owned : ∃ x, (port x p).owns r.txid = none ∧
    SameBut d x (fun d => { d with ports := x.ports }) [ek (ptIdx p) 0x0B, ek (ptIdx p) 0x0D] ∧
    ((∀ t q k, o.own ≠ .bell t q k) →
      if r.status = 0 ∧ r.poison = false then responded p r d = deliver p o 0 r.data x ∧ od x (ptIdx p) 0x0B = od d (ptIdx p) 0x0B
      else responded p r d = deliver p o 2 [] x ∧ Counted d x (ptIdx p) 0x0B 1) ∧
    (∀ t q k, o.own = .bell t q k →
      responded p r d = bellResponse t q k (if r.status = 0 ∧ r.poison = false then 0 else 1) x) := by
  by_cases hb : ∃ t q k, o.own = .bell t q k
  · obtain ⟨t, q, k, hb⟩ := hb
    refine ⟨updPort p (fun x => x.drop r.txid) d, by rw [port_updPort_self, owns_drop], ⟨keeps_refl _ _, rfl⟩,
      fun hn => absurd hb (hn t q k), fun t' q' k' hb' => responded_of_bell ho h hb'⟩
  · have hne : ∀ t q k, o.own ≠ .bell t q k := fun t q k hq => hb ⟨t, q, k, hq⟩
    obtain ⟨howns, hk, he⟩ := answered_spec (p := p) (r := r) (d := d) o
    have heq := responded_of_owner ho h hne
    have hB : od (answered p r o d) (ptIdx p) 0x0B = od d (ptIdx p) 0x0B := hk _ (by simp [ek])
    by_cases hok : r.status = 0 ∧ r.poison = false
    · rw [if_pos hok] at heq
      refine ⟨answered p r o d, howns, ⟨fun k hk' => hk k ?_, he⟩, fun _ => ?_, fun t q k hb' => absurd hb' (hne t q k)⟩
      · simp only [List.mem_cons, List.not_mem_nil, or_false, not_or] at hk' ⊢
        exact hk'.2
      · rw [if_pos hok]
        exact ⟨heq, hB⟩
    · rw [if_neg hok] at heq
      obtain ⟨hcnt, hkc, hec⟩ := cnt_spec (ptIdx p) 0x0B (answered p r o d)
      refine ⟨cnt (ptIdx p) 0x0B (answered p r o d), by rw [port_cnt, howns], ⟨fun k hk' => ?_, ?_⟩, fun _ => ?_,
        fun t q k hb' => absurd hb' (hne t q k)⟩
      · simp only [List.mem_cons, List.not_mem_nil, or_false, not_or] at hk'
        exact (hkc k (by simpa using hk'.1)).trans (hk k (by simpa using hk'.2))
      · rw [hec, he]
      · rw [if_neg hok]
        exact ⟨heq, counted_of_od_eq (by rw [he]) hB hcnt⟩

end

/-! ### Expiries (R70) -/

theorem initTimeout_of_unowned {p txid : Nat} {d : Dev} (h : (port d p).owns txid = none) : initTimeout p txid d = d := by
  unfold initTimeout
  rw [h]

/-- The block with a request expired, before its unit is told: counted, and its txid quarantined. -/
def expired (p txid : Nat) (d : Dev) : Dev :=
  cnt (ptIdx p) 7 (updPort p (fun x => let y := x.drop txid; { y with quar := y.quar ++ [txid] }) d)

theorem initTimeout_of_owned {p txid : Nat} {o : Outst} {d : Dev} (h : (port d p).owns txid = some o) :
    initTimeout p txid d = deliver p o 3 [] (expired p txid d) := by
  unfold initTimeout
  rw [h]
  rfl

theorem expired_spec (p txid : Nat) (d : Dev) :
    (port (expired p txid d) p).owns txid = none ∧ txid ∈ (port (expired p txid d) p).quar ∧
    Counted d (expired p txid d) (ptIdx p) 7 1 ∧
    SameBut d (expired p txid d) (fun x => { x with ports := (expired p txid d).ports }) [ek (ptIdx p) 7] := by
  unfold expired
  obtain ⟨hcnt, hk, he⟩ := cnt_spec (ptIdx p) 7 (updPort p (fun x => let y := x.drop txid; { y with quar := y.quar ++ [txid] }) d)
  refine ⟨?_, ?_, hcnt, hk, ?_⟩
  · rw [port_cnt, port_updPort_self]
    exact owns_drop (port d p) txid
  · rw [port_cnt, port_updPort_self]
    simp
  · rw [he]
    rfl

theorem requestsEnd_holds : requestsEnd := by
  intro s p
  have hrun : ∀ r, exec (.inboundResponse p r) s = run (inboundResponse p r) s := fun _ => rfl
  have htime : ∀ txid, exec (.initTimeout p txid) s = run (fun d => kickAll (initTimeout p txid d)) s := fun _ => rfl
  refine ⟨fun r hl => ?down, fun r hl hf => ?unframed, fun r hl hf => ?framed, fun txid o ho => ?expiry, fun txid ho => ?noRequest⟩
  case down => exact (completes_run (hrun r)).mpr (inboundResponse_of_down hl)
  case unframed => exact (completes_run (hrun r)).mpr (inboundResponse_of_unframed hl hf)
  case framed =>
    intro d
    have howns : (port d p).owns r.txid = (port s.dev p).owns r.txid := by
      show (port (creditPulse p .dat r.flits (creditPulse p .rsp 1 s.dev)) p).owns r.txid = _
      rw [port_creditPulse, port_creditPulse]
      rfl
    have heq : inboundResponse p r s.dev = responded p r d := inboundResponse_of_framed hl hf
    simp only [completes_run (hrun r), heq]
    refine ⟨fun ho => ?_, fun ho hn => responded_of_stray ho (howns.trans hn), fun o ho hs => ?_⟩
    · rw [responded_of_reserved ho]
      exact cnt_spec ..
    · exact responded_of_owned ho (howns.trans hs)
  case expiry =>
    obtain ⟨howns, hquar, hcnt, hsame⟩ := expired_spec p txid s.dev
    exact (completes_run (htime txid)).mpr ⟨expired p txid s.dev, by rw [initTimeout_of_owned ho], howns, hquar, hcnt, hsame⟩
  case noRequest =>
    refine (completes_run (htime txid)).mpr ?_
    rw [initTimeout_of_unowned ho]

/-- Settles O38: a request by how its port takes it, a response by its flits and the request of its txid. -/
theorem requestsTurnedAwayAndEnded : Obligations.RequestsTurnedAwayAndEnded := ⟨requestsNotTaken_holds, requestsEnd_holds⟩

end Sys2Proof.Machine
end

section
/-! SUPPORT. Commands of the transfer protocol through a window and from the I3C link (03_object_dictionary.md R112 to R133): how one is
taken, what ends it, and what it leaves. -/

namespace Sys2Proof.Machine

/-! ### A master's record -/

@[simp] theorem master_updMaster_self (m : Nat) (f : Master → Master) (d : Dev) : master (updMaster m f d) m = f (master d m) := by
  simp [master, updMaster]

theorem master_updMaster_ne {m k : Nat} (f : Master → Master) (d : Dev) (h : k ≠ m) : master (updMaster m f d) k = master d k :=
  tabGet_tabSet_ne _ _ _ _ h

theorem master_of_masters {x d : Dev} (h : x.masters = d.masters) (m : Nat) : master x m = master d m := by
  unfold master
  rw [h]

/-- Of the masters' records, only this one may have changed, and nothing else. -/
def OnlyMaster (m : Nat) (d d' : Dev) : Prop := (∀ k, k ≠ m → master d' k = master d k) ∧ d' = { d with masters := d'.masters }

theorem onlyMaster_updMaster (m : Nat) (f : Master → Master) (d : Dev) : OnlyMaster m d (updMaster m f d) :=
  ⟨fun _ hk => master_updMaster_ne f d hk, rfl⟩

/-- Bytes put in a buffer change the buffer alone. -/
theorem master_putBuf (m off : Nat) (bs : Bytes) (d : Dev) :
    master (putBuf m off bs d) m = { master d m with buf := tabWriteBytes (Config.bufByte m) (master d m).buf off bs } :=
  master_updMaster_self ..

/-! ### A command is taken (R126, R131, R133) -/

/-- The write of ODW_CMD follows writes of the master's registers, which hold its argument and data part (R133). -/
def ownRegs (c : OdCmd) : Bool :=
  match c.via with
  | some v => v.regs
  | none => false

/-- A master's registers as a command that it sent leaves them. -/
def registered (c : OdCmd) (q : OdReq) (x : Master) : Master :=
  { x with
    cmd := cmdWord c q, arg := if q.cmd = 2 ∨ q.cmd = 6 ∨ q.cmd = 9 then q.arg else x.arg,
    bufBad := if ownRegs c then x.bufBad else x.bufBad.filter (fun w => decide (q.data.length ≤ 8 * w)) }

theorem registered_kept (c : OdCmd) (q : OdReq) (x : Master) :
    (registered c q x).xfer = x.xfer ∧ (registered c q x).closed = x.closed := ⟨rfl, rfl⟩

theorem takeCmd_eq (c : OdCmd) (q : OdReq) (d : Dev) :
    takeCmd c q d = if ownRegs c then seen c.m (updMaster c.m (registered c q) d)
      else putBuf c.m 0 q.data (seen c.m (updMaster c.m (registered c q) d)) := rfl

theorem keeps_seen (m : Nat) (d : Dev) : KeepsEntries d (seen m d) [ek 0x1200 2] := keeps_put (i := 0x1200) (j := 2) d (by simp)

@[simp] theorem master_seen (m k : Nat) (d : Dev) : master (seen m d) k = master d k := rfl

/-- What taking a command changes: its master's record and its mark as seen. -/
def TakenFrame (m : Nat) (d d' : Dev) : Prop :=
  (∀ k, k ≠ m → master d' k = master d k) ∧ KeepsEntries d d' [ek 0x1200 2] ∧ d' = { d with od := d'.od, masters := d'.masters }

theorem takenFrame_seen (m : Nat) (f : Master → Master) (d : Dev) : TakenFrame m d (seen m (updMaster m f d)) :=
  ⟨fun k hk => by rw [master_seen, master_updMaster_ne _ _ hk], keeps_seen m (updMaster m f d), rfl⟩

theorem takenFrame_putBuf {m : Nat} {d x : Dev} (off : Nat) (bs : Bytes) (h : TakenFrame m d x) : TakenFrame m d (putBuf m off bs x) := by
  obtain ⟨hne, hk, he⟩ := h
  refine ⟨fun k hk' => ?_, hk, ?_⟩
  · unfold putBuf
    rw [master_updMaster_ne _ _ hk', hne k hk']
  · unfold putBuf updMaster
    rw [he]

theorem takenFrame_takeCmd (c : OdCmd) (q : OdReq) (d : Dev) : TakenFrame c.m d (takeCmd c q d) := by
  rw [takeCmd_eq]
  split
  · exact takenFrame_seen ..
  · exact takenFrame_putBuf _ _ (takenFrame_seen ..)

/-- A command that is taken leaves its master's transfer as it is. -/
theorem xfer_takeCmd (c : OdCmd) (q : OdReq) (d : Dev) :
    (master (takeCmd c q d) c.m).xfer = (master d c.m).xfer ∧ (master (takeCmd c q d) c.m).closed = (master d c.m).closed := by
  have hkept := registered_kept c q (master d c.m)
  rw [takeCmd_eq]
  split
  · rw [master_seen, master_updMaster_self]
    exact hkept
  · rw [master_putBuf, master_seen, master_updMaster_self]
    exact hkept

/-! ### A command ends (R113, R124, R141) -/

/-- The entries that count commands, aborted commands and conflicts. -/
def endCounts (a : Option Abort) (d : Dev) : Dev :=
  match a with
  | none => cnt 0x1100 0x0F d
  | some x => if x = .conflict then cnt 0x1100 0x11 (cnt 0x1100 0x10 (cnt 0x1100 0x0F d)) else cnt 0x1100 0x10 (cnt 0x1100 0x0F d)

theorem countEnd_eq (a : Option Abort) (d : Dev) : countEnd a d = ringUnit .ao (od d 0x1100 0x12) (endCounts a d) := by
  cases a <;> rfl

theorem OnlyEntries.trans {a b c : Dev} {keys : List Nat} (h1 : OnlyEntries a b keys) (h2 : OnlyEntries b c keys) :
    OnlyEntries a c keys := ⟨keeps_trans h1.1 h2.1, by rw [h2.2, h1.2]⟩

theorem OnlyEntries.mono {a b : Dev} {keys more : List Nat} (h : OnlyEntries a b keys) (hk : keys ⊆ more) : OnlyEntries a b more :=
  ⟨fun k hm => h.1 k (fun hin => hm (hk hin)), h.2⟩

theorem counted_of_keeps {d x y : Dev} {i j n : Nat} {keys : List Nat} (h : Counted d x i j n) (hk : KeepsEntries x y keys)
    (hn : ek i j ∉ keys) : Counted d y i j n := by
  have hod : od y i j = od x i j := hk _ hn
  unfold Counted
  rw [hod]
  exact h

/-- Every command that ends is counted; one that no conflict ended changes no count but those of commands and aborts. -/
theorem endCounts_spec (a : Option Abort) (d : Dev) :
    Counted d (endCounts a d) 0x1100 0x0F 1 ∧ OnlyEntries d (endCounts a d) [ek 0x1100 0x0F, ek 0x1100 0x10, ek 0x1100 0x11] ∧
    (a ≠ some .conflict → KeepsEntries d (endCounts a d) [ek 0x1100 0x0F, ek 0x1100 0x10]) := by
  obtain ⟨hF, hkF⟩ := cnt_spec 0x1100 0x0F d
  obtain ⟨-, hk10⟩ := cnt_spec 0x1100 0x10 (cnt 0x1100 0x0F d)
  obtain ⟨-, hk11⟩ := cnt_spec 0x1100 0x11 (cnt 0x1100 0x10 (cnt 0x1100 0x0F d))
  have h10 : OnlyEntries d (cnt 0x1100 0x10 (cnt 0x1100 0x0F d)) [ek 0x1100 0x0F, ek 0x1100 0x10] :=
    (hkF.mono (by simp)).trans (hk10.mono (by simp))
  have hF10 : Counted d (cnt 0x1100 0x10 (cnt 0x1100 0x0F d)) 0x1100 0x0F 1 := counted_of_keeps hF hk10.1 (by decide)
  unfold endCounts
  split
  · exact ⟨hF, hkF.mono (by simp), fun _ => (hkF.mono (by simp)).1⟩
  · split
    · next h =>
      refine ⟨counted_of_keeps hF10 hk11.1 (by decide), (h10.mono (by simp)).trans (hk11.mono (by simp)), fun hn => ?_⟩
      exact absurd (congrArg some h) hn
    · exact ⟨hF10, h10.mono (by simp), fun _ => h10.1⟩

theorem countEnd_spec (a : Option Abort) (d : Dev) :
    Counted d (countEnd a d) 0x1100 0x0F 1 ∧ KeepsEntries d (countEnd a d) [ek 0x1100 0x0F, ek 0x1100 0x10, ek 0x1100 0x11] ∧
    (a ≠ some .conflict → KeepsEntries d (countEnd a d) [ek 0x1100 0x0F, ek 0x1100 0x10]) ∧
    countEnd a d = { d with
      od := (countEnd a d).od, sat := (countEnd a d).sat, dbq := d.dbq ++ doneBell d, net := doneNet d } := by
  obtain ⟨hF, ⟨hk, he⟩, hk'⟩ := endCounts_spec a d
  rw [countEnd_eq, ringUnit_eq]
  refine ⟨hF, hk, hk', ?_⟩
  rw [he]
  rfl

/-- The doorbell of od_done_source depends on its entry alone, and its flit on the network besides. -/
theorem done_congr {x d : Dev} (ho : od x 0x1100 0x12 = od d 0x1100 0x12) (hn : x.net = d.net) :
    doneBell x = doneBell d ∧ doneNet x = doneNet d := by
  have hsend : (send .ao .bell .msg 1 x).net = (send .ao .bell .msg 1 d).net := by
    simp [send, sendFor, hn]
  unfold doneBell doneNet
  rw [ho, hn, hsend]
  exact ⟨rfl, rfl⟩

/-- The status word that a command leaves is that of R113. -/
theorem statWord_eq (c : OdCmd) (q : OdReq) (a : OdAns) : statWord c q a = statusOf c q a.len a.abort.isSome := by
  unfold statWord statusOf fld
  simp only [show (2 : Nat) ^ 13 = 8192 by norm_num, show (2 : Nat) ^ 8 = 256 by norm_num]
  rw [mul_comm (c.tag % 256), mul_comm (a.len % 8192), mul_comm (q.seq % 256), mul_comm (q.cmd % 256)]

/-- The status word of a command that runs on is BUSY, one below that of its end (R113). -/
theorem busyWord_eq (c : OdCmd) (q : OdReq) :
    fld c.tag 56 8 + fld q.seq 32 8 + fld q.cmd 24 8 + 1 = statusOf c q 0 false - 1 := by
  unfold statusOf fld
  simp only [show (2 : Nat) ^ 8 = 256 by norm_num, Nat.zero_mod, Nat.mul_zero, Nat.add_zero, Bool.false_eq_true, if_false]
  omega

/-- The abort code that a command leaves. -/
def OdAns.code (a : OdAns) : Nat :=
  match a.abort with
  | none => 0
  | some y => y.code

/-- A master's registers as the end of a command leaves them. -/
def endedIn (c : OdCmd) (q : OdReq) (a : OdAns) (x : Master) : Master :=
  { x with stat := statWord c q a, job := none, abort := a.code, result := a.result.getD x.result }

theorem endCmd_eq (c : OdCmd) (q : OdReq) (a : OdAns) (d : Dev) :
    endCmd c q a d = countEnd a.abort (match a.data with
      | none => updMaster c.m (endedIn c q a) d
      | some bs => putBuf c.m 0 bs (updMaster c.m (fun x => { x with bufBad := x.bufBad.filter (fun w => decide (bs.length ≤ 8 * w)) })
          (updMaster c.m (endedIn c q a) d))) := rfl

/-- Before it is counted, a command that has ended shows in its master's record alone. -/
theorem endCmd_eq_countEnd (c : OdCmd) (q : OdReq) (a : OdAns) (d : Dev) :
    ∃ y, endCmd c q a d = countEnd a.abort y ∧ OnlyMaster c.m d y ∧ (master y c.m).stat = statusOf c q a.len a.abort.isSome ∧
      (master y c.m).abort = a.code ∧ (master y c.m).job = none ∧ (master y c.m).xfer = (master d c.m).xfer ∧
      (master y c.m).closed = (master d c.m).closed := by
  have hself : master (updMaster c.m (endedIn c q a) d) c.m = endedIn c q a (master d c.m) := master_updMaster_self ..
  have hstat : (endedIn c q a (master d c.m)).stat = statusOf c q a.len a.abort.isSome := statWord_eq c q a
  have hrest : (endedIn c q a (master d c.m)).abort = a.code ∧ (endedIn c q a (master d c.m)).job = none ∧
      (endedIn c q a (master d c.m)).xfer = (master d c.m).xfer ∧ (endedIn c q a (master d c.m)).closed = (master d c.m).closed :=
    ⟨rfl, rfl, rfl, rfl⟩
  rw [endCmd_eq]
  generalize endedIn c q a = f at *
  split
  · refine ⟨_, rfl, onlyMaster_updMaster .., ?_⟩
    rw [hself]
    exact ⟨hstat, hrest⟩
  · refine ⟨_, rfl, ⟨fun k hk => ?_, rfl⟩, ?_⟩
    · unfold putBuf
      rw [master_updMaster_ne _ _ hk, master_updMaster_ne _ _ hk, master_updMaster_ne _ _ hk]
    · rw [master_putBuf, master_updMaster_self, hself]
      exact ⟨hstat, hrest⟩

/-- What a command's end leaves in the masters' records. -/
theorem endCmd_master (c : OdCmd) (q : OdReq) (a : OdAns) (d : Dev) :
    (master (endCmd c q a d) c.m).stat = statusOf c q a.len a.abort.isSome ∧ (master (endCmd c q a d) c.m).abort = a.code ∧
    (master (endCmd c q a d) c.m).job = none ∧ (master (endCmd c q a d) c.m).xfer = (master d c.m).xfer ∧
    (master (endCmd c q a d) c.m).closed = (master d c.m).closed ∧ ∀ k, k ≠ c.m → master (endCmd c q a d) k = master d k := by
  obtain ⟨y, hy, ⟨hne, -⟩, hstat, habort, hjob, hxfer, hclosed⟩ := endCmd_eq_countEnd c q a d
  have hcount : ∀ k, master (endCmd c q a d) k = master y k :=
    fun k => master_of_masters (by rw [hy, (countEnd_spec a.abort y).2.2.2]) k
  simp only [hcount]
  exact ⟨hstat, habort, hjob, hxfer, hclosed, hne⟩

/-- What a command's end leaves of everything else. -/
theorem endCmd_rest (c : OdCmd) (q : OdReq) (a : OdAns) (d : Dev) :
    Counted d (endCmd c q a d) 0x1100 0x0F 1 ∧
    (a.abort ≠ some .conflict → KeepsEntries d (endCmd c q a d) [ek 0x1100 0x0F, ek 0x1100 0x10]) ∧
    endCmd c q a d = { d with
      od := (endCmd c q a d).od, sat := (endCmd c q a d).sat, masters := (endCmd c q a d).masters,
      dbq := d.dbq ++ doneBell d, net := doneNet d } := by
  obtain ⟨y, hy, ⟨-, hrest⟩, -⟩ := endCmd_eq_countEnd c q a d
  obtain ⟨hF, -, hk, he⟩ := countEnd_spec a.abort y
  have hod : y.od = d.od := by rw [hrest]
  have hcfg : y.cfg = d.cfg := by rw [hrest]
  have hget : ∀ k, getK y k = getK d k := fun k => by unfold getK; rw [hod, hcfg]
  obtain ⟨hbell, hnet⟩ := done_congr (x := y) (d := d) (hget _) (by rw [hrest])
  rw [hy]
  refine ⟨counted_of_od_eq hcfg (hget _) hF, fun ha k hk' => (hk ha k hk').trans (hget k), ?_⟩
  rw [he, hbell, hnet, hrest]

/-! ### Transfers that close (R119 to R121, R123) -/

/-- What every step of a fold keeps, the fold keeps. -/
theorem foldl_keeps {α β : Type} (part : Dev → β) {f : Dev → α → Dev} (hf : ∀ x a, part (f x a) = part x) (l : List α) (d : Dev) :
    part (l.foldl f d) = part d := by
  induction l generalizing d with
  | nil => rfl
  | cons a l ih => exact (ih (f d a)).trans (hf d a)

theorem ports_fltRelease (d : Dev) : (fltRelease d).ports = d.ports := by
  refine foldl_keeps (·.ports) (fun x r => ?_) _ { d with flt := { d.flt with held := [] } }
  rw [(faultFrame_fltBell (fltWrite r x)).2, (faultFrame_fltWrite (cls := r.cls) r x).2]

theorem ports_memBell (kind : Nat) (d : Dev) : (memBell kind d).ports = d.ports := by
  unfold memBell
  split
  · obtain ⟨y, hy⟩ := send_spec .ao .bell .msg 1 { d with dbq := d.dbq ++ [.memlog (od d 0x2910 3)] }
    rw [hy]
  · rfl

theorem ports_memWrite (r : MemRec) (d : Dev) : (memWrite r d).ports = d.ports := by
  unfold memWrite
  rw [ports_memBell, (cnt_spec 0x2910 2 _).2.2]

theorem ports_applyHeld (key : Nat) (d : Dev) : (applyHeld key d).ports = d.ports := by
  unfold applyHeld
  split
  · rfl
  · split
    · exact ports_fltRelease d
    · split
      · exact foldl_keeps (·.ports) (fun x r => ports_memWrite r x) _ _
      · split
        · rfl
        · split
          · split <;> rfl
          · rfl

theorem closeXfer_of_none {m : Nat} {why : Option Abort} {d : Dev} (h : (master d m).xfer = none) : closeXfer m why d = d := by
  unfold closeXfer
  rw [h]

theorem closeXfer_of_open {m : Nat} {why : Option Abort} {x : Xfer} {d : Dev} (h : (master d m).xfer = some x) :
    closeXfer m why d = applyHeld x.key (updMaster m (fun c => { c with xfer := none, closed := why }) d) := by
  unfold closeXfer
  rw [h]

/-- An open transfer closes: its master's record says so, and the other masters stay. -/
theorem closeXfer_master {m : Nat} {x : Xfer} {d : Dev} (why : Option Abort) (h : (master d m).xfer = some x) :
    master (closeXfer m why d) m = { master d m with xfer := none, closed := why } ∧
    ∀ k, k ≠ m → master (closeXfer m why d) k = master d k := by
  rw [closeXfer_of_open h]
  obtain ⟨-, -, -, -, hmasters, -⟩ := (keep_applyHeld (key := x.key)
    (Keep.refl (updMaster m (fun c => { c with xfer := none, closed := why }) d))).control
  simp only [master_of_masters hmasters]
  exact ⟨master_updMaster_self .., fun k hk => master_updMaster_ne _ _ hk⟩

/-- No transfer of the master is open after it. -/
theorem xfer_closeXfer (m : Nat) (why : Option Abort) (d : Dev) : (master (closeXfer m why d) m).xfer = none := by
  cases h : (master d m).xfer with
  | none => rw [closeXfer_of_none h, h]
  | some x => rw [(closeXfer_master why h).1]

/-- What commands that only read change neither of the ports nor of the entries that the host sets. -/
def ReadQuiet (d d' : Dev) : Prop := d'.cfg = d.cfg ∧ d'.ports = d.ports ∧ ∀ k, setKey k → getK d' k = getK d k

theorem readQuiet_updMaster (m : Nat) (f : Master → Master) (d : Dev) : ReadQuiet d (updMaster m f d) := ⟨rfl, rfl, fun _ _ => rfl⟩

theorem readQuiet_closeXfer (m : Nat) (why : Option Abort) (d : Dev) : ReadQuiet d (closeXfer m why d) := by
  cases h : (master d m).xfer with
  | none =>
    rw [closeXfer_of_none h]
    exact ⟨rfl, rfl, fun _ _ => rfl⟩
  | some x =>
    rw [closeXfer_of_open h]
    obtain ⟨hcfg, -, -, -, -, -, -, -, -, hkeys⟩ := (keep_applyHeld (key := x.key)
      (Keep.refl (updMaster m (fun c => { c with xfer := none, closed := why }) d))).control
    exact ⟨hcfg, ports_applyHeld .., hkeys⟩

theorem readQuiet_blkReadNext (m idx sub seq : Nat) (d : Dev) : ReadQuiet d (blkReadNext m idx sub seq d).2 := by
  unfold blkReadNext
  split
  · exact readQuiet_updMaster ..
  · split
    · exact readQuiet_closeXfer ..
    · exact readQuiet_updMaster ..

/-- After an idle close the next BLK_READ_NEXT is told TIMEOUT (R121). -/
theorem blkReadNext_of_timeout {m idx sub seq : Nat} {d : Dev} (hx : (master d m).xfer = none)
    (hc : (master d m).closed = some .timeout) :
    blkReadNext m idx sub seq d = (OdAns.bad .timeout, updMaster m (fun x => { x with closed := none }) d) := by
  unfold blkReadNext matching noXfer
  simp [hx, hc]

/-! ### A command runs (R114, R124, R128) -/

/-- A code that R114 does not define. -/
theorem odCommand_of_unknown {c : OdCmd} {q : OdReq} {d : Dev} (h : q.cmd = 0 ∨ 11 < q.cmd) :
    odCommand c q d = (OdAns.bad .unknownCmd, d) := by
  unfold odCommand
  split <;> first | rfl | omega

@[simp] theorem enabled_takeCmd (c : OdCmd) (q : OdReq) (d : Dev) (m : Nat) : enabled (takeCmd c q d) m = enabled d m := by
  obtain ⟨-, hk, -⟩ := takenFrame_takeCmd c q d
  have hod : od (takeCmd c q d) 0x1200 1 = od d 0x1200 1 := hk _ (by decide)
  unfold enabled
  rw [hod]

/-- A command without a host-made error ends with what its code does, or DISABLED (R128). -/
theorem odRun_eq {c : OdCmd} {q : OdReq} {d : Dev} (h : odError c q d = none) :
    odRun c q d = endCmd c q (if enabled d c.m then odCommand c q (takeCmd c q d) else (OdAns.bad .disabled, takeCmd c q d)).1
      (if enabled d c.m then odCommand c q (takeCmd c q d) else (OdAns.bad .disabled, takeCmd c q d)).2 := by
  unfold odRun
  rw [h]
  show (odFinish c q (takeCmd c q d)).2 = _
  unfold odFinish
  rw [enabled_takeCmd]

theorem odRun_of_enabled {c : OdCmd} {q : OdReq} {d : Dev} (h : odError c q d = none) (he : enabled d c.m = true) :
    odRun c q d = endCmd c q (odCommand c q (takeCmd c q d)).1 (odCommand c q (takeCmd c q d)).2 := by
  rw [odRun_eq h]
  simp only [he, if_true]

/-- A command that writes nothing is a host-made error only for who sends it (R141). -/
theorem odError_of_reading {c : OdCmd} {q : OdReq} {n : Nat} {d : Dev} (h : odError c (plainReq 1 n) d = none)
    (hq : q.cmd ≠ 2 ∧ q.cmd ≠ 4 ∧ q.cmd ≠ 6 ∧ q.cmd ≠ 9) : odError c q d = none := by
  unfold odError at h ⊢
  split
  · next h141 => simp [h141] at h
  · split <;> first | omega | rfl

/-! ### Its transport (R46, R60, R132, R133) -/

section
variable {i : Instr} {c : OdCmd} {q : OdReq} {s : State} {P : Dev → Prop}

theorem odExec_of_link (hv : c.via = none) : odExec i c q s = run (odRun c q) s := by
  unfold odExec
  rw [hv]

theorem odExec_of_window {v : Via} (hv : c.via = some v) : odExec i c q s = inbound v.p .msg i never (run (windowCmd v c q)) s := by
  unfold odExec
  rw [hv]

theorem withRegs_of_sent {v : Via} {d : Dev} (hv : c.via = some v) (hr : v.regs = false) : withRegs c q d = q := by
  unfold withRegs
  simp [hv, hr]

/-- R132: a command is REFUSED while the master's command before runs. -/
theorem windowCmd_of_busy {v : Via} {d : Dev} (h : (master d c.m).job.isSome) : windowCmd v c q d = answer v.p 0xA 5 v.txid d := if_pos h

theorem windowCmd_of_idle {v : Via} {d : Dev} (hv : c.via = some v) (hj : (master d c.m).job = none) (hr : v.regs = false) :
    windowCmd v c q d = if ¬ v.later then odRun c q (answer v.p 0xA 0 v.txid d)
      else updMaster c.m (fun x => { x with job := some (c, q), stat := fld c.tag 56 8 + fld q.seq 32 8 + fld q.cmd 24 8 + 1 })
        (takeCmd c q (answer v.p 0xA 0 v.txid d)) := by
  unfold windowCmd
  rw [if_neg (by simp [hj]), withRegs_of_sent hv hr]

/-- A command that the MU ends as it comes runs on the block as it finds it. -/
theorem completes_of_runs (hexec : exec i s = odExec i c q s) (h : Runs c.via c.m s.dev) :
    Completes i s P ↔ P (odRun c q (entered c.via s.dev)) := by
  cases hv : c.via with
  | none => exact completes_run (hexec.trans (odExec_of_link hv))
  | some v =>
    rw [hv] at h
    obtain ⟨ht, hj, hl, hr⟩ := h
    rw [completes_of_taken (hexec.trans (odExec_of_window hv)) ht rfl, windowCmd_of_idle (d := creditPulse v.p .msg 1 s.dev) hv hj hr,
      if_pos (by simp [hl])]
    rfl

end

/-- A flit behind requests that wait stands in the ingress queue too (R60). -/
theorem completes_of_behind {a b : Instr} {s : State} {p : Nat} {k : YppClass} {waits : Dev → Bool}
    {f : State → Host.Outcome State Fault Refusal} {P : Dev → Prop} (hexec : exec a s = inbound p k b waits f s)
    (hl : (port s.dev p).linkUp = true) (hc : (port s.dev p).iCr.get k ≠ 0) (hq : (port s.dev p).inQ ≠ []) :
    Completes a s P ↔ P (queueIn p k b s.dev) := by
  refine completes_run (hexec.trans ?_)
  simp [inbound, hl, hc, hq]

/-- Entering leaves everything but what a port sends with the answer. -/
theorem entered_window {v : Via} {d : Dev} :
    Answers (entered (some v) d) v.p 0xA 0 v.txid ∧ AnswerFrame (creditPulse v.p .msg 1 d) (entered (some v) d) v.p [] :=
  answer_spec (by decide)

/-- The rows that read: EXP_READ, INFO and BLK_READ_NEXT, with their requests. -/
def readRow (c : OdCmd) (i : Instr) (q : OdReq) : Prop :=
  (i = .expRead c ∧ q = plainReq 1 c.seq) ∨ (i = .info c ∧ q = plainReq 11 c.seq) ∨ ∃ n, i = .blkReadNext c n ∧ q = plainReq 7 n

section
variable {c : OdCmd} {i : Instr} {q : OdReq}

theorem exec_readRow (h : readRow c i q) (s : State) : exec i s = odExec i c q s := by
  obtain ⟨rfl, rfl⟩ | ⟨rfl, rfl⟩ | ⟨n, rfl, rfl⟩ := h <;> rfl

theorem cmd_readRow (h : readRow c i q) : q.cmd ≠ 2 ∧ q.cmd ≠ 4 ∧ q.cmd ≠ 6 ∧ q.cmd ≠ 9 := by
  obtain ⟨rfl, rfl⟩ | ⟨rfl, rfl⟩ | ⟨n, rfl, rfl⟩ := h <;> simp [plainReq]

theorem readQuiet_readRow (h : readRow c i q) (d : Dev) : ReadQuiet d (odCommand c q d).2 := by
  obtain ⟨rfl, rfl⟩ | ⟨rfl, rfl⟩ | ⟨n, rfl, rfl⟩ := h
  · exact ⟨rfl, rfl, fun _ _ => rfl⟩
  · exact ⟨rfl, rfl, fun _ _ => rfl⟩
  · exact readQuiet_blkReadNext ..

/-- A row that reads is counted, and what its port has sent stays. -/
theorem odRun_readRow (h : readRow c i q) {d : Dev} (he : odError c q d = none) :
    (odRun c q d).ports = d.ports ∧ Counted d (odRun c q d) 0x1100 0x0F 1 := by
  have hquiet : ReadQuiet (takeCmd c q d)
      (if enabled d c.m then odCommand c q (takeCmd c q d) else (OdAns.bad .disabled, takeCmd c q d)).2 := by
    split
    · exact readQuiet_readRow h _
    · exact ⟨rfl, rfl, fun _ _ => rfl⟩
  obtain ⟨-, hk, htake⟩ := takenFrame_takeCmd c q d
  rw [odRun_eq he]
  generalize (if enabled d c.m then odCommand c q (takeCmd c q d) else (OdAns.bad .disabled, takeCmd c q d)) = r at hquiet ⊢
  obtain ⟨hcfg, hports, hkeys⟩ := hquiet
  obtain ⟨hcnt, -, hend⟩ := endCmd_rest c q r.1 r.2
  have hF : od r.2 0x1100 0x0F = od d 0x1100 0x0F := (hkeys _ (.inl (by decide))).trans (hk _ (by decide))
  refine ⟨?_, counted_of_od_eq (hcfg.trans (by rw [htake])) hF hcnt⟩
  rw [hend]
  exact hports.trans (by rw [htake])

end

/-- A port's counters lie above the protocol's. -/
theorem od_entered_window {v : Via} {d : Dev} {j : Nat} (hj : j < 256) : od (entered (some v) d) 0x1100 j = od d 0x1100 j := by
  obtain ⟨-, hk, -, -⟩ := entered_window (v := v) (d := d)
  refine hk _ ?_
  simp only [ek, List.mem_cons, List.not_mem_nil, or_false]
  omega

theorem windowCommandsAreAnswered_holds : windowCommandsAreAnswered := by
  intro s c v hv
  refine ⟨fun i hi => ?rows, fun ht hj hl hr => ?later⟩
  case rows =>
    obtain ⟨q, hrow⟩ : ∃ q, readRow c i q := by
      obtain rfl | rfl | ⟨n, rfl⟩ := hi
      · exact ⟨_, .inl ⟨rfl, rfl⟩⟩
      · exact ⟨_, .inr (.inl ⟨rfl, rfl⟩)⟩
      · exact ⟨_, .inr (.inr ⟨n, rfl, rfl⟩)⟩
    have hexec := exec_readRow hrow s
    have hin := hexec.trans (odExec_of_window hv)
    refine ⟨fun hruns herr => ?_, fun ht hj => ?_, fun hl hc hq => ?_⟩
    · obtain ⟨hports, hcnt⟩ := odRun_readRow hrow (odError_of_reading herr (cmd_readRow hrow))
      obtain ⟨hans, hframe⟩ := entered_window (v := v) (d := s.dev)
      rw [completes_of_runs hexec hruns]
      rw [hv] at hports hcnt ⊢
      refine ⟨?_, counted_of_od_eq (by rw [hframe.2.2]; rfl) (od_entered_window (by decide)) hcnt⟩
      unfold Answers
      rw [port_of_ports hports]
      exact hans
    · rw [completes_of_taken hin ht rfl, windowCmd_of_busy (d := creditPulse v.p .msg 1 s.dev) hj]
      exact answer_spec (by decide)
    · obtain ⟨hinQ, hcr, hne, -, he⟩ := queueIn_spec v.p .msg i s.dev
      exact (completes_of_behind hin hl hc hq).mpr ⟨hinQ, by rw [hcr]; rfl, hne, he⟩
  case later =>
    obtain ⟨hans, -⟩ := entered_window (v := v) (d := s.dev)
    have hexec : exec (.expRead c) s = inbound v.p .msg (.expRead c) never (run (windowCmd v c (plainReq 1 c.seq))) s :=
      odExec_of_window hv
    rw [completes_of_taken hexec ht rfl, windowCmd_of_idle (d := creditPulse v.p .msg 1 s.dev) hv hj hr, if_neg (by simp [hl]),
      master_updMaster_self]
    refine ⟨?_, rfl, ?_⟩
    · obtain ⟨-, -, he⟩ := takenFrame_takeCmd c (plainReq 1 c.seq) (answer v.p 0xA 0 v.txid (creditPulse v.p .msg 1 s.dev))
      unfold Answers
      rw [port_of_ports (x := updMaster _ _ _) (d := answer v.p 0xA 0 v.txid (creditPulse v.p .msg 1 s.dev)) (by
        show (takeCmd c (plainReq 1 c.seq) _).ports = _
        rw [he])]
      exact hans
    · exact busyWord_eq c (plainReq 1 c.seq)

/-! ### Unknown codes, XFER_ABORT and timeouts (R114, R120, R121) -/

/-- A command that ends as it comes, without a conflict and on the block as it was taken, changes only what one that reads may. -/
theorem readFrame_endCmd {c : OdCmd} {q : OdReq} {a : OdAns} {d : Dev} (ha : a.abort ≠ some .conflict) :
    readFrame d (endCmd c q a (takeCmd c q d)) c := by
  obtain ⟨hne, hk, he⟩ := takenFrame_takeCmd c q d
  obtain ⟨-, -, -, -, -, hne'⟩ := endCmd_master c q a (takeCmd c q d)
  obtain ⟨-, hk', he'⟩ := endCmd_rest c q a (takeCmd c q d)
  obtain ⟨hbell, hnet⟩ := done_congr (x := takeCmd c q d) (d := d) (hk _ (by decide)) (by rw [he])
  refine ⟨fun k hn => ?_, fun k hc => (hne' k hc).trans (hne k hc), ?_⟩
  · simp only [List.mem_cons, List.not_mem_nil, or_false, not_or] at hn
    obtain ⟨h2, hF, h10⟩ := hn
    exact (hk' ha k (by simp [hF, h10])).trans (hk k (by simpa using h2))
  · rw [he', hbell, hnet, he]

theorem xferTimeout_open {m : Nat} {x : Xfer} {s : State} (h : (master s.dev m).xfer = some x) :
    Completes (.xferTimeout m) s (fun d' => (master d' m).xfer = none ∧ (master d' m).closed = some .timeout ∧
      ∀ k, k ≠ m → master d' k = master s.dev k) := by
  obtain ⟨hself, hne⟩ := closeXfer_master (some .timeout) h
  refine (completes_run (f := closeXfer m (some .timeout)) rfl).mpr ⟨?_, ?_, hne⟩ <;> rw [hself]

theorem abortsAndTimeouts_holds : abortsAndTimeouts := by
  intro s c d
  refine ⟨fun hruns herr hen => ⟨fun k hk h256 => ?unknown, ?abort, fun n hx hclosed => ?timeout⟩, fun m x hx => xferTimeout_open hx,
    fun m hx => ?idle⟩
  case unknown =>
    have hmod : k % 256 = k := Nat.mod_eq_of_lt h256
    have hexec : exec (.unknownCmd c k) s = odExec (.unknownCmd c k) c (plainReq k c.seq) s := by
      show execUnknownCmd c k s = _
      rw [execUnknownCmd, hmod, if_neg (by omega)]
      rfl
    have hcode : odCommand c (plainReq k c.seq) (takeCmd c (plainReq k c.seq) d) = (OdAns.bad .unknownCmd, takeCmd c (plainReq k c.seq) d) :=
      odCommand_of_unknown hk
    rw [completes_of_runs hexec hruns]
    rw [odRun_of_enabled (odError_of_reading herr (by show k ≠ 2 ∧ k ≠ 4 ∧ k ≠ 6 ∧ k ≠ 9; omega)) hen, hcode]
    obtain ⟨hstat, habort, -, hxfer, -, -⟩ := endCmd_master c (plainReq k c.seq) (OdAns.bad .unknownCmd) (takeCmd c (plainReq k c.seq) d)
    exact ⟨⟨hstat, habort⟩, hxfer.trans (xfer_takeCmd ..).1, readFrame_endCmd (by simp [OdAns.bad])⟩
  case abort =>
    have hexec : exec (.xferAbort c) s = odExec (.xferAbort c) c (plainReq 10 c.seq) s := rfl
    rw [completes_of_runs hexec hruns, odRun_of_enabled (odError_of_reading herr (by simp [plainReq])) hen]
    obtain ⟨hstat, habort, -, hxfer, -, -⟩ := endCmd_master c (plainReq 10 c.seq) OdAns.ok
      (closeXfer c.m none (takeCmd c (plainReq 10 c.seq) d))
    exact ⟨⟨hstat, habort⟩, hxfer.trans (xfer_closeXfer ..)⟩
  case timeout =>
    have hexec : exec (.blkReadNext c n) s = odExec (.blkReadNext c n) c (plainReq 7 n) s := rfl
    obtain ⟨hxfer, hkept⟩ := xfer_takeCmd c (plainReq 7 n) d
    have hcode : odCommand c (plainReq 7 n) (takeCmd c (plainReq 7 n) d) =
        (OdAns.bad .timeout, updMaster c.m (fun x => { x with closed := none }) (takeCmd c (plainReq 7 n) d)) :=
      blkReadNext_of_timeout (hxfer.trans hx) (hkept.trans hclosed)
    rw [completes_of_runs hexec hruns, odRun_of_enabled (odError_of_reading herr (by simp [plainReq])) hen, hcode]
    obtain ⟨hstat, habort, -, -, hcl, -⟩ := endCmd_master c (plainReq 7 n) (OdAns.bad .timeout)
      (updMaster c.m (fun x => { x with closed := none }) (takeCmd c (plainReq 7 n) d))
    exact ⟨⟨hstat, habort⟩, hcl.trans (by rw [master_updMaster_self])⟩
  case idle => exact (completes_run (f := closeXfer m (some .timeout)) rfl).mpr (closeXfer_of_none hx)

/-! ### BUSY commands (R124) -/

theorem masters_freeIndex (idx : Nat) (d : Dev) : (freeIndex idx d).masters = d.masters := by
  refine foldl_keeps (·.masters) (fun x i => ?_) _ d
  split
  · split
    · rfl
    · split <;> rfl
  · rfl

/-- What a host-made error leaves undefined is not whether a command runs. -/
theorem job_odFree (c : OdCmd) (r : Nat) (d : Dev) : (master (odFree c r d) c.m).job = (master d c.m).job := by
  unfold odFree
  split
  · rw [master_of_masters (masters_freeIndex ..)]
  · unfold freeMaster
    rw [master_updMaster_self]
    rfl
  · rfl
  · rfl

/-- A status word's lowest bits are its state (R113). -/
theorem statusOf_state (c : OdCmd) (q : OdReq) (len : Nat) (aborted : Bool) :
    statusOf c q len aborted % 2 ^ 24 = if aborted then 3 else 2 := by
  unfold statusOf
  cases aborted <;> simp only [Bool.false_eq_true, if_true, if_false] <;> omega

theorem busyCommandsEnd_holds : busyCommandsEnd := by
  intro d c q hj
  have hfinish : ∃ a y, (odFinish c q d).2 = endCmd c q a y := ⟨_, _, rfl⟩
  have hend : (odError c q d = none → endJobOf c.m d = (odFinish c q d).2) ∧
      ∀ r, odError c q d = some r → endJobOf c.m d = odFree c r (odFinish c q d).2 := by
    unfold endJobOf
    rw [hj]
    exact ⟨fun h => by simp only [h], fun r h => by simp only [h]⟩
  obtain ⟨a, y, hy⟩ := hfinish
  obtain ⟨hstat, -, hjob, -⟩ := endCmd_master c q a y
  rw [hy] at hend
  refine ⟨?_, fun he => ?_⟩
  · cases he : odError c q d with
    | none => rw [hend.1 he, hjob]
    | some r => rw [hend.2 r he, job_odFree, hjob]
  · rw [hend.1 he, hstat, statusOf_state]
    split <;> simp

/-- Settles O14: a command by its master's state and its port; what ends it by its code. -/
theorem windowAnswersAndAborts : Obligations.WindowAnswersAndAborts :=
  ⟨windowCommandsAreAnswered_holds, abortsAndTimeouts_holds, busyCommandsEnd_holds⟩

end Sys2Proof.Machine
end

section
/-! SUPPORT. What a nanosecond without a command brings (log 3): every command's effect is a change of the block alone, so the requests
that stood in the ports' ingress queues leave the queue of commands as it is. -/

namespace Sys2Proof.Machine

/-! ### Every command is a change of the block -/

/-- The outcome is a next state in which only the block may have changed. -/
def ChangesDev (s : State) (o : Host.Outcome State Fault Refusal) : Prop := ∃ d : Dev, o = .next { s with dev := d }

section
variable {s : State} {a b : Host.Outcome State Fault Refusal}

theorem changesDev_run (f : Dev → Dev) (s : State) : ChangesDev s (run f s) := ⟨f s.dev, rfl⟩

theorem changesDev_ite {c : Prop} [Decidable c] (ha : ChangesDev s a) (hb : ChangesDev s b) : ChangesDev s (if c then a else b) := by
  split
  · exact ha
  · exact hb

/-- From a state with another block too the outcome changes the block alone. -/
theorem ChangesDev.of_dev {d : Dev} (h : ChangesDev { s with dev := d } a) : ChangesDev s a := h

theorem ChangesDev.bind {f : State → Host.Outcome State Fault Refusal} (h : ChangesDev s a) (hf : ∀ y, ChangesDev y (f y)) :
    ChangesDev s (match (generalizing := false) a with | .next t => f t | e => e) := by
  obtain ⟨g, rfl⟩ := h
  exact (hf _).of_dev

theorem changesDev_foldl {α : Type} (f : α → State → Host.Outcome State Fault Refusal) (hf : ∀ x y, ChangesDev y (f x y))
    (l : List α) : ChangesDev s (l.foldl (fun o x => match o with | .next t => f x t | e => e) (.next s)) :=
  List.foldlRecOn _ _ ⟨s.dev, rfl⟩ fun _ ho x _ => ho.bind (hf x)

theorem ChangesDev.next (h : ChangesDev s a) : ∃ t, a = .next t ∧ t.pending = s.pending := by
  obtain ⟨d, rfl⟩ := h
  exact ⟨_, rfl, rfl⟩

end

section
variable (s : State)

theorem changesDev_inbound (p : Nat) (k : YppClass) (c : Instr) (waits : Dev → Bool) (f : Dev → Dev) :
    ChangesDev s (inbound p k c waits (run f) s) :=
  changesDev_ite (changesDev_run ..) (changesDev_ite (changesDev_run ..) (changesDev_ite (changesDev_run ..)
    (changesDev_run f _).of_dev))

theorem changesDev_toBell (p : Nat) (c : Instr) (f : Dev → Dev) : ChangesDev s (toBell p c f s) := by
  unfold toBell
  split
  · exact (changesDev_inbound ..).of_dev
  · exact changesDev_inbound ..

theorem changesDev_doorbells (r : Nat) (l : List SameDb) : ChangesDev s (doorbells r l s) :=
  changesDev_foldl (oneDb r) (fun _ y => changesDev_inbound y ..) _

theorem changesDev_odExec (i : Instr) (c : OdCmd) (q : OdReq) : ChangesDev s (odExec i c q s) := by
  unfold odExec
  split
  · exact changesDev_run ..
  · exact changesDev_inbound ..

theorem changesDev_writeRow (i : Instr) (c : OdCmd) (f : WrForm) (rival : Option Rival) :
    ChangesDev s (writeRow i c f rival s) := by
  unfold writeRow
  split
  · exact changesDev_odExec ..
  · exact changesDev_run ..

theorem changesDev_viaPort (i : Instr) (via : Option Win) (f : Dev → Dev) : ChangesDev s (viaPort i via f s) := by
  unfold viaPort
  split
  · exact changesDev_inbound ..
  · exact changesDev_run ..

theorem changesDev_odEntryWrite (m : Nat) (via : Option Win) (t : WriteTarget) (v : Nat) :
    ChangesDev s (execOdEntryWrite m via t v s) := by
  unfold execOdEntryWrite
  split
  · exact changesDev_odExec ..
  · exact changesDev_run ..
  · exact changesDev_viaPort ..
  · exact changesDev_viaPort ..

theorem changesDev_domReq (m : Nat) (via : Option Win) (n v : Nat) : ChangesDev s (execDomReq m via n v s) := by
  unfold execDomReq
  dsimp only
  split
  · exact changesDev_odExec ..
  · exact changesDev_run ..

theorem changesDev_rawOp (op : Nat) (r : RawReq) : ChangesDev s (rawOp op r s) := by
  unfold rawOp
  split
  · exact changesDev_run ..
  · exact changesDev_run ..

theorem changesDev_exec (c : Instr) : ChangesDev s (exec c s) := by
  cases c with
  | inboundWriteRefused => exact changesDev_ite (changesDev_inbound ..) (changesDev_run ..)
  | inboundBadHeader => exact changesDev_ite (changesDev_run ..) (changesDev_ite (changesDev_run ..)
      (changesDev_ite (changesDev_run ..) (changesDev_inbound ..)))
  | targetDecodeError => exact changesDev_ite (changesDev_run ..) (changesDev_inbound ..)
  | dbSq => exact changesDev_doorbells ..
  | dbCq => exact changesDev_doorbells ..
  | dbBoth => exact changesDev_doorbells ..
  | blDb => exact changesDev_toBell ..
  | blEoi => exact changesDev_toBell ..
  | expRead => exact changesDev_odExec ..
  | segRead => exact changesDev_odExec ..
  | blkReadInit => exact changesDev_odExec ..
  | blkReadNext => exact changesDev_odExec ..
  | blkWriteNext => exact changesDev_odExec ..
  | blkEnd => exact changesDev_odExec ..
  | xferAbort => exact changesDev_odExec ..
  | info => exact changesDev_odExec ..
  | unknownCmd => exact changesDev_ite (changesDev_run ..) (changesDev_odExec ..)
  | expWrite => exact changesDev_writeRow ..
  | segWrite => exact changesDev_writeRow ..
  | blkWriteInit => exact changesDev_writeRow ..
  | odEntryWrite => exact changesDev_odEntryWrite ..
  | domReq => exact changesDev_domReq ..
  | counterClear => exact changesDev_ite (changesDev_run ..) (changesDev_run ..)
  | mctpUnsupportedCmd => exact changesDev_ite (changesDev_run ..) (changesDev_run ..)
  | readPage => exact changesDev_rawOp ..
  | programPage => exact changesDev_rawOp ..
  | eraseBlock => exact changesDev_rawOp ..
  | readStatus => exact changesDev_rawOp ..
  | getFeatures => exact changesDev_rawOp ..
  | setFeatures => exact changesDev_rawOp ..
  | resetLun => exact changesDev_rawOp ..
  | readId => exact changesDev_rawOp ..
  | readParam => exact changesDev_rawOp ..
  | _ => exact ⟨_, rfl⟩

/-! ### The ports' part of a nanosecond -/

theorem changesDev_tickPort (p : Nat) : ChangesDev s (tickPort exec p s) := by
  unfold tickPort
  split
  · exact changesDev_run id s
  · exact ((changesDev_exec _ _).bind (f := fun t => .next { t with dev := afterIn p _ t.dev }) fun _ => changesDev_run (afterIn p _) _).of_dev

theorem changesDev_tickPorts : ChangesDev s (tickPorts exec s) :=
  changesDev_foldl (tickPort exec) (fun p y => changesDev_tickPort y p) _

theorem changesDev_tick : ChangesDev s (tick exec s) :=
  (changesDev_tickPorts s).bind (f := fun t => .next { t with dev := tickDev t.dev }) fun y => changesDev_run tickDev y

end

theorem step_of_idle {s : State} (h : s.pending = []) : step s = tick exec s := by
  unfold step
  rw [h]

/-- A port with an empty ingress queue has nothing to serve. -/
theorem tickPort_of_empty {p : Nat} {s : State} (h : (port s.dev p).inQ = []) : tickPort exec p s = .next s := by
  simp [tickPort, nextIn, h]

theorem tickPorts_of_empty {s : State} (h : ∀ p, p < s.dev.cfg.ports → (port s.dev p).inQ = []) : tickPorts exec s = .next s := by
  refine List.foldlRecOn (motive := fun o => o = Host.Outcome.next s) _ _ rfl fun o ho p hp => ?_
  subst ho
  exact tickPort_of_empty (h p (List.mem_range.mp hp))

theorem tick_of_empty {s : State} (h : ∀ p, p < s.dev.cfg.ports → (port s.dev p).inQ = []) :
    tick exec s = .next { s with dev := tickDev s.dev } := by
  unfold tick
  rw [tickPorts_of_empty h]

/-! ### The device's part of a nanosecond -/

/-- The clocks, the parameters, the telemetry and the I3C target stay, and of the masters' records the transfers and the commands under
way: a flipped bit of a buffer (log 74) may change the rest. -/
structure ProtocolKept (d d' : Dev) : Prop where
  cfg : d'.cfg = d.cfg
  ts : d'.ts = d.ts
  up : d'.up = d.up
  tele : d'.tele = d.tele
  i3c : d'.i3c = d.i3c
  xfer : ∀ m, (master d' m).xfer = (master d m).xfer
  job : ∀ m, (master d' m).job = (master d m).job

theorem ProtocolKept.trans {a b c : Dev} (h1 : ProtocolKept a b) (h2 : ProtocolKept b c) : ProtocolKept a c :=
  ⟨h2.cfg.trans h1.cfg, h2.ts.trans h1.ts, h2.up.trans h1.up, h2.tele.trans h1.tele, h2.i3c.trans h1.i3c,
    fun m => (h2.xfer m).trans (h1.xfer m), fun m => (h2.job m).trans (h1.job m)⟩

theorem Keep.protocol {d d' : Dev} (h : Keep d d') : ProtocolKept d d' := by
  obtain ⟨hcfg, hts, hup, htele, hmasters, hi3c, -⟩ := h.control
  exact ⟨hcfg, hts, hup, htele, hi3c, fun m => by rw [master_of_masters hmasters], fun m => by rw [master_of_masters hmasters]⟩

/-- An update of a master that leaves its transfer and its command under way. -/
theorem protocolKept_updMaster {m : Nat} {f : Master → Master} (d : Dev) (hx : ∀ x, (f x).xfer = x.xfer) (hj : ∀ x, (f x).job = x.job) :
    ProtocolKept d (updMaster m f d) := by
  refine ⟨rfl, rfl, rfl, rfl, rfl, fun k => ?_, fun k => ?_⟩
  · rcases eq_or_ne k m with rfl | hk
    · rw [master_updMaster_self, hx]
    · rw [master_updMaster_ne f d hk]
  · rcases eq_or_ne k m with rfl | hk
    · rw [master_updMaster_self, hj]
    · rw [master_updMaster_ne f d hk]

/-- An error in memory leaves the protocol as it is, whatever it strikes. -/
theorem protocolKept_upset (d : Dev) : ProtocolKept d (upset d) := by
  have hfree : ProtocolKept d { d with free := d.free + 1 } := ⟨rfl, rfl, rfl, rfl, rfl, fun _ => rfl, fun _ => rfl⟩
  refine hfree.trans ?_
  unfold upset
  dsimp only
  split
  · exact (keep_upsetSb (Keep.refl _)).protocol
  · exact (keep_upsetLine (Keep.refl _)).protocol
  · exact (keep_upsetLane (Keep.refl _)).protocol
  · split
    · exact ⟨rfl, rfl, rfl, rfl, rfl, fun _ => rfl, fun _ => rfl⟩
    · exact (Keep.refl _).protocol
  · exact protocolKept_updMaster _ (fun _ => rfl) fun _ => rfl
  · exact (keep_underrun (Keep.refl _)).protocol
  · exact (Keep.refl _).protocol

theorem endJobOf_of_none {m : Nat} {d : Dev} (h : (master d m).job = none) : endJobOf m d = d := by
  unfold endJobOf
  rw [h]

/-- Where no command is under way none ends. -/
theorem endJobs_of_none {d : Dev} (h : ∀ m, m < 8 → (master d m).job = none) : endJobs d = d := by
  refine List.foldlRecOn (motive := fun x => x = d) _ _ rfl fun x hx m hm => ?_
  subst hx
  exact endJobOf_of_none (h m (List.mem_range.mp hm))

theorem keep_unitsGo_of_no_jobs {d : Dev} (h : ∀ m, m < 8 → (master d m).job = none) : Keep d (unitsGo d) := by
  have hk : Keep d (ckptGo (askWanted (endJobs d))) := by
    rw [endJobs_of_none h]
    exact keep_ckptGo (keep_askWanted (Keep.refl d))
  unfold unitsGo
  dsimp only
  split
  · exact keep_settle hk
  · exact hk

/-- Where no command of the dictionary is under way, a nanosecond is the clocks' step and otherwise leaves the protocol. -/
theorem protocolKept_tickDev {d : Dev} (h : ∀ m, m < 8 → (master d m).job = none) : ProtocolKept (clocks d) (tickDev d) := by
  have hnet : ProtocolKept (clocks d) (netWakes (netGo (upset (clocks d)))) :=
    (protocolKept_upset _).trans (keep_netWakes (keep_netGo (Keep.refl _))).protocol
  exact hnet.trans (keep_unitsGo_of_no_jobs fun m hm => (hnet.job m).trans (h m hm)).protocol

/-- Settles O2: no command's effect reaches the queue of commands, the ports have nothing to serve where their queues are empty, and the
device's part leaves the protocol but for the clocks. -/
theorem emptyQueueIdles : Obligations.EmptyQueueIdles := by
  unfold Obligations.EmptyQueueIdles
  refine ⟨fun s hs => ?_, fun s hs hq => ?_, fun d hj => ?_⟩
  · obtain ⟨t, ht, hp⟩ := (changesDev_tick s).next
    exact ⟨t, (step_of_idle hs).trans ht, hp.trans hs⟩
  · rw [step_of_idle hs, tick_of_empty hq, hs]
  · have h := protocolKept_tickDev hj
    exact ⟨h.ts, h.up, h.cfg, h.i3c, h.tele, h.xfer⟩

end Sys2Proof.Machine

end

section
/-! SUPPORT. What the units' work leaves of the links (02_ports.md R45, R76, R101, R102): which links are up, which ports hold their
senders off or wait for a restore, which domains are ON, the reset that runs, and how many commands and groups there are. One equation
for each function that the failure of a link's requests, the units' going on or a channel's going on can call. -/

namespace Sys2Proof.Machine

/-! ### The linkage of a record -/

/-- What of a port stays while its traffic moves: its link, its XOFF and its wait for a restore. -/
def Port.wire (x : Port) : Bool × Bool × Bool := (x.linkUp, x.xoff, x.framing)

/-- What the units' work leaves alone. -/
structure Linkage where
  wire : Nat → Bool × Bool × Bool
  dom : Nat → DomSt
  rst : Rst
  cmds : Nat
  groups : Nat

def linkageOf (ports : Tab Port) (doms : Tab Dom) (rst : Rst) (cmds : Tab Cmd) (groups : List Group) : Linkage :=
  { wire := fun p => (tabGet Port.reset ports p).wire, dom := fun n => (tabGet Dom.reset doms n).st, rst := rst,
    cmds := cmds.length, groups := groups.length }

def Dev.linkage (d : Dev) : Linkage := linkageOf d.ports d.doms d.rst d.cmds d.groups

/-- A changed record has the linkage of its parts, so that a change of any other field is seen to leave it. -/
@[simp] theorem linkage_mk (cfg : Params) (ts up free : Nat) (od : Tab Nat) (ods : Tab Bytes) (odBad sat : List Nat) (ports : Tab Port)
    (tele : Tele) (masters : Tab Master) (i3c : I3c) (srcs : Tab Src) (tgts : Tab Tgt) (dbq : List DbItem) (doms : Tab Dom)
    (pwrq : List Nat) (wakeP : Nat) (nodes : Tab Node) (sensors : Tab Sensor) (therm : Thermal) (flt : FltLog) (rst : Rst)
    (rings : Tab Ring) (cmds : Tab Cmd) (fetchNo metNo : Nat) (rrRing : Tab Nat) (groups : List Group) (lan : Lan)
    (dies : Tab Die) (chans : Tab Chan) (geom : Option Geom) (rawp : RawPath) (seqs : Tab Seq) (loader : Loader)
    (decs : Tab Dec) (clasp : Clasp) (tender : Tender) (memLog : MemLog) (net : Net) :
    (Dev.mk cfg ts up free od ods odBad sat ports tele masters i3c srcs tgts dbq doms pwrq wakeP nodes sensors therm flt rst
      rings cmds fetchNo metNo rrRing groups lan dies chans geom rawp seqs loader decs clasp tender memLog net).linkage =
      linkageOf ports doms rst cmds groups := rfl

@[simp] theorem linkageOf_parts (d : Dev) : linkageOf d.ports d.doms d.rst d.cmds d.groups = d.linkage := rfl

@[simp] theorem linkage_ite (c : Prop) [Decidable c] (a b : Dev) :
    (if c then a else b).linkage = if c then a.linkage else b.linkage := apply_ite ..

@[simp] theorem linkage_foldl {α : Type} {f : Dev → α → Dev} (hf : ∀ x a, (f x a).linkage = x.linkage) (l : List α) (d : Dev) :
    (l.foldl f d).linkage = d.linkage :=
  foldl_keeps Dev.linkage hf l d

theorem wire_of_linkage {x d : Dev} (h : x.linkage = d.linkage) (p : Nat) : (port x p).wire = (port d p).wire :=
  congrFun (congrArg Linkage.wire h) p

theorem isOn_of_linkage {x d : Dev} (h : x.linkage = d.linkage) (n : Nat) : isOn x n = isOn d n := by
  have hst : (dom x n).st = (dom d n).st := congrFun (congrArg Linkage.dom h) n
  unfold isOn
  rw [hst]

theorem rst_of_linkage {x d : Dev} (h : x.linkage = d.linkage) : x.rst = d.rst := congrArg Linkage.rst h

theorem cmds_eq_nil_of_linkage {x d : Dev} (h : x.linkage = d.linkage) (hd : d.cmds = []) : x.cmds = [] := by
  have hlen : x.cmds.length = d.cmds.length := congrArg Linkage.cmds h
  exact List.eq_nil_of_length_eq_zero (by rw [hlen, hd]; rfl)

theorem groups_eq_nil_of_linkage {x d : Dev} (h : x.linkage = d.linkage) (hd : d.groups = []) : x.groups = [] := by
  have hlen : x.groups.length = d.groups.length := congrArg Linkage.groups h
  exact List.eq_nil_of_length_eq_zero (by rw [hlen, hd]; rfl)

/-! ### Updates of a port, a domain, a command and a group -/

theorem linkage_updPort {p : Nat} {f : Port → Port} {d : Dev} (hf : (f (port d p)).wire = (port d p).wire) :
    (updPort p f d).linkage = d.linkage := by
  have hw : (fun q => (port (updPort p f d) q).wire) = fun q => (port d q).wire := by
    funext q
    rcases eq_or_ne q p with rfl | hq
    · rw [port_updPort_self, hf]
    · rw [port_updPort_ne _ _ hq]
  exact congrArg (fun w => { d.linkage with wire := w }) hw

theorem linkage_updDom {n : Nat} {f : Dom → Dom} {d : Dev} (hf : (f (dom d n)).st = (dom d n).st) :
    (updDom n f d).linkage = d.linkage := by
  have hs : (fun k => (dom (updDom n f d) k).st) = fun k => (dom d k).st := by
    funext k
    rcases eq_or_ne k n with rfl | hk
    · rw [dom, updDom, tabGet_tabSet_self, hf]
    · rw [dom, updDom, tabGet_tabSet_ne _ _ _ _ hk]
      rfl
  exact congrArg (fun s => { d.linkage with dom := s }) hs

@[simp] theorem linkage_updCmd (tag : Nat) (f : Cmd → Cmd) (d : Dev) : (updCmd tag f d).linkage = d.linkage :=
  congrArg (fun n => { d.linkage with cmds := n }) (List.length_map _)

@[simp] theorem linkage_updGroup (id : Nat) (f : Group → Group) (d : Dev) : (updGroup id f d).linkage = d.linkage :=
  congrArg (fun n => { d.linkage with groups := n }) (List.length_map _)

/-! ### The outbound queues -/

theorem wire_sendAll (l : List OutMsg) : ∀ (p : Port) (blk : List YppClass) (dep : List Owner) (n : Nat),
    (p.sendAll l blk dep n).1.wire = p.wire := by
  induction l with
  | nil => exact fun _ _ _ _ => rfl
  | cons m l ih =>
    intro p blk dep n
    unfold Port.sendAll
    dsimp only
    split
    · exact ih ..
    · exact ih ..

theorem wire_pump (p : Port) : p.pump.1.wire = p.wire := wire_sendAll p.hdrQ { p with hdrQ := [] } [] [] 0

/-! ### The dictionary, the network and the fault log -/

@[simp] theorem linkage_putK (key v : Nat) (d : Dev) : (putK key v d).linkage = d.linkage := by simp [putK]

@[simp] theorem linkage_put (idx sub v : Nat) (d : Dev) : (put idx sub v d).linkage = d.linkage := by simp [put]

@[simp] theorem linkage_putB (idx sub : Nat) (v : Bytes) (d : Dev) : (putB idx sub v d).linkage = d.linkage := by simp [putB]

@[simp] theorem linkage_putBit (idx sub i : Nat) (b : Bool) (d : Dev) : (putBit idx sub i b d).linkage = d.linkage := by simp [putBit]

@[simp] theorem linkage_cntN (idx sub n : Nat) (d : Dev) : (cntN idx sub n d).linkage = d.linkage := by simp [cntN]

@[simp] theorem linkage_cnt (idx sub : Nat) (d : Dev) : (cnt idx sub d).linkage = d.linkage := by simp [cnt]

@[simp] theorem linkage_freeVal (d : Dev) : (freeVal d).2.linkage = d.linkage := by simp [freeVal]

@[simp] theorem linkage_freeBytes (n : Nat) (d : Dev) : (freeBytes n d).2.linkage = d.linkage := by simp [freeBytes]

@[simp] theorem linkage_sendFor (own : Option Nat) (a b : NUnit) (c : NClass) (n : Nat) (d : Dev) :
    (sendFor own a b c n d).linkage = d.linkage := by simp [sendFor]

@[simp] theorem linkage_send (a b : NUnit) (c : NClass) (n : Nat) (d : Dev) : (send a b c n d).linkage = d.linkage := by simp [send]

@[simp] theorem linkage_linksReset (n : Nat) (d : Dev) : (linksReset n d).linkage = d.linkage := by simp [linksReset]

@[simp] theorem linkage_sendVia (a b : NUnit) (c : NClass) (n : Nat) (d : Dev) : (sendVia a b c n d).linkage = d.linkage := by
  unfold sendVia
  dsimp only
  split <;> simp

@[simp] theorem linkage_ringUnit (u : NUnit) (src : Nat) (d : Dev) : (ringUnit u src d).linkage = d.linkage := by simp [ringUnit]

@[simp] theorem linkage_wakeRing (n : Nat) (d : Dev) : (wakeRing n d).linkage = d.linkage := by simp [wakeRing]

@[simp] theorem linkage_assertWake (n b : Nat) (d : Dev) : (assertWake n b d).linkage = d.linkage := by
  unfold assertWake
  split
  · rfl
  · rw [linkage_wakeRing]
    exact linkage_updDom (by split <;> rfl)

@[simp] theorem linkage_fltBell (cls : Nat) (d : Dev) : (fltBell cls d).linkage = d.linkage := by simp [fltBell]

@[simp] theorem linkage_fltWrite (r : Flt) (d : Dev) : (fltWrite r d).linkage = d.linkage := by simp [fltWrite]

@[simp] theorem linkage_fault (cls cause : Nat) (unit a b : Nat) (d0 : Dev) :
    (fault cls cause unit a b d0).linkage = d0.linkage := by simp [fault]

/-! ### What leaves a port -/

@[simp] theorem linkage_updBell (r no : Nat) (f : RBell → RBell) (d : Dev) :
    (updBell r no f d).linkage = d.linkage := by simp [updBell]

@[simp] theorem linkage_depart (o : Owner) (d : Dev) : (depart o d).linkage = d.linkage := by
  unfold depart
  split <;> simp

@[simp] theorem linkage_pump (p : Nat) (d : Dev) : (pump p d).linkage = d.linkage := by
  unfold pump
  simp only [linkage_depart, linkage_foldl, implies_true, linkage_cntN]
  exact linkage_updPort (wire_pump _)

@[simp] theorem linkage_sendReq (p : Nat) (m : OutMsg) (d : Dev) : (sendReq p m d).linkage = d.linkage := by
  unfold sendReq
  split <;> simp

@[simp] theorem linkage_sendRsp (p : Nat) (o : Owner) (n : Nat) (d : Dev) : (sendRsp p o n d).linkage = d.linkage := by
  unfold sendRsp
  split <;> simp

@[simp] theorem linkage_post (p : Nat) (m : OutMsg) (d : Dev) : (post p m d).linkage = d.linkage := by
  unfold post
  rw [linkage_pump, linkage_updPort rfl, linkage_sendReq]

@[simp] theorem linkage_postRead (p addr len : Nat) (o : Owner) (d : Dev) :
    (postRead p addr len o d).linkage = d.linkage := by simp [postRead]

@[simp] theorem linkage_postWrite (p addr : Nat) (bs : Bytes) (bad : List (Nat × Nat)) (o : Owner) (d : Dev) :
    (postWrite p addr bs bad o d).linkage = d.linkage := by simp [postWrite]

/-! ### Bell -/

@[simp] theorem linkage_updSrc (s : Nat) (f : Src → Src) (d : Dev) : (updSrc s f d).linkage = d.linkage := by simp [updSrc]

@[simp] theorem linkage_updTgt (t : Nat) (f : Tgt → Tgt) (d : Dev) : (updTgt t f d).linkage = d.linkage := by simp [updTgt]

@[simp] theorem linkage_irqUpdate (t : Nat) (d : Dev) : (irqUpdate t d).linkage = d.linkage := by simp [irqUpdate]

@[simp] theorem linkage_accept (t : Nat) (r : Run) (d : Dev) : (accept t r d).linkage = d.linkage := by simp [accept]

@[simp] theorem linkage_bellResponse (t dseq : Nat) (slot status : Nat) (d : Dev) :
    (bellResponse t dseq slot status d).linkage = d.linkage := by
  unfold bellResponse
  split <;> simp

@[simp] theorem linkage_bellReset (d : Dev) : (bellReset d).linkage = d.linkage := by simp [bellReset]

/-! ### Lantern's buffer, its lines and its journal -/

@[simp] theorem linkage_updLan (f : Lan → Lan) (d : Dev) : (updLan f d).linkage = d.linkage := by simp [updLan]

@[simp] theorem linkage_updClasp (f : Clasp → Clasp) (d : Dev) : (updClasp f d).linkage = d.linkage := by simp [updClasp]

@[simp] theorem linkage_freshId (d : Dev) : (freshId d).2.linkage = d.linkage := by simp [freshId]

@[simp] theorem linkage_sbWrite (a : Nat) (bs : Bytes) (d : Dev) : (sbWrite a bs d).linkage = d.linkage := by simp [sbWrite]

theorem linkage_sbAlloc (seg len : Nat) (own : SbOwn) (d : Dev) {r}
    (h : sbAlloc seg len own d = some r) : r.2.linkage = d.linkage := by
  unfold sbAlloc at h
  split at h
  · cases h
  · obtain ⟨a, -, rfl⟩ := Option.map_eq_some_iff.mp h
    simp

@[simp] theorem linkage_sbFree (own : SbOwn) (d : Dev) : (sbFree own d).linkage = d.linkage := by simp [sbFree]

@[simp] theorem linkage_memBell (kind : Nat) (d : Dev) : (memBell kind d).linkage = d.linkage := by simp [memBell]

@[simp] theorem linkage_memWrite (r : MemRec) (d : Dev) : (memWrite r d).linkage = d.linkage := by simp [memWrite]

@[simp] theorem linkage_memError (kind syn : Nat) (where_ unit : Nat) (d : Dev) :
    (memError kind syn where_ unit d).linkage = d.linkage := by
  unfold memError
  split <;> simp

@[simp] theorem linkage_sbNote (w flips : Nat) (d : Dev) : (sbNote w flips d).linkage = d.linkage := by
  unfold sbNote
  split <;> simp

@[simp] theorem linkage_sbNotes (l : List (Nat × Nat)) (d : Dev) : (sbNotes l d).linkage = d.linkage := by simp [sbNotes]

@[simp] theorem linkage_sbFetch (u : NUnit) (a n : Nat) (d0 : Dev) : (sbFetch u a n d0).2.2.linkage = d0.linkage := by
  unfold sbFetch
  dsimp only
  split <;> simp

@[simp] theorem linkage_sbStoreTry (u : NUnit) (a : Nat) (bs : Bytes) (d0 : Dev) :
    (sbStore? u a bs d0).2.linkage = d0.linkage := by simp [sbStore?]

@[simp] theorem linkage_sbStore (u : NUnit) (a : Nat) (bs : Bytes) (d : Dev) :
    (sbStore u a bs d).linkage = d.linkage := by simp [sbStore]

@[simp] theorem linkage_updDie (n : Nat) (f : Die → Die) (d : Dev) : (updDie n f d).linkage = d.linkage := by simp [updDie]

@[simp] theorem linkage_updChan (ch : Nat) (f : Chan → Chan) (d : Dev) : (updChan ch f d).linkage = d.linkage := by simp [updChan]

@[simp] theorem linkage_updLine (ln : Nat) (f : Line → Line) (d : Dev) : (updLine ln f d).linkage = d.linkage := by simp [updLine]

@[simp] theorem linkage_lineCe (x : Line) (w flips : Nat) (d : Dev) : (lineCe x w flips d).linkage = d.linkage := by simp [lineCe]

@[simp] theorem linkage_loseLine (x : Line) (syn w : Nat) (d : Dev) : (loseLine x syn w d).linkage = d.linkage := by simp [loseLine]

@[simp] theorem linkage_lineRead (x : Line) (ws : List Nat) (d : Dev) : (lineRead x ws d).linkage = d.linkage := by
  unfold lineRead
  split <;> simp

@[simp] theorem linkage_touchLine (ln : Nat) (dirty : Bool) (d : Dev) :
    (touchLine ln dirty d).linkage = d.linkage := by simp [touchLine]

@[simp] theorem linkage_askLine (ln : Nat) (d : Dev) : (askLine ln d).linkage = d.linkage := by simp [askLine]

@[simp] theorem linkage_wantLine (ln : Nat) (change : Bool) (d : Dev) :
    (wantLine ln change d).linkage = d.linkage := by simp [wantLine]

@[simp] theorem linkage_askWanted (d : Dev) : (askWanted d).linkage = d.linkage := by simp [askWanted]

@[simp] theorem linkage_mendLine (ln : Nat) (ws : List Nat) (d : Dev) : (mendLine ln ws d).linkage = d.linkage := by simp [mendLine]

@[simp] theorem linkage_changeLine (ln : Nat) (ws : List Nat) (part : Bool) (d : Dev) :
    (changeLine ln ws part d).linkage = d.linkage := by
  unfold changeLine
  dsimp only
  repeat' split
  all_goals simp

@[simp] theorem linkage_updBlk (n b : Nat) (f : Blk → Blk) (d : Dev) : (updBlk n b f d).linkage = d.linkage := by simp [updBlk]

@[simp] theorem linkage_jAppend (r : JRec) (d : Dev) : (jAppend r d).linkage = d.linkage := by simp [jAppend]

@[simp] theorem linkage_jBlock (n b job : Nat) (d : Dev) : (jBlock n b job d).linkage = d.linkage := by simp [jBlock]

@[simp] theorem linkage_setBstate (n b v : Nat) (d : Dev) : (setBstate n b v d).linkage = d.linkage := by simp [setBstate]

/-! ### The channels -/

@[simp] theorem linkage_updSeq (ch : Nat) (f : Seq → Seq) (d : Dev) : (updSeq ch f d).linkage = d.linkage := by simp [updSeq]

@[simp] theorem linkage_seqStart (ch idx : Nat) (k plane : Nat) (e : Option BEnt) (d : Dev) :
    (seqStart ch idx k plane e d).linkage = d.linkage := by simp [seqStart]

@[simp] theorem linkage_wantTrain (ch t : Nat) (d : Dev) : (wantTrain ch t d).linkage = d.linkage := by simp [wantTrain]

@[simp] theorem linkage_updEnt (n s : Nat) (f : BEnt → BEnt) (d : Dev) : (updEnt n s f d).linkage = d.linkage := by simp [updEnt]

@[simp] theorem linkage_pageFaults (n : Nat) (d : Dev) : (pageFaults n d).linkage = d.linkage := by simp [pageFaults]

@[simp] theorem linkage_markHeld (n : Nat) (d : Dev) : (markHeld n d).linkage = d.linkage := by simp [markHeld]

@[simp] theorem linkage_mergeReads (n s : Nat) (d : Dev) : (mergeReads n s d).linkage = d.linkage := by
  unfold mergeReads
  split <;> simp

@[simp] theorem linkage_takeEnt (n : Nat) (e : BEnt) (aged : Bool) (d : Dev) :
    (takeEnt n e aged d).linkage = d.linkage := by simp [takeEnt]

@[simp] theorem linkage_takeBurst (ch cls k : Nat) (b : Burst) (d : Dev) : (takeBurst ch cls k b d).linkage = d.linkage := by
  unfold takeBurst
  dsimp only
  repeat' split
  all_goals simp

@[simp] theorem linkage_startBurst (ch cls k : Nat) (b : Burst) (d : Dev) :
    (startBurst ch cls k b d).linkage = d.linkage := by simp [startBurst]

@[simp] theorem linkage_atBoundary (ch : Nat) (d : Dev) : (atBoundary ch d).linkage = d.linkage := by simp [atBoundary]

@[simp] theorem linkage_pushEnt (n : Nat) (e : BEnt) (d : Dev) : (pushEnt n e d).linkage = d.linkage := by simp [pushEnt]

@[simp] theorem linkage_feedTrain (ch : Nat) (d : Dev) : (feedTrain ch d).linkage = d.linkage := by
  refine linkage_foldl (fun x t => ?_) _ _
  split
  · simp
  · split <;> simp

@[simp] theorem linkage_kick (ch : Nat) (d0 : Dev) : (kick ch d0).linkage = d0.linkage := by
  unfold kick
  dsimp only
  repeat' split
  all_goals simp

@[simp] theorem linkage_kickAll (d : Dev) : (kickAll d).linkage = d.linkage := by simp [kickAll]

/-! ### Bands -/

@[simp] theorem linkage_enqueue (n : Nat) (e : BEnt) (d : Dev) : (enqueue n e d).linkage = d.linkage := by simp [enqueue]

@[simp] theorem linkage_dropEnt (n s : Nat) (d : Dev) : (dropEnt n s d).linkage = d.linkage := by simp [dropEnt]

@[simp] theorem linkage_updBand (id : Nat) (f : Band → Band) (d : Dev) : (updBand id f d).linkage = d.linkage := by simp [updBand]

@[simp] theorem linkage_updRow (id r : Nat) (f : Row → Row) (d : Dev) : (updRow id r f d).linkage = d.linkage := by simp [updRow]

@[simp] theorem linkage_updSlot (id r j : Nat) (f : MSlot → MSlot) (d : Dev) :
    (updSlot id r j f d).linkage = d.linkage := by simp [updSlot]

@[simp] theorem linkage_openRow (id : Nat) (d : Dev) : (openRow id d).linkage = d.linkage := by
  unfold openRow
  split
  · rfl
  · split
    · rfl
    · split
      · rfl
      · next a d1 h =>
        simpa using linkage_sbAlloc _ _ _ _ h

@[simp] theorem linkage_openRows (id : Nat) (d : Dev) : (openRows id d).linkage = d.linkage := by
  unfold openRows
  split <;> simp

@[simp] theorem linkage_feedSlot (id r j : Nat) (d : Dev) : (feedSlot id r j d).linkage = d.linkage := by
  unfold feedSlot
  repeat' split
  all_goals simp

@[simp] theorem linkage_feedParity (id r : Nat) (d : Dev) : (feedParity id r d).linkage = d.linkage := by
  unfold feedParity
  repeat' split
  all_goals simp

@[simp] theorem linkage_closeIfDone (id : Nat) (d : Dev) : (closeIfDone id d).linkage = d.linkage := by
  unfold closeIfDone
  split <;> simp

@[simp] theorem linkage_retireRows (id : Nat) (d : Dev) : (retireRows id d).linkage = d.linkage := by
  unfold retireRows
  split <;> simp

@[simp] theorem linkage_feedBands (d : Dev) : (feedBands d).linkage = d.linkage := by
  refine linkage_foldl (fun x b => ?_) _ _
  dsimp only
  rw [linkage_retireRows]
  simp

/-! ### Commands and groups -/

@[simp] theorem linkage_updWjob (id : Nat) (f : WJob → WJob) (d : Dev) : (updWjob id f d).linkage = d.linkage := by simp [updWjob]

@[simp] theorem linkage_cmdFail (tag status : Nat) (d : Dev) : (cmdFail tag status d).linkage = d.linkage := by simp [cmdFail]

@[simp] theorem linkage_cmdBad (tag sec status : Nat) (d : Dev) : (cmdBad tag sec status d).linkage = d.linkage := by simp [cmdBad]

@[simp] theorem linkage_meet (tag : Nat) (d : Dev) : (meet tag d).linkage = d.linkage := by
  unfold meet
  split <;> simp

@[simp] theorem linkage_waitDurable (tag need : Nat) (d : Dev) : (waitDurable tag need d).linkage = d.linkage := by simp [waitDurable]

@[simp] theorem linkage_groupCheck (id : Nat) (d : Dev) : (groupCheck id d).linkage = d.linkage := by
  unfold groupCheck
  repeat' split
  all_goals simp

@[simp] theorem linkage_memberDone (c : Cmd) (d : Dev) : (memberDone c d).linkage = d.linkage := by
  unfold memberDone
  split <;> simp

@[simp] theorem linkage_flushCheck (tag : Nat) (d : Dev) : (flushCheck tag d).linkage = d.linkage := by
  unfold flushCheck
  split <;> simp

@[simp] theorem linkage_flushAll (d : Dev) : (flushAll d).linkage = d.linkage := by simp [flushAll]

@[simp] theorem linkage_cmdCheck (tag : Nat) (d : Dev) : (cmdCheck tag d).linkage = d.linkage := by
  unfold cmdCheck
  repeat' split
  all_goals simp

@[simp] theorem linkage_workDone (tag : Nat) (d : Dev) : (workDone tag d).linkage = d.linkage := by simp [workDone]

@[simp] theorem linkage_dropJob (w : WJob) (d : Dev) : (dropJob w d).linkage = d.linkage := by
  unfold dropJob
  dsimp only
  split <;> simp

@[simp] theorem linkage_killJob (w : WJob) (d : Dev) : (killJob w d).linkage = d.linkage := by
  unfold killJob
  repeat' split
  all_goals simp

/-! ### Reads -/

@[simp] theorem linkage_useSlot (ch s : Nat) (d : Dev) : (useSlot ch s d).linkage = d.linkage := by simp [useSlot]

theorem linkage_takeLevel (ch : Nat) (lv : List Int) (d : Dev) {r} (h : takeLevel ch lv d = some r) : r.2.linkage = d.linkage := by
  unfold takeLevel at h
  dsimp only at h
  split at h
  · cases h
    rfl
  · split at h
    · cases h
      simp
    · obtain ⟨a, -, rfl⟩ := Option.map_eq_some_iff.mp h
      simp

@[simp] theorem linkage_updRjob (id : Nat) (f : RJob → RJob) (d : Dev) : (updRjob id f d).linkage = d.linkage := by simp [updRjob]

@[simp] theorem linkage_addRead (own : ROwn) (no cls : Nat) (gran addr glog : Nat) (parity : Bool) (secs : List RSec) (d : Dev) :
    (addRead own no cls gran addr glog parity secs d).2.linkage = d.linkage := by simp [addRead]

@[simp] theorem linkage_putRaw (bs : Bytes) (d : Dev) : (putRaw bs d).linkage = d.linkage := by simp [putRaw]

@[simp] theorem linkage_rawWild (d : Dev) : (rawWild d).1.linkage = d.linkage := by simp [rawWild]

@[simp] theorem linkage_rawDone (status cause : Nat) (d : Dev) : (rawDone status cause d).linkage = d.linkage := by
  unfold rawDone
  repeat' split
  all_goals simp

@[simp] theorem linkage_rawEnd (status cause : Nat) (d : Dev) : (rawEnd status cause d).linkage = d.linkage := by simp [rawEnd]

@[simp] theorem linkage_updTags (r : RJob) (f : Cmd → Cmd) (d : Dev) : (updTags r f d).linkage = d.linkage := by simp [updTags]

@[simp] theorem linkage_slotWait (r : RJob) (d : Dev) : (slotWait r d).linkage = d.linkage := by simp [slotWait]

@[simp] theorem linkage_issueRead (id : Nat) (d : Dev) : (issueRead id d).linkage = d.linkage := by
  unfold issueRead
  split
  · rfl
  · dsimp only
    split
    · simp
    · next h => simpa using linkage_takeLevel _ _ _ h

/-! ### Rings -/

@[simp] theorem linkage_updDec (k : Nat) (f : Dec → Dec) (d : Dev) : (updDec k f d).linkage = d.linkage := by simp [updDec]

@[simp] theorem linkage_updRing (r : Nat) (f : Ring → Ring) (d : Dev) : (updRing r f d).linkage = d.linkage := by simp [updRing]

@[simp] theorem linkage_fetchFailed (r : Nat) (d : Dev) : (fetchFailed r d).linkage = d.linkage := by simp [fetchFailed]

@[simp] theorem linkage_fetchArrived (r : Nat) (ok : Bool) (bs : Bytes) (d : Dev) :
    (fetchArrived r ok bs d).linkage = d.linkage := by simp [fetchArrived]

/-! ### The raw path -/

@[simp] theorem linkage_rawLockUp (d : Dev) : (rawLockUp d).linkage = d.linkage := by simp [rawLockUp]

@[simp] theorem linkage_rawDecoded (q : RawReq) (d : Dev) : (rawDecoded q d).linkage = d.linkage := by simp [rawDecoded]

@[simp] theorem linkage_rawQueue (d : Dev) : (rawQueue d).linkage = d.linkage := by
  unfold rawQueue
  split
  · rfl
  · dsimp only
    split
    · rfl
    · split
      · simp
      · split
        · rfl
        · next d1 h =>
          have hd : d1.linkage = d.linkage := by
            split at h
            · cases h
              rfl
            · obtain ⟨r, hr, rfl⟩ := Option.map_eq_some_iff.mp h
              simpa using linkage_sbAlloc _ _ _ _ hr
          simp [hd]

@[simp] theorem linkage_rawGate (d : Dev) : (rawGate d).linkage = d.linkage := by
  unfold rawGate
  dsimp only
  repeat' split
  all_goals simp

@[simp] theorem linkage_rawTake (d : Dev) : (rawTake d).linkage = d.linkage := by
  unfold rawTake
  split <;> simp

@[simp] theorem linkage_rawFeed (d : Dev) : (rawFeed d).linkage = d.linkage := by simp [rawFeed]

@[simp] theorem linkage_rawData (tag : Nat) (bs : Bytes) (d : Dev) : (rawData tag bs d).linkage = d.linkage := by
  unfold rawData
  split <;> simp

@[simp] theorem linkage_markFailed (n : Nat) (b : Bool) (d : Dev) : (markFailed n b d).linkage = d.linkage := by simp [markFailed]

/-! ### Tender -/

@[simp] theorem linkage_updTch (n : Nat) (f : TCh → TCh) (d : Dev) : (updTch n f d).linkage = d.linkage := by simp [updTch]

@[simp] theorem linkage_putChState (n v : Nat) (d : Dev) : (putChState n v d).linkage = d.linkage := by simp [putChState]

@[simp] theorem linkage_moved (n k : Nat) (d : Dev) : (moved n k d).linkage = d.linkage := by simp [moved]

@[simp] theorem linkage_updTJob (n id : Nat) (f : TJob → TJob) (d : Dev) : (updTJob n id f d).linkage = d.linkage := by simp [updTJob]

@[simp] theorem linkage_badPiece (j : TJob) (p : TPiece) (d : Dev) (r : Nat × Nat) : (badPiece j p d r).linkage = d.linkage := by
  unfold badPiece
  split <;> simp

@[simp] theorem linkage_wildBytes (tag : Nat) (bs : Bytes) (d : Dev) : (wildBytes tag bs d).2.linkage = d.linkage := by
  unfold wildBytes
  split <;> simp

@[simp] theorem linkage_issuePiece (n : Nat) (j : TJob) (p : TPiece) (d : Dev) :
    (issuePiece n j p d).linkage = d.linkage := by simp [issuePiece]

@[simp] theorem linkage_issuePieces (n id : Nat) (ps : List TPiece) (d : Dev) : (issuePieces n id ps d).linkage = d.linkage := by
  induction ps generalizing d with
  | nil => rfl
  | cons p ps ih =>
    unfold issuePieces
    split
    · rfl
    · split
      · rw [ih, linkage_issuePiece]
      · rfl

@[simp] theorem linkage_endJob (n : Nat) (j : TJob) (d : Dev) : (endJob n j d).linkage = d.linkage := by
  unfold endJob
  dsimp only
  split
  · simp
  · split
    · split
      · simp
      · split <;> simp
    · split
      · simp
      · split <;> simp

@[simp] theorem linkage_displace (n : Nat) (d : Dev) : (displace n d).linkage = d.linkage := by simp [displace]

@[simp] theorem linkage_cmdPath (n : Nat) (j : TJob) (d : Dev) : (cmdPath n j d).linkage = d.linkage := by simp [cmdPath]

@[simp] theorem linkage_landJob (id : Nat) (d : Dev) : (landJob id d).linkage = d.linkage := by
  unfold landJob
  split
  · rfl
  · split
    · rfl
    · dsimp only
      split <;> simp

@[simp] theorem linkage_moveHeld (n id : Nat) (d : Dev) : (moveHeld n id d).linkage = d.linkage := by
  unfold moveHeld
  split <;> simp

@[simp] theorem linkage_headMove (n : Nat) (j : TJob) (d : Dev) : (headMove n j d).linkage = d.linkage := by simp [headMove]

@[simp] theorem linkage_headStep (n : Nat) (d : Dev) : (headStep n d).linkage = d.linkage := by
  unfold headStep
  split
  · rfl
  · split
    · rfl
    · split
      · simp
      · split
        · simp
        · split
          · simp
          · split <;> simp

@[simp] theorem linkage_recordBell (n : Nat) (t : TDesc) (status moff : Nat) (irq : Bool) (d : Dev) :
    (recordBell n t status moff irq d).linkage = d.linkage := by simp [recordBell]

@[simp] theorem linkage_chRest (n st : Nat) (d : Dev) : (chRest n st d).linkage = d.linkage := by simp [chRest]

@[simp] theorem linkage_failCh (n status : Nat) (d : Dev) : (failCh n status d).linkage = d.linkage := by
  unfold failCh
  split
  · rfl
  · dsimp only
    rw [linkage_chRest]
    split <;> simp

@[simp] theorem linkage_checkDepart (n : Nat) (d : Dev) : (checkDepart n d).linkage = d.linkage := by
  unfold checkDepart
  dsimp only
  split <;> simp

@[simp] theorem linkage_applyGone (o : Owner) (d : Dev) : (applyGone o d).linkage = d.linkage := by
  unfold applyGone
  split
  · split <;> simp
  · simp
  · simp
  · rfl

@[simp] theorem linkage_tenderLoop (f : Nat) (d : Dev) : (tenderLoop f d).linkage = d.linkage := by
  induction f generalizing d with
  | zero => rfl
  | succ f ih =>
    unfold tenderLoop
    dsimp only
    split <;> simp [ih]

@[simp] theorem linkage_settle (d : Dev) : (settle d).linkage = d.linkage := by simp [settle]

@[simp] theorem linkage_failJob (n id : Nat) (d : Dev) : (failJob n id d).linkage = d.linkage := by simp [failJob]

@[simp] theorem linkage_jobDescArrived (id : Nat) (ok : Bool) (bs : Bytes) (d : Dev) :
    (jobDescArrived id ok bs d).linkage = d.linkage := by
  unfold jobDescArrived
  split <;> simp

@[simp] theorem linkage_jobDataArrived (id sb len : Nat) (ok : Bool) (bs : Bytes) (d : Dev) :
    (jobDataArrived id sb len ok bs d).linkage = d.linkage := by
  unfold jobDataArrived
  split <;> simp

@[simp] theorem linkage_descArrived (n chain : Nat) (addr status : Nat) (bs : Bytes) (d : Dev) :
    (descArrived n chain addr status bs d).linkage = d.linkage := by simp [descArrived]

@[simp] theorem linkage_chDataArrived (n no : Nat) (pos status : Nat) (second : Bool) (bs : Bytes) (d : Dev) :
    (chDataArrived n no pos status second bs d).linkage = d.linkage := by simp [chDataArrived]

@[simp] theorem linkage_lateWrite (p a b : Nat) (d : Dev) : (lateWrite p a b d).linkage = d.linkage := by simp [lateWrite]

@[simp] theorem linkage_mapWbEnd (p : Nat) (o : Outst) (ok : Bool) (ln : Nat) (d : Dev) :
    (mapWbEnd p o ok ln d).linkage = d.linkage := by simp [mapWbEnd]

/-! ### A response arrives -/

@[simp] theorem linkage_deliver (p : Nat) (o : Outst) (st : Nat) (bs : Bytes) (d0 : Dev) :
    (deliver p o st bs d0).linkage = d0.linkage := by
  unfold deliver
  dsimp only
  split
  case h_4 => -- Tender's write: its job, its command or no one fails
    split
    · simp
    · split
      · simp
      · split <;> simp
  case h_13 => -- a delivery of Bell's: its run, if it still goes on
    split
    · split <;> simp
    · simp
  all_goals simp

/-! ### A domain comes to ON -/

@[simp] theorem linkage_startIdent (ch : Nat) (d : Dev) : (startIdent ch d).linkage = d.linkage := by simp [startIdent]

@[simp] theorem linkage_timingReset (ch : Nat) (d : Dev) : (timingReset ch d).linkage = d.linkage := by simp [timingReset]

@[simp] theorem linkage_seqInstall (ch : Nat) (d : Dev) : (seqInstall ch d).linkage = d.linkage := by simp [seqInstall]

@[simp] theorem linkage_seqOn (ch : Nat) (d : Dev) : (seqOn ch d).linkage = d.linkage := by simp [seqOn]

@[simp] theorem linkage_diesCold (ch : Nat) (d : Dev) : (diesCold ch d).linkage = d.linkage := by simp [diesCold]

@[simp] theorem linkage_seqCold (ch : Nat) (d : Dev) : (seqCold ch d).linkage = d.linkage := by simp [seqCold]

@[simp] theorem linkage_seqWarm (ch : Nat) (d : Dev) : (seqWarm ch d).linkage = d.linkage := by simp [seqWarm]

@[simp] theorem linkage_lanternReset (d : Dev) : (lanternReset d).linkage = d.linkage := by simp [lanternReset]

@[simp] theorem linkage_sbErase (g : Nat) (d : Dev) : (sbErase g d).linkage = d.linkage := by simp [sbErase]

@[simp] theorem linkage_linksBack (d : Dev) : (linksBack d).linkage = d.linkage := by simp [linksBack]

end Sys2Proof.Machine

end

section
/-! SUPPORT. The links through a supply's loss and return (02_ports.md R101, R102), and the order of the power-on wakes
(R571, R572). -/

namespace Sys2Proof.Machine

/-- A fold reaches for an element what that element's step brings about and every other step leaves, under what all steps keep. -/
theorem foldl_attains {α : Type} {g : Dev → α → Dev} {I P : Dev → Prop} {a : α} (hI : ∀ x b, I x → I (g x b))
    (hkeep : ∀ x b, I x → P x → P (g x b)) (hself : ∀ x, I x → P (g x a)) (l : List α) (d : Dev) (hd : I d)
    (h : a ∈ l ∨ P d) : P (l.foldl g d) := by
  induction l generalizing d with
  | nil => simpa using h
  | cons b l ih =>
    refine ih _ (hI d b hd) ?_
    rcases h with h | h
    · rcases List.mem_cons.mp h with rfl | hl
      · exact .inr (hself d hd)
      · exact .inl hl
    · exact .inr (hkeep d b hd h)

theorem Keep.tele {d0 d : Dev} (h : Keep d0 d) : d.tele = d0.tele := by
  obtain ⟨-, -, -, htele, -⟩ := h.control
  exact htele

/-! ### A link falls and rises -/

theorem linkage_linkDown (p st : Nat) (d : Dev) : (linkDown p st d).linkage = (updPort p (Port.fallen st) d).linkage := by
  rw [linkDown_eq, linkage_foldl fun x o => linkage_deliver p o 2 [] x]
  exact linkage_put ..

theorem linkage_linkUp {p : Nat} {d : Dev} (h : d.tele.vdd = true) : (linkUp p d).linkage = (linkRisen p d).linkage := by
  rw [linkUp_of_vdd h, linkage_settle, linkage_pump]

theorem wire_linkDown_self (p st : Nat) (d : Dev) : (port (linkDown p st d) p).wire = (false, false, decide (st = 3)) := by
  rw [wire_of_linkage (linkage_linkDown p st d), port_updPort_self]
  rfl

theorem wire_linkDown_ne {p q st : Nat} {d : Dev} (h : q ≠ p) : (port (linkDown p st d) q).wire = (port d q).wire := by
  rw [wire_of_linkage (linkage_linkDown p st d), port_updPort_ne _ _ h]

theorem wire_linkUp_self {p : Nat} {d : Dev} (h : d.tele.vdd = true) :
    (port (linkUp p d) p).wire = (true, (port d p).xoff, false) := by
  rw [wire_of_linkage (linkage_linkUp h), linkRisen, port_put, port_updPort_self]
  rfl

theorem wire_linkUp_ne {p q : Nat} {d : Dev} (h : d.tele.vdd = true) (hq : q ≠ p) :
    (port (linkUp p d) q).wire = (port d q).wire := by
  rw [wire_of_linkage (linkage_linkUp h), linkRisen, port_put, port_updPort_ne _ _ hq]

theorem isOn_linkUp (p n : Nat) (d : Dev) : isOn (linkUp p d) n = isOn d n := by
  cases h : d.tele.vdd with
  | false => rw [linkUp_of_no_vdd h]
  | true =>
    rw [isOn_of_linkage (linkage_linkUp h)]
    rfl

theorem rst_linkUp (p : Nat) (d : Dev) : (linkUp p d).rst = d.rst := by
  cases h : d.tele.vdd with
  | false => rw [linkUp_of_no_vdd h]
  | true =>
    rw [rst_of_linkage (linkage_linkUp h)]
    rfl

/-! ### VDD goes out of range -/

/-- A port has no link and holds no sender off. -/
def LinkDead (p : Nat) (d : Dev) : Prop := (port d p).linkUp = false ∧ (port d p).xoff = false

theorem linkDead_of_wire {p : Nat} {x : Dev} {b : Bool} (h : (port x p).wire = (false, false, b)) : LinkDead p x :=
  ⟨congrArg (·.1) h, congrArg (·.2.1) h⟩

theorem wire_congr {x y : Port} (h : x.wire = y.wire) : x.linkUp = y.linkUp ∧ x.xoff = y.xoff ∧ x.framing = y.framing :=
  ⟨congrArg (·.1) h, congrArg (·.2.1) h, congrArg (·.2.2) h⟩

/-- One port's part in the loss of VDD. -/
def supplyOutPort (x : Dev) (p : Nat) : Dev :=
  updPort p (fun y => { y with xoff := false }) (if (port x p).linkUp then linkDown p 0 x else x)

theorem supplyOut_vdd (d : Dev) :
    supplyOut .vdd d = (List.range d.cfg.ports).foldl supplyOutPort { d with tele := { d.tele with vdd := false } } := rfl

theorem linkDead_supplyOutPort_self (p : Nat) (x : Dev) : LinkDead p (supplyOutPort x p) := by
  refine ⟨?_, by rw [supplyOutPort, port_updPort_self]⟩
  rw [supplyOutPort, port_updPort_self]
  split
  · exact (linkDead_of_wire (wire_linkDown_self p 0 x)).1
  · next h => simpa using h

theorem linkDead_supplyOutPort {p q : Nat} {x : Dev} (h : LinkDead p x) : LinkDead p (supplyOutPort x q) := by
  rcases eq_or_ne p q with rfl | hq
  · exact linkDead_supplyOutPort_self p x
  · unfold LinkDead
    rw [supplyOutPort, port_updPort_ne _ _ hq]
    split
    · obtain ⟨hup, hxoff, -⟩ := wire_congr (wire_linkDown_ne (st := 0) (d := x) hq)
      exact ⟨hup.trans h.1, hxoff.trans h.2⟩
    · exact h

theorem keep_supplyOutPort (p : Nat) (x : Dev) : Keep x (supplyOutPort x p) := by
  unfold supplyOutPort
  split
  · exact keep_updPort (keep_linkDown (Keep.refl x))
  · exact keep_updPort (Keep.refl x)

theorem supplyOut_vdd_spec (d : Dev) : (supplyOut .vdd d).tele = { d.tele with vdd := false } ∧
    ∀ p, p < d.cfg.ports → LinkDead p (supplyOut .vdd d) := by
  rw [supplyOut_vdd]
  refine ⟨?_, fun p hp => ?_⟩
  · exact foldl_keeps Dev.tele (f := supplyOutPort) (fun x p => (keep_supplyOutPort p x).tele) _ _
  · exact foldl_attains (g := supplyOutPort) (I := fun _ => True) (P := LinkDead p) (fun _ _ _ => trivial) (fun _ _ _ => linkDead_supplyOutPort)
      (fun x _ => linkDead_supplyOutPort_self p x) _ _ trivial (.inl (List.mem_range.mpr hp))

/-! ### VDD comes back -/

/-- One port's part in the return of the links. -/
def linksUpPort (x : Dev) (p : Nat) : Dev :=
  if isOn x (domPort x.cfg p) ∧ ¬ (port x p).linkUp ∧ ¬ (port x p).framing then linkUp p x else x

theorem linksUp_eq (d : Dev) : linksUp d = (List.range d.cfg.ports).foldl linksUpPort d := rfl

theorem rst_linksUp (d : Dev) : (linksUp d).rst = d.rst := by
  refine foldl_keeps Dev.rst (fun x p => ?_) _ _
  split
  · exact rst_linkUp p x
  · rfl

/-- A port may have its link: VDD is in range, its domain is ON, and no restore is awaited. -/
def LinkMay (p : Nat) (d : Dev) : Prop :=
  d.tele.vdd = true ∧ isOn d (domPort d.cfg p) = true ∧ (port d p).framing = false

theorem linkMay_linksUpPort {p q : Nat} {x : Dev} (h : LinkMay p x) : LinkMay p (linksUpPort x q) := by
  obtain ⟨hvdd, hon, hfr⟩ := h
  unfold linksUpPort
  split
  · obtain ⟨hcfg, -, -, htele, -⟩ := (keep_linkUp (p := q) (Keep.refl x)).control
    refine ⟨by rw [htele, hvdd], by rw [isOn_linkUp, hcfg, hon], ?_⟩
    rcases eq_or_ne p q with rfl | hq
    · exact congrArg (·.2.2) (wire_linkUp_self hvdd)
    · exact (wire_congr (wire_linkUp_ne hvdd hq)).2.2.trans hfr
  · exact ⟨hvdd, hon, hfr⟩

theorem linkUp_linksUpPort {p q : Nat} {x : Dev} (h : LinkMay p x) (hup : (port x p).linkUp = true) :
    (port (linksUpPort x q) p).linkUp = true := by
  unfold linksUpPort
  split
  · rcases eq_or_ne p q with rfl | hq
    · exact congrArg (·.1) (wire_linkUp_self h.1)
    · exact (wire_congr (wire_linkUp_ne h.1 hq)).1.trans hup
  · exact hup

theorem linkUp_linksUpPort_self {p : Nat} {x : Dev} (h : LinkMay p x) : (port (linksUpPort x p) p).linkUp = true := by
  obtain ⟨hvdd, hon, hfr⟩ := h
  unfold linksUpPort
  split
  · exact congrArg (·.1) (wire_linkUp_self hvdd)
  · next hno => simpa [hon, hfr] using hno

theorem linkUp_linksUp {p : Nat} {d : Dev} (hp : p < d.cfg.ports) (h : LinkMay p d) : (port (linksUp d) p).linkUp = true :=
  foldl_attains (g := linksUpPort) (P := fun x => (port x p).linkUp = true) (fun _ _ => linkMay_linksUpPort) (fun _ _ => linkUp_linksUpPort)
    (fun _ => linkUp_linksUpPort_self) _ d h (.inl (List.mem_range.mpr hp))

theorem supplyIn_vdd_spec (d : Dev) : (supplyIn .vdd d).tele = { d.tele with vdd := true } ∧
    ∀ p, p < d.cfg.ports → isOn d (domPort d.cfg p) = true → (port d p).framing = false →
      (port (supplyIn .vdd d) p).linkUp = true := by
  have hkicks : supplyIn .vdd d = (List.range d.cfg.channels).foldl (fun x ch => kick ch x)
      (linksUp { d with tele := { d.tele with vdd := true } }) := rfl
  rw [hkicks]
  refine ⟨?_, fun p hp hon hfr => ?_⟩
  · rw [foldl_keeps Dev.tele fun x ch => (keep_kick (ch := ch) (Keep.refl x)).tele]
    exact (keep_linksUp (Keep.refl _)).tele
  · have hup := linkUp_linksUp (d := { d with tele := { d.tele with vdd := true } }) hp ⟨rfl, hon, hfr⟩
    exact (wire_congr (wire_of_linkage (linkage_foldl (fun x ch => linkage_kick ch x) _ _) p)).1.trans hup

/-! ### MU_READY -/

/-- A domain has been told to come to ON. -/
def WakesUp (x : Dom) : Prop := x.st = .waking ∧ x.tgt = .on ∧ x.pcReq = 3

theorem wakesUp_wake (n m : Nat) (d : Dev) : WakesUp (dom (wake n m d) n) := by
  rw [dom, wake, updDom, tabGet_tabSet_self]
  exact ⟨rfl, rfl, rfl⟩

theorem dom_wake_ne {n k m : Nat} {d : Dev} (h : k ≠ n) : dom (wake n m d) k = dom d k := by
  rw [dom, wake, updDom, tabGet_tabSet_ne _ _ _ _ h, dom]

theorem wake_only (n m : Nat) (d : Dev) : wake n m d = { d with doms := (wake n m d).doms } := rfl

/-- The next k domains of the power-on queue wake, in order, and nothing else changes. -/
theorem nextPower_iterate (k : Nat) : ∀ d : Dev, (nextPower^[k] d).pwrq = d.pwrq.drop k ∧
    (∀ n ∈ d.pwrq.take k, WakesUp (dom (nextPower^[k] d) n)) ∧
    (∀ n, n ∉ d.pwrq.take k → dom (nextPower^[k] d) n = dom d n) ∧
    nextPower^[k] d = { d with doms := (nextPower^[k] d).doms, pwrq := (nextPower^[k] d).pwrq } := by
  induction k with
  | zero => exact fun d => ⟨rfl, by simp, fun _ _ => rfl, rfl⟩
  | succ k ih =>
    intro d
    rw [Function.iterate_succ_apply]
    cases hq : d.pwrq with
    | nil =>
      have hd : nextPower d = d := by
        unfold nextPower
        rw [hq]
      have h := ih d
      rw [hq] at h
      simpa [hd] using h
    | cons m t =>
      have hd : nextPower d = wake m 0 { d with pwrq := t } := by
        unfold nextPower
        rw [hq]
      obtain ⟨hpwrq, hwake, hother, honly⟩ := ih (nextPower d)
      have hpt : (nextPower d).pwrq = t := by
        rw [hd]
        rfl
      rw [hpt] at hpwrq hwake hother
      refine ⟨hpwrq, fun n hn => ?_, fun n hn => ?_, ?_⟩
      · by_cases ht : n ∈ t.take k
        · exact hwake n ht
        · have hnm : n = m := by simpa [ht] using hn
          rw [hother n ht, hd, hnm]
          exact wakesUp_wake ..
      · obtain ⟨hnm, ht⟩ : n ≠ m ∧ n ∉ t.take k := by simpa using hn
        rw [hother n ht, hd, dom_wake_ne hnm]
        rfl
      · rw [honly, hd, wake_only]

theorem muReady_of_ready {d : Dev} (h : d.doms ≠ [] ∨ d.pwrq ≠ []) : muReady d = d := by
  unfold muReady
  rw [if_pos (by simpa using h)]

theorem muReady_of_off {d : Dev} (hd : d.doms = []) (hq : d.pwrq = []) :
    muReady d = nextPower^[od d 0x2000 9] { d with pwrq := powerOrder d.cfg } := by
  unfold muReady
  rw [if_neg (by simp [hd, hq])]
  simp [List.foldl_const]

end Sys2Proof.Machine

end

section
/-! SUPPORT. The block reset (02_ports.md R573 to R580): what it takes, what it leaves when it has drained, and its end; and the
identification of a channel (R101). -/

namespace Sys2Proof.Machine

/-! ### A reset is taken -/

/-- The block as a reset begins, before its units stop. -/
def rstBegun (k : RstKind) (cause : Nat) (d : Dev) : Dev :=
  put 0x2000 6 cause (put 0x2000 0x0B 1 { d with
    rst := { d.rst with kind := some k, cause := cause, held := none }, cmds := [], groups := [],
    rings := d.rings.map (fun r => (r.1, { r.2 with
      fetched := [], failed := false, starved := false, cqWait := false, discard := decide (0 < r.2.fetching) })) })

/-- The units stop. -/
def rstStop (d1 : Dev) : Dev :=
  let d2 := updClasp (fun c => { c with ckpt := none, ckptTrig := false, groupQ := [], want := false, erases := [] })
    (updLan (fun l => { l with relocs := [], relWant := [], rjobs := [], rebs := [] }) (tenderStop d1))
  { d2 with rawp := { d2.rawp with todo := [] }, therm := { d2.therm with queued := [] } }

/-- The dies' queues are discarded, and the channels go on. -/
def rstChannels (d0 d2 : Dev) : Dev :=
  (List.range d0.cfg.channels).foldl (fun x ch => kick ch (updChan ch (fun c => { c with raw := [], inl := [] }) x))
    ((allDies d0.cfg).foldl (fun x n => rstDiscard n x) d2)

theorem rstBegin_eq (k : RstKind) (cause : Nat) (d : Dev) : rstBegin k cause d = rstChannels d (rstStop (rstBegun k cause d)) := rfl

theorem linkage_tenderStop (d : Dev) : (tenderStop d).linkage = d.linkage := by simp [tenderStop]

theorem linkage_rstStop (d : Dev) : (rstStop d).linkage = d.linkage := by simp [rstStop, linkage_tenderStop]

theorem linkage_rstChannels (d0 d : Dev) : (rstChannels d0 d).linkage = d.linkage := by simp [rstChannels, rstDiscard]

theorem keep_rstStop (d : Dev) : Keep d (rstStop d) := by
  have h : Keep d (updClasp (fun c => { c with ckpt := none, ckptTrig := false, groupQ := [], want := false, erases := [] })
      (updLan (fun l => { l with relocs := [], relWant := [], rjobs := [], rebs := [] }) (tenderStop d))) :=
    keep_updClasp (keep_updLan (keep_tenderStop (Keep.refl d)) fun _ => rfl)
  exact keep_mk h rfl

theorem keep_rstChannels (d0 d : Dev) : Keep d (rstChannels d0 d) :=
  keep_foldl _ (keep_foldl _ (Keep.refl d) fun _ _ => keep_rstDiscard) fun _ _ h => keep_kick (keep_updChan h)

theorem rstBegin_spec (k : RstKind) (cause : Nat) (d : Dev) : (rstBegin k cause d).linkage = (rstBegun k cause d).linkage ∧
    Keep (rstBegun k cause d) (rstBegin k cause d) := by
  rw [rstBegin_eq]
  exact ⟨(linkage_rstChannels d _).trans (linkage_rstStop _), (keep_rstStop _).trans (keep_rstChannels d _)⟩

/-- R573 to R575: WRST takes a block reset, whatever runs. -/
theorem rstTake_block_spec (d : Dev) : blockResetTaken 1 d (rstTake .block 1 d) := by
  have hcause : ∀ x : Dev, od (put 0x2000 6 1 x) 0x2000 6 = 1 := fun x => od_put_self ..
  unfold blockResetTaken rstTake
  split
  · split
    · exact ⟨rfl, rfl⟩
    · exact ⟨rfl, rfl⟩
  · cases hk : d.rst.kind with
    | none =>
      obtain ⟨hl, hkeep⟩ := rstBegin_spec .block 1 d
      have hod : ∀ j, j < 256 → od (rstBegin .block 1 d) 0x2000 j = od (rstBegun .block 1 d) 0x2000 j :=
        fun j hj => hkeep.glob _ (.inl (by unfold ek; omega))
      refine ⟨(hod 6 (by decide)).trans (hcause _), congrArg Rst.kind (rst_of_linkage hl), fun _ => ⟨?_, ?_, ?_⟩⟩
      · dsimp only
        rw [hod 0x0B (by decide), rstBegun, od_put_ne _ _ (by decide), od_put_self]
        rfl
      · exact cmds_eq_nil_of_linkage hl rfl
      · exact groups_eq_nil_of_linkage hl rfl
    | some r =>
      cases r with
      | soft => exact ⟨hcause _, rfl, fun h => by cases h⟩
      | block => exact ⟨hcause _, hk, fun h => by cases h⟩

/-! ### A reset has drained -/

/-- What the later steps of a drained reset leave: the ports, the reset, the telemetry, the rings, Bell's sources, the decoders, the raw
path, and the states of Lantern and of the flush. -/
def Dev.drained (d : Dev) : (Tab Port × Rst × Tele) × (Tab Ring × Tab Src × Tab Dec × RawPath) × (Nat × Nat) :=
  ((d.ports, d.rst, d.tele), (d.rings, d.srcs, d.decs, d.rawp), (getK d (ek 0x2100 8), getK d (ek 0x2400 1)))

/-- An entry other than Lantern's and the flush's state. -/
abbrev NotState (i j : Nat) : Prop := ek 0x2100 8 ≠ ek i j ∧ ek 0x2400 1 ≠ ek i j

theorem notState_of_lt {i : Nat} (j : Nat) (h : 0x2400 < i) : NotState i j := by
  unfold NotState ek
  omega

theorem drained_put {i j : Nat} (v : Nat) (d : Dev) (h : NotState i j) : (put i j v d).drained = d.drained := by
  unfold Dev.drained
  rw [getK_put_ne _ _ h.1, getK_put_ne _ _ h.2]
  rfl

theorem drained_putB (i j : Nat) (v : Bytes) (d : Dev) : (putB i j v d).drained = d.drained := rfl

theorem drained_cnt {i j : Nat} (d : Dev) (h : NotState i j) : (cnt i j d).drained = d.drained := by
  obtain ⟨hkeep, honly⟩ := (cnt_spec i j d).2
  unfold Dev.drained
  rw [hkeep _ (by simpa using h.1), hkeep _ (by simpa using h.2), honly]

theorem drained_foldl {α : Type} {f : Dev → α → Dev} (hf : ∀ x a, (f x a).drained = x.drained) (l : List α) (d : Dev) :
    (l.foldl f d).drained = d.drained := foldl_keeps Dev.drained hf l d

theorem drained_odReset (block : Bool) (d : Dev) : (odReset block d).drained = d.drained := by
  have hrings : ∀ (x : Dev) (r : Nat), (put (rgIdx r 1) 1 0 (put (rgIdx r 0) 1 0 x)).drained = x.drained := fun x r => by
    rw [drained_put _ _ (notState_of_lt _ (by unfold rgIdx; omega)), drained_put _ _ (notState_of_lt _ (by unfold rgIdx; omega))]
  have hflush : ∀ (x : Dev) (i : Nat), (put 0x2404 i 0 x).drained = x.drained :=
    fun x i => drained_put _ _ (notState_of_lt i (by decide))
  unfold odReset
  dsimp only
  split <;> simp (disch := decide) only [drained_put, drained_putB, drained_foldl hrings, drained_foldl hflush]

theorem drained_keeperReset (block : Bool) (d : Dev) : (keeperReset block d).drained = d.drained := by
  have habort : ∀ (n t m c k : Nat) (x : Dev), (abortReq n t m c k x).drained = x.drained := fun n t m c k x => by
    rw [abortReq, kpPut, drained_put _ _ (notState_of_lt _ (by unfold kpIdx; omega)), drained_cnt _ (by decide), kpCnt,
      drained_cnt _ (notState_of_lt _ (by unfold kpIdx; omega))]
  have hdom : ∀ (n : Nat) (f : Dom → Dom) (x : Dev), (updDom n f x).drained = x.drained := fun _ _ _ => rfl
  refine drained_foldl (fun x e => ?_) _ _
  split <;> split <;> simp only [habort, hdom]

theorem drained_lanternReset (d : Dev) :
    (lanternReset d).drained = ((d.ports, d.rst, d.tele), (d.rings, d.srcs, d.decs, d.rawp), (0, 0)) := by
  have h8 : getK (lanternReset d) (ek 0x2100 8) = 0 := by
    rw [lanternReset, getK_put_ne _ _ (by decide)]
    exact (od_put_self ..).trans (Nat.zero_mod _)
  have h1 : getK (lanternReset d) (ek 0x2400 1) = 0 := (od_put_self ..).trans (Nat.zero_mod _)
  unfold Dev.drained
  rw [h8, h1]
  rfl

theorem drained_bellReset (d : Dev) : (bellReset d).drained = { d with srcs := [] }.drained := by
  have htgts : ∀ (x : Dev) (t : Nat), (put (0x2610 + t) 0x0B 0 x).drained = x.drained :=
    fun x t => drained_put _ _ (notState_of_lt _ (by omega))
  unfold bellReset
  dsimp only
  rw [drained_foldl htgts]
  rfl

theorem drained_linksLost (d : Dev) : (linksLost d).drained = d.drained :=
  drained_foldl (fun x n => by split <;> rfl) _ _

theorem drained_sbErase (g : Nat) (d : Dev) : (sbErase g d).drained = d.drained := rfl

theorem drained_chanBlock (ch : Nat) (d : Dev) : (chanBlock ch d).drained = d.drained := rfl

theorem drained_chanSoft (ch : Nat) (d : Dev) : (chanSoft ch d).drained = d.drained := by
  unfold chanSoft
  dsimp only
  split
  · rfl
  · refine (drained_foldl (fun x k => ?_) _ _).trans rfl
    rfl

theorem drained_loaderReset (d : Dev) : (loaderReset d).drained = d.drained := by
  have hcopy : ∀ (v w : Nat → Nat) (x : Dev) (i : Nat),
      (put 0x6003 (i + 1) (v i) (put 0x6002 (i + 1) (w i) x)).drained = x.drained := fun v w x i => by
    rw [drained_put _ _ (notState_of_lt _ (by decide)), drained_put _ _ (notState_of_lt _ (by decide))]
  unfold loaderReset showCopy
  simp (disch := decide) only [drained_put, drained_putB, drained_foldl (hcopy _ _)]
  rfl

/-- The block when its links are abandoned and its units reset. -/
def rstUnits (block : Bool) (d : Dev) : Dev :=
  keeperReset block (odReset block (bellReset (lanternReset ((List.range d.cfg.ports).foldl (fun x p => linkAbandon p x) d))))

/-- What a drained reset clears besides. -/
def rstClear (d2 : Dev) : Dev :=
  { d2 with
    rawp := RawPath.reset, rings := [], decs := [], rrRing := [], tele := { d2.tele with pf := false },
    dbq := d2.dbq.filter (fun i => match i with
                | .flt _ => true
                | .memlog _ => true
                | _ => false),
    rst := { d2.rst with chans := [] } }

/-- The Necklace, the Staging Buffer, the channels and the loader of a drained reset. -/
def rstDomains (block : Bool) (c : Params) (d : Dev) : Dev :=
  let d3 := (List.range (c.sbMib / 2)).foldl (fun x g => if isOn x (domSb x.cfg g) then sbErase g x else x) (linksLost d)
  let d4 := (List.range c.channels).foldl (fun x ch => if block then chanBlock ch x else chanSoft ch x) d3
  if block then loaderReset d4 else d4

theorem drained_rstDomains (block : Bool) (c : Params) (d : Dev) : (rstDomains block c d).drained = d.drained := by
  have hsb : ∀ (x : Dev) (g : Nat), (if isOn x (domSb x.cfg g) then sbErase g x else x).drained = x.drained :=
    fun x g => by split <;> rfl
  have hch : ∀ (x : Dev) (ch : Nat), (if block then chanBlock ch x else chanSoft ch x).drained = x.drained := fun x ch => by
    split
    · exact drained_chanBlock ch x
    · exact drained_chanSoft ch x
  have hload : ∀ x : Dev, (if block then loaderReset x else x).drained = x.drained := fun x => by
    split
    · exact drained_loaderReset x
    · rfl
  unfold rstDomains
  dsimp only
  rw [hload, drained_foldl hch, drained_foldl hsb, drained_linksLost]

theorem port_abandoned {p : Nat} {l : List Nat} (d : Dev) (h : p ∈ l) : port (l.foldl (fun x q => linkAbandon q x) d) p = Port.reset := by
  have hself : ∀ x, port (linkAbandon p x) p = Port.reset := fun x => by rw [linkAbandon, port_put, port_updPort_self]
  refine foldl_attains (I := fun _ => True) (P := fun x => port x p = Port.reset) (g := fun x q => linkAbandon q x)
    (fun _ _ _ => trivial) (fun x q _ hx => ?_) (fun x _ => hself x) l d trivial (.inl h)
  rcases eq_or_ne p q with rfl | hq
  · exact hself x
  · rw [linkAbandon, port_put, port_updPort_ne _ _ hq, hx]

theorem resetDrained_of_ready {d : Dev} {k : RstKind} (hk : d.rst.kind = some k) (hst : od d 0x2000 0x0B = 1)
    (hd : diesEnded d (allDies d.cfg) = true) (hc : d.clasp.commits = []) : resetDrained d =
      put 0x2000 0x0B 2 (put 0x2000 5 0 (rstDomains (k == .block) d.cfg (rstClear (rstUnits (k == .block) d)))) := by
  unfold resetDrained
  rw [hk]
  dsimp only
  rw [if_neg (by simp [hst, hd, hc])]
  rfl

theorem resetDrained_of_not_ready {d : Dev} (h : d.rst.kind = none ∨ od d 0x2000 0x0B ≠ 1) : resetDrained d = d := by
  unfold resetDrained
  split
  · rfl
  · next k hk =>
    have hst : od d 0x2000 0x0B ≠ 1 := h.resolve_left (by simp [hk])
    dsimp only
    rw [if_pos (.inl hst)]

theorem drained_srcs (l : Tab Src) (d : Dev) :
    { d with srcs := l }.drained = (d.drained.1, (d.drained.2.1.1, l, d.drained.2.1.2.2), d.drained.2.2) := rfl

theorem drained_rstClear (d : Dev) : (rstClear d).drained =
    ((d.ports, { d.rst with chans := [] }, { d.tele with pf := false }), ([], d.srcs, [], RawPath.reset), d.drained.2.2) := rfl

/-- The links are abandoned, Bell and Lantern reset, and the dictionary and Keeper with them. -/
theorem drained_rstUnits (block : Bool) (d : Dev) : ∃ d1 : Dev, (rstUnits block d).drained =
    ((d1.ports, d.rst, d.tele), (d.rings, [], d.decs, d.rawp), (0, 0)) ∧ ∀ p, p < d.cfg.ports → port d1 p = Port.reset := by
  have hrest := foldl_keeps (fun x => (x.rst, x.tele, x.rings, x.decs, x.rawp)) (f := fun x p => linkAbandon p x)
    (fun _ _ => rfl) (List.range d.cfg.ports) d
  refine ⟨(List.range d.cfg.ports).foldl (fun x p => linkAbandon p x) d, ?_, fun p hp => port_abandoned d (List.mem_range.mpr hp)⟩
  unfold rstUnits
  generalize (List.range d.cfg.ports).foldl (fun x p => linkAbandon p x) d = d1 at hrest ⊢
  simp only [Prod.mk.injEq] at hrest
  obtain ⟨hrst, htele, hrings, hdecs, hrawp⟩ := hrest
  rw [drained_keeperReset, drained_odReset, drained_bellReset, drained_srcs, drained_lanternReset, hrst, htele, hrings, hdecs, hrawp]

/-- What a drained reset leaves (R575, R579). -/
theorem resetDrained_spec {d : Dev} {k : RstKind} (hk : d.rst.kind = some k) (hst : od d 0x2000 0x0B = 1)
    (hd : diesEnded d (allDies d.cfg) = true) (hc : d.clasp.commits = []) :
    od (resetDrained d) 0x2000 0x0B = 2 ∧ od (resetDrained d) 0x2000 5 = 0 ∧ od (resetDrained d) 0x2100 8 = 0 ∧
    od (resetDrained d) 0x2400 1 = 0 ∧ (∀ p, p < d.cfg.ports → port (resetDrained d) p = Port.reset) ∧
    (resetDrained d).rings = [] ∧ (resetDrained d).srcs = [] ∧ (resetDrained d).decs = [] ∧
    (resetDrained d).rawp = RawPath.reset ∧ (resetDrained d).tele = { d.tele with pf := false } ∧
    (resetDrained d).rst.kind = some k := by
  obtain ⟨d1, hunits, hports⟩ := drained_rstUnits (k == .block) d
  have hx : (resetDrained d).drained = ((d1.ports, { d.rst with chans := [] }, { d.tele with pf := false }),
      ([], [], [], RawPath.reset), (0, 0)) := by
    rw [resetDrained_of_ready hk hst hd hc, drained_put _ _ (by decide), drained_put _ _ (by decide), drained_rstDomains,
      drained_rstClear]
    simp only [Dev.drained, Prod.mk.injEq] at hunits ⊢
    obtain ⟨⟨hp, hrst, htele⟩, ⟨-, hsrcs, -, -⟩, h8, h1⟩ := hunits
    exact ⟨⟨hp, by rw [hrst], by rw [htele]⟩, by simp [hsrcs], h8, h1⟩
  have hB : od (resetDrained d) 0x2000 0x0B = 2 := by
    rw [resetDrained_of_ready hk hst hd hc]
    exact od_put_self ..
  have h5 : od (resetDrained d) 0x2000 5 = 0 := by
    rw [resetDrained_of_ready hk hst hd hc, od_put_ne _ _ (by decide), od_put_self]
    exact Nat.zero_mod _
  simp only [Dev.drained, Prod.mk.injEq] at hx
  obtain ⟨⟨hp, hrst, htele⟩, ⟨hrings, hsrcs, hdecs, hrawp⟩, h8, h1⟩ := hx
  refine ⟨hB, h5, h8, h1, fun p hlt => ?_, hrings, hsrcs, hdecs, hrawp, htele, by rw [hrst]; exact hk⟩
  rw [port_of_ports hp, hports p hlt]

/-! ### A reset ends -/

theorem rst_domOn (n : Nat) (cold : Bool) (d : Dev) : (domOn n cold d).rst = d.rst := by
  unfold domOn
  split
  · refine rst_of_linkage ?_
    dsimp only
    rw [linkage_kick]
    repeat' split
    all_goals simp
  · split <;> rfl
  · split <;> rfl
  · exact rst_of_linkage (by simp)
  · split <;> rfl
  · rfl
  · exact rst_of_linkage (by split <;> simp)
  · exact rst_linkUp ..
  · exact rst_of_linkage (by split <;> simp)

theorem rst_chansBack (block : Bool) (d : Dev) : (chansBack block d).rst = d.rst := by
  unfold chansBack
  split
  · refine foldl_keeps Dev.rst (fun x n => ?_) _ _
    split
    · exact rst_domOn ..
    · rfl
  · exact rst_of_linkage (by simp)

/-- The block at the end of a reset, before its links and channels come back. -/
def rstEnded (d : Dev) : Dev :=
  put 0x2000 8 d.ts (put 0x2000 0x0B 0 (put 0x2000 1 0 (cnt 0x2000 7
    { d with rst := { kind := none, cause := 0, held := none, chans := [] } })))

theorem resetDone_of_drained {d : Dev} {k : RstKind} (hk : d.rst.kind = some k) (hst : od d 0x2000 0x0B = 2) :
    resetDone d = chansBack (k == .block) (linksUp (linksBack (rstEnded d))) := by
  unfold resetDone
  rw [hk]
  dsimp only
  rw [if_neg (by simp [hst])]
  rfl

theorem resetDone_of_not_drained {d : Dev} (h : d.rst.kind = none ∨ od d 0x2000 0x0B ≠ 2) : resetDone d = d := by
  unfold resetDone
  split
  · rfl
  · next k hk =>
    have hst : od d 0x2000 0x0B ≠ 2 := h.resolve_left (by simp [hk])
    rw [if_pos hst]

theorem rst_rstEnded (d : Dev) : (rstEnded d).rst = { kind := none, cause := 0, held := none, chans := [] } := by
  have h : (rstEnded d).linkage = { d with rst := { kind := none, cause := 0, held := none, chans := [] } }.linkage := by
    simp [rstEnded]
  exact rst_of_linkage h

theorem rstEnded_spec (d : Dev) : od (rstEnded d) 0x2000 1 = 0 ∧ od (rstEnded d) 0x2000 0x0B = 0 ∧
    od (rstEnded d) 0x2000 8 = d.ts % 2 ^ 64 ∧ Counted d (rstEnded d) 0x2000 7 1 := by
  refine ⟨?_, ?_, od_put_self .., ?_⟩
  · rw [rstEnded, od_put_ne _ _ (by decide), od_put_ne _ _ (by decide), od_put_self]
    exact Nat.zero_mod _
  · rw [rstEnded, od_put_ne _ _ (by decide), od_put_self]
    exact Nat.zero_mod _
  · have h7 := (cnt_spec 0x2000 7 { d with rst := { kind := none, cause := 0, held := none, chans := [] } }).1
    unfold Counted at h7 ⊢
    rw [rstEnded, od_put_ne _ _ (by decide), od_put_ne _ _ (by decide), od_put_ne _ _ (by decide)]
    exact h7

/-- What the end of a reset leaves (R580): the links and the channels that come back touch none of it. -/
theorem resetDone_spec {d : Dev} {k : RstKind} (hk : d.rst.kind = some k) (hst : od d 0x2000 0x0B = 2) :
    od (resetDone d) 0x2000 1 = 0 ∧ od (resetDone d) 0x2000 0x0B = 0 ∧ od (resetDone d) 0x2000 8 = d.ts % 2 ^ 64 ∧
    Counted d (resetDone d) 0x2000 7 1 ∧ (resetDone d).rst.kind = none ∧ (resetDone d).rst.chans = [] := by
  rw [resetDone_of_drained hk hst]
  obtain ⟨h1, hB, h8, h7⟩ := rstEnded_spec d
  have hkeep : Keep (rstEnded d) (chansBack (k == .block) (linksUp (linksBack (rstEnded d)))) :=
    keep_chansBack (keep_linksUp (keep_linksBack (Keep.refl _)))
  have hrst : (chansBack (k == .block) (linksUp (linksBack (rstEnded d)))).rst = (rstEnded d).rst := by
    rw [rst_chansBack, rst_linksUp, rst_of_linkage (linkage_linksBack _)]
  generalize chansBack (k == .block) (linksUp (linksBack (rstEnded d))) = x at hkeep hrst ⊢
  have hod : ∀ j, j < 256 → od x 0x2000 j = od (rstEnded d) 0x2000 j := fun j hj => hkeep.glob _ (.inl (by unfold ek; omega))
  refine ⟨(hod 1 (by decide)).trans h1, (hod 0x0B (by decide)).trans hB, (hod 8 (by decide)).trans h8, ?_, by rw [hrst, rst_rstEnded],
    by rw [hrst, rst_rstEnded]⟩
  unfold Counted at h7 ⊢
  rw [hod 7 (by decide), h7]

/-! ### A channel is identified -/

theorem chan_updChan_self (ch : Nat) (f : Chan → Chan) (d : Dev) : chan (updChan ch f d) ch = f (chan d ch) := by
  simp [chan, updChan]

theorem chan_put (i j v ch : Nat) (d : Dev) : chan (put i j v d) ch = chan d ch := rfl

/-- The block after a channel's identification, before the channel goes on. -/
def identified (ch : Nat) (tgts : List Nat) (d : Dev) : Dev :=
  let d1 := updChan ch (fun c => { c with idTgts := [], identified := true, state := if c.state = 3 then 1 else c.state }) d
  let d2 := idSummary ch d1
  if (chan d ch).state == 3 then put 0x2000 5 (setBit (od d2 0x2000 5) ch false) d2
    else tgts.foldl (fun x t => wantTrain ch t x) d2

theorem identDone_eq (ch : Nat) (tgts : List Nat) (d : Dev) : identDone ch tgts d = kick ch (identified ch tgts d) := rfl

/-- What of a channel's record says that it is identified. -/
def Chan.known (c : Chan) : List Nat × Bool × Nat := (c.idTgts, c.identified, c.state)

theorem known_wantTrain (ch t : Nat) (d : Dev) : (chan (wantTrain ch t d) ch).known = (chan d ch).known := by
  unfold wantTrain
  split
  · rfl
  · rw [chan_updChan_self]
    rfl

theorem known_identified (ch : Nat) (tgts : List Nat) (d : Dev) : (chan (identified ch tgts d) ch).known =
    ([], true, if (chan d ch).state = 3 then 1 else (chan d ch).state) := by
  have hupd : ∀ x : Dev, (chan (idSummary ch (updChan ch (fun c => { c with
      idTgts := [], identified := true, state := if c.state = 3 then 1 else c.state }) x)) ch).known =
      ([], true, if (chan x ch).state = 3 then 1 else (chan x ch).state) := fun x => by
    have hs : ∀ y, chan (idSummary ch y) ch = chan y ch := fun _ => rfl
    rw [hs, chan_updChan_self]
    rfl
  unfold identified
  dsimp only
  split
  · rw [chan_put]
    exact hupd d
  · rw [foldl_keeps (fun x => (chan x ch).known) fun x t => known_wantTrain ch t x]
    exact hupd d

theorem chanResetGo_of_no_reset {ch : Nat} {d : Dev} (h : ch ∉ d.rst.chans) : chanResetGo ch d = d := by
  unfold chanResetGo
  rw [if_pos (.inl (by simpa using h))]

theorem completes_channelIdentify {ch : Nat} {answers : List TargetAnswer} {s : State} {P : Dev → Prop} (hch : ch < s.dev.cfg.channels)
    (hr : ch ∉ s.dev.rst.chans) : Completes (.channelIdentify ch answers) s P ↔ P (identify ch answers s.dev) := by
  have he : exec (.channelIdentify ch answers) s = run (identify ch answers) s := by
    show run _ s = run _ s
    unfold run
    rw [if_pos hch, chanResetGo_of_no_reset hr]
    dsimp only
    rw [if_neg (by simpa using hr)]
  exact completes_run he

theorem identify_of_targets {ch : Nat} {answers : List TargetAnswer} {d : Dev} (ht : (chan d ch).idTgts ≠ []) (hon : chanOn d ch = true) :
    ∃ x, identify ch answers d = kick ch x ∧ (chan x ch).idTgts = [] ∧ (chan x ch).identified = true ∧ (chan x ch).state ≠ 3 := by
  have hi : ∃ y, identify ch answers d = identDone ch (chan d ch).idTgts y := by
    unfold identify
    dsimp only
    rw [if_neg (by simp [ht, hon])]
    exact ⟨_, rfl⟩
  obtain ⟨y, hy⟩ := hi
  have hk := known_identified ch (chan d ch).idTgts y
  simp only [Chan.known, Prod.mk.injEq] at hk
  obtain ⟨htgts, hid, hst⟩ := hk
  refine ⟨_, hy.trans (identDone_eq ..), htgts, hid, ?_⟩
  rw [hst]
  split <;> simp_all

theorem identify_of_none {ch : Nat} {answers : List TargetAnswer} {d : Dev} (h : (chan d ch).idTgts = [] ∨ chanOn d ch = false) :
    identify ch answers d = d := by
  unfold identify
  dsimp only
  rw [if_pos (by simpa using h)]

/-! ### The obligation -/

/-- Settles O36: the power-on order by its queue, the supplies by what the units' work leaves of the links, a reset by what its steps
leave, and a channel's identification. -/
theorem powerAndResets : Obligations.PowerAndResets := by
  unfold Obligations.PowerAndResets
  intro s
  refine ⟨?powerOn, ?ready, ?notOff, ?vddOut, ?vddpOut, ?vccqOut, ?vddIn, ?vddpIn, ?vccqIn, ?wrst, ?drained, ?notReady, ?done,
    ?notDrained, ?identified, ?notIdentified⟩
  case powerOn => exact ⟨_, rfl, rfl, rfl⟩
  case ready =>
    refine fun hd hq => (completes_run (f := muReady) rfl).mpr ?_
    rw [muReady_of_off hd hq]
    obtain ⟨hpwrq, hwake, hother, honly⟩ := nextPower_iterate (od s.dev 0x2000 9) { s.dev with pwrq := powerOrder s.dev.cfg }
    refine ⟨hpwrq, hwake, fun n hn => ?_, honly⟩
    rw [hother n hn]
    unfold dom
    rw [hd]
    rfl
  case notOff => exact fun h => (completes_run (f := muReady) rfl).mpr (muReady_of_ready h)
  case vddOut => exact (completes_run (f := supplyOut .vdd) rfl).mpr (supplyOut_vdd_spec s.dev)
  case vddpOut => exact (completes_run (f := supplyOut .vddp) rfl).mpr rfl
  case vccqOut => exact (completes_run (f := supplyOut .vccq) rfl).mpr rfl
  case vddIn => exact (completes_run (f := supplyIn .vdd) rfl).mpr (supplyIn_vdd_spec s.dev)
  case vddpIn => exact (completes_run (f := supplyIn .vddp) rfl).mpr rfl
  case vccqIn => exact (completes_run (f := supplyIn .vccq) rfl).mpr rfl
  case wrst => exact (completes_run (f := rstTake .block 1) rfl).mpr (rstTake_block_spec s.dev)
  case drained => exact fun k hk hst hd hc => (completes_run (f := resetDrained) rfl).mpr (resetDrained_spec hk hst hd hc)
  case notReady => exact fun h => (completes_run (f := resetDrained) rfl).mpr (resetDrained_of_not_ready h)
  case done => exact fun k hk hst => (completes_run (f := resetDone) rfl).mpr (resetDone_spec hk hst)
  case notDrained => exact fun h => (completes_run (f := resetDone) rfl).mpr (resetDone_of_not_drained h)
  case identified =>
    exact fun ch answers hch hr ht hon => (completes_channelIdentify hch hr).mpr (identify_of_targets ht hon)
  case notIdentified =>
    exact fun ch answers hch hr h => (completes_channelIdentify hch hr).mpr (identify_of_none h)

end Sys2Proof.Machine

end

section
/-! SUPPORT. One step of the machine, and runs of it (03_object_dictionary.md R105, R122): which command it takes, what it leaves of the
queue, and the canonical forms that it keeps. -/

namespace Sys2Proof.Machine

/-- Settles O1: a step on a queue with a front is that command's effect. -/
theorem stepTakesFrontCommand : Obligations.StepTakesFrontCommand := fun _ _ _ => rfl

/-- A step goes on with a next state, whose queue has lost its front. -/
theorem step_next (s : State) : ∃ t, step s = .next t ∧ t.pending = s.pending.tail := by
  obtain ⟨d, pending⟩ := s
  cases pending with
  | nil => exact (changesDev_tick _).next
  | cons c rest => exact (changesDev_exec { dev := d, pending := rest } c).next

theorem run_succ_of_step {M : Host.Core} {s t : M.State} (k : Nat) (h : M.step s = .next t) : M.run (k + 1) s = M.run k t := by
  rw [Host.Core.run, h]

/-- After k steps the first k commands are gone from the queue. -/
theorem run_next_drop (k : Nat) (s : State) : ∃ t, Host.Core.run Sys2Proof.core k s = .next t ∧ t.pending = s.pending.drop k := by
  induction k generalizing s with
  | zero => exact ⟨s, rfl, rfl⟩
  | succ k ih =>
    obtain ⟨t, ht, hp⟩ := step_next s
    obtain ⟨u, hu, hq⟩ := ih t
    exact ⟨u, (run_succ_of_step (M := Sys2Proof.core) k ht).trans hu, by rw [hq, hp, List.drop_tail]⟩

/-- Settles O4: a command is a change of the block alone, and a step drops the front of the queue. -/
theorem commandsAreTakenInOrder : Obligations.CommandsAreTakenInOrder :=
  ⟨fun c s => (changesDev_exec s c).next, run_next_drop⟩

theorem sound_step (s : State) : SoundOut s.dev (step s) := by
  obtain ⟨d, pending⟩ := s
  cases pending with
  | nil => exact out_tick (Sound.refl d) fun c _ hy => out_exec c hy
  | cons c rest => exact out_exec c (s := { dev := d, pending := rest }) (Sound.refl d)

/-- Settles O5: a step, be it a command or a nanosecond, is `Sound`. -/
theorem stepKeepsDictionaryAndBuffer : Obligations.StepKeepsDictionaryAndBuffer := by
  intro s t hdict hbuf hstep
  have h := sound_step s t hstep
  exact ⟨h.dict hdict, h.buf hbuf, h.cfg⟩

end Sys2Proof.Machine
end

section
/-! SUPPORT. The I3C target on its bus (03_object_dictionary.md R134 to R141): its common command codes, the packets it sends, and its
timeouts. -/

namespace Sys2Proof.Machine

/-! ### Taking part on the bus (R134, R141) -/

section
variable {c : Instr} {s : State} {direct : Bool} {f : Dev → Dev} {P : Dev → Prop}

/-- A common command code reaches a target on the bus, a direct one by the target's address. -/
theorem completes_ccc (hexec : exec c s = ccc direct f s) (hbus : onBus s.dev = true) (ha : ¬ direct ∨ dynAddr s.dev ≠ 0) :
    Completes c s P ↔ P (f s.dev) := by
  rw [completes_run hexec, if_pos ⟨hbus, ha⟩]

end

theorem onBus_of_disabled {d : Dev} (h : od d 0x1100 1 = 0) : onBus d = false := by simp [onBus, h]

/-- Settles O12: with the enable bit clear the target is off the bus, and its resets ask for the bit too. -/
theorem i3cOffIgnoresTheBus : Obligations.I3cOffIgnoresTheBus := by
  intro s c hoff hc
  have hbus := onBus_of_disabled hoff
  have hne : ¬ od s.dev 0x1100 1 = 1 := by simp [hoff]
  simp only [List.mem_cons, List.not_mem_nil, or_false] at hc
  obtain (rfl | rfl | rfl | rfl | rfl | rfl | rfl | rfl | rfl | rfl | rfl) | ⟨v, rfl | rfl | rfl | rfl⟩ | ⟨a, b, rfl⟩ |
    ⟨e, rfl | rfl | rfl⟩ | ⟨pkt, pec, rfl⟩ | ⟨accepted, rfl⟩ := hc
  case inl.inr.inr.inl => exact (completes_run rfl).mpr (if_neg hne)
  case inl.inr.inr.inr.inl => exact (completes_run rfl).mpr (if_neg hne)
  all_goals exact (completes_run rfl).mpr (if_neg (by simp [hbus]))

/-! ### Common command codes (R134, R135) -/

section
variable {d : Dev}

/-- The entries of the I3C target that a row writes take a byte. -/
theorem od_put_byte {i j v : Nat} (hsize : odSize d.cfg (ek i j) = 1) (hv : v < 256) : od (put i j v d) i j = v := by
  rw [od_put_self, hsize]
  exact Nat.mod_eq_of_lt hv

theorem onlyEntries_put (i j v : Nat) (d : Dev) : OnlyEntries d (put i j v d) [ek i j] := ⟨keeps_put d (by simp), rfl⟩

/-- The dynamic address is set, or stays where a condition says so. -/
theorem dynAddr_set_if {p : Prop} [Decidable p] {a : Nat} (ha : a < 128) :
    od (if p then put 0x1100 3 (a % 128) d else d) 0x1100 3 = (if p then a else od d 0x1100 3) ∧
    OnlyEntries d (if p then put 0x1100 3 (a % 128) d else d) [ek 0x1100 3] := by
  rw [Nat.mod_eq_of_lt ha]
  split
  · exact ⟨od_put_byte rfl (by omega), onlyEntries_put ..⟩
  · exact ⟨rfl, keeps_refl _ _, rfl⟩

end

/-- A length below 69 is only counted (R140). -/
theorem completes_lengthSet {c : Instr} {s : State} {v : Nat} {g : I3c → I3c}
    (hexec : exec c s = ccc false (fun d => if 69 ≤ v then updI3c g d else cnt 0x1100 0x0D d) s) (hbus : onBus s.dev = true) :
    (69 ≤ v → Completes c s (fun d' => d' = updI3c g s.dev)) ∧
    (v < 69 → Completes c s (fun d' => Counted s.dev d' 0x1100 0x0D 1 ∧ OnlyEntries s.dev d' [ek 0x1100 0x0D])) := by
  refine ⟨fun h => (completes_ccc hexec hbus (.inl (by decide))).mpr (if_pos h),
    fun h => (completes_ccc hexec hbus (.inl (by decide))).mpr ?_⟩
  rw [if_neg (by omega)]
  exact cnt_spec ..

theorem i3cCommonCommandCodes_holds : i3cCommonCommandCodes := by
  intro s hbus
  have broadcast : ∀ {c : Instr} {f : Dev → Dev} {P : Dev → Prop}, exec c s = ccc false f s → P (f s.dev) → Completes c s P :=
    fun hexec hP => (completes_ccc hexec hbus (.inl (by decide))).mpr hP
  have mwl := fun v => completes_lengthSet (c := .setmwl v) (g := fun x => { x with mwl := v }) rfl hbus
  have mrl := fun v => completes_lengthSet (c := .setmrl v) (g := fun x => { x with mrl := v }) rfl hbus
  refine ⟨fun e => broadcast rfl rfl, fun e => broadcast rfl rfl, broadcast rfl ?rstdaa, fun a ha => broadcast rfl (dynAddr_set_if ha),
    fun st a ha => broadcast rfl (dynAddr_set_if ha), fun a ha hdyn => ?setnewda, fun v hv => ⟨(mwl v).1 hv, (mrl v).1 hv⟩,
    fun v c hv hc => ?short, fun b => (completes_run rfl).mpr (if_pos ⟨hbus, .inl (by decide)⟩), broadcast rfl rfl⟩
  case rstdaa => exact ⟨od_put_byte rfl (by decide), onlyEntries_put ..⟩
  case setnewda =>
    refine (completes_ccc (f := put 0x1100 3 (a % 128)) rfl hbus (.inr hdyn)).mpr ⟨?_, onlyEntries_put ..⟩
    rw [Nat.mod_eq_of_lt ha]
    exact od_put_byte rfl (by omega)
  case short =>
    obtain rfl | rfl := hc
    · exact (mwl v).2 hv
    · exact (mrl v).2 hv

theorem leBytes_one (v : Nat) : leBytes 1 v = [BitVec.ofNat 8 v] := by
  have h : BitVec.ofNat 8 (v % 256) = BitVec.ofNat 8 v := BitVec.eq_of_toNat_eq (by simp)
  rw [leBytes, h]
  rfl

theorem i3cGetCodes_holds : i3cGetCodes := by
  intro s hbus hdyn returns
  have direct : ∀ {c : Instr} {f : Dev → Bytes}, exec c s = cccGet f s → returns c (f s.dev) :=
    fun hexec => (completes_ccc hexec hbus (.inr hdyn)).mpr rfl
  have hstatus : beBytes 2 (b2n s.dev.i3c.rsp.isSome) = [0, if s.dev.i3c.rsp.isSome then 1 else 0] := by
    cases s.dev.i3c.rsp.isSome <;> decide
  rw [← hstatus, ← leBytes_one (od s.dev 0x1100 5)]
  exact ⟨direct (f := fun _ => beBytes 2 69) rfl, direct (f := fun _ => beBytes 2 69 ++ [1]) rfl,
    direct (f := fun d => beBytes 6 (od d 0x1100 4)) rfl, direct (f := fun _ => [6]) rfl,
    direct (f := fun d => leBytes 1 (od d 0x1100 5)) rfl, direct (f := fun d => beBytes 2 (b2n d.i3c.rsp.isSome)) rfl⟩

/-! ### The target's other events (R134, R135, R138, R140) -/

/-- A response is read packet by packet. -/
theorem privateRead_of_pending {d : Dev} {r : I3cRsp} (h : d.i3c.rsp = some r) :
    let eom := decide (r.body.length ≤ r.off + 64)
    let flags := (if r.off = 0 then 128 else 0) + (if eom then 64 else 0) + 16 * r.seq + r.tag
    let pkt := [1, BitVec.ofNat 8 r.dst, BitVec.ofNat 8 (od d 0x1100 7), BitVec.ofNat 8 flags] ++ (r.body.drop r.off).take 64
    privateRead d = { d with i3c := { d.i3c with
      out := pkt ++ [crc8 (BitVec.ofNat 8 (2 * od d 0x1100 3 + 1) :: pkt)], ibi := false,
      rsp := if eom then none else some { r with off := r.off + 64, seq := (r.seq + 1) % 4 } } } := by
  intro eom flags pkt
  have hflags : 128 * b2n (r.off == 0) + 64 * b2n eom + 16 * r.seq + r.tag = flags := by
    simp [b2n, flags]
  unfold privateRead
  simp only [h]
  rw [show decide (r.body.length ≤ r.off + 64) = eom from rfl, hflags]
  rfl

/-- A timeout drops what waited, and is counted. -/
theorem drop_counted_spec {g : I3c → I3c} (d : Dev) :
    Counted d (cnt 0x1100 0x0D (updI3c g d)) 0x1100 0x0D 1 ∧
    SameBut d (cnt 0x1100 0x0D (updI3c g d)) (fun x => { x with i3c := g x.i3c }) [ek 0x1100 0x0D] :=
  cnt_spec 0x1100 0x0D (updI3c g d)

theorem i3cTargetEvents_holds : i3cTargetEvents := by
  intro s
  refine ⟨fun hen => ⟨(completes_run rfl).mpr (if_pos hen), (completes_run rfl).mpr (if_pos hen)⟩,
    fun hbus => ⟨fun hibi => ?accepted, fun hibi => ?none, ?refused⟩, fun hbus hdyn => ⟨fun hr => ?empty, ?packet⟩,
    fun hr => ?response, fun ha => ?assembly⟩
  case accepted => exact (completes_run rfl).mpr (if_pos ⟨hbus, rfl, hibi⟩)
  case none => exact (completes_run rfl).mpr (if_neg (by simp [hibi]))
  case refused => exact (completes_run rfl).mpr (if_neg (by simp))
  case empty =>
    refine (completes_run rfl).mpr ((if_pos ⟨hbus, hdyn⟩).trans ?_)
    rw [privateRead, hr]
    simp only [updI3c, hr]
  case packet => exact fun r hr => (completes_run rfl).mpr ((if_pos ⟨hbus, hdyn⟩).trans (privateRead_of_pending hr))
  case response =>
    refine (completes_run rfl).mpr ?_
    rw [if_pos hr]
    exact drop_counted_spec ..
  case assembly =>
    refine (completes_run rfl).mpr ?_
    rw [if_pos ha]
    exact drop_counted_spec ..

/-- Settles O10: the common codes, the GET codes and the other events, each by whether the target takes part. -/
theorem i3cBus : Obligations.I3cBus := ⟨i3cCommonCommandCodes_holds, i3cGetCodes_holds, i3cTargetEvents_holds⟩

end Sys2Proof.Machine
end

section
/-! SUPPORT. The dictionary after a power-on reset (03_object_dictionary.md R108). -/

namespace Sys2Proof.Machine

/-- Settles O35: the reset tables list no entry, so that each reads its default. -/
theorem powerOnDefaults : Obligations.PowerOnDefaults := by
  refine fun s => (completes_run (f := fun d => { Dev.reset with cfg := d.cfg, up := d.up, free := d.free }) rfl).mpr
    ⟨rfl, fun _ => rfl, fun idx sub b i hbase => ?_⟩
  unfold getB
  simp only [hbase]
  rfl

end Sys2Proof.Machine
end

section
/-! SUPPORT. Commands that read (03_object_dictionary.md R106, R110, R114 to R116, R125, R128): what a read and INFO answer, by the kind of
the entry, and where the answer stands. -/

namespace Sys2Proof.Machine

/-! ### The answer in the master's registers (R113, R131) -/

/-- A master's buffer as an answer with a data part leaves it. -/
def dataPut (m : Nat) (data : Option Bytes) (x : Master) : Master :=
  match data with
  | none => x
  | some bs => { x with
      buf := tabWriteBytes (Config.bufByte m) x.buf 0 bs, bufBad := x.bufBad.filter (fun w => decide (bs.length ≤ 8 * w)) }

section
variable (c : OdCmd) (q : OdReq) (a : OdAns) (d : Dev)

theorem masters_countEnd (x : Option Abort) : (countEnd x d).masters = d.masters := by
  obtain ⟨-, -, -, he⟩ := countEnd_spec x d
  rw [he]

/-- The record that a command's end leaves its master. -/
theorem master_endCmd : master (endCmd c q a d) c.m = dataPut c.m a.data (endedIn c q a (master d c.m)) := by
  rw [endCmd_eq, master_of_masters (masters_countEnd ..)]
  cases a.data with
  | none => exact master_updMaster_self ..
  | some bs =>
    show master (putBuf c.m 0 bs _) c.m = _
    rw [master_putBuf, master_updMaster_self, master_updMaster_self]
    rfl

theorem result_endCmd : (master (endCmd c q a d) c.m).result = a.result.getD (master d c.m).result := by
  rw [master_endCmd]
  cases a.data <;> rfl

variable {a}

theorem doneIn_endCmd (h : a.abort = none) : doneIn (endCmd c q a d) c q a.len := by
  obtain ⟨hstat, habort, -⟩ := endCmd_master c q a d
  rw [h] at hstat
  exact ⟨hstat, by rw [habort, OdAns.code, h]⟩

theorem abortedIn_endCmd (x : Abort) : abortedIn (endCmd c q (OdAns.bad x) d) c q x.code := by
  obtain ⟨hstat, habort, -⟩ := endCmd_master c q (OdAns.bad x) d
  exact ⟨hstat, habort⟩

/-! ### What taking a command leaves -/

@[simp] theorem cfg_takeCmd : (takeCmd c q d).cfg = d.cfg := by
  obtain ⟨-, -, he⟩ := takenFrame_takeCmd c q d
  rw [he]

@[simp] theorem odBad_takeCmd : (takeCmd c q d).odBad = d.odBad := by
  obtain ⟨-, -, he⟩ := takenFrame_takeCmd c q d
  rw [he]

@[simp] theorem readAbort_takeCmd (idx sub : Nat) : readAbort (takeCmd c q d) idx sub = readAbort d idx sub := by
  unfold readAbort
  simp only [cfg_takeCmd, odBad_takeCmd]

end

/-! ### What keeps an entry from being read (R106, R110, R125) -/

section
variable {d : Dev} {idx sub : Nat} {t : OdTy} {a : OdAcc}

theorem readAbort_of_undefined (h : odKind d.cfg idx sub = none) :
    readAbort d idx sub = some (if odDefined d.cfg idx then .noSubindex else .noObject) := by
  unfold readAbort
  rw [h]
  exact (apply_ite some ..).symm

theorem readAbort_of_writeOnly (h : odKind d.cfg idx sub = some (t, .wo)) : readAbort d idx sub = some .writeOnly := by
  unfold readAbort
  rw [h]
  rfl

theorem readAbort_of_damaged (h : odKind d.cfg idx sub = some (t, a)) (ha : a ≠ .wo) (hbad : ek idx sub ∈ d.odBad) :
    readAbort d idx sub = some .hwError := by
  unfold readAbort
  simp [h, ha, hbad]

theorem readAbort_of_readable (h : odKind d.cfg idx sub = some (t, a)) (ha : a ≠ .wo) (hbad : ek idx sub ∉ d.odBad) :
    readAbort d idx sub = none := by
  unfold readAbort
  simp [h, ha, hbad]

/-! ### EXP_READ (R115) -/

theorem expRead_of_abort {x : Abort} (h : readAbort d idx sub = some x) : expRead idx sub d = OdAns.bad x := by
  unfold expRead firstAbort
  simp [h]

theorem expRead_of_fixed (hk : odKind d.cfg idx sub = some (t, a)) (hr : readAbort d idx sub = none) (ht : t.fixed = true) :
    expRead idx sub d = { abort := none, len := t.size, result := some (odNum d idx sub), data := none } := by
  have hdom : t ≠ .dom := by rintro rfl; simp [OdTy.fixed, OdTy.size] at ht
  have hstr : t ≠ .str := by rintro rfl; simp [OdTy.fixed, OdTy.size] at ht
  have hform : readForm d idx sub true = none := by simp [readForm, hk, hdom, hstr]
  unfold expRead firstAbort
  simp [hr, hform, hk, ht]

theorem expRead_of_short (hk : odKind d.cfg idx sub = some (.str, a)) (hr : readAbort d idx sub = none)
    (hlen : (odBytes d idx sub).length ≤ 8) :
    expRead idx sub d =
      { abort := none, len := (odBytes d idx sub).length, result := some (leNat (odBytes d idx sub)), data := none } := by
  have hform : readForm d idx sub true = none := by simp [readForm, hk, hlen]
  unfold expRead firstAbort
  simp [hr, hform, hk, OdTy.fixed, OdTy.size]

theorem expRead_of_long (hk : odKind d.cfg idx sub = some (.str, a)) (hr : readAbort d idx sub = none)
    (hlen : 8 < (odBytes d idx sub).length) : expRead idx sub d = OdAns.bad .length := by
  have hform : readForm d idx sub true = some .length := by simp [readForm, hk, hlen]
  unfold expRead firstAbort
  simp [hr, hform]

theorem expRead_of_dom (hk : odKind d.cfg idx sub = some (.dom, a)) (hr : readAbort d idx sub = none) :
    expRead idx sub d = OdAns.bad .length := by
  have hform : readForm d idx sub true = some .length := by simp [readForm, hk]
  unfold expRead firstAbort
  simp [hr, hform]

/-! ### INFO (R114) -/

theorem infoAns_of_undefined (h : odKind d.cfg idx sub = none) :
    infoAns idx sub d = OdAns.bad (if odDefined d.cfg idx then .noSubindex else .noObject) := by
  unfold infoAns
  rw [h]

/-- The word of INFO: the group, the length, the access class and the type. -/
theorem infoAns_of_kind (h : odKind d.cfg idx sub = some (t, a)) :
    infoAns idx sub d = { abort := none, len := 8, data := none, result := some (2 ^ 48 * (odGroup idx % 256) +
      2 ^ 16 * ((if t.fixed then t.size else (odBytes d idx sub).length) % 2 ^ 25) + 2 ^ 8 * a.code + t.code) } := by
  have ha : a.code % 2 ^ 8 = a.code := by cases a <;> rfl
  have ht : t.code % 2 ^ 8 = t.code := by cases t <;> rfl
  unfold infoAns odLen fld
  simp only [h, ha, ht]
  congr 2
  omega

end

/-! ### The obligation -/

section
variable {i : Instr} {c : OdCmd} {q : OdReq} {s : State} {P : Dev → Prop}

/-- A command that reads is a host-made error only for who sends it, and ends with what its code does. -/
theorem completes_reading (hexec : exec i s = odExec i c q s) (hruns : Runs c.via c.m s.dev)
    (herr : odError c (plainReq 1 c.seq) (entered c.via s.dev) = none) (hen : enabled (entered c.via s.dev) c.m = true)
    (hq : q.cmd ≠ 2 ∧ q.cmd ≠ 4 ∧ q.cmd ≠ 6 ∧ q.cmd ≠ 9) :
    Completes i s P ↔ P (endCmd c q (odCommand c q (takeCmd c q (entered c.via s.dev))).1
      (odCommand c q (takeCmd c q (entered c.via s.dev))).2) := by
  rw [completes_of_runs hexec hruns, odRun_of_enabled (odError_of_reading herr hq) hen]

end

/-- A read that is aborted changes only what one that reads may. -/
theorem readEnds_bad (c : OdCmd) (q : OdReq) (d : Dev) {x : Abort} (hx : x ≠ .conflict) :
    abortedIn (endCmd c q (OdAns.bad x) (takeCmd c q d)) c q x.code ∧ readFrame d (endCmd c q (OdAns.bad x) (takeCmd c q d)) c :=
  ⟨abortedIn_endCmd .., readFrame_endCmd (by simpa [OdAns.bad] using hx)⟩

/-- A read that answers leaves its result, and changes only what one that reads may. -/
theorem readEnds_done (c : OdCmd) (q : OdReq) (d : Dev) {a : OdAns} {v : Nat} (ha : a.abort = none) (hv : a.result = some v) :
    doneIn (endCmd c q a (takeCmd c q d)) c q a.len ∧ (master (endCmd c q a (takeCmd c q d)) c.m).result = v ∧
    readFrame d (endCmd c q a (takeCmd c q d)) c :=
  ⟨doneIn_endCmd _ _ _ ha, by rw [result_endCmd, hv]; rfl, readFrame_endCmd (by simp [ha])⟩

/-- Settles O13: a read by what keeps it from the entry and by the entry's type, INFO by the entry's kind. -/
theorem readsAndInfo : Obligations.ReadsAndInfo := by
  intro s c d q1 q11 hruns herr
  have hnotDefined : ∀ b : Bool, (if b then Abort.noSubindex else .noObject).code = (if b then 0x06090011 else 0x06020000) ∧
      (if b then Abort.noSubindex else .noObject) ≠ .conflict := by decide
  refine ⟨fun hen => ?_, fun hoff => ?disabled⟩
  case disabled =>
    have hdisabled : ∀ q : OdReq, odError c q d = none → odRun c q d = endCmd c q (OdAns.bad .disabled) (takeCmd c q d) :=
      fun q hq => by rw [odRun_eq hq]; simp [hoff]
    have h11 : odError c q11 d = none := odError_of_reading herr (by simp [q11, plainReq])
    refine ⟨(completes_of_runs rfl hruns).mpr ?_, (completes_of_runs rfl hruns).mpr ?_⟩
    · rw [show odRun c (bareReq 1 c.seq) _ = _ from hdisabled q1 herr]
      exact readEnds_bad c q1 d (by decide)
    · rw [show odRun c (bareReq 11 c.seq) _ = _ from hdisabled q11 h11]
      exact readEnds_bad c q11 d (by decide)
  have read : ∀ {P : Dev → Prop}, P (endCmd c q1 (expRead c.idx c.sub (takeCmd c q1 d)) (takeCmd c q1 d)) → Completes (.expRead c) s P :=
    fun h => (completes_reading (q := q1) rfl hruns herr hen (by simp [q1, plainReq])).mpr h
  have info : ∀ {P : Dev → Prop}, P (endCmd c q11 (infoAns c.idx c.sub (takeCmd c q11 d)) (takeCmd c q11 d)) → Completes (.info c) s P :=
    fun h => (completes_reading (q := q11) rfl hruns herr hen (by simp [q11, plainReq])).mpr h
  have cut : ∀ x : Abort, x ≠ .conflict → readAbort d c.idx c.sub = some x →
      Completes (.expRead c) s (fun d' => abortedIn d' c q1 x.code ∧ readFrame d d' c) := fun x hx h => read (by
    rw [expRead_of_abort (x := x) (by simpa using h)]
    exact readEnds_bad c q1 d hx)
  refine ⟨fun t a hk ha hbad => cut _ (by decide) (readAbort_of_damaged hk ha hbad), fun t a hk ha hbad ht => read ?fixed,
    fun a hk ha hbad => ⟨fun hlen => read ?short, fun hlen => read ?long⟩,
    fun t hk => cut _ (by decide) (readAbort_of_writeOnly hk), fun a hk ha hbad => read ?dom, fun hk => ?undefined,
    fun t a hk => info ?kind, fun hk => info ?noInfo⟩
  case fixed =>
    rw [expRead_of_fixed (by simpa using hk) (by simpa using readAbort_of_readable hk ha hbad) ht]
    exact readEnds_done c q1 d rfl rfl
  case short =>
    rw [expRead_of_short (by simpa using hk) (by simpa using readAbort_of_readable hk ha hbad) hlen]
    exact readEnds_done c q1 d rfl rfl
  case long =>
    rw [expRead_of_long (by simpa using hk) (by simpa using readAbort_of_readable hk ha hbad) hlen]
    exact readEnds_bad c q1 d (by decide)
  case dom =>
    rw [expRead_of_dom (by simpa using hk) (by simpa using readAbort_of_readable hk ha hbad)]
    exact readEnds_bad c q1 d (by decide)
  case undefined =>
    obtain ⟨hcode, hne⟩ := hnotDefined (odDefined d.cfg c.idx)
    rw [← hcode]
    exact cut _ hne (readAbort_of_undefined hk)
  case kind =>
    rw [infoAns_of_kind (by simpa using hk)]
    exact readEnds_done c q11 d rfl rfl
  case noInfo =>
    obtain ⟨hcode, hne⟩ := hnotDefined (odDefined d.cfg c.idx)
    rw [infoAns_of_undefined (by simpa using hk), cfg_takeCmd, ← hcode]
    exact readEnds_bad c q11 d hne

end Sys2Proof.Machine
end

section
/-! SUPPORT. Write rows of one entry that a disabled master sent, or that a check turns away (03_object_dictionary.md R110, R113, R128):
the write that each row stands for, and how an aborted command is counted. -/

namespace Sys2Proof.Machine

/-! ### Aborted commands are counted (R141) -/

/-- R141: a command, its abort, and a conflict besides. -/
theorem endedBad_countEnd (a : Abort) (d : Dev) : EndedBad a d (countEnd (some a) d) := by
  obtain ⟨hF, hkeeps, -, he⟩ := countEnd_spec (some a) d
  obtain ⟨-, hkF, heF⟩ := cnt_spec 0x1100 0x0F d
  obtain ⟨h10, hk10, he10⟩ := cnt_spec 0x1100 0x10 (cnt 0x1100 0x0F d)
  obtain ⟨h11, hk11, -⟩ := cnt_spec 0x1100 0x11 (cnt 0x1100 0x10 (cnt 0x1100 0x0F d))
  have hcfg : (cnt 0x1100 0x0F d).cfg = d.cfg := by rw [heF]
  have hcfg' : (cnt 0x1100 0x10 (cnt 0x1100 0x0F d)).cfg = d.cfg := by rw [he10, hcfg]
  have hc10 := counted_of_od_eq hcfg (hkF _ (by decide)) h10
  have hod11 : od (cnt 0x1100 0x10 (cnt 0x1100 0x0F d)) 0x1100 0x11 = od d 0x1100 0x11 :=
    (hk10 _ (by decide)).trans (hkF _ (by decide))
  have hod : ∀ j, od (countEnd (some a) d) 0x1100 j = od (endCounts (some a) d) 0x1100 j := fun j => by
    rw [countEnd_eq, ringUnit_eq]
    rfl
  have hcounts : Counted d (countEnd (some a) d) 0x1100 0x10 1 ∧
      if a = .conflict then Counted d (countEnd (some a) d) 0x1100 0x11 1 else od (countEnd (some a) d) 0x1100 0x11 = od d 0x1100 0x11 := by
    unfold Counted
    simp only [hod]
    by_cases hc : a = .conflict
    · rw [if_pos hc, show endCounts (some a) d = cnt 0x1100 0x11 (cnt 0x1100 0x10 (cnt 0x1100 0x0F d)) from if_pos hc]
      exact ⟨counted_of_keeps hc10 hk11 (by decide), counted_of_od_eq hcfg' hod11 h11⟩
    · rw [if_neg hc, show endCounts (some a) d = cnt 0x1100 0x10 (cnt 0x1100 0x0F d) from if_neg hc]
      exact ⟨hc10, hod11⟩
  exact ⟨hF, hcounts.1, hcounts.2, hkeeps, he⟩

/-! ### The write that a row stands for -/

/-- A row that names an entry is a write of it. -/
theorem exec_of_rowEntry {c : Instr} {s : State} {m idx sub v : Nat} (h : rowEntry s.dev.cfg c = some (m, idx, sub, v)) :
    exec c s = rowWrite m idx sub v s := by
  cases c with
  | rstBlock | rstSoft | rstChannel | svcReq | masterEnable | i3cEnable | ltQuiesce | exChannel | exDecoder | exSbBank | exMapcWay
  | rawUnlock | wpLock | lktLoad | mcRevert | lmMode | ckptNow | flushNow | qClear | tsUnsuspect | fltAck =>
    cases h
    rfl
  | grpOwner | ringEnable | dieRevive | snapReq | idRerun | tsArm | trainReq | chStart | chStop | tmrEnable | tgtEoi | tgtUnfreeze
  | srcCfg | srcState =>
    cases h
    simp only [idxIf, decide_eq_true_eq]
    rfl
  | counterClear m' key v' =>
    have hif : (if key = 0x210901 then none else some (m', key / 256, key % 256, v')) = some (m, idx, sub, v) := h
    split at hif
    · cases hif
    · next hkey =>
      cases hif
      exact if_neg hkey
  | _ => cases h

/-! ### What turns a row away -/

theorem rowFree_of_no_error {m idx sub v : Nat} {d : Dev} (h : numError d m idx sub (odSize d.cfg (ek idx sub)) v = none) :
    rowFree m idx sub v d = rowNum m none idx sub v d := by
  unfold rowFree
  simp only [h]

theorem rowNum_of_disabled {m idx sub v : Nat} {d : Dev} (h : enabled d m = false) :
    rowNum m none idx sub v d = countEnd (some .disabled) (seen m d) := by
  unfold rowNum
  simp [h]

theorem rowNum_of_abort {m idx sub v : Nat} {d : Dev} {a : Abort} (h : enabled d m = true)
    (ha : numAbort (seen m d) m idx sub (odSize d.cfg (ek idx sub)) v = some a) :
    rowNum m none idx sub v d = countEnd (some a) (seen m d) := by
  unfold rowNum writeNum
  simp [h, ha]

/-- Settles O17: the row is a write that ends as it is turned away, on the block in which only the master is marked as seen. -/
theorem writesTurnedAwayHaveNoEffect : Obligations.WritesTurnedAwayHaveNoEffect := by
  intro s c m idx sub v hrow herr
  have hrun : exec c s = run (rowFree m idx sub v) s := exec_of_rowEntry hrow
  refine ⟨fun hoff => ?_, fun a hon ha => ?_⟩
  · rw [completes_run hrun, rowFree_of_no_error herr, rowNum_of_disabled hoff]
    exact endedBad_countEnd ..
  · rw [completes_run hrun, rowFree_of_no_error herr, rowNum_of_abort hon ha]
    exact endedBad_countEnd ..

end Sys2Proof.Machine
end

section
/-! SUPPORT. Transfers that close, and the checks that their parts pass (03_object_dictionary.md R116 to R121, R123, R125): the master's
record after each, and what of the block stays. -/

namespace Sys2Proof.Machine

/-! ### What closing a transfer applies (R123) -/

/-- What the MU held for a block read reaches the logs, their bells and the entries that show them, and nothing else. -/
def HeldFrame (d d' : Dev) : Prop := d' = { d with
  od := d'.od, ods := d'.ods, sat := d'.sat, dbq := d'.dbq, flt := d'.flt, lan := d'.lan, rawp := d'.rawp, memLog := d'.memLog,
  net := d'.net }

theorem HeldFrame.trans {a b c : Dev} (h1 : HeldFrame a b) (h2 : HeldFrame b c) : HeldFrame a c := by
  unfold HeldFrame at *
  rw [h2, h1]

theorem heldFrame_foldl {α : Type} {f : Dev → α → Dev} (hf : ∀ x a, HeldFrame x (f x a)) (l : List α) {d x : Dev} (h : HeldFrame d x) :
    HeldFrame d (l.foldl f x) := List.foldlRecOn (motive := HeldFrame d) l f h fun y hy a _ => hy.trans (hf y a)

theorem heldFrame_of_faultFrame {cls : Nat} {d d' : Dev} (h : FaultFrame cls d d') : HeldFrame d d' := by
  obtain ⟨-, he⟩ := h
  unfold HeldFrame
  rw [he]

theorem heldFrame_memBell (kind : Nat) (d : Dev) : HeldFrame d (memBell kind d) := by
  unfold memBell
  split
  · obtain ⟨y, hy⟩ := send_spec .ao .bell .msg 1 { d with dbq := d.dbq ++ [.memlog (od d 0x2910 3)] }
    rw [hy]
    rfl
  · rfl

theorem heldFrame_memWrite (r : MemRec) (d : Dev) : HeldFrame d (memWrite r d) := by
  obtain ⟨-, -, he⟩ := cnt_spec 0x2910 2
    { d with memLog := { d.memLog with log := (d.memLog.log ++ [r]).drop (d.memLog.log.length + 1 - 32) } }
  refine HeldFrame.trans ?_ (heldFrame_memBell r.kind _)
  unfold HeldFrame
  rw [he]

theorem heldFrame_applyHeld (key : Nat) (d : Dev) : HeldFrame d (applyHeld key d) := by
  unfold applyHeld
  split
  · rfl
  · split
    · exact heldFrame_foldl (fun x r => (heldFrame_of_faultFrame (faultFrame_fltWrite (cls := r.cls) r x)).trans
        (heldFrame_of_faultFrame (faultFrame_fltBell _))) _ rfl
    · split
      · exact heldFrame_foldl (fun x r => heldFrame_memWrite r x) _ rfl
      · split
        · rfl
        · split
          · split <;> rfl
          · rfl

/-! ### Transfers close -/

theorem odBad_closeXfer (m : Nat) (why : Option Abort) (d : Dev) : (closeXfer m why d).odBad = d.odBad := by
  unfold closeXfer
  split
  · rfl
  · next x _ =>
    have h := heldFrame_applyHeld x.key (updMaster m (fun c => { c with xfer := none, closed := why }) d)
    rw [HeldFrame] at h
    rw [h]
    rfl

theorem master_closeXfer_ne {m k : Nat} (why : Option Abort) (d : Dev) (h : k ≠ m) : master (closeXfer m why d) k = master d k := by
  cases hx : (master d m).xfer with
  | none => rw [closeXfer_of_none hx]
  | some x => exact (closeXfer_master why hx).2 k h

/-- A close that is told nothing leaves no transfer, and the rest of a record but for what its next continuation is told. -/
theorem master_closeXfer_none (m : Nat) (d : Dev) :
    { master (closeXfer m none d) m with closed := none } = { master d m with xfer := none, closed := none } := by
  cases hx : (master d m).xfer with
  | none =>
    rw [closeXfer_of_none hx]
    cases hm : master d m
    simp_all
  | some x => rw [(closeXfer_master none hx).1]

/-- The count of a supersession changes no record. -/
theorem closeCounted_eq (m : Nat) (d : Dev) : ∃ y, closeCounted m d = closeXfer m none y ∧ OnlyEntries d y [ek 0x1100 0x10] := by
  unfold closeCounted
  split
  · exact ⟨_, rfl, (cnt_spec 0x1100 0x10 d).2⟩
  · exact ⟨_, rfl, keeps_refl _ _, rfl⟩

theorem master_of_onlyEntries {d y : Dev} {keys : List Nat} (h : OnlyEntries d y keys) (k : Nat) : master y k = master d k :=
  master_of_masters (by rw [h.2]) k

/-- An initiating command leaves its master without a transfer (R120). -/
theorem master_supersede (m : Nat) (d : Dev) : master (supersede m d) m = { master d m with xfer := none, closed := none } := by
  obtain ⟨y, hy, hk⟩ := closeCounted_eq m d
  unfold supersede
  rw [master_updMaster_self, hy, master_closeXfer_none, master_of_onlyEntries hk]

theorem master_closeCounted_ne {m k : Nat} (d : Dev) (h : k ≠ m) : master (closeCounted m d) k = master d k := by
  obtain ⟨y, hy, hk⟩ := closeCounted_eq m d
  rw [hy, master_closeXfer_ne _ _ h, master_of_onlyEntries hk]

@[simp] theorem odBad_supersede (m : Nat) (d : Dev) : (supersede m d).odBad = d.odBad := by
  obtain ⟨y, hy, hk⟩ := closeCounted_eq m d
  show (closeCounted m d).odBad = _
  rw [hy, odBad_closeXfer, hk.2]

@[simp] theorem cfg_supersede (m : Nat) (d : Dev) : (supersede m d).cfg = d.cfg := (sound_supersede (Sound.refl d)).cfg

@[simp] theorem readAbort_supersede (m idx sub : Nat) (d : Dev) : readAbort (supersede m d) idx sub = readAbort d idx sub := by
  unfold readAbort
  simp only [cfg_supersede, odBad_supersede]

/-! ### A holder gives way (R130) -/

theorem holder_ne {d : Dev} {m key h : Nat} (hh : holder d m key = some h) : h ≠ m := by
  obtain ⟨p, hp, rfl⟩ := Option.map_eq_some_iff.mp hh
  have hne := List.find?_some hp
  simp only [Bool.and_eq_true, bne_iff_ne] at hne
  exact hne.1

/-- The master that writes keeps its record. -/
theorem master_closeHolder (m key : Nat) (d : Dev) : master (closeHolder m key d) m = master d m := by
  unfold closeHolder
  split
  · rfl
  · next h hh => exact master_closeCounted_ne d (holder_ne hh).symm

@[simp] theorem cfg_closeHolder (m key : Nat) (d : Dev) : (closeHolder m key d).cfg = d.cfg := (sound_closeHolder (Sound.refl d)).cfg

/-! ### The words of the buffer (R125) -/

/-- A command that brings its data part leaves the words that it wrote good, and its master's transfer as it was. -/
theorem master_takeCmd {c : OdCmd} {q : OdReq} (hown : ownRegs c = false) (d : Dev) :
    master (takeCmd c q d) c.m = { registered c q (master d c.m) with
      buf := tabWriteBytes (Config.bufByte c.m) (master d c.m).buf 0 q.data } := by
  rw [takeCmd_eq, if_neg (by simp [hown]), master_putBuf, master_seen, master_updMaster_self]
  rfl

theorem badBuf_takeCmd {c : OdCmd} {q : OdReq} (hown : ownRegs c = false) (d : Dev) : badBuf (takeCmd c q d) c.m q.data.length = false := by
  unfold badBuf
  rw [master_takeCmd hown]
  simp [registered, hown]

theorem badBuf_supersede (m n : Nat) (d : Dev) : badBuf (supersede m d) m n = badBuf d m n := by
  unfold badBuf
  rw [master_supersede]

theorem ownRegs_of_runs {c : OdCmd} {d : Dev} (h : Runs c.via c.m d) : ownRegs c = false := by
  unfold ownRegs
  cases hv : c.via with
  | none => rfl
  | some v =>
    rw [hv] at h
    obtain ⟨-, -, -, hr⟩ := h
    exact hr

/-! ### The bytes of an answer (R131) -/

/-- The data part of an answer of up to 4,096 bytes reads from the master's buffer. -/
theorem bufByte_endCmd {c : OdCmd} {q : OdReq} {a : OdAns} {bs : Bytes} {i : Nat} (d : Dev) (hdata : a.data = some bs)
    (hlen : a.len = bs.length) (h4096 : bs.length ≤ 4096) (hi : i < bs.length) : bufByte (endCmd c q a d) c.m i = bs.getD i 0 := by
  obtain ⟨hstat, -⟩ := endCmd_master c q a d
  have hvalid : bits (statusOf c q a.len a.abort.isSome) 40 13 = bs.length := by
    unfold bits statusOf
    rw [hlen]
    have : (if a.abort.isSome then 3 else 2) ≤ 3 := by split <;> omega
    omega
  have hbuf : (master (endCmd c q a d) c.m).buf = tabWriteBytes (Config.bufByte c.m) (master d c.m).buf 0 bs := by
    rw [master_endCmd, hdata]
    rfl
  unfold bufByte
  rw [hstat, hvalid, if_pos hi, hbuf]
  simpa using tabGet_tabWriteBytes_in (Config.bufByte c.m) (master d c.m).buf 0 i bs hi

end Sys2Proof.Machine
end

section
/-! SUPPORT. Segmented and block transfers (03_object_dictionary.md R116 to R120): what each of their commands does by the open transfer, its
parts and its checks, and the statement. -/

namespace Sys2Proof.Machine

/-! ### Commands that write -/

/-- A command without a host-made error ends with what its code does. -/
theorem completes_enabled {i : Instr} {c : OdCmd} {q : OdReq} {s : State} {P : Dev → Prop} (hexec : exec i s = odExec i c q s)
    (hruns : Runs c.via c.m s.dev) (herr : odError c q (entered c.via s.dev) = none) (hen : enabled (entered c.via s.dev) c.m = true) :
    Completes i s P ↔ P (endCmd c q (odCommand c q (takeCmd c q (entered c.via s.dev))).1
      (odCommand c q (takeCmd c q (entered c.via s.dev))).2) := by
  rw [completes_of_runs hexec hruns, odRun_of_enabled herr hen]

theorem getB_of_ods {x d : Dev} (hc : x.cfg = d.cfg) (ho : x.ods = d.ods) (idx sub : Nat) : getB x idx sub = getB d idx sub := by
  unfold getB
  rw [hc, ho]

theorem getB_endCmd (c : OdCmd) (q : OdReq) (a : OdAns) (d : Dev) (idx sub : Nat) : getB (endCmd c q a d) idx sub = getB d idx sub := by
  obtain ⟨-, -, he⟩ := endCmd_rest c q a d
  exact getB_of_ods (by rw [he]) (by rw [he]) idx sub

theorem getB_putB_self (idx sub : Nat) (bs : Bytes) (d : Dev) : getB (putB idx sub bs d) idx sub = bs := tabGet_tabSet_self ..

section
variable {m idx sub : Nat} {bs : Bytes} {d : Dev}

/-- A byte string without a behaviour of its own is stored, and nothing more. -/
theorem bytesEffect_of_plain {c : Params} (h : plainBytes c idx sub = true) (bs : Bytes) (d : Dev) :
    bytesEffect idx sub bs d = putB idx sub bs (rewrite idx sub d) := by
  have hkey : ([0x210202, 0x210701, 0x210901].contains (idx * 256 + sub)) = false := by
    unfold plainBytes at h
    simp only [Bool.and_eq_true, Bool.not_eq_true'] at h
    exact h.2
  simp only [List.contains_eq_mem, List.mem_cons, List.not_mem_nil, or_false, decide_eq_false_iff_not, not_or] at hkey
  obtain ⟨h1, h2, h3⟩ := hkey
  unfold bytesEffect
  split
  · next h => exact absurd h h1
  · next h => exact absurd h h2
  · next h => exact absurd h h3
  · rfl

/-- A byte string whose checks pass is stored. -/
theorem writeBytes_of_plain {c : Params} (h : plainBytes c idx sub = true) (hab : bytesAbort d m idx sub bs = none) :
    ∃ y, writeBytes m idx sub bs d = (none, y) ∧ master y m = master d m ∧ getB y idx sub = bs := by
  refine ⟨putB idx sub bs (rewrite idx sub (closeHolder m (ek idx sub) d)), ?_, master_closeHolder m (ek idx sub) d, getB_putB_self ..⟩
  unfold writeBytes
  rw [hab]
  simp only [bytesEffect_of_plain h]

end

/-! ### Opening a transfer, and its continuations -/

section
variable {m idx sub : Nat} {x : Xfer} {d : Dev}

theorem master_openXfer (m : Nat) (x : Xfer) (d : Dev) : master (openXfer m x d) m = { master d m with xfer := some x, closed := none } :=
  master_updMaster_self ..

/-- A read of a byte string that keeps from nothing passes its form. -/
theorem readable_bytes {t : OdTy} {a : OdAcc} (hk : odKind d.cfg idx sub = some (t, a)) (hr : readAbort d idx sub = none)
    (ht : t.fixed = false) : firstAbort [readAbort d idx sub, readForm d idx sub false] = none := by
  have hform : readForm d idx sub false = none := by simp [readForm, hk, ht]
  simp [firstAbort, hr, hform]

theorem segRead_of_readable (h : firstAbort [readAbort d idx sub, readForm d idx sub false] = none) :
    segRead idx sub d = if 4096 < (heldBytes d idx sub).length then OdAns.bad .size
      else { abort := none, len := (heldBytes d idx sub).length, result := none, data := some (heldBytes d idx sub) } := by
  unfold segRead
  rw [h]

theorem blkReadInit_of_readable
    (h : firstAbort [readAbort (supersede m d) idx sub, readForm (supersede m d) idx sub false] = none) :
    blkReadInit m idx sub d =
      ({ abort := none, len := 4, result := some (heldBytes (supersede m d) idx sub).length, data := none },
        openXfer m (opened false (ek idx sub) (heldBytes (supersede m d) idx sub).length (heldBytes (supersede m d) idx sub))
          (supersede m d)) := by
  unfold blkReadInit
  simp only [h]
  rfl

theorem blkWriteInit_of_ok {n : Nat} (h : openAbort (supersede m d) m idx sub n true = none) :
    blkWriteInit m idx sub n d = (OdAns.ok, openXfer m (opened true (ek idx sub) n []) (closeHolder m (ek idx sub) (supersede m d))) := by
  unfold blkWriteInit
  simp only [h]
  rfl

theorem blkWriteInit_of_abort {n : Nat} {a : Abort} (h : openAbort (supersede m d) m idx sub n true = some a) :
    blkWriteInit m idx sub n d = (OdAns.bad a, supersede m d) := by
  unfold blkWriteInit
  simp only [h]

theorem matching_of_open {dir : Option Bool} (hx : (master d m).xfer = some x) (hkey : x.key = ek idx sub)
    (hdir : dir = none ∨ dir = some x.wr) : matching d m idx sub dir = some x := by
  simp [matching, hx, hkey, hdir]

theorem matching_of_none {dir : Option Bool} (hx : (master d m).xfer = none) : matching d m idx sub dir = none := by
  simp [matching, hx]

end

section
variable {m idx sub n : Nat} {bs : Bytes} {x : Xfer} {d : Dev}

theorem blkReadNext_of_turn (hm : matching d m idx sub (some false) = some x) (hn : n % 256 = x.seq) :
    blkReadNext m idx sub n d =
      ({ abort := none, len := ((x.got.drop x.done).take 4096).length, result := none, data := some ((x.got.drop x.done).take 4096) },
        openXfer m { x with seq := (x.seq + 1) % 256, done := x.done + ((x.got.drop x.done).take 4096).length } d) := by
  unfold blkReadNext
  simp [hm, hn]

theorem blkReadNext_out_of_turn (hm : matching d m idx sub (some false) = some x) (hn : n % 256 ≠ x.seq) :
    blkReadNext m idx sub n d = (OdAns.bad .toggle, closeXfer m none d) := by
  unfold blkReadNext contBad
  simp [hm, hn]

theorem blkReadNext_of_none (hx : (master d m).xfer = none) (hc : (master d m).closed = none) :
    blkReadNext m idx sub n d = (OdAns.bad .noXfer, updMaster m (fun x => { x with closed := none }) d) := by
  unfold blkReadNext noXfer
  simp [matching_of_none hx, hc]

theorem blkWriteNext_of_turn (hm : matching d m idx sub (some true) = some x) (hn : n % 256 = x.seq)
    (hbad : badBuf d m bs.length = false) (hne : bs ≠ []) (hlen : bs.length = min 4096 (x.total - x.got.length)) :
    blkWriteNext m idx sub n bs.length bs d = (OdAns.ok, openXfer m { x with seq := (x.seq + 1) % 256, got := x.got ++ bs } d) := by
  unfold blkWriteNext
  simp [hm, hn, hbad, hne, ← hlen]

theorem blkWriteNext_of_length (hm : matching d m idx sub (some true) = some x) (hn : n % 256 = x.seq)
    (hbad : badBuf d m bs.length = false) (hlen : bs.length ≠ min 4096 (x.total - x.got.length)) :
    blkWriteNext m idx sub n bs.length bs d = (OdAns.bad .length, closeXfer m none d) := by
  unfold blkWriteNext contBad
  simp [hm, hn, hbad, hlen]

/-! ### BLK_END (R117, R118) -/

theorem blkEnd_of_read {crc : Nat} (hm : matching d m idx sub none = some x) (hw : x.wr = false) :
    blkEnd m idx sub crc d = ({ abort := none, len := 4, result := some (crc32c x.got), data := none }, closeXfer m none d) := by
  unfold blkEnd
  simp [hm, hw]

theorem blkEnd_of_short {crc : Nat} (hm : matching d m idx sub none = some x) (hw : x.wr = true) (hlen : x.got.length ≠ x.total) :
    blkEnd m idx sub crc d = (OdAns.bad .length, closeXfer m none d) := by
  unfold blkEnd
  simp [hm, hw, hlen]

theorem blkEnd_of_bad_crc {crc : Nat} (hm : matching d m idx sub none = some x) (hw : x.wr = true) (hlen : x.got.length = x.total)
    (hcrc : crc % 2 ^ 32 ≠ crc32c x.got) : blkEnd m idx sub crc d = (OdAns.bad .crc, closeXfer m none d) := by
  unfold blkEnd
  simp only [hm]
  rw [if_neg (by simp [hw]), if_neg (by simp [hlen]), if_pos hcrc]

theorem blkEnd_of_fit {crc : Nat} (hm : matching d m idx sub none = some x) (hw : x.wr = true) (hlen : x.got.length = x.total)
    (hcrc : crc % 2 ^ 32 = crc32c x.got) : blkEnd m idx sub crc d = (OdAns.ofWrite (writeBytes m idx sub x.got (closeXfer m none d)).1,
      (writeBytes m idx sub x.got (closeXfer m none d)).2) := by
  unfold blkEnd
  simp only [hm]
  rw [if_neg (by simp [hw]), if_neg (not_not.mpr hlen), if_neg (not_not.mpr hcrc)]

end

/-! ### How a continuation ends -/

section
variable (c : OdCmd) (q : OdReq) (d : Dev)

theorem xfer_endCmd (a : OdAns) : (master (endCmd c q a d) c.m).xfer = (master d c.m).xfer := by
  obtain ⟨-, -, -, hxfer, -⟩ := endCmd_master c q a d
  exact hxfer

/-- One that is turned away leaves no transfer. -/
theorem endCmd_contBad (a : Abort) : abortedIn (endCmd c q (OdAns.bad a) (closeXfer c.m none d)) c q a.code ∧
    (master (endCmd c q (OdAns.bad a) (closeXfer c.m none d)) c.m).xfer = none :=
  ⟨abortedIn_endCmd .., by rw [xfer_endCmd, xfer_closeXfer]⟩

/-- One that succeeds leaves the transfer as it opened it. -/
theorem endCmd_openXfer {a : OdAns} (x : Xfer) (ha : a.abort = none) : doneIn (endCmd c q a (openXfer c.m x d)) c q a.len ∧
    (master (endCmd c q a (openXfer c.m x d)) c.m).xfer = some x :=
  ⟨doneIn_endCmd _ _ _ ha, by rw [xfer_endCmd, master_openXfer]⟩

end

/-- What changes only what taking a command may, ends within what one that reads may change. -/
theorem TakenFrame.readFrame_endCmd {c : OdCmd} {q : OdReq} {a : OdAns} {d y : Dev} (h : TakenFrame c.m d y)
    (ha : a.abort ≠ some .conflict) : readFrame d (endCmd c q a y) c := by
  obtain ⟨hne, hk, he⟩ := h
  obtain ⟨-, -, -, -, -, hne'⟩ := endCmd_master c q a y
  obtain ⟨-, hk', he'⟩ := endCmd_rest c q a y
  obtain ⟨hbell, hnet⟩ := done_congr (x := y) (d := d) (hk _ (by decide)) (by rw [he])
  refine ⟨fun k hn => ?_, fun k hc => (hne' k hc).trans (hne k hc), by rw [he', hbell, hnet, he]⟩
  simp only [List.mem_cons, List.not_mem_nil, or_false, not_or] at hn
  obtain ⟨h2, hF, h10⟩ := hn
  exact (hk' ha k (by simp [hF, h10])).trans (hk k (by simpa using h2))

theorem takenFrame_updMaster {m : Nat} {d y : Dev} (f : Master → Master) (h : TakenFrame m d y) : TakenFrame m d (updMaster m f y) := by
  obtain ⟨hne, hk, he⟩ := h
  refine ⟨fun k hk' => (master_updMaster_ne f y hk').trans (hne k hk'), hk, ?_⟩
  unfold updMaster
  rw [he]

/-! ### The statement -/

theorem segmentedAndBlockReads_holds : segmentedAndBlockReads := by
  intro s c d hruns herr hen
  refine ⟨fun t a hk ha ht hbad => ?bytes, fun x hx hkey hw => ⟨fun n hn => ?turn, fun n hn => ?outOfTurn, fun crc => ?endRead⟩,
    fun n hx hc => ?noXfer⟩
  case bytes =>
    intro bs q3 q5
    have hread : ∀ q, firstAbort [readAbort (supersede c.m (takeCmd c q d)) c.idx c.sub,
        readForm (supersede c.m (takeCmd c q d)) c.idx c.sub false] = none := fun q =>
      readable_bytes (by simpa using hk) (by simpa using readAbort_of_readable hk ha hbad) ht
    have hseg := segRead_of_readable (hread q3)
    have done : ∀ {P : Dev → Prop}, P (endCmd c q3 (segRead c.idx c.sub (supersede c.m (takeCmd c q3 d))) (supersede c.m (takeCmd c q3 d))) →
        Completes (.segRead c) s P :=
      fun h => (completes_reading (q := q3) rfl hruns herr hen (by simp [q3, plainReq])).mpr h
    refine ⟨fun hlen => done ?_, fun hlen => done ?_, ?init⟩
    · rw [hseg, if_neg (by simpa [bs] using hlen)]
      refine ⟨doneIn_endCmd _ _ _ rfl, by rw [xfer_endCmd, master_supersede], fun i hi => ?_⟩
      exact bufByte_endCmd _ rfl rfl hlen hi
    · rw [hseg, if_pos hlen]
      exact abortedIn_endCmd ..
    case init =>
      refine (completes_reading (q := q5) rfl hruns herr hen (by simp [q5, plainReq])).mpr ?_
      rw [show odCommand c q5 (takeCmd c q5 d) = _ from blkReadInit_of_readable (hread q5)]
      obtain ⟨hdone, hxfer⟩ := endCmd_openXfer c q5 (supersede c.m (takeCmd c q5 d))
        (a := { abort := none, len := 4, result := some (bs q5).length, data := none })
        (opened false (ek c.idx c.sub) (bs q5).length (bs q5)) rfl
      exact ⟨hdone, result_endCmd .., hxfer⟩
  case turn =>
    have hm := matching_of_open (dir := some false) ((xfer_takeCmd c (plainReq 7 n) d).1.trans hx) hkey (.inr (by rw [hw]))
    refine (completes_reading (q := plainReq 7 n) rfl hruns herr hen (by simp [plainReq])).mpr ?_
    rw [show odCommand c (plainReq 7 n) _ = _ from blkReadNext_of_turn hm hn]
    obtain ⟨hdone, hxfer⟩ := endCmd_openXfer c (plainReq 7 n) (takeCmd c (plainReq 7 n) d)
      (a := { abort := none, len := ((x.got.drop x.done).take 4096).length, result := none,
              data := some ((x.got.drop x.done).take 4096) })
      { x with seq := (x.seq + 1) % 256, done := x.done + ((x.got.drop x.done).take 4096).length } rfl
    exact ⟨hdone, fun i hi => bufByte_endCmd _ rfl rfl (List.length_take_le ..) hi, hxfer⟩
  case outOfTurn =>
    have hm := matching_of_open (dir := some false) ((xfer_takeCmd c (plainReq 7 n) d).1.trans hx) hkey (.inr (by rw [hw]))
    refine (completes_reading (q := plainReq 7 n) rfl hruns herr hen (by simp [plainReq])).mpr ?_
    rw [show odCommand c (plainReq 7 n) _ = _ from blkReadNext_out_of_turn hm hn]
    exact endCmd_contBad ..
  case endRead =>
    let q : OdReq := { plainReq 9 c.seq with len := 4, arg := crc }
    have hm := matching_of_open (dir := none) ((xfer_takeCmd c q d).1.trans hx) hkey (.inl rfl)
    have hnone : endBytes d c crc = none := by simp [endBytes, matching, hx, hw]
    have h9 : odError c q d = none := by
      unfold odError at herr ⊢
      split
      · next h141 => simp [h141] at herr
      · simp [q, plainReq, hnone]
    refine (completes_enabled (q := q) rfl hruns h9 hen).mpr ?_
    rw [show odCommand c q _ = _ from blkEnd_of_read hm hw]
    exact ⟨doneIn_endCmd (a := { abort := none, len := 4, result := some (crc32c x.got), data := none }) c q _ rfl, result_endCmd ..,
      by rw [xfer_endCmd, xfer_closeXfer]⟩
  case noXfer =>
    obtain ⟨hxfer, hclosed⟩ := xfer_takeCmd c (plainReq 7 n) d
    refine (completes_reading (q := plainReq 7 n) rfl hruns herr hen (by simp [plainReq])).mpr ?_
    rw [show odCommand c (plainReq 7 n) _ = _ from blkReadNext_of_none (hxfer.trans hx) (hclosed.trans hc)]
    exact ⟨abortedIn_endCmd .., (takenFrame_updMaster _ (takenFrame_takeCmd ..)).readFrame_endCmd (by simp [OdAns.bad])⟩

section
variable {c : OdCmd} {q : OdReq} {d : Dev}

/-- A segmented write whose checks pass stores its bytes at once (R116). -/
theorem odRun_segWrite {p : Params} (h4 : q.cmd = 4) (hlen : q.len = q.data.length) (hown : ownRegs c = false)
    (herr : odError c q d = none) (hen : enabled d c.m = true) (hplain : plainBytes p c.idx c.sub = true)
    (hab : bytesAbort (supersede c.m (takeCmd c q d)) c.m c.idx c.sub q.data = none) :
    doneIn (odRun c q d) c q 0 ∧ (master (odRun c q d) c.m).xfer = none ∧ getB (odRun c q d) c.idx c.sub = q.data := by
  obtain ⟨y, hy, hmaster, hget⟩ := writeBytes_of_plain hplain hab
  have hcode : odCommand c q (takeCmd c q d) = (OdAns.ok, y) := by
    unfold odCommand
    simp only [h4, hlen, badBuf_supersede, badBuf_takeCmd hown, hy]
    rw [if_neg (not_not.mpr rfl), if_neg Bool.false_ne_true]
    rfl
  rw [odRun_of_enabled herr hen, hcode]
  exact ⟨doneIn_endCmd (a := OdAns.ok) c q _ rfl, by rw [xfer_endCmd, hmaster, master_supersede], by rw [getB_endCmd, hget]⟩

theorem odCommand_blkWriteInit {n : Nat} (h6 : q.cmd = 6) (harg : q.arg = n) (hn : n < 2 ^ 32) (x : Dev) :
    odCommand c q x = blkWriteInit c.m c.idx c.sub n x := by
  unfold odCommand
  simp only [h6, harg, Nat.mod_eq_of_lt hn]

/-- A block write whose opening checks pass opens (R118). -/
theorem odRun_blkWriteInit {n : Nat} (h6 : q.cmd = 6) (harg : q.arg = n) (hn : n < 2 ^ 32) (herr : odError c q d = none)
    (hen : enabled d c.m = true) (hab : openAbort (supersede c.m (takeCmd c q d)) c.m c.idx c.sub n true = none) :
    doneIn (odRun c q d) c q 0 ∧ (master (odRun c q d) c.m).xfer = some (opened true (ek c.idx c.sub) n []) := by
  rw [odRun_of_enabled herr hen, odCommand_blkWriteInit h6 harg hn, blkWriteInit_of_ok hab]
  exact endCmd_openXfer (a := OdAns.ok) c q _ _ rfl

end

theorem segmentedAndBlockWrites_holds : segmentedAndBlockWrites := by
  intro s c d hruns herr hen
  have hown : ownRegs c = false := ownRegs_of_runs hruns
  have host : ¬ (c.via.isSome ∧ c.m = od d 0x1100 6 ∧ od d 0x1100 1 = 1) := fun h => by
    simp [odError, h] at herr
  refine ⟨fun n hn hk => ?init, fun x hx hkey hw => ⟨fun n bs hn hne hlen => ?part, fun n bs hn hlen => ?misfit, fun crc hcrc h9 => ?finish⟩,
    fun bs h4 => ?whole⟩
  case init =>
    intro q d1
    have h6 : odError c q d = none := by
      obtain ⟨k, hk⟩ := Option.isSome_iff_exists.mp hk
      unfold odError
      rw [if_neg host]
      simp [q, plainReq, hk]
    refine ⟨fun hab => (completes_of_runs (q := q) rfl hruns).mpr ?_, fun a hab => (completes_of_runs (q := q) rfl hruns).mpr ?_⟩
    · exact odRun_blkWriteInit (q := q) rfl rfl hn h6 hen hab
    · rw [odRun_of_enabled h6 hen, odCommand_blkWriteInit (q := q) rfl rfl hn, blkWriteInit_of_abort hab]
      exact ⟨abortedIn_endCmd .., by rw [xfer_endCmd, master_supersede]⟩
  case part =>
    let q : OdReq := { plainReq 8 n with len := bs.length, data := bs }
    have hm := matching_of_open (dir := some true) ((xfer_takeCmd c q d).1.trans hx) hkey (.inr (by rw [hw]))
    have hcode : odCommand c q (takeCmd c q d) = _ := blkWriteNext_of_turn hm hn (badBuf_takeCmd (q := q) hown d) hne hlen
    refine (completes_reading (q := q) rfl hruns herr hen (by simp [q, plainReq])).mpr ?_
    rw [hcode]
    exact endCmd_openXfer (a := OdAns.ok) c q _ _ rfl
  case misfit =>
    let q : OdReq := { plainReq 8 n with len := bs.length, data := bs }
    have hm := matching_of_open (dir := some true) ((xfer_takeCmd c q d).1.trans hx) hkey (.inr (by rw [hw]))
    have hcode : odCommand c q (takeCmd c q d) = _ := blkWriteNext_of_length hm hn (badBuf_takeCmd (q := q) hown d) hlen
    refine (completes_reading (q := q) rfl hruns herr hen (by simp [q, plainReq])).mpr ?_
    rw [hcode]
    exact endCmd_contBad ..
  case finish =>
    intro q
    have hmod : crc % 2 ^ 32 = crc := Nat.mod_eq_of_lt hcrc
    have hm := matching_of_open (dir := none) ((xfer_takeCmd c q d).1.trans hx) hkey (.inl rfl)
    have hrow : ∀ {P : Dev → Prop}, Completes (.blkEnd c crc) s P ↔ P (endCmd c q (blkEnd c.m c.idx c.sub crc (takeCmd c q d)).1
        (blkEnd c.m c.idx c.sub crc (takeCmd c q d)).2) := completes_enabled (q := q) rfl hruns h9 hen
    refine ⟨fun hlen => hrow.mpr ?_, fun hlen hne => hrow.mpr ?_, fun hlen heq hplain hab => hrow.mpr ?_⟩
    · rw [blkEnd_of_short hm hw hlen]
      exact endCmd_contBad ..
    · rw [blkEnd_of_bad_crc hm hw hlen (by rwa [hmod])]
      exact endCmd_contBad ..
    · obtain ⟨y, hy, hmaster, hget⟩ := writeBytes_of_plain hplain hab
      rw [blkEnd_of_fit hm hw hlen (by rwa [hmod]), hy]
      exact ⟨doneIn_endCmd (a := OdAns.ok) c q _ rfl, by rw [xfer_endCmd, hmaster, xfer_closeXfer], by rw [getB_endCmd, hget]⟩
  case whole =>
    intro q hplain hab
    exact (completes_of_runs (q := q) rfl hruns).mpr (odRun_segWrite (q := q) rfl rfl hown h4 hen hplain hab)

/-- Settles O15: a read by its size and its turn, a write by its parts, its length, its CRC and its checks. -/
theorem segmentedAndBlockTransfers : Obligations.SegmentedAndBlockTransfers :=
  ⟨segmentedAndBlockReads_holds, segmentedAndBlockWrites_holds⟩

end Sys2Proof.Machine
end

section
/-! SUPPORT. Entries of fixed size that are written (03_object_dictionary.md R105, R106, R110, R122): their rows, their sizes, the forms of
a write that its checks let through, and what a write of an entry without a behaviour of its own does. -/

namespace Sys2Proof.Machine

/-! ### Rows -/

/-- The tables of the entries. -/
def odTables : List (List OdRow) :=
  [rowsIdentity, rowsTransports, rowsMasters, rowsGlobal, rowsLantern, rowsCodes, rowsRecovery, rowsClasp, rowsTender, rowsBell,
   rowsKeeper, rowsThermal, rowsFaults, rowsChannel, rowsTenderCh, rowsPort, rowsRing, rowsMicrocode, rowsDecBank]

theorem rowsOf_mem_odTables (b : Nat) : rowsOf b ∈ odTables := by
  unfold rowsOf
  repeat' refine iteInduction (motive := (· ∈ odTables)) (fun _ => ?_) (fun _ => ?_)
  all_goals simp only [odTables, List.mem_cons, true_or, or_true]

/-- Sub-indices have eight bits (R104), and a STR is only read. -/
theorem odTables_regular : ∀ l ∈ odTables, ∀ x ∈ l, x.sub1 < 256 ∧ (x.ty = .str → x.acc = .const) := by decide +kernel

theorem rowsOf_regular (b : Nat) : ∀ x ∈ rowsOf b, x.sub1 < 256 ∧ (x.ty = .str → x.acc = .const) :=
  odTables_regular _ (rowsOf_mem_odTables b)

theorem odHighest_of_spread {c : Params} {b i : Nat} (h : spread b = true) : odHighest c b i ≤ 64 := by
  have hb : ¬ (b = 0x1201 ∨ b = 0x1202) := by
    rintro (rfl | rfl) <;> simp [spread] at h
  unfold odHighest
  rw [if_neg hb]
  split
  · exact le_refl _
  · exact min_le_left ..

theorem odRow_regular {c : Params} {idx sub i : Nat} {x : OdRow} (h : odRow c idx sub = some (x, i)) :
    sub < 256 ∧ (x.ty = .str → x.acc = .const) := by
  unfold odRow at h
  split at h
  · cases h
  · next b j _ =>
    split at h
    · next hspread =>
      split at h
      · next hsub =>
        obtain ⟨y, hy, he⟩ := Option.map_eq_some_iff.mp h
        cases he
        have := odHighest_of_spread (c := c) (i := j) hspread
        exact ⟨by omega, (rowsOf_regular b _ (List.mem_of_find?_eq_some hy)).2⟩
      · cases h
    · split at h
      · cases h
      · obtain ⟨y, hy, he⟩ := Option.map_eq_some_iff.mp h
        cases he
        have hfit := List.find?_some hy
        have hrow := rowsOf_regular b _ (List.mem_of_find?_eq_some hy)
        simp only [Bool.and_eq_true, decide_eq_true_eq] at hfit
        exact ⟨by omega, hrow.2⟩

/-! ### Kinds and sizes -/

section
variable {c : Params} {idx sub : Nat} {t : OdTy} {a : OdAcc}

/-- An entry that is not CONST has a row. -/
theorem odRow_of_kind (hk : odKind c idx sub = some (t, a)) (ha : a ≠ .const) :
    ∃ x i, odRow c idx sub = some (x, i) ∧ x.ty = t ∧ x.acc = a := by
  unfold odKind at hk
  split at hk
  · split at hk
    · cases hk
      exact absurd rfl ha
    · cases hk
  · obtain ⟨⟨x, i⟩, hx, he⟩ := Option.map_eq_some_iff.mp hk
    cases he
    exact ⟨x, i, hx, rfl, rfl⟩

theorem sub_lt_of_kind (hk : odKind c idx sub = some (t, a)) (ha : a ≠ .const) : sub < 256 := by
  obtain ⟨x, i, hx, -⟩ := odRow_of_kind hk ha
  exact (odRow_regular hx).1

theorem odSize_of_kind (hk : odKind c idx sub = some (t, a)) (ha : a ≠ .const) : odSize c (ek idx sub) = t.size := by
  have hsub := sub_lt_of_kind hk ha
  obtain ⟨x, i, hx, rfl, -⟩ := odRow_of_kind hk ha
  unfold odSize ek
  rw [show (idx * 256 + sub) / 256 = idx by omega, show (idx * 256 + sub) % 256 = sub by omega, hx]

theorem not_str_of_kind (hk : odKind c idx sub = some (t, a)) (ha : a ≠ .const) : t ≠ .str := by
  obtain ⟨x, i, hx, rfl, rfl⟩ := odRow_of_kind hk ha
  exact fun h => ha ((odRow_regular hx).2 h)

/-- The base of an index of the global, Lantern, recovery and Clasp entries is the index. -/
theorem odBase_low {b i : Nat} (h : odBase c idx = some (b, i)) (hb : b < 0x2500) (hne : b ≠ 0x2310) : b = idx := by
  revert h
  unfold odBase
  repeat' refine iteInduction (motive := fun o => o = some (b, i) → b = idx) (fun _ => ?_) (fun _ => ?_)
  all_goals
    intro h
    simp only [Option.some.injEq, Prod.mk.injEq, reduceCtorEq] at h <;> omega

end

/-! ### The form of a write that passes (R105, R115) -/

theorem form_of_numAbort {d : Dev} {m idx sub len v : Nat} {t : OdTy} {a : OdAcc} (hk : odKind d.cfg idx sub = some (t, a))
    (ha : a ≠ .const) (h : numAbort d m idx sub len v = none) : len = odSize d.cfg (ek idx sub) := by
  have hstr := not_str_of_kind hk ha
  rw [odSize_of_kind hk ha]
  unfold numAbort at h
  simp only [hk] at h
  split at h
  · cases h
  · simp only [firstAbort, List.findSome?_eq_none_iff] at h
    have hform := h _ List.mem_cons_self
    by_contra hlen
    have hfixed : t = .dom ∨ t.fixed = true := by cases t <;> simp_all [OdTy.fixed, OdTy.size]
    simp only [hstr, false_and, false_or, ne_eq, hlen, not_false_eq_true, and_true, if_pos hfixed, id_eq, reduceCtorEq] at hform

/-! ### Entries without a behaviour of their own (R122) -/

/-- The entries, by their base and sub-index, whose writes do more than store a value. -/
def actingKeys : List Nat :=
  [0x120001, 0x200002, 0x200003, 0x200004, 0x200005, 0x205001, 0x205002, 0x210006, 0x210007, 0x210201, 0x210702, 0x210705, 0x240002,
   0x240003, 0x240409, 0x251001, 0x261007, 0x261009, 0x28000B, 0x290004, 0x291102, 0x300305, 0x300308, 0x300507, 0x300601, 0x300602,
   0x300A01, 0x300B01, 0x400002, 0x400003, 0x500002, 0x500003, 0x510001, 0x60000A, 0x600102]

theorem plainEntry_parts {c : Params} {idx sub : Nat} (h : plainEntry c idx sub = true) :
    ∃ t a b i, odKind c idx sub = some (t, a) ∧ odBase c idx = some (b, i) ∧ a ≠ .ro ∧ a ≠ .const ∧ idx ≠ 0x1201 ∧
      (b ≠ 0x2101 ∧ b ≠ 0x2640 ∧ b ≠ 0x2650 ∧ b ≠ 0x2710 ∧ b ≠ 0x3008) ∧ b * 256 + sub ∉ actingKeys := by
  unfold plainEntry at h
  split at h
  · next t a b i hk hb =>
    simp only [Bool.and_eq_true, bne_iff_ne, Bool.not_eq_true', List.contains_eq_mem, decide_eq_false_iff_not] at h
    obtain ⟨⟨⟨⟨hro, hconst⟩, hidx⟩, hbase⟩, hkey⟩ := h
    refine ⟨t, a, b, i, hk, hb, hro, hconst, hidx, ?_, hkey⟩
    simp only [List.mem_cons, List.not_mem_nil, or_false, not_or] at hbase
    exact hbase
  · cases h

section
variable {m key v b i sub : Nat} {via : Option Nat} {d : Dev}

theorem effGlobal_of_plain (h : key ∉ actingKeys) : effGlobal m key v d = putK key v d := by
  unfold effGlobal
  split
  case h_8 => rfl
  all_goals exact absurd (by decide) h

theorem effLantern_of_plain (h : key ∉ actingKeys) (hidx : key / 256 ≠ 0x2101) : effLantern key v d = putK key v d := by
  unfold effLantern
  split
  case h_9 => exact if_neg hidx
  all_goals exact absurd (by decide) h

theorem effUnits_of_plain (h : b * 256 + sub ∉ actingKeys) (hb : b ≠ 0x2640 ∧ b ≠ 0x2650 ∧ b ≠ 0x2710) :
    effUnits m via b i sub key v d = putK key v d ∨ effUnits m via b i sub key v d = wakeRing (i * 64 + sub - 1) (putK key v d) := by
  obtain ⟨h1, h2, h3⟩ := hb
  unfold effUnits
  rw [if_neg h1, if_neg h2, if_neg h3]
  split
  · exact .inr rfl
  · left
    split
    case h_6 => rfl
    all_goals
      next heq => exact absurd (by rw [heq]; decide) h

theorem effInst_of_plain (h : b * 256 + sub ∉ actingKeys) (hb : b ≠ 0x3008) : effInst b i sub key v d = putK key v d := by
  unfold effInst
  split
  case h_16 => exact if_neg hb
  all_goals
    next heq => exact absurd (by rw [heq]; decide) h

end

/-- The value of a plain entry is stored; a wake source that it enables may ring besides (R528). -/
theorem odEffect_of_plain {m idx sub v : Nat} {via : Option Nat} {d : Dev} (h : plainEntry d.cfg idx sub = true) :
    odEffect m via idx sub v d = putK (ek idx sub) v d ∨ ∃ n, odEffect m via idx sub v d = wakeRing n (putK (ek idx sub) v d) := by
  obtain ⟨t, a, b, i, hk, hb, hro, hconst, hidx, ⟨h2101, h2640, h2650, h2710, h3008⟩, hkey⟩ := plainEntry_parts h
  unfold odEffect
  simp only [hk, hb]
  rw [if_neg hro, if_neg hidx]
  split
  · next hlt =>
    rw [← odBase_low hb (by omega) (by omega)]
    exact .inl (effGlobal_of_plain hkey)
  · split
    · next hlt =>
      rw [← odBase_low hb hlt.1 hlt.2]
      exact .inl (effLantern_of_plain hkey (by
        have hsub := sub_lt_of_kind hk hconst
        unfold ek
        omega))
    · split
      · exact (effUnits_of_plain hkey ⟨h2640, h2650, h2710⟩).imp id fun h => ⟨_, h⟩
      · exact .inl (effInst_of_plain hkey h3008)

end Sys2Proof.Machine
end

section
/-! SUPPORT. Expedited writes, and two masters' writes of one entry (03_object_dictionary.md R115, R122, R129, R130): the statement. -/

namespace Sys2Proof.Machine

/-! ### The end of a write -/

/-- A wake source that rings changes its mark, the doorbells and the network. -/
theorem wakeRing_spec (n : Nat) (d : Dev) : ∃ w b x, wakeRing n d = { d with wakeP := w, dbq := b, net := x } := by
  unfold wakeRing
  dsimp only
  split
  · rw [ringUnit_eq]
    exact ⟨_, _, _, rfl⟩
  · exact ⟨_, _, _, rfl⟩

/-- The end of a command, however it ends, changes no entry but its counts. -/
theorem keeps_endCmd (c : OdCmd) (q : OdReq) (a : OdAns) (d : Dev) :
    KeepsEntries d (endCmd c q a d) [ek 0x1100 0x0F, ek 0x1100 0x10, ek 0x1100 0x11] := by
  obtain ⟨y, hy, ⟨-, hrest⟩, -⟩ := endCmd_eq_countEnd c q a d
  obtain ⟨-, hk, -⟩ := countEnd_spec a.abort y
  have hget : ∀ k, getK y k = getK d k := fun k => by unfold getK; rw [hrest]
  rw [hy]
  exact fun k hk' => (hk k hk').trans (hget k)

/-- A command that only ends changes no entry but its master's mark as seen, and its counts. -/
theorem keeps_endCmd_takeCmd (c : OdCmd) (q : OdReq) (a : OdAns) (d : Dev) :
    KeepsEntries d (endCmd c q a (takeCmd c q d)) endKeys := by
  obtain ⟨-, htake, -⟩ := takenFrame_takeCmd c q d
  intro k hk
  simp only [endKeys, List.mem_cons, List.not_mem_nil, or_false, not_or] at hk
  obtain ⟨h2, hF, h10, h11⟩ := hk
  exact (keeps_endCmd c q a _ k (by simp [hF, h10, h11])).trans (htake k (by simpa using h2))

/-! ### A number is written -/

section
variable {m idx sub len v : Nat} {via : Option Nat} {d : Dev}

theorem writeNum_of_abort {a : Abort} (h : numAbort d m idx sub len v = some a) : writeNum m via idx sub len v d = (some a, d) := by
  unfold writeNum
  rw [h]

theorem writeNum_of_ok (h : numAbort d m idx sub len v = none) :
    writeNum m via idx sub len v d = (none, odEffect m via idx sub v (rewrite idx sub (closeHolder m (ek idx sub) d))) := by
  unfold writeNum
  rw [h]

/-- The value of a plain entry is stored, and holds no error. -/
theorem od_odEffect_of_plain (h : plainEntry d.cfg idx sub = true) :
    od (odEffect m via idx sub v d) idx sub = v % 2 ^ (8 * odSize d.cfg (ek idx sub)) ∧ (odEffect m via idx sub v d).odBad = d.odBad := by
  obtain he | ⟨n, he⟩ := odEffect_of_plain (m := m) (via := via) (v := v) h
  · rw [he]
    exact ⟨getK_putK_self .., rfl⟩
  · obtain ⟨w, b, x, hw⟩ := wakeRing_spec n (putK (ek idx sub) v d)
    rw [he, hw]
    exact ⟨getK_putK_self (ek idx sub) v d, rfl⟩

theorem not_mem_rewrite (idx sub : Nat) (d : Dev) : ek idx sub ∉ (rewrite idx sub d).odBad := by simp [rewrite]

/-- A number that passes its checks fits the entry, and stands in it. -/
theorem writeNum_of_plain (h : plainEntry d.cfg idx sub = true) (hab : numAbort d m idx sub len v = none) (hv : v < 2 ^ (8 * len)) :
    ∃ y, writeNum m via idx sub len v d = (none, y) ∧ od y idx sub = v ∧ ek idx sub ∉ y.odBad := by
  obtain ⟨t, a, b, i, hk, -, -, hconst, -⟩ := plainEntry_parts h
  have hlen := form_of_numAbort hk hconst hab
  have hplain : plainEntry (rewrite idx sub (closeHolder m (ek idx sub) d)).cfg idx sub = true := by
    rw [show (rewrite idx sub (closeHolder m (ek idx sub) d)).cfg = d.cfg from cfg_closeHolder ..]
    exact h
  obtain ⟨hod, hbad⟩ := od_odEffect_of_plain (m := m) (via := via) (v := v) hplain
  refine ⟨_, writeNum_of_ok hab, ?_, by rw [hbad]; exact not_mem_rewrite _ _ _⟩
  rw [hod, show (rewrite idx sub (closeHolder m (ek idx sub) d)).cfg = d.cfg from cfg_closeHolder .., ← hlen]
  exact Nat.mod_eq_of_lt hv

end

/-! ### EXP_WRITE (R115) -/

section
variable {c : OdCmd} {q : OdReq} {len v : Nat} {d : Dev}

/-- The code of an expedited write: a number of its length. -/
theorem odCommand_expWrite (h2 : q.cmd = 2) (hlen : q.len = len) (harg : q.arg = v) (hv : v < 2 ^ (8 * len)) (x : Dev) :
    odCommand c q x = (OdAns.ofWrite (writeNum c.m (c.via.map (·.p)) c.idx c.sub len v x).1,
      (writeNum c.m (c.via.map (·.p)) c.idx c.sub len v x).2) := by
  unfold odCommand
  simp only [h2, hlen, harg, Nat.mod_eq_of_lt hv]

theorem odRun_expWrite (h2 : q.cmd = 2) (hlen : q.len = len) (harg : q.arg = v) (hv : v < 2 ^ (8 * len)) (herr : odError c q d = none)
    (hen : enabled d c.m = true) (hplain : plainEntry d.cfg c.idx c.sub = true)
    (hab : numAbort (takeCmd c q d) c.m c.idx c.sub len v = none) :
    doneIn (odRun c q d) c q 0 ∧
    (ek c.idx c.sub ∉ endKeys → od (odRun c q d) c.idx c.sub = v ∧ ek c.idx c.sub ∉ (odRun c q d).odBad) := by
  obtain ⟨y, hy, hod, hbad⟩ := writeNum_of_plain (via := c.via.map (·.p)) (by simpa using hplain) hab hv
  rw [odRun_of_enabled herr hen, odCommand_expWrite h2 hlen harg hv, hy]
  obtain ⟨-, -, he⟩ := endCmd_rest c q OdAns.ok y
  refine ⟨doneIn_endCmd (a := OdAns.ok) c q _ rfl, fun hkey => ⟨?_, ?_⟩⟩
  · refine (keeps_endCmd c q OdAns.ok y _ fun hin => hkey ?_).trans hod
    simp only [endKeys, List.mem_cons] at hin ⊢
    exact .inr hin
  · show _ ∉ (endCmd c q OdAns.ok y).odBad
    rw [he]
    exact hbad

theorem odRun_expWrite_of_abort {a : Abort} (h2 : q.cmd = 2) (hlen : q.len = len) (harg : q.arg = v) (hv : v < 2 ^ (8 * len))
    (herr : odError c q d = none) (hen : enabled d c.m = true) (hab : numAbort (takeCmd c q d) c.m c.idx c.sub len v = some a) :
    odRun c q d = endCmd c q (OdAns.bad a) (takeCmd c q d) := by
  rw [odRun_of_enabled herr hen, odCommand_expWrite h2 hlen harg hv, writeNum_of_abort hab]
  rfl

end

theorem expeditedWrites_holds : expeditedWrites := by
  intro s c len v _ hv d q hruns herr hen
  refine ⟨fun hplain hab => (completes_of_runs (q := q) rfl hruns).mpr ?_, fun a hab => (completes_of_runs (q := q) rfl hruns).mpr ?_⟩
  · exact odRun_expWrite (q := q) rfl rfl rfl hv herr hen hplain hab
  · rw [odRun_expWrite_of_abort (q := q) rfl rfl rfl hv herr hen hab]
    exact ⟨abortedIn_endCmd .., keeps_endCmd_takeCmd c q _ d⟩

/-! ### Two writes in one window (R129) -/

/-- The command that the winner's rival sent. -/
def rivalCmd (c : OdCmd) (r : Rival) : OdCmd := { c with m := r.m, tag := r.tag, seq := r.seq, via := r.via }

/-- What the write that loses changes: its own master's record and the counts. -/
theorem loseCmd_frame (c : OdCmd) (q : OdReq) (d : Dev) :
    abortedIn (loseCmd c q d) c q 0x08000022 ∧ (∀ k, k ≠ c.m → master (loseCmd c q d) k = master d k) ∧
    KeepsEntries d (loseCmd c q d) endKeys ∧ ∀ idx sub, getB (loseCmd c q d) idx sub = getB d idx sub := by
  obtain ⟨hne, -, he⟩ := takenFrame_takeCmd c q d
  obtain ⟨-, -, -, -, -, hne'⟩ := endCmd_master c q (OdAns.bad .conflict) (takeCmd c q d)
  refine ⟨abortedIn_endCmd .., fun k hk => (hne' k hk).trans (hne k hk), keeps_endCmd_takeCmd c q _ d, fun idx sub => ?_⟩
  unfold loseCmd
  rw [getB_endCmd]
  exact getB_of_ods (by rw [he]) (by rw [he]) idx sub

theorem withRegs_of_given {c : OdCmd} (h : ∀ w, c.via = some w → w.regs = false) (q : OdReq) (d : Dev) : withRegs c q d = q := by
  cases hv : c.via with
  | none => unfold withRegs; rw [hv]
  | some w => exact withRegs_of_sent hv (h w hv)

theorem ownRegs_of_given {c : OdCmd} (h : ∀ w, c.via = some w → w.regs = false) : ownRegs c = false := by
  unfold ownRegs
  cases hv : c.via with
  | none => rfl
  | some w => exact h w hv

/-- The row of a write against a rival. -/
def rivalRow (c : OdCmd) (f : WrForm) (r : Rival) : Instr :=
  match f with
  | .exp len arg => .expWrite c len arg (some r)
  | .seg data => .segWrite c ⟨data, some r⟩
  | .init total => .blkWriteInit c ⟨total, some r⟩

theorem exec_rivalRow (c : OdCmd) (f : WrForm) (r : Rival) (s : State) :
    exec (rivalRow c f r) s = writeRow (rivalRow c f r) c f (some r) s := by
  cases f <;> rfl

/-- Both writes are answered; the first then runs, and the other loses. -/
theorem completes_rivalRow {c : OdCmd} {f : WrForm} {r : Rival} {s : State} {P : Dev → Prop} (hne : r.m ≠ c.m)
    (hc : ∀ w, c.via = some w → w.regs = false) (hr : ∀ w, r.via = some w → w.regs = false)
    (her : enabled (viaOkAnswer r.via (viaOkAnswer c.via s.dev)) r.m = true)
    (hec : enabled (viaOkAnswer r.via (viaOkAnswer c.via s.dev)) c.m = true) :
    let d := viaOkAnswer r.via (viaOkAnswer c.via s.dev)
    Completes (rivalRow c f r) s P ↔ P (if firstWins d c.m r.m c.idx
      then loseCmd (rivalCmd c r) (formReq r.seq r.form) (odRun c (formReq c.seq f) d)
      else loseCmd c (formReq c.seq f) (odRun (rivalCmd c r) (formReq r.seq r.form) d)) := by
  intro d
  have hrun := exec_rivalRow c f r s
  unfold writeRow at hrun
  refine (completes_run hrun).trans ?_
  dsimp only
  rw [withRegs_of_given hc, withRegs_of_given (c := { c with m := r.m, tag := r.tag, seq := r.seq, via := r.via }) hr,
    if_neg (by simp [hne, her, hec])]
  rfl

theorem firstWins_iff (d : Dev) (a b idx : Nat) :
    firstWins d a b idx = true ↔ owns d a idx = true ∨ owns d b idx = false ∧ a < b := by
  simp [firstWins]

theorem rivalWrites_holds : rivalWrites := by
  intro s c f r hne d q c2 i given hc hr her hec
  have hrow : ∀ {P : Dev → Prop}, Completes i s P ↔ _ := completes_rivalRow (f := f) hne hc hr her hec
  obtain ⟨hlost, -⟩ := loseCmd_frame c q (odRun c2 (formReq r.seq r.form) d)
  obtain ⟨hlost2, hmaster, hkeep, hget⟩ := loseCmd_frame c2 (formReq r.seq r.form) (odRun c q d)
  have hown := ownRegs_of_given hc
  have hsame : master (loseCmd c2 (formReq r.seq r.form) (odRun c q d)) c.m = master (odRun c q d) c.m := hmaster _ hne.symm
  refine ⟨fun hwin herr => ?_, fun hlose => ?_⟩
  · have hfirst : ∀ {P : Dev → Prop}, P (loseCmd c2 (formReq r.seq r.form) (odRun c q d)) → Completes i s P := fun h =>
      hrow.mpr (by rw [if_pos ((firstWins_iff ..).mpr hwin)]; exact h)
    have hstays : ∀ {n : Nat}, doneIn (odRun c q d) c q n → doneIn (loseCmd c2 (formReq r.seq r.form) (odRun c q d)) c q n := fun h => by
      unfold doneIn
      rw [hsame]
      exact h
    refine ⟨fun len v hf hv hplain hab => hfirst ?_, fun bs hf hplain hab => hfirst ?_, fun n hf hn hab => hfirst ?_, hfirst hlost2⟩
    · obtain ⟨hdone, hstored⟩ := odRun_expWrite (c := c) (q := q) (d := d) (by simp [q, hf, formReq]) (by simp [q, hf, formReq])
        (by simp [q, hf, formReq]) hv herr hec hplain hab
      exact ⟨hstays hdone, fun hkey => (hkeep _ hkey).trans (hstored hkey).1⟩
    · have hdata : q.data = bs := by simp [q, hf, formReq]
      obtain ⟨hdone, -, hbytes⟩ := odRun_segWrite (c := c) (q := q) (d := d) (by simp [q, hf, formReq]) (by simp [q, hf, formReq])
        hown herr hec hplain (by rw [hdata]; exact hab)
      exact ⟨hstays hdone, by rw [hget, hbytes, hdata]⟩
    · obtain ⟨hdone, hxfer⟩ := odRun_blkWriteInit (c := c) (q := q) (d := d) (by simp [q, hf, formReq]) (by simp [q, hf, formReq])
        hn herr hec hab
      exact ⟨hstays hdone, by rw [hsame, hxfer]⟩
  · refine hrow.mpr ?_
    rw [if_neg (fun h => hlose ((firstWins_iff ..).mp h))]
    exact hlost

/-- Settles O16: a write alone by its checks, two writes of one entry by who owns its group. -/
theorem expeditedWrites : Obligations.ExpeditedWrites := ⟨expeditedWrites_holds, rivalWrites_holds⟩

end Sys2Proof.Machine
end

section
/-! SUPPORT. A write of kp_wake_en (0x2730) while a wake source of its domain stands asserted: besides storing its value, which is all
that the statement on entry writes leaves it, it marks the source as pending and rings Bell (15_keeper_power_domains.md R528, R529). -/

namespace Sys2Proof.Machine

/-- The reset state in which a flit waits for domain 0, which is OFF and has no wake source enabled. -/
def flitWaiting : Dev := { Dev.reset with doms := [(0, { Dom.reset with flit := true })] }

/-- The block gets there from reset, as the flit's wake source is asserted. -/
theorem flitWaiting_of_reset : Completes (.wakeSourceAssert 0 0) State.reset (fun d' => d' = flitWaiting) :=
  (completes_run (f := wakeAssert 0 0) rfl).mpr (by decide +kernel)

theorem accepted_wakeEnable : plainEntry flitWaiting.cfg 0x2730 1 = true ∧ Accepted flitWaiting 0 0x2730 1 1 := by
  unfold Accepted
  decide +kernel

/-- Enabling the source marks it as pending. -/
theorem wakeP_wakeEnable : (rowFree 0 0x2730 1 1 flitWaiting).wakeP = 1 := by decide +kernel

/-- Refutes O18: the value 1 written to kp_wake_en of domain 0 through OD_ENTRY_WRITE also sets the domain's bit of kp_wake_pending, which
is no entry that the write names and no saturation mark. -/
theorem not_storingAndEntryWrites : ¬ Obligations.StoringAndEntryWrites := by
  rintro ⟨-, h⟩
  obtain ⟨hentry, -⟩ := h { dev := flitWaiting, pending := [] } 0 1
  obtain ⟨hplain, hacc⟩ := accepted_wakeEnable
  have hdoes := hentry 0x2730 1 hplain hacc
  obtain ⟨d1, ⟨-, -, hstored⟩, -, -, hended⟩ := (completes_run (f := rowFree 0 0x2730 1 1) rfl).mp hdoes
  have hkept : (rowFree 0 0x2730 1 1 flitWaiting).wakeP = flitWaiting.wakeP := by
    rw [hended, hstored]
    rfl
  rw [wakeP_wakeEnable] at hkept
  exact absurd hkept (by decide)

end Sys2Proof.Machine
end

section
/-! SUPPORT. master_enable and grp_owner (03_object_dictionary.md R126 to R128): what a master loses with its enable bit, and what a write of
a group's owner changes. -/

namespace Sys2Proof.Machine

/-! ### The owner of a group (R127) -/

/-- The owner of a group that R111 defines is a number of one byte. -/
theorem odKind_owner {c : Params} {g : Nat} (hg : g < 0x30) (h : groupDefined c g = true) : odKind c 0x1201 (g + 1) = some (.u8, .rw) := by
  simp [odKind, odRow, odBase, spread, h, rowsOf, rowsMasters, r, hg]

theorem odKind_owner_none {c : Params} {g : Nat} (h : groupDefined c g = false) : odKind c 0x1201 (g + 1) = none := by
  simp [odKind, odRow, odBase, spread, h]

theorem odSize_owner {c : Params} {g : Nat} (hg : g < 0x30) (h : groupDefined c g = true) : odSize c (ek 0x1201 (g + 1)) = 1 :=
  odSize_of_kind (odKind_owner hg h) (by decide)

/-- An accepted write names a group that R111 defines: one of another group is a host-made error (R110). -/
theorem groupDefined_of_accepted {d : Dev} {m g v : Nat} (h : Accepted d m 0x1201 (g + 1) v) : groupDefined d.cfg g = true := by
  obtain ⟨hen, herr, -, -⟩ := h
  by_contra hdef
  have hkind := odKind_owner_none (Bool.eq_false_iff.mpr hdef)
  have hindex : odDefined d.cfg 0x1201 = true := by simp [odDefined, odBase, rowsOf, rowsMasters, r]
  simp [numError, numAbort, writeError, hkind, hindex, hen] at herr

theorem onlyEntries_setOwner (g v : Nat) (d : Dev) : OnlyEntries d (setOwner g v d) [ek 0x1201 (g + 1), ek 0x1202 (g + 1)] := by
  have howner : OnlyEntries d (put 0x1201 (g + 1) v d) [ek 0x1201 (g + 1), ek 0x1202 (g + 1)] := ⟨keeps_put d (by simp), rfl⟩
  unfold setOwner
  dsimp only
  split
  · exact howner.trans ⟨keeps_put _ (by simp), rfl⟩
  · exact howner

theorem grpOwner_setOwner {g v : Nat} {d : Dev} (hg : g < 0x30) (h : groupDefined d.cfg g = true) :
    grpOwner (setOwner g v d) g = v % 256 := by
  have howner : grpOwner (put 0x1201 (g + 1) v d) g = v % 256 := by
    unfold grpOwner
    rw [od_put_self, odSize_owner hg h]
    rfl
  unfold setOwner
  dsimp only
  split
  · exact (od_put_ne _ _ (by unfold ek; omega)).trans howner
  · exact howner

theorem exclusive_setOwner (g v : Nat) (d : Dev) :
    od (setOwner g v d) 0x1202 (g + 1) = if v = 0xFF then 0 else od d 0x1202 (g + 1) := by
  unfold setOwner
  dsimp only
  split
  · simp
  · exact od_put_ne _ _ (by unfold ek; omega)

/-! ### A master releases its groups (R128) -/

/-- Of the groups listed, those that the master owned are free, without exclusion; nothing else has changed. -/
structure Released (k : Nat) (gs : List Nat) (d x : Dev) : Prop where
  free : ∀ g ∈ gs, grpOwner d g = k → grpOwner x g = 0xFF ∧ od x 0x1202 (g + 1) = 0
  kept : ∀ g, g < 0x30 → (g ∉ gs ∨ grpOwner d g ≠ k) → grpOwner x g = grpOwner d g ∧ od x 0x1202 (g + 1) = od d 0x1202 (g + 1)
  below : ∀ key, key < 0x120100 → getK x key = getK d key
  rest : x = { d with od := x.od, sat := x.sat }

/-- One group of the list. -/
def freeGroup (k : Nat) (x : Dev) (g : Nat) : Dev := if grpOwner x g = k then setOwner g 0xFF x else x

/-- Another group's owner and exclusion stay. -/
theorem od_setOwner_ne {i g n v : Nat} (d : Dev) (hi : i = 0x1201 ∨ i = 0x1202) (hg : g < 0x30) (hn : n < 0x30) (hne : n ≠ g) :
    od (setOwner g v d) i (n + 1) = od d i (n + 1) := by
  refine (onlyEntries_setOwner g v d).1 _ ?_
  rcases hi with rfl | rfl <;> simp [ek] <;> omega

theorem released_one {k g : Nat} {d : Dev} (hg : g < 0x30) (h : groupDefined d.cfg g = true) : Released k [g] d (freeGroup k d g) := by
  unfold freeGroup
  split
  · next hk =>
    obtain ⟨hkeeps, hrest⟩ := onlyEntries_setOwner g 0xFF d
    refine ⟨fun n hn _ => ?_, fun n hn hout => ?_, fun key hkey => hkeeps key (by simp [ek]; omega), hrest⟩
    · rw [List.mem_singleton.mp hn]
      exact ⟨grpOwner_setOwner hg h, exclusive_setOwner g 0xFF d⟩
    · have hne : n ≠ g := by
        rintro rfl
        simp [hk] at hout
      exact ⟨od_setOwner_ne d (.inl rfl) hg hn hne, od_setOwner_ne d (.inr rfl) hg hn hne⟩
  · next hk =>
    refine ⟨fun n hn ho => ?_, fun _ _ _ => ⟨rfl, rfl⟩, fun _ _ => rfl, rfl⟩
    rw [List.mem_singleton.mp hn] at ho
    exact absurd ho hk

theorem Released.cons {k g : Nat} {gs : List Nat} {d x y : Dev} (h1 : Released k [g] d x) (h2 : Released k gs x y)
    (hg : g < 0x30) (hgs : ∀ n ∈ gs, n < 0x30) (hnew : g ∉ gs) : Released k (g :: gs) d y := by
  refine ⟨fun n hn ho => ?_, fun n hn hout => ?_, fun key hkey => (h2.below key hkey).trans (h1.below key hkey), ?_⟩
  · rcases List.mem_cons.mp hn with rfl | hin
    · obtain ⟨howner, hexcl⟩ := h2.kept n hg (.inl hnew)
      rw [howner, hexcl]
      exact h1.free n (by simp) ho
    · have hne : n ∉ [g] := fun h => hnew (List.mem_singleton.mp h ▸ hin)
      exact h2.free n hin ((h1.kept n (hgs n hin) (.inl hne)).1.trans ho)
  · have hfirst := h1.kept n hn (hout.imp_left fun h hin => h (by simp_all))
    have hthen := h2.kept n hn (by
      rw [hfirst.1]
      exact hout.imp_left fun h hin => h (List.mem_cons_of_mem _ hin))
    exact ⟨hthen.1.trans hfirst.1, hthen.2.trans hfirst.2⟩
  · rw [h2.rest, h1.rest]

theorem released_foldl (k : Nat) (gs : List Nat) (hnodup : gs.Nodup) (d : Dev)
    (hgs : ∀ g ∈ gs, g < 0x30 ∧ groupDefined d.cfg g = true) : Released k gs d (gs.foldl (freeGroup k) d) := by
  induction gs generalizing d with
  | nil => exact ⟨fun _ hn => absurd hn (by simp), fun _ _ _ => ⟨rfl, rfl⟩, fun _ _ => rfl, rfl⟩
  | cons g gs ih =>
    obtain ⟨hnew, hnodup⟩ := List.nodup_cons.mp hnodup
    obtain ⟨hg, hdef⟩ := hgs g (by simp)
    have hfirst := released_one (k := k) hg hdef
    have hcfg : (freeGroup k d g).cfg = d.cfg := by rw [hfirst.rest]
    have hlater : ∀ n ∈ gs, n < 0x30 ∧ groupDefined d.cfg n = true := fun n hn => hgs n (List.mem_cons_of_mem _ hn)
    exact hfirst.cons (ih hnodup _ (hcfg ▸ hlater)) hg (fun n hn => (hlater n hn).1) hnew

/-! ### A master's transfer closes, counted (R120) -/

/-- What no transfer that closes changes: the entries of the masters and of the groups. -/
theorem getK_closeCounted (k : Nat) (d : Dev) {key : Nat} (hset : setKey key) (hcnt : key ≠ ek 0x1100 0x10) :
    getK (closeCounted k d) key = getK d key := by
  obtain ⟨y, hy, hk, -⟩ := closeCounted_eq k d
  rw [hy, (readQuiet_closeXfer k none y).2.2 key hset]
  exact hk key (by simpa using hcnt)

theorem xfer_closeCounted (k : Nat) (d : Dev) : (master (closeCounted k d) k).xfer = none := xfer_closeXfer _ _ _

theorem cfg_closeCounted (k : Nat) (d : Dev) : (closeCounted k d).cfg = d.cfg := (sound_closeCounted (Sound.refl d)).cfg

/-- R105: a stored number of a canonical dictionary fits its entry. -/
theorem od_le_of_dictOk {d : Dev} (h : DictOk d) : od d 0x1100 0x10 ≤ 0xFFFFFFFF := by
  have hstored : ∀ t : Tab Nat, (∀ p ∈ t, p.2 < 2 ^ (8 * odSize d.cfg p.1)) → tabGet 0 t 0x110010 ≤ 0xFFFFFFFF := by
    intro t
    induction t with
    | nil => exact fun _ => Nat.zero_le _
    | cons p t ih =>
      intro hall
      unfold tabGet
      split
      · next hp =>
        have hsize : odSize d.cfg 0x110010 = 4 := rfl
        have hfit := hall p (by simp)
        rw [hp, hsize] at hfit
        omega
      · exact ih fun q hq => hall q (List.mem_cons_of_mem _ hq)
  exact hstored d.od h.2

/-- The aborts counted stay within their entry, and are one more if a transfer was open. -/
theorem counted_closeCounted (k : Nat) (d : Dev) (hmax : od d 0x1100 0x10 ≤ 0xFFFFFFFF) :
    od (closeCounted k d) 0x1100 0x10 = min (od d 0x1100 0x10 + if (master d k).xfer.isSome then 1 else 0) 0xFFFFFFFF := by
  unfold closeCounted
  rw [show od (closeXfer k none _) 0x1100 0x10 = od _ 0x1100 0x10 from (readQuiet_closeXfer k none _).2.2 _ (.inl (by decide))]
  split
  · exact (cnt_spec 0x1100 0x10 d).1
  · exact (Nat.min_eq_left hmax).symm

/-! ### Masters that lose their enable bit (R128) -/

/-- The masters listed have neither a transfer nor a group; the other masters, and their groups, are as they were. -/
structure Dropped (ks : List Nat) (d x : Dev) : Prop where
  cfg : x.cfg = d.cfg
  enable : od x 0x1200 1 = od d 0x1200 1
  closed : ∀ k ∈ ks, (master x k).xfer = none
  others : ∀ k, k ∉ ks → master x k = master d k
  freed : ∀ g, g < 0x30 → groupDefined d.cfg g = true → grpOwner d g ∈ ks → grpOwner x g = 0xFF ∧ od x 0x1202 (g + 1) = 0
  kept : ∀ g, g < 0x30 → grpOwner d g ∉ ks → grpOwner x g = grpOwner d g ∧ od x 0x1202 (g + 1) = od d 0x1202 (g + 1)
  counted : od d 0x1100 0x10 ≤ 0xFFFFFFFF →
    od x 0x1100 0x10 = min (od d 0x1100 0x10 + (ks.filter (fun k => (master d k).xfer.isSome)).length) 0xFFFFFFFF

theorem released_dropMaster (k : Nat) (d : Dev) :
    Released k ((List.range 0x30).filter (groupDefined d.cfg)) (closeCounted k d) (dropMaster k d) :=
  released_foldl k _ (List.nodup_range.filter _) _ fun g hg => by
    rw [cfg_closeCounted]
    simpa using hg

theorem dropped_one (k : Nat) (d : Dev) : Dropped [k] d (dropMaster k d) := by
  obtain ⟨hfree, hkept, hbelow, hrest⟩ := released_dropMaster k d
  have hmaster : ∀ n, master (dropMaster k d) n = master (closeCounted k d) n := master_of_masters (by rw [hrest])
  have howner : ∀ g, g < 0x30 → grpOwner (closeCounted k d) g = grpOwner d g := fun g hg =>
    getK_closeCounted k d (.inl (by unfold ek; omega)) (by unfold ek; omega)
  have hexcl : ∀ g, g < 0x30 → od (closeCounted k d) 0x1202 (g + 1) = od d 0x1202 (g + 1) := fun g hg =>
    getK_closeCounted k d (.inl (by unfold ek; omega)) (by unfold ek; omega)
  constructor
  case cfg => exact (sound_dropMaster (Sound.refl d)).cfg
  case enable => exact (hbelow _ (by decide)).trans (getK_closeCounted k d (.inl (by decide)) (by decide))
  case closed =>
    intro n hn
    rw [List.mem_singleton.mp hn, hmaster]
    exact xfer_closeCounted k d
  case others =>
    intro n hn
    rw [hmaster]
    exact master_closeCounted_ne d (by simpa using hn)
  case freed =>
    intro g hg hdef ho
    exact hfree g (by simpa using ⟨hg, hdef⟩) ((howner g hg).trans (List.mem_singleton.mp ho))
  case kept =>
    intro g hg ho
    rw [← howner g hg, ← hexcl g hg]
    exact hkept g hg (.inr fun h => ho (by simp [← howner g hg, h]))
  case counted =>
    intro hmax
    rw [show od (dropMaster k d) 0x1100 0x10 = od (closeCounted k d) 0x1100 0x10 from hbelow _ (by decide),
      counted_closeCounted k d hmax]
    by_cases h : (master d k).xfer.isSome <;> simp [h]

theorem Dropped.cons {k : Nat} {ks : List Nat} {d x y : Dev} (h1 : Dropped [k] d x) (h2 : Dropped ks x y) (hnew : k ∉ ks)
    (hks : 0xFF ∉ ks) : Dropped (k :: ks) d y := by
  have hsame : ∀ n ∈ ks, master x n = master d n := fun n hn => h1.others n fun h => hnew (List.mem_singleton.mp h ▸ hn)
  constructor
  case cfg => exact h2.cfg.trans h1.cfg
  case enable => exact h2.enable.trans h1.enable
  case closed =>
    intro n hn
    rcases List.mem_cons.mp hn with rfl | hin
    · rw [h2.others n hnew]
      exact h1.closed n (by simp)
    · exact h2.closed n hin
  case others =>
    intro n hn
    obtain ⟨hne, hout⟩ := List.ne_and_not_mem_of_not_mem_cons hn
    exact (h2.others n hout).trans (h1.others n (by simpa using hne))
  case freed =>
    intro g hg hdef ho
    by_cases hk : grpOwner d g = k
    · obtain ⟨hfree, hexcl⟩ := h1.freed g hg hdef (by simp [hk])
      obtain ⟨howner, hexcl'⟩ := h2.kept g hg (hfree ▸ hks)
      exact ⟨howner.trans hfree, hexcl'.trans hexcl⟩
    · have hstay := h1.kept g hg (by simpa using hk)
      refine h2.freed g hg (h1.cfg ▸ hdef) (hstay.1 ▸ ?_)
      simpa [hk] using ho
  case kept =>
    intro g hg ho
    obtain ⟨hne, hout⟩ := List.ne_and_not_mem_of_not_mem_cons ho
    obtain ⟨howner, hexcl⟩ := h1.kept g hg (by simpa using hne)
    obtain ⟨howner', hexcl'⟩ := h2.kept g hg (howner ▸ hout)
    exact ⟨howner'.trans howner, hexcl'.trans hexcl⟩
  case counted =>
    intro hmax
    have hfirst := h1.counted hmax
    have hopen : ks.filter (fun n => (master x n).xfer.isSome) = ks.filter (fun n => (master d n).xfer.isSome) :=
      List.filter_congr fun n hn => by rw [hsame n hn]
    have hsplit : ((k :: ks).filter (fun n => (master d n).xfer.isSome)).length =
        ([k].filter (fun n => (master d n).xfer.isSome)).length + (ks.filter (fun n => (master d n).xfer.isSome)).length := by
      rw [← List.singleton_append, List.filter_append, List.length_append]
    rw [h2.counted (by omega), hopen, hfirst, hsplit]
    omega

theorem dropped_foldl (ks : List Nat) (hnodup : ks.Nodup) (hks : 0xFF ∉ ks) (d : Dev) :
    Dropped ks d (ks.foldl (fun x k => dropMaster k x) d) := by
  induction ks generalizing d with
  | nil =>
    exact ⟨rfl, rfl, fun _ h => absurd h (by simp), fun _ _ => rfl, fun _ _ _ h => absurd h (by simp), fun _ _ _ => ⟨rfl, rfl⟩,
      fun hmax => (Nat.min_eq_left hmax).symm⟩
  | cons k ks ih =>
    obtain ⟨hnew, hnodup⟩ := List.nodup_cons.mp hnodup
    obtain ⟨-, hks⟩ := List.ne_and_not_mem_of_not_mem_cons hks
    exact (dropped_one k d).cons (ih hnodup hks _) hnew hks

/-! ### The statement (R126 to R128) -/

/-- The masters that lose their enable bit by a write of master_enable. -/
def losing (d : Dev) (v k : Nat) : Bool := bit (od d 0x1200 1) k && !bit v k

theorem dropped_setEnable (v : Nat) (d : Dev) :
    Dropped ((List.range 8).filter (losing d v)) (put 0x1200 1 v d) (setEnable v d) :=
  dropped_foldl _ (List.nodup_range.filter _) (by simp) _

/-- What a write of master_enable does. -/
def EnableDoes (old : Dev) (v : Nat) (d0 d1 : Dev) : Prop :=
  od d1 0x1200 1 = v % 256 ∧
  (∀ k, k < 8 → losing old v k = true → (master d1 k).xfer = none) ∧
  (∀ k, k < 8 → losing old v k = false → master d1 k = master d0 k) ∧
  (∀ g, g < 0x30 → groupDefined old.cfg g = true → grpOwner old g < 8 → losing old v (grpOwner old g) = true →
    grpOwner d1 g = 0xFF ∧ od d1 0x1202 (g + 1) = 0) ∧
  (∀ g, g < 0x30 → (8 ≤ grpOwner old g ∨ losing old v (grpOwner old g) = false) →
    grpOwner d1 g = grpOwner old g ∧ od d1 0x1202 (g + 1) = od old 0x1202 (g + 1)) ∧
  Counted d0 d1 0x1100 0x10 ((List.range 8).filter (fun k => losing old v k && (master d0 k).xfer.isSome)).length

/-- The groups' entries are those before the command. -/
theorem enableDoes_setEnable (m v : Nat) {d : Dev} (h : DictOk d) :
    EnableDoes d v (rewrite 0x1200 1 (seen m d)) (setEnable v (rewrite 0x1200 1 (seen m d))) := by
  set d0 := rewrite 0x1200 1 (seen m d)
  obtain ⟨-, henable, hclosed, hothers, hfreed, hkept, hcounted⟩ := dropped_setEnable v d0
  have hget : ∀ key, key ≠ ek 0x1200 2 → getK d0 key = getK d key := fun key hk => keeps_seen m d key (by simpa using hk)
  have hgroup : ∀ i g, 0x1201 ≤ i → od (put 0x1200 1 v d0) i (g + 1) = od d i (g + 1) := fun i g hi =>
    (od_put_ne v d0 (by unfold ek; omega)).trans (hget _ (by unfold ek; omega))
  have howner : ∀ g, grpOwner (put 0x1200 1 v d0) g = grpOwner d g := fun g => hgroup 0x1201 g (le_refl _)
  have hlosing : losing d0 v = losing d v := by
    unfold losing
    rw [show od d0 0x1200 1 = od d 0x1200 1 from hget _ (by decide)]
  have hmem : ∀ k, k ∈ (List.range 8).filter (losing d0 v) ↔ k < 8 ∧ losing d v k = true := fun k => by
    rw [List.mem_filter, List.mem_range, hlosing]
  have hcount : od (put 0x1200 1 v d0) 0x1100 0x10 = od d 0x1100 0x10 :=
    (od_put_ne v d0 (by decide)).trans (hget _ (by decide))
  refine ⟨?_, fun k hk hl => hclosed k ((hmem k).mpr ⟨hk, hl⟩), fun k hk hl => hothers k fun hin => ?_, fun g hg hdef ho hl => ?_,
    fun g hg hl => ?_, ?_⟩
  · rw [henable, od_put_self]
    rfl
  · simp [((hmem k).mp hin).2] at hl
  · exact hfreed g hg hdef ((hmem _).mpr (by rw [howner]; exact ⟨ho, hl⟩))
  · rw [← howner g, ← hgroup 0x1202 g (by decide)]
    refine hkept g hg fun hin => ?_
    obtain ⟨hlt, hlose⟩ := (hmem _).mp hin
    rw [howner] at hlt hlose
    rcases hl with hge | hno
    · omega
    · simp [hno] at hlose
  · have hsum := hcounted (hcount ▸ od_le_of_dictOk h)
    rw [List.filter_filter, hlosing] at hsum
    simp only [Bool.and_comm (losing d v _)]
    exact counted_of_od_eq (d := put 0x1200 1 v d0) rfl (od_put_ne v d0 (by decide)) hsum

/-- R128, on a canonical dictionary: a write of master_enable does what the statement says. -/
theorem masterEnable_writeDoes {s : State} {m v : Nat} (h : DictOk s.dev) (hacc : Accepted s.dev m 0x1200 1 v) :
    WriteDoes (.masterEnable m v) s m (EnableDoes s.dev v) :=
  writeDoes_of_accepted rfl rfl hacc (enableDoes_setEnable m v h)

/-- R127: a write of grp_owner does what the statement says. -/
theorem grpOwner_writeDoes {s : State} {m g v : Nat} (hg : g < 0x30) (hacc : Accepted s.dev m 0x1201 (g + 1) v) :
    WriteDoes (.grpOwner m g v) s m (fun d0 d1 =>
      grpOwner d1 g = v % 256 ∧ od d1 0x1202 (g + 1) = (if v = 0xFF then 0 else od s.dev 0x1202 (g + 1)) ∧
      OnlyEntries d0 d1 [ek 0x1201 (g + 1), ek 0x1202 (g + 1)]) := by
  have hdef := groupDefined_of_accepted hacc
  have hrow : rowEntry s.dev.cfg (.grpOwner m g v) = some (m, 0x1201, g + 1, v) := by simp [rowEntry, idxIf, hg]
  have hnew : rewritten (.grpOwner m g v) (seen m s.dev) = rewrite 0x1201 (g + 1) (seen m s.dev) := by
    simp [rewritten, rowEntry, idxIf, hg]
  refine writeDoes_of_accepted (exec_of_rowEntry hrow) hnew hacc ?_
  have heffect : ∀ d : Dev, d.cfg = s.dev.cfg → odEffect m none 0x1201 (g + 1) v d = setOwner g v d := by
    intro d hd
    unfold odEffect
    rw [hd, odKind_owner hg hdef]
    rfl
  rw [heffect (rewrite 0x1201 (g + 1) (seen m s.dev)) rfl]
  refine ⟨grpOwner_setOwner hg hdef, ?_, onlyEntries_setOwner g v _⟩
  rw [exclusive_setOwner]
  exact if_congr Iff.rfl rfl (keeps_seen m s.dev _ (by simp [ek]; omega))

/-- A state whose count of aborts is larger than its four bytes hold, which no dictionary in canonical form is (R105). -/
def overfull : Dev := { Dev.reset with od := [(ek 0x1100 0x10, 2 ^ 32)] }

theorem accepted_overfull : Accepted overfull 0 0x1200 1 0xFF := by
  unfold Accepted
  decide +kernel

/-- A write of master_enable that takes no master's bit leaves the count alone. -/
theorem od_rowFree_overfull : od (rowFree 0 0x1200 1 0xFF overfull) 0x1100 0x10 = 2 ^ 32 := by decide +kernel

/-- Refutes O19: it says of every state, canonical or not, that od_abort_count is afterwards at most the largest number of its size, even
where no transfer closed. On a state that stores a larger number there, a write of master_enable that takes no bit leaves it as it is
(`masterEnable_writeDoes` and `grpOwner_writeDoes` have the statement's two parts, the first for canonical dictionaries, which every step
keeps). -/
theorem not_mastersAndOwners : ¬ Obligations.MastersAndOwners := by
  intro h
  obtain ⟨henable, -⟩ := h { dev := overfull, pending := [] } 0 0xFF
  have hdoes := henable accepted_overfull
  obtain ⟨d1, ⟨-, -, -, -, -, hcounted⟩, -, hkeeps, -⟩ := (completes_run (f := rowFree 0 0x1200 1 0xFF) rfl).mp hdoes
  have hbound : od d1 0x1100 0x10 ≤ 0xFFFFFFFF := by
    rw [Counted, if_pos (by decide)] at hcounted
    omega
  have hsame : od d1 0x1100 0x10 = 2 ^ 32 := (hkeeps _ (by decide)).symm.trans od_rowFree_overfull
  omega

end Sys2Proof.Machine
end

section
/-! SUPPORT. Writes that clear (03_object_dictionary.md R109; R500, R544, R563): counters, the counters of the map cache's ways, the lane
counters, the suspect marks of sensors, and fault bits. -/

namespace Sys2Proof.Machine

/-! ### Bits of a mask -/

theorem bit_eq_testBit (v i : Nat) : bit v i = v.testBit i := by
  unfold bit
  rw [Nat.testBit_eq_decide_div_mod_eq]
  rfl

/-- A bit stands after a mask is cleared if it stood before and the mask does not name it. -/
theorem bit_nAndNot (a b i : Nat) : bit (nAndNot a b) i = (bit a i && !bit b i) := by
  unfold nAndNot
  simp only [bit_eq_testBit, Nat.testBit_xor, Nat.testBit_and]
  cases a.testBit i <;> simp

/-! ### Records that are changed one by one -/

/-- A change of the records listed changes each of them once. -/
theorem get_foldl_update {β : Type} {get : Dev → Nat → β} {update : Nat → Dev → Dev} {f : β → β}
    (hself : ∀ i d, get (update i d) i = f (get d i)) (hne : ∀ i j d, j ≠ i → get (update i d) j = get d j) (l : List Nat)
    (hnodup : l.Nodup) (d : Dev) (j : Nat) :
    get (l.foldl (fun x i => update i x) d) j = if j ∈ l then f (get d j) else get d j := by
  induction l generalizing d with
  | nil => rfl
  | cons i l ih =>
    obtain ⟨hnew, hnodup⟩ := List.nodup_cons.mp hnodup
    rw [List.foldl_cons, ih hnodup]
    by_cases hj : j = i
    · rw [hj, if_neg hnew, if_pos List.mem_cons_self, hself]
    · simp only [hne i j d hj, List.mem_cons, hj, false_or]

/-- The values of a table changed one by one, where those at their default stay and are not listed. -/
theorem tabGet_map_filter {α : Type} [DecidableEq α] {v : α} {f : α → α} (hv : f v = v) (t : Tab α)
    (hsorted : t.Pairwise (fun p q => p.1 < q.1)) (k : Nat) : tabGet v ((t.map (fun p => (p.1, f p.2))).filter (fun p => decide (p.2 ≠ v))) k = f (tabGet v t k) := by
  induction t with
  | nil => exact hv.symm
  | cons p t ih =>
    obtain ⟨j, w⟩ := p
    obtain ⟨hlater, hsorted⟩ := List.pairwise_cons.mp hsorted
    have hrest := ih hsorted
    simp only [ne_eq, decide_not] at hrest ⊢
    by_cases hw : f w = v
    · by_cases hj : j = k
      · have habsent : tabGet v t k = v := by
          have := tabGet_append v t [] k fun q hq => by have := hlater q hq; omega
          simpa using this
        simp [hw, hrest, tabGet, hj, habsent, hv]
      · simp [hw, hrest, tabGet, hj]
    · by_cases hj : j = k <;> simp [hw, hrest, tabGet, hj]

/-! ### Counters (R109) -/

/-- A write that passes its checks passes the one of its access class. -/
theorem accessAbort_of_numAbort {d : Dev} {m idx sub len v b i : Nat} {t : OdTy} {a : OdAcc} (hk : odKind d.cfg idx sub = some (t, a))
    (hb : odBase d.cfg idx = some (b, i)) (h : numAbort d m idx sub len v = none) : accessAbort b sub t a (v == 0) = none := by
  unfold numAbort at h
  simp only [hk, hb, firstAbort, List.findSome?_eq_none_iff] at h
  exact h _ (.tail _ (.tail _ (.tail _ (.head _))))

/-- An entry of class RO that takes a write of 0, other than src_state and mapc_way_ce, is a counter. -/
theorem clearable_of_numAbort {d : Dev} {m key len b i : Nat} {t : OdTy} (hne : key ≠ 0x210901)
    (hk : odKind d.cfg (key / 256) (key % 256) = some (t, .ro)) (hb : odBase d.cfg (key / 256) = some (b, i))
    (h : numAbort d m (key / 256) (key % 256) len 0 = none) : clearable b (key % 256) t = true := by
  have haccess := accessAbort_of_numAbort hk hb h
  have hway : b * 256 + key % 256 ≠ 0x210901 := fun he => by
    have hbase := odBase_low hb (by omega) (by omega)
    omega
  by_contra hclear
  simp [accessAbort, hclear, hway] at haccess

theorem odEffect_of_counter {m key b i : Nat} {via : Option Nat} {t : OdTy} {d : Dev} (hk : odKind d.cfg (key / 256) (key % 256) = some (t, .ro))
    (hb : odBase d.cfg (key / 256) = some (b, i)) (hsrc : b ≠ 0x2650) (hclear : clearable b (key % 256) t = true) :
    odEffect m via (key / 256) (key % 256) 0 d = clearCnt (key / 256) (key % 256) d := by
  unfold odEffect
  simp only [hk, hb]
  rw [if_pos trivial, if_neg hsrc, if_pos hclear]

/-- An accepted write of a byte string takes effect on the entry written anew, and its command ends. -/
theorem rowBytes_of_accepted {m idx sub : Nat} {bs : Bytes} {d : Dev} (hen : enabled d m = true)
    (hab : bytesAbort (seen m d) m idx sub bs = none) (hhold : holder d m (ek idx sub) = none) :
    rowBytes m idx sub bs d = countEnd none (bytesEffect idx sub bs (seen m d)) := by
  unfold rowBytes writeBytes
  simp only [hen, hab, if_true, closeHolder_of_none ((holder_seen m m _ d).trans hhold)]

/-! ### Lane counters (R500) -/

/-- What q_clear does to a queue. -/
def clearLane (q : LaneQ) : LaneQ := { q with ce := 0, ceSat := false, under := false, ue := false, peak := 0 }

/-- The queues afterwards; those that are as at reset are not listed. -/
def clearedLanes (t : Tab LaneQ) : Tab LaneQ := (t.map (fun q => (q.1, clearLane q.2))).filter (fun q => decide (q.2 ≠ LaneQ.reset))

/-- What q_clear does to a port. -/
def clearPeak (p : Port) : Port := { p with inPeak := 0 }

theorem qClear_eq (d : Dev) : qClear d = (List.range d.cfg.ports).foldl (fun x p => updPort p clearPeak x)
    { d with net := { d.net with lanes := clearedLanes d.net.lanes } } := rfl

theorem ports_only (l : List Nat) (f : Port → Port) (d : Dev) :
    l.foldl (fun x p => updPort p f x) d = { d with ports := (l.foldl (fun x p => updPort p f x) d).ports } := by
  induction l generalizing d with
  | nil => rfl
  | cons i l ih => exact ih (updPort i f d)

/-- Nothing but the queues and the ports changes. -/
theorem qClear_frame (d : Dev) :
    qClear d = { d with net := { d.net with lanes := clearedLanes d.net.lanes }, ports := (qClear d).ports } := by
  rw [qClear_eq]
  exact ports_only ..

theorem lane_qClear {d : Dev} (h : tabWf (fun _ => LaneQ.reset) d.net.lanes = true) (q : Nat) :
    (qClear d).net.lane q = clearLane (d.net.lane q) := by
  unfold tabWf at h
  rw [Bool.and_eq_true, tabSorted_iff] at h
  rw [qClear_frame]
  exact tabGet_map_filter rfl _ h.1 q

theorem port_qClear (d : Dev) (p : Nat) : port (qClear d) p = if p < d.cfg.ports then clearPeak (port d p) else port d p := by
  rw [qClear_eq, get_foldl_update (get := port) (update := fun i => updPort i clearPeak) (fun i d => port_updPort_self i _ d)
    (fun i j d hj => port_updPort_ne _ d hj) _ List.nodup_range]
  simp only [List.mem_range]
  rfl

/-! ### Suspect marks (R544) -/

/-- What ts_unsuspect does to a sensor. -/
def trusted (s : Sensor) : Sensor := { s with suspect := false, fails := 0 }

theorem sensor_trusted (v : Nat) (d : Dev) (j : Nat) (hj : j < 64) :
    sensor ((setBits v 64).foldl (fun x s => updSensor s trusted x) d) j = if bit v j then trusted (sensor d j) else sensor d j := by
  unfold setBits
  rw [get_foldl_update (get := sensor) (update := fun i => updSensor i trusted) (fun i d => sensor_updSensor_self i _ d)
    (fun i j d hj => sensor_updSensor_ne _ d hj) _ (List.nodup_range.filter (bit v))]
  simp [hj]

theorem sensors_only (l : List Nat) (f : Sensor → Sensor) (d : Dev) :
    l.foldl (fun x s => updSensor s f x) d = { d with sensors := (l.foldl (fun x s => updSensor s f x) d).sensors } := by
  induction l generalizing d with
  | nil => rfl
  | cons i l ih => exact ih (updSensor i f d)

/-! ### The statement -/

/-- Settles O20, clause by clause: each write is accepted, so it does what its entry's effect does. -/
theorem clearingWrites : Obligations.ClearingWrites := by
  intro s m
  refine ⟨fun key t b i hne hk hb hsrc hacc => ?_, fun hen hab hhold => ?_, fun hwf hacc => ?_, fun v hacc => ?_, fun v _ hacc => ?_⟩
  · have hkey : ek (key / 256) (key % 256) = key := by
      unfold ek
      omega
    have hclear := clearable_of_numAbort (d := seen m s.dev) hne hk hb hacc.2.2.1
    refine writeDoes_of_accepted (exec_of_rowEntry (if_neg hne)) rfl hacc ?_
    rw [odEffect_of_counter (d := rewrite (key / 256) (key % 256) (seen m s.dev)) hk hb hsrc hclear]
    obtain ⟨hzero, honly⟩ := clearCnt_spec (key / 256) (key % 256) (rewrite (key / 256) (key % 256) (seen m s.dev))
    rw [od, hkey] at hzero
    rw [hkey] at honly
    exact ⟨hzero, honly⟩
  · unfold WriteDoes
    rw [completes_run (f := rowBytes m 0x2109 1 (leBytes 64 0)) rfl, rowBytes_of_accepted hen hab hhold]
    refine ⟨_, ⟨?_, ?_, ?_⟩, ended_countEnd _⟩
    · exact getB_putB_self 0x2109 1 [] (rewrite 0x2109 1 (seen m s.dev))
    · intro x hx
      exact of_decide_eq_true (List.mem_filter.mp hx).2
    · rfl
  · refine writeDoes_of_accepted rfl rfl hacc ?_
    have heffect : odEffect m none 0x2911 2 1 (rewrite 0x2911 2 (seen m s.dev)) = qClear (rewrite 0x2911 2 (seen m s.dev)) := rfl
    rw [heffect]
    refine ⟨lane_qClear hwf, port_qClear _, ?_⟩
    rw [qClear_frame]
  · exact writeDoes_of_accepted rfl rfl hacc ⟨sensor_trusted v _, sensors_only _ _ _⟩
  · refine writeDoes_of_accepted rfl rfl hacc ⟨fun i hi => ?_, keeps_put _ (by simp), rfl⟩
    rw [← bit_nAndNot]
    exact (congrArg (bit · i) (od_put_self ..)).trans (bit_mod hi)

end Sys2Proof.Machine
end

section
/-! SUPPORT. What a command of the dictionary leaves alone of the I3C logic: all of it, the message in assembly included (03_object_dictionary.md
R137, R139). -/

namespace Sys2Proof.Machine

theorem Keep.i3c {d d' : Dev} (h : Keep d d') : d'.i3c = d.i3c := by
  obtain ⟨-, -, -, -, -, hi3c, -⟩ := h.control
  exact hi3c

/-! ### Entries, counters, records of masters -/

theorem OnlyEntries.i3c {d d' : Dev} {keys : List Nat} (h : OnlyEntries d d' keys) : d'.i3c = d.i3c := by rw [h.2]

@[simp] theorem i3c_cnt (i j : Nat) (d : Dev) : (cnt i j d).i3c = d.i3c := (cnt_spec i j d).2.i3c

@[simp] theorem i3c_putK (key v : Nat) (d : Dev) : (putK key v d).i3c = d.i3c := rfl

@[simp] theorem i3c_put (i j v : Nat) (d : Dev) : (put i j v d).i3c = d.i3c := rfl

@[simp] theorem i3c_clearCnt (i j : Nat) (d : Dev) : (clearCnt i j d).i3c = d.i3c := (clearCnt_spec i j d).2.i3c

theorem i3c_ite {p : Prop} [Decidable p] {a b d : Dev} (ha : a.i3c = d.i3c) (hb : b.i3c = d.i3c) :
    (if p then a else b).i3c = d.i3c := by
  split
  · exact ha
  · exact hb

/-! ### Transfers that close (R119 to R123) -/

@[simp] theorem i3c_closeXfer (m : Nat) (why : Option Abort) (d : Dev) : (closeXfer m why d).i3c = d.i3c := by
  cases h : (master d m).xfer with
  | none => rw [closeXfer_of_none h]
  | some x =>
    rw [closeXfer_of_open h]
    exact (keep_applyHeld (Keep.refl (updMaster m _ d))).i3c

@[simp] theorem i3c_closeCounted (m : Nat) (d : Dev) : (closeCounted m d).i3c = d.i3c := by
  obtain ⟨y, hy, honly⟩ := closeCounted_eq m d
  rw [hy, i3c_closeXfer, honly.i3c]

@[simp] theorem i3c_closeHolder (m key : Nat) (d : Dev) : (closeHolder m key d).i3c = d.i3c := by
  unfold closeHolder
  split
  · rfl
  · exact i3c_closeCounted ..

@[simp] theorem i3c_supersede (m : Nat) (d : Dev) : (supersede m d).i3c = d.i3c := i3c_closeCounted m d

/-! ### Entries with an effect of their own (R122) -/

theorem i3c_dropMaster (k : Nat) (d : Dev) : (dropMaster k d).i3c = d.i3c := by
  rw [(released_dropMaster k d).rest]
  exact i3c_closeCounted k d

theorem i3c_setEnable (v : Nat) (d : Dev) : (setEnable v d).i3c = d.i3c :=
  (foldl_keeps (·.i3c) (fun x k => i3c_dropMaster k x) _ _).trans (i3c_put 0x1200 1 v d)

theorem i3c_svcSet (v : Nat) (d : Dev) : (svcSet v d).i3c = d.i3c :=
  (keep_settle (Keep.refl (put 0x2000 1 v d))).i3c.trans (i3c_put ..)

theorem i3c_rstBegin (k : RstKind) (cause : Nat) (d : Dev) : (rstBegin k cause d).i3c = d.i3c := by
  unfold rstBegin
  extract_lets _ d1 d2 _ _ d3
  have hstart : d1.i3c = d.i3c := (i3c_put ..).trans (i3c_put ..)
  have hstopped : Keep d1 d2 := keep_updClasp (keep_updLan (keep_tenderStop (Keep.refl d1)) fun _ => rfl)
  clear_value d1 d2
  have hdies : Keep d1 d3 := keep_foldl _ (keep_mk hstopped rfl) fun x n hx => keep_rstDiscard hx
  exact (foldl_keeps (·.i3c) (fun x ch => (keep_kick (keep_updChan (Keep.refl x))).i3c) _ d3).trans (hdies.i3c.trans hstart)

theorem i3c_rstTake (k : RstKind) (cause : Nat) (d : Dev) : (rstTake k cause d).i3c = d.i3c := by
  unfold rstTake
  split
  · split <;> rfl
  · split
    · exact i3c_rstBegin ..
    · exact i3c_put ..
    · exact i3c_ite (i3c_put ..) rfl
    · rfl

theorem i3c_chanReset (ch : Nat) (d : Dev) : (chanReset ch d).i3c = d.i3c := by
  unfold chanReset
  refine i3c_ite rfl ?_
  extract_lets _ d1 d2
  have hstart : d1.i3c = d.i3c := (i3c_cnt ..).trans (i3c_putK ..)
  clear_value d1
  have hdata : Keep d1 d2 :=
    keep_rawLockUp (keep_put (keep_wpDefault (keep_updChan (Keep.refl d1))) ⟨by decide, .inl ⟨by decide, by decide⟩⟩)
  clear_value d2
  exact (keep_chanResetGo (keep_kick (keep_feedBands (keep_foldl _ hdata fun x n hx => keep_undoDie hx)))).i3c.trans hstart

theorem i3c_takeReq (n v m : Nat) (via : Option Nat) (d : Dev) : (takeReq n v m via d).i3c = d.i3c := by
  unfold takeReq
  extract_lets y
  have hy : y.i3c = d.i3c := i3c_put ..
  clear_value y
  split
  · exact (keep_judge (Keep.refl y)).i3c.trans hy
  · split
    · exact i3c_ite ((i3c_cnt ..).trans hy) ((keep_updDom (Keep.refl y)).i3c.trans hy)
    · exact i3c_ite ((i3c_cnt ..).trans hy) ((keep_abortReq (keep_updDom (Keep.refl y))).i3c.trans hy)

theorem i3c_effGlobal (m key v : Nat) (d : Dev) : (effGlobal m key v d).i3c = d.i3c := by
  unfold effGlobal
  split
  · exact i3c_setEnable v d
  · exact i3c_ite rfl (i3c_svcSet v d)
  · exact i3c_rstTake ..
  · exact i3c_rstTake ..
  · exact foldl_keeps (·.i3c) (fun x ch => i3c_chanReset ch x) _ d
  · exact (keep_rawUnlock (Keep.refl d)).i3c
  · exact (keep_rawOd (Keep.refl _)).i3c.trans (i3c_put ..)
  · exact i3c_putK ..

theorem i3c_effLantern (key v : Nat) (d : Dev) : (effLantern key v d).i3c = d.i3c := by
  unfold effLantern
  split
  · exact (keep_ltQuiesce (Keep.refl d)).i3c
  · exact i3c_ite (i3c_put ..) rfl
  · exact (i3c_put ..).trans (i3c_putK ..)
  · exact (keep_closeExcluded (Keep.refl _)).i3c.trans (i3c_putK ..)
  · exact (keep_dropWays (Keep.refl _)).i3c.trans (i3c_putK ..)
  · exact i3c_ite (keep_flushStart (Keep.refl d)).i3c rfl
  · exact i3c_ite (keep_ckptTrigger (Keep.refl d)).i3c rfl
  · exact i3c_ite ((i3c_put ..).trans ((i3c_put ..).trans (i3c_put ..))) rfl
  · exact i3c_ite ((i3c_put ..).trans (i3c_putK ..)) (i3c_putK ..)

theorem i3c_effUnits (m : Nat) (via : Option Nat) (b i sub key v : Nat) (d : Dev) : (effUnits m via b i sub key v d).i3c = d.i3c := by
  unfold effUnits
  refine i3c_ite ((keep_updSrc (Keep.refl _)).i3c.trans (i3c_putK ..)) (i3c_ite (keep_updSrc (Keep.refl d)).i3c
    (i3c_ite (i3c_takeReq ..) (i3c_ite ((keep_wakeRing (Keep.refl _)).i3c.trans (i3c_putK ..)) ?_)))
  split
  · exact (keep_tgtEoi (Keep.refl d)).i3c
  · exact i3c_ite (keep_unfreeze (Keep.refl d)).i3c rfl
  · exact foldl_keeps (·.i3c) (f := fun x s => updSensor s _ x) (fun _ _ => rfl) _ d
  · exact i3c_put ..
  · exact i3c_ite (keep_qClear (Keep.refl d)).i3c rfl
  · exact i3c_putK ..

theorem i3c_effInst (b i sub key v : Nat) (d : Dev) : (effInst b i sub key v d).i3c = d.i3c := by
  unfold effInst
  split
  · exact (keep_tmrEnable (Keep.refl _)).i3c.trans (i3c_putK ..)
  · exact i3c_ite (keep_updChan (Keep.refl d)).i3c rfl
  · exact (keep_reviveDie (Keep.refl d)).i3c
  · exact i3c_ite (keep_idRerun (Keep.refl d)).i3c rfl
  · exact (i3c_put ..).trans (i3c_putK ..)
  · exact (i3c_put ..).trans (i3c_putK ..)
  · exact i3c_ite (keep_armSwap (Keep.refl d)).i3c rfl
  · exact (keep_trainReq (Keep.refl d)).i3c
  · exact i3c_ite (keep_chStart (Keep.refl d)).i3c rfl
  · exact i3c_ite (keep_chStop (Keep.refl d)).i3c rfl
  · exact (keep_xoffUpdate (Keep.refl _)).i3c.trans (i3c_putK ..)
  · exact (keep_xoffUpdate (Keep.refl _)).i3c.trans (i3c_putK ..)
  · exact (keep_ringEnable (Keep.refl d)).i3c
  · exact i3c_ite (keep_mcRevert (Keep.refl d)).i3c rfl
  · exact i3c_ite (keep_lktStart (Keep.refl d)).i3c rfl
  · exact i3c_ite ((i3c_putK ..).trans (i3c_putK ..)) (i3c_putK ..)

@[simp] theorem i3c_odEffect (m : Nat) (via : Option Nat) (idx sub v : Nat) (d : Dev) : (odEffect m via idx sub v d).i3c = d.i3c := by
  unfold odEffect
  split
  · split
    · split
      · exact i3c_effUnits ..
      · split
        · exact i3c_clearCnt ..
        · rfl
    split
    · exact (onlyEntries_setOwner _ v d).i3c
    split
    · exact i3c_effGlobal ..
    split
    · exact i3c_effLantern ..
    split
    · exact i3c_effUnits ..
    · exact i3c_effInst ..
  · rfl

@[simp] theorem i3c_writeNum (m : Nat) (via : Option Nat) (idx sub len v : Nat) (d : Dev) :
    (writeNum m via idx sub len v d).2.i3c = d.i3c := by
  unfold writeNum
  split
  · rfl
  · rw [i3c_odEffect]
    exact i3c_closeHolder ..

@[simp] theorem i3c_writeBytes (m idx sub : Nat) (bs : Bytes) (d : Dev) : (writeBytes m idx sub bs d).2.i3c = d.i3c := by
  unfold writeBytes
  split
  · rfl
  · rw [(keep_bytesEffect (Keep.refl _)).i3c]
    exact i3c_closeHolder ..

/-! ### Commands (R114) -/

@[simp] theorem i3c_takeCmd (c : OdCmd) (q : OdReq) (d : Dev) : (takeCmd c q d).i3c = d.i3c := by
  obtain ⟨-, -, he⟩ := takenFrame_takeCmd c q d
  rw [he]

@[simp] theorem i3c_countEnd (a : Option Abort) (d : Dev) : (countEnd a d).i3c = d.i3c := by
  obtain ⟨-, -, -, he⟩ := countEnd_spec a d
  rw [he]

@[simp] theorem i3c_endCmd (c : OdCmd) (q : OdReq) (a : OdAns) (d : Dev) : (endCmd c q a d).i3c = d.i3c := by
  unfold endCmd
  rw [i3c_countEnd]
  split <;> rfl

theorem i3c_odCommand (c : OdCmd) (q : OdReq) (d : Dev) : (odCommand c q d).2.i3c = d.i3c := by
  unfold odCommand
  split
  · rfl
  · exact i3c_writeNum ..
  · exact i3c_supersede ..
  · dsimp only
    split
    · exact i3c_supersede ..
    split
    · exact i3c_supersede ..
    · exact (i3c_writeBytes ..).trans (i3c_supersede ..)
  · unfold blkReadInit
    dsimp only
    split <;> exact i3c_supersede ..
  · unfold blkWriteInit
    dsimp only
    split
    · exact i3c_supersede ..
    · exact (i3c_closeHolder ..).trans (i3c_supersede ..)
  · unfold blkReadNext
    split
    · rfl
    split
    · exact i3c_closeXfer ..
    · rfl
  · unfold blkWriteNext
    split
    · rfl
    split
    · exact i3c_closeXfer ..
    split
    · exact i3c_closeXfer ..
    split
    · exact i3c_closeXfer ..
    · rfl
  · unfold blkEnd
    split
    · rfl
    dsimp only
    split
    · exact i3c_closeXfer ..
    split
    · exact i3c_closeXfer ..
    split
    · exact i3c_closeXfer ..
    · exact (i3c_writeBytes ..).trans (i3c_closeXfer ..)
  · exact i3c_closeXfer ..
  · rfl
  · rfl

theorem i3c_odFinish (c : OdCmd) (q : OdReq) (d : Dev) : (odFinish c q d).2.i3c = d.i3c := by
  unfold odFinish
  dsimp only
  rw [i3c_endCmd]
  split
  · exact i3c_odCommand ..
  · rfl

/-- What a host-made error leaves free is no part of the I3C logic (R110, R141, R271). -/
theorem i3c_odFree (c : OdCmd) (rule : Nat) (d : Dev) : (odFree c rule d).i3c = d.i3c := by
  unfold odFree
  split
  · refine foldl_keeps (·.i3c) (fun x i => ?_) _ d
    split
    · split
      · rfl
      split <;> rfl
    · rfl
  · rfl
  · rfl
  · rfl

end Sys2Proof.Machine
end

section
/-! SUPPORT. The MCTP endpoint (03_object_dictionary.md R136 to R140): responses, control requests, and the packets of messages. -/

namespace Sys2Proof.Machine

/-! ### Responses (R138, R139) -/

/-- What is done before a response is left for the bus owner: entries other than the count of drops, and free values. -/
def Answered (d y : Dev) (keys : List Nat) : Prop :=
  KeepsEntries d y keys ∧ y = { d with od := y.od, sat := y.sat, free := y.free }

theorem answered_refl (d : Dev) : Answered d d [] := ⟨keeps_refl _ _, rfl⟩

theorem Answered.trans {d y z : Dev} {keys more : List Nat} (h1 : Answered d y keys) (h2 : Answered y z more) :
    Answered d z (more ++ keys) := by
  obtain ⟨hkeeps, hrest⟩ := h1
  obtain ⟨hkeeps', hrest'⟩ := h2
  refine ⟨fun k hk => ?_, by rw [hrest', hrest]⟩
  rw [List.mem_append, not_or] at hk
  exact (hkeeps' k hk.1).trans (hkeeps k hk.2)

/-- A response still unread is counted (R138). -/
def dropCounted (d : Dev) : Dev := if d.i3c.rsp.isSome then cnt 0x1100 0x0D d else d

theorem dropCounted_spec (d : Dev) : Answered d (dropCounted d) [ek 0x1100 0x0D] ∧
    if d.i3c.rsp.isSome then Counted d (dropCounted d) 0x1100 0x0D 1 else od (dropCounted d) 0x1100 0x0D = od d 0x1100 0x0D := by
  unfold dropCounted
  split
  · obtain ⟨hcounted, hkeeps, hrest⟩ := cnt_spec 0x1100 0x0D d
    exact ⟨⟨hkeeps, by rw [hrest]⟩, hcounted⟩
  · exact ⟨⟨keeps_refl _ _, rfl⟩, rfl⟩

/-- A response waits, in the place of one still unread, which is counted. -/
theorem responds_setRsp {d y : Dev} {keys : List Nat} (h : Answered d y keys) (hcnt : ek 0x1100 0x0D ∉ keys) (dst tag : Nat) (body : Bytes) :
    responds d (setRsp dst (tag % 8) body y) dst tag body keys := by
  obtain ⟨hanswered, hcounted⟩ := dropCounted_spec y
  have hod : od y 0x1100 0x0D = od d 0x1100 0x0D := h.1 _ hcnt
  have hcount : if d.i3c.rsp.isSome then Counted d (dropCounted y) 0x1100 0x0D 1 else od (dropCounted y) 0x1100 0x0D = od d 0x1100 0x0D := by
    rw [show y.i3c = d.i3c by rw [h.2]] at hcounted
    split at hcounted
    · next hsome => exact (if_pos hsome).mpr (counted_of_od_eq (by rw [h.2]) hod hcounted)
    · next hnone => exact (if_neg hnone).mpr (hcounted.trans hod)
  obtain ⟨hkeeps, hrest⟩ := h.trans hanswered
  have hset : setRsp dst (tag % 8) body y =
      updI3c (fun x => { x with rsp := some { dst := dst, tag := tag % 8, body := body, off := 0, seq := 0 }, ibi := x.ibiEn })
        (dropCounted y) := rfl
  rw [hset]
  generalize dropCounted y = z at *
  obtain ⟨o, t, n, rfl⟩ : ∃ o t n, z = { d with od := o, sat := t, free := n } := ⟨_, _, _, hrest⟩
  exact ⟨rfl, rfl, hcount, hkeeps, rfl⟩

/-! ### Control requests (R136) -/

section
variable {s : State} {c : MctpCtl} {i : Instr} {code : Nat} {data : Bytes}

theorem completes_ctlRow {P : Dev → Prop} (hexec : exec i s = ctlRow c code data s) (hbus : onBus s.dev = true) (hdyn : dynAddr s.dev ≠ 0)
    (heid : eidOk s.dev c.dst true = true) :
    Completes i s P ↔ P (setRsp c.src (c.tag % 8) (ctlServe 0 code data s.dev).1 (ctlServe 0 code data s.dev).2) := by
  rw [completes_run hexec, if_neg (by simp [hbus, hdyn]), if_neg (by simp [heid])]

/-- A request that only reads is answered. -/
theorem responds_ctlRow {body : Bytes} (hserve : ctlServe 0 code data s.dev = (body, s.dev)) (hexec : exec i s = ctlRow c code data s)
    (hbus : onBus s.dev = true) (hdyn : dynAddr s.dev ≠ 0) (heid : eidOk s.dev c.dst true = true) :
    Completes i s (fun d' => responds s.dev d' c.src c.tag body []) := by
  rw [completes_ctlRow hexec hbus hdyn heid, hserve]
  exact responds_setRsp (answered_refl _) (by simp) ..

/-- What discards a packet or a request: it ends the message in assembly, and is counted. -/
theorem discard_counted_spec (j : Nat) (d : Dev) : Counted d (cnt 0x1100 j (updI3c (fun x => { x with asm := none }) d)) 0x1100 j 1 ∧
    SameBut d (cnt 0x1100 j (updI3c (fun x => { x with asm := none }) d)) (fun d => { d with i3c := { d.i3c with asm := none } }) [ek 0x1100 j] :=
  cnt_spec 0x1100 j (updI3c (fun x => { x with asm := none }) d)

theorem completes_ctlRow_discarded (hexec : exec i s = ctlRow c code data s) (hbus : onBus s.dev = true) (hdyn : dynAddr s.dev ≠ 0)
    (heid : eidOk s.dev c.dst true = false) :
    Completes i s (fun d' => Counted s.dev d' 0x1100 0x0C 1 ∧
      SameBut s.dev d' (fun d => { d with i3c := { d.i3c with asm := none } }) [ek 0x1100 0x0C]) := by
  rw [completes_run hexec, if_neg (by simp [hbus, hdyn]), if_pos (by simp [heid])]
  exact discard_counted_spec 0x0C s.dev

end

/-- The byte at the front of a string. -/
theorem leAt_cons_zero (b : Byte) (bs : Bytes) : leAt (b :: bs) 0 1 = b.toNat := by simp [leAt, leNat]

theorem leAt_cons_one (a b : Byte) (bs : Bytes) : leAt (a :: b :: bs) 1 1 = b.toNat := by simp [leAt, leNat]

/-- A request's one byte, as the endpoint reads it. -/
theorem leAt_leBytes_one {v : Nat} (h : v < 256) : leAt (leBytes 1 v) 0 1 = v := by
  rw [leBytes_one, leAt_cons_zero, BitVec.toNat_ofNat]
  exact Nat.mod_eq_of_lt h

theorem ctlServe_setEid {op eid : Nat} (hop : op < 4) (heid : eid < 256) (d : Dev) :
    ctlServe 0 1 (leBytes 1 op ++ leBytes 1 eid) d = ctlSetEid 0 op eid d := by
  rw [leBytes_one, leBytes_one, List.singleton_append]
  show ctlSetEid 0 (leAt [_, _] 0 1 % 4) (leAt [_, _] 1 1) d = _
  rw [leAt_cons_zero, leAt_cons_one, BitVec.toNat_ofNat, BitVec.toNat_ofNat, Nat.mod_eq_of_lt (show op < 2 ^ 8 by omega),
    Nat.mod_eq_of_lt hop, Nat.mod_eq_of_lt (show eid < 2 ^ 8 by omega)]

theorem ctlServe_version {t : Nat} (ht : t < 256) (d : Dev) : ctlServe 0 4 (leBytes 1 t) d = ctlVersion 0 t d := by
  show ctlVersion 0 (leAt (leBytes 1 t) 0 1) d = _
  rw [leAt_leBytes_one ht]

/-- A code of none of the five requests is answered as unsupported. -/
theorem ctlServe_unsupported {k : Nat} (h : k ∉ [1, 2, 4, 5, 6]) (d : Dev) : ctlServe 0 k [] d = ([0, 0, BitVec.ofNat 8 k, 5], d) := by
  unfold ctlServe
  split
  case h_6 => rfl
  all_goals exact absurd (by simp) h

theorem exec_unsupported {s : State} {c : MctpCtl} {k : Nat} (hk : k < 256) (h : k ∉ [1, 2, 4, 5, 6]) :
    exec (.mctpUnsupportedCmd c k) s = ctlRow c k [] s := by
  show execMctpUnsupportedCmd c k s = _
  unfold execMctpUnsupportedCmd
  rw [Nat.mod_eq_of_lt hk, if_neg (by simpa using h)]

theorem mctpControlRequests_holds : mctpControlRequests := by
  intro s c hbus hdyn
  refine ⟨fun heid => ?_, fun heid i hi => ?_⟩
  · have reads : ∀ {i : Instr} {code : Nat} {data body : Bytes}, exec i s = ctlRow c code data s →
        ctlServe 0 code data s.dev = (body, s.dev) → Completes i s (fun d' => responds s.dev d' c.src c.tag body []) :=
      fun hexec hserve => responds_ctlRow hserve hexec hbus hdyn heid
    refine ⟨fun op eid hop h8 h254 => ?_, fun op eid hop hlt hbad => ?_, reads rfl rfl, fun t ht => ?_, ?_, fun t hlt hff h0 h7f => ?_,
      reads rfl rfl, fun n hn => ?_, fun k hk hnot => ?_⟩
    · have hserve : ctlServe 0 1 (leBytes 1 op ++ leBytes 1 eid) s.dev = ([0, 0, 1, 0, 0, BitVec.ofNat 8 eid, 0], put 0x1100 7 eid s.dev) := by
        rw [ctlServe_setEid (by omega) (by omega)]
        exact if_pos ⟨hop, h8, h254⟩
      have hput : Answered s.dev (put 0x1100 7 eid s.dev) [ek 0x1100 7] := ⟨keeps_put _ (by simp), rfl⟩
      rw [completes_ctlRow (code := 1) (data := leBytes 1 op ++ leBytes 1 eid) rfl hbus hdyn heid, hserve]
      have hresponds := responds_setRsp hput (by decide) c.src c.tag [0, 0, 1, 0, 0, BitVec.ofNat 8 eid, 0]
      obtain ⟨⟨hset, -⟩, -⟩ := dropCounted_spec (put 0x1100 7 eid s.dev)
      exact ⟨(hset 0x110007 (by decide)).trans (od_put_byte rfl (by omega)), hresponds⟩
    · refine reads (code := 1) (data := leBytes 1 op ++ leBytes 1 eid) rfl ?_
      rw [ctlServe_setEid hop hlt]
      exact if_neg hbad
    · refine reads (code := 4) (data := leBytes 1 t) rfl ?_
      rw [ctlServe_version (by omega)]
      exact if_pos ht
    · rw [completes_ctlRow (code := 4) (data := leBytes 1 0x7F) rfl hbus hdyn heid]
      exact ⟨_, responds_setRsp ⟨keeps_refl _ _, rfl⟩ (by simp) ..⟩
    · refine reads (code := 4) (data := leBytes 1 t) rfl ?_
      rw [ctlServe_version hlt]
      exact (if_neg (by omega)).trans (if_neg h7f)
    · refine reads (code := 6) (data := leBytes 1 n) rfl ?_
      show (ctlVendor 0 (leAt (leBytes 1 n) 0 1), s.dev) = _
      rw [leAt_leBytes_one hn]
      unfold ctlVendor
      split <;> rfl
    · exact reads (exec_unsupported hk hnot) (ctlServe_unsupported hnot s.dev)
  · obtain rfl | rfl | ⟨t, rfl⟩ | ⟨op, eid, rfl⟩ | ⟨n, rfl⟩ | ⟨k, hk, hnot, rfl⟩ := hi
    · exact completes_ctlRow_discarded rfl hbus hdyn heid
    · exact completes_ctlRow_discarded rfl hbus hdyn heid
    · exact completes_ctlRow_discarded rfl hbus hdyn heid
    · exact completes_ctlRow_discarded rfl hbus hdyn heid
    · exact completes_ctlRow_discarded rfl hbus hdyn heid
    · exact completes_ctlRow_discarded (exec_unsupported hk hnot) hbus hdyn heid

/-! ### Requests of the transfer protocol (R137, R139) -/

theorem i3c_badVersion (c : OdCmd) (q : OdReq) (d : Dev) : (badVersion c q d).2.i3c = d.i3c := by
  unfold badVersion
  rw [i3c_endCmd]
  exact i3c_ite (i3c_supersede ..) (i3c_ite (i3c_closeXfer ..) rfl)

/-- The I3C logic learns whose request it served; the message in assembly stays. -/
theorem asm_i3cServe (src : Nat) (b : Bytes) (c : OdCmd) (q : OdReq) (d : Dev) : (i3cServe src b c q d).2.i3c.asm = d.i3c.asm := by
  unfold i3cServe
  split
  · rw [i3c_endCmd]
    rfl
  · extract_lets d1
    have htaken : d1.i3c.asm = d.i3c.asm := by
      rw [show d1.i3c = _ from i3c_takeCmd ..]
      rfl
    clear_value d1
    rw [← htaken]
    split
    · rw [i3c_badVersion]
    · split
      · rw [i3c_odFinish]
      · rw [i3c_odFree, i3c_odFinish]

/-! ### Whole messages -/

theorem i3c_ctlServe (inst code : Nat) (data : Bytes) (d : Dev) : (ctlServe inst code data d).2.i3c = d.i3c := by
  unfold ctlServe
  split
  · unfold ctlSetEid
    split <;> rfl
  · rfl
  · unfold ctlVersion
    split
    · rfl
    · split <;> rfl
  · rfl
  · rfl
  · rfl

/-- No message is in assembly, and the first packet of a response waits for an endpoint. -/
def Waits (dst tag : Nat) (d : Dev) : Prop :=
  d.i3c.asm = none ∧ ∃ r, d.i3c.rsp = some r ∧ r.dst = dst ∧ r.tag = tag ∧ r.off = 0 ∧ r.seq = 0

theorem waits_setRsp {y : Dev} (h : y.i3c.asm = none) (dst tag : Nat) (body : Bytes) : Waits dst tag (setRsp dst tag body y) := by
  have hi3c : (dropCounted y).i3c = y.i3c := i3c_ite (i3c_cnt ..) rfl
  refine ⟨?_, _, rfl, rfl, rfl, rfl, rfl⟩
  show (dropCounted y).i3c.asm = none
  rw [hi3c, h]

/-- A message in order leaves a response: a control message its own, another one that of its command. -/
theorem waits_message {d : Dev} {b : Bytes} (src tag : Nat) (hok : msgOk b = true) (h : d.i3c.asm = none) :
    Waits src tag (message src tag b d) := by
  unfold message
  rw [if_neg (by simp [hok])]
  split
  · refine waits_setRsp ?_ ..
    rw [i3c_ctlServe, h]
  · refine waits_setRsp ?_ ..
    rw [asm_i3cServe, h]

/-! ### Packets (R136, R140) -/

/-- The packet that starts a message while another is in assembly is counted. -/
def startCounted (p : Bytes) (d : Dev) : Dev := if (pktHdr p).som ∧ d.i3c.asm.isSome then cnt 0x1100 0x0C d else d

theorem startCounted_spec (p : Bytes) (d : Dev) : OnlyEntries d (startCounted p d) [ek 0x1100 0x0C] ∧
    if (pktHdr p).som ∧ d.i3c.asm.isSome then Counted d (startCounted p d) 0x1100 0x0C 1
    else od (startCounted p d) 0x1100 0x0C = od d 0x1100 0x0C := by
  unfold startCounted
  split
  · obtain ⟨hcounted, honly⟩ := cnt_spec 0x1100 0x0C d
    exact ⟨honly, hcounted⟩
  · exact ⟨⟨keeps_refl _ _, rfl⟩, rfl⟩

section
variable {p : Bytes} {pec : Byte} {d : Dev} {a : Asm}

theorem privateWrite_of_bad_pec (h : pec ≠ pecOf d false p) : privateWrite p pec d = cnt 0x1100 0x0B d := if_pos h

theorem privateWrite_of_bad_header (h : pec = pecOf d false p) (ha : assemble d p = none) :
    privateWrite p pec d = cnt 0x1100 0x0C (updI3c (fun x => { x with asm := none }) d) := by
  unfold privateWrite
  rw [if_neg (by simp [h]), ha]

theorem privateWrite_of_fit (h : pec = pecOf d false p) (ha : assemble d p = some a) :
    privateWrite p pec d =
      if (pktHdr p).eom then message a.src a.tag a.body (updI3c (fun x => { x with asm := none }) (startCounted p d))
      else updI3c (fun x => { x with asm := some a }) (startCounted p d) := by
  unfold privateWrite
  rw [if_neg (by simp [h]), ha]
  rfl

end

/-- A change of the I3C logic after counts changes no other entry. -/
theorem sameBut_updI3c {d y : Dev} {keys : List Nat} (h : OnlyEntries d y keys) (f : I3c → I3c) :
    SameBut d (updI3c f y) (fun x => { x with i3c := f x.i3c }) keys := by
  obtain ⟨hkeeps, hrest⟩ := h
  obtain ⟨o, t, rfl⟩ : ∃ o t, y = { d with od := o, sat := t } := ⟨_, _, hrest⟩
  exact ⟨hkeeps, rfl⟩

/-- A message out of order is dropped, and counted besides what its first packet counted. -/
theorem message_dropped {p b : Bytes} {d : Dev} (src tag : Nat) (h : msgOk b = false) :
    Counted d (message src tag b (updI3c (fun x => { x with asm := none }) (startCounted p d))) 0x1100 0x0D 1 ∧
    SameBut d (message src tag b (updI3c (fun x => { x with asm := none }) (startCounted p d)))
      (fun x => { x with i3c := { x.i3c with asm := none } }) [ek 0x1100 0x0C, ek 0x1100 0x0D] := by
  obtain ⟨hstart, -⟩ := startCounted_spec p d
  obtain ⟨hkeeps, hrest⟩ := sameBut_updI3c hstart (fun x => { x with asm := none })
  have hmessage : message src tag b (updI3c (fun x => { x with asm := none }) (startCounted p d)) =
      cnt 0x1100 0x0D (updI3c (fun x => { x with asm := none }) (startCounted p d)) := if_pos (by simp [h])
  rw [hmessage]
  generalize updI3c _ (startCounted p d) = y at *
  obtain ⟨hcounted, hkeeps', hrest'⟩ := cnt_spec 0x1100 0x0D y
  refine ⟨counted_of_od_eq (by rw [hrest]) (hkeeps _ (by decide)) hcounted, fun k hk => ?_, by rw [hrest', hrest]⟩
  obtain ⟨hC, hD⟩ := List.ne_and_not_mem_of_not_mem_cons hk
  exact (hkeeps' k hD).trans (hkeeps k (by simpa using hC))

theorem mctpPackets_holds : mctpPackets := by
  intro s p pec hbus hdyn good som eom
  have hgood : good = pecOf s.dev false p := rfl
  have writes : ∀ {P : Dev → Prop}, P (privateWrite p pec s.dev) → Completes (.i3cPrivateWrite p pec) s P := fun hP =>
    (completes_run rfl).mpr ((if_pos (⟨hbus, hdyn⟩ : onBus s.dev = true ∧ dynAddr s.dev ≠ 0)).symm ▸ hP)
  refine ⟨fun hpec => writes ?_, fun hpec ha => writes ?_, fun a hpec ha heom => writes ?_, fun a hpec ha heom hok => writes ?_,
    fun a hpec ha heom hok => writes ?_⟩
  · rw [privateWrite_of_bad_pec hpec]
    exact cnt_spec ..
  · rw [privateWrite_of_bad_header hpec ha]
    exact discard_counted_spec 0x0C s.dev
  · obtain ⟨hstart, hcounted⟩ := startCounted_spec p s.dev
    rw [privateWrite_of_fit hpec ha, if_neg (show ¬ (pktHdr p).eom = true from by simp [show (pktHdr p).eom = false from heom])]
    exact ⟨hcounted, sameBut_updI3c hstart _⟩
  · rw [privateWrite_of_fit hpec ha, if_pos (show (pktHdr p).eom = true from heom)]
    exact message_dropped _ _ hok
  · rw [privateWrite_of_fit hpec ha, if_pos (show (pktHdr p).eom = true from heom)]
    exact waits_message _ _ hok rfl

/-- Settles O11: the requests that are rows of their own, and the packets of messages. -/
theorem mctpMessages : Obligations.MctpMessages := ⟨mctpControlRequests_holds, mctpPackets_holds⟩

end Sys2Proof.Machine
end

section
/-! SUPPORT. Ring commands start (04_work_rings.md R156, R168, R181): the record that a start leaves, and what a row does by
whether its command may start, and by whether it failed already. -/

namespace Sys2Proof.Machine

/-! ### The record of a command that starts -/

/-- The block with a tag's command under way. -/
def started (tag : Nat) (d : Dev) : Dev := updCmd tag (fun x => { x with st := .running }) d

theorem cmd?_started {tag : Nat} {c : Cmd} {d : Dev} (h : cmd? d tag = some c) :
    cmd? (started tag d) tag = some { c with st := .running } := cmd?_updCmd_self _ h

theorem startedAs_started {tag : Nat} {c : Cmd} {d : Dev} (h : cmd? d tag = some c) : startedAs tag c d (started tag d) :=
  ⟨cmd?_started h, rfl⟩

/-- A first failure is the only one. -/
theorem cmd?_cmdFail_of_none {tag status : Nat} {c : Cmd} {d : Dev} (h : cmd? d tag = some c) (hf : c.fails = []) :
    cmd? (cmdFail tag status d) tag = some { c with fails := [status] } := by
  refine (cmd?_updCmd_self _ h).trans ?_
  simp [hf]

/-! ### startCmd by its cases -/

section
variable {op tag : Nat} {f : Cmd → Dev → Dev} {c : Cmd} {d : Dev}

theorem startCmd_of_none (h : cmd? d tag = none) : startCmd op tag f d = d := by
  unfold startCmd
  rw [h]

theorem startCmd_of_waiting (h : cmd? d tag = some c) (hw : c.opc ≠ op ∨ canStart d c = false) : startCmd op tag f d = d := by
  unfold startCmd
  rw [h]
  exact if_pos (by simpa using hw)

/-- R156, R168: a command that failed already completes. -/
theorem startCmd_of_failed (h : cmd? d tag = some c) (hop : c.opc = op) (hs : canStart d c = true) (hf : c.fails ≠ []) :
    startCmd op tag f d = cmdCheck tag (started tag d) := by
  unfold startCmd
  rw [h]
  dsimp only
  rw [if_neg (by simp [hop, hs]), if_neg (by simpa using hf)]
  rfl

theorem startCmd_of_ok (h : cmd? d tag = some c) (hop : c.opc = op) (hs : canStart d c = true) (hf : c.fails = []) :
    startCmd op tag f d = f c (started tag d) := by
  unfold startCmd
  rw [h]
  dsimp only
  rw [if_neg (by simp [hop, hs]), if_pos (by simpa using hf)]
  rfl

end

/-- The row of a command that may start and has not failed does what its opcode begins with. -/
theorem completes_started {op tag : Nat} {f : Cmd → Dev → Dev} {row : Instr} {s : State} {c : Cmd} {P : Dev → Prop}
    (hrun : exec row s = run (startCmd op tag f) s) (h : cmd? s.dev tag = some c) (hop : c.opc = op) (hs : canStart s.dev c = true)
    (hf : c.fails = []) (hP : P (f c (started tag s.dev))) : Completes row s P := by
  rw [completes_run hrun, startCmd_of_ok h hop hs hf]
  exact hP

end Sys2Proof.Machine
end

section
/-! SUPPORT. Raw operations over the dictionary and by RAW commands (06_die_scheduling.md R270 to R275; 04_work_rings.md R175). -/

namespace Sys2Proof.Machine

/-! ### The command word (R271, R272) -/

/-- The command word of a request without a reserved bit, as a number. -/
theorem rawWord_eq {op : Nat} {r : RawReq} (hop : op < 256) (hlen : r.rlen < 2 ^ 16) (hrfa : r.rfa < 256) (hrsvd : r.rsvd = false) :
    rawWord op r =
      r.rlen * 2 ^ 32 + r.rfa * 2 ^ 16 + b2n r.noecc * 2 ^ 10 + b2n r.norand * 2 ^ 9 + b2n r.slc * 2 ^ 8 + op := by
  have hbit : ∀ b, b2n b < 2 ^ 1 := by decide
  simp only [rawWord, fld, hrsvd, show b2n false = 0 from rfl, Nat.mod_eq_of_lt hlen, Nat.mod_eq_of_lt (show r.rfa < 2 ^ 8 from hrfa),
    Nat.mod_eq_of_lt (show op < 2 ^ 8 from hop), Nat.mod_eq_of_lt (hbit _), Nat.zero_mod, zero_mul, zero_add, pow_zero, mul_one]

/-- The fields of a request's own word are the request's. -/
theorem rawFields_rawWord {op : Nat} {r : RawReq} (hop : op < 256) (haddr : r.addr < 2 ^ 45) (hlen : r.rlen < 2 ^ 16)
    (hrfa : r.rfa < 256) (hrsvd : r.rsvd = false) : rawFields r.src r.addr (rawWord op r) = r := by
  have hword := rawWord_eq hop hlen hrfa hrsvd
  have hbit : ∀ b, b2n b < 2 ∧ (b2n b == 1) = b := by decide
  have hx := hbit r.noecc
  have hy := hbit r.norand
  have hz := hbit r.slc
  generalize rawWord op r = w at hword ⊢
  have h32 : w / 2 ^ 32 = r.rlen := by omega
  have h16 : w / 2 ^ 16 % 2 ^ 8 = r.rfa := by omega
  have h10 : w / 2 ^ 10 % 2 = b2n r.noecc := by omega
  have h9 : w / 2 ^ 9 % 2 = b2n r.norand := by omega
  have h8 : w / 2 ^ 8 % 2 = b2n r.slc := by omega
  have h48 : w / 2 ^ 48 = 0 := by omega
  have h24 : w / 2 ^ 24 % 2 ^ 8 = 0 := by omega
  have h11 : w / 2 ^ 11 % 2 ^ 5 = 0 := by omega
  have h45 : r.addr / 2 ^ 45 = 0 := by omega
  simp only [rawFields, bits, bit, h32, h16, h10, h9, h8, h48, h24, h11, h45, hx.2, hy.2, hz.2, Nat.mod_eq_of_lt haddr,
    Nat.mod_eq_of_lt hlen, Nat.zero_mod, bne_self_eq_false, Bool.or_self, ← hrsvd]

theorem rawWord_mod {op : Nat} {r : RawReq} (hop : op < 256) : rawWord op r % 256 = op := by
  unfold rawWord fld
  omega

/-! ### A write of raw_addr and of raw_cmd (R271) -/

theorem od_rewrite (i j a b : Nat) (d : Dev) : od (rewrite i j d) a b = od d a b := rfl

theorem od_seen {m a b : Nat} {d : Dev} (h : ek a b ≠ ek 0x1200 2) : od (seen m d) a b = od d a b := od_put_ne _ d h

theorem odEffect_rawAddr (m v : Nat) (d : Dev) : odEffect m none 0x2050 3 v d = put 0x2050 3 v d := rfl

theorem odEffect_rawCmd (m v : Nat) (d : Dev) : odEffect m none 0x2050 2 v d = rawOd m v (put 0x2050 2 v d) := rfl

/-- An accepted write of raw_addr stores the address. -/
theorem od_rawAddr_of_accepted {m a : Nat} {d : Dev} (h : Accepted d m 0x2050 3 a) (ha : a < 2 ^ 45) :
    od (rowNum m none 0x2050 3 a d) 0x2050 3 = a := by
  rw [← rowFree_of_no_error h.2.1, rowFree_of_accepted h, odEffect_rawAddr]
  obtain ⟨-, hkeep, -⟩ := ended_countEnd (put 0x2050 3 a (rewrite 0x2050 3 (seen m d)))
  refine (hkeep _ (by decide)).trans ((od_put_self ..).trans ?_)
  rw [show odSize (rewrite 0x2050 3 (seen m d)).cfg (ek 0x2050 3) = 8 from rfl]
  omega

/-- The data that an operation takes to the die: that of raw_buf, for a program or a Set Features (R273). -/
def rawBytes (op : Nat) (r : RawReq) (d : Dev) : Bytes := if op = 2 ∨ op = 6 then fit r.rlen (getB d 0x2050 7) else []

theorem rawBytes_of_ods {op : Nat} {r : RawReq} {x d : Dev} (hc : x.cfg = d.cfg) (ho : x.ods = d.ods) :
    rawBytes op r x = rawBytes op r d := by
  unfold rawBytes
  rw [getB_of_ods hc ho]

/-- The block whose raw path holds one more operation that waits. -/
def rawQueued (op : Nat) (r : RawReq) (bs : Bytes) (d : Dev) : Dev :=
  { d with rawp := { d.rawp with todo := d.rawp.todo ++ [(op, r, bs)] } }

theorem rawStart_eq (op : Nat) (r : RawReq) (bs : Bytes) (d : Dev) : rawStart op r bs d = rawFeed (rawQueued op r bs d) := rfl

theorem getK_rawQueued (op : Nat) (r : RawReq) (bs : Bytes) (d : Dev) (k : Nat) : getK (rawQueued op r bs d) k = getK d k := rfl

theorem cmd?_rawQueued (op : Nat) (r : RawReq) (bs : Bytes) (d : Dev) (tag : Nat) : cmd? (rawQueued op r bs d) tag = cmd? d tag := rfl

theorem rawOd_eq (m word : Nat) (d : Dev) : rawOd m word d =
    rawStart (word % 256) (rawFields (.od m) (od d 0x2050 3) word)
      (rawBytes (word % 256) (rawFields (.od m) (od d 0x2050 3) word) d) (put 0x2050 5 1 d) := rfl

/-- An operation queued after a change of entries changes the raw path besides. -/
theorem sameBut_rawQueued {d y : Dev} {keys : List Nat} (h : OnlyEntries d y keys) (op : Nat) (r : RawReq) (bs : Bytes) :
    (rawQueued op r bs y).rawp = { d.rawp with todo := d.rawp.todo ++ [(op, r, bs)] } ∧
    SameBut d (rawQueued op r bs y) (fun x => { x with rawp := (rawQueued op r bs y).rawp }) keys := by
  obtain ⟨hkeep, hrest⟩ := h
  obtain ⟨o, t, rfl⟩ : ∃ o t, y = { d with od := o, sat := t } := ⟨_, _, hrest⟩
  exact ⟨rfl, hkeep, rfl⟩

/-- The entries as a write of raw_cmd leaves them: the word is stored, and raw_state is BUSY. -/
def rawWritten (m word : Nat) (d : Dev) : Dev := put 0x2050 5 1 (put 0x2050 2 word (rewrite 0x2050 2 (seen m d)))

theorem rawWritten_only (m word : Nat) (d : Dev) :
    OnlyEntries (rewrite 0x2050 2 d) (rawWritten m word d) [ek 0x1200 2, ek 0x2050 2, ek 0x2050 5] := by
  have hseen : OnlyEntries (rewrite 0x2050 2 d) (rewrite 0x2050 2 (seen m d)) [ek 0x1200 2] :=
    onlyEntries_put 0x1200 2 _ (rewrite 0x2050 2 d)
  exact (hseen.mono (by simp)).trans (((onlyEntries_put ..).mono (by simp)).trans ((onlyEntries_put ..).mono (by simp)))

theorem odSize_rawState (c : Params) : odSize c (ek 0x2050 5) = 1 := rfl

theorem od_rawState_rawWritten (m word : Nat) (d : Dev) : od (rawWritten m word d) 0x2050 5 = 1 := by
  refine (od_put_self ..).trans ?_
  rw [odSize_rawState]
  norm_num

/-- A write of raw_cmd leaves raw_addr, and what raw_buf holds. -/
theorem od_rawAddr_rawCmd (m word : Nat) (d : Dev) :
    od (put 0x2050 2 word (rewrite 0x2050 2 (seen m d))) 0x2050 3 = od d 0x2050 3 := by
  rw [od_put_ne _ _ (by decide), od_rewrite, od_seen (by decide)]

theorem rawBytes_rawCmd (m word op : Nat) (r : RawReq) (d : Dev) :
    rawBytes op r (put 0x2050 2 word (rewrite 0x2050 2 (seen m d))) = rawBytes op r d :=
  rawBytes_of_ods (by simp [rewrite, seen, putBit]) (by simp [rewrite, seen, putBit])

/-- A write of raw_cmd hands the operation over, with the fields of its word and the address in raw_addr. -/
theorem rawOd_of_written {m op word : Nat} {r : RawReq} {d : Dev} (hmod : word % 256 = op)
    (hfields : rawFields (.od m) (od d 0x2050 3) word = r) :
    rawOd m word (put 0x2050 2 word (rewrite 0x2050 2 (seen m d))) = rawFeed (rawQueued op r (rawBytes op r d) (rawWritten m word d)) := by
  rw [rawOd_eq, od_rawAddr_rawCmd, hfields, hmod, rawStart_eq, rawBytes_rawCmd, rawWritten]

/-! ### The rows (R273) -/

theorem op_of_rawRow {r : RawReq} {op : Nat} {row : Instr} (h : rawRow r op = some row) : op < 10 := by
  unfold rawRow at h
  split at h
  case h_10 => cases h
  all_goals omega

theorem exec_rawRow {r : RawReq} {op : Nat} {row : Instr} (h : rawRow r op = some row) (s : State) : exec row s = rawOp op r s := by
  unfold rawRow at h
  split at h
  case h_10 => cases h
  all_goals
    cases h
    rfl

/-- Over the dictionary a row writes raw_addr, then raw_cmd. -/
theorem completes_rawRow_od {r : RawReq} {op m : Nat} {row : Instr} {s : State} {P : Dev → Prop} (hrow : rawRow r op = some row)
    (hsrc : r.src = .od m) (haddr : r.addr < 2 ^ 45) (hacc : Accepted s.dev m 0x2050 3 r.addr)
    (hcmd : Accepted (rowNum m none 0x2050 3 r.addr s.dev) m 0x2050 2 (rawWord op r)) : Completes row s P ↔
      P (countEnd none (odEffect m none 0x2050 2 (rawWord op r)
        (rewrite 0x2050 2 (seen m (rowNum m none 0x2050 3 r.addr s.dev))))) := by
  have hrun : exec row s = run (fun d => rowFree m 0x2050 2 (rawWord op r) (rowFree m 0x2050 3 (r.addr % 2 ^ 64) d)) s := by
    rw [exec_rawRow hrow]
    unfold rawOp
    rw [hsrc]
  rw [completes_run hrun, Nat.mod_eq_of_lt (by omega), rowFree_of_no_error hacc.2.1, rowFree_of_accepted hcmd]

theorem completes_rawRow_ring {r : RawReq} {op tag : Nat} {row : Instr} {s : State} {P : Dev → Prop} (hrow : rawRow r op = some row)
    (hsrc : r.src = .ring tag) : Completes row s P ↔ P (rawRing op tag s.dev) := by
  refine completes_run ?_
  rw [exec_rawRow hrow]
  unfold rawOp
  rw [hsrc]

/-! ### RAW commands (R175, R275) -/

section
variable {op tag : Nat} {c : Cmd} {d : Dev}

/-- A RAW command under way hands its operation over, once. -/
theorem rawRing_of_ready (h : cmd? d tag = some c) (ho : c.opc = 15) (hop : c.q5 % 256 = op) (hst : c.st = .running)
    (hleft : c.left ≠ 0) (hfin : c.fin = false) :
    rawRing op tag d = rawStart op (rawFields (.ring tag) c.q4 c.q5) [] (updCmd tag (fun x => { x with fin := true }) d) := by
  unfold rawRing
  rw [h]
  exact if_neg (by simp [ho, hop, hst, hleft, hfin])

theorem rawRing_of_not_ready (h : cmd? d tag = some c) (hn : c.st ≠ .running ∨ c.left = 0 ∨ c.fin = true) : rawRing op tag d = d := by
  unfold rawRing
  rw [h]
  exact if_pos (by tauto)

/-- The checks of a RAW command's fields (R275). -/
def rawFits (tag : Nat) (c : Cmd) (d : Dev) : Prop :=
  rawOk d (c.q5 % 256) (rawFields (.ring tag) c.q4 c.q5) = true ∧ c.dlen = (rawFields (.ring tag) c.q4 c.q5).rlen

theorem rawCmd_of_locked (h : d.rawp.lock ≠ .opened) : rawCmd tag c d = cmdCheck tag (cmdFail tag 0x0104 d) := if_pos h

theorem rawCmd_of_unfit (h : d.rawp.lock = .opened) (hn : ¬ rawFits tag c d) :
    rawCmd tag c d = cmdCheck tag (cmdFail tag 0x0102 d) := by
  unfold rawCmd
  rw [if_neg (by simp [h])]
  exact if_pos (by simpa only [rawFits, not_and_or] using hn)

theorem rawCmd_of_fit (h : d.rawp.lock = .opened) (hfit : rawFits tag c d) :
    rawCmd tag c d = updCmd tag (fun x => { x with left := 1 }) d := by
  unfold rawCmd
  rw [if_neg (by simp [h])]
  exact if_neg (by simp [hfit.1, hfit.2])

end

/-! ### The statement -/

/-- Settles O27: over the dictionary by the two accepted writes, on a ring by the command's record, and a RAW command by its lock
and its fields. -/
theorem rawOperations : Obligations.RawOperations := by
  intro s
  refine ⟨?_, fun op r row tag c hrow hsrc hc ho hop => ⟨fun hst hleft hfin => ?_, fun hn => ?_⟩, fun tag c hc ho hs hf => ?_⟩
  · intro op r row m hrow hsrc haddr hlen hrfa hrsvd hacc a
    have hop := op_of_rawRow hrow
    have hod : od a 0x2050 3 = r.addr := od_rawAddr_of_accepted hacc haddr
    refine ⟨hod, fun hcmd => (completes_rawRow_od hrow hsrc haddr hacc hcmd).mpr ?_⟩
    have hfields : rawFields (.od m) (od a 0x2050 3) (rawWord op r) = r := by
      rw [hod, ← hsrc]
      exact rawFields_rawWord (by omega) haddr hlen hrfa hrsvd
    rw [odEffect_rawCmd, rawOd_of_written (rawWord_mod (by omega)) hfields]
    obtain ⟨hqueue, hframe⟩ := sameBut_rawQueued (rawWritten_only m (rawWord op r) a) op r (rawBytes op r a)
    exact ⟨_, ended_countEnd _, (getK_rawQueued ..).trans (od_rawState_rawWritten ..), hqueue, hframe⟩
  · rw [completes_rawRow_ring hrow hsrc, rawRing_of_ready hc ho hop hst hleft hfin]
    exact ⟨_, rawStart_eq .., (cmd?_rawQueued ..).trans (cmd?_updCmd_self _ hc), rfl, rfl⟩
  · rw [completes_rawRow_ring hrow hsrc, rawRing_of_not_ready hc hn]
  · have hstart := cmd?_started hc
    intro fits
    refine completes_started rfl hc ho hs hf ?_
    by_cases hlock : s.dev.rawp.lock = .opened
    · by_cases hfit : rawFits tag c (started tag s.dev)
      · refine ⟨updCmd tag (fun x => { x with left := 1 }) (started tag s.dev), rfl, ?_⟩
        rw [if_pos ⟨hlock, hfit⟩]
        exact ⟨cmd?_updCmd_self _ hstart, rawCmd_of_fit hlock hfit⟩
      · refine ⟨cmdFail tag 0x0102 (started tag s.dev), rfl, ?_⟩
        rw [if_neg (fun h => hfit h.2), if_pos hlock]
        exact ⟨cmd?_cmdFail_of_none hstart hf, rawCmd_of_unfit hlock hfit⟩
    · refine ⟨cmdFail tag 0x0104 (started tag s.dev), rfl, ?_⟩
      rw [if_neg (fun h => hlock h.1), if_neg hlock]
      exact ⟨cmd?_cmdFail_of_none hstart hf, rawCmd_of_locked hlock⟩

end Sys2Proof.Machine
end

section
/-! SUPPORT. What a start reads of the block besides its command: the granules of its range, and the runs of a zone family
(04_work_rings.md R160, R173; 05_lantern_placement.md R203). -/

namespace Sys2Proof.Machine

/-! ### Granules of a range -/

theorem granules_of_lan {x d : Dev} (h : x.lan = d.lan) (n sec stop : Nat) : granules x n sec stop = granules d n sec stop := by
  have hgran : ∀ k, granOf x k = granOf d k := fun k => by
    unfold granOf
    rw [h]
  induction n generalizing sec with
  | zero => rfl
  | succ n ih =>
    unfold granules
    rw [hgran]
    split
    · rfl
    · cases granOf d sec with
      | none => rfl
      | some g => exact congrArg (g :: ·) (ih _)

/-- The granules of a range depend on the regions alone, so a command's start leaves them. -/
theorem granRange_of_lan {x d : Dev} (h : x.lan = d.lan) (slba nsec : Nat) : granRange x slba nsec = granRange d slba nsec :=
  granules_of_lan h ..

/-! ### Runs of a zone family (R173) -/

theorem famPtime_started (tag : Nat) (d : Dev) : famPtime (started tag d) = famPtime d := rfl

theorem destRuns_started (tag no zf zs n sec : Nat) (d : Dev) (acc : List (Nat × Nat × Nat)) :
    destRuns (started tag d) no zf zs n sec acc = destRuns d no zf zs n sec acc := by
  induction n generalizing sec acc with
  | zero => rfl
  | succ n ih =>
    unfold destRuns
    rw [famPtime_started]
    simp only [ih]

end Sys2Proof.Machine
end

section
/-! SUPPORT. The jobs that WRITE, COPY and READ begin with (04_work_rings.md R159, R160, R169), one for each granule. -/

namespace Sys2Proof.Machine

/-- Steps that each append one element to a list of Lantern's append as many as they are, in order, and change Lantern alone. -/
theorem foldl_appends {α β : Type} {step : Dev → α → Dev} {get : Dev → List β} {R : α → β → Prop}
    (hstep : ∀ x a, step x a = { x with lan := (step x a).lan } ∧ ∃ b, get (step x a) = get x ++ [b] ∧ R a b)
    (l : List α) (d : Dev) :
    l.foldl step d = { d with lan := (l.foldl step d).lan } ∧
      ∃ bs, get (l.foldl step d) = get d ++ bs ∧ List.Forall₂ R l bs := by
  induction l generalizing d with
  | nil => exact ⟨rfl, [], (List.append_nil _).symm, .nil⟩
  | cons a l ih =>
    obtain ⟨hone, b, hget, hR⟩ := hstep d a
    obtain ⟨hrest, bs, hgets, hRs⟩ := ih (step d a)
    obtain ⟨n, hn⟩ : ∃ n, step d a = { d with lan := n } := ⟨_, hone⟩
    refine ⟨?_, b :: bs, ?_, .cons hR hRs⟩
    · rw [List.foldl_cons]
      refine hrest.trans ?_
      rw [hn]
    · rw [List.foldl_cons, hgets, hget, List.append_assoc, List.singleton_append]

/-- Lists whose elements agree in pairs have one image. -/
theorem map_eq_map_of_forall₂ {α β γ : Type} {R : α → β → Prop} {f : β → γ} {g : α → γ} (hR : ∀ a b, R a b → f b = g a)
    {l : List α} {bs : List β} (h : List.Forall₂ R l bs) : bs.map f = l.map g := by
  induction h with
  | nil => rfl
  | cons hab _ ih => rw [List.map_cons, List.map_cons, hR _ _ hab, ih]

/-! ### Destination granules (R159, R169) -/

/-- A write job is that of a granule of a command: a COPY's brings nothing from the host. -/
def jobOf (tag : Nat) (c : Cmd) (g : Gran) (w : WJob) : Prop :=
  (w.tag, w.no, w.gran, w.first, w.nsec) = (some tag, c.no, g.idx, g.first, g.nsec) ∧ w.host = if c.opc = 1 then w.mask else 0

theorem addWjobs_spec (tag : Nat) (c : Cmd) (lo hi : Nat) (gs : List Gran) (d : Dev) :
    let x := gs.foldl (fun x g => addWjob tag c lo hi g x) d
    x = { d with lan := x.lan } ∧ ∃ ws, x.lan.wjobs = d.lan.wjobs ++ ws ∧ List.Forall₂ (jobOf tag c) gs ws :=
  foldl_appends (get := fun x => x.lan.wjobs) (fun _ _ => ⟨rfl, _, rfl, rfl, rfl⟩) gs d

theorem host_of_jobOf {tag : Nat} {c : Cmd} {gs : List Gran} {ws : List WJob} (h : List.Forall₂ (jobOf tag c) gs ws) :
    ∀ w ∈ ws, w.host = if c.opc = 1 then w.mask else 0 := by
  induction h with
  | nil => simp
  | cons hw _ ih => exact List.forall_mem_cons.mpr ⟨hw.2, ih⟩

/-! ### Granule reads (R160) -/

/-- A read job is that of a granule of a READ. -/
def readOf (tag : Nat) (c : Cmd) (g : Gran) (r : RJob) : Prop :=
  (r.own, r.no, r.gran) = (ROwn.cmd tag, c.no, g.idx) ∧ r.secs = granSecs g c.slba (c.slba + c.nsec)

theorem addReads_spec (tag : Nat) (c : Cmd) (gs : List Gran) (d : Dev) :
    let x := gs.foldl (fun x g =>
      (addRead (.cmd tag) c.no 0 g.idx 0 g.glog false (granSecs g c.slba (c.slba + c.nsec)) x).2) d
    x = { d with lan := x.lan } ∧ ∃ rs, x.lan.rjobs = d.lan.rjobs ++ rs ∧ List.Forall₂ (readOf tag c) gs rs :=
  foldl_appends (get := fun x => x.lan.rjobs) (fun _ _ => ⟨rfl, _, rfl, rfl, rfl⟩) gs d

end Sys2Proof.Machine
end

section
/-! SUPPORT. One granule trimmed (04_work_rings.md R162; 05_lantern_placement.md R208): what the changes that go with it leave of the
map, and the entry that stands afterwards. -/

namespace Sys2Proof.Machine

theorem mapE_moveUnits (add : Bool) (e : Nat) (g : Gran) (d : Dev) (k : Nat) : mapE (moveUnits add e g d) k = mapE d k :=
  mapE_of_aside (b := 0) (aside_moveUnits d (by decide)) k

theorem mapE_dirtyEntry (g : Nat) (d : Dev) (k : Nat) : mapE (dirtyEntry g d) k = mapE d k :=
  mapE_of_aside (b := 0) (aside_dirtyEntry d (by decide)) k

theorem mapE_pruneVers (d : Dev) (k : Nat) : mapE (pruneVers d) k = mapE d k := by
  unfold pruneVers
  dsimp only
  refine (foldl_keeps (fun x => mapE x k) (fun x v => ?_) _ _).trans rfl
  split
  · exact mapE_moveUnits ..
  · rfl

/-- R208: a change that no later command made before stands in the map. -/
theorem mapE_changeEntry_of_newest {g : Gran} {no : Nat} (e : Nat) {d : Dev} (h : tabGet 0 d.lan.verNo g.idx ≤ no) :
    mapE (changeEntry g no e d) g.idx = e := by
  unfold changeEntry
  dsimp only
  rw [if_neg (by omega), mapE_pruneVers, mapE_putMap_self]

theorem mapE_changeMap_of_newest {g : Gran} {no wseq : Nat} {grp : Option Nat} (e : Nat) {d : Dev}
    (h : tabGet 0 d.lan.verNo g.idx ≤ no) : mapE (changeMap g no e wseq grp d) g.idx = e := by
  have hstands : mapE (dirtyEntry g.idx (changeEntry g no e d)) g.idx = e := by
    rw [mapE_dirtyEntry, mapE_changeEntry_of_newest e h]
  unfold changeMap
  dsimp only
  rw [if_pos (show isNewest d g.idx no = true from decide_eq_true h)]
  cases grp <;> exact hstands

/-- R162: the entry of a granule that is trimmed has the next generation. -/
theorem mapE_trimGran {tag : Nat} {c : Cmd} {g : Gran} {d : Dev} (hlost : entryLost d g.idx = false)
    (h : tabGet 0 d.lan.verNo g.idx ≤ c.no) :
    mapE (trimGran tag c g d) g.idx = mkTrim ((eGen (mapE d g.idx) + 1) % 256) := by
  have hstands := mapE_changeMap_of_newest (wseq := 0) (grp := c.grp) (mkTrim ((eGen (mapE d g.idx) + 1) % 256)) h
  unfold trimGran
  rw [if_neg (by simp [hlost])]
  dsimp only
  split <;> exact hstands

end Sys2Proof.Machine
end

section
/-! SUPPORT. Ring commands begin, and none begins twice (04_work_rings.md R156 to R176, R181): the statement. -/

namespace Sys2Proof.Machine

/-! ### The rows -/

/-- The end of the span that a DESTAGE-VIEW walks (R173). -/
def viewStop (c : Cmd) (d : Dev) : Nat := if bits c.q5 0 40 = 0 then d.lan.cap else c.slba + bits c.q5 0 40

/-- The row is DESTAGE-VIEW's, and the map lacks an earlier write of the span of its command (R173, R179). -/
def viewWaits (op tag : Nat) (d : Dev) : Prop := op = 9 ∧ ∃ c, cmd? d tag = some c ∧ mapBehind d c.no c.slba (viewStop c d) = true

section
variable {tag : Nat} {s : State} {P : Dev → Prop}

theorem completes_destageView_of_waits (h : viewWaits 9 tag s.dev) : Completes (.destageView tag) s P ↔ P s.dev := by
  obtain ⟨-, c, hc, hbehind⟩ := h
  have hrun : exec (.destageView tag) s = execDestageView tag s := rfl
  rw [execDestageView] at hrun
  unfold viewStop at hbehind
  rw [completes_run hrun, hc]
  dsimp only
  rw [if_pos hbehind]

theorem completes_destageView_of_not_waits (h : ¬ viewWaits 9 tag s.dev) :
    Completes (.destageView tag) s P ↔ P (startCmd 9 tag (fun c x => cmdCheck tag (destageView tag c x)) s.dev) := by
  have hrun : exec (.destageView tag) s = execDestageView tag s := rfl
  rw [execDestageView] at hrun
  rw [completes_run hrun]
  cases hc : cmd? s.dev tag with
  | none => rw [startCmd_of_none hc]
  | some c =>
    have hready : ¬ mapBehind s.dev c.no c.slba (viewStop c s.dev) = true := fun hbehind => h ⟨rfl, c, hc, hbehind⟩
    unfold viewStop at hready
    dsimp only
    rw [if_neg hready]

end

/-- Every row starts its opcode's command, but for a DESTAGE-VIEW that waits. -/
theorem completes_cmdRow {tag op : Nat} {row : Instr} {s : State} (h : cmdRow tag op = some row) :
    ∃ f, (¬ viewWaits op tag s.dev → ∀ P, Completes row s P ↔ P (startCmd op tag f s.dev)) ∧
      (viewWaits op tag s.dev → ∀ P, Completes row s P ↔ P s.dev) := by
  unfold cmdRow at h
  split at h
  case h_11 => cases h
  case h_9 =>
    cases h
    exact ⟨_, fun hw _ => completes_destageView_of_not_waits hw, fun hw _ => completes_destageView_of_waits hw⟩
  all_goals
    cases h
    exact ⟨_, fun _ P => completes_run rfl, fun hw => absurd hw.1 (by decide)⟩

/-! ### None starts twice -/

theorem commandsStartOnce_holds : commandsStartOnce := by
  intro s tag op row hrow
  obtain ⟨f, hgo, hwait⟩ := completes_cmdRow (s := s) hrow
  have hidle : startCmd op tag f s.dev = s.dev → Completes row s (fun d' => d' = s.dev) := fun hsame => by
    by_cases hw : viewWaits op tag s.dev
    · exact (hwait hw _).mpr rfl
    · exact (hgo hw _).mpr hsame
  refine ⟨fun hc => hidle (startCmd_of_none hc), fun c hc => ⟨fun hw => hidle (startCmd_of_waiting hc hw), ?_⟩⟩
  intro hop hs hf hmap
  have hnot : ¬ viewWaits op tag s.dev := by
    rintro ⟨rfl, y, hy, hbehind⟩
    obtain rfl := Option.some.inj (hc.symm.trans hy)
    simp [viewStop, hmap rfl] at hbehind
  exact (hgo hnot _).mpr ⟨_, startedAs_started hc, startCmd_of_failed hc hop hs hf⟩

/-! ### WRITE, COPY and READ (R159, R160, R169) -/

/-- The block with the write jobs of a command's destination granules added, and nothing of the control side changed. -/
def WritesBegun (tag : Nat) (c : Cmd) (gs : List Gran) (d d' : Dev) : Prop :=
  ControlKept d d' ∧ d'.lan.wjobs.length = d.lan.wjobs.length + gs.length ∧
  (d'.lan.wjobs.drop d.lan.wjobs.length).map (fun w => (w.tag, w.no, w.gran, w.first, w.nsec)) =
    gs.map (fun g => (some tag, c.no, g.idx, g.first, g.nsec)) ∧
  ∀ w ∈ d'.lan.wjobs.drop d.lan.wjobs.length, w.host = if c.opc = 1 then w.mask else 0

/-- A block in which commands and Lantern alone have changed keeps the control side. -/
theorem controlKept_of_frame {d d' : Dev} (h : d' = { d with cmds := d'.cmds, lan := d'.lan }) : ControlKept d d' := by
  rw [h]
  exact ⟨rfl, rfl, rfl, rfl, rfl, rfl, rfl, rfl, fun _ h => h, fun _ _ => rfl⟩

section
variable {tag : Nat} {c c' : Cmd} {d x : Dev} (hx : x = { d with cmds := x.cmds }) (hc' : cmd? x tag = some c')
include hx hc'

/-- The command holds the number of its destination granules, and a job for each is added. -/
theorem writeGranules_spec :
    let gs := granRange d (writeRange c).1 c.nsec
    cmd? (writeGranules tag c x) tag = some { c' with left := gs.length } ∧ WritesBegun tag c gs d (writeGranules tag c x) := by
  intro gs
  have hgs : granRange x (writeRange c).1 c.nsec = gs := granRange_of_lan (by rw [hx]) ..
  obtain ⟨hframe, ws, hjobs, hpairs⟩ :=
    addWjobs_spec tag c (writeRange c).1 ((writeRange c).1 + c.nsec) gs (updCmd tag (fun y => { y with left := gs.length }) x)
  have hcmd := cmd?_updCmd_self (fun y => { y with left := gs.length }) hc'
  unfold writeGranules
  dsimp only
  rw [hgs]
  generalize gs.foldl _ _ = d' at *
  have hadded : d'.lan.wjobs = d.lan.wjobs ++ ws := by rw [hjobs, updCmd_lan, hx]
  refine ⟨(cmd?_congr (congrArg Dev.cmds hframe) tag).trans hcmd, controlKept_of_frame ?_, ?_⟩
  · rw [hframe, hx]
    rfl
  · rw [hadded, List.drop_left, List.length_append, hpairs.length_eq]
    exact ⟨rfl, map_eq_map_of_forall₂ (fun _ _ h => h.1) hpairs, host_of_jobOf hpairs⟩

/-- The command holds the number of its granules, and a read for each is added. -/
theorem readGranules_spec :
    let gs := granRange d c.slba c.nsec
    let d' := readGranules tag c x
    cmd? d' tag = some { c' with left := gs.length } ∧
      (d'.lan.rjobs.drop d.lan.rjobs.length).map (fun r => (r.own, r.no, r.gran)) = gs.map (fun g => (ROwn.cmd tag, c.no, g.idx)) ∧
      (d'.lan.rjobs.drop d.lan.rjobs.length).map (fun r => r.secs) = gs.map (fun g => granSecs g c.slba (c.slba + c.nsec)) := by
  intro gs
  have hgs : granRange x c.slba c.nsec = gs := granRange_of_lan (by rw [hx]) ..
  obtain ⟨hframe, rs, hjobs, hpairs⟩ := addReads_spec tag c gs (updCmd tag (fun y => { y with left := gs.length }) x)
  have hcmd := cmd?_updCmd_self (fun y => { y with left := gs.length }) hc'
  unfold readGranules
  dsimp only
  rw [hgs]
  generalize gs.foldl _ _ = d' at *
  have hadded : d'.lan.rjobs = d.lan.rjobs ++ rs := by rw [hjobs, updCmd_lan, hx]
  rw [hadded, List.drop_left]
  exact ⟨(cmd?_congr (congrArg Dev.cmds hframe) tag).trans hcmd, map_eq_map_of_forall₂ (fun _ _ h => h.1) hpairs,
    map_eq_map_of_forall₂ (fun _ _ h => h.2) hpairs⟩

end

/-- R169: a COPY is unpredictable from its start where its ranges overlap. -/
theorem cmd?_started_copy {tag : Nat} {c : Cmd} {d : Dev} (hc : cmd? d tag = some c) :
    cmd? (updCmd tag (fun x => { x with wild := x.wild || copyOverlaps c }) (started tag d)) tag =
      some { c with st := .running, wild := c.wild || copyOverlaps c } :=
  cmd?_updCmd_self (fun x => { x with wild := x.wild || copyOverlaps c }) (cmd?_started hc)

/-! ### COMMIT and DESTAGE-VIEW (R166, R167, R173) -/

/-- What a COMMIT does by its group: it waits for it, or fails with it. -/
theorem commitCmd_spec (tag : Nat) (c : Cmd) (d x : Dev) (hx : x.groups = d.groups) :
    match c.grp.bind (group? d) with
    | none => commitCmd tag c x = cmdCheck tag x
    | some g =>
      if g.aborted = true then commitCmd tag c x = cmdCheck tag (cmdFail tag 0x0201 x)
      else if bits c.q4 0 16 ≠ 0 ∧ bits c.q4 0 16 ≠ g.members then
        commitCmd tag c x = cmdCheck tag (cmdFail tag 0x0201 (abortGroup g.id 0x0201 x))
      else commitCmd tag c x = feedBands (padUrgent (cmdCheck tag x)) := by
  have hgroup : group? x = group? d := by
    funext id
    unfold group?
    rw [hx]
  unfold commitCmd
  rw [hgroup]
  cases c.grp.bind (group? d) with
  | none => rfl
  | some g =>
    dsimp only
    split
    · rfl
    · split <;> rfl

/-- The records that a DESTAGE-VIEW reports, and whether any are left over. -/
theorem cmd?_destageView {tag : Nat} {c : Cmd} {d : Dev} (hc : cmd? d tag = some c) :
    let last := if bits c.q5 0 40 = 0 then d.lan.cap else min d.lan.cap (c.slba + bits c.q5 0 40)
    let runs := (destRuns d c.no (bits c.q4 0 12) (bits c.q4 16 24) (last - c.slba) c.slba []).reverse
    (cmd? (destageView tag c (started tag d)) tag).map (fun y => (y.result, y.left)) =
      some (min (c.dlen / 16) runs.length + fld (b2n (decide (c.dlen / 16 < runs.length))) 32 1, 0) := by
  intro last runs
  unfold destageView
  dsimp only
  rw [destRuns_started, cmd?_updCmd_self _ (cmd?_started hc)]
  rfl

/-! ### The statement -/

theorem commandsBegin_holds : commandsBegin := by
  intro s tag c hc hs hf
  have hstart := cmd?_started hc
  refine ⟨?_, fun hop => ?_, fun hop => ⟨?_, fun g => mapE_trimGran⟩, fun hop => ?_, fun hop => ?_, fun hop => ?_, fun hop => ?_,
    fun hop => ?_⟩
  · rintro row (⟨hop, rfl⟩ | ⟨hop, rfl⟩) gs
    · have hwild : (c.wild || (c.opc == 6 && copyOverlaps c)) = c.wild := by simp [hop]
      rw [hwild]
      exact completes_started rfl hc hop hs hf (writeGranules_spec rfl hstart)
    · have hwild : (c.wild || (c.opc == 6 && copyOverlaps c)) = (c.wild || copyOverlaps c) := by simp [hop]
      rw [hwild]
      exact completes_started rfl hc hop hs hf (writeGranules_spec rfl (cmd?_started_copy hc))
  · exact completes_started rfl hc hop hs hf (readGranules_spec rfl hstart)
  · exact completes_started rfl hc hop hs hf ⟨_, rfl, cmd?_updCmd_self (fun x => { x with left := 1 }) hstart, rfl⟩
  · exact completes_started rfl hc hop hs hf ⟨_, startedAs_started hc, rfl⟩
  · exact completes_started rfl hc hop hs hf ⟨_, startedAs_started hc, commitCmd_spec tag c s.dev _ rfl⟩
  · exact completes_started rfl hc hop hs hf
      ⟨_, rfl, rfl, cmd?_updCmd_self (fun x => { x with cur := c.slba, fin := false }) hstart⟩
  · exact completes_started rfl hc hop hs hf ⟨_, rfl, rfl, cmd?_updCmd_self
      (fun x => { x with cur := c.slba, fin := false, result := cdiv c.nsec (bits c.q4 16 16 + 1) }) hstart⟩
  · intro span last runs k
    refine ⟨fun hbehind => ?_, fun hready => ?_⟩
    · exact (completes_destageView_of_waits ⟨rfl, c, hc, hbehind⟩).mpr rfl
    · have hnot : ¬ viewWaits 9 tag s.dev := by
        rintro ⟨-, y, hy, hbehind⟩
        obtain rfl := Option.some.inj (hc.symm.trans hy)
        exact absurd (hbehind.symm.trans hready) (by decide)
      rw [completes_destageView_of_not_waits hnot, startCmd_of_ok hc hop hs hf]
      obtain ⟨y, hy, hview⟩ := Option.map_eq_some_iff.mp (cmd?_destageView hc)
      obtain ⟨hresult, hleft⟩ := Prod.mk.inj hview
      refine ⟨_, rfl, rfl, ?_, ?_⟩
      · rw [hy]
        exact congrArg some hresult
      · rw [hy]
        exact congrArg some hleft

/-- Settles O42: what keeps a command from starting, and what each begins with. -/
theorem commandsBeginOnce : Obligations.CommandsBeginOnce := ⟨commandsStartOnce_holds, commandsBegin_holds⟩

end Sys2Proof.Machine
end

section
/-! SUPPORT. Quiescing Lantern (05_lantern_placement.md R216, R239): every dirty line of the map cache is written back, and the
statement. -/

namespace Sys2Proof.Machine

/-! ### Lines that hold a change -/

/-- A line's change is in the cache alone: it is to be written back. -/
def Line.due (l : Line) : Prop := l.lost = false ∧ l.dirty = true

theorem Line.not_due_iff {l : Line} : ¬ l.due ↔ l.lost = true ∨ l.dirty = false := by
  unfold Line.due
  cases l.lost <;> cases l.dirty <;> simp

/-- Where an address is changed to lines that are not due, each line that is due stood before, at another address. -/
theorem due_of_updWhere {a : Nat} {f : Line → Line} (hf : ∀ l, ¬ (f l).due) {ls : List Line} {y : Line}
    (hy : y ∈ updWhere (fun x => x.addr == a) f ls) (hdue : y.due) : y ∈ ls ∧ y.addr ≠ a := by
  obtain ⟨x, hx, rfl⟩ := List.mem_map.mp hy
  split at hdue
  · exact absurd hdue (hf x)
  · next hne => rw [if_neg hne]; exact ⟨hx, by simpa using hne⟩

/-- A change of the lines at one address leaves those at others. -/
theorem mem_of_mem_updWhere {a : Nat} {f : Line → Line} (hf : ∀ l, (f l).addr = l.addr) {ls : List Line} {y : Line}
    (hy : y ∈ updWhere (fun x => x.addr == a) f ls) (hne : y.addr ≠ a) : y ∈ ls := by
  obtain ⟨x, hx, rfl⟩ := List.mem_map.mp hy
  split at hne
  · next ha => exact absurd (by simpa [hf] using ha) hne
  · next ha => rwa [if_neg ha]

/-- A lost line leaves the lines at other addresses. -/
theorem mem_lines_loseLine {l y : Line} {syn w : Nat} {d : Dev} (hy : y ∈ (loseLine l syn w d).lan.lines)
    (hne : y.addr ≠ l.addr) : y ∈ d.lan.lines := by
  unfold loseLine at hy
  split at hy
  · exact mem_of_mem_updWhere (f := fun x => { x with dirty := true, flips := [] }) (fun _ => rfl) hy hne
  · rw [updClasp_lan, memError_lan, cnt_lan] at hy
    exact mem_of_mem_updWhere (f := fun x => { x with lost := true, dirty := false, flips := [] }) (fun _ => rfl) hy hne

/-- Reading the words of a dirty line leaves the lines at other addresses; at its own it may lose them, or fill them with zeros. -/
theorem mem_lines_lineRead {l y : Line} {ws : List Nat} {d : Dev} (hl : l.dirty = true) (hy : y ∈ (lineRead l ws d).lan.lines)
    (hne : y.addr ≠ l.addr) : y ∈ d.lan.lines := by
  unfold lineRead at hy
  dsimp only at hy
  split at hy
  · rwa [lineCes_lan] at hy
  · rw [if_pos hl] at hy
    have hmem := mem_lines_loseLine hy hne
    rwa [lineCes_lan] at hmem

/-- R216, R490: once a line that is due is written back, no line of its address is due, and none has become so. -/
theorem due_writeBack {l y : Line} {d : Dev} (hl : l.due) (hy : y ∈ (writeBack l d).lan.lines) (hdue : y.due) :
    y ∈ d.lan.lines ∧ y.addr ≠ l.addr := by
  obtain ⟨hlost, hdirty⟩ := hl
  have hread : y ∈ (lineRead l (List.range 8) d).lan.lines ∧ y.addr ≠ l.addr := by
    unfold writeBack at hy
    simp only [hdirty, hlost, Bool.false_eq_true, not_false_eq_true, and_self, if_true] at hy
    split at hy
    · next hnone =>
      refine ⟨hy, fun he => hnone (List.any_eq_true.mpr ⟨y, hy, ?_⟩)⟩
      simp [he, hdue.1, hdue.2]
    · rw [cnt_lan, postWrite_lan] at hy
      exact due_of_updWhere (fun x h => by simpa using h.2) hy hdue
  exact ⟨mem_lines_lineRead hdirty hread.1 hread.2, hread.2⟩

/-- A line that is not due is not written back. -/
theorem writeBack_of_not_due {l : Line} {d : Dev} (h : ¬ l.due) : writeBack l d = d := by
  unfold writeBack
  rw [if_neg]
  rintro ⟨hdirty, hlost⟩
  exact h ⟨by simpa using hlost, hdirty⟩

/-- Writing lines back one after the other, none is due at the end whose address had a line that was. -/
theorem due_writeBacks (ls : List Line) {d : Dev} {y : Line} (hy : y ∈ (ls.foldl (fun x l => writeBack l x) d).lan.lines)
    (hdue : y.due) : y ∈ d.lan.lines ∧ ∀ l ∈ ls, l.due → y.addr ≠ l.addr := by
  induction ls generalizing d with
  | nil => exact ⟨hy, by simp⟩
  | cons l ls ih =>
    obtain ⟨hmem, hrest⟩ := ih hy
    by_cases hl : l.due
    · obtain ⟨hbefore, hne⟩ := due_writeBack hl hmem hdue
      exact ⟨hbefore, List.forall_mem_cons.mpr ⟨fun _ => hne, hrest⟩⟩
    · have hmem : y ∈ (writeBack l d).lan.lines := hmem
      rw [writeBack_of_not_due hl] at hmem
      exact ⟨hmem, List.forall_mem_cons.mpr ⟨fun h => absurd h hl, hrest⟩⟩

/-- R216: once all lines are written back, none is due. -/
theorem not_due_writeBackAll {y : Line} {d : Dev} (hy : y ∈ (writeBackAll d).lan.lines) : ¬ y.due := by
  intro hdue
  obtain ⟨hmem, hne⟩ := due_writeBacks d.lan.lines hy hdue
  exact hne y hmem hdue rfl

theorem aside_writeBackAll {b : Nat} (d : Dev) (h : b ≤ 0x210800) : (writeBackAll d).aside b = d.aside b :=
  aside_foldl b d _ (fun x _ => aside_writeBack x h)

/-! ### A write of lt_quiesce (R239) -/

theorem ltQuiesce_of_service {d : Dev} (h : od d 0x2100 8 = 2) : ltQuiesce 1 d = put 0x2100 8 3 (put 0x2100 6 1 d) := by
  simp [ltQuiesce, h]

theorem ltQuiesce_of_not_service {d : Dev} (h : od d 0x2100 8 ≠ 2) : ltQuiesce 1 d = d := by simp [ltQuiesce, h]

theorem ltQuiesce_of_quiescing {d : Dev} (h : od d 0x2100 8 = 3 ∨ od d 0x2100 8 = 4) :
    ltQuiesce 0 d = put 0x2100 8 2 (put 0x2100 6 0 d) := by simp [ltQuiesce, h]

theorem ltQuiesce_of_not_quiescing {d : Dev} (h : ¬ (od d 0x2100 8 = 3 ∨ od d 0x2100 8 = 4)) : ltQuiesce 0 d = d := by
  simp [ltQuiesce, h]

theorem writeDoes_ltQuiesce {s : State} {m v : Nat} {eff : Dev → Dev → Prop} (hacc : Accepted s.dev m 0x2100 6 v)
    (heff : eff (rewrite 0x2100 6 (seen m s.dev)) (ltQuiesce v (rewrite 0x2100 6 (seen m s.dev)))) : WriteDoes (.ltQuiesce m v) s m eff :=
  writeDoes_of_accepted rfl rfl hacc heff

/-- lt_quiesce and lt_state as they are written together. -/
theorem quiesce_puts {st v : Nat} (d : Dev) (hst : st < 256) (hv : v < 256) :
    od (put 0x2100 8 st (put 0x2100 6 v d)) 0x2100 8 = st ∧ od (put 0x2100 8 st (put 0x2100 6 v d)) 0x2100 6 = v ∧
      OnlyEntries d (put 0x2100 8 st (put 0x2100 6 v d)) [ek 0x2100 8, ek 0x2100 6] := by
  have hstate : odSize (put 0x2100 6 v d).cfg (ek 0x2100 8) = 1 := rfl
  have hquiesce : odSize d.cfg (ek 0x2100 6) = 1 := rfl
  refine ⟨?_, ?_, keeps_trans (keeps_put d (by simp)) (keeps_put _ (by simp)), rfl⟩
  · rw [od_put_self, hstate]
    exact Nat.mod_eq_of_lt hst
  · rw [od_put_ne _ _ (by decide), od_put_self, hquiesce]
    exact Nat.mod_eq_of_lt hv

/-! ### QUIESCED (R239) -/

theorem completes_lanternQuiesced {s : State} {P : Dev → Prop} : Completes .lanternQuiesced s P ↔ P (lanternQuiesced s.dev) :=
  completes_run rfl

/-- Nothing is left for Lantern to do: each command has ended, and no placement, read, fill or relocation is under way. -/
def workEnded (d : Dev) : Prop :=
  od d 0x2100 8 = 3 ∧ (∀ c ∈ d.cmds, c.2.st = .met) ∧ d.lan.wjobs = [] ∧ d.lan.rjobs = [] ∧ d.lan.relocs = [] ∧
    d.lan.want = [] ∧ d.lan.misses = []

theorem lanternQuiesced_of_workEnded {d : Dev} (h : workEnded d) : lanternQuiesced d =
    if (writeBackAll d).lan.wbs = [] then put 0x2100 8 4 (writeBackAll d) else writeBackAll d := by
  unfold lanternQuiesced
  rw [if_pos (by simpa [workEnded] using h)]
  simp only [List.isEmpty_iff]

theorem lanternQuiesced_of_not_workEnded {d : Dev} (h : ¬ workEnded d) : lanternQuiesced d = d := by
  unfold lanternQuiesced
  rw [if_neg (by simpa [workEnded] using h)]

/-- QUIESCED shows once the last write-back is answered, and until then each change is under way to map DRAM. -/
theorem lanternQuiesced_spec {d : Dev} (h : workEnded d) :
    od (lanternQuiesced d) 0x2100 8 = (if (lanternQuiesced d).lan.wbs = [] then 4 else 3) ∧
      ∀ l ∈ (lanternQuiesced d).lan.lines, l.lost = true ∨ l.dirty = false := by
  have hsize : odSize (writeBackAll d).cfg (ek 0x2100 8) = 1 := rfl
  rw [lanternQuiesced_of_workEnded h]
  split
  · next hnone =>
    refine ⟨?_, fun l hl => Line.not_due_iff.mp (not_due_writeBackAll hl)⟩
    rw [if_pos (by exact hnone), od_put_self, hsize]
    rfl
  · next hsome =>
    refine ⟨?_, fun l hl => Line.not_due_iff.mp (not_due_writeBackAll hl)⟩
    rw [od_of_aside (aside_writeBackAll (b := 0x210800) d le_rfl) (by decide), h.1]

/-! ### The statement -/

/-- Settles O23: a write by the state it finds, QUIESCED by the work that is left. -/
theorem lanternQuiescing : Obligations.LanternQuiescing := by
  intro s m
  have hsame : od (rewrite 0x2100 6 (seen m s.dev)) 0x2100 8 = od s.dev 0x2100 8 :=
    (od_rewrite ..).trans (od_seen (by decide))
  refine ⟨fun hacc => writeDoes_ltQuiesce hacc ?quiesce, fun hacc => writeDoes_ltQuiesce hacc ?resume,
    fun hst hcmds hw hr hrel hwant hmiss => ?ended, fun h => ?left⟩
  case quiesce =>
    rw [← hsame]
    split
    · next hst =>
      rw [ltQuiesce_of_service hst]
      exact quiesce_puts _ (by decide) (by decide)
    · next hst => exact ltQuiesce_of_not_service hst
  case resume =>
    rw [← hsame]
    split
    · next hst =>
      rw [ltQuiesce_of_quiescing hst]
      exact quiesce_puts _ (by decide) (by decide)
    · next hst => exact ltQuiesce_of_not_quiescing hst
  case ended =>
    obtain ⟨hstate, hlines⟩ := lanternQuiesced_spec ⟨hst, hcmds, hw, hr, hrel, hwant, hmiss⟩
    exact completes_lanternQuiesced.mpr ⟨hstate, hlines, (keep_lanternQuiesced (Keep.refl s.dev)).control⟩
  case left =>
    refine completes_lanternQuiesced.mpr (lanternQuiesced_of_not_workEnded ?_)
    rintro ⟨hst, hcmds, hw, hr, hrel, hwant, hmiss⟩
    obtain h | ⟨c, hc, h⟩ | h | h | h | h | h := h
    · exact h hst
    · exact h (hcmds c hc)
    · exact h hw
    · exact h hr
    · exact h hrel
    · exact h hwant
    · exact h hmiss

end Sys2Proof.Machine
end

section
/-! SUPPORT. Granules that wait for a place (05_lantern_placement.md R220, R221, R225, R227): what an attempt's answer brings, and the
wait for space that ends. -/

namespace Sys2Proof.Machine

/-! ### A turn to be placed (R220, R225) -/

theorem completes_placeWrite {id : Nat} {s : State} {P : Dev → Prop} : Completes (.placeWrite id) s P ↔ P (placeWrite id s.dev) :=
  completes_run rfl

/-- A job with its key as its hint stands now (R178). -/
def hinted (d : Dev) (w : WJob) : WJob :=
  match w.tag.bind (cmd? d) with
  | some c =>
    let h := hint d c.ring c.stream
    { w with key := hintKey d w.key.glog h, life := bits h 0 3, temp := bits h 4 2 }
  | none => w

theorem hinted_eq (d : Dev) (w : WJob) :
    hinted d w = { w with key := (hinted d w).key, life := (hinted d w).life, temp := (hinted d w).temp } := by
  unfold hinted
  split <;> rfl

theorem key_hinted {d : Dev} {w : WJob} {t : Nat} {c : Cmd} (ht : w.tag = some t) (hc : cmd? d t = some c) :
    (hinted d w).key = hintKey d w.key.glog (hint d c.ring c.stream) := by
  unfold hinted
  rw [show w.tag.bind (cmd? d) = some c by rw [ht]; exact hc]

theorem placeWrite_of_absent {id : Nat} {d : Dev} (h : wjob d id = none) : placeWrite id d = d := by
  unfold placeWrite
  rw [h]

/-- What is done with the answer of an attempt to place a job (R221, R227). -/
def placeAnswered (id : Nat) (w : WJob) : Placed → Dev
  | .done z => feedBands (padUrgent (countPlaced w (if w.host = 0 ∧ w.reloc.isNone ∧ ¬ w.given then
      copyReads id (updWjob id (fun x => { x with given := true }) z) else z)))
  | .wait z => z
  | .noBand z =>
    if w.reloc.isSome then z
    else if z.lan.bands.any (fun b => b.st == .closed && hasInvalid z b) then updWjob id (fun x => { x with spaceWait := true }) z
    else noSpace w z

section
variable {id : Nat} {w : WJob} {d : Dev} (hw : wjob d id = some w)
include hw

theorem placeWrite_of_job : placeWrite id d =
    if ¬ wantsPlace w ∨ d.clasp.flush.isSome ∨ (od d 0x2100 8 ≠ 2 ∧ od d 0x2100 8 ≠ 3) then d
    else if jobAborted d w then killJob w d else if w.reloc.isSome ∧ ¬ relMay d w then d
    else placeAnswered id (hinted d w) (tryPlace (hinted d w) (updWjob id (fun _ => hinted d w) d)) := by
  unfold placeWrite
  rw [hw]
  rfl

theorem placeWrite_of_unready (h : wantsPlace w = false ∨ d.clasp.flush.isSome ∨ od d 0x2100 8 ∉ [2, 3]) : placeWrite id d = d := by
  rw [placeWrite_of_job hw]
  exact if_pos (by simpa using h)

variable (hwant : wantsPlace w = true) (hflush : d.clasp.flush = none) (hst : od d 0x2100 8 ∈ [2, 3])
include hwant hflush hst

/-- A job is ready for its place: what comes of it turns on its group, its share and what the attempt answers. -/
theorem placeWrite_of_ready : placeWrite id d = if jobAborted d w then killJob w d else if w.reloc.isSome ∧ ¬ relMay d w then d
    else placeAnswered id (hinted d w) (tryPlace (hinted d w) (updWjob id (fun _ => hinted d w) d)) := by
  have hready : ¬ (¬ wantsPlace w ∨ d.clasp.flush.isSome ∨ (od d 0x2100 8 ≠ 2 ∧ od d 0x2100 8 ≠ 3)) := by
    rintro (h | h | ⟨h2, h3⟩)
    · exact h hwant
    · simp [hflush] at h
    · simp only [List.mem_cons, List.not_mem_nil, or_false] at hst
      exact hst.elim h2 h3
  rw [placeWrite_of_job hw, if_neg hready]

end

/-! ### Space that never comes (R227) -/

/-- What the end of a job's wait for space does. -/
def spaceWaitEnded (id : Nat) (d : Dev) : Dev :=
  match wjob d id with
  | some w => if w.spaceWait then kickAll (noSpace w d) else d
  | none => d

theorem completes_spaceWaitTimeout {id : Nat} {s : State} {P : Dev → Prop} :
    Completes (.spaceWaitTimeout id) s P ↔ P (spaceWaitEnded id s.dev) := completes_run (f := spaceWaitEnded id) rfl

theorem spaceWaitEnded_of_absent {id : Nat} {d : Dev} (h : wjob d id = none) : spaceWaitEnded id d = d := by
  unfold spaceWaitEnded
  rw [h]

theorem spaceWaitEnded_of_job {id : Nat} {w : WJob} {d : Dev} (h : wjob d id = some w) :
    spaceWaitEnded id d = if w.spaceWait then kickAll (noSpace w d) else d := by
  unfold spaceWaitEnded
  rw [h]

/-- The block as a job's command has failed NO_SPACE, counted. -/
def spaceFailed (t : Nat) (d : Dev) : Dev := cnt 0x2108 0x0E (cmdFail t 0x0302 d)

theorem noSpace_of_tag {w : WJob} {t : Nat} (h : w.tag = some t) (d : Dev) : noSpace w d = killJob w (spaceFailed t d) := by
  unfold noSpace
  rw [h]
  rfl

theorem spaceFailed_spec (t : Nat) (d : Dev) : Counted d (spaceFailed t d) 0x2108 0x0E 1 ∧ (spaceFailed t d).lan = d.lan ∧
    ∀ c, cmd? d t = some c → (cmd? (spaceFailed t d) t).map (fun y => y.fails.contains 0x0302) = some true := by
  refine ⟨counted_of_od_eq rfl rfl (cnt_spec _ _ _).1, cnt_lan .., fun c hc => ?_⟩
  have hcmd : cmd? (spaceFailed t d) t = cmd? (cmdFail t 0x0302 d) t := by
    unfold cmd? spaceFailed
    rw [cnt_cmds]
  rw [hcmd, cmdFail, cmd?_updCmd_self _ hc]
  simp only [Option.map_some]
  split
  · next h => rw [h]
  · simp

end Sys2Proof.Machine
end

section
/-! SUPPORT. A part granule is merged with its other sectors (05_lantern_placement.md R222). -/

namespace Sys2Proof.Machine

theorem completes_merge {id : Nat} {s : State} {P : Dev → Prop} : Completes (.merge id) s P ↔ P (merge id s.dev) := completes_run rfl

/-! ### Space reserved for a job (R221) -/

theorem wjobs_sbStore (u : NUnit) (a : Nat) (bs : Bytes) (d : Dev) : (sbStore u a bs d).lan.wjobs = d.lan.wjobs := by
  have hnotes : ∀ (l : List Nat) (x : Dev), (l.foldl (fun y w => sbNote w (tabGet 0 y.lan.flips w) y) x).lan = x.lan :=
    fun l x => foldl_keeps (·.lan) (fun y w => sbNote_lan ..) l x
  unfold sbStore sbStore? sbWrite
  dsimp only [updLan]
  rw [cntN_lan, hnotes, send_lan, send_lan, send_lan]

theorem wjobs_sbAlloc {seg len : Nat} {own : SbOwn} {d : Dev} {r : Nat × Dev} (h : sbAlloc seg len own d = some r) :
    r.2.lan.wjobs = d.lan.wjobs := by
  unfold sbAlloc at h
  split at h
  · cases h
  · obtain ⟨a, -, rfl⟩ := Option.map_eq_some_iff.mp h
    rfl

theorem wjobs_sbAllocs {seg : Nat} {own : SbOwn} {ns : List Nat} {d : Dev} {r : List Nat × Dev} (h : sbAllocs seg own ns d = some r) :
    r.2.lan.wjobs = d.lan.wjobs := by
  induction ns generalizing d r with
  | nil =>
    cases h
    rfl
  | cons n ns ih =>
    unfold sbAllocs at h
    split at h
    · cases h
    · next a x ha =>
      obtain ⟨q, hq, rfl⟩ := Option.map_eq_some_iff.mp h
      exact (ih hq).trans (wjobs_sbAlloc ha)

/-- A job's record after a change of it. -/
theorem wjob_updWjob_self {id : Nat} {w : WJob} {d : Dev} {f : WJob → WJob} (hf : ∀ v, (f v).id = v.id) (h : wjob d id = some w) :
    wjob (updWjob id f d) id = some (f w) := by
  have hid : w.id = id := by simpa using List.find?_some h
  have hfind : wjob (updWjob id f d) id = (wjob d id).map (fun v => if v.id == id then f v else v) :=
    find?_updWhere (fun v => by rw [hf]) _
  rw [hfind, h]
  simp [hid]

/-- A job is found where it stood once space is reserved for it. -/
theorem wjob_reserveJob {seg id : Nat} {w : WJob} {d x : Dev} (hw : wjob d id = some w) (h : reserveJob seg w d = some x) :
    ∃ v, wjob x id = some v := by
  unfold reserveJob at h
  split at h
  · cases h
    exact ⟨w, hw⟩
  · dsimp only at h
    split at h
    · cases h
    · next l y hy =>
      have hid : w.id = id := by simpa using List.find?_some hw
      have hsame : wjob y id = some w := by
        unfold wjob
        rwa [wjobs_sbAllocs hy]
      cases h
      unfold wjob
      rw [foldl_keeps (·.lan.wjobs) (fun x p => wjobs_sbStore ..), hid]
      exact ⟨_, wjob_updWjob_self (f := fun v => { v with sb := _, hold := [] }) (fun _ => rfl) hsame⟩

/-! ### A merge begins (R222) -/

/-- The sectors that a job's command does not bring. -/
def otherSecs (w : WJob) (sb : List Nat) : List RSec :=
  ((List.range w.nsec).filter (fun i => !bit w.mask i)).map (fun i =>
    { lsec := w.first + i, slot := i, dst := sb.getD i 0, fin := false, bad := 0 })

/-- The space that a job holds. -/
def jobSpace (id : Nat) (d : Dev) : List Nat :=
  match wjob d id with
  | some x => x.sb
  | none => []

/-- The block with a job's merge under way: those sectors are read once, into the job's space. -/
def mergeRead (id : Nat) (w : WJob) (d : Dev) : Dev :=
  (addRead (.wjob id) w.no 0 w.gran 0 w.key.glog false (otherSecs w (jobSpace id d))
    (updWjob id (fun x => { x with merging := true, reads := 1 }) d)).2

theorem merge_of_absent {id : Nat} {d : Dev} (h : wjob d id = none) : merge id d = d := by
  unfold merge
  rw [h]

/-- The segment whose bank a merge's space is reserved near: where its old data lies (log 41). -/
def mergeSeg (w : WJob) (d : Dev) : Nat :=
  if eTrim (mapE d w.gran) then 0 else segCh d.cfg (dieCh (aDie (eAddr (mapE d w.gran))))

section
variable {id : Nat} {w : WJob} {d : Dev} (hw : wjob d id = some w)
include hw

theorem merge_of_unready (h : wholeGran w = true ∨ w.merging = true ∨ w.reloc.isSome ∨ w.dead = true ∨ d.clasp.flush.isSome) :
    merge id d = d := by
  unfold merge
  simp only [hw]
  exact if_pos h

variable (hpart : wholeGran w = false) (hm : w.merging = false) (hr : w.reloc = none) (hdead : w.dead = false)
  (hflush : d.clasp.flush = none)
include hpart hm hr hdead hflush

theorem merge_of_ready : merge id d = match reserveJob (mergeSeg w d) w d with
    | none => d
    | some x => cnt 0x2108 0x0A (mergeRead id w x) := by
  unfold merge
  simp only [hw]
  rw [if_neg (by simp [hpart, hm, hr, hdead, hflush])]
  rfl

end

theorem mergeRead_spec {id : Nat} {w v : WJob} {d : Dev} (hv : wjob d id = some v) :
    (wjob (mergeRead id w d) id).map (fun y => (y.merging, y.reads)) = some (true, 1) ∧
    ∃ r, (mergeRead id w d).lan.rjobs = d.lan.rjobs ++ [r] ∧ (r.own, r.no, r.gran) = (ROwn.wjob id, w.no, w.gran) ∧
      r.secs.map (·.slot) = (List.range w.nsec).filter (fun i => !bit w.mask i) := by
  refine ⟨?_, _, rfl, rfl, ?_⟩
  · have hjob := wjob_updWjob_self (f := fun x => { x with merging := true, reads := 1 }) (fun _ => rfl) hv
    have hsame : wjob (mergeRead id w d) id = wjob (updWjob id (fun x => { x with merging := true, reads := 1 }) d) id := by
      simp [wjob, mergeRead, addRead, freshId, updLan]
    rw [hsame, hjob]
    rfl
  · unfold otherSecs
    rw [List.map_map]
    exact List.map_id _

theorem counted_merge (id : Nat) (w : WJob) (d : Dev) : Counted d (cnt 0x2108 0x0A (mergeRead id w d)) 0x2108 0x0A 1 := by
  have hcfg : (mergeRead id w d).cfg = d.cfg := by simp [mergeRead, addRead, freshId, updWjob]
  have hod : (mergeRead id w d).od = d.od := by simp [mergeRead, addRead, freshId, updWjob]
  exact counted_of_od_eq hcfg (od_congr hcfg hod _ _) (cnt_spec _ _ _).1

end Sys2Proof.Machine
end

section
/-! SUPPORT. Rows and member slots that waited too long are padded (05_lantern_placement.md R205, R206), and the statement on placement. -/

namespace Sys2Proof.Machine

/-! ### Timeouts of rows and slots -/

/-- What the end of a row's wait does (R205). -/
def rowTimedOut (b r : Nat) (d : Dev) : Dev :=
  match band d b with
  | none => d
  | some bd => match bd.rows.find? (fun x => x.row == r) with
    | none => d
    | some rw => if rowUsed rw ∧ rw.par = .no then feedBands (padRow b r d) else d

/-- What the end of a member slot's wait does (R206). -/
def slotTimedOut (b r j : Nat) (d : Dev) : Dev :=
  match band d b with
  | none => d
  | some bd => match bd.rows.find? (fun x => x.row == r) with
    | none => d
    | some rw => match rw.slots[j]? with
      | none => d
      | some m => if m.st = .filling ∧ ¬ m.uses.isEmpty ∧ m.used ≠ fullMask d then cnt 0x2108 0x0D (padSlot b r j d) else d

theorem completes_rowTimeout {b r : Nat} {s : State} {P : Dev → Prop} : Completes (.rowTimeout b r) s P ↔ P (rowTimedOut b r s.dev) :=
  completes_run (f := rowTimedOut b r) rfl

theorem completes_memberSlotTimeout {b r j : Nat} {s : State} {P : Dev → Prop} :
    Completes (.memberSlotTimeout b r j) s P ↔ P (slotTimedOut b r j s.dev) := completes_run (f := slotTimedOut b r j) rfl

section
variable {b r : Nat} {bd : Band} {rw : Row} {d : Dev} (hb : band d b = some bd) (hr : bd.rows.find? (fun x => x.row == r) = some rw)
include hb hr

theorem rowTimedOut_of_row : rowTimedOut b r d = if rowUsed rw = true ∧ rw.par = .no then feedBands (padRow b r d) else d := by
  unfold rowTimedOut
  simp only [hb, hr]

theorem padRow_of_row : padRow b r d = if rw.slots.all (fun m => m.used == fullMask d) = true then d
    else cnt 0x2108 0x0D ((List.range rw.slots.length).foldl (fun y j => padSlot b r j y) d) := by
  unfold padRow
  simp only [hb, hr]

theorem slotTimedOut_of_slot {j : Nat} {k : MSlot} (hk : rw.slots[j]? = some k) : slotTimedOut b r j d =
    if k.st = .filling ∧ k.uses ≠ [] ∧ k.used ≠ fullMask d then cnt 0x2108 0x0D (padSlot b r j d) else d := by
  unfold slotTimedOut
  simp only [hb, hr, hk, List.isEmpty_iff, ne_eq]

end

/-! ### The statement -/

/-- R220, R221, R225, R227: a job whose turn it is, by the answer of the attempt to place it. -/
theorem placeAnswered_spec {id : Nat} {w y : WJob} {x : Dev} (hy : y = { w with key := y.key, life := y.life, temp := y.temp }) :
    match tryPlace y x with
    | .wait z => placeAnswered id y (tryPlace y x) = z
    | .noBand z =>
      (w.reloc.isSome → placeAnswered id y (tryPlace y x) = z) ∧
      (w.reloc = none → z.lan.bands.any (fun b => b.st == .closed && hasInvalid z b) = true →
        placeAnswered id y (tryPlace y x) = updWjob id (fun v => { v with spaceWait := true }) z) ∧
      (w.reloc = none → z.lan.bands.any (fun b => b.st == .closed && hasInvalid z b) = false →
        placeAnswered id y (tryPlace y x) = noSpace y z)
    | .done z => ∃ u, placeAnswered id y (tryPlace y x) = feedBands (padUrgent (countPlaced y u)) ∧
      (w.host ≠ 0 ∨ w.reloc.isSome ∨ w.given = true → u = z) ∧
      (w.host = 0 → w.reloc = none → w.given = false → u = copyReads id (updWjob id (fun v => { v with given := true }) z)) := by
  have hrel : y.reloc = w.reloc := by rw [hy]
  have hhost : y.host = w.host := by rw [hy]
  have hgiven : y.given = w.given := by rw [hy]
  rcases tryPlace y x with z | z | z
  · refine ⟨_, rfl, fun h => if_neg ?_, fun hh hr hg => if_pos ?_⟩
    · rw [hhost, hrel, hgiven]
      rintro ⟨h0, hnone, hnot⟩
      obtain h | h | h := h
      · exact h h0
      · simp only [Option.isNone_iff_eq_none] at hnone
        simp [hnone] at h
      · exact hnot h
    · rw [hhost, hrel, hgiven, hh, hr, hg]
      decide
  · rfl
  · unfold placeAnswered
    simp only [hrel]
    refine ⟨fun hr => if_pos hr, fun hr hinv => ?_, fun hr hinv => ?_⟩
    · rw [if_neg (by simp [hr]), if_pos hinv]
    · rw [if_neg (by simp [hr]), if_neg (by simp [hinv])]

/-- Settles O44: a granule by its readiness and by the attempt's answer, a merge by its space, a wait by its end, a row and a slot by what
they hold. -/
theorem placement : Obligations.Placement := by
  intro s id
  refine ⟨fun hnone => ⟨?noPlace, ?noMergeJob, ?noWaitJob⟩, fun w hw => ⟨fun h => ?unready, fun hwant hflush hst => ⟨fun hab => ?aborted,
    fun hab hrel hmay => ?share, fun hab hmay => ?turn⟩, fun h => ?noMerge, fun hpart hm hr hdead hflush => ⟨fun hres => ?noRoom,
    fun x hres => ?merge⟩, fun hwait t ht => ?expired, fun hwait => ?noWait⟩, fun b bd r rw hb hr => ⟨fun h => ?row, fun h => ?idleRow,
    fun j k hk => ⟨fun h => ?slot, fun h => ?idleSlot⟩⟩⟩
  case noPlace => exact completes_placeWrite.mpr (placeWrite_of_absent hnone)
  case noMergeJob => exact completes_merge.mpr (merge_of_absent hnone)
  case noWaitJob => exact completes_spaceWaitTimeout.mpr (spaceWaitEnded_of_absent hnone)
  case unready => exact completes_placeWrite.mpr (placeWrite_of_unready hw h)
  case aborted =>
    rw [completes_placeWrite, placeWrite_of_ready hw hwant hflush hst]
    exact if_pos hab
  case share =>
    rw [completes_placeWrite, placeWrite_of_ready hw hwant hflush hst, if_neg (by simp [hab])]
    exact if_pos ⟨hrel, by simp [hmay]⟩
  case turn =>
    have hturn : ¬ (w.reloc.isSome ∧ ¬ relMay s.dev w) := by
      rintro ⟨hrel, hnot⟩
      exact hmay.elim (fun h => by simp [h] at hrel) hnot
    rw [completes_placeWrite, placeWrite_of_ready hw hwant hflush hst, if_neg (by simp [hab]), if_neg hturn]
    exact ⟨hinted s.dev w, _, rfl, hinted_eq s.dev w, fun t c ht hc => key_hinted ht hc, placeAnswered_spec (hinted_eq s.dev w)⟩
  case noMerge => exact completes_merge.mpr (merge_of_unready hw h)
  case noRoom =>
    have hnone : reserveJob (mergeSeg w s.dev) w s.dev = none := hres
    rw [completes_merge, merge_of_ready hw hpart hm hr hdead hflush, hnone]
  case merge =>
    have hsome : reserveJob (mergeSeg w s.dev) w s.dev = some x := hres
    obtain ⟨v, hv⟩ := wjob_reserveJob hw hsome
    obtain ⟨hjob, q, hreads, hown, hsecs⟩ := mergeRead_spec (w := w) hv
    rw [completes_merge, merge_of_ready hw hpart hm hr hdead hflush, hsome]
    rw [cnt_lan, hreads, List.drop_left]
    refine ⟨counted_merge id w x, ?_, congrArg (fun a => [a]) hown, (List.flatMap_singleton ..).trans hsecs⟩
    unfold wjob
    rw [cnt_lan]
    exact hjob
  case expired =>
    obtain ⟨hcount, hlan, hfails⟩ := spaceFailed_spec t s.dev
    rw [completes_spaceWaitTimeout, spaceWaitEnded_of_job hw, if_pos hwait, noSpace_of_tag ht]
    exact ⟨spaceFailed t s.dev, rfl, hcount, hlan, hfails⟩
  case noWait =>
    rw [completes_spaceWaitTimeout, spaceWaitEnded_of_job hw]
    exact if_neg (by simp [hwait])
  case row =>
    rw [completes_rowTimeout, rowTimedOut_of_row hb hr, if_pos h, padRow_of_row hb hr]
    split
    · rfl
    · exact ⟨_, rfl, (cnt_spec _ _ _).1⟩
  case idleRow =>
    rw [completes_rowTimeout, rowTimedOut_of_row hb hr]
    exact if_neg h
  case slot =>
    rw [completes_memberSlotTimeout, slotTimedOut_of_slot hb hr hk, if_pos h]
    exact cnt_spec _ _ _
  case idleSlot =>
    rw [completes_memberSlotTimeout, slotTimedOut_of_slot hb hr hk]
    exact if_neg h

end Sys2Proof.Machine
end

section
/-! SUPPORT. Codewords go to decoders, and the decoders take their jobs (05_lantern_placement.md R233; 09_codes_and_randomizer.md R358,
R368). -/

namespace Sys2Proof.Machine

/-! ### Records of channels and decoders -/

theorem chan_updChan_ne {ch i : Nat} (f : Chan → Chan) (d : Dev) (h : i ≠ ch) : chan (updChan ch f d) i = chan d i :=
  tabGet_tabSet_ne _ _ _ _ h

theorem onlyChan_refl (ch : Nat) (d : Dev) : OnlyChan d d ch := ⟨fun _ _ => rfl, rfl⟩

theorem onlyChan_updChan (ch : Nat) (f : Chan → Chan) (d : Dev) : OnlyChan d (updChan ch f d) ch :=
  ⟨fun _ h => chan_updChan_ne f d h, rfl⟩

theorem dec_updDec_self (k : Nat) (f : Dec → Dec) (d : Dev) : dec (updDec k f d) k = f (dec d k) := by simp [dec, updDec]

theorem dec_updDec_ne {k i : Nat} (f : Dec → Dec) (d : Dev) (h : i ≠ k) : dec (updDec k f d) i = dec d i :=
  tabGet_tabSet_ne _ _ _ _ h

/-! ### A codeword goes to a decoder (R233, R358) -/

theorem completes_decoderDispatch {ch cw : Nat} {s : State} {P : Dev → Prop} :
    Completes (.decoderDispatch ch cw) s P ↔ P (decoderDispatch ch cw s.dev) := completes_run rfl

theorem decoderDispatch_of_absent {ch cw : Nat} {d : Dev}
    (h : (chan d ch).raw.find? (fun c => c.id == cw && c.st == .wait) = none) : decoderDispatch ch cw d = d := by
  unfold decoderDispatch
  rw [h]

/-- Where the sector of a codeword goes in the Staging Buffer. -/
def cwDst (r : RJob) (c : RawCw) : Nat := ((r.secs.find? (fun x => x.slot == c.slot)).map (·.dst)).getD 0

/-- The code of a read's codewords. -/
def cwCode (d : Dev) (ch : Nat) (r : RJob) : Nat := codeOf d ch r.slc (inSystem d (aDie r.addr) (aBlock r.addr))

/-- The seed of a codeword's keystream; 0 leaves the bits of a raw read as they are (R272). -/
def cwSeed (d : Dev) (r : RJob) (c : RawCw) :=
  if r.own = .raw ∧ (d.rawp.req.map (·.norand)).getD false then 0
  else codeSeed (cwAddr r c.slot) (rndKey d (aDie r.addr) (aBlock r.addr))

/-- The job that a codeword makes. -/
def cwJob (ch cw : Nat) (r : RJob) (c : RawCw) (d : Dev) : DecJob :=
  let eng := pickEngine d (homeCh d r) (cwDst r c / 524288)
  { hdr := jobHdr (cwSeed d r c).toNat (cwDst r c / 64) eng ((ownTag d r).getD (r.id % 8192)) (aPlane r.addr) c.slot (cwCode d ch r)
      (cwMode c).1 (cwMode c).2 ch c.step (ownTag d r).isNone r.parity,
    ch := ch, cw := cw, eng := eng, mode := (cwMode c).1,
    data := if 3 ≤ c.step then [] else randomise (cwSeed d r c) (c.data.take (codeLen (cwCode d ch r))),
    soft := if 3 ≤ c.step then softVals c (cwSeed d r c) else [], started := false, t0 := 0 }

/-- The block with a codeword at a decoder. -/
def dispatched (ch cw k n : Nat) (j : DecJob) (d : Dev) : Dev :=
  updLan (fun l => { l with decLast := tabSet 0 l.decLast ch (k + 1) })
    (updChan ch (fun x => { x with raw := updWhere (fun y => y.id == cw) (fun y => { y with st := .sent }) x.raw })
      (updDec k (fun x => { x with jobs := x.jobs ++ [j] }) (send (.cu ch) (.dec k) .data n (send (.cu ch) (.dec k) .req 1 d))))

theorem decoderDispatch_of_waiting {ch cw : Nat} {c : RawCw} {r : RJob} {d : Dev}
    (hc : (chan d ch).raw.find? (fun x => x.id == cw && x.st == .wait) = some c) (hr : rjob d c.rid = some r) :
    decoderDispatch ch cw d = match pickDecoder d ch (cwDst r c / 524288) (decide (3 ≤ c.step)) with
      | none => d
      | some k => dispatched ch cw k (flits (codeLen (cwCode d ch r))) (cwJob ch cw r c d) d := by
  unfold decoderDispatch dispatched cwJob cwSeed cwCode cwDst
  cases hs : r.secs.find? (fun x => x.slot == c.slot) <;>
    simp only [hc, hr, hs, Option.map_none, Option.map_some, Option.getD_none, Option.getD_some] <;> rfl

theorem dispatched_spec (ch cw k n : Nat) (j : DecJob) (d : Dev) :
    (dec (dispatched ch cw k n j d) k).jobs = (dec d k).jobs ++ [j] ∧
    (chan (dispatched ch cw k n j d) ch).raw = updWhere (fun y => y.id == cw) (fun y => { y with st := .sent }) (chan d ch).raw ∧
    (∀ i, i ≠ k → dec (dispatched ch cw k n j d) i = dec d i) ∧ (∀ i, i ≠ ch → chan (dispatched ch cw k n j d) i = chan d i) := by
  have hdec : ∀ i, dec (dispatched ch cw k n j d) i = dec (updDec k (fun x => { x with jobs := x.jobs ++ [j] }) d) i :=
    fun i => by simp [dispatched, dec, updDec, updChan]
  have hchan : ∀ i, chan (dispatched ch cw k n j d) i =
      chan (updChan ch (fun x => { x with raw := updWhere (fun y => y.id == cw) (fun y => { y with st := .sent }) x.raw }) d) i :=
    fun i => by simp [dispatched, chan, updChan, updDec]
  refine ⟨?_, ?_, fun i hi => ?_, fun i hi => ?_⟩
  · rw [hdec, dec_updDec_self]
  · rw [hchan, chan_updChan_self]
  · rw [hdec, dec_updDec_ne _ _ hi]
  · rw [hchan, chan_updChan_ne _ _ hi]

/-! ### A decoder takes a job (R368) -/

theorem completes_decodeJob {k : Nat} {s : State} {P : Dev → Prop} : Completes (.decodeJob k) s P ↔ P (decodeJob k s.dev) :=
  completes_run rfl

theorem decodeJob_of_busy {k : Nat} {d : Dev} (h : (dec d k).jobs.any (·.started) = true) : decodeJob k d = d := if_pos h

theorem decodeJob_of_idle {k : Nat} {j : DecJob} {t : List DecJob} {d : Dev} (hj : (dec d k).jobs = j :: t)
    (h : (dec d k).jobs.any (·.started) = false) :
    (dec (decodeJob k d) k).jobs = { j with started := true, t0 := d.up } :: t ∧ decodeJob k d = { d with decs := (decodeJob k d).decs } := by
  unfold decodeJob
  rw [if_neg (by simp [h])]
  refine ⟨?_, rfl⟩
  rw [dec_updDec_self]
  simp only [hj]

end Sys2Proof.Machine
end

section
/-! SUPPORT. What a decoder arrived at (09_codes_and_randomizer.md R369, R371): its counters, and the way of its result. -/

namespace Sys2Proof.Machine

theorem completes_decodeResult {k : Nat} {r : DecRes} {s : State} {P : Dev → Prop} :
    Completes (.decodeResult k r) s P ↔ P (kickAll (decodeResult k r s.dev)) := completes_run (f := fun d => kickAll (decodeResult k r d)) rfl

theorem decodeResult_of_idle {k : Nat} {r : DecRes} {d : Dev} (h : ((dec d k).jobs.head?.map (·.started)).getD false = false) :
    decodeResult k r d = d := by
  unfold decodeResult
  split
  · rfl
  · next j t hj =>
    rw [hj] at h
    exact if_pos (by simpa using h)

/-! ### Counters of a decoder (R369) -/

/-- The block with a decoder's counters moved by a result. -/
def resultCounted (k : Nat) (j : DecJob) (r : DecRes) (d : Dev) : Dev :=
  let b := 0x7001 + 8 * k
  let d2 := cnt b (j.mode + 1) d
  let d3 := cntN b 6 (d.up - j.t0) (cntN b 5 r.iters (if r.converged then d2 else cnt b 4 d2))
  if r.converged then cntN b 8 (satTo r.n10 4095) (cntN b 7 (satTo r.n01 4095) d3) else d3

theorem od_cntN_sub_ne {i a j n : Nat} {d : Dev} (h : a ≠ j) : od (cntN i j n d) i a = od d i a :=
  od_cntN_ne n d (by unfold ek; omega)

/-- A counter counts what it held before others were moved, and holds it after others are. -/
theorem counted_among {d a x : Dev} {i j n : Nat} (hc : a.cfg = d.cfg) (hbefore : od a i j = od d i j)
    (hafter : od x i j = od (cntN i j n a) i j) : Counted d x i j n := by
  have hcnt := counted_of_od_eq hc hbefore (cntN_spec i j n a).1
  unfold Counted at *
  rw [hafter, hcnt]

/-- Moving one counter more of those listed leaves the rest as it was. -/
theorem onlyEntries_cntN {d a : Dev} {keys : List Nat} {i j n : Nat} (h : OnlyEntries d a keys) (hk : ek i j ∈ keys) :
    OnlyEntries d (cntN i j n a) keys :=
  h.trans ((cntN_spec i j n a).2.mono (by simpa using hk))

/-- The counters of a decoder (R369). -/
def decoderKeys (k : Nat) : List Nat := [1, 2, 3, 4, 5, 6, 7, 8].map (ek (0x7001 + 8 * k))

theorem onlyEntries_resultCounted {k : Nat} {j : DecJob} {r : DecRes} {d : Dev} (hm : j.mode ≤ 2) :
    OnlyEntries d (resultCounted k j r d) (decoderKeys k) := by
  have hstart : OnlyEntries d d (decoderKeys k) := ⟨keeps_refl _ _, rfl⟩
  have hmode : ek (0x7001 + 8 * k) (j.mode + 1) ∈ decoderKeys k := List.mem_map_of_mem (by simp; omega)
  have hkey : ∀ i ∈ [4, 5, 6, 7, 8], ek (0x7001 + 8 * k) i ∈ decoderKeys k := fun i hi => List.mem_map_of_mem (by simp at hi ⊢; omega)
  unfold resultCounted
  dsimp only [cnt]
  cases r.converged with
  | false =>
    exact onlyEntries_cntN (onlyEntries_cntN (onlyEntries_cntN (onlyEntries_cntN hstart hmode) (hkey 4 (by decide)))
      (hkey 5 (by decide))) (hkey 6 (by decide))
  | true =>
    exact onlyEntries_cntN (onlyEntries_cntN (onlyEntries_cntN (onlyEntries_cntN (onlyEntries_cntN hstart hmode)
      (hkey 5 (by decide))) (hkey 6 (by decide))) (hkey 7 (by decide))) (hkey 8 (by decide))

theorem resultCounted_spec {k : Nat} {j : DecJob} {r : DecRes} {d : Dev} (hm : j.mode ≤ 2) :
    Counted d (resultCounted k j r d) (0x7001 + 8 * k) (j.mode + 1) 1 ∧
    (r.converged = false → Counted d (resultCounted k j r d) (0x7001 + 8 * k) 4 1) ∧
    Counted d (resultCounted k j r d) (0x7001 + 8 * k) 5 r.iters ∧
    (r.converged = true → Counted d (resultCounted k j r d) (0x7001 + 8 * k) 7 (satTo r.n01 4095)) := by
  unfold resultCounted
  dsimp only [cnt]
  generalize 0x7001 + 8 * k = b
  cases r.converged with
  | false =>
    refine ⟨counted_among (a := d) rfl rfl ?_, fun _ => counted_among (a := cntN b (j.mode + 1) 1 d) (cntN_cfg ..) ?_ ?_,
      counted_among (a := cntN b 4 1 (cntN b (j.mode + 1) 1 d)) ?_ ?_ ?_, fun h => absurd h (by decide)⟩
    all_goals simp (disch := omega) [od_cntN_sub_ne]
  | true =>
    refine ⟨counted_among (a := d) rfl rfl ?_, fun h => absurd h (by decide),
      counted_among (a := cntN b (j.mode + 1) 1 d) ?_ ?_ ?_,
      fun _ => counted_among (a := cntN b 6 (d.up - j.t0) (cntN b 5 r.iters (cntN b (j.mode + 1) 1 d))) ?_ ?_ ?_⟩
    all_goals simp (disch := omega) [od_cntN_sub_ne]

/-! ### The way of a result (R369, R371) -/

/-- The block with a decoder's job done: the result goes to the codeword's channel, and a payload to the engine that checks it. -/
def jobDone (k : Nat) (j : DecJob) (t : List DecJob) (r : DecRes) (d : Dev) : Dev :=
  let n := send (.dec k) (.cu j.ch) .rsp 1 d
  updDec k (fun x => { x with jobs := t }) (if r.converged then send (.dec k) (.cu j.eng) .data 129 n else n)

theorem jobDone_spec (k : Nat) (j : DecJob) (t : List DecJob) (r : DecRes) (d : Dev) :
    (dec (jobDone k j t r d) k).jobs = t ∧
    (let n := send (.dec k) (.cu j.ch) .rsp 1 d
     (jobDone k j t r d).net = if r.converged = true then (send (.dec k) (.cu j.eng) .data 129 n).net else n.net) ∧
    jobDone k j t r d = { d with decs := (jobDone k j t r d).decs, net := (jobDone k j t r d).net } := by
  obtain ⟨n, hn⟩ := send_spec (.dec k) (.cu j.ch) .rsp 1 d
  obtain ⟨m, hm⟩ := send_spec (.dec k) (.cu j.eng) .data 129 { d with net := n }
  unfold jobDone
  simp only [dec_updDec_self, hn, true_and]
  cases r.converged with
  | false => exact ⟨rfl, rfl⟩
  | true =>
    simp only [if_true, hm]
    exact ⟨rfl, rfl⟩

/-- The block with an attempt of a hard step noted at its codeword (R376). -/
def attemptNoted (j : DecJob) (r : DecRes) (c : RawCw) (d : Dev) : Dev :=
  let lv := match rjob d c.rid with
    | some q => cwLevels d q c
    | none => zeroLevels
  if c.step ≤ 2 then updChan j.ch (fun x => { x with
      raw := updWhere (fun y => y.id == j.cw) (fun y => { y with tries := y.tries ++ [(lv, satTo r.synd 511)] }) x.raw }) d
  else d

theorem attemptNoted_spec (j : DecJob) (r : DecRes) (c : RawCw) (d : Dev) : (2 < c.step → attemptNoted j r c d = d) ∧
    OnlyChan d (attemptNoted j r c d) j.ch ∧ (chan (attemptNoted j r c d) j.ch).inl = (chan d j.ch).inl := by
  unfold attemptNoted
  dsimp only
  split
  · exact ⟨fun h => by omega, onlyChan_updChan .., by rw [chan_updChan_self]⟩
  · exact ⟨fun _ => rfl, onlyChan_refl .., rfl⟩

/-- A converged codeword as it waits for its inline check. -/
def inlineOf (j : DecJob) (r : DecRes) : InlRes :=
  { cw := j.cw, src := j.ch, payload := fit 4128 r.payload, n01 := satTo r.n01 4095, n10 := satTo r.n10 4095, synd := satTo r.synd 511 }

def inlined (j : DecJob) (r : DecRes) (d : Dev) : Dev := updChan j.eng (fun x => { x with inl := x.inl ++ [inlineOf j r] }) d

theorem inlined_spec (j : DecJob) (r : DecRes) (d : Dev) : OnlyChan d (inlined j r d) j.eng ∧
    (chan (inlined j r d) j.eng).inl.drop (chan d j.eng).inl.length = [inlineOf j r] := by
  refine ⟨onlyChan_updChan .., ?_⟩
  rw [inlined, chan_updChan_self]
  exact List.drop_left

/-- Where a result goes: nowhere when its codeword has left the raw buffer (R371). -/
def resultWay (j : DecJob) (r : DecRes) (d : Dev) : Dev :=
  match (chan d j.ch).raw.find? (fun c => c.id == j.cw) with
  | none => d
  | some c => if r.converged then inlined j r (attemptNoted j r c d) else ladderFail j.ch j.cw (attemptNoted j r c d)

theorem decodeResult_of_started {k : Nat} {j : DecJob} {t : List DecJob} {r : DecRes} {d : Dev} (hj : (dec d k).jobs = j :: t)
    (hs : j.started = true) : decodeResult k r d = resultWay j r (resultCounted k j r (jobDone k j t r d)) := by
  have hup : (jobDone k j t r d).up = d.up := by rw [(jobDone_spec k j t r d).2.2]
  unfold resultCounted
  rw [hup]
  unfold decodeResult
  simp only [hj, hs, not_true_eq_false, if_false]
  rfl

/-- R369, R371: a result whose codeword has left the raw buffer is dropped; any other is noted there, and goes inline when it has
converged or on up the ladder. -/
theorem resultWay_spec (j : DecJob) (r : DecRes) (x : Dev) :
    match (chan x j.ch).raw.find? (fun c => c.id == j.cw) with
    | none => resultWay j r x = x
    | some c => ∃ y, (2 < c.step → y = x) ∧ OnlyChan x y j.ch ∧ (chan y j.ch).inl = (chan x j.ch).inl ∧
      (r.converged = false → resultWay j r x = ladderFail j.ch j.cw y) ∧
      (r.converged = true → OnlyChan y (resultWay j r x) j.eng ∧
        (chan (resultWay j r x) j.eng).inl.drop (chan y j.eng).inl.length = [inlineOf j r]) := by
  unfold resultWay
  cases (chan x j.ch).raw.find? (fun c => c.id == j.cw) with
  | none => rfl
  | some c =>
    obtain ⟨hsoft, honly, hinl⟩ := attemptNoted_spec j r c x
    refine ⟨attemptNoted j r c x, hsoft, honly, hinl, fun h => ?_, fun h => ?_⟩
    · exact if_neg (by simp [h])
    · simp only [h, if_true]
      exact inlined_spec ..

end Sys2Proof.Machine
end

section
/-! SUPPORT. Inline checks of converged codewords (09_codes_and_randomizer.md R352). -/

namespace Sys2Proof.Machine

theorem completes_inlineCheck {ch cw : Nat} {s : State} {P : Dev → Prop} :
    Completes (.inlineCheck ch cw) s P ↔ P (kickAll (inlineCheck ch cw s.dev)) := completes_run (f := fun d => kickAll (inlineCheck ch cw d)) rfl

theorem inlineCheck_of_absent {ch cw : Nat} {d : Dev} (h : (chan d ch).inl.find? (fun x => x.cw == cw) = none) :
    inlineCheck ch cw d = d := by
  unfold inlineCheck
  rw [h]

/-- The block with a codeword's result taken from those that wait for their inline check. -/
def inlineTaken (ch cw : Nat) (q : InlRes) (d : Dev) : Dev :=
  updChan ch (fun x => { x with inl := x.inl.filter (fun y => y.cw ≠ cw || y.src ≠ q.src) }) d

/-- The sector that a codeword's payload should name. -/
def cwSector (r : RJob) (c : RawCw) : Nat := ((r.secs.find? (fun x => x.slot == c.slot)).map (·.lsec)).getD noSec

/-- The read names the sector that it wants, and the payload's is compared with it (log 37). -/
def namesSector (r : RJob) : Bool :=
  match r.own with
  | .part _ => true
  | _ => false

/-- What is done for a page unit of a read once one of its codewords is settled. -/
def readGoesOn (src rid : Nat) (x : Dev) : Dev := kick src (feedBands (ladder5 rid (reread rid x)))

section
variable {ch cw : Nat} {q : InlRes} {c : RawCw} {r : RJob} {d : Dev} (hq : (chan d ch).inl.find? (fun x => x.cw == cw) = some q)
  (hc : (chan d q.src).raw.find? (fun x => x.id == cw) = some c) (hr : rjob d c.rid = some r)
include hq hc hr

theorem inlineCheck_of_read : inlineCheck ch cw d =
    let x := inlineTaken ch cw q d
    if ¬ r.parity ∧ ¬ payCrcOk q.payload then ladderFail q.src cw (cnt 0x2200 2 x)
    else if namesSector r = true ∧ payLsec q.payload ≠ cwSector r c then
      readGoesOn q.src c.rid (leafBad c.rid c.slot 1 0x0301 (dropCw q.src cw (cnt 0x2200 3 x)))
    else readGoesOn q.src c.rid (leafOk c.rid c.slot q.payload (endStep r c.step (teachFrom r c q.n01 q.n10 (dropCw q.src cw x)))) := by
  have hraw : (chan (inlineTaken ch cw q d) q.src).raw = (chan d q.src).raw := by
    by_cases h : q.src = ch
    · rw [h, inlineTaken, chan_updChan_self]
    · rw [inlineTaken, chan_updChan_ne _ _ h]
  have hfind : (chan (inlineTaken ch cw q d) q.src).raw.find? (fun x => x.id == cw) = some c := by rw [hraw, hc]
  have hread : rjob (inlineTaken ch cw q d) c.rid = some r := hr
  unfold inlineTaken at hfind hread ⊢
  unfold inlineCheck cwSector namesSector
  cases hs : r.secs.find? (fun x => x.slot == c.slot) <;> simp only [hq, hfind, hread, hs] <;> rfl

end

theorem counted_inline (ch cw i j : Nat) (q : InlRes) (d : Dev) : Counted d (cnt i j (inlineTaken ch cw q d)) i j 1 :=
  counted_of_od_eq rfl rfl (cnt_spec _ _ _).1

theorem sameBut_inline (ch cw i j : Nat) (q : InlRes) (d : Dev) :
    SameBut d (cnt i j (inlineTaken ch cw q d)) (fun y => { y with chans := (cnt i j (inlineTaken ch cw q d)).chans }) [ek i j] := by
  obtain ⟨-, hkeep, heq⟩ := cnt_spec i j (inlineTaken ch cw q d)
  refine ⟨hkeep, ?_⟩
  have hchans : (cnt i j (inlineTaken ch cw q d)).chans = (inlineTaken ch cw q d).chans := by rw [heq]
  rw [hchans]
  exact heq

end Sys2Proof.Machine
end

section
/-! SUPPORT. Updates of the level model (10_read_recovery.md R394), and the statement on decoding. -/

namespace Sys2Proof.Machine

/-! ### What decodes teach (R394) -/

theorem completes_lmUpdate {s : State} {P : Dev → Prop} : Completes .lmUpdate s P ↔ P (lmUpdate s.dev) := completes_run rfl

theorem lmUpdate_of_empty {d : Dev} (h : d.lan.lmq = []) : lmUpdate d = d := by
  unfold lmUpdate
  rw [h]

section
variable {u : LmUpd} {t : List LmUpd} {d : Dev} (h : d.lan.lmq = u :: t)
include h

/-- While a block read of the cells is open an update is dropped. -/
theorem lmUpdate_of_read (hr : cellsRead d = true) : lmUpdate d = cnt 0x2303 9 (updLan (fun l => { l with lmq := t }) d) := by
  unfold lmUpdate
  simp only [h, hr, if_true]

theorem lmUpdate_of_free (hr : cellsRead d = false) : lmUpdate d = cnt 0x2303 8 (putB 0x2304 (u.grp + 1)
    (patchBytes (getB d 0x2304 (u.grp + 1)) (16 * u.cell) (leBytes 16 (learnCell d u (cellWord d u.grp u.cell))))
    (updLan (fun l => { l with lmq := t }) d)) := by
  unfold lmUpdate
  simp only [h, hr, Bool.false_eq_true, if_false]

end

theorem getB_cnt (i j idx sub : Nat) (d : Dev) : getB (cnt i j d) idx sub = getB d idx sub :=
  getB_of_ods (cnt_cfg ..) (by rw [cnt_eq]) idx sub

/-! ### The statement -/

/-- Settles O46: a codeword by the decoder that is picked, a result by what became of its codeword, an inline check by its checksum and its
sector, an update of the level model by whether the cells are being read. -/
theorem decoding : Obligations.Decoding := by
  intro s
  refine ⟨fun ch cw h => ?absent, fun ch cw c r hc hr => ⟨fun hp => ?noDecoder, fun k hp => ?dispatch⟩, fun k j t hj hidle => ?job,
    fun k hbusy => ?busy, fun k res h => ?noResult, fun k res j t _ hj hs hm => ?result, fun ch cw h => ?noInline,
    fun ch cw q c r hq hc hr => ⟨fun hbad => ?badSum, fun hok hn hne => ?badSector, fun hok hsec => ?good⟩, fun h => ?noUpdate,
    fun u t h hr => ?dropped, fun u t h hr => ?taught⟩
  case absent => exact completes_decoderDispatch.mpr (decoderDispatch_of_absent h)
  case noDecoder =>
    have hnone : pickDecoder s.dev ch (cwDst r c / 524288) (decide (3 ≤ c.step)) = none := hp
    rw [completes_decoderDispatch, decoderDispatch_of_waiting hc hr, hnone]
  case dispatch =>
    have hsome : pickDecoder s.dev ch (cwDst r c / 524288) (decide (3 ≤ c.step)) = some k := hp
    rw [completes_decoderDispatch, decoderDispatch_of_waiting hc hr, hsome]
    obtain ⟨hjobs, hraw, hdecs, hchans⟩ :=
      dispatched_spec ch cw k (flits (codeLen (cwCode s.dev ch r))) (cwJob ch cw r c s.dev) s.dev
    exact ⟨cwJob ch cw r c s.dev, hjobs, rfl, rfl, rfl, rfl, fun h => ⟨if_neg (by omega), if_neg (by omega)⟩,
      fun h => ⟨if_pos h, if_pos h⟩, hraw, hdecs, hchans⟩
  case job => exact completes_decodeJob.mpr (decodeJob_of_idle hj hidle)
  case busy => exact completes_decodeJob.mpr (decodeJob_of_busy hbusy)
  case noResult => rw [completes_decodeResult, decodeResult_of_idle h]
  case result =>
    rw [completes_decodeResult, decodeResult_of_started hj hs]
    obtain ⟨hdec, hnet, hdone⟩ := jobDone_spec k j t res s.dev
    obtain ⟨-, hrest⟩ := onlyEntries_resultCounted (k := k) (r := res) (d := jobDone k j t res s.dev) hm
    obtain ⟨hmode, hfail, hiters, hbits⟩ := resultCounted_spec (k := k) (r := res) (d := jobDone k j t res s.dev) hm
    have hcounted : ∀ {i n : Nat}, Counted (jobDone k j t res s.dev) (resultCounted k j res (jobDone k j t res s.dev)) (0x7001 + 8 * k) i n →
        Counted s.dev (resultCounted k j res (jobDone k j t res s.dev)) (0x7001 + 8 * k) i n := by
      intro i n h
      refine counted_of_od_eq ?_ (od_congr ?_ ?_ _ _) h <;> rw [hdone]
    have hway := resultWay_spec j res (resultCounted k j res (jobDone k j t res s.dev))
    generalize resultCounted k j res (jobDone k j t res s.dev) = x at *
    have hchan : ∀ i, chan x i = chan s.dev i := fun i => by
      unfold chan
      rw [hrest, hdone]
    refine ⟨x, ?_, hcounted hmode, fun h => hcounted (hfail h), fun _ => hcounted hiters, fun h _ => hcounted (hbits h), ?_, ?_, ?_⟩
    · unfold dec at hdec ⊢
      rw [hrest]
      exact hdec
    · exact (congrArg Dev.net hrest).trans hnet
    · rw [hrest, hdone]
    · have hfind : (chan x j.ch).raw.find? (fun c => c.id == j.cw) = (chan s.dev j.ch).raw.find? (fun c => c.id == j.cw) := by
        rw [hchan]
      rw [hfind] at hway
      revert hway
      cases (chan s.dev j.ch).raw.find? (fun c => c.id == j.cw) with
      | none => exact fun hway => congrArg kickAll hway
      | some c =>
        rintro ⟨y, hsoft, honly, hinl, hup, hinline⟩
        exact ⟨y, hsoft, honly, hinl, fun h => congrArg kickAll (hup h), fun h => ⟨_, rfl, hinline h⟩⟩
  case noInline => rw [completes_inlineCheck, inlineCheck_of_absent h]
  case badSum =>
    rw [completes_inlineCheck, inlineCheck_of_read hq hc hr]
    dsimp only
    rw [if_pos (by simpa using hbad)]
    exact ⟨_, rfl, counted_inline .., sameBut_inline ..⟩
  case badSector =>
    have hnamed : namesSector r = true := hn
    have hdiffers : payLsec q.payload ≠ cwSector r c := hne
    rw [completes_inlineCheck, inlineCheck_of_read hq hc hr]
    dsimp only
    rw [if_neg (by simpa using hok), if_pos ⟨hnamed, hdiffers⟩]
    exact ⟨_, rfl, counted_inline ch cw 0x2200 3 q s.dev⟩
  case good =>
    have hsector : namesSector r = false ∨ payLsec q.payload = cwSector r c := hsec
    rw [completes_inlineCheck, inlineCheck_of_read hq hc hr]
    dsimp only
    rw [if_neg (by simpa using hok), if_neg (by
      rintro ⟨hnamed, hdiffers⟩
      exact hsector.elim (fun h => absurd (hnamed.symm.trans h) (by decide)) hdiffers)]
    exact ⟨_, rfl⟩
  case noUpdate => exact completes_lmUpdate.mpr (lmUpdate_of_empty h)
  case dropped =>
    have hcontrol := (keep_lmUpdate (Keep.refl s.dev)).control
    rw [lmUpdate_of_read h hr] at hcontrol
    rw [completes_lmUpdate, lmUpdate_of_read h hr]
    exact ⟨by rw [cnt_lan]; rfl, counted_of_od_eq rfl rfl (cnt_spec _ _ _).1, fun g => getB_cnt .., hcontrol⟩
  case taught =>
    have hcontrol := (keep_lmUpdate (Keep.refl s.dev)).control
    rw [lmUpdate_of_free h hr] at hcontrol
    rw [completes_lmUpdate, lmUpdate_of_free h hr]
    exact ⟨by rw [cnt_lan]; rfl, counted_of_od_eq rfl rfl (cnt_spec _ _ _).1, by rw [getB_cnt, getB_putB_self], hcontrol⟩

end Sys2Proof.Machine
end

section
/-! SUPPORT. What writing the map cache back leaves of Clasp (05_lantern_placement.md R216; 13_queues_and_buffers.md R488 to R493). -/

namespace Sys2Proof.Machine

/-- What the lines of the map cache leave alone: the reset that runs, the clock, Clasp where no checkpoint runs, its state, and the level
model's cells. -/
structure BesideLines (d x : Dev) : Prop where
  rst : x.rst = d.rst
  up : x.up = d.up
  clasp : d.clasp.ckpt = none → x.clasp = d.clasp
  state : od x 0x2400 1 = od d 0x2400 1
  cells : getB x 0x2304 1 = getB d 0x2304 1

section
variable {a b c : Dev}

theorem BesideLines.refl (d : Dev) : BesideLines d d := ⟨rfl, rfl, fun _ => rfl, rfl, rfl⟩

theorem BesideLines.trans (h1 : BesideLines a b) (h2 : BesideLines b c) : BesideLines a c := by
  refine ⟨h2.rst.trans h1.rst, h2.up.trans h1.up, fun hn => ?_, h2.state.trans h1.state, h2.cells.trans h1.cells⟩
  have hclasp := h1.clasp hn
  exact (h2.clasp (by rw [hclasp, hn])).trans hclasp

/-- A change of no field that is beside the lines. -/
theorem besideLines_of_same (hr : b.rst = a.rst) (hu : b.up = a.up) (hc : b.clasp = a.clasp) (hcfg : b.cfg = a.cfg) (ho : b.od = a.od)
    (hos : b.ods = a.ods) : BesideLines a b :=
  ⟨hr, hu, fun _ => hc, od_congr hcfg ho .., getB_of_ods hcfg hos ..⟩

end

section
variable (d : Dev)

theorem besideLines_foldl {α : Type} {f : Dev → α → Dev} (hf : ∀ x a, BesideLines x (f x a)) (l : List α) :
    BesideLines d (l.foldl f d) := by
  induction l generalizing d with
  | nil => exact .refl d
  | cons a l ih => exact (hf d a).trans (ih (f d a))

theorem besideLines_updLan (f : Lan → Lan) : BesideLines d (updLan f d) := besideLines_of_same rfl rfl rfl rfl rfl rfl

theorem besideLines_updLine (ln : Nat) (f : Line → Line) : BesideLines d (updLine ln f d) := besideLines_updLan d _

theorem besideLines_cnt {i j : Nat} (h : ek 0x2400 1 ≠ ek i j) : BesideLines d (cnt i j d) := by
  have heq := cnt_eq i j d
  refine ⟨?_, ?_, fun _ => ?_, od_cntN_ne 1 d h, getB_of_ods (cnt_cfg ..) ?_ ..⟩ <;> rw [heq]

theorem besideLines_fault {cls : Nat} (cause unit u v : Nat) (h : cls < 255) : BesideLines d (fault cls cause unit u v d) := by
  obtain ⟨hkeep, heq⟩ := faultFrame_fault (cls := cls) cause unit u v d
  refine ⟨?_, ?_, fun _ => ?_, hkeep _ ?_, getB_of_ods ?_ ?_ ..⟩
  case refine_4 =>
    simp only [faultKeys, ek, List.mem_cons, List.not_mem_nil, or_false]
    omega
  all_goals rw [heq]

theorem besideLines_memBell (kind : Nat) : BesideLines d (memBell kind d) := by
  unfold memBell
  split
  · obtain ⟨n, hn⟩ := send_spec .ao .bell .msg 1 { d with dbq := d.dbq ++ [.memlog (od d 0x2910 3)] }
    rw [hn]
    exact besideLines_of_same rfl rfl rfl rfl rfl rfl
  · exact .refl d

theorem besideLines_memWrite (r : MemRec) : BesideLines d (memWrite r d) := by
  have hlog : BesideLines d { d with memLog := { d.memLog with log := (d.memLog.log ++ [r]).drop (d.memLog.log.length + 1 - 32) } } :=
    besideLines_of_same rfl rfl rfl rfl rfl rfl
  exact (hlog.trans (besideLines_cnt _ (by decide))).trans (besideLines_memBell _ _)

theorem besideLines_memError (kind syn w u : Nat) : BesideLines d (memError kind syn w u d) := by
  have hlog : ∀ m : MemLog, BesideLines d { d with memLog := m } := fun m => besideLines_of_same rfl rfl rfl rfl rfl rfl
  have hfault : ∀ x : Dev, BesideLines d x →
      BesideLines d (if kind = 1 ∨ kind = 4 ∨ kind = 6 ∨ kind = 7 then fault 5 kind u w syn x else x) := by
    intro x hx
    split
    · exact hx.trans (besideLines_fault x kind u w syn (by decide))
    · exact hx
  unfold memError
  refine hfault _ ?_
  split
  · split
    · exact hlog _
    · split
      · exact hlog _
      · exact .refl d
  · split
    · exact hlog _
    · split
      · exact hlog _
      · exact besideLines_memWrite d _
  · split
    · exact hlog _
    · exact besideLines_memWrite d _

theorem besideLines_lineCe (x : Line) (w flips : Nat) : BesideLines d (lineCe x w flips d) := by
  have hput : ∀ bs, BesideLines d (putB 0x2109 1 bs d) :=
    fun bs => ⟨rfl, rfl, fun _ => rfl, rfl, tabGet_tabSet_ne _ _ _ _ (by decide)⟩
  unfold lineCe
  exact (hput _).trans (besideLines_memError ..)

/-- The drop of a checkpoint changes nothing where none runs. -/
theorem besideLines_ckptDropped : BesideLines d (updClasp (fun c => { c with ckpt := none }) d) := by
  refine ⟨rfl, rfl, fun h => ?_, rfl, rfl⟩
  show { d.clasp with ckpt := none } = d.clasp
  rw [← h]

/-- R492: a lost line ends a checkpoint, and where none runs nothing of Clasp changes. -/
theorem besideLines_loseLine (x : Line) (syn w : Nat) : BesideLines d (loseLine x syn w d) := by
  unfold loseLine
  split
  · exact (besideLines_updLan d _).trans (besideLines_updLine ..)
  · exact (((besideLines_updLine d _ _).trans (besideLines_cnt (i := 0x2109) (j := 3) _ (by decide))).trans
      (besideLines_memError ..)).trans (besideLines_ckptDropped _)

theorem besideLines_lineRead (x : Line) (ws : List Nat) : BesideLines d (lineRead x ws d) := by
  have hce : BesideLines d ((ws.filter (fun w => eccRes (tabGet 0 x.flips w) == .corrected)).foldl
      (fun y w => lineCe x w (tabGet 0 x.flips w) y) d) := besideLines_foldl d (fun y w => besideLines_lineCe y ..) _
  unfold lineRead
  dsimp only
  split
  · exact hce
  · split
    · exact hce.trans (besideLines_loseLine ..)
    · exact ((hce.trans (besideLines_updLan _ _)).trans (besideLines_cnt _ (by decide))).trans (besideLines_memError ..)

theorem besideLines_postWrite (p a : Nat) (bs : Bytes) (bad : List (Nat × Nat)) (o : Owner) :
    BesideLines d (postWrite p a bs bad o d) := by
  unfold postWrite
  obtain ⟨-, hkeep, heq⟩ := post_spec p (OutMsg.mk .req 2 a bs.length 0 0 0 bs bad o) d
  refine ⟨?_, ?_, fun _ => ?_, hkeep _ ?_, getB_of_ods ?_ ?_ ..⟩
  case refine_4 =>
    simp only [sentKeys, ek, List.mem_cons, List.not_mem_nil, or_false]
    omega
  all_goals rw [heq]

theorem besideLines_writeBack (x : Line) : BesideLines d (writeBack x d) := by
  have hread := besideLines_lineRead d x (List.range 8)
  unfold writeBack
  dsimp only
  split
  · split
    · exact hread
    · exact (((hread.trans (besideLines_updLan _ _)).trans (besideLines_updLine ..)).trans (besideLines_postWrite ..)).trans
        (besideLines_cnt _ (by decide))
  · exact .refl d

theorem besideLines_writeBackAll : BesideLines d (writeBackAll d) := besideLines_foldl d (fun x l => besideLines_writeBack x l) _

end

end Sys2Proof.Machine
end

section
/-! SUPPORT. Units of a checkpoint, its start and its end (11_clasp_commit_power_loss.md R417, R418). -/

namespace Sys2Proof.Machine

/-! ### Sectors of a checkpoint (R417) -/

/-- The arrays have a sector of a number up to their sizes' sum. -/
theorem isSome_ckptPos (sz : List Nat) (i a : Nat) : (ckptPos sz i a).isSome = decide (i < sz.sum) := by
  induction sz generalizing i a with
  | nil => rfl
  | cons n sz ih =>
    unfold ckptPos
    rw [List.sum_cons]
    split
    · next h => simp only [Option.isSome_some]; exact (decide_eq_true (by omega)).symm
    · next h =>
      rw [ih]
      exact decide_eq_decide.mpr (by omega)

/-- A unit takes up to four of the sectors left. -/
theorem length_ckptSectors (sz : List Nat) (k : Nat) {f : Nat → Nat × Nat → Nat × Nat × Nat} :
    ((List.range 4).filterMap (fun j => (ckptPos sz (k + j) 0).map (f j))).length = min 4 (sz.sum - k) := by
  rw [List.length_filterMap_eq_countP]
  simp only [Option.isSome_map, isSome_ckptPos]
  rw [show List.range 4 = [0, 1, 2, 3] from rfl]
  simp only [List.countP_cons, List.countP_nil, decide_eq_true_eq]
  split_ifs <;> omega

/-! ### A unit is made -/

/-- A place taken on a die changes its pool alone. -/
theorem sysTake_spec {n num : Nat} {d : Dev} {r : (Nat × Nat × Nat) × Dev} (h : sysTake n num d = some r) :
    r.2 = { d with clasp := { d.clasp with sys := r.2.clasp.sys } } := by
  unfold sysTake at h
  dsimp only at h
  split at h
  · split at h
    · cases h
      rfl
    · split at h <;> cases h
      rfl
  · split at h <;> cases h
    rfl

/-- What making a unit changes: the pools and the units' number, both Clasp's. -/
def UnitFrame (d x : Dev) : Prop := x = { d with clasp := { d.clasp with sys := x.clasp.sys, unitNo := x.clasp.unitNo } }

theorem unitFrame_mkUnit {num n : Nat} {cws : List CwSrc} {d x : Dev} {u : CUnit} (h : mkUnit num cws [n] d = some (u, x)) :
    UnitFrame d x := by
  unfold mkUnit at h
  simp only [List.foldl_cons, List.foldl_nil, Option.map_map] at h
  obtain ⟨r, hr, heq⟩ := Option.map_eq_some_iff.mp h
  have htake := sysTake_spec hr
  cases heq
  unfold UnitFrame
  show updClasp _ r.2 = _
  rw [htake]
  rfl

/-- A checkpoint's next unit holds up to four of the sectors left, and making it changes the pools alone. -/
theorem ckptUnit_spec {k k' : Ckpt} {d x : Dev} (h : ckptUnit k d = some (k', x)) :
    UnitFrame d x ∧ k'.num = k.num ∧ k'.next = k.next + min 4 ((ckptSizes d).sum - k.next) := by
  unfold ckptUnit at h
  dsimp only at h
  split at h
  · cases h
  · split at h
    · cases h
    · next u y hu =>
      obtain ⟨n, -, hmk⟩ := List.exists_of_findSome?_eq_some hu
      cases h
      exact ⟨unitFrame_mkUnit hmk, rfl, congrArg (k.next + ·) (length_ckptSectors ..)⟩

/-! ### A checkpoint starts (R417, R418, R492) -/

theorem completes_checkpointStart {s : State} {P : Dev → Prop} : Completes .checkpointStart s P ↔ P (checkpointStart s.dev) :=
  completes_run rfl

/-- A checkpoint is due, and may start. -/
def ckptDue (d : Dev) : Prop := d.clasp.ckptTrig = true ∧ d.clasp.ckpt = none ∧ od d 0x2400 1 = 2 ∧ d.rst.kind = none

theorem checkpointStart_of_not_due {d : Dev} (h : ¬ ckptDue d) : checkpointStart d = ckptGo d := by
  have hnot : ¬ (d.clasp.ckptTrig ∧ d.clasp.ckpt.isNone ∧ od d 0x2400 1 = 2 ∧ d.rst.kind.isNone) := by
    simpa [ckptDue, Option.isNone_iff_eq_none] using h
  unfold checkpointStart
  simp only [if_neg hnot]
  refine if_pos ?_
  by_contra hgo
  refine h ?_
  simp only [not_or, not_not, Bool.not_eq_true, Option.isSome_eq_false_iff, Option.isNone_iff_eq_none] at hgo
  obtain ⟨ht, hn, hs, -, hr⟩ := hgo
  exact ⟨by simpa using ht, hn, hs, hr⟩

/-- A checkpoint before its first sector. -/
def newCkpt (num : Nat) : Ckpt := { num := num, begin_ := 0, next := 0, crc := BitVec.allOnes 32, units := [], ended := false }

/-- The place of a checkpoint's header sector, which its CKPT_BEGIN names. -/
def ckptPlace (k : Ckpt) : Nat :=
  match k.units.head?.bind (fun u => u.copies.head?) with
  | some c => mkAddr c.die c.plane c.block c.page 0
  | none => 0

/-- The block with a checkpoint under way, its unit counted and its CKPT_BEGIN in the journal. -/
def ckptBegun (num : Nat) (k : Ckpt) (d : Dev) : Dev :=
  jAppend (jrec 9 (num % 2 ^ 32) (ckptPlace k) 0) (updClasp (fun c => { c with ckpt := some k, ckptNum := num, ckptTrig := false })
    (countUnits 1 0 1 d))

theorem ckptGo_of_none {d : Dev} (h : d.clasp.ckpt = none) : ckptGo d = d := by
  unfold ckptGo
  rw [h]

section
variable {d : Dev} (h : ckptDue d)
include h

/-- Every dirty line has been written back, and Clasp is as it was. -/
theorem clasp_writeBackAll_of_due : (writeBackAll d).clasp = d.clasp := (besideLines_writeBackAll d).clasp h.2.1

theorem checkpointStart_of_due : checkpointStart d = if od (writeBackAll d) 0x2109 3 ≠ 0 then writeBackAll d
    else match ckptUnit (newCkpt (d.clasp.ckptNum + 1)) (writeBackAll d) with
      | none => writeBackAll d
      | some (k, x) => claspFeed (ckptBegun (d.clasp.ckptNum + 1) k x) := by
  have hclasp := clasp_writeBackAll_of_due h
  have hb := besideLines_writeBackAll d
  obtain ⟨ht, hn, hs, hr⟩ := h
  unfold checkpointStart
  simp only [ht, hn, hs, hr, Option.isNone_none, and_self, if_true, hclasp, hb.state, hb.rst]
  generalize writeBackAll d = z at *
  by_cases hlost : od z 0x2109 3 ≠ 0
  · rw [if_pos hlost, if_pos (by simp [hlost]), ckptGo_of_none (by rw [hclasp, hn])]
  · rw [if_neg hlost, if_neg (by simpa using hlost)]
    rfl

end

/-! ### Page units placed in the window (R418) -/

theorem placedNow_countUnits (all rel ck : Nat) (d : Dev) : placedNow (countUnits all rel ck d) =
    ((placedNow d).1 + all, (placedNow d).2.1 + rel, (placedNow d).2.2 + ck) := if_pos rfl

theorem placedNow_writeBackAll (d : Dev) : placedNow (writeBackAll d) = placedNow d := by
  have hlan := asideCache_of_aside (aside_writeBackAll (b := 0) d (by decide))
  have hms : (writeBackAll d).lan.placedMs = d.lan.placedMs := (congrArg Lan.placedMs hlan :)
  have hall : (writeBackAll d).lan.placedAll = d.lan.placedAll := (congrArg Lan.placedAll hlan :)
  have hrel : (writeBackAll d).lan.placedRel = d.lan.placedRel := (congrArg Lan.placedRel hlan :)
  have hck : (writeBackAll d).lan.placedCk = d.lan.placedCk := (congrArg Lan.placedCk hlan :)
  unfold placedNow
  rw [(besideLines_writeBackAll d).up, hms, hall, hrel, hck]

/-- The arrays that a checkpoint copies keep their sizes as the lines are written back. -/
theorem ckptSizes_writeBackAll (d : Dev) : ckptSizes (writeBackAll d) = ckptSizes d := by
  have haside := aside_writeBackAll (b := 0x210800) d le_rfl
  have hsets : (writeBackAll d).lan.sets = d.lan.sets := (congrArg Lan.sets (asideCache_of_aside haside) :)
  have hn : (writeBackAll d).lan.n = d.lan.n := (congrArg Lan.n (asideCache_of_aside haside) :)
  unfold ckptSizes mapCount
  rw [regions_of_aside haside, cap_of_aside haside, cfg_of_aside haside, od_of_aside haside (by decide), hsets, hn,
    (besideLines_writeBackAll d).cells]

/-! ### What a start leaves -/

theorem ckptBegun_spec (num : Nat) (k : Ckpt) {z x : Dev} (h : UnitFrame z x) :
    let y := ckptBegun num k x
    y.clasp.ckpt = some k ∧ y.clasp.ckptNum = num ∧ y.clasp.ckptTrig = false ∧
    y.clasp.jbuf = z.clasp.jbuf ++ [jrec 9 (num % 2 ^ 32) (ckptPlace k) 0] ∧ y.clasp.recNo = z.clasp.recNo + 1 ∧
    placedNow y = ((placedNow z).1 + 1, (placedNow z).2.1, (placedNow z).2.2 + 1) ∧
    y = { z with clasp := y.clasp, lan := { z.lan with
      placedMs := y.lan.placedMs, placedAll := y.lan.placedAll, placedRel := y.lan.placedRel, placedCk := y.lan.placedCk } } := by
  have hplaced : placedNow x = placedNow z := by
    rw [show x = _ from h]
    rfl
  refine ⟨rfl, rfl, rfl, ?_, ?_, ?_, ?_⟩
  · show x.clasp.jbuf ++ _ = _
    rw [show x = _ from h]
  · show x.clasp.recNo + 1 = _
    rw [show x = _ from h]
  · rw [← hplaced]
    exact placedNow_countUnits 1 0 1 x
  · rw [show x = _ from h]
    rfl

/-! ### A checkpoint goes on, and ends (R417) -/

theorem ckptGo_of_waiting {k : Ckpt} {d : Dev} (hk : d.clasp.ckpt = some k)
    (h : k.ended = true ∨ k.units.any (fun u => u.copies.any (fun c => !c.passed)) = true ∨ ckptMay d = false) : ckptGo d = d := by
  unfold ckptGo
  simp only [hk]
  refine if_pos ?_
  rcases h with h | h | h
  · exact .inr (.inl h)
  · exact .inl h
  · exact .inr (.inr (by simp [h]))

theorem completes_checkpointEnd {s : State} {P : Dev → Prop} : Completes .checkpointEnd s P ↔ P (checkpointEnd s.dev) :=
  completes_run rfl

theorem checkpointEnd_of_none {d : Dev} (h : d.clasp.ckpt = none) : checkpointEnd d = d := by
  unfold checkpointEnd
  rw [h]

/-- A running checkpoint that is not over: CKPT_END is appended already, a unit is in flight, or a sector is left. -/
def ckptOpen (k : Ckpt) (d : Dev) : Prop :=
  k.ended = true ∨ k.units.any (fun u => u.copies.any (fun c => !c.passed)) = true ∨ k.next < (ckptSizes d).sum

/-- The block with a checkpoint over: its CKPT_END is in the journal, and a commit of it is due (R412). -/
def ckptEnded (k : Ckpt) (d : Dev) : Dev :=
  updClasp (fun c => { c with want := true, ckpt := some { k with ended := true } })
    (jAppend (jrec 10 (k.num % 2 ^ 32) k.next (~~~ k.crc).toNat) d)

section
variable {k : Ckpt} {d : Dev} (hk : d.clasp.ckpt = some k)
include hk

theorem checkpointEnd_of_open (h : ckptOpen k d) : checkpointEnd d = d := by
  unfold checkpointEnd
  simp only [hk, isSome_ckptPos, decide_eq_true_eq]
  exact if_pos h

theorem checkpointEnd_of_complete (h : ¬ ckptOpen k d) : checkpointEnd d = ckptEnded k d := by
  unfold checkpointEnd
  simp only [hk, isSome_ckptPos, decide_eq_true_eq]
  exact if_neg h

end

/-! ### Its period (R418) -/

/-- What the end of a period does. -/
def periodEnded (d : Dev) : Dev := if od d 0x2400 8 = 0 ∨ od d 0x2400 1 ≠ 2 then d else ckptTrigger d

theorem completes_ckptPeriod {s : State} {P : Dev → Prop} : Completes .ckptPeriod s P ↔ P (periodEnded s.dev) :=
  completes_run (f := periodEnded) rfl

theorem periodEnded_of_idle {d : Dev} (h : od d 0x2400 8 = 0 ∨ od d 0x2400 1 ≠ 2 ∨ d.clasp.ckpt.isSome = true) : periodEnded d = d := by
  unfold periodEnded
  split
  · rfl
  · next hrun => exact if_pos (by tauto)

theorem periodEnded_of_running {d : Dev} (hp : od d 0x2400 8 ≠ 0) (hs : od d 0x2400 1 = 2) (hn : d.clasp.ckpt = none) :
    periodEnded d = { d with clasp := { d.clasp with ckptTrig := true } } := by
  unfold periodEnded ckptTrigger
  rw [if_neg (by simp [hp, hs]), if_neg (by simp [hn])]
  rfl

end Sys2Proof.Machine
end

section
/-! SUPPORT. Calibration of the energy table (11_clasp_commit_power_loss.md R421), and the statement on checkpoints and calibration. -/

namespace Sys2Proof.Machine

theorem completes_calibrationTick {s : State} {P : Dev → Prop} : Completes .calibrationTick s P ↔ P (calibrate s.dev) := completes_run rfl

theorem od_calOne_ne {sub j target dflt : Nat} {d : Dev} (h : sub ≠ j) : od (calOne j target dflt d) 0x2402 sub = od d 0x2402 sub :=
  od_put_ne _ d (by unfold ek; omega)

@[simp] theorem calOne_cfg (sub target dflt : Nat) (d : Dev) : (calOne sub target dflt d).cfg = d.cfg := by
  unfold calOne
  exact put_cfg ..

theorem od_calOne_self (sub target dflt : Nat) (d : Dev) : od (calOne sub target dflt d) 0x2402 sub =
    calibrated (od d 0x2402 sub) target dflt % 2 ^ (8 * odSize d.cfg (ek 0x2402 sub)) := od_put_self ..

/-- The native program means of the dies that have one. -/
def programMeans (d : Dev) : List Nat := ((presentDies d).map (fun n => (die d n).means.getD 2 0)).filter (· ≠ 0)

/-- The block with the energies of the table moved, one after the other. -/
def energiesMoved (d : Dev) : Dev :=
  let dflt := fun (s : Nat) => odDefault d.cfg (ek 0x2402 s)
  calOne 4 (eMeasured d 1) (dflt 4) (calOne 5 (eMeasured d 2) (dflt 5) (calOne 6 (eMeasured d 5) (dflt 6) d))

theorem energiesMoved_spec (d : Dev) :
    let moves := fun (sub target : Nat) => od (energiesMoved d) 0x2402 sub =
      calibrated (od d 0x2402 sub) target (odDefault d.cfg (ek 0x2402 sub)) % 2 ^ (8 * odSize d.cfg (ek 0x2402 sub))
    moves 4 (eMeasured d 1) ∧ moves 5 (eMeasured d 2) ∧ moves 6 (eMeasured d 5) ∧
    od (energiesMoved d) 0x2402 7 = od d 0x2402 7 ∧ od (energiesMoved d) 0x2402 8 = od d 0x2402 8 := by
  unfold energiesMoved
  simp (disch := decide) [od_calOne_self, od_calOne_ne]

theorem energiesMoved_cfg (d : Dev) : (energiesMoved d).cfg = d.cfg := by simp [energiesMoved]

/-- Besides, its program time, where a die has a mean. -/
def timeMoved (d : Dev) : Dev :=
  if (programMeans d).isEmpty then energiesMoved d
  else calOne 8 ((programMeans d).sum / (programMeans d).length) (odDefault d.cfg (ek 0x2402 8)) (energiesMoved d)

theorem timeMoved_cfg (d : Dev) : (timeMoved d).cfg = d.cfg := by
  unfold timeMoved
  split
  · exact energiesMoved_cfg d
  · rw [calOne_cfg, energiesMoved_cfg]

theorem calibrate_of_off {d : Dev} (h : od d 0x2402 1 ≠ 0) : calibrate d = d := if_pos h

theorem calibrate_of_on {d : Dev} (h : od d 0x2402 1 = 0) :
    calibrate d = calOne 7 (od d 0x2800 0x0E) (odDefault d.cfg (ek 0x2402 7)) (timeMoved d) := if_neg (by simp [h])

/-- R421: each value moves toward what was measured, and the program time stays where none was. -/
theorem calibrate_spec {d : Dev} (h : od d 0x2402 1 = 0) :
    let moves := fun (sub target : Nat) => od (calibrate d) 0x2402 sub =
      calibrated (od d 0x2402 sub) target (odDefault d.cfg (ek 0x2402 sub)) % 2 ^ (8 * odSize d.cfg (ek 0x2402 sub))
    moves 4 (eMeasured d 1) ∧ moves 5 (eMeasured d 2) ∧ moves 6 (eMeasured d 5) ∧ moves 7 (od d 0x2800 0x0E) ∧
    (programMeans d = [] → od (calibrate d) 0x2402 8 = od d 0x2402 8) ∧
    (programMeans d ≠ [] → moves 8 ((programMeans d).sum / (programMeans d).length)) := by
  obtain ⟨hread, hprogram, herase, hpower, hmean⟩ := energiesMoved_spec d
  have htime : ∀ sub, sub ≠ 8 → od (timeMoved d) 0x2402 sub = od (energiesMoved d) 0x2402 sub := by
    intro sub hne
    unfold timeMoved
    split
    · rfl
    · exact od_calOne_ne hne
  dsimp only
  rw [calibrate_of_on h]
  refine ⟨?_, ?_, ?_, ?_, fun hnone => ?_, fun hsome => ?_⟩
  · rw [od_calOne_ne (by decide), htime 4 (by decide), hread]
  · rw [od_calOne_ne (by decide), htime 5 (by decide), hprogram]
  · rw [od_calOne_ne (by decide), htime 6 (by decide), herase]
  · rw [od_calOne_self, htime 7 (by decide), hpower, timeMoved_cfg]
  · rw [od_calOne_ne (by decide), timeMoved, if_pos (by simp [hnone]), hmean]
  · rw [od_calOne_ne (by decide), timeMoved, if_neg (by simp [hsome]), od_calOne_self, hmean, energiesMoved_cfg]

theorem onlyEntries_calibrate {d : Dev} (h : od d 0x2402 1 = 0) :
    OnlyEntries d (calibrate d) [ek 0x2402 4, ek 0x2402 5, ek 0x2402 6, ek 0x2402 7, ek 0x2402 8] := by
  have hone : ∀ {a : Dev} {sub target dflt : Nat}, sub ∈ [4, 5, 6, 7, 8] →
      OnlyEntries d a ([4, 5, 6, 7, 8].map (ek 0x2402)) → OnlyEntries d (calOne sub target dflt a) ([4, 5, 6, 7, 8].map (ek 0x2402)) :=
    fun hsub ha => ha.trans ((onlyEntries_put ..).mono (by simpa using List.mem_map_of_mem hsub))
  have henergies : OnlyEntries d (energiesMoved d) ([4, 5, 6, 7, 8].map (ek 0x2402)) :=
    hone (by decide) (hone (by decide) (hone (by decide) ⟨keeps_refl _ _, rfl⟩))
  rw [calibrate_of_on h]
  refine hone (by decide) ?_
  unfold timeMoved
  split
  · exact henergies
  · exact hone (by decide) henergies

/-! ### The statement -/

/-- Settles O58: a checkpoint by whether it is due, by its units and by its sectors; its period by its state; a calibration value by value. -/
theorem checkpointsAndCalibration : Obligations.CheckpointsAndCalibration := by
  intro s q
  refine ⟨fun h => ?idle, fun hp hs hn => ?period, fun h => ?notDue, fun ht hn hs hr => ?due, fun h => ?waiting,
    fun k hk => ⟨fun h => ?running, fun h => ?complete⟩, fun hn => ?noEnd, fun h => ?off, fun h => ?on⟩
  case idle => exact completes_ckptPeriod.mpr (periodEnded_of_idle h)
  case period => exact completes_ckptPeriod.mpr (periodEnded_of_running hp hs hn)
  case notDue =>
    refine completes_checkpointStart.mpr (checkpointStart_of_not_due ?_)
    rintro ⟨ht, hn, hs, hr⟩
    rcases h with h | h | h | h
    · exact absurd (ht.symm.trans h) (by decide)
    · rw [show q.ckpt = none from hn] at h
      exact absurd h (by decide)
    · exact h hs
    · rw [hr] at h
      exact absurd h (by decide)
  case due =>
    have hdue : ckptDue s.dev := ⟨ht, hn, hs, hr⟩
    have hclasp := clasp_writeBackAll_of_due hdue
    refine ⟨fun hlost => ?_, fun k x hnone hunit => ?_⟩
    · rw [completes_checkpointStart, checkpointStart_of_due hdue]
      exact if_pos hlost
    · have hnew : ckptUnit (newCkpt (q.ckptNum + 1)) (writeBackAll s.dev) = some (k, x) := hunit
      obtain ⟨hframe, hnum, hnext⟩ := ckptUnit_spec hnew
      obtain ⟨hck, hno, htrig, hbuf, hrec, hplaced, hrest⟩ := ckptBegun_spec (q.ckptNum + 1) k hframe
      rw [completes_checkpointStart, checkpointStart_of_due hdue, if_neg (by simp [hnone]), hnew]
      rw [hclasp] at hbuf hrec
      rw [placedNow_writeBackAll] at hplaced
      rw [ckptSizes_writeBackAll] at hnext
      refine ⟨ckptBegun (q.ckptNum + 1) k x, rfl, hck, hnum, ?_, hno, htrig, ?_, hrec, hplaced, hrest⟩
      · simpa [newCkpt] using hnext
      · rw [hbuf, List.drop_left]
        rfl
  case waiting =>
    cases hk : q.ckpt with
    | none => exact ckptGo_of_none hk
    | some k => exact ckptGo_of_waiting hk (h k hk)
  case running => exact completes_checkpointEnd.mpr (checkpointEnd_of_open hk h)
  case complete => exact completes_checkpointEnd.mpr (checkpointEnd_of_complete hk h)
  case noEnd => exact completes_checkpointEnd.mpr (checkpointEnd_of_none hn)
  case off => exact completes_calibrationTick.mpr (calibrate_of_off h)
  case on =>
    obtain ⟨hread, hprogram, herase, hpower, hsame, hmean⟩ := calibrate_spec h
    exact completes_calibrationTick.mpr ⟨hread, hprogram, herase, hpower, hsame, hmean, onlyEntries_calibrate h⟩

end Sys2Proof.Machine
end

section
/-! SUPPORT. The raw path's lock (06_die_scheduling.md R269): what a key does in each state of the lock, and what locks an open path. -/

namespace Sys2Proof.Machine

/-- The block whose raw path has this lock. -/
def withLock (l : RawLock) (d : Dev) : Dev := { d with rawp := { d.rawp with lock := l } }

section
variable {m v : Nat} {d : Dev}

/-! ### The path locks -/

/-- While an operation is in progress or waits, its space stays. -/
theorem rawLockUp_of_busy (h : d.rawp.req.isSome ∨ d.rawp.todo ≠ []) : rawLockUp d = withLock .locked d := by
  unfold rawLockUp
  exact if_pos (h.imp id (by simp))

/-- With no operation left its space is freed. -/
theorem rawLockUp_of_idle (hreq : d.rawp.req = none) (htodo : d.rawp.todo = []) :
    rawLockUp d = sbFree .raw { d with rawp := { d.rawp with lock := .locked, sb := none } } := by
  unfold rawLockUp
  rw [if_neg (by simp [hreq, htodo])]

theorem busy_or_idle (d : Dev) : (d.rawp.req.isSome ∨ d.rawp.todo ≠ []) ∨ (d.rawp.req = none ∧ d.rawp.todo = []) := by
  rw [← Option.not_isSome_iff_eq_none]
  tauto

theorem lock_rawLockUp (d : Dev) : (rawLockUp d).rawp.lock = .locked := by
  rcases busy_or_idle d with h | ⟨hreq, htodo⟩
  · rw [rawLockUp_of_busy h]
    rfl
  · rw [rawLockUp_of_idle hreq htodo]
    rfl

/-- Locking an open path frees the space of its operations, unless one is in progress or waits. -/
theorem rawLockUp_spec (d : Dev) :
    (rawLockUp d).rawp = { d.rawp with lock := .locked, sb := (rawLockUp d).rawp.sb } ∧
    rawLockUp d = { d with rawp := (rawLockUp d).rawp, lan := { d.lan with res := (rawLockUp d).lan.res } } ∧
    (d.rawp.req.isSome ∨ d.rawp.todo ≠ [] → (rawLockUp d).rawp.sb = d.rawp.sb ∧ (rawLockUp d).lan.res = d.lan.res) ∧
    (d.rawp.req = none → d.rawp.todo = [] → (rawLockUp d).rawp.sb = none ∧ ∀ r ∈ (rawLockUp d).lan.res, r.own ≠ .raw) := by
  rcases busy_or_idle d with h | ⟨hreq, htodo⟩
  · rw [rawLockUp_of_busy h]
    refine ⟨rfl, rfl, fun _ => ⟨rfl, rfl⟩, fun hreq htodo => ?_⟩
    simp [hreq, htodo] at h
  · rw [rawLockUp_of_idle hreq htodo]
    refine ⟨rfl, rfl, fun h => ?_, fun _ _ => ⟨rfl, fun r hr => ?_⟩⟩
    · simp [hreq, htodo] at h
    · exact of_decide_eq_true (List.mem_filter.mp hr).2

/-! ### A key by the lock it finds -/

theorem rawUnlock_of_locked (h : d.rawp.lock = .locked) :
    rawUnlock m v d = if v = 0x5A3C then withLock (.key1 m) d else cnt 0x2050 0x0A d := by
  unfold rawUnlock
  rw [h]
  rfl

theorem rawUnlock_of_key1 {k : Nat} (h : d.rawp.lock = .key1 k) :
    rawUnlock m v d = if v = 0xC3A5 ∧ k = m then withLock .opened d
      else if v = 0x5A3C then withLock (.key1 m) d else cnt 0x2050 0x0A (withLock .locked d) := by
  unfold rawUnlock
  rw [h]
  rfl

theorem rawUnlock_of_opened (h : d.rawp.lock = .opened) : rawUnlock m v d = rawLockUp d := by
  unfold rawUnlock
  rw [h]

theorem odEffect_rawUnlock (m v : Nat) (d : Dev) : odEffect m none 0x2050 1 v d = rawUnlock m v d := rfl

/-- A wrong key is counted, beside a change of the lock. -/
theorem wrongKey_spec (l : RawLock) (d : Dev) :
    Counted d (cnt 0x2050 0x0A (withLock l d)) 0x2050 0x0A 1 ∧
    SameBut d (cnt 0x2050 0x0A (withLock l d)) (fun x => { x with rawp := { x.rawp with lock := l } }) [ek 0x2050 0x0A] := by
  obtain ⟨hcnt, hkeep, hrest⟩ := cnt_spec 0x2050 0x0A (withLock l d)
  exact ⟨hcnt, hkeep, hrest⟩

end

/-! ### The second key is late -/

theorem exec_rawKey1Timeout {k : Nat} {s : State} (h : s.dev.rawp.lock = .key1 k) : exec .rawKey1Timeout s = run (withLock .locked) s := by
  have hexec : exec .rawKey1Timeout s = execRawKey1Timeout s := rfl
  rw [hexec]
  unfold execRawKey1Timeout run
  dsimp only
  rw [h]
  rfl

theorem exec_rawKey1Timeout_of_other {s : State} (h : ∀ k, s.dev.rawp.lock ≠ .key1 k) : exec .rawKey1Timeout s = run id s := by
  have hexec : exec .rawKey1Timeout s = execRawKey1Timeout s := rfl
  rw [hexec]
  unfold execRawKey1Timeout run
  dsimp only
  split
  · next k hk => exact absurd hk (h k)
  · rfl

/-! ### The statement -/

/-- Settles O26: a key by the lock that it finds, a timeout by whether it finds its lock. -/
theorem rawPathLock : Obligations.RawPathLock := by
  intro s
  refine ⟨fun m v hacc => ?key, fun k hk => ?timeout, fun hk => ?noTimeout, fun hopen hms => ?idle, fun h => ?noIdle⟩
  case key =>
    refine writeDoes_of_accepted rfl rfl hacc ?_
    rw [odEffect_rawUnlock]
    have hraw : (rewrite 0x2050 1 (seen m s.dev)).rawp = s.dev.rawp := rfl
    cases hlock : s.dev.rawp.lock with
    | locked =>
      rw [rawUnlock_of_locked (hraw ▸ hlock)]
      dsimp only
      by_cases hv : v = 0x5A3C
      · rw [if_pos hv, if_pos hv]
        rfl
      · rw [if_neg hv, if_neg hv]
        exact cnt_spec ..
    | key1 k =>
      rw [rawUnlock_of_key1 (hraw ▸ hlock)]
      dsimp only
      by_cases hopen : v = 0xC3A5 ∧ k = m
      · rw [if_pos hopen, if_pos hopen]
        rfl
      · rw [if_neg hopen, if_neg hopen]
        by_cases hv : v = 0x5A3C
        · rw [if_pos hv, if_pos hv]
          rfl
        · rw [if_neg hv, if_neg hv]
          exact wrongKey_spec ..
    | opened =>
      rw [rawUnlock_of_opened (hraw ▸ hlock)]
      exact rawLockUp_spec _
  case timeout => exact (completes_run (exec_rawKey1Timeout hk)).mpr rfl
  case noTimeout => exact (completes_run (exec_rawKey1Timeout_of_other hk)).mpr rfl
  case idle =>
    rw [completes_run rfl, if_pos ⟨hopen, hms⟩]
    exact ⟨lock_rawLockUp _, (keep_rawLockUp (Keep.refl _)).control⟩
  case noIdle =>
    rw [completes_run rfl]
    exact if_neg (by tauto)

end Sys2Proof.Machine
end

section
/-! SUPPORT. Records of dies and channels that one change reaches (06_die_scheduling.md), and the targets that wait for their training
(07_nand_interface.md R308). -/

namespace Sys2Proof.Machine

/-! ### Dies -/

theorem die_updDie_self (n : Nat) (f : Die → Die) (d : Dev) : die (updDie n f d) n = f (die d n) := by simp [die, updDie]

theorem die_updDie_ne {n i : Nat} (f : Die → Die) (d : Dev) (h : i ≠ n) : die (updDie n f d) i = die d i :=
  tabGet_tabSet_ne _ _ _ _ h

theorem onlyDie_updDie (n : Nat) (f : Die → Die) (d : Dev) : OnlyDie d (updDie n f d) n :=
  ⟨fun _ h => die_updDie_ne f d h, rfl⟩

/-- What two blocks with one table of dies hold of a die is the same. -/
theorem die_congr {x d : Dev} (h : x.dies = d.dies) (n : Nat) : die x n = die d n := by
  unfold die
  rw [h]

/-- What two blocks with one table of channels hold of a channel is the same. -/
theorem chan_congr {x d : Dev} (h : x.chans = d.chans) (ch : Nat) : chan x ch = chan d ch := by
  unfold chan
  rw [h]

/-! ### What counted events and messages leave of them -/

theorem die_cntN (i j m n : Nat) (d : Dev) : die (cntN i j m d) n = die d n := die_congr (by rw [(cntN_spec i j m d).2.2]) n

theorem chan_cntN (i j m ch : Nat) (d : Dev) : chan (cntN i j m d) ch = chan d ch := chan_congr (by rw [(cntN_spec i j m d).2.2]) ch

theorem chan_sendVia (a b : NUnit) (c : NClass) (n ch : Nat) (d : Dev) : chan (sendVia a b c n d) ch = chan d ch := by
  obtain ⟨x, hx⟩ := sendVia_spec a b c n d
  rw [hx]
  rfl

/-! ### Dies changed one by one -/

/-- One change of the dies that a list names, one after the other. -/
def eachDie (l : List Nat) (f : Die → Die) (d : Dev) : Dev := l.foldl (fun x n => updDie n f x) d

/-- It changes nothing but dies. -/
theorem eachDie_spec (l : List Nat) (f : Die → Die) (d : Dev) : ∃ t, eachDie l f d = { d with dies := t } := by
  induction l generalizing d with
  | nil => exact ⟨d.dies, rfl⟩
  | cons n l ih => exact ih (updDie n f d)

theorem chan_eachDie (l : List Nat) (f : Die → Die) (d : Dev) (ch : Nat) : chan (eachDie l f d) ch = chan d ch := by
  obtain ⟨t, ht⟩ := eachDie_spec l f d
  rw [ht]
  rfl

/-- A change that has no more effect the second time reaches the dies that the list names, some perhaps more than once. -/
theorem die_eachDie {f : Die → Die} (hf : ∀ y, f (f y) = f y) (l : List Nat) (d : Dev) (n : Nat) :
    die (eachDie l f d) n = if n ∈ l then f (die d n) else die d n := by
  unfold eachDie
  induction l generalizing d with
  | nil => rfl
  | cons i l ih =>
    rw [List.foldl_cons, ih]
    by_cases hn : n = i
    · subst hn
      simp [die_updDie_self, hf]
    · simp [die_updDie_ne f d hn, hn]

/-- A change of dies that a list names once each. -/
theorem die_eachDie_of_nodup {l : List Nat} (hl : l.Nodup) (f : Die → Die) (d : Dev) (n : Nat) :
    die (eachDie l f d) n = if n ∈ l then f (die d n) else die d n :=
  get_foldl_update (update := fun i => updDie i f) (fun i => die_updDie_self i f) (fun _ _ d hj => die_updDie_ne f d hj) l hl d n

/-- A target's LUNs are different dies. -/
theorem dieNo_injective (ch t : Nat) : Function.Injective (dieNo ch t) := by
  intro a b h
  unfold dieNo at h
  omega

/-- The dies of a target, as the block numbers them. -/
def tgtDies (c : Params) (ch t : Nat) : List Nat := (List.range c.luns).map (dieNo ch t)

theorem dieNo_mem_tgtDies {c : Params} {ch t l : Nat} : dieNo ch t l ∈ tgtDies c ch t ↔ l < c.luns := by
  unfold tgtDies
  rw [List.mem_map_of_injective (dieNo_injective ch t), List.mem_range]

theorem nodup_tgtDies (c : Params) (ch t : Nat) : (tgtDies c ch t).Nodup := List.nodup_range.map (dieNo_injective ch t)

/-! ### Targets that wait for their training (R308) -/

/-- Targets of a channel are asked to be trained: those of them that did not wait yet now wait, if its timing can be trained, and
nothing else changes. -/
def TrainsAsked (ch : Nat) (asked : Nat → Prop) (d x : Dev) : Prop :=
  OnlyChan d x ch ∧ chan x ch = { chan d ch with trainWait := (chan x ch).trainWait } ∧
  ∀ t, t ∈ (chan x ch).trainWait ↔ t ∈ (chan d ch).trainWait ∨ asked t ∧ trainable d ch = true

theorem OnlyChan.trans {d x y : Dev} {ch : Nat} (h1 : OnlyChan d x ch) (h2 : OnlyChan x y ch) : OnlyChan d y ch :=
  ⟨fun c hc => (h2.1 c hc).trans (h1.1 c hc), by rw [h2.2, h1.2]⟩

theorem trainable_of_onlyChan {d x : Dev} {ch c : Nat} (h : OnlyChan d x ch) : trainable x c = trainable d c := by
  unfold trainable
  rw [h.2]
  rfl

theorem trainsAsked_none {ch : Nat} {asked : Nat → Prop} (d : Dev) (h : ∀ t, asked t → trainable d ch = false) :
    TrainsAsked ch asked d d := by
  refine ⟨onlyChan_refl ch d, rfl, fun t => ⟨.inl, ?_⟩⟩
  rintro (hwait | ⟨hask, htrain⟩)
  · exact hwait
  · rw [h t hask] at htrain
    cases htrain

theorem TrainsAsked.trans {ch : Nat} {p q : Nat → Prop} {d x y : Dev} (h1 : TrainsAsked ch p d x) (h2 : TrainsAsked ch q x y) :
    TrainsAsked ch (fun t => p t ∨ q t) d y := by
  obtain ⟨honly1, hchan1, hmem1⟩ := h1
  obtain ⟨honly2, hchan2, hmem2⟩ := h2
  refine ⟨honly1.trans honly2, ?_, fun t => ?_⟩
  · rw [hchan2, hchan1]
  · rw [hmem2, hmem1, trainable_of_onlyChan honly1]
    tauto

theorem trainsAsked_wantTrain (ch t : Nat) (d : Dev) : TrainsAsked ch (· = t) d (wantTrain ch t d) := by
  unfold wantTrain
  by_cases htrain : trainable d ch = true
  · rw [if_neg (not_not.mpr htrain)]
    refine ⟨onlyChan_updChan _ _ _, ?_, fun u => ?_⟩
    · rw [chan_updChan_self]
    · rw [chan_updChan_self]
      dsimp only
      split
      · next hin =>
        have hmem : t ∈ (chan d ch).trainWait := by simpa using hin
        constructor
        · exact .inl
        · rintro (h | ⟨rfl, -⟩)
          · exact h
          · exact hmem
      · simp [htrain]
  · rw [if_pos htrain]
    exact trainsAsked_none d (fun _ _ => by simpa using htrain)

theorem TrainsAsked.congr {ch : Nat} {p q : Nat → Prop} {d x : Dev} (h : TrainsAsked ch p d x) (hpq : ∀ t, p t ↔ q t) :
    TrainsAsked ch q d x :=
  ⟨h.1, h.2.1, fun t => by rw [h.2.2 t, hpq t]⟩

/-- The targets whose bits a mask sets, asked one after the other. -/
theorem trainsAsked_mask (ch v : Nat) (l : List Nat) (d : Dev) :
    TrainsAsked ch (fun t => t ∈ l ∧ bit v t = true) d (l.foldl (fun x t => if bit v t then wantTrain ch t x else x) d) := by
  induction l generalizing d with
  | nil => exact trainsAsked_none d (by simp)
  | cons a l ih =>
    have hfirst : TrainsAsked ch (fun t => t = a ∧ bit v t = true) d (if bit v a then wantTrain ch a d else d) := by
      split
      · next hbit => exact (trainsAsked_wantTrain ch a d).congr fun t => ⟨fun h => ⟨h, h ▸ hbit⟩, And.left⟩
      · next hbit =>
        refine trainsAsked_none d ?_
        rintro t ⟨rfl, h⟩
        exact absurd h hbit
    exact (hfirst.trans (ih _)).congr fun t => by rw [List.mem_cons, or_and_right]

end Sys2Proof.Machine
end

section
/-! SUPPORT. The entries of a channel (07_nand_interface.md R279, R316): the places of the dictionary at which they lie, and that an
accepted write of one that starts something lies on a channel of R2. -/

namespace Sys2Proof.Machine

/-! ### Where they lie -/

theorem odBase_chIdx {c : Params} {ch i : Nat} (hch : ch < c.channels) (h32 : ch < 32) (hi : i < 0x40) :
    odBase c (chIdx ch i) = some (0x3000 + i, ch) := by
  have hdiv : (chIdx ch i - 0x3000) / 0x40 = ch := by unfold chIdx; omega
  have hmod : (chIdx ch i - 0x3000) % 0x40 = i := by unfold chIdx; omega
  have hlo : 0x3000 ≤ chIdx ch i := by unfold chIdx; omega
  have hhi : chIdx ch i < 0x3800 := by unfold chIdx; omega
  unfold odBase
  rw [hdiv, hmod]
  repeat rw [if_neg (by omega)]
  rw [if_pos hhi, if_pos hch]

/-- The row of a channel's entry. -/
def chanRow (i j : Nat) : Option OdRow := rowsChannel.find? (fun x => x.base == 0x3000 + i && x.sub0 ≤ j && j ≤ x.sub1)

theorem odRow_chIdx {c : Params} {ch i j : Nat} (hch : ch < c.channels) (h32 : ch < 32) (hi : i < 0x40) :
    odRow c (chIdx ch i) j = (chanRow i j).map (·, ch) := by
  have hspread : spread (0x3000 + i) = false := by
    unfold spread
    simp
    omega
  have hrows : rowsOf (0x3000 + i) = rowsChannel := by
    unfold rowsOf
    repeat rw [if_neg (by omega)]
    rw [if_pos (by omega)]
  unfold odRow chanRow
  simp only [odBase_chIdx hch h32 hi, hspread, hrows]
  simp
  omega

theorem odKind_chIdx {c : Params} {ch i j : Nat} {x : OdRow} (hch : ch < c.channels) (h32 : ch < 32) (hi : i < 0x40) (hj : j ≠ 0)
    (hrow : chanRow i j = some x) : odKind c (chIdx ch i) j = some (x.ty, x.acc) := by
  unfold odKind
  rw [if_neg hj, odRow_chIdx hch h32 hi, hrow]
  rfl

/-- What a write of a channel's entry does that is not read-only. -/
theorem odEffect_chIdx {m ch i j v : Nat} {via : Option Nat} {x : OdRow} {d : Dev} (hch : ch < d.cfg.channels) (h32 : ch < 32)
    (hi : i < 0x40) (hj : j ≠ 0) (hrow : chanRow i j = some x) (hacc : x.acc ≠ .ro) :
    odEffect m via (chIdx ch i) j v d = effInst (0x3000 + i) ch j (ek (chIdx ch i) j) v d := by
  have hlow : chIdx ch i ≠ 0x1201 := by
    unfold chIdx
    omega
  unfold odEffect
  simp only [odKind_chIdx hch h32 hi hj hrow, odBase_chIdx hch h32 hi]
  rw [if_neg hacc, if_neg hlow, if_neg (by omega), if_neg (by omega), if_neg (by omega)]

/-! ### A channel beyond the 32 of R2 -/

/-- The entries of a channel that start something when they are written: die_revive, snap_req, id_rerun, ts_arm and train_req. -/
def startEntries : List (Nat × Nat) := [(3, 8), (3, 5), (5, 7), (0x0A, 1), (0x0B, 1)]

/-- The bases at which their indices lie for a channel past the entries of the channels. -/
def pastBase (i b : Nat) : Bool :=
  [0x4000 + i, 0x5000 + i, 0x5100 + i % 8, 0x7000 + i % 8, 0x7800 + i % 4].contains b || (0x5900 ≤ b && b < 0x7000 && b % 0x40 == i)

theorem pastBase_of_odBase {c : Params} {ch i b k : Nat} (h32 : 32 ≤ ch) (hi : i < 0x10) (h : odBase c (chIdx ch i) = some (b, k)) :
    pastBase i b = true := by
  have hmod : chIdx ch i % 0x40 = i := by unfold chIdx; omega
  have hlo : 0x3800 ≤ chIdx ch i := by unfold chIdx; omega
  unfold pastBase
  revert h
  unfold odBase
  repeat rw [if_neg (by omega)]
  repeat' refine iteInduction (motive := fun o => o = some (b, k) → _) (fun _ => ?_) (fun _ => ?_)
  all_goals rintro ⟨⟩
  all_goals
    simp
    omega

theorem le_of_pastBase {i b : Nat} (h : pastBase i b = true) : 0x4000 ≤ b := by
  unfold pastBase at h
  simp at h
  omega

/-- The rows of the indices past those of the channels. -/
def pastRows : List OdRow := rowsTenderCh ++ rowsPort ++ rowsRing ++ rowsMicrocode ++ rowsDecBank

theorem rowsOf_past {b : Nat} (h : 0x4000 ≤ b) {x : OdRow} (hx : x ∈ rowsOf b) : x ∈ pastRows := by
  unfold pastRows
  revert hx
  unfold rowsOf
  repeat rw [if_neg (by omega)]
  repeat' refine iteInduction (motive := fun l => x ∈ l → _) (fun _ => ?_) (fun _ => ?_)
  all_goals
    intro hx
    simp [hx]

/-- Where such an index holds an entry at all, it is a 64-bit one that is only read. -/
theorem pastRows_readOnly : ∀ p ∈ startEntries, ∀ x ∈ pastRows, pastBase p.1 x.base = true → x.sub0 ≤ p.2 → p.2 ≤ x.sub1 →
    x.acc = .ro ∧ x.ty = .u64 := by decide +kernel

/-- An accepted write names an entry of a kind. -/
theorem kind_of_accepted {d : Dev} {m idx sub v : Nat} (h : Accepted d m idx sub v) :
    ∃ t a b i, odKind d.cfg idx sub = some (t, a) ∧ odBase d.cfg idx = some (b, i) ∧ accessAbort b sub t a (v == 0) = none := by
  obtain ⟨hen, herr, hab, -⟩ := h
  have hcfg : (seen m d).cfg = d.cfg := rfl
  cases hkind : odKind d.cfg idx sub with
  | none =>
    cases hdef : odDefined d.cfg idx with
    | false =>
      unfold numAbort at hab
      simp [hcfg, hkind, hdef] at hab
    | true =>
      unfold numError numAbort writeError at herr
      simp [hkind, hdef, hen] at herr
  | some p =>
    obtain ⟨t, a⟩ := p
    cases hbase : odBase d.cfg idx with
    | none =>
      unfold numAbort at hab
      simp [hcfg, hkind, hbase] at hab
    | some q => exact ⟨t, a, q.1, q.2, rfl, rfl, accessAbort_of_numAbort (d := seen m d) hkind hbase hab⟩

/-- A row of an index past those of the channels is at a base that such an index has. -/
theorem odRow_past {c : Params} {ch i j n : Nat} {x : OdRow} (h32 : 32 ≤ ch) (hi : i < 0x10) (h : odRow c (chIdx ch i) j = some (x, n)) :
    ∃ b k, odBase c (chIdx ch i) = some (b, k) ∧ x ∈ pastRows ∧ pastBase i x.base = true ∧ x.sub0 ≤ j ∧ j ≤ x.sub1 := by
  unfold odRow at h
  cases hbase : odBase c (chIdx ch i) with
  | none => simp [hbase] at h
  | some q =>
    obtain ⟨b, k⟩ := q
    have hpast := pastBase_of_odBase h32 hi hbase
    have hhigh := le_of_pastBase hpast
    have hspread : spread b = false := by
      unfold spread
      simp
      omega
    simp only [hbase, hspread] at h
    rw [if_neg (by simp), if_neg (by omega)] at h
    obtain ⟨y, hy, he⟩ := Option.map_eq_some_iff.mp h
    cases he
    have hfit := List.find?_some hy
    simp only [Bool.and_eq_true, decide_eq_true_eq, beq_iff_eq] at hfit
    obtain ⟨⟨rfl, hlow⟩, hup⟩ := hfit
    exact ⟨_, _, rfl, rowsOf_past hhigh (List.mem_of_find?_eq_some hy), hpast, hlow, hup⟩

/-- A write of one of those entries is accepted on a channel of R2 only. -/
theorem channel_of_accepted {d : Dev} {m ch i j v : Nat} (hp : (i, j) ∈ startEntries) (h : Accepted d m (chIdx ch i) j v) : ch < 32 := by
  by_contra hch
  have hij : i < 0x10 ∧ j ≠ 0 := by
    simp only [startEntries, List.mem_cons, Prod.mk.injEq, List.not_mem_nil, or_false] at hp
    omega
  obtain ⟨t, a, b, k, hkind, hbase, haccess⟩ := kind_of_accepted h
  unfold odKind at hkind
  rw [if_neg hij.2] at hkind
  obtain ⟨⟨x, n⟩, hrow, he⟩ := Option.map_eq_some_iff.mp hkind
  obtain ⟨b', k', hbase', hx, hpast, hlow, hup⟩ := odRow_past (Nat.le_of_not_lt hch) hij.1 hrow
  obtain ⟨hro, hty⟩ := pastRows_readOnly _ hp x hx hpast hlow hup
  have hhigh := le_of_pastBase (pastBase_of_odBase (Nat.le_of_not_lt hch) hij.1 hbase)
  cases he
  have hnotSrc : b ≠ 0x2650 := by omega
  have hnotWay : b * 256 + j ≠ 0x210901 := by omega
  simp [accessAbort, hro, hty, clearable, hnotSrc, hnotWay] at haccess

end Sys2Proof.Machine
end

section
/-! SUPPORT. The rows that write an entry of a channel which starts something (06_die_scheduling.md R262, R279; 07_nand_interface.md R293,
R296, R308). -/

namespace Sys2Proof.Machine

/-! ### The write of such an entry -/

/-- A row that writes one of those entries does what the entry does, when the write is accepted. -/
theorem writeDoes_startEntry {c : Instr} {s : State} {m ch i j v : Nat} {x : OdRow} {eff : Dev → Dev → Prop}
    (hp : (i, j) ∈ startEntries) (hrow : chanRow i j = some x) (hro : x.acc ≠ .ro) (hch : ch < s.dev.cfg.channels)
    (hacc : Accepted s.dev m (chIdx ch i) j v)
    (hentry : rowEntry s.dev.cfg c = some (m, idxIf (ch < s.dev.cfg.channels) (chIdx ch i), j, v))
    (hnew : rewritten c (seen m s.dev) = rewrite (idxIf (ch < s.dev.cfg.channels) (chIdx ch i)) j (seen m s.dev))
    (heff : ∀ d : Dev, eff d (effInst (0x3000 + i) ch j (ek (chIdx ch i) j) v d)) : WriteDoes c s m eff := by
  have hij : i < 0x40 ∧ j ≠ 0 := by
    simp only [startEntries, List.mem_cons, Prod.mk.injEq, List.not_mem_nil, or_false] at hp
    omega
  have hidx : idxIf (ch < s.dev.cfg.channels) (chIdx ch i) = chIdx ch i := by simp [idxIf, hch]
  rw [hidx] at hentry hnew
  refine writeDoes_of_accepted (exec_of_rowEntry hentry) hnew hacc ?_
  rw [odEffect_chIdx (d := rewrite (chIdx ch i) j (seen m s.dev)) hch (channel_of_accepted hp hacc) hij.1 hij.2 hrow hro]
  exact heff _

/-! ### die_revive (R262) -/

/-- What a revive of a die asks for: nothing of one that is not FAILED; its target's identification, if that or a training failed it; else
its reset. -/
theorem reviveDie_spec (ch k : Nat) (d : Dev) :
    let n := dieAt d.cfg ch k
    if (die d n).st ≠ .failed then reviveDie ch k d = d
    else if dieByte d ch 2 k ≠ 0 then
      chan (reviveDie ch k d) ch = { chan d ch with idTgts := (chan d ch).idTgts ++ [k / max 1 d.cfg.luns] } ∧
      OnlyChan d (reviveDie ch k d) ch
    else ∃ x, reviveDie ch k d = kick ch x ∧ die x n = { die d n with st := .reset, revive := true, rstDue := true } ∧ OnlyDie d x n := by
  intro n
  unfold reviveDie
  dsimp only
  split
  · rfl
  · split
    · exact ⟨chan_updChan_self .., onlyChan_updChan ..⟩
    · exact ⟨_, rfl, die_updDie_self .., onlyDie_updDie ..⟩

/-! ### id_rerun (R288, R293) -/

/-- A die as an identification of its channel finds it. -/
def underIdent (y : Die) : Die := { y with st := if y.st = .failed then .failed else .reset, rstDue := false }

theorem underIdent_idem (y : Die) : underIdent (underIdent y) = underIdent y := by
  unfold underIdent
  by_cases h : y.st = .failed <;> simp [h]

/-- The dies of a channel. -/
def identDies (c : Params) (ch : Nat) : List Nat := (List.range (diesPerCh c)).map (dieAt c ch)

theorem mem_identDies {c : Params} {ch n : Nat} : n ∈ identDies c ch ↔ ∃ k, k < diesPerCh c ∧ dieAt c ch k = n := by
  simp [identDies]

/-- An identification of a channel begins: its dies wait for it, and the channel serves nothing else. -/
theorem startIdent_eq (ch : Nat) (d : Dev) : startIdent ch d =
    updChan ch (fun c => { c with idTgts := List.range d.cfg.targets, identified := false, state := 3 })
      (eachDie (identDies d.cfg ch) underIdent d) := by
  unfold startIdent eachDie identDies
  rw [List.foldl_map]
  rfl

theorem die_startIdent (ch n : Nat) (d : Dev) :
    die (startIdent ch d) n = if n ∈ identDies d.cfg ch then underIdent (die d n) else die d n := by
  rw [startIdent_eq]
  exact die_eachDie underIdent_idem (identDies d.cfg ch) d n

theorem startIdent_frame (ch : Nat) (d : Dev) :
    startIdent ch d = { d with chans := (startIdent ch d).chans, dies := (startIdent ch d).dies } := by
  obtain ⟨t, ht⟩ := eachDie_spec (identDies d.cfg ch) underIdent d
  rw [startIdent_eq, ht]
  rfl

theorem chan_startIdent_self (ch : Nat) (d : Dev) : chan (startIdent ch d) ch =
    { chan d ch with idTgts := List.range d.cfg.targets, identified := false, state := 3 } := by
  rw [startIdent_eq, chan_updChan_self, chan_eachDie]

theorem chan_startIdent_ne {ch c : Nat} (d : Dev) (h : c ≠ ch) : chan (startIdent ch d) c = chan d c := by
  rw [startIdent_eq, chan_updChan_ne _ _ h, chan_eachDie]

theorem startIdent_spec (ch : Nat) (d : Dev) :
    let x := startIdent ch d
    chan x ch = { chan d ch with idTgts := List.range d.cfg.targets, identified := false, state := 3 } ∧
    (∀ c, c ≠ ch → chan x c = chan d c) ∧
    (∀ k, k < diesPerCh d.cfg → (die x (dieAt d.cfg ch k)).st = if (die d (dieAt d.cfg ch k)).st = .failed then .failed else .reset) ∧
    (∀ n, (∀ k, k < diesPerCh d.cfg → n ≠ dieAt d.cfg ch k) → die x n = die d n) ∧
    x = { d with chans := x.chans, dies := x.dies } := by
  refine ⟨chan_startIdent_self ch d, fun c => chan_startIdent_ne d, fun k hk => ?_, fun n hn => ?_, startIdent_frame ch d⟩
  · rw [die_startIdent, if_pos (mem_identDies.mpr ⟨k, hk, rfl⟩)]
    rfl
  · refine (die_startIdent ch n d).trans (if_neg fun hin => ?_)
    obtain ⟨k, hk, he⟩ := mem_identDies.mp hin
    exact hn k hk he.symm

/-! ### ts_arm and train_req (R296, R308) -/

theorem armSwap_of_free {ch : Nat} {d : Dev} (h : (chan d ch).armed = false) :
    ∃ x, armSwap ch d = kick ch x ∧ chan x ch = { chan d ch with armed := true } ∧ OnlyChan d x ch := by
  unfold armSwap
  rw [if_neg (by simp [h])]
  exact ⟨_, rfl, chan_updChan_self .., onlyChan_updChan ..⟩

theorem armSwap_of_armed {ch : Nat} {d : Dev} (h : (chan d ch).armed ≠ false) : armSwap ch d = d := by
  unfold armSwap
  exact if_pos (by simpa using h)

theorem trainReq_spec (ch v : Nat) (d : Dev) :
    ∃ x, trainReq ch v d = kick ch x ∧ OnlyChan d x ch ∧ chan x ch = { chan d ch with trainWait := (chan x ch).trainWait } ∧
      ∀ t, t ∈ (chan x ch).trainWait ↔
        t ∈ (chan d ch).trainWait ∨ t < d.cfg.targets ∧ bit v t = true ∧ trainable d ch = true := by
  obtain ⟨honly, hchan, hmem⟩ := trainsAsked_mask ch v (List.range d.cfg.targets) d
  exact ⟨_, rfl, honly, hchan, fun t => (hmem t).trans (by simp only [List.mem_range, and_assoc])⟩

/-! ### The statement -/

/-- Settles O25: each row by what its entry does. -/
theorem channelWrites : Obligations.ChannelWrites := by
  intro s m ch v hch
  refine ⟨fun hacc => ?revive, fun hacc => ?snap, fun hacc => ?ident, fun hacc => ?arm, fun hacc => ?train⟩
  case revive =>
    exact writeDoes_startEntry (by simp [startEntries]) rfl (by decide) hch hacc rfl rfl (fun d => reviveDie_spec ch v d)
  case snap =>
    refine writeDoes_startEntry (by simp [startEntries]) rfl (by decide) hch hacc rfl rfl (fun d => ?_)
    have heffect : effInst 0x3003 ch 5 (ek (chIdx ch 3) 5) v d =
      if v = 1 then updChan ch (fun c => { c with snap := buoySnap d ch }) d else d := rfl
    rw [heffect]
    by_cases hv : v = 1
    · rw [if_pos hv, if_pos hv]
      exact ⟨chan_updChan_self .., onlyChan_updChan ..⟩
    · rw [if_neg hv, if_neg hv]
  case ident =>
    refine writeDoes_startEntry (by simp [startEntries]) rfl (by decide) hch hacc rfl rfl (fun d => ?_)
    have heffect : effInst 0x3005 ch 7 (ek (chIdx ch 5) 7) v d = if v = 1 then startIdent ch d else d := rfl
    rw [heffect]
    by_cases hv : v = 1
    · rw [if_pos hv, if_pos hv]
      exact startIdent_spec ch d
    · rw [if_neg hv, if_neg hv]
  case arm =>
    refine writeDoes_startEntry (by simp [startEntries]) rfl (by decide) hch hacc rfl rfl (fun d => ?_)
    have heffect : effInst 0x300A ch 1 (ek (chIdx ch 0x0A) 1) v d = if v = 1 then armSwap ch d else d := rfl
    rw [heffect]
    by_cases hv : v = 1 ∧ (chan d ch).armed = false
    · rw [if_pos hv, if_pos hv.1]
      exact armSwap_of_free hv.2
    · rw [if_neg hv]
      split
      · next hone => exact armSwap_of_armed fun hfree => hv ⟨hone, hfree⟩
      · rfl
  case train =>
    exact writeDoes_startEntry (by simp [startEntries]) rfl (by decide) hch hacc rfl rfl (fun d => trainReq_spec ch v d)

end Sys2Proof.Machine
end

section
/-! SUPPORT. What ends a wait of a die or a channel (06_die_scheduling.md R253 to R265; 16_thermal.md R546, R547). -/

namespace Sys2Proof.Machine

/-! ### A die's wait ends, and its channel chooses again -/

/-- A row that changes a die, if the die waits for what the row brings, and lets a channel choose again. -/
theorem dieRow_spec {c : Instr} {s : State} {ch n : Nat} {p : Prop} [Decidable p] {f : Die → Die}
    (h : exec c s = .next { s with dev := if p then kick ch (updDie n f s.dev) else s.dev }) :
    (p → Completes c s (fun d' => ∃ x, d' = kick ch x ∧ die x n = f (die s.dev n) ∧ OnlyDie s.dev x n)) ∧
    (¬ p → Completes c s (fun d' => d' = s.dev)) :=
  ⟨fun hp => ⟨_, h, rfl, updDie n f s.dev, if_pos hp, die_updDie_self .., onlyDie_updDie ..⟩,
    fun hp => ⟨_, h, rfl, if_neg hp⟩⟩

/-- A counter of a block in which only dies changed before counts what the block held. -/
theorem counted_cnt_updDie (i j n : Nat) (f : Die → Die) (d : Dev) : Counted d (cnt i j (updDie n f d)) i j 1 :=
  counted_of_od_eq rfl rfl (cnt_spec i j (updDie n f d)).1

/-! ### R/B rises (R258) -/

/-- A busy die sees its R/B line rise. -/
def sawRise (y : Die) : Die := if dieBusy y then { y with statusDue := true, rbHigh := true } else y

/-- The block whose busy dies of a target have seen it. -/
def rbRisen (ch t : Nat) (d : Dev) : Dev := eachDie (tgtDies d.cfg ch t) sawRise d

theorem die_rbRisen {ch t l : Nat} {d : Dev} (hl : l < d.cfg.luns) : die (rbRisen ch t d) (dieNo ch t l) = sawRise (die d (dieNo ch t l)) :=
  (die_eachDie_of_nodup (nodup_tgtDies ..) sawRise d _).trans (if_pos (dieNo_mem_tgtDies.mpr hl))

theorem rbRisen_frame (ch t : Nat) (d : Dev) : rbRisen ch t d = { d with dies := (rbRisen ch t d).dies } := by
  obtain ⟨y, hy⟩ := eachDie_spec (tgtDies d.cfg ch t) sawRise d
  unfold rbRisen
  rw [hy]

theorem completes_rbRise {ch t : Nat} {s : State} {P : Dev → Prop} : Completes (.rbRise ch t) s P ↔
    P (if ch < s.dev.cfg.channels ∧ t < s.dev.cfg.targets ∧ od s.dev (chIdx ch 0) 4 = 0 then kick ch (rbRisen ch t s.dev) else s.dev) := by
  refine completes_run ?_
  unfold rbRisen eachDie tgtDies
  simp only [List.foldl_map]
  rfl

/-! ### A burst ends (R253) -/

/-- The bus is free again after a burst: its sequencer stops, the channel's scheduler is told, and its time is counted (R279). -/
def burstFreed (ch : Nat) (d : Dev) : Dev :=
  cntN (chIdx ch 4) 0x0F (d.up - (chan d ch).busT0)
    (sendVia (.seqr ch) (.buoy ch) .rsp 1 (updChan ch (fun c => { c with bus := none }) (seqStop ch d)))

theorem burstEnd_of_burst {ch : Nat} {b : Burst} {r : BurstResult} {d : Dev} (hbus : (chan d ch).bus = some b)
    (hb : ∀ k, b ≠ .train k) : burstEnd ch r d = kickAll (afterBurst (burstEffect ch b r (burstFreed ch d))) := by
  unfold burstEnd
  rw [hbus]
  cases b with
  | train k => exact absurd rfl (hb k)
  | _ => rfl

theorem burstEnd_of_training {ch k : Nat} {r : BurstResult} {d : Dev} (hbus : (chan d ch).bus = some (.train k)) :
    burstEnd ch r d = d := by
  unfold burstEnd
  rw [hbus]

theorem bus_burstFreed (ch : Nat) (d : Dev) : (chan (burstFreed ch d) ch).bus = none := by
  unfold burstFreed
  rw [chan_cntN, chan_sendVia, chan_updChan_self]

theorem entries_sendVia (a b : NUnit) (c : NClass) (n : Nat) (d : Dev) :
    (sendVia a b c n d).cfg = d.cfg ∧ (sendVia a b c n d).od = d.od := by
  obtain ⟨x, hx⟩ := sendVia_spec a b c n d
  rw [hx]
  exact ⟨rfl, rfl⟩

theorem counted_burstFreed (ch : Nat) (d : Dev) : Counted d (burstFreed ch d) (chIdx ch 4) 0x0F (d.up - (chan d ch).busT0) := by
  obtain ⟨hcfg, hod⟩ := entries_sendVia (.seqr ch) (.buoy ch) .rsp 1 (updChan ch (fun c => { c with bus := none }) (seqStop ch d))
  exact counted_of_od_eq hcfg (od_congr hcfg hod ..) (cntN_spec ..).1

section
variable {ch : Nat} {r : BurstResult} {s : State}

theorem exec_busBurstEnd_of_idle (h : (chan s.dev ch).bus = none) : exec (.busBurstEnd ch r) s = run id s := by
  have hexec : exec (.busBurstEnd ch r) s = execBusBurstEnd ch r s := rfl
  rw [hexec]
  unfold execBusBurstEnd run
  dsimp only
  rw [h]
  dsimp only
  rw [ite_self]
  rfl

/-- A burst that began at no entry of the dispatch table ends by its fault (R324, R330). -/
theorem exec_busBurstEnd_of_badStart {b : Burst} (hch : ch < s.dev.cfg.channels) (h : (chan s.dev ch).bus = some b)
    (hbad : (seq s.dev ch).badStart = true) : exec (.busBurstEnd ch r) s = run (mcFault ch 5 b) s := by
  have hexec : exec (.busBurstEnd ch r) s = execBusBurstEnd ch r s := rfl
  rw [hexec]
  unfold execBusBurstEnd run
  dsimp only
  rw [if_pos hch, h]
  dsimp only
  rw [if_pos hbad]

theorem exec_busBurstEnd_of_goodStart {b : Burst} (hch : ch < s.dev.cfg.channels) (h : (chan s.dev ch).bus = some b)
    (hgood : (seq s.dev ch).badStart = false) : exec (.busBurstEnd ch r) s = run (burstEnd ch r) s := by
  have hexec : exec (.busBurstEnd ch r) s = execBusBurstEnd ch r s := rfl
  rw [hexec]
  unfold execBusBurstEnd run
  dsimp only
  rw [if_pos hch, h]
  dsimp only
  rw [if_neg (by simp [hgood])]

end

/-! ### A suspend that is not confirmed, and a read that expires (R260) -/

theorem suspendTimeout_of_suspending {ch k : Nat} {d : Dev} (h : (die d (dieAt d.cfg ch k)).st = .suspending) :
    suspendTimeout ch k d = kick ch (cnt (chIdx ch 4) 4 (updDie (dieAt d.cfg ch k) (fun y => { y with
      st := .erase, start := y.suspAt, cur := y.prev, prev := none, resumeDue := true, suspReq := false,
      timeouts := y.timeouts + 1, lastOp := 2 }) d)) := by
  unfold suspendTimeout
  exact if_neg (not_not.mpr h)

theorem suspendTimeout_of_other {ch k : Nat} {d : Dev} (h : (die d (dieAt d.cfg ch k)).st ≠ .suspending) : suspendTimeout ch k d = d :=
  if_pos h

/-- A die whose operation has expired is to be sent its LUN reset. -/
def dieExpired (op : Nat) (y : Die) : Die := { y with
  st := .reset, rstDue := true, timeouts := y.timeouts + 1, lastOp := op, statusDue := false, outLeft := [], inLeft := [],
  cacheRdy := false, lvlSlot := none, trim := false, prevStatus := none }

theorem expire_eq (n op : Nat) (d : Dev) : expire n op d = endMulti n (cnt (chIdx (dieCh n) 4) 4 (updDie n (dieExpired op) d)) := rfl

theorem dieTimeout_of_read {ch k : Nat} {e : BEnt} {d : Dev} (hout : (die d (dieAt d.cfg ch k)).outLeft = [])
    (hst : (die d (dieAt d.cfg ch k)).st = .read) (he : (die d (dieAt d.cfg ch k)).cur.bind (entOf (die d (dieAt d.cfg ch k))) = some e) :
    dieTimeout ch k d = kickAll (afterBurst (readExpired (dieAt d.cfg ch k) e (expire (dieAt d.cfg ch k) e.op d))) := by
  unfold dieTimeout readTimeout
  simp only [hout, hst, he]
  simp

/-- Data-outs that are still to come have no limit, nor has a die that does nothing. -/
theorem dieTimeout_of_none {ch k : Nat} {d : Dev} (h : (die d (dieAt d.cfg ch k)).outLeft ≠ [] ∨
    (die d (dieAt d.cfg ch k)).st = .failed ∨ (die d (dieAt d.cfg ch k)).st = .off) : dieTimeout ch k d = d := by
  unfold dieTimeout
  dsimp only
  rcases h with h | h | h
  · exact if_pos (by simpa using h)
  · rw [h]
    exact ite_self _
  · rw [h]
    exact ite_self _

/-! ### The statement -/

/-- Settles O47: each row by whether the die or the channel waits for what it brings. -/
theorem dieWaits : Obligations.DieWaits := by
  intro s ch k n hch hk hn moves none' x
  subst hn
  have hpoll := dieRow_spec (c := .statusPoll ch k) (s := s) (ch := ch) (n := dieAt s.dev.cfg ch k)
    (p := ch < s.dev.cfg.channels ∧ k < diesPerCh s.dev.cfg ∧ dieBusy x ∧ polled s.dev (dieAt s.dev.cfg ch k))
    (f := fun y => { y with statusDue := true }) rfl
  have hgap := dieRow_spec (c := .suspendGapElapsed ch k) (s := s) (ch := ch) (n := dieAt s.dev.cfg ch k)
    (p := ch < s.dev.cfg.channels ∧ k < diesPerCh s.dev.cfg ∧ x.st = .erase) (f := fun y => { y with gapOk := true }) rfl
  have hhold := dieRow_spec (c := .suspendHoldExpired ch k) (s := s) (ch := ch) (n := dieAt s.dev.cfg ch k)
    (p := ch < s.dev.cfg.channels ∧ k < diesPerCh s.dev.cfg ∧ x.st = .suspended) (f := fun y => { y with holdExp := true }) rfl
  have hspacing := dieRow_spec (c := .throttleSpacing (dieAt s.dev.cfg ch k)) (s := s) (ch := dieCh (dieAt s.dev.cfg ch k))
    (n := dieAt s.dev.cfg ch k) (p := dieInCfg s.dev.cfg (dieAt s.dev.cfg ch k) ∧ dieLevel s.dev (dieAt s.dev.cfg ch k) = 4)
    (f := fun y => { y with released := true }) rfl
  refine ⟨fun hb hp => ?poll, fun h => ?noPoll, fun h => ?gap, fun h => ?noGap, fun h => ?hold, fun h => ?noHold, fun h => ?limit,
    fun h => ?noLimit, fun e hid hout hst he => ?read, fun h => ?noRead, fun t ht h => ?rise, fun t h => ?noRise,
    fun hcfg h => ?spacing, fun h => ?noSpacing, fun hcfg h hpol hq => ?cold, fun h => ?noCold, ?duty, fun r h => ?noBurst,
    fun r k' h hgood => ?training, fun r b h hb hgood => ?burst, fun r b h hbad => ?badStart⟩
  case poll => exact hpoll.1 ⟨hch, hk, hb, hp⟩
  case noPoll =>
    refine hpoll.2 fun ⟨_, _, hb, hp⟩ => ?_
    rcases h with h | h
    · exact absurd (hb.symm.trans h) (by decide)
    · exact absurd (hp.symm.trans h) (by decide)
  case gap => exact hgap.1 ⟨hch, hk, h⟩
  case noGap => exact hgap.2 fun hall => h hall.2.2
  case hold => exact hhold.1 ⟨hch, hk, h⟩
  case noHold => exact hhold.2 fun hall => h hall.2.2
  case limit =>
    refine (completes_run rfl).mpr ?_
    rw [if_pos ⟨hch, hk⟩, suspendTimeout_of_suspending h]
    refine ⟨_, rfl, counted_cnt_updDie .., (die_cntN ..).trans (die_updDie_self ..), fun j hj => (die_cntN ..).trans (die_updDie_ne _ _ hj)⟩
  case noLimit =>
    refine (completes_run rfl).mpr ?_
    rw [suspendTimeout_of_other h, ite_self]
  case read =>
    refine (completes_run rfl).mpr ?_
    rw [if_pos ⟨hch, hk, by simp [hid]⟩, dieTimeout_of_read hout hst he, expire_eq]
    have hdie := (die_cntN (chIdx (dieCh (dieAt s.dev.cfg ch k)) 4) 4 1 (dieAt s.dev.cfg ch k) _).trans
      (die_updDie_self (dieAt s.dev.cfg ch k) (dieExpired e.op) s.dev)
    exact ⟨_, _, rfl, rfl, counted_cnt_updDie .., congrArg Die.st hdie, congrArg Die.timeouts hdie,
      fun j hj => (die_cntN ..).trans (die_updDie_ne _ _ hj)⟩
  case noRead =>
    refine (completes_run rfl).mpr ?_
    rcases h with h | h
    · exact if_neg fun hall => h (by simpa using hall.2.2)
    · rw [dieTimeout_of_none h, ite_self]
  case rise =>
    rw [completes_rbRise, if_pos ⟨hch, ht, h⟩]
    exact ⟨_, rfl, fun l hl => die_rbRisen hl, rbRisen_frame ..⟩
  case noRise => exact completes_rbRise.mpr (if_neg fun hall => h hall.2.2)
  case spacing => exact hspacing.1 ⟨hcfg, h⟩
  case noSpacing => exact hspacing.2 fun hall => h hall.2
  case cold =>
    refine (completes_run rfl).mpr ?_
    rw [if_pos ⟨hcfg, h, hpol, hq⟩]
    exact ⟨_, rfl, (die_cntN ..).trans (die_updDie_self ..), counted_cnt_updDie ..⟩
  case noCold => exact (completes_run rfl).mpr (if_neg fun hall => h hall.2.1)
  case duty =>
    refine (completes_run rfl).mpr ?_
    rw [if_pos hch]
    exact ⟨_, rfl, chan_updChan_self .., onlyChan_updChan ..⟩
  case noBurst => exact (completes_run (exec_busBurstEnd_of_idle h)).mpr rfl
  case training => exact (completes_run (exec_busBurstEnd_of_goodStart hch h hgood)).mpr (burstEnd_of_training h)
  case burst =>
    exact (completes_run (exec_busBurstEnd_of_goodStart hch h hgood)).mpr
      ⟨_, burstEnd_of_burst h hb, bus_burstFreed .., fun _ => counted_burstFreed ..⟩
  case badStart => exact (completes_run (exec_busBurstEnd_of_badStart hch h hbad)).mpr rfl

end Sys2Proof.Machine
end

section
/-! SUPPORT. A training's end (07_nand_interface.md R304 to R310): the bus is free again, what the result counts, the record that is kept,
and the dies that waited for it. -/

namespace Sys2Proof.Machine

/-! ### Records beside entries -/

/-- Two blocks with one dictionary agree on every entry. -/
theorem keeps_of_od {d x : Dev} (hcfg : x.cfg = d.cfg) (hod : x.od = d.od) : KeepsEntries d x [] := fun k _ => by
  unfold getK
  rw [hcfg, hod]

theorem counted_of_od_kept {d x y : Dev} {i j n : Nat} (h : Counted d x i j n) (hcfg : y.cfg = x.cfg) (hod : y.od = x.od) :
    Counted d y i j n := counted_of_keeps h (keeps_of_od hcfg hod) (by simp)

/-! ### The bus (R253, R279) -/

section
variable (ch : Nat) (d : Dev)

theorem bus_trainFrees : (chan (trainFrees ch d) ch).bus = none := by
  unfold trainFrees
  rw [chan_cntN, chan_updChan_self]

theorem chan_trainFrees_ne {c : Nat} (h : c ≠ ch) : chan (trainFrees ch d) c = chan d c := by
  unfold trainFrees
  rw [chan_cntN, chan_updChan_ne _ _ h]
  rfl

theorem die_trainFrees (n : Nat) : die (trainFrees ch d) n = die d n := die_cntN ..

theorem cfg_trainFrees : (trainFrees ch d).cfg = d.cfg := cntN_cfg ..

end

/-! ### Trainings and poor results are counted (R307, R316) -/

/-- The counters of a channel's trainings. -/
abbrev trainIdx (ch : Nat) : Nat := 0x300E + 0x40 * ch

/-- A training is counted, and a result other than PASS once more. -/
def trainCounted (ch j : Nat) (d : Dev) : Dev := if j = 1 then cnt (trainIdx ch) 2 d else cnt (trainIdx ch) 5 (cnt (trainIdx ch) 2 d)

theorem trainCounted_only (ch j : Nat) (d : Dev) : OnlyEntries d (trainCounted ch j d) [ek (trainIdx ch) 2, ek (trainIdx ch) 5] := by
  have hfirst : OnlyEntries d (cnt (trainIdx ch) 2 d) [ek (trainIdx ch) 2, ek (trainIdx ch) 5] := (cnt_spec _ _ d).2.mono (by simp)
  unfold trainCounted
  split
  · exact hfirst
  · exact onlyEntries_cntN hfirst (by simp)

theorem counted_trainCounted (ch j : Nat) (d : Dev) : Counted d (trainCounted ch j d) (trainIdx ch) 2 1 := by
  have hfirst := (cnt_spec (trainIdx ch) 2 d).1
  unfold trainCounted
  split
  · exact hfirst
  · exact counted_of_keeps hfirst (cnt_spec (trainIdx ch) 5 _).2.1 (by simp [ek])

theorem counted_trainCounted_poor {ch j : Nat} (d : Dev) (hj : j ≠ 1) : Counted d (trainCounted ch j d) (trainIdx ch) 5 1 := by
  unfold trainCounted
  rw [if_neg hj]
  exact counted_of_od_eq (cnt_cfg ..) (od_cntN_sub_ne (by decide)) (cnt_spec ..).1

theorem chan_trainCounted (ch j c : Nat) (d : Dev) : chan (trainCounted ch j d) c = chan d c :=
  chan_congr (by rw [(trainCounted_only ch j d).2]) c

theorem die_trainCounted (ch j n : Nat) (d : Dev) : die (trainCounted ch j d) n = die d n :=
  die_congr (by rw [(trainCounted_only ch j d).2]) n

/-! ### Temperatures do not depend on a channel's entries (R536 to R539) -/

section
variable {d x : Dev} {keys : List Nat} (h : OnlyEntries d x keys) (hk : ∀ k ∈ keys, 0x300000 ≤ k)
include h hk

theorem od_thermal {i j : Nat} (hi : i < 0x3000) (hj : j < 256) : od x i j = od d i j := by
  refine h.1 _ fun hin => ?_
  have := hk _ hin
  unfold ek at this
  omega

theorem tmu_of_channelEntries : tmu x = tmu d := by
  have htherm : x.therm = d.therm := by rw [h.2]
  have hbytes : ∀ i j, getB x i j = getB d i j := fun i j => by
    rw [h.2]
    rfl
  have hnums : (List.range 7).map (fun i => od x 0x2804 (i + 1)) = (List.range 7).map (fun i => od d 0x2804 (i + 1)) :=
    List.map_congr_left fun i hi => od_thermal h hk (by decide) (by have := List.mem_range.mp hi; omega)
  unfold tmu tmuTabs
  rw [htherm, hnums, hbytes, hbytes, hbytes]

theorem tAmb_of_channelEntries : tAmb x = tAmb d := by
  have hsensor : ∀ i, sensor x i = sensor d i := fun i => by
    rw [h.2]
    rfl
  have hcfg : x.cfg = d.cfg := by rw [h.2]
  unfold tAmb sensorFresh odI
  simp only [od_thermal h hk (show 0x2800 < 0x3000 by decide) (show 3 < 256 by decide),
    od_thermal h hk (show 0x2800 < 0x3000 by decide) (show 4 < 256 by decide), hsensor, hcfg]

theorem dieC_of_channelEntries (n : Nat) : dieC x n = dieC d n := by
  have hcfg : x.cfg = d.cfg := by rw [h.2]
  have hnode : ∀ i, node x i = node d i := fun i => by
    rw [h.2]
    rfl
  unfold dieC nodeT nodeUsed dieNode
  rw [tmu_of_channelEntries h hk, tAmb_of_channelEntries h hk, hnode, hcfg]

theorem newRec_of_channelEntries (ch t st : Nat) (r : TrainResult) : newRec x ch t st r = newRec d ch t st r := by
  have hcfg : x.cfg = d.cfg := by rw [h.2]
  have hts : nowS x = nowS d := by
    unfold nowS
    rw [h.2]
  unfold newRec tgtTemp
  simp only [dieC_of_channelEntries h hk, hts, hcfg]

end

theorem newRec_trainCounted (ch t j st : Nat) (r : TrainResult) (d : Dev) :
    newRec (trainCounted ch j d) ch t st r = newRec d ch t st r :=
  newRec_of_channelEntries (trainCounted_only ch j d) (by simp [ek, trainIdx]; omega) ch t st r

/-! ### Records (R310) -/

theorem trRec_putTrRec (ch t : Nat) (b : Bytes) (d : Dev) : trRec (putTrRec ch t b d) ch t = b := by
  unfold trRec putTrRec
  rw [chan_updChan_self]
  exact tabGet_tabSet_self ..

theorem trRec_congr {d x : Dev} {ch : Nat} (h : (chan x ch).trains = (chan d ch).trains) (t : Nat) : trRec x ch t = trRec d ch t := by
  unfold trRec
  rw [h]

/-- The count of a target's data-outs starts again. -/
def doutCleared (ch t : Nat) (d : Dev) : Dev := updChan ch (fun c => { c with doutCnt := tabSet 0 c.doutCnt t 0 }) d

theorem doutCnt_doutCleared (ch t : Nat) (d : Dev) : tabGet 0 (chan (doutCleared ch t d) ch).doutCnt t = 0 := by
  unfold doutCleared
  rw [chan_updChan_self]
  exact tabGet_tabSet_self 0 _ t 0

theorem trRec_doutCleared (ch t u : Nat) (d : Dev) : trRec (doutCleared ch t d) ch u = trRec d ch u :=
  trRec_congr (by unfold doutCleared; rw [chan_updChan_self]) u

/-! ### Dies that waited for the training (R262, R291) -/

/-- A die whose target is trained again. -/
def trained (y : Die) : Die :=
  if y.waitTrain then { y with st := .idle, waitTrain := false, revive := false, timeouts := 0 } else y

/-- One die of a target whose training passed. -/
def passDie (n : Nat) (d : Dev) : Dev :=
  if (die d n).waitTrain then
    updDie n (fun y => { y with st := .idle, waitTrain := false, revive := false, timeouts := 0 }) (markFailed n false d)
  else d

theorem die_passDie_self (n : Nat) (d : Dev) : die (passDie n d) n = trained (die d n) := by
  unfold passDie trained
  split
  · rw [die_updDie_self]
    rfl
  · rfl

theorem die_passDie_ne {n i : Nat} (d : Dev) (h : i ≠ n) : die (passDie n d) i = die d i := by
  unfold passDie
  split
  · rw [die_updDie_ne _ _ h]
    rfl
  · rfl

theorem trainPassed_eq (ch t : Nat) (d : Dev) : trainPassed ch t d = (tgtDies d.cfg ch t).foldl (fun x n => passDie n x) d := by
  unfold trainPassed tgtDies
  rw [List.foldl_map]
  rfl

theorem die_trainPassed {ch t l : Nat} {d : Dev} (hl : l < d.cfg.luns) :
    die (trainPassed ch t d) (dieNo ch t l) = trained (die d (dieNo ch t l)) := by
  rw [trainPassed_eq, get_foldl_update (update := passDie) die_passDie_self (fun _ _ d hj => die_passDie_ne d hj) _ (nodup_tgtDies ..)]
  exact if_pos (dieNo_mem_tgtDies.mpr hl)

/-- Parameters, numbers of the dictionary and channels stay. -/
theorem trainPassed_kept (ch t : Nat) (d : Dev) :
    (trainPassed ch t d).cfg = d.cfg ∧ (trainPassed ch t d).od = d.od ∧ (trainPassed ch t d).chans = d.chans := by
  have h := foldl_keeps (fun x => (x.cfg, x.od, x.chans)) (f := fun x n => passDie n x)
    (fun x n => by unfold passDie; split <;> rfl) (tgtDies d.cfg ch t) d
  rw [← trainPassed_eq] at h
  simpa using h

/-! ### A training that is not failed ends -/

/-- The block that keeps a training's record. -/
def trainKept (ch t j : Nat) (r : TrainResult) (d : Dev) : Dev :=
  doutCleared ch t (trainPassed ch t (putTrRec ch t (newRec d ch t j r) d))

section
variable (ch t j : Nat) (r : TrainResult) (d : Dev)

theorem trainKept_entries : (trainKept ch t j r d).cfg = d.cfg ∧ (trainKept ch t j r d).od = d.od := by
  obtain ⟨hcfg, hod, -⟩ := trainPassed_kept ch t (putTrRec ch t (newRec d ch t j r) d)
  exact ⟨hcfg, hod⟩

theorem trRec_trainKept : trRec (trainKept ch t j r d) ch t = newRec d ch t j r := by
  obtain ⟨-, -, hchans⟩ := trainPassed_kept ch t (putTrRec ch t (newRec d ch t j r) d)
  unfold trainKept
  rw [trRec_doutCleared, trRec_congr (congrArg Chan.trains (chan_congr hchans ch)), trRec_putTrRec]

theorem chan_trainKept_ne {c : Nat} (h : c ≠ ch) : chan (trainKept ch t j r d) c = chan d c := by
  obtain ⟨-, -, hchans⟩ := trainPassed_kept ch t (putTrRec ch t (newRec d ch t j r) d)
  unfold trainKept doutCleared
  rw [chan_updChan_ne _ _ h, chan_congr hchans]
  exact chan_updChan_ne _ _ h

theorem die_trainKept {l : Nat} (hl : l < d.cfg.luns) : die (trainKept ch t j r d) (dieNo ch t l) = trained (die d (dieNo ch t l)) :=
  die_trainPassed (d := putTrRec ch t (newRec d ch t j r) d) hl

end

/-- What a training that is not failed leaves before its entry goes. -/
theorem trainKept_spec (ch t j : Nat) (r : TrainResult) (d : Dev) :
    let x := trainFrees ch d
    let y := trainKept ch t j r (trainCounted ch j x)
    Counted x y (trainIdx ch) 2 1 ∧ (j ≠ 1 → Counted x y (trainIdx ch) 5 1) ∧ trRec y ch t = newRec x ch t j r ∧
    tabGet 0 (chan y ch).doutCnt t = 0 ∧ (∀ c, c ≠ ch → chan y c = chan x c) ∧
    ∀ l, l < d.cfg.luns → die y (dieNo ch t l) = trained (die d (dieNo ch t l)) := by
  intro x y
  obtain ⟨hcfg, hod⟩ := trainKept_entries ch t j r (trainCounted ch j x)
  have hluns : (trainCounted ch j x).cfg.luns = d.cfg.luns := by
    rw [(trainCounted_only ch j x).2]
    exact congrArg Params.luns (cfg_trainFrees ch d)
  refine ⟨counted_of_od_kept (counted_trainCounted ch j x) hcfg hod, fun hj => counted_of_od_kept (counted_trainCounted_poor x hj) hcfg hod,
    (trRec_trainKept ..).trans (newRec_trainCounted ..), doutCnt_doutCleared ..,
    fun c hc => (chan_trainKept_ne _ _ _ _ _ hc).trans (chan_trainCounted ..), fun l hl => ?_⟩
  rw [die_trainKept ch t j r _ (hl.trans_eq hluns.symm), die_trainCounted, die_trainFrees]

/-! ### A training is repeated -/

/-- The block that notes the repeat of a training and makes its entry due again. -/
def trainAgain (ch t n q : Nat) (d : Dev) : Dev :=
  updEnt n q (fun y => { y with est := 0 }) (updChan ch (fun c => { c with trainTry := c.trainTry ++ [t] }) d)

section
variable (ch t n q : Nat) (d : Dev)

theorem trainTry_trainAgain : (chan (trainAgain ch t n q d) ch).trainTry = (chan d ch).trainTry ++ [t] := by
  have hdies : chan (trainAgain ch t n q d) ch = chan (updChan ch (fun c => { c with trainTry := c.trainTry ++ [t] }) d) ch := rfl
  rw [hdies, chan_updChan_self]

theorem die_trainAgain : die (trainAgain ch t n q d) n =
    { die d n with q := updWhere (fun z => z.qseq == q) (fun z => { z with est := 0 }) (die d n).q } := by
  unfold trainAgain updEnt
  rw [die_updDie_self]
  rfl

theorem trainAgain_entries : (trainAgain ch t n q d).cfg = d.cfg ∧ (trainAgain ch t n q d).od = d.od := ⟨rfl, rfl⟩

/-- What a training that is repeated leaves. -/
theorem trainAgain_spec :
    let x := trainFrees ch d
    let y := trainAgain ch t n q (trainCounted ch 3 x)
    (chan y ch).trainTry = (chan x ch).trainTry ++ [t] ∧ Counted x y (trainIdx ch) 2 1 ∧ Counted x y (trainIdx ch) 5 1 ∧
    die y n = { die d n with q := updWhere (fun z => z.qseq == q) (fun z => { z with est := 0 }) (die d n).q } := by
  intro x y
  obtain ⟨hcfg, hod⟩ := trainAgain_entries ch t n q (trainCounted ch 3 x)
  have hpoor : Counted x (trainCounted ch 3 x) (trainIdx ch) 5 1 := counted_trainCounted_poor x (by decide)
  refine ⟨?_, counted_of_od_kept (counted_trainCounted ch 3 x) hcfg hod, counted_of_od_kept hpoor hcfg hod, ?_⟩
  · rw [trainTry_trainAgain, chan_trainCounted]
  · rw [die_trainAgain, die_trainCounted, die_trainFrees]

end

/-! ### training by its cases (R307) -/

section
variable {ch t n : Nat} {e : BEnt} {r : TrainResult} {d : Dev}

theorem training_of_none (h : trainEnt d ch t = none ∨ trainRuns d ch t = false) : training ch t r d = d := by
  unfold training
  rcases h with h | h
  · rw [h]
  · cases trainEnt d ch t with
    | none => rfl
    | some p => exact if_pos (by simp [h])

theorem training_of_kept (hent : trainEnt d ch t = some (n, e)) (hrun : trainRuns d ch t = true)
    (hj : trainJudge (trainFrees ch d) ch r ≠ 3) : training ch t r d = trainEnd ch t n e.qseq
      (trainKept ch t (trainJudge (trainFrees ch d) ch r) r
        (trainCounted ch (trainJudge (trainFrees ch d) ch r) (trainFrees ch d))) := by
  unfold training
  rw [hent]
  dsimp only
  rw [if_neg (by simp [hrun]), if_pos hj]
  rfl

theorem training_of_repeat (hent : trainEnt d ch t = some (n, e)) (hrun : trainRuns d ch t = true)
    (hj : trainJudge (trainFrees ch d) ch r = 3) (htry : t ∉ (chan (trainFrees ch d) ch).trainTry) :
    training ch t r d = kick ch (trainAgain ch t n e.qseq (trainCounted ch 3 (trainFrees ch d))) := by
  have hcounted : ¬ (chan (trainCounted ch 3 (trainFrees ch d)) ch).trainTry.contains t := by
    rw [chan_trainCounted]
    simpa using htry
  unfold training
  rw [hent]
  dsimp only
  rw [hj, if_neg (by simp [hrun]), if_neg (by simp)]
  exact if_pos hcounted

theorem training_of_failed (hent : trainEnt d ch t = some (n, e)) (hrun : trainRuns d ch t = true)
    (hj : trainJudge (trainFrees ch d) ch r = 3) (htry : t ∈ (chan (trainFrees ch d) ch).trainTry) :
    let y := putTrRec ch t (patchBytes (trRec (trainCounted ch 3 (trainFrees ch d)) ch t) 0 [3]) (trainCounted ch 3 (trainFrees ch d))
    training ch t r d = trainEnd ch t n e.qseq (((List.range d.cfg.luns).filter (fun l => idPresent y (dieNo ch t l))).foldl
      (fun z l => trainFailed (dieNo ch t l) z) (fault 1 4 (domCh ch 1) (dieNo ch t 0) (eyeOf r) y)) := by
  have hcounted : ¬ ¬ (chan (trainCounted ch 3 (trainFrees ch d)) ch).trainTry.contains t := by
    rw [chan_trainCounted]
    simpa using htry
  unfold training
  rw [hent]
  dsimp only
  rw [hj, if_neg (by simp [hrun]), if_neg (by simp)]
  exact if_neg hcounted

end

end Sys2Proof.Machine
end

section
/-! SUPPORT. Retraining by age and margin, and the tracking of drift (07_nand_interface.md R307, R308, R312); the statement on trainings. -/

namespace Sys2Proof.Machine

/-! ### A target is asked to be trained (R307, R308) -/

theorem wantTrain_of_fixed {ch t : Nat} {d : Dev} (h : trainable d ch = false) : wantTrain ch t d = d := by
  unfold wantTrain
  exact if_pos (by simp [h])

theorem trainWait_wantTrain {ch t : Nat} {d : Dev} (h : trainable d ch = true) : t ∈ (chan (wantTrain ch t d) ch).trainWait := by
  obtain ⟨-, -, hmem⟩ := trainsAsked_wantTrain ch t d
  exact (hmem t).mpr (.inr ⟨rfl, h⟩)

theorem kick_wantTrain_spec (ch t : Nat) (d : Dev) : ∃ y, kick ch (wantTrain ch t d) = kick ch y ∧ OnlyChan d y ch ∧
    (trainable d ch = true → t ∈ (chan y ch).trainWait) ∧ (trainable d ch = false → y = d) :=
  ⟨_, rfl, (trainsAsked_wantTrain ch t d).1, trainWait_wantTrain, wantTrain_of_fixed⟩

theorem trRec_wantTrain (ch t u : Nat) (d : Dev) : trRec (wantTrain ch t d) ch u = trRec d ch u := by
  obtain ⟨-, hchan, -⟩ := trainsAsked_wantTrain ch t d
  exact trRec_congr (by rw [hchan]) u

/-! ### driftTrack by its cases (R312) -/

/-- The drift that a record notes. -/
def driftOf (b : Bytes) : Nat := (sext (leAt b 45 1) 8).natAbs

section
variable {ch t : Nat} {c : Int} {d : Dev}

/-- A target that has not been trained, or has not sent 64 data-outs since the last step, is left alone. -/
theorem driftTrack_of_few (h : trainState d ch t = 0 ∨ tabGet 0 (chan d ch).doutCnt t < 64) : driftTrack ch t c d = d := by
  unfold driftTrack
  exact if_pos h

section
variable (hstate : trainState d ch t ≠ 0) (hfull : 64 ≤ tabGet 0 (chan d ch).doutCnt t)
include hstate hfull

theorem driftTrack_of_still (h : c.natAbs ≤ 1 ∨ od d (chIdx ch 0x0B) 5 ≤ driftOf (trRec d ch t)) :
    driftTrack ch t c d = doutCleared ch t d := by
  unfold driftTrack
  dsimp only
  rw [if_neg (by omega)]
  exact if_pos h

section
variable (hfar : 1 < c.natAbs) (hroom : driftOf (trRec d ch t) < od d (chIdx ch 0x0B) 5)
include hfar hroom

theorem driftTrack_of_moved (h : driftOf (driftRec (trRec d ch t) (decide (0 < c))) < od d (chIdx ch 0x0B) 5) :
    driftTrack ch t c d = putTrRec ch t (driftRec (trRec d ch t) (decide (0 < c))) (doutCleared ch t d) := by
  unfold driftOf at *
  unfold driftTrack
  dsimp only
  rw [if_neg (by omega), if_neg (by omega), if_neg (by omega)]
  rfl

theorem driftTrack_of_limit (h : od d (chIdx ch 0x0B) 5 ≤ driftOf (driftRec (trRec d ch t) (decide (0 < c)))) :
    driftTrack ch t c d = kick ch (wantTrain ch t (cnt (trainIdx ch) 3
      (putTrRec ch t (driftRec (trRec d ch t) (decide (0 < c))) (doutCleared ch t d)))) := by
  unfold driftOf at *
  unfold driftTrack
  dsimp only
  rw [if_neg (by omega), if_neg (by omega), if_pos h]
  rfl

end
end
end

/-! ### What a step of tracking leaves -/

section
variable (ch t : Nat) (b : Bytes) (d : Dev)

theorem onlyChan_moved : OnlyChan d (putTrRec ch t b (doutCleared ch t d)) ch :=
  (onlyChan_updChan ..).trans (onlyChan_updChan ..)

theorem doutCnt_moved : tabGet 0 (chan (putTrRec ch t b (doutCleared ch t d)) ch).doutCnt t = 0 := by
  unfold putTrRec
  rw [chan_updChan_self]
  exact doutCnt_doutCleared ch t d

/-- At the limit the new record is kept, the retrain is counted and asked for. -/
theorem limit_spec : ∃ y, kick ch (wantTrain ch t (cnt (trainIdx ch) 3 (putTrRec ch t b (doutCleared ch t d)))) = kick ch y ∧
    trRec y ch t = b ∧ Counted d y (trainIdx ch) 3 1 ∧ (trainable d ch = true → t ∈ (chan y ch).trainWait) := by
  have hmoved := onlyChan_moved ch t b d
  generalize hx : putTrRec ch t b (doutCleared ch t d) = x at hmoved
  have hrec : trRec x ch t = b := by
    rw [← hx]
    exact trRec_putTrRec ..
  have hcounted : Counted d (cnt (trainIdx ch) 3 x) (trainIdx ch) 3 1 :=
    counted_of_od_eq (by rw [hmoved.2]) (by rw [hmoved.2]; rfl) (cnt_spec ..).1
  obtain ⟨hwant, -, -⟩ := trainsAsked_wantTrain ch t (cnt (trainIdx ch) 3 x)
  refine ⟨_, rfl, ?_, counted_of_od_kept hcounted (by rw [hwant.2]) (by rw [hwant.2]), fun htrain => trainWait_wantTrain ?_⟩
  · rw [trRec_wantTrain, ← hrec]
    exact trRec_congr (by rw [cnt, chan_cntN]) t
  · have htiming : od (cnt (trainIdx ch) 3 x) (0x3009 + 0x40 * ch) 1 = od x (0x3009 + 0x40 * ch) 1 :=
      od_cntN_ne _ _ (by unfold ek trainIdx; omega)
    rw [← htrain, ← trainable_of_onlyChan hmoved]
    unfold trainable
    rw [htiming]

end

/-! ### The statement -/

/-- Settles O50: a training by its judgement and by whether it is the target's second, a retrain by what asks for it, a step of tracking
by the drift that it meets. (The name `training` itself is the model's, for what a training's end does.) -/
theorem Settled.training : Obligations.Training := by
  intro s ch t hch h32 ht
  refine ⟨fun r h => ?none, ?ends, fun c h => ?retrain, fun h => ?noAge, fun h => ?noMargin, fun c h => ?few, ?tracks⟩
  case none =>
    refine (completes_run rfl).mpr ?_
    rw [training_of_none h, ite_self]
  case ends =>
    intro r n e hent hrun x j
    refine ⟨⟨bus_trainFrees ch s.dev, fun c hc => chan_trainFrees_ne ch s.dev hc⟩, fun hj => ?kept, fun hj htry => ?again,
      fun hj htry => ?failed⟩
    case kept =>
      refine (completes_run rfl).mpr ?_
      rw [if_pos ⟨hch, ht⟩, training_of_kept hent hrun hj]
      exact ⟨_, rfl, trainKept_spec ch t j r s.dev⟩
    case again =>
      refine (completes_run rfl).mpr ?_
      rw [if_pos ⟨hch, ht⟩, training_of_repeat hent hrun hj htry]
      exact ⟨_, rfl, trainAgain_spec ch t n e.qseq s.dev⟩
    case failed =>
      refine (completes_run rfl).mpr ?_
      rw [if_pos ⟨hch, ht⟩, training_of_failed hent hrun hj htry]
      refine ⟨_, rfl, (trRec_putTrRec ..).trans ?_, counted_of_od_kept (counted_trainCounted ch 3 x) rfl rfl⟩
      rw [trRec_congr (congrArg Chan.trains (chan_trainCounted ..))]
  case retrain =>
    rcases h with ⟨rfl, hage, hstate⟩ | ⟨rfl, hstate⟩
    · refine (completes_run rfl).mpr ?_
      rw [if_pos ⟨hch, ht, hage, hstate⟩]
      exact kick_wantTrain_spec ..
    · refine (completes_run rfl).mpr ?_
      rw [if_pos ⟨hch, ht, hstate⟩]
      exact kick_wantTrain_spec ..
  case noAge =>
    refine (completes_run rfl).mpr (if_neg fun ⟨_, _, hage, hstate⟩ => ?_)
    exact h.elim hage hstate
  case noMargin => exact (completes_run rfl).mpr (if_neg fun hall => h hall.2.2)
  case few =>
    refine (completes_run rfl).mpr ?_
    rw [driftTrack_of_few h, ite_self]
  case tracks =>
    intro c hstate hfull drift lim b b1
    refine ⟨fun h => ?still, fun hfar hroom h => ?moved, fun hfar hroom h => ?limit⟩
    case still =>
      refine (completes_run rfl).mpr ?_
      rw [if_pos ⟨hch, ht⟩, driftTrack_of_still hstate hfull h]
      exact ⟨doutCnt_doutCleared .., trRec_doutCleared .., onlyChan_updChan ..⟩
    case moved =>
      refine (completes_run rfl).mpr ?_
      rw [if_pos ⟨hch, ht⟩, driftTrack_of_moved hstate hfull hfar hroom h]
      exact ⟨doutCnt_moved .., trRec_putTrRec .., onlyChan_moved ..⟩
    case limit =>
      refine (completes_run rfl).mpr ?_
      rw [if_pos ⟨hch, ht⟩, driftTrack_of_limit hstate hfull hfar hroom h]
      exact limit_spec ..

end Sys2Proof.Machine
end

section
/-! SUPPORT. The reference geometry (07_nand_interface.md R289) stays: it is set where a first round ends and where a page is judged, and
nothing that a failed die or a channel that goes on can call touches it. One equation for each function, here those of the entries, the
faults, the buffer, the channels and the bands. -/

namespace Sys2Proof.Machine

/-! ### Branches and folds -/

@[simp] theorem geom_ite (c : Prop) [Decidable c] (a b : Dev) : (if c then a else b).geom = if c then a.geom else b.geom := apply_ite ..

@[simp] theorem geom_foldl {α : Type} {f : Dev → α → Dev} (hf : ∀ x a, (f x a).geom = x.geom) (l : List α) (d : Dev) :
    (l.foldl f d).geom = d.geom := foldl_keeps Dev.geom hf l d

theorem foldl_pair_geom {α β : Type} {f : β × Dev → α → β × Dev} (hf : ∀ a x, (f a x).2.geom = a.2.geom) (l : List α) (a : β × Dev) :
    (l.foldl f a).2.geom = a.2.geom := by
  induction l generalizing a with
  | nil => rfl
  | cons x l ih => exact (ih (f a x)).trans (hf a x)

section
variable (d : Dev)

/-! ### Entries, messages and faults -/

@[simp] theorem cntN_geom (idx sub n : Nat) : (cntN idx sub n d).geom = d.geom := by simp [cntN]

@[simp] theorem cnt_geom (idx sub : Nat) : (cnt idx sub d).geom = d.geom := by simp [cnt]

@[simp] theorem freeVal_geom : (freeVal d).2.geom = d.geom := by simp [freeVal]

@[simp] theorem freeBytes_geom (n : Nat) : (freeBytes n d).2.geom = d.geom := by simp [freeBytes]

@[simp] theorem sendVia_geom (a b : NUnit) (c : NClass) (n : Nat) : (sendVia a b c n d).geom = d.geom := by simp [sendVia]

@[simp] theorem ringUnit_geom (u : NUnit) (src : Nat) : (ringUnit u src d).geom = d.geom := by simp [ringUnit]

@[simp] theorem wakeRing_geom (n : Nat) : (wakeRing n d).geom = d.geom := by simp [wakeRing]

@[simp] theorem assertWake_geom (n b : Nat) : (assertWake n b d).geom = d.geom := by simp [assertWake]

@[simp] theorem fltBell_geom (cls : Nat) : (fltBell cls d).geom = d.geom := by simp [fltBell]

@[simp] theorem fltWrite_geom (r : Flt) : (fltWrite r d).geom = d.geom := by simp [fltWrite]

@[simp] theorem fault_geom (cls cause : Nat) (unit a b : Nat) : (fault cls cause unit a b d).geom = d.geom := by simp [fault]

/-! ### What leaves a port -/

@[simp] theorem updBell_geom (r no : Nat) (f : RBell → RBell) : (updBell r no f d).geom = d.geom := by simp [updBell]

@[simp] theorem depart_geom (o : Owner) : (depart o d).geom = d.geom := by
  unfold depart
  split <;> simp

@[simp] theorem pump_geom (p : Nat) : (pump p d).geom = d.geom := by simp [pump]

@[simp] theorem sendReq_geom (p : Nat) (m : OutMsg) : (sendReq p m d).geom = d.geom := by
  unfold sendReq
  split <;> simp

@[simp] theorem post_geom (p : Nat) (m : OutMsg) : (post p m d).geom = d.geom := by simp [post]

@[simp] theorem postRead_geom (p addr len : Nat) (o : Owner) : (postRead p addr len o d).geom = d.geom := by simp [postRead]

/-! ### The Staging Buffer and its memory errors -/

@[simp] theorem freshId_geom : (freshId d).2.geom = d.geom := by simp [freshId]

@[simp] theorem sbWrite_geom (a : Nat) (bs : Bytes) : (sbWrite a bs d).geom = d.geom := by simp [sbWrite]

theorem sbAlloc_geom (seg len : Nat) (own : SbOwn) {r}
    (h : sbAlloc seg len own d = some r) : r.2.geom = d.geom := by
  unfold sbAlloc at h
  split at h
  · cases h
  · obtain ⟨a, -, rfl⟩ := Option.map_eq_some_iff.mp h
    simp

theorem sbAllocs_geom (seg : Nat) (own : SbOwn) (ns : List Nat) {r}
    (h : sbAllocs seg own ns d = some r) : r.2.geom = d.geom := by
  induction ns generalizing d r with
  | nil =>
    cases h
    rfl
  | cons n ns ih =>
    unfold sbAllocs at h
    split at h
    · cases h
    · next a d1 halloc =>
      obtain ⟨q, hq, rfl⟩ := Option.map_eq_some_iff.mp h
      exact (ih d1 hq).trans (sbAlloc_geom _ _ _ _ halloc)

@[simp] theorem sbFree_geom (own : SbOwn) : (sbFree own d).geom = d.geom := by simp [sbFree]

@[simp] theorem memBell_geom (kind : Nat) : (memBell kind d).geom = d.geom := by simp [memBell]

@[simp] theorem memWrite_geom (r : MemRec) : (memWrite r d).geom = d.geom := by simp [memWrite]

@[simp] theorem memError_geom (kind syn : Nat) (where_ unit : Nat) : (memError kind syn where_ unit d).geom = d.geom := by
  unfold memError
  split <;> simp

@[simp] theorem sbNote_geom (w flips : Nat) : (sbNote w flips d).geom = d.geom := by
  unfold sbNote
  split <;> simp

@[simp] theorem sbNotes_geom (l : List (Nat × Nat)) : (sbNotes l d).geom = d.geom := by simp [sbNotes]

@[simp] theorem sbFetch_geom (u : NUnit) (a n : Nat) : (sbFetch u a n d).2.2.geom = d.geom := by
  unfold sbFetch
  dsimp only
  split <;> simp

@[simp] theorem sbStoreTry_geom (u : NUnit) (a : Nat) (bs : Bytes) : (sbStore? u a bs d).2.geom = d.geom := by simp [sbStore?]

@[simp] theorem sbStore_geom (u : NUnit) (a : Nat) (bs : Bytes) : (sbStore u a bs d).geom = d.geom := by simp [sbStore]

/-! ### The map cache and the journal -/

@[simp] theorem updLine_geom (ln : Nat) (f : Line → Line) : (updLine ln f d).geom = d.geom := by simp [updLine]

@[simp] theorem lineCe_geom (x : Line) (w flips : Nat) : (lineCe x w flips d).geom = d.geom := by simp [lineCe]

@[simp] theorem loseLine_geom (x : Line) (syn w : Nat) : (loseLine x syn w d).geom = d.geom := by simp [loseLine]

@[simp] theorem lineRead_geom (x : Line) (ws : List Nat) : (lineRead x ws d).geom = d.geom := by
  unfold lineRead
  split <;> simp

@[simp] theorem touchLine_geom (ln : Nat) (dirty : Bool) : (touchLine ln dirty d).geom = d.geom := by simp [touchLine]

@[simp] theorem askLine_geom (ln : Nat) : (askLine ln d).geom = d.geom := by simp [askLine]

@[simp] theorem wantLine_geom (ln : Nat) (change : Bool) : (wantLine ln change d).geom = d.geom := by simp [wantLine]

@[simp] theorem mendLine_geom (ln : Nat) (ws : List Nat) : (mendLine ln ws d).geom = d.geom := by simp [mendLine]

@[simp] theorem changeLine_geom (ln : Nat) (ws : List Nat) (part : Bool) : (changeLine ln ws part d).geom = d.geom := by
  unfold changeLine
  dsimp only
  repeat' split
  all_goals simp

@[simp] theorem updBlk_geom (n b : Nat) (f : Blk → Blk) : (updBlk n b f d).geom = d.geom := by simp [updBlk]

@[simp] theorem putBandMem_geom (s b m v : Nat) : (putBandMem s b m v d).geom = d.geom := by simp [putBandMem]

@[simp] theorem jAppend_geom (r : JRec) : (jAppend r d).geom = d.geom := by simp [jAppend]

@[simp] theorem jBlock_geom (n b job : Nat) : (jBlock n b job d).geom = d.geom := by simp [jBlock]

@[simp] theorem setBstate_geom (n b v : Nat) : (setBstate n b v d).geom = d.geom := by simp [setBstate]

@[simp] theorem jBand_geom (s b m : Nat) : (jBand s b m d).geom = d.geom := by simp [jBand]

@[simp] theorem cutMember_geom (bd : Band) (m row : Nat) : (cutMember bd m row d).geom = d.geom := by simp [cutMember]

/-! ### The channels -/

@[simp] theorem seqStart_geom (ch idx : Nat) (k plane : Nat) (e : Option BEnt) :
    (seqStart ch idx k plane e d).geom = d.geom := by simp [seqStart]

@[simp] theorem updEnt_geom (n s : Nat) (f : BEnt → BEnt) : (updEnt n s f d).geom = d.geom := by simp [updEnt]

@[simp] theorem pageFaults_geom (n : Nat) : (pageFaults n d).geom = d.geom := by simp [pageFaults]

@[simp] theorem markHeld_geom (n : Nat) : (markHeld n d).geom = d.geom := by simp [markHeld]

@[simp] theorem mergeReads_geom (n s : Nat) : (mergeReads n s d).geom = d.geom := by
  unfold mergeReads
  split <;> simp

@[simp] theorem takeEnt_geom (n : Nat) (e : BEnt) (aged : Bool) : (takeEnt n e aged d).geom = d.geom := by simp [takeEnt]

@[simp] theorem takeBurst_geom (ch cls k : Nat) (b : Burst) : (takeBurst ch cls k b d).geom = d.geom := by
  unfold takeBurst
  dsimp only
  repeat' split
  all_goals simp

@[simp] theorem startBurst_geom (ch cls k : Nat) (b : Burst) : (startBurst ch cls k b d).geom = d.geom := by simp [startBurst]

@[simp] theorem atBoundary_geom (ch : Nat) : (atBoundary ch d).geom = d.geom := by simp [atBoundary]

@[simp] theorem pushEnt_geom (n : Nat) (e : BEnt) : (pushEnt n e d).geom = d.geom := by simp [pushEnt]

@[simp] theorem feedTrain_geom (ch : Nat) : (feedTrain ch d).geom = d.geom := by
  refine geom_foldl (fun x t => ?_) _ _
  split
  · simp
  · split <;> simp

@[simp] theorem kick_geom (ch : Nat) : (kick ch d).geom = d.geom := by
  unfold kick
  dsimp only
  repeat' split
  all_goals simp

@[simp] theorem kickAll_geom : (kickAll d).geom = d.geom := by simp [kickAll]

@[simp] theorem enqueue_geom (n : Nat) (e : BEnt) : (enqueue n e d).geom = d.geom := by simp [enqueue]

/-! ### Bands -/

@[simp] theorem updBand_geom (id : Nat) (f : Band → Band) : (updBand id f d).geom = d.geom := by simp [updBand]

@[simp] theorem updRow_geom (id r : Nat) (f : Row → Row) : (updRow id r f d).geom = d.geom := by simp [updRow]

@[simp] theorem updSlot_geom (id r j : Nat) (f : MSlot → MSlot) : (updSlot id r j f d).geom = d.geom := by simp [updSlot]

@[simp] theorem openRow_geom (id : Nat) : (openRow id d).geom = d.geom := by
  unfold openRow
  split
  · rfl
  · split
    · rfl
    · split
      · rfl
      · next a d1 h =>
        simpa using sbAlloc_geom _ _ _ _ h

@[simp] theorem openRows_geom (id : Nat) : (openRows id d).geom = d.geom := by
  unfold openRows
  split <;> simp

@[simp] theorem feedSlot_geom (id r j : Nat) : (feedSlot id r j d).geom = d.geom := by
  unfold feedSlot
  repeat' split
  all_goals simp

@[simp] theorem feedParity_geom (id r : Nat) : (feedParity id r d).geom = d.geom := by
  unfold feedParity
  repeat' split
  all_goals simp

@[simp] theorem closeIfDone_geom (id : Nat) : (closeIfDone id d).geom = d.geom := by
  unfold closeIfDone
  split <;> simp

@[simp] theorem retireRows_geom (id : Nat) : (retireRows id d).geom = d.geom := by
  unfold retireRows
  split <;> simp

@[simp] theorem feedBands_geom : (feedBands d).geom = d.geom := by
  refine geom_foldl (fun x b => ?_) _ _
  rw [retireRows_geom]
  simp

@[simp] theorem padSlot_geom (id r j : Nat) : (padSlot id r j d).geom = d.geom := by simp [padSlot]

@[simp] theorem closeRow_geom (id r : Nat) : (closeRow id r d).geom = d.geom := by
  unfold closeRow
  split <;> simp

@[simp] theorem closeBand_geom (id : Nat) : (closeBand id d).geom = d.geom := by
  unfold closeBand
  split <;> simp

end

end Sys2Proof.Machine
end

section
/-! SUPPORT. The reference geometry stays as commands, reads and rebuilds end (05_lantern_placement.md R230; 10_read_recovery.md R379). -/

namespace Sys2Proof.Machine

section
variable (d : Dev)

/-! ### Commands and groups -/

@[simp] theorem updWjob_geom (id : Nat) (f : WJob → WJob) : (updWjob id f d).geom = d.geom := by simp [updWjob]

@[simp] theorem cmdFail_geom (tag status : Nat) : (cmdFail tag status d).geom = d.geom := by simp [cmdFail]

@[simp] theorem cmdBad_geom (tag sec status : Nat) : (cmdBad tag sec status d).geom = d.geom := by simp [cmdBad]

@[simp] theorem meet_geom (tag : Nat) : (meet tag d).geom = d.geom := by
  unfold meet
  split <;> simp

@[simp] theorem waitDurable_geom (tag need : Nat) : (waitDurable tag need d).geom = d.geom := by simp [waitDurable]

@[simp] theorem groupCheck_geom (id : Nat) : (groupCheck id d).geom = d.geom := by
  unfold groupCheck
  repeat' split
  all_goals simp

@[simp] theorem memberDone_geom (c : Cmd) : (memberDone c d).geom = d.geom := by
  unfold memberDone
  split <;> simp

@[simp] theorem flushCheck_geom (tag : Nat) : (flushCheck tag d).geom = d.geom := by
  unfold flushCheck
  split <;> simp

@[simp] theorem flushAll_geom : (flushAll d).geom = d.geom := by simp [flushAll]

@[simp] theorem cmdCheck_geom (tag : Nat) : (cmdCheck tag d).geom = d.geom := by
  unfold cmdCheck
  repeat' split
  all_goals simp

@[simp] theorem workDone_geom (tag : Nat) : (workDone tag d).geom = d.geom := by simp [workDone]

/-! ### Reads are issued -/

@[simp] theorem useSlot_geom (ch s : Nat) : (useSlot ch s d).geom = d.geom := by simp [useSlot]

theorem takeLevel_geom (ch : Nat) (lv : List Int) {r} (h : takeLevel ch lv d = some r) : r.2.geom = d.geom := by
  unfold takeLevel at h
  dsimp only at h
  split at h
  · cases h
    rfl
  · split at h
    · cases h
      exact useSlot_geom ..
    · obtain ⟨a, -, rfl⟩ := Option.map_eq_some_iff.mp h
      rw [useSlot_geom, geom_foldl fun _ _ => updDie_geom ..]
      rfl

@[simp] theorem updRjob_geom (id : Nat) (f : RJob → RJob) : (updRjob id f d).geom = d.geom := by simp [updRjob]

@[simp] theorem dropRjob_geom (id : Nat) : (dropRjob id d).geom = d.geom := by simp [dropRjob]

@[simp] theorem addRead_geom (own : ROwn) (no cls : Nat) (gran addr glog : Nat) (parity : Bool) (secs : List RSec) :
    (addRead own no cls gran addr glog parity secs d).2.geom = d.geom := by simp [addRead]

/-! ### Granules and the raw path -/

@[simp] theorem nextGran_geom (tag : Nat) : (nextGran tag d).geom = d.geom := by
  unfold nextGran
  repeat' split
  all_goals simp

@[simp] theorem scanGran_geom (tag : Nat) (c : Cmd) (xs : List (Nat × Nat × Bytes)) :
    (scanGran tag c xs d).geom = d.geom := by simp [scanGran]

@[simp] theorem digest_geom (c : Cmd) (bad : Bool) (ext : Bytes) : (digest c bad ext d).2.geom = d.geom := by
  unfold digest
  repeat' split
  all_goals simp

@[simp] theorem hashSector_geom (tag sec : Nat) (data : Bytes) : (hashSector tag sec data d).geom = d.geom := by
  unfold hashSector
  split <;> simp

@[simp] theorem consume_geom (tag : Nat) (xs : List (Nat × Nat × Option Bytes)) : (consume tag xs d).geom = d.geom := by
  unfold consume
  split <;> simp

@[simp] theorem putRaw_geom (bs : Bytes) : (putRaw bs d).geom = d.geom := by simp [putRaw]

@[simp] theorem rawWild_geom : (rawWild d).1.geom = d.geom := by simp [rawWild]

@[simp] theorem rawDone_geom (status cause : Nat) : (rawDone status cause d).geom = d.geom := by
  unfold rawDone
  repeat' split
  all_goals simp

@[simp] theorem rawEnd_geom (status cause : Nat) : (rawEnd status cause d).geom = d.geom := by simp [rawEnd]

@[simp] theorem engineSecs_geom (tag : Nat) (c : Cmd) (secs : List RSec) : (engineSecs tag c secs d).2.geom = d.geom := by
  unfold engineSecs
  refine foldl_pair_geom (fun a x => ?_) _ _
  dsimp only
  repeat' split
  all_goals simp

@[simp] theorem granEnd_geom (r : RJob) : (granEnd r d).geom = d.geom := by
  unfold granEnd
  repeat' split
  all_goals simp

@[simp] theorem wjobSec_geom (id : Nat) (x : RSec) (bad : Nat) : (wjobSec id x bad d).geom = d.geom := by
  unfold wjobSec
  repeat' split
  all_goals simp

@[simp] theorem granSec_geom (pid lsec bad : Nat) : (granSec pid lsec bad d).geom = d.geom := by
  unfold granSec
  dsimp only
  repeat' split
  all_goals simp

/-! ### Units are issued and rebuilt -/

@[simp] theorem demandCh_geom (ch : Nat) : (demandCh ch d).geom = d.geom := by simp [demandCh]

@[simp] theorem updTags_geom (r : RJob) (f : Cmd → Cmd) : (updTags r f d).geom = d.geom :=
  geom_foldl (fun _ _ => updCmd_geom ..) _ _

@[simp] theorem askSuspend_geom (n pol : Nat) : (askSuspend n pol d).geom = d.geom := by simp [askSuspend]

@[simp] theorem slotWait_geom (r : RJob) : (slotWait r d).geom = d.geom := by simp [slotWait]

@[simp] theorem issueRead_geom (id : Nat) : (issueRead id d).geom = d.geom := by
  unfold issueRead
  split
  · rfl
  · dsimp only
    split
    · simp
    · next h => simpa using takeLevel_geom _ _ _ h

@[simp] theorem issueUnit_geom (id : Nat) : (issueUnit id d).geom = d.geom := by
  unfold issueUnit
  repeat' split
  all_goals simp

@[simp] theorem updRebuild_geom (id : Nat) (f : Rebuild → Rebuild) : (updRebuild id f d).geom = d.geom := by simp [updRebuild]

@[simp] theorem dropRebuild_geom (id : Nat) : (dropRebuild id d).geom = d.geom := by simp [dropRebuild]

theorem rebuildSpace_geom (seg rb n : Nat) (slots : List Nat) {x : Dev}
    (h : rebuildSpace seg rb n slots d = some x) : x.geom = d.geom := by
  induction slots generalizing d x with
  | nil =>
    cases h
    rfl
  | cons s t ih =>
    unfold rebuildSpace at h
    split at h
    · cases h
    · next p d1 halloc => exact (ih d1 h).trans (sbAllocs_geom _ _ _ _ halloc)

@[simp] theorem startRebuild_geom (id : Nat) (ladder around : Bool) : (startRebuild id ladder around d).geom = d.geom := by
  unfold startRebuild
  dsimp only
  split
  · rfl
  · split
    · rfl
    · next r _ x hspace =>
      have hx : x.geom = d.geom := (rebuildSpace_geom _ _ _ _ _ hspace).trans (freshId_geom d)
      simp [hx]

/-! ### Units end -/

@[simp] theorem endStep_geom (r : RJob) (s : Nat) : (endStep r s d).geom = d.geom := by
  unfold endStep
  split <;> simp

@[simp] theorem ueccRec_geom (r : RJob) (slot cause : Nat) : (ueccRec r slot cause d).geom = d.geom := by simp [ueccRec]

@[simp] theorem step6_geom (r : RJob) (slot cause : Nat) : (step6 r slot cause d).geom = d.geom := by simp [step6]

@[simp] theorem rawSec_geom (r : RJob) (slot : Nat) (res : LeafRes) : (rawSec r slot res d).geom = d.geom := by
  unfold rawSec
  dsimp only
  repeat' split
  all_goals simp

@[simp] theorem partSec_geom (p : Nat) (x : RSec) (res : LeafRes) : (partSec p x res d).geom = d.geom := by
  unfold partSec
  repeat' split
  all_goals simp

@[simp] theorem accSec_geom (b r plane slot : Nat) (res : LeafRes) : (accSec b r plane slot res d).geom = d.geom := by
  unfold accSec
  split <;> simp

@[simp] theorem leafEnd_geom (f id slot : Nat) (res : LeafRes) : (leafEnd f id slot res d).geom = d.geom := by
  induction f generalizing id slot res d with
  | zero => rfl
  | succ f ih =>
    unfold leafEnd
    split
    · rfl
    · split
      · rfl
      · extract_lets bad d1 y2 d2 d3
        have h1 : d1.geom = d.geom := updRjob_geom ..
        have hy2 : y2.geom = d.geom := by simp [y2, h1]
        have h2 : d2.geom = d.geom := by
          dsimp only [d2]
          split
          · rw [partSec_geom, h1]
          · rw [rawSec_geom, h1]
          · rw [accSec_geom, h1]
          · split
            · exact h1
            · split
              · split
                · rw [updRebuild_geom, h1]
                · simp [ih, hy2]
              · exact h1
          · exact h1
        have h3 : d3.geom = d.geom := by
          dsimp only [d3]
          split
          · split
            · rw [dropRjob_geom, h2]
            · exact h2
          · exact h2
        split
        · rw [feedBands_geom, h3]
        · rw [geom_foldl fun _ _ => ih .., h3]

@[simp] theorem leafOk_geom (id slot : Nat) (p : Bytes) : (leafOk id slot p d).geom = d.geom := leafEnd_geom ..

@[simp] theorem leafBad_geom (id slot cause status : Nat) : (leafBad id slot cause status d).geom = d.geom := by
  unfold leafBad
  split <;> simp

@[simp] theorem unitBad_geom (id cause status : Nat) : (unitBad id cause status d).geom = d.geom := by
  unfold unitBad
  split <;> simp

@[simp] theorem settleRebuild_geom (id : Nat) : (settleRebuild id d).geom = d.geom := by
  unfold settleRebuild
  repeat' split
  all_goals simp

@[simp] theorem partsBad_geom (r : RJob) : (partsBad r d).2.geom = d.geom := by
  unfold partsBad
  refine foldl_pair_geom (fun a x => ?_) _ _
  exact sbFetch_geom ..

@[simp] theorem goAround_geom (id : Nat) (ladder around : Bool) : (goAround id ladder around d).geom = d.geom := by
  unfold goAround
  split <;> simp

@[simp] theorem failedUnit_geom (id : Nat) : (failedUnit id d).geom = d.geom := by
  unfold failedUnit
  repeat' split
  all_goals simp

end

end Sys2Proof.Machine
end

section
/-! SUPPORT. The reference geometry stays as a die fails (06_die_scheduling.md R262), also for Lantern's bands and for Clasp, and as a die is
identified (07_nand_interface.md R291). -/

namespace Sys2Proof.Machine

section
variable (d : Dev)

/-! ### Bands lose a member -/

@[simp] theorem accFix_geom (b r plane s : Nat) : (accFix b r plane s d).geom = d.geom := by
  unfold accFix
  repeat' split
  all_goals simp

@[simp] theorem foldIn_geom (b r plane s : Nat) (p : Bytes) : (foldIn b r plane s p d).geom = d.geom := by
  unfold foldIn
  split <;> simp

@[simp] theorem renameUses_geom (old new : Nat) : (renameUses old new d).geom = d.geom := by simp [renameUses]

@[simp] theorem leaveGhost_geom (w : WJob) : (leaveGhost w d).2.geom = d.geom := by
  unfold leaveGhost
  split <;> simp

@[simp] theorem placeAgain_geom (id : Nat) : (placeAgain id d).geom = d.geom := by
  unfold placeAgain
  split <;> simp

@[simp] theorem cutSlot_geom (b r j : Nat) : (cutSlot b r j d).geom = d.geom := by
  unfold cutSlot
  split <;> simp

@[simp] theorem cutSlots_geom (bd : Band) (pos row : Nat) : (cutSlots bd pos row d).geom = d.geom := by simp [cutSlots]

@[simp] theorem dieFailedBands_geom (n : Nat) : (dieFailedBands n d).geom = d.geom := by
  unfold dieFailedBands
  refine geom_foldl (fun x b => ?_) _ _
  split
  · rfl
  · split <;> simp

/-! ### Clasp -/

@[simp] theorem updSys_geom (n : Nat) (f : SysDie → SysDie) : (updSys n f d).geom = d.geom := by simp [updSys]

@[simp] theorem setPairs_geom (l : List (Nat × Nat)) : (setPairs l d).geom = d.geom := by simp [setPairs]

theorem sysTake_geom (n num : Nat) {r} (h : sysTake n num d = some r) : r.2.geom = d.geom := by
  unfold sysTake at h
  dsimp only at h
  repeat' split at h
  all_goals cases h
  all_goals simp

@[simp] theorem sysLeave_geom (n : Nat) : (sysLeave n d).geom = d.geom := by simp [sysLeave]

@[simp] theorem updUnit_geom (c u : Nat) (f : CUnit → CUnit) : (updUnit c u f d).geom = d.geom := by simp [updUnit]

@[simp] theorem updCopy_geom (c u i : Nat) (f : CCopy → CCopy) : (updCopy c u i f d).geom = d.geom := by simp [updCopy]

@[simp] theorem feedCopy_geom (c u i : Nat) (k : CCopy) : (feedCopy c u i k d).geom = d.geom := by simp [feedCopy]

@[simp] theorem feedUnits_geom (c : Nat) (us : List CUnit) : (feedUnits c us d).geom = d.geom := by simp [feedUnits]

@[simp] theorem queueErase_geom (n b : Nat) : (queueErase n b d).geom = d.geom := by simp [queueErase]

@[simp] theorem feedErases_geom : (feedErases d).geom = d.geom := by simp [feedErases]

@[simp] theorem feedEraseQ_geom : (feedEraseQ d).geom = d.geom := by simp [feedEraseQ]

@[simp] theorem claspFeed_geom : (claspFeed d).geom = d.geom := by
  unfold claspFeed
  dsimp only
  repeat' split
  all_goals simp

@[simp] theorem rewriteCopy_geom (c u i : Nat) (dies : List Nat) : (rewriteCopy c u i dies d).geom = d.geom := by
  unfold rewriteCopy
  dsimp only
  split
  · rfl
  · split
    · simp
    · next n r h =>
      obtain ⟨m, -, hm⟩ := List.exists_of_findSome?_eq_some h
      obtain ⟨q, hq, he⟩ := Option.map_eq_some_iff.mp hm
      cases he
      simpa using sysTake_geom _ _ _ hq

@[simp] theorem claspDieFailed_geom (n : Nat) : (claspDieFailed n d).geom = d.geom := by
  unfold claspDieFailed
  split
  · split
    · rfl
    · exact geom_foldl (fun x u => geom_foldl (fun y q => by split <;> simp) ..) ..
  · refine (geom_foldl (fun x c => geom_foldl (fun y u => ?_) ..) ..).trans ?_
    · split
      · rfl
      · split
        · exact geom_foldl (fun z q => by split <;> simp) ..
        · split <;> simp
    · rw [setPairs_geom]
      split <;> simp

/-! ### A die fails -/

@[simp] theorem readOnFailed_geom (n id : Nat) : (readOnFailed n id d).geom = d.geom := by
  unfold readOnFailed
  dsimp only
  repeat' split
  all_goals simp

@[simp] theorem failEnt_geom (n : Nat) (e : BEnt) : (failEnt n e d).geom = d.geom := by
  unfold failEnt
  split <;> simp

@[simp] theorem endMulti_geom (n : Nat) : (endMulti n d).geom = d.geom := by simp [endMulti]

@[simp] theorem markFailed_geom (n : Nat) (b : Bool) : (markFailed n b d).geom = d.geom := by simp [markFailed]

@[simp] theorem dieDown_geom (n : Nat) : (dieDown n d).geom = d.geom := by simp [dieDown]

/-! ### Identification -/

@[simp] theorem setDieByte_geom (ch sub k v : Nat) : (setDieByte ch sub k v d).geom = d.geom := by simp [setDieByte]

@[simp] theorem idReject_geom (n cause : Nat) : (idReject n cause d).geom = d.geom := by simp [idReject]

@[simp] theorem idAccept_geom (n : Nat) : (idAccept n d).geom = d.geom := by simp [idAccept]

@[simp] theorem idSummary_geom (ch : Nat) : (idSummary ch d).geom = d.geom := by simp [idSummary]

end

end Sys2Proof.Machine
end

section
/-! SUPPORT. The first round ends (07_nand_interface.md R289): its waiting die of lowest number sets the reference geometry. -/

namespace Sys2Proof.Machine

/-! ### The reference geometry (R289) -/

/-- A waiting die is judged by the reference. -/
def judgedDie (x : Dev) (n : Nat) : Dev :=
  let ok : Bool := match x.geom, (die x n).geom with
    | some g, some h => sameGeom g h
    | _, _ => false
  if ok then idAccept n x else idReject n 6 x

/-- A channel's first round is over. -/
def roundEnded (x : Dev) (ch : Nat) : Dev := idSummary ch (updChan ch (fun c => { c with firstRound := false }) x)

/-- The block with the reference set, if a die waits for it, and every waiting die judged. -/
def referenceJudged (w : List Nat) (d : Dev) : Dev :=
  w.foldl judgedDie { d with geom := w.head?.bind (fun n => (die d n).geom) }

theorem geom_judgedDie (x : Dev) (n : Nat) : (judgedDie x n).geom = x.geom := by
  unfold judgedDie
  dsimp only
  split <;> simp

theorem geom_roundEnded (x : Dev) (ch : Nat) : (roundEnded x ch).geom = x.geom := rfl

theorem geom_referenceJudged (w : List Nat) (d : Dev) :
    (referenceJudged w d).geom = w.head?.bind (fun n => (die d n).geom) :=
  geom_foldl geom_judgedDie _ _

theorem chan_roundEnded (x : Dev) (ch c : Nat) :
    chan (roundEnded x ch) c = chan (updChan ch (fun c => { c with firstRound := false }) x) c := rfl

theorem firstRound_roundEnded_self (x : Dev) (ch : Nat) : (chan (roundEnded x ch) ch).firstRound = false := by
  rw [chan_roundEnded, chan_updChan_self]

theorem firstRound_roundEnded {x : Dev} {ch c : Nat} (h : (chan x c).firstRound = false) :
    (chan (roundEnded x ch) c).firstRound = false := by
  rcases eq_or_ne c ch with rfl | hne
  · exact firstRound_roundEnded_self x c
  · rw [chan_roundEnded, chan_updChan_ne _ _ hne, h]

theorem firstRound_roundsEnded {l : List Nat} {c : Nat} (d : Dev) (h : c ∈ l) : (chan (l.foldl roundEnded d) c).firstRound = false :=
  foldl_attains (g := roundEnded) (I := fun _ => True) (P := fun x => (chan x c).firstRound = false) (fun _ _ _ => trivial)
    (fun _ _ _ h => firstRound_roundEnded h) (fun x _ => firstRound_roundEnded_self x c) l d trivial (.inl h)

theorem cfg_roundsEnded (l : List Nat) (d : Dev) : (l.foldl roundEnded d).cfg = d.cfg := by
  refine foldl_keeps Dev.cfg (fun x ch => ?_) l d
  rfl

theorem referenceSet_of_known {d : Dev} (h : d.geom.isSome = true ∨ roundOpen d = true) : referenceSet d = d := by
  unfold referenceSet
  exact if_pos (or_assoc.mp (.inl h))

theorem referenceSet_of_round_over {d : Dev} (hnone : d.geom = none) (hround : roundOpen d = false)
    (hfirst : (List.range d.cfg.channels).any (fun c => (chan d c).firstRound) = true) :
    referenceSet d = (List.range d.cfg.channels).foldl (fun x ch => kick ch x)
      ((List.range d.cfg.channels).foldl roundEnded
        (referenceJudged ((allDies d.cfg).filter (fun n => (die d n).waitRef)) d)) := by
  unfold referenceSet
  exact if_neg (by simp [hnone, hround, hfirst])

theorem geom_referenceSet {d : Dev} (hnone : d.geom = none) (hround : roundOpen d = false)
    (hfirst : (List.range d.cfg.channels).any (fun c => (chan d c).firstRound) = true) :
    (referenceSet d).geom = ((allDies d.cfg).filter (fun n => (die d n).waitRef)).head?.bind (fun n => (die d n).geom) := by
  rw [referenceSet_of_round_over hnone hround hfirst, geom_foldl fun x ch => kick_geom x ch, geom_foldl geom_roundEnded,
    geom_referenceJudged]

end Sys2Proof.Machine
end

section
/-! SUPPORT. Swaps of timing sets, their holds and misses, and ZQ codes (07_nand_interface.md R298 to R303, R314); the statement on swaps. -/

namespace Sys2Proof.Machine

/-! ### The shadow set is latched (R299, R300) -/

/-- A field of the active set takes what the block holds in the shadow set. -/
def fieldTaken (ch : Nat) (d x : Dev) (i : Nat) : Dev := put (chIdx ch 9) (i + 1) (shadowTs d ch (i + 1)) x

/-- The active set takes the fields of the shadow set. -/
def activeTaken (ch : Nat) (d : Dev) : Dev := (List.range 16).foldl (fieldTaken ch d) d

/-- The swap is counted and no swap is armed any more. -/
def swapCounted (ch : Nat) (d : Dev) : Dev :=
  cnt (chIdx ch 0x0A) 3 (updChan ch (fun c => { c with armed := false, forced := false }) d)

/-- A swap out of a hold is marked in ts_status and counted; the mark of a miss is gone. -/
def forcedNoted (ch : Nat) (forced : Bool) (d : Dev) : Dev :=
  let x := putBit (chIdx ch 0x0A) 2 4 false (putBit (chIdx ch 0x0A) 2 3 forced d)
  if forced then cnt (chIdx ch 0x0A) 4 x else x

/-- A shadow write of the same cycle stays, and the shadow set is dirty only then. -/
def shadowKept (ch : Nat) (sw : Option ShadowWrite) (d : Dev) : Dev :=
  match sw with
  | none => putBit (chIdx ch 0x0A) 2 1 false d
  | some w => if 1 ≤ w.sub ∧ w.sub ≤ 16 then putBit (chIdx ch 0x0A) 2 1 true (put (chIdx ch 8) w.sub w.v d)
      else putBit (chIdx ch 0x0A) 2 1 false d

theorem latchSet_eq (ch : Nat) (sw : Option ShadowWrite) (d : Dev) :
    latchSet ch sw d = shadowKept ch sw (forcedNoted ch (chan d ch).forced (swapCounted ch (activeTaken ch d))) := rfl

theorem activeTaken_cfg (ch : Nat) (d : Dev) : (activeTaken ch d).cfg = d.cfg :=
  foldl_keeps Dev.cfg (f := fieldTaken ch d) (fun _ _ => rfl) _ d

theorem chan_activeTaken (ch c : Nat) (d : Dev) : chan (activeTaken ch d) c = chan d c :=
  foldl_keeps (chan · c) (f := fieldTaken ch d) (fun _ _ => rfl) _ d

/-- What the active set can hold of a field of the shadow set. -/
def shadowField (ch i : Nat) (d : Dev) : Nat := od d (chIdx ch 8) i % 2 ^ (8 * odSize d.cfg (ek (chIdx ch 9) i))

theorem od_fieldTaken_self {ch : Nat} {d x : Dev} (i : Nat) (h : x.cfg = d.cfg) :
    od (fieldTaken ch d x i) (chIdx ch 9) (i + 1) = shadowField ch (i + 1) d := by
  rw [fieldTaken, od_put_self, h, shadowTs, shadowField]

theorem od_fieldTaken_of_ne {ch i a b : Nat} (d x : Dev) (h : ek a b ≠ ek (chIdx ch 9) (i + 1)) :
    od (fieldTaken ch d x i) a b = od x a b := od_put_ne _ x h

theorem od_activeTaken_self {ch i : Nat} (d : Dev) (h16 : i < 16) :
    od (activeTaken ch d) (chIdx ch 9) (i + 1) = shadowField ch (i + 1) d := by
  refine foldl_attains (g := fieldTaken ch d) (I := fun x => x.cfg = d.cfg)
    (P := fun x => od x (chIdx ch 9) (i + 1) = shadowField ch (i + 1) d) (fun _ _ hx => hx) (fun x k hx h => ?_)
    (fun x hx => od_fieldTaken_self i hx) (List.range 16) d rfl (.inl (List.mem_range.mpr h16))
  rcases eq_or_ne k i with rfl | hne
  · exact od_fieldTaken_self k hx
  · rw [od_fieldTaken_of_ne d x (by unfold ek; omega), h]

theorem od_activeTaken_of_ne {ch a b : Nat} (d : Dev) (h : ∀ i, i < 16 → ek a b ≠ ek (chIdx ch 9) (i + 1)) :
    od (activeTaken ch d) a b = od d a b :=
  List.foldlRecOn (motive := fun x => od x a b = od d a b) (List.range 16) (fieldTaken ch d) rfl
    fun x hx i hi => (od_fieldTaken_of_ne d x (h i (List.mem_range.mp hi))).trans hx

theorem chan_swapCounted_self (ch : Nat) (d : Dev) :
    chan (swapCounted ch d) ch = { chan d ch with armed := false, forced := false } := by
  unfold swapCounted
  rw [cnt, chan_cntN, chan_updChan_self]

theorem counted_swapCounted (ch : Nat) (d : Dev) : Counted d (swapCounted ch d) (chIdx ch 0x0A) 3 1 :=
  counted_of_od_eq (d := updChan ch _ d) rfl rfl (cnt_spec ..).1

theorem od_swapCounted_of_ne {ch i j : Nat} (d : Dev) (h : ek i j ≠ ek (chIdx ch 0x0A) 3) : od (swapCounted ch d) i j = od d i j :=
  od_cntN_ne (d := updChan ch _ d) 1 h

theorem chan_forcedNoted (ch c : Nat) (forced : Bool) (d : Dev) : chan (forcedNoted ch forced d) c = chan d c := by
  unfold forcedNoted
  dsimp only
  split
  · exact chan_cntN ..
  · rfl

theorem od_forcedNoted {ch i j : Nat} (forced : Bool) (d : Dev) (h2 : ek i j ≠ ek (chIdx ch 0x0A) 2)
    (h4 : ek i j ≠ ek (chIdx ch 0x0A) 4) : od (forcedNoted ch forced d) i j = od d i j := by
  unfold forcedNoted
  dsimp only
  split
  · rw [cnt, od_cntN_ne _ _ h4, putBit, od_put_ne _ _ h2, putBit, od_put_ne _ _ h2]
  · rw [putBit, od_put_ne _ _ h2, putBit, od_put_ne _ _ h2]

theorem chan_shadowKept (ch c : Nat) (sw : Option ShadowWrite) (d : Dev) : chan (shadowKept ch sw d) c = chan d c := by
  unfold shadowKept
  split
  · rfl
  · split <;> rfl

theorem od_shadowKept {ch i j : Nat} (sw : Option ShadowWrite) (d : Dev) (h2 : ek i j ≠ ek (chIdx ch 0x0A) 2)
    (h8 : ∀ k, k ≤ 16 → ek i j ≠ ek (chIdx ch 8) k) : od (shadowKept ch sw d) i j = od d i j := by
  unfold shadowKept
  split
  · rw [putBit, od_put_ne _ _ h2]
  · split
    · next w hw => rw [putBit, od_put_ne _ _ h2, od_put_ne _ _ (h8 _ hw.2)]
    · rw [putBit, od_put_ne _ _ h2]

theorem od_latchSet {ch i j : Nat} {sw : Option ShadowWrite} {d : Dev} (h2 : ek i j ≠ ek (chIdx ch 0x0A) 2)
    (h4 : ek i j ≠ ek (chIdx ch 0x0A) 4) (h8 : ∀ k, k ≤ 16 → ek i j ≠ ek (chIdx ch 8) k) :
    od (latchSet ch sw d) i j = od (swapCounted ch (activeTaken ch d)) i j := by
  rw [latchSet_eq, od_shadowKept _ _ h2 h8, od_forcedNoted _ _ h2 h4]

theorem chan_latchSet (ch : Nat) (sw : Option ShadowWrite) (d : Dev) :
    chan (latchSet ch sw d) ch = { chan d ch with armed := false, forced := false } := by
  rw [latchSet_eq, chan_shadowKept, chan_forcedNoted, chan_swapCounted_self, chan_activeTaken]

theorem latched_latchSet (ch : Nat) (sw : Option ShadowWrite) (d : Dev) : latched ch d (latchSet ch sw d) := by
  refine ⟨fun i h1 h16 => ?active, by rw [chan_latchSet], ?counted⟩
  case active =>
    obtain ⟨j, rfl⟩ : ∃ j, i = j + 1 := ⟨i - 1, by omega⟩
    rw [od_latchSet (by unfold ek chIdx; omega) (by unfold ek chIdx; omega) fun k _ => by unfold ek chIdx; omega,
      od_swapCounted_of_ne _ (by unfold ek chIdx; omega), od_activeTaken_self d (by omega), shadowField]
  case counted =>
    have hcnt : Counted d (swapCounted ch (activeTaken ch d)) (chIdx ch 0x0A) 3 1 :=
      counted_of_od_eq (activeTaken_cfg ch d) (od_activeTaken_of_ne d fun k _ => by unfold ek chIdx; omega) (counted_swapCounted ..)
    unfold Counted at *
    rw [od_latchSet (by unfold ek; omega) (by unfold ek; omega) fun k _ => by unfold ek chIdx; omega, hcnt]

/-- A change of the channel's record alone that arms nothing leaves the latch's effect. -/
theorem latched_of_onlyChan {ch : Nat} {d z x : Dev} (h : latched ch d z) (hx : OnlyChan z x ch)
    (harmed : (chan x ch).armed = (chan z ch).armed) : latched ch d x := by
  obtain ⟨hfields, hoff, hcnt⟩ := h
  have hod : ∀ i j, od x i j = od z i j := od_congr (by rw [hx.2]) (by rw [hx.2])
  refine ⟨fun i h1 h16 => (hod ..).trans (hfields i h1 h16), harmed.trans hoff, ?_⟩
  unfold Counted at *
  rw [hod, hcnt]

/-! ### Swaps -/

/-- Targets asked one after the other. -/
theorem trainsAsked_list (ch : Nat) (l : List Nat) (d : Dev) :
    TrainsAsked ch (· ∈ l) d (l.foldl (fun x t => wantTrain ch t x) d) := by
  induction l generalizing d with
  | nil => exact trainsAsked_none d (by simp)
  | cons a l ih => exact ((trainsAsked_wantTrain ch a d).trans (ih _)).congr fun t => List.mem_cons.symm

/-- A channel leaves the hold of a swap. -/
def holdLeft (ch : Nat) (d : Dev) : Dev := updChan ch (fun c => { c with state := if c.state = 2 then 1 else c.state }) d

theorem holdLeft_latchSet_spec (ch : Nat) (sw : Option ShadowWrite) (d : Dev) :
    latched ch d (holdLeft ch (latchSet ch sw d)) ∧ (chan (holdLeft ch (latchSet ch sw d)) ch).state ≠ 2 := by
  have hchan : chan (holdLeft ch (latchSet ch sw d)) ch = _ := chan_updChan_self ..
  refine ⟨latched_of_onlyChan (latched_latchSet ch sw d) (onlyChan_updChan ..) (by rw [hchan]), ?_⟩
  rw [hchan]
  dsimp only
  split
  · decide
  · assumption

/-- The block after a mode change whose targets are asked to be trained: it holds until they are (R302). -/
def modeChanged (ch : Nat) (tgts : List Nat) (d : Dev) : Dev :=
  updChan ch (fun c => { c with state := if c.trainWait.isEmpty then 1 else 2 }) (tgts.foldl (fun x t => wantTrain ch t x) d)

theorem modeSwap_of_passed {ch : Nat} {r : SwapResult} {d : Dev} (h : r.failed = []) : modeSwap ch r d =
    kick ch (modeChanged ch ((List.range d.cfg.targets).filter (fun t => (trainDie (latchSet ch r.shadow d) ch t).isSome))
      (latchSet ch r.shadow d)) := by
  unfold modeSwap
  rw [h]
  rfl

theorem modeChanged_latchSet_spec (ch : Nat) (tgts : List Nat) (sw : Option ShadowWrite) (d : Dev) :
    let x := modeChanged ch tgts (latchSet ch sw d)
    latched ch d x ∧ (chan x ch).state = if (chan x ch).trainWait = [] then 1 else 2 := by
  intro x
  obtain ⟨honly, hasked, -⟩ := trainsAsked_list ch tgts (latchSet ch sw d)
  have hchan : chan x ch = _ := chan_updChan_self ..
  refine ⟨latched_of_onlyChan (latched_latchSet ch sw d) (honly.trans (onlyChan_updChan ..)) ?_, ?_⟩
  · rw [hchan]
    dsimp only
    rw [hasked]
  · rw [hchan]
    simp

/-! ### Holds and misses (R301) -/

theorem odSize_chIdx {c : Params} {ch i j : Nat} {x : OdRow} (hch : ch < c.channels) (h32 : ch < 32) (hi : i < 0x40) (hj : j ≠ 0)
    (hrow : chanRow i j = some x) (hacc : x.acc ≠ .const) : odSize c (ek (chIdx ch i) j) = x.ty.size :=
  odSize_of_kind (odKind_chIdx hch h32 hi hj hrow) hacc

/-- A swap that missed its time is counted and marked in ts_status. -/
def missCounted (ch : Nat) (d : Dev) : Dev := cnt (chIdx ch 0x0A) 5 (putBit (chIdx ch 0x0A) 2 4 true d)

theorem missCounted_only (ch : Nat) (d : Dev) :
    OnlyEntries d (missCounted ch d) [ek (chIdx ch 0x0A) 5, ek (chIdx ch 0x0A) 2] :=
  onlyEntries_cntN ((onlyEntries_put ..).mono (by simp)) (by simp)

theorem counted_missCounted (ch : Nat) (d : Dev) : Counted d (missCounted ch d) (chIdx ch 0x0A) 5 1 :=
  counted_of_od_eq (d := putBit (chIdx ch 0x0A) 2 4 true d) rfl (od_put_ne _ d (by unfold ek; omega)) (cnt_spec ..).1

theorem bit_missCounted {ch : Nat} {d : Dev} (hch : ch < d.cfg.channels) (h32 : ch < 32) :
    bit (od (missCounted ch d) (chIdx ch 0x0A) 2) 4 = true := by
  have hsize : odSize d.cfg (ek (chIdx ch 0x0A) 2) = 1 :=
    odSize_chIdx (i := 0x0A) hch h32 (by decide) (by decide) (x := r 0x300A 2 2 .b8 .ro (k 0)) rfl (by decide)
  unfold missCounted
  rw [cnt, od_cntN_sub_ne (by decide), putBit, od_put_self, hsize, bit_mod (by decide), bit_setBit_self]

theorem chan_missCounted (ch c : Nat) (d : Dev) : chan (missCounted ch d) c = chan d c :=
  (chan_cntN ..).trans (chan_put ..)

/-- A channel whose burst outlasts the hold serves again. -/
def holdMissed (ch : Nat) (d : Dev) : Dev := updChan ch (fun c => { c with state := 1, forced := false }) d

theorem sameBut_of_onlyChan {d y x : Dev} {ch : Nat} {keys : List Nat} (hy : OnlyChan d y ch) (hx : OnlyEntries y x keys) :
    SameBut d x (fun d => { d with chans := x.chans }) keys := by
  have hod : KeepsEntries d y keys := fun k _ => by rw [hy.2]; rfl
  exact ⟨keeps_trans hod hx.1, by rw [hx.2, hy.2]⟩

/-- What a miss leaves (R301). -/
theorem holdMissed_spec {ch : Nat} {d : Dev} (hch : ch < d.cfg.channels) (h32 : ch < 32) :
    let x := if (chan d ch).armed then missCounted ch (holdMissed ch d) else holdMissed ch d
    chan x ch = { chan d ch with state := 1, forced := false } ∧
    ((chan d ch).armed = true → Counted d x (chIdx ch 0x0A) 5 1 ∧ bit (od x (chIdx ch 0x0A) 2) 4 = true ∧
      SameBut d x (fun d => { d with chans := x.chans }) [ek (chIdx ch 0x0A) 5, ek (chIdx ch 0x0A) 2]) ∧
    ((chan d ch).armed = false → OnlyChan d x ch) := by
  have hchan : chan (holdMissed ch d) ch = { chan d ch with state := 1, forced := false } := by
    unfold holdMissed
    rw [chan_updChan_self]
  have honly : OnlyChan d (holdMissed ch d) ch := onlyChan_updChan ..
  intro x
  cases ha : (chan d ch).armed with
  | true =>
    have hx : x = missCounted ch (holdMissed ch d) := if_pos ha
    rw [hx]
    exact ⟨(chan_missCounted ..).trans hchan, fun _ => ⟨counted_of_od_eq rfl rfl (counted_missCounted ..),
      bit_missCounted hch h32, sameBut_of_onlyChan honly (missCounted_only ..)⟩, nofun⟩
  | false =>
    have hx : x = holdMissed ch d := if_neg (by simp [ha])
    rw [hx]
    exact ⟨hchan, nofun, fun _ => honly⟩

/-! ### ZQ codes (R314) -/

/-- The block after a waiting code has been taken at a boundary. -/
def zqApplied (ch code : Nat) (d : Dev) : Dev :=
  put (chIdx ch 0x0D) 2 code (updChan ch (fun x => { x with
    zqNew := none, state := if x.state = 2 ∧ ¬ x.armed ∧ x.trainWait.isEmpty then 1 else x.state }) d)

theorem zqApplied_spec (ch code : Nat) (d : Dev) :
    od (zqApplied ch code d) (chIdx ch 0x0D) 2 = code % 2 ^ (8 * odSize d.cfg (ek (chIdx ch 0x0D) 2)) ∧
    chan (zqApplied ch code d) ch = { chan d ch with
      zqNew := none
      state := if (chan d ch).state = 2 ∧ (chan d ch).armed = false ∧ (chan d ch).trainWait = [] then 1 else (chan d ch).state } ∧
    SameBut d (zqApplied ch code d) (fun y => { y with chans := (zqApplied ch code d).chans }) [ek (chIdx ch 0x0D) 2] := by
  refine ⟨od_put_self .., ?_, sameBut_of_onlyChan (onlyChan_updChan ..) (onlyEntries_put ..)⟩
  unfold zqApplied
  rw [chan_put, chan_updChan_self]
  simp

/-! ### The statement -/

/-- Settles O49: each row by what waits and by whether the boundary is quiet. -/
theorem timingSwaps : Obligations.TimingSwaps := by
  intro s ch hch h32 waits
  have hzq : ∀ code e, exec (.zqCalibration ch code e) s = execZqCalibration ch code e s := fun _ _ => rfl
  have happly : exec (.zqCodeApply ch) s = execZqCodeApply ch s := rfl
  refine ⟨fun h => ?known, fun hn hr hf hw => ?noDie, fun n rest hn hr hf hw => ?reference, fun sw ha hm hq => ?swap, fun sw h => ?noSwap,
    fun r hr ha hm hq => ?mode, fun r h => ?noMode, fun hw hst => ?hold, fun h => ?noHold, fun hw hst hbus => ?miss, fun h => ?noMiss,
    fun code e h => ?off, fun code h => ⟨?code, ?atEnd⟩, fun code hlt hz hq => ?apply, fun code hz hq => ?noBoundary, fun hz => ?noCode⟩
  case known => exact (completes_run rfl).mpr (referenceSet_of_known h)
  case noDie =>
    refine (completes_run rfl).mpr ⟨?_, ?_⟩
    · rw [geom_referenceSet hn hr hf, hw]
      rfl
    · refine ⟨(List.range s.dev.cfg.channels).foldl roundEnded { s.dev with geom := none }, ?_,
        fun c hc => firstRound_roundsEnded _ (List.mem_range.mpr hc)⟩
      rw [referenceSet_of_round_over hn hr hf, hw, kickAll, cfg_roundsEnded]
      rfl
  case reference =>
    refine (completes_run rfl).mpr ?_
    rw [geom_referenceSet hn hr hf, hw]
    rfl
  case swap =>
    refine (completes_run rfl).mpr ?_
    rw [if_pos ⟨hch, ha, by simp [hm], hq⟩]
    exact ⟨_, rfl, holdLeft_latchSet_spec ..⟩
  case noSwap =>
    refine (completes_run rfl).mpr (if_neg fun ⟨_, ha, hm, hq⟩ => ?_)
    simp [ha, hm, hq] at h
  case mode =>
    refine (completes_run rfl).mpr ?_
    rw [if_pos ⟨hch, ha, hm, hq⟩, modeSwap_of_passed hr]
    exact ⟨_, rfl, modeChanged_latchSet_spec ..⟩
  case noMode =>
    refine (completes_run rfl).mpr (if_neg fun ⟨_, ha, hm, hq⟩ => ?_)
    simp [ha, hm, hq] at h
  case hold =>
    refine (completes_run rfl).mpr ?_
    rw [if_pos ⟨Bool.or_eq_true_iff.mp hw, hst⟩]
    exact ⟨chan_updChan_self .., onlyChan_updChan ..⟩
  case noHold =>
    refine (completes_run rfl).mpr (if_neg fun ⟨hw, hst⟩ => ?_)
    rcases h with h | h
    · exact absurd (h.symm.trans (Bool.or_eq_true_iff.mpr hw)) (by decide)
    · exact h hst
  case miss =>
    refine (completes_run rfl).mpr ?_
    rw [if_pos ⟨Bool.or_eq_true_iff.mp hw, hst, hbus⟩]
    exact holdMissed_spec hch h32
  case noMiss =>
    refine (completes_run rfl).mpr (if_neg fun ⟨hw, hst, hbus⟩ => ?_)
    rcases h with h | h | h
    · exact absurd (h.symm.trans (Bool.or_eq_true_iff.mpr hw)) (by decide)
    · exact h hst
    · simp [h] at hbus
  case off =>
    refine (completes_run (hzq code e)).mpr (if_pos ?_)
    simp [h]
  case code =>
    refine (completes_run (hzq code false)).mpr ?_
    rw [if_neg (by simp [hch, h]), if_neg (by decide)]
    exact ⟨_, rfl, chan_updChan_self .., onlyChan_updChan ..⟩
  case atEnd =>
    refine (completes_run (hzq code true)).mpr ?_
    rw [if_neg (by simp [hch, h]), if_pos rfl]
    exact cnt_spec ..
  case apply =>
    refine (completes_run happly).mpr ?_
    rw [hz]
    dsimp only
    rw [if_pos hq]
    exact ⟨zqApplied ch code s.dev, rfl, zqApplied_spec ..⟩
  case noBoundary =>
    refine (completes_run happly).mpr ?_
    rw [hz]
    exact if_neg (by simp [hq])
  case noCode =>
    refine (completes_run happly).mpr ?_
    rw [hz]

end Sys2Proof.Machine
end

section
/-! SUPPORT. A configuration of 289 channels again, which R2 does not support and which the statement on a word's bus operation and
timer does not exclude: a data-in that corrects a word of SB bank 2 raises the mode in channel 288's active timing set, and so the line
rate by which the same word's timer is loaded (07_nand_interface.md R287, R294; 08_microcode.md R318; 13_queues_and_buffers.md R499). -/

namespace Sys2Proof.Machine

/-- The block of 289 channels with an active timing set for channel 288: a mode of 1, 800 MT/s, and a twhr of 7 ns. -/
def wideTimed : Dev := { wideDev with od := [(ek 0x7809 1, 1), (ek 0x7809 2, 800), (ek 0x7809 4, 7)] }

/-- A data-in that loads the timer with twhr and masks every event. -/
def wideTimerWord : UWord := { wideWord with nx := 0, cc := 0, emw := true, top := 1 }

theorem wordPlain_wideTimed : wordPlain wideTimed 288 (.status 0) wideTimerWord quietEnv := by
  unfold wordPlain wordRuns noEvent
  decide +kernel

/-- Before the word the channel's line runs at 400 MT/s, a clock period of 5 ns, and twhr takes two of them. -/
theorem timingParam_wideTimed : timingParam wideTimed 288 wideTimerWord = 10 := by decide +kernel

/-- The data-in's corrected error has raised the mode to 2 and with it the line's rate to 800 MT/s: twhr takes three periods of 2.5 ns. -/
theorem timer_wideTimed : (seq (ucWord 288 wideTimerWord quietEnv wideTimed) 288).timer = some 8 := by decide +kernel

/-- Refutes O52: with 289 channels the timer is not loaded with the parameter that the block before the word gives. The statement
bounds a channel by the configuration's channels only, not by the 32 of R2, within which no entry of a channel is one of a bank. -/
theorem not_microcodeBusAndTimer : ¬ Obligations.MicrocodeBusAndTimer := by
  unfold Obligations.MicrocodeBusAndTimer
  intro h
  have hrow : (Instr.din, fun w : UWord => { w with bop := 3 }) ∈ ucRows := by simp [ucRows]
  obtain ⟨-, -, -, -, -, -, htimer, -⟩ :=
    (completes_run rfl).mp (h _ hrow { dev := wideTimed, pending := [] } 288 (.status 0) wideTimerWord quietEnv wordPlain_wideTimed)
  have hbefore : (seq (ucWord 288 wideTimerWord quietEnv wideTimed) 288).timer = some (timingParam wideTimed 288 wideTimerWord) := htimer
  rw [timer_wideTimed, timingParam_wideTimed] at hbefore
  exact absurd hbefore (by decide)

end Sys2Proof.Machine
end

section
/-! SUPPORT. A channel goes on (06_die_scheduling.md R250, R253, R298): what the choice of its next burst leaves alone, and that a channel
whose bus is still held afterwards has work for its quiet boundary. -/

namespace Sys2Proof.Machine

/-! ### A sequencer's record -/

@[simp] theorem seq_updSeq_self (ch : Nat) (f : Seq → Seq) (d : Dev) : seq (updSeq ch f d) ch = f (seq d ch) := tabGet_tabSet_self ..

theorem seq_updSeq_ne {ch i : Nat} (f : Seq → Seq) (d : Dev) (h : i ≠ ch) : seq (updSeq ch f d) i = seq d i :=
  tabGet_tabSet_ne _ _ _ _ h

@[simp] theorem chan_updSeq (ch i : Nat) (f : Seq → Seq) (d : Dev) : chan (updSeq ch f d) i = chan d i := rfl

@[simp] theorem seq_updChan (ch i : Nat) (f : Chan → Chan) (d : Dev) : seq (updChan ch f d) i = seq d i := rfl

/-! ### The frames of the choice and of the start of a burst -/

/-- What the marks and the choice of Buoy entries change: dies, entries, and the fault log with its doorbells. -/
def BuoyFrame (d x : Dev) : Prop :=
  x = { d with od := x.od, sat := x.sat, dbq := x.dbq, flt := x.flt, net := x.net, dies := x.dies }

/-- What a channel that goes on changes besides: its record, its sequencer, and the free values that a burst starts with. -/
def KickFrame (d x : Dev) : Prop :=
  x = { d with
    od := x.od, sat := x.sat, dbq := x.dbq, flt := x.flt, net := x.net, dies := x.dies, chans := x.chans, seqs := x.seqs, free := x.free }

section
variable {d x y : Dev}

theorem BuoyFrame.refl (d : Dev) : BuoyFrame d d := rfl

theorem BuoyFrame.trans (h1 : BuoyFrame d x) (h2 : BuoyFrame x y) : BuoyFrame d y := by
  unfold BuoyFrame at h1 h2 ⊢
  rw [h2, h1]

theorem KickFrame.refl (d : Dev) : KickFrame d d := rfl

theorem KickFrame.trans (h1 : KickFrame d x) (h2 : KickFrame x y) : KickFrame d y := by
  unfold KickFrame at h1 h2 ⊢
  rw [h2, h1]

theorem BuoyFrame.kick (h : BuoyFrame d x) : KickFrame d x := by
  unfold BuoyFrame at h
  unfold KickFrame
  rw [h]

theorem BuoyFrame.chans (h : BuoyFrame d x) : x.chans = d.chans := by rw [h]

theorem BuoyFrame.seqs (h : BuoyFrame d x) : x.seqs = d.seqs := by rw [h]

theorem KickFrame.loader (h : KickFrame d x) : x.loader = d.loader := by rw [h]

theorem KickFrame.cfg (h : KickFrame d x) : x.cfg = d.cfg := by rw [h]

theorem kickFrame_foldl {α : Type} {f : Dev → α → Dev} (hf : ∀ x a, KickFrame x (f x a)) (l : List α) (d : Dev) :
    KickFrame d (l.foldl f d) := by
  induction l generalizing d with
  | nil => exact rfl
  | cons a l ih => exact (hf d a).trans (ih (f d a))

theorem buoyFrame_foldl {α : Type} {f : Dev → α → Dev} (hf : ∀ x a, BuoyFrame x (f x a)) (l : List α) (d : Dev) :
    BuoyFrame d (l.foldl f d) := by
  induction l generalizing d with
  | nil => exact rfl
  | cons a l ih => exact (hf d a).trans (ih (f d a))

theorem buoyFrame_ite {c : Prop} [Decidable c] (hx : BuoyFrame d x) (hy : BuoyFrame d y) : BuoyFrame d (if c then x else y) := by
  split
  · exact hx
  · exact hy

end

section
variable (d : Dev)

/-! ### The marks and the choice of entries -/

theorem buoyFrame_updDie (n : Nat) (f : Die → Die) : BuoyFrame d (updDie n f d) := rfl

theorem buoyFrame_cntN (i j n : Nat) : BuoyFrame d (cntN i j n d) := by
  unfold BuoyFrame
  rw [(cntN_spec i j n d).2.2]

theorem buoyFrame_sendVia (u v : NUnit) (c : NClass) (n : Nat) : BuoyFrame d (sendVia u v c n d) := by
  obtain ⟨x, hx⟩ := sendVia_spec u v c n d
  rw [hx]
  rfl

theorem buoyFrame_fault (cls cause unit a b : Nat) : BuoyFrame d (fault cls cause unit a b d) := by
  unfold BuoyFrame
  rw [(faultFrame_fault (cls := cls) cause unit a b d).2]

theorem buoyFrame_pageFaults (n : Nat) : BuoyFrame d (pageFaults n d) :=
  buoyFrame_foldl (fun x _ => (buoyFrame_updDie x n _).trans (buoyFrame_fault _ _ _ _ _ _)) _ d

theorem buoyFrame_markHeld (n : Nat) : BuoyFrame d (markHeld n d) :=
  ((buoyFrame_updDie d n _).trans (buoyFrame_cntN _ _ _ _)).trans (buoyFrame_cntN _ _ _ _)

theorem buoyFrame_mergeReads (n s : Nat) : BuoyFrame d (mergeReads n s d) := by
  unfold mergeReads
  split
  · exact rfl
  · exact buoyFrame_ite rfl rfl

theorem buoyFrame_takeEnt (n : Nat) (e : BEnt) (aged : Bool) : BuoyFrame d (takeEnt n e aged d) := by
  have hcnt : ∀ (c : Prop) [Decidable c] (i j : Nat) (x : Dev), BuoyFrame x (if c then cnt i j x else x) :=
    fun _ _ i j x => buoyFrame_ite (buoyFrame_cntN x i j 1) rfl
  have hmerged := (hcnt _ _ _ d).trans (buoyFrame_mergeReads (if aged then cnt (chIdx (dieCh n) 4) 0x0C d else d) n e.qseq)
  exact ((hmerged.trans (hcnt _ _ _ _)).trans (hcnt _ _ _ _)).trans rfl

/-! ### A burst starts -/

/-- The block whose channel's bus a burst has taken. -/
def busTaken (ch cls k : Nat) (b : Burst) (d : Dev) : Dev :=
  sendVia (.buoy ch) (.seqr ch) .req 1
    (updChan ch (fun c => { c with bus := some b, busT0 := d.up, last := c.last.set (cls - 1) k }) d)

/-- A burst that takes the bus begins an entry of its die, or none; a program joins those that one confirm starts. -/
theorem takeBurst_frame (ch cls k : Nat) (b : Burst) :
    BuoyFrame (busTaken ch cls k b d) (takeBurst ch cls k b d) ∨ ∃ m : Chan → List (Nat × Nat), BuoyFrame
      (updChan ch (fun c => { c with multi := m c }) (busTaken ch cls k b d)) (takeBurst ch cls k b d) := by
  unfold takeBurst
  extract_lets n x
  have hx : busTaken ch cls k b d = x := rfl
  rw [hx]
  clear_value x
  cases b with
  | readCmd | otherCmd =>
    cases nextOp d n with
    | issue e a => exact .inl (buoyFrame_takeEnt ..)
    | none | resume => exact .inl (.refl x)
  | progCmd =>
    cases nextOp d n with
    | issue e a => exact .inr ⟨fun c => c.multi ++ [(dieTgt n, k)], buoyFrame_takeEnt ..⟩
    | none | resume => exact .inl (.refl x)
  | train => exact .inl (buoyFrame_updDie ..)
  | status | dataOut | suspend | resume | dataIn | confirm | levels | lunReset => exact .inl (.refl x)

/-- What a channel's quiet boundary reads of its channel and sequencer (R298, R299, R314, R319): whether the bus is held, and what waits. -/
def boundaryPart (ch : Nat) : Bool × Bool × Option Nat × Bool × Bool × List Nat :=
  ((chan d ch).held, (chan d ch).armed, (chan d ch).zqNew, (seq d ch).install, (seq d ch).leave, (seq d ch).rewrite)

end

section
variable {d x : Dev} {ch : Nat}

theorem boundaryPart_of_frame (h : BuoyFrame d x) : boundaryPart x ch = boundaryPart d ch := by
  unfold boundaryPart chan seq
  rw [h.chans, h.seqs]

theorem boundaryPart_updChan {f : Chan → Chan} (hf : ∀ c, ((f c).held, (f c).armed, (f c).zqNew) = (c.held, c.armed, c.zqNew)) :
    boundaryPart (updChan ch f d) ch = boundaryPart d ch := by
  have h := hf (chan d ch)
  rw [← chan_updChan_self ch f d] at h
  simp only [Prod.mk.injEq] at h
  simp only [boundaryPart, h]
  rfl

theorem boundaryPart_updSeq {f : Seq → Seq} (hf : ∀ s, ((f s).install, (f s).leave, (f s).rewrite) = (s.install, s.leave, s.rewrite)) :
    boundaryPart (updSeq ch f d) ch = boundaryPart d ch := by
  have h := hf (seq d ch)
  rw [← seq_updSeq_self ch f d] at h
  simp only [Prod.mk.injEq] at h
  simp only [boundaryPart, h]
  rfl

theorem boundaryWork_of_part (h : boundaryPart x ch = boundaryPart d ch) : boundaryWork x ch = boundaryWork d ch := by
  simp only [boundaryPart, Prod.mk.injEq] at h
  obtain ⟨-, harmed, hzq, hinstall, hleave, hrewrite⟩ := h
  simp only [boundaryWork, harmed, hzq, hinstall, hleave, hrewrite]

/-- A burst that starts leaves what waits for the quiet boundary. -/
theorem boundaryPart_startBurst (cls k : Nat) (b : Burst) : boundaryPart (startBurst ch cls k b d) ch = boundaryPart d ch := by
  have hbus : boundaryPart (busTaken ch cls k b d) ch = boundaryPart d ch :=
    (boundaryPart_of_frame (buoyFrame_sendVia ..)).trans (boundaryPart_updChan fun _ => rfl)
  have htaken : boundaryPart (takeBurst ch cls k b d) ch = boundaryPart d ch := by
    rcases takeBurst_frame d ch cls k b with h | ⟨m, h⟩
    · exact (boundaryPart_of_frame h).trans hbus
    · exact ((boundaryPart_of_frame h).trans (boundaryPart_updChan fun _ => rfl)).trans hbus
  refine Eq.trans ?_ htaken
  unfold startBurst seqStart
  exact boundaryPart_updSeq fun _ => rfl

/-! ### A channel goes on -/

theorem kickFrame_updChan (f : Chan → Chan) : KickFrame d (updChan ch f d) := rfl

theorem kickFrame_seqStart (idx k plane : Nat) (e : Option BEnt) : KickFrame d (seqStart ch idx k plane e d) := rfl

theorem kickFrame_startBurst (cls k : Nat) (b : Burst) : KickFrame d (startBurst ch cls k b d) := by
  have hbus : KickFrame d (busTaken ch cls k b d) := (kickFrame_updChan _).trans (buoyFrame_sendVia ..).kick
  have htaken : KickFrame d (takeBurst ch cls k b d) := by
    rcases takeBurst_frame d ch cls k b with h | ⟨m, h⟩
    · exact hbus.trans h.kick
    · exact (hbus.trans (kickFrame_updChan _)).trans h.kick
  exact htaken.trans (kickFrame_seqStart ..)

theorem kickFrame_feedTrain : KickFrame d (feedTrain ch d) := by
  refine kickFrame_foldl (fun x t => ?_) _ d
  split
  · exact kickFrame_updChan _
  · split
    · exact .refl x
    · exact (buoyFrame_updDie ..).kick

/-- A channel that goes on marks its entries and gives up a hold without work; then it rests, starts a burst, or finds its boundary. -/
theorem kick_cases (ch : Nat) (d : Dev) : ∃ x, KickFrame d x ∧ ((chan x ch).held = true → boundaryWork x ch = true) ∧
    (kick ch d = x ∨ (∃ c k b, kick ch d = startBurst ch c k b x) ∨ boundaryWork x ch = true ∧ kick ch d = atBoundary ch x) := by
  unfold kick
  extract_lets y y1 x
  have hy : KickFrame d y := kickFrame_feedTrain
  have hmarks : KickFrame y y1 := by
    refine (buoyFrame_foldl (fun z k => ?_) _ y).kick
    dsimp only
    split
    · exact .refl z
    · exact (buoyFrame_markHeld ..).trans (buoyFrame_pageFaults ..)
  refine ⟨x, (hy.trans hmarks).trans (kickFrame_updChan _), fun hheld => ?_, ?_⟩
  · have hwork : boundaryWork x ch = boundaryWork y1 ch := by
      simp only [boundaryWork, x, chan_updChan_self, seq_updChan]
    simp only [x, chan_updChan_self, Bool.and_eq_true] at hheld
    exact hwork.trans hheld.2
  · clear_value x
    split
    · split
      · exact .inr (.inl ⟨_, _, _, rfl⟩)
      · split
        · next hwork => exact .inr (.inr ⟨hwork, rfl⟩)
        · exact .inl rfl
    · split
      · split
        · exact .inr (.inl ⟨_, _, _, rfl⟩)
        · exact .inl rfl
      · exact .inl rfl

theorem kickFrame_kick (ch : Nat) (d : Dev) : KickFrame d (kick ch d) := by
  obtain ⟨x, hx, -, h | ⟨c, k, b, h⟩ | ⟨-, h⟩⟩ := kick_cases ch d
  · rwa [h]
  · rw [h]
    exact hx.trans (kickFrame_startBurst ..)
  · rw [h]
    exact hx.trans (kickFrame_updChan _)

theorem kickFrame_kickAll (d : Dev) : KickFrame d (kickAll d) := kickFrame_foldl (fun x i => kickFrame_kick i x) _ d

/-- The channel of the highest number goes on last. -/
theorem kickAll_eq_kick {n : Nat} (h : d.cfg.channels = n + 1) : ∃ y, kickAll d = kick n y := by
  unfold kickAll
  rw [h, List.range_succ, List.foldl_append]
  exact ⟨_, rfl⟩

/-- R298: a channel that has gone on holds its bus only while something waits for its quiet boundary. -/
theorem boundaryWork_of_held_kick (h : (chan (kick ch d) ch).held = true) : boundaryWork (kick ch d) ch = true := by
  obtain ⟨x, -, hx, heq | ⟨c, k, b, heq⟩ | ⟨hwork, heq⟩⟩ := kick_cases ch d
  · rw [heq] at h ⊢
    exact hx h
  · rw [heq] at h ⊢
    have hpart : boundaryPart (startBurst ch c k b x) ch = boundaryPart x ch := boundaryPart_startBurst c k b
    rw [boundaryWork_of_part hpart]
    exact hx ((congrArg (·.1) hpart).symm.trans h)
  · rw [heq]
    refine Eq.trans ?_ hwork
    unfold atBoundary boundaryWork
    rw [chan_updChan_self, seq_updChan]
    split <;> rfl

end

end Sys2Proof.Machine
end

section
/-! SUPPORT. The patches of the sequencers (08_microcode.md R319, R332, R341 to R346): mc_revert, and what a channel does at its quiet
boundary. -/

namespace Sys2Proof.Machine

/-- A bit that is cleared reads as 0. -/
theorem bit_setBit_false (v n : Nat) : bit (setBit v n false) n = false := by
  unfold setBit
  split
  · next h =>
    unfold bit at h ⊢
    have hdiv : (v - 2 ^ n) / 2 ^ n = v / 2 ^ n - 1 := by simpa using Nat.sub_mul_div v (2 ^ n) 1
    rw [if_neg (by decide), hdiv]
    simp only [beq_iff_eq, beq_eq_false_iff_ne] at h ⊢
    omega
  · next h => simpa using h

/-! ### mc_revert (R344) -/

/-- A sequencer that is to leave its patches at its next quiet boundary. -/
def Seq.leaving (q : Seq) : Seq := { q with leave := true, install := false }

/-- The block whose loader has dropped its copy and has told every sequencer to leave its patches. -/
def copyDropped (d : Dev) : Dev :=
  put 0x6000 2 0 ((List.range d.cfg.channels).foldl (fun x ch => updSeq ch Seq.leaving x)
    (showCopy { d with loader := { d.loader with copy := [], faults := [] } }))

theorem mcRevert_eq (d : Dev) : mcRevert d = kickAll (copyDropped d) := rfl

/-- Nothing but entries has changed. -/
def EntryFrame (d x : Dev) : Prop := x = { d with od := x.od, ods := x.ods }

theorem EntryFrame.trans {d x y : Dev} (h1 : EntryFrame d x) (h2 : EntryFrame x y) : EntryFrame d y := by
  unfold EntryFrame at h1 h2 ⊢
  rw [h2, h1]

theorem entryFrame_put (i j v : Nat) (d : Dev) : EntryFrame d (put i j v d) := rfl

theorem entryFrame_putB (i j : Nat) (v : Bytes) (d : Dev) : EntryFrame d (putB i j v d) := rfl

@[simp] theorem od_putB (i j a b : Nat) (v : Bytes) (d : Dev) : od (putB i j v d) a b = od d a b := rfl

/-- Showing the copy writes entries. -/
theorem entryFrame_showCopy (d : Dev) : EntryFrame d (showCopy d) := by
  have hslots : ∀ (f g : Nat → Nat) (l : List Nat) (x : Dev),
      EntryFrame x (l.foldl (fun x i => put 0x6003 (i + 1) (f i) (put 0x6002 (i + 1) (g i) x)) x) := by
    intro f g l
    induction l with
    | nil => exact fun x => rfl
    | cons i l ih => exact fun x => ((entryFrame_put ..).trans (entryFrame_put ..)).trans (ih _)
  unfold showCopy
  exact (((hslots _ _ _ d).trans (entryFrame_put ..)).trans (entryFrame_put ..)).trans ((entryFrame_put ..).trans (entryFrame_putB ..))

theorem od_copies_showCopy (d : Dev) : od (showCopy d) 0x6001 6 = d.loader.copy.length % 256 := by
  unfold showCopy
  rw [od_putB, od_put_self]
  rfl

/-- The copy is dropped, mc_state reads ROM, lkt_slots 0, and every sequencer of the configuration is to leave its patches. -/
theorem copyDropped_spec (d : Dev) : (copyDropped d).loader = { d.loader with copy := [], faults := [] } ∧
    od (copyDropped d) 0x6000 2 = 0 ∧ od (copyDropped d) 0x6001 6 = 0 ∧
    (∀ ch, ch < d.cfg.channels → seq (copyDropped d) ch = (seq d ch).leaving) ∧
    (∀ ch, d.cfg.channels ≤ ch → seq (copyDropped d) ch = seq d ch) ∧ ControlKept d (copyDropped d) := by
  have hkeep : Keep d (showCopy { d with loader := { d.loader with copy := [], faults := [] } }) :=
    keep_showCopy (keep_same (Keep.refl d) rfl)
  have hcopies := od_copies_showCopy { d with loader := { d.loader with copy := [], faults := [] } }
  have hshown := entryFrame_showCopy { d with loader := { d.loader with copy := [], faults := [] } }
  unfold copyDropped
  generalize showCopy { d with loader := { d.loader with copy := [], faults := [] } } = x at *
  have hrest : ∀ (l : List Nat) (y : Dev), l.foldl (fun x ch => updSeq ch Seq.leaving x) y =
      { y with seqs := (l.foldl (fun x ch => updSeq ch Seq.leaving x) y).seqs } := by
    intro l
    induction l with
    | nil => exact fun y => rfl
    | cons ch l ih => exact fun y => ih (updSeq ch Seq.leaving y)
  have hseq : ∀ ch, seq ((List.range d.cfg.channels).foldl (fun x ch => updSeq ch Seq.leaving x) x) ch =
      if ch ∈ List.range d.cfg.channels then (seq d ch).leaving else seq d ch := by
    intro ch
    rw [get_foldl_update (get := seq) (fun i y => seq_updSeq_self ..) (fun i j y h => seq_updSeq_ne _ _ h) _ List.nodup_range, hshown]
    rfl
  refine ⟨?_, ?_, ?_, fun ch h => ?_, fun ch h => ?_, Keep.control (keep_put ?_ ?_)⟩
  · show (List.foldl (fun x ch => updSeq ch Seq.leaving x) x _).loader = _
    rw [hrest, hshown]
  · exact od_put_self ..
  · rw [od_put_ne _ _ (by decide)]
    refine (od_congr ?_ ?_ ..).trans hcopies <;> rw [hrest]
  · exact (hseq ch).trans (if_pos (List.mem_range.mpr h))
  · exact (hseq ch).trans (if_neg (by simpa using h))
  · exact keep_foldl _ hkeep fun y ch hy => keep_updSeq hy
  · unfold dataIdx
    omega

theorem odEffect_mcRevert (m : Nat) (d : Dev) : odEffect m none 0x6000 0x0A 1 d = mcRevert d := rfl

/-! ### A channel's patches at its quiet boundary (R319, R332, R341) -/

section
variable {ch : Nat} {d : Dev}

/-- A channel that installs takes the whole copy, and its bit of mc_patched sets. -/
theorem seqInstall_spec (h32 : ch < 32) : od (seqInstall ch d) 0x6000 2 = 1 ∧ bit (od (seqInstall ch d) 0x6000 0x0C) ch = true ∧
    seq (seqInstall ch d) ch = { seq d ch with
      ram := (copyWords d).foldl (fun t w => tabSet 0 t w.1 w.2) [], regions := (copyRegions d).map (·.2),
      disp := copyDisp d, install := false, leave := false, rewrite := [] } ∧
    OnlySeq d (seqInstall ch d) ch ∧
    SameBut d (seqInstall ch d) (fun x => { x with seqs := (seqInstall ch d).seqs }) [ek 0x6000 2, ek 0x6000 0x0C] := by
  refine ⟨?_, ?_, tabGet_tabSet_self .., fun c hc => tabGet_tabSet_ne _ _ _ _ hc, ?_, rfl⟩
  · exact od_put_self ..
  · have hsize : odSize d.cfg (ek 0x6000 0x0C) = 4 := rfl
    unfold seqInstall
    rw [od_put_ne _ _ (by decide), putBit, od_put_self]
    exact (bit_mod (n := 32) h32).trans (bit_setBit_self ..)
  · exact keeps_trans (keeps_put (i := 0x6000) (j := 0x0C) _ (by simp)) (keeps_put (i := 0x6000) (j := 2) _ (by simp))

/-- A channel that leaves its patches holds none, and its bit of mc_patched clears. -/
theorem seqLeave_spec (h32 : ch < 32) : bit (od (seqLeave ch d) 0x6000 0x0C) ch = false ∧
    seq (seqLeave ch d) ch = { seq d ch with
      ram := [], regions := [], disp := [], leave := false, install := false, rewrite := [] } ∧
    OnlySeq d (seqLeave ch d) ch ∧
    SameBut d (seqLeave ch d) (fun x => { x with seqs := (seqLeave ch d).seqs }) [ek 0x6000 0x0C] := by
  refine ⟨?_, tabGet_tabSet_self .., fun c hc => tabGet_tabSet_ne _ _ _ _ hc, keeps_put (i := 0x6000) (j := 0x0C) _ (by simp), rfl⟩
  unfold seqLeave
  rw [putBit, od_put_self]
  exact (bit_mod (n := 32) h32).trans (bit_setBit_false ..)

/-- A sequencer's patch RAM with a word written again, where the copy has one. -/
def Seq.rewritten (q : Seq) (a : Nat) (rest : List Nat) (w : Option Nat) : Seq :=
  { q with
    rewrite := rest
    ram := match w with
      | some v => tabSet 0 q.ram a v
      | none => q.ram }

theorem rewriteWord_spec {a : Nat} {rest : List Nat} :
    let w := (copyWords d).find? (fun y => y.1 == a)
    let x := updSeq ch (fun q => q.rewritten a rest (w.map (·.2))) d
    (seq x ch).rewrite = rest ∧ (∀ v, w = some v → tabGet 0 (seq x ch).ram a = v.2) ∧
    (∀ b, b ≠ a → tabGet 0 (seq x ch).ram b = tabGet 0 (seq d ch).ram b) ∧ OnlySeq d x ch ∧ x = { d with seqs := x.seqs } := by
  intro w x
  have hseq : seq x ch = (seq d ch).rewritten a rest (w.map (·.2)) := seq_updSeq_self ..
  refine ⟨congrArg Seq.rewrite hseq, fun v hv => ?_, fun b hb => ?_, fun c hc => seq_updSeq_ne _ _ hc, rfl⟩
  · rw [hseq, hv]
    exact tabGet_tabSet_self ..
  · rw [hseq]
    cases w with
    | none => rfl
    | some v => exact tabGet_tabSet_ne _ _ _ _ hb

end

/-! ### The statement -/

theorem exec_patchWordRewrite {s : State} {ch a : Nat} {rest : List Nat} (hch : ch < s.dev.cfg.channels) (hq : quietBoundary s.dev ch = true)
    (h : (seq s.dev ch).rewrite = a :: rest) : exec (.patchWordRewrite ch) s = run (fun d =>
      kick ch (updSeq ch (fun q => q.rewritten a rest (((copyWords d).find? (fun y => y.1 == a)).map (·.2))) d)) s := by
  have hexec : exec (.patchWordRewrite ch) s = execPatchWordRewrite ch s := rfl
  rw [hexec]
  unfold execPatchWordRewrite run
  dsimp only
  rw [if_pos ⟨hch, hq⟩, h]
  rfl

theorem exec_patchWordRewrite_of_idle {s : State} {ch : Nat} (h : quietBoundary s.dev ch = false ∨ (seq s.dev ch).rewrite = []) :
    exec (.patchWordRewrite ch) s = run id s := by
  have hexec : exec (.patchWordRewrite ch) s = execPatchWordRewrite ch s := rfl
  rw [hexec]
  unfold execPatchWordRewrite run
  dsimp only
  split
  · next hq =>
    rw [h.resolve_left (by simp [hq.2])]
    rfl
  · rfl

/-- Settles O29: mc_revert by the block that has dropped its copy, and each work of a quiet boundary by whether it stands. -/
theorem patchesAtABoundary : Obligations.PatchesAtABoundary := by
  intro s
  refine ⟨fun m hacc => ?revert, fun ch hch h32 hq => ⟨fun h => ?install, fun h => ?leave, fun a rest h => ?rewrite⟩, fun ch h => ?noInstall,
    fun ch h => ?noLeave, fun ch h => ?noRewrite⟩
  case revert =>
    refine writeDoes_of_accepted rfl rfl hacc ?_
    rw [odEffect_mcRevert]
    exact ⟨_, mcRevert_eq _, copyDropped_spec _⟩
  case install =>
    refine (completes_run rfl).mpr ?_
    rw [if_pos ⟨hch, h, hq⟩]
    exact ⟨_, rfl, seqInstall_spec h32⟩
  case leave =>
    refine (completes_run rfl).mpr ?_
    rw [if_pos ⟨hch, h, hq⟩]
    exact ⟨_, rfl, seqLeave_spec h32⟩
  case rewrite =>
    refine (completes_run (exec_patchWordRewrite hch hq h)).mpr ?_
    exact ⟨_, rfl, rewriteWord_spec⟩
  case noInstall =>
    refine (completes_run rfl).mpr (if_neg fun ⟨_, hinstall, hq⟩ => ?_)
    simp [hinstall, hq] at h
  case noLeave =>
    refine (completes_run rfl).mpr (if_neg fun ⟨_, hleave, hq⟩ => ?_)
    simp [hleave, hq] at h
  case noRewrite => exact (completes_run (exec_patchWordRewrite_of_idle h)).mpr rfl

end Sys2Proof.Machine
end

section
/-! SUPPORT. The load of a Locket (08_microcode.md R337 to R341; 02_ports.md R97, R98): the header's checks, the words of the key port, and
the ends of a load. -/

namespace Sys2Proof.Machine

/-! ### A load fails (R340) -/

/-- The entries that a load that fails writes: its state, its cause and its counter, beside those of its fault. -/
def loadFailKeys : List Nat := [ek 0x6001 3, ek 0x6001 4, ek 0x6001 7] ++ faultKeys 4

section
variable {cause : Nat} (d : Dev)

/-- The block whose load has its cause and its fault, before the image is discarded. -/
def loadFaulted (cause : Nat) (d : Dev) : Dev :=
  fault 4 1 0xFFFF cause (lktLevel d) (put 0x6001 3 3 (put 0x6001 4 cause d))

theorem lktFail_eq : lktFail cause d = lktEnd (cnt 0x6001 7 (loadFaulted cause d)) := rfl

theorem keeps_loadFaulted : KeepsEntries d (loadFaulted cause d) ([ek 0x6001 3, ek 0x6001 4] ++ faultKeys 4) := by
  have hputs : KeepsEntries d (put 0x6001 3 3 (put 0x6001 4 cause d)) ([ek 0x6001 3, ek 0x6001 4] ++ faultKeys 4) :=
    keeps_trans (keeps_put (i := 0x6001) (j := 4) d (by simp)) (keeps_put (i := 0x6001) (j := 3) _ (by simp))
  refine keeps_trans hputs fun k hk => (faultFrame_fault ..).1 k ?_
  exact fun h => hk (List.mem_append_right _ h)

theorem keeps_lktFail : KeepsEntries d (lktFail cause d) loadFailKeys := by
  intro k hk
  have hcnt := (cnt_spec 0x6001 7 (loadFaulted cause d)).2.1 k (by simp_all [loadFailKeys])
  exact hcnt.trans (keeps_loadFaulted d k (by simp_all [loadFailKeys]))

@[simp] theorem loader_fault (cls cause unit a b : Nat) : (fault cls cause unit a b d).loader = d.loader := by
  rw [(faultFrame_fault (cls := cls) cause unit a b d).2]

@[simp] theorem loader_cnt (i j : Nat) : (cnt i j d).loader = d.loader := by rw [cnt_eq]

theorem loader_lktFail : (lktFail cause d).loader = { d.loader with busy := false, req := false, words := [] } := by
  have h : (cnt 0x6001 7 (loadFaulted cause d)).loader = d.loader := by simp [loadFaulted]
  rw [lktFail_eq]
  show { (cnt 0x6001 7 (loadFaulted cause d)).loader with busy := false, req := false, words := [] } = _
  rw [h]

@[simp] theorem od_lktEnd (i j : Nat) : od (lktEnd d) i j = od d i j := rfl

@[simp] theorem getB_lktEnd : getB (lktEnd d) 0x6001 1 = [] := getB_putB_self ..

/-- A load that fails does what R340 says, by the block that it finds. -/
theorem loadFails_lktFail (hc : cause < 256) : loadFails cause d (lktFail cause d) := by
  have hcnt : ∀ i j, ek i j ≠ ek 0x6001 7 → od (lktFail cause d) i j = od (loadFaulted cause d) i j := fun i j h => od_cntN_ne 1 _ h
  have hfault : ∀ j, j < 256 → od (loadFaulted cause d) 0x6001 j = od (put 0x6001 3 3 (put 0x6001 4 cause d)) 0x6001 j := by
    refine fun j hj => (faultFrame_fault ..).1 _ ?_
    simp only [faultKeys, ek, List.mem_cons, List.not_mem_nil, or_false]
    omega
  have hcfg : (loadFaulted cause d).cfg = d.cfg := by
    rw [loadFaulted, (faultFrame_fault ..).2]
    rfl
  have hbase : od (loadFaulted cause d) 0x6001 7 = od d 0x6001 7 := by
    rw [hfault 7 (by decide), od_put_ne _ _ (by decide), od_put_ne _ _ (by decide)]
  have hloader := loader_lktFail (cause := cause) d
  refine ⟨?_, ?_, counted_of_od_eq hcfg hbase (cnt_spec 0x6001 7 _).1, ?_, getB_lktEnd _, ?_, ?_, ?_⟩
  · rw [hcnt _ _ (by decide), hfault 3 (by decide), od_put_self]
    rfl
  · rw [hcnt _ _ (by decide), hfault 4 (by decide), od_put_ne _ _ (by decide), od_put_self]
    exact Nat.mod_eq_of_lt hc
  · rw [hcnt _ _ (by decide)]
    exact bit_fault _ _ _ _ _ (by decide)
  all_goals rw [hloader]

/-- What a failed load counts is counted from a block that agrees on the counter. -/
theorem loadFails_of_base {x d' : Dev} (hcfg : x.cfg = d.cfg) (hod : od x 0x6001 7 = od d 0x6001 7) (h : loadFails cause x d') :
    loadFails cause d d' := by
  obtain ⟨hstate, hcause, hcounted, hrest⟩ := h
  exact ⟨hstate, hcause, counted_of_od_eq hcfg hod hcounted, hrest⟩

end

/-! ### The header's checks (R340) -/

section
variable {d x : Dev}

theorem hdrCause_lt (d : Dev) : hdrCause d < 256 := by
  unfold hdrCause
  dsimp only
  repeat' split
  all_goals decide

/-- The checks read the image and four entries. -/
theorem hdrCause_congr (himage : getB x 0x6001 1 = getB d 0x6001 1) (hver : od x 0x1000 1 = od d 0x1000 1)
    (hrom : od x 0x6000 1 = od d 0x6000 1) (hlevel : od x 0x6001 5 = od d 0x6001 5) : hdrCause x = hdrCause d := by
  unfold hdrCause
  rw [himage, hver, hrom, hlevel]

/-- The block whose load has begun, before the header is checked. -/
def loadBegun (d : Dev) : Dev := put 0x6001 3 1 { d with loader := { d.loader with busy := true, sel := 1, words := [] } }

theorem lktStart_eq (d : Dev) : lktStart d = if hdrCause d ≠ 0 then lktFail (hdrCause d) (loadBegun d) else keyNext (loadBegun d) := by
  have h : hdrCause (loadBegun d) = hdrCause d := hdrCause_congr rfl (od_put_ne 1 _ (by decide)) (od_put_ne 1 _ (by decide)) (od_put_ne 1 _ (by decide))
  rw [← h]
  rfl

theorem hdrCause_written (m : Nat) (d : Dev) : hdrCause (rewrite 0x6001 2 (seen m d)) = hdrCause d :=
  hdrCause_congr rfl (by rw [od_rewrite, od_seen (by decide)]) (by rw [od_rewrite, od_seen (by decide)])
    (by rw [od_rewrite, od_seen (by decide)])

/-- A header that fails a check ends the load with that check's cause. -/
theorem loadFails_lktStart (h : hdrCause d ≠ 0) : loadFails (hdrCause d) d (lktStart d) := by
  have hod : od (loadBegun d) 0x6001 7 = od d 0x6001 7 := od_put_ne 1 _ (by decide)
  rw [lktStart_eq, if_pos h]
  exact loadFails_of_base (x := loadBegun d) d rfl hod (loadFails_lktFail _ (hdrCause_lt d))

theorem odEffect_lktLoad (m : Nat) (d : Dev) : odEffect m none 0x6001 2 1 d = lktStart d := rfl

/-- The first word is asked for where the port rests (R97). -/
theorem keyNext_loadBegun_spec (d : Dev) :
    let x := keyNext (loadBegun d)
    od x 0x6001 3 = 1 ∧ x.loader.busy = true ∧ x.loader.sel = 1 ∧ x.loader.words = [] ∧
    (d.loader.req = false → d.loader.ackHigh = false → x.loader.req = true ∧ x.loader.idx = 0) ∧
    SameBut d x (fun y => { y with loader := x.loader }) [ek 0x6001 3] := by
  have hstate : od (loadBegun d) 0x6001 3 = 1 := od_put_self ..
  have hkeep : KeepsEntries d (loadBegun d) [ek 0x6001 3] := fun k hk => getK_put_ne 1 _ (by simpa using hk)
  intro x
  by_cases h : (loadBegun d).loader.busy ∧ ¬ (loadBegun d).loader.req ∧ ¬ (loadBegun d).loader.ackHigh
  · have hx : x = { loadBegun d with loader := { (loadBegun d).loader with req := true, idx := 0 } } := if_pos h
    rw [hx]
    exact ⟨hstate, rfl, rfl, rfl, fun _ _ => ⟨rfl, rfl⟩, hkeep, rfl⟩
  · have hx : x = loadBegun d := if_neg h
    rw [hx]
    exact ⟨hstate, rfl, rfl, rfl, fun hreq hack => absurd ⟨rfl, by simp [loadBegun, hreq], by simp [loadBegun, hack]⟩ h, hkeep, rfl⟩

/-- The next word is asked for as lk_ack falls, if the load waits for one (R97). -/
theorem keyNext_fallen (d : Dev) : keyNext { d with loader := { d.loader with ackHigh := false } } = { d with loader :=
    if d.loader.busy = true ∧ d.loader.req = false then { d.loader with ackHigh := false, req := true, idx := d.loader.words.length }
    else { d.loader with ackHigh := false } } := by
  unfold keyNext
  by_cases h : d.loader.busy = true ∧ d.loader.req = false
  · rw [if_pos h, if_pos (by simpa using h)]
  · rw [if_neg h, if_neg (by simpa using h)]

/-! ### The words of the key port (R97, R98, R338) -/

/-- The block whose key port has a word acknowledged: lk_req is lowered, and lk_ack is high. -/
def wordAcked (d : Dev) : Dev := { d with loader := { d.loader with req := false, ackHigh := true } }

/-- The block that has latched these words. -/
def withWords (ws : List (BitVec 64)) (d : Dev) : Dev := { d with loader := { d.loader with words := ws } }

/-- What a word that comes while it is asked for does. -/
def wordTaken (w : BitVec 64) (e : Bool) (d : Dev) : Dev :=
  let x := if e then cnt 0x2902 6 (wordAcked d) else wordAcked d
  if ¬ d.loader.busy then x else if e then lktFail 6 x else keyWord w x

theorem exec_keyWordAck (w : BitVec 64) (e : Bool) (s : State) : exec (.keyWordAck w e) s =
    run (fun d => if ¬ d.loader.req ∨ d.loader.ackHigh then d else wordTaken w e d) s := rfl

theorem completes_keyWordAck {s : State} {w : BitVec 64} {e : Bool} {P : Dev → Prop} (hreq : s.dev.loader.req = true)
    (hack : s.dev.loader.ackHigh = false) : Completes (.keyWordAck w e) s P ↔ P (wordTaken w e s.dev) := by
  rw [completes_run (exec_keyWordAck w e s), if_neg (by simp [hreq, hack])]

theorem wordTaken_of_bad {w : BitVec 64} (h : d.loader.busy = true) : wordTaken w true d = lktFail 6 (cnt 0x2902 6 (wordAcked d)) := by
  simp [wordTaken, h]

theorem wordTaken_of_good {w : BitVec 64} (h : d.loader.busy = true) : wordTaken w false d = keyWord w (wordAcked d) := by
  simp [wordTaken, h]

/-- Without a load the port's own state is all that changes of the loader. -/
theorem loader_wordTaken_of_idle {w : BitVec 64} {e : Bool} (h : d.loader.busy = false) :
    (wordTaken w e d).loader = { d.loader with req := false, ackHigh := true } := by
  unfold wordTaken
  dsimp only
  rw [if_pos (by simp [h])]
  split
  · exact loader_cnt ..
  · rfl

/-- A word that does not come, or comes with an error, is counted and ends the load (R98). -/
theorem lktFail_cnt_spec (d : Dev) : loadFails 6 d (lktFail 6 (cnt 0x2902 6 d)) ∧ Counted d (lktFail 6 (cnt 0x2902 6 d)) 0x2902 6 1 ∧
    (lktFail 6 (cnt 0x2902 6 d)).loader = { d.loader with busy := false, req := false, words := [] } := by
  refine ⟨?_, counted_of_keeps (cnt_spec 0x2902 6 d).1 (keeps_lktFail _) (by decide), ?_⟩
  · exact loadFails_of_base d (cnt_cfg ..) (od_cntN_ne 1 d (by decide)) (loadFails_lktFail _ (by decide))
  · rw [loader_lktFail, loader_cnt]

theorem sigCause_lt (b hash : Bytes) : sigCause b hash < 256 := by
  unfold sigCause
  dsimp only
  repeat' split
  all_goals decide

/-- A word that is not the last of its kind is latched. -/
theorem keyWord_of_short {w : BitVec 64} (h : (d.loader.words ++ [w]).length < if d.loader.sel = 1 then 6 else 4) :
    keyWord w d = withWords (d.loader.words ++ [w]) d := by
  unfold keyWord
  dsimp only
  split at h
  · next hsel => rw [if_pos hsel, if_pos h]; rfl
  · next hsel => rw [if_neg hsel, if_pos h]; rfl

/-- The sixth word of the hash lets the signature be checked. -/
theorem keyWord_of_hash {w : BitVec 64} {c : Nat} (hsel : d.loader.sel = 1) (h : (d.loader.words ++ [w]).length = 6)
    (hc : sigCause (getB d 0x6001 1) (keyBytes (d.loader.words ++ [w])) = c) :
    keyWord w d = if c = 0 then { d with loader := { d.loader with sel := 0, words := [] } }
      else lktFail c (withWords (d.loader.words ++ [w]) d) := by
  unfold keyWord
  dsimp only
  rw [if_pos hsel, if_neg (by omega), ite_not, hc]
  rfl

/-- The fourth word of the key opens the image. -/
theorem keyWord_of_key {w : BitVec 64} (hsel : d.loader.sel ≠ 1) (h : (d.loader.words ++ [w]).length = 4) :
    keyWord w d = lktOpen (keyBytes (d.loader.words ++ [w])) (withWords (d.loader.words ++ [w]) d) := by
  unfold keyWord
  dsimp only
  rw [if_neg hsel, if_neg (by omega)]
  rfl

/-- However an image that was opened ends, its load is over. -/
theorem loader_lktOpen (key : Bytes) (d : Dev) : (lktOpen key d).loader.busy = false ∧ (lktOpen key d).loader.req = false := by
  have hfail : ∀ c, (lktFail c d).loader.busy = false ∧ (lktFail c d).loader.req = false := by
    intro c
    rw [loader_lktFail]
    exact ⟨rfl, rfl⟩
  have haccept : ∀ rs, (lktAccept rs d).loader.busy = false ∧ (lktAccept rs d).loader.req = false := by
    intro rs
    unfold lktAccept
    rw [(kickFrame_kickAll _).loader]
    exact ⟨rfl, rfl⟩
  unfold lktOpen
  dsimp only
  split
  · exact hfail 9
  · split
    · exact hfail _
    · exact haccept _

end

/-! ### The statement -/

/-- Settles O28: a load by its header, a word by where it stands among those of its kind, and each end of a word by the port's state. -/
theorem locketLoading : Obligations.LocketLoading := by
  intro s
  refine ⟨fun m hacc => ?load, fun w e hreq hack => ⟨fun hbusy he => ?bad, fun hbusy he hlen => ?latched, fun hbusy he hsel hlen => ?hash,
    fun hbusy he hsel hlen => ?key, fun hbusy => ?idle⟩, fun w e h => ?noWord, fun hbusy hreq => ?late, fun h => ?noTimeout,
    fun hack => ?fall, fun hack => ?noFall⟩
  case load =>
    refine writeDoes_of_accepted rfl rfl hacc ?_
    have hcause : hdrCause (rewrite 0x6001 2 (seen m s.dev)) = hdrCause s.dev := hdrCause_written m s.dev
    have hctl : ControlKept (rewrite 0x6001 2 (seen m s.dev)) (lktStart (rewrite 0x6001 2 (seen m s.dev))) := (keep_lktStart (Keep.refl _)).control
    rw [odEffect_lktLoad]
    split
    · next h =>
      rw [lktStart_eq, hcause, if_neg (not_not.mpr h)]
      exact keyNext_loadBegun_spec _
    · next h =>
      rw [← hcause] at h ⊢
      exact ⟨loadFails_lktStart h, hctl⟩
  case bad =>
    rw [completes_keyWordAck hreq hack, he, wordTaken_of_bad hbusy]
    obtain ⟨hfails, hcounted, hloader⟩ := lktFail_cnt_spec (wordAcked s.dev)
    exact ⟨loadFails_of_base (x := wordAcked s.dev) s.dev rfl rfl hfails, by rw [hloader]; rfl, hcounted⟩
  case latched =>
    rw [completes_keyWordAck hreq hack, he, wordTaken_of_good hbusy, keyWord_of_short (d := wordAcked s.dev) hlen]
    rfl
  case hash =>
    intro c
    have hc : c < 256 := sigCause_lt ..
    rw [completes_keyWordAck hreq hack, he, wordTaken_of_good hbusy, keyWord_of_hash (d := wordAcked s.dev) (c := c) hsel hlen rfl]
    clear_value c
    split
    · rfl
    · exact loadFails_of_base (x := withWords (s.dev.loader.words ++ [w]) (wordAcked s.dev)) s.dev rfl rfl (loadFails_lktFail _ hc)
  case key =>
    rw [completes_keyWordAck hreq hack, he, wordTaken_of_good hbusy, keyWord_of_key (d := wordAcked s.dev) hsel hlen]
    obtain ⟨hidle, hlow⟩ := loader_lktOpen _ _
    exact ⟨hidle, hlow, Keep.control (keep_lktOpen (keep_same (Keep.refl s.dev) rfl))⟩
  case idle =>
    rw [completes_keyWordAck hreq hack]
    exact loader_wordTaken_of_idle hbusy
  case noWord =>
    refine (completes_run (exec_keyWordAck w e s)).mpr (if_pos ?_)
    simpa using h
  case late =>
    refine (completes_run rfl).mpr ?_
    rw [if_pos ⟨hbusy, hreq⟩]
    obtain ⟨hfails, hcounted, -⟩ := lktFail_cnt_spec s.dev
    exact ⟨hfails, hcounted⟩
  case noTimeout =>
    refine (completes_run rfl).mpr (if_neg ?_)
    rcases h with h | h <;> simp [h]
  case fall =>
    refine (completes_run rfl).mpr ?_
    rw [if_pos hack]
    exact keyNext_fallen s.dev
  case noFall => exact (completes_run rfl).mpr (if_neg (by simp [hack]))

end Sys2Proof.Machine
end

section
/-! SUPPORT. A configuration of 289 channels once more, which R2 does not support and which the statements on a word's next address and
on the micro-stack do not exclude: a data-in that corrects a word of SB bank 2 raises the mode in channel 288's active timing set, so that
condition 15 holds after the word's own operations and not before them (07_nand_interface.md R287; 08_microcode.md R321 to R323, R327;
13_queues_and_buffers.md R499). -/

namespace Sys2Proof.Machine

/-! ### The next address -/

/-- A data-in that branches to 0x123 on a mode above 1, and masks every event. -/
def wideBranch : UWord := { wideWord with emw := true }

theorem wordPlain_wideBranch : wordPlain wideDev 288 (.status 0) wideBranch quietEnv := by
  unfold wordPlain wordRuns noEvent
  decide +kernel

/-- The condition that the block before the word gives does not hold, so the statement has the routine go on at 0xC01. -/
theorem wordCond_wideBranch :
    wordCond wideDev (ucWord 288 wideBranch quietEnv wideDev) 288 (.status 0) wideBranch quietEnv = false := by
  decide +kernel

/-- The data-in has counted a second corrected error, the condition holds, and the word branches. -/
theorem pc_wideBranch : (seq (ucWord 288 wideBranch quietEnv wideDev) 288).pc = 0x123 := by decide +kernel

/-- Refutes O53: with 289 channels a branch does not go where the condition that the block before the word gives sends it. The
statement bounds a channel by the configuration's channels only, not by the 32 of R2, within which no entry of a channel is one of a
bank. -/
theorem not_microcodeNextAddress : ¬ Obligations.MicrocodeNextAddress := by
  unfold Obligations.MicrocodeNextAddress
  intro h
  have hrow : (Instr.branch, fun w : UWord => { w with nx := 1 }) ∈ ucRows := by simp [ucRows]
  obtain ⟨-, hbranch, -⟩ :=
    (completes_run rfl).mp (h _ hrow { dev := wideDev, pending := [] } 288 (.status 0) wideBranch quietEnv wordPlain_wideBranch)
  have hpc : (seq (ucWord 288 wideBranch quietEnv wideDev) 288).pc =
      if wordCond wideDev (ucWord 288 wideBranch quietEnv wideDev) 288 (.status 0) wideBranch quietEnv then wideBranch.nxa
      else (seq wideDev 288).pc + 1 := (hbranch rfl).1
  rw [pc_wideBranch, wordCond_wideBranch] at hpc
  exact absurd hpc (by decide +kernel)

/-! ### The micro-stack -/

/-- The block of 289 channels with 8 entries on channel 288's micro-stack; its bus is marked as held, and nothing waits for a quiet
boundary. -/
def wideFull : Dev :=
  { wideDev with
    chans := [(288, { Chan.reset with bus := some (.status 0), held := true })]
    seqs := [(288, { seq wideDev 288 with stack := List.replicate 8 (0, 0) })] }

/-- A data-in that waits for a mode above 1: it is a safe point only while it waits. -/
def wideWait : UWord := { wideWord with nx := 5, sp := false }

theorem eventDue_wideWait : eventDue wideFull 288 (.status 0) wideWait quietEnv 1 := by
  unfold eventDue wordRuns
  decide +kernel

/-- The data-in has raised the mode: the word no longer waits, no event is taken, and the channel's marks stay. -/
theorem marks_wideWait : (ucWord 288 wideWait quietEnv wideFull).cfg.channels = 289 ∧
    (chan (ucWord 288 wideWait quietEnv wideFull) 288).held = true ∧ boundaryWork (ucWord 288 wideWait quietEnv wideFull) 288 = false := by
  decide +kernel

/-- After a fault's recovery every channel has gone on, so that the last holds its bus only for work at its boundary (R298, R330). -/
theorem boundaryWork_of_faulted {ch cause n : Nat} {b : Burst} {d d' : Dev} (h : faulted ch cause b d d') (hn : d'.cfg.channels = n + 1)
    (hheld : (chan d' n).held = true) : boundaryWork d' n = true := by
  obtain ⟨x, rfl, -⟩ := h
  rw [(kickFrame_kickAll _).cfg] at hn
  obtain ⟨y, hy⟩ := kickAll_eq_kick hn
  rw [hy] at hheld ⊢
  exact boundaryWork_of_held_kick hheld

/-- Refutes O54: with 289 channels a WAIT that the block before the word makes a safe point is none, and its pending event raises no
STACK_OVER, as the channel's stale hold shows. The statement bounds a channel by the configuration's channels only, not by the 32 of
R2. -/
theorem not_microStack : ¬ Obligations.MicroStack := by
  unfold Obligations.MicroStack
  intro h
  have hrow : (Instr.wait, fun w : UWord => { w with nx := 5 }) ∈ ucRows := by simp [ucRows]
  obtain ⟨-, -, hevent, -⟩ := h _ hrow { dev := wideFull, pending := [] } 288 (.status 0) wideWait quietEnv
  have hfault : faulted 288 1 (.status 0) wideFull (ucWord 288 wideWait quietEnv wideFull) :=
    (completes_run rfl).mp (hevent 1 eventDue_wideWait (by decide +kernel))
  obtain ⟨hchannels, hheld, hwork⟩ := marks_wideWait
  exact absurd ((boundaryWork_of_faulted hfault hchannels hheld).symm.trans hwork) (by decide)

end Sys2Proof.Machine
end

section
/-! SUPPORT. Reads of the Staging Buffer by two blocks that differ in what a microcode word has changed before its data-in
(08_microcode.md R320, R322; 13_queues_and_buffers.md R470, R485, R486, R493): they differ in nothing else afterwards. -/

namespace Sys2Proof.Machine

/-- The entries that a word's own counts stand in: words corrected, and the longest span between safe points. -/
def wordKeys : List Nat := [ek 0x6000 0x0B, ek 0x6000 0x0D]

/-- The second block is the first with other channels, sequencers, free values and saturation marks, and with other counts of words. -/
def Beside (c : Tab Chan) (q : Tab Seq) (n : Nat) (d x : Dev) : Prop :=
  (∃ o s, x = { d with od := o, sat := s, chans := c, seqs := q, free := n }) ∧ KeepsEntries d x wordKeys

section
variable {c : Tab Chan} {q : Tab Seq} {n : Nat} {d x : Dev}

theorem Beside.od (h : Beside c q n d x) {i j : Nat} (hk : ek i j ∉ wordKeys) : od x i j = od d i j := h.2 _ hk

theorem Beside.chans (h : Beside c q n d x) : x.chans = c := by
  obtain ⟨⟨o, s, rfl⟩, -⟩ := h
  rfl

theorem Beside.seqs (h : Beside c q n d x) : x.seqs = q := by
  obtain ⟨⟨o, s, rfl⟩, -⟩ := h
  rfl

theorem beside_refl (d : Dev) : Beside d.chans d.seqs d.free d d := ⟨⟨d.od, d.sat, rfl⟩, keeps_refl d _⟩

theorem beside_ite {p r : Prop} [Decidable p] [Decidable r] {a b y z : Dev} (hp : p ↔ r) (ht : Beside c q n a y) (hf : Beside c q n b z) :
    Beside c q n (if p then a else b) (if r then y else z) := by
  by_cases h : p
  · rwa [if_pos h, if_pos (hp.mp h)]
  · rwa [if_neg h, if_neg (mt hp.mpr h)]

/-! ### Entries and messages -/

theorem beside_put (i j v : Nat) (h : Beside c q n d x) : Beside c q n (put i j v d) (put i j v x) := by
  obtain ⟨⟨o, s, rfl⟩, hk⟩ := h
  refine ⟨⟨_, _, rfl⟩, fun k hkeys => ?_⟩
  by_cases hkey : k = ek i j
  · rw [hkey, put, put, getK_putK_self, getK_putK_self]
  · rw [getK_put_ne _ _ hkey, getK_put_ne _ _ hkey]
    exact hk k hkeys

theorem beside_putBit {i j : Nat} (k : Nat) (b : Bool) (hk : ek i j ∉ wordKeys) (h : Beside c q n d x) :
    Beside c q n (putBit i j k b d) (putBit i j k b x) := by
  unfold putBit
  rw [h.od hk]
  exact beside_put _ _ _ h

theorem beside_cntN {i j : Nat} (m : Nat) (hk : ek i j ∉ wordKeys) (h : Beside c q n d x) :
    Beside c q n (cntN i j m d) (cntN i j m x) := by
  have hcfg : x.cfg = d.cfg := by
    obtain ⟨⟨o, s, rfl⟩, -⟩ := h
    rfl
  unfold cntN
  rw [h.od hk, hcfg]
  refine beside_ite Iff.rfl (beside_ite Iff.rfl (beside_put _ _ _ h) ?_) (beside_put _ _ _ h)
  obtain ⟨⟨o, s, hx⟩, hkeep⟩ := beside_put i j 0xFFFFFFFF h
  dsimp only
  rw [hx] at hkeep ⊢
  exact ⟨⟨_, _, rfl⟩, hkeep⟩

theorem beside_cnt {i j : Nat} (hk : ek i j ∉ wordKeys) (h : Beside c q n d x) : Beside c q n (cnt i j d) (cnt i j x) :=
  beside_cntN 1 hk h

theorem beside_send (u v : NUnit) (k : NClass) (m : Nat) (h : Beside c q n d x) : Beside c q n (send u v k m d) (send u v k m x) := by
  obtain ⟨⟨o, s, rfl⟩, hk⟩ := h
  unfold send sendFor
  exact beside_ite Iff.rfl ⟨⟨o, s, rfl⟩, hk⟩ ⟨⟨o, s, rfl⟩, hk⟩

theorem beside_sendVia (u v : NUnit) (k : NClass) (m : Nat) (h : Beside c q n d x) :
    Beside c q n (sendVia u v k m d) (sendVia u v k m x) := by
  unfold sendVia
  dsimp only
  have hsend : ∀ {p : Prop} [Decidable p] {u v : NUnit} {y z : Dev}, Beside c q n y z →
      Beside c q n (if p then y else send u v k m y) (if p then z else send u v k m z) :=
    fun hyz => beside_ite Iff.rfl hyz (beside_send _ _ _ _ hyz)
  exact hsend (hsend (hsend h))

/-! ### Faults and memory errors -/

theorem beside_flt (l : FltLog) (h : Beside c q n d x) : Beside c q n { d with flt := l } { x with flt := l } := by
  obtain ⟨⟨o, s, rfl⟩, hk⟩ := h
  exact ⟨⟨o, s, rfl⟩, hk⟩

theorem beside_dbq (l : List DbItem) (h : Beside c q n d x) : Beside c q n { d with dbq := l } { x with dbq := l } := by
  obtain ⟨⟨o, s, rfl⟩, hk⟩ := h
  exact ⟨⟨o, s, rfl⟩, hk⟩

theorem beside_memLog (l : MemLog) (h : Beside c q n d x) : Beside c q n { d with memLog := l } { x with memLog := l } := by
  obtain ⟨⟨o, s, rfl⟩, hk⟩ := h
  exact ⟨⟨o, s, rfl⟩, hk⟩

/-- What faults and memory errors read of a block besides entries. -/
theorem Beside.reads (h : Beside c q n d x) : x.cfg = d.cfg ∧ x.ts = d.ts ∧ x.up = d.up ∧ x.dbq = d.dbq ∧ x.flt = d.flt ∧
    x.memLog = d.memLog ∧ x.lan = d.lan ∧ (∀ key, readHeld x key = readHeld d key) ∧ ∀ b, bankOn x b = bankOn d b := by
  obtain ⟨⟨o, s, rfl⟩, -⟩ := h
  exact ⟨rfl, rfl, rfl, rfl, rfl, rfl, rfl, fun _ => rfl, fun _ => rfl⟩

theorem beside_fltBell (cls : Nat) (h : Beside c q n d x) : Beside c q n (fltBell cls d) (fltBell cls x) := by
  obtain ⟨-, -, -, hdbq, -⟩ := h.reads
  unfold fltBell
  rw [h.od (i := 0x2900) (j := 5) (by decide), h.od (i := 0x2900) (j := 6) (by decide), hdbq]
  exact beside_ite Iff.rfl (beside_send _ _ _ _ (beside_dbq _ h)) h

theorem beside_fltWrite (r : Flt) (h : Beside c q n d x) : Beside c q n (fltWrite r d) (fltWrite r x) := by
  obtain ⟨-, -, -, -, hflt, -⟩ := h.reads
  unfold fltWrite
  rw [h.od (i := 0x2900) (j := 2) (by decide), hflt]
  exact beside_put _ _ _ (beside_flt _ h)

section
variable {cls : Nat} (hcls : cls < 255)
include hcls

theorem beside_faultMark (h : Beside c q n d x) : Beside c q n (faultMark cls d) (faultMark cls x) := by
  refine beside_cnt ?_ (beside_putBit _ _ (by decide) h)
  simp only [wordKeys, ek, List.mem_cons, List.not_mem_nil, or_false]
  omega

theorem beside_fault (cause unit a b : Nat) (h : Beside c q n d x) :
    Beside c q n (fault cls cause unit a b d) (fault cls cause unit a b x) := by
  have hstart : Beside c q n (if unit = 0xFFFF then d else sendVia (domUnit d.cfg unit) .ao .msg 1 d)
      (if unit = 0xFFFF then x else sendVia (domUnit x.cfg unit) .ao .msg 1 x) := by
    rw [h.reads.1]
    exact beside_ite Iff.rfl h (beside_sendVia _ _ _ _ h)
  have hmark : ∀ {y z : Dev}, Beside c q n y z → Beside c q n (cnt 0x2901 (cls + 1) (putBit 0x2900 3 cls true y))
      (cnt 0x2901 (cls + 1) (putBit 0x2900 3 cls true z)) := beside_faultMark hcls
  unfold fault
  dsimp only
  generalize (if unit = 0xFFFF then d else sendVia (domUnit d.cfg unit) .ao .msg 1 d) = y at hstart ⊢
  generalize (if unit = 0xFFFF then x else sendVia (domUnit x.cfg unit) .ao .msg 1 x) = z at hstart ⊢
  have htb := hstart.od (i := 0x2010) (j := 2) (by decide)
  have hz := hstart.1
  obtain ⟨o, s, rfl⟩ := hz
  rw [htb]
  exact beside_ite Iff.rfl (hmark (beside_flt _ hstart)) (beside_ite Iff.rfl
    (beside_ite Iff.rfl (hmark (beside_flt _ hstart)) (beside_fltBell _ (hmark (beside_cnt (by decide) hstart))))
    (beside_fltBell _ (hmark (beside_fltWrite _ hstart))))

end

theorem beside_memBell (kind : Nat) (h : Beside c q n d x) : Beside c q n (memBell kind d) (memBell kind x) := by
  obtain ⟨-, -, -, hdbq, -⟩ := h.reads
  unfold memBell
  rw [h.od (i := 0x2910) (j := 3) (by decide), h.od (i := 0x2910) (j := 4) (by decide), hdbq]
  exact beside_ite Iff.rfl (beside_send _ _ _ _ (beside_dbq _ h)) h

theorem beside_memWrite (r : MemRec) (h : Beside c q n d x) : Beside c q n (memWrite r d) (memWrite r x) := by
  obtain ⟨-, -, -, -, -, hlog, -⟩ := h.reads
  unfold memWrite
  rw [hlog]
  exact beside_memBell _ (beside_cnt (by decide) (beside_memLog _ h))

theorem beside_memError (kind syn w unit : Nat) (h : Beside c q n d x) :
    Beside c q n (memError kind syn w unit d) (memError kind syn w unit x) := by
  have hfault : ∀ {y z : Dev}, Beside c q n y z → Beside c q n
      (if kind = 1 ∨ kind = 4 ∨ kind = 6 ∨ kind = 7 then fault 5 kind unit w syn y else y)
      (if kind = 1 ∨ kind = 4 ∨ kind = 6 ∨ kind = 7 then fault 5 kind unit w syn z else z) :=
    fun hyz => beside_ite Iff.rfl (beside_fault (by decide) _ _ _ _ hyz) hyz
  unfold memError
  dsimp only
  refine hfault ?_
  have hx := h.1
  obtain ⟨o, s, rfl⟩ := hx
  dsimp only
  cases d.memLog.held.getLast? with
  | some r => exact beside_ite Iff.rfl (beside_memLog _ h) (beside_ite Iff.rfl (beside_memLog _ h) h)
  | none =>
    cases d.memLog.log.getLast? with
    | some r =>
      exact beside_ite Iff.rfl (beside_memLog _ h) (beside_ite Iff.rfl (beside_memLog _ h) (beside_memWrite _ h))
    | none => exact beside_ite Iff.rfl (beside_memLog _ h) (beside_memWrite _ h)

/-! ### Reads of the buffer -/

/-- The counters of a bank of SB are none of the word counts. -/
theorem bankCounter_not_mem {b j : Nat} (hj : j < 256) : ek (0x7801 + 4 * b) j ∉ wordKeys := by
  simp only [wordKeys, ek, List.mem_cons, List.not_mem_nil, or_false]
  omega

theorem beside_sbNote (w flips : Nat) (h : Beside c q n d x) : Beside c q n (sbNote w flips d) (sbNote w flips x) := by
  unfold sbNote
  rw [h.reads.1]
  split
  · exact h
  · exact beside_memError _ _ _ _ (beside_cnt (bankCounter_not_mem (by decide)) h)
  · exact beside_memError _ _ _ _ (beside_cnt (bankCounter_not_mem (by decide)) h)

theorem beside_sbNotes (l : List (Nat × Nat)) (h : Beside c q n d x) : Beside c q n (sbNotes l d) (sbNotes l x) := by
  unfold sbNotes
  induction l generalizing d x with
  | nil => exact h
  | cons w l ih => exact ih (beside_sbNote _ _ h)

/-- The block that has sent the request of a read to its bank, and the bank's answer. -/
def sbAsked (u : NUnit) (a m : Nat) (d : Dev) : Dev :=
  let g := NUnit.sb (a / 524288 / 4)
  send g u .data (flits m) (send g u .rsp 1 (send u g .req 1 d))

/-- What a read of SB leaves (R485, R486): its wrong words noted, or an error of a bank that is not ON. -/
theorem sbFetch_dev (u : NUnit) (a m : Nat) (d : Dev) : (sbFetch u a m d).2.2 =
    if bankOn (sbAsked u a m d) (a / 524288) then sbNotes (wrongWords (sbAsked u a m d) a m) (sbAsked u a m d)
    else memError 1 0 (fld (a / 524288) 16 6 + a % 524288 / 8) (domSb (sbAsked u a m d).cfg (a / 524288 / 4))
      (cnt (0x7801 + 4 * (a / 524288)) 2 (sbAsked u a m d)) := by
  unfold sbFetch
  exact apply_ite (fun r : Bytes × List (Nat × Nat) × Dev => r.2.2) ..

/-- The blocks stay beside each other as they read the same bytes. -/
theorem beside_sbFetch (u : NUnit) (a m : Nat) (h : Beside c q n d x) :
    Beside c q n (sbFetch u a m d).2.2 (sbFetch u a m x).2.2 := by
  have hyz : Beside c q n (sbAsked u a m d) (sbAsked u a m x) := beside_send _ _ _ _ (beside_send _ _ _ _ (beside_send _ _ _ _ h))
  rw [sbFetch_dev, sbFetch_dev]
  generalize sbAsked u a m d = y at hyz ⊢
  generalize sbAsked u a m x = z at hyz ⊢
  obtain ⟨hcfg, -, -, -, -, -, hlan, -, hon⟩ := hyz.reads
  have hwrong : wrongWords z a m = wrongWords y a m := by
    unfold wrongWords
    rw [hlan]
  rw [hon, hwrong, hcfg]
  exact beside_ite Iff.rfl (beside_sbNotes _ hyz) (beside_memError _ _ _ _ (beside_cnt (bankCounter_not_mem (by decide)) hyz))

/-- A read of SB leaves the channels and the sequencers. -/
theorem sbFetch_chans (u : NUnit) (a m : Nat) (d : Dev) : (sbFetch u a m d).2.2.chans = d.chans := (beside_sbFetch u a m (beside_refl d)).chans

theorem sbFetch_seqs (u : NUnit) (a m : Nat) (d : Dev) : (sbFetch u a m d).2.2.seqs = d.seqs := (beside_sbFetch u a m (beside_refl d)).seqs

/-! ### Changes of the second block alone -/

/-- The second block differs from the first in channels, sequencers, free values, saturation marks and counts of words alone. -/
def BesideWord (d x : Dev) : Prop := ∃ c q n, Beside c q n d x

theorem besideWord_refl (d : Dev) : BesideWord d d := ⟨_, _, _, beside_refl d⟩

theorem besideWord_updSeq (i : Nat) (f : Seq → Seq) (h : BesideWord d x) : BesideWord d (updSeq i f x) := by
  obtain ⟨c, q, n, ⟨o, s, rfl⟩, hk⟩ := h
  exact ⟨_, _, _, ⟨_, _, rfl⟩, hk⟩

theorem besideWord_updChan (i : Nat) (f : Chan → Chan) (h : BesideWord d x) : BesideWord d (updChan i f x) := by
  obtain ⟨c, q, n, ⟨o, s, rfl⟩, hk⟩ := h
  exact ⟨_, _, _, ⟨_, _, rfl⟩, hk⟩

theorem besideWord_free (n : Nat) (h : BesideWord d x) : BesideWord d { x with free := n } := by
  obtain ⟨c, q, m, ⟨o, s, rfl⟩, hk⟩ := h
  exact ⟨_, _, _, ⟨_, _, rfl⟩, hk⟩

theorem besideWord_onlyEntries {y : Dev} (h : BesideWord d x) (hy : OnlyEntries x y wordKeys) : BesideWord d y := by
  obtain ⟨c, q, n, ⟨o, s, rfl⟩, hk⟩ := h
  obtain ⟨hkeep, hy⟩ := hy
  exact ⟨c, q, n, ⟨y.od, y.sat, hy⟩, keeps_trans hk hkeep⟩

theorem besideWord_sbFetch (u : NUnit) (a m : Nat) (h : BesideWord d x) : BesideWord (sbFetch u a m d).2.2 (sbFetch u a m x).2.2 := by
  obtain ⟨c, q, n, h⟩ := h
  exact ⟨c, q, n, beside_sbFetch u a m h⟩

theorem BesideWord.rest (h : BesideWord d x) : KeepsEntries d x wordKeys ∧
    x = { d with od := x.od, sat := x.sat, chans := x.chans, seqs := x.seqs, free := x.free } := by
  obtain ⟨c, q, n, ⟨o, s, rfl⟩, hk⟩ := h
  exact ⟨hk, rfl⟩

end

end Sys2Proof.Machine
end

section
/-! SUPPORT. One plain word of a channel's microcode (08_microcode.md R318 to R327): its register and bus operations, and what its timer,
mask, report and next address leave of them and of the block. -/

namespace Sys2Proof.Machine

/-! ### The rows -/

theorem exec_ucRow : ∀ p ∈ ucRows, ∀ (ch : Nat) (w : UWord) (e : UEnv) (s : State), exec (p.1 ch w e) s = run (ucWord ch (p.2 w) e) s := by
  simp only [ucRows, List.cons_append, List.nil_append, List.forall_mem_cons, List.not_mem_nil, false_imp_iff, implies_true, and_true]
  and_intros
  all_goals exact fun _ _ _ _ => rfl

/-! ### Registers -/

@[simp] theorem Seq.reg_setReg (s : Seq) (r k : BitVec 4) (v : BitVec 32) : (s.setReg r v).reg k = if k = r then v else s.reg k := by
  unfold Seq.reg Seq.setReg
  split
  · next h => rw [h, tabGet_tabSet_self]
  · next h => exact tabGet_tabSet_ne _ _ _ _ (mt BitVec.eq_of_toNat_eq h)

theorem Seq.reg_congr {a b : Seq} (h : a.g = b.g) (k : BitVec 4) : a.reg k = b.reg k := by
  unfold Seq.reg
  rw [h]

/-- What the register operation of a word makes of the registers: `k` is the CARRY that the spec leaves open. -/
def wordAlu (ch : Nat) (w : UWord) (k : Bool) (s : Seq) : AluOut := alu w.aop.toNat (s.reg w.ra) w.imm (Config.hwField ch w.imm s.ldfs) k

/-- What of a sequencer a word's timer, mask, report and next address leave: registers, flags, hardware fields with the loads made, the
patches, and what belongs to the burst. -/
def Seq.lasting (s : Seq) : Tab (BitVec 32) × (Bool × Bool × Bool) × (Tab (BitVec 32) × Nat) × (Tab Nat × Tab Nat × List (Nat × Nat × Nat)) ×
    (Nat × Bool × Bool × Bool) :=
  (s.g, (s.zf, s.nf, s.cf), (s.fields, s.ldfs), (s.ram, s.disp, s.regions), (s.burst, s.badStart, s.leave, s.install))

section
variable (ch : Nat) (w : UWord) (e : UEnv) (k : Bool) (s : Seq)

/-- A register operation as one change of the record: the result where there is one, the flags where they are set, the hardware fields
of LDF and STF. -/
theorem regOp_eq : regOp ch w k s = { s with
    g := (wordAlu ch w k s).v.elim s.g (fun v => tabSet 0 s.g w.rb.toNat v)
    zf := ((wordAlu ch w k s).fl.getD (s.zf, s.nf, s.cf)).1
    nf := ((wordAlu ch w k s).fl.getD (s.zf, s.nf, s.cf)).2.1
    cf := ((wordAlu ch w k s).fl.getD (s.zf, s.nf, s.cf)).2.2
    ldfs := if w.aop = 11 then s.ldfs + 1 else s.ldfs
    fields := if w.aop = 12 then tabSet 0 s.fields w.imm.toNat (s.reg w.ra) else s.fields } := by
  unfold regOp wordAlu
  dsimp only
  generalize alu w.aop.toNat (s.reg w.ra) w.imm (Config.hwField ch w.imm s.ldfs) k = o
  obtain ⟨v, fl⟩ := o
  by_cases h11 : w.aop = 11
  · have h12 : w.aop ≠ 12 := by rw [h11]; decide
    simp only [if_pos h11, if_neg h12]
    cases v <;> cases fl <;> rfl
  · simp only [if_neg h11]
    split <;> cases v <;> cases fl <;> rfl

theorem reg_regOp (r : BitVec 4) : (regOp ch w k s).reg r = if r = w.rb then (wordAlu ch w k s).v.getD (s.reg w.rb) else s.reg r := by
  have hg : (regOp ch w k s).g = (wordAlu ch w k s).v.elim s.g (fun v => tabSet 0 s.g w.rb.toNat v) := by rw [regOp_eq]
  cases h : (wordAlu ch w k s).v with
  | none =>
    rw [h] at hg
    rw [Seq.reg_congr hg]
    split
    · next hr => rw [hr]; rfl
    · rfl
  | some v =>
    rw [h] at hg
    exact (Seq.reg_congr (b := s.setReg w.rb v) hg r).trans (Seq.reg_setReg s w.rb r v)

theorem g_busOp : (busOp w e s).g = if w.bop = 9 then (s.setReg w.rb (e.data.setWidth 32)).g
    else if w.bop = 5 then (s.setReg 0 (e.stat.setWidth 32)).g else s.g := by
  have hcycle : (if w.bop = 0 then s else { s with cycle := w.bop.toNat }).g = s.g := by split <;> rfl
  have hne : ∀ {v : BitVec 4}, w.bop.toNat ≠ v.toNat → w.bop ≠ v := fun h hv => h (congrArg BitVec.toNat hv)
  unfold busOp Seq.setReg
  dsimp only
  generalize (if w.bop = 0 then s else { s with cycle := w.bop.toNat }) = x at hcycle ⊢
  split
  case h_3 h => rw [if_neg (hne (by rw [h]; decide)), if_pos (BitVec.eq_of_toNat_eq h), hcycle]
  case h_7 h => rw [if_pos (BitVec.eq_of_toNat_eq h), hcycle]
  case h_8 h5 _ _ _ h9 => rw [if_neg (hne (v := 9) h9), if_neg (hne (v := 5) h5), hcycle]
  all_goals
    next h => rw [if_neg (hne (by rw [h]; decide)), if_neg (hne (by rw [h]; decide)), ← hcycle]

/-- A status read fills g0, and a data read its destination register; no other bus operation changes a register. -/
theorem reg_busOp (r : BitVec 4) : (busOp w e s).reg r =
    if w.bop = 9 ∧ r = w.rb then e.data.setWidth 32 else if w.bop = 5 ∧ r = 0 then e.stat.setWidth 32 else s.reg r := by
  have hg := g_busOp w e s
  by_cases h9 : w.bop = 9
  · rw [if_pos h9] at hg
    rw [Seq.reg_congr hg, Seq.reg_setReg]
    simp [h9]
  · rw [if_neg h9] at hg
    by_cases h5 : w.bop = 5
    · rw [if_pos h5] at hg
      rw [Seq.reg_congr hg, Seq.reg_setReg]
      simp [h5]
    · rw [if_neg h5] at hg
      rw [Seq.reg_congr hg, if_neg fun h => h9 h.1, if_neg fun h => h5 h.1]

theorem lasting_busOp : (busOp w e s).lasting.2 = s.lasting.2 := by
  unfold busOp
  dsimp only
  split <;> split <;> rfl

end

/-! ### The word up to its next address -/

/-- The block as a word without a fault begins: a corrected error of its word has been counted, and the word is to be rewritten (R319). -/
def WordBegun (ch : Nat) (d x : Dev) : Prop :=
  x = d ∨ ∃ f : Seq → List Nat, x = cnt 0x6000 0x0B (updSeq ch (fun q => { q with rewrite := f q }) d)

/-- The word from its bus operation to its report. -/
def wordRest (ch : Nat) (w : UWord) (e : UEnv) (x : Dev) : Dev :=
  let y := updSeq ch (busOp w e) (streamOp ch w x)
  updSeq ch (fun q => { q with
    emask := if w.emw then w.emv else q.emask, posts := if w.post = 0 then q.posts else q.posts ++ [w.post.toNat] })
    (updSeq ch (timerOp y ch w) y)

/-- The CARRY of a register operation that leaves it open: the block's next free value (log 9). -/
def openCarry (w : UWord) (d : Dev) : Bool := carryFree w && (Config.freeWord d.free).getLsbD 0

/-- The free value that a word takes, if any. -/
theorem wordFree_eq (w : UWord) (d : Dev) : ∃ v n,
    (if carryFree w then freeVal d else ((0 : BitVec 32), d)) = (v, { d with free := n }) ∧ v.getLsbD 0 = openCarry w d := by
  by_cases h : carryFree w = true
  · exact ⟨Config.freeWord d.free, d.free + 1, by rw [if_pos h]; rfl, by simp [openCarry, h]⟩
  · exact ⟨0, d.free, by rw [if_neg h], by simp [openCarry, h]⟩

/-- The register operation comes first; one that leaves CARRY open takes a free value. -/
theorem wordBody_eq (ch : Nat) (w : UWord) (e : UEnv) (d : Dev) :
    ∃ n, wordBody ch w e d = wordRest ch w e (updSeq ch (regOp ch w (openCarry w d)) { d with free := n }) := by
  obtain ⟨v, n, hfree, hcarry⟩ := wordFree_eq w d
  unfold wordBody
  dsimp only
  rw [hfree, hcarry]
  exact ⟨n, rfl⟩

section
variable {ch : Nat} {w : UWord} {e : UEnv} {b : Burst} {d x : Dev}

theorem streamOp_of_din (h : w.bop = 3) : streamOp ch w d =
    let f := sbFetch (.cu ch) (64 * ((seq d ch).reg 6).toNat) ((seq d ch).reg 9).toNat d
    updChan ch (fun c => { c with driven := f.1 }) f.2.2 := if_pos h

theorem streamOp_of_ne (h : w.bop ≠ 3) : streamOp ch w d = d := if_neg h

@[simp] theorem seq_streamOp (i : Nat) : seq (streamOp ch w d) i = seq d i := by
  by_cases h : w.bop = 3
  · rw [streamOp_of_din h]
    dsimp only
    rw [seq_updChan]
    unfold seq
    rw [sbFetch_seqs]
  · rw [streamOp_of_ne h]

/-- A data-in drives bytes on its channel, and changes no other. -/
theorem chan_streamOp : chan (streamOp ch w d) ch = { chan d ch with driven := (chan (streamOp ch w d) ch).driven } ∧
    ∀ i, i ≠ ch → chan (streamOp ch w d) i = chan d i := by
  by_cases h : w.bop = 3
  · have hread : ∀ u a m i, chan (sbFetch u a m d).2.2 i = chan d i := by
      intro u a m i
      unfold chan
      rw [sbFetch_chans]
    rw [streamOp_of_din h]
    dsimp only
    refine ⟨?_, fun i hi => ?_⟩
    · rw [chan_updChan_self, hread]
    · rw [chan_updChan_ne _ _ hi, hread]
  · rw [streamOp_of_ne h]
    exact ⟨rfl, fun _ _ => rfl⟩

/-- The block with what a data-in reads of it for a sequencer's g6 and g9. -/
def dinBase (ch : Nat) (w : UWord) (q : Seq) (d : Dev) : Dev :=
  if w.bop = 3 then (sbFetch (.cu ch) (64 * (q.reg 6).toNat) (q.reg 9).toNat d).2.2 else d

theorem dinBase_congr {q r : Seq} (h : w.bop = 3 → q.g = r.g) : dinBase ch w q d = dinBase ch w r d := by
  unfold dinBase
  split
  · next hbop => rw [Seq.reg_congr (h hbop), Seq.reg_congr (h hbop)]
  · rfl

theorem besideWord_streamOp (h : BesideWord d x) : BesideWord (dinBase ch w (seq x ch) d) (streamOp ch w x) := by
  unfold dinBase
  by_cases hbop : w.bop = 3
  · rw [if_pos hbop, streamOp_of_din hbop]
    exact besideWord_updChan _ _ (besideWord_sbFetch _ _ _ h)
  · rw [if_neg hbop, streamOp_of_ne hbop]
    exact h

theorem lasting_timerOp (y : Dev) (q : Seq) : (timerOp y ch w q).lasting = q.lasting := by
  unfold timerOp
  split <;> rfl

theorem flow_timerOp (y : Dev) (q : Seq) : ((timerOp y ch w q).stack, (timerOp y ch w q).emask) = (q.stack, q.emask) := by
  unfold timerOp
  split <;> rfl

theorem flow_busOp (q : Seq) : ((busOp w e q).stack, (busOp w e q).emask) = (q.stack, q.emask) := by
  unfold busOp
  dsimp only
  split <;> split <;> rfl

/-- What the rest of a word makes of its channel's sequencer. -/
theorem seq_wordRest : (seq (wordRest ch w e x) ch).lasting = (busOp w e (seq x ch)).lasting ∧
    (seq (wordRest ch w e x) ch).stack = (seq x ch).stack ∧
    (seq (wordRest ch w e x) ch).emask = (if w.emw then w.emv else (seq x ch).emask) := by
  have hbus := Prod.mk.inj (flow_busOp (w := w) (e := e) (seq x ch))
  unfold wordRest
  dsimp only
  rw [seq_updSeq_self, seq_updSeq_self, seq_updSeq_self, seq_streamOp]
  generalize updSeq ch (busOp w e) (streamOp ch w x) = y
  have htimer := Prod.mk.inj (flow_timerOp (ch := ch) (w := w) y (busOp w e (seq x ch)))
  refine ⟨(lasting_timerOp y _), htimer.1.trans hbus.1, ?_⟩
  dsimp only
  rw [htimer.2, hbus.2]

theorem seq_wordRest_ne {i : Nat} (h : i ≠ ch) : seq (wordRest ch w e x) i = seq x i := by
  unfold wordRest
  dsimp only
  rw [seq_updSeq_ne _ _ h, seq_updSeq_ne _ _ h, seq_updSeq_ne _ _ h, seq_streamOp]

theorem chan_wordRest (i : Nat) : chan (wordRest ch w e x) i = chan (streamOp ch w x) i := by
  unfold wordRest
  dsimp only
  rw [chan_updSeq, chan_updSeq, chan_updSeq]

theorem besideWord_wordRest (h : BesideWord d x) : BesideWord (dinBase ch w (seq x ch) d) (wordRest ch w e x) := by
  have hread := besideWord_streamOp (ch := ch) (w := w) h
  unfold wordRest
  dsimp only
  generalize streamOp ch w x = y at hread ⊢
  exact besideWord_updSeq _ _ (besideWord_updSeq _ _ (besideWord_updSeq _ _ hread))

/-! ### The next address -/

/-- A word that finds room for its call, an entry for its return and a valid entry for its dispatch raises no fault of its own. -/
theorem flowOf_ne_bad {q : Seq} (c : Bool) (hcall : w.nx = 2 → q.stack.length < 8) (hret : w.nx = 3 → q.stack ≠ [])
    (hdisp : w.nx = 4 → (dispTarget q w.dsel.toNat ((q.reg w.ra).toNat % 64)).isSome = true) (cause : Nat) : flowOf w c q ≠ .bad cause := by
  unfold flowOf
  dsimp only
  split
  case h_2 h =>
    rw [if_pos (hcall (BitVec.eq_of_toNat_eq h))]
    exact Flow.noConfusion
  case h_3 h =>
    have hroom := hret (BitVec.eq_of_toNat_eq h)
    split
    · exact Flow.noConfusion
    · next hempty => exact absurd hempty hroom
  case h_4 h =>
    have hvalid := hdisp (BitVec.eq_of_toNat_eq h)
    split
    · exact Flow.noConfusion
    · next hnone => simp [hnone] at hvalid
  all_goals exact Flow.noConfusion

/-- Without an event and a fault the word goes to its next address, or ends its routine; the longest span is noted. -/
theorem wordNext_of_plain {pend : Byte} (hev : eventOf pend (seq x ch).emask = none)
    (hgo : ∀ c cause, flowOf w c (seq x ch) ≠ .bad cause) :
    ∃ f y, (∀ q, (f q).lasting = q.lasting) ∧ (y = x ∨ ∃ v, y = put 0x6000 0x0D v x) ∧ wordNext ch b w e pend x = updSeq ch f y := by
  have hpeak : ∀ gap : Nat, let y := if od x 0x6000 0x0D < gap then put 0x6000 0x0D (min gap 256) x else x
      y = x ∨ ∃ v, y = put 0x6000 0x0D v x := by
    intro gap
    dsimp only
    split
    · exact .inr ⟨_, rfl⟩
    · exact .inl rfl
  unfold wordNext
  dsimp only
  rw [hev, ite_self]
  dsimp only
  split
  · refine ⟨_, _, ?_, ?_, rfl⟩
    · exact fun _ => rfl
    · exact hpeak _
  · refine ⟨_, _, ?_, ?_, rfl⟩
    · exact fun _ => rfl
    · exact hpeak _
  · next hbad => exact absurd hbad (hgo _ _)

/-- A word below the limit between safe points, without an uncorrectable error, takes effect and goes to its next address. -/
theorem wordRun_of_within (hecc : (ramAddr (seq d ch)).isSome = true → e.ecc ≠ .double)
    (hgap : w.sp = true ∨ (seq d ch).gap + wordCycles w e < 256) :
    ∃ x, WordBegun ch d x ∧ wordRun ch b w e d = wordNext ch b w e (seq d ch).epend (wordBody ch w e x) := by
  have hlimit : ∀ c, ¬ (¬ safePoint w c = true ∧ 256 ≤ (seq d ch).gap + wordCycles w e) := by
    rintro c ⟨hsafe, hover⟩
    rcases hgap with h | h
    · simp [safePoint, h] at hsafe
    · omega
  unfold wordRun
  dsimp only
  rw [if_neg fun h => hecc h.1 h.2, if_neg (hlimit _)]
  by_cases h : (ramAddr (seq d ch)).isSome = true ∧ e.ecc = .single
  · exact ⟨_, .inr ⟨_, rfl⟩, by rw [if_pos h]⟩
  · exact ⟨_, .inl rfl, by rw [if_neg h]⟩

/-! ### A plain word as a whole -/

/-- A sequencer after a word's register and bus operations. -/
def wordRegs (ch : Nat) (w : UWord) (e : UEnv) (k : Bool) (q : Seq) : Seq := busOp w e (regOp ch w k q)

/-- The words to be rewritten matter to neither operation. -/
theorem lasting_wordRegs_rewrite (k : Bool) (q : Seq) (r : List Nat) :
    (wordRegs ch w e k { q with rewrite := r }).lasting = (wordRegs ch w e k q).lasting := by
  have hreg : regOp ch w k { q with rewrite := r } = { regOp ch w k q with rewrite := r } := by
    rw [regOp_eq, regOp_eq]
    rfl
  have hbus : ∀ t : Seq, (busOp w e { t with rewrite := r }).lasting = (busOp w e t).lasting := by
    intro t
    unfold busOp
    dsimp only
    split <;> split <;> rfl
  unfold wordRegs
  rw [hreg, hbus]

/-- Neither operation changes patches or what belongs to the burst. -/
theorem kept_wordRegs (k : Bool) (q : Seq) : (wordRegs ch w e k q).lasting.2.2.2 = q.lasting.2.2.2 := by
  have hreg : (regOp ch w k q).lasting.2.2.2 = q.lasting.2.2.2 := by
    rw [regOp_eq]
    rfl
  exact (congrArg (fun t => t.2.2) (lasting_busOp w e (regOp ch w k q))).trans hreg

theorem flow_regOp (k : Bool) (q : Seq) : ((regOp ch w k q).stack, (regOp ch w k q).emask) = (q.stack, q.emask) := by rw [regOp_eq]

theorem WordBegun.seq (h : WordBegun ch d x) : (∃ r, Machine.seq x ch = { Machine.seq d ch with rewrite := r }) ∧
    ∀ i, i ≠ ch → Machine.seq x i = Machine.seq d i := by
  have hcnt : ∀ (i : Nat) (y : Dev), Machine.seq (cnt 0x6000 0x0B y) i = Machine.seq y i := by
    intro i y
    rw [(cnt_spec 0x6000 0x0B y).2.2]
    rfl
  rcases h with rfl | ⟨f, rfl⟩
  · exact ⟨⟨_, rfl⟩, fun _ _ => rfl⟩
  · simp only [hcnt, seq_updSeq_self]
    exact ⟨⟨_, rfl⟩, fun i hi => seq_updSeq_ne _ _ hi⟩

theorem WordBegun.beside (h : WordBegun ch d x) : BesideWord d x := by
  rcases h with rfl | ⟨f, rfl⟩
  · exact besideWord_refl _
  · exact besideWord_onlyEntries (besideWord_updSeq _ _ (besideWord_refl d)) ((cnt_spec 0x6000 0x0B _).2.mono (by simp [wordKeys]))

theorem WordBegun.chans (h : WordBegun ch d x) : x.chans = d.chans ∧ x.free = d.free := by
  rcases h with rfl | ⟨f, rfl⟩
  · exact ⟨rfl, rfl⟩
  · rw [(cnt_spec 0x6000 0x0B _).2.2]
    exact ⟨rfl, rfl⟩

/-- What a word's effect up to its next address makes of its channel's sequencer. -/
theorem seq_wordBody (h : WordBegun ch d x) :
    (seq (wordBody ch w e x) ch).lasting = (wordRegs ch w e (openCarry w d) (seq d ch)).lasting ∧
    (seq (wordBody ch w e x) ch).stack = (seq d ch).stack ∧ (seq (wordBody ch w e x) ch).emask = wordMask d ch w := by
  obtain ⟨⟨r, hr⟩, -⟩ := h.seq
  have hcarry : openCarry w x = openCarry w d := by rw [openCarry, h.chans.2, openCarry]
  obtain ⟨n, hbody⟩ := wordBody_eq ch w e x
  have hseq : seq (updSeq ch (regOp ch w (openCarry w x)) { x with free := n }) ch = regOp ch w (openCarry w d) (seq x ch) := by
    rw [seq_updSeq_self, hcarry]
    rfl
  obtain ⟨hlast, hstack, hmask⟩ :=
    seq_wordRest (ch := ch) (w := w) (e := e) (x := updSeq ch (regOp ch w (openCarry w x)) { x with free := n })
  rw [hseq] at hlast hstack hmask
  have hflow := Prod.mk.inj (flow_regOp (ch := ch) (w := w) (openCarry w d) (seq x ch))
  rw [← hbody] at hlast hstack hmask
  refine ⟨?_, ?_, ?_⟩
  · rw [hlast, ← lasting_wordRegs_rewrite _ _ r, ← hr]
    rfl
  · rw [hstack, hflow.1, hr]
  · rw [hmask, hflow.2, hr]
    rfl

/-- What a word's effect up to its next address leaves of the channels, of the other sequencers and of the rest of the block. -/
theorem wordBody_frame (h : WordBegun ch d x) :
    BesideWord (dinBase ch w (wordRegs ch w e (openCarry w d) (seq d ch)) d) (wordBody ch w e x) ∧
    (∀ i, i ≠ ch → chan (wordBody ch w e x) i = chan d i ∧ seq (wordBody ch w e x) i = seq d i) ∧
    chan (wordBody ch w e x) ch = { chan d ch with driven := (chan (wordBody ch w e x) ch).driven } := by
  obtain ⟨⟨r, hr⟩, hother⟩ := h.seq
  obtain ⟨hchans, hfree⟩ := h.chans
  have hcarry : openCarry w x = openCarry w d := by rw [openCarry, hfree, openCarry]
  have hchan : ∀ i, chan x i = chan d i := fun i => by rw [chan, hchans, chan]
  obtain ⟨n, hbody⟩ := wordBody_eq ch w e x
  have hg : w.bop = 3 → (regOp ch w (openCarry w d) (seq x ch)).g = (wordRegs ch w e (openCarry w d) (seq d ch)).g := by
    intro hbop
    have hrewrite := congrArg Prod.fst (lasting_wordRegs_rewrite (ch := ch) (w := w) (e := e) (openCarry w d) (seq d ch) r)
    rw [← hr] at hrewrite
    have hbus := g_busOp w e (regOp ch w (openCarry w d) (seq x ch))
    rw [if_neg (by rw [hbop]; decide), if_neg (by rw [hbop]; decide)] at hbus
    exact hbus.symm.trans hrewrite
  have hbegin : BesideWord d (updSeq ch (regOp ch w (openCarry w x)) { x with free := n }) :=
    besideWord_updSeq _ _ (besideWord_free _ h.beside)
  have hstart : seq (updSeq ch (regOp ch w (openCarry w x)) { x with free := n }) ch = regOp ch w (openCarry w d) (seq x ch) := by
    rw [seq_updSeq_self, hcarry]
    rfl
  have hrest := besideWord_wordRest (ch := ch) (w := w) (e := e) hbegin
  obtain ⟨hself, hne⟩ := chan_streamOp (ch := ch) (w := w) (d := updSeq ch (regOp ch w (openCarry w x)) { x with free := n })
  rw [hstart, dinBase_congr hg] at hrest
  simp only [← chan_wordRest (e := e), chan_updSeq] at hself hne
  rw [← hbody] at hrest hself hne
  refine ⟨hrest, fun i hi => ⟨(hne i hi).trans (hchan i), ?_⟩, hself.trans ?_⟩
  · rw [hbody, seq_wordRest_ne hi, seq_updSeq_ne _ _ hi]
    exact hother i hi
  · exact congrArg (fun c : Chan => { c with driven := (chan (wordBody ch w e x) ch).driven }) (hchan ch)

/-- A plain word takes effect and goes to its next address. -/
theorem ucWord_of_plain (h : wordPlain d ch b w e) : ∃ x f y, WordBegun ch d x ∧ (∀ q, (f q).lasting = q.lasting) ∧
    (y = wordBody ch w e x ∨ ∃ v, y = put 0x6000 0x0D v (wordBody ch w e x)) ∧ ucWord ch w e d = updSeq ch f y := by
  obtain ⟨⟨hbus, hch, hon, hstart, hrun, hfits, hecc⟩, hev, hgap, hcall, hret, hdisp⟩ := h
  obtain ⟨x, hbegun, hword⟩ := wordRun_of_within (b := b) hecc hgap
  obtain ⟨hlast, hstack, hmask⟩ := seq_wordBody (w := w) (e := e) hbegun
  obtain ⟨hown, -, -⟩ := seq_wordBody (ch := ch) (w := w) (e := e) (d := d) (.inl rfl)
  have hsame := hlast.trans hown.symm
  have htarget : w.nx = 4 → (dispTarget (seq (wordBody ch w e x) ch) w.dsel.toNat
      (((seq (wordBody ch w e x) ch).reg w.ra).toNat % 64)).isSome = true := by
    intro hnx
    have htable : (seq (wordBody ch w e x) ch).disp = (seq d ch).disp := by
      exact congrArg (fun t => t.2.2.2.1.2.1) hlast |>.trans (congrArg (fun t => t.1.2.1) (kept_wordRegs _ _))
    have hvalid := hdisp hnx
    unfold wordTarget dispTarget dispEntry at hvalid
    unfold dispTarget dispEntry
    rwa [htable, Seq.reg_congr (congrArg Prod.fst hsame)]
  obtain ⟨f, y, hf, hy, hnext⟩ := wordNext_of_plain (ch := ch) (b := b) (w := w) (e := e) (x := wordBody ch w e x)
    (pend := (seq d ch).epend) (by rw [hmask]; exact hev) fun c => flowOf_ne_bad c (by rwa [hstack]) (by rwa [hstack]) htarget
  refine ⟨x, f, y, hbegun, hf, hy, ?_⟩
  unfold ucWord
  rw [hbus]
  dsimp only
  rw [if_neg (not_not_intro ⟨hch, hon⟩), if_neg (by simp [hstart]), if_pos ⟨hrun, hfits⟩, hword, hnext]

/-- A plain word leaves its channel's registers, flags and fields as its register and bus operations do. -/
theorem lasting_ucWord (h : wordPlain d ch b w e) :
    (seq (ucWord ch w e d) ch).lasting = (wordRegs ch w e (openCarry w d) (seq d ch)).lasting := by
  obtain ⟨x, f, y, hbegun, hf, hy, hword⟩ := ucWord_of_plain h
  have hseq : seq y ch = seq (wordBody ch w e x) ch := by
    rcases hy with rfl | ⟨v, rfl⟩ <;> rfl
  rw [hword, seq_updSeq_self, hf, hseq]
  exact (seq_wordBody hbegun).1

/-- A plain word changes its channel, its sequencer, and what a data-in reads, and of the rest no more than the counts of words. -/
theorem wordFrame_ucWord (h : wordPlain d ch b w e) : wordFrame d (ucWord ch w e d) ch w := by
  have hlast := lasting_ucWord h
  obtain ⟨x, f, y, hbegun, -, hy, hword⟩ := ucWord_of_plain h
  obtain ⟨hbeside, hother, hown⟩ := wordBody_frame (w := w) (e := e) hbegun
  have hparts : (∀ i, chan y i = chan (wordBody ch w e x) i ∧ seq y i = seq (wordBody ch w e x) i) ∧
      OnlyEntries (wordBody ch w e x) y wordKeys := by
    rcases hy with rfl | ⟨v, rfl⟩
    · exact ⟨fun _ => ⟨rfl, rfl⟩, keeps_refl _ _, rfl⟩
    · exact ⟨fun _ => ⟨rfl, rfl⟩, (onlyEntries_put ..).mono (by simp [wordKeys])⟩
  obtain ⟨hsame, honly⟩ := hparts
  have hchan : ∀ i, chan (ucWord ch w e d) i = chan (wordBody ch w e x) i := fun i => by rw [hword, chan_updSeq, (hsame i).1]
  have hrest : BesideWord (dinBase ch w (wordRegs ch w e (openCarry w d) (seq d ch)) d) (ucWord ch w e d) := by
    rw [hword]
    exact besideWord_updSeq _ _ (besideWord_onlyEntries hbeside honly)
  rw [← dinBase_congr fun _ => congrArg Prod.fst hlast] at hrest
  have hkept := hlast ▸ kept_wordRegs (ch := ch) (w := w) (e := e) (openCarry w d) (seq d ch)
  simp only [Seq.lasting, Prod.mk.injEq] at hkept
  obtain ⟨⟨hram, hdisp, hregions⟩, hburst, hstart, hleave, hinstall⟩ := hkept
  refine ⟨fun i hi => ?_, fun i hi => (hchan i).trans (hother i hi).1, ?_, hrest.rest.1, hrest.rest.2, hburst, hstart, hram, hdisp,
    hregions, hleave, hinstall⟩
  · rw [hword, seq_updSeq_ne _ _ hi, (hsame i).2]
    exact (hother i hi).2
  · rw [hchan]
    exact hown

end

/-! ### The register operations -/

/-- What every plain word leaves in the registers: a read's data and status, the register operation's result, and the rest as it was. -/
def RegsHold (w : UWord) (e : UEnv) (q q' : Seq) (r : BitVec 32) : Prop :=
  ∀ k : BitVec 4, q'.reg k = if w.bop = 9 ∧ k = w.rb then e.data.setWidth 32 else if w.bop = 5 ∧ k = 0 then e.stat.setWidth 32
    else if k = w.rb then r else q.reg k

section
variable {ch : Nat} {w : UWord} {e : UEnv} {k : Bool} {q q' : Seq} (h : q'.lasting = (wordRegs ch w e k q).lasting)
include h

theorem regsHold_of_lasting : RegsHold w e q q' ((wordAlu ch w k q).v.getD (q.reg w.rb)) := by
  intro r
  rw [Seq.reg_congr (congrArg Prod.fst h), wordRegs, reg_busOp, reg_regOp]

theorem flags_of_lasting : (q'.zf, q'.nf, q'.cf) = (wordAlu ch w k q).fl.getD (q.zf, q.nf, q.cf) := by
  have hflags := congrArg (fun t => t.2.1) h
  have hbus := congrArg (fun t => t.1) (lasting_busOp w e (regOp ch w k q))
  exact hflags.trans (hbus.trans (by rw [regOp_eq]; rfl))

theorem fields_of_lasting : q'.fields = (if w.aop = 12 then tabSet 0 q.fields w.imm.toNat (q.reg w.ra) else q.fields) ∧
    q'.ldfs = (if w.aop = 11 then q.ldfs + 1 else q.ldfs) := by
  have hfields := congrArg (fun t => t.2.2.1) h
  have hbus := congrArg (fun t => t.2.1) (lasting_busOp w e (regOp ch w k q))
  have hreg : (regOp ch w k q).lasting.2.2.1 = (if w.aop = 12 then tabSet 0 q.fields w.imm.toNat (q.reg w.ra) else q.fields,
      if w.aop = 11 then q.ldfs + 1 else q.ldfs) := by
    rw [regOp_eq]
    rfl
  exact Prod.mk.inj (hfields.trans (hbus.trans hreg))

/-- An operation with a result that sets the flags. -/
theorem result_of_aluFlags {r : BitVec 32} {c : Bool} (ho : wordAlu ch w k q = aluFlags true r c) :
    RegsHold w e q q' r ∧ (q'.zf = decide (r = 0) ∧ q'.nf = r.getLsbD 31) ∧ q'.cf = c := by
  have hregs := regsHold_of_lasting h
  have hflags := flags_of_lasting h
  rw [ho] at hregs hflags
  obtain ⟨hz, hnc⟩ := Prod.mk.inj hflags
  obtain ⟨hn, hc⟩ := Prod.mk.inj hnc
  exact ⟨hregs, ⟨hz, hn⟩, hc⟩

/-- An operation that sets the flags alone. -/
theorem result_of_compare {r : BitVec 32} {c : Bool} (ho : wordAlu ch w k q = aluFlags false r c) :
    RegsHold w e q q' (q.reg w.rb) ∧ q'.zf = decide (r = 0) ∧ q'.nf = r.getLsbD 31 := by
  have hregs := regsHold_of_lasting h
  have hflags := flags_of_lasting h
  rw [ho] at hregs hflags
  obtain ⟨hz, hnc⟩ := Prod.mk.inj hflags
  exact ⟨hregs, hz, (Prod.mk.inj hnc).1⟩

/-- An operation that keeps the flags. -/
theorem result_of_keep {v : Option (BitVec 32)} (ho : wordAlu ch w k q = { v := v, fl := none }) :
    RegsHold w e q q' (v.getD (q.reg w.rb)) ∧ q'.zf = q.zf ∧ q'.nf = q.nf ∧ q'.cf = q.cf := by
  have hregs := regsHold_of_lasting h
  have hflags := flags_of_lasting h
  rw [ho] at hregs hflags
  obtain ⟨hz, hnc⟩ := Prod.mk.inj hflags
  obtain ⟨hn, hc⟩ := Prod.mk.inj hnc
  exact ⟨hregs, hz, hn, hc⟩

end

theorem wordAlu_of_aop {ch : Nat} {w : UWord} {k : Bool} {q : Seq} {n : BitVec 4} (h : w.aop = n) :
    wordAlu ch w k q = alu n.toNat (q.reg w.ra) w.imm (Config.hwField ch w.imm q.ldfs) k := by rw [wordAlu, h]

/-- Settles O51: what a plain word leaves is what its register and bus operations make of the sequencer; the register operation's two
results, the value and the flags, give each clause, and the rest of the word is its frame. -/
theorem microcodeRegisters : Obligations.MicrocodeRegisters := by
  unfold Obligations.MicrocodeRegisters
  intro p hp s ch b w0 e hplain
  refine (completes_run (exec_ucRow p hp ch w0 e s)).mpr ?_
  have hlast := lasting_ucWord hplain
  have hframe := wordFrame_ucWord hplain
  generalize ucWord ch (p.2 w0) e s.dev = d' at hlast hframe ⊢
  generalize p.2 w0 = w at hlast hframe ⊢
  obtain ⟨hfields, hldfs⟩ := fields_of_lasting hlast
  have hresult : ∀ {n : BitVec 4} {r : BitVec 32} {c : Bool}, w.aop = n → alu n.toNat ((seq s.dev ch).reg w.ra) w.imm
      (Config.hwField ch w.imm (seq s.dev ch).ldfs) (openCarry w s.dev) = aluFlags true r c →
      RegsHold w e (seq s.dev ch) (seq d' ch) r ∧ (seq d' ch).zf = decide (r = 0) ∧ (seq d' ch).nf = r.getLsbD 31 :=
    fun hn ho => (result_of_aluFlags hlast ((wordAlu_of_aop hn).trans ho)).imp_right And.left
  refine ⟨fun hn => ?_, fun hn => hresult hn rfl, fun hn => ?_, fun hn => ?_, fun hn => hresult hn rfl, fun hn => hresult hn rfl,
    fun hn => hresult hn rfl, fun hn => hresult hn rfl, fun hn => hresult hn rfl, fun hn => hresult hn rfl, fun hn => ?_, fun hn => ?_,
    fun hn => ?_, fun hn => hldfs.trans (if_neg hn), fun hn => hfields.trans (if_neg hn), hframe⟩
  · exact result_of_keep (v := none) hlast (wordAlu_of_aop hn)
  · exact result_of_keep hlast (wordAlu_of_aop hn)
  · exact result_of_aluFlags hlast (wordAlu_of_aop hn)
  · exact result_of_compare hlast (wordAlu_of_aop hn)
  · obtain ⟨hregs, hsame⟩ := result_of_keep hlast (wordAlu_of_aop hn)
    exact ⟨hregs, hsame, hldfs.trans (if_pos hn)⟩
  · obtain ⟨hregs, hsame⟩ := result_of_keep (v := none) hlast (wordAlu_of_aop hn)
    rw [if_pos hn] at hfields
    refine ⟨hregs, hsame, ?_, fun i hi => ?_⟩
    · exact hfields ▸ tabGet_tabSet_self ..
    · exact hfields ▸ tabGet_tabSet_ne _ _ _ _ hi

end Sys2Proof.Machine
end
